-- ==== Sys2Proof/Word.lean ====
section
/-! DEFINITION. The word types of the model: bytes, byte strings and the keys of sparse tables. Everything a test
could show wrong about them (byte order, checks, fields) stands in Machine/Bytes.lean. -/

namespace Sys2Proof

/-- One byte, the module's smallest addressable unit. -/
abbrev Byte := BitVec 8

/-- A byte string, lowest offset first. -/
abbrev Bytes := List Byte

/-- A sparse table: pairs of a key and a value, keys strictly rising, no entry equal to what an unlisted key
reads as (each table's default is named where it is read). -/
abbrev Table (α : Type) := List (Nat × α)

end Sys2Proof
end

