-- ==== Sys2Proof/Syntax.lean ====
section
/-! DEFINITION. The commands of the block: one constructor for each row of spec/opcode_table.json, with the operands the
spec gives the row. What the outside world or the media decides (a decode's outcome, a peer's answer, a measured
voltage) is an operand, so that a claim holds whatever it is. -/

namespace Sys2Proof

/-- The controller and command identifier that an NVMe command came under; its completion carries both. -/
structure Tag where
  ctrl : Nat
  cid : Nat
deriving DecidableEq, Repr

/-- What the power unit samples in one stage (R426, R429, R430, R438): bank voltage in 0.1 V, mean input power over
the last 1,024 stages in W, composite and further temperatures in °C, the trim units by which the trim loop
wishes to move the oscillator, and its frequency error against the recovered line clock in parts per 10⁹ (R46). -/
structure Samples where
  vbank : Nat
  meanPower : Nat
  temps : List Nat
  trimWish : Int
  lineErr : Int
deriving DecidableEq, Repr

/-- The clock domains that switch sources (R48). -/
inductive Domain where
  | core | flash | dram
deriving DecidableEq, Repr

/-- The class a die gives a code word it sensed (R307). -/
inductive CwClass where
  | clean | erased | dirty
deriving DecidableEq, Repr

/-- The address of one code word (R303): plane and code word in fields of their own. -/
structure CwAddr where
  die : Nat
  plane : Nat
  block : Nat
  page : Nat
  cw : Nat
deriving DecidableEq, Repr

/-- A PTP Sync message, or the Follow_Up that completes it, as the stage unit measures it: the PTP time in ns of the own boundary that
began the present stage, before the asymmetry of R388, and the frequency error in parts per 10⁹. -/
structure PtpSync where
  domain : Nat
  logInterval : Int
  master : Nat
  seq : Nat
  freqErr : Int
  time : Nat
deriving DecidableEq, Repr

/-- An Announce message's data set, compared by the default best master clock algorithm of IEEE 1588 (R388). -/
structure PtpAnnounce where
  domain : Nat
  priority1 : Nat
  clockClass : Nat
  accuracy : Nat
  variance : Nat
  priority2 : Nat
  identity : Nat
  steps : Nat
deriving DecidableEq, Repr

/-- Number formats of grid, vector unit and tensors, by the format codes of R132. -/
inductive Fmt where
  | fp32 | bf16 | fp16 | e5m2 | e4m3 | e2m1 | int8 | int4 | e8m0 | int32 | uint32 | uint64 | byte
deriving DecidableEq, Repr

/-- Where a tile's 64 column scales come from (R55, R97): none declared, block scales in BF16 or E8M0, or one
tensor scale widened into all columns. -/
inductive ScaleSrc where
  | none | bf16 | e8m0 | tensor
deriving DecidableEq, Repr

/-- A transposed load (R60): SRAM address of the tile's 64 lines, its format, its scales. -/
structure TileLoad where
  base : Nat
  fmt : Fmt
  scaleBase : Nat
  scale : ScaleSrc
deriving DecidableEq, Repr

/-- A matrix instruction (R57, R64): M rows of K elements at xBase (rows xStride bytes apart), K × N weights as tiles
in issue order (chunk by chunk, within a chunk the column tiles ascending), accumulators at yBase (rows yStride bytes
apart); accIn leaves ACC_INIT clear on the first chunk. -/
structure MatInstr where
  m : Nat
  k : Nat
  n : Nat
  xBase : Nat
  xStride : Nat
  xFmt : Fmt
  tiles : List TileLoad
  yBase : Nat
  yStride : Nat
  accIn : Bool
deriving DecidableEq, Repr

/-- The vector unit's instructions over 64 FP32 lanes (R66, R107, R109). -/
inductive VecOp where
  | add | sub | mul | fma | div | max | min
  | cmpEq | cmpNe | cmpLt | cmpLe | select
  | neg | abs | recip | sqrt | rsqrt | exp | exp2 | log | log2 | tanh | sigmoid | sin | cos
  | convert (src dst : Fmt)
deriving DecidableEq, Repr

/-- A vector instruction: SRAM addresses of its operand and result lines of 256 bytes. -/
structure VecInstr where
  op : VecOp
  a : Nat
  b : Nat
  c : Nat
  dst : Nat
deriving DecidableEq, Repr

/-- The unit queues of a coach (R73). -/
inductive CoachUnit where
  | grid | vector | load | send
deriving DecidableEq, Repr

/-- What a source station asks the fabric to carry (R84, R86). -/
structure CarriageReq where
  dst : Nat
  role : Nat
  kind : Nat
  address : Nat
  tag : Nat
  relayCount : Nat
  relayDir : Nat
  ack : Bool
  last : Bool
  payload : Bytes
deriving DecidableEq, Repr

/-- An instruction in a unit's queue (R60, R64, R66, R67, R73). -/
inductive UnitInstr where
  | matrix (i : MatInstr)
  | vector (i : VecInstr)
  | laneSum (src dst : Nat)
  | load (l : TileLoad)
  | carriage (r : CarriageReq)
deriving DecidableEq, Repr

/-- The unit that takes an instruction. -/
def UnitInstr.unit : UnitInstr → CoachUnit
  | .matrix _ => .grid
  | .vector _ | .laneSum _ _ => .vector
  | .load _ => .load
  | .carriage _ => .send

/-- What the instruction that a context issues does to the context (R72 to R74) and, for a query context, which step
of the walk it is (R255, R257). The instructions of a context have no encoding in the spec; their effect on the
sequencer's state is the operand. -/
inductive Issue where
  /-- goes to its unit's queue; the context stays READY, or waits where the queue is full -/
  | toUnit (i : UnitInstr)
  /-- depends on data not yet in SRAM: awaited tag, replies outstanding, stage count at which the wait lapses -/
  | await (tag replies lapse : Nat)
  /-- runs on the sequencer itself: the general registers and stream descriptors it writes (R75) -/
  | scalar (gpr : List (Nat × BitVec 64)) (stream : List (Nat × BitVec 128))
  /-- reaches a fault named in the route contract -/
  | fault (code : Nat)
  /-- one hop of the walk of R255: whether this try of the graph read missed, and which neighbours' codes missed -/
  | hop (missed : Bool) (noCodes : List Nat)
  /-- the re-rank of R257: which candidates' reads missed in this try -/
  | rerank (missed : List Nat)
deriving DecidableEq, Repr

/-- The internal registers the spec names (R9's prefixes). -/
inductive Reg where
  | stgYoke | clkTrim | coaRole | fabDrop | flaPgmode | drmWin | drmEcc | drmFill | drmTest | drmCheckval | drmSynd
  | portLink | pwrBank
deriving DecidableEq, Repr

/-- The kinds of timetable entry of R188. -/
inductive EntryKind where
  | coach | dram | dieRead | dieReadOpen | programOpen | seat | seatOpen
deriving DecidableEq, Repr

/-- A timetable entry of R188 with what the firmware's own copy adds: the code words a fixed read or its seat names,
and the filter slot of its seat (R284). -/
structure TtEntry where
  stage : Nat
  unit : Nat
  kind : EntryKind
  span : Nat
  amount : Nat
  stride : Nat
  rep : Nat
  op : Nat
  group : Nat
  words : List CwAddr
  slot : Nat
deriving DecidableEq, Repr

/-- Carriages that a timetable holds links for: in a stage of the pass and its repeats, so many carriages of a payload length from a station
to a station (R166, R169). The firmware's own copy of a timetable holds them; the report does not (R188). -/
structure LinkHold where
  stage : Nat
  stride : Nat
  rep : Nat
  src : Nat
  dst : Nat
  count : Nat
  length : Nat
deriving DecidableEq, Repr

/-- What the binder's placement gives a bind (R163 to R168): the teams used, pass length and stride, the entries, the link holds. -/
structure TtPlan where
  teams : List Nat
  passStages : Nat
  passStride : Nat
  entries : List TtEntry
  links : List LinkHold
deriving DecidableEq, Repr

/-- The binder's verdict on a bind (R173, R176). -/
inductive BindEnd where
  | fits (p : TtPlan)
  | refuse (reason : Nat)
deriving DecidableEq, Repr

/-- Deadline misses by the rows of R209. -/
inductive Miss where
  | rerank (item : Nat) | hop | codes (ordinals : List Nat)
  | window (tensor block : Nat) | stageIn (tensor block : Nat)
  | stall
deriving DecidableEq, Repr

/-- Objects of R482: kind and index. -/
structure Obj where
  kind : Nat
  index : Nat
deriving DecidableEq, Repr

/-- Error classes of R482. -/
inductive ErrClass where
  | note | recoverable | severe | fatal
deriving DecidableEq, Repr

/-- Outcome of patrol's verify of a plane block (R363). -/
inductive Verify where
  | pass | refresh | weak
deriving DecidableEq, Repr

/-- A node of a built index generation: the graph is the module's own choice (R263), so the build's end brings it. -/
structure GraphNode where
  slot : Nat
  neighbours : List Nat
  code : Bytes
deriving DecidableEq, Repr

/-- What a build's end brings: result code of R264, entry ordinal, nodes in ordinal order, codebook bytes, skipped
slots. -/
structure Built where
  result : Nat
  entry : Nat
  nodes : List GraphNode
  codebook : Bytes
  skipped : Nat
deriving DecidableEq, Repr

/-- What PEER SET's connection to one peer found (R268): not reachable or refused, a descriptor that differs, or a
shard session opened. -/
inductive PeerReply where
  | down | refused (descriptor : Bytes) | opened (session : Nat) (descriptor : Bytes)
deriving DecidableEq, Repr

/-- One answer item (R297): identifier and FP32 score bits. -/
structure Item where
  id : Nat
  score : BitVec 32
deriving DecidableEq, Repr

/-- A peer's answer list as FETCH brings it to the lead (R269, R272). -/
structure PeerList where
  stamp : Nat
  generation : Nat
  flags : Nat
  items : List Item
deriving DecidableEq, Repr

/-- What page set a replay or a media scan finds on the media (R325, R366): superblock, row, channel, the stream and
stamp of its META, its class. -/
structure FoundSet where
  sb : Nat
  row : Nat
  chan : Nat
  written : Bool
deriving DecidableEq, Repr

/-- The Fabrics Connect fields (R391 to R394). -/
structure ConnectArgs where
  discovery : Bool
  qid : Nat
  qsize : Nat
  ctrlId : Nat
  hostId : Nat
  hostNqn : Bytes
  kato : Nat
deriving DecidableEq, Repr

/-- The commands: the rows of spec/opcode_table.json in the table's order, those with operands first. -/
inductive Instr where
  | stageBoundary (smp : Samples)
  | dieSenseComplete (die : Nat) (dirty erased : List Nat)
  | dieProgramComplete (die : Nat) (failed : List Nat)
  | dieEraseComplete (die : Nat) (failed : List Nat)
  | dirtyRecoveryStep (hub : Nat) (ok : Bool)
  | syncMessage (m : PtpSync) (twoStep : Bool)
  | followUpMessage (m : PtpSync)
  | announceMessage (a : PtpAnnounce)
  | delayRespMessage (domain master seq : Nat) (delay logInterval : Int)
  | yokeForwardJump (smp : Samples)
  | domainSwitch (d : Domain) (toRoot : Bool)
  | pllRelockTryEnd (locked : Bool)
  | matrixInstruction (coach t : Nat) (i : MatInstr) (upto : Option Nat)
  | stationarySwap (coach t : Nat)
  | transposedLoad (coach t : Nat) (l : TileLoad)
  | vectorInstruction (coach : Nat) (i : VecInstr)
  | crossLaneSum (coach src dst : Nat)
  | sequencerIssue (coach : Nat) (pc : Nat) (i : Issue)
  | contextWake (coach ctx : Nat)
  | contextFree (coach ctx : Nat)
  | contextRestart (coach ctx : Nat)
  | carriageSend (src : Nat) (r : CarriageReq)
  | carriageWrite (st : Nat) (c : Bytes)
  | carriageRead (st : Nat) (c : Bytes)
  | carriageReply (st : Nat) (c : Bytes)
  | carriageWriteAck (st : Nat) (c : Bytes)
  | carriageSeat (st : Nat) (c : Bytes)
  | carriageFill (st : Nat) (c : Bytes)
  | carriageAnswer (st : Nat) (c : Bytes)
  | carriageControl (st : Nat) (c : Bytes)
  | carriageSave (st : Nat) (c : Bytes)
  | carriageError (st : Nat) (c : Bytes)
  | dramScrub (pkg : Nat)
  | fabDropFold (st : Nat)
  | drmEccFold (pkg : Nat)
  | roleWrite (team : Nat) (assigned : Bool) (partition : Nat)
  | flaPgmodeService (hub key : Nat)
  | flaPgmodeRecovery (hub key : Nat)
  | flaPgmodeTest (hub key : Nat)
  | recoveryRawProgram (a : CwAddr) (raw : Bytes)
  | drmTestWritePath (pkg key path : Nat)
  | drmTestRawRead (pkg key : Nat) (on : Bool)
  | registerWrite (r : Reg) (unit : Nat) (v : BitVec 32)
  | routeLoad (tag : Tag) (sess handle : Nat) (first : Bool) (offset : Nat) (piece : Bytes)
  | routeLoadExtent (tag : Tag) (sess handle nsid lba blocks : Nat)
  | run (tag : Tag) (sess handle : Nat) (block : Bytes)
  | bind (id : Nat)
  | bindComplete (id : Nat) (e : BindEnd)
  | bindWaitExpiry (id : Nat)
  | passStart (sess : Nat)
  | runComplete (sess : Nat)
  | opMatmul (sess op : Nat)
  | opBmatmul (sess op : Nat)
  | opAdd (sess op : Nat)
  | opSub (sess op : Nat)
  | opMul (sess op : Nat)
  | opDiv (sess op : Nat)
  | opFma (sess op : Nat)
  | opMax (sess op : Nat)
  | opMin (sess op : Nat)
  | opCmp (sess op : Nat)
  | opSelect (sess op : Nat)
  | opUnary (sess op : Nat)
  | opGated (sess op : Nat)
  | opReduce (sess op : Nat)
  | opSoftmax (sess op : Nat)
  | opLayernorm (sess op : Nat)
  | opRmsnorm (sess op : Nat)
  | opAttention (sess op : Nat)
  | opRope (sess op : Nat)
  | opRotate (sess op : Nat)
  | opQuant (sess op : Nat)
  | opDequant (sess op : Nat)
  | opConvert (sess op : Nat)
  | opDist (sess op : Nat)
  | opCodeDist (sess op : Nat)
  | opTopk (sess op : Nat)
  | opGather (sess op : Nat)
  | opPut (sess op : Nat)
  | opFilter (sess op : Nat)
  | opScanRead (sess op : Nat)
  | opNsRead (sess op : Nat)
  | opNsWrite (sess op : Nat)
  | opEmit (sess op : Nat)
  | opAccum (sess op : Nat)
  | stagedWriteEnterBuffer (sess : Nat)
  | timetableResume (sess : Nat)
  | emitResume (sess : Nat)
  | waitLapse (coach ctx : Nat) (m : Miss)
  | openReadLapse (die stage : Nat)
  | scanReread (id word : Nat) (landed : Bool)
  | unitLeavesService (o : Obj)
  | sessionOpen (tag : Tag) (major : Nat) (data : Bytes)
  | sessionOpenReclaim (tag : Tag) (major sess key : Nat)
  | granuleZeroingComplete (sess : Nat)
  | sessionCloseDrain (tag : Tag) (sess : Nat)
  | sessionCloseAbort (tag : Tag) (sess : Nat)
  | sessionFree (sess : Nat)
  | quotaSet (tag : Tag) (sess : Nat) (data : Bytes)
  | quotaSetTeamsReplace (sess : Nat)
  | sliceEnd (part : Nat)
  | switchDeferLimit (part : Nat)
  | partitionSwitch (part : Nat)
  | switchRestoreComplete (part : Nat)
  | reclaimWindowExpiry (sess : Nat)
  | query (tag : Tag) (sess : Nat) (data : Bytes)
  | queryAdmit (id : Nat)
  | peerAnswerFetch (id member : Nat) (r : Option (List PeerList))
  | peerWaitExpiry (id : Nat)
  | answerRecordComplete (tree : Nat)
  | indexBuild (tag : Tag) (sess nsid : Nat) (discard : Bool)
  | buildEnd (nsid : Nat) (b : Built)
  | indexSwitch (tag : Tag) (sess nsid : Nat)
  | generationSwitch (nsid : Nat)
  | generationFree (nsid gen : Nat)
  | codeLayerReload (nsid gen : Nat)
  | peerSet (tag : Tag) (data : Bytes) (replies : List PeerReply)
  | scan (tag : Tag) (sess : Nat) (data : Bytes)
  | scanComplete (id : Nat)
  | fetch (tag : Tag) (sess cls : Nat) (byId keep : Bool) (queryId after len : Nat)
  | write (tag : Tag) (nsid slba nlb prinfo : Nat) (fua : Bool) (data : Bytes)
  | writeLocate (tag : Tag) (nsid slba nlb prinfo : Nat) (sgl : Option Nat) (data : Bytes)
  | read (tag : Tag) (nsid slba nlb prinfo : Nat)
  | readLocator (tag : Tag) (nsid slba nlb prinfo bufLen : Nat) (loc : Bytes) (decodes : Bool)
  | flush (tag : Tag) (nsid : Nat)
  | writeZeroes (tag : Tag) (nsid slba nlb prinfo : Nat)
  | datasetManagement (tag : Tag) (nsid : Nat) (dealloc : Bool) (nr : Nat) (data : Bytes)
  | leafLoadComplete (ns leaf : Nat) (ok : Bool)
  | gcCopy (ns unit : Nat)
  | gcVerify (ns unit : Nat) (ok : Bool)
  | superblockErase (sb : Nat)
  | superblockCloseVerify (sb : Nat) (rewrite lost : List (Nat × Nat))
  | patrolVerify (pb : Nat) (v : Verify) (lost : List (Nat × Nat))
  | journalMark (clean : Bool)
  | mapRebuild (sets : List FoundSet)
  | linkTrain (locked : List Nat)
  | pluggableInsert (watts : Nat)
  | arpRequest (target sender : Nat)
  | neighbourDiscovery (target sender : Nat)
  | icmpEcho (v6 : Bool) (dest sender : Nat) (payload : Bytes)
  | frameDrop (len : Nat)
  | icreq (conn port : Nat) (hdgst ddgst : Bool)
  | tcpPduReceive (conn : Nat) (digestOk : Bool) (len : Nat)
  | rdmaConnectRequest (qp port : Nat)
  | cnpReceived (qp : Nat)
  | connect (tag : Tag) (conn : Nat) (a : ConnectArgs)
  | propertyGet (tag : Tag) (offset : Nat)
  | ccEnableClear (tag : Tag)
  | ccShutdownNotification (tag : Tag) (abrupt : Bool)
  | disconnect (tag : Tag)
  | controllerEnd (ctrl : Nat)
  | keepAlive (tag : Tag)
  | keepAliveExpiry (ctrl : Nat)
  | identify (tag : Tag) (cns nsid : Nat)
  | getLogPage (tag : Tag) (lid nsid offset len : Nat) (rae : Bool)
  | getLogPageEventLog (tag : Tag) (offset len : Nat) (rae : Bool)
  | getLogPageHealth (tag : Tag) (offset len : Nat) (rae : Bool)
  | getLogPageFuses (tag : Tag) (offset len : Nat) (rae : Bool)
  | getLogPageTopology (tag : Tag) (offset len : Nat) (rae : Bool)
  | getLogPageTimetable (tag : Tag) (lsp lsi offset len : Nat) (rae : Bool)
  | getFeatures (tag : Tag) (fid sel : Nat)
  | setFeatures (tag : Tag) (fid : Nat) (sv : Bool) (dw11 : Nat)
  | setFeaturesYoke (tag : Tag) (sv : Bool) (dw11 : BitVec 32)
  | setFeaturesTimeSlice (tag : Tag) (sv : Bool) (dw11 : BitVec 32)
  | setFeaturesDirtyCap (tag : Tag) (sv : Bool) (dw11 : BitVec 32)
  | setFeaturesDeadlinePolicy (tag : Tag) (sv : Bool) (dw11 : BitVec 32)
  | setFeaturesReclaimWindow (tag : Tag) (sv : Bool) (dw11 : BitVec 32)
  | asyncEventRequest (tag : Tag)
  | abort (tag : Tag) (cid : Nat)
  | invalidOpcode (tag : Tag) (admin : Bool) (opcode : Nat)
  | namespaceCreate (tag : Tag) (flbas nsze ncap : Nat) (header : Bytes)
  | namespaceDelete (tag : Tag) (nsid : Nat)
  | namespaceDeleteEffect (nsid : Nat)
  | namespaceDeleteComplete (nsid : Nat)
  | formatNvm (tag : Tag) (nsid lbaf ses pi pil : Nat)
  | formatEffect (nsid : Nat)
  | formatNvmFull (tag : Tag)
  | securitySetPassword (tag : Tag) (data : Bytes)
  | securityLock (tag : Tag) (data : Bytes)
  | securityUnlock (tag : Tag) (data : Bytes)
  | securityReceiveLockState (tag : Tag) (nsid alloc : Nat)
  | securityReceiveSessionKey (tag : Tag) (sess alloc : Nat)
  | spdmGetVersion (tag : Tag)
  | spdmGetCapabilities (tag : Tag)
  | spdmNegotiateAlgorithms (tag : Tag)
  | spdmGetDigests (tag : Tag)
  | spdmGetCertificate (tag : Tag) (slot offset len : Nat)
  | spdmChallenge (tag : Tag) (slot : Nat) (nonce : Bytes)
  | spdmGetMeasurements (tag : Tag) (index : Nat) (nonce : Bytes)
  | fuseRead (fuses : List Nat)
  | dramTraining (failed : List Nat)
  | firmwareImageVerify (signatureOk : Bool)
  | ownerChainCheck (authOk : Bool)
  | flashChannelTraining (failed : List Nat)
  | dieIdentification (failed : List Nat)
  | portLaneTest (failed : List Nat)
  | coachSelfTest (failedCoaches failedRouters failedLinks failedRing : List Nat)
  | bankMeasureComplete (cMeas : Nat)
  | railFault (osfp : Bool)
  | mailboxMessage (sender receiver : Nat) (msg : Bytes)
  | componentRestart (comp cause : Nat)
  | componentRestartComplete (comp : Nat) (keepOk : Bool)
  | mainWatchdogExpiry (coreNo : Nat)
  | fallbackWatchdogExpiry (coreNo : Nat)
  | errorRaise (cls : ErrClass) (o : Obj)
  | errorHandle (ended : Bool)
  | unitRetest (pass : Bool)
  /-- the peer by its namespace and member number -/
  | peerConnectionLoss (sess : Nat) (member : Nat × Nat)
  | rdmaAckTimeout (qp : Nat)
  | ecnMarkedPacket (qp : Nat)
  | pfcPauseFrame (priority : Nat) (pause : Bool)
  | ccEnableSet (tag : Tag)
  | configBusTransfer (write : Bool) (addr len : Nat) (data : Bytes)
  | delayReqSend
  | yokeHoldoverTimeout
  | yokeSyncLossTimeout
  | servoLockTimeout
  | ptpFirstWaitExpiry
  | stampStart
  | rootPllLock
  | rootPllLoss
  | writeCapRelease
  | linkWidthTimeout
  | linkLoss
  | pluggableRemove
  | peerKeepAliveSend
  | bringUpStart
  | configRecordRead
  | dramFill
  | topologyCheck
  | mainFirmwareStart
  | mediaScan
  | mediaWork
  | ready
  | bankMeasure
  | bankChargeTimeout
  | powerLoss
  | overvoltage
  | flushSequenceStart
  | powerOff
  | seatedOpen
  | bankBleedSwitch
  | thermalShutdown
  | holdAssert
  | holdRelease
  | fatalAction
  | drbgReseed
  | standbyRailOff
  | bankChargeComplete
  | holdupEnergyExhausted
deriving DecidableEq, Repr

end Sys2Proof
end

