-- ==== Sys2Proof/Config.lean ====
section
/-! DEFINITION. What the spec leaves open. Every constant here has no body: nothing in Lean can evaluate it or prove a
value of it, so a claim holds whatever it is. Constants the spec fixes stand where they are used. -/

namespace Sys2Proof

/-- Data the media or an unchecked host error leaves open (R4, R325): the n-th draw of free bytes at an offset. -/
opaque Config.freeByte : Nat → Nat → Byte

/-- A free number: the n-th draw (choices that are the module's own). -/
opaque Config.freeNat : Nat → Nat

/-- Core cycles, in steps of the stamp generator, that pass between two requests for a stamp in one stage (R29): the n-th draw. -/
opaque Config.corePace : Nat → Nat

/-- Output of the security core's CTR_DRBG (R496): 512 bits of the n-th draw. -/
opaque Config.drbg : Nat → BitVec 512

/-- A value of the mathematical function that the refinement of Machine/Num.lean could not separate from a tie; the
argument is the function's code and operand bits. -/
opaque Config.unseparated : Nat → Nat → Nat

/-- ML-DSA-87 signature of a message under the key of a seed (R490, R491), uninterpreted. -/
opaque Config.sign : Nat → Bytes → Bytes

/-- Certificates of SPDM slot 0 (R490): root, device and the alias certificate of the given power-on. -/
opaque Config.certChain : Nat → Bytes

/-- SHA3-512 digest of the factory ML-DSA-87 public key in the boot ROM, a number of 512 bits (R489). -/
opaque Config.factoryDigest : BitVec 512

/-- Measurement of the boot ROM (R491). -/
opaque Config.bootRom : BitVec 512

/-- Whether a signature by the factory key verifies over a message (R461, R489). -/
opaque Config.factorySigned : Bytes → Bytes → Bool

/-- The 448 parity bytes of a code word's DATA and META under the LDPC code, whose matrix the spec does not give (R307,
R309). -/
opaque Config.ldpcParity : Bytes → Bytes

/-- DATA as it lies on the media: AES-XTS of the key's number, the tweak and the data (R497), uninterpreted. -/
opaque Config.cipher : Nat → Nat → Bytes → Bytes

/-- Stored DATA read under a key other than its own (R497): AES-XTS of the key, tweak and data, uninterpreted. -/
opaque Config.garble : Nat → Bytes → Bytes

end Sys2Proof
end

