-- ==== Sys2Proof/Machine/Bytes.lean ====
section
/-! DEFINITION. Byte order, bit fields, the two CRCs of the spec and SHA3-512. -/

namespace Sys2Proof.Machine

/-- Little-endian value of a byte string (R3). -/
def leNat : Bytes → Nat
  | [] => 0
  | b :: bs => b.toNat + 256 * leNat bs

/-- The n bytes of a number, little-endian (R3). -/
def toLe : Nat → Nat → Bytes
  | 0, _ => []
  | n + 1, x => BitVec.ofNat 8 x :: toLe n (x / 256)

/-- Bytes off to off + n − 1. -/
def slice (bs : Bytes) (off n : Nat) : Bytes := (bs.drop off).take n

/-- The little-endian field of n bytes at an offset; bytes beyond the end read 0. -/
def field (bs : Bytes) (off n : Nat) : Nat := leNat (slice bs off n)

/-- Bits [hi:lo] (R3). -/
def bits (x hi lo : Nat) : Nat := (x / 2 ^ lo) % 2 ^ (hi + 1 - lo)

/-- One bit of a number. -/
def bit (x i : Nat) : Bool := (x / 2 ^ i) % 2 == 1

/-- A number whose set bits are the listed ones. -/
def maskOf : List Nat → Nat
  | [] => 0
  | i :: l => 2 ^ i ||| maskOf l

/-- Quotient rounded up. -/
def ceilDiv (a b : Nat) : Nat := (a + b - 1) / b

/-- A number rounded up to a multiple of b. -/
def roundUp (a b : Nat) : Nat := ceilDiv a b * b

/-- Two's complement value of the low n bits. -/
def signed (n x : Nat) : Int := if x % 2 ^ n < 2 ^ (n - 1) then (x % 2 ^ n : Int) else (x % 2 ^ n : Int) - (2 ^ n : Nat)

/-- Low n bits of an integer, as two's complement. -/
def unsigned (n : Nat) (x : Int) : Nat := (x % ((2 ^ n : Nat) : Int)).toNat

/-- One bit of the CRC-32C of R127. -/
def crc32cBit (c : BitVec 32) : BitVec 32 := if c.getLsbD 0 then (c >>> 1) ^^^ 0x82F63B78 else c >>> 1

def crc32cByte (c : BitVec 32) (b : Byte) : BitVec 32 :=
  let c := c ^^^ b.setWidth 32
  crc32cBit (crc32cBit (crc32cBit (crc32cBit (crc32cBit (crc32cBit (crc32cBit (crc32cBit c)))))))

/-- CRC-32C (R127). -/
def crc32c (bs : Bytes) : Nat := (~~~ (bs.foldl crc32cByte (0xFFFFFFFF : BitVec 32))).toNat

def crc16Bit (c : BitVec 16) : BitVec 16 := if c.getLsbD 15 then (c <<< 1) ^^^ 0x1021 else c <<< 1

def crc16Byte (c : BitVec 16) (b : Byte) : BitVec 16 :=
  let c := c ^^^ (b.setWidth 16 <<< 8)
  crc16Bit (crc16Bit (crc16Bit (crc16Bit (crc16Bit (crc16Bit (crc16Bit (crc16Bit c)))))))

/-- The waybill's CRC-16 (R85) of a byte string. -/
def crc16 (bs : Bytes) : Nat := (bs.foldl crc16Byte (0xFFFF : BitVec 16)).toNat

/-- One bit of the CRC-6 of a map entry (R333), highest bit first. -/
def crc6Bit (c : Nat) (b : Bool) : Nat :=
  let inBit := (c / 32 % 2 == 1) != b
  let c := (c * 2) % 64
  if inBit then Nat.xor c 3 else c

/-- CHECK of a map entry (R333): bits 63 to 0 of the entry with CHECK taken as zero. -/
def entryCheck (e : Nat) : Nat :=
  let e := e - (bits e 39 34) * 2 ^ 34
  (List.range 64).foldl (fun c i => crc6Bit c (bit e (63 - i))) 0x3F

/-- A structure's bytes with its CRC-32C appended. -/
def withCrc (bs : Bytes) : Bytes := bs ++ toLe 4 (crc32c bs)

/-- n zero bytes. -/
def zeros (n : Nat) : Bytes := List.replicate n 0

/-- A byte string cut or zero-filled to n bytes. -/
def fit (n : Nat) (bs : Bytes) : Bytes := bs.take n ++ zeros (n - bs.length)

/-- Trailing zeros cut: the canonical form of stored data whose missing bytes read zero. -/
def trim (bs : Bytes) : Bytes := (bs.reverse.dropWhile (· == 0)).reverse

/-- Bytes written over a string at an offset, the string zero-filled where it is shorter. -/
def overlay (bs : Bytes) (off : Nat) (new : Bytes) : Bytes :=
  fit off bs ++ new ++ bs.drop (off + new.length)

/-- Bytewise exclusive OR, the shorter string zero-filled. -/
def xorBytes : Bytes → Bytes → Bytes
  | [], b => b
  | a, [] => a
  | x :: a, y :: b => (x ^^^ y) :: xorBytes a b

/-! ### SHA3-512 (FIPS 202), which R326 and R490 use -/

/-- A plane of the sponge's state: five lanes of one y. -/
abbrev Plane := List (BitVec 64)

def xorPlanes (p q : Plane) : Plane := List.zipWith (fun u v => u ^^^ v) p q

/-- Every lane mixed with the parities of the columns beside it (theta). -/
def mixColumns (s : List Plane) : List Plane :=
  let parity := s.foldl xorPlanes (List.replicate 5 0)
  let effect := xorPlanes (parity.rotateLeft 4) ((parity.rotateLeft 1).map fun w => w.rotateLeft 1)
  s.map (xorPlanes effect)

/-- The walk of the lanes from (1, 0): at step t lane (x, y) is turned by (t + 1)(t + 2) / 2 and moves to (y, 2 x + 3 y) (rho, pi). -/
def laneWalk : Nat → Nat → Nat → Nat → List (Nat × Nat × Nat)
  | 0, _, _, _ => []
  | n + 1, t, x, y => (x + 5 * y, y + 5 * ((2 * x + 3 * y) % 5), (t + 1) * (t + 2) / 2 % 64) :: laneWalk n (t + 1) y ((2 * x + 3 * y) % 5)

def moveLanes (s : List Plane) : List Plane :=
  let flat := s.flatten
  let moved := (laneWalk 24 0 1 0).foldl (fun l m => l.set m.2.1 ((flat.getD m.1 0).rotateLeft m.2.2)) flat
  (List.range 5).map fun y => (moved.drop (5 * y)).take 5

/-- Every lane mixed with the two that follow it in its plane (chi). -/
def mixPlane (p : Plane) : Plane := xorPlanes p (List.zipWith (fun u v => ~~~u &&& v) (p.rotateLeft 1) (p.rotateLeft 2))

/-- Bits of the generator of the round constants, x⁸ + x⁶ + x⁵ + x⁴ + 1. -/
def roundBits : Nat → Nat → List Nat
  | 0, _ => []
  | n + 1, r => r % 2 :: roundBits n (if r < 128 then 2 * r else Nat.xor (2 * r - 256) 0x71)

/-- Constant of a round: its seven bits at places 2^j − 1 (iota). -/
def roundConstant (k : Nat) : BitVec 64 :=
  BitVec.ofNat 64 ((((roundBits 168 1).drop (7 * k)).take 7).zipIdx.map fun b => b.1 * 2 ^ (2 ^ b.2 - 1)).sum

def spongeRound (s : List Plane) (k : Nat) : List Plane :=
  match (moveLanes (mixColumns s)).map mixPlane with
  | (w :: p) :: rest => ((w ^^^ roundConstant k) :: p) :: rest
  | l => l

def permute (s : List Plane) : List Plane := (List.range 24).foldl spongeRound s

/-- Blocks of 72 bytes absorbed, the first argument counting those left. -/
def absorb : Nat → List Plane → Bytes → List Plane
  | 0, s, _ => s
  | n + 1, s, m =>
    let block := (List.range 5).map fun y => (List.range 5).map fun x =>
      if x + 5 * y < 9 then BitVec.ofNat 64 (field m (8 * (x + 5 * y)) 8) else 0
    absorb n (permute (List.zipWith xorPlanes s block)) (m.drop 72)

/-- SHA3-512: the message with its suffix 01 and padding, absorbed; the first eight lanes. -/
def sha3_512 (m : Bytes) : Bytes :=
  let gap := 72 - m.length % 72
  let tail : Bytes := (0x06 :: zeros (gap - 1)).set (gap - 1) (if gap = 1 then 0x86 else 0x80)
  ((absorb (m.length / 72 + 1) (List.replicate 5 (List.replicate 5 0)) (m ++ tail)).flatten.take 8).flatMap fun w => toLe 8 w.toNat

end Sys2Proof.Machine
end

