-- ==== Sys2Proof/Machine/Num.lean ====
section
/-! DEFINITION. Number formats, exact values, the one rounding rule and every conversion (R93 to R109, R118, R119,
R500). A value is decoded to an exact rational, computed exactly, and rounded once. -/

namespace Sys2Proof.Machine

/-- An exact value: NaN, an infinity, or a signed rational of denominator d + 1 (the sign stands apart, for −0). -/
inductive Val where
  | nan
  | inf (neg : Bool)
  | fin (neg : Bool) (num den1 : Nat)
deriving DecidableEq, Repr

/-- A finite value num / den (den at least 1). -/
def Val.mk (neg : Bool) (num den : Nat) : Val := .fin neg num (den - 1)

/-- Magnitude 2^e. -/
def pow2Val (neg : Bool) (e : Int) : Val :=
  if 0 ≤ e then .fin neg (2 ^ e.toNat) 0 else .mk neg 1 (2 ^ (-e).toNat)

/-! ### Formats (R93, R94) -/

/-- Exponent bits, mantissa bits and bias of a floating-point format. -/
structure FpFmt where
  e : Nat
  m : Nat
  bias : Nat
deriving DecidableEq, Repr

def fpFmt : Fmt → Option FpFmt
  | .fp32 => some ⟨8, 23, 127⟩
  | .bf16 => some ⟨8, 7, 127⟩
  | .fp16 => some ⟨5, 10, 15⟩
  | .e5m2 => some ⟨5, 2, 15⟩
  | .e4m3 => some ⟨4, 3, 7⟩
  | .e2m1 => some ⟨2, 1, 1⟩
  | _ => none

/-- Bits of an element (R93, R95, R132). -/
def fmtBits : Fmt → Nat
  | .fp32 | .int32 | .uint32 => 32
  | .bf16 | .fp16 => 16
  | .e5m2 | .e4m3 | .int8 | .e8m0 | .byte => 8
  | .e2m1 | .int4 => 4
  | .uint64 => 64

/-- Value of a finite or special floating-point code (R94). Only FP32, BF16, FP16 and E5M2 have infinities; E4M3's
all-ones code is its one NaN; every E2M1 code is finite. -/
def decodeFp (fmt : Fmt) (f : FpFmt) (x : Nat) : Val :=
  let neg := bit x (f.e + f.m)
  let ex := bits x (f.e + f.m - 1) f.m
  let ma := x % 2 ^ f.m
  let top := ex = 2 ^ f.e - 1
  if fmt = .e4m3 && top && ma = 7 then .nan
  else if top && fmt ≠ .e4m3 && fmt ≠ .e2m1 then (if ma = 0 then .inf neg else .nan)
  else
    let n := if ex = 0 then ma else 2 ^ f.m + ma
    let sh := if ex = 0 then 1 else ex      -- value n × 2^(sh − bias − m)
    if f.bias + f.m ≤ sh then .fin neg (n * 2 ^ (sh - f.bias - f.m)) 0
    else .mk neg n (2 ^ (f.bias + f.m - sh))

/-- Value of a code (R94, R95, R97, R132). -/
def decode (fmt : Fmt) (x : Nat) : Val :=
  match fpFmt fmt with
  | some f => decodeFp fmt f x
  | none =>
    match fmt with
    | .int8 => let v := signed 8 x; .fin (v < 0) v.natAbs 0
    | .int4 => let v := signed 4 x; .fin (v < 0) v.natAbs 0
    | .int32 => let v := signed 32 x; .fin (v < 0) v.natAbs 0
    | .e8m0 => if x % 256 = 255 then .nan else pow2Val false ((x % 256 : Nat) - 127 : Int)
    | .uint32 => .fin false (x % 2 ^ 32) 0
    | .uint64 => .fin false (x % 2 ^ 64) 0
    | _ => .fin false (x % 256) 0

/-! ### Rounding (R98, R99) -/

/-- Nearest integer to a / b, ties away from zero. -/
def roundDiv (a b : Nat) : Nat := (2 * a + b) / (2 * b)

/-- Magnitude code of num / den in a format of m mantissa bits and the given bias, rounded once to nearest with ties
away; the code runs on above the largest finite one where the magnitude does. -/
def roundMag (m bias num den : Nat) : Nat :=
  let a := num * 2 ^ (bias - 1 + m)          -- in units of the smallest subnormal
  let k := Nat.log2 (a / den) - m
  k * 2 ^ m + roundDiv a (den * 2 ^ k)

/-- Largest finite magnitude code of a floating-point format (R93). -/
def maxMag (fmt : Fmt) : Nat :=
  match fmt with
  | .fp32 => 0x7F7FFFFF
  | .bf16 => 0x7F7F
  | .fp16 => 0x7BFF
  | .e5m2 => 0x7B
  | .e4m3 => 0x7E
  | .e2m1 => 7
  | _ => 0

/-- The canonical NaN of a format (R108), and the code a NaN converts to where the format has none (R102, R500). -/
def nanCode : Fmt → Nat
  | .fp32 => 0x7FC00000
  | .bf16 => 0x7FC0
  | .fp16 => 0x7E00
  | .e5m2 => 0x7E
  | .e4m3 => 0x7F
  | .e8m0 => 255
  | _ => 0

/-- The sign bit of a format. -/
def signCode (fmt : Fmt) (neg : Bool) : Nat := if neg then 2 ^ (fmtBits fmt - 1) else 0

/-- An infinite source, or a finite one beyond the largest finite value (R99, R102). -/
def overCode (fmt : Fmt) (neg fromInf : Bool) : Nat :=
  match fmt with
  | .fp32 => signCode fmt neg + 0x7F800000
  | .bf16 => signCode fmt neg + 0x7F80
  | .fp16 => signCode fmt neg + 0x7C00
  | .e5m2 => signCode fmt neg + (if fromInf then 0x7C else 0x7B)
  | _ => signCode fmt neg + maxMag fmt

/-- Conversion to the symmetric integer formats: nearest integer, saturating at ±lim (R102). -/
def toSymInt (n lim : Nat) : Val → Nat
  | .nan => 0
  | .inf neg => unsigned n (if neg then -(lim : Int) else lim)
  | .fin neg a d1 =>
    let q := min (roundDiv a (d1 + 1)) lim
    unsigned n (if neg then -(q : Int) else q)

/-- Conversion to a wide integer, saturating between lo and hi (R500). -/
def toWideInt (n : Nat) (lo hi : Int) : Val → Nat
  | .nan => 0
  | .inf neg => unsigned n (if neg then lo else hi)
  | .fin neg a d1 =>
    let q : Int := roundDiv a (d1 + 1)
    let q := if neg then -q else q
    unsigned n (max lo (min hi q))

/-- Conversion to E8M0 (R500): the code of the power of two nearest in value, a tie going up. -/
def toE8m0 : Val → Nat
  | .nan => 255
  | .inf neg => if neg then 255 else 254
  | .fin neg a d1 =>
    if a = 0 || neg then 255
    else
      let d := d1 + 1
      if d * 2 ^ 127 ≤ a then 254
      else if a * 2 ^ 127 ≤ d then 0
      else
        -- u = x × 2^127 in (1, 2^254): k = floor(log2 u), code k or k + 1
        let u := a * 2 ^ 127
        let k := Nat.log2 (u / d)
        if 3 * d * 2 ^ k ≤ 2 * u then k + 1 else k

/-- The single rounding of R98 into any format: conversions of R102 and R500. -/
def encodeVal (fmt : Fmt) (v : Val) : Nat :=
  match fpFmt fmt with
  | some f =>
    match v with
    | .nan => nanCode fmt
    | .inf neg => overCode fmt neg true
    | .fin neg a d1 =>
      let c := roundMag f.m f.bias a (d1 + 1)
      if c ≤ maxMag fmt then signCode fmt neg + c else overCode fmt neg false
  | none =>
    match fmt with
    | .int8 => toSymInt 8 127 v
    | .int4 => toSymInt 4 7 v
    | .int32 => toWideInt 32 (-2147483648) 2147483647 v
    | .uint32 => toWideInt 32 0 4294967295 v
    | .uint64 => toWideInt 64 0 18446744073709551615 v
    | .e8m0 => toE8m0 v
    | _ => toWideInt 8 0 255 v

/-- FP32 values are their 32 bits. -/
abbrev F32 := BitVec 32

def f32 (v : Val) : F32 := BitVec.ofNat 32 (encodeVal .fp32 v)
def F32.val (x : F32) : Val := decode .fp32 x.toNat

/-- Widening of any code to FP32, exact (R102). -/
def widen (fmt : Fmt) (x : Nat) : F32 := f32 (decode fmt x)

/-- A NaN is any FP32 code with exponent 255 and a mantissa. -/
def isNan (x : F32) : Bool := F32.val x == .nan

def F32.nan : F32 := 0x7FC00000
def F32.posInf : F32 := 0x7F800000
def F32.negInf : F32 := 0xFF800000
def F32.one : F32 := 0x3F800000

/-! ### Exact arithmetic -/

def Val.neg : Val → Val
  | .nan => .nan
  | .inf n => .inf !n
  | .fin n a d => .fin (!n) a d

/-- Exact sum; zeros by R100, ∞ − ∞ is NaN (R108). -/
def Val.add : Val → Val → Val
  | .nan, _ => .nan
  | _, .nan => .nan
  | .inf a, .inf b => if a = b then .inf a else .nan
  | .inf a, _ => .inf a
  | _, .inf b => .inf b
  | .fin na a da, .fin nb b db =>
    let x := a * (db + 1)
    let y := b * (da + 1)
    let d := (da + 1) * (db + 1)
    if na = nb then .mk na (x + y) d
    else if x = y then .fin false 0 0
    else if y < x then .mk na (x - y) d
    else .mk nb (y - x) d

/-- Exact product; 0 × ∞ is NaN (R108). -/
def Val.mul : Val → Val → Val
  | .nan, _ => .nan
  | _, .nan => .nan
  | .inf a, .inf b => .inf (a != b)
  | .inf a, .fin b n _ => if n = 0 then .nan else .inf (a != b)
  | .fin a n _, .inf b => if n = 0 then .nan else .inf (a != b)
  | .fin a n d, .fin b m e => .mk (a != b) (n * m) ((d + 1) * (e + 1))

/-- Exact quotient, special values by R107. -/
def Val.div : Val → Val → Val
  | .nan, _ => .nan
  | _, .nan => .nan
  | .inf _, .inf _ => .nan
  | .inf a, .fin b _ _ => .inf (a != b)
  | .fin a _ _, .inf b => .fin (a != b) 0 0
  | .fin a n d, .fin b m e =>
    if m = 0 then (if n = 0 then .nan else .inf (a != b))
    else .mk (a != b) (n * (e + 1)) ((d + 1) * m)

def fadd (a b : F32) : F32 := f32 (a.val.add b.val)
def fsub (a b : F32) : F32 := f32 (a.val.add b.val.neg)
def fmul (a b : F32) : F32 := f32 (a.val.mul b.val)
def fdiv (a b : F32) : F32 := f32 (a.val.div b.val)
/-- Fused multiply-add: one rounding (R66). -/
def ffma (a b c : F32) : F32 := f32 ((a.val.mul b.val).add c.val)

/-- Negation and magnitude are exact; a NaN gives the canonical NaN (R108). -/
def fneg (a : F32) : F32 := if isNan a then .nan else a ^^^ 0x80000000
def fabs (a : F32) : F32 := if isNan a then .nan else a &&& 0x7FFFFFFF

/-! ### Comparison (R109) -/

/-- Order of two exact values that are not NaN, −0 equal to +0. -/
def Val.lt : Val → Val → Bool
  | .nan, _ => false
  | _, .nan => false
  | .inf a, .inf b => a && !b
  | .inf a, .fin _ _ _ => a
  | .fin _ _ _, .inf b => !b
  | .fin na a da, .fin nb b db =>
    let x : Int := (if na then -(a : Int) else a) * (db + 1)
    let y : Int := (if nb then -(b : Int) else b) * (da + 1)
    decide (x < y)

def Val.eqv : Val → Val → Bool
  | .nan, _ => false
  | _, .nan => false
  | a, b => !a.lt b && !b.lt a

def feq (a b : F32) : Bool := a.val.eqv b.val
def fne (a b : F32) : Bool := !feq a b
def flt (a b : F32) : Bool := a.val.lt b.val
def fle (a b : F32) : Bool := flt a b || feq a b

/-- Minimum and maximum: the other operand where one is NaN, +0 above −0. -/
def fmax (a b : F32) : F32 :=
  if isNan a then (if isNan b then .nan else b)
  else if isNan b then a
  else if flt a b then b else if flt b a then a else if a.getLsbD 31 then b else a

def fmin (a b : F32) : F32 :=
  if isNan a then (if isNan b then .nan else b)
  else if isNan b then a
  else if flt a b then a else if flt b a then b else if a.getLsbD 31 then a else b

/-! ### Roots: exact by integer square roots -/

/-- Magnitude code of √(num / den), rounded once to FP32. -/
def sqrtMag (num den : Nat) : Nat :=
  let a := num * 2 ^ 298                       -- square of the value in units of 2^−149
  let k := Nat.log2 (Nat.sqrt (a / den)) - 23
  k * 2 ^ 23 + (Nat.sqrt (4 * a / (den * 4 ^ k)) + 1) / 2

def fsqrt (x : F32) : F32 :=
  match x.val with
  | .nan => .nan
  | .inf neg => if neg then .nan else .posInf
  | .fin neg a d1 =>
    if a = 0 then x else if neg then .nan else BitVec.ofNat 32 (sqrtMag a (d1 + 1))

def frsqrt (x : F32) : F32 :=
  match x.val with
  | .nan => .nan
  | .inf neg => if neg then .nan else 0
  | .fin neg a d1 =>
    if a = 0 then (if neg then .negInf else .posInf)
    else if neg then .nan else BitVec.ofNat 32 (sqrtMag (d1 + 1) a)

def frecip (x : F32) : F32 := fdiv .one x

/-! ### Stochastic rounding (R118 to R120) -/

def mix64 (z : BitVec 64) : BitVec 64 :=
  let z := (z ^^^ (z >>> 30)) * 0xBF58476D1CE4E5B9
  let z := (z ^^^ (z >>> 27)) * 0x94D049BB133111EB
  z ^^^ (z >>> 31)

/-- The 16 bits of R119. -/
def srBits (seed tensor stepWord i : Nat) : Nat :=
  let k := mix64 (BitVec.ofNat 64 seed ^^^ 0x9E3779B97F4A7C15)
  let k := mix64 (k ^^^ BitVec.ofNat 64 (tensor % 2 ^ 32 * 2 ^ 32 + stepWord % 2 ^ 32))
  let h := mix64 (k ^^^ BitVec.ofNat 64 (i / 4))
  (h >>> (16 * (i % 4))).toNat % 65536

/-- R118 defines stochastic rounding for these destinations alone. -/
def srDefined : Fmt → Bool
  | .bf16 | .fp16 | .e5m2 | .e4m3 => true
  | _ => false

/-- Value of a magnitude code, as num / den. -/
def magVal (fmt : Fmt) (c : Nat) : Nat × Nat :=
  match decode fmt c with
  | .fin _ a d1 => (a, d1 + 1)
  | _ => (0, 1)

/-- Stochastic conversion of an FP32 value with the bits r (R118). -/
def srConvert (fmt : Fmt) (x : F32) (r : Nat) : Nat :=
  match fpFmt fmt, x.val with
  | some f, .fin neg a d1 =>
    let d := d1 + 1
    let near := roundMag f.m f.bias a d
    let (nn, nd) := magVal fmt (min near (maxMag fmt))
    let (mn, md) := magVal fmt (maxMag fmt)
    if mn * d < a * md then encodeVal fmt x.val           -- beyond the largest finite value
    else if nn * d = a * nd then signCode fmt neg + near     -- representable
    else
      let lo := if nn * d < a * nd then near else near - 1
      let (ln, ld) := magVal fmt lo
      let (hn, hd) := magVal fmt (lo + 1)
      -- D = floor(2^16 (a − lo) / (hi − lo)) over the common denominator d × ld × hd
      let num := (a * ld - ln * d) * hd
      let den := (hn * ld - ln * hd) * d
      let dd := 65536 * num / den
      signCode fmt neg + (if 65536 ≤ dd + r then lo + 1 else lo)
  | _, v => encodeVal fmt v

/-! ### Scales and quantisation -/

/-- Destinations in which a finite value saturates, and those in which an infinite one does too (R99, R102). -/
def saturatesFinite : Fmt → Bool
  | .e5m2 | .e4m3 | .e2m1 | .int8 | .int4 => true
  | _ => false

def saturatesInf : Fmt → Bool
  | .e4m3 | .e2m1 | .int8 | .int4 => true
  | _ => false

/-- Quantisation (R103): the code of the exact quotient x / s, and whether it saturated where R102 saturates. -/
def quantCode (fmt : Fmt) (x s : F32) : Nat × Bool :=
  let q := x.val.div s.val
  let sat := match q with
    | .nan => false
    | .inf _ => saturatesInf fmt
    | .fin _ a d1 => saturatesFinite fmt &&
      (match fpFmt fmt with
       | some f => maxMag fmt < roundMag f.m f.bias a (d1 + 1)
       | none => (if fmt = .int8 then 127 else 7) < roundDiv a (d1 + 1))
  (encodeVal fmt q, sat)

/-- Dequantisation (R104) into a destination format. -/
def dequantTo (dst fmt : Fmt) (q : Nat) (s : F32) : Nat := encodeVal dst ((decode fmt q).mul s.val)

/-- qmax of R114 as num / den. -/
def qmax : Fmt → Nat
  | .e4m3 => 448
  | .e5m2 => 57344
  | .e2m1 => 6
  | .int8 => 127
  | .int4 => 7
  | _ => 1

/-- Largest history entry as an exact value; infinity counts as the largest, NaN and negatives do not count. -/
def histMax (h : List F32) : Val :=
  h.foldl (fun a x => match F32.val x with
    | .nan => a
    | .inf neg => if neg then a else .inf false
    | v => if a.lt v then v else a) (.fin false 0 0)

/-- a ≤ qmax × 2^(e − m). -/
def scaleFits (a : Val) (q : Nat) (e m : Int) : Bool :=
  match a with
  | .fin _ n d1 =>
    let x := e - m
    if 0 ≤ x then n ≤ q * 2 ^ x.toNat * (d1 + 1) else n * 2 ^ (-x).toNat ≤ q * (d1 + 1)
  | _ => false

/-- The search of R114: the smallest exponent of −126 to 127 that fits, from e upwards with n steps left. -/
def scaleSearch (a : Val) (q : Nat) (m : Int) : Nat → Int → Int
  | 0, e => e
  | n + 1, e => if scaleFits a q e m then e else scaleSearch a q m n (e + 1)

/-- scale_exponent (R114). -/
def scaleExponent (h : List F32) (margin : Nat) (fmt : Fmt) (ePrev : Int) : Int :=
  match histMax h with
  | .fin _ 0 _ => ePrev
  | a => scaleSearch a (qmax fmt) margin 253 (-126)

/-- The scale 2^e as FP32 and as its E8M0 code (R114). -/
def scaleF32 (e : Int) : F32 := f32 (pow2Val false e)
def scaleCode (e : Int) : Nat := (e + 127).toNat

/-- amax (R113): the largest magnitude that is not NaN; 0 where there is none. -/
def amaxOf (l : List F32) : F32 :=
  l.foldl (fun m x => if isNan x then m else let a := fabs x; if flt m a then a else m) 0

/-! ### Ordered sums (R54, R67, R139) -/

/-- A chunk: the first contribution passes unchanged, each later one adds with one rounding. -/
def chunkSum : List F32 → F32
  | [] => 0
  | c :: cs => cs.foldl fadd c

/-- A list cut into chunks of 64, the last one padded with +0; n chunks. -/
def chunks64 : Nat → List F32 → List (List F32)
  | 0, _ => []
  | n + 1, l => (l.take 64 ++ List.replicate (64 - l.length) 0) :: chunks64 n (l.drop 64)

/-- The sum of R139: chunk sums in ascending order, the first written unchanged. -/
def orderedSum (l : List F32) : F32 :=
  match (chunks64 ((l.length + 63) / 64) l).map chunkSum with
  | [] => 0
  | s :: ss => ss.foldl fadd s

end Sys2Proof.Machine
end

