-- ==== Sys2Proof/Machine/Fun.lean ====
section
/-! DEFINITION. The vector unit's functions (R107): the exact mathematical value rounded once by R98. A function is
bounded between two rationals on a binary grid of P bits; where both bounds round to one FP32 value that is the result,
else P doubles. Arguments whose exact result is rational are answered exactly first. -/

namespace Sys2Proof.Machine

/-! ### Bounds of constants and series, in units of 2^−P -/

/-- exp of y / 2^P by its series, n terms, rounding down; y below 2^P. -/
def expSeriesLo (p y : Nat) : Nat → Nat → Nat → Nat → Nat
  | 0, _, _, acc => acc
  | n + 1, i, t, acc =>
    let t := t * y / (i * 2 ^ p)
    expSeriesLo p y n (i + 1) t (acc + t)

/-- The same, rounding up, with the tail bounded by twice the last term. -/
def expSeriesHi (p y : Nat) : Nat → Nat → Nat → Nat → Nat
  | 0, _, t, acc => acc + 2 * t + 2
  | n + 1, i, t, acc =>
    let t := t * y / (i * 2 ^ p) + 1
    expSeriesHi p y n (i + 1) t (acc + t)

def squareLo (p : Nat) : Nat → Nat → Nat
  | 0, v => v
  | n + 1, v => squareLo p n (v * v / 2 ^ p)

def squareHi (p : Nat) : Nat → Nat → Nat
  | 0, v => v
  | n + 1, v => squareHi p n (v * v / 2 ^ p + 1)

/-- Bounds of exp(x) for a nonnegative x = a / b below 256. -/
def expPos (p alo ahi : Nat) : Nat × Nat :=
  -- alo and ahi bound x × 2^p; x is halved nine times
  let ylo := alo / 512
  let yhi := ahi / 512 + 1
  (squareLo p 9 (expSeriesLo p ylo p 1 (2 ^ p) (2 ^ p)), squareHi p 9 (expSeriesHi p yhi p 1 (2 ^ p) (2 ^ p)))

/-- Bounds of exp(−x) from those of exp(x). -/
def invBounds (p : Nat) (b : Nat × Nat) : Nat × Nat := (2 ^ (2 * p) / b.2, 2 ^ (2 * p) / b.1 + 1)

/-- Σ z^(2k+1) / (2k+1) for z = zn / zd at most 1/2, n terms, rounding down; `t` is z^(2k+1). -/
def atanhLo (p zn zd : Nat) : Nat → Nat → Nat → Nat → Nat
  | 0, _, _, acc => acc
  | n + 1, k, t, acc => atanhLo p zn zd n (k + 2) (t * zn * zn / (zd * zd)) (acc + t / k)

def atanhHi (p zn zd : Nat) : Nat → Nat → Nat → Nat → Nat
  | 0, _, t, acc => acc + 2 * t + 2
  | n + 1, k, t, acc => atanhHi p zn zd n (k + 2) (t * zn * zn / (zd * zd) + 1) (acc + t / k + 1)

/-- Bounds of ln((1 + z) / (1 − z)) for z = zn / zd. -/
def lnRatio (p zn zd : Nat) : Nat × Nat :=
  (2 * atanhLo p zn zd p 1 (zn * 2 ^ p / zd) 0, 2 * atanhHi p zn zd p 1 (zn * 2 ^ p / zd + 1) 0)

/-- Bounds of ln 2 (z = 1/3). -/
def ln2Bounds (p : Nat) : Nat × Nat := lnRatio p 1 3

/-- arctan(1 / k) by its alternating series, n terms, with an error of at most 2n units: positive and negative sums. -/
def atanInv (p k : Nat) : Nat → Nat → Nat → Int → Int
  | 0, _, _, acc => acc
  | n + 1, i, t, acc =>
    let term : Int := (t / (2 * i + 1) : Nat)
    atanInv p k n (i + 1) (t / (k * k)) (if i % 2 = 0 then acc + term else acc - term)

/-- π × 2^p within 64 p units (Machin's formula). -/
def piFix (p : Nat) : Int :=
  16 * atanInv p 5 p 0 (2 ^ p / 5) 0 - 4 * atanInv p 239 p 0 (2 ^ p / 239) 0

/-- sin and cos of r / 2^p for |r| at most 2^(p+1), n terms; `t` is the signed running term. -/
def trigSeries (p : Nat) (r : Int) : Nat → Nat → Int → Int → Int
  | 0, _, _, acc => acc
  | n + 1, i, t, acc =>
    let t := -(t * r / (2 ^ p : Nat) * r / (2 ^ p : Nat)) / ((i + 1 : Nat) * (i + 2 : Nat) : Int)
    trigSeries p r n (i + 2) t (acc + t)

def sinFix (p : Nat) (r : Int) : Int := trigSeries p r p 1 r r
def cosFix (p : Nat) (r : Int) : Int := trigSeries p r p 0 (2 ^ p : Nat) (2 ^ p : Nat)

/-! ### Rounding of an interval -/

/-- A signed value between two bounds in units of 2^−p, where both round to one FP32 code. -/
def roundBounds (p : Nat) (lo hi : Int) : Option F32 :=
  if lo < 0 && 0 < hi then none
  else
    let a := f32 (.mk (decide (hi ≤ 0)) lo.natAbs (2 ^ p))
    let b := f32 (.mk (decide (hi ≤ 0)) hi.natAbs (2 ^ p))
    if a = b then some a else none

/-- Doubles the precision until the bounds agree, at most n times. -/
def refine (f : Nat → Int × Int) (code arg : Nat) : Nat → Nat → F32
  | 0, _ => BitVec.ofNat 32 (Config.unseparated code arg)
  | n + 1, p =>
    match roundBounds p (f p).1 (f p).2 with
    | some x => x
    | none => refine f code arg n (2 * p)

/-- A natural interval as an integer one. -/
def toInts (b : Nat × Nat) : Int × Int := (b.1, b.2)

/-- Bounds of exp(±a / d), a / d below 256. -/
def expBounds (neg : Bool) (a d p : Nat) : Nat × Nat :=
  let b := expPos p (a * 2 ^ p / d) (a * 2 ^ p / d + 1)
  if neg then invBounds p b else b

def fexp (x : F32) : F32 :=
  match x.val with
  | .nan => .nan
  | .inf neg => if neg then 0 else .posInf
  | .fin neg a d1 =>
    if a = 0 then .one
    else if 128 * (d1 + 1) ≤ a then (if neg then 0 else .posInf)
    else refine (fun p => toInts (expBounds neg a (d1 + 1) p)) 5 x.toNat 6 256

/-- exp2: integers are exact powers of two, else exp(x ln 2). -/
def fexp2 (x : F32) : F32 :=
  match x.val with
  | .nan => .nan
  | .inf neg => if neg then 0 else .posInf
  | .fin neg a d1 =>
    let d := d1 + 1
    if 256 * d ≤ a then (if neg then 0 else .posInf)
    else if a % d = 0 then f32 (pow2Val false (if neg then -((a / d : Nat) : Int) else (a / d : Nat)))
    else refine (fun p =>
      let l := ln2Bounds p
      let b := expPos p (a * l.1 / d) (a * l.2 / d + 1)
      toInts (if neg then invBounds p b else b)) 6 x.toNat 6 256

/-- Bounds of ln(a / d) for a positive rational: a / d = q × 2^e with q in [3/4, 3/2). -/
def lnBounds (a d p : Nat) : Int × Int :=
  let k : Int := (Nat.log2 (a * 2 ^ 300 / d) : Int) - 300
  let e : Int := if 3 * d * 2 ^ (k + 300).toNat ≤ 2 * a * 2 ^ 300 then k + 1 else k
  let (n, m) := if 0 ≤ e then (a, d * 2 ^ e.toNat) else (a * 2 ^ (-e).toNat, d)   -- q = n / m
  let l := ln2Bounds p
  let r : Int × Int :=
    if m ≤ n then toInts (lnRatio p (n - m) (n + m))
    else let b := lnRatio p (m - n) (n + m); (-(b.2 : Int), -(b.1 : Int))
  if 0 ≤ e then (r.1 + e * l.1, r.2 + e * l.2) else (r.1 + e * l.2, r.2 + e * l.1)

def flog (x : F32) : F32 :=
  match x.val with
  | .nan => .nan
  | .inf neg => if neg then .nan else .posInf
  | .fin neg a d1 =>
    if a = 0 then .negInf else if neg then .nan
    else if a = d1 + 1 then 0
    else refine (fun p => lnBounds a (d1 + 1) p) 7 x.toNat 6 256

/-- Quotient of bounds a / b for positive b, rounded outwards, in units of 2^−p. -/
def divBounds (p : Nat) (a : Int × Int) (b : Nat × Nat) : Int × Int :=
  let lo := if 0 ≤ a.1 then a.1 * (2 ^ p : Nat) / (b.2 : Int) else a.1 * (2 ^ p : Nat) / (b.1 : Int)
  let hi := if 0 ≤ a.2 then a.2 * (2 ^ p : Nat) / (b.1 : Int) else a.2 * (2 ^ p : Nat) / (b.2 : Int)
  (lo - 1, hi + 1)

/-- log2: exact at powers of two, else ln x / ln 2. -/
def flog2 (x : F32) : F32 :=
  match x.val with
  | .nan => .nan
  | .inf neg => if neg then .nan else .posInf
  | .fin neg a d1 =>
    let d := d1 + 1
    if a = 0 then .negInf else if neg then .nan
    else
      let k : Int := (Nat.log2 (a * 2 ^ 300 / d) : Int) - 300
      if a * 2 ^ 300 = d * 2 ^ (k + 300).toNat then f32 (.fin (decide (k < 0)) k.natAbs 0)
      else refine (fun p => divBounds p (lnBounds a d p) (ln2Bounds p)) 8 x.toNat 6 256

/-- tanh x = (e^{2x} − 1) / (e^{2x} + 1). -/
def ftanh (x : F32) : F32 :=
  match x.val with
  | .nan => .nan
  | .inf neg => if neg then 0xBF800000 else .one
  | .fin neg a d1 =>
    let d := d1 + 1
    if a = 0 then x
    else if 32 * d ≤ a then (if neg then 0xBF800000 else .one)
    else refine (fun p =>
      let b := expBounds false (2 * a) d p
      let q := divBounds p ((b.1 : Int) - (2 ^ p : Nat), (b.2 : Int) - (2 ^ p : Nat)) (b.1 + 2 ^ p, b.2 + 2 ^ p)
      if neg then (-q.2, -(max q.1 0)) else (max q.1 0, q.2)) 9 x.toNat 6 512

/-- sigmoid x = 1 / (1 + e^{−x}). -/
def fsigmoid (x : F32) : F32 :=
  match x.val with
  | .nan => .nan
  | .inf neg => if neg then 0 else .one
  | .fin neg a d1 =>
    let d := d1 + 1
    if a = 0 then 0x3F000000
    else if 128 * d ≤ a then (if neg then 0 else .one)
    else refine (fun p =>
      let b := expBounds (!neg) a d p
      divBounds p ((2 ^ p : Nat), (2 ^ p : Nat)) (b.1 + 2 ^ p, b.2 + 2 ^ p)) 10 x.toNat 6 512

/-- Reduction of a / d by multiples of π/2 with p bits: quadrant and remainder; the grid for π is 300 bits finer. -/
def trigReduce (a d p : Nat) : Nat × Int :=
  let w := p + 300
  let x : Int := (a * 2 ^ w / d : Nat)
  let half := piFix w / 2
  let k := x / half
  ((k % 4).toNat, (x - k * half) / (2 ^ 300 : Nat))

/-- sin(a / d + q π/2) with error bounds. -/
def trigBounds (neg : Bool) (a d shift p : Nat) : Int × Int :=
  let (k, r) := trigReduce a d p
  let q := (k + shift) % 4
  let v := if q % 2 = 0 then sinFix p r else cosFix p r
  let v := if q < 2 then v else -v
  let v := if neg then -v else v
  let e : Int := (64 * p + 64 : Nat)
  (v - e, v + e)

def fsin (x : F32) : F32 :=
  match x.val with
  | .nan => .nan
  | .inf _ => .nan
  | .fin neg a d1 =>
    if a = 0 then x else refine (fun p => trigBounds neg a (d1 + 1) 0 p) 11 x.toNat 6 512

def fcos (x : F32) : F32 :=
  match x.val with
  | .nan => .nan
  | .inf _ => .nan
  | .fin _ a d1 =>
    if a = 0 then .one else refine (fun p => trigBounds false a (d1 + 1) 1 p) 12 x.toNat 6 512

/-! ### Compound functions of the FUNC table (R147) -/

def fsilu (x : F32) : F32 := fmul x (fsigmoid x)

/-- GELU in its eight steps; c₁ and c₂ are the FP32 values nearest √(2/π) and 0.044715. -/
def fgelu (x : F32) : F32 :=
  let t := fmul (fmul x x) x
  let u := fmul (ffma 0x3D372713 t x) 0x3F4C422A
  let w := fadd .one (ftanh u)
  fmul (fmul x 0x3F000000) w

/-- The function of a FUNC code; none where the table lists none. -/
def funcOf : Nat → Option (F32 → F32)
  | 0 => some fneg
  | 1 => some fabs
  | 2 => some frecip
  | 3 => some fsqrt
  | 4 => some frsqrt
  | 5 => some fexp
  | 6 => some fexp2
  | 7 => some flog
  | 8 => some flog2
  | 9 => some ftanh
  | 10 => some fsigmoid
  | 11 => some fsin
  | 12 => some fcos
  | 16 => some fgelu
  | 17 => some fsilu
  | _ => none

end Sys2Proof.Machine
end

