-- ==== Sys2Proof/Machine/State.lean ====
section
/-! DEFINITION. The block's state as plain data, one structure for each of the spec's sixteen subsystems (R9) and for
what firmware keeps. A field's default is its value at reset: the module off, with a factory-new media, fuse array and
configuration memory (notes/assumptions names each value the spec does not give). -/

namespace Sys2Proof.Machine

/-! ### Outcomes -/

/-- Reasons the machine stops. The spec gives every event an outcome, so the list holds the one address the spec says
no unit has. -/
inductive Fault where
  /-- Raised by no command today: a fabric station above 511 has no number (R77). Safe: the machine stops. -/
  | noStation
deriving DecidableEq, Repr

/-- Reasons a command has no meaning. -/
inductive Refusal where
  /-- Raised by a dispatch arm of a command that has no meaning yet. Safe: the machine stops. -/
  | notModelled (mnemonic : String)
deriving DecidableEq, Repr

/-! ### Stage unit (STG_) -/

/-- Yoke states by the codes of R32. -/
inductive Yoke where
  | disabled | free | acquiring | yoked | holdover | behind
deriving DecidableEq, Repr

/-- The trim loop's reference (R46). -/
inductive TrimRef where
  | none | ptp | line
deriving DecidableEq, Repr

structure Stg where
  /-- the stamp start has taken place (R41) -/
  loaded : Bool := false
  /-- stage count, 50 bits (R25, R43) -/
  stage : Nat := 0
  /-- core cycle within the stage, 14 bits, 0 to 12,299 (R29, R43) -/
  cycle : Nat := 0
  /-- the stamp is exhausted (R44) -/
  exhausted : Bool := false
  /-- the dispatcher releases no entry (R17, R52) -/
  stopped : Bool := false
  /-- the PTP servo is locked (R501) -/
  servoLocked : Bool := false
  /-- consecutive Sync messages within ±1 ppm, 0 to 16 (R501) -/
  servoGood : Nat := 0
  /-- consecutive Sync messages outside ±1 ppm, 0 to 4 (R501) -/
  servoBad : Nat := 0
  /-- yoke state (R32, R33) -/
  yoke : Yoke := .disabled
  /-- consecutive Sync messages with the offset within ±500 ns, 0 to 16 (R33) -/
  okRun : Nat := 0
  /-- consecutive Sync messages with the offset outside ±2,000 ns, 0 to 4 (R33) -/
  farRun : Nat := 0
  /-- YOKE_EN, PTP_TRIM, LINE_TRIM of feature 0xE0 (R40) -/
  yokeEn : Bool := false
  ptpTrim : Bool := false
  lineTrim : Bool := false
  /-- PTP_DOMAIN of feature 0xE0 (R40) -/
  ptpDomain : Nat := 0
  /-- bits [2:0] of dword 11 as last written, CONFIG of STG_YOKE (R40) -/
  config : Nat := 0
  /-- yoke-capable fuse intact, CAPABLE of STG_YOKE (R40) -/
  capable : Bool := true
  /-- last measured offset in ns (R32, R40) -/
  offset : Int := 0
  /-- the oscillator's frequency error against the reference in parts per 10⁹, positive fast: measured at the last Sync
  message and moved by trim since (R34, R501) -/
  freqErr : Int := 0
  /-- size in stages of the forward jump decided and not yet taken (R36) -/
  jump : Option Nat := none
  /-- first stage after a forward jump: no carriage is stale (R36, R89) -/
  staleOff : Bool := false
  /-- PTP stage count minus own at the last Sync message (R33, R41) -/
  ptpGap : Int := 0
  /-- PTP stage count at the last Sync message before the stamp start, counted on at each boundary (R41) -/
  ptpCount : Option Nat := none
  /-- a two-step Sync awaiting its Follow_Up: its master and sequence (R31) -/
  syncPending : Option (Nat × Nat) := none
  /-- the best master by the Announce messages received (R388) -/
  master : Option PtpAnnounce := none
  /-- a Delay_Req awaiting its Delay_Resp: its sequence (R388) -/
  delayPending : Option Nat := none
  /-- sequence of the next Delay_Req (R388) -/
  delaySeq : Nat := 0
  /-- log₂ of the Delay_Req interval in s, −7 or more (R388) -/
  delayInterval : Int := 0
  /-- mean path delay in ns (R31) -/
  pathDelay : Int := 0
  /-- restart policy and WAIT_MS of the STAMP_RESTART record (R41) -/
  policy : Nat := 0
  waitMs : Nat := 3000
  /-- the PTP_FIRST wait has expired (R41) -/
  waitOver : Bool := false
  /-- the servo locked before the PTP_FIRST wait expired (R41) -/
  lockedInWait : Bool := false
  /-- yoke states that the conditions met since the last boundary lead to, in order; they take effect at the next one (R33) -/
  yokeNext : List Yoke := []
  /-- no Sync message for 4 sync intervals: the trim word holds (R33, R46) -/
  silent : Bool := false
  /-- the model's own: how many free numbers of core cycles have been drawn (R29) -/
  ticks : Nat := 0
deriving DecidableEq, Repr

/-! ### Clock generator (CLK_) -/

/-- One domain's source and a switch or stop in progress (R48 to R50). -/
structure DomainState where
  /-- takes its clock from the divider of the root PLL, else the oscillator (bypass) -/
  root : Bool := false
  /-- stopped for this stage, to restart on the given source at the next boundary (R49) -/
  target : Option Bool := none
  /-- a switch to the given source begins at the next boundary (R49) -/
  want : Option Bool := none
deriving DecidableEq, Repr

structure Clk where
  /-- TRIM of CLK_TRIM, in 0.1 ppm, −250,000 to 250,000 (R47) -/
  trim : Int := 0
  /-- SRC of CLK_TRIM (R47) -/
  src : Nat := 0
  /-- the root PLL is locked (R45, R52) -/
  pllLocked : Bool := false
  /-- dividers to be reset together at the next boundary (R48) -/
  dividersPending : Bool := false
  /-- the clock domains: core, flash and DRAM (R48, R49) -/
  core : DomainState := {}
  flash : DomainState := {}
  dram : DomainState := {}
  /-- relock tries left after a loss of lock (R52) -/
  relockTries : Option Nat := none
  /-- the clock-failed state (R502) -/
  failed : Bool := false
deriving DecidableEq, Repr

/-! ### Coach array (COA_) -/

/-- Context states (R72). -/
inductive CtxState where
  | free | ready | waiting | halted
deriving DecidableEq, Repr

/-- A hardware context block (R75). -/
structure Ctx where
  gpr : Table (BitVec 64) := []
  stream : Table (BitVec 128) := []
  pc : BitVec 64 := 0
  st : CtxState := .free
  fault : Nat := 0
  tag : Nat := 0
  replies : Nat := 0
  /-- WAITING: stage in which the wait lapses, 0 for none; READY: stage from which it issues (R13, R72, R170) -/
  lapse : Nat := 0
  /-- QUERY_ID of the query it walks, 0 for none (R75) -/
  queryId : Nat := 0
  /-- the unit whose full queue it waits for (R73) -/
  unit : Option CoachUnit := none
deriving DecidableEq, Repr

structure Coa where
  /-- SRAM bytes, key coach × 2²¹ + address (R68); 0 unlisted -/
  sram : Table Byte := []
  /-- stationary registers, key (coach × 2 + set) × 4,096 + row × 64 + column (R58); 0 unlisted -/
  regs : Table (BitVec 16) := []
  /-- format code of the tile each set holds, key coach × 2 + set (R63) -/
  tileFmt : Table Nat := []
  /-- FP32 scale sets, key (coach × 2 + set) × 64 + column (R58); 0 unlisted -/
  scales : Table (BitVec 32) := []
  /-- active set of each coach (R58) -/
  active : Table Nat := []
  /-- core cycle of each coach's last swap, plus 1; 0 for none (R61) -/
  lastSwap : Table Nat := []
  /-- core cycle from which a swap to the loaded tile is permitted, plus 1; 0 where no load has ended since the last
  swap (R60, R61) -/
  loadEnd : Table Nat := []
  /-- core cycles of grid work done (R64) -/
  gridCycles : Table Nat := []
  /-- a matrix instruction that a preemption interrupted, and the next vector it issues (R76) -/
  work : Table (Option (MatInstr × Nat)) := []
  /-- contexts, key coach × 64 + context (R72, R75) -/
  ctxs : Table Ctx := []
  /-- context index from which the next READY context is sought (R72) -/
  nextCtx : Table Nat := []
  /-- by how much the holds after each coach's last swap are multiplied: 4 where a tile it changed runs at quarter rate, else 1 (R61, R62) -/
  swapRate : Table Nat := []
  /-- the instructions in the unit queues, oldest first, key coach × 4 + unit (R73) -/
  queues : Table (List UnitInstr) := []
  /-- COA_ROLE of each coach (R91) -/
  role : Table (BitVec 32) := []
  /-- FILL payloads sent and not yet answered, key coach × 2³² + TAG (R204, R250) -/
  fills : Table Bytes := []
  /-- READ carriages to DRAM not yet answered, key coach × 2³² + TAG (R208) -/
  reads : Table Bytes := []
deriving DecidableEq, Repr

/-- The control blocks of a session's save area (R76, R231), which have no layout outside the module, by the coaches' places, 16 k + c for
coach position c of the k-th team, in tables keyed as Coa's are; the rest of each record stands in the session's protected granules. -/
structure SaveArea where
  tileFmt : Table Nat := []
  active : Table Nat := []
  lastSwap : Table Nat := []
  loadEnd : Table Nat := []
  swapRate : Table Nat := []
  nextCtx : Table Nat := []
  queues : Table (List UnitInstr) := []
  work : Table (Option (MatInstr × Nat)) := []
  /-- units whose queues contexts wait for, keyed as contexts -/
  waits : Table (Option CoachUnit) := []
  fills : Table Bytes := []
  reads : Table Bytes := []
deriving DecidableEq, Repr

/-! ### Carriage fabric (FAB_) -/

structure Fab where
  /-- FAB_DROP of each station (R90) -/
  drop : Table (BitVec 32) := []
  /-- links marked bad when bring-up wrote the dimension orders of R80, which follow from them; numbered as linksOut -/
  bad : List Nat := []
  /-- mesh links out (R463), ring links as 512 + k, attachment links as 544 + k (R482) -/
  linksOut : List Nat := []
  /-- coaches whose router is out (R80) -/
  routersOut : List Nat := []
  /-- carriages sent and not yet arrived: destination station and bytes, in order of sending (R81) -/
  flight : List (Nat × Bytes) := []
deriving DecidableEq, Repr

/-! ### DRAM subsystem (DRM_) -/

structure Drm where
  /-- data bytes by 40-bit address (R191); 0 unlisted, as the fill leaves them (R380) -/
  data : Table Byte := []
  /-- check bytes, key line × 8 + check pin (R371); 0 unlisted -/
  check : Table Byte := []
  /-- packages in service (R464) -/
  present : List Nat := []
  /-- slots that the system regions take on each package from slot 0 up, as bring-up laid them out: firmware, write buffer, map cache (R192) -/
  layout : List (Nat × Nat × Nat × Nat) := []
  /-- DRM_ECC, DRM_FILL, DRM_TEST, DRM_CHECKVAL by package (R376, R380, R381) -/
  ecc : Table (BitVec 32) := []
  fill : Table (BitVec 32) := []
  test : Table (BitVec 32) := []
  checkval : Table (BitVec 32) := []
  /-- DRM_SYND by package (R381) -/
  synd : Table (BitVec 64) := []
  /-- DRM_WIN, key package × 16 + partition (R195) -/
  win : Table (BitVec 32) := []
  /-- next line of each package's scrubber (R376) -/
  scrub : Table Nat := []
  /-- map cache size in GiB (R370) -/
  cacheGiB : Nat := 32
deriving DecidableEq, Repr

/-! ### Flash channel array (FLA_) -/

/-- A programmed code word: DATA, the fields of META (R310), the key its DATA was encrypted under (R497; 0 for none),
whether its program was interrupted (R325) and its marks (R323). -/
structure CWord where
  data : Bytes := []
  stamp : Nat := 0
  ns : Nat := 0
  unit : Nat := 0
  gen : Nat := 0
  kind : Nat := 1
  slot : Nat := 0
  stream : Nat := 0
  seq : Nat := 0
  key : Nat := 0
  undefined : Bool := false
  void : Bool := false
  raw : Option Bytes := none
deriving DecidableEq, Repr

/-- Array operations (R313). -/
inductive DieWork where
  | sense (block page : Nat) (planes : List Nat)
  | program (setId : Nat)
  | erase (block : Nat) (planes : List Nat)
deriving DecidableEq, Repr

/-- A die's array operation: it occupies the die in the stages from `starts` to ends − 1, also where it is over before that (R11). -/
structure DieOp where
  die : Nat
  work : DieWork
  starts : Nat
  ends : Nat
  ended : Bool := false
deriving DecidableEq, Repr

/-- A plane's cache register: the page sensed last, its code words' classes, and the code words themselves (R307, R313). -/
structure CacheReg where
  block : Nat
  page : Nat
  classes : List CwClass
  words : List CWord
deriving DecidableEq, Repr

/-- A DIRTY code word under recovery: the step its next decode belongs to, the tries used in it, and the seats of its channel that pass before the
last of its raw read-outs, none before its senses have ended (R315). -/
structure Recovery where
  word : CwAddr
  step : Nat
  tries : Nat
  left : Option Nat
deriving DecidableEq, Repr

/-- An open die read or read-out seat that has been filled, or has lapsed (fill none): the partition, the die (a channel's
first die for a read-out seat), the stage reserved; the code word, SRAM address, TAG, ROLE and coach of the fill (R170,
R171, R184, R204). -/
structure OpenRead where
  part : Nat
  die : Nat
  stage : Nat
  readOut : Bool
  fill : Option (CwAddr × Nat × Nat × Nat × Nat)
  /-- a run's GATHER: session, pass, operation, key of the piece (2 ^ 64 + map key × 4 + slot) and its map entry (R171, R209) -/
  run : Option (Nat × Nat × Nat × Nat × Nat) := none
deriving DecidableEq, Repr

structure Fla where
  /-- programmed code words, key ((((die × 4 + plane) × 4,096 + block) × 512 + page) × 4 + cw) (R301, R309) -/
  words : Table CWord := []
  /-- NEXT of each plane block, 10 bits, key (die × 4 + plane) × 4,096 + block (R318) -/
  next : Table Nat := []
  /-- erase generation, 17 bits, by plane block (R329) -/
  gen : Table Nat := []
  /-- read counts by plane block (R362) -/
  reads : Table Nat := []
  /-- plane blocks retired, SUSPECT, and retired with their RETIRE mark written (R320, R323, R363) -/
  retired : List Nat := []
  /-- SUSPECT blocks (R361) -/
  suspect : List Nat := []
  retireMarked : List Nat := []
  /-- blocks whose erase was interrupted (R325) -/
  eraseCut : List Nat := []
  /-- operations that dies carry or have queued (R304, R313) -/
  ops : List DieOp := []
  /-- cache registers, key die × 4 + plane (R313) -/
  cache : Table CacheReg := []
  /-- code words under recovery (R315) -/
  recov : List Recovery := []
  /-- each hub's correction cache, oldest first, at most 256: word and erase generation (R316) -/
  corr : Table (List (CwAddr × Nat)) := []
  /-- MODE of FLA_PGMODE by hub (R321) -/
  pgmode : Table Nat := []
  /-- blocks programmed raw in TEST and not yet erased (R322) -/
  testBlocks : List Nat := []
  /-- a hub whose MODE is to change, plus 1, once the blocks of its TEST session are erased (R322) -/
  pgWish : Table Nat := []
  /-- next block that a full format erases on each die (R406) -/
  formatNext : Table Nat := []
  /-- open die reads reserved or sensed and not yet past (R171) -/
  openReads : List OpenRead := []
  /-- seats of each channel that transfers outside every timetable have yet to take (R16) -/
  seatDebt : Table Nat := []
  /-- the DIE_TYPE record (R312, R458) -/
  tRead : Nat := 3
  tProg : Nat := 16
  tErase : Nat := 305
  retrySenses : Nat := 2
  softSenses : Nat := 2
  /-- opcodes of CLEAN READ-OUT, RAW READ-OUT and CODE-WORD PROGRAM LOAD (R304, R312) -/
  opcodes : List Nat := [0xE0, 0xE1, 0xE8]
  /-- the 8 identification bytes of the DIE_TYPE record (R312) -/
  dieId : Nat := 0
  /-- channels in service (R464) -/
  channels : List Nat := []
  /-- dies in service (R464) -/
  dies : List Nat := []
deriving DecidableEq, Repr

/-! ### Translation and media upkeep (XLT_, MCE_) -/

/-- A map unit in the write buffer: its four slots as far as written, the order of its oldest and of its newest write, and
the page set that carries it once its program is issued (R340, R341). -/
structure BufUnit where
  ns : Nat
  unit : Nat
  slots : List (Option Bytes)
  seq : Nat
  last : Nat
  inSet : Option Nat
  /-- session whose NS_WRITE wrote it -/
  by_ : Option Nat
deriving DecidableEq, Repr

/-- A page set whose program is in flight: where, its stream, its units as plane, namespace index and unit, its stamp
(R311, R317, R320). -/
structure PageSet where
  id : Nat
  die : Nat
  block : Nat
  page : Nat
  stream : Nat
  units : List (Nat × Nat × Nat)
  planes : List Nat
  stamp : Nat
  /-- session under whose open program reservation it was issued (R172, R233) -/
  sess : Option Nat
deriving DecidableEq, Repr

/-- Superblock states (R364). -/
inductive SbState where
  | free | opened | closed | erasing
deriving DecidableEq, Repr

/-- A superblock (R302, R339). -/
structure Sb where
  st : SbState := .free
  stream : Nat := 0
  /-- next row to program (R364) -/
  row : Nat := 0
  /-- highest program stamp of a copy made from it (R355) -/
  copyStamp : Nat := 0
deriving DecidableEq, Repr

/-- A copy of a unit by a mover: the entry it copies, its stream, the page set that carries it, and the entry of the copy
once that set has passed (R353, R354). -/
structure Copy where
  ns : Nat
  unit : Nat
  srcEntry : BitVec 64
  stream : Nat
  inSet : Option Nat
  target : Option (BitVec 64)
deriving DecidableEq, Repr

/-- An event of the log (R487). -/
structure Event where
  stamp : Nat
  seq : Nat
  code : Nat
  cls : Nat
  source : Nat
  obj : Obj
  detail : Bytes
deriving DecidableEq, Repr

/-- A journal mark (R364) and what it saves: the map that its leaves hold, superblock table, read counts, event log, leaf index. -/
structure Mark where
  stamp : Nat
  seq : Nat
  /-- code words that hold its two copies -/
  places : List CwAddr
  clean : Bool
  readOnly : Bool
  cursor : Nat
  opened : List (Nat × Nat × Nat)
  map : Table (BitVec 64)
  sbs : Table Sb
  reads : Table Nat
  events : List Event
  total : Nat
  leafIndex : Table (BitVec 64)
deriving DecidableEq, Repr

/-- What a write puts into the buffer: pieces of a unit (unit, slot, data), its completion kind, and for locators the
lowest slot it covered in each unit (R340, R343, R398). -/
structure WaitWrite where
  tag : Tag
  ns : Nat
  pieces : List (Nat × Nat × Bytes)
  fua : Bool
  locate : Option (List (Nat × Nat))
deriving DecidableEq, Repr

/-- A command that completes once the buffered writes before an order number have passed their programs (R342, R343): of
one namespace or all; for locators the units in ascending order, each with its lowest slot and its locator once passed; the slots that a
write names, as unit and slot. -/
structure WaitLand where
  tag : Tag
  upTo : Nat
  ns : Option Nat
  units : Option (List Nat)
  locate : List (Nat × Nat × Bytes)
  slots : List (Nat × Nat)
deriving DecidableEq, Repr

/-- A read waiting for a leaf: namespace index, first slot and slots in 4 KiB pieces, and whether it answers a stale
locator (R347, R412). -/
structure LeafWait where
  tag : Tag
  ns : Nat
  first : Nat
  count : Nat
  stale : Bool
deriving DecidableEq, Repr

/-- What a page read outside every timetable serves: a read by the map path or through a locator, the load of a leaf, the slots that a partly
written unit leaves out, a mover's copy, and the check of its target (R338, R341, R345, R347, R353). -/
inductive PlainFor where
  | read (w : LeafWait)
  | locator (w : LeafWait) (loc : Bytes) (decodes : Bool)
  | leaf (ns leaf : Nat)
  | fill (ns unit : Nat)
  | copy (ns unit : Nat)
  | verify (ns unit : Nat)
deriving DecidableEq, Repr

/-- A read outside every timetable that goes on: its code words, the pages still to be sensed (die, block, page, planes), and once all are
sensed the seats of each channel that pass before its last one (R16, R347). -/
structure Plain where
  what : PlainFor
  words : List CwAddr
  senses : List (Nat × Nat × Nat × List Nat)
  seats : Option (List (Nat × Nat))
deriving DecidableEq, Repr

structure Xlt where
  /-- map entries, key namespace index × 2⁴⁰ + unit (R333); UNMAPPED unlisted -/
  map : Table (BitVec 64) := []
  /-- leaf index words, key namespace index × 2³² + leaf (R337); never written unlisted -/
  leafIndex : Table (BitVec 64) := []
  /-- leaves in the map cache, least recently used first, with whether each has changed (R338) -/
  cached : List (Nat × Bool) := []
  /-- the write buffer (R340, R341) -/
  buf : List BufUnit := []
  /-- next order number of a buffered write (R340, R342) -/
  bufSeq : Nat := 1
  /-- page sets whose program is in flight (R317, R320) -/
  sets : List PageSet := []
  /-- number of the last such page set (R317) -/
  setId : Nat := 1
  /-- superblocks (R318, R339) -/
  sbs : Table Sb := []
  /-- open superblock of each stream, plus 1 (R339) -/
  openSb : Table Nat := []
  /-- allocation cursor (R330) -/
  cursor : Nat := 0
  /-- superblocks closed since the last mark (R365) -/
  closedSince : Nat := 0
  /-- stage of the last mark (R365) -/
  markStage : Nat := 0
  /-- journal marks that stand in flash (R365) -/
  marks : List Mark := []
  /-- number of the last mark (R365) -/
  markSeq : Nat := 0
  /-- copies of upkeep under way (R353, R354) -/
  copies : List Copy := []
  /-- rows of open parity accumulators, key superblock × 8,192 + page × 16 + plane × 4 + cw (R356) -/
  acc : Table Bytes := []
  /-- superblocks whose accumulator is open (R356, R357) -/
  accOpen : List Nat := []
  /-- closed superblocks awaiting their verify (R357) -/
  toVerify : List Nat := []
  /-- patrol: head-of-queue plane blocks, then the cursor in superblock order (R361, R362) -/
  patrolQueue : List Nat := []
  patrolCursor : Nat := 0
  /-- the full state, and a deletion or a format since it was entered (R350) -/
  full : Bool := false
  fullFreed : Bool := false
  /-- writes that wait at the dirty cap (R341) -/
  capWaits : List WaitWrite := []
  /-- slots that writes of this stage name: namespace index, unit, slot; their completions are posted at its end (R5, R28) -/
  fresh : List (Nat × Nat × Nat) := []
  /-- commands that wait for writes to land (R342, R343) -/
  landWaits : List WaitLand := []
  /-- reads waiting for a leaf (R338, R347) -/
  leafWaits : List LeafWait := []
  /-- reads outside every timetable that go on (R16, R347) -/
  plain : List Plain := []
  /-- a mark, as it was due, that waits for the leaves it covers, and the commands that complete with it (R265, R365) -/
  markDue : Option Mark := none
  markTags : List (Tag × Nat) := []
  /-- pages sensed in the walks of verifies: of a die's block of a closed superblock, key die × 4,096 + block, and of the plane block that patrol
  verifies, key 2³⁰ + plane block (R357, R361) -/
  walks : Table Nat := []
  /-- U₀ of R351 in plane blocks, and whether a power-on has fixed it -/
  u0 : Nat := 16777216
  u0Known : Bool := false
  /-- a mark with CLEAN set is the newest and no page set has followed it (R396) -/
  cleanMark : Bool := false
  /-- shutdowns in progress: controller and the order number that the buffered writes to land precede (R396) -/
  shutdowns : List (Nat × Nat) := []
deriving DecidableEq, Repr

/-! ### Power and hold-up (PWR_) -/

/-- Bank states by the codes of PWR_BANK (R429). -/
inductive Bank where
  | charging | ready | measuring | fault
deriving DecidableEq, Repr

/-- Steps of the power-loss sequence (R433). -/
inductive PwrSeq where
  | none | quiesce | flush | off
deriving DecidableEq, Repr

structure Pwr where
  /-- the standby rail is on (R423) -/
  standby : Bool := false
  /-- the supply rails are up (R424) -/
  rails : Bool := false
  /-- state of the energy bank (R429) -/
  bank : Bank := .charging
  /-- VBANK and C_MEAS of PWR_BANK (R429) -/
  vbank : Nat := 0
  cMeas : Nat := 420
  prot : Bool := true
  cap : Nat := 0
  /-- a measurement of this power-on has ended (R429) -/
  measured : Bool := false
  /-- stage at which the last measurement ended (R429) -/
  measStage : Nat := 0
  /-- rest windows by power and by temperature (R426, R439) -/
  restPower : Nat := 0
  restThermal : Nat := 0
  /-- rest windows in force in this period of 1,024 stages (R440) -/
  restNow : Nat := 0
  /-- the core domain is stopped in a rest window (R440) -/
  resting : Bool := false
  /-- consecutive stages below 540 W, and below the falling threshold, and at 115 °C or above (R426, R439) -/
  lowPower : Nat := 0
  coolRun : Nat := 0
  hotRun : Nat := 0
  /-- sensors 1 to 8 in °C (R438) -/
  temps : List Nat := []
  seq : PwrSeq := .none
  /-- trigger of the running or last sequence by event 0x0012 (R488), and the stage of its t₀ -/
  trigger : Nat := 0
  lossStage : Nat := 0
  /-- SEATED is closed (R437) -/
  seated : Bool := true
  bleeding : Bool := false
  hold : Bool := false
  /-- the serial bus is joined to the configuration memory (R445) -/
  busJoined : Bool := false
  /-- held off after OFF or a thermal shutdown until the input is removed or HOLD is released (R441, R485) -/
  heldOff : Bool := false
  thermalOff : Bool := false
  /-- the hold-up converter has stopped (R324) -/
  energyGone : Bool := false
  /-- the flush sequencer has handed on the parity spill and the event log (R324) -/
  spilled : Bool := false
  /-- the measurement by which the bank may leave FAULT runs (R429) -/
  faultMeas : Bool := false
  /-- thermal count asked for since the last period of 1,024 stages began (R439) -/
  thermWish : Nat := 0
  /-- a rest window was deferred by a partition switch (R440) -/
  restDeferred : Bool := false
deriving DecidableEq, Repr

/-! ### Port and queue engines (PORT_, QUE_) -/

/-- What leaves the port besides completions. -/
inductive TxMsg where
  | arpReply (target sender : Nat)
  | ndReply (target sender : Nat)
  | echoReply (v6 : Bool) (dest : Nat) (payload : Bytes)
  | tcpReset (conn : Nat)
  | icResp (conn : Nat)
  | termReq (conn status : Nat)
  | rdmaAccept (qp : Nat)
  | rdmaReject (qp : Nat)
  | cnp (qp : Nat)
  | rdmaResend (qp : Nat)
  | delayReq (seq : Nat)
  | peerKeepAlive (session member : Nat)
  | peerQuery (session member : Nat) (block : Bytes)
  | peerClose (session member : Nat)
  | peerConnect (member family port nsid : Nat) (address subnqn : Bytes)
  | peerOpen (member : Nat) (quota : Bytes)
  | peerFetch (session member : Nat)
  | asyncEvent (ctrl cid type info lid : Nat)
  | spdm (tag : Tag) (response : Bytes)
deriving DecidableEq, Repr

/-- A completion queue entry with what it returns: status code type and code, DNR, dwords 0 and 1, the data moved to
the host before it (R28, R418). -/
structure Completion where
  tag : Tag
  sct : Nat
  sc : Nat
  dnr : Bool
  dw0 : BitVec 32
  dw1 : BitVec 32
  data : Bytes
deriving DecidableEq, Repr

structure Port where
  /-- PORT_LINK: lanes that trained, lowest lane in use, width code (R386) -/
  trained : List Nat := []
  base : Nat := 0
  width : Nat := 0
  /-- the width now being tried: 3, 2, 1 and 0 for none (R384) -/
  trying : Nat := 0
  /-- lanes out by fuse or test (R464, R465) -/
  lanesOut : List Nat := []
  /-- the first training pass has ended (R451) -/
  passDone : Bool := false
  plugged : Bool := true
  plugPowered : Bool := true
  /-- settings of the PORT_PTP record (R459) -/
  mac : Nat := 0
  vlan : Nat := 0
  ipv4 : Nat := 0
  ipv4Prefix : Nat := 0
  ipv6 : Nat := 0
  ipv6Prefix : Nat := 0
  pfcPriority : Nat := 3
  asymmetry : Int := 0
  gateway4 : Nat := 0
  gateway6 : Nat := 0
  /-- NVMe/TCP connections past ICResp (R390) -/
  conns : List Nat := []
  /-- RDMA queue pairs with their rate in units of 1/256 and retries used (R387) -/
  qps : List (Nat × Nat × Nat) := []
  /-- priorities paused by the link partner (R390) -/
  paused : List Nat := []
  /-- frames dropped (R387) -/
  dropped : Nat := 0
  /-- messages sent since the last boundary, oldest first (R28, log 8) -/
  tx : List TxMsg := []
deriving DecidableEq, Repr

/-- A controller (R392 to R397). -/
structure Ctrl where
  id : Nat
  discovery : Bool
  conn : Nat
  hostId : Nat
  hostNqn : Bytes
  kato : Nat
  adminDepth : Nat
  queues : List (Nat × Nat)
  granted : Nat
  enabled : Bool
  shst : Nat
  aers : List Nat
  evCfg : Nat
  masked : List (Nat × Nat)
  /-- events posted while no request was outstanding: type, information, log page (R422) -/
  held : List (Nat × Nat × Nat)
  /-- keep-alive restarts seen (the timer restarts at each, R394) -/
  alive : Nat
  changedNs : List Nat
deriving DecidableEq, Repr

/-- An entry of the Error Information log (R409). -/
structure ErrInfo where
  tag : Tag
  sct : Nat
  sc : Nat
deriving DecidableEq, Repr

/-- Held records by FETCH's class (R300): bytes, stamp, QUERY_ID, flags. -/
structure Held where
  cls : Nat
  stamp : Nat
  queryId : Nat
  flags : Nat
  bytes : Bytes
deriving DecidableEq, Repr

structure Que where
  /-- controllers (R393) -/
  ctrls : List Ctrl := []
  /-- completions of commands that finished in this stage (R28) -/
  done : List Completion := []
  /-- the batch posted at the last boundary (R28) -/
  posted : List Completion := []
  /-- error information entries, newest first (R409) -/
  errLog : List ErrInfo := []
  /-- composite temperature thresholds of feature 0x04: over and under, in kelvin (R396) -/
  tempOver : Nat := 368
  tempUnder : Nat := 0
  /-- and of sensors 1 to 8 (R438); 65,535 and 0 unlisted -/
  sensOver : Table Nat := []
  sensUnder : Table Nat := []
  /-- records a FETCH without KEEP has returned, with its tag and session: freed as its completion is posted (R300) -/
  freeing : List (Tag × Nat × Held) := []
  /-- Unrecovered Read Error completions (R409) -/
  mediaErrors : Nat := 0
  /-- Critical Warning bits as last posted (R422) -/
  warned : Nat := 0
deriving DecidableEq, Repr

/-! ### Namespaces -/

inductive NsKind where
  | block | record | vector
deriving DecidableEq, Repr

/-- A column of a row layout (R274). -/
structure Column where
  type : Nat
  offset : Nat
  width : Nat
deriving DecidableEq, Repr

/-- A vector namespace's descriptor (R240). -/
structure VecDesc where
  dim : Nat := 0
  elem : Nat := 0
  metric : Nat := 0
  codeBytes : Nat := 0
  degree : Nat := 0
  attrBytes : Nat := 0
  scale : BitVec 32 := 0
deriving DecidableEq, Repr

inductive GenState where
  | building | ready | current | retiring
deriving DecidableEq, Repr

/-- One item of a built generation, in ordinal order (R244 to R248). -/
structure GenItem where
  id : Nat
  vector : Bytes
  attr : Bytes
  neighbours : List Nat
  code : Bytes
deriving DecidableEq, Repr

/-- An index generation (R244, R261). -/
structure Gen where
  num : Nat
  st : GenState
  entry : Nat
  items : List GenItem
  codebook : Bytes
  /-- relocation list: old and new location of moved blocks (R249) -/
  reloc : List (Nat × Nat)
  degraded : Bool
  /-- the code layer is in DRAM (R266) -/
  codeLoaded : Bool
  /-- pool ranges of the code layer: package, first slot, slots (R248) -/
  ranges : List (Nat × Nat × Nat)
  /-- superblocks of its pages (R243, R339) -/
  sbs : List Nat
  /-- pages of the flash copy of its code layer, in order: page and plane (R244, R266) -/
  codePages : List (Nat × Nat) := []
deriving DecidableEq, Repr

/-- A lock record (R326). -/
structure Lock where
  readLock : Bool := false
  writeLock : Bool := false
  atPowerOn : Bool := false
  passwordSet : Bool := false
  salt : Bytes := []
  verifier : Bytes := []
  /-- consecutive failures in this power-on (R327) -/
  failures : Nat := 0
deriving DecidableEq, Repr

/-- A namespace (R402). -/
structure Ns where
  /-- NSID (R402) -/
  nsid : Nat
  /-- kind of its data (R402) -/
  kind : NsKind
  /-- it is of MEDIA 1 (R403) -/
  stolrak : Bool
  /-- logical block bytes: 4,096 or 16,384 -/
  lba : Nat
  /-- size in bytes -/
  size : Nat
  /-- charged superblocks (R403) -/
  charge : Nat
  /-- record namespaces: records, identifier column (255 none) (R277) -/
  records : Nat
  idColumn : Nat
  rowBytes : Nat
  columns : List Column
  vec : VecDesc
  capacity : Nat
  created : Nat
  /-- identifier of its data key, drawn afresh at creation and format (R497) -/
  key : Nat
  gens : List Gen
  lastGen : Nat
  lock : Lock
  /-- its lock from the next boundary on, where the completion of a Security Send is to be posted (R328) -/
  lockNext : Option Lock
  /-- read-only after a FATAL error (R485) -/
  readOnly : Bool
  /-- scheduled deletion or format and the command that asked (R404, R405) -/
  deleting : Option Tag
  formatting : Option (Tag × Nat)
  /-- an INDEX SWITCH scheduled for the next boundary (R265) -/
  switching : Option Tag
  /-- code words of the lock records last written to flash, oldest first (R326) -/
  lockAt : List CwAddr := []
deriving DecidableEq, Repr

structure NsTab where
  /-- namespaces (R402) -/
  list : List Ns := []
  /-- next data key identifier (R497, log 9) -/
  keyNo : Nat := 1
  /-- NSIDs deleted whose old key table is being erased, with the command (R499) -/
  erasing : List (Nat × Option Tag) := []
  /-- full-format pending (R406) -/
  formatPending : Bool := false
  /-- a full format whose erases go on, and the command that asked (R406) -/
  formatAll : Option Tag := none
deriving DecidableEq, Repr

/-! ### Sessions, partitions, routes -/

inductive SessState where
  | opened | orphaned | closing
deriving DecidableEq, Repr

/-- A loaded route image and what the module keeps for the life of its handle (R130, R134). -/
structure Route where
  handle : Nat
  image : Bytes
  loads : Nat
  /-- per tensor with SCALE_KIND 3: history, oldest first, and e_prev (R114) -/
  hist : Table (List (BitVec 32))
  ePrev : Table Int
  /-- the extent that it was loaded from: namespace, first logical block, blocks (R130, R156) -/
  source : Option (Nat × Nat × Nat) := none
deriving DecidableEq, Repr

/-- An image being loaded in pieces (R415). -/
structure Partial where
  handle : Nat
  size : Nat
  bytes : Bytes
deriving DecidableEq, Repr

/-- A bound timetable (R165, R179, R188). -/
structure Timetable where
  plan : TtPlan
  /-- absolute stage of stage 0 of the first pass under it, after every shift, and that pass's number in its run (R165) -/
  base : Nat
  first : Nat := 0
  /-- passes under it that have begun, and those still to begin -/
  started : Nat := 1
  ahead : Nat := 0
  /-- a stage at which it was suspended, B′ (R230) -/
  suspended : Option Nat
  bound : Nat
  topoGen : Nat
  routeId : Nat
  /-- map entries of the extents that its fixed reads name, as they stood at the bind: key and entry (R179, R180) -/
  layout : List (Nat × Nat)
  /-- its largest link load in one stage (R188) -/
  peakFlits : Nat := 0
  /-- seats before this stage have been released before its last suspension (R229) -/
  seatsFrom : Nat := 0
deriving DecidableEq, Repr

/-- Start of the newest pass begun under a timetable. -/
def Timetable.start (t : Timetable) : Nat := t.base + (t.started - 1) * t.plan.passStride

/-- A timetable in a handle's cache with its key (R179). -/
structure CachedTt where
  handle : Nat
  loads : Nat
  crc : Nat
  slots : Bytes
  tt : Timetable
deriving DecidableEq, Repr

/-- A run in progress (R158, R416). -/
structure Run where
  tag : Tag
  handle : Nat
  block : Bytes
  /-- image and histories the run works on -/
  route : Route
  tt : Option Timetable
  passes : Nat
  /-- passes begun and passes ended; PASS_STAGES and PASS_STRIDE of the run once it is bound (R165) -/
  begun : Nat := 0
  done : Nat
  form : Option (Nat × Nat) := none
  /-- stage at which the next pass starts (R165) -/
  nextStart : Nat
  /-- the next pass starts from a rebind (R180, R182) -/
  rebind : Bool
  /-- next operation record of the current pass; none between passes -/
  nextOp : Option Nat
  /-- groups entered so far, and the one whose blocks are in place (R142, R200) -/
  groups : Nat
  group : Option Nat
  /-- contents written to TRANSIENT and CONSTANT tensors by tensor index (R133) -/
  tensors : Table Bytes
  /-- STAGE_IN copies by tensor index (R144) -/
  staged : Table Bytes
  /-- the two halves of the window (R200) -/
  halves : Table Bytes
  /-- code words that fixed reads brought, or missed: pass, code word, stage of the seat, data (R13, R15, R201) -/
  landed : List (Nat × Nat × Nat × Option Bytes) := []
  /-- 4 KiB slots of its extents that have been written since its bind, or that a write which waits at the cap names: their reads are open
  (R156, R177) -/
  dirty : List Nat := []
  /-- an operation of it has met an unchecked host error: its answers may bear any flags (R4, R129) -/
  erred : Bool := false
  /-- blocks that missed in this pass, and those of the group in place that SKIP leaves out: tensor and block (R209) -/
  missed : List (Nat × Nat)
  skipped : List (Nat × Nat)
  /-- ordinals of stochastic conversions by tensor (R120) -/
  ordinals : Table Nat
  /-- amax measured in this step by tensor (R115) -/
  amax : Table (BitVec 32)
  flags : Nat
  saturations : Nat
  fault : Nat
  faultOp : Option Nat
  /-- NS_WRITE staging copies that wait for the cap: operation, namespace index, first byte, data (R504) -/
  staging : List (Nat × Nat × Nat × Bytes)
  /-- suspended for its staging copies (R504) -/
  stalled : Bool
  /-- an EMIT that waits for protected space (R197) -/
  emitWait : Option Nat
deriving DecidableEq, Repr

/-- What a bind in progress is for (R163). -/
inductive BindFor where
  | route | search | scan (id : Nat) | build (nsid gen : Nat)
deriving DecidableEq, Repr

/-- A bind that waits or that the binder works on (R174, R178). -/
structure Bind where
  id : Nat
  sess : Nat
  what : BindFor
  /-- stage at which the binder took it up, and at which it began to wait (R174, R178) -/
  since : Option Nat
  waiting : Option Nat
  /-- stages that it has waited and worked before those (R174, R178) -/
  waited : Nat := 0
  worked : Nat := 0
  /-- R180 or R182 caused it (R187) -/
  again : Bool := false
deriving DecidableEq, Repr

/-- A scan in progress (R287 to R294). -/
structure Scan where
  id : Nat
  tag : Tag
  sess : Nat
  nsid : Nat
  block : Bytes
  bound : Bool
  /-- its plan's timetable -/
  tt : Option Timetable
  /-- code words that missed, with re-reads used; code words given up (R209, R294) -/
  missed : List (Nat × Nat)
  unread : List Nat
  /-- code words of its extents, counted as `missed` counts them, that commands have written since its submission (R293) -/
  dirty : List Nat := []
  /-- filter slot its reads name (R284) -/
  slot : Nat
  /-- code words evaluated at their seats or re-reads, the matches counted in them, and the matching records kept with their rows: the scan buffer of
  FIRST, the candidates of TOP (R285, R289, R292) -/
  done : List Nat := []
  matches_ : Nat := 0
  kept : List (Nat × Bytes) := []
  /-- its filter slot has been freed at the end of its plan (R284) -/
  freed : Bool := false
  /-- its record has been built and waits for protected space (R294) -/
  ended : Bool
  /-- order number of the first write acknowledged after its submission (R293) -/
  upTo : Nat
deriving DecidableEq, Repr

/-- An entry of a query's frontier (R255): ordinal, code score, final score, expanded, verdict (2 unknown). -/
structure FEntry where
  ord : Nat
  score : BitVec 32
  full : Option (BitVec 32)
  expanded : Bool
  verdict : Nat
deriving DecidableEq, Repr

/-- The walk of one query vector on its context (R254, R256). -/
structure Walk where
  coach : Nat
  ctx : Nat
  queryId : Nat
  hops : Nat
  frontier : List FEntry
  approx : Bool
  walked : Bool
  answered : Bool
  record : Option Bytes
  /-- misses so far of the node, or under STRICT of the re-rank, that is being read, and those that have been counted as their waits lapsed
  (R209 to R211) -/
  tries : Nat := 0
  lapsed : Nat := 0
  /-- an empty SEAT has answered its read, and no refill followed it (R250) -/
  empty : Bool := false
deriving DecidableEq, Repr

/-- A QUERY waiting or admitted (R252 to R259, R269 to R271). -/
structure Query where
  id : Nat
  tag : Tag
  sess : Nat
  block : Bytes
  /-- boundary of admission; generation pinned -/
  admitted : Option Nat
  gen : Nat
  walks : List Walk
  /-- shard: the peer set it was admitted under, members forwarded to and not yet in, lists in by member (the module's own
  first), whether a member was left out (R269 to R273) -/
  set : Nat
  waitingFor : List Nat
  lists : List (Nat × List PeerList)
  leftOut : Bool
deriving DecidableEq, Repr

/-- A peer of a shard set (R267, R268). -/
structure Peer where
  member : Nat
  nsid : Nat
  down : Bool
  session : Nat
  family : Nat := 4
  port : Nat := 0
  address : Bytes := []
  subnqn : Bytes := []
deriving DecidableEq, Repr

structure PeerSet where
  /-- its number in the session's order of PEER SETs (R273) -/
  no : Nat
  nsid : Nat
  self : Nat
  peers : List Peer
  /-- what each peer's shard session asks for (R267) -/
  teams : Nat := 1
  seats : Nat := 2
  granules : Nat := 1
deriving DecidableEq, Repr

/-- A quota descriptor (R193). -/
structure Quota where
  teams : Nat := 0
  seats : Nat := 2
  granules : Nat := 0
  host : Nat := 0
  prot : Nat := 0
  grants : List (Nat × Nat) := []
deriving DecidableEq, Repr

/-- A session and its quota (R213 to R216). -/
structure Session where
  num : Nat
  st : SessState
  key : Nat
  hostId : Nat
  ctrl : Nat
  quota : Quota
  part : Option Nat
  /-- pool ranges: package, first slot, slots (R195) -/
  ranges : List (Nat × Nat × Nat)
  peerWait : Nat
  hopRetries : Nat
  strict : Bool
  /-- value of feature 0xE4 at orphaning, and the stage at which the window started (R237) -/
  window : Nat
  windowStart : Option Nat
  /-- the SESSION OPEN or QUOTA SET whose granules are being zeroed (R217) -/
  zeroing : List (Tag × Bool)
  /-- a QUOTA SET that waits to change TEAMS, with its descriptor (R224) -/
  quotaWait : List (Tag × Bytes)
  /-- the SESSION CLOSE that waits, with its mode (R218) -/
  closing : Option (Tag × Nat)
  /-- records and payloads held for FETCH (R300) -/
  held : List Held
  /-- routes that its handles hold (R130) -/
  routes : List Route
  /-- routes whose image is being loaded (R130) -/
  partials : List Partial
  /-- cached timetables, least recently used first (R179) -/
  cache : List CachedTt
  /-- the run under way (R130) -/
  run : Option Run
  /-- RUNs that wait, with the image their handle held (R130, R416) -/
  queued : List (Tag × Bytes × Route)
  /-- the standing search timetable (R183) -/
  search : Option Timetable
  /-- queries under way (R252) -/
  queries : List Query
  /-- scans under way (R288) -/
  scans : List Scan
  /-- builds of this session: NSID and generation (R262) -/
  builds : List (Nat × Nat)
  /-- slots that commands have written since those builds began: NSID, generation, slot of 4 KiB and what it held before (R263) -/
  buildDirty : List (Nat × Nat × Nat × Bytes) := []
  /-- their built-in plans (R262) -/
  buildTts : List ((Nat × Nat) × Timetable) := []
  /-- peer sets of this session (R267) -/
  peerSets : List PeerSet
  /-- its save area; zero until its first switch (R217, R231) -/
  save : SaveArea
  /-- debt of the next slice (R234) -/
  debt : Nat
deriving DecidableEq, Repr

/-- Steps of a partition switch (R229). -/
inductive Switch where
  /-- the slice has ended at B; programs still run (R234) -/
  | deferred (b : Nat)
  /-- draining and transferring from the boundary B′ on to the given session; stages by which the transfers of earlier switches lengthen it
  (R232) -/
  | moving (b' : Nat) (next : Nat) (grow : Nat)
  /-- the last restore has ended; the coaches start at the next boundary -/
  | restored (next : Nat)
deriving DecidableEq, Repr

/-- A partition (R221). -/
structure Partition where
  num : Nat
  teams : List Nat
  holder : Option Nat
  /-- running stages of the present slice, and its length SLICE − D (R227) -/
  run : Nat
  slice : Nat
  switch : Option Switch
  /-- the session that held the teams last; 0 before the first (R226) -/
  last : Nat := 0
  /-- its holder has run out of work and keeps the teams (R226, R505) -/
  idle : Bool := false
deriving DecidableEq, Repr

structure Ses where
  /-- sessions that are not FREE (R213) -/
  list : List Session := []
  /-- partitions (R221) -/
  parts : List Partition := []
  /-- feature 0xE1 (R225) -/
  slice : Nat := 1024
  pack : Nat := 0
  /-- feature 0xE3 (R212) -/
  peerWait : Nat := 512
  hopRetries : Nat := 2
  strict : Bool := false
  /-- feature 0xE4 (R237) -/
  window : Nat := 60
  binds : List Bind := []
  /-- next identifier of a bind, scan or query (R253) -/
  nextId : Nat := 1
  /-- predicate slots 1 to 15 of the channel filters: predicate bytes and binds that share it (R284) -/
  slots : Table (Bytes × Nat) := []
  topoGen : Nat := 0
deriving DecidableEq, Repr

/-! ### Answer unit (ANS_) -/

/-- A list of a merge tree (R298). -/
structure AList where
  handle : Nat
  items : List (Nat × Item)
  flags : Nat
  ended : Bool
deriving DecidableEq, Repr

/-- A merge tree at work: its lists, whose record it is (R299). -/
structure Tree where
  sess : Nat
  source : Nat
  queryId : Nat
  generation : Nat
  k : Nat
  lists : List AList
  flags : Nat
  matches_ : Nat
  unread : Nat
  /-- payload bytes of each item, by identifier order (R291) -/
  payload : List Bytes
  /-- a query's record belongs to this query identifier and walk; DELIVER destination -/
  owner : Option (Nat × Nat)
  /-- stamped record that waits for protected space (R259, R294) -/
  built : Option Bytes
deriving DecidableEq, Repr

structure Ans where
  /-- merge trees in use (R299) -/
  trees : Table Tree := []
  /-- stamp of the last record completed (R299) -/
  last : Nat := 0
deriving DecidableEq, Repr

/-! ### Firmware complex and faults (FWC_) -/

/-- Counters of log page 0xD1 (R410). -/
structure Health where
  overflow : Nat := 0
  missRerank : Nat := 0
  missHop : Nat := 0
  missCodes : Nat := 0
  missWindow : Nat := 0
  missStageIn : Nat := 0
  missStall : Nat := 0
  missScan : Nat := 0
  missPeer : Nat := 0
  approximate : Nat := 0
  dropStale : Nat := 0
  dropRole : Nat := 0
  dropCrc : Nat := 0
  dropKind : Nat := 0
  secondProgram : Nat := 0
  programFail : Nat := 0
  eraseFail : Nat := 0
  verifyRefresh : Nat := 0
  verifyWeak : Nat := 0
  unitsLost : Nat := 0
  mapFaults : Nat := 0
  dramCorrected : Nat := 0
  dramUncorr : Nat := 0
  dramPoison : Nat := 0
deriving DecidableEq, Repr

/-- Counters of log page 0xD4 (R187). -/
structure TtStats where
  stages : Nat := 0
  /-- the stage after the last one that counts in `stages` (R187) -/
  stageSeen : Nat := 0
  /-- timetable entries released (R187) -/
  released : Nat := 0
  /-- seats of fixed reads that carried (R187) -/
  seatsFixed : Nat := 0
  /-- open seats that were filled (R187) -/
  seatsFilled : Nat := 0
  /-- open seats that lapsed (R187) -/
  seatsLapsed : Nat := 0
  /-- seats that missed (R187) -/
  seatsMissed : Nat := 0
  /-- seats taken by reads outside the timetables (R187) -/
  seatsUnres : Nat := 0
  /-- stages in which dies were reserved (R187) -/
  dieStages : Nat := 0
  /-- DRAM lines released (R187) -/
  dramLines : Nat := 0
  /-- binds completed (R187) -/
  binds : Nat := 0
  /-- binds answered from the cache (R187) -/
  cacheHits : Nat := 0
  /-- rebinds (R187) -/
  rebinds : Nat := 0
  /-- refused binds (R187) -/
  refusals : Nat := 0
  /-- longest bind in stages (R187) -/
  maxBind : Nat := 0
  /-- most seats of all channels in a stage (R187) -/
  peakSeats : Nat := 0
  /-- most lines of a package in a stage (R187) -/
  peakLines : Nat := 0
  /-- most flits of a link in a stage (R187) -/
  peakFlits : Nat := 0
deriving DecidableEq, Repr

/-- An entry of the error queue (R483); taken: its handler has taken it. -/
structure Err where
  cls : ErrClass
  obj : Obj
  stamp : Nat
  taken : Bool
  raised : Bool
deriving DecidableEq, Repr

structure Fwc where
  /-- counters of log page 0xD1 (R410) -/
  health : Health := {}
  /-- counters of log page 0xD4 (R187) -/
  tt : TtStats := {}
  /-- the event log, oldest first (R486) -/
  events : List Event := []
  /-- events logged so far (R487) -/
  total : Nat := 0
  /-- events before the stamp start (R468) -/
  early : List Event := []
  errq : List Err := []
  /-- FATAL errors whose action takes effect at the next boundary without a queue entry (R484) -/
  direct : List Obj := []
  /-- limp mode and its cause (R476) -/
  limp : Option Nat := none
  /-- components under restart; stages of past restarts: component × and stage (R473, R476) -/
  restarting : List Nat := []
  restarts : List (Nat × Nat) := []
  mailboxDrops : Nat := 0
  /-- hardware objects waiting for a retest (R482) -/
  retest : List Obj := []
  /-- left off by the OFF action (R485) -/
  off : Bool := false
  /-- in limp mode the write buffer has drained, and leaves and a mark have followed (R478) -/
  drained : Bool := false
deriving DecidableEq, Repr

/-! ### Security core (SEC_) -/

structure Sec where
  /-- fuse bits blown, ascending (R462) -/
  fuses : List Nat := []
  /-- owner digests installed, lowest slot first (R492) -/
  owners : List Bytes := []
  /-- SEC_VERSION fuses blown (R481) -/
  secFused : Nat := 0
  /-- the image has verified; its SEC_VERSION, FW_VERSION, signer (R453, R454) -/
  imageOk : Bool := false
  secVersion : Nat := 0
  fwVersion : Nat := 0
  signer : Nat := 0
  /-- an owner chain stands (R491, R492) -/
  chain : Bytes := []
  /-- draws of the DRBG so far, and those at the last reseed; stage of the last reseed (R496) -/
  draws : Nat := 0
  reseedAt : Nat := 0
  reseeds : Nat := 0
  /-- SPDM algorithms negotiated, by controller (R491) -/
  spdm : List (Nat × Nat) := []
  /-- SERIAL and UDS fuses, as numbers; UDS is named by no other state (R462, R490) -/
  serial : Bytes := []
  uds : Nat := 0
  /-- alias certificate number, drawn afresh at each power-on (R490) -/
  aliasNo : Nat := 0
deriving DecidableEq, Repr

/-! ### Bring-up (BOOT_) -/

/-- What the module is doing. -/
inductive Mode where
  | off | bringUp | ready | diagnostic
deriving DecidableEq, Repr

/-- Phases of bring-up that have ended (R450). -/
structure Phases where
  fuses : Bool := false
  records : Bool := false
  dram : Bool := false
  filled : Bool := false
  image : Bool := false
  owner : Bool := false
  channels : Bool := false
  dies : Bool := false
  lanes : Bool := false
  coaches : Bool := false
  topology : Bool := false
  firmware : Bool := false
  scan : Bool := false
  replay : Bool := false
  stamp : Bool := false
  work : Bool := false
deriving DecidableEq, Repr

structure Boot where
  /-- what the module serves (R399) -/
  mode : Mode := .off
  /-- steps of bring-up that have ended (R469) -/
  ph : Phases := {}
  /-- outcome, cause and detail of the topology check (R466, R469) -/
  outcome : Nat := 0
  cause : Nat := 0
  detail : Nat := 0
  reduced : Bool := false
  /-- expected counts and minimums (R457) -/
  expected : List Nat := []
  minimum : List Nat := []
  /-- types of records that stand (R456) -/
  stand : List Nat := []
  /-- configuration memory bytes (R455); 0xFF unlisted, as erased NOR reads -/
  cfg : Table Byte := []
  /-- units that failed a test of their own this power-on as (class, index); class 8 for ring and attachment links (R464, R469) -/
  failed : List (Nat × Nat) := []
  /-- ring stations whose router failed (R464) -/
  stationsOut : List Nat := []
  /-- bytes last driven on CFG_MISO (R445) -/
  cfgOut : Bytes := []
  /-- test-failure records in flash, by class and index (R465) -/
  failLog : List (Nat × Nat) := []
deriving DecidableEq, Repr

/-! ### The whole -/

structure State where
  /-- commands waiting, first in first out -/
  pending : List Instr := []
  /-- the model's own: how many free values have been drawn -/
  freeCtr : Nat := 0
  stg : Stg := {}
  clk : Clk := {}
  coa : Coa := {}
  fab : Fab := {}
  drm : Drm := {}
  fla : Fla := {}
  xlt : Xlt := {}
  pwr : Pwr := {}
  port : Port := {}
  que : Que := {}
  ns : NsTab := {}
  ses : Ses := {}
  ans : Ans := {}
  fwc : Fwc := {}
  sec : Sec := {}
  boot : Boot := {}
deriving DecidableEq, Repr

/-- The module right after reset: off, no command waiting, every field at its default. -/
def State.reset : State := {}

end Sys2Proof.Machine
end

