-- ==== Sys2Proof/Machine/Ops.lean ====
section
/-! DEFINITION. The named operations over the state that the meanings share: sparse tables, stamps, events, errors,
completions, asynchronous events, and the lookups of controllers, sessions, namespaces and partitions. -/

namespace Sys2Proof.Machine

/-! ### Sparse tables -/

/-- The value of a key: the default d where unlisted. -/
def Tab.get {α : Type} (d : α) : Table α → Nat → α
  | [], _ => d
  | (k, v) :: t, i => if k = i then v else Tab.get d t i

/-- A key inserted or replaced, keys kept rising. -/
def Tab.put {α : Type} : Table α → Nat → α → Table α
  | [], i, v => [(i, v)]
  | (k, w) :: t, i, v => if k < i then (k, w) :: Tab.put t i v else if k = i then (i, v) :: t else (i, v) :: (k, w) :: t

/-- A key removed. -/
def Tab.del {α : Type} : Table α → Nat → Table α
  | [], _ => []
  | (k, w) :: t, i => if k = i then t else (k, w) :: Tab.del t i

/-- A write keeps the canonical form: the default value is never listed. -/
def Tab.set {α : Type} [DecidableEq α] (d : α) (t : Table α) (i : Nat) (v : α) : Table α :=
  if v = d then Tab.del t i else Tab.put t i v

/-- Keys strictly rising from a bound, no entry equal to the default. -/
def Tab.wfFrom {α : Type} [DecidableEq α] (d : α) : Nat → Table α → Bool
  | _, [] => true
  | lo, (k, v) :: t => decide (lo ≤ k) && decide (v ≠ d) && Tab.wfFrom d (k + 1) t

/-- The canonical form of a table. -/
def Tab.wf {α : Type} [DecidableEq α] (d : α) (t : Table α) : Bool := Tab.wfFrom d 0 t

/-- Keys of [lo, hi) removed: they read as the default. -/
def Tab.clear {α : Type} (t : Table α) (lo hi : Nat) : Table α := t.filter fun e => decide (e.1 < lo) || decide (hi ≤ e.1)

/-- A byte string written from a key on. -/
def Tab.putBytes (d : Byte) (t : Table Byte) (i : Nat) : Bytes → Table Byte
  | [] => t
  | b :: bs => Tab.putBytes d (Tab.set d t i b) (i + 1) bs

/-- n bytes read from a key on. -/
def Tab.getBytes (d : Byte) (t : Table Byte) (i : Nat) : Nat → Bytes
  | 0 => []
  | n + 1 => Tab.get d t i :: Tab.getBytes d t (i + 1) n

/-- Elements that meet a test changed, the others kept. -/
def updateIf {α : Type} (p : α → Bool) (f : α → α) (l : List α) : List α := l.map fun x => if p x then f x else x

/-- A number inserted into an ascending list without repeats. -/
def insertNat (n : Nat) : List Nat → List Nat
  | [] => [n]
  | k :: l => if n < k then n :: k :: l else if n = k then k :: l else k :: insertNat n l

/-- The first of n numbers from i on that meets a test. -/
def findUp (p : Nat → Bool) : Nat → Nat → Option Nat
  | 0, _ => none
  | n + 1, i => if p i then some i else findUp p n (i + 1)

/-- The first of 0 .. n − 1 that meets a test. -/
def firstBelow (p : Nat → Bool) (n : Nat) : Option Nat := findUp p n 0

/-! ### Free values -/

/-- Draws a free number and advances the model's counter. -/
def State.drawNat (s : State) : Nat × State := (Config.freeNat s.freeCtr, { s with freeCtr := s.freeCtr + 1 })

/-- Draws n free bytes (R4, R325). -/
def State.drawBytes (s : State) (n : Nat) : Bytes × State :=
  ((List.range n).map (Config.freeByte s.freeCtr), { s with freeCtr := s.freeCtr + 1 })

/-- Draws 512 bits from the security core's DRBG (R496). -/
def State.drawKey (s : State) : Nat × State :=
  ((Config.drbg s.sec.draws).toNat, { s with sec := { s.sec with draws := s.sec.draws + 1 } })

/-! ### Stamps (R29, R44) -/

/-- Stage count at which the counter holds. -/
def stageMax : Nat := 2 ^ 50 - 1

/-- Threshold of the exhausted stamp (R44). -/
def exhaustAt : Nat := 2 ^ 50 - 2 ^ 32

def fullStamp (stage cycle : Nat) : Nat := stage * 16384 + cycle
/-- A short stamp was issued before another, by half-range serial arithmetic (R30, R43). -/
def shortBefore (a b : Nat) : Bool := decide (2 ^ 31 ≤ (a + 2 ^ 32 - b % 2 ^ 32) % 2 ^ 32)

def stampStage (st : Nat) : Nat := st / 16384
def stampCycle (st : Nat) : Nat := st % 16384

/-- The full stamp of the core cycle in which a requester asks. -/
def State.stamp (s : State) : Nat := fullStamp s.stg.stage s.stg.cycle

/-- How far the cycle field advances at a time: by one core cycle, by 15 while any domain runs from bypass (R51). -/
def State.cycleStep (s : State) : Nat := if s.clk.core.root && s.clk.flash.root && s.clk.dram.root then 1 else 15

/-- Time passes within the stage: how many core cycles lie between one request for a stamp and the next is open, none among them, so two
requesters may get one stamp; the field stays within 12,299 (R29, R44, R51). -/
def State.nextCycle (s : State) : State :=
  let left := (12299 - s.stg.cycle) / s.cycleStep
  { s with stg := { s.stg with
    cycle := s.stg.cycle + s.cycleStep * (Config.corePace s.stg.ticks % (left + 1))
    ticks := s.stg.ticks + 1 } }

/-- The core cycle has come to that of a stamp of this stage. -/
def State.stampTo (s : State) (stamp : Nat) : State :=
  let c := if stampStage stamp = s.stg.stage then min 12299 (stampCycle stamp) else 0
  { s with stg := { s.stg with cycle := max s.stg.cycle c } }

/-- The stamp of the boundary that starts the present stage. -/
def State.boundaryStamp (s : State) : Nat := fullStamp s.stg.stage 0

/-! ### Event log (R486 to R488) -/

/-- Newest n elements of a list whose newest stands last. -/
def newest {α : Type} (n : Nat) (l : List α) : List α := l.drop (l.length - n)

/-- Records an event with a stamp, or holds it until the stamp start (R468). -/
def State.eventAt (s : State) (stamp code cls source : Nat) (obj : Obj) (detail : Bytes) : State :=
  let e : Event := ⟨stamp, s.fwc.total + 1, code, cls, source, obj, fit 36 detail⟩
  if s.stg.loaded then
    { s with fwc := { s.fwc with events := newest 64 (s.fwc.events ++ [e]), total := s.fwc.total + 1 } }
  else { s with fwc := { s.fwc with early := s.fwc.early ++ [e] } }

/-- Records an event with the stamp of its core cycle. -/
def State.event (s : State) (code cls source : Nat) (obj : Obj) (detail : Bytes) : State :=
  let s' := s.eventAt s.stamp code cls source obj detail
  if s.stg.loaded then s'.nextCycle else s'

/-- No object (R482). -/
def noObj : Obj := ⟨0, 0⟩

/-- The object word of R482. -/
def objWord (o : Obj) : Nat := o.kind * 2 ^ 24 + o.index % 2 ^ 24

/-! ### Errors (R482 to R485) -/

def errCode : ErrClass → Nat
  | .note => 0
  | .recoverable => 1
  | .severe => 2
  | .fatal => 3

/-- One class higher, up to FATAL. -/
def errUp : ErrClass → ErrClass
  | .note => .recoverable
  | .recoverable => .severe
  | _ => .fatal

/-- An error enters the queue of 64 entries, four of them kept for FATAL. An error for an object whose earlier error
is being handled raises both by one class, once. -/
def raiseError (cls : ErrClass) (o : Obj) (s : State) : State :=
  let q := s.fwc.errq
  let again := q.any fun e => e.obj == o && e.taken && !e.raised
  let cls := if again then errUp cls else cls
  let q := if again then updateIf (fun e => e.obj == o && e.taken && !e.raised) (fun e => { e with cls := errUp e.cls, raised := true }) q else q
  let e : Err := ⟨cls, o, s.stamp, false, again⟩
  let s := { s with fwc := { s.fwc with errq := q } }
  if cls = .fatal then
    if 4 ≤ (q.filter fun e => e.cls == .fatal).length then
      { s with fwc := { s.fwc with direct := s.fwc.direct ++ [o] } }
    else { s.nextCycle with fwc := { s.fwc with errq := q ++ [e] } }
  else if 60 ≤ (q.filter fun e => e.cls != .fatal).length then
    { s with fwc := { s.fwc with health := { s.fwc.health with overflow := s.fwc.health.overflow + 1 } } }
  else { s.nextCycle with fwc := { s.fwc with errq := q ++ [e] } }

/-! ### Lookups -/

def State.ctrl? (s : State) (id : Nat) : Option Ctrl := s.que.ctrls.find? fun c => c.id == id
def State.sess? (s : State) (n : Nat) : Option Session := s.ses.list.find? fun x => x.num == n
def State.ns? (s : State) (nsid : Nat) : Option Ns := s.ns.list.find? fun x => x.nsid == nsid
def State.part? (s : State) (n : Nat) : Option Partition := s.ses.parts.find? fun p => p.num == n

def State.updCtrl (s : State) (id : Nat) (f : Ctrl → Ctrl) : State :=
  { s with que := { s.que with ctrls := updateIf (fun c => c.id == id) f s.que.ctrls } }
def State.updSess (s : State) (n : Nat) (f : Session → Session) : State :=
  { s with ses := { s.ses with list := updateIf (fun x => x.num == n) f s.ses.list } }
def State.updNs (s : State) (nsid : Nat) (f : Ns → Ns) : State :=
  { s with ns := { s.ns with list := updateIf (fun x => x.nsid == nsid) f s.ns.list } }
def State.updPart (s : State) (n : Nat) (f : Partition → Partition) : State :=
  { s with ses := { s.ses with parts := updateIf (fun p => p.num == n) f s.ses.parts } }

/-! ### Module state -/

/-- The module runs: it has power, no power-loss sequence runs and it is not held. -/
def State.powered (s : State) : Bool := s.pwr.standby && s.pwr.rails && s.pwr.seq == .none

/-- The core domain has clock edges in this stage: it is not stopped for a switch of its source or for a rest window (R49, R50, R439). -/
def State.coreClock (s : State) : Bool := s.powered && !s.pwr.resting && s.clk.core.target.isNone

/-- The flash channel and DRAM interface domains have clock edges in this stage (R49, R440). -/
def State.flashClock (s : State) : Bool := s.powered && s.clk.flash.target.isNone
def State.dramClock (s : State) : Bool := s.powered && s.clk.dram.target.isNone

/-- Hosts are served: ready, or held in the diagnostic state. DESIGN CHOICE: there from the stamp start on, so that all carries stamps
(R451, R452, R468). -/
def State.serving (s : State) : Bool := s.boot.mode == .ready || (s.boot.mode == .diagnostic && s.stg.loaded)

/-- The port serves commands: ready or diagnostic, and the port up (R385, R452). -/
def State.portServes (s : State) : Bool := s.powered && s.serving && s.port.width != 0

/-- Limp mode or the clock-failed state: both serve what R479 lists (R399, R502). -/
def State.limpServes (s : State) : Bool := s.fwc.limp.isSome || s.clk.failed

/-! ### Completions (R28, R418, R419) -/

/-- A status: code type, code, Do Not Retry. -/
structure Status where
  sct : Nat
  sc : Nat
  dnr : Bool
deriving DecidableEq, Repr

def Status.ok : Status := ⟨0, 0, false⟩
def Status.invalidOpcode : Status := ⟨0, 0x01, true⟩
def Status.invalidField : Status := ⟨0, 0x02, true⟩
def Status.abortRequested : Status := ⟨0, 0x07, false⟩
def Status.invalidNs : Status := ⟨0, 0x0B, true⟩
def Status.dataSglLength : Status := ⟨0, 0x0F, true⟩
def Status.operationDenied : Status := ⟨0, 0x15, true⟩
def Status.writeProtected : Status := ⟨0, 0x20, false⟩
def Status.interrupted : Status := ⟨0, 0x21, false⟩
def Status.lbaRange : Status := ⟨0, 0x80, true⟩
def Status.capacityExceeded : Status := ⟨0, 0x81, true⟩
def Status.nsNotReady : Status := ⟨0, 0x82, false⟩
def Status.formatInProgress : Status := ⟨0, 0x84, false⟩
def Status.aerLimit : Status := ⟨1, 0x05, true⟩
def Status.invalidLogPage : Status := ⟨1, 0x09, true⟩
def Status.notSaveable : Status := ⟨1, 0x0D, true⟩
def Status.notChangeable : Status := ⟨1, 0x0E, true⟩
def Status.nsInsufficient : Status := ⟨1, 0x15, true⟩
def Status.nsIdUnavailable : Status := ⟨1, 0x16, true⟩
def Status.connectBusy : Status := ⟨1, 0x81, false⟩
def Status.connectInvalid : Status := ⟨1, 0x82, true⟩
def Status.readError : Status := ⟨2, 0x81, true⟩
def Status.accessDenied : Status := ⟨2, 0x86, true⟩
/-- REFUSED: DNR 0 for reason 0x28 BUSY, else 1 (R418). -/
def Status.refused (reason : Nat) : Status := ⟨7, 0x80, reason != 0x28⟩
def Status.deadlineMissed : Status := ⟨7, 0x81, false⟩
/-- ROUTE_FAULT: DNR 0 for ROUTE_STALL and POWER_STOP, else 1 (R418). -/
def Status.routeFault (code : Nat) : Status := ⟨7, 0x82, !(code == 3 || code == 5)⟩
def Status.stampExhausted : Status := ⟨7, 0x83, true⟩
def Status.aborted : Status := ⟨7, 0x84, true⟩

/-- Adds a completion to the batch of the next boundary, where its controller still lives (R28, R395). -/
def State.completeWith (s : State) (tag : Tag) (st : Status) (dw0 dw1 : Nat) (data : Bytes) : State :=
  if (s.ctrl? tag.ctrl).isSome then
    let c : Completion := ⟨tag, st.sct, st.sc, st.dnr, BitVec.ofNat 32 dw0, BitVec.ofNat 32 dw1, data⟩
    let q := { s.que with
      done := s.que.done ++ [c]
      errLog := if st.sct = 0 && st.sc = 0 then s.que.errLog else newest 64 (s.que.errLog ++ [⟨tag, st.sct, st.sc⟩])
      mediaErrors := if st = Status.readError then s.que.mediaErrors + 1 else s.que.mediaErrors }
    { s with que := q }
  else s

/-- A successful completion. -/
def State.succeed (s : State) (tag : Tag) (dw0 dw1 : Nat) (data : Bytes) : State := s.completeWith tag .ok dw0 dw1 data

/-- A completion with an error status. -/
def State.fail (s : State) (tag : Tag) (st : Status) : State := s.completeWith tag st 0 0 []

/-- A refusal with a reason in dword 0 bits [7:0] (R418). -/
def State.refuse (s : State) (tag : Tag) (reason : Nat) : State := s.completeWith tag (.refused reason) reason 0 []

/-- Which states serve a command (R399): before CC.EN, in the diagnostic state, in limp mode, with a format pending. -/
structure Serve where
  fabrics : Bool := false
  diag : Bool := false
  limp : Bool := false
  pend : Bool := false
deriving DecidableEq, Repr

/-- Takes a command of a controller: nothing happens where no command can reach the module; a state of R399 answers
it; else the meaning runs. -/
def State.command (s : State) (tag : Tag) (w : Serve) (f : Ctrl → State → State) : State :=
  if !s.portServes then s
  else match s.ctrl? tag.ctrl with
    | none => s
    | some c =>
      if !c.enabled && !w.fabrics then s
      else if s.boot.mode == .diagnostic && !w.diag then s.fail tag .operationDenied
      else if s.limpServes && !w.limp then s.fail tag .operationDenied
      else if s.ns.formatPending && !w.pend then s.fail tag .nsNotReady
      else f c s

/-! ### Asynchronous events (R422) -/

/-- Whether an event's bit of feature 0x0B is set: SMART bits 0 to 4, Namespace Attribute notices bit 8, vendor events
bit 31. -/
def eventEnabled (cfg type info : Nat) : Bool :=
  if type = 1 then bit cfg info else if type = 2 then bit cfg 8 else bit cfg 31

/-- Posts one event to one controller: an outstanding request completes, or the event is kept for the next one (DEDUCED); it is masked
until its page is read with RAE clear. -/
def postOne (type info lid : Nat) (s : State) (c : Ctrl) : State :=
  if eventEnabled c.evCfg type info && !(c.masked.contains (type, lid)) then
    match c.aers with
    | [] => s.updCtrl c.id fun c => { c with held := c.held ++ [(type, info, lid)], masked := c.masked ++ [(type, lid)] }
    | cid :: rest =>
      let s := s.updCtrl c.id fun c => { c with aers := rest, masked := c.masked ++ [(type, lid)] }
      s.succeed ⟨c.id, cid⟩ (type + info * 256 + lid * 65536) 0 []
  else s

def State.asyncEvent (s : State) (type info lid : Nat) : State := s.que.ctrls.foldl (postOne type info lid) s

/-- A message leaves the port. -/
def State.send (s : State) (m : TxMsg) : State := { s with port := { s.port with tx := s.port.tx ++ [m] } }

/-! ### Yoke (R32, R33) -/

def Yoke.code : Yoke → Nat
  | .disabled => 0
  | .free => 1
  | .acquiring => 2
  | .yoked => 3
  | .holdover => 4
  | .behind => 5

/-- The state counts as yoked (R32, R38). -/
def Yoke.counts : Yoke → Bool
  | .yoked | .holdover => true
  | _ => false

/-- A yoke state change at the boundary that starts this stage: logged with old and new state and offset under the boundary's stamp, and
posted (R33, R422). -/
def State.changeYoke (s : State) (y : Yoke) : State :=
  if s.stg.yoke = y then s
  else
    let old := s.stg.yoke
    let s := { s with stg := { s.stg with yoke := y, okRun := 0, farRun := 0, jump := none } }
    let s := s.eventAt s.boundaryStamp 0x0002 0 6 noObj ([BitVec.ofNat 8 old.code, BitVec.ofNat 8 y.code] ++ toLe 4 (unsigned 32 s.stg.offset))
    s.asyncEvent 7 1 0xD0

/-- The state the yoke is in once every change whose condition is met has taken effect. -/
def Stg.yokeSoon (g : Stg) : Yoke := g.yokeNext.getLastD g.yoke

/-- A condition of R33 is met: the yoke changes at the next boundary. -/
def State.setYoke (s : State) (y : Yoke) : State :=
  if s.stg.yokeSoon = y then s else { s with stg := { s.stg with yokeNext := s.stg.yokeNext ++ [y] } }

/-- The yoke's changes take effect at a boundary (R33). -/
def State.yokeTick (s : State) : State :=
  let l := s.stg.yokeNext
  l.foldl State.changeYoke { s with stg := { s.stg with yokeNext := [] } }

/-! ### Health counters -/

def State.health (s : State) (f : Health → Health) : State := { s with fwc := { s.fwc with health := f s.fwc.health } }
def State.tt (s : State) (f : TtStats → TtStats) : State := { s with fwc := { s.fwc with tt := f s.fwc.tt } }

/-! ### Geometry (R53, R301 to R303, R482) -/

/-- Key of a plane block: die × 16,384 + plane × 4,096 + block (R482). -/
def pbKey (die plane block : Nat) : Nat := (die * 4 + plane) * 4096 + block

/-- Key of a code word. -/
def cwKey (a : CwAddr) : Nat := ((pbKey a.die a.plane a.block) * 512 + a.page) * 4 + a.cw

def pbOf (a : CwAddr) : Nat := pbKey a.die a.plane a.block

/-- Physical page address (R303). -/
def ppa (die block page : Nat) : Nat := die * 2 ^ 21 + block * 2 ^ 9 + page

/-- The superblock of a die and block: block × 16 + die position (R302). -/
def sbOf (die block : Nat) : Nat := block * 16 + die % 16
def sbBlock (sb : Nat) : Nat := sb / 16
def sbDie (sb chan : Nat) : Nat := chan * 16 + sb % 16

/-- Hub and channel of a die. -/
def chanOf (die : Nat) : Nat := die / 16
def hubOf (die : Nat) : Nat := die / 64

/-- A unit of the topology left or entered service: the topology generation rises, and the change is logged (R179,
R488). -/
def State.topoChange (s : State) (o : Obj) (entered : Bool) : State :=
  let g := s.ses.topoGen + 1
  let s := { s with ses := { s.ses with topoGen := g } }
  s.event 0x000E 0 0xFF o ([if entered then 1 else 0] ++ toLe 4 g)

end Sys2Proof.Machine
end

