-- ==== Sys2Proof/Machine/Coach.lean ====
section
/-! DEFINITION. The coach: SRAM, the systolic grid with its register sets, load path and swap, the vector unit, and the
states of the sequencer's contexts (R53 to R76). -/

namespace Sys2Proof.Machine

/-! ### SRAM (R68) -/

def sramBytes : Nat := 2097152

def sramKey (coach addr : Nat) : Nat := coach * sramBytes + addr

/-- Bytes of a coach's SRAM; addresses past its end read zero. -/
def State.sramRead (s : State) (coach addr n : Nat) : Bytes :=
  fit n (Tab.getBytes 0 s.coa.sram (sramKey coach addr) (min n (sramBytes - addr)))

/-- Bytes written into a coach's SRAM; none is written past its end. -/
def State.sramWrite (s : State) (coach addr : Nat) (bs : Bytes) : State :=
  { s with coa := { s.coa with sram := Tab.putBytes 0 s.coa.sram (sramKey coach addr) (bs.take (sramBytes - addr)) } }

/-- COA_ROLE's fields (R91). -/
def State.coaRole (s : State) (coach : Nat) : BitVec 32 := Tab.get 0 s.coa.role coach
def State.coachOut (s : State) (coach : Nat) : Bool := (s.coaRole coach).getLsbD 15
def State.roleStamp (s : State) (coach : Nat) : Nat := (s.coaRole coach).toNat % 256

/-- Its partition is in a switch, from B′ until the incoming session's coaches start (R76, R229). -/
def State.coachSwitching (s : State) (coach : Nat) : Bool :=
  s.ses.parts.any fun p => p.teams.contains (coach / 16) && match p.switch with
    | some (.moving b _ _) => decide (b ≤ s.stg.stage)
    | some (.restored _) => true
    | _ => false

/-- The coach issues: it exists, is in service, its clock runs, and no switch has stopped it (R10, R49, R50, R76, R91). -/
def State.coachRuns (s : State) (coach : Nat) : Bool :=
  s.coreClock && decide (coach < 256) && !s.coachOut coach && !s.coachSwitching coach

/-! ### Elements in memory (R96) -/

/-- Element i of a packed byte string: two 4-bit elements share a byte, the even one in the low half. -/
def elemAt (f : Fmt) (bs : Bytes) (i : Nat) : Nat :=
  if fmtBits f = 4 then
    let b := field bs (i / 2) 1
    if i % 2 = 0 then b % 16 else b / 16
  else field bs (i * (fmtBits f / 8)) (fmtBits f / 8)

/-- Codes packed into bytes. -/
def packElems (f : Fmt) : List Nat → Bytes
  | [] => []
  | [x] => if fmtBits f = 4 then [BitVec.ofNat 8 (x % 16)] else toLe (fmtBits f / 8) x
  | x :: y :: l =>
    if fmtBits f = 4 then BitVec.ofNat 8 (x % 16 + y % 16 * 16) :: packElems f l
    else toLe (fmtBits f / 8) x ++ packElems f (y :: l)

/-- Bytes of n elements. -/
def elemBytes (f : Fmt) (n : Nat) : Nat := ceilDiv (n * fmtBits f) 8

/-! ### Stationary registers (R58 to R63) -/

def setKey (coach set : Nat) : Nat := coach * 2 + set

def State.activeSet (s : State) (coach : Nat) : Nat := Tab.get 0 s.coa.active coach
def State.shadowSet (s : State) (coach : Nat) : Nat := 1 - s.activeSet coach

/-- Numbers of the formats a register set's tile may have (R132), to keep the format beside the codes. -/
def fmtCode : Fmt → Nat
  | .fp32 => 0 | .bf16 => 1 | .fp16 => 2 | .e5m2 => 3 | .e4m3 => 4 | .e2m1 => 5 | .int8 => 6 | .int4 => 7
  | .e8m0 => 8 | .int32 => 16 | .uint32 => 17 | .uint64 => 18 | .byte => 19

def fmtOf? : Nat → Option Fmt
  | 0 => some .fp32 | 1 => some .bf16 | 2 => some .fp16 | 3 => some .e5m2 | 4 => some .e4m3 | 5 => some .e2m1
  | 6 => some .int8 | 7 => some .int4 | 8 => some .e8m0 | 16 => some .int32 | 17 => some .uint32 | 18 => some .uint64
  | 19 => some .byte | _ => none

def State.setFmt (s : State) (coach set : Nat) : Fmt := (fmtOf? (Tab.get 6 s.coa.tileFmt (setKey coach set))).getD .int8

/-- The weight that element (i, j) of a set holds, widened exactly. -/
def State.weight (s : State) (coach set i j : Nat) : F32 :=
  widen (s.setFmt coach set) (Tab.get 0 s.coa.regs (setKey coach set * 4096 + i * 64 + j)).toNat

def State.colScale (s : State) (coach set j : Nat) : F32 := Tab.get 0 s.coa.scales (setKey coach set * 64 + j)

/-- 16-bit weights run the grid at quarter rate (R62, R63). -/
def quarterRate (f : Fmt) : Bool := fmtBits f = 16

/-- Formats of a tile's weights and of the activations that the grid takes (R63, R117). -/
def isWeight (f : Fmt) : Bool := [Fmt.int4, .int8, .e2m1, .e4m3, .e5m2, .bf16, .fp16].contains f
def isAct (f : Fmt) : Bool := f == .bf16 || f == .fp16

/-- The scale of column j of a load: 1.0 where the tile declares none, a BF16 or E8M0 block scale, or the tensor scale, an E8M0 code, in
every column (R55, R97, R114). -/
def loadScale (s : State) (coach : Nat) (l : TileLoad) (j : Nat) : F32 :=
  match l.scale with
  | .none => .one
  | .bf16 => widen .bf16 (field (s.sramRead coach (l.scaleBase + 2 * j) 2) 0 2)
  | .e8m0 => widen .e8m0 (field (s.sramRead coach (l.scaleBase + j) 1) 0 1)
  | .tensor => widen .e8m0 (field (s.sramRead coach l.scaleBase 1) 0 1)

/-- Column j of a load: one line of 64 codes in ascending reduction order, down one grid column (R60). -/
def loadColumn (coach set : Nat) (l : TileLoad) (s : State) (j : Nat) : State :=
  let n := elemBytes l.fmt 64
  let line := s.sramRead coach (l.base + n * j) n
  let regs := (List.range 64).foldl
    (fun t i => Tab.set 0 t (setKey coach set * 4096 + i * 64 + j) (BitVec.ofNat 16 (elemAt l.fmt line i))) s.coa.regs
  { s with coa := { s.coa with
      regs := regs
      scales := Tab.set 0 s.coa.scales (setKey coach set * 64 + j) (loadScale s coach l j) } }

/-- A tile and its scales in the shadow set (R55, R60). -/
def loadTile (coach : Nat) (l : TileLoad) (s : State) : State :=
  let set := s.shadowSet coach
  let s := (List.range 64).foldl (loadColumn coach set l) s
  { s with coa := { s.coa with tileFmt := Tab.set 6 s.coa.tileFmt (setKey coach set) (fmtCode l.fmt) } }

/-- Number of a unit's queue. -/
def unitNo : CoachUnit → Nat
  | .grid => 0
  | .vector => 1
  | .load => 2
  | .send => 3

/-- Number of instructions in a unit's queue (R73). -/
def State.queued (s : State) (coach : Nat) (u : CoachUnit) : Nat := (Tab.get [] s.coa.queues (coach * 4 + unitNo u)).length

/-- An instruction taken from its unit's queue, which then has room: the contexts that wait for it become ready (R73). -/
def takeQueue (coach : Nat) (i : UnitInstr) (s : State) : State :=
  let u := i.unit
  let wake := fun e : Nat × Ctx => if e.1 / 64 = coach && e.2.st == .waiting && e.2.unit == some u then (e.1, { e.2 with st := .ready, unit := none }) else e
  { s with coa := { s.coa with
    queues := Tab.set [] s.coa.queues (coach * 4 + unitNo u) ((Tab.get [] s.coa.queues (coach * 4 + unitNo u)).erase i)
    ctxs := s.coa.ctxs.map wake } }

/-- By how much the holds after the last swap are multiplied: 4 where the set it retired or the set it made active runs at quarter rate, so
that vectors in flight at that rate pass and swaps to a 16-bit tile lie 512 cycles from the next one (R61, R62, R64). -/
def holdRate (s : State) (coach : Nat) : Nat := Tab.get 1 s.coa.swapRate coach

/-- Earliest start of a load after the last swap s: s + 62, fourfold at quarter rate (R61, R62). -/
def earliestLoad (s : State) (coach : Nat) : Nat :=
  match Tab.get 0 s.coa.lastSwap coach with
  | 0 => 0
  | n + 1 => n + 62 * holdRate s coach

/-- Core cycle from which a swap to a tile is permitted whose load starts in cycle `start`: its 64 columns and scales are written 66 cycles
later, at quarter rate within the fourfold holds, the scales no earlier than s + 508, so that two swaps lie 128 or 512 cycles apart (R60 to
R62). -/
def loadDone (s : State) (coach start : Nat) : Nat :=
  match Tab.get 0 s.coa.lastSwap coach with
  | 0 => start + 66
  | n + 1 => max (start + 66) (n + 128 * holdRate s coach)

/-- A tile loaded by a load asked for in core cycle t (R60 to R62). -/
def startLoad (coach t : Nat) (l : TileLoad) (s : State) : State :=
  let done := loadDone s coach (max t (earliestLoad s coach))
  let s := loadTile coach l s
  { s with coa := { s.coa with loadEnd := Tab.set 0 s.coa.loadEnd coach (done + 1) } }

/-- A transposed load asked for in core cycle t, of one of the weight formats. -/
def transposedLoad (coach t : Nat) (l : TileLoad) (s : State) : State :=
  if s.coachRuns coach && isWeight l.fmt then takeQueue coach (.load l) (startLoad coach t l s) else s

def execTransposedLoad (coach t : Nat) (l : TileLoad) (s : State) : Host.Outcome State Fault Refusal :=
  .next (transposedLoad coach t l s)

/-- Core cycle of a swap asked for in core cycle t: the end of the tile's load where that is later (R61). -/
def swapCycle (s : State) (coach t : Nat) : Nat := max t (Tab.get 0 s.coa.loadEnd coach - 1)

/-- The sets change roles in one core cycle (R59, R61). -/
def swapSets (coach t : Nat) (s : State) : State :=
  { s with coa := { s.coa with
      active := Tab.set 0 s.coa.active coach (s.shadowSet coach)
      lastSwap := Tab.set 0 s.coa.lastSwap coach (swapCycle s coach t + 1)
      swapRate := Tab.set 1 s.coa.swapRate coach (if quarterRate (s.setFmt coach 0) || quarterRate (s.setFmt coach 1) then 4 else 1)
      loadEnd := Tab.set 0 s.coa.loadEnd coach 0 } }

/-- A swap waits for the load of its tile; with no tile loaded since the last swap it does not take place. -/
def stationarySwap (coach t : Nat) (s : State) : State :=
  if s.coachRuns coach && Tab.get 0 s.coa.loadEnd coach != 0 then swapSets coach t s else s

def execStationarySwap (coach t : Nat) (s : State) : Host.Outcome State Fault Refusal := .next (stationarySwap coach t s)

/-! ### The grid (R54 to R57, R64) -/

/-- Chunk sum of one column: the first product passes unchanged, each later one adds with one rounding (R54). -/
def columnSum (s : State) (coach set : Nat) (x : List F32) (j : Nat) : F32 :=
  chunkSum ((x.zipIdx).map fun p => fmul p.1 (s.weight coach set p.2 j))

/-- One activation row through the active tile: rescaled sums into the accumulator row (R55 to R57). -/
def gridRow (coach : Nat) (i : MatInstr) (chunk ct : Nat) (s : State) (r : Nat) : State :=
  let set := s.activeSet coach
  let n := elemBytes i.xFmt 64
  let line := s.sramRead coach (i.xBase + r * i.xStride + chunk * n) n
  let x := (List.range 64).map fun k => widen i.xFmt (elemAt i.xFmt line k)
  let ya := i.yBase + r * i.yStride + ct * 256
  let init := chunk = 0 && !i.accIn
  let out := (List.range 64).flatMap fun j =>
    let v := fmul (columnSum s coach set x j) (s.colScale coach set j)
    let old : F32 := BitVec.ofNat 32 (field (s.sramRead coach (ya + 4 * j) 4) 0 4)
    toLe 4 (if init then v else fadd old v).toNat
  s.sramWrite coach ya out

/-- A matrix instruction at work on its coach: the state, the core cycle from which its next swap may take place, and the one at which its
last vector so far has retired. -/
structure GridRun where
  s : State
  free : Nat
  ends : Nat
deriving DecidableEq, Repr

/-- The vectors of one tile among those numbered from a to b − 1: before the tile's first vector its load, unless it is preloaded, and the
swap; at quarter rate a vector issues every four cycles and retires four times as late (R57, R62 to R65). -/
def gridTile (coach t : Nat) (i : MatInstr) (a b : Nat) (g : GridRun) (p : TileLoad × Nat) : GridRun :=
  let lo := max a (p.2 * i.m)
  let hi := min b ((p.2 + 1) * i.m)
  if hi ≤ lo then g
  else
    let rate := if quarterRate p.1.fmt then 4 else 1
    let cols := i.n / 64
    let fresh := decide (lo = p.2 * i.m)
    let loaded := if fresh && Tab.get 0 g.s.coa.loadEnd coach == 0 then startLoad coach t p.1 g.s else g.s
    let first := if fresh then swapCycle loaded coach g.free else g.free
    let s := if fresh then swapSets coach g.free loaded else loaded
    let s := ((List.range (hi - lo)).map (lo - p.2 * i.m + ·)).foldl (gridRow coach i (p.2 / cols) (p.2 % cols)) s
    ⟨s, first + rate * (hi - lo), first + rate * (hi - lo + 129)⟩

/-- Vectors of a matrix instruction: M for each of its tiles. -/
def matVectors (i : MatInstr) : Nat := (i.k / 64) * (i.n / 64) * i.m

/-- The first vector that a coach issues of an instruction: where a preemption interrupted it, the one its saved state records (R76). -/
def State.nextVector (s : State) (coach : Nat) (i : MatInstr) : Nat :=
  match Tab.get none s.coa.work coach with
  | some (j, v) => if j = i then v else 0
  | none => 0

/-- A matrix instruction Y = X · W from core cycle t on, over its tiles in the order of issue, chunk by chunk (R57, R64). It goes on where a
preemption interrupted it; `upto` names the vector before which one interrupts it now (R76). Formats other than R63's do not reach the
grid. -/
def matrixInstruction (coach t : Nat) (i : MatInstr) (upto : Option Nat) (s : State) : State :=
  if !s.coachRuns coach || !isAct i.xFmt || !i.tiles.all (fun l => isWeight l.fmt) then s
  else
    let a := s.nextVector coach i
    let b := match upto with | some v => max a (min v (matVectors i)) | none => (matVectors i)
    let s := if a = 0 then takeQueue coach (.matrix i) s else s
    let g := (i.tiles.take ((i.k / 64) * (i.n / 64))).zipIdx.foldl (gridTile coach t i a b) ⟨s, t, t⟩
    { g.s with coa := { g.s.coa with
      gridCycles := Tab.set 0 g.s.coa.gridCycles coach (Tab.get 0 g.s.coa.gridCycles coach + (g.ends - t))
      work := Tab.set none g.s.coa.work coach (if b < (matVectors i) then some (i, b) else none) } }

def execMatrixInstruction (coach t : Nat) (i : MatInstr) (upto : Option Nat) (s : State) : Host.Outcome State Fault Refusal :=
  .next (matrixInstruction coach t i upto s)

/-! ### The vector unit (R66, R67, R107, R109) -/

/-- FP32 1.0 or +0: how a comparison lane stands in SRAM. DESIGN CHOICE: the spec gives the lane no form. -/
def laneBool (b : Bool) : F32 := if b then .one else 0

/-- One lane of a vector instruction but the conversion. -/
def vecLane (op : VecOp) (a b c : F32) : F32 :=
  match op with
  | .add => fadd a b
  | .sub => fsub a b
  | .mul => fmul a b
  | .fma => ffma a b c
  | .div => fdiv a b
  | .max => fmax a b
  | .min => fmin a b
  | .cmpEq => laneBool (feq a b)
  | .cmpNe => laneBool (fne a b)
  | .cmpLt => laneBool (flt a b)
  | .cmpLe => laneBool (fle a b)
  | .select => let x := if a = 0 || a = 0x80000000 then c else b; if isNan x then .nan else x
  | .neg => fneg a
  | .abs => fabs a
  | .recip => frecip a
  | .sqrt => fsqrt a
  | .rsqrt => frsqrt a
  | .exp => fexp a
  | .exp2 => fexp2 a
  | .log => flog a
  | .log2 => flog2 a
  | .tanh => ftanh a
  | .sigmoid => fsigmoid a
  | .sin => fsin a
  | .cos => fcos a
  | .convert _ _ => a

/-- The 64 FP32 lanes of an SRAM line of 256 bytes. -/
def State.lanes (s : State) (coach addr : Nat) : List F32 :=
  let l := s.sramRead coach addr 256
  (List.range 64).map fun i => BitVec.ofNat 32 (field l (4 * i) 4)

/-- 64 elements of one format converted to another: each is widened to FP32, exactly from every format of at most 16 bits, and rounded once
to its destination (R66, R102). DESIGN CHOICE (log 71): an INT32, UINT32 or UINT64 source, for which the spec gives no rule, is rounded to
FP32 first. -/
def convertLanes (src dst : Fmt) (bs : Bytes) : Bytes :=
  packElems dst ((List.range 64).map fun i => encodeVal dst (widen src (elemAt src bs i)).val)

def vectorInstruction (coach : Nat) (i : VecInstr) (s : State) : State :=
  if !s.coachRuns coach then s
  else
    let a := s.lanes coach i.a
    let b := s.lanes coach i.b
    let c := s.lanes coach i.c
    let s := takeQueue coach (.vector i) s
    match i.op with
    | .convert src dst => s.sramWrite coach i.dst (convertLanes src dst (s.sramRead coach i.a (elemBytes src 64)))
    | op => s.sramWrite coach i.dst ((List.range 64).flatMap fun k => toLe 4 (vecLane op (a.getD k 0) (b.getD k 0) (c.getD k 0)).toNat)

def execVectorInstruction (coach : Nat) (i : VecInstr) (s : State) : Host.Outcome State Fault Refusal :=
  .next (vectorInstruction coach i s)

/-- The cross-lane sum in ascending lane order (R67). -/
def crossLaneSum (coach src dst : Nat) (s : State) : State :=
  if !s.coachRuns coach then s
  else (takeQueue coach (.laneSum src dst) s).sramWrite coach dst (toLe 4 (chunkSum (s.lanes coach src)).toNat)

def execCrossLaneSum (coach src dst : Nat) (s : State) : Host.Outcome State Fault Refusal := .next (crossLaneSum coach src dst s)

/-! ### Contexts (R72 to R75) -/

def ctxKey (coach ctx : Nat) : Nat := coach * 64 + ctx

def State.ctx (s : State) (coach ctx : Nat) : Ctx := Tab.get {} s.coa.ctxs (ctxKey coach ctx)

def State.setCtx (s : State) (coach ctx : Nat) (c : Ctx) : State :=
  { s with coa := { s.coa with ctxs := Tab.set {} s.coa.ctxs (ctxKey coach ctx) c } }

/-- Capacity of each unit's queue (R73). -/
def queueCap : CoachUnit → Nat
  | .grid => 4
  | .vector => 8
  | .load => 4
  | .send => 16

/-- Firmware frees a halted context (R74). -/
def contextFree (coach ctx : Nat) (s : State) : State :=
  if s.powered && (s.ctx coach ctx).st == .halted then s.setCtx coach ctx {} else s

def execContextFree (coach ctx : Nat) (s : State) : Host.Outcome State Fault Refusal := .next (contextFree coach ctx s)

/-- Firmware restarts a halted context (R74). -/
def contextRestart (coach ctx : Nat) (s : State) : State :=
  let c := s.ctx coach ctx
  if s.powered && c.st == .halted then
    s.setCtx coach ctx { c with st := .ready, fault := 0, tag := 0, replies := 0, lapse := 0 }
  else s

def execContextRestart (coach ctx : Nat) (s : State) : Host.Outcome State Fault Refusal := .next (contextRestart coach ctx s)

/-- A waiting context becomes ready: its data has landed, or its target unit's queue has room (R73). -/
def contextWake (coach ctx : Nat) (s : State) : State :=
  let c := s.ctx coach ctx
  let may := match c.unit with
    | some u => decide (s.queued coach u < queueCap u)
    | none => c.replies == 0
  if s.powered && c.st == .waiting && may then s.setCtx coach ctx { c with st := .ready, tag := 0, lapse := 0, unit := none } else s

def execContextWake (coach ctx : Nat) (s : State) : Host.Outcome State Fault Refusal := .next (contextWake coach ctx s)

/-- One LAST reply for a context: the wait ends with the last one outstanding (R73, R86); a wait for a queue's room is not a reply's. -/
def wakeReply (coach ctx : Nat) (s : State) : State :=
  let c := s.ctx coach ctx
  if c.st != .waiting || c.unit.isSome then s
  else if c.replies ≤ 1 then s.setCtx coach ctx { c with st := .ready, tag := 0, replies := 0, lapse := 0 }
  else s.setCtx coach ctx { c with replies := c.replies - 1 }

/-- A SEAT for a context: one that it wakes issues again from the next stage on, the earliest in which its coach may consume the data (R13). -/
def wakeSeat (coach ctx : Nat) (s : State) : State :=
  let t := wakeReply coach ctx s
  let c := t.ctx coach ctx
  if (s.ctx coach ctx).st == .waiting && c.st == .ready then t.setCtx coach ctx { c with lapse := s.stg.stage + 1 } else t

/-- Code of a context's state in STATUS (R75). -/
def ctxCode : CtxState → Nat
  | .free => 0
  | .ready => 1
  | .waiting => 2
  | .halted => 3

def ctxState : Nat → CtxState
  | 0 => .free
  | 1 => .ready
  | 2 => .waiting
  | _ => .halted

/-- A context's block of 512 bytes (R75). DESIGN CHOICE: WAIT holds the tag and the count in 4 bytes each, then the stage count. -/
def ctxBlock (c : Ctx) : Bytes :=
  (List.range 32).flatMap (fun i => toLe 8 (Tab.get 0 c.gpr i).toNat) ++ (List.range 8).flatMap (fun i => toLe 16 (Tab.get 0 c.stream i).toNat) ++
    toLe 8 c.pc.toNat ++ toLe 8 (ctxCode c.st + c.fault % 256 * 4) ++ toLe 4 c.tag ++ toLe 4 c.replies ++ toLe 8 c.lapse ++ toLe 8 c.queryId ++ zeros 88

/-- The context that a block holds. -/
def ctxOfBlock (b : Bytes) : Ctx :=
  { gpr := (List.range 32).foldl (fun t i => Tab.set 0 t i (BitVec.ofNat 64 (field b (8 * i) 8))) []
    stream := (List.range 8).foldl (fun t i => Tab.set 0 t i (BitVec.ofNat 128 (field b (256 + 16 * i) 16))) []
    pc := BitVec.ofNat 64 (field b 384 8)
    st := ctxState (field b 392 8 % 4)
    fault := bits (field b 392 8) 9 2
    tag := field b 400 4, replies := field b 404 4, lapse := field b 408 8, queryId := field b 416 8 }

/-! ### The record of a coach (R76, R231) -/

/-- Bytes of a record, and where its parts begin. -/
def coachRecord : Nat := 2147328
def recordRegs : Nat := 2097152
def recordScales : Nat := 2113536
def recordCtxs : Nat := 2114048
def recordControl : Nat := 2146816

/-- The bytes of a coach's record that are not 0, by offset: SRAM, register sets, scale sets and context blocks. -/
def Coa.record (c : Coa) (coach : Nat) : Table Byte :=
  let own := fun (w : Nat) => fun (k : Nat) => k / w == coach
  let put := fun (at_ : Nat) (bs : Bytes) => bs.zipIdx.filterMap fun b => if b.1 = 0 then none else some (at_ + b.2, b.1)
  ((c.sram.filter fun e => own sramBytes e.1).map fun e => (e.1 % sramBytes, e.2)) ++
    ((c.regs.filter fun e => own 8192 e.1).flatMap fun e => put (recordRegs + e.1 % 8192 * 2) (toLe 2 e.2.toNat)) ++
    ((c.scales.filter fun e => own 128 e.1).flatMap fun e => put (recordScales + e.1 % 128 * 4) (toLe 4 e.2.toNat)) ++
    ((c.ctxs.filter fun e => own 64 e.1).flatMap fun e => put (recordCtxs + e.1 % 64 * 512) (ctxBlock e.2))

/-- Fields of w bytes that a stretch of a record holds, by number. -/
def recordFields (r : Table Byte) (lo hi w : Nat) : List (Nat × Nat) :=
  ((r.filter fun e => decide (lo ≤ e.1) && decide (e.1 < hi)).map fun e => (e.1 - lo) / w).eraseDups.map fun k =>
    (k, field (Tab.getBytes 0 r (lo + k * w) w) 0 w)

/-- A coach takes the contents of a record; what the record does not list is 0. -/
def Coa.putRecord (c : Coa) (coach : Nat) (r : Table Byte) : Coa :=
  { c with
    sram := (r.filter fun e => decide (e.1 < recordRegs)).foldl (fun t e => Tab.set 0 t (sramKey coach e.1) e.2)
      (Tab.clear c.sram (sramKey coach 0) (sramKey (coach + 1) 0))
    regs := (recordFields r recordRegs recordScales 2).foldl (fun t e => Tab.set 0 t (coach * 8192 + e.1) (BitVec.ofNat 16 e.2))
      (Tab.clear c.regs (coach * 8192) ((coach + 1) * 8192))
    scales := (recordFields r recordScales recordCtxs 4).foldl (fun t e => Tab.set 0 t (coach * 128 + e.1) (BitVec.ofNat 32 e.2))
      (Tab.clear c.scales (coach * 128) ((coach + 1) * 128))
    ctxs := ((r.filter fun e => decide (recordCtxs ≤ e.1) && decide (e.1 < recordControl)).map fun e => (e.1 - recordCtxs) / 512).eraseDups.foldl
      (fun t k => Tab.set {} t (coach * 64 + k) (ctxOfBlock (Tab.getBytes 0 r (recordCtxs + k * 512) 512)))
      (Tab.clear c.ctxs (coach * 64) ((coach + 1) * 64)) }

/-- A coach takes a piece of its record; a context that the piece leaves as it was still waits for the unit it waited for. -/
def Coa.putPiece (c : Coa) (coach at_ : Nat) (bs : Bytes) : Coa :=
  let d := c.putRecord coach (Tab.putBytes 0 (c.record coach) at_ bs)
  { d with ctxs := d.ctxs.map fun e => let o := Tab.get {} c.ctxs e.1; (e.1, if e.2 == { o with unit := none } then o else e.2) }

end Sys2Proof.Machine
end

