-- ==== Sys2Proof/Machine/Dram.lean ====
section
/-! DEFINITION. The DRAM subsystem: the RS(18,16) symbol code, reads with their classes, writes with read-modify-write,
poison, the scrubber, the check-byte test mode and the registers (R191, R369 to R382). -/

namespace Sys2Proof.Machine

/-! ### The field and the code (R372, R373) -/

/-- Product with α. -/
def gfStep (a : Byte) : Byte := if a.getLsbD 7 then (a <<< 1) ^^^ 0x1D else a <<< 1

/-- The n lowest bits of b times a. -/
def gfMulAux : Nat → Byte → Byte → Byte
  | 0, _, _ => 0
  | n + 1, a, b => (if b.getLsbD 0 then a else 0) ^^^ gfMulAux n (gfStep a) (b >>> 1)

/-- Product in GF(2⁸) with field polynomial 0x11D. -/
def gfMul (a b : Byte) : Byte := gfMulAux 8 a b

/-- One step of the encoder on the remainder (r1, r0). -/
def rsStep (r : Byte × Byte) (d : Byte) : Byte × Byte :=
  let f := d ^^^ r.1
  (r.2 ^^^ gfMul f 0x03, gfMul f 0x02)

/-- Check bytes p0 and p1 of sixteen data bytes. -/
def rsEncode (d : Bytes) : Byte × Byte := d.foldl rsStep (0, 0)

/-- Syndromes S0 and S1 of a code word: d0 to d15, p0, p1. -/
def syndromes (d : Bytes) (p0 p1 : Byte) : Byte × Byte :=
  (d ++ [p0, p1]).foldl (fun s x => (s.1 ^^^ x, gfMul s.2 0x02 ^^^ x)) (0, 0)

/-- α to the n. -/
def alpha : Nat → Byte
  | 0 => 1
  | n + 1 => gfStep (alpha n)

/-- Classes of a code word by its syndromes alone; poison is a matter of the whole line. -/
inductive LineClass where
  | clean
  | corrected (pos : Nat) (err : Byte)
  | poison
  | uncorrectable
deriving DecidableEq, Repr

def classOf (s0 s1 : Byte) (allPoison : Bool) : LineClass :=
  if s0 = 0 && s1 = 0 then .clean
  else if s0 = 0 then (if s1 = 0x1C && allPoison then .poison else .uncorrectable)
  else match firstBelow (fun j => gfMul s0 (alpha j) = s1) 18 with
    | some j => .corrected j s0
    | none => .uncorrectable

/-! ### Lines -/

/-- Line number of a data address: a line holds 64 data bytes. -/
def lineOf (addr : Nat) : Nat := addr / 64

def pkgOf (addr : Nat) : Nat := addr / 2 ^ 36

/-- Data bytes of code word w of a line. -/
def State.cwData (s : State) (line w : Nat) : Bytes := Tab.getBytes 0 s.drm.data (line * 64 + 16 * w) 16

def State.cwCheck (s : State) (line w : Nat) : Byte × Byte :=
  (Tab.get 0 s.drm.check (line * 8 + 2 * w), Tab.get 0 s.drm.check (line * 8 + 2 * w + 1))

def State.cwSynd (s : State) (line w : Nat) : Byte × Byte :=
  let c := s.cwCheck line w
  syndromes (s.cwData line w) c.1 c.2

def State.lineClass (s : State) (line w : Nat) : LineClass :=
  let all := (List.range 4).all fun v => s.cwSynd line v == (0, 0x1C)
  let y := s.cwSynd line w
  classOf y.1 y.2 all

def State.setCheck (s : State) (line w : Nat) (p : Byte × Byte) : State :=
  { s with drm := { s.drm with check := Tab.set 0 (Tab.set 0 s.drm.check (line * 8 + 2 * w) p.1) (line * 8 + 2 * w + 1) p.2 } }

def State.setData (s : State) (addr : Nat) (bs : Bytes) : State :=
  { s with drm := { s.drm with data := Tab.putBytes 0 s.drm.data addr bs } }

/-- A whole code word encoded and written. -/
def State.putWord (s : State) (line w : Nat) (d : Bytes) : State := (s.setData (line * 64 + 16 * w) d).setCheck line w (rsEncode d)

/-- Poison: each code word's check bytes become those of its data XORed with 0xFF, so that S0 = 0 and S1 = 0x1C
(R377; DEDUCED: of its data as it stands, which alone gives those syndromes). -/
def State.poisonLine (s : State) (line : Nat) : State :=
  (List.range 4).foldl (fun s w => let p := rsEncode (s.cwData line w); s.setCheck line w (p.1 ^^^ 0xFF, p.2 ^^^ 0xFF)) s

/-- A count field of DRM_ECC raised by n, saturating. -/
def satAdd (x n top : Nat) : Nat := min top (x + n)

/-- DRM_ECC after counts of corrected, poisoned and uncorrectable code words (R376). -/
def eccAdd (r : BitVec 32) (corr pois unc : Nat) : BitVec 32 :=
  let x := r.toNat
  BitVec.ofNat 32 (satAdd (bits x 31 24) unc 255 * 2 ^ 24 + satAdd (bits x 23 16) pois 255 * 2 ^ 16 + satAdd (bits x 15 0) corr 65535)

def State.countEcc (s : State) (pkg corr pois unc : Nat) : State :=
  { s with drm := { s.drm with ecc := Tab.set 0 s.drm.ecc pkg (eccAdd (Tab.get 0 s.drm.ecc pkg) corr pois unc) } }

def State.drmTest (s : State) (pkg : Nat) : Nat := (Tab.get 0 s.drm.test pkg).toNat
def State.rawRead (s : State) (pkg : Nat) : Bool := bit (s.drmTest pkg) 3
def State.writePath (s : State) (pkg : Nat) : Nat := s.drmTest pkg % 4

/-- A corrected code word delivered and written back (R373, R376): the symbol at position j is XORed with the error. -/
def State.fixWord (s : State) (line w j : Nat) (err : Byte) : State :=
  if j = 0 then let c := s.cwCheck line w; s.setCheck line w (c.1, c.2 ^^^ err)
  else if j = 1 then let c := s.cwCheck line w; s.setCheck line w (c.1 ^^^ err, c.2)
  else
    let a := line * 64 + 16 * w + (17 - j)
    s.setData a [Tab.get 0 s.drm.data a ^^^ err]

/-- A read of some code words of one line by a requester: false is a bus error. In a raw read nothing is corrected or
poisoned and the syndromes are latched (R373, R376 to R378, R381). -/
def readLine (req line : Nat) (ws : List Nat) (s : State) : Bool × State :=
  let pkg := pkgOf (line * 64)
  if s.rawRead pkg then
    let y := (List.range 4).foldl (fun n w => let p := s.cwSynd line w; n + (p.1.toNat + 256 * p.2.toNat) * 2 ^ (16 * w)) 0
    (true, { s with drm := { s.drm with synd := Tab.set 0 s.drm.synd pkg (BitVec.ofNat 64 y) } })
  else
    let cls := ws.map fun w => (w, s.lineClass line w)
    let unc := (cls.filter fun c => c.2 == .uncorrectable).length
    let corr := (cls.filter fun c => match c.2 with | .corrected _ _ => true | _ => false).length
    let s' := cls.foldl (fun s c => match c.2 with | .corrected j e => s.fixWord line c.1 j e | _ => s) (s.countEcc pkg corr 0 unc)
    if unc != 0 then
      let s' := s'.poisonLine line
      (false, s'.event 0x0009 0 0xFF ⟨4, pkg⟩ ([BitVec.ofNat 8 pkg] ++ toLe 4 (line % 2 ^ 30) ++ toLe 2 req))
    else if cls.any fun c => c.2 == .poison then (false, s'.countEcc pkg 0 1 0)
    else (true, s')

/-- The code words of a line that a span touches. -/
def touched (line addr len : Nat) : List Nat :=
  (List.range 4).filter fun w => decide (addr < line * 64 + 16 * w + 16) && decide (line * 64 + 16 * w < addr + len)

/-- The code words of a line that a span touches without covering them. -/
def partly (line addr len : Nat) : List Nat :=
  (touched line addr len).filter fun w => !(decide (addr ≤ line * 64 + 16 * w) && decide (line * 64 + 16 * w + 16 ≤ addr + len))

/-- Lines of a span. -/
def spanLines (addr len : Nat) : List Nat :=
  if len = 0 then [] else (List.range (lineOf (addr + len - 1) + 1 - lineOf addr)).map (lineOf addr + ·)

/-- Reads of parts of lines one after another; the first bus error ends the access. -/
def readParts (req : Nat) (sel : Nat → List Nat) : List Nat → State → Bool × State
  | [], s => (true, s)
  | l :: ls, s =>
    if (sel l).isEmpty then readParts req sel ls s
    else match readLine req l (sel l) s with
      | (true, s) => readParts req sel ls s
      | (false, s) => (false, s)

/-- A read of a span: its bytes, or none where the access meets a bus error. -/
def dramRead (req addr len : Nat) (s : State) : Option Bytes × State :=
  match readParts req (fun l => touched l addr len) (spanLines addr len) s with
  | (true, s) => (some (Tab.getBytes 0 s.drm.data addr len), s)
  | (false, s) => (none, s)

/-- One line's piece of a write on the present write path (R374, R381). -/
def writePiece (addr : Nat) (bs : Bytes) (s : State) (line : Nat) : State :=
  let pkg := pkgOf (line * 64)
  let lo := max addr (line * 64)
  let hi := min (addr + bs.length) (line * 64 + 64)
  let data := slice bs (lo - addr) (hi - lo)
  match s.writePath pkg with
  | 1 => s.setData lo data
  | 2 =>
    let v := (Tab.get 0 s.drm.checkval pkg).toNat
    (List.range 4).foldl (fun s w => if bit v (16 + w) then s.setCheck line w (BitVec.ofNat 8 v, BitVec.ofNat 8 (v / 256)) else s) s
  | _ =>
    let s := s.setData lo data
    (touched line addr bs.length).foldl (fun s w => s.putWord line w (s.cwData line w)) s

/-- A write of a span: code words covered in part are read and corrected first, and a bus error refuses the whole
access, of which nothing is then written (R374, R377, R378). -/
def dramWrite (req addr : Nat) (bs : Bytes) (s : State) : Bool × State :=
  let lines := spanLines addr bs.length
  let pre := if s.writePath (pkgOf addr) = 0 then readParts req (fun l => partly l addr bs.length) lines s else (true, s)
  match pre with
  | (true, s) => (true, lines.foldl (writePiece addr bs) s)
  | (false, s) => (false, s)

/-! ### The scrubber, the fold and the test mode -/

/-- The scrubber reads one line of a package, in ascending order, and writes back what it corrects (R376). -/
def dramScrub (pkg : Nat) (s : State) : State :=
  if s.dramClock && s.drm.present.contains pkg && s.boot.ph.filled then
    let n := Tab.get 0 s.drm.scrub pkg
    let s := (readLine (256 + pkg) (pkg * 2 ^ 30 + n) [0, 1, 2, 3] s).2
    { s with drm := { s.drm with scrub := Tab.set 0 s.drm.scrub pkg ((n + 1) % 2 ^ 30) } }
  else s

def execDramScrub (pkg : Nat) (s : State) : Host.Outcome State Fault Refusal := .next (dramScrub pkg s)

/-- Firmware adds DRM_ECC into log page 0xD1 and clears it (R376). -/
def drmEccFold (pkg : Nat) (s : State) : State :=
  if s.powered && s.boot.ph.firmware then
    let x := (Tab.get 0 s.drm.ecc pkg).toNat
    let s := { s with drm := { s.drm with ecc := Tab.set 0 s.drm.ecc pkg 0 } }
    s.health fun h => { h with
      dramCorrected := h.dramCorrected + bits x 15 0
      dramPoison := h.dramPoison + bits x 23 16
      dramUncorr := h.dramUncorr + bits x 31 24 }
  else s

def execDrmEccFold (pkg : Nat) (s : State) : Host.Outcome State Fault Refusal := .next (drmEccFold pkg s)

/-- DRM_TEST can change: before ready, or in the diagnostic state (R381). -/
def State.testOpen (s : State) : Bool := s.powered && (s.boot.mode == .bringUp || s.boot.mode == .diagnostic)

/-- A write of DRM_TEST: without the key, with a path of 3, or from ready on, the fields stay (R381). -/
def writeDrmTest (pkg key : Nat) (raw : Bool) (path : Nat) (s : State) : State :=
  if s.testOpen && key = 0x5C then
    let path := if path = 3 then s.writePath pkg else path % 4
    { s with drm := { s.drm with test := Tab.set 0 s.drm.test pkg (BitVec.ofNat 32 ((if raw then 8 else 0) + path)) } }
  else s

/-- A keyed write that selects the write path (R381). -/
def drmTestWritePath (pkg key path : Nat) (s : State) : State := writeDrmTest pkg key (s.rawRead pkg) path s

def execDrmTestWritePath (pkg key path : Nat) (s : State) : Host.Outcome State Fault Refusal := .next (drmTestWritePath pkg key path s)

/-- A keyed write that turns raw reads on or off (R381). -/
def drmTestRawRead (pkg key : Nat) (on : Bool) (s : State) : State := writeDrmTest pkg key on (s.writePath pkg) s

def execDrmTestRawRead (pkg key : Nat) (on : Bool) (s : State) : Host.Outcome State Fault Refusal := .next (drmTestRawRead pkg key on s)

/-! ### Session granules (R195) -/

/-- Address of byte n of a session's quota: granule g lies on the (g mod P)-th package, at local index g div P of the
session's run of slots there. None past the quota's last granule. -/
def quotaAddr (ranges : List (Nat × Nat × Nat)) (n : Nat) : Option Nat :=
  let p := ranges.length
  let g := n / 67108864
  if p = 0 then none
  else match ranges[g % p]? with
    | some (pkg, first, len) => if g / p < len then some (pkg * 2 ^ 36 + (first + g / p) * 67108864 + n % 67108864) else none
    | none => none

/-- Pieces of a span of a quota that lie in one granule each: offset and length. -/
def granulePieces : Nat → Nat → Nat → List (Nat × Nat)
  | 0, _, _ => []
  | fuel + 1, off, len =>
    if len = 0 then []
    else
      let n := min len (67108864 - off % 67108864)
      (off, n) :: granulePieces fuel (off + n) (len - n)

/-- Reads a span of a session's quota; none where a bus error or the quota's end is met. -/
def quotaRead (req : Nat) (ranges : List (Nat × Nat × Nat)) (off len : Nat) (s : State) : Option Bytes × State :=
  (granulePieces (len / 67108864 + 2) off len).foldl
    (fun a p => match a with
      | (some acc, s) => match quotaAddr ranges p.1 with
        | some addr => match dramRead req addr p.2 s with
          | (some bs, s) => (some (acc ++ bs), s)
          | (none, s) => (none, s)
        | none => (none, s)
      | r => r) (some [], s)

/-- Writes a span of a session's quota; false where a bus error or the quota's end is met. -/
def quotaWrite (req : Nat) (ranges : List (Nat × Nat × Nat)) (off : Nat) (bs : Bytes) (s : State) : Bool × State :=
  (granulePieces (bs.length / 67108864 + 2) off bs.length).foldl
    (fun a p => if a.1 then match quotaAddr ranges p.1 with
        | some addr => dramWrite req addr (slice bs (p.1 - off) p.2) a.2
        | none => (false, a.2)
      else a) (true, s)

end Sys2Proof.Machine
end

