-- ==== Sys2Proof/Machine/Predicate.lean ====
section
/-! DEFINITION. Row layouts, record addressing and predicates (R274 to R283): one evaluation for channel filters, routes
and query contexts (R286). -/

namespace Sys2Proof.Machine

/-! ### Columns (R275, R276) -/

/-- Width that a numeric column type has; 0 for BYTES and unlisted codes. -/
def typeWidth : Nat → Nat
  | 1 | 5 => 1
  | 2 | 6 | 9 | 10 => 2
  | 3 | 7 | 11 => 4
  | 4 | 8 => 8
  | _ => 0

def typeSigned (t : Nat) : Bool := decide (1 ≤ t) && decide (t ≤ 4)
def typeInteger (t : Nat) : Bool := decide (1 ≤ t) && decide (t ≤ 8)

/-- Floating format of a column type. -/
def typeFloat : Nat → Option Fmt
  | 9 => some .bf16
  | 10 => some .fp16
  | 11 => some .fp32
  | _ => none

/-- A column obeys R276 within a row of w bytes. -/
def columnOk (w : Nat) (c : Column) : Bool :=
  (if c.type = 12 then decide (1 ≤ c.width) && decide (c.width ≤ 256)
   else typeWidth c.type != 0 && c.width == typeWidth c.type && c.offset % c.width == 0) &&
  decide (c.offset + c.width ≤ w)

/-- The columns of a row layout (R274). -/
def layoutColumns (l : Bytes) : List Column :=
  (List.range (field l 2 1)).map fun c => ⟨field l (8 + 8 * c) 1, field l (8 + 8 * c + 2) 2, field l (8 + 8 * c + 4) 2⟩

/-- A layout is valid: 1 to 64 columns, its length, each column in order (R274, R276). -/
def layoutOk (l : Bytes) : Bool :=
  decide (1 ≤ field l 2 1) && decide (field l 2 1 ≤ 64) && l.length == 8 + 8 * field l 2 1 &&
    (layoutColumns l).all (columnOk (field l 0 2))

/-! ### Values -/

/-- The raw bits of a numeric column in a row. -/
def columnRaw (row : Bytes) (c : Column) : Nat := field row c.offset c.width

/-- The integer a numeric column holds, by its signedness. -/
def columnInt (row : Bytes) (c : Column) : Int :=
  if typeSigned c.type then signed (8 * c.width) (columnRaw row c) else columnRaw row c

/-- A numeric column's exact value. -/
def columnVal (row : Bytes) (c : Column) : Val :=
  match typeFloat c.type with
  | some f => decode f (columnRaw row c)
  | none => let v := columnInt row c; .fin (decide (v < 0)) v.natAbs 0

/-! ### Terms and evaluation (R280 to R282) -/

def predNodes (p : Bytes) : Nat := field p 2 1
def predNode (p : Bytes) (n : Nat) : Bytes := slice p (8 + 16 * n) 16
def predPool (p : Bytes) : Bytes := p.drop (8 + 16 * predNodes p)

/-- Unsigned lexicographic order of byte strings of one length. -/
def bytesLt : Bytes → Bytes → Bool
  | x :: xs, y :: ys => decide (x.toNat < y.toNat) || (x == y && bytesLt xs ys)
  | _, _ => false

/-- A comparison by its code from less-than and equality. -/
def byOp (op : Nat) (lt eq gt : Bool) : Bool :=
  match op with
  | 1 => eq
  | 2 => !eq
  | 3 => lt
  | 4 => lt || eq
  | 5 => gt
  | 6 => gt || eq
  | _ => false

/-- A term's verdict on a row. -/
def evalTerm (cols : List Column) (p node row : Bytes) : Bool :=
  match cols[field node 1 1]? with
  | none => false
  | some c =>
    let op := field node 0 1
    if op = 8 then Nat.land (columnRaw row c) (field node 8 8) % 2 ^ (8 * c.width) != 0
    else match typeFloat c.type with
      | some f =>
        let x : F32 := widen f (columnRaw row c)
        let k : F32 := BitVec.ofNat 32 (field node 8 4)
        byOp op (flt x k) (feq x k) (flt k x)
      | none =>
        if c.type = 12 then
          let n := field node 2 2
          let x := slice row c.offset n
          let k := slice (predPool p) (field node 4 2) n
          byOp op (bytesLt x k) (x == k) (bytesLt k x)
        else
          let x := columnInt row c
          let k : Int := if typeSigned c.type then signed 64 (field node 8 8) else field node 8 8
          byOp op (decide (x < k)) (decide (x = k)) (decide (k < x))

/-- One node on the stack; none where it pops an empty stack or its code is unlisted. -/
def evalNode (cols : List Column) (p row : Bytes) (st : Option (List Bool)) (n : Nat) : Option (List Bool) :=
  let node := predNode p n
  match field node 0 1, st with
  | _, none => none
  | 0x20, some (a :: b :: l) => some ((a && b) :: l)
  | 0x21, some (a :: b :: l) => some ((a || b) :: l)
  | 0x22, some (a :: l) => some ((!a) :: l)
  | 0x23, some l => some (true :: l)
  | op, some l => if (1 ≤ op && op ≤ 6) || op = 8 then some (evalTerm cols p node row :: l) else none

/-- A row matches a predicate: the one value left is 1. -/
def predMatches (cols : List Column) (p row : Bytes) : Bool :=
  (List.range (predNodes p)).foldl (evalNode cols p row) (some []) == some [true]

/-- A row matches: no predicate matches every row (R287). -/
def rowMatches (cols : List Column) (p row : Bytes) : Bool := p.isEmpty || predMatches cols p row

/-! ### Validity (R283) -/

/-- A node's stack effect by its code: pops and pushes; none for an unlisted code. -/
def nodeEffect : Nat → Option (Nat × Nat)
  | 0x20 | 0x21 => some (2, 1)
  | 0x22 => some (1, 1)
  | 0x23 => some (0, 1)
  | 1 | 2 | 3 | 4 | 5 | 6 | 8 => some (0, 1)
  | _ => none

def isTerm (op : Nat) : Bool := (1 ≤ op && op ≤ 6) || op == 8

/-- A term names a column of the layout, with an operation that its type allows and its constant inside the pool. -/
def termOk (cols : List Column) (p node : Bytes) : Bool :=
  match cols[field node 1 1]? with
  | none => false
  | some c =>
    if field node 0 1 = 8 then typeInteger c.type
    else if c.type = 12 then
      decide (1 ≤ field node 2 2) && decide (field node 2 2 ≤ c.width) &&
        decide (field node 4 2 + field node 2 2 ≤ field p 4 2)
    else true

/-- Depths of the stack through the nodes, never below what is popped, never above 16. -/
def depthOk (p : Bytes) : Option Nat :=
  (List.range (predNodes p)).foldl (fun d n => match d, nodeEffect (field (predNode p n) 0 1) with
    | some d, some (a, b) => if a ≤ d && d - a + b ≤ 16 then some (d - a + b) else none
    | _, _ => none) (some 0)

def predValid (cols : List Column) (p : Bytes) : Bool :=
  let n := predNodes p
  decide (1 ≤ n) && decide (n ≤ 64) && decide (field p 4 2 ≤ 1024) &&
    field p 0 2 == 8 + 16 * n + field p 4 2 && p.length == field p 0 2 &&
    ((List.range n).all fun i => let node := predNode p i; !isTerm (field node 0 1) || termOk cols p node) &&
    depthOk p == some 1 &&
    decide (((List.range n).filter fun i => isTerm (field (predNode p i) 0 1)).length ≤ 32)

/-! ### Records (R278) -/

/-- Records of one code word for rows of w bytes. -/
def perWord (w : Nat) : Nat := 4096 / w

/-- Byte of a record within its namespace. -/
def recordByte (w r : Nat) : Nat := r / perWord w * 4096 + r % perWord w * w

end Sys2Proof.Machine
end

