-- ==== Sys2Proof/Machine/RouteImage.lean ====
section
/-! DEFINITION. Route images: header, sections, tensors, operation records, attributes and streams (R122 to R137, R141,
R145), the checks of ROUTE LOAD (R128), the run block (R158) and the sizes that quotas and the binder count. -/

namespace Sys2Proof.Machine

/-! ### Header and directory (R123, R125) -/

def imgSize (b : Bytes) : Nat := field b 16 8
def imgRouteId (b : Bytes) : Nat := field b 8 8
def imgSections (b : Bytes) : Nat := field b 24 2
def imgMinTeams (b : Bytes) : Nat := field b 26 1
def imgMaxTeams (b : Bytes) : Nat := field b 27 1
def imgHeaderCrc (b : Bytes) : Nat := field b 124 4

/-- A section directory entry. -/
structure Section where
  type : Nat
  flags : Nat
  count : Nat
  offset : Nat
  size : Nat
  crc : Nat
deriving DecidableEq, Repr

def imgSection (b : Bytes) (i : Nat) : Section :=
  let e := slice b (128 + 32 * i) 32
  ⟨field e 0 2, field e 2 2, field e 4 4, field e 8 8, field e 16 8, field e 24 4⟩

def imgDirectory (b : Bytes) : List Section := (List.range (imgSections b)).map (imgSection b)

/-- Entry size that R126 gives a type; 0 where it gives none. -/
def entrySize : Nat → Nat
  | 1 => 64
  | 2 => 48
  | 3 => 16
  | 5 => 8
  | _ => 0

/-- CONTROL of a listed type (R126); none for an unlisted one. -/
def typeControl : Nat → Option Bool
  | 1 | 2 | 3 | 4 | 5 | 6 => some true
  | 0x10 => some false
  | _ => none

/-- Bytes of the section of a type; empty where absent. -/
def sectionBytes (b : Bytes) (type : Nat) : Bytes :=
  match (imgDirectory b).find? fun s => s.type == type with
  | some s => slice b s.offset s.size
  | none => []

def sectionCount (b : Bytes) (type : Nat) : Nat :=
  match (imgDirectory b).find? fun s => s.type == type with
  | some s => s.count
  | none => 0

/-! ### Tensors (R131 to R134) -/

structure Tensor where
  fmtCode : Nat
  rank : Nat
  place : Nat
  scaleKind : Nat
  dims : List Nat
  scaleTensor : Nat
  histL : Nat
  margin : Nat
  e0 : Int
  slot : Nat
  constOff : Nat
  constSize : Nat
  name : Nat
deriving DecidableEq, Repr

/-- A format by its code (R132). -/
def fmtOfCode : Nat → Option Fmt
  | 0 => some .fp32
  | 1 => some .bf16
  | 2 => some .fp16
  | 3 => some .e5m2
  | 4 => some .e4m3
  | 5 => some .e2m1
  | 6 => some .int8
  | 7 => some .int4
  | 8 => some .e8m0
  | 0x10 => some .int32
  | 0x11 => some .uint32
  | 0x12 => some .uint64
  | 0x13 => some .byte
  | _ => none

/-- A tensor record. DESIGN CHOICE (log 71): a HIST_L above 64, a HIST_MARGIN above 8 and a HIST_E0 of −127 or −128 are used as they stand. -/
def tensorOf (t : Bytes) : Tensor :=
  ⟨field t 0 1, field t 1 1, field t 2 1, field t 3 1, (List.range 4).map fun i => field t (4 + 4 * i) 4, field t 20 4,
   (if field t 24 1 = 0 then 16 else field t 24 1), field t 25 1, signed 8 (field t 26 1), field t 28 2, field t 32 8,
   field t 40 8, field t 48 4⟩

def imgTensorCount (b : Bytes) : Nat := sectionCount b 1
def imgTensor (b : Bytes) (i : Nat) : Tensor := tensorOf (slice (sectionBytes b 1) (64 * i) 64)

def Tensor.fmt (t : Tensor) : Fmt := (fmtOfCode t.fmtCode).getD .byte
def Tensor.shape (t : Tensor) : List Nat := t.dims.take t.rank
def Tensor.elems (t : Tensor) : Nat := t.shape.foldl (· * ·) 1
def Tensor.bytes (t : Tensor) : Nat := ceilDiv (t.elems * fmtBits t.fmt) 8

/-! ### Operations (R135, R137) -/

structure OpRec where
  code : Nat
  flags : Nat
  group : Nat
  nin : Nat
  nout : Nat
  ins : List Nat
  outs : List Nat
  attrFirst : Nat
  attrCount : Nat
deriving DecidableEq, Repr

def opOf (o : Bytes) : OpRec :=
  ⟨field o 0 2, field o 2 2, field o 4 2, field o 6 1, field o 7 1, (List.range 5).map fun i => field o (8 + 4 * i) 4,
   (List.range 2).map fun i => field o (28 + 4 * i) 4, field o 36 4, field o 40 2⟩

def imgOpCount (b : Bytes) : Nat := sectionCount b 2
def imgOp (b : Bytes) (i : Nat) : OpRec := opOf (slice (sectionBytes b 2) (48 * i) 48)

/-- Absent tensor index. -/
def noTensor : Nat := 0xFFFFFFFF

def OpRec.sr (o : OpRec) : Bool := bit o.flags 0
def OpRec.accIn (o : OpRec) : Bool := bit o.flags 1

/-- Operand or result tensor at a position; none where absent. -/
def OpRec.in? (o : OpRec) (i : Nat) : Option Nat :=
  if i < o.nin then match o.ins[i]? with | some t => if t = noTensor then none else some t | none => none else none
def OpRec.out? (o : OpRec) (i : Nat) : Option Nat :=
  if i < o.nout then match o.outs[i]? with | some t => if t = noTensor then none else some t | none => none else none

/-- An operation's value of an attribute key; the later entry counts (R137). -/
def opAttr (b : Bytes) (o : OpRec) (key : Nat) : Option Nat :=
  let a := sectionBytes b 5
  (List.range o.attrCount).foldl (fun v i =>
    let e := slice a (8 * (o.attrFirst + i)) 8
    if field e 0 2 = key then some (field e 4 4) else v) none

/-- Predicates of an image, each later one at the next multiple of 8 (R126); none where they run past the section. -/
def cutPredicates : Nat → Bytes → Option (List Bytes)
  | 0, _ => some []
  | n + 1, b =>
    let len := field b 0 2
    if b.length < 2 || b.length < len then none
    else match cutPredicates n (b.drop (roundUp len 8)) with
      | some l => some (b.take len :: l)
      | none => none

def imgPredicates (b : Bytes) : Option (List Bytes) := cutPredicates (sectionCount b 4) (sectionBytes b 4)
def imgPredicate (b : Bytes) (i : Nat) : Bytes := ((imgPredicates b).getD []).getD i []

/-- A stream directive (R141). -/
structure Stream where
  tensor : Nat
  group : Nat
  kind : Nat
  fallback : Nat
  lead : Nat
deriving DecidableEq, Repr

def imgStreams (b : Bytes) : List Stream :=
  let a := sectionBytes b 3
  (List.range (sectionCount b 3)).map fun i =>
    let e := slice a (16 * i) 16
    ⟨field e 0 4, field e 4 2, field e 6 1, field e 7 1, field e 8 2⟩

/-! ### Checks of R128 -/

/-- Ranges of NIN and NOUT by opcode: operands required and listed, results required and listed (R145 to R157). -/
def opArity : Nat → Option (Nat × Nat × Nat × Nat)
  | 0x0001 | 0x0002 => some (2, 3, 1, 1)
  | 0x0010 | 0x0011 | 0x0012 | 0x0013 | 0x0015 | 0x0016 | 0x0017 | 0x001A => some (2, 2, 1, 1)
  | 0x0014 | 0x0018 => some (3, 3, 1, 1)
  | 0x0019 | 0x0020 => some (1, 1, 1, 1)
  | 0x0021 => some (1, 2, 1, 1)
  | 0x0022 => some (3, 3, 1, 1)
  | 0x0023 => some (2, 2, 1, 1)
  | 0x0030 => some (4, 4, 1, 1)
  | 0x0031 => some (2, 2, 1, 1)
  | 0x0040 | 0x0042 | 0x0043 => some (1, 1, 1, 1)
  | 0x0041 => some (1, 1, 1, 2)
  | 0x0050 | 0x0051 => some (2, 2, 1, 1)
  | 0x0052 => some (1, 4, 2, 2)
  | 0x0053 => some (2, 2, 1, 1)
  | 0x0054 => some (3, 3, 0, 1)
  | 0x0060 => some (1, 1, 1, 1)
  | 0x0061 => some (1, 1, 2, 2)
  | 0x0062 => some (1, 1, 1, 1)
  | 0x0063 => some (2, 2, 0, 0)
  | 0x0064 => some (3, 3, 0, 0)
  | 0x0070 => some (2, 3, 0, 0)
  | _ => none

/-- Two byte ranges meet; empty ranges meet nothing. -/
def overlaps (a an b bn : Nat) : Bool := an != 0 && bn != 0 && decide (a < b + bn) && decide (b < a + an)

/-- No section meets another. -/
def sectionsApart : List Section → Bool
  | [] => true
  | s :: l => (l.all fun t => !overlaps s.offset s.size t.offset t.size && s.type != t.type) && sectionsApart l

/-- A section's place and counts. DESIGN CHOICE (log 71): of SFLAGS only bit 0 is looked at, reserved bits may hold anything. -/
def sectionOk (dirEnd : Nat) (s : Section) : Bool :=
  (match typeControl s.type with | some c => bit s.flags 0 == c | none => false) &&
    s.offset % 64 == 0 && !overlaps s.offset s.size 0 dirEnd &&
    (entrySize s.type == 0 || s.size == s.count * entrySize s.type) &&
    (s.type != 1 || (decide (1 ≤ s.count) && decide (s.count ≤ 65536))) &&
    (s.type != 2 || (decide (1 ≤ s.count) && decide (s.count ≤ 1048576)))

def tensorOk (t : Tensor) : Bool :=
  (fmtOfCode t.fmtCode).isSome && decide (t.place ≤ 3) && decide (t.scaleKind ≤ 3) && decide (1 ≤ t.rank) && decide (t.rank ≤ 4) &&
    (t.dims.take t.rank).all (fun d => decide (1 ≤ d)) && (t.dims.drop t.rank).all (· == 0)

def opcodeOk (o : OpRec) : Bool :=
  match opArity o.code with
  | some (a, b, c, d) => decide (a ≤ o.nin) && decide (o.nin ≤ b) && decide (c ≤ o.nout) && decide (o.nout ≤ d)
  | none => false

/-- References of one tensor. -/
def tensorRefsOk (b : Bytes) (nt : Nat) (t : Tensor) : Bool :=
  (t.scaleTensor == noTensor || decide (t.scaleTensor < nt)) &&
    (t.name == noTensor || decide (t.name < (sectionBytes b 6).length)) &&
    (t.place != 3 || decide (t.constOff + t.constSize ≤ (sectionBytes b 0x10).length))

/-- References of one operation: its tensors, and the attribute references of keys it uses. -/
def opRefsOk (b : Bytes) (nt np : Nat) (o : OpRec) : Bool :=
  ((o.ins.take o.nin ++ o.outs.take o.nout).all fun t => t == noTensor || decide (t < nt)) &&
    (o.code != 0x40 || (match opAttr b o 8 with | some t => decide (t < nt) | none => true)) &&
    ((o.code != 0x60 && o.code != 0x61) || (match opAttr b o 0xE with | some p => decide (p < np) | none => true))

/-- The checks of R128 on an image's bytes, in table order, but QUOTA and HANDLES: 0, or the reason of the first that fails. DESIGN CHOICE
(log 71): an empty attribute span whose ATTR_FIRST lies beyond ATTRS fails check 0x09, a section of size 0 whose OFFSET lies beyond
IMAGE_SIZE check 0x07. -/
def imageCheck (b : Bytes) : Nat :=
  let size := imgSize b
  let n := imgSections b
  let dir := imgDirectory b
  let nt := imgTensorCount b
  let ops := (List.range (imgOpCount b)).map (imgOp b)
  let attrs := sectionBytes b 5
  let na := sectionCount b 5
  if field b 0 4 ≠ 0x5452424E then 0x01
  else if field b 5 1 ≠ 1 then 0x02
  else if 2 < field b 4 1 then 0x03
  else if imgHeaderCrc b ≠ crc32c (b.take 124) then 0x04
  else if !(decide (256 ≤ size) && decide (size ≤ 1073741824) && decide (2 ≤ n) && decide (n ≤ 16) && decide (1 ≤ imgMinTeams b) &&
      decide (imgMinTeams b ≤ 16) && decide (imgMinTeams b ≤ imgMaxTeams b) && decide (imgMaxTeams b ≤ 16) &&
      decide (128 + 32 * n ≤ size) && decide (size ≤ b.length)) then 0x07
  else if field b 120 4 ≠ crc32c (slice b 128 (32 * n)) then 0x05
  else if dir.any fun s => decide (size < s.offset + s.size) then 0x07
  else if dir.any fun s => ((typeControl s.type).getD (bit s.flags 0)) && s.crc != crc32c (slice b s.offset s.size) then 0x06
  else if !(dir.all (sectionOk (128 + 32 * n)) && sectionsApart dir && dir.any (fun s => s.type == 1) && dir.any (fun s => s.type == 2) &&
      ((List.range nt).all fun i => tensorOk (imgTensor b i)) && (imgPredicates b).isSome) then 0x07
  else if !ops.all opcodeOk then 0x08
  else if !(((List.range na).all fun i => decide (1 ≤ field attrs (8 * i) 2) && decide (field attrs (8 * i) 2 ≤ 0x15)) &&
      ops.all fun o => decide (o.attrFirst + o.attrCount ≤ na)) then 0x09
  else if !(((List.range nt).all fun i => tensorRefsOk b nt (imgTensor b i)) &&
      (ops.all fun o => opRefsOk b nt (sectionCount b 4) o) && ((imgStreams b).all fun s => decide (s.tensor < nt))) then 0x0A
  else 0

/-! ### Run blocks (R158, R159) -/

def runSeed (b : Bytes) : Nat := field b 0 8
def runStepBase (b : Bytes) : Nat := field b 8 4 % 2 ^ 24
def runPasses (b : Bytes) : Nat := field b 12 4
def runSlotCount (b : Bytes) : Nat := field b 16 2

/-- A slot entry. -/
structure RunSlot where
  slot : Nat
  kind : Nat
  nsid : Nat
  start : Nat
  length : Nat
deriving DecidableEq, Repr

def runSlots (b : Bytes) : List RunSlot :=
  (List.range (runSlotCount b)).map fun j =>
    let e := slice b (32 + 32 * j) 32
    ⟨field e 0 2, field e 2 1, field e 4 4, field e 8 8, field e 16 8⟩

/-- The slot entry of a number. DESIGN CHOICE (log 71): of two entries with one number the first counts. -/
def runSlot? (b : Bytes) (n : Nat) : Option RunSlot := (runSlots b).find? fun s => s.slot == n

/-! ### What an image uses -/

/-- Operand tensors that an operation reads as bytes. -/
def readsOf (o : OpRec) : List Nat :=
  let at_ := fun l : List Nat => l.filterMap o.in?
  match o.code with
  | 0x52 => at_ [0, 1, 2]
  | 0x54 => at_ [1, 2]
  | 0x61 => []
  | 0x63 => at_ [0]
  | 0x70 => at_ [0, 1]
  | _ => at_ [0, 1, 2, 3, 4]

/-- Tensors of scales and masks that an operation reads besides its operands. -/
def sideReads (img : Bytes) (o : OpRec) : List Nat :=
  let scale := fun i => let t := imgTensor img i
    if (t.scaleKind = 1 || t.scaleKind = 2) && t.scaleTensor != noTensor then [t.scaleTensor] else []
  (match o.code with
    | 0x01 | 0x02 | 0x50 => (match o.in? 1 with | some w => scale w | none => [])
    | 0x42 => (match o.in? 0 with | some q => scale q | none => [])
    | 0x41 => if opAttr img o 0x12 = some 2 then (match o.out? 0 with | some q => scale q | none => []) else []
    | 0x40 => (match opAttr img o 8 with | some t => [t] | none => [])
    | _ => [])

/-- Operands that an operation reads, from whatever tier: all but the target of NS_WRITE. -/
def sourcesOf (o : OpRec) : List Nat := if o.code = 0x63 then (o.in? 0).toList else (List.range 5).filterMap o.in?

/-- Tensors that some operation writes to a namespace (NS_WRITE targets). -/
def nsTargets (b : Bytes) : List Nat :=
  ((List.range (imgOpCount b)).map (imgOp b)).filterMap fun o => if o.code = 0x63 then o.in? 1 else none

/-- Tensors that some operation or stream reads from a namespace. -/
def nsSources (b : Bytes) : List Nat :=
  let ops := (List.range (imgOpCount b)).map (imgOp b)
  (List.range (imgTensorCount b)).filter fun i =>
    (imgTensor b i).place == 2 && ((imgStreams b).any (fun st => st.tensor == i) || ops.any fun o => (sourcesOf o ++ sideReads b o).contains i)

/-- Tensors that fixed reads bring from a namespace: all that are read from one, but those that GATHER alone reads, through open reads
(R170, R171). -/
def fixedSources (b : Bytes) : List Nat :=
  let ops := (List.range (imgOpCount b)).map (imgOp b)
  (nsSources b).filter fun i => (imgStreams b).any (fun st => st.tensor == i) ||
    ops.any fun o => (sideReads b o).contains i || ((sourcesOf o).contains i && !(o.code == 0x53 && o.in? 0 == some i))

/-- Distinct predicates that the SCAN_READs of an image evaluate on the channel filters (R284). -/
def scanPredicates (b : Bytes) : List Bytes :=
  (((List.range (imgOpCount b)).map (imgOp b)).filterMap fun o =>
    if o.code = 0x61 then (opAttr b o 0xE).map (imgPredicate b) else none).eraseDups

/-- Working-part bytes a run takes (R196, R504): STAGE_IN copies, two staging copies for each NS_WRITE, and the transient
tensors where they do not fit the coaches' SRAM of the given size (DESIGN CHOICE: the binder places them in SRAM where
they fit). -/
def runWorking (b : Bytes) (sram : Nat) : Nat :=
  let ts := (List.range (imgTensorCount b)).map (imgTensor b)
  let tr := (ts.map fun t => if t.place = 0 then t.bytes else 0).foldl (· + ·) 0
  let st := ((imgStreams b).map fun s => if s.kind = 1 then (imgTensor b s.tensor).bytes else 0).foldl (· + ·) 0
  let wr := (((List.range (imgOpCount b)).map (imgOp b)).map fun o =>
    if o.code = 0x63 then 2 * (match o.in? 0 with | some t => (imgTensor b t).bytes | none => 0) else 0).foldl (· + ·) 0
  (if tr ≤ sram then 0 else tr) + st + wr

/-- Working-part bytes an image takes for the life of its handle: CONSTANT copies and histories (R196). -/
def imageWorking (b : Bytes) : Nat :=
  ((List.range (imgTensorCount b)).map (imgTensor b)).foldl
    (fun n t => n + (if t.place = 3 then t.constSize else 0) + (if t.scaleKind = 3 then 4 * t.histL else 0)) 0

end Sys2Proof.Machine
end

