-- ==== Sys2Proof/Machine/Sess.lean ====
section
/-! DEFINITION. What sessions, partitions and runs share: the DRAM pool and its placement, charges, held records, roles and
windows, filter slots, run faults, placement in partitions and the freeing of a session (R191 to R199, R213 to R224, R284,
R300). -/

namespace Sys2Proof.Machine

def granule : Nat := 67108864

/-- Save area of one team (R196, R231). -/
def saveTeam : Nat := 34357248

/-! ### The pool (R192, R195) -/

/-- Granules a to b − 1 of a sequence dealt out in turn to p packages that the k-th one takes. -/
def dealt (a b k p : Nat) : Nat := (b + p - 1 - k) / p - (a + p - 1 - k) / p

/-- The system regions laid out on the packages in service: 64 granules of firmware, 256 of write buffer, then the map cache (R192). -/
def systemLayout (pkgs : List Nat) (cacheGiB : Nat) : List (Nat × Nat × Nat × Nat) :=
  let p := pkgs.length
  pkgs.zipIdx.map fun q => (q.1, dealt 0 64 q.2 p, dealt 64 320 q.2 p, dealt 320 (320 + 16 * cacheGiB) q.2 p)

/-- Slots that the system regions take on a package. -/
def State.systemSlots (s : State) (pkg : Nat) : Nat :=
  match s.drm.layout.find? fun l => l.1 == pkg with
  | some l => l.2.1 + l.2.2.1 + l.2.2.2
  | none => 0

/-- Runs of pool slots in use on a package: sessions' ranges and code layers. -/
def State.poolUsed (s : State) (pkg : Nat) : List (Nat × Nat) :=
  let a := s.ses.list.flatMap fun x => x.ranges
  let b := s.ns.list.flatMap fun n => n.gens.flatMap fun g => g.ranges
  ((a ++ b).filter fun r => r.1 == pkg && r.2.2 != 0).map fun r => r.2

/-- A run of n slots from f on is free among the runs in use. -/
def runFree (used : List (Nat × Nat)) (f n : Nat) : Bool := used.all fun r => decide (f + n ≤ r.1) || decide (r.1 + r.2 ≤ f)

/-- The lowest free run of n slots of a package, searched from the system's slots upwards (R195). -/
def State.firstFit (s : State) (pkg n : Nat) : Option Nat :=
  let lo := s.systemSlots pkg
  (firstBelow (fun i => decide (lo + i + n ≤ 1024) && runFree (s.poolUsed pkg) (lo + i) n) (1024 - lo)).map (lo + ·)

/-- The highest free run of n slots of a package, searched downwards (R195). -/
def State.lastFit (s : State) (pkg n : Nat) : Option Nat :=
  let lo := s.systemSlots pkg
  (firstBelow (fun i => decide (lo + n + i ≤ 1024) && runFree (s.poolUsed pkg) (1024 - n - i) n) (1025 - n)).map (1024 - n - ·)

/-- Slots that G granules take on the k-th of P packages (R195). -/
def share (g k p : Nat) : Nat := (g + p - 1 - k) / p

/-- One range on each package in service by a search; none where some package has no room. -/
def placeRanges (find : Nat → Nat → Option Nat) (g : Nat) (pkgs : List Nat) : Option (List (Nat × Nat × Nat)) :=
  pkgs.zipIdx.foldr (fun p acc => match acc with
    | none => none
    | some l =>
      let n := share g p.2 pkgs.length
      if n = 0 then some ((p.1, 0, 0) :: l)
      else match find p.1 n with
        | some f => some ((p.1, f, n) :: l)
        | none => none) (some [])

def State.placeSession (s : State) (g : Nat) : Option (List (Nat × Nat × Nat)) := placeRanges s.firstFit g s.drm.present
def State.placeLayer (s : State) (g : Nat) : Option (List (Nat × Nat × Nat)) := placeRanges s.lastFit g s.drm.present

/-- Slots zeroed: they read zero, with valid check bytes (R217). -/
def State.zeroSlots (s : State) (pkg first n : Nat) : State :=
  let lo := pkg * 2 ^ 36 + first * granule
  let hi := lo + n * granule
  { s with drm := { s.drm with data := Tab.clear s.drm.data lo hi, check := Tab.clear s.drm.check (lo / 8) (hi / 8) } }

def State.zeroRanges (s : State) (ranges : List (Nat × Nat × Nat)) : State :=
  ranges.foldl (fun s r => s.zeroSlots r.1 r.2.1 r.2.2) s

/-! ### Parts and charges (R194, R196) -/

def Quota.working (q : Quota) : Nat := q.granules - q.host - q.prot

/-- Charge of a bound timetable (R179). -/
def ttCharge (t : Timetable) : Nat := 24 * t.plan.entries.length + 64

/-- Bytes charged to the protected part. -/
def protCharge (x : Session) : Nat :=
  (x.routes.map fun r => imgSize r.image).sum + (x.partials.map fun p => p.size).sum +
    (x.cache.map fun c => ttCharge c.tt).sum + (match x.search with | some t => ttCharge t | none => 0) +
    (x.scans.map fun c => match c.tt with | some t => ttCharge t | none => 0).sum + saveTeam * x.quota.teams + (x.held.map fun h => h.bytes.length).sum

def protFree (x : Session) : Nat := x.quota.prot * granule - protCharge x

/-- A scan's buffer in the working part (R292). -/
def scanBuffer (s : State) (c : Scan) : Nat :=
  match s.ns? c.nsid with
  | some n =>
    let ext := (List.range (field c.block 24 2)).map fun j => field c.block (64 + 16 * j + 8) 8
    if field c.block 12 1 = 1 then min ext.sum (field c.block 16 4 + 384 * perWord n.rowBytes) * n.rowBytes else 0
  | none => 0

/-- Bytes charged to the working part. -/
def workCharge (s : State) (x : Session) : Nat :=
  (x.routes.map fun r => imageWorking r.image).sum +
    (match x.run with | some r => runWorking r.route.image (x.quota.teams * 33554432) | none => 0) +
    (x.scans.map fun c => scanBuffer s c).sum

/-- Quota offset of byte n of the protected part, interleaved in 4 KiB pieces (R231). -/
def protOffset (q : Quota) (n : Nat) : Nat :=
  let j := n / 4096
  (q.granules - q.prot + j % max 1 q.prot) * granule + j / max 1 q.prot * 4096 + n % 4096

/-! ### Held records (R160, R264, R300) -/

/-- A record held for FETCH; a record with the approximate flag counts (R211). DESIGN CHOICE: a route or build status record that finds the
protected part full is held all the same, beyond its charge; R160 and R264 name no wait for it (log 71). -/
def State.hold (s : State) (sess : Nat) (h : Held) : State :=
  let s := s.updSess sess fun x => { x with held := x.held ++ [h] }
  if bit h.flags 0 then s.health fun k => { k with approximate := k.approximate + 1 } else s

/-! ### Teams, roles and windows (R91, R92, R195, R223) -/

/-- A team's coaches. -/
def teamCoaches (t : Nat) : List Nat := (List.range 16).map (t * 16 + ·)

def State.coachIn (s : State) (c : Nat) : Bool := !s.coachOut c

/-- A team has a coach in service. -/
def State.teamServes (s : State) (t : Nat) : Bool := (teamCoaches t).any s.coachIn

/-- ROLE + 1 on all coaches of a team in one write, with its assignment (R92, R223). -/
def State.writeRole (s : State) (t : Nat) (assigned : Bool) (part : Nat) : State :=
  let role := (teamCoaches t).foldl (fun r c =>
    let old := (Tab.get 0 r c).toNat
    let v := (old / 32768 % 2) * 32768 + (if assigned then 16384 + part % 16 * 256 else 0) + (old + 1) % 256
    Tab.set 0 r c (BitVec.ofNat 32 v)) s.coa.role
  { s with coa := { s.coa with role := role } }

def State.writeRoles (s : State) (ts : List Nat) (assigned : Bool) (part : Nat) : State :=
  ts.foldl (fun s t => s.writeRole t assigned part) s

/-- The partition of a coach, from COA_ROLE. -/
def State.coachPart (s : State) (c : Nat) : Option Nat :=
  let r := (s.coaRole c).toNat
  if bit r 14 then some (bits r 11 8) else none

/-- The session that holds a coach's teams. -/
def State.coachSess (s : State) (c : Nat) : Option Nat :=
  match s.coachPart c with
  | some p => match s.part? p with
    | some p => p.holder
    | none => none
  | none => none

/-- DRM_WIN of a partition on every package: the host and working parts of the session that holds it, in its range there (R195). -/
def State.setWindows (s : State) (part : Nat) (x : Option Session) : State :=
  let win := s.drm.present.foldl (fun w pkg =>
    let v := match x with
      | some x => match x.ranges.zipIdx.find? fun r => r.1.1 == pkg with
        | some ((_, first, _), k) =>
          let n := share (x.quota.granules - x.quota.prot) k x.ranges.length
          if n = 0 then 0 else 2 ^ 31 + (first + n - 1) * 2 ^ 21 + first * 2 ^ 11
        | none => 0
      | none => 0
    Tab.set 0 w (pkg * 16 + part) (BitVec.ofNat 32 v)) s.drm.win
  { s with drm := { s.drm with win := win } }

/-- A span lies in a partition's window on a package (R87, R195). -/
def State.inWindow (s : State) (pkg part addr len : Nat) : Bool :=
  let w := (Tab.get 0 s.drm.win (pkg * 16 + part)).toNat
  let off := addr % 2 ^ 36
  bit w 31 && decide (bits w 20 11 * granule ≤ off) && decide (off + len ≤ (bits w 30 21 + 1) * granule)

/-! ### Timetables: when their entries fall due (R165, R188) -/

/-- An occurrence stands at a stage, counted from its first one. -/
def occurs (first stride rep stage : Nat) : Bool :=
  decide (first ≤ stage) &&
    (let d := stage - first
     if rep = 1 || stride = 0 then d == 0 else d % stride == 0 && (rep == 0 || decide (d / stride < rep)))

/-- An entry of a timetable falls due in a stage, in the pass that starts at the given one. -/
def entryDue (start : Nat) (e : TtEntry) (stage : Nat) : Bool := occurs (start + e.stage) e.stride e.rep stage

/-- First stage from `a` on at which an entry falls due. -/
def entryNext (start : Nat) (e : TtEntry) (a : Nat) : Option Nat :=
  let b := start + e.stage
  if a ≤ b then some b
  else if e.stride = 0 || e.rep = 1 then none
  else
    let k := ceilDiv (a - b) e.stride
    if e.rep = 0 || k < e.rep then some (b + k * e.stride) else none

/-- Of the first n passes under a timetable those that may hold a stage, and the one after them: passes overlap where their stride is shorter
than they are (R165). -/
def Timetable.passesNear (t : Timetable) (n stage : Nat) : List Nat :=
  let w := max 1 t.plan.passStride
  let k := min (n - 1) ((stage - t.base) / w) + 1
  (List.range (ceilDiv t.plan.passStages w + 1)).filterMap fun i => if i ≤ k ∧ k - i < n then some (k - i) else none

/-- Start of a pass, counted from the first under its timetable. -/
def Timetable.passBase (t : Timetable) (k : Nat) : Nat := t.base + k * max 1 t.plan.passStride

/-- Starts of the passes, begun or to come, that may hold a stage. -/
def Timetable.near (t : Timetable) (stage : Nat) : List Nat := (t.passesNear (t.started + t.ahead) stage).map t.passBase

/-- Timetables of a session: its standing search timetable, its run's, its scans' and its builds'. -/
def ttsOf (x : Session) : List Timetable :=
  x.search.toList ++ (x.run.bind fun r => r.tt).toList ++ (x.scans.filterMap fun c => c.tt) ++ x.buildTts.map fun b => b.2

/-- Active timetables with their sessions, those that are suspended included. -/
def State.tables (s : State) : List (Nat × Timetable) := s.ses.list.flatMap fun x => (ttsOf x).map fun t => (x.num, t)

/-- Seats of a mask of six. -/
def seatCount (m : Nat) : Nat := ((List.range 6).filter fun i => bit m i).length

/-! ### Work and faults (R161, R162, R226) -/

/-- A session has work (R226). -/
def hasWork (x : Session) : Bool :=
  x.run.isSome || !x.queued.isEmpty || !x.queries.isEmpty || (x.scans.any fun c => field c.block 12 1 == 2) || !x.builds.isEmpty

/-- A run meets a fault: the first one stands and ends the run at the next boundary (R162). -/
def State.faultRun (s : State) (sess code : Nat) (op : Option Nat) : State :=
  s.updSess sess fun x => { x with run := x.run.map fun r => if r.fault = 0 then { r with fault := code, faultOp := op } else r }

/-- A run meets a fault at the operation it has come to; none between two passes (R160, R162). -/
def State.faultHere (s : State) (sess code : Nat) : State := s.faultRun sess code (((s.sess? sess).bind fun x => x.run).bind fun r => r.nextOp)

/-- A fault met on a coach ends the run of the session that holds it (R74, R379). DESIGN CHOICE: also where the context walks a query. -/
def State.faultCoach (s : State) (c code : Nat) : State :=
  match s.coachSess c with
  | some n => s.faultHere n code
  | none => s

/-- A flag set in a run's FLAGS (R160, R209). -/
def State.flagRun (s : State) (sess b : Nat) : State :=
  s.updSess sess fun x => { x with run := x.run.map fun r => { r with flags := Nat.lor r.flags (2 ^ b) } }

/-! ### Filter slots (R284) -/

/-- The slot that holds a predicate, byte for byte. -/
def slotOf (t : Table (Bytes × Nat)) (p : Bytes) : Option Nat := (t.find? fun e => e.2.1 == p).map fun e => e.1

/-- Slots for distinct predicates: shared where the predicate stands, else the lowest free of 1 to 15; none where all
are held. -/
def takeSlots : List Bytes → Table (Bytes × Nat) → Option (Table (Bytes × Nat))
  | [], t => some t
  | p :: ps, t =>
    match slotOf t p with
    | some k => takeSlots ps (updateIf (fun e => e.1 == k) (fun e => (e.1, e.2.1, e.2.2 + 1)) t)
    | none => match firstBelow (fun k => k != 0 && !t.any fun e => e.1 == k) 16 with
      | some k => takeSlots ps (Tab.put t k (p, 1))
      | none => none

/-- A bind's slots freed: the last bind to use one empties it. -/
def dropSlots (ps : List Bytes) (t : Table (Bytes × Nat)) : Table (Bytes × Nat) :=
  ps.foldl (fun t p => (updateIf (fun e => e.2.1 == p) (fun e => (e.1, e.2.1, e.2.2 - 1)) t).filter fun e => e.2.2 != 0) t

def State.freeSlots (s : State) (ps : List Bytes) : State := { s with ses := { s.ses with slots := dropSlots ps s.ses.slots } }

/-! ### Transitions and placement (R213, R220 to R223) -/

def sessCode : SessState → Nat
  | .opened => 1
  | .orphaned => 2
  | .closing => 3

/-- A transition recorded in the event log (R220). -/
def State.sessEvent (s : State) (n code : Nat) : State := s.event 0x0003 0 1 ⟨11, n⟩ [BitVec.ofNat 8 n, BitVec.ofNat 8 code]

/-- Free teams with a coach in service, ascending. -/
def State.freeTeams (s : State) : List Nat :=
  (List.range 16).filter fun t => s.teamServes t && !s.ses.parts.any fun p => p.teams.contains t

/-- Sessions of a partition. -/
def State.partSessions (s : State) (p : Nat) : List Session := s.ses.list.filter fun x => x.part == some p

/-- A new partition of t teams: its number and teams, where one can form (R222). -/
def State.newPart (s : State) (t : Nat) : Option (Nat × List Nat) :=
  let ts := s.freeTeams
  if ts.length < t then none
  else (firstBelow (fun p => (s.part? p).isNone) 16).map fun p => (p, ts.take t)

/-- The partition of exactly t teams with the fewest sessions, the lowest number among equals (R222). -/
def State.joinPart (s : State) (t : Nat) : Option Nat :=
  let c := s.ses.parts.filter fun p => p.teams.length == t
  (c.foldl (fun (best : Option (Nat × Nat)) p =>
    let n := (s.partSessions p.num).length
    match best with
    | none => some (n, p.num)
    | some (m, q) => if n < m || (n = m && p.num < q) then some (n, p.num) else best) none).map fun b => b.2

/-- A partition forms: roles are written, no session holds it (R223, R505). -/
def State.formPart (s : State) (p : Nat) (ts : List Nat) : State :=
  let s := s.writeRoles ts true p
  { s with ses := { s.ses with parts := s.ses.parts ++ [{ num := p, teams := ts, holder := none, run := 0, slice := s.ses.slice, switch := none }] } }

/-- Placement of a session of t teams by PACK: the partition and the state with it formed (R222). -/
def State.placePart (s : State) (t : Nat) : Option (Nat × State) :=
  let fresh := (s.newPart t).map fun n => (n.1, s.formPart n.1 n.2)
  let join := (s.joinPart t).map fun p => (p, s)
  if s.ses.pack = 0 then fresh <|> join else join <|> fresh

/-- Contexts of a partition's coaches freed. -/
def State.clearContexts (s : State) (ts : List Nat) : State :=
  { s with coa := { s.coa with ctxs := s.coa.ctxs.filter fun e => !ts.contains (e.1 / 1024) } }

/-- A session leaves its partition: a holder gives up the teams; the last session dissolves it (R219, R223, R229). -/
def State.leavePart (s : State) (n : Nat) : State :=
  match s.sess? n with
  | none => s
  | some x =>
    match x.part with
    | none => s
    | some p =>
      let s := s.updSess n fun x => { x with part := none, search := none }
      match s.part? p with
      | none => s
      | some q =>
        let held := q.holder == some n
        let s := if held then (s.clearContexts q.teams).setWindows p none else s
        if (s.partSessions p).isEmpty then
          let s := s.writeRoles q.teams false 0
          { s with ses := { s.ses with parts := s.ses.parts.filter fun q => q.num != p }
                   fla := { s.fla with openReads := s.fla.openReads.filter fun o => o.part != p } }
        else if held then s.updPart p fun q => { q with holder := none, run := 0, switch := none }
        else match q.switch with
          | some (.moving b next _) => if next = n then s.updPart p fun q => { q with holder := if b + s.fla.tRead < s.stg.stage then none else q.holder, switch := none } else s
          | some (.restored next) => if next = n then (s.clearContexts q.teams).updPart p fun q => { q with holder := none, switch := none } else s
          | _ => s

/-- Shard sessions of a set closed with ABORT on the peers that are up (R268). -/
def State.closePeers (s : State) (p : PeerSet) : State :=
  p.peers.foldl (fun s q => if q.down then s else s.send (.peerClose q.session q.member)) s

/-- The QUOTA SETs that wait end with ABORTED, reason 1 (R224). -/
def State.abortQuotaWait (s : State) (x : Session) : State :=
  (x.quotaWait.foldl (fun s w => s.completeWith w.1 .aborted 1 0 []) s).updSess x.num fun x => { x with quotaWait := [] }

/-- The commands whose granules have been zeroed complete (R217): a SESSION OPEN answers with the session's number and partition. -/
def State.endZeroing (s : State) (x : Session) : State :=
  x.zeroing.foldl (fun s z => s.succeed z.1 (if z.2 then x.num + (match x.part with | some p => p * 256 | none => 4096) else 0) 0 []) s

/-- A session is freed: it leaves its partition, its shard sessions are closed, its records and the answers still being assembled for it
are discarded, its quota returns, its number becomes FREE and the commands that wait for it complete (R217, R219, R220, R268). -/
def freeSession (n : Nat) (s : State) : State :=
  match s.sess? n with
  | none => s
  | some x =>
    let s := ((x.peerSets.foldl State.closePeers s).endZeroing x).abortQuotaWait x
    let s := { s with ans := { s.ans with trees := s.ans.trees.filter fun e => e.2.sess != n } }
    let s := s.leavePart n
    let s := { s with ses := { s.ses with
      list := s.ses.list.filter fun y => y.num != n
      binds := s.ses.binds.filter fun b => b.sess != n } }
    let s := s.sessEvent n 0
    match x.closing with
    | some (tag, _) => s.succeed tag 0 0 []
    | none => s

/-! ### Access of a command to a session (R216, R413) -/

/-- The session a command names, where it is OPEN and the controller's Host Identifier is the session's. -/
def State.openSess (s : State) (c : Ctrl) (n : Nat) : Option Session :=
  match s.sess? n with
  | some x => if x.st == .opened && x.hostId == c.hostId then some x else none
  | none => none

/-- A command of a session: refused with reason 0x62 where the session does not take it. -/
def State.sessCommand (s : State) (c : Ctrl) (tag : Tag) (n : Nat) (f : Session → State → State) : State :=
  match s.openSess c n with
  | some x => f x s
  | none => s.refuse tag 0x62

/-- Read and write quota by a session's grants (R194). -/
def readQuota (x : Session) (nsid : Nat) : Bool := x.quota.grants.any fun g => g.1 == nsid
def writeQuota (x : Session) (nsid : Nat) : Bool := x.quota.grants.any fun g => g.1 == nsid && g.2 == 2

end Sys2Proof.Machine
end

