-- ==== Sys2Proof/Machine/Fabric.lean ====
section
/-! DEFINITION. The carriage fabric: waybills, sending with relay, acceptance and drops, and what each kind of carriage does
at its destination (R77 to R92, R171, R184, R204 to R206, R250, R298). -/

namespace Sys2Proof.Machine

/-! ### The waybill (R84, R85) -/

def wbDst (c : Bytes) : Nat := field c 0 2 % 512
def wbSrc (c : Bytes) : Nat := field c 2 2 % 512
def wbShort (c : Bytes) : Nat := field c 4 4
def wbRole (c : Bytes) : Nat := field c 8 1
def wbKind (c : Bytes) : Nat := field c 9 1
def wbLength (c : Bytes) : Nat := field c 10 2 % 512
def wbAddress (c : Bytes) : Nat := field c 12 8
def wbTag (c : Bytes) : Nat := field c 20 4
def wbFlags (c : Bytes) : Nat := field c 24 2
def wbRelayCount (c : Bytes) : Nat := bits (wbFlags c) 11 8
def wbRelayDir (c : Bytes) : Nat := bits (wbFlags c) 7 6
def wbAck (c : Bytes) : Bool := bit (wbFlags c) 5
def wbLast (c : Bytes) : Bool := bit (wbFlags c) 4
def wbCrcOk (c : Bytes) : Bool := field c 30 2 == crc16 (c.take 30)
def wbPayload (c : Bytes) : Bytes := fit (wbLength c) (c.drop 32)

/-- Context that a TAG wakes. -/
def tagCtx (tag : Nat) : Nat := bits tag 31 26

/-- A carriage: waybill with its CRC, then the payload. -/
def mkCarriage (dst src short role kind addr tag flags : Nat) (payload : Bytes) : Bytes :=
  let w := toLe 2 dst ++ toLe 2 src ++ toLe 4 short ++ toLe 1 role ++ toLe 1 kind ++ toLe 2 payload.length ++ toLe 8 addr ++ toLe 4 tag ++
    toLe 2 flags ++ zeros 4
  w ++ toLe 2 (crc16 w) ++ payload

def mkFlags (count dir : Nat) (ack last : Bool) (order : Nat) : Nat :=
  count * 256 + dir * 64 + (if ack then 32 else 0) + (if last then 16 else 0) + (if order = 1 then 8 else 0)

/-! ### Sending (R78 to R81, R83) -/

/-- Mesh node of a station: a coach's own, else its attachment node (R77). -/
def meshNode (st : Nat) : Nat × Nat :=
  if st < 256 then (st % 16, st / 16)
  else if st < 268 then (15, st - 254)
  else if st < 284 then (0, st - 268)
  else if st = 284 then (7, 0) else if st = 285 then (8, 0) else (7, 15)

/-- Stations in ring order (R463). -/
def ringOrder : List Nat := [284, 285] ++ (List.range 12).map (256 + ·) ++ [286] ++ (List.range 16).map (283 - ·)

/-- Place of a station in ring order. -/
def ringPlace (st : Nat) : Nat := ringOrder.findIdx fun x => x == st

/-- Mesh links along a row between two columns, and along a column between two rows (R463). -/
def rowLinks (y a b : Nat) : List Nat := (List.range (max a b - min a b)).map fun k => y * 15 + min a b + k
def colLinks (x a b : Nat) : List Nat := (List.range (max a b - min a b)).map fun k => 240 + x * 15 + min a b + k

/-- Ring links between two places, the shorter way (R79). -/
def ringLinks (a b : Nat) : List Nat :=
  let d := (b + 31 - a) % 31
  if d ≤ 15 then (List.range d).map fun k => 512 + (a + k) % 31 else (List.range (31 - d)).map fun k => 512 + (b + k) % 31

/-- Links that a carriage crosses: mesh links in a dimension order, attachment links; between stations ring links. -/
def routeLinks (src dst : Nat) (yx : Bool) : List Nat :=
  if 256 ≤ src ∧ 256 ≤ dst then ringLinks (ringPlace src) (ringPlace dst)
  else
    let (x1, y1) := meshNode src
    let (x2, y2) := meshNode dst
    let attach := ([src, dst].filter fun st => decide (256 ≤ st)).map fun st => 544 + ringPlace st
    attach ++ (if yx then colLinks x1 y1 y2 ++ rowLinks y2 x1 x2 else rowLinks y1 x1 x2 ++ colLinks x2 y1 y2)

/-- Flits of a carriage with a payload of n bytes (R78). -/
def carriageFlits (n : Nat) : Nat := ceilDiv (32 + n) 64

/-- The links that a carriage crosses, each with the direction in which it crosses it: true towards the higher column, row or place of the
ring, or off a station's attachment (R78, R79). -/
def routeHops (src dst : Nat) (yx : Bool) : List (Nat × Bool) :=
  if 256 ≤ src ∧ 256 ≤ dst then
    let up := decide ((ringPlace dst + 31 - ringPlace src) % 31 ≤ 15)
    (ringLinks (ringPlace src) (ringPlace dst)).map fun l => (l, up)
  else
    let (x1, y1) := meshNode src
    let (x2, y2) := meshNode dst
    let row := fun y : Nat => (rowLinks y x1 x2).map fun l => (l, decide (x1 < x2))
    let col := fun x : Nat => (colLinks x y1 y2).map fun l => (l, decide (y1 < y2))
    (if 256 ≤ src then [(544 + ringPlace src, true)] else []) ++ (if yx then col x1 ++ row y2 else row y1 ++ col x2) ++
      (if 256 ≤ dst then [(544 + ringPlace dst, false)] else [])

/-- Dimension order from a station to another: 0 XY, 1 YX, 2 no route (R80). -/
def State.routeOrder (s : State) (src dst : Nat) : Nat :=
  let ok := fun yx : Bool => (routeLinks src dst yx).all fun l => !s.fab.bad.contains l
  if ok false then 0 else if ok true then 1 else 2

/-- A carriage enters the fabric. -/
def State.inject (s : State) (dst : Nat) (c : Bytes) : State := { s with fab := { s.fab with flight := s.fab.flight ++ [(dst, c)] } }

/-- A station sends a carriage stamped with the core cycle in which it asks, in the dimension order of the pair; none where no route (R29,
R80). -/
def State.sendCarriage (s : State) (src dst role kind addr tag count dir : Nat) (ack last : Bool) (payload : Bytes) : Option State :=
  let order := s.routeOrder src dst
  if order = 2 then none
  else some (s.inject dst (mkCarriage dst src (s.stamp % 2 ^ 32) role kind addr tag (mkFlags count dir ack last order) payload)).nextCycle

/-- A context is halted by an ERROR, with the fault its code stands for; the run of its session meets the fault (R74, R86,
R161, R379): code 2 is a DRAM bus error, every other one a fabric error. -/
def haltContext (coach ctx code : Nat) (s : State) : State :=
  let f := if code = 2 then 2 else 1
  let c := s.ctx coach ctx
  let s := if c.st == .free then s else s.setCtx coach ctx { c with st := .halted, fault := f }
  s.faultCoach coach f

/-- A carriage refused at its source is answered with ERROR there, which halts the context that its TAG names, where the source is a coach
(R74, R77, R80, R83, R86). DESIGN CHOICE (log 71): also the refusals of R77 and R83, for which the spec names no answer. -/
def State.refuseSend (s : State) (src tag : Nat) : State := if src < 256 then haltContext src (tagCtx tag) 1 s else s

/-- A station sends a carriage, or is refused at a pair with no route (R80). -/
def State.sendOr (s : State) (src dst role kind addr tag count dir : Nat) (ack last : Bool) (payload : Bytes) : State :=
  (s.sendCarriage src dst role kind addr tag count dir ack last payload).getD (s.refuseSend src tag)

/-- A reply under the ROLE given. A pair that carried a request has a route back over the same links in the other dimension order; the
coach of a relayed copy may have none to the sender (R79, R80, R83). DESIGN CHOICE: REPLY, WRITE_ACK, SEAT and ERROR carry the ROLE of the
request they answer. -/
def State.reply (s : State) (src dst role kind addr tag : Nat) (last : Bool) (payload : Bytes) : State :=
  s.sendOr src dst role kind addr tag 0 0 false last payload

/-- A relay would leave its team row (R83). DESIGN CHOICE: a count of copies with no direction is refused too. -/
def relayLeaves (dst count dir : Nat) : Bool :=
  count != 0 && (dir == 0 || dir == 3 || !decide (dst < 256) || (dir == 1 && decide (dst % 16 < count)) || (dir == 2 && decide (15 < dst % 16 + count)))

/-- A station asks the fabric to carry: refused at the source for an unassigned station, a relay that leaves the row or no
route, and answered with ERROR (R77, R80, R83). To a station other than a coach the ROLE is the sending coach's own role stamp (R84). -/
def carriageSend (src : Nat) (r : CarriageReq) (s : State) : State :=
  if !s.coreClock || !decide (src ≤ 286) || (decide (src < 256) && s.coachOut src) then s
  else
    let s := if src < 256 then takeQueue src (.carriage r) s else s
    let refused := decide (286 < r.dst) || relayLeaves r.dst r.relayCount r.relayDir
    let role := if src < 256 ∧ 256 ≤ r.dst then s.roleStamp src else r.role
    match (if refused then none else s.sendCarriage src r.dst role r.kind r.address r.tag r.relayCount r.relayDir r.ack r.last r.payload) with
    | some s' =>
      if src < 256 && r.kind = 6 then
        { s' with coa := { s'.coa with fills := Tab.set [] s'.coa.fills (src * 2 ^ 32 + r.tag % 2 ^ 32) r.payload } }
      else if src < 256 && r.kind = 2 && 256 ≤ r.dst && r.dst < 268 then
        let kept := mkCarriage r.dst src 0 role 2 r.address r.tag 0 r.payload
        { s' with coa := { s'.coa with reads := Tab.set [] s'.coa.reads (src * 2 ^ 32 + r.tag % 2 ^ 32) kept } }
      else s'
    | none => s.refuseSend src r.tag

def execCarriageSend (src : Nat) (r : CarriageReq) (s : State) : Host.Outcome State Fault Refusal := .next (carriageSend src r s)

/-! ### Acceptance (R86, R88 to R90) -/

/-- A carriage is stale unless it was sent in this stage or the one before (R89). -/
def carriageStale (w now : Nat) : Bool := decide (1 < (now / 16384 + 2 ^ 18 - w / 16384 % 2 ^ 18) % 2 ^ 18)

/-- A kind is defined and accepted from this source at this station (R86): coaches and DRAM stations take data, hubs take
FILL, the answer unit ANSWER. DESIGN CHOICE: WRITE and READ have an effect at coaches and DRAM stations alone. -/
def kindAccepted (st src kind : Nat) : Bool :=
  let coach := decide (st < 256)
  let dram := decide (256 ≤ st) && decide (st < 268)
  match kind with
  | 1 | 2 => coach || dram
  | 3 | 4 | 10 => decide (st ≤ 286)
  | 5 => (coach || dram) && decide (268 ≤ src) && decide (src < 284)
  | 6 => decide (268 ≤ st) && decide (st < 284)
  | 7 => st == 286
  | 8 => src == 285 && decide (st ≤ 286)
  | 9 => let far := fun n : Nat => (decide (256 ≤ n) && decide (n < 268)) || n == 285
    (coach && far src) || (far st && decide (src < 256))
  | _ => false

/-- A drop counted in FAB_DROP's field at bit lo, saturating at 255 (R90). -/
def State.countDrop (s : State) (st lo : Nat) : State :=
  let x := (Tab.get 0 s.fab.drop st).toNat
  let v := if bits x (lo + 7) lo = 255 then x else x + 2 ^ lo
  { s with fab := { s.fab with drop := Tab.set 0 s.fab.drop st (BitVec.ofNat 32 v) } }

/-- The copy of a relayed carriage, sent on to the next coach of the team (R83); where the pair has no route it is refused at this coach, its
source, and answered with ERROR (R80; DEDUCED: to the sender that the waybill names). -/
def relayOn (st : Nat) (c : Bytes) (s : State) : State :=
  let n := wbRelayCount c
  let dir := wbRelayDir c
  if n = 0 || dir = 0 || 256 ≤ st then s
  else
    let next := if dir = 1 then st - 1 else st + 1
    let f := wbFlags c - 256
    if (dir = 1 && st % 16 = 0) || (dir = 2 && st % 16 = 15) || dir = 3 then s
    else if s.routeOrder st next = 2 then s.reply st (wbSrc c) (wbRole c) 10 0 (wbTag c) true (toLe 4 1)
    else s.inject next (mkCarriage next (wbSrc c) (wbShort c) (wbRole c) (wbKind c) (wbAddress c) (wbTag c) f (wbPayload c))

/-- The oldest carriage in flight from a source station to a station (R81). -/
def State.oldestFlight (s : State) (st src : Nat) : Option (Nat × Bytes) := s.fab.flight.find? fun e => e.1 == st && wbSrc e.2 == src

/-- The fabric delivers to a station in this stage: the core clock runs, and a DRAM controller's own (R49). -/
def State.stationRuns (s : State) (st : Nat) : Bool :=
  s.coreClock && decide (st ≤ 286) && (!(decide (256 ≤ st) && decide (st < 268)) || s.dramClock)

/-- A carriage arrives at a station: it leaves the fabric, passes the four checks or is dropped and counted, and is
delivered; a coach out of service only forwards a relay (R81, R83, R88). The kind is the row's. Of one source and destination the oldest in
flight arrives. DEDUCED: a carriage whose CRC fails is the oldest one in flight to the station, damaged on its way. -/
def arrive (kind st : Nat) (c : Bytes) (deliver : State → State) (s : State) : State :=
  if !s.stationRuns st then s
  else if !wbCrcOk c then
    match s.fab.flight.find? fun e => e.1 == st with
    | some e => { s with fab := { s.fab with flight := s.fab.flight.erase e } }.countDrop st 24
    | none => s
  else if s.oldestFlight st (wbSrc c) != some (st, c) then s
  else
    let s := { s with fab := { s.fab with flight := s.fab.flight.erase (st, c) } }
    if wbKind c ≠ kind || !kindAccepted st (wbSrc c) kind || 256 < wbLength c || wbRelayDir c = 3 then s.countDrop st 0
    else if !s.stg.staleOff && carriageStale (wbShort c) (s.stamp % 2 ^ 32) then s.countDrop st 8
    else if st < 256 && wbRole c ≠ s.roleStamp st then
      (s.countDrop st 16).event 0x0004 0 0xFF ⟨1, st⟩ (toLe 2 st ++ toLe 2 (wbSrc c))
    else if st < 256 && s.coachOut st then relayOn st c s
    else relayOn st c (deliver s)

/-! ### Effects by kind (R86, R87) -/

/-- ERROR to the source of a request, under its TAG. -/
def answerError (st : Nat) (c : Bytes) (code : Nat) (s : State) : State := s.reply st (wbSrc c) (wbRole c) 10 0 (wbTag c) true (toLe 4 code)

/-- A DRAM station refuses an address of another package, of a package from 12 to 15, or of one out of service (R191). -/
def packageRefuses (st : Nat) (c : Bytes) (len : Nat) (s : State) : Bool :=
  pkgOf (wbAddress c) != st - 256 || !s.drm.present.contains (st - 256) || pkgOf (wbAddress c + len - 1) != st - 256

/-- The span of a WRITE or READ is refused at a DRAM station: by its package, or outside the window of a source coach's partition (R87,
R191). -/
def windowRefuses (st : Nat) (c : Bytes) (len : Nat) (s : State) : Bool :=
  let a := wbAddress c
  let pkg := st - 256
  packageRefuses st c len s ||
    (decide (wbSrc c < 256) && match s.coachPart (wbSrc c) with
      | some p => !s.inWindow pkg p a len
      | none => true)

/-- WRITE: into a coach's SRAM, or a DRAM station's lines inside the window; WRITE_ACK where asked (R86, R87, R374). DESIGN CHOICE (log
71): the WRITE_ACK has LAST set where the WRITE has. -/
def deliverWrite (st : Nat) (c : Bytes) (s : State) : State :=
  let p := wbPayload c
  let ack := fun s : State => if wbAck c then s.reply st (wbSrc c) (wbRole c) 4 0 (wbTag c) (wbLast c) [] else s
  if st < 256 then ack (s.sramWrite st (wbAddress c % sramBytes) p)
  else if windowRefuses st c p.length s then answerError st c 1 s
  else match dramWrite (wbSrc c) (wbAddress c) p s with
    | (true, s) => ack s
    | (false, s) => answerError st c 2 s

/-- REPLY carriages of at most 256 bytes, the last with LAST set. -/
def sendReplies (st dst role tag : Nat) : Nat → Nat → Bytes → State → State
  | 0, _, _, s => s
  | fuel + 1, addr, bs, s =>
    if bs.length ≤ 256 then s.reply st dst role 3 addr tag true bs
    else sendReplies st dst role tag fuel (addr + 256) (bs.drop 256) (s.reply st dst role 3 addr tag false (bs.take 256))

/-- READ: the requested length from ADDRESS, back to the return address in REPLY carriages (R86, R87, R373). -/
def deliverRead (st : Nat) (c : Bytes) (s : State) : State :=
  let q := field (wbPayload c) 0 8
  let ret := q % 2 ^ 21
  let len := bits q 40 32
  if st < 256 then sendReplies st (wbSrc c) (wbRole c) (wbTag c) 3 ret (s.sramRead st (wbAddress c % sramBytes) len) s
  else if windowRefuses st c len s then answerError st c 1 s
  else match dramRead (wbSrc c) (wbAddress c) len s with
    | (some bs, s) => sendReplies st (wbSrc c) (wbRole c) (wbTag c) 3 ret bs s
    | (none, s) => answerError st c 2 s

/-- A READ of a coach answered: it is outstanding no more. -/
def State.readDone (s : State) (coach tag : Nat) : State :=
  { s with coa := { s.coa with reads := Tab.set [] s.coa.reads (coach * 2 ^ 32 + tag) [] } }

/-- REPLY: written at ADDRESS; LAST wakes the context of the TAG (R86). -/
def deliverReply (st : Nat) (c : Bytes) (s : State) : State :=
  if st < 256 then
    let s := s.sramWrite st (wbAddress c % sramBytes) (wbPayload c)
    if wbLast c then wakeReply st (tagCtx (wbTag c)) (s.readDone st (wbTag c)) else s
  else s

/-- DRAM READs of some contexts sent again, in unreserved lines (R208). -/
def State.reissueReads (s : State) (p : Nat → Bool) : State :=
  (s.coa.reads.filter fun e => p e.1).foldl (fun s e =>
    let src := e.1 / 2 ^ 32
    s.sendOr src (wbDst e.2) (s.roleStamp src) 2 (wbAddress e.2) (wbTag e.2) 0 0 false true (wbPayload e.2)) s

/-- WRITE_ACK: LAST wakes the context of the TAG (R86). -/
def deliverWriteAck (st : Nat) (c : Bytes) (s : State) : State := if st < 256 && wbLast c then wakeReply st (tagCtx (wbTag c)) s else s

/-! ### Open reads (R171, R184, R204 to R206) -/

/-- The timetables that a session's contexts may fill: its standing search timetable and its running route's. -/
def sessTables (x : Session) : List Timetable := x.search.toList ++ (x.run.bind fun r => r.tt).toList

/-- An open die read on a die is reserved in a stage for the session, in a pass begun or to come. -/
def reservedOpen (x : Session) (die stage : Nat) : Bool :=
  (sessTables x).any fun t => t.suspended.isNone && (t.near stage).any fun b =>
    t.plan.entries.any fun e => e.kind == .dieReadOpen && e.unit == die && entryDue b e stage

/-- Read-out seats that a session's standing search timetable holds on a channel in a stage: its open seats less those of the open
reads that land in it (R183, R184). -/
def readOutSeats (tRead : Nat) (x : Session) (chan stage : Nat) : Nat :=
  match x.search with
  | none => 0
  | some t =>
    if t.suspended.isSome then 0
    else
      (t.plan.entries.map fun e => if e.kind == .seatOpen && e.unit == chan && entryDue t.start e stage then seatCount e.amount else 0).sum -
        (t.plan.entries.filter fun e => e.kind == .dieReadOpen && chanOf e.unit == chan && decide (tRead ≤ stage) && entryDue t.start e (stage - tRead)).length

/-- Stage count that RES_STAGE names, at or after the present stage. -/
def resStage (now r : Nat) : Nat := now + (r + 65536 - now % 65536) % 65536

/-- The code word that a FILL's PAGE names on its die. -/
def fillWord (p : Bytes) : CwAddr :=
  let g := field p 4 4
  ⟨field p 0 4 % 1024, bits g 22 21, bits g 20 9, bits g 8 0, bits g 24 23⟩

/-- An empty SEAT answers a fill at once (R171, R206). -/
def emptySeat (st : Nat) (c : Bytes) (s : State) : State := s.reply st (wbSrc c) (wbRole c) 5 0 (wbTag c) true []

/-- The block of a code word belongs to a namespace: some code word programmed in it since its erase is the namespace's (R206; DEDUCED: an
unprogrammed code word of such a block is the namespace's too). -/
def State.blockOf (s : State) (w : CwAddr) (nsIdx : Nat) : Bool :=
  match Tab.get {} s.fla.words (cwKey w) with
  | d => if d == {} then s.fla.words.any fun e => e.1 / 2048 == cwKey w / 2048 && e.2.ns == nsIdx else d.ns == nsIdx

/-- Stage after that in which what a coach's fill of a TAG brings is due to land: a wait on it lapses there (R170). -/
def State.fillLapse (s : State) (coach tag : Nat) : Option Nat :=
  (s.fla.openReads.find? fun o => match o.fill with | some (_, _, t, _, c) => o.run.isNone && t == tag && c == coach | none => false).map fun o =>
    o.stage + (if o.readOut then 0 else s.fla.tRead) + 1

/-- A context that waits on a fill's TAG has its wait lapse by it. -/
def State.setLapse (s : State) (coach tag : Nat) : State :=
  let c := s.ctx coach (tagCtx tag)
  match s.fillLapse coach tag with
  | some n => if c.st = .waiting && c.tag = tag then s.setCtx coach (tagCtx tag) { c with lapse := n } else s
  | none => s

/-- FILL: the hub takes it for an open die read or a read-out seat of the partition, or answers it with an empty SEAT. DESIGN CHOICE: a fill
that names a stage and die at which an open read is reserved is for that read alone, and is answered empty where the read is filled already
(R171); only where no read is reserved there is it for a read-out seat (R184). -/
def deliverFill (st : Nat) (c : Bytes) (s : State) : State :=
  let p := wbPayload c
  let src := wbSrc c
  let w := fillWord p
  let stage := resStage s.stg.stage (field p 2 2)
  let dest := field p 8 4 % 2 ^ 21
  let nsIdx := field p 15 1
  let gen := field p 12 4 % 2 ^ 17
  let bad := dest % 64 != 0 || decide (sramBytes ≤ dest + 4095) || decide (stage ≤ s.stg.stage) || hubOf w.die + 268 != st ||
    !s.blockOf w nsIdx || Tab.get 0 s.fla.gen (pbOf w) != gen
  match s.coachPart src, s.coachSess src with
  | some part, some n =>
    match s.sess? n with
    | some x =>
      let used := fun (ro : Bool) (d : Nat) => (s.fla.openReads.filter fun o => o.part == part && o.readOut == ro && o.die == d && o.stage == stage).length
      let ch := w.die / 16 * 16
      let die := reservedOpen x w.die stage
      let ro := !die && decide (used true ch < readOutSeats s.fla.tRead x (chanOf w.die) stage)
      let d := if ro then ch else w.die
      if bad || !readQuota x (nsIdx + 1) || !(die || ro) || die && used false w.die != 0 then emptySeat st c s
      else { s with fla := { s.fla with openReads := s.fla.openReads ++ [({ part := part, die := d, stage := stage, readOut := ro, fill := some (w, dest, wbTag c, wbRole c, src) } : OpenRead)] } }.setLapse src (wbTag c)
    | none => emptySeat st c s
  | _, _ => emptySeat st c s

/-- Old and new places of the relocation lists of the generations that a session's queries use (R249, R250): place =
(die × 4,096 + block) × 2¹⁷ + erase generation. -/
def relocList (s : State) (x : Session) : List (Nat × Nat) :=
  x.queries.flatMap fun q =>
    match s.ns? (field q.block 8 4) with
    | some n => match n.gens.find? fun g => g.num == q.gen with | some g => g.reloc | none => []
    | none => []

/-- The earliest open die read on a die that can still be filled, within the next 128 stages. -/
def nextOpen (x : Session) (die now : Nat) : Option Nat := ((List.range 128).map (now + 1 + ·)).find? fun st => reservedOpen x die st

/-- An empty SEAT for a read whose place the relocation list names: a fill at the new place (R250). -/
def refill (coach : Nat) (c : Bytes) (s : State) : Option State :=
  let p := Tab.get [] s.coa.fills (coach * 2 ^ 32 + wbTag c)
  match s.coachSess coach with
  | none => none
  | some n => match s.sess? n with
    | none => none
    | some x =>
      let w := fillWord p
      let old := (w.die * 4096 + w.block) * 2 ^ 17 + field p 12 4 % 2 ^ 17
      match (relocList s x).find? fun r => r.1 == old with
      | none => none
      | some r =>
        let die := r.2 / 2 ^ 17 / 4096 % 1024
        let block := r.2 / 2 ^ 17 % 4096
        match nextOpen x die s.stg.stage with
        | none => none
        | some stage =>
          let page := w.cw * 2 ^ 23 + w.plane * 2 ^ 21 + block * 2 ^ 9 + w.page
          let p' := toLe 4 (stage % 65536 * 65536 + die) ++ toLe 4 page ++ slice p 8 4 ++ toLe 4 (field p 15 1 * 2 ^ 24 + r.2 % 2 ^ 17)
          let s := { s with coa := { s.coa with fills := Tab.set [] s.coa.fills (coach * 2 ^ 32 + wbTag c) [] } }
          some (s.sendOr coach (268 + hubOf die) (s.roleStamp coach) 6 0 (wbTag c) 0 0 false false p')

/-- A read of a context's walk has been answered empty: it counts as missed (R250). -/
def State.noteEmpty (s : State) (coach ctx : Nat) : State :=
  match s.coachSess coach with
  | some n => s.updSess n fun x => { x with queries := x.queries.map fun q => { q with walks := updateIf (fun w => w.coach == coach && w.ctx == ctx) (fun w => { w with empty := true }) q.walks } }
  | none => s

/-- SEAT: written at ADDRESS; LAST wakes the context. An empty one is refilled where the relocation list names its place, and otherwise wakes the
context, whose read counts as missed (R86, R171, R250). -/
def deliverSeat (st : Nat) (c : Bytes) (s : State) : State :=
  if st < 256 then
    match (if wbLength c = 0 then refill st c s else none) with
    | some s => s
    | none =>
      let s := s.sramWrite st (wbAddress c % sramBytes) (wbPayload c)
      let s := if wbLength c = 0 then s.noteEmpty st (tagCtx (wbTag c)) else s
      if wbLast c then
        let s := { s with coa := { s.coa with fills := Tab.set [] s.coa.fills (st * 2 ^ 32 + wbTag c) [] } }
        if wbLength c = 0 then wakeReply st (tagCtx (wbTag c)) s else wakeSeat st (tagCtx (wbTag c)) s
      else s
  else if packageRefuses st c (wbLength c) s then answerError st c 1 s
  else (dramWrite (wbSrc c) (wbAddress c) (wbPayload c) s).2

/-- ANSWER: items taken into their list of a merge tree; LAST ends the list (R298). -/
def deliverAnswer (c : Bytes) (s : State) : State :=
  let p := wbPayload c
  let h := field p 0 4
  let n := field p 8 2
  let items := (List.range n).map fun i => (field p 4 4 + i, (⟨field p (16 + 16 * i) 8, BitVec.ofNat 32 (field p (16 + 16 * i + 8) 4)⟩ : Item))
  let upd := fun l : AList => if l.handle == h && !l.ended then { l with items := l.items ++ items, flags := Nat.lor l.flags (field p 10 1), ended := wbLast c } else l
  { s with ans := { s.ans with trees := s.ans.trees.map fun e => (e.1, { e.2 with lists := e.2.lists.map upd }) } }

/-- SAVE: a piece of a coach's record, into the save area at a DRAM station, or into the coach's SRAM, register sets, scale sets and
contexts at a coach (R86, R231). DESIGN CHOICE: at a coach its ADDRESS is the offset in the record. -/
def deliverSave (st : Nat) (c : Bytes) (s : State) : State :=
  if st < 256 then { s with coa := s.coa.putPiece st (wbAddress c) (wbPayload c) }
  else if st < 268 then
    if packageRefuses st c (wbLength c) s then answerError st c 1 s else (dramWrite (wbSrc c) (wbAddress c) (wbPayload c) s).2
  else s

/-- ERROR wakes its context into HALTED (R86). -/
def deliverError (st : Nat) (c : Bytes) (s : State) : State := if st < 256 then haltContext st (tagCtx (wbTag c)) (field (wbPayload c) 0 4) (s.readDone st (wbTag c)) else s

def carriageWrite (st : Nat) (c : Bytes) (s : State) : State := arrive 1 st c (deliverWrite st c) s
def execCarriageWrite (st : Nat) (c : Bytes) (s : State) : Host.Outcome State Fault Refusal := .next (carriageWrite st c s)

def carriageRead (st : Nat) (c : Bytes) (s : State) : State := arrive 2 st c (deliverRead st c) s
def execCarriageRead (st : Nat) (c : Bytes) (s : State) : Host.Outcome State Fault Refusal := .next (carriageRead st c s)

def carriageReply (st : Nat) (c : Bytes) (s : State) : State := arrive 3 st c (deliverReply st c) s
def execCarriageReply (st : Nat) (c : Bytes) (s : State) : Host.Outcome State Fault Refusal := .next (carriageReply st c s)

def carriageWriteAck (st : Nat) (c : Bytes) (s : State) : State := arrive 4 st c (deliverWriteAck st c) s
def execCarriageWriteAck (st : Nat) (c : Bytes) (s : State) : Host.Outcome State Fault Refusal := .next (carriageWriteAck st c s)

def carriageSeat (st : Nat) (c : Bytes) (s : State) : State := arrive 5 st c (deliverSeat st c) s
def execCarriageSeat (st : Nat) (c : Bytes) (s : State) : Host.Outcome State Fault Refusal := .next (carriageSeat st c s)

def carriageFill (st : Nat) (c : Bytes) (s : State) : State := arrive 6 st c (deliverFill st c) s
def execCarriageFill (st : Nat) (c : Bytes) (s : State) : Host.Outcome State Fault Refusal := .next (carriageFill st c s)

def carriageAnswer (st : Nat) (c : Bytes) (s : State) : State := arrive 7 st c (deliverAnswer c) s
def execCarriageAnswer (st : Nat) (c : Bytes) (s : State) : Host.Outcome State Fault Refusal := .next (carriageAnswer st c s)

/-- CONTROL delivers firmware's control words, which the spec gives no effect of their own (R86). -/
def carriageControl (st : Nat) (c : Bytes) (s : State) : State := arrive 8 st c id s
def execCarriageControl (st : Nat) (c : Bytes) (s : State) : Host.Outcome State Fault Refusal := .next (carriageControl st c s)

def carriageSave (st : Nat) (c : Bytes) (s : State) : State := arrive 9 st c (deliverSave st c) s
def execCarriageSave (st : Nat) (c : Bytes) (s : State) : Host.Outcome State Fault Refusal := .next (carriageSave st c s)

def carriageError (st : Nat) (c : Bytes) (s : State) : State := arrive 10 st c (deliverError st c) s
def execCarriageError (st : Nat) (c : Bytes) (s : State) : Host.Outcome State Fault Refusal := .next (carriageError st c s)

/-! ### Counts and roles -/

/-- Firmware adds FAB_DROP's counts into log page 0xD1 and clears it (R90). -/
def fabDropFold (st : Nat) (s : State) : State :=
  if s.powered && s.boot.ph.firmware then
    let x := (Tab.get 0 s.fab.drop st).toNat
    let s := { s with fab := { s.fab with drop := Tab.set 0 s.fab.drop st 0 } }
    s.health fun h => { h with
      dropCrc := h.dropCrc + bits x 31 24
      dropRole := h.dropRole + bits x 23 16
      dropStale := h.dropStale + bits x 15 8
      dropKind := h.dropKind + bits x 7 0 }
  else s

def execFabDropFold (st : Nat) (s : State) : Host.Outcome State Fault Refusal := .next (fabDropFold st s)

/-- Firmware writes COA_ROLE of a whole team: the role stamp rises by 1 on all 16 coaches (R91, R92). -/
def roleWrite (team : Nat) (assigned : Bool) (part : Nat) (s : State) : State :=
  if s.powered && team < 16 then s.writeRole team assigned part else s

def execRoleWrite (team : Nat) (assigned : Bool) (part : Nat) (s : State) : Host.Outcome State Fault Refusal :=
  .next (roleWrite team assigned part s)

end Sys2Proof.Machine
end

