-- ==== Sys2Proof/Machine/RouteOps.lean ====
section
/-! DEFINITION. What each operation of the catalogue computes from the bytes of its operands (R110 to R120, R138, R139, R145 to
R157, R500). An operation answers none where a shape, a format or an attribute is one of R129's unchecked host errors. -/

namespace Sys2Proof.Machine

/-- What an operation reads: image and record, operand bytes by tensor index, the histories of SCALE_KIND 3, blocks that SKIP
leaves out, and the columns of its rows with the rows that a filter read takes. -/
structure OpEnv where
  img : Bytes
  op : OpRec
  data : Table Bytes
  hist : Table (List (BitVec 32))
  ePrev : Table Int
  dead : List (Nat × Nat)
  columns : Option (List Column)
  rows : List Bytes
deriving DecidableEq, Repr

/-- A result: values to convert to the tensor's format, or bytes delivered as they are; with a patch, only the byte ranges
listed are written. -/
inductive Res where
  | vals (l : List F32)
  | bytes (b : Bytes)
  | patch (b : Bytes) (ranges : List (Nat × Nat))
deriving DecidableEq, Repr

/-- What an operation delivers: results by tensor, in order of their positions, saturations, amax by tensor, the short flag, and
whether its conversions are stochastic whatever SR says. -/
structure OpOut where
  res : List (Nat × Res)
  sat : Nat := 0
  amax : List (Nat × F32) := []
  short : Bool := false
  forceSr : Bool := false
deriving DecidableEq, Repr

/-! ### Operands -/

def OpEnv.tensor (e : OpEnv) (i : Nat) : Tensor := imgTensor e.img i
def OpEnv.bytes (e : OpEnv) (i : Nat) : Bytes := Tab.get [] e.data i
def OpEnv.attr (e : OpEnv) (k : Nat) : Option Nat := opAttr e.img e.op k

/-- The codes of a tensor's elements in row-major order (R96, R131). -/
def codesOf (t : Tensor) (bs : Bytes) : List Nat := (List.range t.elems).map (elemAt t.fmt bs)

def OpEnv.codes (e : OpEnv) (i : Nat) : List Nat := codesOf (e.tensor i) (e.bytes i)

/-- A floating-point format (R93). -/
def isFloat (f : Fmt) : Bool := (fpFmt f).isSome

/-- Formats that quantisation delivers (R145). -/
def isNarrow (f : Fmt) : Bool := f == .e5m2 || f == .e4m3 || f == .e2m1 || f == .int8 || f == .int4

/-- Elements of a floating-point tensor, widened exactly. -/
def OpEnv.vals (e : OpEnv) (i : Nat) : List F32 := (e.codes i).map (widen (e.tensor i).fmt)

/-- Operand i of the operation as floating-point values with its shape; none where absent or of another kind. -/
def OpEnv.float? (e : OpEnv) (i : Nat) : Option (List Nat × List F32) :=
  match e.op.in? i with
  | some t => if isFloat (e.tensor t).fmt then some ((e.tensor t).shape, e.vals t) else none
  | none => none

/-- A UINT8 operand, whose format is BYTE (DEDUCED: R132 lists no UINT8): its shape and codes. -/
def OpEnv.mask? (e : OpEnv) (i : Nat) : Option (List Nat × List Nat) :=
  match e.op.in? i with
  | some t => if (e.tensor t).fmt = .byte then some ((e.tensor t).shape, e.codes t) else none
  | none => none

/-- The tensor and shape of result i. -/
def OpEnv.out? (e : OpEnv) (i : Nat) : Option (Nat × List Nat) := (e.op.out? i).map fun t => (t, (e.tensor t).shape)

/-- A format that an operation other than QUANT, CONVERT or a copy may deliver (R145, R500). -/
def arithOut (f : Fmt) : Bool := !isNarrow f && f != .byte

/-- One floating result of a shape into result 0. -/
def OpEnv.put0 (e : OpEnv) (shape : List Nat) (l : List F32) : Option OpOut :=
  match e.out? 0 with
  | some (t, sh) => if sh = shape ∧ arithOut (e.tensor t).fmt = true then some { res := [(t, .vals l)] } else none
  | none => none

/-! ### Shapes (R145) -/

def prod (l : List Nat) : Nat := l.foldl (· * ·) 1

/-- Shape of two broadcast operands of equal rank. -/
def bshape : List Nat → List Nat → Option (List Nat)
  | [], [] => some []
  | a :: as, b :: bs =>
    match bshape as bs with
    | some l => if a = b || b = 1 then some (a :: l) else if a = 1 then some (b :: l) else none
    | none => none
  | _, _ => none

/-- Element of an operand that a flat index of the result reads; shapes innermost dimension first. -/
def bindex : List Nat → List Nat → Nat → Nat
  | o :: os, d :: ds, i => (if d = 1 then 0 else i % o) + d * bindex os ds (i / o)
  | _, _, _ => 0

/-- An operand spread over a result's shape. -/
def spread {α : Type} (out sh : List Nat) (d : α) (l : List α) : List α :=
  (List.range (prod out)).map fun i => l.getD (bindex out.reverse sh.reverse i) d

/-- Lengths before, along and after an axis. -/
def axisGeo (sh : List Nat) (a : Nat) : Nat × Nat × Nat := (prod (sh.take a), sh.getD a 1, prod (sh.drop (a + 1)))

/-- AXIS, by default the last dimension; none where out of range. -/
def OpEnv.axis (e : OpEnv) (rank : Nat) : Option Nat :=
  let a := (e.attr 1).getD (rank - 1)
  if a < rank then some a else none

/-- Lane p of an axis, p counting the positions outside it. -/
def lane {α : Type} (d : α) (g : Nat × Nat × Nat) (l : List α) (p : Nat) : List α :=
  let (_, k, inner) := g
  (List.range k).map fun j => l.getD ((p / inner * k + j) * inner + p % inner) d

/-- Every lane mapped to m elements and laid out again. -/
def mapLanes {α : Type} (d : α) (g : Nat × Nat × Nat) (m : Nat) (f : Nat → List α) : List α :=
  let (outer, _, inner) := g
  let r := (List.range (outer * inner)).map f
  (List.range outer).flatMap fun o => (List.range m).flatMap fun j => (List.range inner).map fun i => (r.getD (o * inner + i) []).getD j d

/-! ### Elementwise operations (R147) -/

/-- Two floating operands combined element by element. -/
def OpEnv.zip2 (e : OpEnv) (f : F32 → F32 → F32) : Option OpOut :=
  match e.float? 0, e.float? 1 with
  | some (sa, a), some (sb, b) =>
    match bshape sa sb with
    | some sh => e.put0 sh ((spread sh sa 0 a).zipWith f (spread sh sb 0 b))
    | none => none
  | _, _ => none

/-- Three floating operands combined element by element. -/
def opFmaF (e : OpEnv) : Option OpOut :=
  match e.float? 0, e.float? 1, e.float? 2 with
  | some (sa, a), some (sb, b), some (sc, c) =>
    match (bshape sa sb).bind (bshape · sc) with
    | some sh => e.put0 sh (((spread sh sa 0 a).zip (spread sh sb 0 b)).zipWith (fun p z => ffma p.1 p.2 z) (spread sh sc 0 c))
    | none => none
  | _, _, _ => none

def opAddF (e : OpEnv) : Option OpOut := e.zip2 fadd
def opSubF (e : OpEnv) : Option OpOut := e.zip2 fsub
def opMulF (e : OpEnv) : Option OpOut := e.zip2 fmul
def opDivF (e : OpEnv) : Option OpOut := e.zip2 fdiv
def opMaxF (e : OpEnv) : Option OpOut := e.zip2 fmax
def opMinF (e : OpEnv) : Option OpOut := e.zip2 fmin

/-- A comparison by CMP_OP. -/
def cmpOf : Nat → Option (F32 → F32 → Bool)
  | 0 => some feq
  | 1 => some fne
  | 2 => some flt
  | 3 => some fle
  | _ => none

/-- CMP: a UINT8 result of 1 and 0, into a BYTE tensor. -/
def opCmpF (e : OpEnv) : Option OpOut :=
  match (e.attr 0x10).bind cmpOf, e.float? 0, e.float? 1, e.out? 0 with
  | some f, some (sa, a), some (sb, b), some (t, so) =>
    if bshape sa sb = some so ∧ (e.tensor t).fmt = .byte then
      some { res := [(t, .bytes ((spread so sa 0 a).zipWith (fun x y => if f x y then 1 else 0) (spread so sb 0 b)))] }
    else none
  | _, _, _, _ => none

/-- SELECT: a where the mask is not 0. -/
def opSelectF (e : OpEnv) : Option OpOut :=
  match e.mask? 0, e.float? 1, e.float? 2 with
  | some (sm, m), some (sa, a), some (sb, b) =>
    match (bshape sm sa).bind (bshape · sb) with
    | some sh => e.put0 sh ((spread sh sm 0 m).zipWith (fun k p => if k ≠ 0 then p.1 else p.2) ((spread sh sa 0 a).zip (spread sh sb 0 b)))
    | none => none
  | _, _, _ => none

def opUnaryF (e : OpEnv) : Option OpOut :=
  match (e.attr 3).bind funcOf, e.float? 0 with
  | some f, some (sh, a) => e.put0 sh (a.map f)
  | _, _ => none

/-- GATED: a × f(b), two roundings at least. -/
def opGatedF (e : OpEnv) : Option OpOut :=
  match e.attr 3 with
  | some 16 => e.zip2 fun a b => fmul a (fgelu b)
  | some 17 => e.zip2 fun a b => fmul a (fsilu b)
  | _ => none

/-! ### Reductions and normalisations (R148) -/

/-- FP32 value of a length. -/
def f32Nat (n : Nat) : F32 := f32 (.fin false n 0)

/-- Fold in ascending index order by R109. -/
def foldMax : List F32 → F32
  | [] => .negInf
  | x :: l => l.foldl fmax x

def foldMin : List F32 → F32
  | [] => .posInf
  | x :: l => l.foldl fmin x

def reduceOf : Nat → Option (List F32 → F32)
  | 0 => some orderedSum
  | 1 => some foldMax
  | 2 => some foldMin
  | 3 => some amaxOf
  | _ => none

def opReduceF (e : OpEnv) : Option OpOut :=
  match (e.attr 0x14).bind reduceOf, e.float? 0 with
  | some f, some (sh, x) =>
    match e.axis sh.length with
    | some a => let g := axisGeo sh a; e.put0 (sh.set a 1) (mapLanes 0 g 1 fun p => [f (lane 0 g x p)])
    | none => none
  | _, _ => none

/-- SOFTMAX of one lane with its mask (0 masked). -/
def softmaxLane (x : List F32) (m : List Nat) : List F32 :=
  let z := x.zipWith (fun v k => if k = 0 then F32.negInf else v) m
  if z.any isNan then z.map fun _ => .nan
  else
    let mx := foldMax z
    if mx = .negInf then z.map fun _ => 0
    else if mx = .posInf then z.map fun v => if v = .posInf then .one else 0
    else
      let ex := z.map fun v => fexp (fsub v mx)
      let s := orderedSum ex
      ex.map fun v => fdiv v s

def opSoftmaxF (e : OpEnv) : Option OpOut :=
  match e.float? 0 with
  | some (sh, x) =>
    match e.axis sh.length, (if (e.op.in? 1).isSome then e.mask? 1 else some (sh, x.map fun _ => 1)) with
    | some a, some (sm, m) =>
      let g := axisGeo sh a
      if bshape sh sm = some sh then
        let m := spread sh sm 0 m
        e.put0 sh (mapLanes 0 g g.2.1 fun p => softmaxLane (lane 0 g x p) (lane 0 g m p))
      else none
    | _, _ => none
  | none => none

/-- A scale or shift of a normalisation, spread over x. DESIGN CHOICE: R148 gives no shape for it; it is a vector with one value for each
position of the axis, or has x's rank and broadcasts, and every other shape is an unchecked host error (log 71). -/
def alongAxis (sh : List Nat) (a : Nat) (s : List Nat) (l : List F32) : Option (List F32) :=
  if s = [sh.getD a 1] then some ((List.range (prod sh)).map fun i => l.getD (i / prod (sh.drop (a + 1)) % sh.getD a 1) 0)
  else if bshape sh s = some sh then some (spread sh s 0 l)
  else none

/-- LAYERNORM of one lane. -/
def layernormLane (eps : F32) (x g b : List F32) : List F32 :=
  let k := f32Nat x.length
  let mu := fdiv (orderedSum x) k
  let d := x.map fun v => fsub v mu
  let v := fdiv (orderedSum (d.map fun t => fmul t t)) k
  let r := frsqrt (fadd v eps)
  (d.zip g).zipWith (fun p c => ffma (fmul p.1 r) p.2 c) b

def opLayernormF (e : OpEnv) : Option OpOut :=
  match e.attr 4, e.float? 0, e.float? 1, e.float? 2 with
  | some eps, some (sh, x), some (sg, g), some (sb, b) =>
    match e.axis sh.length with
    | some a =>
      match alongAxis sh a sg g, alongAxis sh a sb b with
      | some g, some b =>
        let q := axisGeo sh a
        e.put0 sh (mapLanes 0 q q.2.1 fun p => layernormLane (BitVec.ofNat 32 eps) (lane 0 q x p) (lane 0 q g p) (lane 0 q b p))
      | _, _ => none
    | none => none
  | _, _, _, _ => none

/-- RMSNORM of one lane. -/
def rmsnormLane (eps : F32) (x g : List F32) : List F32 :=
  let q := fdiv (orderedSum (x.map fun t => fmul t t)) (f32Nat x.length)
  let r := frsqrt (fadd q eps)
  x.zipWith (fun v c => fmul (fmul v r) c) g

def opRmsnormF (e : OpEnv) : Option OpOut :=
  match e.attr 4, e.float? 0, e.float? 1 with
  | some eps, some (sh, x), some (sg, g) =>
    match e.axis sh.length with
    | some a =>
      match alongAxis sh a sg g with
      | some g =>
        let q := axisGeo sh a
        e.put0 sh (mapLanes 0 q q.2.1 fun p => rmsnormLane (BitVec.ofNat 32 eps) (lane 0 q x p) (lane 0 q g p))
      | none => none
    | none => none
  | _, _, _ => none

/-! ### Scales (R97, R104, R114) -/

/-- The exponent of this step's scale of a SCALE_KIND 3 tensor, from its history as it stood at the step's start (R114). -/
def stepExponent (img : Bytes) (hist : Table (List (BitVec 32))) (ePrev : Table Int) (t : Nat) : Int :=
  let d := imgTensor img t
  scaleExponent (Tab.get [] hist t) d.margin d.fmt (Tab.get d.e0 ePrev t)

/-- That scale as it is stored: the E8M0 code e + 127 (R114). -/
def OpEnv.stepCode (e : OpEnv) (t : Nat) : Nat := scaleCode (stepExponent e.img e.hist e.ePrev t)

def OpEnv.stepScale (e : OpEnv) (t : Nat) : F32 := widen .e8m0 (e.stepCode t)

/-- The scale of chunk q of row n of a tensor whose last dimension is scaled in blocks of 64: 1 without a scale; none where its
scale tensor has another shape or format. -/
def OpEnv.scaleOf (e : OpEnv) (t : Nat) : Option (Nat → Nat → F32) :=
  let d := e.tensor t
  match d.scaleKind with
  | 0 => some fun _ _ => .one
  | 3 => some fun _ _ => e.stepScale t
  | k =>
    let c := ceilDiv (d.shape.getLastD 1) 64
    let st := e.tensor d.scaleTensor
    if d.scaleTensor ≠ noTensor ∧ st.fmt = (if k = 1 then Fmt.bf16 else Fmt.e8m0) ∧ st.shape = d.shape.dropLast ++ [c] then
      some fun n q => widen st.fmt (elemAt st.fmt (e.bytes d.scaleTensor) (n * c + q))
    else none

/-! ### Matrix products (R146, R106, R139, R209) -/

/-- The 4 KiB blocks of a tensor that a span of its bits touches. -/
def blocksOf (firstBit bits : Nat) : List Nat :=
  if bits = 0 then [] else (List.range ((firstBit + bits - 1) / 32768 + 1 - firstBit / 32768)).map (firstBit / 32768 + ·)

/-- Tile (row of W's column tile ct, chunk q) lies partly in a block that SKIP left out, by its codes or its scales. -/
def OpEnv.tileDead (e : OpEnv) (w row0 n k ct q : Nat) : Bool :=
  let d := e.tensor w
  let eb := fmtBits d.fmt
  let sb := fmtBits (e.tensor d.scaleTensor).fmt
  let scaled := d.scaleKind == 1 || d.scaleKind == 2
  let c := ceilDiv k 64
  !e.dead.isEmpty && (List.range (min 64 (n - 64 * ct))).any fun j =>
    let row := row0 + 64 * ct + j
    ((blocksOf ((row * k + 64 * q) * eb) (min 64 (k - 64 * q) * eb)).any fun b => e.dead.contains (w, b)) ||
      (scaled && (blocksOf ((row * c + q) * sb) sb).any fun b => e.dead.contains (d.scaleTensor, b))

/-- One element of a product: chunk sums of exact products, each scaled, added to the accumulator in ascending order. -/
def dotScaled (x w : List F32) (scale : Nat → F32) (dead : Nat → Bool) (start : Option F32) : F32 :=
  let contrib := ((chunks64 (ceilDiv x.length 64) (x.zipWith fmul w)).zipIdx).map fun p =>
    if dead p.2 then 0 else fmul (chunkSum p.1) (scale p.2)
  match contrib, start with
  | [], some a => a
  | [], none => 0
  | c, some a => c.foldl fadd a
  | c :: cs, none => cs.foldl fadd c

/-- ACC_IN's accumulator A, an FP32 tensor; none where the operand is another (R145, R146). -/
def OpEnv.acc? (e : OpEnv) : Option (List Nat × List F32) :=
  match e.op.in? 2 with
  | some i => if (e.tensor i).fmt = .fp32 then e.float? 2 else none
  | none => none

/-- X [B, M, K] times W [B, N, K], with B = 1 and no batch dimension for MATMUL. -/
def matProduct (batched : Bool) (e : OpEnv) : Option OpOut :=
  match e.op.in? 0, e.op.in? 1 with
  | some xi, some wi =>
    let tx := e.tensor xi
    let tw := e.tensor wi
    let sx := if batched then tx.shape else 1 :: tx.shape
    let sw := if batched then tw.shape else 1 :: tw.shape
    match sx, sw, e.scaleOf wi, (if e.op.accIn then e.acc? else some ([], [])) with
    | [b, m, k], [b', n, k'], some sc, some (sa, a) =>
      let so := if batched then [b, m, n] else [m, n]
      if b = b' ∧ k = k' ∧ isAct tx.fmt = true ∧ isWeight tw.fmt = true ∧ (e.op.accIn = false ∨ sa = so) then
        let x := e.vals xi
        let w := e.vals wi
        e.put0 so ((List.range (b * m * n)).map fun i =>
          let bi := i / (m * n)
          let mi := i / n % m
          let ni := i % n
          let row := bi * n + ni
          dotScaled ((x.drop ((bi * m + mi) * k)).take k) ((w.drop (row * k)).take k) (sc row) (fun q => e.tileDead wi (bi * n) n k (ni / 64) q)
            (if e.op.accIn then some (a.getD i 0) else none))
      else none
    | _, _, _, _ => none
  | _, _ => none

def opMatmulF (e : OpEnv) : Option OpOut := matProduct false e
def opBmatmulF (e : OpEnv) : Option OpOut := matProduct true e

/-! ### ATTENTION and ROPE (R149, R150) -/

/-- One query row: its scores over T positions, softmax, conversion to Q's format, the weighted sum of the values. -/
def attendRow (fmt : Fmt) (scale : F32) (d t : Nat) (q keys values : List F32) (live : Nat → Bool) : List F32 :=
  let sig := (List.range t).map fun i => fmul (orderedSum (q.zipWith fmul ((keys.drop (i * d)).take d))) scale
  let p := (softmaxLane sig ((List.range t).map fun i => if live i then 1 else 0)).map fun v => widen fmt (encodeVal fmt v.val)
  (List.range d).map fun j => orderedSum ((List.range t).map fun i => fmul (p.getD i 0) (values.getD (i * d + j) 0))

def opAttentionF (e : OpEnv) : Option OpOut :=
  match e.op.in? 0, e.op.in? 1, e.op.in? 2, e.op.in? 3, e.attr 0xB, e.attr 0xC, e.attr 0xD, e.attr 0xA with
  | some qi, some ki, some vi, some li, some heads, some kvHeads, some scale, some causal =>
    let tq := e.tensor qi
    let tl := e.tensor li
    match tq.shape, (e.tensor ki).shape with
    | [s, h, n, d], [s', hkv, t, d'] =>
      if s = s' ∧ d = d' ∧ (e.tensor vi).shape = (e.tensor ki).shape ∧ tl.shape = [s] ∧ tl.fmt = .int32 ∧ heads = h ∧ kvHeads = hkv ∧
          h % hkv = 0 ∧ causal ≤ 1 ∧ isAct tq.fmt = true ∧ (e.tensor ki).fmt = tq.fmt ∧ (e.tensor vi).fmt = tq.fmt then
        let q := e.vals qi
        let ks := e.vals ki
        let vs := e.vals vi
        let lens := (e.codes li).map (signed 32)
        e.put0 tq.shape ((List.range (s * h * n)).flatMap fun r =>
          let si := r / (h * n)
          let hi := r / n % h
          let i := r % n
          let len := lens.getD si 0
          let pos : Int := len - n + i
          let base := (si * hkv + hi * hkv / h) * t * d
          if len = 0 then List.replicate d 0
          else attendRow tq.fmt (BitVec.ofNat 32 scale) d t ((q.drop (r * d)).take d) ((ks.drop base).take (t * d)) ((vs.drop base).take (t * d))
            fun p => decide ((p : Int) < len) && (causal == 0 || decide ((p : Int) ≤ pos)))
      else none
    | _, _ => none
  | _, _, _, _, _, _, _, _ => none

/-- One vector of ROPE at a position. -/
def ropeRow (base : F32) (d : Nat) (pos : F32) (x : List F32) : List F32 :=
  let lam := flog2 base
  (List.range (d / 2)).flatMap fun i =>
    let a := fdiv (fmul (f32Nat (2 * i)) lam) (f32Nat d)
    let th := fmul pos (fexp2 (fneg a))
    let c := fcos th
    let s := fsin th
    let x0 := x.getD (2 * i) 0
    let x1 := x.getD (2 * i + 1) 0
    [ffma x0 c (fneg (fmul x1 s)), ffma x0 s (fmul x1 c)]

def opRopeF (e : OpEnv) : Option OpOut :=
  match e.attr 0x11, e.float? 0, e.op.in? 1 with
  | some base, some (sh, x), some pi =>
    let tp := e.tensor pi
    let d := sh.getLastD 1
    if tp.fmt = .int32 ∧ tp.shape = sh.dropLast ∧ d % 2 = 0 then
      e.put0 sh (((e.codes pi).map (widen .int32)).zipIdx.flatMap fun p => ropeRow (BitVec.ofNat 32 base) d p.1 ((x.drop (p.2 * d)).take d))
    else none
  | _, _, _ => none

/-! ### Rotation and format changes (R110, R111, R151) -/

/-- One stage of the butterfly: pairs at distance h. -/
def butterfly (v : List F32) (h : Nat) : List F32 :=
  (List.range v.length).map fun i =>
    if i / h % 2 = 0 then fadd (v.getD i 0) (v.getD (i + h) 0) else fsub (v.getD (i - h) 0) (v.getD i 0)

/-- H_n x by the butterfly sequence, n = 64, 128 or 256. -/
def hadamard (v : List F32) : List F32 := ([1, 2, 4, 8, 16, 32, 64, 128].filter fun h => decide (h < v.length)).foldl butterfly v

/-- Signs of D from the mask's bytes. -/
def flipSigns (mask : Bytes) (v : List F32) : List F32 :=
  v.zipIdx.map fun p => if bit (field mask (p.2 / 8) 1) (p.2 % 8) then fneg p.1 else p.1

/-- f_n and g_n of R110. -/
def rotFactor (n : Nat) (inverse : Bool) : F32 :=
  let e : Int := if n = 64 then -3 else if n = 128 then (if inverse then -4 else -3) else -4
  scaleF32 e

def rotateBlock (inverse : Bool) (mask : Bytes) (v : List F32) : List F32 :=
  let f := rotFactor v.length inverse
  if inverse then (hadamard (flipSigns mask v)).map fun x => fmul x f
  else flipSigns mask ((hadamard v).map fun x => fmul x f)

def opRotateF (e : OpEnv) : Option OpOut :=
  match e.attr 7, e.attr 9, e.float? 0 with
  | some n, some dir, some (sh, x) =>
    let k := sh.getLastD 1
    let maskOk := match e.attr 8 with
      | none => true
      | some t => (e.tensor t).fmt == .byte && (e.tensor t).elems == n / 8
    if (n = 64 ∨ n = 128 ∨ n = 256) ∧ dir ≤ 1 ∧ k % n = 0 ∧ maskOk = true then
      let mask := match e.attr 8 with | some t => e.bytes t | none => []
      e.put0 sh ((List.range (x.length / n)).flatMap fun b => rotateBlock (dir == 1) mask ((x.drop (b * n)).take n))
    else none
  | _, _, _ => none

/-- Codes and saturations of a list of values, each divided by its scale. -/
def quantAll (f : Fmt) (l : List (F32 × F32)) : List Nat × Nat :=
  let r := l.map fun p => quantCode f p.1 p.2
  (r.map fun c => c.1, (r.filter fun c => c.2).length)

/-- The block scales of a copy quantised under a delayed scale: the step's E8M0 code for every block, in OUT[1] or else in the tensor's own
SCALE_TENSOR; nothing where neither is named, none where it is no E8M0 tensor (R116; DEDUCED: R145 and R155 place them nowhere). -/
def OpEnv.scaleCopy (e : OpEnv) (qi : Nat) : Option (List (Nat × Res)) :=
  let own := (e.tensor qi).scaleTensor
  match (match e.out? 1 with | some o => some o.1 | none => if own = noTensor then none else some own) with
  | none => some []
  | some t => if (e.tensor t).fmt = .e8m0 then some [(t, .bytes (List.replicate (e.tensor t).elems (BitVec.ofNat 8 (e.stepCode qi))))] else none

/-- QUANT in its three modes: the delayed scale, block scales along AXIS, given scales. -/
def opQuantF (e : OpEnv) : Option OpOut :=
  match e.attr 0x12, e.float? 0, e.out? 0 with
  | some mode, some (sh, x), some (qi, sq) =>
    let tq := e.tensor qi
    if sq ≠ sh ∨ isNarrow tq.fmt = false ∨ 8 < (e.attr 0x13).getD 0 ∨ ((e.attr 1).isSome ∧ (e.axis sh.length).isNone) then none
    else if mode = 0 then
      if tq.scaleKind ≠ 3 then none
      else
        let s := e.stepScale qi
        let (c, n) := quantAll tq.fmt (x.map fun v => (v, s))
        match e.scaleCopy qi with
        | none => none
        | some sc => some { res := (qi, .bytes (packElems tq.fmt c)) :: sc, sat := n, amax := [(qi, amaxOf x)] }
    else if mode = 1 then
      match e.axis sh.length, e.out? 1 with
      | some a, some (si, ss) =>
        let g := axisGeo sh a
        let blocks := ceilDiv g.2.1 64
        let margin := (e.attr 0x13).getD 0
        if ss ≠ sh.set a blocks ∨ (e.tensor si).fmt ≠ .e8m0 then none
        else
          let exps : List Nat := mapLanes 0 g blocks fun p =>
            let l := lane 0 g x p
            (List.range blocks).map fun b => scaleCode (scaleExponent [amaxOf ((l.drop (64 * b)).take 64)] margin tq.fmt 0)
          let sc := fun (i : Nat) =>
            let inner := g.2.2
            let o := i / (g.2.1 * inner)
            let j := i / inner % g.2.1
            widen .e8m0 (exps.getD ((o * blocks + j / 64) * inner + i % inner) 127)
          let (c, n) := quantAll tq.fmt (x.zipIdx.map fun p => (p.1, sc p.2))
          some { res := [(qi, .bytes (packElems tq.fmt c)), (si, .bytes (packElems .e8m0 exps))], sat := n }
      | _, _ => none
    else if mode = 2 then
      if tq.scaleKind = 1 ∨ tq.scaleKind = 2 then
        match e.scaleOf qi with
        | some sc =>
          let k := sh.getLastD 1
          let (c, n) := quantAll tq.fmt (x.zipIdx.map fun p => (p.1, sc (p.2 / k) (p.2 % k / 64)))
          some { res := [(qi, .bytes (packElems tq.fmt c))], sat := n }
        | none => none
      else none
    else none
  | _, _, _ => none

/-- DEQUANT: exact products of codes and scales, rounded once to the destination. DESIGN CHOICE: with SR the product is first rounded to
FP32, the source that R118 names, and that value converts stochastically; a q of BF16, FP16 or FP32 is an operand whose format is not
listed (log 71). -/
def opDequantF (e : OpEnv) : Option OpOut :=
  match e.op.in? 0, e.out? 0 with
  | some qi, some (yi, sy) =>
    let tq := e.tensor qi
    let ty := e.tensor yi
    match e.scaleOf qi with
    | some sc =>
      if tq.shape = sy ∧ isNarrow tq.fmt = true ∧ arithOut ty.fmt = true then
        let k := sy.getLastD 1
        some { res := [(yi, if e.op.sr && srDefined ty.fmt then .vals ((e.codes qi).zipIdx.map fun p => BitVec.ofNat 32 (dequantTo .fp32 tq.fmt p.1 (sc (p.2 / k) (p.2 % k / 64))))
          else .bytes (packElems ty.fmt ((e.codes qi).zipIdx.map fun p => dequantTo ty.fmt tq.fmt p.1 (sc (p.2 / k) (p.2 % k / 64)))))] }
      else none
    | none => none
  | _, _ => none

/-- CONVERT: one conversion from the source's exact value. DESIGN CHOICE (log 71): with SR an INT32, UINT32 or UINT64 source is first rounded to
FP32, ties away from zero, and that value converts stochastically. -/
def opConvertF (e : OpEnv) : Option OpOut :=
  match e.op.in? 0, e.out? 0 with
  | some xi, some (yi, sy) =>
    let tx := e.tensor xi
    let ty := e.tensor yi
    if tx.shape ≠ sy ∨ tx.fmt = .byte ∨ ty.fmt = .byte then none
    else if e.op.sr && srDefined ty.fmt then some { res := [(yi, .vals (e.vals xi))] }
    else some { res := [(yi, .bytes (packElems ty.fmt ((e.codes xi).map fun c => encodeVal ty.fmt (decode tx.fmt c))))] }
  | _, _ => none

/-! ### Distances and selection (R152, R153) -/

/-- A score by METRIC. -/
def distOf : Nat → Option (List F32 → List F32 → F32)
  | 0 => some fun q v => orderedSum (q.zipWith fmul v)
  | 1 => some fun q v =>
    let ip := orderedSum (q.zipWith fmul v)
    let a := frsqrt (orderedSum (q.map fun x => fmul x x))
    let b := frsqrt (orderedSum (v.map fun x => fmul x x))
    fmul (fmul ip a) b
  | 2 => some fun q v => fneg (orderedSum ((q.zipWith fsub v).map fun d => fmul d d))
  | _ => none

def opDistF (e : OpEnv) : Option OpOut :=
  match (e.attr 6).bind distOf, e.op.in? 0, e.op.in? 1 with
  | some f, some qi, some vi =>
    let tq := e.tensor qi
    let tv := e.tensor vi
    match tq.shape, tv.shape, e.scaleOf vi with
    | [b, d], [n, d'], some sc =>
      let qOk := tq.fmt == .fp32 || isAct tq.fmt
      let vOk := isAct tv.fmt || tv.fmt == .e4m3 || tv.fmt == .e5m2 || tv.fmt == .int8
      if d = d' ∧ qOk = true ∧ vOk = true then
        let q := e.vals qi
        let v := if tv.scaleKind = 0 then e.vals vi
          else (e.codes vi).zipIdx.map fun p => BitVec.ofNat 32 (dequantTo .fp32 tv.fmt p.1 (sc (p.2 / d) (p.2 % d / 64)))
        e.put0 [b, n] ((List.range (b * n)).map fun i => f ((q.drop (i / n * d)).take d) ((v.drop (i % n * d)).take d))
      else none
    | _, _, _ => none
  | _, _, _ => none

def opCodeDistF (e : OpEnv) : Option OpOut :=
  match e.mask? 0, e.op.in? 1 with
  | some ([n, m], codes), some ti =>
    let t := e.tensor ti
    match t.shape with
    | [b, m', 256] =>
      if m = m' ∧ t.fmt = .fp32 then
        let tab := e.vals ti
        e.put0 [b, n] ((List.range (b * n)).map fun i =>
          orderedSum ((List.range m).map fun j => tab.getD ((i / n * m + j) * 256 + codes.getD (i % n * m + j) 0) 0))
      else none
    | _ => none
  | _, _ => none

/-- Rank of an item before another: higher score first, NaN last, the lower identifier among equals (R153). -/
def itemBefore (a b : Nat × F32) : Bool :=
  if isNan a.2 then isNan b.2 && decide (a.1 < b.1)
  else if isNan b.2 then true
  else flt b.2 a.2 || (feq a.2 b.2 && decide (a.1 < b.1))

/-- Insertion behind the items that rank before or with it. -/
def insertItem (x : Nat × F32) : List (Nat × F32) → List (Nat × F32)
  | [] => [x]
  | y :: l => if itemBefore x y then x :: y :: l else y :: insertItem x l

/-- Items in rank order; equal ranks keep their order. -/
def rankItems (l : List (Nat × F32)) : List (Nat × F32) := l.foldl (fun acc x => insertItem x acc) []

/-- TOPK. DESIGN CHOICE: R153 gives no shape for the mask; it is [B, N], and every other shape is an unchecked host error (log 71). -/
def opTopkF (e : OpEnv) : Option OpOut :=
  match e.attr 5, e.op.in? 0, e.out? 0, e.out? 1 with
  | some k, some gi, some (go, sg), some (io, si) =>
    let tg := e.tensor gi
    match tg.shape with
    | [b, n] =>
      let idOk := match e.op.in? 1 with | some t => (e.tensor t).shape == [b, n] && (e.tensor t).fmt == .uint64 | none => true
      let maskOk := match e.op.in? 2 with | some t => (e.tensor t).shape == [b, n] && (e.tensor t).fmt == .byte | none => true
      let cntOk := match e.op.in? 3 with | some t => (e.tensor t).shape == [b] && (e.tensor t).fmt == .uint32 | none => true
      if 1 ≤ k ∧ k ≤ 65536 ∧ sg = [b, k] ∧ si = [b, k] ∧ (e.tensor io).fmt = .uint64 ∧ tg.fmt = .fp32 ∧ arithOut (e.tensor go).fmt = true ∧
          idOk = true ∧ maskOk = true ∧ cntOk = true then
        let g := e.vals gi
        let ids := match e.op.in? 1 with | some t => e.codes t | none => (List.range (b * n)).map (· % n)
        let mask := match e.op.in? 2 with | some t => e.codes t | none => List.replicate (b * n) 1
        let rows := (List.range b).map fun r =>
          ((rankItems (((List.range n).filter fun c => mask.getD (r * n + c) 0 != 0).map fun c => (ids.getD (r * n + c) 0, g.getD (r * n + c) 0))).take k)
        let pad := fun (l : List (Nat × F32)) => l ++ List.replicate (k - l.length) (0, 0)
        let cnt := match e.op.in? 3 with
          | some t => [(t, Res.bytes (rows.flatMap fun l => toLe 4 l.length))]
          | none => []
        some {
          res := [(go, .vals (rows.flatMap fun l => (pad l).map fun x => x.2)), (io, .bytes (rows.flatMap fun l => (pad l).flatMap fun x => toLe 8 x.1))] ++ cnt
          short := rows.any fun l => decide (l.length < k) }
      else none
    | _ => none
  | _, _, _, _ => none

/-! ### GATHER and PUT (R154) -/

/-- An index operand, INT32 or UINT32 of rank 1; a negative index lies outside every tensor. -/
def OpEnv.index? (e : OpEnv) (i : Nat) : Option (List Nat) :=
  match e.op.in? i with
  | some t =>
    let d := e.tensor t
    if d.rank = 1 ∧ (d.fmt = .int32 ∨ d.fmt = .uint32) then
      some ((e.codes t).map fun c => if d.fmt = .int32 ∧ 2 ^ 31 ≤ c then 2 ^ 40 else c)
    else none
  | none => none

/-- Byte ranges of the slices of a tensor along an axis that an index names. -/
def sliceRanges (t : Tensor) (g : Nat × Nat × Nat) (idx : List Nat) : List (Nat × Nat) :=
  let (outer, k, inner) := g
  let w := fmtBits t.fmt
  (List.range outer).flatMap fun o => idx.map fun j =>
    let lo := (o * k + j) * inner * w
    (lo / 8, ceilDiv (lo + inner * w) 8 - lo / 8)

def opGatherF (e : OpEnv) : Option OpOut :=
  match e.op.in? 0, e.index? 1, e.out? 0 with
  | some si, some idx, some (yi, sy) =>
    let ts := e.tensor si
    match e.axis ts.rank with
    | some a =>
      let g := axisGeo ts.shape a
      if sy = ts.shape.set a idx.length ∧ (e.tensor yi).fmt = ts.fmt ∧ (idx.all fun j => decide (j < g.2.1)) = true then
        let c := e.codes si
        some { res := [(yi, .bytes (packElems ts.fmt (mapLanes 0 g idx.length fun p => let l := lane 0 g c p; idx.map fun j => l.getD j 0)))] }
      else none
    | none => none
  | _, _, _ => none

/-- Slices of src written over dst in ascending order of j. -/
def opPutF (e : OpEnv) : Option OpOut :=
  match e.op.in? 0, e.op.in? 1, e.index? 2 with
  | some di, some si, some idx =>
    let td := e.tensor di
    let ts := e.tensor si
    match e.axis td.rank with
    | some a =>
      let g := axisGeo td.shape a
      let gs := axisGeo ts.shape a
      if ts.shape = td.shape.set a idx.length ∧ ts.fmt = td.fmt ∧ (idx.all fun j => decide (j < g.2.1)) = true ∧
          (e.op.out? 0 = none ∨ e.op.out? 0 = some di) then
        let d := e.codes di
        let c := e.codes si
        let new := mapLanes 0 g g.2.1 fun p =>
          let l := lane 0 gs c p
          idx.zipIdx.foldl (fun acc q => acc.set q.1 (l.getD q.2 0)) (lane 0 g d p)
        some { res := [(di, .patch (packElems td.fmt new) (sliceRanges td g idx))] }
      else none
    | none => none
  | _, _, _ => none

/-! ### Filters and namespace copies (R155, R286, R295) -/

/-- The predicate that an operation names; none where it names none or one that its rows' layout does not bear out. -/
def OpEnv.predicate? (e : OpEnv) : Option (List Column × Bytes) :=
  match e.attr 0xE, e.columns with
  | some p, some cols => let b := imgPredicate e.img p; if predValid cols b then some (cols, b) else none
  | _, _ => none

def opFilterF (e : OpEnv) : Option OpOut :=
  match e.predicate?, e.op.in? 0, e.mask? 0, e.out? 0 with
  | some (cols, p), some xi, some ([n, w], _), some (mi, sm) =>
    if sm = [n] ∧ (e.tensor mi).fmt = .byte then
      let bs := e.bytes xi
      some { res := [(mi, .bytes ((List.range n).map fun r => if predMatches cols p (slice bs (r * w) w) then 1 else 0))] }
    else none
  | _, _, _, _ => none

/-- SCAN_READ: the pass's records that match, packed; the count of all matches; rows beyond it stay as they are. -/
def opScanReadF (e : OpEnv) : Option OpOut :=
  match e.predicate?, e.out? 0, e.out? 1 with
  | some (cols, p), some (ri, [n, w]), some (ci, [1]) =>
    if (e.tensor ri).fmt = .byte ∧ (e.tensor ci).fmt = .uint32 ∧ (e.rows.all fun r => r.length == w) = true then
      let hit := e.rows.filter (predMatches cols p)
      let kept := (hit.take n).flatten
      some { res := [(ri, .patch (overlay (e.bytes ri) 0 kept) [(0, kept.length)]), (ci, .bytes (toLe 4 hit.length))] }
    else none
  | _, _, _ => none

def opNsReadF (e : OpEnv) : Option OpOut :=
  match e.op.in? 0, e.out? 0 with
  | some si, some (yi, _) => if (e.tensor yi).bytes = (e.tensor si).bytes then some { res := [(yi, .bytes (e.bytes si))] } else none
  | _, _ => none

/-! ### Long accumulation (R121, R157) -/

/-- ACCUM: ADD into A, SPILL of A by R118 whatever SR says, RELOAD into A. -/
def opAccumF (e : OpEnv) : Option OpOut :=
  match e.attr 0xF, e.op.in? 0 with
  | some mode, some ai =>
    let ta := e.tensor ai
    if ta.fmt ≠ .fp32 then none
    else if mode = 1 then
      match e.op.in? 2 with
      | some ti => if (e.tensor ti).shape = ta.shape ∧ isAct (e.tensor ti).fmt = true then some { res := [(ti, .vals (e.vals ai))], forceSr := true } else none
      | none => none
    else match e.float? 1 with
      | some (sx, x) =>
        if bshape ta.shape sx ≠ some ta.shape then none
        else if mode = 0 then some { res := [(ai, .vals ((e.vals ai).zipWith fadd (spread ta.shape sx 0 x)))] }
        else if mode = 2 ∧ sx = ta.shape then some { res := [(ai, .vals x)] }
        else none
      | none => none
  | _, _ => none

/-! ### Conversion of results (R118 to R120, R145, R500) -/

/-- Bytes of values in a tensor's format; with SR, under the tensor number, the step word and the ordinal. -/
def convertVals (t : Tensor) (sr : Bool) (seed tensor stepWord : Nat) (l : List F32) : Bytes :=
  packElems t.fmt (if sr then l.zipIdx.map fun p => srConvert t.fmt p.1 (srBits seed tensor stepWord p.2) else l.map fun x => encodeVal t.fmt x.val)

end Sys2Proof.Machine
end

