-- ==== Sys2Proof/Machine/Media.lean ====
section
/-! DEFINITION. The media: code words and pages, plane blocks and superblocks, map entries and leaves, the placing and
programming of page sets, and the reads of the map path (R301 to R320, R329 to R339, R344, R348 to R351, R356, R359). -/

namespace Sys2Proof.Machine

/-! ### Code words (R309, R310, R497) -/

def pageBytes : Nat := 4096

/-- META of a code word (R310). -/
def metaBytes (w : CWord) (page : Nat) : Bytes :=
  let logical := (if w.kind = 1 then w.ns else 255) * 2 ^ 56 + w.unit % 2 ^ 48
  let m := toLe 8 w.stamp ++ toLe 8 logical ++ toLe 4 (w.gen % 2 ^ 17) ++ toLe 1 w.kind ++ toLe 1 w.slot ++ toLe 2 w.stream ++ toLe 4 page ++ zeros 32
  withCrc m

/-- Tweak of a DATA field (R497); a KIND 5 word's namespace index and generation stand in `ns` and `seq`. -/
def tweakOf (w : CWord) : Nat := w.unit * 4 + w.slot + (if w.kind = 5 then w.seq % 65536 * 2 ^ 112 else 0)

/-- DATA as it lies on the media: encrypted for KIND 1 and KIND 5. -/
def storedData (w : CWord) : Bytes :=
  fit 4096 (if w.kind = 1 || w.kind = 5 then Config.cipher w.key (tweakOf w) w.data else w.data)

/-- The 4,608 bytes of a code word on the media; an unprogrammed one reads all ones. -/
def rawWord (t : Table CWord) (a : CwAddr) : Bytes :=
  let w := Tab.get {} t (cwKey a)
  if w == {} then List.replicate 4608 0xFF
  else match w.raw with
    | some r => fit 4608 r
    | none =>
      let d := storedData w ++ metaBytes w a.page
      d ++ fit 448 (Config.ldpcParity d)

/-- Data of a code word under a key: another key's data comes out garbled. -/
def openData (key : Nat) (w : CWord) : Bytes := if w.key = key then w.data else Config.garble key w.data

/-! ### Plane blocks and superblocks (R302, R320, R348) -/

def State.word (s : State) (a : CwAddr) : CWord := Tab.get {} s.fla.words (cwKey a)
def State.nextOf (s : State) (pb : Nat) : Nat := Tab.get 0 s.fla.next pb
def State.genOf (s : State) (pb : Nat) : Nat := Tab.get 0 s.fla.gen pb
def State.sb (s : State) (i : Nat) : Sb := Tab.get {} s.xlt.sbs i

def State.setSb (s : State) (i : Nat) (x : Sb) : State := { s with xlt := { s.xlt with sbs := Tab.set {} s.xlt.sbs i x } }

/-- Die, plane and block of a plane block. -/
def pbDie (pb : Nat) : Nat := pb / 16384
def pbPlane (pb : Nat) : Nat := pb / 4096 % 4
def pbBlock (pb : Nat) : Nat := pb % 4096
def pbSb (pb : Nat) : Nat := sbOf (pbDie pb) (pbBlock pb)

def State.dieIn (s : State) (die : Nat) : Bool := s.fla.dies.contains die && s.fla.channels.contains (chanOf die)

/-- Planes of a block in service: the die serves and the plane block is not retired. -/
def State.planesIn (s : State) (die block : Nat) : List Nat :=
  if s.dieIn die then (List.range 4).filter fun q => !s.fla.retired.contains (pbKey die q block) else []

/-- Plane blocks of a superblock in service. -/
def State.sbBlocks (s : State) (i : Nat) : Nat :=
  4 * ((s.fla.dies.filter fun d => d % 16 == i % 16 && s.fla.channels.contains (chanOf d)).length) -
    (s.fla.retired.filter fun pb => pbSb pb == i && s.dieIn (pbDie pb)).length

/-- Streams of Stolrak superblocks (R339, R359). -/
def isStolrak (stream : Nat) : Bool := (decide (4 ≤ stream) && decide (stream ≤ 7)) || stream == 9

/-- Usable capacity of a superblock in units of 1/64 plane block (R348). -/
def State.sbUsable (s : State) (i : Nat) : Nat :=
  let x := s.sb i
  s.sbBlocks i * (if x.st != .free && isStolrak x.stream then 63 else 64)

/-- Bytes of n units of 1/64 plane block. -/
def usableBytes (n : Nat) : Nat := n * 131072

/-- Plane blocks in service on a die position over all channels and blocks. -/
def State.positionBlocks (s : State) (q : Nat) : Nat :=
  4 * ((s.fla.dies.filter fun d => d % 16 == q && s.fla.channels.contains (chanOf d)).length)

/-- Bytes of the free superblocks at their usable capacity (R348). -/
def State.freeBytes (s : State) : Nat :=
  let all := ((List.range 16).map fun q => 4096 * s.positionBlocks q).sum - (s.fla.retired.filter fun pb => s.dieIn (pbDie pb)).length
  let taken := ((s.xlt.sbs.filter fun e => e.2.st != .free).map fun e => s.sbBlocks e.1).sum
  (all - taken) * 8388608

/-- Usable capacity over all superblocks, in units of 1/64 plane block (R351). -/
def State.allUsable (s : State) : Nat :=
  let all := ((List.range 16).map fun q => 4096 * s.positionBlocks q).sum - (s.fla.retired.filter fun pb => s.dieIn (pbDie pb)).length
  64 * all - ((s.xlt.sbs.filter fun e => e.2.st != .free && isStolrak e.2.stream).map fun e => s.sbBlocks e.1).sum

def superBytes : Nat := 2147483648

/-- RESERVE of R348 in bytes. -/
def reserveBytes : Nat := 17179869184 * 64 / 63 + 30 * 1073741824

/-- Available Spare (R351). -/
def State.availableSpare (s : State) : Nat :=
  let base := 61304 * 256 * 64
  min 100 (100 * (s.allUsable - base) / (64 * s.xlt.u0 - base))

/-- Mean erase generation over the plane blocks in service, and the highest one (R331). -/
def State.eraseMean (s : State) : Nat :=
  let n := ((List.range 16).map fun q => 4096 * s.positionBlocks q).sum - (s.fla.retired.filter fun pb => s.dieIn (pbDie pb)).length
  if n = 0 then 0 else ((s.fla.gen.filter fun e => s.dieIn (pbDie e.1) && !s.fla.retired.contains e.1).map fun e => e.2).sum / n

def State.eraseMax (s : State) : Nat :=
  (s.fla.gen.filter fun e => s.dieIn (pbDie e.1) && !s.fla.retired.contains e.1).foldl (fun m e => max m e.2) 0

/-- Percentage Used: floor(100 E / 60,000) of the exact mean, saturating at 255 (R331). -/
def State.percentageUsed (s : State) : Nat :=
  let n := ((List.range 16).map fun q => 4096 * s.positionBlocks q).sum - (s.fla.retired.filter fun pb => s.dieIn (pbDie pb)).length
  let t := ((s.fla.gen.filter fun e => s.dieIn (pbDie e.1) && !s.fla.retired.contains e.1).map fun e => e.2).sum
  if n = 0 then 0 else min 255 (100 * t / (60000 * n))

/-! ### Critical Warning (R409, R422) -/

/-- Composite Temperature in kelvin: the highest of sensors 1 to 3 (R438). -/
def State.composite (s : State) : Nat := (s.pwr.temps.take 3).foldl max 0 + 273

/-- A threshold of feature 0x04 is met, of the composite or of a sensor. -/
def State.tempWarns (s : State) : Bool :=
  !s.pwr.temps.isEmpty && (decide (s.que.tempOver ≤ s.composite) || decide (s.composite ≤ s.que.tempUnder) ||
    (s.pwr.temps.take 8).zipIdx.any fun t => decide (Tab.get 65535 s.que.sensOver (t.2 + 1) ≤ t.1 + 273) || decide (t.1 + 273 ≤ Tab.get 0 s.que.sensUnder (t.2 + 1)))

/-- Critical Warning bits of R409. -/
def State.criticalWarning (s : State) : Nat :=
  let b := fun (c : Bool) (i : Nat) => if c then 2 ^ i else 0
  b (decide (s.availableSpare < 10)) 0 +
    b s.tempWarns 1 +
    b (s.fwc.limp.isSome || s.clk.failed || s.stg.exhausted) 2 +
    b (s.xlt.full || s.clk.failed || s.stg.exhausted) 3 + b s.pwr.prot 4

/-- Posts each Critical Warning bit newly set (DEDUCED: the event's information is the bit's number). -/
def State.warn (s : State) : State :=
  let w := s.criticalWarning
  let s' := (List.range 5).foldl (fun s i => if bit w i && !bit s.que.warned i then s.asyncEvent 1 i 2 else s) s
  { s' with que := { s'.que with warned := w } }

/-- Plane blocks retired: at once, once, with the event and its cause (R320, R329, R363, R488). -/
def State.retire (s : State) (pb cause : Nat) : State :=
  if s.fla.retired.contains pb then s
  else
    { s with fla := { s.fla with retired := insertNat pb s.fla.retired, suspect := s.fla.suspect.erase pb } }.event 0x000D 0 4 ⟨6, pb⟩ [BitVec.ofNat 8 cause]

/-! ### Map entries (R333, R335) -/

def mkEntry (stamp plane ppa : Nat) : BitVec 64 :=
  let e := stamp % 2 ^ 24 * 2 ^ 40 + plane % 4 * 2 ^ 32 + ppa % 2 ^ 32
  BitVec.ofNat 64 (e + entryCheck e * 2 ^ 34)

def unmappedPpa : Nat := 0xFFFFFFFF
def lostPpa : Nat := 0xFFFFFFFE
def unmapped : BitVec 64 := mkEntry 0 0 unmappedPpa
def lostEntry : BitVec 64 := mkEntry 0 0 lostPpa

def entPpa (e : BitVec 64) : Nat := e.toNat % 2 ^ 32
def entPlane (e : BitVec 64) : Nat := bits e.toNat 33 32
def entStamp (e : BitVec 64) : Nat := bits e.toNat 63 40
def entDie (e : BitVec 64) : Nat := bits e.toNat 30 21
def entBlock (e : BitVec 64) : Nat := bits e.toNat 20 9
def entPage (e : BitVec 64) : Nat := bits e.toNat 8 0
def entMapped (e : BitVec 64) : Bool := decide (entPpa e < lostPpa)
def entAddr (e : BitVec 64) (slot : Nat) : CwAddr := ⟨entDie e, entPlane e, entBlock e, entPage e, slot⟩
def entPb (e : BitVec 64) : Nat := pbKey (entDie e) (entPlane e) (entBlock e)
def entSb (e : BitVec 64) : Nat := sbOf (entDie e) (entBlock e)
def entCheckOk (e : BitVec 64) : Bool := bits e.toNat 39 34 == entryCheck e.toNat

def mapKey (ns unit : Nat) : Nat := ns * 2 ^ 40 + unit
/-- Key of a slot of a namespace, numbered unit × 4 + slot. -/
def slotKey (ns k : Nat) : Nat := mapKey ns (k / 4) * 4 + k % 4
def leafKey (ns leaf : Nat) : Nat := ns * 2 ^ 32 + leaf

def State.entry (s : State) (ns unit : Nat) : BitVec 64 := Tab.get unmapped s.xlt.map (mapKey ns unit)

/-- What a superblock holds that is still in use: map entries, leaves, generations and marks that lie in it (R352). -/
def State.sbValid (s : State) (i : Nat) : Nat :=
  (s.xlt.map.filter fun e => entMapped e.2 && entSb e.2 == i).length +
    (s.xlt.leafIndex.filter fun e => e.2.toNat % 2 ^ 32 != unmappedPpa && entSb e.2 == i).length +
    (s.ns.list.filter fun n => (n.gens.any fun g => g.sbs.contains i) || n.lockAt.any fun a => sbOf a.die a.block == i).length + (s.xlt.marks.filter fun m => m.places.any fun a => sbOf a.die a.block == i).length

/-! ### Placing page sets (R330, R339, R349, R356, R359) -/

/-- A die is occupied in this stage (R11). -/
def State.dieBusy (s : State) (die : Nat) : Bool := s.fla.ops.any fun o => o.die == die && decide (o.starts ≤ s.stg.stage)

/-- The operation of a die that goes on. -/
def State.opOn (s : State) (die : Nat) : Option DieOp := s.fla.ops.find? fun o => o.die == die && !o.ended && decide (o.starts ≤ s.stg.stage)

/-- An operation issued now, for n stages. -/
def State.beginOp (s : State) (die : Nat) (w : DieWork) (n : Nat) : State :=
  { s with fla := { s.fla with ops := s.fla.ops ++ [⟨die, w, s.stg.stage, s.stg.stage + n, false⟩] } }

/-- An operation has ended; the die stays occupied to the end of its declared stages (R11). -/
def State.endOp (s : State) (o : DieOp) : State :=
  { s with fla := { s.fla with ops := if s.stg.stage < o.ends then updateIf (fun p => p == o) (fun p => { p with ended := true }) s.fla.ops else s.fla.ops.erase o } }

/-- Every plane of a block gains a generation, at most 131,071, and a plane block that reaches it is retired (R329). -/
def State.raiseGens (s : State) (die block : Nat) (ps : List Nat) : State :=
  ps.foldl (fun s q =>
    let pb := pbKey die q block
    let g := min 131071 (s.genOf pb + 1)
    let s := { s with fla := { s.fla with gen := Tab.set 0 s.fla.gen pb g } }
    if g = 131071 then s.retire pb 4 else s) s

/-- At a boundary the dies whose occupancy has passed are free, and a queued erase whose turn has come is issued: its generations rise (R329). -/
def State.freeDies (s : State) : State :=
  let s := { s with fla := { s.fla with ops := s.fla.ops.filter fun o => !o.ended || decide (s.stg.stage < o.ends) } }
  (s.fla.ops.filter fun o => o.starts == s.stg.stage).foldl (fun s o => match o.work with | .erase b ps => s.raiseGens o.die b ps | _ => s) s

/-- Reservations stand: neither a power-loss sequence nor a loss of the clock has ended the dispatcher's releases (R17, R52, R502). -/
def State.reserves (s : State) : Bool := s.pwr.seq == .none && !s.stg.stopped && !s.clk.failed

/-- A timetable reserves die time within n stages from a stage a on: the occupancy of a read, lapsed or not, that is due before their end
and was not over before a (R14, R15, R168). -/
def State.dieReserved (s : State) (die a n : Nat) : Bool :=
  s.reserves && s.tables.any fun t => t.2.suspended.isNone && t.2.plan.entries.any fun e =>
    (e.kind == .dieRead || e.kind == .dieReadOpen) && e.unit == die &&
      (t.2.near (a + 1 - s.fla.tRead)).any fun b => match entryNext b e (a + 1 - s.fla.tRead) with | some x => decide (x < a + n) | none => false

/-- The channel that holds row p's parity for a plane of a Stolrak superblock (R359). -/
def State.parityChan (s : State) (sb row plane : Nat) : Nat :=
  match firstBelow (fun k => (s.planesIn (sbDie sb ((sb + row + k) % 64)) (sbBlock sb)).contains plane) 64 with
  | some k => (sb + row + k) % 64
  | none => 64

/-- Planes of a row's page set on a channel that take data. -/
def State.dataPlanes (s : State) (sb row chan : Nat) (stolrak : Bool) : List Nat :=
  (s.planesIn (sbDie sb chan) (sbBlock sb)).filter fun q => !stolrak || s.parityChan sb row q != chan

/-- A row's page set on a channel is still to be programmed. -/
def State.setOpen (s : State) (sb row chan : Nat) (stolrak : Bool) : Bool :=
  let ps := s.dataPlanes sb row chan stolrak
  !ps.isEmpty && ps.all fun q => decide (s.nextOf (pbKey (sbDie sb chan) q (sbBlock sb)) ≤ row)

/-- Lowest row from `row` on, within n rows, with a page set to be programmed. -/
def State.openRow (s : State) (sb : Nat) (stolrak : Bool) : Nat → Nat → Option Nat
  | 0, _ => none
  | n + 1, row => if (List.range 64).any fun c => s.setOpen sb row c stolrak then some row else s.openRow sb stolrak n (row + 1)

/-- The stage at which a die comes to an operation of n stages outside reservations: from the next one on, behind what it has to do, clear of
what timetables reserve on it (R16, R168, R347). -/
def State.queueStage (s : State) (die n : Nat) : Nat :=
  let free := (s.fla.ops.filter fun o => o.die == die).foldl (fun m o => max m o.ends) (s.stg.stage + 1)
  (findUp (fun k => !s.dieReserved die k n) 8192 free).getD free

/-- An operation of n stages queued for a die. -/
def State.queueOp (s : State) (die : Nat) (w : DieWork) (n : Nat) : State :=
  let a := s.queueStage die n
  { s with fla := { s.fla with ops := s.fla.ops ++ [⟨die, w, a, a + n, false⟩] } }

/-- A program of a channel's die may be issued now: nothing occupies the die or waits for it, timetables leave it the program's stages, and
the channel's seats have caught up (R11, R16, R168). -/
def State.mayProgram (s : State) (die : Nat) : Bool :=
  !(s.fla.ops.any fun o => o.die == die) && !s.dieReserved die s.stg.stage s.fla.tProg && Tab.get 0 s.fla.seatDebt (chanOf die) == 0

/-- Lowest channel of a row whose set is open and that a test allows, first among those whose die may be programmed now; where a page may be
queued, else any of them. -/
def State.openChan (s : State) (sb row : Nat) (stolrak queued : Bool) (ok : Nat → Bool) : Option Nat :=
  let free := fun c : Nat => s.setOpen sb row c stolrak && ok c
  firstBelow (fun c => free c && s.mayProgram (sbDie sb c)) 64 <|> if queued then firstBelow free 64 else none

/-- Row key of the parity accumulator (R356). -/
def accKey (sb page plane cw : Nat) : Nat := sb * 8192 + page * 16 + plane * 4 + cw

/-- A superblock taken from the cursor: the first free one at or after it (R330); native ones open an accumulator. -/
def State.allocSb (s : State) (stream : Nat) : Option (Nat × State) :=
  match findUp (fun k => (s.sb (k % 65536)).st == .free && s.sbBlocks (k % 65536) != 0) 65536 s.xlt.cursor with
  | none => none
  | some k =>
    let i := k % 65536
    let s := s.setSb i ⟨.opened, stream, 0, 0⟩
    let acc := !(stream == 12 || stream == 13 || stream == 14)
    some (i, { s with xlt := { s.xlt with
      cursor := (i + 1) % 65536
      openSb := Tab.set 0 s.xlt.openSb stream (i + 1)
      accOpen := if acc then insertNat i s.xlt.accOpen else s.xlt.accOpen } })

/-- A superblock closed as it stands; a native one with an accumulator awaits its verify (R357), a Stolrak one's ends. -/
def State.closeSb (s : State) (i : Nat) : State :=
  let x := s.sb i
  let s := s.setSb i { x with st := .closed }
  { s with xlt := { s.xlt with
    openSb := if Tab.get 0 s.xlt.openSb x.stream = i + 1 then Tab.set 0 s.xlt.openSb x.stream 0 else s.xlt.openSb
    closedSince := s.xlt.closedSince + 1
    toVerify := if !isStolrak x.stream && s.xlt.accOpen.contains i then insertNat i s.xlt.toVerify else s.xlt.toVerify
    accOpen := if isStolrak x.stream then s.xlt.accOpen.erase i else s.xlt.accOpen } }

/-- An accumulator dropped: its rows read zero. -/
def State.dropAcc (s : State) (i : Nat) : State :=
  { s with xlt := { s.xlt with accOpen := s.xlt.accOpen.erase i, acc := Tab.clear s.xlt.acc (i * 8192) ((i + 1) * 8192) } }

/-! ### Programs (R311, R317 to R319, R356, R359) -/

/-- One plane of a page set: its code words' contents by code word number. -/
abbrev PlaneWords := Nat × List CWord

/-- Core cycle at which a channel's command slot k starts, no later than the stage's last (R305; DEDUCED: 20 k / 3), on a cycle that the
stamp generator counts (R51). -/
def State.slotCycle (s : State) (k : Nat) : Nat := min 12299 (20 * k / 3) / s.cycleStep * s.cycleStep

/-- Stamp of a program that a channel issues in a stage: of the first command slot of 16 bytes, from the present core cycle on in the present
stage, that none of its programs has taken and that comes after every mark (R21, R305, R311, R364). -/
def State.programStamp (s : State) (chan stage : Nat) : Nat :=
  let slot := fun k : Nat => fullStamp stage (s.slotCycle k)
  let taken := fun k : Nat => (s.fla.words.any fun e => chanOf (pbDie (e.1 / 2048)) == chan && e.2.stamp == slot k) || s.xlt.marks.any fun m => decide (slot k ≤ m.stamp)
  let first := if stage = s.stg.stage then ceilDiv (3 * s.stg.cycle) 20 else 0
  slot ((findUp (fun k => !taken k) (3 * s.fla.words.length + 2000) first).getD first)

/-- The hub refuses a program of a page below NEXT: nothing is issued, the refusal counts and is logged (R319). -/
def State.secondProgram (s : State) (die block page : Nat) : State :=
  (s.health fun h => { h with secondProgram := h.secondProgram + 1 }).event 0x0005 0 4 noObj (toLe 2 die ++ toLe 2 block ++ toLe 2 page)

/-- Code words written into their pages, NEXT raised, the accumulator's rows kept (R318, R356). -/
def State.putPages (s : State) (die block page : Nat) (pages : List PlaneWords) (stamp stream : Nat) (pending : Bool) : State :=
  let sb := sbOf die block
  pages.foldl (fun s p =>
    let pb := pbKey die p.1 block
    let s := (p.2.zipIdx).foldl (fun s w =>
      let a : CwAddr := ⟨die, p.1, block, page, w.2⟩
      let x : CWord := { w.1 with stamp := stamp, gen := s.genOf pb, stream := stream, slot := w.2, undefined := pending }
      let words := Tab.put s.fla.words (cwKey a) x
      let k := accKey sb page p.1 w.2
      let acc := if s.xlt.accOpen.contains sb then Tab.set [] s.xlt.acc k (trim (xorBytes (Tab.get [] s.xlt.acc k) (rawWord words a))) else s.xlt.acc
      { s with fla := { s.fla with words := words }, xlt := { s.xlt with acc := acc } }) s
    { s with fla := { s.fla with next := Tab.set 0 s.fla.next pb (page + 1) } }) s

/-- Seats outside every timetable that a channel's transfers take (R16, R187). -/
def State.freeSeats (s : State) (chan n : Nat) : State :=
  let s := s.tt fun t => { t with seatsUnres := t.seatsUnres + n }
  { s with fla := { s.fla with seatDebt := Tab.set 0 s.fla.seatDebt chan (Tab.get 0 s.fla.seatDebt chan + n) } }

/-- A plane block moves to the head of the patrol queue (R316, R362). -/
def State.patrolFirst (s : State) (pb : Nat) : State :=
  { s with xlt := { s.xlt with patrolQueue := pb :: s.xlt.patrolQueue.filter fun x => x != pb } }

/-- n senses of a plane block raise its read count; past 200,000 the block moves to the head of the patrol queue (R362). -/
def State.countSenses (s : State) (pb n : Nat) : State :=
  let c := Tab.get 0 s.fla.reads pb + n
  let s := { s with fla := { s.fla with reads := Tab.set 0 s.fla.reads pb c } }
  if 200000 < c then s.patrolFirst pb else s

/-- A page's sense outside every timetable queued for its die, with the planes it takes (R11, R16, R362). -/
def State.queueSense (s : State) (die block page : Nat) (planes : List Nat) : State :=
  planes.foldl (fun s q => s.countSenses (pbKey die q block) 1) (s.queueOp die (.sense block page planes) s.fla.tRead)

/-- A code word's page read outside every timetable: its die senses it, and n of its code words take seats (R16). -/
def State.plainSense (s : State) (a : CwAddr) (n : Nat) : State := (s.queueSense a.die a.block a.page [a.plane]).freeSeats (chanOf a.die) n

/-- Seats of a channel that timetables hold in a stage. -/
def State.heldSeats (s : State) (chan stage : Nat) : Nat :=
  ((s.tables.filter fun t => t.2.suspended.isNone).flatMap fun t => (t.2.near stage).flatMap fun b => t.2.plan.entries.map fun e =>
    if (e.kind == .seat || e.kind == .seatOpen) && e.unit == chan && entryDue b e stage then seatCount e.amount else 0).sum

/-- Seats of a channel in a stage that no timetable holds: less one for patrol in every eighth stage, and all seven in a power-loss sequence
(R16, R17; DESIGN CHOICE: patrol's seat is that of the stages that are multiples of 8). -/
def State.seatsLeft (s : State) (chan stage : Nat) : Nat :=
  if s.reserves then 7 - s.heldSeats chan stage - (if stage % 8 = 0 then 1 else 0) else 7

/-- At a boundary the seats of the stage that ended have served what waited for them, in order (R16). -/
def State.drainSeats (s : State) : State :=
  let left := fun c : Nat => s.seatsLeft c (s.stg.stage - 1)
  let rest := fun l : List (Nat × Nat) => (l.map fun e => (e.1, e.2 - left e.1)).filter fun e => e.2 != 0
  { s with
    fla := { s.fla with seatDebt := rest s.fla.seatDebt, recov := s.fla.recov.map fun r => { r with left := r.left.map fun n => n - left (chanOf r.word.die) } }
    xlt := { s.xlt with plain := s.xlt.plain.map fun p => { p with seats := p.seats.map rest } } }

/-- A program of a whole page set that no host unit or copy waits for, queued for its die: its code words are undefined until it has passed
(R311, R317, R325). -/
def State.queueSet (s : State) (sb row chan stream : Nat) (pages : List PlaneWords) : State :=
  let die := sbDie sb chan
  let stamp := s.programStamp chan (s.queueStage die s.fla.tProg)
  let id := s.xlt.setId
  let s := (s.freeSeats chan (4 * pages.length)).putPages die (sbBlock sb) row pages stamp stream true
  let set : PageSet := ⟨id, die, sbBlock sb, row, stream, [], pages.map fun p => p.1, stamp, none⟩
  { s with xlt := { s.xlt with sets := s.xlt.sets ++ [set], setId := id + 1 } }.queueOp die (.program id) s.fla.tProg

/-- Parity planes of a Stolrak row on a channel programmed in one page set; a page below NEXT is refused as a second program (R317 to R319,
R359). -/
def State.putParityOn (s : State) (sb row stream chan : Nat) (pages : List PlaneWords) : State :=
  let die := sbDie sb chan
  if 64 ≤ chan || pages.isEmpty then s
  else if pages.any fun p => decide (row < s.nextOf (pbKey die p.1 (sbBlock sb))) then s.secondProgram die (sbBlock sb) row
  else
    let open_ := s.xlt.accOpen
    let s := { s with xlt := { s.xlt with accOpen := [] } }.queueSet sb row chan stream pages
    { s with xlt := { s.xlt with accOpen := open_ } }

/-- Code words of one plane's parity in a Stolrak row: KIND 6, UNIT the row (R359). -/
def State.parityWords (s : State) (sb row plane : Nat) : List CWord :=
  (List.range 4).map fun k => { data := Tab.get [] s.xlt.acc (accKey sb row plane k), ns := 255, unit := row, kind := 6, seq := row }

/-- A Stolrak row whose data sets are all issued: its parity goes to the parity channels, and the accumulator's row is dropped (R359). -/
def State.putParity (s : State) (sb row stream : Nat) : State :=
  let at_ := fun q : Nat => s.parityChan sb row q
  let s' := ((List.range 4).map at_).eraseDups.foldl (fun t c =>
    t.putParityOn sb row stream c (((List.range 4).filter fun q => at_ q == c).map fun q => (q, s.parityWords sb row q))) s
  { s' with xlt := { s'.xlt with acc := Tab.clear s'.xlt.acc (accKey sb row 0 0) (accKey sb (row + 1) 0 0) } }

/-- Where a stream's next page set goes: superblock, row, channel. Full superblocks are closed and a new one is taken where
allowed; a Stolrak row just filled gets its parity. -/
def State.nextPlace (stream : Nat) (queued : Bool) (mayAlloc : State → Bool) (ok : Nat → Bool) : Nat → State → Option (Nat × Nat × Nat) × State
  | 0, s => (none, s)
  | fuel + 1, s =>
    match Tab.get 0 s.xlt.openSb stream with
    | 0 =>
      if !mayAlloc s then (none, s)
      else match s.allocSb stream with
        | none => (none, s)
        | some (_, s) => State.nextPlace stream queued mayAlloc ok fuel s
    | i + 1 =>
      let x := s.sb i
      let st := isStolrak stream
      match s.openRow i st (512 - x.row) x.row with
      | none =>
        let s := if st && x.row < 512 then s.putParity i x.row stream else s
        State.nextPlace stream queued mayAlloc ok fuel (s.closeSb i)
      | some row =>
        let s := if st && x.row < row then s.putParity i x.row stream else s
        let s := s.setSb i { s.sb i with row := row }
        match s.openChan i row st queued ok with
        | some c => (some (i, row, c), s)
        | none => (none, s)

/-- The planes of a page set with four code words each, out of a list that starts again once it is used up: in service only whole page sets
are programmed (R317; DESIGN CHOICE: what would leave a set short is repeated in it). -/
def setPages (planes : List Nat) (words : List CWord) : List PlaneWords :=
  planes.zipIdx.map fun q => (q.1, (List.range 4).map fun c => words.getD ((4 * q.2 + c) % words.length) {})

/-- Code words of a page set in order. -/
def setAddrs (die block page : Nat) (planes : List Nat) : List CwAddr := planes.flatMap fun q => (List.range 4).map fun c => ⟨die, q, block, page, c⟩

/-- One page set of firmware's own (leaves, marks, spill, records, generation pages): where its code words went; none without a place. -/
def State.firmwareSet (s : State) (stream : Nat) (may : State → Bool) (ok : Nat → Bool) (words : List CWord) : List CwAddr × State :=
  match State.nextPlace stream true may ok 4 s with
  | (some (sb, row, c), s) =>
    let ps := s.dataPlanes sb row c (isStolrak stream)
    (setAddrs (sbDie sb c) (sbBlock sb) row ps, s.queueSet sb row c stream (setPages ps words))
  | (none, s) => ([], s)

/-- Firmware's code words in as many page sets as they take: where each went. -/
def State.firmwareWrite (stream : Nat) (may : State → Bool) : Nat → List CWord → State → List CwAddr × State
  | 0, _, s => ([], s)
  | n + 1, words, s =>
    if words.isEmpty then ([], s)
    else
      let (l, s) := s.firmwareSet stream may (fun _ => true) words
      if l.isEmpty then ([], s)
      else
        let (m, s) := State.firmwareWrite stream may n (words.drop l.length) s
        (l.take words.length ++ m, s)

/-- A page set in two copies on dies of different hubs (R326, R356). -/
def State.writeTwice (s : State) (stream : Nat) (words : List CWord) : List CwAddr × State :=
  let (a, s) := s.firmwareSet stream (fun _ => true) (fun _ => true) words
  let (b, s) := s.firmwareSet stream (fun _ => true) (fun c => match a with | x :: _ => c / 4 != hubOf x.die | [] => true) words
  (a.take words.length ++ b.take words.length, s)

/-- DATA of a journal mark (R364). -/
def markData (m : Mark) (indexSb indexRow : Nat) : Bytes :=
  let ent := m.opened.take 40
  let b := toLe 8 m.stamp ++ toLe 8 m.seq ++ toLe 4 indexSb ++ toLe 2 indexRow ++ toLe 2 m.opened.length ++ toLe 4 0 ++ toLe 4 m.cursor ++
    toLe 4 ((if m.clean then 1 else 0) + (if m.readOnly then 2 else 0)) ++ zeros 4 ++
    (ent.flatMap fun o => toLe 4 o.1 ++ toLe 2 o.2.1 ++ toLe 2 o.2.2)
  withCrc (fit 508 b)

/-- MARK_STAMP: of every map change by pages up to it the leaves hold the outcome: short of the programs in flight and of copies not yet mapped
(R22, R364). -/
def State.markStamp (s : State) : Nat :=
  let flying := (s.xlt.sets.filter fun p => !p.units.isEmpty).map fun p => p.stamp
  let copied := s.xlt.copies.filterMap fun k => k.target.map fun t => (s.word (entAddr t 0)).stamp
  (flying ++ copied).foldl (fun m x => min m (x - 1)) s.stamp

/-- An event's entry (R487). -/
def eventBytes (e : Event) : Bytes :=
  withCrc (toLe 8 e.stamp ++ toLe 8 e.seq ++ toLe 2 e.code ++ toLe 1 e.cls ++ toLe 1 e.source ++ toLe 4 (objWord e.obj) ++ fit 36 e.detail)

/-- The event log as a KIND 7 record (R486). DESIGN CHOICE: the spec gives the record no layout and KIND 7 no stream; it holds the entries of the log,
and lies in stream 12 as marks do. -/
def logWords (events : List Event) : List CWord :=
  let b := events.flatMap eventBytes
  (List.range (max 1 (ceilDiv b.length 4096))).map fun i => { data := trim (slice b (4096 * i) 4096), ns := 255, unit := i, kind := 7 }

/-- A journal mark with what it saves as it stands now (R364). DESIGN CHOICE: the copy of the leaf index is kept in the mark, not laid out in page
sets of its own. -/
def State.newMark (s : State) (clean : Bool) : Mark :=
  let opened := (s.xlt.sbs.filter fun e => e.2.st == .opened && decide (e.2.stream ≤ 13)).map fun e => (e.1, e.2.stream, e.2.row)
  ⟨s.markStamp, s.xlt.markSeq + 1, [], clean, s.xlt.full, s.xlt.cursor, opened, s.xlt.map, s.xlt.sbs, s.fla.reads, s.fwc.events, s.fwc.total, s.xlt.leafIndex⟩

/-- A mark written in two copies on dies of different hubs, the event log beside it; the two newest marks stand, and the commands that wait for it
complete (R265, R356, R364, R365, R486). -/
def State.putMark (s : State) (m : Mark) : State :=
  let m := { m with seq := s.xlt.markSeq + 1, leafIndex := s.xlt.leafIndex, events := s.fwc.events, total := s.fwc.total }
  let w : CWord := { data := trim (markData m 0 0), ns := 255, unit := m.seq, kind := 3 }
  let (l, s) := s.writeTwice 12 [w]
  let (_, s) := s.firmwareSet 12 (fun _ => true) (fun _ => true) (logWords m.events)
  let tags := s.xlt.markTags
  tags.foldl (fun s t => s.succeed t.1 t.2 0 []) { s with xlt := { s.xlt with
    marks := newest 2 (s.xlt.marks ++ [{ m with places := l }])
    markSeq := m.seq, markStage := s.stg.stage, closedSince := 0, cleanMark := m.clean, markTags := [] } }

def State.pushMark (s : State) (clean : Bool) : State := s.putMark (s.newMark clean)

/-- A mark's copy reads back: its code word stands, and the CRC of its DATA holds (R23, R364). -/
def State.markReads (s : State) (m : Mark) : Bool :=
  m.places.any fun a =>
    let w := s.word a
    let d := fit 512 w.data
    s.dieIn a.die && w.kind == 3 && w.unit == m.seq && !w.undefined && !w.void && w.raw.isNone && field d 508 4 == crc32c (d.take 508)

/-- A program issued on a channel: a mark with CLEAN clear goes first where the newest mark is clean (R396); the hub refuses a
page below NEXT (R319); else the die is occupied for t_prog. -/
def State.issueSet (s : State) (sb row chan stream : Nat) (pages : List PlaneWords) (units : List (Nat × Nat × Nat)) (sess : Option Nat) : Option Nat × State :=
  let die := sbDie sb chan
  let block := sbBlock sb
  let s := if s.xlt.cleanMark then s.pushMark false else s
  if pages.any fun p => decide (row < s.nextOf (pbKey die p.1 block)) then (none, s.secondProgram die block row)
  else
    let stamp := s.programStamp chan s.stg.stage
    let id := s.xlt.setId
    let s := ((if sess.isSome then s else s.freeSeats chan (4 * pages.length)).putPages die block row pages stamp stream true).stampTo stamp
    let set : PageSet := ⟨id, die, block, row, stream, units, pages.map fun p => p.1, stamp, sess⟩
    (some id, { s with xlt := { s.xlt with sets := s.xlt.sets ++ [set], setId := id + 1 } }.beginOp die (.program id) s.fla.tProg)

/-! ### Leaves and the map cache (R336 to R338) -/

def State.leafAt (s : State) (k : Nat) : BitVec 64 := Tab.get (BitVec.ofNat 64 unmappedPpa) s.xlt.leafIndex k

/-- DATA of a leaf (R336). -/
def State.leafData (s : State) (k : Nat) : Bytes :=
  let ns := k / 2 ^ 32
  let leaf := k % 2 ^ 32
  let units := match s.ns? (ns + 1) with | some n => ceilDiv n.size 16384 | none => 0
  let head := toLe 8 (ns * 2 ^ 56 + leaf % 2 ^ 48) ++ toLe 8 s.stamp ++ toLe 2 (min 488 (units - 488 * leaf)) ++ zeros 170
  let ents := (List.range 488).flatMap fun i => toLe 8 (s.entry ns (488 * leaf + i)).toNat
  head ++ toLe 4 (crc32c (head ++ ents)) ++ ents

/-- Leaf index word of a code word (R337). -/
def leafPlace (a : CwAddr) : BitVec 64 := BitVec.ofNat 64 (a.cw * 2 ^ 34 + a.plane * 2 ^ 32 + ppa a.die a.block a.page)

/-- The code word that a leaf index word names. -/
def leafAddr (e : BitVec 64) : CwAddr := ⟨entDie e, entPlane e, entBlock e, entPage e, bits e.toNat 35 34⟩

/-- Changed leaves written in stream 11; one that finds no place stays changed (R338). -/
def State.writeLeafList (s : State) (ks : List Nat) : State :=
  let (l, s) := State.firmwareWrite 11 (fun _ => true) ks.length (ks.map fun k => { data := s.leafData k, ns := 255, unit := k % 2 ^ 32, kind := 2 }) s
  let w := ks.zip l
  { s with xlt := { s.xlt with
    leafIndex := w.foldl (fun t p => Tab.put t p.1 (leafPlace p.2)) s.xlt.leafIndex
    cached := s.xlt.cached.map fun e => if w.any fun p => p.1 == e.1 then (e.1, false) else e } }

/-- Leaves the cache holds (R370). -/
def State.leafCap (s : State) : Nat := s.drm.cacheGiB * 262144

/-- A leaf is in the cache. -/
def State.leafCached (s : State) (k : Nat) : Bool := s.xlt.cached.any fun e => e.1 == k

/-- A leaf used: the newest in the cache; the least recently used one leaves a full cache, written first where changed, and stays while it
finds no place (R338). -/
def State.touchLeaf (s : State) (k : Nat) (changed : Bool) : State :=
  let old := s.xlt.cached.any fun e => e.1 == k && e.2
  let s : State := { s with xlt := { s.xlt with cached := (s.xlt.cached.filter fun e => e.1 != k) ++ [(k, changed || old)] } }
  match s.xlt.cached with
  | e :: _ =>
    if s.leafCap < s.xlt.cached.length then
      let s := if e.2 then s.writeLeafList [e.1] else s
      { s with xlt := { s.xlt with cached := s.xlt.cached.filter fun x => x.1 != e.1 || x.2 } }
    else s
  | [] => s

/-- A map entry replaced; its leaf is loaded first where the cache does not hold it (R338). -/
def State.setEntry (s : State) (ns unit : Nat) (e : BitVec 64) : State :=
  let k := leafKey ns (unit / 488)
  let s := if s.leafCached k || entPpa (s.leafAt k) == unmappedPpa then s else s.plainSense (leafAddr (s.leafAt k)) 1
  { s with xlt := { s.xlt with map := Tab.set unmapped s.xlt.map (mapKey ns unit) e } }.touchLeaf k true

/-- A unit becomes LOST with its event and count: 1 undefined page set, 2 DRAM error, 3 no parity (R334, R488). -/
def State.loseUnit (s : State) (ns unit cause : Nat) : State :=
  ((s.setEntry ns unit lostEntry).health fun h => { h with unitsLost := h.unitsLost + 1 }).event 0x0007 0 3 noObj
    ([BitVec.ofNat 8 ns] ++ toLe 8 unit ++ [BitVec.ofNat 8 cause])

/-- A map fault: the unit is LOST, the failure is recorded and counted (R335). -/
def State.mapFault (s : State) (ns unit : Nat) : State :=
  ((s.setEntry ns unit lostEntry).health fun h => { h with unitsLost := h.unitsLost + 1, mapFaults := h.mapFaults + 1 }).event 0x0006 0 3 noObj
    ([BitVec.ofNat 8 ns] ++ toLe 8 unit)

/-- An entry's leaf is in the cache, or was never written and needs none; a failing CHECK counts as a miss (R335, R337). -/
def State.leafHit (s : State) (ns unit : Nat) : Bool :=
  let k := leafKey ns (unit / 488)
  (s.leafCached k && entCheckOk (s.entry ns unit)) || (s.leafAt k).toNat % 2 ^ 32 == unmappedPpa

/-- A leaf's entries that fail their CHECK, as its copy in flash holds them; where none was ever written they are UNMAPPED (R335, R337; DEDUCED: the
entries that pass keep what has changed in them since). -/
def State.mendLeaf (s : State) (ns leaf : Nat) : State :=
  let at_ := s.leafAt (leafKey ns leaf)
  let flash := fun i : Nat => if entPpa at_ = unmappedPpa then unmapped else BitVec.ofNat 64 (field (s.word (leafAddr at_)).data (192 + 8 * i) 8)
  (List.range 488).foldl (fun s i =>
    if entCheckOk (s.entry ns (488 * leaf + i)) then s
    else { s with xlt := { s.xlt with map := Tab.set unmapped s.xlt.map (mapKey ns (488 * leaf + i)) (flash i) } }) s

/-- The leaf of an entry that fails its CHECK loaded again, as any read of the entry asks (R335). -/
def State.mended (s : State) (ns unit : Nat) : State :=
  if entCheckOk (s.entry ns unit) then s
  else
    let k := leafKey ns (unit / 488)
    let s := if entPpa (s.leafAt k) == unmappedPpa then s else s.plainSense (leafAddr (s.leafAt k)) 1
    (s.mendLeaf ns (unit / 488)).touchLeaf k false

/-- A landed code word passes its META checks (R335). -/
def wordChecks (w : CWord) (ns unit slot stampLow : Nat) : Bool :=
  w.kind == 1 && w.ns == ns && w.unit == unit && w.slot == slot && w.stamp % 2 ^ 24 == stampLow && !w.undefined && !w.void && w.raw.isNone

/-! ### Reading units (R334, R335, R341) -/

/-- Newest buffered data of a slot. -/
def State.buffered (s : State) (ns unit slot : Nat) : Option Bytes :=
  (s.xlt.buf.filter fun b => b.ns == ns && b.unit == unit).foldl (fun d b => match b.slots.getD slot none with | some x => some x | none => d) none

/-- What reading one slot of a unit gives. A native unit on a die out of service reads as LOST, its entry unchanged (R467). -/
inductive SlotRead where
  | data (d : Bytes)
  | lost
  | fault
deriving DecidableEq, Repr

def State.readSlot (s : State) (ns unit slot : Nat) : SlotRead :=
  match s.buffered ns unit slot with
  | some d => .data d
  | none =>
    let e := s.entry ns unit
    if entPpa e = unmappedPpa then .data []
    else if entPpa e = lostPpa || (!s.dieIn (entDie e) && !isStolrak (s.sb (entSb e)).stream) then .lost
    else
      let w := s.word (entAddr e slot)
      if wordChecks w ns unit slot (entStamp e) then
        .data (openData (match s.ns? (ns + 1) with | some n => n.key | none => 0) w)
      else .fault

/-- One slot read, and where it has data the rest behind its 4,096 bytes; a LOST unit or a map fault, which makes the unit LOST, ends the read with
none. -/
def slotThen (ns i : Nat) (rest : State → Option Bytes × State) (s : State) : Option Bytes × State :=
  match s.readSlot ns (i / 4) (i % 4) with
  | .lost => (none, s)
  | .fault => (none, s.mapFault ns (i / 4))
  | .data d => ((rest s).1.map fun ds => fit 4096 d ++ ds, (rest s).2)

/-- Data of consecutive slots (numbered unit × 4 + slot), each of 4,096 bytes, a leaf loaded again first where an entry fails its CHECK (R335). -/
def readSlots (ns : Nat) : Nat → Nat → State → Option Bytes × State
  | _, 0, s => (some [], s)
  | i, n + 1, s => slotThen ns i (fun t => readSlots ns (i + 1) n t) (s.mended ns (i / 4))

/-- A byte span of a namespace: its data, or none at a LOST unit. -/
def readSpan (ns off len : Nat) (s : State) : Option Bytes × State :=
  if len = 0 then (some [], s)
  else
    let a := off / 4096
    let n := (off + len - 1) / 4096 + 1 - a
    match readSlots ns a n s with
    | (some d, s) => (some (slice d (off % 4096) len), s)
    | (none, s) => (none, s)

/-! ### Full state (R350) -/

/-- Units programmed in the closed superblocks and no longer valid. -/
def State.invalidUnits (s : State) : Nat :=
  let closed := fun i : Nat => (s.sb i).st == .closed && decide ((s.sb i).stream ≤ 10)
  let programmed := (s.fla.words.filter fun e => e.1 % 4 == 0 && e.2.kind == 1 && closed (pbSb (e.1 / 2048))).length
  programmed - (s.xlt.map.filter fun e => entMapped e.2 && closed (entSb e.2)).length

/-- The full state is entered where both conditions hold. -/
def State.checkFull (s : State) : State :=
  if !s.xlt.full && decide (s.freeBytes ≤ reserveBytes) && decide (s.invalidUnits * 16384 < superBytes) then
    { s with xlt := { s.xlt with full := true, fullFreed := false } }.warn
  else s

/-- It clears where a namespace deletion or a format leaves more free than RESERVE + 128 superblocks, at once or by the erases that free what
it released (DEDUCED). -/
def State.clearFull (s : State) : State :=
  if s.xlt.full && s.xlt.fullFreed && decide (reserveBytes + 128 * superBytes < s.freeBytes) then
    { s with xlt := { s.xlt with full := false, fullFreed := false } }.warn
  else s

/-- A deletion or a format has taken effect: the full state is entered by what stands then, or may clear. -/
def State.releaseFull (s : State) : State :=
  let s := s.checkFull
  ({ s with xlt := { s.xlt with fullFreed := s.xlt.full } } : State).clearFull

/-! ### Erases (R318, R320, R329) -/

/-- An erase issued on a die's block, in the planes in service; the die is occupied for t_erase. -/
def State.issueErase (s : State) (die block : Nat) : State :=
  let ps := s.planesIn die block
  (s.raiseGens die block ps).beginOp die (.erase block ps) s.fla.tErase

/-- A plane block erased: no code word, NEXT and read count 0. -/
def State.erasePlane (s : State) (pb : Nat) : State :=
  { s with
    fla := { s.fla with
      words := Tab.clear s.fla.words (pb * 2048) ((pb + 1) * 2048)
      next := Tab.set 0 s.fla.next pb 0
      reads := Tab.set 0 s.fla.reads pb 0 }
    xlt := { s.xlt with walks := Tab.set 0 s.xlt.walks (2 ^ 30 + pb) 0 } }

/-! ### Lock records (R326) -/

/-- STATE of a lock record. -/
def lockByte (l : Lock) : Nat := (if l.readLock then 1 else 0) + (if l.writeLock then 2 else 0) + (if l.atPowerOn then 4 else 0) + (if l.passwordSet then 8 else 0)

/-- A lock record (R326). -/
def lockRecord (nsid : Nat) (l : Lock) : Bytes :=
  withCrc (toLe 4 nsid ++ toLe 1 (lockByte l) ++ zeros 3 ++ fit 32 l.salt ++ fit 64 l.verifier ++ zeros 20)

/-- The lock that a record holds. -/
def lockOf (b : Bytes) : Lock :=
  let k := field b 4 1
  let set := bit k 3
  { readLock := bit k 0, writeLock := bit k 1, atPowerOn := bit k 2, passwordSet := set
    salt := if set then slice b 8 32 else [], verifier := if set then slice b 40 64 else [] }

/-! ### Cache registers and the correction cache (R307, R313 to R316) -/

/-- A hub's correction cache holds a code word of its present erase generation. -/
def State.corrected (s : State) (a : CwAddr) : Bool := (Tab.get [] s.fla.corr (hubOf a.die)).contains (a, s.genOf (pbOf a))

/-- A code word enters its hub's correction cache, which keeps the last 256. -/
def State.keepCorrected (s : State) (a : CwAddr) : State :=
  let h := hubOf a.die
  let e := (a, s.genOf (pbOf a))
  let l := (Tab.get [] s.fla.corr h).filter fun x => x != e
  { s with fla := { s.fla with corr := Tab.put s.fla.corr h (newest 256 (l ++ [e])) } }

/-- A code word as its plane's cache register holds it, with its class (R307, R313). -/
def State.cached (s : State) (w : CwAddr) : Option (CWord × CwClass) :=
  match s.fla.cache.find? fun c => c.1 == w.die * 4 + w.plane with
  | some (_, c) => if c.block = w.block ∧ c.page = w.page then some (c.words.getD w.cw {}, c.classes.getD w.cw .dirty) else none
  | none => none

/-- A die still reports busy: its operation has not ended in its declared stages (R314). -/
def State.late (s : State) (die : Nat) : Bool := s.fla.ops.any fun o => o.die == die && !o.ended && decide (o.ends ≤ s.stg.stage)

/-- What a seat brings of a code word: from its hub's correction cache, or from its plane's cache register where the die is not busy any more and
the class is CLEAN or ERASED (R313, R314, R316). -/
def State.seatWord (s : State) (w : CwAddr) : Option (CWord × CwClass) :=
  if s.corrected w then some (s.word w, .clean)
  else if s.late w.die then none
  else match s.cached w with
    | some (d, c) => if c == .dirty then none else some (d, c)
    | none => none

/-- A code word can be served in a seat. -/
def State.served (s : State) (w : CwAddr) : Bool := (s.seatWord w).isSome

/-- Data of a code word in a seat: ERASED as all ones, the rest opened under its namespace's key (R314, R497). -/
def State.wordData (s : State) (d : CWord × CwClass) : Bytes :=
  if d.2 == .erased || d.1 == {} then List.replicate 4096 0xFF
  else match d.1.raw with
    | some r => fit 4096 r
    | none => fit 4096 (openData (match s.ns? (d.1.ns + 1) with | some n => n.key | none => 0) d.1)

/-- Data that a seat brings of a code word. -/
def State.seatData (s : State) (w : CwAddr) : Bytes := match s.seatWord w with | some d => s.wordData d | none => []

/-- A page landed with a DIRTY code word: its recovery begins (R314, R315). -/
def State.recover (s : State) (w : CwAddr) : State :=
  let dirty := match s.cached w with | some (_, c) => c == .dirty | none => false
  if dirty && !s.corrected w && !(s.fla.recov.any fun r => r.word == w) then
    let s := s.freeSeats (chanOf w.die) 2
    { s with fla := { s.fla with recov := s.fla.recov ++ [⟨w, 1, 0, some (Tab.get 0 s.fla.seatDebt (chanOf w.die))⟩] } }
  else s

/-! ### Reads outside every timetable (R16, R347) -/

/-- Pages of code words, each with the planes to be sensed. -/
def pagesOf (ws : List CwAddr) : List (Nat × Nat × Nat × List Nat) :=
  ((ws.map fun a => (a.die, a.block, a.page)).eraseDups).map fun p =>
    (p.1, p.2.1, p.2.2, ((ws.filter fun a => a.die == p.1 && a.block == p.2.1 && a.page == p.2.2).map fun a => a.plane).eraseDups)

/-- A read outside every timetable begins: its pages are to be sensed by dies in service; only a read-out takes seats. -/
def State.startPlain (s : State) (what : PlainFor) (ws : List CwAddr) (readOut : Bool) : State :=
  let ws := ws.filter fun a => s.dieIn a.die
  let s := (pagesOf ws).foldl (fun s p => s.queueSense p.1 p.2.1 p.2.2.1 p.2.2.2) s
  { s with xlt := { s.xlt with plain := s.xlt.plain ++ [⟨what, if readOut then ws else [], pagesOf ws, none⟩] } }

/-- A read of this kind goes on. -/
def State.reading (s : State) (what : PlainFor) : Bool := s.xlt.plain.any fun p => p.what == what

/-- A page has been sensed for the first read that waits for it. -/
def dropSense (p : Nat × Nat × Nat × List Nat) : List Plain → List Plain
  | [] => []
  | x :: l => if x.senses.contains p then { x with senses := x.senses.erase p } :: l else x :: dropSense p l

/-- Command that a read answers. -/
def PlainFor.tag : PlainFor → Option Tag
  | .read w | .locator w _ _ => some w.tag
  | _ => none

/-- Namespace of a read that answers a command. -/
def PlainFor.forNs (ns : Nat) : PlainFor → Bool
  | .read w | .locator w _ _ => w.ns == ns
  | _ => false

end Sys2Proof.Machine
end

