-- ==== Sys2Proof/Machine/Upkeep.lean ====
section
/-! DEFINITION. The write buffer and its landing, garbage collection, superblock erase and verify, patrol and journal marks
(R320, R334, R339 to R344, R349 to R365). -/

namespace Sys2Proof.Machine

/-! ### The write buffer (R340, R341) -/

/-- Stream of a namespace's host writes (R339). -/
def State.streamOf (s : State) (ns : Nat) : Nat :=
  ns % 4 + (match s.ns? (ns + 1) with | some n => if n.stolrak then 4 else 0 | none => 0)

/-- An unplaced version of a unit stands in the buffer. -/
def isUnplaced (ns unit : Nat) (b : BufUnit) : Bool := b.ns == ns && b.unit == unit && b.inSet.isNone

/-- Units that pieces of a write add to the dirty data. -/
def State.newUnits (s : State) (ns : Nat) (pieces : List (Nat × Nat × Bytes)) : Nat :=
  ((pieces.map fun p => p.1).eraseDups.filter fun u => !s.xlt.buf.any (isUnplaced ns u)).length

/-- Dirty data with n more units lies within the cap (R340). -/
def State.fits (s : State) (n : Nat) : Bool := decide ((s.xlt.buf.length + n) * 16384 ≤ s.pwr.cap * 67108864)

/-- A write to a LOST unit: the slots that it and what the buffer holds leave out are stored as zero, and the event is logged (R334). -/
def State.clearLost (s : State) (ns unit : Nat) (slots : List Nat) : State × List (Option Bytes) :=
  if entPpa (s.entry ns unit) ≠ lostPpa then (s, [none, none, none, none])
  else
    let out := (List.range 4).filter fun i => !slots.contains i && (s.buffered ns unit i).isNone
    let s := if out.isEmpty then s else s.event 0x0008 0 3 noObj ([BitVec.ofNat 8 ns] ++ toLe 8 unit ++ [BitVec.ofNat 8 (maskOf out)])
    (s, (List.range 4).map fun i => if out.contains i then some [] else none)

/-- One piece into the buffer under the order number of its write: over the unplaced version, else as a new one. -/
def State.bufferPiece (who : Option Nat) (ns seq : Nat) (slots : Nat → List Nat) (s : State) (p : Nat × Nat × Bytes) : State :=
  let d := some (trim p.2.2)
  let (s, base) := s.clearLost ns p.1 (slots p.1)
  if s.xlt.buf.any (isUnplaced ns p.1) then
    let fill := fun b : BufUnit => (b.slots.zipIdx.map fun x => match x.1 with | some y => some y | none => base.getD x.2 none).set p.2.1 d
    { s with xlt := { s.xlt with buf := updateIf (isUnplaced ns p.1) (fun b => { b with slots := fill b, last := seq, by_ := who }) s.xlt.buf } }
  else
    { s with xlt := { s.xlt with buf := s.xlt.buf ++ [⟨ns, p.1, base.set p.2.1 d, seq, seq, none, who⟩] } }

/-- A slot lies in an extent that a run's slots name. -/
def State.runCovers (s : State) (r : Run) (ns k : Nat) : Bool :=
  (runSlots r.block).any fun sl => sl.kind == 2 && sl.nsid == ns + 1 && match s.ns? sl.nsid with
    | some n => decide (sl.start * n.lba < (k + 1) * 4096) && decide (k * 4096 < (sl.start + sl.length) * n.lba)
    | none => false

/-- Slots of a namespace are written, numbered unit × 4 + slot, or named by a write that waits: the runs and scans that read them read them as open from now on, and builds
keep what they held before (R156, R177, R263, R293). -/
def State.noteWrite (s : State) (ns : Nat) (slots : List Nat) : State :=
  let note := fun r : Run => { r with dirty := (r.dirty ++ (slots.filter (s.runCovers r ns)).map (slotKey ns)).eraseDups }
  let scan := fun c : Scan => if c.nsid == ns + 1 then { c with dirty := (c.dirty ++ slots).eraseDups } else c
  let held := slots.map fun k => (k, match s.readSlot ns (k / 4) (k % 4) with | .data d => trim d | _ => [])
  let build := fun x : Session => (x.buildDirty ++ (x.builds.filter fun g => g.1 == ns + 1).flatMap fun g => held.map fun k => (ns + 1, g.2, k.1, k.2)).eraseDups
  { s with ses := { s.ses with list := s.ses.list.map fun x => { x with run := x.run.map note, scans := x.scans.map scan, buildDirty := build x } } }

/-- Pieces taken into the buffer as one write, of a session's NS_WRITE or of a plain command. -/
def State.bufferWrite (s : State) (who : Option Nat) (ns : Nat) (pieces : List (Nat × Nat × Bytes)) : State :=
  let s := s.noteWrite ns (pieces.map fun p => p.1 * 4 + p.2.1)
  let seq := s.xlt.bufSeq
  let slots := fun u => (pieces.filter fun p => p.1 == u).map fun p => p.2.1
  let s := pieces.foldl (State.bufferPiece who ns seq slots) s
  { s with xlt := { s.xlt with bufSeq := seq + 1 } }

/-! ### Locators (R344) -/

/-- The locator of a mapped entry's unit, from the program that holds it. -/
def State.locator (s : State) (ns slot : Nat) (e : BitVec 64) : Bytes :=
  let w := s.word (entAddr e 0)
  let b := toLe 4 (entPpa e) ++ toLe 4 w.stamp ++ toLe 4 (ns * 2 ^ 24 + entPlane e * 2 ^ 22 + slot * 2 ^ 20 + w.gen % 2 ^ 17) ++ zeros 2
  b ++ toLe 2 (crc16 b)

/-! ### Completion of landing (R342, R343) -/

/-- A wait's writes are still in the buffer. -/
def State.stillDirty (s : State) (w : WaitLand) : Bool :=
  s.xlt.buf.any fun b => decide (b.seq < w.upTo) && (match w.ns with | some n => b.ns == n | none => true) &&
    (match w.units with | some l => l.contains b.unit | none => true)

/-- The queue engine acknowledges writes: not once the root PLL is lost (R52). -/
def State.acknowledges (s : State) : Bool := s.clk.relockTries.isNone && !s.clk.failed

/-- Flushes and writes whose programs have passed complete. -/
def State.landCheck (s : State) : State :=
  let waits := fun w : WaitLand => s.stillDirty w || (w.units.isSome && !s.acknowledges)
  let done := s.xlt.landWaits.filter fun w => !waits w
  let keep := s.xlt.landWaits.filter waits
  done.foldl (fun s w => s.succeed w.tag 0 0 (w.locate.flatMap fun l => fit 16 l.2.2)) { s with xlt := { s.xlt with landWaits := keep } }

/-- A write whose data has entered the buffer: it completes, or waits for its programs. -/
def State.bufferDone (s : State) (w : WaitWrite) : State :=
  if w.fua || w.locate.isSome then
    let units := (w.pieces.map fun p => p.1).eraseDups
    let loc : List (Nat × Nat × Bytes) := match w.locate with | some l => l.map (fun u : Nat × Nat => (u.1, u.2, ([] : Bytes))) | none => []
    let x : WaitLand := ⟨w.tag, s.xlt.bufSeq, some w.ns, some units, loc, w.pieces.map fun p => (p.1, p.2.1)⟩
    { s with xlt := { s.xlt with landWaits := s.xlt.landWaits ++ [x] } }.landCheck
  else s.succeed w.tag 0 0 []

/-- A write is taken into the buffer. -/
def State.takeWrite (s : State) (w : WaitWrite) : State := (s.bufferWrite none w.ns w.pieces).bufferDone w

/-- A write to a slot of a unit is still in flight: its completion has not been posted (R5). -/
def State.slotInFlight (s : State) (ns unit slot : Nat) : Bool :=
  s.xlt.fresh.contains (ns, unit, slot) || (s.xlt.capWaits.any fun w => w.ns == ns && w.pieces.any fun q => q.1 == unit && q.2.1 == slot) ||
    s.xlt.landWaits.any fun w => w.ns == some ns && w.slots.contains (unit, slot)

/-- A write's pieces, free where another write to the same blocks is in flight (R5; DEDUCED: open only in the blocks that both name); their
slots are in flight until the batch of this stage is posted. -/
def State.openPieces (s : State) (ns : Nat) (ps : List (Nat × Nat × Bytes)) : List (Nat × Nat × Bytes) × State :=
  let (l, s') := ps.foldl (fun a p =>
    if s.slotInFlight ns p.1 p.2.1 then
      let (b, t) := a.2.drawBytes 4096
      (a.1 ++ [(p.1, p.2.1, b)], t)
    else (a.1 ++ [p], a.2)) (([] : List (Nat × Nat × Bytes)), s)
  (l, { s' with xlt := { s'.xlt with fresh := s'.xlt.fresh ++ ps.map fun p => (ns, p.1, p.2.1) } })

/-- A write within the cap is taken; at the cap it waits behind those that wait (R340), and runs that read its blocks read them as open from
its arrival on (R156). -/
def State.offerWrite (s : State) (w : WaitWrite) : State :=
  let (ps, s) := s.openPieces w.ns w.pieces
  let w := { w with pieces := ps }
  if w.pieces.isEmpty && s.acknowledges then s.succeed w.tag 0 0 []
  else if s.xlt.capWaits.isEmpty && s.acknowledges && s.fits (s.newUnits w.ns w.pieces) then s.takeWrite w
  else
    let s := s.noteWrite w.ns (w.pieces.map fun p => p.1 * 4 + p.2.1)
    { s with xlt := { s.xlt with capWaits := s.xlt.capWaits ++ [w] } }

/-- The oldest write that waits at the cap is taken once it fits (R340, R431). -/
def writeCapRelease (s : State) : State :=
  match s.xlt.capWaits with
  | w :: rest =>
    if s.powered && s.acknowledges && s.fits (s.newUnits w.ns w.pieces) then { s with xlt := { s.xlt with capWaits := rest } }.takeWrite w else s
  | [] => s

def execWriteCapRelease (s : State) : Host.Outcome State Fault Refusal := .next (writeCapRelease s)

/-- Fully covered units set UNMAPPED in the map, their buffered data dropped (R334). -/
def State.unmapUnits (s : State) (ns : Nat) (units : List Nat) : State :=
  let s := units.foldl (fun s u => s.setEntry ns u unmapped) (s.noteWrite ns (units.flatMap fun u => (List.range 4).map (u * 4 + ·)))
  { s with xlt := { s.xlt with buf := s.xlt.buf.filter fun b => !(b.ns == ns && units.contains b.unit) } }.landCheck

/-! ### Landing: page sets of host streams (R317, R341, R349) -/

/-- A buffered unit may come to its program: no earlier program of its unit is in flight, and while a shutdown runs it is one that the shutdown
lands (R341, R365, R396). -/
def State.mayLand (s : State) (b : BufUnit) : Bool :=
  b.inSet.isNone && !(s.xlt.buf.any fun c => c.ns == b.ns && c.unit == b.unit && c.inSet.isSome) &&
    (s.xlt.shutdowns.isEmpty || s.xlt.shutdowns.any fun x => decide (b.seq < x.2))

/-- A partly written unit needs its other slots from flash before its program (R341). -/
def State.needsFill (s : State) (b : BufUnit) : Bool := b.slots.any (fun d => d.isNone) && entMapped (s.entry b.ns b.unit)

/-- Units of a stream that may be placed, oldest first. -/
def State.readyUnits (s : State) (stream : Nat) : List BufUnit :=
  s.xlt.buf.filter fun b => s.mayLand b && s.streamOf b.ns == stream && !s.needsFill b

/-- A unit's four slots, the ones it leaves out read from flash (R341). -/
def State.fillSlots (s : State) (b : BufUnit) : List Bytes :=
  (List.range 4).map fun i => match b.slots.getD i none with
    | some d => d
    | none => match ({ s with xlt := { s.xlt with buf := [] } } : State).readSlot b.ns b.unit i with
      | .data d => d
      | _ => []

/-- Slots that a partly written unit needs from flash and cannot have: they are stored as zero, and the event is logged; a map fault makes the
unit LOST first (R334, R335, R341). -/
def State.fillUnit (s : State) (b : BufUnit) : State :=
  let at_ := fun i : Nat => ({ s with xlt := { s.xlt with buf := [] } } : State).readSlot b.ns b.unit i
  let bad := (List.range 4).filter fun i => (b.slots.getD i none).isNone && match at_ i with | .data _ => false | _ => true
  if bad.isEmpty then s
  else (if bad.any fun i => at_ i == .fault then s.mapFault b.ns b.unit else s).event 0x0008 0 3 noObj
    ([BitVec.ofNat 8 b.ns] ++ toLe 8 b.unit ++ [BitVec.ofNat 8 (maskOf bad)])

/-- The reads of the slots that units about to land leave out begin (R341). -/
def State.startFills (s : State) : State :=
  (s.xlt.buf.filter fun b => s.mayLand b && s.needsFill b && !s.reading (.fill b.ns b.unit)).foldl (fun s b =>
    let s := s.mended b.ns b.unit
    let e := s.entry b.ns b.unit
    s.startPlain (.fill b.ns b.unit) (((List.range 4).filter fun i => (b.slots.getD i none).isNone).map fun i => entAddr e i) true) s

/-- The slots that a unit leaves out have been read: they stand in the buffer, whatever could not be read as zero. -/
def State.fillDone (s : State) (ns unit : Nat) : State :=
  match s.xlt.buf.find? (isUnplaced ns unit) with
  | none => s
  | some b =>
    let slots := (s.fillSlots b).map some
    let s := s.fillUnit b
    { s with xlt := { s.xlt with buf := updateIf (isUnplaced ns unit) (fun b => { b with slots := slots }) s.xlt.buf } }

/-- Code words of a user unit. -/
def State.unitWords (s : State) (b : BufUnit) : List CWord :=
  (s.fillSlots b).map fun d => { data := trim d, ns := b.ns, unit := b.unit, key := (match s.ns? (b.ns + 1) with | some n => n.key | none => 0) }

/-- Host streams may take a superblock while that leaves RESERVE + 8 superblocks free (R349). -/
def hostMay (s : State) : Bool := decide (reserveBytes + 9 * superBytes ≤ s.freeBytes)

/-- An open program reservation of the session that wrote a unit is still to come in a pass that has begun: the unit waits for it (R172). Not in
a shutdown, nor once reservations have ended; DEDUCED: what the last of them leaves lands through unreserved die time. -/
def State.awaitsProgram (s : State) (b : BufUnit) : Bool :=
  match b.by_.bind s.sess? with
  | some x => s.reserves && s.xlt.shutdowns.isEmpty && match x.run.bind fun r => r.tt with
    | some t => t.suspended.isNone && (t.passesNear t.started s.stg.stage).any fun k => t.plan.entries.any fun e =>
        e.kind == .programOpen && (entryNext (t.passBase k) e (s.stg.stage + 1)).isSome
    | none => false
  | none => false

/-- One page set of a host stream issued, of units that a test selects, on a channel that a test allows, under a session's reservation or under
none: whether anything was issued. -/
def State.placeSet (stream : Nat) (may : State → Bool) (ok : Nat → Bool) (sel : BufUnit → Bool) (sess : Option Nat) (s : State) : Bool × State :=
  match (s.readyUnits stream).filter sel with
  | [] => (false, s)
  | _ =>
    match State.nextPlace stream false may ok 4 s with
    | (none, s) => (false, s)
    | (some (sb, row, c), s) =>
      let ps := s.dataPlanes sb row c (isStolrak stream)
      let us := ps.zip ((s.readyUnits stream).filter sel)
      let s := us.foldl (fun s p => s.fillUnit p.2) s
      match s.issueSet sb row c stream (setPages ps (us.flatMap fun p => s.unitWords p.2)) (us.map fun p => (p.1, p.2.ns, p.2.unit)) sess with
      | (none, s) => (false, s)
      | (some id, s) =>
        let mine := fun b : BufUnit => b.inSet.isNone && us.any fun p => p.2.ns == b.ns && p.2.unit == b.unit
        (true, { s with xlt := { s.xlt with buf := updateIf mine (fun b => { b with inSet := some id }) s.xlt.buf } })

/-- Page sets of a host stream issued in unreserved die time, as many as dies, rows and seats allow. -/
def placeStream (stream : Nat) (may : State → Bool) : Nat → State → State
  | 0, s => s
  | fuel + 1, s => match State.placeSet stream may (fun _ => true) (fun b => !s.awaitsProgram b) none s with
    | (true, s) => placeStream stream may fuel s
    | (false, s) => s

/-- An open program reservation of a session on a channel comes to its stage: a page set of the units that the session's NS_WRITEs have put
into the buffer is programmed on the channel's die in the superblock of their stream, where that die is free and reserved by nobody for all of
the program; else the fill lapses with its seats, and the units land in unreserved die time (R172, R504). -/
def State.fillProgram (s : State) (sess chan : Nat) : State :=
  let mine := fun b : BufUnit => b.by_ == some sess
  let lapse := fun s : State => s.tt fun t => { t with seatsLapsed := t.seatsLapsed + 16 }
  match (List.range 8).find? fun k => (s.readyUnits k).any mine with
  | none => lapse s
  | some k => match State.placeSet k hostMay (fun c => c == chan) mine (some sess) s with
    | (true, s) => s
    | (false, s) => lapse s

def placeHost (may : State → Bool) (s : State) : State := (List.range 8).foldl (fun s k => placeStream k may s.xlt.buf.length s) s

/-! ### Copies by the movers (R353, R354) -/

/-- Page sets of a copy stream issued once their sources are read: DATA and SLOT as they stand on the media. -/
def placeCopies (stream : Nat) : Nat → State → State
  | 0, s => s
  | fuel + 1, s =>
    let ready := s.xlt.copies.filter fun c => c.stream == stream && c.inSet.isNone && c.target.isNone && !s.reading (.copy c.ns c.unit)
    match ready with
    | [] => s
    | _ =>
      match State.nextPlace stream false (fun _ => true) (fun _ => true) 4 s with
      | (none, s) => s
      | (some (sb, row, c), s) =>
        let ps := s.dataPlanes sb row c (isStolrak stream)
        let us := ps.zip ready
        let words := us.flatMap fun p => (List.range 4).map fun i => s.word (entAddr p.2.srcEntry i)
        match s.issueSet sb row c stream (setPages ps words) (us.map fun p => (p.1, p.2.ns, p.2.unit)) none with
        | (none, s) => s
        | (some id, s) =>
          let mine := fun k : Copy => k.stream == stream && k.inSet.isNone && k.target.isNone && us.any fun p => p.2.ns == k.ns && p.2.unit == k.unit
          placeCopies stream fuel { s with xlt := { s.xlt with copies := updateIf mine (fun k => { k with inSet := some id }) s.xlt.copies } }

def placeMovers (s : State) : State := [8, 9, 10].foldl (fun s k => placeCopies k s.xlt.copies.length s) s

/-- Array programs that a stage issues: host streams first, the movers first where the reserve is short of 8 superblocks and no
dirty data exceeds the cap (R349, R352, R431); in limp mode and the clock-failed state the buffer alone, into the free reserve too (R52,
R478). -/
def placeStage (s : State) : State :=
  let s := if s.flashClock then s.startFills else s
  if !s.flashClock then s
  else if s.limpServes then placeHost (fun _ => true) s
  else if s.xlt.shutdowns.isEmpty && decide (s.freeBytes < reserveBytes + 8 * superBytes) && s.fits 0 then placeHost hostMay (placeMovers s)
  else placeMovers (placeHost hostMay s)

/-! ### Shutdown (R365, R396) -/

/-- Changed leaves written; they stay in the cache unchanged. -/
def State.writeLeaves (s : State) : State := s.writeLeafList ((s.xlt.cached.filter fun e => e.2).map fun e => e.1)

/-- A mark that is due is written once every leaf that it covers is in flash; it carries CLEAN only where no program is in flight and nothing is
dirty (R365). -/
def State.markCheck (s : State) : State :=
  match s.xlt.markDue with
  | none => s
  | some m =>
    if s.xlt.sets.any fun p => p.stream == 11 then s
    else
      let clean := m.clean && s.xlt.sets.isEmpty && s.xlt.buf.isEmpty && !s.xlt.cached.any fun e => e.2
      ({ s with xlt := { s.xlt with markDue := none } } : State).putMark { m with clean := clean }

/-- A mark is wanted: the changed leaves are written, the mark follows them. -/
def State.wantMark (s : State) (clean : Bool) : State :=
  let s := s.writeLeaves
  { s with xlt := { s.xlt with markDue := some (s.newMark clean) } }.markCheck

/-- A shutdown whose units have landed: changed leaves, then the CLEAN mark; once their programs have passed, shutdown complete is reported. -/
def State.finishShutdown (s : State) : State :=
  match s.xlt.shutdowns with
  | [] => s
  | l =>
    if !s.xlt.sets.isEmpty || s.xlt.buf.any fun b => l.any fun x => decide (b.seq < x.2) then s
    else
      let s := if s.ns.formatPending then s else s.writeLeaves
      let s := if s.xlt.sets.isEmpty && !s.xlt.cleanMark && !s.ns.formatPending then s.pushMark true else s
      if !s.xlt.sets.isEmpty then s
      else l.foldl (fun s x => s.updCtrl x.1 fun c => { c with shst := 2 }) { s with xlt := { s.xlt with shutdowns := [] } }

/-! ### Passing and failing (R320, R342, R354) -/

/-- A unit of a host set has passed: its entry names the page, its locators are made, its data leaves the buffer. -/
def State.passUnit (p : PageSet) (s : State) (u : Nat × Nat × Nat) : State :=
  match s.xlt.buf.find? fun b => b.ns == u.2.1 && b.unit == u.2.2 && b.inSet == some p.id with
  | none => s
  | some b =>
    let e := mkEntry p.stamp u.1 (ppa p.die p.block p.page)
    let s := s.setEntry u.2.1 u.2.2 e
    let mine := fun w : WaitLand => w.ns == some u.2.1 && decide (b.seq < w.upTo) && decide (w.upTo ≤ b.last + 1)
    let fill := fun w : WaitLand => { w with locate := w.locate.map fun l =>
      if l.1 = u.2.2 && l.2.2.isEmpty then (l.1, l.2.1, s.locator u.2.1 l.2.1 e) else l }
    { s with xlt := { s.xlt with
      landWaits := updateIf mine fill s.xlt.landWaits
      buf := s.xlt.buf.filter fun c => !(c.ns == u.2.1 && c.unit == u.2.2 && c.inSet == some p.id) } }

/-- A copy's set has passed: its page is sensed again, and the copy awaits its verify (R353). -/
def State.passCopy (p : PageSet) (s : State) (u : Nat × Nat × Nat) : State :=
  let mine := fun k : Copy => k.ns == u.2.1 && k.unit == u.2.2 && k.inSet == some p.id
  let t := mkEntry p.stamp u.1 (ppa p.die p.block p.page)
  ({ s with xlt := { s.xlt with copies := updateIf mine (fun k => { k with inSet := none, target := some t }) s.xlt.copies } } : State).startPlain
    (.verify u.2.1 u.2.2) [entAddr t 0] false

/-- A version back to be placed, under a newer version of the same unit where one waits. -/
def mergeBack (id : Nat) (l : List BufUnit) : List BufUnit :=
  let back := fun b : BufUnit =>
    if b.inSet = some id then
      match l.find? (isUnplaced b.ns b.unit) with
      | some n => { b with inSet := none, last := n.last, slots := (List.range 4).map fun i => match n.slots.getD i none with | some d => some d | none => b.slots.getD i none }
      | none => { b with inSet := none }
    else b
  (l.filter fun b => !(b.inSet.isNone && l.any fun c => c.ns == b.ns && c.unit == b.unit && c.inSet == some id)).map back

/-- A superblock abandoned: closed as it stands (R354). -/
def State.abandon (s : State) (i : Nat) : State := if (s.sb i).st == .opened then s.closeSb i else s

/-- A plane of a page set failed its program: the plane block is retired (R320). -/
def State.failPlane (p : PageSet) (s : State) (q : Nat) : State :=
  (s.health fun h => { h with programFail := h.programFail + 1 }).retire (pbKey p.die q p.block) 1

/-- A program is over: the code words of the planes that passed stand, the others' plane blocks are retired. -/
def State.settle (s : State) (p : PageSet) (failed : List Nat) : State :=
  let words := s.fla.words.map fun e =>
    let pb := e.1 / 2048
    if pbDie pb = p.die && pbBlock pb = p.block && e.1 / 4 % 512 = p.page && !failed.contains (pbPlane pb) && e.2.stamp = p.stamp
    then (e.1, { e.2 with undefined := false }) else e
  let s := { s with xlt := { s.xlt with sets := s.xlt.sets.filter fun x => x.id != p.id }, fla := { s.fla with words := words } }
  failed.foldl (State.failPlane p) s

/-- A program of host units or copies ends with its failed planes: a set passes as a whole or is placed again. -/
def State.endProgram (s : State) (p : PageSet) (failed : List Nat) : State :=
  let failed := failed.filter p.planes.contains
  let s := s.settle p failed
  if failed.isEmpty then
    if p.stream ≤ 7 then (p.units.foldl (State.passUnit p) s).landCheck else p.units.foldl (State.passCopy p) s
  else if p.stream ≤ 7 then { s with xlt := { s.xlt with buf := mergeBack p.id s.xlt.buf } }
  else
    let s := s.abandon (sbOf p.die p.block)
    { s with xlt := { s.xlt with copies := updateIf (fun k => k.inSet == some p.id) (fun k => { k with inSet := none }) s.xlt.copies } }

/-! ### Garbage collection (R352 to R355) -/

/-- The victim: the closed superblock of streams 0 to 7 with the fewest valid units, the lower index among equals (R352). -/
def State.victim (s : State) : Option Nat :=
  (s.xlt.sbs.foldl (fun (best : Option (Nat × Nat)) e =>
    if e.2.st == .closed && e.2.stream ≤ 7 then
      let v := s.sbValid e.1
      if v = 0 then best
      else match best with
        | some (n, _) => if v < n then some (v, e.1) else best
        | none => some (v, e.1)
    else best) none).map fun b => b.2

/-- The movers and the other upkeep run: in service, neither in limp mode nor with the root clock lost, the channels not stopped (R49, R478,
R502). -/
def State.upkeep (s : State) : Bool := s.flashClock && s.boot.mode == .ready && !s.limpServes

/-- A unit is queued to be copied from where its entry names it: its source is read first (R353). -/
def State.queueCopy (s : State) (stream ns unit : Nat) : State :=
  let s := s.mended ns unit
  let e := s.entry ns unit
  if !entMapped e || (s.xlt.copies.any fun k => k.ns == ns && k.unit == unit) then s
  else ({ s with xlt := { s.xlt with copies := s.xlt.copies ++ [⟨ns, unit, e, stream, none, none⟩] } } : State).startPlain
    (.copy ns unit) ((List.range 4).map fun i => entAddr e i) true

/-- A copy's source has been read: a page that fails its checks is a map fault, and the copy is dropped (R335). -/
def State.copyRead (s : State) (ns unit : Nat) : State :=
  match s.xlt.copies.find? fun k => k.ns == ns && k.unit == unit with
  | none => s
  | some k =>
    if (List.range 4).all fun i => wordChecks (s.word (entAddr k.srcEntry i)) ns unit i (entStamp k.srcEntry) then s
    else
      let s := { s with xlt := { s.xlt with copies := s.xlt.copies.filter fun x => !(x.ns == ns && x.unit == unit) } }
      if s.entry ns unit = k.srcEntry then s.mapFault ns unit else s

/-- A mover takes a valid unit of the victim (R352, R353). -/
def gcCopy (ns unit : Nat) (s : State) : State :=
  let e := s.entry ns unit
  if s.upkeep && entMapped e && s.victim == some (entSb e) && decide (s.freeBytes < reserveBytes + 128 * superBytes) then
    (s.queueCopy (if isStolrak (s.sb (entSb e)).stream then 9 else 8) ns unit).checkFull
  else s

def execGcCopy (ns unit : Nat) (s : State) : Host.Outcome State Fault Refusal := .next (gcCopy ns unit s)

/-- The accumulator of a superblock that awaits its verify is dropped once none of its units is still to be rewritten (R357). -/
def State.verifyDone (s : State) (i : Nat) : State :=
  if s.xlt.accOpen.contains i && (s.sb i).st == .closed && !s.xlt.toVerify.contains i && !(s.xlt.copies.any fun k => entSb k.srcEntry == i) then s.dropAcc i else s

/-- The target is sensed again: a good copy replaces the map entry where that still names the source, and is dropped as invalid
otherwise; a bad one abandons the target superblock, marks its plane block SUSPECT and is copied again (R353, R354). -/
def gcVerify (ns unit : Nat) (ok : Bool) (s : State) : State :=
  match s.xlt.copies.find? fun k => k.ns == ns && k.unit == unit with
  | none => s
  | some k =>
    match k.target with
    | none => s
    | some t =>
      if !s.flashClock || s.reading (.verify ns unit) then s
      else
        let w := s.word (entAddr t 0)
        if ok && w.ns == ns && w.unit == unit && !w.undefined then
          let s := { s with xlt := { s.xlt with copies := s.xlt.copies.filter fun x => !(x.ns == ns && x.unit == unit) } }
          let src := entSb k.srcEntry
          let s := if s.entry ns unit = k.srcEntry then
              let x := s.sb src
              (s.setSb src { x with copyStamp := max x.copyStamp w.stamp }).setEntry ns unit t
            else s
          s.verifyDone src
        else
          let s := { s with
            fla := { s.fla with suspect := if s.fla.retired.contains (entPb t) then s.fla.suspect else insertNat (entPb t) s.fla.suspect }
            xlt := { s.xlt with copies := updateIf (fun x => x.ns == ns && x.unit == unit) (fun x => { x with target := none }) s.xlt.copies } }
          s.abandon (entSb t)

def execGcVerify (ns unit : Nat) (ok : Bool) (s : State) : Host.Outcome State Fault Refusal := .next (gcVerify ns unit ok s)

/-- A fixed read of a running pass names a page of the superblock (R181). -/
def State.passNames (s : State) (i : Nat) : Bool :=
  s.tables.any fun t => t.2.plan.entries.any fun e => (e.kind == .dieRead || e.kind == .seat) && e.words.any fun w => sbOf w.die w.block == i

/-- Dies of a superblock in service. -/
def State.sbDies (s : State) (i : Nat) : List Nat := ((List.range 64).map (sbDie i)).filter fun d => !(s.planesIn d (sbBlock i)).isEmpty

/-- A closed superblock with nothing valid, whose copies are all mapped and covered by a mark, which no fixed read names, is
erased on every die (R352, R355). -/
def superblockErase (i : Nat) (s : State) : State :=
  let x := s.sb i
  let covered := x.copyStamp = 0 || s.xlt.marks.any fun m => decide (x.copyStamp ≤ m.stamp)
  if s.upkeep && decide (i < 65536) && x.st == .closed && s.sbValid i == 0 && !(s.xlt.copies.any fun k => entSb k.srcEntry == i) && covered &&
      !s.passNames i && !s.xlt.toVerify.contains i && !(s.sbDies i).any fun d => (s.fla.ops.any fun o => o.die == d) || s.dieReserved d s.stg.stage s.fla.tErase then
    let s := (s.sbDies i).foldl (fun s d => s.issueErase d (sbBlock i)) s
    (s.setSb i { x with st := .erasing }).dropAcc i
  else s

def execSuperblockErase (i : Nat) (s : State) : Host.Outcome State Fault Refusal := .next (superblockErase i s)

/-! ### Walks of verifies (R357, R361) -/

/-- Pages of a die's block that a walk over some planes senses: those below NEXT of any. -/
def State.walkLast (s : State) (die block : Nat) (planes : List Nat) : Nat := (planes.map fun q => s.nextOf (pbKey die q block)).foldl max 0

/-- The next page set of a walk is sensed once its die has nothing to do (R357, R361). -/
def State.walkOn (s : State) (key die block : Nat) (planes : List Nat) : State :=
  let p := Tab.get 0 s.xlt.walks key
  if s.walkLast die block planes ≤ p || planes.isEmpty || s.fla.ops.any fun o => o.die == die then s
  else { s with xlt := { s.xlt with walks := Tab.set 0 s.xlt.walks key (p + 1) } }.queueSense die block p planes

/-- Every page set of a walk has been sensed. -/
def State.walked (s : State) (key die block : Nat) (planes : List Nat) : Bool :=
  decide (s.walkLast die block planes ≤ Tab.get 0 s.xlt.walks key) &&
    !(s.fla.ops.any fun o => o.die == die && !o.ended && match o.work with | .sense b _ _ => b == block | _ => false)

/-- Keys of the walks. -/
def sbWalk (die block : Nat) : Nat := die * 4096 + block
def pbWalk (pb : Nat) : Nat := 2 ^ 30 + pb

/-- Senses of the verifies of closed superblocks at a boundary. -/
def State.verifyTick (s : State) : State :=
  s.xlt.toVerify.foldl (fun s i => (s.sbDies i).foldl (fun s d => s.walkOn (sbWalk d (sbBlock i)) d (sbBlock i) (s.planesIn d (sbBlock i))) s) s

/-- A superblock's verify walk has ended. -/
def State.sbWalked (s : State) (i : Nat) : Bool := (s.sbDies i).all fun d => s.walked (sbWalk d (sbBlock i)) d (sbBlock i) (s.planesIn d (sbBlock i))

/-- Units that no parity can rebuild become LOST, where their entry still names the failing page (R357, R358, R360). -/
def State.loseListed (s : State) (p : BitVec 64 → Bool) (l : List (Nat × Nat)) : State :=
  l.foldl (fun s u => let e := s.entry u.1 u.2; if entMapped e && p e then s.loseUnit u.1 u.2 3 else s) s

/-- A closed native superblock is verified: units to rewrite go to stream 10, units that do not decode even with parity are
LOST, and the accumulator is dropped once all is rewritten (R357). -/
def superblockCloseVerify (i : Nat) (rewrite lost : List (Nat × Nat)) (s : State) : State :=
  if s.flashClock && s.xlt.toVerify.contains i && !(s.xlt.sets.any fun p => sbOf p.die p.block == i) && s.sbWalked i then
    let s := { s with xlt := { s.xlt with walks := (s.sbDies i).foldl (fun t d => Tab.set 0 t (sbWalk d (sbBlock i)) 0) s.xlt.walks } }
    let s := s.loseListed (fun e => entSb e == i) lost
    let s := rewrite.foldl (fun s u => if entSb (s.entry u.1 u.2) = i then s.queueCopy 10 u.1 u.2 else s) s
    { s with xlt := { s.xlt with toVerify := s.xlt.toVerify.erase i } }.verifyDone i
  else s

def execSuperblockCloseVerify (i : Nat) (rewrite lost : List (Nat × Nat)) (s : State) : Host.Outcome State Fault Refusal :=
  .next (superblockCloseVerify i rewrite lost s)

/-! ### Patrol (R361 to R363) -/

/-- Position of a plane block in superblock index order. -/
def patrolOrder (pb : Nat) : Nat := pbSb pb * 256 + chanOf (pbDie pb) * 4 + pbPlane pb

/-- Plane blocks in service that hold programmed pages. -/
def State.patrolBlocks (s : State) : List Nat :=
  ((s.fla.words.map fun e => e.1 / 2048).eraseDups).filter fun pb => s.dieIn (pbDie pb) && !s.fla.retired.contains pb

/-- The plane block that patrol verifies next: the head of its queue, else the next one from the cursor, wrapping. -/
def State.patrolNext (s : State) : Option Nat :=
  match s.xlt.patrolQueue with
  | pb :: _ => some pb
  | [] =>
    let least := fun (l : List Nat) => l.foldl (fun (b : Option Nat) pb => match b with
      | some x => if patrolOrder pb < patrolOrder x then some pb else b
      | none => some pb) none
    match least (s.patrolBlocks.filter fun pb => decide (s.xlt.patrolCursor ≤ patrolOrder pb)) with
    | some pb => some pb
    | none => least s.patrolBlocks

/-- Valid units of a plane block. -/
def State.pbUnits (s : State) (pb : Nat) : List (Nat × Nat) :=
  (s.xlt.map.filter fun e => entMapped e.2 && entPb e.2 == pb).map fun e => (e.1 / 2 ^ 40, e.1 % 2 ^ 40)

/-- Pages of a die's block that hold code words, ascending. -/
def State.blockPages (s : State) (die block : Nat) : List Nat :=
  (s.fla.words.filter fun e => pbDie (e.1 / 2048) == die && pbBlock (e.1 / 2048) == block).foldl (fun l e => insertNat (e.1 / 4 % 512) l) []

/-- A page of a die's block programmed in the same page of a superblock of its own, DATA and SLOT unchanged, as a program of its own. -/
def State.movePage (die block sb : Nat) (s : State) (page : Nat) : State :=
  let ps := (List.range 4).filter fun q => s.fla.words.any fun e => e.1 / 4 == cwKey ⟨die, q, block, page, 0⟩ / 4
  let pages := ps.map fun q => (q, (List.range 4).map fun c => { s.word ⟨die, q, block, page, c⟩ with raw := none, void := false })
  ((s.queueSense die block page ps).freeSeats (chanOf die) (4 * ps.length)).queueSet sb page (chanOf die) 14 pages

/-- A block of a generation moved to another superblock of stream 14, recorded in the generation's relocation list of 256 entries, or
marking the generation degraded where the list is full; then the old block is erased (R249). -/
def State.moveGenBlock (s : State) (pb : Nat) : State :=
  let i := pbSb pb
  if !(s.ns.list.any fun n => n.gens.any fun g => g.sbs.contains i) then s
  else match s.allocSb 14 with
    | none => s
    | some (k, s) =>
      let s := s.closeSb k
      let die := pbDie pb
      let block := pbBlock pb
      let die' := sbDie k (chanOf die)
      let block' := sbBlock k
      let s := (s.blockPages die block).foldl (State.movePage die block k) s
      let place := fun (d b p : Nat) => (d * 4096 + b) * 2 ^ 17 + s.genOf p
      let old := place die block pb
      let new := place die' block' (pbKey die' (pbPlane pb) block')
      let upd := fun g : Gen => if g.sbs.contains i then
          let g := { g with codePages := g.codePages.map fun p : Nat × Nat => if p.1 / 2 ^ 21 = die ∧ p.1 / 512 % 4096 = block then ((die' * 4096 + block') * 512 + p.1 % 512, p.2) else p }
          (if g.reloc.length < 256 then { g with reloc := g.reloc ++ [(old, new)], sbs := insertNat k g.sbs } else { g with degraded := true, sbs := insertNat k g.sbs })
        else g
      let s : State := { s with ns := { s.ns with list := s.ns.list.map fun n => { n with gens := n.gens.map upd } } }
      s.queueOp die (.erase block (s.planesIn die block)) s.fla.tErase

/-- What names a code word of firmware's own names its new place: a leaf's index word, a mark's copy, a lock record, a generation's copy of the code
layer. -/
def State.rehome (s : State) (old new : CwAddr) : State :=
  let mv := fun l : List CwAddr => l.map fun a => if a = old then new else a
  { s with
    xlt := { s.xlt with
      leafIndex := s.xlt.leafIndex.map fun e => if e.2 = leafPlace old then (e.1, leafPlace new) else e
      marks := s.xlt.marks.map fun m => { m with places := mv m.places } }
    ns := { s.ns with list := s.ns.list.map fun n => { n with lockAt := mv n.lockAt } } }

/-- Code words of a page set, as the hub has them. -/
def State.setWords (s : State) (p : PageSet) : List CWord := (setAddrs p.die p.block p.page p.planes).map fun a => { s.word a with undefined := false }

/-- What a page set of firmware's own or of parity held in failed planes is placed again (R320): parity on its row's next channel, a generation's
block as a whole, the rest in the next page set of its stream. -/
def State.placeAgain (s : State) (p : PageSet) (failed : List Nat) (words : List CWord) : State :=
  let i := sbOf p.die p.block
  if p.stream = 14 then s.moveGenBlock (pbKey p.die (failed.headD 0) p.block)
  else if isStolrak p.stream then
    failed.foldl (fun t q => t.putParityOn i p.page p.stream (t.parityChan i p.page q)
      [(q, (List.range 4).map fun c => { s.word ⟨p.die, q, p.block, p.page, c⟩ with undefined := false })]) s
  else
    let (l, s) := State.firmwareWrite p.stream (fun _ => true) words.length words s
    ((setAddrs p.die p.block p.page p.planes).zip l).foldl (fun s x => s.rehome x.1 x.2) s

/-- A program of firmware's own or of parity ends with its failed planes. -/
def State.endFirmware (s : State) (p : PageSet) (failed : List Nat) : State :=
  let failed := failed.filter p.planes.contains
  let words := s.setWords p
  let s := s.settle p failed
  if failed.isEmpty then s else s.placeAgain p failed words

/-- A plane block's valid units are queued to be written elsewhere, and generation pages move with their block. -/
def State.rewriteBlock (s : State) (pb : Nat) : State :=
  let stream := if isStolrak (s.sb (pbSb pb)).stream then 9 else 10
  (s.pbUnits pb).foldl (fun s u => s.queueCopy stream u.1 u.2) (s.moveGenBlock pb)

/-- Patrol's next sense at a boundary, of the plane block that it verifies (R361). -/
def State.patrolTick (s : State) : State :=
  match (if s.upkeep then s.patrolNext else none) with
  | some pb => s.walkOn (pbWalk pb) (pbDie pb) (pbBlock pb) [pbPlane pb]
  | none => s

/-- Patrol's verify of a plane block whose page sets it has all sensed (R361, R363). -/
def patrolVerify (pb : Nat) (v : Verify) (lost : List (Nat × Nat)) (s : State) : State :=
  if !s.upkeep || s.patrolNext != some pb || !s.walked (pbWalk pb) (pbDie pb) (pbBlock pb) [pbPlane pb] then s
  else
    let fromCursor := s.xlt.patrolQueue.isEmpty
    let s := { s with xlt := { s.xlt with
      walks := Tab.set 0 s.xlt.walks (pbWalk pb) 0
      patrolQueue := s.xlt.patrolQueue.filter fun x => x != pb
      patrolCursor := if fromCursor then patrolOrder pb + 1 else s.xlt.patrolCursor } }
    match v with
    | .pass => { s with fla := { s.fla with reads := Tab.set 0 s.fla.reads pb 0 } }
    | .refresh => (s.health fun h => { h with verifyRefresh := h.verifyRefresh + 1 }).rewriteBlock pb
    | .weak =>
      let s := s.health fun h => { h with verifyWeak := h.verifyWeak + 1 }
      let s := s.loseListed (fun e => entPb e == pb) lost
      let s := s.rewriteBlock pb
      if s.fla.suspect.contains pb then s.retire pb 3 else { s with fla := { s.fla with suspect := insertNat pb s.fla.suspect } }

def execPatrolVerify (pb : Nat) (v : Verify) (lost : List (Nat × Nat)) (s : State) : Host.Outcome State Fault Refusal :=
  .next (patrolVerify pb v lost s)

/-! ### Journal marks (R364, R365) -/

/-- Firmware writes a mark after every changed leaf. -/
def journalMark (clean : Bool) (s : State) : State :=
  if s.powered && s.stg.loaded && s.boot.mode != .diagnostic && !s.clk.failed && !s.ns.formatPending then s.wantMark clean else s

def execJournalMark (clean : Bool) (s : State) : Host.Outcome State Fault Refusal := .next (journalMark clean s)

end Sys2Proof.Machine
end

