-- ==== Sys2Proof/Machine/Runs.lean ====
section
/-! DEFINITION. A run at work: where its tensors live, stream groups and their window, the operations of a pass, namespace reads and
writes, EMIT, and the end of a pass (R130 to R162, R196, R197, R200, R209 to R211, R295, R296, R503, R504). -/

namespace Sys2Proof.Machine

/-! ### The run of a session -/

def State.run? (s : State) (n : Nat) : Option (Session × Run) :=
  match s.sess? n with
  | some x => match x.run with
    | some r => some (x, r)
    | none => none
  | none => none

def State.updRun (s : State) (n : Nat) (f : Run → Run) : State := s.updSess n fun x => { x with run := x.run.map f }
/-- A session holds its partition's teams and its coaches issue (R226, R229, R234). -/
def State.holds (s : State) (x : Session) : Bool :=
  match x.part with
  | none => false
  | some p => match s.part? p with
    | none => false
    | some q => q.holder == some x.num && (match q.switch with | none => true | some (.deferred _) => true | some (.moving b _ _) => decide (s.stg.stage < b) | _ => false)

/-- A session holds its partition's teams in the next stage, as things stand: its coaches issue then (R229, R230). -/
def State.holdsNext (s : State) (x : Session) : Bool :=
  match x.part with
  | none => false
  | some p => match s.part? p with
    | none => false
    | some q => match q.switch with
      | none | some (.deferred _) => q.holder == some x.num
      | some (.moving b _ _) => q.holder == some x.num && decide (s.stg.stage + 1 < b)
      | some (.restored n) => n == x.num

/-- A bound timetable that is not suspended. -/
def ttLive (t : Option Timetable) : Bool := match t with | some t => t.suspended.isNone | none => false

/-- Stage in its pass in which the coach cycles of an operation end, none held ending in stage 0. -/
def opEnd (p : TtPlan) (op : Nat) : Nat := ((p.entries.filter fun e => e.kind == .coach && e.op == op).map fun e => e.stage + (e.rep - 1) * e.stride).foldl max 0

/-- Stage in its pass in which an operation's results stand: the end of its own work or, where the binder has moved an operation that
precedes it in the table behind it, the end of that one's, since the pass gives what the records give in table order (R10, R136; DEDUCED). -/
def opDue (p : TtPlan) (op : Nat) : Nat := ((List.range (op + 1)).map (opEnd p)).foldl max 0

/-- Start of the pass that a run is in: passes begin in order and may overlap (R165). -/
def Run.passStart (r : Run) (t : Timetable) : Nat := t.passBase (r.done - t.first)

/-- Stage in which an operation of the pass in progress falls due, after every shift. -/
def Run.opStage (r : Run) (t : Timetable) (op : Nat) : Nat := r.passStart t + opDue t.plan op

/-- A run's operations execute. -/
def State.runLive (s : State) (x : Session) (r : Run) : Bool := s.coreClock && s.holds x && ttLive r.tt && r.fault == 0 && !r.stalled

/-! ### Where tensors live (R133, R158) -/

/-- What reading a tensor gives: its bytes, the 4 KiB pieces that gave nothing and those whose word failed its checks, a fault code of
R161, or that nothing of it is known (R129, R156, R158, R404). -/
structure Got where
  bytes : Bytes := []
  bad : List Nat := []
  faulty : List Nat := []
  code : Nat := 0
  unknown : Bool := false
deriving DecidableEq, Repr

/-- The half of the window that the group in place uses: the n-th group of the run, from 0, uses half n mod 2 (R200). -/
def Run.half (r : Run) : Nat := (r.groups + 1) % 2

/-- The slot entry of a tensor, where it has the kind its placement needs. -/
def Run.slot? (r : Run) (t : Tensor) : Option RunSlot :=
  match runSlot? r.block t.slot with
  | some sl => if sl.kind = t.place then some sl else none
  | none => none

/-- The namespace of a slot with the extent's first byte and length. -/
def State.extent (s : State) (sl : RunSlot) : Option (Ns × Nat × Nat) := (s.ns? sl.nsid).map fun n => (n, sl.start * n.lba, sl.length * n.lba)

/-- The part of a session's quota that coaches reach: host and working parts (R195). -/
def reach (x : Session) : Nat := (x.quota.granules - x.quota.prot) * granule

/-- A namespace was created or formatted after the run's pass began: its reads are open (R404, R405). -/
def State.changedUnder (n : Ns) (r : Run) : Bool :=
  match r.tt with
  | some t => decide (t.start < stampStage n.created)
  | none => false

/-- Two slots name extents that meet. -/
def slotsMeet (a b : RunSlot) : Bool := a.kind == 2 && b.kind == 2 && a.nsid == b.nsid && overlaps a.start a.length b.start b.length

/-- A run writes the extent of a slot with some NS_WRITE (R156). -/
def Run.writesSlot (r : Run) (sl : RunSlot) : Bool :=
  (nsTargets r.route.image).any fun i => match r.slot? (imgTensor r.route.image i) with | some w => slotsMeet w sl | none => false

/-- Map entry by which fixed reads of a run find a unit: as the bind read it (R170, R180). -/
def State.fixedEntry (s : State) (r : Run) (ns unit : Nat) : BitVec 64 :=
  match r.tt with
  | some t => BitVec.ofNat 64 (Tab.get unmapped.toNat t.layout (mapKey ns unit))
  | none => s.entry ns unit

/-- What a 4 KiB piece of a fixed-read extent gives the pass in progress: buffered data, the zeros of an unmapped unit, or what the seat of its
code word brought in an earlier stage than this one; none where the seat has brought nothing (R13, R15, R201). Its page is the one that the
map named at the bind (R170, R180). -/
def State.fixedSlot (s : State) (r : Run) (ns unit slot : Nat) : Option SlotRead :=
  let e := s.fixedEntry r ns unit
  if (s.buffered ns unit slot).isSome || !entMapped e then some (s.readSlot ns unit slot)
  else match r.landed.find? fun l => l.1 == r.done && l.2.1 == cwKey (entAddr e slot) && decide (l.2.2.1 < s.stg.stage) && l.2.2.2.isSome with
    | some (_, _, _, some d) => some (.data d)
    | _ => none

/-- Key under which a run keeps what an open read of a GATHER brought for a 4 KiB piece. -/
def openKey (ns unit slot : Nat) : Nat := 2 ^ 64 + mapKey ns unit * 4 + slot

/-- What a piece that a GATHER takes gives the pass in progress: buffered data, the zeros of an unmapped unit, or what a filled open read brought
in an earlier stage than this one (R13, R171, R209). -/
def State.openSlot (s : State) (r : Run) (ns unit slot : Nat) : Option SlotRead :=
  if (s.buffered ns unit slot).isSome || !entMapped (s.entry ns unit) then some (s.readSlot ns unit slot)
  else match r.landed.find? fun l => l.1 == r.done && l.2.1 == openKey ns unit slot && decide (l.2.2.1 < s.stg.stage) && l.2.2.2.isSome with
    | some (_, _, _, some d) => some (.data d)
    | _ => none

/-- Reads of n bytes of a namespace extent, piece by piece, by a reader of 4 KiB pieces. A piece that a command has written, or waits to
write, since the bind is open (R156, R177). -/
def State.readPieces (r : Run) (ns : Ns) (off n : Nat) (read : Nat → Nat → Nat → Option SlotRead) : Got :=
  let pieces := (List.range (ceilDiv n 4096)).map fun i => (i, read (ns.nsid - 1) ((off / 4096 + i) / 4) ((off / 4096 + i) % 4))
  { bytes := fit n (pieces.flatMap fun p => match p.2 with | some (.data d) => fit 4096 d | _ => zeros 4096)
    bad := (pieces.filter fun p => match p.2 with | some (.data _) => false | _ => true).map fun p => p.1
    faulty := (pieces.filter fun p => p.2 == some .fault).map fun p => (off / 4096 + p.1) / 4
    unknown := pieces.any fun p => r.dirty.contains (slotKey (ns.nsid - 1) (off / 4096 + p.1)) }

/-- A link that the DRAM lines of a run's pass cross has left service since its bind: what they were to bring misses (R182; DEDUCED: lines are not
matched with single holds of their package). -/
def State.linesCut (s : State) (r : Run) : Bool :=
  match r.tt with
  | some t => t.topoGen != s.ses.topoGen && t.plan.links.any fun h => decide (256 ≤ h.src) && decide (h.src < 268) &&
      (routeHops h.src h.dst (s.routeOrder h.src h.dst == 1)).any fun l => s.fab.linksOut.contains l.1
  | none => false

/-- Every piece of n bytes missed. -/
def Got.cut (n : Nat) (g : Got) : Got := { g with bad := List.range (ceilDiv n 4096) }

/-- A tensor read where its placement puts it: a namespace extent by fixed reads, or for a GATHER by filled open reads. An extent that the run
writes itself is open, but for the staged copy of a STAGE_IN (R144, R156). DESIGN CHOICE (log 71): a CONSTANT tensor reads zero beyond its
CONST_SIZE bytes. -/
def State.readPlaced (s : State) (x : Session) (r : Run) (i : Nat) (opened staged : Bool) : Got × State :=
  let t := imgTensor r.route.image i
  let n := t.bytes
  match t.place with
  | 0 => ({ bytes := fit n (Tab.get [] r.tensors i) }, s)
  | 3 =>
    match Tab.get [] r.tensors i with
    | [] =>
      let g : Got := { bytes := fit n (slice (sectionBytes r.route.image 0x10) t.constOff (min t.constSize n)) }
      (if s.linesCut r then g.cut n else g, s)
    | b => ({ bytes := fit n b }, s)
  | 1 =>
    match r.slot? t with
    | none => ({ unknown := true }, s)
    | some sl =>
      if sl.length < n then ({ unknown := true }, s)
      else if reach x < sl.start + n then ({ code := 1 }, s)
      else match quotaRead 0 x.ranges sl.start n s with
        | (some b, s) =>
          let g : Got := { bytes := b }
          (if s.linesCut r then g.cut n else g, s)
        | (none, s) => ({ code := 2 }, s)
  | _ =>
    match (r.slot? t).bind s.extent with
    | none => ({ unknown := true }, s)
    | some (ns, off, len) =>
      if len < n || State.changedUnder ns r || (!staged && match r.slot? t with | some sl => r.writesSlot sl | none => false) then ({ unknown := true }, s)
      else (State.readPieces r ns off n (if opened then s.openSlot r else s.fixedSlot r), s)

/-- A tensor's present bytes without a read: what an in-place write leaves between its slices. -/
def State.peekPlaced (s : State) (x : Session) (r : Run) (i : Nat) : Bytes :=
  let t := imgTensor r.route.image i
  match t.place, r.slot? t with
  | 1, some sl => (granulePieces (t.bytes / granule + 2) sl.start t.bytes).flatMap fun p => match quotaAddr x.ranges p.1 with
    | some a => Tab.getBytes 0 s.drm.data a p.2
    | none => zeros p.2
  | 1, none => zeros t.bytes
  | 2, _ => zeros t.bytes
  | _, _ => (s.readPlaced x r i false false).1.bytes

/-! ### Stream groups (R142 to R144, R200, R201, R209) -/

/-- Streams that a group consumes, in directive order. -/
def groupStreams (img : Bytes) (g : Nat) : List Stream := (imgStreams img).filter fun st => st.group == g

/-- Offset of a WINDOW tensor in its half: the group's WINDOW tensors in directive order, each from a multiple of 4 KiB (DESIGN
CHOICE: the shares of single coaches are not laid out). -/
def windowOffset (img : Bytes) (g tensor : Nat) : Nat :=
  (((groupStreams img g).takeWhile fun st => !(st.kind == 0 && st.tensor == tensor)).map fun st =>
    if st.kind = 0 then roundUp (imgTensor img st.tensor).bytes 4096 else 0).sum

/-- FALLBACK in force: STRICT takes every one as NONE (R210). -/
def fallbackOf (x : Session) (st : Stream) : Nat := if x.strict then 0 else st.fallback

/-- Bytes of one block taken from the source. -/
def putBlock (buf : Bytes) (off n : Nat) (src : Bytes) (b : Nat) : Bytes := overlay buf (off + 4096 * b) (slice src (4096 * b) (min 4096 (n - 4096 * b)))

def missCount (kind : Nat) (n : Nat) (h : Health) : Health :=
  if kind = 0 then { h with missWindow := h.missWindow + n } else { h with missStageIn := h.missStageIn + n }

/-- The seat of a block's code word has missed in this pass, and the miss has been counted (R211). -/
def State.missSeen (s : State) (r : Run) (tensor block : Nat) : Bool :=
  match (r.slot? (imgTensor r.route.image tensor)).bind s.extent with
  | some (n, off, _) =>
    let k := off / 4096 + block
    r.landed.any fun l => l.1 == r.done && l.2.2.2.isNone && l.2.1 == cwKey (entAddr (s.fixedEntry r (n.nsid - 1) (k / 4)) (k % 4))
  | none => false

/-- One stream's blocks put in place for its group: a block that missed stays as it stands, and SKIP leaves it out. DESIGN CHOICE (log 71): a
KIND above 1 acts as STAGE_IN, a FALLBACK above 2 as PREVIOUS. -/
def State.loadStream (sess : Nat) (s : State) (st : Stream) : State :=
  match s.run? sess with
  | none => s
  | some (x, r) =>
    if r.fault ≠ 0 then s
    else
      let img := r.route.image
      let n := (imgTensor img st.tensor).bytes
      let (got, s) := s.readPlaced x r st.tensor false (st.kind == 1)
      if got.code ≠ 0 then s.faultHere sess got.code
      else
        let (src, s) := if got.unknown then s.drawBytes n else (got.bytes, s)
        let s := got.faulty.foldl (fun s u => match (r.slot? (imgTensor img st.tensor)).bind s.extent with | some (ns, _, _) => s.mapFault (ns.nsid - 1) u | none => s) s
        let blocks := List.range (ceilDiv n 4096)
        let late := (r.missed.filter fun m => m.1 == st.tensor).map fun m => m.2
        let gone := got.bad.filter fun b => !late.contains b && !s.missSeen r st.tensor b
        let s := s.health (missCount st.kind gone.length)
        let out := fun b : Nat => late.contains b || got.bad.contains b
        let fb := fallbackOf x st
        if fb = 0 && blocks.any out then s.faultHere sess 3
        else
          let half := r.half
          let off := if st.kind = 0 then windowOffset img st.group st.tensor else 0
          let old := if st.kind = 0 then Tab.get [] r.halves half else Tab.get [] r.staged st.tensor
          let new := fit (max old.length (off + n)) ((blocks.filter fun b => !out b).foldl (fun buf b => putBlock buf off n src b) old)
          let dead := if fb = 2 then (blocks.filter out).map fun b => (st.tensor, b) else []
          let s := if blocks.any out then s.flagRun sess 0 else s
          s.updRun sess fun r => { r with
            halves := if st.kind = 0 then Tab.set [] r.halves half new else r.halves
            staged := if st.kind = 0 then r.staged else Tab.set [] r.staged st.tensor new
            skipped := r.skipped ++ dead }

/-- The first operation of another group begins: the group's blocks are in place; the n-th group of a run uses half n mod 2. -/
def State.enterGroup (s : State) (sess g : Nat) : State :=
  match s.run? sess with
  | none => s
  | some (_, r) =>
    if g = 0xFFFF || r.group = some g then s
    else
      let s := s.updRun sess fun r => { r with group := some g, groups := r.groups + 1, skipped := [] }
      (groupStreams r.route.image g).foldl (State.loadStream sess) s

/-- The stream through which an operation of a group reads a tensor. -/
def streamOf? (img : Bytes) (g tensor : Nat) : Option Stream :=
  if g = 0xFFFF then none else (groupStreams img g).find? fun st => st.tensor == tensor

/-- A tensor as an operation of a group reads it: from the group's half, from its staged copy, or where it lives. -/
def State.readTensor (s : State) (x : Session) (r : Run) (g i : Nat) (opened : Bool) : Got × State :=
  let n := (imgTensor r.route.image i).bytes
  match streamOf? r.route.image g i with
  | some st =>
    if st.kind = 0 then ({ bytes := fit n (slice (Tab.get [] r.halves r.half) (windowOffset r.route.image g i) n) }, s)
    else ({ bytes := fit n (Tab.get [] r.staged i) }, s)
  | none => s.readPlaced x r i opened false

/-! ### Writing results -/

/-- A result written where its tensor lives, whole or in the byte ranges given: 0, or the fault its write meets. A namespace tensor
is written by NS_WRITE alone; a region too small for its tensor holds free bytes afterwards (R4, R129, R158). -/
def State.writeTensor (s : State) (sess i : Nat) (b : Bytes) (ranges : List (Nat × Nat)) : Nat × State :=
  match s.run? sess with
  | none => (0, s)
  | some (x, r) =>
    let t := imgTensor r.route.image i
    let s := match r.group with
      | some g => match streamOf? r.route.image g i with
        | some st => if st.kind = 0 then
            s.updRun sess fun r => { r with halves := Tab.set [] r.halves r.half (overlay (Tab.get [] r.halves r.half) (windowOffset r.route.image g i) b) }
          else s
        | none => s
      | none => s
    match t.place with
    | 0 => (0, s.updRun sess fun r => { r with tensors := Tab.set [] r.tensors i b })
    | 3 => (0, s.updRun sess fun r => { r with tensors := Tab.set [] r.tensors i b })
    | 1 =>
      match r.slot? t with
      | none => (0, s)
      | some sl =>
        if sl.length < t.bytes then
          if reach x < sl.start + sl.length then (0, s)
          else
            let (f, s) := s.drawBytes sl.length
            (0, (quotaWrite 0 x.ranges sl.start f s).2)
        else if reach x < sl.start + t.bytes then (1, s)
        else ranges.foldl (fun a q => if a.1 ≠ 0 then a
          else match quotaWrite 0 x.ranges (sl.start + q.1) (slice b q.1 q.2) a.2 with
            | (true, s) => (0, s)
            | (false, s) => (2, s)) (0, s)
    | _ => (0, s)

/-! ### The environment of an operation -/

/-- Tensors whose present bytes an in-place result keeps. -/
def peeksOf (o : OpRec) : List Nat :=
  match o.code with
  | 0x54 => [0].filterMap o.in?
  | 0x61 => [0].filterMap o.out?
  | _ => []

/-- Results of an operation, with those it writes in place. -/
def targetsOf (img : Bytes) (o : OpRec) : List Nat :=
  [0, 1].filterMap o.out? ++ (match o.code with
    | 0x54 => [0].filterMap o.in?
    | 0x52 => [3].filterMap o.in?
    | 0x70 => if opAttr img o 0xF = some 1 then [2].filterMap o.in? else [0].filterMap o.in?
    | _ => [])

/-- Record namespaces that a run's slots name. -/
def State.slotRecords (s : State) (r : Run) : List Ns :=
  (runSlots r.block).filterMap fun sl => if sl.kind = 2 then (s.ns? sl.nsid).bind fun n => if n.kind = .record then some n else none else none

/-- The columns of the rows that FILTER or SCAN_READ judges: those of the operand's own namespace, or for other rows those of the only
row layout of their width among the record namespaces that the run's slots name (DEDUCED: R155 names no layout). -/
def State.columnsFor (s : State) (r : Run) (o : OpRec) : Option (List Column) :=
  match o.in? 0 with
  | none => none
  | some i =>
    let t := imgTensor r.route.image i
    if t.place = 2 then
      match (r.slot? t).bind s.extent with
      | some (n, _, _) => if n.kind = .record then some n.columns else none
      | none => none
    else
      match (((s.slotRecords r).filter fun n => n.rowBytes == t.shape.getLastD 0).map fun n => n.columns).eraseDups with
      | [c] => some c
      | _ => none

/-- The rows that a SCAN_READ takes in this pass, with the pieces that gave nothing (R295). -/
def State.scanRows (s : State) (r : Run) (o : OpRec) : Option (List Bytes) × List Nat :=
  match o.in? 0, o.out? 0 with
  | some i, some ro =>
    match (r.slot? (imgTensor r.route.image i)).bind s.extent with
    | some (n, off, len) =>
      if n.kind ≠ .record || State.changedUnder n r || (match r.slot? (imgTensor r.route.image i) with | some sl => r.writesSlot sl | none => false) then (none, [])
      else
        let per := perWord n.rowBytes
        let first := off / 4096 * per
        let last := min ((off + len) / 4096 * per) n.records
        let a := first + r.done * (imgTensor r.route.image ro).shape.headD 0
        let b := min (a + (imgTensor r.route.image ro).shape.headD 0) last
        if b ≤ a then (some [], [])
        else
          let got := State.readPieces r n (a / per * 4096) (((b - 1) / per + 1 - a / per) * 4096) (s.fixedSlot r)
          let rows := (List.range (b - a)).map fun k => slice got.bytes (recordByte n.rowBytes (a + k) - a / per * 4096) n.rowBytes
          (if got.unknown then none else some rows, got.bad)
    | none => (none, [])
  | _, _ => (none, [])

/-- Pieces of a namespace operand that an operation needs: for GATHER those its slices lie in, else all. -/
def needPiece (e : OpEnv) (i piece : Nat) : Bool :=
  if e.op.code = 0x53 && e.op.in? 0 = some i then
    let t := e.tensor i
    match e.axis t.rank, e.index? 1 with
    | some a, some idx => (sliceRanges t (axisGeo t.shape a) idx).any fun q => decide (q.1 / 4096 ≤ piece) && decide (piece ≤ (q.1 + q.2 - 1) / 4096)
    | _, _ => true
  else true

/-- An operation's environment with the fault its reads meet, or that nothing of an operand is known. -/
structure Ready where
  env : OpEnv
  code : Nat
  unknown : Bool
deriving DecidableEq, Repr

def State.opEnv (s : State) (x : Session) (r : Run) (o : OpRec) : Ready × State :=
  let img := r.route.image
  let base : OpEnv := ⟨img, o, [], r.route.hist, r.route.ePrev, r.skipped, s.columnsFor r o, []⟩
  let idx := (readsOf o ++ sideReads img o).eraseDups
  let (got, s) := idx.foldl (fun (a : List (Nat × Got) × State) i => let (g, s) := a.2.readTensor x r o.group i (o.code == 0x53 && o.in? 0 == some i); (a.1 ++ [(i, g)], s)) ([], s)
  let data := got.foldl (fun d g => Tab.set [] d g.1 g.2.bytes) ([] : Table Bytes)
  let data := (peeksOf o).foldl (fun d i => Tab.set [] d i (s.peekPlaced x r i)) data
  let (rows, gone) := if o.code = 0x61 then s.scanRows r o else (some [], [])
  let e := { base with data := data, rows := rows.getD [] }
  let dry := got.any fun g => g.2.bad.any fun b => needPiece e g.1 b
  let s := got.foldl (fun s g => if g.2.bad.any (needPiece e g.1) then
      g.2.faulty.foldl (fun s u => match (r.slot? (imgTensor img g.1)).bind s.extent with | some (ns, _, _) => s.mapFault (ns.nsid - 1) u | none => s) s
    else s) s
  let code : Nat := (got.map fun g => g.2.code).foldl (fun c d => if c = 0 then d else c) 0
  let code : Nat := if code = 0 && (dry || !gone.isEmpty) then 3 else code
  let s := if code = 3 then s.health fun h => { h with missStall := h.missStall + 1 } else s
  (⟨e, code, (got.any fun g => g.2.unknown) || rows.isNone⟩, s)

/-- SKIP leaves the operation out: it reads a block that missed, and is no matrix product reading it as weights (R209). -/
def skipsOp (e : OpEnv) : Bool :=
  let o := e.op
  let weights := if o.code = 1 || o.code = 2 then (match o.in? 1 with | some w => w :: sideReads e.img o | none => []) else []
  e.dead.any fun d => (readsOf o ++ sideReads e.img o).contains d.1 && !weights.contains d.1 && needPiece e d.1 d.2

/-! ### The end of an operation and of a pass (R115, R136, R159) -/

/-- Histories and e_prev of a step that has ended: the amax measured replaces the oldest entry (DEDUCED: a tensor that the step did not
quantise keeps its history). -/
def stepHistories (img : Bytes) (amax : Table (BitVec 32)) (r : Route) : Route :=
  ((List.range (imgTensorCount img)).filter fun i => (imgTensor img i).scaleKind == 3).foldl (fun r i =>
    let t := imgTensor img i
    let e := stepExponent img r.hist r.ePrev i
    let h := Tab.get [] r.hist i
    let full := List.replicate (t.histL - h.length) 0 ++ h
    let h' := match amax.find? fun a => a.1 == i with | some a => full.drop 1 ++ [a.2] | none => h
    { r with hist := Tab.set [] r.hist i h', ePrev := Tab.set t.e0 r.ePrev i e }) r

/-- A run at the start of its next pass: operation 0 is next, ordinals restart, the misses of the pass before are forgotten. -/
def Run.passReset (r : Run) : Run := { r with nextOp := some 0, group := none, missed := [], skipped := [], ordinals := [], amax := [] }

/-- A pass has ended: histories move on, in the run and in the handle whose image it works on; a pass that has begun beside it goes on. -/
def State.passDone (s : State) (sess : Nat) : State :=
  s.updSess sess fun x =>
    match x.run with
    | none => x
    | some r =>
      let route := stepHistories r.route.image r.amax r.route
      let mine := fun y : Route => y.handle == r.handle && y.loads == route.loads
      { x with
        run :=
          let q := { r with route := route, done := r.done + 1, landed := r.landed.filter fun l => decide (r.done < l.1) }
          some (if r.done + 1 < r.begun then q.passReset else { q with nextOp := none, group := none, skipped := [], ordinals := [], amax := [] })
        routes := updateIf mine (fun y => { y with hist := route.hist, ePrev := route.ePrev }) x.routes }

/-- The operation has ended: the next one follows, or the pass ends. -/
def State.opDone (s : State) (sess op : Nat) : State :=
  match s.run? sess with
  | none => s
  | some (_, r) =>
    if r.fault ≠ 0 then s
    else if op + 1 < imgOpCount r.route.image then s.updRun sess fun r => { r with nextOp := some (op + 1), emitWait := none }
    else (s.updRun sess fun r => { r with emitWait := none }).passDone sess

/-! ### Operations that compute -/

/-- One result converted and written; a fault of the write ends the run. -/
def State.putResult (sess op : Nat) (force : Bool) (s : State) (q : Nat × Res) : State :=
  match s.run? sess with
  | none => s
  | some (_, r) =>
    let img := r.route.image
    let t := imgTensor img q.1
    let whole := [(0, t.bytes)]
    let sr := ((imgOp img op).sr || force) && srDefined t.fmt
    let (b, ranges, drew) := match q.2 with
      | .bytes b => (b, whole, false)
      | .patch b l => (b, l, false)
      | .vals l => (convertVals t sr (runSeed r.block) q.1 ((runStepBase r.block + r.done) % 2 ^ 24 * 256 + Tab.get 0 r.ordinals q.1 % 256) l, whole, sr)
    let s := if drew then s.updRun sess fun r => { r with ordinals := Tab.set 0 r.ordinals q.1 (Tab.get 0 r.ordinals q.1 + 1) } else s
    match s.writeTensor sess q.1 (fit t.bytes b) ranges with
    | (0, s) => s
    | (c, s) => s.faultRun sess c (some op)

/-- Results whose bytes the spec leaves open (R4, R129). -/
def State.putFree (sess op : Nat) (s : State) (i : Nat) : State :=
  match s.run? sess with
  | none => s
  | some (_, r) =>
    let (b, s) := (s.updRun sess fun r => { r with erred := true }).drawBytes (imgTensor r.route.image i).bytes
    s.putResult sess op false (i, .bytes b)

/-- What an operation delivers taken into the run. -/
def State.deliver (s : State) (sess op : Nat) (out : OpOut) : State :=
  let s := out.res.foldl (State.putResult sess op out.forceSr) s
  let s := if out.short then s.flagRun sess 2 else s
  s.updRun sess fun r => { r with
    saturations := min 0xFFFFFFFF (r.saturations + out.sat)
    amax := out.amax.foldl (fun a m => Tab.put a m.1 (fmax (Tab.get 0 a m.1) m.2)) r.amax }

/-- The run whose next operation is the given record, of the given opcode, in the stage in which it falls due. -/
def State.nextOf? (s : State) (sess op code : Nat) : Option (Session × Run × OpRec) :=
  match s.run? sess with
  | none => none
  | some (x, r) =>
    let o := imgOp r.route.image op
    let due := match r.tt with | some t => r.opStage t op == s.stg.stage | none => false
    if s.runLive x r && r.nextOp == some op && o.code == code && r.emitWait.isNone && due then some (x, r, o) else none

/-- An operation that computes results from its operands alone: its group's blocks come into place, its operands are read, and its
results are converted once and written. -/
def runOp (code : Nat) (f : OpEnv → Option OpOut) (sess op : Nat) (s : State) : State :=
  match s.nextOf? sess op code with
  | none => s
  | some (_, _, o) =>
    let s := s.enterGroup sess o.group
    match s.run? sess with
    | none => s
    | some (x, r) =>
      if r.fault ≠ 0 then s
      else match s.opEnv x r o with
        | (q, s) =>
          if q.code ≠ 0 then s.faultRun sess q.code (some op)
          else if skipsOp q.env then (s.flagRun sess 0).opDone sess op
          else match (if q.unknown then none else f q.env) with
            | some out => (s.deliver sess op out).opDone sess op
            | none => ((targetsOf r.route.image o).foldl (State.putFree sess op) s).opDone sess op

def execOpMatmul (sess op : Nat) (s : State) : Host.Outcome State Fault Refusal := .next (runOp 0x0001 opMatmulF sess op s)
def execOpBmatmul (sess op : Nat) (s : State) : Host.Outcome State Fault Refusal := .next (runOp 0x0002 opBmatmulF sess op s)
def execOpAdd (sess op : Nat) (s : State) : Host.Outcome State Fault Refusal := .next (runOp 0x0010 opAddF sess op s)
def execOpSub (sess op : Nat) (s : State) : Host.Outcome State Fault Refusal := .next (runOp 0x0011 opSubF sess op s)
def execOpMul (sess op : Nat) (s : State) : Host.Outcome State Fault Refusal := .next (runOp 0x0012 opMulF sess op s)
def execOpDiv (sess op : Nat) (s : State) : Host.Outcome State Fault Refusal := .next (runOp 0x0013 opDivF sess op s)
def execOpFma (sess op : Nat) (s : State) : Host.Outcome State Fault Refusal := .next (runOp 0x0014 opFmaF sess op s)
def execOpMax (sess op : Nat) (s : State) : Host.Outcome State Fault Refusal := .next (runOp 0x0015 opMaxF sess op s)
def execOpMin (sess op : Nat) (s : State) : Host.Outcome State Fault Refusal := .next (runOp 0x0016 opMinF sess op s)
def execOpCmp (sess op : Nat) (s : State) : Host.Outcome State Fault Refusal := .next (runOp 0x0017 opCmpF sess op s)
def execOpSelect (sess op : Nat) (s : State) : Host.Outcome State Fault Refusal := .next (runOp 0x0018 opSelectF sess op s)
def execOpUnary (sess op : Nat) (s : State) : Host.Outcome State Fault Refusal := .next (runOp 0x0019 opUnaryF sess op s)
def execOpGated (sess op : Nat) (s : State) : Host.Outcome State Fault Refusal := .next (runOp 0x001A opGatedF sess op s)
def execOpReduce (sess op : Nat) (s : State) : Host.Outcome State Fault Refusal := .next (runOp 0x0020 opReduceF sess op s)
def execOpSoftmax (sess op : Nat) (s : State) : Host.Outcome State Fault Refusal := .next (runOp 0x0021 opSoftmaxF sess op s)
def execOpLayernorm (sess op : Nat) (s : State) : Host.Outcome State Fault Refusal := .next (runOp 0x0022 opLayernormF sess op s)
def execOpRmsnorm (sess op : Nat) (s : State) : Host.Outcome State Fault Refusal := .next (runOp 0x0023 opRmsnormF sess op s)
def execOpAttention (sess op : Nat) (s : State) : Host.Outcome State Fault Refusal := .next (runOp 0x0030 opAttentionF sess op s)
def execOpRope (sess op : Nat) (s : State) : Host.Outcome State Fault Refusal := .next (runOp 0x0031 opRopeF sess op s)
def execOpRotate (sess op : Nat) (s : State) : Host.Outcome State Fault Refusal := .next (runOp 0x0040 opRotateF sess op s)
def execOpQuant (sess op : Nat) (s : State) : Host.Outcome State Fault Refusal := .next (runOp 0x0041 opQuantF sess op s)
def execOpDequant (sess op : Nat) (s : State) : Host.Outcome State Fault Refusal := .next (runOp 0x0042 opDequantF sess op s)
def execOpConvert (sess op : Nat) (s : State) : Host.Outcome State Fault Refusal := .next (runOp 0x0043 opConvertF sess op s)
def execOpDist (sess op : Nat) (s : State) : Host.Outcome State Fault Refusal := .next (runOp 0x0050 opDistF sess op s)
def execOpCodeDist (sess op : Nat) (s : State) : Host.Outcome State Fault Refusal := .next (runOp 0x0051 opCodeDistF sess op s)
def execOpTopk (sess op : Nat) (s : State) : Host.Outcome State Fault Refusal := .next (runOp 0x0052 opTopkF sess op s)
def execOpGather (sess op : Nat) (s : State) : Host.Outcome State Fault Refusal := .next (runOp 0x0053 opGatherF sess op s)
def execOpPut (sess op : Nat) (s : State) : Host.Outcome State Fault Refusal := .next (runOp 0x0054 opPutF sess op s)
def execOpFilter (sess op : Nat) (s : State) : Host.Outcome State Fault Refusal := .next (runOp 0x0060 opFilterF sess op s)
def execOpScanRead (sess op : Nat) (s : State) : Host.Outcome State Fault Refusal := .next (runOp 0x0061 opScanReadF sess op s)
def execOpNsRead (sess op : Nat) (s : State) : Host.Outcome State Fault Refusal := .next (runOp 0x0062 opNsReadF sess op s)
def execOpAccum (sess op : Nat) (s : State) : Host.Outcome State Fault Refusal := .next (runOp 0x0070 opAccumF sess op s)

/-! ### NS_WRITE (R155, R296, R503, R504) -/

/-- Data over a byte span of a namespace as pieces of 4 KiB; the last piece keeps what it leaves out of its 4 KiB. -/
def State.spanPieces (s : State) (ns off : Nat) (data : Bytes) : List (Nat × Nat × Bytes) :=
  (List.range (ceilDiv data.length 4096)).map fun i =>
    let k := off / 4096 + i
    let d := slice data (4096 * i) 4096
    let d := if d.length = 4096 then d else d ++ (match s.readSlot ns (k / 4) (k % 4) with | .data o => (fit 4096 o).drop d.length | _ => [])
    (k / 4, k % 4, d)

/-- Conditions 6 to 8 of R503, or no write quota in a namespace that is gone (R404). -/
def State.nsRefuses (s : State) (x : Session) (nsid : Nat) : Bool :=
  match s.ns? nsid with
  | none => true
  | some n => !writeQuota x nsid || s.stg.exhausted || s.xlt.full || s.pwr.prot || n.readOnly

/-- NS_WRITE: x into one of its two staging copies; while both wait, the timetable is suspended at this stage. -/
def opNsWrite (sess op : Nat) (s : State) : State :=
  match s.nextOf? sess op 0x0063 with
  | none => s
  | some (_, _, o) =>
    let s := s.enterGroup sess o.group
    match s.run? sess with
    | none => s
    | some (x, r) =>
      if r.fault ≠ 0 then s
      else match o.in? 1 with
        | none => s.opDone sess op
        | some ti =>
          let s := s.checkFull
          match r.slot? (imgTensor r.route.image ti) with
          | none => s.opDone sess op
          | some sl =>
            match s.extent sl with
            | none => s.faultRun sess 4 (some op)
            | some (n, off, len) =>
              if s.nsRefuses x n.nsid then s.faultRun sess 4 (some op)
              else match s.opEnv x r o with
                | (q, s) =>
                  if q.code ≠ 0 then s.faultRun sess q.code (some op)
                  else if skipsOp q.env then (s.flagRun sess 0).opDone sess op
                  else if 2 ≤ (r.staging.filter fun g => g.1 == op).length then
                    s.updRun sess fun r => { r with stalled := true, tt := r.tt.map fun t => { t with suspended := some s.stg.stage } }
                  else
                    let xi := (o.in? 0).getD noTensor
                    let size := (imgTensor r.route.image xi).bytes
                    let (d, s) := if q.unknown || decide (len < size) || (o.in? 0).isNone then s.drawBytes (min len size) else (q.env.bytes xi, s)
                    (s.updRun sess fun r => { r with staging := r.staging ++ [(op, n.nsid - 1, off, d)] }).opDone sess op

def execOpNsWrite (sess op : Nat) (s : State) : Host.Outcome State Fault Refusal := .next (opNsWrite sess op s)

/-- The oldest staged data of a run enters the write buffer as far as it fits below the dirty cap, its pieces in ascending order, and the
copy is free once all of it has entered (R504); data of a namespace that is gone is dropped. -/
def stagedWriteEnterBuffer (sess : Nat) (s : State) : State :=
  match s.run? sess with
  | none => s
  | some (_, r) =>
    match r.staging with
    | [] => s
    | (op, ns, off, d) :: rest =>
      let drop := fun s : State => s.updRun sess fun r => { r with staging := rest }
      if !s.powered then s
      else if (s.ns? (ns + 1)).isNone then drop s
      else
        let ps := s.spanPieces ns off d
        let n := ((List.range (ps.length + 1)).filter fun n => s.fits (s.newUnits ns (ps.take n))).foldl max 0
        let s := if n = 0 then s else s.bufferWrite (some sess) ns (ps.take n)
        if n = ps.length then drop s
        else s.updRun sess fun r => { r with staging := (op, ns, off + 4096 * n, d.drop (4096 * n)) :: rest }

def execStagedWriteEnterBuffer (sess : Nat) (s : State) : Host.Outcome State Fault Refusal := .next (stagedWriteEnterBuffer sess s)

/-! ### EMIT (R155, R197, R297 to R299) -/

/-- Bytes of an answer record of n items with payload of w bytes each (R297). -/
def recordBytes (n w : Nat) : Nat :=
  let p := roundUp (64 + 16 * n) 64
  if w = 0 then p else roundUp (p + n * w) 64

/-- Bytes of records that a session's merge trees at work will hold. -/
def State.treeBytes (s : State) (sess : Nat) : Nat :=
  ((s.ans.trees.filter fun e => e.2.sess == sess && e.2.source == 4).map fun e => recordBytes e.2.k 0).sum

/-- The lowest merge tree at rest. -/
def State.freeTree (s : State) : Option Nat := firstBelow (fun k => !s.ans.trees.any fun e => e.1 == k) 64

/-- The items of an EMIT: the first count of K; a count above K takes K (R155). -/
def emitItems (e : OpEnv) : Option (List Item) :=
  match e.op.in? 0, e.op.in? 1, e.op.in? 2 with
  | some ii, some si, some ci =>
    let ti := e.tensor ii
    let ts := e.tensor si
    let tc := e.tensor ci
    if ti.rank = 1 ∧ ts.shape = ti.shape ∧ ti.fmt = .uint64 ∧ ts.fmt = .fp32 ∧ tc.fmt = .uint32 ∧ tc.elems = 1 ∧ (e.attr 0x15).isSome then
      let n := min ((e.codes ci).headD 0) ti.elems
      some (((e.codes ii).zip (e.vals si)).take n |>.map fun p => ⟨p.1, p.2⟩)
    else none
  | _, _, _ => none

/-- Items that an unchecked host error leaves open. -/
def State.freeItems (s : State) : List Item × State :=
  let (n, s) := s.drawNat
  let (b, s) := s.drawBytes (16 * (n % 65537))
  ((List.range (n % 65537)).map fun i => ⟨field b (16 * i) 8, BitVec.ofNat 32 (field b (16 * i + 8) 4)⟩, s)

/-- Payload of an ANSWER carriage (R298). -/
def answerPayload (handle first flags : Nat) (items : List Item) : Bytes :=
  toLe 4 handle ++ toLe 4 first ++ toLe 2 items.length ++ toLe 1 flags ++ zeros 5 ++ items.flatMap fun i => toLe 8 i.id ++ toLe 4 i.score.toNat ++ zeros 4

/-- ANSWER carriages of 1 to 15 items, the last with LAST. -/
def sendAnswers (coach handle flags : Nat) : Nat → Nat → List Item → State → State
  | 0, _, _, s => s
  | fuel + 1, first, items, s =>
    let last := decide (items.length ≤ 15)
    let s := (s.sendCarriage coach 286 (s.roleStamp coach) 7 0 0 0 0 false last (answerPayload handle first flags (items.take 15))).getD s
    if last then s else sendAnswers coach handle flags fuel (first + 15) (items.drop 15) s

/-- A list of a merge tree that coaches of teams hand items to: in ANSWER carriages of the first coach in service with a route to the answer unit, an
empty one ended at once. DESIGN CHOICE (log 32): one coach hands all items; where no coach is named they stand in the list at once. -/
def State.handItems (s : State) (teams : List Nat) (k flags : Nat) (items : List Item) : AList × State :=
  match (teams.flatMap teamCoaches).find? fun c => s.coachIn c && s.routeOrder c 286 != 2 with
  | some c => if items.isEmpty then (⟨k, [], flags, true⟩, s) else (⟨k, [], flags, false⟩, sendAnswers c k flags (items.length / 15 + 1) 0 items s)
  | none => (⟨k, (List.range items.length).zip items, flags, true⟩, s)

/-- EMIT hands its items to the answer unit in ANSWER carriages, or waits for space in the protected part and for a merge tree; items that an unchecked host
error leaves open are free, and so are the flags once the run has met one (R4). -/
def emitNow (sess op : Nat) (s : State) : State :=
  match s.run? sess with
  | none => s
  | some (x, r) =>
    let o := imgOp r.route.image op
    match s.opEnv x r o with
    | (q, s) =>
      if q.code ≠ 0 then s.faultRun sess q.code (some op)
      else if skipsOp q.env then (s.flagRun sess 0).opDone sess op
      else
        let (items, s) : Option (List Item) × State := (if q.unknown then none else emitItems q.env, s)
        let (flags, s) : Nat × State := if items.isNone || r.erred then let (n, s) := s.drawNat; (n % 8, s) else (r.flags, s)
        let (items, s) : List Item × State := match items with
          | some l => (l, s)
          | none => s.freeItems
        match s.freeTree with
        | none => s.updRun sess fun r => { r with emitWait := some op }
        | some k =>
          if protFree x < s.treeBytes sess + recordBytes items.length 0 then s.updRun sess fun r => { r with emitWait := some op }
          else
            let (l, s) := s.handItems (match r.tt with | some t => t.plan.teams | none => []) k 0 items
            let t : Tree := ⟨sess, 4, (opAttr r.route.image o 0x15).getD 0, 0, items.length, [l], flags, items.length, 0, [], none, none⟩
            { s with ans := { s.ans with trees := Tab.put s.ans.trees k t } }.opDone sess op

def opEmit (sess op : Nat) (s : State) : State :=
  match s.nextOf? sess op 0x0064 with
  | none => s
  | some (_, _, o) =>
    let s := s.enterGroup sess o.group
    match s.run? sess with
    | none => s
    | some (_, r) => if r.fault ≠ 0 then s else emitNow sess op s

def execOpEmit (sess op : Nat) (s : State) : Host.Outcome State Fault Refusal := .next (opEmit sess op s)

/-- At a boundary an EMIT that still waits past the stage in which it fell due faults its run with ROUTE_STALL (R197; DEDUCED: that stage
is its deadline). -/
def State.emitDeadline (s : State) : State :=
  s.ses.list.foldl (fun s x => match x.run with
    | some r => (match r.emitWait, r.tt with
      | some op, some t => if t.suspended.isNone && decide (r.opStage t op < s.stg.stage) then s.faultRun x.num 3 (some op) else s
      | _, _ => s)
    | none => s) s

/-- An EMIT that waits goes on once there is space. -/
def emitResume (sess : Nat) (s : State) : State :=
  match s.run? sess with
  | none => s
  | some (x, r) => match r.emitWait with
    | some op => if s.runLive x r then emitNow sess op (s.updRun sess fun r => { r with emitWait := none }) else s
    | none => s

def execEmitResume (sess : Nat) (s : State) : Host.Outcome State Fault Refusal := .next (emitResume sess s)

end Sys2Proof.Machine
end

