-- ==== Sys2Proof/Machine/Fits.lean ====
section
/-! DEFINITION. What timetables may hold together and what one must hold: the caps, free runs and joint fit of R166 to R175 and R230, the
form of entries, what a route's operations, a scan's extents and a standing search timetable need (R12, R136, R142, R164 to R175, R183, R185,
R188, R200 to R203). The binder chooses the plan; the module takes it only where all of this holds. -/

namespace Sys2Proof.Machine

/-! ### What one timetable holds -/

/-- An entry holds its unit in a stage. -/
def entryHolds (start : Nat) (e : TtEntry) (stage : Nat) : Bool :=
  (List.range e.span).any fun k => decide (k ≤ stage) && entryDue start e (stage - k)

/-- What a timetable holds in a stage, by a measure of its entries. -/
def ownHeld (m : TtEntry → Nat) (t : Timetable) (stage : Nat) : Nat :=
  ((t.near stage).map fun b => (t.plan.entries.map fun e => if entryHolds b e stage then m e else 0).sum).sum

/-- Seats that a timetable holds on a channel in a stage, as a mask. -/
def ownSeats (chan : Nat) (t : Timetable) (stage : Nat) : Nat :=
  ((t.near stage).flatMap fun b => (t.plan.entries.filter fun e =>
    (e.kind == .seat || e.kind == .seatOpen) && e.unit == chan && entryDue b e stage).map fun e => e.amount).foldl Nat.lor 0

/-- Flit cycles that a timetable holds on a link in one direction in a stage: every carriage at its flits on every link of its path (R169). -/
def State.ownFlits (s : State) (hop : Nat × Bool) (t : Timetable) (stage : Nat) : Nat :=
  ((t.near stage).map fun b => (t.plan.links.map fun h =>
    if occurs (b + h.stage) h.stride h.rep stage && (routeHops h.src h.dst (s.routeOrder h.src h.dst == 1)).contains hop then
      h.count * carriageFlits h.length else 0).sum).sum

/-- Stages from its first pass on in which a timetable holds anything it does not hold again later: its passes, or 8,192 stages of one without
end, whose strides divide that window. -/
def Timetable.span (t : Timetable) : Nat :=
  if t.plan.entries.any fun e => e.rep == 0 then 8192 else (t.started + t.ahead - 1) * t.plan.passStride + t.plan.passStages

/-- The most that a timetable holds in any stage of a residue modulo 64. -/
def Timetable.peak (t : Timetable) (f : Timetable → Nat → Nat) (c : Nat) : Nat :=
  ((List.range t.span).map fun k => if (t.base + k) % 64 = c then f t (t.base + k) else 0).foldl max 0

/-- All seats that a timetable holds on a channel in stages of a residue modulo 64. -/
def Timetable.seats (t : Timetable) (chan c : Nat) : Nat :=
  ((List.range t.span).map fun k => if (t.base + k) % 64 = c then ownSeats chan t (t.base + k) else 0).foldl Nat.lor 0

/-- What timetables hold together in a stage of a residue modulo 64, each shifted by any multiple of 64 stages (R173, R230). -/
def jointHeld (f : Timetable → Nat → Nat) (ts : List Timetable) (c : Nat) : Nat := (ts.map fun t => t.peak f c).sum

/-! ### Measures -/

def dramOf (pkg : Nat) (e : TtEntry) : Nat := if e.kind == .dram && e.unit == pkg then e.amount else 0
def coachOf (team : Nat) (e : TtEntry) : Nat := if e.kind == .coach && e.unit == team then e.amount else 0
def isDieEntry (e : TtEntry) : Bool := e.kind == .dieRead || e.kind == .dieReadOpen
def dieOf (die : Nat) (e : TtEntry) : Nat := if isDieEntry e && e.unit == die then 1 else 0
def programOf (chan : Nat) (e : TtEntry) : Nat := if e.kind == .programOpen && e.unit == chan then 1 else 0

/-! ### The caps (R166 to R168) -/

/-- Timetables agree on a channel's seats: none holds a seat that another holds in a stage of the same residue, nor seat 6 or beyond. -/
def seatsApart (chan : Nat) : List Timetable → Bool
  | [] => true
  | t :: ts => ((List.range 64).all fun c => decide (t.seats chan c < 64) && ts.all fun u => Nat.land (t.seats chan c) (u.seats chan c) == 0) && seatsApart chan ts

/-- The n lowest seats that a mask leaves. -/
def lowestSeats (taken n : Nat) : Nat := (((List.range 6).filter fun i => !bit taken i).take n).foldl (fun m i => m + 2 ^ i) 0

/-- In every stage a new timetable takes the lowest seats that the others leave on a channel, each once (R166, R167). -/
def seatsLowest (chan : Nat) (ts : List Timetable) (t : Timetable) : Bool :=
  (List.range t.span).all fun k =>
    let n := t.base + k
    let taken := (ts.map fun u => u.seats chan (n % 64)).foldl Nat.lor 0
    let each := ownHeld (fun e => if (e.kind == .seat || e.kind == .seatOpen) && e.unit == chan then seatCount e.amount else 0) t n
    let own := ownSeats chan t n
    own == lowestSeats taken each && seatCount own == each

/-- Residues in which timetables hold a die. -/
def dieTaken (ts : List Timetable) (die c : Nat) : Bool := jointHeld (ownHeld (dieOf die)) ts (c % 64) != 0

/-- An aligned window of 64 stages leaves a die a run of 16 stages, beside what a test takes of it (R168). -/
def freeRun (ts : List Timetable) (die : Nat) (more : Nat → Bool) : Bool :=
  (List.range 49).any fun k => (List.range 16).all fun j => !dieTaken ts die (k + j) && !more (k + j)

/-- Stages of an aligned window of 8,192 stages at which a die's run of 321 may start; the only die of a channel takes its open programs too. -/
def State.longStarts (s : State) (ts : List Timetable) (window die : Nat) : List Nat :=
  let only := (s.fla.dies.filter fun d => chanOf d == chanOf die).length == 1
  (List.range 7872).filter fun k => (List.range 321).all fun j => ts.all fun t =>
    ownHeld (dieOf die) t (window + k + j) == 0 && !(only && ownHeld (programOf (chanOf die)) t (window + k + j) != 0)

/-- A run of 321 stages for each die, no two of a channel at once. -/
def chooseRuns : List (List Nat) → List Nat → Bool
  | [], _ => true
  | l :: rest, chosen => l.any fun a => (chosen.all fun b => decide (a + 321 ≤ b) || decide (b + 321 ≤ a)) && chooseRuns rest (a :: chosen)

/-- A timetable moved by n stages. -/
def shiftTt (n : Nat) (t : Timetable) : Timetable := { t with base := t.base + n, seatsFrom := t.seatsFrom + n }

/-- A test holds with timetables moved, each for itself, by any multiple of 64 stages below a count of them; one without end is never suspended
and does not move (R230). -/
def allShifts (n : Nat) : List Timetable → (List Timetable → Bool) → Bool
  | [], f => f []
  | t :: ts, f =>
    if t.plan.entries.any fun e => e.rep == 0 then allShifts n ts fun us => f (t :: us)
    else (List.range n).all fun j => allShifts n ts fun us => f (shiftTt (64 * j) t :: us)

/-- The long runs of R168 on a channel, in every aligned window that a timetable meets, under every shift of R230 that can bring two timetables
together. -/
def State.longRuns (s : State) (chan : Nat) (ts : List Timetable) (t : Timetable) : Bool :=
  let most := ((t :: ts).map fun u => u.base + u.span).foldl max 0
  allShifts (most / 64 + 129) (t :: ts) fun us => match us with
    | [] => true
    | u :: _ => (List.range (u.span / 8192 + 2)).all fun k =>
      chooseRuns ((s.fla.dies.filter fun d => chanOf d == chan).map (s.longStarts us ((u.base / 8192 + k) * 8192))) []

/-- Open programs of timetables that begin in a stage of a residue modulo 64 on a channel. -/
def programStart (chan : Nat) (t : Timetable) (stage : Nat) : Nat :=
  ((t.near stage).map fun b => (t.plan.entries.filter fun e => e.kind == .programOpen && e.unit == chan && entryDue b e stage).length).sum

/-- Open programs find dies: where one begins on a channel, as many dies of it are free of reservations for all of its 16 stages, and still keep a
free run, as programs go on there at once, beside one die that may be in its long run (R168, R172; DEDUCED: an open program names no die, so
R168 counts it on the dies that can take it). -/
def State.programsOk (s : State) (chan : Nat) (ts : List Timetable) : Bool :=
  let dies := s.fla.dies.filter fun d => chanOf d == chan
  (List.range 64).all fun c =>
    let n := ((List.range s.fla.tProg).map fun j => jointHeld (ownHeld (programOf chan)) ts ((c + j) % 64)).foldl max 0
    let able := dies.filter fun d => ((List.range s.fla.tProg).all fun j => !dieTaken ts d (c + j)) && freeRun ts d fun k => decide ((k + 64 - c) % 64 < s.fla.tProg)
    jointHeld (programStart chan) ts c == 0 || decide (n + (if dies.length = 1 then 0 else 1) ≤ able.length)

/-- The most flit cycles that timetables hold on a link: over the hops of all of them (R166). -/
def State.linkPeak (s : State) (ts : List Timetable) : Nat :=
  let hops := (ts.flatMap fun t => t.plan.links.flatMap fun h => routeHops h.src h.dst (s.routeOrder h.src h.dst == 1)).eraseDups
  ((List.range 64).map fun c => (hops.map fun h => jointHeld (s.ownFlits h) ts c).foldl max 0).foldl max 0

/-- A new timetable fits among those that are active: the caps of R166 with every timetable shifted by any multiple of 64 stages, seats apart,
the free runs of R168. Coach cycles are shared by the timetables of one session alone; a standing search's are all that its session's routes and
scans leave (R183; DEDUCED: else neither could bind beside the other, and R183 has the query contexts share them). -/
def State.fitsAt (s : State) (x : Session) (t : Timetable) : Bool :=
  let ts := s.tables.map fun u => u.2
  let all_ := t :: ts
  let mine := t :: ((x.run.bind fun r => r.tt).toList ++ (x.scans.filterMap fun c => c.tt) ++ x.buildTts.map fun b => b.2)
  ((List.range 16).all fun team => (List.range 64).all fun c => decide (jointHeld (ownHeld (coachOf team)) (if t.plan.entries.any fun e => e.rep == 0 then [t] else mine) c ≤ 12300)) &&
    decide (s.linkPeak all_ ≤ 9840) &&
    (s.drm.present.all fun p => (List.range 64).all fun c => decide (jointHeld (ownHeld (dramOf p)) all_ c ≤ 6912)) &&
    (s.fla.channels.all fun ch => seatsApart ch all_ && s.programsOk ch all_ &&
      (!(t.plan.entries.any fun e => isDieEntry e && chanOf e.unit == ch) || s.longRuns ch ts t)) &&
    s.fla.dies.all fun d => !(t.plan.entries.any fun e => isDieEntry e && e.unit == d) ||
      (((List.range 64).all fun c => decide (jointHeld (ownHeld (dieOf d)) all_ c ≤ 1)) && freeRun all_ d fun _ => false)

/-! ### The form of a plan (R165, R188) -/

/-- SPAN, AMOUNT and UNIT of an entry by its KIND. -/
def State.kindOk (s : State) (teams : List Nat) (e : TtEntry) : Bool :=
  match e.kind with
  | .coach => teams.contains e.unit && e.span == 1 && decide (1 ≤ e.amount) && decide (e.amount ≤ 12300)
  | .dram => s.drm.present.contains e.unit && e.span == 1 && decide (1 ≤ e.amount) && decide (e.amount ≤ 6912)
  | .dieRead => s.dieIn e.unit && e.span == s.fla.tRead && decide (1 ≤ e.amount) && decide (e.amount ≤ 4)
  | .dieReadOpen => s.dieIn e.unit && e.span == s.fla.tRead && e.amount == 1
  | .programOpen => s.fla.channels.contains e.unit && e.span == s.fla.tProg && e.amount == 16
  | .seat | .seatOpen => s.fla.channels.contains e.unit && e.span == 1 && decide (1 ≤ e.amount) && decide (e.amount < 64)

/-- STRIDE and REPEAT, within the pass but for an entry without end. -/
def repOk (stage stride rep span passStages : Nat) : Bool :=
  decide (stride < 65536) && decide (rep < 2 ^ 32) &&
    (if rep = 0 then decide (1 ≤ stride) && 8192 % stride == 0 && decide (stage < 8192)
     else (if rep = 1 then stride == 0 else decide (1 ≤ stride)) && decide (stage + (rep - 1) * stride + span ≤ passStages))

/-- A plan's own form: a pass overlaps none but the one before it (R165). Entries of built-in plans name no operation and no group; entries
without end stand in a search's plan alone. -/
def State.planForm (s : State) (endless builtIn : Bool) (p : TtPlan) : Bool :=
  decide (1 ≤ p.passStages) && decide (1 ≤ p.passStride) && decide (p.passStride ≤ p.passStages) &&
    decide (p.passStages ≤ 2 * p.passStride) && (p.entries.all fun e => s.kindOk p.teams e && repOk e.stage e.stride e.rep e.span p.passStages && (e.rep == 0) == endless &&
      (!builtIn || (e.op == 0xFFFFFFFF && e.group == 0xFFFF)) && (e.kind == .dieRead || e.kind == .seat || e.words.isEmpty)) &&
    p.links.all fun h => repOk h.stage h.stride h.rep 1 p.passStages && (h.rep == 0) == endless && decide (1 ≤ h.length) && decide (h.length ≤ 256) &&
      decide (h.src ≤ 286) && decide (h.dst ≤ 286) && s.routeOrder h.src h.dst != 2 && !(decide (h.dst < 256) && s.coachOut h.dst) &&
      !(decide (h.src < 256) && s.coachOut h.src)

/-- A fixed read goes on where another ends, with the next page: one entry with REPEAT would hold both (R188). -/
def readsOn (a b : TtEntry) : Bool :=
  let last := a.stage + (a.rep - 1) * a.stride
  a.kind == .dieRead && b.kind == .dieRead && a.unit == b.unit && a.op == b.op && a.group == b.group && a.amount == b.amount && b.stage == last + a.span &&
    (a.rep == 1 || a.stride == a.span) && (b.rep == 1 || b.stride == b.span) &&
    match (a.words.take (a.amount * a.rep)).getLast?, b.words.head? with
    | some u, some v => u.plane == v.plane && u.block == v.block && u.page + 1 == v.page
    | _, _ => false

/-- PASS_STAGES and the entry count within R176's limits. -/
def planLong (p : TtPlan) : Bool := decide (4294967295 < p.passStages) || decide (16777216 < p.entries.length)

/-! ### Fixed reads (R13, R170) -/

/-- Code words that one occurrence of a fixed read or of its seats names: the entry lists those of every pass where they differ, else of
one. -/
def wordsAt (e : TtEntry) (pass occ n : Nat) : List CwAddr :=
  let m := n * max 1 e.rep
  ((if e.words.length ≤ m then e.words else e.words.drop (pass * m)).drop (occ * n)).take n

/-- Code words that the fixed reads of a pass sense, with the stage of the sense. -/
def sensed (p : TtPlan) (pass : Nat) : List (Nat × CwAddr) :=
  (p.entries.filter fun e => e.kind == .dieRead).flatMap fun e => (List.range (max 1 e.rep)).flatMap fun i =>
    (wordsAt e pass i e.amount).map fun w => (e.stage + i * e.stride, w)

/-- A seat's code word in a pass: its stage, the entry, the code word. -/
def seated (p : TtPlan) (pass : Nat) : List (Nat × TtEntry × CwAddr) :=
  (p.entries.filter fun e => e.kind == .seat).flatMap fun e => (List.range (max 1 e.rep)).flatMap fun i =>
    (wordsAt e pass i (seatCount e.amount)).map fun w => (e.stage + i * e.stride, e, w)

/-- Every fixed read names one page of one plane of its die, and every code word of it has a seat of the die's channel t_read stages after the
sense; every seat carries such a code word. -/
def State.readsOk (s : State) (p : TtPlan) (pass : Nat) : Bool :=
  let rs := sensed p pass
  let qs := seated p pass
  (p.entries.all fun e => e.kind != .dieRead || (List.range (max 1 e.rep)).all fun i =>
    let ws := wordsAt e pass i e.amount
    ws.length == e.amount && ws.eraseDups.length == e.amount && ws.all fun w =>
      w.die == e.unit && decide (w.plane < 4) && decide (w.cw < 4) &&
        (match ws with | v :: _ => v.plane == w.plane && v.block == w.block && v.page == w.page | [] => false)) &&
    (p.entries.all fun e => e.kind != .seat || (List.range (max 1 e.rep)).all fun i => (wordsAt e pass i (seatCount e.amount)).length == seatCount e.amount) &&
    (rs.all fun r => qs.any fun q => q.1 == r.1 + s.fla.tRead && q.2.2 == r.2) &&
    qs.all fun q => q.2.1.unit == chanOf q.2.2.die && decide (s.fla.tRead ≤ q.1) && rs.any fun r => r.1 + s.fla.tRead == q.1 && r.2 == q.2.2

/-- Seats of a channel for its open reads when they land (R14). -/
def State.openReadsOk (s : State) (t : Timetable) : Bool :=
  (List.range t.span).all fun k => s.fla.channels.all fun c =>
    let n := t.base + k
    decide (((t.near n).map fun b => (t.plan.entries.filter fun e =>
        e.kind == .dieReadOpen && chanOf e.unit == c && decide (s.fla.tRead ≤ n) && entryDue b e (n - s.fla.tRead)).length).sum ≤
      ownHeld (fun e => if e.kind == .seatOpen && e.unit == c then seatCount e.amount else 0) t n)

/-! ### What a route needs -/

/-- A 4 KiB piece of a namespace: namespace index, map unit, slot. -/
abbrev Piece := Nat × Nat × Nat

/-- Pieces that hold n bytes of an extent from a byte on. -/
def piecesOf (ns : Ns) (off n : Nat) : List Piece := (List.range (ceilDiv n 4096)).map fun i => (ns.nsid - 1, (off / 4096 + i) / 4, (off / 4096 + i) % 4)

/-- The code word of a piece by a layout of map entries; none for a unit that is not mapped. -/
def pieceWord (layout : List (Nat × Nat)) (p : Piece) : Option CwAddr :=
  let e := BitVec.ofNat 64 (Tab.get unmapped.toNat layout (mapKey p.1 p.2.1))
  if entMapped e then some (entAddr e p.2.2) else none

/-- Pieces of a tensor's extent. -/
def State.tensorPieces (s : State) (r : Run) (i : Nat) : List Piece :=
  let t := imgTensor r.route.image i
  match (if t.place = 2 then r.slot? t else none).bind s.extent with
  | some (n, off, _) => piecesOf n off t.bytes
  | none => []

/-- Tensors that an operation itself brings by fixed reads: those of PLACE 2 that no stream of its group carries. -/
def fixedOf (img : Bytes) (o : OpRec) : List Nat :=
  ((sourcesOf o ++ sideReads img o).eraseDups).filter fun i =>
    (imgTensor img i).place == 2 && (streamOf? img o.group i).isNone && !(o.code == 0x53 && o.in? 0 == some i && !(sideReads img o).contains i)

/-- Pieces that an operation brings by fixed reads in a pass: a SCAN_READ the records of that pass (R295). -/
def State.opPieces (s : State) (r : Run) (o : OpRec) (pass : Nat) : List Piece :=
  if o.code = 0x61 then
    match o.in? 0, o.out? 0 with
    | some i, some ro =>
      (match (r.slot? (imgTensor r.route.image i)).bind s.extent with
      | some (n, off, len) =>
        let per := perWord n.rowBytes
        let rows := (imgTensor r.route.image ro).shape.headD 0
        let a := off / 4096 * per + pass * rows
        let b := min (a + rows) (min ((off + len) / 4096 * per) n.records)
        if b ≤ a then [] else piecesOf n (a / per * 4096) (((b - 1) / per + 1 - a / per) * 4096)
      | none => [])
    | _, _ => []
  else (fixedOf r.route.image o).flatMap (s.tensorPieces r)

/-- 64-byte lines of DRAM that an operation reads and writes: its operands and its results of PLACE 1 and 3 that no stream carries; a GATHER its
slices, of which at least one line (R12, R203). -/
def opLines (img : Bytes) (o : OpRec) : Nat × Nat :=
  let dram := fun i : Nat => ((imgTensor img i).place == 1 || (imgTensor img i).place == 3) && (streamOf? img o.group i).isNone
  let lines := fun i : Nat => if o.code = 0x53 && o.in? 0 == some i then 1 else ceilDiv (imgTensor img i).bytes 64
  ((((sourcesOf o ++ sideReads img o).eraseDups.filter dram).map lines).sum, ((([0, 1].filterMap o.out?).filter dram).map lines).sum)

/-- Least core cycles over all coaches that a matrix product takes on the grid, with the holds of R61 and R62: every tile takes at least 128
vectors' cycles, four times as many at quarter rate (R64, R169). -/
def gridNeed (img : Bytes) (o : OpRec) : Nat :=
  if o.code = 1 || o.code = 2 then
    match o.in? 0, o.in? 1 with
    | some xi, some wi =>
      let tw := imgTensor img wi
      let k := tw.shape.getLastD 1
      let n := tw.shape.reverse.getD 1 1
      let batch := if o.code = 2 then tw.shape.headD 1 else 1
      let m := (imgTensor img xi).elems / max 1 (k * batch)
      batch * (ceilDiv k 64 * ceilDiv n 64) * max m 128 * (if tw.fmt = .bf16 || tw.fmt = .fp16 then 4 else 1)
    | _, _ => 0
  else 0

/-- Core cycles that one coach at least takes for a matrix product: no reduction is split, so one coach passes every chunk of K (R64, R140, R169). -/
def chainNeed (img : Bytes) (o : OpRec) : Nat :=
  match (if o.code = 1 || o.code = 2 then o.in? 1 else none) with
  | some wi => let tw := imgTensor img wi; ceilDiv (tw.shape.getLastD 1) 64 * 128 * (if tw.fmt = .bf16 || tw.fmt = .fp16 then 4 else 1)
  | none => 0

/-- First stage in a pass of an operation's coach cycles. -/
def opBegin (p : TtPlan) (op : Nat) : Nat :=
  match (p.entries.filter fun e => e.kind == .coach && e.op == op).map fun e => e.stage with
  | [] => 0
  | a :: l => l.foldl min a

/-- Operations of a stream group. -/
def groupOps (img : Bytes) (g : Nat) : List Nat := (List.range (imgOpCount img)).filter fun k => (imgOp img k).group == g

/-- First stage of a group's first operation, and last stage of its last one. -/
def groupBegin (img : Bytes) (p : TtPlan) (g : Nat) : Nat :=
  match (groupOps img g).map (opBegin p) with
  | [] => 0
  | a :: l => l.foldl min a
def groupEnd (img : Bytes) (p : TtPlan) (g : Nat) : Nat := ((groupOps img g).map (opDue p)).foldl max 0

/-- Groups of an image, from 0 up to the highest that an operation names (R142). -/
def groupCount (img : Bytes) : Nat :=
  (((List.range (imgOpCount img)).map fun k => let g := (imgOp img k).group; if g = 0xFFFF then 0 else g + 1)).foldl max 0

/-- Occurrences of entries that a test selects before a stage, with a measure summed. -/
def sumBefore (p : TtPlan) (sel : TtEntry → Bool) (m : TtEntry → Nat) (stage : Nat) : Nat :=
  ((p.entries.filter sel).map fun e => m e * ((List.range (max 1 e.rep)).filter fun i => decide (e.stage + i * e.stride < stage)).length).sum

/-- A stream's blocks land at least max(LEAD, 1) stages before the first operation of its group, and a window's loading begins only after the
last operation of the group two before has ended, in the pass before for groups 0 and 1 (R142, R202). -/
def State.streamOk (s : State) (layout : List (Nat × Nat)) (r : Run) (p : TtPlan) (left : Nat) (st : Stream) : Bool :=
  let img := r.route.image
  let t := imgTensor img st.tensor
  let begin_ := groupBegin img p st.group
  let lead := max st.lead 1
  let n := groupCount img
  let prev := if 2 ≤ st.group then groupEnd img p (st.group - 2) else 0
  let before := fun a : Nat => st.kind != 0 || (if 2 ≤ st.group then decide (prev < a)
    else n < 2 || decide (groupEnd img p (n - 2 + st.group) < a + p.passStride))
  if t.place = 2 then
    (List.range left).all fun i => (s.tensorPieces r st.tensor).all fun q => match pieceWord layout q with
      | some w => (seated p (r.begun + i)).any fun a => a.2.1.group == st.group && a.2.2 == w && decide (a.1 + lead ≤ begin_) && before (a.1 - s.fla.tRead)
      | none => true
  else if t.place = 1 || t.place = 3 then
    let mine := fun e : TtEntry => e.kind == .dram && e.group == st.group
    let need := ((groupStreams img st.group).map fun q =>
      if (imgTensor img q.tensor).place = 1 || (imgTensor img q.tensor).place = 3 then ceilDiv (imgTensor img q.tensor).bytes 64 else 0).sum
    decide (need ≤ sumBefore p (fun e => mine e && before e.stage) (fun e => e.amount) (begin_ + 1 - lead))
  else true

/-- An operation's work follows that of every operation whose result it reads: it begins after that one begins and ends after it ends (R12, R136;
DEDUCED: work of both may overlap piece by piece). -/
def followsProducers (img : Bytes) (p : TtPlan) (k : Nat) : Bool :=
  (List.range k).all fun j => !((targetsOf img (imgOp img j)).any fun i => (sourcesOf (imgOp img k) ++ sideReads img (imgOp img k)).contains i) ||
    (decide (opBegin p j < opBegin p k) && decide (opEnd p j < opEnd p k))

/-- Open programs of an operation on a channel each find 16 seats of its own in the three stages before it: from the first to the last of any of
them the seats suffice for all between (R172). -/
def programSeats (p : TtPlan) (k chan : Nat) : Bool :=
  let mine := fun (kind : EntryKind) (e : TtEntry) => e.kind == kind && e.unit == chan && e.op == k
  let starts := (p.entries.filter (mine .programOpen)).flatMap fun e => (List.range (max 1 e.rep)).map fun i => e.stage + i * e.stride
  let seats := sumBefore p (mine .seatOpen) fun f => seatCount f.amount
  starts.all fun a => starts.all fun b => decide (b < a) ||
    decide (16 * (starts.filter fun x => decide (a ≤ x) && decide (x ≤ b)).length ≤ seats b - seats (a - 3))

/-- What an operation needs in every pass of a run: coach cycles after those of its producers; before its last piece of work its fixed reads, the
DRAM lines that bring its operands and, for each slice that a GATHER takes from a namespace, an open read landed; lines for its results after
its work has begun; an open program with its 16 seats for each four-plane page set that an NS_WRITE writes (R12, R13, R171, R172; DEDUCED: an
operation may work on what has come while the rest comes, as ATTENTION must on a cache larger than SRAM, R203). -/
def State.opOk (s : State) (layout : List (Nat × Nat)) (r : Run) (p : TtPlan) (first passes : Nat) (k : Nat) : Bool :=
  let img := r.route.image
  let o := imgOp img k
  let last := opEnd p k
  let serving := fun team : Nat => ((teamCoaches team).filter s.coachIn).length
  let cycles := ((p.entries.filter fun e => e.kind == .coach && e.op == k).map fun e => e.amount * max 1 e.rep * serving e.unit).sum
  let count := fun (kind : EntryKind) (stage : Nat) => sumBefore p (fun e => e.kind == kind && e.op == k) (fun _ => 1) stage
  let lines := sumBefore p (fun e => e.kind == .dram && e.op == k) fun e => e.amount
  let need := opLines img o
  let slices := if o.code = 0x53 && (match o.in? 0 with | some i => (imgTensor img i).place == 2 && (streamOf? img o.group i).isNone | none => false) then
      (match o.in? 1 with | some i => (imgTensor img i).elems | none => 0) else 0
  let sets := if o.code = 0x63 then (match o.in? 0 with | some i => ceilDiv (imgTensor img i).bytes 65536 | none => 0) else 0
  let most := (p.teams.map fun team => ((p.entries.filter fun e => e.kind == .coach && e.op == k && e.unit == team).map fun e => e.amount * max 1 e.rep).sum).foldl max 0
  decide (1 ≤ cycles) && decide (gridNeed img o ≤ cycles) && decide (chainNeed img o ≤ most) && followsProducers img p k &&
    decide (need.1 ≤ lines last) && decide (need.2 ≤ lines p.passStages - lines (opBegin p k + 1)) && decide (need.1 + need.2 ≤ lines p.passStages) &&
    ((List.range passes).all fun i => (s.opPieces r o (first + i)).all fun q => match pieceWord layout q with
      | some w => (seated p (first + i)).any fun a => a.2.1.op == k && a.2.2 == w && decide (a.1 < last)
      | none => true) &&
    decide (slices ≤ count .dieReadOpen (last - s.fla.tRead)) && count .programOpen p.passStages == sets && s.fla.channels.all (programSeats p k)

/-- Bytes of link holds in a stage of the pass from or to a station. -/
def heldBytes (p : TtPlan) (sel : LinkHold → Bool) (stage : Nat) : Nat :=
  ((p.links.filter fun h => sel h && occurs h.stage h.stride h.rep stage).map fun h => h.count * h.length).sum

/-- Every line and every seat that a plan reserves has its carriages on the links in the same stage (R12, R169). -/
def carriesOk (p : TtPlan) : Bool :=
  (List.range p.passStages).all fun k =>
    ((List.range 12).all fun d => decide (64 * ((p.entries.map fun e => if entryDue 0 e k then dramOf d e else 0).sum) ≤
      heldBytes p (fun h => h.src == 256 + d || h.dst == 256 + d) k)) &&
    (List.range 16).all fun u => decide (4096 * ((p.entries.map fun e =>
        if e.kind == .seat && e.unit / 4 == u && entryDue 0 e k then seatCount e.amount else 0).sum) ≤ heldBytes p (fun h => h.src == 268 + u) k)

/-- Slots of the channel filters that seats name: a SCAN_READ's its predicate's, every other one slot 0 (R284). -/
def slotsNamed (slots : Table (Bytes × Nat)) (img : Bytes) (p : TtPlan) : Bool :=
  p.entries.all fun e => e.kind != .seat ||
    (let o := imgOp img e.op
     let own := if e.op < imgOpCount img ∧ o.code = 0x61 then (opAttr img o 0xE).bind fun i => slotOf slots (imgPredicate img i) else none
     e.slot == own.getD 0)

/-- A plan serves a route: on its teams, with the run's PASS_STAGES and PASS_STRIDE where it has them, everything that its operations and
streams need in every pass still to begin; no fixed read but of a page that the map named (R170); its entries name operations and groups of the
image, and fixed reads in a row stand in one entry (R188). -/
def State.routePlanOk (s : State) (layout : List (Nat × Nat)) (slots : Table (Bytes × Nat)) (teams : List Nat) (r : Run) (p : TtPlan) : Bool :=
  let img := r.route.image
  let left := r.passes - r.begun
  let named := fun w : CwAddr => layout.any fun e => let b := BitVec.ofNat 64 e.2; entMapped b && entAddr b w.cw == w
  s.planForm false false p && p.teams == teams && (match r.form with | some f => f == (p.passStages, p.passStride) | none => true) &&
    ((List.range (max 1 left)).all fun i => s.readsOk p (r.begun + i) && (seated p (r.begun + i)).all fun q => named q.2.2) && carriesOk p && slotsNamed slots img p &&
    ((List.range (imgOpCount img)).all (s.opOk layout r p r.begun left)) && (imgStreams img).all (s.streamOk layout r p left) &&
    (p.entries.all fun e => decide (e.op < imgOpCount img) && (e.group == 0xFFFF || decide (e.group < groupCount img))) &&
    !(p.entries.any fun a => p.entries.any fun b => readsOn a b)

/-! ### Scans and the standing search timetable (R183, R185) -/

/-- Code words of a scan in ascending logical order. -/
def scanPieces (n : Ns) (block : Bytes) : List Piece :=
  let spans := (List.range (field block 24 2)).map fun j =>
    let a := field block (64 + 16 * j) 8
    (a / perWord n.rowBytes, (a + field block (64 + 16 * j + 8) 8 - 1) / perWord n.rowBytes + 1)
  ((spans.flatMap fun e => (List.range (e.2 - e.1)).map (e.1 + ·)).eraseDups).map fun k => (n.nsid - 1, k / 4, k % 4)

/-- A plan serves a scan: every mapped code word of its extents in one seat, in ascending order, each seat naming the plan's slot; coach cycles
where it computes on coaches. -/
def State.scanPlanOk (s : State) (layout : List (Nat × Nat)) (slot : Nat) (teams : List Nat) (n : Ns) (block : Bytes) (p : TtPlan) : Bool :=
  let need := (scanPieces n block).filterMap (pieceWord layout)
  let qs := seated p 0
  let stages := need.map fun w => ((qs.filter fun q => q.2.2 == w).map fun q => q.1)
  s.planForm false true p && s.readsOk p 0 && carriesOk p && p.teams == teams && qs.length == need.length &&
    (stages.all fun l => l.length == 1) && ((stages.zip (stages.drop 1)).all fun a => decide (a.1.headD 0 ≤ a.2.headD 0)) &&
    (qs.all fun q => q.2.1.slot == slot) && (field block 12 1 != 2 || p.entries.any fun e => e.kind == .coach)

/-- A plan serves a build: every mapped code word of the item store in one seat, on the session's teams, with coach cycles (R262, R263). -/
def State.buildPlanOk (s : State) (layout : List (Nat × Nat)) (teams : List Nat) (p : TtPlan) : Bool :=
  let need := (layout.filter fun e => entMapped (BitVec.ofNat 64 e.2)).flatMap fun e => (List.range 4).map fun c => entAddr (BitVec.ofNat 64 e.2) c
  let qs := seated p 0
  s.planForm false true p && s.readsOk p 0 && carriesOk p && p.teams == teams && qs.length == need.length &&
    (need.all fun w => (qs.filter fun q => q.2.2 == w).length == 1) && (qs.all fun q => q.2.1.slot == 0) && p.entries.any fun e => e.kind == .coach

/-- Open reads that a standing search timetable starts in a stage on a channel: min(Q, 3), or where dies are out of service as many as the
dies' time under R168 gives (DEDUCED: a run of 16 stages in 64, and one die at a time in its long run). -/
def State.searchReads (s : State) (q chan : Nat) : Nat :=
  let n := (s.fla.dies.filter fun d => chanOf d == chan).length
  if n = 16 then min q 3 else min (min q 3) ((n - 1) * (48 / max 1 s.fla.tRead) / 64)

/-- What a standing search timetable holds in each stage (R183): on each channel Q seats and its open reads, spread over the dies so that
each carries 4 × min(Q, 3) of a 64-stage cycle, one at a time less while it is in its long run and the others take its share; on each package its share of 64 × 40 lines for each seat; all
cycles of the session's teams. -/
def State.searchPlanOk (s : State) (teams : List Nat) (q : Nat) (t : Timetable) : Bool :=
  let at_ := fun (m : TtEntry → Nat) (k : Nat) => (t.plan.entries.map fun e => if entryDue t.base e (t.base + k) then m e else 0).sum
  s.planForm true true t.plan && t.plan.passStages == 64 && t.plan.passStride == 64 && t.plan.teams == teams && s.openReadsOk t &&
    (List.range 8192).all fun k =>
      (s.fla.channels.all fun c =>
        let dies := s.fla.dies.filter fun d => chanOf d == c
        let n := s.searchReads q c
        at_ (fun e => if e.kind == .seatOpen && e.unit == c then seatCount e.amount else 0) k == q &&
          at_ (fun e => if e.kind == .dieReadOpen && chanOf e.unit == c then 1 else 0) k == n &&
          (k % 64 != 0 ||
            (let held := dies.map fun d => ((List.range 64).map fun j => at_ (dieOf d) (k + j)).sum
             (held.all fun h => decide (h ≤ ceilDiv (64 * n) (dies.length - 1))) &&
               (dies.length != 16 || decide ((held.filter fun h => decide (h < 4 * n)).length ≤ 1))))) &&
      (s.drm.present.all fun p => at_ (dramOf p) k == ceilDiv (q * 2560) s.drm.present.length) &&
      teams.all fun team => at_ (coachOf team) k == 12300

/-! ### Nothing left (R174) -/

/-- A channel has no seat left: timetables hold all six in every stage. -/
def seatsGone (ts : List Timetable) (chan : Nat) : Bool := (List.range 64).all fun c => (ts.map fun t => t.seats chan c).foldl Nat.lor 0 == 63

/-- A die has no time left for a read. -/
def State.dieGone (s : State) (ts : List Timetable) (die : Nat) : Bool :=
  (List.range 64).all fun c => ((List.range s.fla.tRead).any fun j => dieTaken ts die (c + j)) || !freeRun ts die fun k => decide ((k + 64 - c) % 64 < s.fla.tRead)

/-- A package has no line left. -/
def linesGone (ts : List Timetable) (pkg : Nat) : Bool := (List.range 64).all fun c => jointHeld (ownHeld (dramOf pkg)) ts c == 6912

end Sys2Proof.Machine
end

