-- ==== Sys2Proof/Machine/Binds.lean ====
section
/-! DEFINITION. Loading routes, RUN and its queue, the binder's verdicts on routes, scan plans and standing search timetables, the
timetable cache, resumption, the end of a run, and waits that lapse (R128, R130, R156 to R182, R207 to R211, R230, R284, R415, R416). -/

namespace Sys2Proof.Machine

/-! ### Loading a route (R128, R130, R415) -/

/-- Working-part bytes that a session's part leaves. -/
def workFree (s : State) (x : Session) : Nat := x.quota.working * granule - workCharge s x

/-- Timetables of a handle dropped from the cache, but those of its present load. -/
def dropStale (h loads : Nat) (l : List CachedTt) : List CachedTt := l.filter fun c => !(c.handle == h && c.loads != loads)

/-- A complete image: the checks of R128, then it takes the handle. The cache of the handle goes at once where no run of it stands,
else when that run ends (R180). -/
def State.takeImage (s : State) (tag : Tag) (sess handle : Nat) (image : Bytes) (source : Option (Nat × Nat × Nat)) : State :=
  match s.sess? sess with
  | none => s
  | some x =>
    let old := x.routes.find? fun r => r.handle == handle
    let loads := (match old with | some r => r.loads | none => 0) + 1
    let others := x.routes.filter fun r => r.handle != handle
    let x' := { x with routes := others, partials := x.partials.filter fun p => p.handle != handle }
    let s := s.updSess sess fun x => { x with partials := x.partials.filter fun p => p.handle != handle }
    match imageCheck image with
    | 0 =>
      if workFree s x' < imageWorking image || protFree x' < imgSize image then s.refuse tag 0x0B
      else if 32 ≤ others.length then s.refuse tag 0x0C
      else
        let busy := match x.run with | some r => r.handle == handle | none => false
        let s := s.updSess sess fun x => { x with
          routes := others ++ [{ handle := handle, image := fit (imgSize image) image, loads := loads, hist := [], ePrev := [], source := source }]
          cache := if busy then x.cache else dropStale handle loads x.cache }
        s.succeed tag (imgSize image) loads []
    | r => s.refuse tag r

/-- ROUTE LOAD of one piece. DEDUCED: a first piece that is longer than its IMAGE_SIZE, or at another offset than 0, is out of
sequence. -/
def routeLoad (tag : Tag) (sess handle : Nat) (first : Bool) (offset : Nat) (piece : Bytes) (s : State) : State :=
  s.command tag {} fun c s => s.sessCommand c tag sess fun x s =>
    if 32 ≤ handle || 8388608 < piece.length then s.fail tag .invalidField
    else if first then
      if piece.length < 128 then s.fail tag .dataSglLength
      else if offset ≠ 0 then s.refuse tag 0x0D
      else
        let s := s.updSess sess fun x => { x with partials := x.partials.filter fun p => p.handle != handle }
        let x := { x with partials := x.partials.filter fun p => p.handle != handle }
        let size := imgSize piece
        if protFree x < size then s.refuse tag 0x0B
        else if size < piece.length then s.refuse tag 0x0D
        else if piece.length = size then s.takeImage tag sess handle piece none
        else (s.updSess sess fun x => { x with partials := x.partials ++ [⟨handle, size, piece⟩] }).succeed tag piece.length 0 []
    else match x.partials.find? fun p => p.handle == handle with
      | none => s.refuse tag 0x0D
      | some p =>
        if offset ≠ p.bytes.length || p.size < offset + piece.length then s.refuse tag 0x0D
        else if offset + piece.length = p.size then s.takeImage tag sess handle (p.bytes ++ piece) none
        else (s.updSess sess fun x => { x with partials := updateIf (fun p => p.handle == handle) (fun p => { p with bytes := p.bytes ++ piece }) x.partials }).succeed tag (offset + piece.length) 0 []

def execRouteLoad (tag : Tag) (sess handle : Nat) (first : Bool) (offset : Nat) (piece : Bytes) (s : State) : Host.Outcome State Fault Refusal :=
  .next (routeLoad tag sess handle first offset piece s)

/-- The image that a namespace extent holds: as many bytes as its IMAGE_SIZE says, where the extent has them. -/
def State.readImage (s : State) (n : Ns) (lba blocks : Nat) : Option Bytes × State :=
  match readSpan (n.nsid - 1) (lba * n.lba) (min 128 (blocks * n.lba)) s with
  | (none, s) => (none, s)
  | (some h, s) =>
    let len := min (imgSize h) (blocks * n.lba)
    readSpan (n.nsid - 1) (lba * n.lba) (if len = 0 then h.length else len) s

/-- ROUTE LOAD from a namespace extent: bytes beyond IMAGE_SIZE are ignored, an extent shorter than it fails with 0x07. DEDUCED: a
namespace under READ_LOCK refuses as one without quota does (R328). -/
def routeLoadExtent (tag : Tag) (sess handle nsid lba blocks : Nat) (s : State) : State :=
  s.command tag {} fun c s => s.sessCommand c tag sess fun x s =>
    if 32 ≤ handle then s.fail tag .invalidField
    else match s.ns? nsid with
      | none => s.refuse tag 0x43
      | some n =>
        if !readQuota x nsid || n.lock.readLock then s.refuse tag 0x43
        else if n.size < (lba + blocks) * n.lba then s.fail tag .lbaRange
        else
          let s := s.updSess sess fun x => { x with partials := x.partials.filter fun p => p.handle != handle }
          match s.readImage n lba blocks with
          | (none, s) => s.fail tag .readError
          | (some b, s) => s.takeImage tag sess handle b (some (nsid, lba, blocks))

def execRouteLoadExtent (tag : Tag) (sess handle nsid lba blocks : Nat) (s : State) : Host.Outcome State Fault Refusal :=
  .next (routeLoadExtent tag sess handle nsid lba blocks s)

/-! ### Teams and layouts (R164, R179) -/

/-- Teams of a session's partition with a coach in service, ascending. -/
def State.sessTeams (s : State) (x : Session) : List Nat :=
  match x.part with
  | none => []
  | some p => match s.part? p with
    | none => []
    | some q => (List.range 16).filter fun t => q.teams.contains t && s.teamServes t

/-- Map entries of pieces as they stand: key and entry. -/
def State.entriesOf (s : State) (ps : List (Nat × Nat)) : List (Nat × Nat) := ps.eraseDups.map fun p => (mapKey p.1 p.2, (s.entry p.1 p.2).toNat)

/-- Map entries of a run's fixed-read extents as they stand: of a SCAN_READ's all that its passes read, of every other tensor its bytes. -/
def State.layoutOf (s : State) (r : Run) : List (Nat × Nat) :=
  let img := r.route.image
  let scanned := fun i : Nat => (List.range (imgOpCount img)).any fun k => (imgOp img k).code == 0x61 && (imgOp img k).in? 0 == some i
  s.entriesOf ((fixedSources img).flatMap fun i =>
    match (r.slot? (imgTensor img i)).bind s.extent with
    | none => []
    | some (n, off, len) =>
      let m := if scanned i then len else (imgTensor img i).bytes
      (List.range ((off + m + 16383) / 16384 - off / 16384)).map fun k => (n.nsid - 1, off / 16384 + k))

/-! ### The cache (R179) -/

def State.layoutStands (s : State) (t : Timetable) : Bool := t.layout.all fun e => (Tab.get unmapped s.xlt.map e.1).toNat == e.2

/-- First pass start after a bind or a cache hit: the next multiple of 8 at least 2 stages on (R165). -/
def State.firstStart (s : State) : Nat := roundUp (s.stg.stage + 2) 8

/-- A route's timetable placed at the start of its first pass, with the passes still to begin; suspended from there on where its session does
not hold its teams. -/
def placeTt (t : Timetable) (base first ahead : Nat) (live : Bool) : Timetable :=
  { t with base := base, first := first, started := 0, ahead := ahead, suspended := if live then none else some base }

/-- Teams that a route uses (R164); none below MIN_TEAMS. -/
def State.routeTeams (s : State) (x : Session) (image : Bytes) : Option (List Nat) :=
  let ts := s.sessTeams x
  if x.part.isNone || ts.length < imgMinTeams image then none else some (ts.take (imgMaxTeams image))

/-- A cached timetable that is valid under its key. -/
def State.cached? (s : State) (x : Session) (r : Run) : Option CachedTt :=
  x.cache.find? fun c => c.handle == r.handle && c.loads == r.route.loads && c.crc == imgHeaderCrc r.route.image && c.slots == r.block.drop 32 &&
    c.tt.topoGen == s.ses.topoGen && s.routeTeams x r.route.image == some c.tt.plan.teams && s.layoutStands c.tt

/-- A timetable enters a session's cache as the newest, at most four for each handle (R179). -/
def cachePut (c : CachedTt) (l : List CachedTt) : List CachedTt :=
  let same := fun d : CachedTt => d.handle == c.handle && d.loads == c.loads && d.slots == c.slots && d.tt.plan.teams == c.tt.plan.teams
  let l := l.filter fun d => !same d
  let mine := (l.filter fun d => d.handle == c.handle).length
  let l := if 4 ≤ mine then (match l.find? fun d => d.handle == c.handle with | some d => l.erase d | none => l) else l
  l ++ [c]

/-! ### Slots and refusals (R176, R284, R328) -/

/-- Every namespace that a run's slots name for reading or writing allows it. -/
def State.slotsAllow (s : State) (x : Session) (r : Run) : Bool :=
  let img := r.route.image
  let src := nsSources img
  let nsidOf := fun i => (r.slot? (imgTensor img i)).map fun sl => sl.nsid
  (src.all fun i => match nsidOf i with
    | some k => (match s.ns? k with | some n => readQuota x k && !n.lock.readLock && n.deleting.isNone | none => false)
    | none => true) &&
  ((nsTargets img).all fun i => match nsidOf i with
    | some k => (match s.ns? k with | some n => writeQuota x k && !n.lock.writeLock && n.deleting.isNone | none => false)
    | none => true)

/-- Predicates that a bind evaluates on the channel filters. -/
def State.bindPredicates (x : Session) (w : BindFor) : List Bytes :=
  match w with
  | .route => (match x.run with | some r => scanPredicates r.route.image | none => [])
  | .search => []
  | .build _ _ => []
  | .scan id => (match x.scans.find? fun c => c.id == id with
    | some c => let p := slice c.block (roundUp (64 + 16 * field c.block 24 2) 64) (field c.block 20 4); if p.isEmpty then [] else [p]
    | none => [])

/-! ### The end of a run (R160 to R162, R416) -/

/-- The route status record of a run (R160). -/
def statusRecord (stamp : Nat) (r : Run) : Bytes :=
  toLe 8 stamp ++ toLe 8 (imgRouteId r.route.image) ++ toLe 4 r.done ++ toLe 1 r.fault ++ toLe 1 (r.flags % 8) ++ zeros 2 ++
    toLe 4 (r.faultOp.getD 0xFFFFFFFF) ++ toLe 4 r.saturations

/-- A new run of a route under a run block. -/
def newRun (tag : Tag) (block : Bytes) (route : Route) : Run :=
  { tag := tag, handle := route.handle, block := block, route := route, tt := none, passes := runPasses block, begun := 0, done := 0, nextStart := 0
    rebind := false, nextOp := none, groups := 0, group := none, tensors := [], staged := [], halves := [], missed := [], skipped := []
    ordinals := [], amax := [], flags := 0, saturations := 0, fault := 0, faultOp := none, staging := [], stalled := false, emitWait := none }

/-- A run with its timetable: its pass length and stride are settled, and its extents count as unwritten from now on (R165, R177). -/
def Run.bound (r : Run) (t : Timetable) : Run :=
  { r with tt := some t, nextStart := t.base, rebind := false, dirty := [], form := some (t.plan.passStages, t.plan.passStride) }

/-- No array operation that is queued or goes on occupies a die in a stage in which a timetable holds it (R11, R14). -/
def State.opsClear (s : State) (t : Timetable) : Bool :=
  s.fla.ops.all fun o => (List.range (o.ends - t.base)).all fun k => decide (t.base + k < o.starts) || ownHeld (dieOf o.die) t (t.base + k) == 0

/-- The largest counts of R187 with a timetable among the others: in one stage on one channel, package and link. -/
def State.notePeaks (s : State) (t : Timetable) : State :=
  let ts := (t :: s.tables.map fun u => u.2).eraseDups
  let hops := (ts.flatMap fun u => u.plan.links.flatMap fun h => routeHops h.src h.dst (s.routeOrder h.src h.dst == 1)).eraseDups
  let most := fun (f : Nat → Nat) => ((List.range t.span).map fun k => f (t.base + k)).foldl max 0
  let seats := fun c : Nat => ownHeld fun e => if (e.kind == .seat || e.kind == .seatOpen) && e.unit == c then seatCount e.amount else 0
  s.tt fun c => { c with
    peakSeats := max c.peakSeats (most fun n => (s.fla.channels.map fun ch => (ts.map fun u => seats ch u n).sum).foldl max 0)
    peakLines := max c.peakLines (most fun n => (s.drm.present.map fun p => (ts.map fun u => ownHeld (dramOf p) u n).sum).foldl max 0)
    peakFlits := max c.peakFlits (most fun n => (hops.map fun h => (ts.map fun u => s.ownFlits h u n).sum).foldl max 0) }

/-- A bind handed to the binder, behind those that wait; again: a change of R180 or R182 caused it. -/
def State.addBind (s : State) (sess : Nat) (w : BindFor) (again : Bool := false) : State :=
  { s with ses := { s.ses with binds := s.ses.binds ++ [{ id := s.ses.nextId, sess := sess, what := w, since := none, waiting := none, again := again }], nextId := s.ses.nextId + 1 } }

/-- A cached timetable of the same image and slots that is valid no longer, for its teams, the topology or a page that has moved (R179, R180). -/
def State.staleCached (s : State) (x : Session) (r : Run) : Bool :=
  x.cache.any fun c => c.handle == r.handle && c.loads == r.route.loads && c.slots == r.block.drop 32 &&
    !(c.tt.topoGen == s.ses.topoGen && s.routeTeams x r.route.image == some c.tt.plan.teams && s.layoutStands c.tt)

/-- A plan whose seats name the filter slots that a bind has taken now (R284). -/
def reslot (slots : Table (Bytes × Nat)) (img : Bytes) (p : TtPlan) : TtPlan :=
  { p with entries := p.entries.map fun e =>
      if e.kind = .seat then { e with slot := (if (imgOp img e.op).code = 0x61 then (opAttr img (imgOp img e.op) 0xE).bind fun i => slotOf slots (imgPredicate img i) else none).getD 0 }
      else e }

/-- A run becomes the session's run: from a cached timetable that still fits, serves every pass of the run, and whose slots and filters are to be
had, else by a bind (R163, R179, R284). -/
def State.startRun (s : State) (sess : Nat) (r : Run) : State :=
  let s := s.updSess sess fun x => { x with run := some r }
  match s.sess? sess with
  | none => s
  | some x =>
    match s.cached? x r with
    | none => s.addBind sess .route (s.staleCached x r)
    | some c =>
      match takeSlots (State.bindPredicates x .route) s.ses.slots with
      | none => s.addBind sess .route false
      | some slots =>
        let t := placeTt { c.tt with plan := reslot slots r.route.image c.tt.plan } s.firstStart 0 r.passes (s.holds x)
        if s.fitsAt x t && (s.fla.channels.all fun ch => seatsLowest ch (s.tables.map fun u => u.2) t) && s.opsClear t &&
            s.routePlanOk (s.layoutOf r) slots t.plan.teams r t.plan && s.slotsAllow x r && !(s.stg.exhausted && !(nsTargets r.route.image).isEmpty) then
          let s := { s with ses := { s.ses with slots := slots } }
          let s := s.updSess sess fun x => { x with cache := cachePut c x.cache, run := some (r.bound t) }
          (s.tt fun k => { k with cacheHits := k.cacheHits + 1 }).notePeaks t
        else s.addBind sess .route false

/-- The next RUN of a session starts, with the histories of its handle where the image still stands. -/
def State.nextRun (s : State) (sess : Nat) : State :=
  match s.sess? sess with
  | none => s
  | some x =>
    match x.run, x.queued with
    | none, (tag, block, route) :: rest =>
      let live := x.routes.find? fun y => y.handle == route.handle && y.loads == route.loads
      let s := s.updSess sess fun x => { x with queued := rest }
      s.startRun sess (newRun tag block (live.getD route))
    | _, _ => s

/-- A run is over: its binds, its filter slots and its timetable go, stale timetables leave the cache, and the next RUN starts. -/
def State.dropRun (s : State) (sess : Nat) : State :=
  match s.run? sess with
  | none => s
  | some (x, r) =>
    let s := if r.tt.isSome then s.freeSlots (scanPredicates r.route.image) else s
    let s := { s with ses := { s.ses with binds := s.ses.binds.filter fun b => !(b.sess == sess && b.what == BindFor.route) } }
    let loads := (x.routes.find? fun y => y.handle == r.handle).map fun y => y.loads
    let s := s.updSess sess fun x => { x with run := none, cache := match loads with | some l => dropStale r.handle l x.cache | none => x.cache }
    s.nextRun sess

/-- Staged data that has not been acknowledged when its run faults enters the buffer, or not, with whatever bytes (R4, R162). -/
def State.openStaging (s : State) (sess : Nat) (r : Run) : State :=
  r.staging.foldl (fun s g =>
    let (n, s) := s.drawNat
    let (b, s) := s.drawBytes g.2.2.2.length
    let ps := s.spanPieces g.2.1 g.2.2.1 b
    if n % 2 = 1 && (s.ns? (g.2.1 + 1)).isSome && s.fits (s.newUnits g.2.1 ps) then s.bufferWrite (some sess) g.2.1 ps else s) s

/-- Byte ranges of a target that operation k writes in the pass in progress: of a PUT the slices that its index names, where the index stands as
the PUT reads it; else all of the tensor (R154, R162, R203). -/
def State.passRanges (s : State) (x : Session) (r : Run) (k i : Nat) : List (Nat × Nat) :=
  let img := r.route.image
  let o := imgOp img k
  let t := imgTensor img i
  let now := r.nextOp.getD 0
  let e : OpEnv := ⟨img, o, (o.in? 2).toList.foldl (fun d i => Tab.set [] d i (s.peekPlaced x r i)) [], [], [], [], none, []⟩
  match o.in? 2, e.axis t.rank, e.index? 2 with
  | some ix, some a, some idx =>
    let moved := (List.range (imgOpCount img)).any fun j => decide (min k now ≤ j) && decide (j < max k now) && (targetsOf img (imgOp img j)).contains ix
    if o.code = 0x54 && (imgTensor img ix).place != 2 && !moved then (sliceRanges t (axisGeo t.shape a) idx).filter fun q => decide (q.1 + q.2 ≤ t.bytes)
    else [(0, t.bytes)]
  | _, _, _ => [(0, t.bytes)]

/-- What a faulting pass leaves: what it was writing into its session's regions holds free bytes, and so may the extents it was writing; what
passes before it wrote stands (R162). -/
def State.openResults (s : State) (x : Session) (r : Run) : State :=
  let img := r.route.image
  let open_ := fun (sl : RunSlot) (s : State) (q : Nat × Nat) =>
    let n := min (sl.length - q.1) q.2
    if reach x < sl.start + q.1 + n then s
    else
      let (b, s) := s.drawBytes n
      (quotaWrite 0 x.ranges (sl.start + q.1) b s).2
  let s := ((List.range (imgOpCount img)).flatMap fun k => (targetsOf img (imgOp img k)).map fun i => (k, i)).foldl (fun s p =>
    let t := imgTensor img p.2
    match (if t.place = 1 then r.slot? t else none) with
    | some sl => (s.passRanges x r p.1 p.2).foldl (open_ sl) s
    | none => s) s
  s.openStaging x.num r

/-- A run ends: its status record is held, then its command completes; what a faulting pass was writing is open. -/
def State.endRun (s : State) (sess : Nat) : State :=
  match s.run? sess with
  | none => s
  | some (x, r) =>
    let s := if r.fault ≠ 0 && r.nextOp.isSome then s.openResults x r else s
    let s := s.hold sess ⟨1, s.stamp, 0, r.flags % 8, statusRecord s.stamp r⟩
    let s := if s.stg.loaded then s.nextCycle else s
    let s := if r.fault = 0 then s.succeed r.tag r.done 0 [] else s.completeWith r.tag (.routeFault r.fault) r.fault r.done []
    s.dropRun sess

/-- Runs that have met a fault end at a boundary (R162). -/
def State.endFaulted (s : State) : State :=
  (s.ses.list.filter fun x => match x.run with | some r => r.fault != 0 | none => false).foldl (fun s x => s.endRun x.num) s

/-- A run ends once its passes are done, or the current one for an orphaned session, and every NS_WRITE of it has entered the buffer
(R236, R296). -/
def runComplete (sess : Nat) (s : State) : State :=
  match s.run? sess with
  | none => s
  | some (x, r) =>
    if s.powered && r.fault == 0 && r.nextOp.isNone && r.staging.isEmpty && (decide (r.passes ≤ r.done) || x.st == .orphaned) then s.endRun sess else s

def execRunComplete (sess : Nat) (s : State) : Host.Outcome State Fault Refusal := .next (runComplete sess s)

/-- RUN: a run block long enough for its slots, of a handle that holds an image; behind the session's runs in progress (R158, R416). DESIGN
CHOICE: R158 names no refusal of a PASSES outside 1 to 16,777,216 or a SLOT_COUNT above 256; such a block is taken as it stands, and a run of
0 passes ends with none done (log 71). -/
def run (tag : Tag) (sess handle : Nat) (block : Bytes) (s : State) : State :=
  s.command tag {} fun c s => s.sessCommand c tag sess fun x s =>
    if block.length < 32 || block.length < 32 + 32 * runSlotCount block then s.fail tag .dataSglLength
    else
      let block := block.take (32 + 32 * runSlotCount block)
      match x.routes.find? fun r => r.handle == handle with
      | none => s.refuse tag 0x64
      | some route => (s.updSess sess fun x => { x with queued := x.queued ++ [(tag, block, route)] }).nextRun sess

def execRun (tag : Tag) (sess handle : Nat) (block : Bytes) (s : State) : Host.Outcome State Fault Refusal :=
  .next (run tag sess handle block s)

/-! ### The binder (R163, R174, R176, R178) -/

def State.bind? (s : State) (id : Nat) : Option (Bind × Session) :=
  match s.ses.binds.find? fun b => b.id == id with
  | some b => (s.sess? b.sess).map fun x => (b, x)
  | none => none

def State.dropBind (s : State) (id : Nat) : State := { s with ses := { s.ses with binds := s.ses.binds.filter fun b => b.id != id } }

/-- What a bind is for ends with a status: its RUN, its SCAN, or the queries that wait for the standing search timetable. DESIGN CHOICE (log 71): a
build whose bind is refused or interrupted goes on waiting, and its bind is handed in again; no RESULT of R264 names it. -/
def State.endBind (s : State) (b : Bind) (x : Session) (st : Status) (dw0 : Nat) : State :=
  match b.what with
  | .route =>
    (match x.run with
    | some r =>
      let s := if r.begun = 0 then s else s.hold x.num ⟨1, s.stamp, 0, r.flags % 8, statusRecord s.stamp r⟩
      ((s.completeWith r.tag st dw0 0 []).dropRun x.num).dropBind b.id
    | none => s.dropBind b.id)
  | .search =>
    let wait := x.queries.filter fun q => q.admitted.isNone
    let s := wait.foldl (fun s q => s.completeWith q.tag st dw0 0 []) s
    (s.updSess x.num fun x => { x with queries := x.queries.filter fun q => q.admitted.isSome }).dropBind b.id
  | .build nsid gen => (s.dropBind b.id).addBind x.num (.build nsid gen) b.again
  | .scan id =>
    let mine := x.scans.filter fun c => c.id == id
    let s := mine.foldl (fun s c => s.completeWith c.tag st dw0 0 []) s
    (s.updSess x.num fun x => { x with scans := x.scans.filter fun c => c.id != id }).dropBind b.id

/-- A bind refused under R176; it counts (R187). -/
def State.refuseBind (s : State) (b : Bind) (x : Session) (reason : Nat) : State :=
  (s.tt fun k => { k with refusals := k.refusals + 1 }).endBind b x (.refused reason) reason

/-- The binder works: the main firmware cores run (R24, R178). -/
def State.binderRuns (s : State) : Bool := s.powered && s.boot.mode == .ready && !s.limpServes

/-- Stages within which a bind completes (R178). -/
def bindBound (nops fixed : Nat) : Nat := 64 + ceilDiv nops 128 + ceilDiv fixed 8192

/-- Map entries that the fixed reads of a bind go by. -/
def State.bindLayout (s : State) (b : Bind) (x : Session) : List (Nat × Nat) :=
  match b.what with
  | .route => (match x.run with | some r => s.layoutOf r | none => [])
  | .search => []
  | .build nsid _ => (match s.ns? nsid with | some n => s.entriesOf ((List.range (ceilDiv n.size 16384)).map fun u => (nsid - 1, u)) | none => [])
  | .scan id => match x.scans.find? fun c => c.id == id with
    | some c => (match s.ns? c.nsid with | some n => s.entriesOf ((scanPieces n c.block).map fun q => (q.1, q.2.1)) | none => [])
    | none => []

/-- Dies that a layout names. -/
def layoutDies (l : List (Nat × Nat)) : List Nat := ((l.map fun e => BitVec.ofNat 64 e.2).filter entMapped).map entDie |>.eraseDups

/-- Dies that the open reads of a run's GATHERs may need: those of the extents that they take slices from. -/
def State.gatherDies (s : State) (r : Run) : List Nat :=
  let img := r.route.image
  let src := ((List.range (imgOpCount img)).map (imgOp img)).filterMap fun o => if o.code = 0x53 then o.in? 0 else none
  layoutDies (s.entriesOf (((src.filter fun i => (imgTensor img i).place == 2).flatMap (s.tensorPieces r)).map fun q => (q.1, q.2.1)))

/-- No open program can be held: on no channel are seats left beside a die with time for it (R172, R174). -/
def State.programsGone (s : State) (ts : List Timetable) : Bool :=
  s.fla.channels.all fun c => seatsGone ts c || (s.fla.dies.filter fun d => chanOf d == c).all fun d =>
    (List.range 64).all fun a => ((List.range s.fla.tProg).any fun j => dieTaken ts d (a + j)) || !freeRun ts d fun k => decide ((k + 64 - a) % 64 < s.fla.tProg)

/-- Some unit that a bind needs has nothing left, or the channel filters hold no slot for it (R174, R284; DEDUCED: R174's shortage is a unit
with nothing left in any stage). -/
def State.short (s : State) (b : Bind) (x : Session) : Bool :=
  let ts := s.tables.map fun t => t.2
  let dies := layoutDies (s.bindLayout b x)
  let pkgs := (x.ranges.filter fun r => r.2.2 != 0).map fun r => r.1
  (takeSlots (State.bindPredicates x b.what) s.ses.slots).isNone || dies.any (fun d => seatsGone ts (chanOf d) || s.dieGone ts d) ||
    match b.what with
    | .route => pkgs.any (linesGone ts) || (match x.run with
      | some r => (s.gatherDies r).any (fun d => seatsGone ts (chanOf d) || s.dieGone ts d) ||
        ((List.range (imgOpCount r.route.image)).any fun k => (imgOp r.route.image k).code == 0x63) && s.programsGone ts
      | none => false)
    | .search => x.quota.seats != 0 && ((s.fla.channels.any fun c => (List.range 64).any fun k =>
        decide (6 < x.quota.seats + seatCount ((ts.map fun t => t.seats c k).foldl Nat.lor 0))) ||
        s.drm.present.any fun p => (List.range 64).any fun k => decide (6912 < jointHeld (ownHeld (dramOf p)) ts k + ceilDiv (x.quota.seats * 2560) s.drm.present.length))
    | .build _ _ => false
    | .scan id => (match x.scans.find? fun c => c.id == id with | some c => decide (0 < scanBuffer s c) | none => false) && pkgs.any (linesGone ts)

/-- The image of a run's first bind: where it was loaded from an extent, the one that the extent holds now takes its place, if it passes the
checks of R128 and its part has room; else the copy stands (R156; DEDUCED: R156 names no outcome for an image that fails). -/
def State.rereadImage (s : State) (x : Session) : State :=
  match x.run with
  | none => s
  | some r =>
    match (if r.begun = 0 then r.route.source else none).bind fun q => (s.ns? q.1).map fun n => (n, q.2.1, q.2.2) with
    | none => s
    | some (n, lba, blocks) =>
      match s.readImage n lba blocks with
      | (some b, s) =>
        if imageCheck b = 0 && decide (imgSize b ≤ protFree x + imgSize r.route.image) then
          let image := fit (imgSize b) b
          s.updSess x.num fun x => { x with
            run := x.run.map fun r => { r with route := { r.route with image := image } }
            routes := updateIf (fun y => y.handle == r.handle && y.loads == r.route.loads) (fun y => { y with image := image }) x.routes }
        else s
      | (none, s) => s

/-- The binder takes up a bind, or finds that some unit or filter slot is short and lets it wait. Those that wait are served in order of
submission: none goes before an earlier one that still waits, and a new one goes before them only where they are still short (R174). In limp
mode every bind is refused (R176). -/
def bind (id : Nat) (s : State) : State :=
  match s.bind? id with
  | none => s
  | some (b, x) =>
    let ahead := (s.ses.binds.takeWhile fun c => c.id != id).any fun c => c.waiting.isSome &&
      (b.waiting.isSome || match s.sess? c.sess with | some y => !s.short c y | none => false)
    if s.powered && s.fwc.limp.isSome then s.refuseBind b x 0x27
    else if !s.binderRuns || b.since.isSome || ahead then s
    else
      let s := if b.what == BindFor.route then s.rereadImage x else s
      match s.sess? x.num with
      | none => s
      | some x =>
        let upd := fun (f : Bind → Bind) => { s with ses := { s.ses with binds := updateIf (fun c => c.id == id) f s.ses.binds } }
        if 15 < (State.bindPredicates x b.what).length then s.refuseBind b x 0x29
        else if s.short b x then upd fun c => { c with since := none, waiting := some (c.waiting.getD s.stg.stage) }
        else upd fun c => { c with since := some s.stg.stage, waiting := none, waited := c.waited + match c.waiting with | some w => s.stg.stage - w | none => 0 }

def execBind (id : Nat) (s : State) : Host.Outcome State Fault Refusal := .next (bind id s)

/-- A wait for capacity of 1,048,576 stages ends in BUSY (R174). -/
def bindWaitExpiry (id : Nat) (s : State) : State :=
  match s.bind? id with
  | none => s
  | some (b, x) => match b.waiting with
    | some w => if s.powered && w + 1048576 ≤ s.stg.stage + b.waited then s.refuseBind b x 0x28 else s
    | none => s

def execBindWaitExpiry (id : Nat) (s : State) : Host.Outcome State Fault Refusal := .next (bindWaitExpiry id s)

/-- W of R200: the largest group's WINDOW tensors shared among so many coaches, rounded up to 4 KiB (DESIGN CHOICE: the binder shares a group's
window evenly; the spec names no shares). -/
def windowShare (img : Bytes) (coaches : Nat) : Nat :=
  let scale := fun (g i : Nat) => let t := imgTensor img i
    if (t.scaleKind = 1 || t.scaleKind = 2) && t.scaleTensor != noTensor && (streamOf? img g t.scaleTensor).isNone then (imgTensor img t.scaleTensor).bytes else 0
  let group := fun g : Nat => ((groupStreams img g).map fun st => if st.kind = 0 then (imgTensor img st.tensor).bytes + scale g st.tensor else 0).sum
  roundUp (ceilDiv (((List.range (groupCount img)).map group).foldl max 0) (max 1 coaches)) 4096

/-- Bytes that a coach holds at once beside its window for an operation whose reduction it carries: one row of each operand of a matrix product
that is not in the window, one lane of a normalisation (R140, R176; DEDUCED: no smaller share of an operation is whole). -/
def opHold (img : Bytes) (o : OpRec) : Nat :=
  let row := fun i : Nat => let t := imgTensor img i; ceilDiv (t.shape.getLastD 1 * fmtBits t.fmt) 8
  match o.code, o.in? 0, o.in? 1 with
  | 1, some x, some w | 2, some x, some w => row x + (if (streamOf? img o.group w).isSome then 0 else row w)
  | 0x21, some x, _ | 0x22, some x, _ | 0x23, some x, _ => row x
  | _, _, _ => 0

/-- Packages that hold a tensor of PLACE 1 of a run. -/
def State.tensorPkgs (x : Session) (r : Run) (i : Nat) : List Nat :=
  let t := imgTensor r.route.image i
  match (if t.place = 1 then r.slot? t else none) with
  | some sl => (granulePieces (t.bytes / granule + 2) sl.start t.bytes).filterMap fun p => (quotaAddr x.ranges p.1).map fun a => a / 2 ^ 36
  | none => []

/-- Packages that hold what a run's operations and streams read from the host part. -/
def State.readPkgs (x : Session) (r : Run) : List Nat :=
  let img := r.route.image
  ((((List.range (imgOpCount img)).flatMap fun k => sourcesOf (imgOp img k) ++ sideReads img (imgOp img k)) ++ (imgStreams img).map fun st => st.tensor).eraseDups).flatMap
    (State.tensorPkgs x r)

/-- A mapped page of a layout lies on a die out of service, or a tensor that a run reads in a package that is (R176). -/
def State.mediaOut (s : State) (x : Session) (r : Run) (l : List (Nat × Nat)) : Bool :=
  (layoutDies l).any (fun d => !s.dieIn d) || (State.readPkgs x r).any fun p => !s.drm.present.contains p

/-- A placement exists: every station that a route works with has a coach of the teams that reaches it and is reached from it, and some coach of
theirs likewise reaches each of these (R80, R176; DEDUCED: work that needs several stations may be spread over coaches that reach one another). -/
def State.pathFound (s : State) (x : Session) (teams : List Nat) (l : List (Nat × Nat)) : Bool :=
  let sts := ((x.ranges.filter fun r => r.2.2 != 0).map fun r => 256 + r.1) ++ ((layoutDies l).map fun d => 268 + hubOf d) ++ [286]
  let cs := (teams.flatMap teamCoaches).filter s.coachIn
  let both := fun a b : Nat => a == b || (s.routeOrder a b != 2 && s.routeOrder b a != 2)
  cs.any fun c => sts.all fun st => cs.any fun d => both c d && both d st

/-- The reason of R176 that refuses a bind as the module finds it when it completes, with the plan that the binder has; 0 for none. -/
def State.bindReason (s : State) (b : Bind) (x : Session) (p : Option TtPlan) : Nat :=
  let charge := match p with | some p => 24 * p.entries.length + 64 | none => 0
  let layout := s.bindLayout b x
  let long := match p with | some p => planLong p | none => false
  if s.fwc.limp.isSome then 0x27
  else match b.what with
  | .route =>
    (match x.run with
    | none => 0
    | some r =>
      let img := r.route.image
      match s.routeTeams x img with
      | none => 0x20
      | some teams =>
        if !s.slotsAllow x r then 0x21
        else if 2097152 < 2 * windowShare img ((teams.flatMap teamCoaches).filter s.coachIn).length +
            (((List.range (imgOpCount img)).map fun k => opHold img (imgOp img k)).foldl max 0) then 0x22
        else if x.quota.working * granule < workCharge s x || protFree x < charge then 0x23
        else if s.mediaOut x r layout then 0x24
        else if !s.pathFound x teams layout then 0x25
        else if long then 0x26
        else 0)
  | .search => if x.part.isNone then 0x20 else if protFree x < charge then 0x23 else 0
  | .build _ _ => if x.part.isNone then 0x20 else if protFree x < charge then 0x23 else if (layoutDies layout).any (fun d => !s.dieIn d) then 0x24 else if long then 0x26 else 0
  | .scan id =>
    (match x.scans.find? fun c => c.id == id with
    | none => 0
    | some c =>
      if field c.block 12 1 = 2 && x.part.isNone then 0x20
      else if !(match s.ns? c.nsid with | some n => readQuota x c.nsid && !n.lock.readLock && n.deleting.isNone | none => false) then 0x21
      else if x.quota.working * granule < workCharge s x || protFree x < charge then 0x23
      else if (layoutDies layout).any (fun d => !s.dieIn d) then 0x24
      else if long then 0x26
      else 0)

/-- A scan's extents hold no write in the buffer that was acknowledged before the SCAN was submitted (R293). -/
def State.scanLanded (s : State) (c : Scan) : Bool :=
  match s.ns? c.nsid with
  | some n => let us := (scanPieces n c.block).map fun q => q.2.1
    !s.xlt.buf.any fun u => u.ns + 1 == c.nsid && decide (u.seq < c.upTo) && us.contains u.unit
  | none => true

/-- The plan that the binder brings serves what it is for, and fits among the active timetables. -/
def State.planOk (s : State) (b : Bind) (x : Session) (slots : Table (Bytes × Nat)) (t : Timetable) : Bool :=
  let layout := s.bindLayout b x
  s.fitsAt x t && (s.fla.channels.all fun c => seatsLowest c (s.tables.map fun u => u.2) t) && s.openReadsOk t && s.opsClear t &&
    match b.what with
    | .route => (match x.run with
      | some r => (match s.routeTeams x r.route.image with | some ts => s.routePlanOk layout slots ts r t.plan | none => false)
      | none => false)
    | .search => s.searchPlanOk (s.sessTeams x) x.quota.seats t
    | .build _ _ => s.buildPlanOk layout (s.sessTeams x) t.plan
    | .scan id => match x.scans.find? fun c => c.id == id with
      | some c => (match s.ns? c.nsid with
        | some n =>
          let slot := match State.bindPredicates x b.what with | p :: _ => (slotOf slots p).getD 0 | [] => 0
          s.scanLanded c && s.scanPlanOk layout slot (if field c.block 12 1 = 2 then s.sessTeams x else []) n c.block t.plan
        | none => false)
      | none => false

/-- Counts of a bind that has ended; a rebind is one that R180 or R182 has caused (R187). -/
def State.countBind (s : State) (b : Bind) (again : Bool) (t : Timetable) : State :=
  let len := b.worked + (s.stg.stage - b.since.getD s.stg.stage)
  (s.tt fun c => { c with binds := c.binds + 1, rebinds := if again then c.rebinds + 1 else c.rebinds, maxBind := max c.maxBind len }).notePeaks t

/-- The timetable of a plan that a bind completes with now (R165, R188). -/
def State.newTt (s : State) (b : Bind) (x : Session) (p : TtPlan) : Timetable :=
  let route := match b.what, x.run with | .route, some r => some r | _, _ => none
  let t : Timetable := {
    plan := p, base := s.firstStart, first := (route.map fun r => r.begun).getD 0, started := if route.isSome then 0 else 1
    ahead := (route.map fun r => r.passes - r.begun).getD 0, suspended := none, bound := s.stamp, topoGen := s.ses.topoGen
    routeId := (route.map fun r => imgRouteId r.route.image).getD 0, layout := s.bindLayout b x }
  { t with peakFlits := s.linkPeak [t] }

/-- A bind completes: with the refusal that the module finds, or with a timetable that serves and fits, which takes its filter slots. Where some
unit has nothing left by then it waits (R174); where the binder has no such plan it goes on, with a longer pass (R165, R173, R176, R179). Past
the bound of R178 a bind neither completes nor is refused. -/
def bindComplete (id : Nat) (e : BindEnd) (s : State) : State :=
  match s.bind? id with
  | none => s
  | some (b, x) =>
    match b.since with
    | none => s
    | some since =>
      let p := match e with | .fits p => some p | .refuse _ => none
      let writes := match b.what, x.run with | .route, some r => !(nsTargets r.route.image).isEmpty | _, _ => false
      let spent := b.worked + (s.stg.stage - since)
      let nops := match b.what, x.run with | .route, some r => imgOpCount r.route.image | _, _ => 0
      if !s.powered || bindBound nops (4 * (s.bindLayout b x).length) < spent then s
      else if s.stg.exhausted && writes then s.endBind b x .stampExhausted 0
      else match s.bindReason b x p with
        | r + 1 => s.refuseBind b x (r + 1)
        | 0 =>
          if s.short b x then
            { s with ses := { s.ses with binds := updateIf (fun c => c.id == id) (fun c => { c with since := none, waiting := some s.stg.stage, worked := spent }) s.ses.binds } }
          else match p, takeSlots (State.bindPredicates x b.what) s.ses.slots with
            | some p, some slots =>
              let t := s.newTt b x p
              let fixed := match b.what with | .scan _ => (seated p 0).length | _ => ((p.entries.filter fun e => e.kind == .dieRead).map fun e => max 1 e.rep).sum
              if !s.planOk b x slots t || bindBound nops fixed < spent then s
              else
                let live := s.holds x
                let again := b.again || match b.what, x.run with | .route, some r => r.rebind | _, _ => false
                let s := ({ s with ses := { s.ses with slots := slots } }.countBind b again t).dropBind id
                match b.what with
                | .route => s.updSess x.num fun x => match x.run with
                  | some r =>
                    let t := placeTt t t.base t.first t.ahead live
                    { x with run := some (r.bound t), cache := cachePut ⟨r.handle, r.route.loads, imgHeaderCrc r.route.image, r.block.drop 32, t⟩ x.cache }
                  | none => x
                | .search => s.updSess x.num fun x => { x with search := some t }
                | .build nsid gen => s.updSess x.num fun x => { x with
                    buildTts := x.buildTts ++ [((nsid, gen), if live then t else { t with suspended := some t.base })] }
                | .scan k =>
                  let hold := fun c : Scan => if field c.block 12 1 = 2 && !live then { t with suspended := some t.base } else t
                  let slot := match State.bindPredicates x b.what with | q :: _ => (slotOf slots q).getD 0 | [] => 0
                  s.updSess x.num fun x => { x with
                    scans := updateIf (fun c => c.id == k) (fun c => { c with bound := true, slot := slot, tt := some (hold c) }) x.scans }
            | _, _ => s

def execBindComplete (id : Nat) (e : BindEnd) (s : State) : Host.Outcome State Fault Refusal := .next (bindComplete id e s)

/-! ### Resumption (R230, R504) -/

/-- A suspended timetable that may resume at a stage: R − B′ is a multiple of 64 (R230). -/
def resumes (r : Nat) (t : Timetable) : Bool :=
  match t.suspended with
  | some b => decide (r < b) || (r - b) % 64 == 0
  | none => false

/-- Resumed at a stage: every unreleased entry moves by R − B′; the seats of what had been sensed before B′ have been released by then, within the
stages of a sense (R229). -/
def resumeTt (tRead r : Nat) (t : Timetable) : Timetable := { shiftTt (r - t.suspended.getD r) t with suspended := none, seatsFrom := r + tRead }

/-! ### Waits that lapse (R170, R207 to R211) -/

/-- READs of a context still unanswered and not yet sent again: the mark stands in the kept waybill's stamp field (R208). -/
def State.lateReads (s : State) (coach ctx : Nat) : List (Nat × Bytes) :=
  s.coa.reads.filter fun e => e.1 / 2 ^ 32 == coach && tagCtx (e.1 % 2 ^ 32) == ctx && wbShort e.2 == 0

def markReissued (w : Bytes) : Bytes := overlay w 4 (toLe 4 1)

/-- One miss of a window or staged block in a pass, counted: FALLBACK's path, or ROUTE_STALL. -/
def State.missBlock (s : State) (sess kind tensor block pass : Nat) : State :=
  match s.run? sess with
  | none => s
  | some (x, r) =>
    match (imgStreams r.route.image).find? fun st => st.tensor == tensor && st.kind == kind with
    | none => s
    | some st =>
      let s := s.health (missCount kind 1)
      if fallbackOf x st = 0 then s.faultHere sess 3
      else (s.flagRun sess 0).updRun sess fun r => if pass = r.done then { r with missed := r.missed ++ [(tensor, block)] } else r

/-- A block of a run misses under FALLBACK NONE, or STRICT (R143, R210). -/
def State.blockStalls (s : State) (sess kind tensor : Nat) : Bool :=
  match s.run? sess with
  | some (x, r) => (match (imgStreams r.route.image).find? fun st => st.tensor == tensor && st.kind == kind with | some st => fallbackOf x st == 0 | none => false)
  | none => false

/-- The walk of a coach's context changed. -/
def State.updWalk (s : State) (sess coach ctx : Nat) (f : Walk → Walk) : State :=
  s.updSess sess fun x => { x with queries := x.queries.map fun q => { q with walks := updateIf (fun w => w.coach == coach && w.ctx == ctx) f q.walks } }

/-- A context whose wait has lapsed with no cheaper path is HALTED, with ROUTE_STALL in its STATUS (R74, R161). -/
def State.haltStalled (s : State) (coach ctx : Nat) (stalls : Bool) : State :=
  if stalls then s.setCtx coach ctx { s.ctx coach ctx with st := .halted, fault := 3 } else s

/-- A miss of a block of the pass in progress. -/
def State.missHere (s : State) (sess kind tensor block : Nat) : State :=
  s.missBlock sess kind tensor block (match s.run? sess with | some (_, r) => r.done | none => 0)

/-- A context's wait lapses at its stage: a dropped DRAM READ is sent again once; else the context goes on with the cheaper path of its
miss. -/
def waitLapse (coach ctx : Nat) (m : Miss) (s : State) : State :=
  let c := s.ctx coach ctx
  if !s.coreClock || c.st != .waiting || c.lapse = 0 || s.stg.stage < c.lapse then s
  else
    let late := s.lateReads coach ctx
    if !late.isEmpty then
      let s := s.reissueReads fun k => late.any fun e => e.1 == k
      { s with coa := { s.coa with reads := updateIf (fun e => late.any fun l => l.1 == e.1) (fun e => (e.1, markReissued e.2)) s.coa.reads } }
    else
      let s := s.setCtx coach ctx { c with st := .ready, tag := 0, replies := 0, lapse := 0 }
      match s.coachSess coach with
      | none => s
      | some n =>
        match m with
        | .rerank _ =>
          let s := s.health fun h => { h with missRerank := h.missRerank + 1 }
          (match s.sess? n with
          | some x => s.updWalk n coach ctx fun w => { w with lapsed := w.lapsed + 1, approx := w.approx || !x.strict }
          | none => s)
        | .hop => (s.health fun h => { h with missHop := h.missHop + 1 }).updWalk n coach ctx fun w => { w with lapsed := w.lapsed + 1 }
        | .codes _ => (s.health fun h => { h with missCodes := h.missCodes + 1 }).updWalk n coach ctx fun w => { w with lapsed := w.lapsed + 1, approx := true }
        | .window t b => (s.haltStalled coach ctx (s.blockStalls n 0 t)).missHere n 0 t b
        | .stageIn t b => (s.haltStalled coach ctx (s.blockStalls n 1 t)).missHere n 1 t b
        | .stall => ((s.haltStalled coach ctx true).health fun h => { h with missStall := h.missStall + 1 }).faultHere n 3

def execWaitLapse (coach ctx : Nat) (m : Miss) (s : State) : Host.Outcome State Fault Refusal := .next (waitLapse coach ctx m s)

end Sys2Proof.Machine
end

