-- ==== Sys2Proof/Machine/Flash.lean ====
section
/-! DEFINITION. The flash channel array: ends of array operations, recovery of DIRTY code words, the correction cache, open
reads that lapse, and raw programming (R14, R307 to R325). -/

namespace Sys2Proof.Machine

/-! ### Senses (R307, R313, R335, R362) -/

/-- The array runs: with power, or while the bank carries a flush (R324), and its channels have their clock (R49). -/
def State.arrayRuns (s : State) : Bool := s.pwr.standby && s.pwr.rails && !s.pwr.energyGone && s.clk.flash.target.isNone

/-- A sense issued: the die is occupied for t_read, each plane's read count rises, and a count past 200,000 moves its block to
the head of the patrol queue. -/
def State.issueSense (s : State) (die block page : Nat) (planes : List Nat) : State :=
  let s := planes.foldl (fun s q => s.countSenses (pbKey die q block) 1) s
  s.beginOp die (.sense block page planes) s.fla.tRead

/-- n re-senses of a code word's page, queued for its die in stages that no timetable holds (R315, R362). -/
def State.resense (s : State) (w : CwAddr) (n : Nat) : State :=
  (List.replicate n ()).foldl (fun s _ => s.queueSense w.die w.block w.page [w.plane]) s

/-- Zero bits of a byte string. -/
def zeroBits (b : Bytes) : Nat := (b.map fun x => ((List.range 8).filter fun i => !x.getLsbD i).length).sum

/-- Class of a code word as sensed (R307, R323, R325): an undefined one reads as the media has it, by the operands; any other is DIRTY where the
media so decide, and else what its bits make it: ERASED with at most 64 zeros, DIRTY where its parity does not match. A marked one never decodes. -/
def wordClass (w : CWord) (dirty erased : Bool) : CwClass :=
  if dirty || w.void then .dirty
  else if w.undefined then (if erased then .erased else .clean)
  else match w.raw with
    | some r =>
      let b := fit 4608 r
      if zeroBits b ≤ 64 then .erased else if b.drop 4160 == fit 448 (Config.ldpcParity (b.take 4160)) then .clean else .dirty
    | none => if w == {} then .erased else .clean

/-- Units whose map entry names a page that landed and fails its META checks (R335). -/
def State.badUnits (s : State) (die block page plane : Nat) (cls : List CwClass) : List (Nat × Nat) :=
  ((s.xlt.map.filter fun e => entPpa e.2 == ppa die block page && entPlane e.2 == plane).filter fun e =>
    (cls.zipIdx).any fun c => c.1 != .dirty &&
      !wordChecks (s.word ⟨die, plane, block, page, c.2⟩) (e.1 / 2 ^ 40) (e.1 % 2 ^ 40) c.2 (entStamp e.2)).map fun e => (e.1 / 2 ^ 40, e.1 % 2 ^ 40)

/-- A sense ends: each plane's cache register takes the page, its code words and their classes, and the first read that waits for it has it; dirty
and erased name code words as plane × 4 + number. -/
def dieSenseComplete (die : Nat) (dirty erased : List Nat) (s : State) : State :=
  match s.opOn die with
  | some ⟨d, .sense block page planes, starts, ends, ended⟩ =>
    if !s.arrayRuns || s.stg.stage + 1 < ends then s
    else
      let s := s.endOp ⟨d, .sense block page planes, starts, ends, ended⟩
      let s := { s with xlt := { s.xlt with plain := dropSense (die, block, page, planes) s.xlt.plain } }
      planes.foldl (fun s q =>
        let words := (List.range 4).map fun c => s.word ⟨die, q, block, page, c⟩
        let cls := words.zipIdx.map fun w => wordClass w.1 (dirty.contains (q * 4 + w.2)) (erased.contains (q * 4 + w.2))
        let s := { s with fla := { s.fla with cache := Tab.put s.fla.cache (die * 4 + q) ⟨block, page, cls, words⟩ } }
        (s.badUnits die block page q cls).foldl (fun s u => s.mapFault u.1 u.2) s) s
  | _ => s

def execDieSenseComplete (die : Nat) (dirty erased : List Nat) (s : State) : Host.Outcome State Fault Refusal :=
  .next (dieSenseComplete die dirty erased s)

/-! ### Programs and erases (R318, R320, R324) -/

/-- The sequence runs from the input: HOLD, a thermal shutdown, the OFF action (R441, R445, R485). -/
def State.fromInput (s : State) : Bool := s.pwr.trigger == 4 || s.pwr.trigger == 5 || s.pwr.trigger == 7

/-- Energy left in 10⁻⁸ J above what is kept back carries one more program to its end (R324, R430; DEDUCED: at the 300 W of
R430); a sequence run from the input is not short of it. -/
def State.energyFor (s : State) : Bool :=
  s.fromInput || decide (100000000 + 246000 * s.fla.tProg ≤ 45 * s.pwr.cMeas * (s.pwr.vbank * s.pwr.vbank - 40000))

/-- The flush sequencer's page sets, by the oldest acknowledged write each holds, as many at once as dies allow; a stream that finds no place
holds up no other (R324). -/
def flushSets : Nat → List Nat → State → State
  | 0, _, s => s
  | fuel + 1, blocked, s =>
    match s.xlt.buf.find? fun b => s.mayLand b && !s.needsFill b && !blocked.contains (s.streamOf b.ns) with
    | none => s
    | some b =>
      if !s.energyFor then s
      else
        let n := s.xlt.sets.length
        let k := s.streamOf b.ns
        let s := placeStream k (fun _ => true) 1 s
        flushSets fuel (if s.xlt.sets.length = n then k :: blocked else blocked) s

/-- The used rows of every open accumulator as KIND 4 code words (R358). -/
def State.spillWords (s : State) : List CWord :=
  (s.xlt.acc.filter fun e => s.xlt.accOpen.contains (e.1 / 8192)).map fun e => { data := e.2, ns := 255, unit := e.1 / 8192 + e.1 % 8192 * 65536, kind := 4 }

/-- The spill and then the event log, the last programs of the flush (R324, R358, R486). -/
def State.spill (s : State) : State :=
  let ws := s.spillWords
  let (_, s) := State.firmwareWrite 13 (fun _ => true) ws.length ws s
  let (_, s) := s.firmwareSet 12 (fun _ => true) (fun _ => true) (logWords s.fwc.events)
  { s with pwr := { s.pwr with spilled := true } }

/-- The flush sequencer goes on: the reads that partly written units need, the page sets of dirty units; once none of these is left or can be
placed, the last programs (R324, R341). -/
def flushMore (s : State) : State :=
  if s.pwr.seq == .flush && s.arrayRuns && !s.pwr.spilled then
    let s := ({ s with xlt := { s.xlt with shutdowns := [] } } : State).startFills
    let s := flushSets (s.xlt.buf.length + 8) [] s
    if s.xlt.sets.isEmpty && (s.xlt.plain.isEmpty || !s.energyFor) then s.spill else s
  else s

/-- A program ends, with the planes that failed (R320). -/
def dieProgramComplete (die : Nat) (failed : List Nat) (s : State) : State :=
  match s.opOn die with
  | some ⟨d, .program id, starts, ends, ended⟩ =>
    if !s.arrayRuns || s.stg.stage + 1 < ends then s
    else
      let s := s.endOp ⟨d, .program id, starts, ends, ended⟩
      match s.xlt.sets.find? fun p => p.id == id with
      | some p => flushMore (if p.units.isEmpty then s.endFirmware p failed else s.endProgram p failed).markCheck.finishShutdown
      | none => flushMore s
  | _ => s

def execDieProgramComplete (die : Nat) (failed : List Nat) (s : State) : Host.Outcome State Fault Refusal :=
  .next (dieProgramComplete die failed s)

/-- A superblock whose erases have all ended returns to the free pool. -/
def State.freeErased (s : State) (i : Nat) : State :=
  if (s.sb i).st == .erasing && !(s.fla.ops.any fun o => !o.ended && match o.work with | .erase b _ => sbOf o.die b == i | _ => false) then
    (s.setSb i {}).clearFull
  else s

/-- Plane blocks queued to be erased, by die and block, but for those whose erase is queued already. -/
def State.queueErases (s : State) (l : List Nat) : State :=
  let l := l.filter fun pb => !s.fla.ops.any fun o => o.die == pbDie pb && !o.ended && match o.work with | .erase b qs => b == pbBlock pb && qs.contains (pbPlane pb) | _ => false
  ((l.map fun pb => (pbDie pb, pbBlock pb)).eraseDups).foldl (fun s p =>
    s.queueOp p.1 (.erase p.2 ((l.filter fun pb => pbDie pb == p.1 && pbBlock pb == p.2).map pbPlane)) s.fla.tErase) s

/-- A TEST session whose blocks are all erased again ends: MODE changes (R322). -/
def State.testDone (s : State) (hub : Nat) : State :=
  let m := Tab.get 0 s.fla.pgWish hub
  let left := s.fla.testBlocks.filter fun pb => hubOf (pbDie pb) == hub
  if m = 0 then s
  else if !left.isEmpty then s.queueErases left
  else { s with fla := { s.fla with pgmode := Tab.set 0 s.fla.pgmode hub (m - 1), pgWish := Tab.set 0 s.fla.pgWish hub 0 } }

/-- An erase ends: planes that failed are retired, the others hold nothing (R318, R320). -/
def dieEraseComplete (die : Nat) (failed : List Nat) (s : State) : State :=
  match s.opOn die with
  | some ⟨d, .erase block planes, starts, ends, ended⟩ =>
    if !s.arrayRuns || s.stg.stage + 1 < ends then s
    else
      let left := fun l : List Nat => l.filter fun pb => !(pbDie pb == die && pbBlock pb == block && planes.contains (pbPlane pb))
      let s := { s with fla := { s.fla with eraseCut := left s.fla.eraseCut, testBlocks := left s.fla.testBlocks } }.endOp
        ⟨d, .erase block planes, starts, ends, ended⟩
      let s := planes.foldl (fun s q =>
        let pb := pbKey die q block
        if failed.contains q then (s.health fun h => { h with eraseFail := h.eraseFail + 1 }).retire pb 2 else s.erasePlane pb) s
      flushMore ((s.freeErased (sbOf die block)).testDone (hubOf die))
  | _ => s

def execDieEraseComplete (die : Nat) (failed : List Nat) (s : State) : Host.Outcome State Fault Refusal :=
  .next (dieEraseComplete die failed s)

/-! ### Recovery (R315, R316) -/

/-- A code word that no step decodes: rebuilt from its superblock's parity where that stands, else its unit is LOST (R356 to
R360). -/
def State.uncorrectable (s : State) (a : CwAddr) : State :=
  let i := pbSb (pbOf a)
  let x := s.sb i
  if s.xlt.accOpen.contains i || isStolrak x.stream then (s.keepCorrected a).patrolFirst (pbOf a)
  else
    let w := s.word a
    let e := s.entry w.ns w.unit
    if w.kind = 1 && entMapped e && entPpa e = ppa a.die a.block a.page && entPlane e = a.plane then s.loseUnit w.ns w.unit 3 else s

/-- The step after a failed decode. -/
def nextStep (retry soft : Nat) (r : Recovery) : Option Recovery :=
  let third := if soft = 0 then none else some { r with step := 3, tries := 0 }
  if r.step = 1 then (if retry = 0 then third else some { r with step := 2, tries := 0 })
  else if r.step = 2 then (if r.tries + 1 < retry then some { r with tries := r.tries + 1 } else third)
  else none

/-- Senses that a step takes. -/
def stepSenses (soft step : Nat) : Nat := if step = 2 then 1 else if step = 3 then soft else 0

/-- A sense of a code word's page is under way or queued on its die. -/
def State.sensing (s : State) (w : CwAddr) : Bool :=
  s.fla.ops.any fun o => o.die == w.die && !o.ended && match o.work with | .sense b p qs => b == w.block && p == w.page && qs.contains w.plane | _ => false

/-- Raw read-outs of a step: two seats for each of its senses, and for step 1. -/
def stepSeats (soft step : Nat) : Nat := 2 * max 1 (stepSenses soft step)

/-- At a boundary the raw read-outs of recoveries whose senses have ended are numbered behind what waits on their channels (R315). -/
def State.recovTick (s : State) : State :=
  s.fla.recov.foldl (fun s r =>
    if r.left.isSome || s.sensing r.word then s
    else
      let s := s.freeSeats (chanOf r.word.die) (stepSeats s.fla.softSenses r.step)
      { s with fla := { s.fla with recov := updateIf (fun x => x.word == r.word) (fun x => { x with left := some (Tab.get 0 s.fla.seatDebt (chanOf r.word.die)) }) s.fla.recov } }) s

/-- A recovery whose raw read-outs all pass by the end of this stage. -/
def State.readOut (s : State) (r : Recovery) : Bool :=
  match r.left with | some n => decide (n ≤ s.seatsLeft (chanOf r.word.die) s.stg.stage) | none => false

/-- One decode of the hub's first code word under recovery whose raw read-outs have passed: the first that succeeds ends it, and a
step of 2 or later sends the block to the head of the patrol queue; after a failure the senses of the next step are queued. Where the plane
has been sensed again before step 1, that step takes a sense first. -/
def dirtyRecoveryStep (hub : Nat) (ok : Bool) (s : State) : State :=
  match s.fla.recov.find? fun r => hubOf r.word.die == hub with
  | none => s
  | some r =>
    let others := s.fla.recov.filter fun x => x.word != r.word
    let goOn := fun (r' : Recovery) (n : Nat) => ({ s with fla := { s.fla with recov := r' :: others } } : State).resense r.word n
    if !s.flashClock || s.sensing r.word || !s.readOut r then s
    else if r.step = 1 && (s.cached r.word).isNone then goOn { r with left := none } 1
    else if ok then
      let s := ({ s with fla := { s.fla with recov := others } } : State).keepCorrected r.word
      if 2 ≤ r.step then s.patrolFirst (pbOf r.word) else s
    else match nextStep s.fla.retrySenses s.fla.softSenses r with
      | some r' => goOn { r' with left := none } (stepSenses s.fla.softSenses r'.step)
      | none => ({ s with fla := { s.fla with recov := others } } : State).uncorrectable r.word

def execDirtyRecoveryStep (hub : Nat) (ok : Bool) (s : State) : Host.Outcome State Fault Refusal := .next (dirtyRecoveryStep hub ok s)

/-! ### Open reads that lapse (R14, R187) -/

/-- The session with an open read reserved on a die in a stage, and its partition. -/
def State.openOwner (s : State) (die stage : Nat) : Option (Nat × Session) :=
  s.ses.list.findSome? fun x => match x.part with
    | some p => if reservedOpen x die stage then some (p, x) else none
    | none => none

/-- An open die read not filled by the end of the stage before its own lapses, and its seat with it. -/
def openReadLapse (die stage : Nat) (s : State) : State :=
  match s.openOwner die stage with
  | none => s
  | some (part, _) =>
    if s.powered && stage == s.stg.stage && !(s.fla.openReads.any fun o => o.die == die && o.stage == stage && !o.readOut) then
      let o : OpenRead := { part := part, die := die, stage := stage, readOut := false, fill := none }
      { s with fla := { s.fla with openReads := s.fla.openReads ++ [o] } }.tt fun t => { t with seatsLapsed := t.seatsLapsed + 1 }
    else s

def execOpenReadLapse (die stage : Nat) (s : State) : Host.Outcome State Fault Refusal := .next (openReadLapse die stage s)

/-! ### Raw programming (R321 to R323) -/

/-- FLA_PGMODE may change: before ready, or held in the diagnostic state. -/
def State.pgmodeOpen (s : State) (hub key : Nat) : Bool :=
  s.powered && decide (hub < 16) && (s.boot.mode == .bringUp || s.boot.mode == .diagnostic) && key == 0xA5

def State.setPgmode (s : State) (hub mode : Nat) : State :=
  { s with fla := { s.fla with pgmode := Tab.set 0 s.fla.pgmode hub mode, pgWish := Tab.set 0 s.fla.pgWish hub 0 } }

/-- Blocks that a TEST session of a hub programmed are to be erased before MODE changes (R322). -/
def State.endTest (s : State) (hub mode : Nat) : State :=
  ({ s with fla := { s.fla with pgWish := Tab.set 0 s.fla.pgWish hub (mode + 1) } } : State).testDone hub

def flaPgmodeService (hub key : Nat) (s : State) : State := if s.pgmodeOpen hub key then s.endTest hub 0 else s
def execFlaPgmodeService (hub key : Nat) (s : State) : Host.Outcome State Fault Refusal := .next (flaPgmodeService hub key s)

def flaPgmodeRecovery (hub key : Nat) (s : State) : State := if s.pgmodeOpen hub key then s.endTest hub 1 else s
def execFlaPgmodeRecovery (hub key : Nat) (s : State) : Host.Outcome State Fault Refusal := .next (flaPgmodeRecovery hub key s)

def flaPgmodeTest (hub key : Nat) (s : State) : State := if s.pgmodeOpen hub key then s.setPgmode hub 2 else s
def execFlaPgmodeTest (hub key : Nat) (s : State) : Host.Outcome State Fault Refusal := .next (flaPgmodeTest hub key s)

/-- The new content would take some bit from 0 to 1. -/
def raisesBit (old new : Bytes) : Bool := (old.zip new).any fun p => (~~~ p.1 &&& p.2) != 0

/-- A code word bears the RETIRE or the VOID mark on a raw read (R323). -/
def isMarked (raw : Bytes) : Bool := decide (480 ≤ zeroBits (slice raw 4096 64))
def isRetireMark (raw : Bytes) : Bool := isMarked raw && decide (480 ≤ zeroBits (raw.take 64))

/-- A raw program of a code word queued for its die, after a raw read-out: each moves the code word in two seats (R304, R308, R313, R322). -/
def State.rawProgram (s : State) (a : CwAddr) (readFirst : Bool) : State :=
  let s := if readFirst then (s.queueSense a.die a.block a.page [a.plane]).freeSeats (chanOf a.die) 2 else s
  (s.freeSeats (chanOf a.die) 2).queueOp a.die (.program 0) s.fla.tProg

/-- A raw program of a code word: in RECOVERY, the hub refuses one that would raise a bit and leaves NEXT alone; in TEST, no check
is made and the block is to be erased; what a cell becomes that a TEST program would raise is open (R321, R322). -/
def recoveryRawProgram (a : CwAddr) (raw : Bytes) (s : State) : State :=
  let mode := Tab.get 0 s.fla.pgmode (hubOf a.die)
  let old := rawWord s.fla.words a
  let new := fit 4608 raw
  if !s.flashClock || !s.dieIn a.die || 4 ≤ a.plane || 4096 ≤ a.block || 512 ≤ a.page || 4 ≤ a.cw then s
  else if mode = 2 || (mode = 1 && !raisesBit old new) then
    let (new, s) := if raisesBit old new then s.drawBytes 4608 else (new, s)
    let w := { s.word a with raw := some (trim new), void := isMarked new }
    let s := ({ s with fla := { s.fla with words := Tab.put s.fla.words (cwKey a) w } } : State).rawProgram a (mode == 1)
    if mode = 2 then { s with fla := { s.fla with testBlocks := insertNat (pbOf a) s.fla.testBlocks } }
    else if isRetireMark new && a.page = 0 && a.cw = 0 then
      { s with fla := { s.fla with retireMarked := insertNat (pbOf a) s.fla.retireMarked } }
    else s
  else s

def execRecoveryRawProgram (a : CwAddr) (raw : Bytes) (s : State) : Host.Outcome State Fault Refusal := .next (recoveryRawProgram a raw s)

end Sys2Proof.Machine
end

