-- ==== Sys2Proof/Machine/Store.lean ====
section
/-! DEFINITION. The plain I/O commands: Write, Read, Flush, Write Zeroes and Dataset Management, with and without locators, and the
landing of leaf loads (R334 to R347, R398, R411, R412, R503). -/

namespace Sys2Proof.Machine

/-- Slots of 4 KiB that a namespace's logical block holds. -/
def blockSlots (n : Ns) : Nat := n.lba / 4096

/-- A range of blocks lies within the namespace. -/
def inRange (n : Ns) (slba blocks : Nat) : Bool := decide ((slba + blocks) * n.lba ≤ n.size)

/-- Status of conditions 4 to 8 of R503, in order. -/
def writeGate (n : Ns) (s : State) : Option Status :=
  if n.formatting.isSome then some .formatInProgress
  else if n.lock.writeLock then some .accessDenied
  else if s.stg.exhausted then some .stampExhausted
  else if s.xlt.full then some .capacityExceeded
  else if s.pwr.prot || n.readOnly then some .writeProtected
  else none

/-- Blocks moved by one command at most: 8 MiB (R392; PRESUMED status Invalid Field in Command, as NVMe gives for MDTS). -/
def overMdts (n : Ns) (blocks : Nat) : Bool := decide (8388608 < blocks * n.lba)

/-- A write command that passes R503's checks: `field` is condition 3 beyond PRINFO and the range. -/
def State.writeCommand (s : State) (tag : Tag) (nsid prinfo : Nat) (ranges : List (Nat × Nat)) (field : Ns → Option Status)
    (f : Ns → State → State) : State :=
  s.command tag {} fun _ s =>
    match s.ns? nsid with
    | none => s.fail tag .invalidNs
    | some n =>
      if prinfo ≠ 0 then s.fail tag .invalidField
      else if !ranges.all fun r => inRange n r.1 r.2 then s.fail tag .lbaRange
      else match field n with
        | some st => s.fail tag st
        | none =>
          let s := s.checkFull
          match writeGate n s with
          | some st => s.fail tag st
          | none => f n s

/-- Pieces of `count` slots from slot number `first` on, out of the data. -/
def pieces (first count : Nat) (data : Bytes) : List (Nat × Nat × Bytes) :=
  (List.range count).map fun i => ((first + i) / 4, (first + i) % 4, slice data (4096 * i) 4096)

/-- Write (R340, R398); NLB counts from 0. -/
def write (tag : Tag) (nsid slba nlb prinfo : Nat) (fua : Bool) (data : Bytes) (s : State) : State :=
  s.writeCommand tag nsid prinfo [(slba, nlb + 1)]
    (fun n => if overMdts n (nlb + 1) then some .invalidField else if data.length < (nlb + 1) * n.lba then some .dataSglLength else none)
    fun n s => s.offerWrite ⟨tag, nsid - 1, pieces (slba * blockSlots n) ((nlb + 1) * blockSlots n) data, fua, none⟩

def execWrite (tag : Tag) (nsid slba nlb prinfo : Nat) (fua : Bool) (data : Bytes) (s : State) : Host.Outcome State Fault Refusal :=
  .next (write tag nsid slba nlb prinfo fua data s)

/-- Units of a list of pieces with the lowest slot each covers. -/
def lowestSlots (ps : List (Nat × Nat × Bytes)) : List (Nat × Nat) :=
  ((ps.map fun p => p.1).eraseDups).map fun u => (u, ((ps.filter fun p => p.1 == u).map fun p => p.2.1).foldl min 3)

/-- Write with LOCATE: one locator for each unit once its program has passed; over RoCEv2 `sgl` is the buffer's length (R343,
R411). -/
def writeLocate (tag : Tag) (nsid slba nlb prinfo : Nat) (sgl : Option Nat) (data : Bytes) (s : State) : State :=
  s.writeCommand tag nsid prinfo [(slba, nlb + 1)]
    (fun n =>
      let units := (lowestSlots (pieces (slba * blockSlots n) ((nlb + 1) * blockSlots n) [])).length
      if overMdts n (nlb + 1) then some .invalidField
      else if (match sgl with | some l => decide (l < 16 * units) | none => false) then some .dataSglLength
      else if data.length < (nlb + 1) * n.lba then some .dataSglLength else none)
    fun n s =>
      let ps := pieces (slba * blockSlots n) ((nlb + 1) * blockSlots n) data
      s.offerWrite ⟨tag, nsid - 1, ps, false, some (lowestSlots ps)⟩

def execWriteLocate (tag : Tag) (nsid slba nlb prinfo : Nat) (sgl : Option Nat) (data : Bytes) (s : State) : Host.Outcome State Fault Refusal :=
  .next (writeLocate tag nsid slba nlb prinfo sgl data s)

/-! ### Deallocation (R334) -/

/-- Units of slots [first, first + count) that are fully covered, and the zero pieces of the others. -/
def coverUnits (first count : Nat) : List Nat × List (Nat × Nat × Bytes) :=
  let lo := ceilDiv first 4
  let hi := (first + count) / 4
  let full := (List.range (hi - lo)).map (lo + ·)
  let part := ((List.range count).map (first + ·)).filter fun i => decide (i / 4 < lo) || decide (hi ≤ i / 4)
  (full, part.map fun i => (i / 4, i % 4, []))

/-- Ranges of blocks deallocated: whole units in the map at once, zeros for the rest through the buffer. DEDUCED: a unit with a slot whose
write is in flight is written slot by slot, so that the blocks that both commands name are open (R5, R400). -/
def State.zeroBlocks (s : State) (tag : Tag) (n : Ns) (ranges : List (Nat × Nat)) : State :=
  let ns := n.nsid - 1
  let cs := ranges.map fun r => coverUnits (r.1 * blockSlots n) (r.2 * blockSlots n)
  let whole := cs.flatMap fun c => c.1
  let met := fun u : Nat => (List.range 4).any fun i => s.slotInFlight ns u i
  let parts := (cs.flatMap fun c => c.2) ++ ((whole.filter met).flatMap fun u => (List.range 4).map fun i => (u, i, ([] : Bytes)))
  let clear := whole.filter fun u => !met u
  let s := { s with xlt := { s.xlt with fresh := s.xlt.fresh ++ clear.flatMap fun u => (List.range 4).map fun i => (ns, u, i) } }
  (s.unmapUnits ns clear).offerWrite ⟨tag, ns, parts, false, none⟩

def writeZeroes (tag : Tag) (nsid slba nlb prinfo : Nat) (s : State) : State :=
  s.writeCommand tag nsid prinfo [(slba, nlb + 1)] (fun _ => none) fun n s => s.zeroBlocks tag n [(slba, nlb + 1)]

def execWriteZeroes (tag : Tag) (nsid slba nlb prinfo : Nat) (s : State) : Host.Outcome State Fault Refusal :=
  .next (writeZeroes tag nsid slba nlb prinfo s)

/-- Ranges of Dataset Management: first block and number of blocks (PRESUMED: 16 bytes each, NVMe's layout; NR counts from 0). -/
def dsmRanges (nr : Nat) (data : Bytes) : List (Nat × Nat) := (List.range (nr + 1)).map fun i => (field data (16 * i + 8) 8, field data (16 * i + 4) 4)

/-- Dataset Management: only Deallocate has an effect. -/
def datasetManagement (tag : Tag) (nsid : Nat) (dealloc : Bool) (nr : Nat) (data : Bytes) (s : State) : State :=
  s.writeCommand tag nsid 0 (dsmRanges nr data) (fun _ => if data.length < 16 * (nr + 1) then some .dataSglLength else none)
    fun n s => s.zeroBlocks tag n (if dealloc then dsmRanges nr data else [])

def execDatasetManagement (tag : Tag) (nsid : Nat) (dealloc : Bool) (nr : Nat) (data : Bytes) (s : State) : Host.Outcome State Fault Refusal :=
  .next (datasetManagement tag nsid dealloc nr data s)

/-! ### Reads (R345 to R347, R412) -/

/-- Units of a span of slots. -/
def spanUnits (first count : Nat) : List Nat := if count = 0 then [] else (List.range ((first + count - 1) / 4 + 1 - first / 4)).map (first / 4 + ·)

/-- A unit of a read needs its leaf: some slot of it is not in the buffer. -/
def State.needsLeaf (s : State) (ns first count unit : Nat) : Bool :=
  (List.range 4).any fun i => decide (first ≤ unit * 4 + i) && decide (unit * 4 + i < first + count) && (s.buffered ns unit i).isNone

/-- Units of a read whose leaf must be loaded first. -/
def State.missingLeaves (s : State) (ns first count : Nat) : List Nat :=
  (spanUnits first count).filter fun u => s.needsLeaf ns first count u && !s.leafHit ns u

/-- Leaves in the cache that a read used become the newest. -/
def State.touchRead (s : State) (ns first count : Nat) : State :=
  (((spanUnits first count).map fun u => leafKey ns (u / 488)).eraseDups.filter fun k => s.xlt.cached.any fun e => e.1 == k).foldl (fun s k => s.touchLeaf k false) s

/-- Code words that a read takes from flash: those of mapped units that the buffer does not hold. -/
def State.readWords (s : State) (ns first count : Nat) : List CwAddr :=
  ((List.range count).filter fun i => (s.buffered ns ((first + i) / 4) ((first + i) % 4)).isNone && entMapped (s.entry ns ((first + i) / 4))).map fun i =>
    entAddr (s.entry ns ((first + i) / 4)) ((first + i) % 4)

/-- Data of a read in which every slot that a write in flight names is open (R5). -/
def State.openRead (s : State) (ns first : Nat) (d : Bytes) : Bytes × State :=
  (List.range (d.length / 4096)).foldl (fun a i =>
    if a.2.slotInFlight ns ((first + i) / 4) ((first + i) % 4) then
      let (b, t) := a.2.drawBytes 4096
      (overlay a.1 (4096 * i) (fit 4096 b), t)
    else a) (d, s)

/-- A read whose words have all landed completes: data, or Unrecovered Read Error at a LOST unit; after a stale locator the trailer
and dword 0 of R412 follow. -/
def State.finishRead (s : State) (w : LeafWait) : State :=
  match readSlots w.ns w.first w.count (s.touchRead w.ns w.first w.count) with
  | (none, s) => s.fail w.tag .readError
  | (some d, s) =>
    let (d, s) := s.openRead w.ns w.first d
    if !w.stale then s.succeed w.tag 0 0 d
    else
      let u := w.first / 4
      let e := s.entry w.ns u
      if (s.xlt.buf.any fun b => b.ns == w.ns && b.unit == u) || !entMapped e then s.succeed w.tag 3 0 (d ++ zeros 16)
      else s.succeed w.tag 1 0 (d ++ s.locator w.ns 0 e)

/-- A read with its leaves at hand: it completes at once where it needs nothing from flash, else its pages are sensed first (R347). -/
def State.senseRead (s : State) (w : LeafWait) : State :=
  match (s.readWords w.ns w.first w.count).filter fun a => s.dieIn a.die with
  | [] => s.finishRead w
  | ws => s.startPlain (.read w) ws true

/-- The loads of the leaves that a read misses begin. -/
def State.loadLeaves (s : State) (w : LeafWait) : State :=
  (((s.missingLeaves w.ns w.first w.count).map fun u => u / 488).eraseDups).foldl (fun s l =>
    if s.reading (.leaf w.ns l) then s else s.startPlain (.leaf w.ns l) [leafAddr (s.leafAt (leafKey w.ns l))] true) s

/-- A read by the map path: from its pages where its leaves are at hand, else once they are loaded. -/
def State.mapRead (s : State) (w : LeafWait) : State :=
  if (s.missingLeaves w.ns w.first w.count).isEmpty then s.senseRead w
  else { s with xlt := { s.xlt with leafWaits := s.xlt.leafWaits ++ [w] } }.loadLeaves w

/-- A read command's checks: namespace, PRINFO, range, a format in progress, READ_LOCK. -/
def State.readCommand (s : State) (tag : Tag) (nsid slba nlb prinfo : Nat) (f : Ns → State → State) : State :=
  s.command tag { limp := true } fun _ s =>
    match s.ns? nsid with
    | none => s.fail tag .invalidNs
    | some n =>
      if prinfo ≠ 0 then s.fail tag .invalidField
      else if !inRange n slba (nlb + 1) then s.fail tag .lbaRange
      else if overMdts n (nlb + 1) then s.fail tag .invalidField
      else if n.formatting.isSome then s.fail tag .formatInProgress
      else if n.lock.readLock then s.fail tag .accessDenied
      else f n s

def read (tag : Tag) (nsid slba nlb prinfo : Nat) (s : State) : State :=
  s.readCommand tag nsid slba nlb prinfo fun n s => s.mapRead ⟨tag, nsid - 1, slba * blockSlots n, (nlb + 1) * blockSlots n, false⟩

def execRead (tag : Tag) (nsid slba nlb prinfo : Nat) (s : State) : Host.Outcome State Fault Refusal :=
  .next (read tag nsid slba nlb prinfo s)

/-- The code word address that a locator names for a slot. -/
def locAddr (loc : Bytes) (slot : Nat) : CwAddr :=
  let p := field loc 0 4
  ⟨p / 2 ^ 21 % 1024, bits (field loc 8 4) 23 22, p / 512 % 4096, p % 512, slot⟩

/-- Checks 2 to 4 of R345 on a locator's arrival. -/
def State.locatorArrives (s : State) (n : Ns) (loc : Bytes) : Bool :=
  let place := field loc 8 4
  let pb := pbOf (locAddr loc 0)
  bits place 31 24 == n.nsid - 1 && s.dieIn (locAddr loc 0).die && !s.fla.retired.contains pb && place % 2 ^ 17 == s.genOf pb

/-- Check 5 of R345 on landing, for the slots of one unit. -/
def State.locatorLands (s : State) (n : Ns) (loc : Bytes) (unit : Nat) (slots : List Nat) (decodes : Bool) : Bool :=
  decodes && slots.all fun i =>
    let w := s.word (locAddr loc i)
    wordChecks w (n.nsid - 1) unit i (w.stamp % 2 ^ 24) && w.stamp % 2 ^ 32 == field loc 4 4 && decide (n.created ≤ w.stamp)

/-- Slots of a read within its one unit. -/
def unitSlots (first count : Nat) : List Nat := (List.range count).map fun i => (first + i) % 4

/-- Read with a locator: a bad CRC refuses it; one that passes the checks of its arrival has its page sensed, and takes the map path where it fails
then or on landing (R345 to R347). -/
def readLocator (tag : Tag) (nsid slba nlb prinfo bufLen : Nat) (loc : Bytes) (decodes : Bool) (s : State) : State :=
  s.readCommand tag nsid slba nlb prinfo fun n s =>
    let first := slba * blockSlots n
    let count := (nlb + 1) * blockSlots n
    let w : LeafWait := ⟨tag, nsid - 1, first, count, true⟩
    if first / 4 ≠ (first + count - 1) / 4 then s.fail tag .invalidField
    else if bufLen < count * 4096 + 16 then s.fail tag .dataSglLength
    else if field loc 14 2 ≠ crc16 (loc.take 14) then s.fail tag .invalidField
    else if s.locatorArrives n loc then s.startPlain (.locator w loc decodes) ((unitSlots first count).map (locAddr loc)) true
    else s.mapRead w

def execReadLocator (tag : Tag) (nsid slba nlb prinfo bufLen : Nat) (loc : Bytes) (decodes : Bool) (s : State) : Host.Outcome State Fault Refusal :=
  .next (readLocator tag nsid slba nlb prinfo bufLen loc decodes s)

/-- A locator's page has landed: the data of the program it names, or the map path (R345, R346, R412). -/
def State.locatorLanded (s : State) (w : LeafWait) (loc : Bytes) (decodes : Bool) : State :=
  match s.ns? (w.ns + 1) with
  | none => s.fail w.tag .invalidNs
  | some n =>
    let slots := unitSlots w.first w.count
    if s.locatorLands n loc (w.first / 4) slots decodes then
      s.succeed w.tag 0 0 ((slots.flatMap fun i => fit 4096 (openData n.key (s.word (locAddr loc i)))) ++ zeros 16)
    else s.mapRead w

/-- A read that waits needs the given leaf. -/
def State.waitsFor (s : State) (ns leaf : Nat) (w : LeafWait) : Bool :=
  w.ns == ns && (s.missingLeaves w.ns w.first w.count).any fun u => u / 488 == leaf

/-- Reads whose leaves have all come go on. -/
def State.releaseReads (s : State) : State :=
  let ready := s.xlt.leafWaits.filter fun w => (s.missingLeaves w.ns w.first w.count).isEmpty
  let keep := s.xlt.leafWaits.filter fun w => !(s.missingLeaves w.ns w.first w.count).isEmpty
  ready.foldl State.senseRead { s with xlt := { s.xlt with leafWaits := keep } }

/-- A leaf that a read misses has landed from flash; one that does not decode makes the units it maps LOST (R334, R335, R338). -/
def leafLoadComplete (ns leaf : Nat) (ok : Bool) (s : State) : State :=
  let k := leafKey ns leaf
  if !s.powered || !s.xlt.leafWaits.any (s.waitsFor ns leaf) || s.reading (.leaf ns leaf) then s
  else if ok then ((s.mendLeaf ns leaf).touchLeaf k false).releaseReads
  else
    let units := (s.xlt.map.filter fun e => entMapped e.2 && e.1 / 2 ^ 40 == ns && e.1 % 2 ^ 40 / 488 == leaf).map fun e => e.1 % 2 ^ 40
    ((units.foldl (fun s u => s.mapFault ns u) (s.mendLeaf ns leaf)).touchLeaf k true).releaseReads

def execLeafLoadComplete (ns leaf : Nat) (ok : Bool) (s : State) : Host.Outcome State Fault Refusal := .next (leafLoadComplete ns leaf ok s)

/-! ### Reads that go on (R16, R314, R315, R335, R347) -/

/-- What a read was for, once all its words have landed. -/
def State.landPlain (s : State) (p : Plain) : State :=
  match p.what with
  | .read w => if (s.missingLeaves w.ns w.first w.count).isEmpty && (s.readWords w.ns w.first w.count).all (fun a => p.words.contains a || !s.dieIn a.die) then s.finishRead w else s.mapRead w
  | .locator w loc decodes => s.locatorLanded w loc decodes
  | .leaf _ _ | .verify _ _ => s
  | .fill ns unit => s.fillDone ns unit
  | .copy ns unit => s.copyRead ns unit

/-- A read put back to wait. -/
def State.keepPlain (s : State) (p : Plain) : State := { s with xlt := { s.xlt with plain := s.xlt.plain ++ [p] } }

/-- A read at a boundary: once its pages are sensed its DIRTY words begin their recovery and its seats are numbered behind what waits on their
channels; once these have passed, and no word is under recovery, it lands; a word whose page the cache register has lost is sensed again. -/
def State.plainStep (s : State) (p : Plain) : State :=
  if !p.senses.isEmpty then s.keepPlain p
  else match p.seats with
    | none =>
      let s := p.words.foldl State.recover s
      let chans := (p.words.map fun a => chanOf a.die).eraseDups
      let s := chans.foldl (fun s c => s.freeSeats c (p.words.filter fun a => chanOf a.die == c).length) s
      s.keepPlain { p with seats := some (chans.map fun c => (c, Tab.get 0 s.fla.seatDebt c)) }
    | some [] =>
      let lost := p.words.filter fun a => (s.cached a).isNone && !s.corrected a && s.dieIn a.die
      if s.fla.recov.any fun r => p.words.contains r.word then s.keepPlain p
      else if lost.isEmpty then s.landPlain p
      else
        let s := (pagesOf lost).foldl (fun s q => s.queueSense q.1 q.2.1 q.2.2.1 q.2.2.2) s
        s.keepPlain { p with senses := pagesOf lost, seats := none }
    | some _ => s.keepPlain p

/-- Reads outside every timetable at a boundary. -/
def State.plainTick (s : State) : State := s.xlt.plain.foldl State.plainStep { s with xlt := { s.xlt with plain := [] } }

/-! ### Flush (R342) -/

def flush (tag : Tag) (nsid : Nat) (s : State) : State :=
  s.command tag { limp := true } fun _ s =>
    let go := fun (ns : Option Nat) => ({ s with xlt := { s.xlt with landWaits := s.xlt.landWaits ++ [⟨tag, s.xlt.bufSeq, ns, none, [], []⟩] } } : State).landCheck
    if nsid = 0xFFFFFFFF then go none
    else match s.ns? nsid with
      | none => s.fail tag .invalidNs
      | some n => if n.formatting.isSome then s.fail tag .formatInProgress else go (some (nsid - 1))

def execFlush (tag : Tag) (nsid : Nat) (s : State) : Host.Outcome State Fault Refusal := .next (flush tag nsid s)

end Sys2Proof.Machine
end

