-- ==== Sys2Proof/Machine/Release.lean ====
section
/-! DEFINITION. What the dispatcher releases at a stage boundary: die reads, seats and their deliveries, open programs, and the counters of log
page 0xD4; the beginning of a pass and resumption (R10, R13 to R16, R52, R165, R170 to R172, R180, R182, R184, R187, R188, R204 to R207, R230, R234, R316, R504). -/

namespace Sys2Proof.Machine

/-- The dispatcher releases entries in this stage: none while a domain is stopped or runs from bypass (R17, R50 to R52, R440). -/
def State.releases (s : State) : Bool :=
  s.coreClock && s.stg.loaded && !s.stg.stopped && s.boot.mode == .ready && s.clk.core.root && s.clk.flash.root && s.clk.dram.root &&
    s.clk.flash.target.isNone && s.clk.dram.target.isNone

/-- An entry that falls due: its session and timetable, the number and the start of its pass, the occurrence. -/
structure Due where
  sess : Nat
  tt : Timetable
  pass : Nat
  start : Nat
  occ : Nat
  entry : TtEntry
deriving DecidableEq, Repr

/-- Entries of one pass of a timetable that fall due in a stage. -/
def dueInPass (sess : Nat) (t : Timetable) (k stage : Nat) : List Due :=
  let a := t.passBase k
  (t.plan.entries.filter fun e => entryDue a e stage).map fun e => ⟨sess, t, t.first + k, a, if e.stride = 0 then 0 else (stage - (a + e.stage)) / e.stride, e⟩

/-- Entries of the passes begun under a timetable that fall due in a stage. -/
def dueOf (sess : Nat) (t : Timetable) (stage : Nat) : List Due := (t.passesNear t.started stage).flatMap fun k => dueInPass sess t k stage

/-- Entries of a timetable that the dispatcher releases in a stage: all that fall due, each seat once; while it is suspended only the seats of what
was sensed before B′ (R229, R230). -/
def State.dueNow (s : State) (sess : Nat) (t : Timetable) (stage : Nat) : List Due :=
  (dueOf sess t stage).filter fun d => match t.suspended with
    | none => d.entry.kind != .seat || decide (t.seatsFrom ≤ stage)
    | some b => d.entry.kind == .seat && decide (b ≤ stage) && decide (stage < b + s.fla.tRead) && decide (t.seatsFrom ≤ stage)

/-- Code words that a due entry names: n of them. -/
def Due.words (d : Due) (n : Nat) : List CwAddr := wordsAt d.entry d.pass d.occ n

/-- A sense for a reserved read, where its die is idle: a busy die misses its seat (R15). -/
def State.reservedSense (s : State) (w : CwAddr) : State := if s.dieIn w.die && !s.dieBusy w.die then s.issueSense w.die w.block w.page [w.plane] else s

/-- Data that a seat brings of a unit's slot: an ERASED code word as it is, any other where it passes the checks of R335 (R314). -/
def State.checkedData (s : State) (w : CwAddr) (ns unit stampLow : Nat) : Option Bytes :=
  match s.seatWord w with
  | some d => if d.2 == .erased || wordChecks d.1 ns unit w.cw stampLow then some (s.wordData d) else none
  | none => none

/-- SEAT carriages that deliver a filled read (R205). -/
def State.deliverSeats (s : State) (w : CwAddr) (dest tag role src : Nat) : State :=
  let d := s.seatData w
  (List.range 16).foldl (fun s k => s.reply (268 + hubOf w.die) src role 5 (dest + 256 * k) tag (k == 15) (slice d (256 * k) 256)) s

/-- A link on the path from one station to another has left service. -/
def State.pathCut (s : State) (a b : Nat) : Bool := (routeHops a b (s.routeOrder a b == 1)).any fun l => s.fab.linksOut.contains l.1

/-- A link that a hub's carriages of this stage cross, by the holds of a timetable in the pass that starts at the given stage, has left service
(R182; DEDUCED: a seat is not matched with a single hold of its hub). -/
def State.linkGone (s : State) (t : Timetable) (start hub : Nat) : Bool :=
  t.plan.links.any fun h => h.src == 268 + hub && occurs (start + h.stage) h.stride h.rep s.stg.stage && s.pathCut h.src h.dst

/-- A GATHER's open read comes to its seat: its piece stands for its pass from the next stage on, or its read has missed; more misses of a piece
than HOP_RETRIES fault the run with ROUTE_STALL (R13, R182, R209). -/
def State.gatherSeat (s : State) (w : CwAddr) (g : Nat × Nat × Nat × Nat × Nat) : State :=
  let (sess, pass, op, key, ent) := g
  match s.run? sess with
  | none => s
  | some (x, r) =>
    let unit := (key - 2 ^ 64) / 4
    let gone := match r.tt with | some t => s.linkGone t (t.passBase (pass - t.first)) (hubOf w.die) | none => true
    let got := if s.dieIn w.die && !gone then s.checkedData w (unit / 2 ^ 40) (unit % 2 ^ 40) (entStamp (BitVec.ofNat 64 ent)) else none
    let s := s.updRun sess fun r => { r with landed := r.landed ++ [(pass, key, s.stg.stage, got)] }
    match got with
    | some _ => s.tt fun t => { t with seatsFilled := t.seatsFilled + 1 }
    | none =>
      let s := ((s.recover w).tt fun t => { t with seatsMissed := t.seatsMissed + 1 }).health fun h => { h with missStall := h.missStall + 1 }
      if x.hopRetries ≤ (r.landed.filter fun l => l.1 == pass && l.2.1 == key && l.2.2.2.isNone).length then s.faultRun sess 3 (some op) else s

/-- A filled open read or read-out seat comes to its seat: its data, an empty SEAT for a read-out that cannot be served, or a miss. -/
def State.seatOpenRead (s : State) (o : OpenRead) : State :=
  match o.fill with
  | none => s
  | some (w, dest, tag, role, src) =>
    match o.run with
    | some g => s.gatherSeat w g
    | none =>
    if s.served w && !s.pathCut (268 + hubOf w.die) src then (s.deliverSeats w dest tag role src).tt fun t => { t with seatsFilled := t.seatsFilled + 1 }
    else if o.readOut then s.reply (268 + hubOf w.die) src role 5 0 tag true []
    else (s.recover w).tt fun t => { t with seatsMissed := t.seatsMissed + 1 }

/-- The map unit by which a timetable's layout names a code word, and the entry: namespace index × 2⁴⁰ + unit (R170). -/
def Timetable.unitOf (t : Timetable) (w : CwAddr) : Option (Nat × BitVec 64) :=
  (t.layout.find? fun e => let b := BitVec.ofNat 64 e.2; entMapped b && entAddr b w.cw == w).map fun e => (e.1, BitVec.ofNat 64 e.2)


/-- What a fixed read's seat carries: the data of its code word, which passes the checks of R335; none for a miss (R15, R314). -/
def State.seatCarries (s : State) (d : Due) (w : CwAddr) : Option Bytes :=
  match d.tt.unitOf w with
  | some (key, e) =>
    if s.dieIn w.die && !s.linkGone d.tt d.start (hubOf w.die) then s.checkedData w (key / 2 ^ 40) (key % 2 ^ 40) (entStamp e) else none
  | none => none

/-! ### The channel filters and a scan's seats (R285, R286, R289, R292) -/

def scMode (b : Bytes) : Nat := field b 12 1
def scDeliver (b : Bytes) : Bool := bit (field b 13 1) 0
def scPayload (b : Bytes) : Bool := bit (field b 13 1) 1
def scK (b : Bytes) : Nat := field b 16 4
def scPredBytes (b : Bytes) : Nat := field b 20 4
def scExtents (b : Bytes) : Nat := field b 24 2
def scPredAt (b : Bytes) : Nat := roundUp (64 + 16 * scExtents b) 64
def scPredicate (b : Bytes) : Bytes := slice b (scPredAt b) (scPredBytes b)
def scLength (b : Bytes) : Nat := if scPredBytes b = 0 then 64 + 16 * scExtents b else scPredAt b + scPredBytes b

/-- First record and records of each extent. -/
def scSpans (b : Bytes) : List (Nat × Nat) := (List.range (scExtents b)).map fun j => (field b (64 + 16 * j) 8, field b (64 + 16 * j + 8) 8)

/-- What a channel filter puts out for a 4 KiB seat: its matching records in ascending order with their rows, and the seat summary of 48
bytes: code word number, match count and bitmap, the count 0xFFFF for a code word that failed (R285, R286). -/
def seatFilter (n : Ns) (pred : Bytes) (word : Nat) (data : Option Bytes) : List (Nat × Bytes) × Bytes :=
  match data with
  | none => ([], toLe 8 word ++ toLe 2 0xFFFF ++ zeros 38)
  | some d =>
    let per := perWord n.rowBytes
    let row := fun i : Nat => slice d (i * n.rowBytes) n.rowBytes
    let hits := (List.range per).filter fun i => rowMatches n.columns pred (row i)
    (hits.map fun i => (word * per + i, row i), toLe 8 word ++ toLe 2 hits.length ++ zeros 6 ++ toLe 32 (maskOf hits))

/-- Identifier of a record (R289). -/
def recordId (n : Ns) (r : Nat × Bytes) : Nat := match n.columns[n.idColumn]? with | some c => columnRaw r.2 c | none => r.1

/-- Score of a record for TOP: its column rounded once to FP32. -/
def recordScore (n : Ns) (k : Nat) (row : Bytes) : F32 := match n.columns[k]? with | some c => f32 (columnVal row c) | none => 0

/-- Records ranked for TOP: by score, identifier, then record index. -/
def rankRecords (n : Ns) (k : Nat) (l : List (Nat × Bytes)) : List (Nat × Bytes) :=
  let key := fun r : Nat × Bytes => (recordId n r, recordScore n k r.2)
  l.foldl (fun acc r => (acc.takeWhile fun y => !itemBefore (key r) (key y)) ++ r :: acc.dropWhile fun y => !itemBefore (key r) (key y)) []

/-- The records that a scan's answer takes with their scores. -/
def scanItems (n : Ns) (b : Bytes) (l : List (Nat × Bytes)) : List ((Nat × Bytes) × F32) :=
  match scMode b with
  | 0 => []
  | 1 => (l.take (scK b)).map fun r => (r, 0)
  | _ => ((rankRecords n (field b 14 1) l).take (scK b)).map fun r => (r, recordScore n (field b 14 1) r.2)

/-- Records in ascending order. -/
def recordsById (l : List (Nat × Bytes)) : List (Nat × Bytes) :=
  l.foldl (fun acc r => (acc.takeWhile fun y => decide (y.1 ≤ r.1)) ++ r :: acc.dropWhile fun y => decide (y.1 ≤ r.1)) []

/-- Matching records that a scan keeps: none for COUNT, the first K for FIRST, the K best for TOP (R289, R292). -/
def keepRecords (n : Ns) (b : Bytes) (l : List (Nat × Bytes)) : List (Nat × Bytes) :=
  match scMode b with
  | 0 => []
  | 1 => (recordsById l).take (scK b)
  | _ => (rankRecords n (field b 14 1) l).take (scK b)

/-- A scan takes what the filter puts out for a code word: its matches within the extents, or by a summary that counts 0xFFFF a word to be read
again (R285, R286, R294). -/
def Scan.take (n : Ns) (c : Scan) (word : Nat) (data : Option Bytes) : Scan :=
  let o := seatFilter n (scPredicate c.block) word data
  if field o.2 8 2 = 0xFFFF then (if c.missed.any fun m => m.1 == word then c else { c with missed := c.missed ++ [(word, 0)] })
  else
    let hits := o.1.filter fun r => (scSpans c.block).any fun e => decide (e.1 ≤ r.1) && decide (r.1 < e.1 + e.2)
    { c with matches_ := c.matches_ + hits.length, done := c.done ++ [word], kept := keepRecords n c.block (c.kept ++ hits)
             missed := c.missed.filter fun m => m.1 != word }

/-- The data of a code word of a scan as its filter sees it: free bytes where a command has written it since the SCAN was submitted (R177, R293). -/
def State.scanData (s : State) (c : Scan) (word : Nat) (data : Option Bytes) : Option Bytes × State :=
  match data with
  | some _ => if c.dirty.contains word then (let (b, s) := s.drawBytes 4096; (some b, s)) else (data, s)
  | none => (none, s)

/-- A seat of a scan's fixed read: its filter's output is taken in the stage of the seat (R13, R285, R286). -/
def State.scanSeat (s : State) (d : Due) (w : CwAddr) (data : Option Bytes) : State :=
  match d.tt.unitOf w, s.sess? d.sess with
  | some (key, _), some x =>
    let k := key % 2 ^ 40 * 4 + w.cw
    (match x.scans.find? fun c => c.tt == some d.tt with
    | none => s
    | some c => match s.ns? c.nsid with
      | none => s
      | some n =>
        let (data, s) := s.scanData c k data
        let s := if data.isNone then s.health fun h => { h with missScan := h.missScan + 1 } else s
        s.updSess d.sess fun x => { x with scans := updateIf (fun y => y.id == c.id) (fun y => y.take n k data) x.scans })
  | _, _ => s

/-- Streams of a run whose blocks a code word holds: kind, tensor and block. -/
def State.blocksOf (s : State) (r : Run) (w : CwAddr) : List (Nat × Nat × Nat) :=
  match r.tt.bind fun t => t.unitOf w with
  | none => []
  | some (key, _) => (imgStreams r.route.image).flatMap fun st =>
    (((s.tensorPieces r st.tensor).zipIdx).filter fun p => mapKey p.1.1 p.1.2.1 == key && p.1.2.2 == w.cw).map fun p => (st.kind, st.tensor, p.2)

/-- A seat of a run's fixed read missed: the blocks that it would have brought take their cheaper path, and the operation that reads it itself
faults with ROUTE_STALL (R207, R209, R211). -/
def State.runMiss (s : State) (d : Due) (w : CwAddr) : State :=
  match s.run? d.sess with
  | none => s
  | some (_, r) =>
    match s.blocksOf r w with
    | [] => (s.health fun h => { h with missStall := h.missStall + 1 }).faultRun d.sess 3 (some d.entry.op)
    | l => l.foldl (fun s b => s.missBlock d.sess b.1 b.2.1 b.2.2 d.pass) s

/-- A seat of a fixed read: its data, or a deadline miss. What a run's seat brings stands for its pass from the next stage on (R13, R201;
DESIGN CHOICE: it is kept with the run by code word; the carriages that bring it to the coaches and their SRAM addresses are the binder's). -/
def State.seatFixed (d : Due) (s : State) (w : CwAddr) : State :=
  let got := s.seatCarries d w
  let s := match got with
    | some _ => s.tt fun c => { c with seatsFixed := c.seatsFixed + 1 }
    | none => (s.recover w).tt fun c => { c with seatsMissed := c.seatsMissed + 1 }
  let mine := match s.run? d.sess with | some (_, r) => r.tt == some d.tt | none => false
  let s := match got, mine with
    | some _, true => s
    | none, true => s.runMiss d w
    | _, false => s.scanSeat d w got
  if mine then s.updRun d.sess fun r => { r with landed := r.landed ++ [(d.pass, cwKey w, s.stg.stage, got)] } else s

/-- Pieces that a run's GATHER needs from flash and that have not come in a pass: key, map entry, code word; none before its index stands as the
GATHER reads it. -/
def State.gatherNeeds (s : State) (x : Session) (r : Run) (pass op : Nat) : List (Nat × Nat × CwAddr) :=
  let img := r.route.image
  let o := imgOp img op
  let now := if pass = r.done then r.nextOp.getD 0 else 0
  match (if o.code = 0x53 then o.in? 0 else none), o.in? 1 with
  | some src, some ix =>
    let t := imgTensor img src
    let moved := (List.range op).any fun j => decide (now ≤ j) && (targetsOf img (imgOp img j)).contains ix
    let e : OpEnv := ⟨img, o, Tab.set [] [] ix (s.readTensor x r o.group ix false).1.bytes, [], [], [], none, []⟩
    match (if t.place = 2 && (streamOf? img o.group src).isNone && !moved then (r.slot? t).bind s.extent else none), e.axis t.rank, e.index? 1 with
    | some (n, off, _), some a, some idx =>
      let spans := (sliceRanges t (axisGeo t.shape a) idx).filter fun q => decide (q.1 + q.2 ≤ t.bytes)
      let pieces := (spans.flatMap fun q => (List.range ((q.1 + q.2 + 4095) / 4096 - q.1 / 4096)).map fun i => off / 4096 + q.1 / 4096 + i).eraseDups
      pieces.filterMap fun k =>
        let ent := s.entry (n.nsid - 1) (k / 4)
        let key := openKey (n.nsid - 1) (k / 4) (k % 4)
        if (s.buffered (n.nsid - 1) (k / 4) (k % 4)).isSome || !entMapped ent || r.landed.any (fun l => l.1 == pass && l.2.1 == key && l.2.2.2.isSome) ||
            s.fla.openReads.any (fun p => match p.run with | some g => g.1 == x.num && g.2.1 == pass && g.2.2.2.1 == key | none => false) then none
        else some (key, ent.toNat, entAddr ent (k % 4))
    | _, _, _ => []
  | _, _ => []

/-- An open read of a run's GATHER that nobody has filled by its stage: it takes a piece on its die that the GATHER still needs (R14, R171, R209;
DESIGN CHOICE: of several the first in the order of the index). -/
def State.gatherFill (s : State) (d : Due) : State :=
  match s.run? d.sess with
  | none => s
  | some (x, r) =>
    let taken := s.fla.openReads.any fun o => !o.readOut && x.part == some o.part && o.die == d.entry.unit && o.stage == s.stg.stage
    match (if r.tt == some d.tt && r.fault == 0 && !taken then (s.gatherNeeds x r d.pass d.entry.op).find? fun q => q.2.2.die == d.entry.unit else none) with
    | some (key, ent, w) =>
      { s with fla := { s.fla with openReads := s.fla.openReads ++
          [{ part := x.part.getD 0, die := w.die, stage := s.stg.stage, readOut := false, fill := some (w, 0, 0, 0, 0), run := some (x.num, d.pass, d.entry.op, key, ent) }] } }
    | none => s

/-- A session's program in this stage is issued: from the end of its slice on only where its first seat, three stages before it, came earlier
(R172, R233, R234). -/
def State.programIssued (s : State) (sess : Nat) : Bool :=
  match (s.sess? sess).bind fun x => x.part.bind s.part? with
  | some q => (match q.switch with | none => true | some (.deferred b) => decide (s.stg.stage < b + 3) | some (.moving b _ _) => decide (s.stg.stage < b) | some _ => false)
  | none => false

/-- One due entry released. Coach cycles, DRAM lines and open seats are spent by those that hold them (R10); programs of a session whose slice
has ended stay unreleased (R234; DEDUCED: the shift of R230 then puts them behind the present stage, so they lapse). -/
def State.releaseEntry (s : State) (d : Due) : State :=
  let e := d.entry
  if e.kind == .programOpen && !s.programIssued d.sess then s
  else
    let s := s.tt fun c => { c with
      released := c.released + 1
      dieStages := if isDieEntry e || e.kind == .programOpen then c.dieStages + e.span else c.dieStages
      dramLines := if e.kind == .dram then c.dramLines + e.amount else c.dramLines }
    match e.kind with
    | .dieRead => (match d.words e.amount with | w :: _ => s.reservedSense w | [] => s)
    | .seat => (d.words (seatCount e.amount)).foldl (State.seatFixed d) s
    | .programOpen => s.fillProgram d.sess e.unit
    | .dieReadOpen => s.gatherFill d
    | _ => s

/-- Entries that fall due released: seats first, of the data that has landed, then the rest. -/
def State.releaseDue (s : State) (due : List Due) : State :=
  let s := (due.filter fun d => d.entry.kind == .seat).foldl State.releaseEntry s
  (due.filter fun d => d.entry.kind != .seat).foldl State.releaseEntry s

/-- Read-out seats of a session's search timetable that no fill named. -/
def State.lapsedReadOuts (s : State) (x : Session) (n : Nat) : Nat :=
  match x.search with
  | none => 0
  | some t =>
    (((dueOf x.num t n).filter fun d => d.entry.kind == .seatOpen).map fun d => d.entry.unit).eraseDups.map (fun c =>
      readOutSeats s.fla.tRead x c n - (s.fla.openReads.filter fun o => x.part == some o.part && o.readOut && chanOf o.die == c && o.stage == n).length) |>.sum

/-- An NS_WRITE of the pass that a run is in, or comes to, falls due in a stage while both of its staging copies wait (R504). -/
def Run.copiesWait (r : Run) (t : Timetable) (stage : Nat) : Bool :=
  (List.range (imgOpCount r.route.image)).any fun k => (imgOp r.route.image k).code == 0x63 && r.opStage t k == stage &&
    decide (2 ≤ (r.staging.filter fun g => g.1 == k).length)

/-- Timetables whose NS_WRITE finds both staging copies waiting are suspended at this boundary (R504). -/
def State.stallRuns (s : State) : State :=
  let stall := fun r : Run => match r.tt with
    | some t => if t.suspended.isNone && decide (r.done < r.passes) && r.copiesWait t s.stg.stage then
        { r with stalled := true, tt := some { t with suspended := some s.stg.stage } } else r
    | none => r
  { s with ses := { s.ses with list := s.ses.list.map fun x => { x with run := x.run.map stall } } }

/-- Stages in which the dispatcher released entries (R187). -/
def TtStats.noteStage (n : Nat) (c : TtStats) : TtStats := if c.stageSeen ≤ n then { c with stages := c.stages + 1, stageSeen := n + 1 } else c

/-- Entries that fall due in this stage released, and the stage counted. -/
def State.releaseNow (s : State) (due : List Due) : State := (if due.isEmpty then s else s.tt (TtStats.noteStage s.stg.stage)).releaseDue due

/-- What the dispatcher releases in the stage n that begins: seats first, of the data that has landed, then the senses of the stage. -/
def State.release (s : State) : State :=
  if !s.releases then s
  else
    let s := s.stallRuns
    let n := s.stg.stage
    let due := s.tables.flatMap fun t => s.dueNow t.1 t.2 n
    let s := (s.fla.openReads.filter fun o => if o.readOut then o.stage == n else o.stage + s.fla.tRead == n).foldl State.seatOpenRead s
    let lapsed := (s.ses.list.map fun x => s.lapsedReadOuts x n).sum
    let s := (s.tt fun c => { c with seatsLapsed := c.seatsLapsed + lapsed }).releaseNow due
    let s := (s.fla.openReads.filter fun o => !o.readOut && o.stage == n).foldl (fun s o => match o.fill with | some f => s.reservedSense f.1 | none => s) s
    { s with fla := { s.fla with openReads := s.fla.openReads.filter fun o => if o.readOut then decide (n < o.stage) else decide (n < o.stage + s.fla.tRead) } }

/-! ### A pass begins (R165, R180, R182) -/

/-- A run's session holds its teams in the next stage and its timetable is not suspended. -/
def State.runsNext (s : State) (x : Session) (r : Run) : Bool := s.coreClock && s.holdsNext x && ttLive r.tt && r.fault == 0 && !r.stalled

/-- A pass begins at the next boundary, beside the last one where that goes on; a run whose timetable no longer stands is bound again first, once
its current pass has ended. -/
def passStart (sess : Nat) (s : State) : State :=
  match s.run? sess with
  | none => s
  | some (x, r) =>
    match r.tt with
    | none => s
    | some t =>
      let n := s.stg.stage
      let late := r.rebind && r.nextOp.isNone && decide (r.nextStart ≤ n + 1)
      if !s.runsNext x r || r.passes ≤ r.begun || x.st == .orphaned || s.limpServes || !(r.nextStart == n + 1 || late) then s
      else if r.rebind || t.topoGen != s.ses.topoGen || !s.layoutStands t then
        if r.nextOp.isSome then s.updRun sess fun r => { r with rebind := true }
        else ((s.freeSlots (scanPredicates r.route.image)).updRun sess fun r => { r with tt := none, rebind := true }).addBind sess .route
      else
        let t' := { t with started := t.started + 1, ahead := t.ahead - 1 }
        let begin_ := fun r : Run =>
          let q := { r with tt := some t', begun := r.begun + 1, nextStart := r.nextStart + t.plan.passStride }
          if r.nextOp.isNone then q.passReset else q
        s.updRun sess begin_

def execPassStart (sess : Nat) (s : State) : Host.Outcome State Fault Refusal := .next (passStart sess s)

/-! ### Resumption (R230, R504) -/

/-- The timetables of a session whose coaches run in the next stage resume at its boundary: its run's, where a staging copy is free, and its
scans' (R230, R292, R504). -/
def timetableResume (sess : Nat) (s : State) : State :=
  match s.sess? sess with
  | none => s
  | some x =>
    if !(s.coreClock && s.holdsNext x) then s
    else
      let n := s.stg.stage + 1
      let back := resumeTt s.fla.tRead n
      let free := fun (r : Run) (t : Timetable) => !r.stalled || !r.copiesWait t (t.suspended.getD n)
      let goes := fun (r : Option Run) (t : Timetable) => resumes n t && match r with | some r => free r t | none => true
      let again := (match x.run with | some r => (r.tt.toList).filter (goes (some r)) | none => []) ++ ((x.scans.filterMap fun c => c.tt) ++ x.buildTts.map fun k => k.2).filter (goes none)
      let s := s.updSess sess fun x => { x with
        run := x.run.map fun r => match r.tt with
          | some t => if goes (some r) t then { r with tt := some (back t), nextStart := r.nextStart + (n - t.suspended.getD n), stalled := false } else r
          | none => r
        scans := x.scans.map fun c => match c.tt with
          | some t => if goes none t then { c with tt := some (back t) } else c
          | none => c
        buildTts := x.buildTts.map fun k => if goes none k.2 then (k.1, back k.2) else k }
      again.foldl (fun s t => s.notePeaks (back t)) s

def execTimetableResume (sess : Nat) (s : State) : Host.Outcome State Fault Refusal := .next (timetableResume sess s)

end Sys2Proof.Machine
end

