-- ==== Sys2Proof/Machine/Stage.lean ====
section
/-! DEFINITION. The PTP servo and the yoke: Sync, Follow_Up, Announce and delay messages, the timeouts of the servo and
the yoke, and the wait of PTP_FIRST (R31 to R41, R388, R501). -/

namespace Sys2Proof.Machine

/-- The port can take a frame: the module runs, past the records of bring-up, and a width has trained (R384, R452). -/
def State.portUp (s : State) : Bool := s.powered && s.port.width != 0

/-- The PTP servo runs: the PLATFORM component neither restarts nor has stopped with the main cores (R470, R474, R478). -/
def State.servoRuns (s : State) : Bool := s.portUp && s.fwc.limp.isNone && !s.fwc.restarting.contains 6

/-- The module takes PTP messages of its domain alone (R388). -/
def State.ptpTakes (s : State) (domain : Nat) : Bool := s.servoRuns && domain == s.stg.ptpDomain

/-- A Sync or Follow_Up message counts: of the domain, from the best master, its interval within −7 to 0 (R31, R388). -/
def State.syncCounts (s : State) (m : PtpSync) : Bool :=
  s.ptpTakes m.domain && decide (-7 ≤ m.logInterval) && decide (m.logInterval ≤ 0) &&
    (match s.stg.master with | some a => a.identity == m.master | none => false)

/-- The PTP stage count and core cycle at PTP time t in ns (R32). -/
def yokedStage (t : Nat) : Nat := t / 8200
def yokedCycle (t : Nat) : Nat := t % 8200 * 3 / 2

/-- The PTP stage count nearest to an own boundary at PTP time t, and its distance from that boundary in ns: the offset while the count is
the module's own. -/
def nearestStage (t : Nat) : Nat := yokedStage (t + 4100)
def boundaryOffset (t : Nat) : Int := (t : Int) - 8200 * nearestStage t

/-- The offset: own boundary minus the PTP boundary of the same count (R32). DEDUCED: while the count follows PTP, of the own count, so that
a step of PTP time by whole stages shows; in the other states, where the counts may differ, of the nearest boundary (R36, R37). -/
def yokeOffset (y : Yoke) (own t : Nat) : Int := if y.counts then (t : Int) - 8200 * own else boundaryOffset t

/-- The servo's counts and lock after one measured frequency error (R501). -/
def servoStep (g : Stg) (err : Int) : Stg :=
  let inside := decide (-1000 ≤ err) && decide (err ≤ 1000)
  let good := if inside then min 16 (g.servoGood + 1) else 0
  let bad := if inside then 0 else min 4 (g.servoBad + 1)
  let locked := if g.servoLocked then decide (bad < 4) else good == 16
  { g with servoGood := good, servoBad := bad, servoLocked := locked, freqErr := err }

/-- The yoke's table at a Sync message whose offset has been measured (R33, R36, R37); a change whose condition is met already takes effect
first. -/
def yokeSync (s : State) : State :=
  if s.stg.yokeNext != [] then s
  else
    let off := s.stg.offset
    let near := decide (-500 ≤ off) && decide (off ≤ 500)
    let wide := decide (-2000 ≤ off) && decide (off ≤ 2000)
    let gap := s.stg.ptpGap
    match s.stg.yoke with
    | .disabled => s
    | .free => if s.stg.loaded && s.stg.servoLocked then s.setYoke .acquiring else s
    | .acquiring =>
      let run := if near then min 16 (s.stg.okRun + 1) else 0
      let s := { s with stg := { s.stg with okRun := run, jump := none } }
      if run < 16 then s
      else if gap < 0 then s.setYoke .behind
      else if gap = 0 then s.setYoke .yoked
      else { s with stg := { s.stg with jump := some gap.toNat } }
    | .yoked =>
      let run := if wide then 0 else s.stg.farRun + 1
      if 4 ≤ run then s.setYoke .acquiring else { s with stg := { s.stg with farRun := run } }
    | .holdover => if wide then s.setYoke .yoked else s.setYoke .free
    | .behind => { s with stg := { s.stg with jump := if 0 < gap then some gap.toNat else none } }

/-- PTP time of the own boundary of the present stage, corrected for the configured asymmetry (R32, R388). -/
def State.ptpBoundary (s : State) (m : PtpSync) : Nat := ((m.time : Int) + s.port.asymmetry).toNat

/-- A Sync exchange is complete: the servo, the corrected offset, the PTP stage count and the yoke (R32, R33, R388,
R501). -/
def syncTaken (m : PtpSync) (s : State) : State :=
  let g := servoStep s.stg m.freqErr
  let t := s.ptpBoundary m
  let g := { g with
    offset := yokeOffset s.stg.yoke s.stg.stage t
    ptpGap := (nearestStage t : Int) - (s.stg.stage : Int)
    ptpCount := if s.stg.loaded then none else some (nearestStage t)
    lockedInWait := g.lockedInWait || (g.servoLocked && !g.loaded && !g.waitOver)
    silent := false
    syncPending := none }
  yokeSync { s with stg := g }

/-- A Sync message: a one-step message is complete, a two-step one waits for its Follow_Up (R31). -/
def syncMessage (m : PtpSync) (twoStep : Bool) (s : State) : State :=
  if !s.syncCounts m then s
  else if twoStep then { s with stg := { s.stg with syncPending := some (m.master, m.seq) } }
  else syncTaken m s

def execSyncMessage (m : PtpSync) (twoStep : Bool) (s : State) : Host.Outcome State Fault Refusal :=
  .next (syncMessage m twoStep s)

/-- A Follow_Up completes the Sync message of its master and sequence (R31). -/
def followUpMessage (m : PtpSync) (s : State) : State :=
  if s.syncCounts m && s.stg.syncPending == some (m.master, m.seq) then syncTaken m s else s

def execFollowUpMessage (m : PtpSync) (s : State) : Host.Outcome State Fault Refusal := .next (followUpMessage m s)

/-- Fields of an Announce message in the order the default best master clock algorithm compares them. -/
def announceKey (a : PtpAnnounce) : List Nat :=
  [a.priority1, a.clockClass, a.accuracy, a.variance, a.priority2, a.identity, a.steps]

/-- Lexicographic order on lists of numbers. -/
def lexLt : List Nat → List Nat → Bool
  | x :: xs, y :: ys => decide (x < y) || (x == y && lexLt xs ys)
  | [], _ :: _ => true
  | _, [] => false

/-- An Announce message: the best master stays or changes (R388); a change of master starts the servo's count of
consecutive Sync messages anew (R501). -/
def announceMessage (a : PtpAnnounce) (s : State) : State :=
  if !s.ptpTakes a.domain then s
  else match s.stg.master with
    | none => { s with stg := { s.stg with master := some a } }
    | some b =>
      if a.identity = b.identity then { s with stg := { s.stg with master := some a } }
      else if lexLt (announceKey a) (announceKey b) then
        { s with stg := { s.stg with master := some a, servoGood := 0, servoBad := 0, syncPending := none, delayPending := none } }
      else s

def execAnnounceMessage (a : PtpAnnounce) (s : State) : Host.Outcome State Fault Refusal := .next (announceMessage a s)

/-- A Delay_Resp of the best master to the Delay_Req outstanding: path delay and interval, the latter never below −7,
128 requests per second (R31, R388). -/
def delayRespMessage (domain master seq : Nat) (delay logInterval : Int) (s : State) : State :=
  if s.ptpTakes domain && (match s.stg.master with | some a => a.identity == master | none => false) &&
      s.stg.delayPending == some seq then
    { s with stg := { s.stg with delayPending := none, pathDelay := delay, delayInterval := max (-7) logInterval } }
  else s

def execDelayRespMessage (domain master seq : Nat) (delay logInterval : Int) (s : State) : Host.Outcome State Fault Refusal :=
  .next (delayRespMessage domain master seq delay logInterval s)

/-- The Delay_Req interval elapses: the module sends a Delay_Req to its best master (R388). -/
def delayReqSend (s : State) : State :=
  if s.servoRuns && s.stg.master.isSome then
    let n := s.stg.delaySeq
    { s with stg := { s.stg with delayPending := some n, delaySeq := (n + 1) % 65536 } }.send (.delayReq n)
  else s

def execDelayReqSend (s : State) : Host.Outcome State Fault Refusal := .next (delayReqSend s)

/-- No Sync message for 4 sync intervals: YOKED turns to HOLDOVER at the next boundary, and in every state the trim loop has no message to
follow (R33, R46). -/
def yokeHoldoverTimeout (s : State) : State :=
  if !s.powered then s
  else
    let s := { s with stg := { s.stg with silent := true } }
    if s.stg.yokeSoon == .yoked then s.setYoke .holdover else s

def execYokeHoldoverTimeout (s : State) : Host.Outcome State Fault Refusal := .next (yokeHoldoverTimeout s)

/-- No Sync message for 2 s: ACQUIRING, BEHIND and HOLDOVER turn to FREE (R33). -/
def yokeSyncLossTimeout (s : State) : State :=
  if !s.powered then s
  else
    let s := { s with stg := { s.stg with silent := true } }
    if s.stg.yokeSoon == .acquiring || s.stg.yokeSoon == .behind || s.stg.yokeSoon == .holdover then s.setYoke .free else s

def execYokeSyncLossTimeout (s : State) : Host.Outcome State Fault Refusal := .next (yokeSyncLossTimeout s)

/-- Two seconds with no Sync message unlock the servo (R501). -/
def servoLockTimeout (s : State) : State :=
  if s.powered then { s with stg := { s.stg with servoLocked := false, servoGood := 0, servoBad := 0, silent := true } } else s

def execServoLockTimeout (s : State) : Host.Outcome State Fault Refusal := .next (servoLockTimeout s)

/-- The wait of PTP_FIRST ends, in bring-up and in the diagnostic state: a servo that has not locked in it locks too late (R41, R468). -/
def ptpFirstWaitExpiry (s : State) : State :=
  if s.powered && (s.boot.mode == .bringUp || s.boot.mode == .diagnostic) && s.port.passDone && s.stg.policy == 1 && !s.stg.loaded then
    { s with stg := { s.stg with waitOver := true } }
  else s

def execPtpFirstWaitExpiry (s : State) : Host.Outcome State Fault Refusal := .next (ptpFirstWaitExpiry s)

/-- Trim reference in use (R46). -/
def State.trimRef (s : State) : TrimRef :=
  if s.stg.ptpTrim && s.stg.servoLocked then .ptp
  else if s.stg.lineTrim && s.port.width != 0 then .line
  else .none

/-- REF of STG_YOKE and SRC of CLK_TRIM (R40, R47). -/
def trimRefCode : TrimRef → Nat
  | .none => 0
  | .ptp => 1
  | .line => 2

/-- Register STG_YOKE (R40). -/
def State.stgYoke (s : State) : Nat :=
  let off := if s.stg.yoke == .disabled || s.stg.yoke == .free then 0
    else max (-32768) (min 32767 s.stg.offset)
  s.stg.yoke.code * 2 ^ 28 + (if s.stg.capable then 2 ^ 27 else 0) + trimRefCode s.trimRef * 2 ^ 24 +
    s.stg.config * 2 ^ 16 + unsigned 16 off

/-- Slew limit about the reference frequency in parts per 10⁹: while ACQUIRING or BEHIND 200 ppm, while YOKED 20 ppm (R34). -/
def slewLimit : Yoke → Option Nat
  | .acquiring | .behind => some 200000
  | .yoked => some 20000
  | _ => none

/-- Whether the trim loop may move the oscillator from a frequency error f to g. It steers the frequency, never away from the reference;
on PTP in ACQUIRING, BEHIND and YOKED it also steers an offset towards zero within the slew limit: a module that is late runs faster, one
that is early slower (R34, R46, R47). -/
def trimMay (offset : Option Int) (limit : Option Nat) (f g : Int) : Bool :=
  decide (g.natAbs < f.natAbs) || (match offset with
    | some o => ((decide (0 < o) && decide (f < g)) || (decide (o < 0) && decide (g < f))) && (match limit with | some l => decide (g.natAbs ≤ l) | none => true)
    | none => false)

/-- One stage of the trim loop (R34, R46, R47): at most one unit of 0.1 ppm, saturating; an excess over the slew limit is driven back
whatever the loop wishes; the word holds without a reference and, on PTP, while no Sync message arrives or in HOLDOVER. DESIGN CHOICE (log
71): in HOLDOVER the recovered line clock steers, by R46's table and against R32's note that the word is frozen there. -/
def trimUpdate (wish lineErr : Int) (s : State) : State :=
  let ref := s.trimRef
  let f := if ref == .line then lineErr else s.stg.freqErr
  let limit := slewLimit s.stg.yoke
  let beyond := match limit with | some l => decide (l < f.natAbs) | none => false
  let d : Int := if beyond then -f.sign else max (-1) (min 1 wish)
  let g := f + 100 * d
  let t := max (-250000) (min 250000 (s.clk.trim + d))
  let held := ref == .none || (ref == .ptp && (s.stg.silent || s.stg.yoke == .holdover))
  if held || t == s.clk.trim || !trimMay (if ref == .ptp && limit.isSome then some s.stg.offset else none) limit f g then s
  else { s with clk := { s.clk with trim := t, src := trimRefCode ref }
                stg := { s.stg with freqErr := if ref == .ptp then g else s.stg.freqErr } }

end Sys2Proof.Machine
end

