-- ==== Sys2Proof/Machine/Search.lean ====
section
/-! DEFINITION. Vector search: descriptors, index generations and their layers, QUERY and its admission, the walk and the re-rank on a
query context, answer records, shard sets and the merge, builds and generation switches (R72 to R74, R240 to R273, R297 to R299). -/

namespace Sys2Proof.Machine

/-! ### Descriptors and item stores (R240 to R243, R248) -/

/-- Bytes of an element and of a vector (R241). -/
def elemSize (d : VecDesc) : Nat := if d.elem = 1 || d.elem = 2 then 2 else 1
def vecBytes (d : VecDesc) : Nat := d.dim * elemSize d

/-- Record stride U: the smallest of the six sizes that holds a vector with its attributes. -/
def recordStride (d : VecDesc) : Nat := ([512, 1024, 2048, 4096, 8192, 16384].find? fun u => decide (vecBytes d + d.attrBytes ≤ u)).getD 16384

/-- Blocks of the three regions of an item store (R242). -/
def regionBlocks (n : Ns) : Nat × Nat × Nat :=
  let b := fun k : Nat => ceilDiv (k * n.capacity) n.lba
  (b 8, b (vecBytes n.vec), b n.vec.attrBytes)

/-- First bytes of the regions. -/
def vecStart (n : Ns) : Nat := (regionBlocks n).1 * n.lba
def attrStart (n : Ns) : Nat := ((regionBlocks n).1 + (regionBlocks n).2.1) * n.lba

/-- Superblocks of a generation reserve (R243). -/
def genReserve (d : VecDesc) (cap : Nat) : Nat := ceilDiv (cap * (4096 + recordStride d + d.codeBytes) + 64 * d.dim + 8192) 2147483648

/-- Granules of a code layer of n items (R248). -/
def layerGranules (d : VecDesc) (n : Nat) : Nat := ceilDiv (n * d.codeBytes + 64 * d.dim + 8192) granule

/-! ### Scores (R251) -/

/-- The q of the code table: the query, normalised for cosine. -/
def codeQuery (metric : Nat) (q : List F32) : List F32 :=
  if metric = 1 then
    let r := frsqrt (orderedSum (q.map fun x => fmul x x))
    q.map fun x => fmul x r
  else q

/-- One entry of table T. -/
def tableEntry (d : VecDesc) (codebook : Bytes) (q : List F32) (u c : Nat) : F32 :=
  let n := d.dim / (2 * d.codeBytes)
  let qs := (q.drop (u * n)).take n
  let cs : List F32 := (List.range n).map fun t => BitVec.ofNat 32 (field codebook (((16 * u + c) * n + t) * 4) 4)
  if d.metric = 2 then
    fneg (orderedSum (qs.zipWith (fun a b => let e := fsub a b; fmul e e) cs))
  else orderedSum (qs.zipWith fmul cs)

/-- The code score of a code row. -/
def codeScore (d : VecDesc) (codebook : Bytes) (q : List F32) (row : Bytes) : F32 :=
  orderedSum ((List.range d.codeBytes).map fun j =>
    let b := field row j 1
    fadd (tableEntry d codebook q (2 * j) (b % 16)) (tableEntry d codebook q (2 * j + 1) (b / 16)))

/-- Element format of a stored vector. -/
def elemFmt (d : VecDesc) : Fmt := (fmtOf? d.elem).getD .bf16

/-- A stored vector widened, dequantised with SCALE where its elements are INT8 or FP8. -/
def vecVals (d : VecDesc) (v : Bytes) : List F32 :=
  let f := elemFmt d
  (List.range d.dim).map fun i =>
    let c := elemAt f v i
    if d.elem = 1 || d.elem = 2 then widen f c else BitVec.ofNat 32 (dequantTo .fp32 f c d.scale)

/-- The full score of an item. -/
def fullScore (d : VecDesc) (q : List F32) (v : Bytes) : F32 :=
  match distOf d.metric with
  | some f => f q (vecVals d v)
  | none => 0

/-! ### The query block (R252, R253) -/

def qNsid (b : Bytes) : Nat := field b 8 4
def qK (b : Bytes) : Nat := field b 12 2
def qEf (b : Bytes) : Nat := field b 14 2
def qHops (b : Bytes) : Nat := field b 16 2
def qRerank (b : Bytes) : Nat := field b 18 1
def qLanes (b : Bytes) : Nat := field b 19 1
def qVectors (b : Bytes) : Nat := field b 20 2
def qFormat (b : Bytes) : Nat := field b 22 1
def qShard (b : Bytes) : Bool := bit (field b 23 1) 0
def qDeliver (b : Bytes) : Bool := bit (field b 23 1) 1
def qForwarded (b : Bytes) : Bool := bit (field b 23 1) 2
def qPred (b : Bytes) : Nat := field b 24 4
def qSize (b : Bytes) : Nat := if qFormat b = 0 then 4 else 2

/-- QUERY_ID of vector v. -/
def qId (b : Bytes) (v : Nat) : Nat := (field b 0 8 + v) % 2 ^ 64

/-- First byte of the predicate. -/
def qPredAt (d : VecDesc) (b : Bytes) : Nat := roundUp (64 + qVectors b * d.dim * qSize b) 64

def qPredicate (d : VecDesc) (b : Bytes) : Bytes := slice b (qPredAt d b) (qPred b)

/-- Length of the structure that a query block declares. -/
def qLength (d : VecDesc) (b : Bytes) : Nat := if qPred b = 0 then 64 + qVectors b * d.dim * qSize b else qPredAt d b + qPred b

/-- Vector v, widened to FP32. -/
def qVector (d : VecDesc) (b : Bytes) (v : Nat) : List F32 :=
  let f : Fmt := if qFormat b = 0 then .fp32 else if qFormat b = 1 then .bf16 else .fp16
  (List.range d.dim).map fun i => widen f (field b (64 + (v * d.dim + i) * qSize b) (qSize b))

/-- Bytes that each record takes in the host part. -/
def deliverStride (k : Nat) : Nat := 64 * ceilDiv (64 + 16 * k) 64

/-- Every field lies in its range (R253, check 4; DEDUCED: QFLAGS bits [7:3] are in range where zero). -/
def qFieldsOk (d : VecDesc) (hostBytes : Nat) (b : Bytes) : Bool :=
  decide (1 ≤ qK b) && decide (qK b ≤ 1024) && decide (qK b ≤ qEf b) && decide (qEf b ≤ 4096) && decide (1 ≤ qHops b) && decide (qHops b ≤ 1024) &&
    (qRerank b == 0 || (decide (qK b ≤ qRerank b) && decide (qRerank b ≤ min (qEf b) 64))) && decide (2 ≤ qLanes b) && decide (qLanes b ≤ 16) &&
    decide (1 ≤ qVectors b) && decide (qVectors b ≤ 256) && decide (qFormat b ≤ 2) && field b 23 1 / 8 == 0 && (d.attrBytes != 0 || qPred b == 0) &&
    (!qDeliver b || (field b 32 8 % 64 == 0 && decide (field b 32 8 + qVectors b * deliverStride (qK b) ≤ hostBytes)))

/-- SRAM of one query vector, and what a generation takes on each coach (R254). -/
def queryArea (d : VecDesc) (b : Bytes) : Nat := 4096 * qLanes b + 128 * d.codeBytes + 48 * qEf b + 4096
def residentGen (d : VecDesc) : Nat := 64 * d.dim + 4096

def State.gen? (s : State) (nsid num : Nat) : Option Gen := (s.ns? nsid).bind fun n => n.gens.find? fun g => g.num == num

/-- The current generation of a namespace. -/
def currentGen (n : Ns) : Option Gen := n.gens.find? fun g => g.st == .current

/-- Queries that have contexts, with their sessions. -/
def State.running (s : State) : List (Session × Query) := s.ses.list.flatMap fun x => (x.queries.filter fun q => !q.walks.isEmpty).map fun q => (x, q)

/-- Contexts in use on a coach and SRAM that a query of a namespace's generation would find left there beside the queries of the session that holds
it (R254). -/
def State.coachRoom (s : State) (coach : Nat) (taken : List Nat) (area : Nat) (nsid gen : Nat) (d : VecDesc) : Bool :=
  let here := s.running.filter fun p => s.coachSess coach == some p.1.num
  let qs := here.flatMap fun p => (p.2.walks.filter fun w => w.coach == coach && w.record.isNone && !w.answered).map fun _ => p.2
  let mine := (taken.filter fun c => c == coach).length
  let gens := ((qs.map fun q => (qNsid q.block, q.gen)) ++ [(nsid, gen)]).eraseDups
  let desc := fun k : Nat => (s.ns? k).elim d fun n => n.vec
  let used := 16384 + (gens.map fun g => residentGen (desc g.1)).sum + (qs.map fun q => queryArea (desc (qNsid q.block)) q.block).sum
  let busy := (List.range 64).filter fun c => (s.ctx coach c).st != .free
  decide (busy.length + mine < 64) && decide (used + (mine + 1) * area ≤ sramBytes)

/-- Coaches of a partition in service, ascending. -/
def State.partCoaches (s : State) (p : Nat) : List Nat :=
  match s.part? p with
  | some q => (List.range 256).filter fun c => q.teams.contains (c / 16) && s.coachIn c
  | none => []

/-- Coaches for n vectors, in ascending coach index; none where they do not all fit. -/
def State.placeVectors (s : State) (coaches : List Nat) (area nsid gen : Nat) (d : VecDesc) : Nat → List Nat → Option (List Nat)
  | 0, taken => some taken
  | n + 1, taken =>
    match coaches.find? fun c => s.coachRoom c taken area nsid gen d with
    | some c => s.placeVectors coaches area nsid gen d n (taken ++ [c])
    | none => none

/-- B vectors fit the empty partition (R253, check 8). -/
def State.fitsEmpty (s : State) (p : Nat) (d : VecDesc) (b : Bytes) : Bool :=
  let each := min 64 ((sramBytes - 16384 - residentGen d) / queryArea d b)
  decide (qVectors b ≤ each * (s.partCoaches p).length)

/-- The shard set in force for a namespace (R273). -/
def peerSet? (x : Session) (nsid : Nat) : Option PeerSet :=
  match (x.peerSets.filter fun p => p.nsid == nsid).getLast? with
  | some p => if p.peers.isEmpty then none else some p
  | none => none

/-- The reason of R253 that refuses a query block, none where it is accepted. -/
def State.queryReason (s : State) (x : Session) (b : Bytes) : Option Nat :=
  let n? := s.ns? (qNsid b)
  let d := n?.elim {} fun n => n.vec
  if field b 60 4 ≠ crc32c (b.take 60 ++ qPredicate d b) then some 0x41
  else match n? with
    | none => some 0x40
    | some n =>
      if n.kind ≠ .vector then some 0x40
      else if !readQuota x n.nsid || n.lock.readLock then some 0x43
      else if !qFieldsOk d (x.quota.host * granule) b then some 0x42
      else if qPred b ≠ 0 ∧ predValid n.columns (qPredicate d b) = false then some 0x4F
      else match x.part with
        | none => some 0x20
        | some p =>
          if (currentGen n).isNone then some 0x44
          else if !s.fitsEmpty p d b then some 0x45
          else if qShard b && (peerSet? x n.nsid).isNone then some 0x47
          else if (qShard b || qForwarded b) && !s.stg.yoke.counts then some 0x46
          else none

/-- QUERY: checked, then waiting for admission; the first one of a session asks for its standing search timetable (R163, R253). -/
def query (tag : Tag) (sess : Nat) (data : Bytes) (s : State) : State :=
  s.command tag {} fun c s => s.sessCommand c tag sess fun x s =>
    let d := (s.ns? (qNsid data)).elim {} fun n => n.vec
    if data.length < 64 || data.length < qLength d data then s.fail tag .dataSglLength
    else match s.queryReason x data with
      | some r => s.refuse tag r
      | none =>
        let q : Query := ⟨s.ses.nextId, tag, sess, data.take (qLength d data), none, 0, [], 0, [], [], false⟩
        let s := { s with ses := { s.ses with nextId := s.ses.nextId + 1 } }.updSess sess fun x => { x with queries := x.queries ++ [q] }
        if x.search.isNone && !(s.ses.binds.any fun b => b.sess == sess && b.what == BindFor.search) then s.addBind sess .search else s

def execQuery (tag : Tag) (sess : Nat) (data : Bytes) (s : State) : Host.Outcome State Fault Refusal := .next (query tag sess data s)

/-! ### Admission (R254, R269) -/

def State.query? (s : State) (id : Nat) : Option (Session × Query) :=
  s.ses.list.findSome? fun x => (x.queries.find? fun q => q.id == id).map fun q => (x, q)

def State.updQuery (s : State) (sess id : Nat) (f : Query → Query) : State :=
  s.updSess sess fun x => { x with queries := updateIf (fun q => q.id == id) f x.queries }

/-- The lowest free context of a coach. -/
def State.freeCtx (s : State) (coach : Nat) : Nat := (firstBelow (fun c => (s.ctx coach c).st == .free) 64).getD 0

/-- A code row's score at the start of a walk or on a neighbour's arrival. -/
def genScore (d : VecDesc) (g : Gen) (q : List F32) (ord : Nat) : F32 := codeScore d g.codebook (codeQuery d.metric q) (g.items.getD ord ⟨0, [], [], [], []⟩).code

/-- Vector v starts on a context: its frontier holds the entry node. -/
def State.startWalk (id : Nat) (n : Ns) (g : Gen) (s : State) (p : Nat × Nat) : State :=
  match s.query? id with
  | none => s
  | some (x, q) =>
    let k := s.freeCtx p.1
    let s := s.setCtx p.1 k { st := .ready, queryId := qId q.block p.2 }
    let first : List FEntry := if g.items.isEmpty then [] else [⟨g.entry, genScore n.vec g (qVector n.vec q.block p.2) g.entry, none, false, 2⟩]
    let w : Walk := ⟨p.1, k, qId q.block p.2, 0, first, false, false, false, none, 0, 0, false⟩
    s.updQuery x.num id fun q => { q with walks := q.walks ++ [w] }

/-- A query's vectors all fit on its partition's coaches now, in a generation whose code layer is in place (R254, R266). -/
def State.fitsNow (s : State) (x : Session) (q : Query) : Bool :=
  match s.ns? (qNsid q.block), x.part with
  | some n, some p => (match currentGen n with
    | some g => g.codeLoaded && n.switching.isNone && (s.placeVectors (s.partCoaches p) (queryArea n.vec q.block) n.nsid g.num n.vec (qVectors q.block) []).isSome
    | none => false)
  | _, _ => false

/-- A query placed on its session's coaches, pinned to the current generation. -/
def State.admitLocal (s : State) (x : Session) (q : Query) : State :=
  match s.ns? (qNsid q.block) with
  | none => s
  | some n =>
    match currentGen n, x.part with
    | some g, some p =>
      if !g.codeLoaded || n.switching.isSome then s
      else match s.placeVectors (s.partCoaches p) (queryArea n.vec q.block) n.nsid g.num n.vec (qVectors q.block) [] with
        | none => s
        | some cs =>
          let s := s.updQuery x.num q.id fun q => { q with admitted := some (q.admitted.getD s.stg.stage), gen := g.num }
          cs.zipIdx.foldl (State.startWalk q.id n g) s
    | _, _ => s

/-- The forwarded form of a query block: SHARD and DELIVER cleared, FORWARDED set, the member's NSID and START_STAGE, its CRC anew (R269). -/
def forwardedBlock (d : VecDesc) (b : Bytes) (nsid start : Nat) : Bytes :=
  let b := overlay (overlay (overlay b 8 (toLe 4 nsid)) 23 (toLe 1 (field b 23 1 / 8 * 8 + 4))) 40 (toLe 8 start)
  overlay b 60 (toLe 4 (crc32c (b.take 60 ++ qPredicate d b)))

/-- A shard query goes to the members that are up; those that are down set partial. -/
def State.forwardQuery (s : State) (x : Session) (q : Query) (p : PeerSet) : State :=
  let up := p.peers.filter fun m => !m.down
  let d := (s.ns? (qNsid q.block)).elim {} fun n => n.vec
  let s := up.foldl (fun s m => s.send (.peerQuery m.session m.member (forwardedBlock d q.block m.nsid (s.stg.stage + 16)))) s
  s.updQuery x.num q.id fun q => { q with
    admitted := some s.stg.stage, set := p.no, waitingFor := up.map fun m => m.member, lists := [(p.self, [])]
    leftOut := p.peers.any fun m => m.down }

/-- Admission of a session's oldest waiting query at a boundary at which its session holds the teams with its search timetable bound;
a shard query that fits there is forwarded first and admitted locally 16 stages later. -/
def queryAdmit (id : Nat) (s : State) : State :=
  match s.query? id with
  | none => s
  | some (x, q) =>
    let before := x.queries.takeWhile fun p => p.id != id
    if !s.coreClock || s.boot.mode != .ready || s.limpServes || !s.holds x || x.st == .orphaned && q.admitted.isNone || !q.walks.isEmpty || x.search.isNone ||
        before.any fun p => p.walks.isEmpty && (q.admitted.isNone || p.admitted.isSome) then s
    else if qForwarded q.block && decide (s.stg.stage < field q.block 40 8) then s
    else if qShard q.block then
      match q.admitted with
      | none => (match peerSet? x (qNsid q.block) with | some p => if s.fitsNow x q then s.forwardQuery x q p else s | none => s)
      | some b => if b + 16 ≤ s.stg.stage then s.admitLocal x q else s
    else s.admitLocal x q

def execQueryAdmit (id : Nat) (s : State) : Host.Outcome State Fault Refusal := .next (queryAdmit id s)

/-! ### The end of a query (R210, R259, R266, R271) -/

/-- Merge trees of a query dropped. -/
def State.dropTrees (s : State) (id : Nat) : State :=
  { s with ans := { s.ans with trees := s.ans.trees.filter fun e => match e.2.owner with | some o => o.1 != id | none => true } }

/-- Place of a coach in its partition's order of teams: 16 k + c (R231). -/
def coachPlace (teams : List Nat) (coach : Nat) : Nat := 16 * (teams.filter fun t => decide (t < coach / 16)).length + coach % 16

/-- A context freed in the record of a place of a save area: its block reads zero (R75, R231). -/
def State.clearSaved (s : State) (x : Session) (place ctx : Nat) : State :=
  let n := place * coachRecord + 2114048 + 512 * ctx
  let s := (List.range 8).foldl (fun s i => match quotaAddr x.ranges (protOffset x.quota (n + 64 * i)) with
    | some a => (dramWrite (256 + pkgOf a) a (zeros 64) s).2
    | none => s) s
  s.updSess x.num fun x => { x with save := { x.save with waits := x.save.waits.filter fun e => e.1 != place * 64 + ctx } }

/-- A context of a session freed: in the coaches where they hold the session's state, else in its save area (R228, R229). -/
def State.clearCtx (s : State) (sess coach ctx : Nat) : State :=
  match s.sess? sess with
  | none => s
  | some x =>
    match x.part.bind s.part? with
    | none => s
    | some p =>
      let here := match p.switch with
        | some (.moving b _ _) => p.holder == some sess && decide (s.stg.stage ≤ b + s.fla.tRead)
        | some (.restored n) => n == sess
        | _ => p.holder == some sess
      if here then s.setCtx coach ctx {}
      else s.clearSaved x (coachPlace p.teams coach) ctx

/-- A query leaves: its contexts are freed, its merge trees dropped, and old shard sets close with their last query (R273). -/
def State.dropQuery (s : State) (sess id : Nat) : State :=
  match s.query? id with
  | none => s
  | some (_, q) =>
    let s := q.walks.foldl (fun s w => if w.record.isNone && !w.answered then s.clearCtx sess w.coach w.ctx else s) s
    let s := (s.dropTrees id).updSess sess fun x => { x with queries := x.queries.filter fun q => q.id != id }
    match s.sess? sess with
    | none => s
    | some x =>
      let stale := fun p : PeerSet => ((x.peerSets.filter fun r => r.nsid == p.nsid).getLast?.map fun r => r.no) != some p.no && !(x.queries.any fun q => q.set == p.no)
      let s := (x.peerSets.filter stale).foldl State.closePeers s
      s.updSess sess fun x => { x with peerSets := x.peerSets.filter fun p => !stale p }

/-- A query ends with ABORTED and a reason (R418). -/
def State.abortQuery (reason : Nat) (s : State) (p : Session × Query) : State := (s.completeWith p.2.tag .aborted reason 0 []).dropQuery p.1.num p.2.id

/-- A query ends with DEADLINE_MISSED (R210, R271). -/
def State.missQuery (s : State) (p : Session × Query) : State := (s.fail p.2.tag .deadlineMissed).dropQuery p.1.num p.2.id

/-- A query of which every record is written completes: the flags of any record, and the records. -/
def State.queryDone (s : State) (id : Nat) : State :=
  match s.query? id with
  | none => s
  | some (x, q) =>
    if q.walks.isEmpty || q.walks.any fun w => w.record.isNone then s
    else
      let fl := (q.walks.map fun w => field (w.record.getD []) 26 1).foldl Nat.lor 0
      (s.succeed q.tag fl q.walks.length []).dropQuery x.num id

/-! ### The walk and the re-rank (R255 to R258) -/

/-- Entry a stands before entry b by a score, equal ones by ITEM_ID (R153). -/
def entryBefore (g : Gen) (sc : FEntry → F32) (a b : FEntry) : Bool :=
  let id := fun e : FEntry => (g.items.getD e.ord ⟨0, [], [], [], []⟩).id
  itemBefore (id a, sc a) (id b, sc b)

def insertEntry (g : Gen) (sc : FEntry → F32) (e : FEntry) : List FEntry → List FEntry
  | [] => [e]
  | f :: l => if entryBefore g sc e f then e :: f :: l else f :: insertEntry g sc e l

/-- One hop: the first unexpanded entry's graph record, its verdict, its neighbours' codes; a record missed once more than HOP_RETRIES drops the
entry, before that the context reads it again (R209). -/
def hopWalk (n : Ns) (g : Gen) (block : Bytes) (v retries : Nat) (missed : Bool) (noCodes : List Nat) (w : Walk) : Walk :=
  if qHops block ≤ w.hops then { w with walked := true }
  else match w.frontier.find? fun e => !e.expanded with
    | none => { w with walked := true }
    | some e =>
      if missed then
        if w.tries < retries then { w with tries := w.tries + 1, lapsed := 0 }
        else { w with hops := w.hops + 1, approx := true, tries := 0, lapsed := 0, frontier := w.frontier.filter fun f => f.ord != e.ord }
      else
        let it := g.items.getD e.ord ⟨0, [], [], [], []⟩
        let verdict := if qPred block = 0 then 1 else if predMatches n.columns (qPredicate n.vec block) it.attr then 1 else 0
        let q := qVector n.vec block v
        let f := updateIf (fun f : FEntry => f.ord == e.ord) (fun f => { f with expanded := true, verdict := verdict }) w.frontier
        let add := fun (f : List FEntry) (o : Nat) =>
          if (f.any fun e => e.ord == o) || noCodes.contains o then f
          else (insertEntry g (fun e => e.score) ⟨o, genScore n.vec g q o, none, false, 2⟩ f).take (qEf block)
        let f := it.neighbours.foldl add f
        { w with
          hops := w.hops + 1, frontier := f, tries := 0, lapsed := 0, approx := w.approx || it.neighbours.any fun o => noCodes.contains o
          walked := decide (qHops block ≤ w.hops + 1) || !(f.any fun e => !e.expanded) }

/-- Misses of a hop that no lapsed wait has counted: its graph read, and the codes of its neighbours outside the frontier (R211). -/
def hopMisses (g : Gen) (missed : Bool) (noCodes : List Nat) (w : Walk) (h : Health) : Health :=
  if w.lapsed ≠ 0 then h
  else if missed then { h with missHop := h.missHop + 1 }
  else match w.frontier.find? fun e => !e.expanded with
    | none => h
    | some e => { h with missCodes := h.missCodes + ((g.items.getD e.ord ⟨0, [], [], [], []⟩).neighbours.eraseDups.filter fun o =>
        noCodes.contains o && !w.frontier.any fun f => f.ord == o).length }

/-- The candidates of a re-rank. -/
def candidates (block : Bytes) (w : Walk) : List FEntry :=
  (w.frontier.filter fun e => qPred block == 0 || e.verdict != 0).take (qRerank block)

/-- The candidates re-ranked: full scores where the read landed, verdicts from the record's attribute row. -/
def rerankOf (n : Ns) (g : Gen) (block : Bytes) (v : Nat) (missed : List Nat) (w : Walk) : List (FEntry × F32) :=
  let free := qPred block = 0
  if qRerank block = 0 then (w.frontier.filter fun e => free || e.verdict == 1).map fun e => (e, e.score)
  else
    let q := qVector n.vec block v
    (candidates block w).filterMap fun e =>
      let it := g.items.getD e.ord ⟨0, [], [], [], []⟩
      if missed.contains e.ord then (if free || e.verdict = 1 then some (e, e.score) else none)
      else
        let ok := free || e.verdict = 1 || predMatches n.columns (qPredicate n.vec block) it.attr
        if ok then some (e, fullScore n.vec q it.vector) else none

/-- The first min(K, survivors) by final score. -/
def answerItems (g : Gen) (k : Nat) (l : List (FEntry × F32)) : List Item :=
  ((rankItems (l.map fun p => ((g.items.getD p.1.ord ⟨0, [], [], [], []⟩).id, p.2))).take k).map fun p => ⟨p.1, p.2⟩

/-- A walk's answer goes to a merge tree in ANSWER carriages, an empty one ends its list at once; the context is free again. Where the coach
has no route to the answer unit its context halts with the ERROR (R80). -/
def State.answerWalk (s : State) (x : Session) (q : Query) (v : Nat) (w : Walk) (items : List Item) : State :=
  if !items.isEmpty && s.routeOrder w.coach 286 == 2 then haltContext w.coach w.ctx 1 s
  else match s.freeTree with
  | none => s
  | some k =>
    let fl := if w.approx then 1 else 0
    let t : Tree := ⟨x.num, 1, w.queryId, q.gen, qK q.block, [⟨k, [], fl, items.isEmpty⟩], fl, items.length, 0, [], some (q.id, v), none⟩
    let s := { s with ans := { s.ans with trees := Tab.put s.ans.trees k t } }
    let s := if items.isEmpty then s else sendAnswers w.coach k fl (items.length / 15 + 1) 0 items s
    let upd := fun y : Walk => if y.coach = w.coach ∧ y.ctx = w.ctx then { w with answered := true, frontier := [] } else y
    (s.updQuery x.num q.id fun q => { q with walks := q.walks.map upd }).setCtx w.coach w.ctx {}

/-- The query vector that a context runs: its number and walk. -/
def State.walkOf (s : State) (coach ctx : Nat) : Option (Session × Query × Nat × Walk) :=
  s.running.findSome? fun p => (p.2.walks.zipIdx.find? fun w => w.1.coach == coach && w.1.ctx == ctx && !w.1.answered && w.1.record.isNone).map fun w => (p.1, p.2, w.2, w.1)

/-- A step of a query's plan on its context. -/
def State.walkStep (s : State) (coach ctx : Nat) (f : Session → Query → Nat → Walk → Ns → Gen → State → State) : State :=
  match s.walkOf coach ctx with
  | none => s
  | some (x, q, v, w) =>
    match s.ns? (qNsid q.block), s.gen? (qNsid q.block) q.gen with
    | some n, some g => f x q v w n g s
    | _, _ => s

/-- The effect of an issued instruction on its context and, for a query context, on its walk. A wait on a filled open read lapses by R170,
whatever stage the instruction names. -/
def State.issue (s : State) (coach ctx : Nat) (i : Issue) : State :=
  let c := s.ctx coach ctx
  match i with
  | .toUnit i =>
    let u := i.unit
    let k := coach * 4 + unitNo u
    if s.queued coach u < queueCap u then { s with coa := { s.coa with queues := Tab.set [] s.coa.queues k (Tab.get [] s.coa.queues k ++ [i]) } }
    else s.setCtx coach ctx { c with st := .waiting, tag := 0, replies := 0, lapse := 0, unit := some u }
  | .await tag replies lapse => s.setCtx coach ctx { c with st := .waiting, tag := tag % 2 ^ 32, replies := replies, lapse := (s.fillLapse coach (tag % 2 ^ 32)).getD lapse, unit := none }
  | .scalar gpr stream => s.setCtx coach ctx { c with
      gpr := gpr.foldl (fun t e => Tab.set 0 t (e.1 % 32) e.2) c.gpr
      stream := stream.foldl (fun t e => Tab.set 0 t (e.1 % 8) e.2) c.stream }
  | .fault code => (s.setCtx coach ctx { c with st := .halted, fault := code % 256 }).faultCoach coach (code % 256)
  | .hop missed noCodes => s.walkStep coach ctx fun x q v w n g s =>
      let gone := missed || w.empty
      let upd := fun y : Walk => if y.coach = coach ∧ y.ctx = ctx then hopWalk n g q.block v x.hopRetries gone noCodes { w with empty := false } else y
      let s := if qHops q.block ≤ w.hops || w.frontier.all (fun e => e.expanded) then s else s.health (hopMisses g gone noCodes w)
      s.updQuery x.num q.id fun q => { q with walks := q.walks.map upd }
  | .rerank missed => s.walkStep coach ctx fun x q v w n g s =>
      let gone := ((candidates q.block w).filter fun e => missed.contains e.ord).length
      let hit := gone != 0
      if !w.walked && !(w.frontier.all fun e => e.expanded) then s
      else
      let s := s.health fun h => { h with missRerank := h.missRerank + (gone - w.lapsed) }
      if hit && x.strict then
        if w.tries < x.hopRetries then s.updWalk x.num coach ctx fun w => { w with tries := w.tries + 1, lapsed := 0 } else s.missQuery (x, q)
      else s.answerWalk x q v { w with approx := w.approx || hit } (answerItems g (qK q.block) (rerankOf n g q.block v missed w))

/-- The READY context from which a coach issues next: the first one after the context that issued last, wrapping, of those that do not wait for
the stage in which a seat's data may be consumed (R13, R72). -/
def State.nextReady (s : State) (coach : Nat) : Option Nat :=
  let a := Tab.get 0 s.coa.nextCtx coach
  (findUp (fun k => (s.ctx coach (k % 64)).st == .ready && decide ((s.ctx coach (k % 64)).lapse ≤ s.stg.stage)) 64 a).map fun k => k % 64

/-- One issue: the sequencer takes one instruction from the next READY context of a coach whose session holds it. -/
def sequencerIssue (coach pc : Nat) (i : Issue) (s : State) : State :=
  let held := match s.coachSess coach with
    | some n => (match s.sess? n with | some x => s.holds x | none => false)
    | none => true
  if !s.coachRuns coach || !held then s
  else match s.nextReady coach with
    | none => s
    | some ctx =>
      let s := { s with coa := { s.coa with nextCtx := Tab.set 0 s.coa.nextCtx coach ((ctx + 1) % 64) } }
      let s := s.setCtx coach ctx { s.ctx coach ctx with pc := BitVec.ofNat 64 pc }
      s.issue coach ctx i

def execSequencerIssue (coach pc : Nat) (i : Issue) (s : State) : Host.Outcome State Fault Refusal := .next (sequencerIssue coach pc i s)

/-! ### Answer records (R297 to R299) -/

/-- The bytes of an answer record. -/
def answerRecord (stamp queryId matches_ generation flags source unread width : Nat) (items : List Item) (payload : Bytes) : Bytes :=
  let itemsEnd := roundUp (64 + 16 * items.length) 64
  let head := toLe 8 stamp ++ toLe 8 queryId ++ toLe 8 matches_ ++ toLe 2 generation ++ toLe 1 flags ++ toLe 1 source ++ toLe 4 items.length ++
    toLe 4 (recordBytes items.length width) ++ toLe 4 (if width = 0 then 0 else itemsEnd) ++ toLe 2 width ++ zeros 2 ++ toLe 4 unread ++ zeros 12
  let body := items.flatMap fun i => toLe 8 i.id ++ toLe 4 i.score.toNat ++ zeros 4
  fit (recordBytes items.length width) (fit itemsEnd (withCrc head ++ body) ++ payload)

/-- A list of a shard merge comes before another by score, then member, then position (R272). -/
def mergeBefore (a b : Nat × Nat × Item) : Bool :=
  let x := a.2.2.score
  let y := b.2.2.score
  let first := decide (a.1 < b.1) || (a.1 == b.1 && decide (a.2.1 < b.2.1))
  if isNan x then isNan y && first else if isNan y then true else flt y x || (feq x y && first)

def insertMerge (x : Nat × Nat × Item) : List (Nat × Nat × Item) → List (Nat × Nat × Item)
  | [] => [x]
  | y :: l => if mergeBefore x y then x :: y :: l else y :: insertMerge x l

/-- The items that a tree's record takes: a shard merge takes the first K by its key, others stand in the order of their list. -/
def treeItems (t : Tree) : List Item :=
  let all := t.lists.flatMap fun l => l.items.map fun i => (l.handle, i.1, i.2)
  if t.source = 2 then ((all.foldl (fun acc x => insertMerge x acc) []).take t.k).map fun x => x.2.2
  else
    let byPos := fun (acc : List (Nat × Item)) (x : Nat × Nat × Item) => (acc.takeWhile fun y => decide (y.1 ≤ x.2.1)) ++ (x.2.1, x.2.2) :: acc.dropWhile fun y => decide (y.1 ≤ x.2.1)
    ((all.foldl byPos []).take t.k).map fun x => x.2

/-- Flags of a tree's record: what its lists carry, partial as given, short below K (R258, R272, R290). -/
def treeFlags (t : Tree) (n : Nat) : Nat :=
  let lists := (t.lists.map fun l => l.flags % 2).foldl Nat.lor (t.flags % 8)
  if (t.source = 1 || t.source = 2 || (t.source = 3 && t.k ≠ 0)) && decide (n < t.k) then Nat.lor lists 4 else lists

/-- The record that a tree assembles in this core cycle. -/
def treeRecord (stamp : Nat) (t : Tree) : Bytes :=
  let items := treeItems t
  let width := (t.payload.headD []).length
  answerRecord stamp t.queryId (if t.source = 3 then t.matches_ else items.length) t.generation (treeFlags t items.length) t.source t.unread width items
    (t.payload.flatMap id)

/-- A merge of the shard lists of one query vector, where a tree is free. -/
def State.mergeVector (s : State) (x : Session) (q : Query) (v : Nat) : State :=
  match q.walks[v]?, s.freeTree with
  | some w, some k =>
    if w.record.isSome || (s.ans.trees.any fun e => e.2.owner == some (q.id, v)) then s
    else
      let list := fun m : Nat × List PeerList => let l := m.2.getD v ⟨0, 0, 0, []⟩
        (⟨m.1, (List.range l.items.length).zip l.items, l.flags % 2, true⟩ : AList)
      let t : Tree := ⟨x.num, 2, w.queryId, q.gen, qK q.block, q.lists.map list, if q.leftOut then 2 else 0, 0, 0, [], some (q.id, v), none⟩
      { s with ans := { s.ans with trees := Tab.put s.ans.trees k t } }
  | _, _ => s

/-- The lead's own answer and every awaited member's are in: each vector whose merge has not begun is merged where a tree is free (R271). -/
def State.mergeShards (s : State) (id : Nat) : State :=
  match s.query? id with
  | none => s
  | some (x, q) =>
    let own := match q.lists with | (_, l) :: _ => decide (l.length = qVectors q.block) && l.all (fun p => p.stamp != 0) | [] => false
    if qShard q.block && own && q.waitingFor.isEmpty then (List.range (qVectors q.block)).foldl (fun s v => s.mergeVector x q v) s else s

/-- At a boundary every shard query merges that can (R271). -/
def State.mergeTick (s : State) : State := ((s.ses.list.flatMap fun x => x.queries.map fun q => q.id)).foldl State.mergeShards s

/-- The local answer of a shard query's vector joins the lists to merge. -/
def State.localList (s : State) (x : Session) (q : Query) (t : Tree) (v : Nat) (stamp : Nat) : State :=
  let l : PeerList := ⟨stamp, t.generation, treeFlags t (treeItems t).length, treeItems t⟩
  let put := fun (o : List PeerList) => (List.range v).map (fun i => o.getD i ⟨0, 0, 0, []⟩) ++ l :: o.drop (v + 1)
  s.updQuery x.num q.id fun q => { q with lists := match q.lists with | (m, o) :: r => (m, put o) :: r | [] => [] }

/-- A record written for a walk. -/
def State.walkRecord (s : State) (sess id v : Nat) (r : Bytes) : State :=
  s.updQuery sess id fun q => { q with walks := q.walks.zipIdx.map fun w => if w.2 = v then { w.1 with record := some (r.take 64) } else w.1 }

/-- A held answer record. -/
def heldAnswer (stamp : Nat) (t : Tree) (r : Bytes) : Held := ⟨0, stamp, t.queryId, field r 26 1, r⟩

/-- Protected bytes that a record finds free beside those kept for EMITs at work. -/
def State.recordRoom (s : State) (x : Session) (t : Tree) (n : Nat) : Bool :=
  decide (n + (if t.source = 4 then s.treeBytes x.num - recordBytes t.k 0 else s.treeBytes x.num) ≤ protFree x)

/-- A tree's work is done. -/
def State.dropTree (s : State) (k : Nat) : State := { s with ans := { s.ans with trees := Tab.del s.ans.trees k } }

/-- A SCAN whose record is held completes with MATCHES; its filter slot is free again (R284, R294). -/
def State.scanDone (s : State) (x : Session) (id matches_ : Nat) : State :=
  match x.scans.find? fun c => c.id == id with
  | none => s
  | some c =>
    let s := if c.freed then s else s.freeSlots (State.bindPredicates x (.scan id))
    (s.succeed c.tag (matches_ % 2 ^ 32) (matches_ / 2 ^ 32) []).updSess x.num fun x => { x with scans := x.scans.filter fun c => c.id != id }

/-- Core cycle of this stage in which the next record completes: one of its own, later than the last record's; none where the stage has no
more. At the stage count 2⁵⁰ − 1 records share what is left (R44, R299). -/
def State.recordCycle (s : State) : Option Nat :=
  if s.stg.stage = stageMax then some s.stg.cycle
  else
    let c := if stampStage s.ans.last = s.stg.stage then max s.stg.cycle (stampCycle s.ans.last + s.cycleStep) else s.stg.cycle
    if c ≤ 12299 then some c else none

/-- The record of a tree, stamped in a core cycle where it has not been assembled before, and the state once that cycle has come. -/
def State.assemble (s : State) (t : Tree) : Option (Bytes × State) :=
  match t.built with
  | some r => some (r, s)
  | none => match s.recordCycle with
    | none => none
    | some c =>
      let s : State := { s with stg := { s.stg with cycle := c } }
      some (treeRecord s.stamp t, ({ s with ans := { s.ans with last := s.stamp } } : State).nextCycle)

/-- A record completes in a merge tree: stamped, then held, delivered to the host part, or taken into a shard merge; one that finds the
protected part full waits, and one that finds no core cycle left in the stage (R259, R271, R294, R299). -/
def answerRecordComplete (k : Nat) (s : State) : State :=
  match s.ans.trees.find? fun e => e.1 == k with
  | none => s
  | some (_, t) =>
    if !s.powered || !(t.lists.all fun l => l.ended) then s
    else match s.sess? t.sess, s.assemble t with
      | none, _ => s.dropTree k
      | _, none => s
      | some x, some (r, s) =>
        let stamp := field r 0 8
        let wait := { s with ans := { s.ans with trees := Tab.put s.ans.trees k { t with built := some r } } }
        let hold := fun s : State => (s.dropTree k).hold x.num (heldAnswer stamp t r)
        match t.owner with
        | none => if s.recordRoom x t r.length then hold s else wait
        | some (id, v) =>
          match x.queries.find? fun q => q.id == id with
          | none => if s.recordRoom x t r.length then (hold s).scanDone x id t.matches_ else wait
          | some q =>
            if qShard q.block && t.source = 1 then (s.dropTree k).localList x q t v stamp
            else if qDeliver q.block then
              let s := (quotaWrite 286 x.ranges (field q.block 32 8 + v * deliverStride (qK q.block)) r s).2
              let s := if bit (field r 26 1) 0 then s.health fun h => { h with approximate := h.approximate + 1 } else s
              ((s.dropTree k).walkRecord x.num id v r).queryDone id
            else if s.recordRoom x t r.length then ((hold s).walkRecord x.num id v r).queryDone id
            else wait

def execAnswerRecordComplete (k : Nat) (s : State) : Host.Outcome State Fault Refusal := .next (answerRecordComplete k s)

/-! ### Peers' answers (R269 to R271) -/

/-- A peer's QUERY has completed: the lead fetches its answer records, which arrive before the boundary b + PEER_WAIT or count for nothing; a
refusal, an error or a lost connection brings nothing, and the member stays missing (R269 to R271). -/
def peerAnswerFetch (id member : Nat) (r : Option (List PeerList)) (s : State) : State :=
  match s.query? id, r with
  | some (x, q), some l =>
    if !s.portUp || !q.waitingFor.contains member || l.length ≠ qVectors q.block || q.admitted.all (fun b => decide (b + x.peerWait ≤ s.stg.stage)) then s
    else
      let peer := (x.peerSets.find? fun p => p.no == q.set).bind fun p => p.peers.find? fun m => m.member == member
      let s := match peer with | some m => s.send (.peerFetch m.session member) | none => s
      s.updQuery x.num id fun q => { q with waitingFor := q.waitingFor.erase member, lists := q.lists ++ [(member, l)] }
  | _, _ => s

def execPeerAnswerFetch (id member : Nat) (r : Option (List PeerList)) (s : State) : Host.Outcome State Fault Refusal :=
  .next (peerAnswerFetch id member r s)

/-- The next boundary is PEER_WAIT stages after the forward: the members not yet in are left out, a deadline miss each; STRICT ends the query. -/
def peerWaitExpiry (id : Nat) (s : State) : State :=
  match s.query? id with
  | none => s
  | some (x, q) =>
    match q.admitted with
    | none => s
    | some b =>
      if !s.powered || !qShard q.block || q.waitingFor.isEmpty || decide (s.stg.stage + 1 < b + x.peerWait) then s
      else
        let s := s.health fun h => { h with missPeer := h.missPeer + q.waitingFor.length }
        if x.strict then s.missQuery (x, q)
        else (s.updQuery x.num id fun q => { q with waitingFor := [], leftOut := true })

def execPeerWaitExpiry (id : Nat) (s : State) : Host.Outcome State Fault Refusal := .next (peerWaitExpiry id s)

/-! ### PEER SET (R267, R268, R273) -/

/-- Fields of PEER SET and its entries lie in their ranges. -/
def peerFieldsOk (s : State) (b : Bytes) (n : Nat) : Bool :=
  let e := (List.range n).map fun j => slice b (64 + 288 * j) 288
  let ms := e.map fun p => field p 0 1
  let seats := field b 9 1
  decide (n ≤ 255) && (match s.ns? (field b 4 4) with | some m => m.kind == .vector | none => false) &&
    (n == 0 || (decide (1 ≤ field b 8 1) && decide (field b 8 1 ≤ 16) && (decide (seats ≤ 6) || seats == 255) && decide (1 ≤ field b 12 4))) &&
    ms.eraseDups.length == n && !ms.contains (field b 1 1) && e.all fun p => (field p 1 1 == 6 || (field p 1 1 == 4 && slice p 12 12 == zeros 12)) && decide (1 ≤ field p 4 4)

/-- A peer namespace's descriptor (R240) differs from the local one in DIM, ELEM, METRIC, ATTR_BYTES or the attribute row layout (R268). -/
def peerDiffers (n : Ns) (desc : Bytes) : Bool :=
  let lay := slice desc 64 (field desc 10 2)
  field desc 0 2 != n.vec.dim || field desc 2 1 != n.vec.elem || field desc 3 1 != n.vec.metric || field desc 8 2 != n.vec.attrBytes ||
    (if lay.isEmpty then [] else layoutColumns lay) != n.columns

/-- The descriptor that a peer's reply brings; none where it could not be reached. -/
def peerDesc : PeerReply → Option Bytes
  | .down => none
  | .refused d => some d
  | .opened _ d => some d

/-- The quota descriptor of a shard session: one grant of ACCESS 1 (R193, R268). -/
def shardQuota (p : PeerSet) (m : Peer) : Bytes :=
  let b := toLe 1 p.teams ++ toLe 1 p.seats ++ toLe 1 1 ++ zeros 1 ++ toLe 4 p.granules ++ toLe 4 0 ++ toLe 4 (p.granules - 1) ++ zeros 12
  let g := toLe 4 m.nsid ++ toLe 1 1 ++ zeros 3
  b ++ toLe 4 (crc32c (b ++ g)) ++ g

/-- A peer entry (R267), with what its reply makes of it. -/
def peerOf (e : Bytes) (r : PeerReply) : Peer :=
  { member := field e 0 1, nsid := field e 4 4, down := match r with | .opened _ _ => false | _ => true, session := match r with | .opened k _ => k | _ => 0
    family := field e 1 1, port := field e 2 2, address := slice e 8 16, subnqn := slice e 32 256 }

/-- The initiator connects to a peer by its address and name, and opens its shard session where its descriptor came back (R268). -/
def State.reachPeer (p : PeerSet) (s : State) (m : Peer × PeerReply) : State :=
  let s := s.send (.peerConnect m.1.member m.1.family m.1.port m.1.nsid m.1.address m.1.subnqn)
  if (peerDesc m.2).isSome then s.send (.peerOpen m.1.member (shardQuota p m.1)) else s

/-- PEER SET: checked; the initiator connects to each peer, opens a shard session on it, or marks it down. Shard queries admitted
before it keep the old set. -/
def peerSet (tag : Tag) (b : Bytes) (replies : List PeerReply) (s : State) : State :=
  s.command tag {} fun c s =>
    if b.length < 64 then s.fail tag .dataSglLength
    else s.sessCommand c tag (field b 0 1) fun x s =>
      let n := field b 2 2
      if b.length < 64 + 288 * n then s.fail tag .dataSglLength
      else if field b 60 4 ≠ crc32c (b.take 60 ++ slice b 64 (288 * n)) then s.refuse tag 0x4C
      else if !peerFieldsOk s b n then s.refuse tag 0x4D
      else if (replies.take n).any fun r => match s.ns? (field b 4 4), peerDesc r with | some m, some d => peerDiffers m d | _, _ => false then s.refuse tag 0x4E
      else
        let nsid := field b 4 4
        let pairs := (List.range n).map fun j => let r := replies.getD j .down; (peerOf (slice b (64 + 288 * j) 288) r, r)
        let peers := pairs.map fun p => p.1
        let set : PeerSet := { no := s.ses.nextId, nsid := nsid, self := field b 1 1, peers := peers, teams := field b 8 1
                               seats := field b 9 1, granules := field b 12 4 }
        let s := pairs.foldl (State.reachPeer set) s
        let old := x.peerSets.filter fun p => p.nsid == nsid && !(x.queries.any fun q => q.set == p.no)
        let s := old.foldl State.closePeers s
        let s := { s with ses := { s.ses with nextId := s.ses.nextId + 1 } }.updSess x.num fun x => { x with peerSets := (x.peerSets.filter fun p => !old.contains p) ++ [set] }
        s.succeed tag (peers.filter fun p => p.down).length 0 []

def execPeerSet (tag : Tag) (b : Bytes) (replies : List PeerReply) (s : State) : Host.Outcome State Fault Refusal := .next (peerSet tag b replies s)

/-- The initiator's connection to a peer of the sets of a session's namespace fails: the member is down until the next PEER SET (R270). -/
def peerConnectionLoss (sess nsid member : Nat) (s : State) : State :=
  if !s.powered then s
  else
    let upd := fun p : PeerSet => { p with peers := updateIf (fun m => m.member == member) (fun m => { m with down := true }) p.peers }
    s.updSess sess fun x => { x with peerSets := updateIf (fun p => p.nsid == nsid) upd x.peerSets }

def execPeerConnectionLoss (sess : Nat) (member : Nat × Nat) (s : State) : Host.Outcome State Fault Refusal := .next (peerConnectionLoss sess member.1 member.2 s)

/-- Every 1,000 ms the initiator sends Keep Alive to each peer (R394). -/
def peerKeepAliveSend (s : State) : State :=
  if !s.portUp then s
  else s.ses.list.foldl (fun s x => x.peerSets.foldl (fun s p => p.peers.foldl (fun s m => if m.down then s else s.send (.peerKeepAlive m.session m.member)) s) s) s

def execPeerKeepAliveSend (s : State) : Host.Outcome State Fault Refusal := .next (peerKeepAliveSend s)

/-! ### Builds (R261 to R264) -/

/-- A generation number after another (R43, R261). -/
def nextGenNum (n : Nat) : Nat := if n % 65536 = 65535 then 1 else n % 65536 + 1

/-- Open superblocks of stream 14 closed. -/
def State.closeBuild (s : State) : State :=
  match Tab.get 0 s.xlt.openSb 14 with
  | 0 => s
  | i + 1 => s.closeSb i

/-- A generation freed: its reserve, its pool slots and its records go. -/
def State.freeGen (s : State) (nsid num : Nat) : State := s.updNs nsid fun n => { n with gens := n.gens.filter fun g => g.num != num }

/-- The build status record (R264). -/
def buildRecord (stamp nsid gen result items skipped : Nat) : Bytes :=
  toLe 8 stamp ++ toLe 4 nsid ++ toLe 2 gen ++ toLe 1 result ++ zeros 1 ++ toLe 8 items ++ toLe 4 skipped ++ zeros 4

/-- A build of a generation ends with a result: its plan goes, its record is held, and a result other than 0 frees its generation. -/
def State.endBuild (s : State) (nsid gen result items skipped : Nat) : State :=
  let s := if result = 0 then s else s.freeGen nsid gen
  match s.ses.list.find? fun x => x.builds.contains (nsid, gen) with
  | none => s
  | some x =>
    let s : State := { s with ses := { s.ses with binds := s.ses.binds.filter fun b => b.what != BindFor.build nsid gen } }
    let s := s.updSess x.num fun x => { x with
      builds := x.builds.filter fun k => k != (nsid, gen), buildTts := x.buildTts.filter fun k => k.1 != (nsid, gen)
      buildDirty := x.buildDirty.filter fun e => !(e.1 == nsid && e.2.1 == gen) }
    let s := s.hold x.num ⟨2, s.stamp, 0, 0, buildRecord s.stamp nsid gen result items skipped⟩
    if s.stg.loaded then s.nextCycle else s

/-- Every build of a namespace ends with a result (R266, R405). -/
def State.endBuilds (s : State) (nsid result : Nat) : State :=
  ((s.ses.list.flatMap fun x => x.builds).filter fun k => k.1 == nsid).foldl (fun s k => s.endBuild k.1 k.2 result 0 0) s

/-- INDEX BUILD: checked, then a generation in BUILDING whose number it returns, and the bind of its built-in plan. DEDUCED: with an exhausted stamp it is refused as a
command that would program pages (R44). DESIGN CHOICE: a build with DISCARD that check 5 refuses frees nothing (log 71). -/
def indexBuild (tag : Tag) (sess nsid : Nat) (discard : Bool) (s : State) : State :=
  s.command tag {} fun c s => s.sessCommand c tag sess fun x s =>
    match s.ns? nsid with
    | none => s.refuse tag 0x40
    | some n =>
      if n.kind ≠ .vector then s.refuse tag 0x40
      else if !writeQuota x nsid then s.refuse tag 0x4A
      else if x.part.isNone then s.refuse tag 0x20
      else if s.stg.exhausted then s.fail tag .stampExhausted
      else
        let kept := if discard then n.gens.filter fun g => g.st != .ready else n.gens
        let s' := s.updNs nsid fun n => { n with gens := kept }
        if 2 ≤ kept.length then s.refuse tag 0x48
        else match s'.placeLayer (layerGranules n.vec n.capacity) with
          | none => s.refuse tag 0x49
          | some rs =>
            let num := nextGenNum n.lastGen
            let g : Gen := { num := num, st := .building, entry := 0, items := [], codebook := [], reloc := [], degraded := false, codeLoaded := false, ranges := rs, sbs := [] }
            let s := s'.updNs nsid fun n => { n with gens := kept ++ [g], lastGen := num }
            ((s.updSess sess fun x => { x with builds := x.builds ++ [(nsid, num)] }).addBind sess (.build nsid num)).succeed tag num 0 []

def execIndexBuild (tag : Tag) (sess nsid : Nat) (discard : Bool) (s : State) : Host.Outcome State Fault Refusal :=
  .next (indexBuild tag sess nsid discard s)

/-- Slots of 4 KiB that commands have written since a build began, each with what it held before one of the writes. -/
abbrev Dirty := List (Nat × Bytes)

def State.buildDirty (s : State) (nsid gen : Nat) : Dirty :=
  s.ses.list.flatMap fun x => (x.buildDirty.filter fun e => e.1 == nsid && e.2.1 == gen).map fun e => e.2.2

/-- Bytes that a byte of the item store has held since the build began, the newest first (R263). -/
def byteWas (dirty : Dirty) (at_ : Nat) (new : Byte) : List Byte := (new :: (dirty.filter fun e => e.1 == at_ / 4096).map fun e => e.2.getD (at_ % 4096) 0).eraseDups

/-- Some byte of a span has held more than one value since the build began. -/
def spanOpen (dirty : Dirty) (off : Nat) (b : Bytes) : Bool := b.zipIdx.any fun p => decide (1 < (byteWas dirty (off + p.2) p.1).length)

/-- A span as the build finds it: each byte from before or after each write meanwhile, or torn (R263); none where a page is unreadable. -/
def State.buildSpan (dirty : Dirty) (n : Ns) (off len : Nat) (s : State) : Option Bytes × State :=
  match readSpan (n.nsid - 1) off len s with
  | (some b, s) =>
    if spanOpen dirty off b then
      let (f, s) := s.drawBytes len
      (some (b.zipIdx.map fun p => let l := byteWas dirty (off + p.2) p.1; l.getD ((f.getD p.2 0).toNat % l.length) p.1), s)
    else (some b, s)
  | (none, s) => (none, s)

/-- First bytes of a slot's identifier, vector and attribute row, each with its length (R242). -/
def itemSpans (n : Ns) (slot : Nat) : (Nat × Nat) × (Nat × Nat) × (Nat × Nat) :=
  ((8 * slot, 8), (vecStart n + vecBytes n.vec * slot, vecBytes n.vec), (attrStart n + n.vec.attrBytes * slot, n.vec.attrBytes))

/-- One item as the build finds it in the item store, where it can be read; an identifier that a torn read makes 0 is the last that was not. -/
def State.readItem (dirty : Dirty) (n : Ns) (a : Option (List GenItem) × State) (d : GraphNode) : Option (List GenItem) × State :=
  let (i, v, r) := itemSpans n d.slot
  let (id, s) := State.buildSpan dirty n i.1 i.2 a.2
  let (vec, s) := State.buildSpan dirty n v.1 v.2 s
  let (row, s) := State.buildSpan dirty n r.1 r.2 s
  match a.1, id, vec, row with
  | some l, some id, some vec, some row =>
    let was := (dirty.filter fun e => e.1 == i.1 / 4096).map fun e => leNat ((List.range i.2).map fun k => e.2.getD ((i.1 + k) % 4096) 0)
    let x := if leNat id = 0 then (was.filter fun w => w != 0).getLastD 0 else leNat id
    (some (l ++ [⟨x, vec, row, d.neighbours, fit n.vec.codeBytes d.code⟩]), s)
  | _, _, _, _ => (none, s)

/-- What a build may make of a slot: it is to be indexed (an identifier, all pages readable), to be counted as left out (an identifier, an
unreadable page), empty, or any of these where commands have written it meanwhile or its identifier cannot be read (R263, R264). -/
inductive SlotFate where
  | indexed | skipped | empty | open_
deriving DecidableEq, Repr

def State.slotFate (s : State) (dirty : Dirty) (n : Ns) (slot : Nat) : SlotFate :=
  let (i, v, r) := itemSpans n slot
  let get := fun p : Nat × Nat => (readSpan (n.nsid - 1) p.1 p.2 s).1
  match get i with
    | none => .open_
    | some b => if spanOpen dirty i.1 b then .open_ else if leNat b = 0 then .empty else if (get v).isSome && (get r).isSome then .indexed else .skipped

/-- A build with RESULT 0 has indexed every slot that is to be, and counts those left out for an unreadable page. -/
def State.builtAll (s : State) (dirty : Dirty) (n : Ns) (b : Built) : Bool :=
  let out := (List.range n.capacity).filter fun k => !(b.nodes.any fun d => d.slot == k)
  let count := fun f : SlotFate => (out.filter fun k => s.slotFate dirty n k == f).length
  count .indexed == 0 && decide (count .skipped ≤ b.skipped) && decide (b.skipped ≤ count .skipped + count .open_)

/-- A slot has a page that the build could not read: what RESULT 3 needs. -/
def State.buildStops (s : State) (dirty : Dirty) (n : Ns) : Bool :=
  (List.range n.capacity).any fun k => s.slotFate dirty n k == .skipped || s.slotFate dirty n k == .open_

/-- What a build brings obeys R241 to R244: ascending slots within the capacity, neighbours within the generation and DEGREE. -/
def builtOk (n : Ns) (b : Built) : Bool :=
  let k := b.nodes.length
  (b.nodes.zip (b.nodes.drop 1)).all (fun p => decide (p.1.slot < p.2.slot)) && (b.nodes.all fun d => decide (d.slot < n.capacity) &&
    decide (d.neighbours.length ≤ n.vec.degree) && d.neighbours.all fun o => decide (o < k)) && (k == 0 || decide (b.entry < k))

/-- A location word (R246). -/
def locWord (p plane gen cw slot : Nat) : Nat :=
  let die := p / 2 ^ 21
  slot * 2 ^ 52 + gen * 2 ^ 35 + cw * 2 ^ 33 + plane * 2 ^ 31 + p % 512 * 2 ^ 22 + p / 512 % 4096 * 2 ^ 10 + die

/-- Superblocks of stream 14 in use. -/
def State.genSbs (s : State) : Nat := (s.xlt.sbs.filter fun e => e.2.st != .free && e.2.stream == 14).length

/-- The graph record of an ordinal (R245), from the location words of the generation's records. -/
def graphRecord (g : Gen) (gloc vloc : Nat → Nat) (o : Nat) : Bytes :=
  let it := g.items.getD o ⟨0, [], [], [], []⟩
  let nbr := it.neighbours.flatMap fun k => toLe 8 (g.items.getD k ⟨0, [], [], [], []⟩).id ++ toLe 8 k ++ toLe 8 (gloc k) ++ toLe 8 (vloc k)
  fit 4096 (toLe 8 it.id ++ toLe 8 o ++ toLe 2 g.num ++ toLe 1 it.neighbours.length ++ zeros 45 ++ it.attr ++ nbr)

/-- Vector records in code words of 4,096 bytes (R247). -/
def vectorWords (d : VecDesc) (g : Gen) : List Bytes :=
  let u := recordStride d
  let all := g.items.flatMap fun it => fit u (it.vector ++ it.attr)
  (List.range (ceilDiv (u * g.items.length) 4096)).map fun i => fit 4096 (slice all (4096 * i) 4096)

/-- A generation's code table and codebook (R248). DESIGN CHOICE: the codebook follows the table; the descriptor and the relocation list behind them
have no layout in the spec and stand in `Gen` alone (log 72). -/
def codeLayer (d : VecDesc) (g : Gen) : Bytes := (g.items.flatMap fun it => fit d.codeBytes it.code) ++ fit (64 * d.dim) g.codebook

/-- The code layer put into its pool slots. -/
def State.putCodeLayer (s : State) (d : VecDesc) (g : Gen) : State := (quotaWrite 286 g.ranges 0 (codeLayer d g) s).2

/-- Code words up to the end of their page. -/
def fillPage (l : List Bytes) : List Bytes := l ++ List.replicate (roundUp l.length 4 - l.length) (zeros 4096)

/-- The graph and vector layers and the copy of the code layer written to flash, each from a page on, in superblocks of their own out of the
namespace's generation reserve (R243, R244, R247, R249, R264, R339); places are fixed first, then the records that name them are written. -/
def State.writeLayers (s : State) (n : Ns) (g : Gen) : (List Nat × List (Nat × Nat)) × State :=
  let word := fun d : Bytes => ({ data := trim d, ns := n.nsid - 1, kind := 5, seq := g.num, key := n.key } : CWord)
  let top := s.genSbs + genReserve n.vec n.capacity
  let put := fun ds : List Bytes => State.firmwareWrite 14 (fun t => decide (t.genSbs < top)) ds.length (ds.map word) s
  let size := g.items.length
  let vws := vectorWords n.vec g
  let code := codeLayer n.vec g
  let cws := (List.range (ceilDiv code.length 4096)).map fun i => fit 4096 (slice code (4096 * i) 4096)
  let graph := roundUp size 4
  let at_ := (put (List.replicate graph (zeros 4096) ++ fillPage vws ++ cws)).1
  let loc := fun (i slot : Nat) => match at_[i]? with | some a => locWord (ppa a.die a.block a.page) a.plane (s.genOf (pbOf a)) a.cw slot | none => 0
  let u := recordStride n.vec
  let gl := fun o : Nat => loc o 0
  let vl := fun o : Nat => loc (graph + o * u / 4096) (o * u % 4096 / u)
  let (used, s) := put (fillPage ((List.range size).map (graphRecord g gl vl)) ++ fillPage vws ++ cws)
  (((used.map fun a => sbOf a.die a.block).eraseDups,
    ((used.drop (graph + (fillPage vws).length)).filter fun a => a.cw == 0).map fun a => (ppa a.die a.block a.page, a.plane)), s.closeBuild)

/-- The plan of a build is bound (R262). -/
def State.buildBound (s : State) (nsid gen : Nat) : Bool := s.ses.list.any fun x => x.buildTts.any fun t => t.1 == (nsid, gen)

/-- Pool slots of a generation's code layer at its N items, in place of those kept for N_max (R248, R262). -/
def State.layerFor (s : State) (n : Ns) (g : Gen) : List (Nat × Nat × Nat) :=
  ((s.updNs n.nsid fun m => { m with gens := m.gens.filter fun x => x.num != g.num }).placeLayer (layerGranules n.vec g.items.length)).getD g.ranges

/-- A build ends, the oldest of its namespace: READY with what it built, or with RESULT 3 for unreadable pages. It indexes every slot whose
identifier is not 0 (R263). -/
def buildEnd (nsid : Nat) (b : Built) (s : State) : State :=
  match s.ns? nsid with
  | none => s
  | some n =>
    match n.gens.find? fun g => g.st == .building with
    | none => s
    | some g =>
      let dirty := s.buildDirty nsid g.num
      if !s.upkeep || !s.buildBound nsid g.num then s
      else if b.result = 3 then (if s.buildStops dirty n then s.endBuild nsid g.num 3 b.nodes.length b.skipped else s)
      else if b.result ≠ 0 || !builtOk n b || !s.builtAll dirty n b then s
      else match b.nodes.foldl (State.readItem dirty n) (some [], s) with
      | (none, _) => s
      | (some items, s') =>
        if items.any fun i => i.id == 0 then s
        else
        let s := s'
        let g' := { g with st := .ready, entry := b.entry, items := items, codebook := fit (64 * n.vec.dim) b.codebook, codeLoaded := true }
        let g' := { g' with ranges := s.layerFor n g' }
        let (made, s) := (s.closeBuild.putCodeLayer n.vec g').writeLayers n g'
        let s := s.endBuild nsid g.num 0 items.length b.skipped
        s.updNs nsid fun n => { n with gens := updateIf (fun x => x.num == g.num) (fun _ => { g' with sbs := made.1, codePages := made.2 }) n.gens }

def execBuildEnd (nsid : Nat) (b : Built) (s : State) : Host.Outcome State Fault Refusal := .next (buildEnd nsid b s)

/-! ### Switching generations (R265, R266) -/

/-- INDEX SWITCH: scheduled for the next boundary; of two, the second finds no READY generation. -/
def indexSwitch (tag : Tag) (sess nsid : Nat) (s : State) : State :=
  s.command tag {} fun c s => s.sessCommand c tag sess fun _ s =>
    match s.ns? nsid with
    | none => s.refuse tag 0x40
    | some n =>
      if n.kind ≠ .vector then s.refuse tag 0x40
      else if n.switching.isSome || !(n.gens.any fun g => g.st == .ready) then s.refuse tag 0x4B
      else s.updNs nsid fun n => { n with switching := some tag }

def execIndexSwitch (tag : Tag) (sess nsid : Nat) (s : State) : Host.Outcome State Fault Refusal := .next (indexSwitch tag sess nsid s)

/-- The switch takes effect: READY to CURRENT, CURRENT to RETIRING; the command completes once a mark holds it. Where a build with DISCARD has
freed the READY generation meanwhile, the command is refused as one that finds none (DEDUCED). -/
def generationSwitch (nsid : Nat) (s : State) : State :=
  match s.ns? nsid with
  | none => s
  | some n =>
    match n.switching, n.gens.find? fun g => g.st == .ready with
    | some tag, none => if s.powered then (s.updNs nsid fun n => { n with switching := none }).refuse tag 0x4B else s
    | some tag, some r =>
      if !s.powered then s
      else
        let mv := fun g : Gen => match g.st with
          | .ready => if g.num = r.num then { g with st := .current } else g
          | .current => { g with st := .retiring }
          | _ => g
        let s := s.updNs nsid fun n => { n with gens := n.gens.map mv, switching := none }
        ({ s with xlt := { s.xlt with markTags := s.xlt.markTags ++ [(tag, r.num)] } } : State).wantMark false
    | _, _ => s

def execGenerationSwitch (nsid : Nat) (s : State) : Host.Outcome State Fault Refusal := .next (generationSwitch nsid s)

/-- An admitted query is pinned to a generation. -/
def State.pinned (s : State) (nsid num : Nat) : Bool := s.running.any fun p => qNsid p.2.block == nsid && p.2.gen == num

/-- A RETIRING generation without pinned queries is freed. -/
def generationFree (nsid num : Nat) (s : State) : State :=
  match s.gen? nsid num with
  | some g => if s.powered && g.st == .retiring && !s.pinned nsid num then s.freeGen nsid num else s
  | none => s

def execGenerationFree (nsid num : Nat) (s : State) : Host.Outcome State Fault Refusal := .next (generationFree nsid num s)

/-- Code words of the flash copy of a generation's code layer, in order. -/
def codeWords (g : Gen) : List CwAddr := g.codePages.flatMap fun p => (List.range 4).map fun c => ⟨p.1 / 2 ^ 21, p.2, p.1 / 512 % 4096, p.1 % 512, c⟩

/-- A generation with the code layer that bytes hold: code rows, then the codebook (R248). -/
def takeCodes (d : VecDesc) (b : Bytes) (g : Gen) : Gen :=
  { g with items := g.items.zipIdx.map fun p => { p.1 with code := fit d.codeBytes (slice b (p.2 * d.codeBytes) d.codeBytes) }
           codebook := fit (64 * d.dim) (slice b (g.items.length * d.codeBytes) (64 * d.dim)) }

/-- After ready a code layer is back in DRAM from its flash copy, in pool slots placed anew, read in seats that no timetable holds (R266; DEDUCED:
a copy with a code word that cannot be read leaves the layer unloaded). -/
def codeLayerReload (nsid num : Nat) (s : State) : State :=
  match s.ns? nsid, s.gen? nsid num with
  | some n, some g =>
    if s.powered && s.boot.mode == .ready && !g.codeLoaded && g.st != .building then
      let ws := codeWords g
      let ok := ws.all fun w => let d := s.word w; d.kind == 5 && d.ns + 1 == nsid && d.seq == num && s.dieIn w.die
      match (if ok then s.placeLayer (layerGranules n.vec g.items.length) else none) with
      | some rs =>
        let bytes := ws.flatMap fun w => fit 4096 (openData n.key (s.word w))
        let put := fun x : Gen => takeCodes n.vec bytes { x with codeLoaded := true, ranges := rs }
        let s := (pagesOf ws).foldl (fun s q => s.queueSense q.1 q.2.1 q.2.2.1 q.2.2.2) s
        let s := ws.foldl (fun s w => s.freeSeats (chanOf w.die) 1) s
        (s.putCodeLayer n.vec (put g)).updNs nsid fun n => { n with gens := updateIf (fun x => x.num == num) put n.gens }
      | none => s
    else s
  | _, _ => s

def execCodeLayerReload (nsid num : Nat) (s : State) : Host.Outcome State Fault Refusal := .next (codeLayerReload nsid num s)

end Sys2Proof.Machine
end

