-- ==== Sys2Proof/Machine/Scans.lean ====
section
/-! DEFINITION. SCAN and its plan's end, re-reads, and FETCH (R209, R287 to R294, R300). -/

namespace Sys2Proof.Machine

/-! ### The scan block (R287, R288) -/

/-- Records of all extents. -/
def scTotal (b : Bytes) : Nat := ((scSpans b).map fun e => e.2).sum

/-- Extents hold records, lie within the capacity and ascend without overlap. -/
def spansOk (cap : Nat) (l : List (Nat × Nat)) : Bool :=
  (l.all fun e => decide (1 ≤ e.2) && decide (e.1 + e.2 ≤ cap)) && (l.zip (l.drop 1)).all fun p => decide (p.1.1 + p.1.2 ≤ p.2.1)

/-- A column is numeric. -/
def numericColumn (cols : List Column) (k : Nat) : Bool := match cols[k]? with | some c => c.type != 12 | none => false

/-- Check 4 of R288 (DEDUCED: SFLAGS bits [7:2] are in range where zero). -/
def scanFieldsOk (n : Ns) (hostBytes : Nat) (b : Bytes) : Bool :=
  let items := min (scK b) (scTotal b)
  decide (scMode b ≤ 2) && field b 13 1 / 4 == 0 && decide (1 ≤ scExtents b) && decide (scExtents b ≤ 64) && spansOk n.records (scSpans b) &&
    (scMode b == 0 || (decide (1 ≤ scK b) && decide (scK b ≤ 65536))) && !(scDeliver b && scMode b == 0) &&
    (scMode b != 2 || numericColumn n.columns (field b 14 1)) &&
    (scMode b == 0 || decide (recordBytes items (if scPayload b then n.rowBytes else 0) ≤ 8388608)) &&
    (!scDeliver b || decide (field b 32 8 + scK b * n.rowBytes ≤ hostBytes))

/-- The reason of R288 that refuses a scan block. -/
def State.scanReason (s : State) (x : Session) (b : Bytes) : Option Nat :=
  if field b 60 4 ≠ crc32c (b.take 60 ++ slice b 64 (16 * scExtents b) ++ scPredicate b) then some 0x50
  else match s.ns? (field b 8 4) with
    | none => some 0x51
    | some n =>
      if n.kind ≠ .record then some 0x51
      else if !readQuota x n.nsid || n.lock.readLock then some 0x43
      else if !scanFieldsOk n (x.quota.host * granule) b then some 0x52
      else if scPredBytes b ≠ 0 ∧ predValid n.columns (scPredicate b) = false then some 0x4F
      else if scMode b = 2 ∧ x.part.isNone then some 0x20
      else none

/-- SCAN: checked, then its plan goes to the binder. -/
def scan (tag : Tag) (sess : Nat) (data : Bytes) (s : State) : State :=
  s.command tag {} fun c s => s.sessCommand c tag sess fun x s =>
    if data.length < 64 || data.length < scLength data then s.fail tag .dataSglLength
    else match s.scanReason x data with
      | some r => s.refuse tag r
      | none =>
        let id := s.ses.nextId
        let c : Scan := { id := id, tag := tag, sess := sess, nsid := field data 8 4, block := data.take (scLength data), bound := false, tt := none, missed := [],
                           unread := [], slot := 0, ended := false, upTo := s.xlt.bufSeq }
        ({ s with ses := { s.ses with nextId := id + 1 } }.updSess sess fun x => { x with scans := x.scans ++ [c] }).addBind sess (.scan id)

def execScan (tag : Tag) (sess : Nat) (data : Bytes) (s : State) : Host.Outcome State Fault Refusal := .next (scan tag sess data s)

/-! ### Re-reads and the end of a plan (R209, R289 to R294) -/

def State.scan? (s : State) (id : Nat) : Option (Session × Scan) :=
  s.ses.list.findSome? fun x => (x.scans.find? fun c => c.id == id).map fun c => (x, c)

def State.updScan (s : State) (sess id : Nat) (f : Scan → Scan) : State :=
  s.updSess sess fun x => { x with scans := updateIf (fun c => c.id == id) f x.scans }

/-- A re-read of a missed code word lands in its filter, or fails; the eighth failure gives the word up, and its page is rebuilt or its unit LOST
(R209, R294). -/
def scanReread (id word : Nat) (landed : Bool) (s : State) : State :=
  match s.scan? id with
  | none => s
  | some (x, c) =>
    match c.missed.find? fun m => m.1 == word with
    | none => s
    | some m =>
      if !s.powered then s
      else
        let rest := c.missed.filter fun y => y.1 != word
        let e := s.entry (c.nsid - 1) (word / 4)
        let s := if entMapped e then s.plainSense (entAddr e (word % 4)) 1 else s
        let giveUp := fun s : State => s.updScan x.num id fun c => { c with missed := rest, unread := c.unread ++ [word] }
        if landed then
          match s.readSlot (c.nsid - 1) (word / 4) (word % 4), s.ns? c.nsid with
          | .data d, some n =>
            let (data, s) := s.scanData c word (some (fit 4096 d))
            s.updScan x.num id fun c => c.take n word data
          | .fault, _ => giveUp (s.mapFault (c.nsid - 1) (word / 4))
          | _, _ => giveUp s
        else if 8 ≤ m.2 + 1 then giveUp (if entMapped e then s.uncorrectable (entAddr e (word % 4)) else s)
        else s.updScan x.num id fun c => { c with missed := updateIf (fun y => y.1 == word) (fun y => (word, y.2 + 1)) c.missed }

def execScanReread (id word : Nat) (landed : Bool) (s : State) : Host.Outcome State Fault Refusal := .next (scanReread id word landed s)

/-- Code words of a scan that no seat brought, since the map named no page for them at the bind: they read zero (R334). -/
def State.scanBlank (n : Ns) (a : Scan × State) (word : Nat) : Scan × State :=
  let (data, s) := a.2.scanData a.1 word (some (zeros 4096))
  (a.1.take n word data, s)

/-- The matches of a plan that has ended go to a merge tree, those of TOP from a coach in ANSWER carriages, delivered rows to the host part (R291,
R298). -/
def State.scanAnswer (s : State) (x : Session) (c : Scan) (n : Ns) (k : Nat) : State :=
  let blank := ((scanPieces n c.block).map fun q => q.2.1 * 4 + q.2.2).filter fun w => !c.done.contains w && !c.unread.contains w
  let (c, s) := blank.foldl (State.scanBlank n) (c, s)
  let items := scanItems n c.block c.kept
  let s := if scDeliver c.block then (quotaWrite 286 x.ranges (field c.block 32 8) (items.flatMap fun p => fit n.rowBytes p.1.2) s).2 else s
  let out := items.map fun p => (⟨recordId n p.1, p.2⟩ : Item)
  let (l, s) := s.handItems (match c.tt with | some t => if scMode c.block = 2 then t.plan.teams else [] | none => []) k 0 out
  let pay := if scPayload c.block && !scDeliver c.block then items.map fun p => fit n.rowBytes p.1.2 else []
  let tr : Tree := ⟨x.num, 3, field c.block 0 8, 0, if scMode c.block = 0 then 0 else scK c.block, [l], 0, c.matches_, c.unread.length, pay, some (c.id, 0), none⟩
  { s with ans := { s.ans with trees := Tab.put s.ans.trees k tr } }

/-- The same where the namespace was deleted or formatted after the bind: what its reads gave is open, and with it every result, flag and delivered
row within the answer's bounds (R4, R404, R405). -/
def State.scanOpen (s : State) (x : Session) (c : Scan) (k : Nat) : State :=
  let (m, s) := s.drawNat
  let (fl, s) := s.drawNat
  let (gone, s) := s.drawNat
  let (items, s) := s.freeItems
  let items := items.take (if scMode c.block = 0 then 0 else min (scK c.block) m)
  let width := match s.ns? c.nsid with | some n => n.rowBytes | none => 0
  let (rows, s) := s.drawBytes (items.length * width)
  let s := if scDeliver c.block then (quotaWrite 286 x.ranges (field c.block 32 8) rows s).2 else s
  let pay := if scPayload c.block && !scDeliver c.block then (List.range items.length).map fun i => slice rows (i * width) width else []
  let l : AList := ⟨k, (List.range items.length).zip items, 0, true⟩
  let tr : Tree := ⟨x.num, 3, field c.block 0 8, 0, items.length, [l], fl % 8, m, gone % 2 ^ 32, pay, some (c.id, 0), none⟩
  { s with ans := { s.ans with trees := Tab.put s.ans.trees k tr } }

/-- A plan has ended with no re-read left: its answer is assembled. -/
def scanComplete (id : Nat) (s : State) : State :=
  match s.scan? id with
  | none => s
  | some (x, c) =>
    match c.tt, s.freeTree with
    | some t, some k =>
      if !s.powered || c.ended || t.suspended.isSome || !c.missed.isEmpty || s.stg.stage < t.start + t.plan.passStages then s
      else
        let s := s.updScan x.num id fun c => { c with ended := true }
        match s.ns? c.nsid with
        | some n => if n.created ≤ t.bound then s.scanAnswer x c n k else s.scanOpen x c k
        | none => s.scanOpen x c k
    | _, _ => s

def execScanComplete (id : Nat) (s : State) : Host.Outcome State Fault Refusal := .next (scanComplete id s)

/-- At a boundary the filter slot of every scan plan that has ended is free again (R284). -/
def State.scanTick (s : State) : State :=
  let past := fun c : Scan => c.bound && !c.freed && match c.tt with
    | some t => t.suspended.isNone && decide (t.start + t.plan.passStages ≤ s.stg.stage)
    | none => false
  s.ses.list.foldl (fun s x => (x.scans.filter past).foldl (fun s c =>
    (s.freeSlots (State.bindPredicates x (.scan c.id))).updScan x.num c.id fun c => { c with freed := true }) s) s

/-- A SCAN ends early with a status; its filter slot is free again. -/
def State.endScan (st : Status) (dw0 : Nat) (s : State) (p : Session × Scan) : State :=
  let c := p.2
  let s := if c.bound && !c.freed then s.freeSlots (State.bindPredicates p.1 (.scan c.id)) else s
  let s := { s with ses := { s.ses with binds := s.ses.binds.filter fun b => b.what != BindFor.scan c.id } }.dropTrees c.id
  (s.completeWith c.tag st dw0 0 []).updSess p.1.num fun x => { x with scans := x.scans.filter fun y => y.id != c.id }

/-- A SCAN ends with ABORTED and a reason (R218, R502). -/
def State.abortScan (reason : Nat) (s : State) (p : Session × Scan) : State := State.endScan .aborted reason s p

/-! ### FETCH (R300) -/

/-- Held records in ascending stamp order. -/
def byStamp (l : List Held) : List Held :=
  l.foldl (fun acc h => (acc.takeWhile fun y => decide (y.stamp ≤ h.stamp)) ++ h :: acc.dropWhile fun y => decide (y.stamp ≤ h.stamp)) []

/-- As many whole records as fit. -/
def takeFit : Nat → List Held → List Held
  | _, [] => []
  | n, h :: l => if h.bytes.length ≤ n then h :: takeFit (n - h.bytes.length) l else []

/-- FETCH: records of one class after a stamp, by identifier where asked; each is to be freed unless KEEP is set. DEDUCED: BY_ID counts for
answer records alone. -/
def fetch (tag : Tag) (sess cls : Nat) (byId keep : Bool) (queryId after len : Nat) (s : State) : State :=
  s.command tag { limp := true } fun c s => s.sessCommand c tag sess fun x s =>
    if 3 ≤ cls then s.fail tag .invalidField
    else
      let sel := byStamp (x.held.filter fun h => h.cls == cls && decide (after < h.stamp) && (!(byId && cls == 0) || h.queryId == queryId))
      let out := takeFit len sel
      match sel, out with
      | h :: _, [] => s.completeWith tag .dataSglLength h.bytes.length 0 []
      | _, _ =>
        let s := if keep then s else { s with que := { s.que with freeing := s.que.freeing ++ out.map fun h => (tag, sess, h) } }
        let b := out.flatMap fun h => h.bytes
        s.succeed tag out.length b.length b

def execFetch (tag : Tag) (sess cls : Nat) (byId keep : Bool) (queryId after len : Nat) (s : State) : Host.Outcome State Fault Refusal :=
  .next (fetch tag sess cls byId keep queryId after len s)

end Sys2Proof.Machine
end

