-- ==== Sys2Proof/Machine/Sessions.lean ====
section
/-! DEFINITION. Sessions and partitions: SESSION OPEN and its reclaim form, SESSION CLOSE, QUOTA SET, time slices, the switch of a
partition with its save and restore, orphaning and the reclaim window (R193 to R199, R213 to R239, R505). -/

namespace Sys2Proof.Machine

/-! ### Quota descriptors (R193, R198, R199) -/

/-- A quota descriptor's grants. -/
def quotaGrants (b : Bytes) : List (Nat × Nat) := (List.range (field b 2 1)).map fun j => (field b (32 + 8 * j) 4, field b (32 + 8 * j + 4) 1)

def parseQuota (b : Bytes) : Quota :=
  { teams := field b 0 1, seats := if field b 1 1 = 255 then 2 else field b 1 1, granules := field b 4 4, host := field b 8 4, prot := field b 12 4
    grants := quotaGrants b }

/-- A data length too short for the descriptor: it fails before the checks of R198. -/
def quotaShort (b : Bytes) : Bool := decide (b.length < 32) || (decide (field b 2 1 ≤ 32) && decide (b.length < 32 + 8 * field b 2 1))

/-- Ranges that a session's quota grows or shrinks to in place (R199). -/
def State.growRanges (s : State) (x : Session) (g : Nat) : Option (List (Nat × Nat × Nat)) :=
  let p := x.ranges.length
  x.ranges.zipIdx.foldr (fun r acc => match acc with
    | none => none
    | some l =>
      let (pkg, f, n) := r.1
      let m := share g r.2 p
      if m ≤ n then some ((pkg, f, m) :: l)
      else if n = 0 then (match s.firstFit pkg m with | some f => some ((pkg, f, m) :: l) | none => none)
      else if f + m ≤ 1024 ∧ runFree (s.poolUsed pkg) (f + n) (m - n) = true then some ((pkg, f, m) :: l)
      else none) (some [])

/-- The reason of R198 that refuses a descriptor, none where it passes; x is the session of a QUOTA SET. DESIGN CHOICE: nothing that stands in the
host part counts against a smaller HOST_GRANULES, since R196 charges the host part with itself alone (log 71). -/
def State.quotaReason (s : State) (x : Option Session) (b : Bytes) : Option Nat :=
  let q := parseQuota b
  let n := field b 2 1
  if 32 < n then some 0x34
  else if field b 28 4 ≠ crc32c (b.take 28 ++ slice b 32 (8 * n)) then some 0x30
  else if 16 < q.teams then some 0x31
  else if 6 < q.seats then some 0x36
  else if (q.grants.any fun g => (s.ns? g.1).isNone || (g.2 != 1 && g.2 != 2)) || (q.grants.map fun g => g.1).eraseDups.length ≠ n then some 0x34
  else if q.granules ≤ q.host + q.prot ∨ q.prot < ceilDiv (saveTeam * q.teams + 4194304) granule then some 0x33
  else match x with
    | none => if (s.placeSession q.granules).isNone then some 0x32 else none
    | some x =>
      let dram := q.granules != x.quota.granules || q.host != x.quota.host || q.prot != x.quota.prot
      let x' := { x with quota := { x.quota with teams := q.teams, granules := q.granules, host := q.host, prot := q.prot } }
      if q.working * granule < workCharge s x || q.prot * granule < protCharge x' || (dram && (x.run.isSome || !x.queued.isEmpty)) then some 0x35
      else if (s.growRanges x q.granules).isNone then some 0x32
      else none

/-! ### SESSION OPEN (R214, R215, R217, R238) -/

/-- A new session, attached to a controller, with the deadline policy current at its open (R212, R215). -/
def newSession (num key : Nat) (c : Ctrl) (f : Ses) (q : Quota) (part : Option Nat) (ranges : List (Nat × Nat × Nat)) (tag : Tag) : Session :=
  { num := num, st := .opened, key := key, hostId := c.hostId, ctrl := c.id, quota := q, part := part, ranges := ranges, peerWait := f.peerWait
    hopRetries := f.hopRetries, strict := f.strict, window := f.window, windowStart := none, zeroing := [(tag, true)], quotaWait := []
    closing := none, held := [], routes := [], partials := [], cache := [], run := none, queued := [], search := none, queries := [], scans := []
    builds := [], peerSets := [], save := {}, debt := 0 }

/-- Completion dword 0 of a SESSION OPEN. -/
def sessionDw0 (x : Session) : Nat := x.num + (match x.part with | some p => p * 256 | none => 4096)

/-- SESSION OPEN's checks before its quota: the clock-failed state, limp mode, the contract's major version. -/
def State.openGate (s : State) (tag : Tag) (major : Nat) (f : Ctrl → State → State) : State :=
  s.command tag { limp := true, pend := true } fun c s =>
    if s.fwc.limp.isSome then s.refuse tag 0x27
    else if s.clk.failed then s.fail tag .operationDenied
    else if major ≠ 1 then s.refuse tag 0x02
    else f c s

/-- Granules of the session's quota are zero before the command completes (DEDUCED: the length of the data is checked with the
descriptor, after check 3). -/
def sessionOpen (tag : Tag) (major : Nat) (data : Bytes) (s : State) : State :=
  s.openGate tag major fun c s =>
    match findUp (fun k => (s.sess? k).isNone) 64 1 with
    | none => s.refuse tag 0x61
    | some n =>
      if quotaShort data then s.fail tag .dataSglLength
      else match s.quotaReason none data with
        | some r => s.refuse tag r
        | none =>
          let q := parseQuota data
          match (if q.teams = 0 then some (none, s) else (s.placePart q.teams).map fun p => (some p.1, p.2)) with
          | none => s.refuse tag 0x31
          | some (part, s) =>
            let (k, s) := s.drawKey
            let ranges := (s.placeSession q.granules).getD []
            let s := s.zeroRanges ranges
            let s := { s with ses := { s.ses with list := s.ses.list ++ [newSession n (k % 2 ^ 64) c s.ses q part ranges tag] } }
            s.sessEvent n 1

def execSessionOpen (tag : Tag) (major : Nat) (data : Bytes) (s : State) : Host.Outcome State Fault Refusal :=
  .next (sessionOpen tag major data s)

/-- The reclaim form: an ORPHANED session, its key and its Host Identifier. -/
def sessionOpenReclaim (tag : Tag) (major sess key : Nat) (s : State) : State :=
  s.openGate tag major fun c s =>
    match s.sess? sess with
    | none => s.refuse tag 0x62
    | some x =>
      if x.st == .orphaned && x.key == key && x.hostId == c.hostId then
        ((s.updSess sess fun x => { x with st := .opened, ctrl := c.id, windowStart := none }).sessEvent sess 1).succeed tag (sessionDw0 x) 0 []
      else s.refuse tag 0x62

def execSessionOpenReclaim (tag : Tag) (major sess key : Nat) (s : State) : Host.Outcome State Fault Refusal :=
  .next (sessionOpenReclaim tag major sess key s)

/-- The granted granules read zero: the SESSION OPEN or QUOTA SETs that wait for them complete, in their order (R217). -/
def granuleZeroingComplete (sess : Nat) (s : State) : State :=
  match s.sess? sess with
  | none => s
  | some x => if s.powered then (s.updSess sess fun x => { x with zeroing := [] }).endZeroing x else s

def execGranuleZeroingComplete (sess : Nat) (s : State) : Host.Outcome State Fault Refusal := .next (granuleZeroingComplete sess s)

/-! ### Save areas (R231) -/

/-- Entries of a partition's coaches in a table with w entries for each, by place. -/
def saveTab {α : Type} (w : Nat) (teams : List Nat) (t : Table α) : Table α :=
  (t.filter fun e => teams.contains (e.1 / w / 16)).map fun e => (coachPlace teams (e.1 / w) * w + e.1 % w, e.2)

/-- The coach at a place. -/
def placeCoach (teams : List Nat) (k : Nat) : Nat := ((List.range 16).filter fun t => teams.contains t).getD (k / 16) 0 * 16 + k % 16

/-- A partition's entries replaced by saved ones. -/
def loadTab {α : Type} (w : Nat) (teams : List Nat) (t saved : Table α) : Table α :=
  saved.foldl (fun t e => Tab.put t (placeCoach teams (e.1 / w) * w + e.1 % w) e.2) (t.filter fun e => !teams.contains (e.1 / w / 16))

/-- The control blocks of a partition's coaches. -/
def Coa.controlOf (c : Coa) (ts : List Nat) : SaveArea :=
  { tileFmt := saveTab 2 ts c.tileFmt, active := saveTab 1 ts c.active, lastSwap := saveTab 1 ts c.lastSwap, loadEnd := saveTab 1 ts c.loadEnd
    swapRate := saveTab 1 ts c.swapRate, nextCtx := saveTab 1 ts c.nextCtx, queues := saveTab 4 ts c.queues, work := saveTab 1 ts c.work
    waits := (saveTab 64 ts c.ctxs).filterMap fun e => if e.2.unit.isSome then some (e.1, e.2.unit) else none
    fills := saveTab (2 ^ 32) ts c.fills, reads := saveTab (2 ^ 32) ts c.reads }

/-- The coaches of a partition take the control blocks of a save area. -/
def Coa.takeControl (c : Coa) (ts : List Nat) (a : SaveArea) : Coa :=
  { c with
    tileFmt := loadTab 2 ts c.tileFmt a.tileFmt, active := loadTab 1 ts c.active a.active, lastSwap := loadTab 1 ts c.lastSwap a.lastSwap
    loadEnd := loadTab 1 ts c.loadEnd a.loadEnd, swapRate := loadTab 1 ts c.swapRate a.swapRate, nextCtx := loadTab 1 ts c.nextCtx a.nextCtx, queues := loadTab 4 ts c.queues a.queues
    work := loadTab 1 ts c.work a.work
    ctxs := a.waits.foldl (fun t e =>
      let k := placeCoach ts (e.1 / 64) * 64 + e.1 % 64
      Tab.set {} t k { Tab.get {} t k with unit := e.2 }) c.ctxs
    fills := loadTab (2 ^ 32) ts c.fills a.fills, reads := loadTab (2 ^ 32) ts c.reads a.reads }

/-- Pieces of the record at a place in a session's protected part: offset in the record, DRAM address, length (R231). -/
def recordPieces (x : Session) (place : Nat) : List (Nat × Nat × Nat) :=
  let n := place * coachRecord
  (List.range 526).filterMap fun i =>
    let lo := max n ((n / 4096 + i) * 4096)
    let hi := min (n + coachRecord) ((n / 4096 + i + 1) * 4096)
    if hi ≤ lo then none else (quotaAddr x.ranges (protOffset x.quota lo)).map fun a => (lo - n, a, hi - lo)

/-- A span of DRAM reads zero. -/
def State.clearData (s : State) (addr n : Nat) : State :=
  { s with drm := { s.drm with
    data := Tab.clear s.drm.data addr (addr + n)
    check := Tab.clear s.drm.check (addr / 8) ((addr + n) / 8) } }

/-- A record written over a place of a save area: bytes that it does not list are 0 (R231). -/
def State.writeRecord (s : State) (x : Session) (place : Nat) (r : Table Byte) : State :=
  (recordPieces x place).foldl (fun s p =>
    let s := s.clearData p.2.1 p.2.2
    let own := r.filter fun e => decide (p.1 ≤ e.1) && decide (e.1 < p.1 + p.2.2)
    ((own.map fun e => e.1 / 64).eraseDups).foldl (fun s l => (dramWrite (256 + pkgOf p.2.1) (p.2.1 + l * 64 - p.1) (Tab.getBytes 0 r (l * 64) 64) s).2) s) s

/-- The record at a place of a save area as its lines read: those that hold only zeros list nothing, and a line that meets a bus error holds
free bytes (DESIGN CHOICE: R379 names no outcome for the save engines). -/
def State.readRecord (x : Session) (place : Nat) (s : State) : Table Byte × State :=
  (recordPieces x place).foldl (fun a p =>
    let lines := ((a.2.drm.data.filter fun e => decide (p.2.1 ≤ e.1) && decide (e.1 < p.2.1 + p.2.2)).map fun e => e.1 / 64) ++
      ((a.2.drm.check.filter fun e => decide (p.2.1 ≤ e.1 * 8) && decide (e.1 * 8 < p.2.1 + p.2.2)).map fun e => e.1 / 8)
    lines.eraseDups.foldl (fun a l => match dramRead (256 + pkgOf p.2.1) (l * 64) 64 a.2 with
      | (some bs, s) => (Tab.putBytes 0 a.1 (p.1 + l * 64 - p.2.1) bs, s)
      | (none, s) =>
        let (bs, s) := s.drawBytes 64
        (Tab.putBytes 0 a.1 (p.1 + l * 64 - p.2.1) bs, s)) a) ([], s)

/-- Places of a partition's coaches. -/
def placesOf (ts : List Nat) : List Nat := List.range (16 * ts.length)

/-- The records of a partition's coaches written to the save area of its session; a coach out of service has a record of zeros. -/
def State.saveRecords (s : State) (x : Session) (ts : List Nat) : State :=
  (placesOf ts).foldl (fun s k =>
    let c := placeCoach ts k
    s.writeRecord x k (if s.coachOut c then [] else s.coa.record c)) s

/-- The coaches of a partition in service take their records. -/
def State.restoreRecords (s : State) (x : Session) (ts : List Nat) : State :=
  (placesOf ts).foldl (fun s k =>
    let c := placeCoach ts k
    if s.coachOut c then s
    else
      let (r, s) := s.readRecord x k
      { s with coa := s.coa.putRecord c r }) s

/-! ### QUOTA SET (R199, R224) -/

/-- A session placed again for another number of teams: its coach SRAM is lost; none where the placement fails. -/
def State.replaceTeams (s : State) (n teams : Nat) : Option State :=
  let s := s.leavePart n
  let s := s.updSess n fun x => { x with save := {}, debt := 0 }
  if teams = 0 then some s
  else (s.placePart teams).map fun p => p.2.updSess n fun x => { x with part := some p.1 }

/-- What a read answers for each number of a list, with the number. -/
def gather (f : Nat → State → Table Byte × State) (l : List Nat) (s : State) : List (Nat × Table Byte) × State :=
  l.foldl (fun a k => let (r, s) := f k a.2; (a.1 ++ [(k, r)], s)) ([], s)

/-- The records of a save area as they are read, by place. -/
def State.readSave (s : State) (x : Session) : List (Nat × Table Byte) × State :=
  gather (State.readRecord x) (List.range (16 * x.quota.teams)) s

/-- The records of a save area written, by place. -/
def State.writeSave (s : State) (x : Session) (l : List (Nat × Table Byte)) : State := l.foldl (fun s r => s.writeRecord x r.1 r.2) s

/-- A save area moves with the quota's granules: what it holds is read, its place and the granules added to its ranges read zero, and it is
written at its new place; where the teams change it reads zero there (R199, R224). -/
def State.moveSave (s : State) (x y : Session) (moved : Bool) (grown : List ((Nat × Nat × Nat) × Nat × Nat × Nat)) : State :=
  let p := if moved then ([], s) else s.readSave x
  let none_ := fun z : Session => (List.range (16 * z.quota.teams)).map fun k => (k, ([] : Table Byte))
  let s := p.2.writeSave x (none_ x)
  let s := grown.foldl (fun s p => s.zeroSlots p.2.1 (p.2.2.1 + p.1.2.2) (p.2.2.2 - p.1.2.2)) s
  s.writeSave y (if moved then none_ y else p.1)

/-- A quota descriptor that has passed its checks is taken: teams placed again, ranges grown in place, new granules zeroed. The save area
moves to the new last granules with what it holds, and reads zero where the teams change (R199, R224). The other contents of the protected
part stand in the session itself (log 41). -/
def State.takeQuota (s : State) (x : Session) (tag : Tag) (q : Quota) : State :=
  let moved := q.teams != x.quota.teams
  match (if moved then s.replaceTeams x.num q.teams else some s), s.growRanges x q.granules with
  | none, _ => s.refuse tag 0x31
  | _, none => s.refuse tag 0x32
  | some s, some rs =>
    let q := { q with seats := x.quota.seats }
    let y := { x with quota := q, ranges := rs }
    let shifts := moved || q.granules != x.quota.granules || q.prot != x.quota.prot
    let grown := (x.ranges.zip rs).filter fun p => decide (p.1.2.2 < p.2.2.2)
    let s := if shifts then s.moveSave x y moved grown else s
    let s := s.updSess x.num fun x => { x with quota := q, ranges := rs }
    let s := match s.sess? x.num with
      | some y =>
        let s := if s.holds y then (match y.part with | some p => s.setWindows p (some y) | none => s) else s
        if moved && y.part.isSome && !y.queries.isEmpty then s.addBind y.num .search else s
      | none => s
    if grown.isEmpty && !moved then s.succeed tag 0 0 []
    else s.updSess x.num fun x => { x with zeroing := x.zeroing ++ [(tag, false)] }

/-- A change of TEAMS waits while a run is in progress or a query admitted. -/
def teamsWait (x : Session) : Bool := x.run.isSome || x.queries.any fun q => q.admitted.isSome

def quotaSet (tag : Tag) (sess : Nat) (data : Bytes) (s : State) : State :=
  s.command tag { pend := true } fun c s => s.sessCommand c tag sess fun x s =>
    if quotaShort data then s.fail tag .dataSglLength
    else match s.quotaReason (some x) data with
      | some r => s.refuse tag r
      | none =>
        let q := parseQuota data
        if q.teams ≠ x.quota.teams ∧ (teamsWait x || !x.quotaWait.isEmpty) = true then
          s.updSess sess fun x => { x with quotaWait := x.quotaWait ++ [(tag, data)] }
        else s.takeQuota x tag q

def execQuotaSet (tag : Tag) (sess : Nat) (data : Bytes) (s : State) : Host.Outcome State Fault Refusal := .next (quotaSet tag sess data s)

/-- The session has no run in progress and no query admitted: the oldest QUOTA SET that waits is judged again and taken (DESIGN CHOICE: by
R198 as the session stands then). -/
def quotaSetTeamsReplace (sess : Nat) (s : State) : State :=
  match s.sess? sess with
  | none => s
  | some x => match x.quotaWait with
    | (tag, data) :: rest =>
      if !s.powered || teamsWait x || x.st == .closing then s
      else
        let y := { x with quotaWait := rest }
        let s := s.updSess sess fun x => { x with quotaWait := rest }
        (match s.quotaReason (some y) data with
        | some r => s.refuse tag r
        | none => s.takeQuota y tag (parseQuota data))
    | [] => s

def execQuotaSetTeamsReplace (sess : Nat) (s : State) : Host.Outcome State Fault Refusal := .next (quotaSetTeamsReplace sess s)

/-! ### SESSION CLOSE (R218, R219) -/

/-- A session enters CLOSING. -/
def State.enterClosing (s : State) (x : Session) (tag : Tag) (mode : Nat) : State :=
  ((s.abortQuotaWait x).updSess x.num fun x => { x with st := .closing, closing := some (tag, mode) })

/-- Work of a session ends as ABORT ends it: runs with fault ABORTED at the next boundary, queries and SCANs with a reason, builds with
RESULT 1. -/
def State.abortWork (s : State) (n reason : Nat) : State :=
  match s.sess? n with
  | none => s
  | some x =>
    let s := x.queued.foldl (fun s q => s.completeWith q.1 (.routeFault 6) 6 0 []) s
    let s := (s.updSess n fun x => { x with queued := [] }).faultRun n 6 none
    let s := x.queries.foldl (fun s q => s.abortQuery reason (x, q)) s
    let s := x.scans.foldl (fun s c => s.abortScan reason (x, c)) s
    let s := x.builds.foldl (fun s k => s.endBuild k.1 k.2 1 0 0) s
    let s := { s with ses := { s.ses with binds := s.ses.binds.filter fun b => !(b.sess == n && b.what == BindFor.search) } }
    s.updSess n fun x => { x with search := none }

def sessionCloseDrain (tag : Tag) (sess : Nat) (s : State) : State :=
  s.command tag { pend := true } fun c s => s.sessCommand c tag sess fun x s => s.enterClosing x tag 0

def execSessionCloseDrain (tag : Tag) (sess : Nat) (s : State) : Host.Outcome State Fault Refusal := .next (sessionCloseDrain tag sess s)

def sessionCloseAbort (tag : Tag) (sess : Nat) (s : State) : State :=
  s.command tag { pend := true } fun c s => s.sessCommand c tag sess fun x s => (s.enterClosing x tag 1).abortWork sess 1

def execSessionCloseAbort (tag : Tag) (sess : Nat) (s : State) : Host.Outcome State Fault Refusal := .next (sessionCloseAbort tag sess s)

/-- A session has nothing left to end. -/
def drained (x : Session) : Bool := x.run.isNone && x.queued.isEmpty && x.queries.isEmpty && x.scans.isEmpty && x.builds.isEmpty

/-- A CLOSING session whose work has ended is freed. -/
def sessionFree (sess : Nat) (s : State) : State :=
  match s.sess? sess with
  | some x => if s.powered && x.st == .closing && drained x then freeSession sess s else s
  | none => s

def execSessionFree (sess : Nat) (s : State) : Host.Outcome State Fault Refusal := .next (sessionFree sess s)

/-! ### Orphaned sessions (R235 to R239) -/

/-- A session whose controller has ended: nothing new starts, its current pass and admitted queries finish. -/
def State.orphan (s : State) (x : Session) : State :=
  if x.st != .opened then s
  else
    let unbound := x.scans.filter fun c => !c.bound
    let s := unbound.foldl (fun s c => s.abortScan 1 (x, c)) s
    let s := if x.queries.any fun q => q.admitted.isSome then s
      else { s with ses := { s.ses with binds := s.ses.binds.filter fun b => !(b.sess == x.num && b.what == BindFor.search) } }
    let s := s.updSess x.num fun x => { x with
      st := .orphaned, window := s.ses.window, windowStart := none, queued := []
      queries := x.queries.filter fun q => q.admitted.isSome }
    s.sessEvent x.num 2

/-- At a boundary the reclaim window of an orphaned session starts once its last run and query have ended. -/
def State.startWindows (s : State) : State :=
  let idle := fun x : Session => x.st == .orphaned && x.windowStart.isNone && x.run.isNone && x.queries.isEmpty
  { s with ses := { s.ses with list := updateIf idle (fun x => { x with windowStart := some s.stg.stage }) s.ses.list } }

/-- The reclaim window ends: the session is freed as ABORT frees it. -/
def reclaimWindowExpiry (sess : Nat) (s : State) : State :=
  match s.sess? sess with
  | none => s
  | some x => match x.windowStart with
    | some a =>
      if s.powered && x.st == .orphaned && decide (x.window * 1000000000 ≤ (s.stg.stage - a) * 8200) then freeSession sess (s.abortWork sess 1) else s
    | none => s

def execReclaimWindowExpiry (sess : Nat) (s : State) : Host.Outcome State Fault Refusal := .next (reclaimWindowExpiry sess s)

/-! ### Time slices (R225 to R228, R234) -/

/-- The next session of a partition with work, ascending after the holder and wrapping from 64 to 1 (R226). -/
def State.nextHolder (s : State) (p : Partition) : Option Nat :=
  let h := p.holder.getD p.last
  let ok := fun n : Nat => match s.sess? n with | some x => x.part == some p.num && hasWork x && p.holder != some n | none => false
  (findUp (fun k => ok ((k - 1) % 64 + 1)) 64 (h + 1)).map fun k => (k - 1) % 64 + 1

def State.holderWorks (s : State) (p : Partition) : Bool :=
  match p.holder.bind s.sess? with
  | some x => hasWork x
  | none => false

/-- A slice ends at the next boundary: SLICE − D running stages have passed with this one, and another session has work. -/
def sliceEnd (part : Nat) (s : State) : State :=
  match s.part? part with
  | none => s
  | some p =>
    if s.coreClock && p.switch.isNone && p.holder.isSome && decide (p.slice ≤ p.run + 1) && (s.nextHolder p).isSome then
      s.updPart part fun p => { p with switch := some (.deferred (s.stg.stage + 1)) }
    else s

def execSliceEnd (part : Nat) (s : State) : Host.Outcome State Fault Refusal := .next (sliceEnd part s)

/-- A timetable suspended at B′, unless it is already. -/
def suspendTt (b : Nat) (t : Timetable) : Timetable := { t with suspended := some (t.suspended.getD b) }

/-- The switch is to begin at B′, the next boundary, with the debt of the outgoing session set. -/
def State.beginSwitch (s : State) (p : Partition) (debt : Nat) : State :=
  match s.nextHolder p with
  | none => s.updPart p.num fun p => { p with switch := none }
  | some next =>
    let s := match p.holder with | some h => s.updSess h (fun x => { x with debt := debt }) | none => s
    s.updPart p.num fun p => { p with switch := some (.moving (s.stg.stage + 1) next 0) }

/-- A program of the outgoing session is still in flight, or has had its first seat before the end of the slice at b (R233, R234). -/
def State.programsRun (s : State) (p : Partition) (b : Nat) : Bool :=
  match p.holder.bind s.sess? with
  | none => false
  | some x => (s.xlt.sets.any fun q => q.sess == some x.num) || match x.run.bind fun r => r.tt with
    | some t => t.suspended.isNone && (t.passesNear t.started s.stg.stage).any fun k => t.plan.entries.any fun e =>
        e.kind == .programOpen && match entryNext (t.passBase k) e (s.stg.stage + 1) with | some a => decide (a < b + 3) | none => false
    | none => false

/-- The next boundary is B′: the holder has no work and another session has, no session holds the teams, or every program issued before the slice
end has ended (R234, R505). -/
def partitionSwitch (part : Nat) (s : State) : State :=
  match s.part? part with
  | none => s
  | some p =>
    if !s.coreClock then s
    else match p.switch with
      | none => if !s.holderWorks p && (s.nextHolder p).isSome then s.beginSwitch p 0 else s
      | some (.deferred b) => if s.programsRun p b then s else s.beginSwitch p (s.stg.stage + 1 - b)
      | _ => s

def execPartitionSwitch (part : Nat) (s : State) : Host.Outcome State Fault Refusal := .next (partitionSwitch part s)

/-- The next boundary is B + 32: the switch proceeds although a program still occupies its die. -/
def switchDeferLimit (part : Nat) (s : State) : State :=
  match s.part? part with
  | none => s
  | some p => match p.switch with
    | some (.deferred b) => if s.coreClock && decide (b + 32 ≤ s.stg.stage + 1) then s.beginSwitch p 32 else s
    | _ => s

def execSwitchDeferLimit (part : Nat) (s : State) : Host.Outcome State Fault Refusal := .next (switchDeferLimit part s)

/-! ### The switch (R208, R229 to R232) -/

/-- At the boundary B′ + t_read + 1 the role stamp of the partition's coaches rises and the outgoing session's state is saved. -/
def State.saveOut (s : State) (p : Partition) : State :=
  match p.switch with
  | some (.moving b _ _) =>
    if b + s.fla.tRead + 1 ≠ s.stg.stage then s
    else
      let s := s.writeRoles p.teams true p.num
      match p.holder.bind s.sess? with
      | some x => (s.saveRecords x p.teams).updSess x.num fun y => { y with save := s.coa.controlOf p.teams }
      | none => s
  | _ => s

/-- Lines of one session's save area on its busiest package (R232). -/
def saveLines (s : State) (x : Session) (n : Nat) : Nat :=
  64 * ceilDiv (8388 * n) (max 1 x.quota.prot) * ceilDiv x.quota.prot (max 1 s.drm.present.length)

/-- Lines that timetables other than two sessions' route timetables hold at most on one package in one stage, under every shift (R232). -/
def State.heldLines (s : State) (a b : Option Nat) : Nat :=
  let ts := (s.tables.filter fun t => !((some t.1 == a || some t.1 == b) && (match s.sess? t.1 with
    | some x => (match x.run with | some r => r.tt == some t.2 | none => false)
    | none => false))).map fun t => t.2
  (s.drm.present.map fun d => ((List.range 64).map fun c => jointHeld (ownHeld (dramOf d)) ts c).foldl max 0).foldl max 0

/-- Lines per stage that a switch moves on one package (R232). -/
def State.engineRate (s : State) (a b : Option Nat) : Nat := min 6144 (9225 - s.heldLines a b)

/-- Lines that a switch of a partition from its holder to a session moves on the busiest package (R232). -/
def State.switchLines (s : State) (p : Partition) (next : Nat) : Nat :=
  let l := fun n : Option Nat => match n.bind s.sess? with | some x => saveLines s x p.teams.length | none => 0
  l p.holder + l (some next)

/-- Packages that the save areas of a switch use. -/
def State.switchPackages (s : State) (p : Partition) (next : Nat) : List Nat :=
  [p.holder, some next].flatMap fun n => match n.bind s.sess? with
    | some x => x.ranges.filterMap fun r => if r.2.2 = 0 then none else some r.1
    | none => []

/-- Stages of transfer of a switch at a rate of lines per stage. -/
def State.transferStages (s : State) (p : Partition) (next rate : Nat) : Nat := ceilDiv (s.switchLines p next) (max 1 rate)

/-- Stages that a switch waits for the engines: until the transfers of those under way that began before it, or with it under a lower number, and
share a package with it have ended, each after its own wait (R232). -/
def State.engineWait (s : State) (p : Partition) (b next : Nat) : Nat :=
  (s.ses.parts.map fun q => match q.switch with
    | some (.moving c m g) =>
      if q.num ≠ p.num ∧ (c < b ∨ (c = b ∧ q.num < p.num)) ∧ ((s.switchPackages q m).any fun k => (s.switchPackages p next).contains k) then
        c + s.fla.tRead + 1 + g + s.transferStages q m (s.engineRate q.holder (some m)) - (b + s.fla.tRead + 1)
      else 0
    | _ => 0).foldl max 0

/-- B′: the outgoing session's route, TOP and build plans are suspended with every entry of this stage and later ones, its coaches stop, and the switch
waits for those before it (R229, R230, R232). -/
def State.startSwitch (s : State) (p : Partition) : State :=
  match p.switch with
  | some (.moving b next _) =>
    if b ≠ s.stg.stage then s
    else
      let out := fun x : Session => { x with
        run := x.run.map fun r => { r with tt := r.tt.map (suspendTt b) }
        scans := x.scans.map fun c => if field c.block 12 1 = 2 then { c with tt := c.tt.map (suspendTt b) } else c
        buildTts := x.buildTts.map fun k => (k.1, suspendTt b k.2) }
      let s := match p.holder with | some h => s.updSess h out | none => s
      s.updPart p.num fun p => { p with switch := some (.moving b next (s.engineWait p b next)) }
  | _ => s

/-- First boundary at which the last restore of a switch can have ended: each engine moves at most 6,144 lines in a stage (R232). -/
def State.switchFirst (s : State) (p : Partition) (b next : Nat) : Nat := b + s.fla.tRead + 1 + s.transferStages p next 6144

/-- B′ + S: the boundary by which it has ended (R232). -/
def State.switchBound (s : State) (p : Partition) (b next grow : Nat) : Nat :=
  b + s.fla.tRead + 1 + grow + s.transferStages p next (s.engineRate p.holder (some next))

/-- The last restore of a partition has ended: the incoming session's state is in the coaches. -/
def State.restoreIn (s : State) (p : Partition) (next : Nat) : State :=
  match s.sess? next with
  | some x =>
    let s := s.restoreRecords x p.teams
    { s with coa := s.coa.takeControl p.teams x.save }.updPart p.num fun p => { p with switch := some (.restored next) }
  | none => s

/-- The last restore of the partition ends in this stage, no earlier than the engines can move the lines. -/
def switchRestoreComplete (part : Nat) (s : State) : State :=
  match s.part? part with
  | none => s
  | some p => match p.switch with
    | some (.moving b next _) => if s.coreClock && decide (s.switchFirst p b next ≤ s.stg.stage + 1) then s.restoreIn p next else s
    | _ => s

def execSwitchRestoreComplete (part : Nat) (s : State) : Host.Outcome State Fault Refusal := .next (switchRestoreComplete part s)

/-- At B′ + S, the latest boundary, every transfer of a switch has ended (R232). -/
def State.boundRestore (s : State) (p : Partition) : State :=
  match p.switch with
  | some (.moving b next grow) => if s.switchBound p b next grow ≤ s.stg.stage then s.restoreIn p next else s
  | _ => s

/-- At a boundary the coaches of a restored partition start with its session as holder, in a new slice of SLICE − D stages; with its windows
in force its outstanding DRAM READs are sent again (R208). -/
def State.startHolder (s : State) (p : Partition) : State :=
  match p.switch with
  | some (.restored next) =>
    match s.sess? next with
    | some x =>
      let s := s.updPart p.num fun p => { p with holder := some next, last := next, switch := none, run := 0, slice := s.ses.slice - x.debt, idle := false }
      let s := (s.updSess next fun x => { x with debt := 0 }).setWindows p.num (some x)
      s.reissueReads fun k => p.teams.contains (k / 2 ^ 32 / 16)
    | none => s.updPart p.num fun p => { p with holder := none, switch := none }
  | _ => s

/-- A boundary counts the stage that has passed in the holder's slice; an idle holder that has work again resumes at it, and a new slice
of the length then in force starts (R225, R227, R505). -/
def State.countSlice (s : State) (p : Partition) : State :=
  if p.holder.isNone || p.switch.isSome then s
  else if !s.holderWorks p then s.updPart p.num fun p => { p with idle := true }
  else if p.idle then s.updPart p.num fun p => { p with run := 0, slice := s.ses.slice, idle := false }
  else s.updPart p.num fun p => { p with run := p.run + 1 }

/-- What a boundary does to every partition; a stage in which the core domain was stopped belongs to no slice. -/
def State.partitionsTick (ran : Bool) (s : State) : State :=
  let s := if ran then s.ses.parts.foldl State.countSlice s else s
  let s := s.ses.parts.foldl State.startSwitch s
  let s := s.ses.parts.foldl State.saveOut s
  let s := s.ses.parts.foldl State.boundRestore s
  s.ses.parts.foldl State.startHolder s

end Sys2Proof.Machine
end

