-- ==== Sys2Proof/Machine/Port.lean ====
section
/-! DEFINITION. The port and its controllers: link training, the protocols answered, NVMe/TCP and RoCEv2 connections, Connect, controller
properties, keep-alive, shutdown and the end of a controller (R383 to R397, R447, R452). -/

namespace Sys2Proof.Machine

/-! ### The link (R384 to R388, R447) -/

/-- Lanes of the width now tried, from the lanes that lock: the first choice of R384 that they allow. -/
def widthLanes (width : Nat) (locked : List Nat) : Option Nat :=
  let all := fun (base n : Nat) => (List.range n).all fun k => locked.contains (base + k)
  if width = 3 then (if all 0 8 then some 0 else none)
  else if width = 2 then [0, 4].find? fun b => all b 4
  else if width = 1 then [0, 2, 4, 6].find? fun b => all b 2
  else none

/-- The port's training runs: the lane test is past, no image has failed, a pluggable is in and powered, no width stands (R454). -/
def State.training (s : State) : Bool := s.powered && s.boot.ph.lanes && !(s.boot.ph.image && !s.sec.imageOk) && s.port.plugged && s.port.plugPowered && s.port.width == 0

/-- A change of width discards a PTP exchange under way (R388). -/
def State.setWidth (s : State) (width base : Nat) : State :=
  { s with
    port := { s.port with width := width, base := base }
    stg := { s.stg with syncPending := none, delayPending := none } }

/-- The lanes that lock are known; the width now tried is taken where they allow it. -/
def linkTrain (locked : List Nat) (s : State) : State :=
  if !s.training then s
  else
    let l := (List.range 8).filter fun k => locked.contains k && !s.port.lanesOut.contains k
    let s := { s with port := { s.port with trained := l } }
    match widthLanes s.port.trying l with
    | some b => { s.setWidth s.port.trying b with port := { (s.setWidth s.port.trying b).port with passDone := true } }
    | none => s

def execLinkTrain (locked : List Nat) (s : State) : Host.Outcome State Fault Refusal := .next (linkTrain locked s)

/-- 500 ms without the width: the next one is tried; after the last the whole order is repeated. With nothing in the cage, or nothing that is
powered, every width has failed with the first (R451). -/
def linkWidthTimeout (s : State) : State :=
  if !s.training then
    if s.powered && s.boot.ph.lanes && s.port.width == 0 && !(s.port.plugged && s.port.plugPowered) then { s with port := { s.port with passDone := true } } else s
  else if s.port.trying ≤ 1 then { s with port := { s.port with trying := 3, passDone := true } }
  else { s with port := { s.port with trying := s.port.trying - 1 } }

def execLinkWidthTimeout (s : State) : Host.Outcome State Fault Refusal := .next (linkWidthTimeout s)

/-- The link goes: no width, training from the first width on. -/
def State.linkDown (s : State) : State :=
  let s := s.setWidth 0 0
  { s with port := { s.port with trying := 3 } }

def linkLoss (s : State) : State := if s.powered && s.port.width != 0 then s.linkDown else s

def execLinkLoss (s : State) : Host.Outcome State Fault Refusal := .next (linkLoss s)

/-- A pluggable above 15 W is not powered, and the port stays down. -/
def pluggableInsert (watts : Nat) (s : State) : State :=
  if s.port.plugged then s else { s with port := { s.port with plugged := true, plugPowered := decide (watts ≤ 15), trying := 3 } }

def execPluggableInsert (watts : Nat) (s : State) : Host.Outcome State Fault Refusal := .next (pluggableInsert watts s)

def pluggableRemove (s : State) : State :=
  let s := { s with port := { s.port with plugged := false, plugPowered := false } }
  if s.port.width = 0 then s else s.linkDown

def execPluggableRemove (s : State) : Host.Outcome State Fault Refusal := .next (pluggableRemove s)

/-- Register PORT_LINK (R386). -/
def State.portLink (s : State) : Nat := maskOf s.port.trained * 256 + s.port.base * 16 + s.port.width

/-! ### Addresses (R387) -/

/-- IPv6 link-local address. PRESUMED: by the modified EUI-64 of the MAC address. -/
def linkLocal (mac : Nat) : Nat := 0xFE80 * 2 ^ 112 + Nat.xor (mac / 2 ^ 24 * 2 ^ 40 + 0xFFFE * 2 ^ 24 + mac % 2 ^ 24) (2 ^ 57)

def State.ownV6 (s : State) (a : Nat) : Bool := a == linkLocal s.port.mac || (a == s.port.ipv6 && a != 0)
def State.ownV4 (s : State) (a : Nat) : Bool := a == s.port.ipv4 && a != 0

def arpRequest (target sender : Nat) (s : State) : State := if s.portUp && s.ownV4 target then s.send (.arpReply target sender) else s
def execArpRequest (target sender : Nat) (s : State) : Host.Outcome State Fault Refusal := .next (arpRequest target sender s)

def neighbourDiscovery (target sender : Nat) (s : State) : State := if s.portUp && s.ownV6 target then s.send (.ndReply target sender) else s
def execNeighbourDiscovery (target sender : Nat) (s : State) : Host.Outcome State Fault Refusal := .next (neighbourDiscovery target sender s)

def icmpEcho (v6 : Bool) (dest sender : Nat) (payload : Bytes) (s : State) : State :=
  if s.portUp && (if v6 then s.ownV6 dest else s.ownV4 dest) then s.send (.echoReply v6 sender payload) else s
def execIcmpEcho (v6 : Bool) (dest sender : Nat) (payload : Bytes) (s : State) : Host.Outcome State Fault Refusal :=
  .next (icmpEcho v6 dest sender payload s)

/-- A frame of no supported kind, or longer than 9,216 bytes, is dropped. -/
def frameDrop (_len : Nat) (s : State) : State := if s.portUp then { s with port := { s.port with dropped := s.port.dropped + 1 } } else s
def execFrameDrop (len : Nat) (s : State) : Host.Outcome State Fault Refusal := .next (frameDrop len s)

/-! ### The end of a controller (R235, R395) -/

/-- A command of a controller that has ended completes to nobody. -/
def untag (c : Nat) (t : Tag) : Tag := if t.ctrl = c then ⟨0, t.cid⟩ else t

/-- A session's commands of an ended controller. -/
def untagSession (c : Nat) (x : Session) : Session :=
  { x with
    zeroing := x.zeroing.map fun z => (untag c z.1, z.2)
    quotaWait := x.quotaWait.map fun z => (untag c z.1, z.2)
    closing := x.closing.map fun z => (untag c z.1, z.2)
    run := x.run.map fun r => { r with tag := untag c r.tag }
    queued := x.queued.map fun q => (untag c q.1, q.2)
    queries := x.queries.map fun q => { q with tag := untag c q.tag }
    scans := x.scans.map fun k => { k with tag := untag c k.tag } }

/-- A namespace's scheduled commands of an ended controller. -/
def untagNs (c : Nat) (n : Ns) : Ns :=
  { n with
    deleting := n.deleting.map (untag c)
    formatting := n.formatting.map fun f => (untag c f.1, f.2)
    switching := n.switching.map (untag c) }

/-- A session whose controller ends: a partial image is discarded, and it is ORPHANED. -/
def State.orphanFrom (s : State) (x : Session) : State :=
  let s := s.updSess x.num fun y => { y with partials := [] }
  s.orphan x

/-- A controller ends: its queues go, its commands are abandoned, its partial images are discarded and its OPEN sessions become
ORPHANED. -/
def State.endCtrl (s : State) (id : Nat) : State :=
  match s.ctrl? id with
  | none => s
  | some _ =>
    let s : State := { s with
      que := { s.que with ctrls := s.que.ctrls.filter fun c => c.id != id, done := s.que.done.filter fun d => d.tag.ctrl != id }
      xlt := { s.xlt with
        capWaits := s.xlt.capWaits.filter fun w => w.tag.ctrl != id
        landWaits := s.xlt.landWaits.filter fun w => w.tag.ctrl != id
        leafWaits := s.xlt.leafWaits.filter fun w => w.tag.ctrl != id
        plain := s.xlt.plain.filter fun p => match p.what.tag with | some t => t.ctrl != id | none => true
        markTags := s.xlt.markTags.filter fun t => t.1.ctrl != id
        shutdowns := s.xlt.shutdowns.filter fun w => w.1 != id }
      ses := { s.ses with list := s.ses.list.map (untagSession id) }
      ns := { s.ns with
        list := s.ns.list.map (untagNs id)
        erasing := s.ns.erasing.map fun e : Nat × Option Tag => (e.1, e.2.map (untag id)) }
      sec := { s.sec with spdm := s.sec.spdm.filter fun p => p.1 != id } }
    (s.ses.list.filter fun x => x.ctrl == id && x.st == .opened).foldl State.orphanFrom s

/-- Controllers whose admin queue runs over a connection end with it. -/
def State.endConn (s : State) (conn : Nat) : State :=
  let s := { s with port := { s.port with conns := s.port.conns.erase conn, qps := s.port.qps.filter fun q => q.1 != conn } }
  ((s.que.ctrls.filter fun c => c.conn == conn).map fun c => c.id).foldl State.endCtrl s

def controllerEnd (ctrl : Nat) (s : State) : State := if s.powered then s.endCtrl ctrl else s
def execControllerEnd (ctrl : Nat) (s : State) : Host.Outcome State Fault Refusal := .next (controllerEnd ctrl s)

/-! ### NVMe/TCP (R389, R452) -/

/-- Fatal Error Status values of NVMe/TCP (PRESUMED: the transport specification's numbers). -/
def fesUnsupported : Nat := 6
def fesHeaderDigest : Nat := 3

/-- ICReq on a connection to port 4420 or 8009; before ready, and to another port, a reset. -/
def icreq (conn port : Nat) (hdgst ddgst : Bool) (s : State) : State :=
  if !s.portUp || s.port.conns.contains conn then s
  else if !s.serving || (port != 4420 && port != 8009) then s.send (.tcpReset conn)
  else if !hdgst || ddgst then s.send (.termReq conn fesUnsupported)
  else { s with port := { s.port with conns := s.port.conns ++ [conn] } }.send (.icResp conn)

def execIcreq (conn port : Nat) (hdgst ddgst : Bool) (s : State) : Host.Outcome State Fault Refusal := .next (icreq conn port hdgst ddgst s)

/-- A PDU: a header whose digest fails ends the connection; the capsule of a good one comes as its own command. -/
def tcpPduReceive (conn : Nat) (digestOk : Bool) (_len : Nat) (s : State) : State :=
  if !s.portUp || !s.port.conns.contains conn || digestOk then s else (s.send (.termReq conn fesHeaderDigest)).endConn conn

def execTcpPduReceive (conn : Nat) (digestOk : Bool) (len : Nat) (s : State) : Host.Outcome State Fault Refusal :=
  .next (tcpPduReceive conn digestOk len s)

/-! ### RoCEv2 (R390, R452) -/

/-- A connection request to service port 4420 sets up a queue pair at full rate; before ready it is rejected. -/
def rdmaConnectRequest (qp port : Nat) (s : State) : State :=
  if !s.portUp || (s.port.qps.any fun q => q.1 == qp) then s
  else if !s.serving || port != 4420 then s.send (.rdmaReject qp)
  else { s with port := { s.port with qps := s.port.qps ++ [(qp, 256, 0)] } }.send (.rdmaAccept qp)

def execRdmaConnectRequest (qp port : Nat) (s : State) : Host.Outcome State Fault Refusal := .next (rdmaConnectRequest qp port s)

/-- A congestion notification lowers the queue pair's rate; by how much the spec leaves open: a free value. -/
def cnpReceived (qp : Nat) (s : State) : State :=
  if !s.portUp || !(s.port.qps.any fun q => q.1 == qp) then s
  else
    let (n, s) := s.drawNat
    let lower := fun r : Nat => if r ≤ 1 then r else 1 + n % (r - 1)
    { s with port := { s.port with qps := updateIf (fun q => q.1 == qp) (fun q => (q.1, lower q.2.1, q.2.2)) s.port.qps } }

def execCnpReceived (qp : Nat) (s : State) : Host.Outcome State Fault Refusal := .next (cnpReceived qp s)

/-- The local ACK timeout: the packet is sent again, after 7 retries the queue pair is in error. -/
def rdmaAckTimeout (qp : Nat) (s : State) : State :=
  match s.port.qps.find? fun q => q.1 == qp with
  | none => s
  | some (_, rate, n) =>
    if !s.powered then s
    else if 7 ≤ n then s.endConn qp
    else { s with port := { s.port with qps := updateIf (fun q => q.1 == qp) (fun _ => (qp, rate, n + 1)) s.port.qps } }.send (.rdmaResend qp)

def execRdmaAckTimeout (qp : Nat) (s : State) : Host.Outcome State Fault Refusal := .next (rdmaAckTimeout qp s)

/-- An ECN-marked packet is answered with a congestion notification packet. -/
def ecnMarkedPacket (qp : Nat) (s : State) : State := if s.portUp && (s.port.qps.any fun q => q.1 == qp) then s.send (.cnp qp) else s
def execEcnMarkedPacket (qp : Nat) (s : State) : Host.Outcome State Fault Refusal := .next (ecnMarkedPacket qp s)

/-- Priority flow control on the configured priority alone. -/
def pfcPauseFrame (priority : Nat) (pause : Bool) (s : State) : State :=
  if !s.portUp || priority != s.port.pfcPriority then s
  else { s with port := { s.port with paused := if pause then insertNat priority s.port.paused else s.port.paused.erase priority } }

def execPfcPauseFrame (priority : Nat) (pause : Bool) (s : State) : Host.Outcome State Fault Refusal := .next (pfcPauseFrame priority pause s)

/-! ### Connect (R392 to R394) -/

/-- A reply on a connection that no controller owns, or whose controller ends. -/
def State.reply_ (s : State) (tag : Tag) (st : Status) (dw0 : Nat) : State :=
  { s with que := { s.que with done := s.que.done ++ [⟨tag, st.sct, st.sc, st.dnr, BitVec.ofNat 32 dw0, 0, []⟩] } }

/-- A new controller. DESIGN CHOICE: it is granted 64 I/O queues until feature 0x07 is set, and no event is enabled. -/
def newCtrl (id conn : Nat) (a : ConnectArgs) : Ctrl :=
  { id := id, discovery := a.discovery, conn := conn, hostId := a.hostId, hostNqn := a.hostNqn, kato := a.kato, adminDepth := a.qsize
    queues := [], granted := 64, enabled := false, shst := 0, aers := [], evCfg := 0, masked := [], held := [], alive := 0, changedNs := [] }

/-- The lowest free controller identifier: 1 to 256; a discovery controller's from 257 on (DESIGN CHOICE). -/
def State.freeCtrlId (s : State) (discovery : Bool) : Option Nat :=
  if discovery then findUp (fun k => (s.ctrl? k).isNone) 8 257 else findUp (fun k => (s.ctrl? k).isNone) 256 1

def connectAdmin (tag : Tag) (conn : Nat) (a : ConnectArgs) (s : State) : State :=
  if a.ctrlId ≠ 0xFFFF || a.kato < 1000 || 120000 < a.kato || a.qsize < 2 || 32 < a.qsize then s.reply_ tag .connectInvalid 0
  else match s.freeCtrlId a.discovery with
    | none => s.reply_ tag .connectBusy 0
    | some id => { s with que := { s.que with ctrls := s.que.ctrls ++ [newCtrl id conn a] } }.reply_ tag .ok id

def connectQueue (tag : Tag) (a : ConnectArgs) (s : State) : State :=
  if s.boot.mode == .diagnostic then s.reply_ tag .connectBusy 0
  else match s.ctrl? a.ctrlId with
    | none => s.reply_ tag .connectInvalid 0
    | some c =>
      let total := (s.que.ctrls.map fun c => c.queues.length).sum
      if !c.enabled || c.discovery || c.hostId != a.hostId || c.hostNqn != a.hostNqn || c.granted < a.qid || a.qsize < 2 || 1024 < a.qsize ||
          1024 ≤ total || (c.queues.any fun q => q.1 == a.qid) then s.reply_ tag .connectInvalid 0
      else (s.updCtrl c.id fun c => { c with queues := c.queues ++ [(a.qid, a.qsize)] }).reply_ tag .ok c.id

/-- Connect: queue 0 creates a controller, another queue an I/O queue. -/
def connect (tag : Tag) (conn : Nat) (a : ConnectArgs) (s : State) : State :=
  if !s.portServes || !(s.port.conns.contains conn || s.port.qps.any fun q => q.1 == conn) then s
  else if a.qid = 0 then connectAdmin tag conn a s else connectQueue tag a s

def execConnect (tag : Tag) (conn : Nat) (a : ConnectArgs) (s : State) : Host.Outcome State Fault Refusal := .next (connect tag conn a s)

/-! ### Properties (R392, R395 to R397) -/

/-- Served in every state and before CC.EN is set. -/
def fabricsServe : Serve := ⟨true, true, true, true⟩

/-- CAP, VS, CC and CSTS; the fields that the spec does not give are free. -/
def propertyGet (tag : Tag) (offset : Nat) (s : State) : State :=
  s.command tag fabricsServe fun c s =>
    let (n, s) := s.drawNat
    if offset = 0 then s.succeed tag (1023 + 65536 + n % 256 * 2 ^ 24) 32 []
    else if offset = 8 then s.succeed tag n 0 []
    else if offset = 0x14 then s.succeed tag (n / 2 * 2 + (if c.enabled then 1 else 0)) 0 []
    else if offset = 0x1C then s.succeed tag ((if c.enabled then 1 else 0) + c.shst * 4) 0 []
    else s.fail tag .invalidField

def execPropertyGet (tag : Tag) (offset : Nat) (s : State) : Host.Outcome State Fault Refusal := .next (propertyGet tag offset s)

/-- CC.EN written 1. -/
def ccEnableSet (tag : Tag) (s : State) : State :=
  s.command tag fabricsServe fun c s => (s.updCtrl c.id fun c => { c with enabled := true }).succeed tag 0 0 []

def execCcEnableSet (tag : Tag) (s : State) : Host.Outcome State Fault Refusal := .next (ccEnableSet tag s)

/-- CC.EN written 0 ends the controller. -/
def ccEnableClear (tag : Tag) (s : State) : State :=
  s.command tag fabricsServe fun c s => (s.endCtrl c.id).reply_ tag .ok 0

def execCcEnableClear (tag : Tag) (s : State) : Host.Outcome State Fault Refusal := .next (ccEnableClear tag s)

/-- CC.SHN: the buffer lands, leaves and a CLEAN mark follow, then shutdown complete is reported. In the diagnostic state nothing is
programmed (R468), and nothing is dirty: shutdown is complete at once. -/
def ccShutdownNotification (tag : Tag) (_abrupt : Bool) (s : State) : State :=
  s.command tag fabricsServe fun c s =>
    let s := s.succeed tag 0 0 []
    if s.boot.mode == .diagnostic then s.updCtrl c.id fun c => { c with shst := 2 }
    else
      let s := s.updCtrl c.id fun c => { c with shst := 1 }
      { s with xlt := { s.xlt with shutdowns := s.xlt.shutdowns ++ [(c.id, s.xlt.bufSeq)] } }.finishShutdown

def execCcShutdownNotification (tag : Tag) (abrupt : Bool) (s : State) : Host.Outcome State Fault Refusal :=
  .next (ccShutdownNotification tag abrupt s)

/-- Disconnect of the admin queue. -/
def disconnect (tag : Tag) (s : State) : State :=
  s.command tag fabricsServe fun c s => (s.endCtrl c.id).reply_ tag .ok 0

def execDisconnect (tag : Tag) (s : State) : Host.Outcome State Fault Refusal := .next (disconnect tag s)

/-! ### Keep-alive (R394) -/

def keepAlive (tag : Tag) (s : State) : State :=
  s.command tag ⟨false, true, true, true⟩ fun c s => (s.updCtrl c.id fun c => { c with alive := c.alive + 1 }).succeed tag 0 0 []

def execKeepAlive (tag : Tag) (s : State) : Host.Outcome State Fault Refusal := .next (keepAlive tag s)

/-- No Keep Alive for KATO: the controller ends. -/
def keepAliveExpiry (ctrl : Nat) (s : State) : State := if s.powered then s.endCtrl ctrl else s

def execKeepAliveExpiry (ctrl : Nat) (s : State) : Host.Outcome State Fault Refusal := .next (keepAliveExpiry ctrl s)

end Sys2Proof.Machine
end

