-- ==== Sys2Proof/Machine/Power.lean ====
section
/-! DEFINITION. Power and hold-up: the bank and its measurement, the dirty cap, rest windows, the power-loss sequence and what it leaves,
HOLD, and the start of bring-up (R17, R22, R324, R358, R423 to R447). -/

namespace Sys2Proof.Machine

/-! ### The dirty cap (R427, R430 to R432) -/

/-- V_chg in 0.1 V, rounded down: 55.0 V or √(120 J / 1.05 C). -/
def vchg (c : Nat) : Nat := ((List.range 551).filter fun v => decide (v * v * 7 * c ≤ 800000000)).length - 1

/-- Energy above the 7 J kept back, as 10⁻⁸ J times a denominator, and the denominator: at the lower of the bank voltage and V_chg; with
`low`, V_chg is 1.0 V less (R429). -/
def energyOver (c vbank : Nat) (low : Bool) : Nat × Nat :=
  let at_ := fun v : Nat => (45 * c * (v * v - 40000) - 700000000, 1)
  if low then at_ (min vbank (vchg c - 10))
  else if vbank * vbank * 7 * c ≤ 800000000 || 302500 * 7 * c ≤ 800000000 then at_ (min vbank 550)
  else (36000000000 - 7 * (45 * c * 40000) - 4900000000, 7)

/-- dirty_cap of R430 in units of 64 MiB, computed exactly. -/
def dirtyCap (c vbank channels : Nat) (low : Bool) : Nat :=
  let (n, d) := energyOver c vbank low
  let b := n * channels * 11
  if b < 144 * d * 1073741824 then 0 else min 256 (b / (144 * d * 67108864))

/-- The cap is computed at V_chg − 1.0 V: from a measurement's start until its recharge ends (R429). -/
def State.capLow (s : State) : Bool := s.pwr.bank == .measuring || (s.pwr.bank == .charging && s.pwr.measured)

/-- PROTECTED set: writes that wait at the cap complete with Namespace is Write Protected. -/
def State.protect (s : State) : State :=
  s.xlt.capWaits.foldl (fun s w => s.fail w.tag .writeProtected) { s with xlt := { s.xlt with capWaits := [] }, pwr := { s.pwr with prot := true } }

/-- The cap of a stage, and PROTECTED by it. -/
def State.capTick (s : State) : State :=
  let n := if s.pwr.bank == .fault then 0 else dirtyCap s.pwr.cMeas s.pwr.vbank s.fla.channels.length s.capLow
  let s := { s with pwr := { s.pwr with cap := n } }
  if n = 0 then (if s.pwr.prot then s else s.protect)
  else if 16 ≤ n then { s with pwr := { s.pwr with prot := false } }
  else s

/-- Register PWR_BANK (R429). -/
def State.pwrBank (s : State) : Nat :=
  let st := match s.pwr.bank with | .charging => 0 | .ready => 1 | .measuring => 2 | .fault => 3
  st * 2 ^ 30 + s.pwr.vbank % 1024 * 2 ^ 20 + s.pwr.cMeas % 1024 * 2 ^ 10 + (if s.pwr.prot then 512 else 0) + s.pwr.cap

/-! ### The bank (R429) -/

/-- A measurement starts: due, the bank ready and not low, the dirty data within the lower cap. -/
def bankMeasure (s : State) : State :=
  let due := !s.pwr.measured || decide (s.pwr.measStage + 8589934592 ≤ s.stg.stage)
  let low := dirtyCap s.pwr.cMeas s.pwr.vbank s.fla.channels.length true
  if s.powered && s.pwr.bank == .ready && due && decide (vchg s.pwr.cMeas ≤ s.pwr.vbank + 10) && decide (s.xlt.buf.length * 16384 ≤ low * 67108864) then
    { s with pwr := { s.pwr with bank := .measuring } }.capTick.warn
  else s

def execBankMeasure (s : State) : Host.Outcome State Fault Refusal := .next (bankMeasure s)

/-- The measurement ends with its C_meas, which is logged; the bank recharges, or turns to FAULT below 7.8 mF. -/
def bankMeasureComplete (c : Nat) (s : State) : State :=
  if !s.powered || !(s.pwr.bank == .measuring || s.pwr.faultMeas) then s
  else
    let s := { s with pwr := { s.pwr with
      cMeas := c % 1024, measured := true, measStage := s.stg.stage, faultMeas := false, bank := if c < 78 then .fault else .charging } }
    (s.event 0x000A 0 0x81 noObj (toLe 2 c ++ toLe 2 (vchg c))).capTick.warn

def execBankMeasureComplete (c : Nat) (s : State) : Host.Outcome State Fault Refusal := .next (bankMeasureComplete c s)

/-- The bank does not reach V_chg within 3 s of charging. -/
def bankChargeTimeout (s : State) : State :=
  if s.powered && s.pwr.bank == .charging then { s with pwr := { s.pwr with bank := .fault } }.capTick.warn else s

def execBankChargeTimeout (s : State) : Host.Outcome State Fault Refusal := .next (bankChargeTimeout s)

/-- The bank reaches V_chg: READY; in FAULT, a measurement runs at once. -/
def bankChargeComplete (s : State) : State :=
  if !s.powered then s
  else match s.pwr.bank with
    | .charging => { s with pwr := { s.pwr with bank := .ready } }.capTick.warn
    | .fault => { s with pwr := { s.pwr with faultMeas := true } }
    | _ => s

def execBankChargeComplete (s : State) : Host.Outcome State Fault Refusal := .next (bankChargeComplete s)

/-! ### Power, temperature and rest windows (R426, R438 to R440) -/

/-- Rest windows by the composite temperature in °C. -/
def thermLevel (t : Nat) : Nat := if t < 95 then 0 else if t < 100 then 2 else if t < 105 then 4 else if t < 110 then 8 else 12

/-- Threshold of a step, and the step below it. -/
def thermThreshold (n : Nat) : Nat := if n ≤ 2 then 95 else if n ≤ 4 then 100 else if n ≤ 8 then 105 else 110
def thermDown (n : Nat) : Nat := if 8 < n then 8 else if 4 < n then 4 else if 2 < n then 2 else 0

/-- Composite Temperature in °C. -/
def hottest (temps : List Nat) : Nat := (temps.take 3).foldl max 0

/-- A period of 1,024 stages begins: counts rise, and the rest windows of the period are fixed. -/
def periodStart (mean : Nat) (p : Pwr) : Pwr :=
  let power := if 585 < mean then min 12 (p.restPower + 1) else p.restPower
  let therm := max p.restThermal p.thermWish
  { p with restPower := power, restThermal := therm, thermWish := 0, restNow := max power therm, coolRun := if therm = p.restThermal then p.coolRun else 0 }

/-- What the power unit takes in every stage. -/
def samplePower (smp : Samples) (p : Pwr) : Pwr :=
  let t := hottest smp.temps
  let low := if smp.meanPower < 540 then p.lowPower + 1 else 0
  let cool := if p.restThermal != 0 && t + 3 ≤ thermThreshold p.restThermal then p.coolRun + 1 else 0
  { p with
    vbank := smp.vbank, temps := smp.temps
    restPower := if 16384 ≤ low then p.restPower - 1 else p.restPower, lowPower := if 16384 ≤ low then 0 else low
    restThermal := if 16384 ≤ cool then thermDown p.restThermal else p.restThermal, coolRun := if 16384 ≤ cool then 0 else cool
    thermWish := max p.thermWish (thermLevel t), hotRun := if 115 ≤ t then p.hotRun + 1 else 0 }

/-- Live timetables of a session moved by n stages, with the pass that follows; suspended ones stand (R230). -/
def shiftSession (n : Nat) (x : Session) : Session :=
  let mv := fun t : Timetable => if t.suspended.isSome then t else shiftTt n t
  { x with
    run := x.run.map fun r => { r with tt := r.tt.map mv, nextStart := if ttLive r.tt then r.nextStart + n else r.nextStart }
    search := x.search.map mv
    scans := x.scans.map fun c => { c with tt := c.tt.map mv }
    buildTts := x.buildTts.map fun k => (k.1, mv k.2) }

/-- Every unreleased entry moves by n stages, open reservations and the waits whose stages move included (R36, R440). -/
def State.shiftEntries (s : State) (n : Nat) : State :=
  { s with
    ses := { s.ses with list := s.ses.list.map (shiftSession n) }
    fla := { s.fla with openReads := s.fla.openReads.map fun o => { o with stage := o.stage + n } }
    coa := { s.coa with ctxs := s.coa.ctxs.map fun e => (e.1, if e.2.lapse = 0 then e.2 else { e.2 with lapse := e.2.lapse + n }) } }

/-- A partition switch is under way. -/
def State.switching (s : State) : Bool :=
  s.ses.parts.any fun p => match p.switch with | some (.moving _ _ _) => true | some (.restored _) => true | _ => false

/-- At the first boundary of a window of 64 stages: a rest window stops the core domain and moves the entries; one that would begin
during a switch waits for the next window after it. -/
def State.restTick (s : State) : State :=
  if s.stg.stage % 64 ≠ 0 then s
  else
    let due := decide (16 - s.pwr.restNow ≤ s.stg.stage / 64 % 16) || s.pwr.restDeferred
    if !due then { s with pwr := { s.pwr with resting := false } }
    else if s.switching then { s with pwr := { s.pwr with resting := false, restDeferred := true } }
    else { s with pwr := { s.pwr with resting := true, restDeferred := false } }.shiftEntries 64

/-! ### The start of the power-loss sequence (R433, R434, R436) -/

/-- Isolate and the start of Quiesce: the trigger is logged with the dirty bytes; no capsule is taken, no write acknowledged; runs in
progress are to complete with POWER_STOP, every other command with nothing. -/
def State.startSequence (s : State) (trigger : Nat) : State :=
  if !s.pwr.rails || s.pwr.seq != .none then s
  else
    let s := s.event 0x0012 0 0x81 noObj ([BitVec.ofNat 8 trigger] ++ toLe 8 (s.xlt.buf.length * 16384))
    let stop := fun x : Session => { x with queued := [], run := x.run.map fun r => if r.fault = 0 then { r with fault := 5 } else r }
    { s with
      pwr := { s.pwr with seq := .quiesce, trigger := trigger, lossStage := s.stg.stage, resting := false }
      clk := { s.clk with relockTries := if s.clk.pllLocked then none else some 1 }
      xlt := { s.xlt with
        capWaits := [], landWaits := [], leafWaits := [], shutdowns := [], markDue := none, markTags := [], copies := []
        plain := s.xlt.plain.filter fun p => match p.what with | .fill _ _ => true | _ => false }
      fla := { s.fla with seatDebt := [], recov := [] }
      que := { s.que with done := [] }
      ses := { s.ses with list := s.ses.list.map stop } }

def powerLoss (s : State) : State := s.startSequence 1
def execPowerLoss (s : State) : Host.Outcome State Fault Refusal := .next (powerLoss s)

/-- A fault of VOSFP takes the port down alone. -/
def railFault (osfp : Bool) (s : State) : State :=
  if !osfp then s.startSequence 2
  else if !s.powered || s.port.width == 0 then s
  else s.linkDown

def execRailFault (osfp : Bool) (s : State) : Host.Outcome State Fault Refusal := .next (railFault osfp s)

def overvoltage (s : State) : State := s.startSequence 3
def execOvervoltage (s : State) : Host.Outcome State Fault Refusal := .next (overvoltage s)

def seatedOpen (s : State) : State := { s with pwr := { s.pwr with seated := false } }.startSequence 6
def execSeatedOpen (s : State) : Host.Outcome State Fault Refusal := .next (seatedOpen s)

/-- 115 °C or above for 16 stages: logged, then off until the input is removed or HOLD is released (R441). -/
def thermalShutdown (s : State) : State :=
  if s.powered && decide (16 ≤ s.pwr.hotRun) then
    let s := s.event 0x0013 0 0x81 noObj [BitVec.ofNat 8 (hottest s.pwr.temps)]
    { s with pwr := { s.pwr with thermalOff := true, heldOff := true } }.startSequence 5
  else s

def execThermalShutdown (s : State) : Host.Outcome State Fault Refusal := .next (thermalShutdown s)

/-! ### Flush and Off (R324, R358, R433, R437) -/

/-- Operations that never come to their dies: the code words of a program among them stay unprogrammed (R324). -/
def State.unqueue (s : State) (keep : DieOp → Bool) : State :=
  let gone := s.fla.ops.filter fun o => decide (s.stg.stage < o.starts) && !keep o
  let ids := gone.filterMap fun o => match o.work with | .program id => some id | _ => none
  let sets := s.xlt.sets.filter fun p => ids.contains p.id
  let mine := fun k : Nat => sets.any fun p => pbDie (k / 2048) == p.die && pbBlock (k / 2048) == p.block && k / 4 % 512 == p.page && p.planes.contains (pbPlane (k / 2048))
  { s with
    fla := { s.fla with ops := s.fla.ops.filter fun o => !gone.contains o, words := s.fla.words.filter fun e => !mine e.1 }
    xlt := { s.xlt with sets := s.xlt.sets.filter fun p => !ids.contains p.id } }

/-- A sense that a read still waits for. -/
def State.sensesFor (s : State) (o : DieOp) : Bool :=
  match o.work with
  | .sense b p qs => s.xlt.plain.any fun x => x.senses.contains (o.die, b, p, qs)
  | _ => false

/-- Every array operation already issued has ended: the flush sequencer's programs begin, what is still queued is dropped but for the senses that
partly written units wait for. -/
def flushSequenceStart (s : State) : State :=
  if s.pwr.rails && s.pwr.seq == .quiesce && !(s.fla.ops.any fun o => !o.ended && decide (o.starts ≤ s.stg.stage)) && decide (s.pwr.lossStage < s.stg.stage) then
    let s := s.unqueue s.sensesFor
    flushMore { s with pwr := { s.pwr with seq := .flush } }
  else s

def execFlushSequenceStart (s : State) : Host.Outcome State Fault Refusal := .next (flushSequenceStart s)

/-- Events and accumulators as flash holds them where the spill and the log were never programmed: those of the newest mark, and no
accumulator rows. -/
def State.loseUnwritten (s : State) : State :=
  let (ev, tot) := match (s.xlt.marks.filter s.markReads).getLast? with | some m => (m.events, m.total) | none => ([], 0)
  { s with fwc := { s.fwc with events := ev, total := tot }, xlt := { s.xlt with acc := [], accOpen := [] } }

/-- Programs and erases in flight are interrupted: their code words are undefined, erased blocks are to be erased again; what has not been issued
never is (R324, R325). What the spill and the log did not bring into flash is lost. -/
def State.interrupt (s : State) : State :=
  let s := s.unqueue fun _ => false
  let s := if s.pwr.spilled && s.xlt.sets.isEmpty then s else s.loseUnwritten
  let cut := s.fla.ops.flatMap fun o => match o.work with
    | .erase b ps => if o.ended then [] else ps.map fun q => pbKey o.die q b
    | _ => []
  { s with
    fla := { s.fla with
      ops := []
      eraseCut := cut.foldl (fun l pb => insertNat pb l) s.fla.eraseCut
      words := s.fla.words.map fun e => if cut.contains (e.1 / 2048) then (e.1, { e.2 with undefined := true }) else e }
    xlt := { s.xlt with sets := [], plain := [] }
    pwr := { s.pwr with energyGone := true } }

/-- The bank reaches 20 V: programs in flight are interrupted, those not yet issued never issue. -/
def holdupEnergyExhausted (s : State) : State := if s.pwr.rails && s.pwr.seq != .none && !s.fromInput then s.interrupt else s
def execHoldupEnergyExhausted (s : State) : Host.Outcome State Fault Refusal := .next (holdupEnergyExhausted s)

/-- At SEATED + 20 ms the bank goes into its bleed load, whether or not the flush has ended. -/
def bankBleedSwitch (s : State) : State :=
  if s.pwr.seated then s
  else
    let s := { s with pwr := { s.pwr with bleeding := true } }
    if s.pwr.rails && s.pwr.seq != .none then s.interrupt else s

def execBankBleedSwitch (s : State) : Host.Outcome State Fault Refusal := .next (bankBleedSwitch s)

/-- A namespace after its module lost power: what had not taken effect is gone, builds are over, code layers are to be reloaded. -/
def nsOff (n : Ns) : Ns :=
  { n with
    gens := (n.gens.filter fun g => g.st != .building).map fun g => { g with codeLoaded := false, ranges := [] }
    lock := { n.lockNext.getD n.lock with failures := 0 }, lockNext := none
    deleting := none, formatting := none, switching := none }

/-- What is left without power: the media, the fuses, the configuration memory, the firmware records in flash. -/
def State.powerDown (s : State) : State :=
  { pending := s.pending, freeCtr := s.freeCtr
    stg := { ({} : Stg) with ticks := s.stg.ticks }
    fla := { ({} : Fla) with
      words := s.fla.words, next := s.fla.next, gen := s.fla.gen, reads := s.fla.reads, retired := s.fla.retired, suspect := s.fla.suspect
      retireMarked := s.fla.retireMarked, eraseCut := s.fla.eraseCut, testBlocks := s.fla.testBlocks }
    xlt := { ({} : Xlt) with
      map := s.xlt.map, leafIndex := s.xlt.leafIndex, sbs := s.xlt.sbs, marks := s.xlt.marks, markSeq := s.xlt.markSeq, setId := s.xlt.setId
      acc := s.xlt.acc, accOpen := s.xlt.accOpen, u0 := s.xlt.u0, u0Known := s.xlt.u0Known, cleanMark := s.xlt.cleanMark }
    pwr := { ({} : Pwr) with
      standby := s.pwr.standby, trigger := s.pwr.trigger, seated := s.pwr.seated, bleeding := true, hold := s.pwr.hold
      busJoined := s.pwr.hold, heldOff := s.pwr.heldOff, thermalOff := s.pwr.thermalOff, seq := .off }
    port := { ({} : Port) with plugged := s.port.plugged, plugPowered := s.port.plugPowered }
    ns := { s.ns with list := s.ns.list.map nsOff, erasing := [], formatPending := false, formatAll := none }
    fwc := { ({} : Fwc) with events := s.fwc.events, total := s.fwc.total, off := s.fwc.off }
    sec := { s.sec with imageOk := false, chain := [], spdm := [], reseedAt := 0 }
    boot := { ({} : Boot) with cfg := s.boot.cfg, cfgOut := s.boot.cfgOut, failLog := s.boot.failLog } }

/-- The flush is over: its last program has ended, or the energy has. -/
def State.flushOver (s : State) : Bool :=
  s.pwr.energyGone || (s.pwr.seq == .flush && s.pwr.spilled && s.fla.ops.all fun o => o.ended)

/-- After the last programs the rails fall. -/
def powerOff (s : State) : State := if !s.pwr.rails || s.pwr.seq == .none || !s.flushOver then s else s.powerDown

def execPowerOff (s : State) : Host.Outcome State Fault Refusal := .next (powerOff s)

/-! ### HOLD and the start of bring-up (R423, R435, R441, R445, R450) -/

/-- Soft start of the rails: the fields of a new power-on. -/
def State.softStart (s : State) : State :=
  let s := s.powerDown
  { s with
    pwr := { s.pwr with standby := true, rails := true, seq := .none, seated := true, bleeding := false, busJoined := false, heldOff := false, thermalOff := false }
    fwc := { s.fwc with off := false }
    sec := { s.sec with aliasNo := s.sec.aliasNo + 1 }
    boot := { s.boot with mode := .bringUp } }

/-- The input has stayed within 42 V to 60 V for 100 ms: only from off, with HOLD released, not while held off. -/
def bringUpStart (s : State) : State :=
  if s.boot.mode == .off && !s.pwr.rails && !s.pwr.hold && !s.pwr.heldOff then s.softStart else s

def execBringUpStart (s : State) : Host.Outcome State Fault Refusal := .next (bringUpStart s)

/-- HOLD for 1 ms: the sequence runs from the input; an off module's serial bus is joined at once. -/
def holdAssert (s : State) : State :=
  if s.pwr.hold then s
  else
    let s := { s with pwr := { s.pwr with hold := true, standby := true } }
    if s.pwr.rails then s.startSequence 4 else { s with pwr := { s.pwr with busJoined := true, bleeding := true, vbank := 0 } }

def execHoldAssert (s : State) : Host.Outcome State Fault Refusal := .next (holdAssert s)

/-- HOLD released: the bus is isolated at once and bring-up starts; a sequence still running is not cut short. -/
def holdRelease (s : State) : State :=
  if !s.pwr.hold then s
  else
    let s := { s with pwr := { s.pwr with hold := false, busJoined := false, heldOff := false } }
    if s.pwr.rails then s else s.softStart

def execHoldRelease (s : State) : Host.Outcome State Fault Refusal := .next (holdRelease s)

/-- The input falls below 36 V and stays removed for 1 s: the standby rail goes off, and a module held off may start again. -/
def standbyRailOff (s : State) : State :=
  if s.pwr.rails then s
  else { s with
    pwr := { s.pwr with standby := false, heldOff := false, thermalOff := false, busJoined := false }
    fwc := { s.fwc with off := false } }

def execStandbyRailOff (s : State) : Host.Outcome State Fault Refusal := .next (standbyRailOff s)

/-- The integrator's transfer on the serial bus: bytes of the 64 MiB configuration memory written, or read onto CFG_MISO. -/
def configBusTransfer (write : Bool) (addr len : Nat) (data : Bytes) (s : State) : State :=
  if !(s.pwr.busJoined && s.pwr.hold && s.pwr.standby) then s
  else
    let n := min len (0x4000000 - addr)
    if write then { s with boot := { s.boot with cfg := Tab.putBytes 0xFF s.boot.cfg addr (data.take n) } }
    else { s with boot := { s.boot with cfgOut := Tab.getBytes 0xFF s.boot.cfg addr n } }

def execConfigBusTransfer (write : Bool) (addr len : Nat) (data : Bytes) (s : State) : Host.Outcome State Fault Refusal :=
  .next (configBusTransfer write addr len data s)

/-! ### FAULT (R444) -/

/-- The FAULT pin is asserted; it needs the standby rail. -/
def State.faultPin (s : State) : Bool :=
  s.pwr.standby && (s.boot.mode != .ready || s.port.width == 0 || s.limpServes || s.pwr.prot || s.pwr.bank == .fault ||
    (s.fwc.errq.any fun e => e.cls == .fatal) || !s.fwc.direct.isEmpty || s.fwc.off || s.pwr.heldOff || s.pwr.hold || s.pwr.thermalOff || s.pwr.seq != .none)

end Sys2Proof.Machine
end

