-- ==== Sys2Proof/Machine/Faults.lean ====
section
/-! DEFINITION. Faults: units that leave service, limp mode, the error queue and the actions of FATAL errors, restarts of firmware
components, watchdogs and mailboxes, and the loss of the root PLL (R24, R52, R182, R470 to R485, R502). -/

namespace Sys2Proof.Machine

/-! ### Units leaving service (R182, R457, R482, R485) -/

/-- Counts of the six classes of R457. -/
def State.classCounts (s : State) : List Nat :=
  [((List.range 256).filter s.coachIn).length, ((List.range 16).filter s.teamServes).length, s.drm.present.length, s.fla.channels.length,
   (s.fla.dies.filter s.dieIn).length, 480 - (s.fab.linksOut.filter fun l => decide (l < 480)).length]

/-- A count lies below its minimum. -/
def State.belowMinimum (s : State) : Bool := (s.classCounts.zip s.boot.minimum).any fun p => decide (p.1 < p.2)

/-- Runs whose present pass uses a unit meet its error at once. -/
def State.faultRuns (s : State) (code : Nat) (uses : Timetable → Bool) : State :=
  let hit := s.ses.list.filter fun x => match x.run with
    | some r => r.nextOp.isSome && (match r.tt with | some t => uses t | none => false)
    | none => false
  hit.foldl (fun s x => s.faultHere x.num code) s

/-- A page set in flight on a die that is gone: its units are placed again, its copies and what firmware wrote are written again (R320). -/
def State.dropSet (s : State) (p : PageSet) : State :=
  if p.units.isEmpty then
    let t : State := { s with xlt := { s.xlt with sets := s.xlt.sets.filter fun x => x.id != p.id } }
    if p.stream = 14 then t else t.placeAgain p p.planes (s.setWords p)
  else { s with xlt := { s.xlt with
    sets := s.xlt.sets.filter fun x => x.id != p.id
    buf := mergeBack p.id s.xlt.buf
    copies := updateIf (fun k => k.inSet == some p.id) (fun k => { k with inSet := none }) s.xlt.copies } }

/-- A die's array operation and what depends on it end with it. -/
def State.dropDie (s : State) (die : Nat) : State :=
  let s : State := { s with
    fla := { s.fla with
      dies := s.fla.dies.filter fun d => d != die
      ops := s.fla.ops.filter fun o => o.die != die
      cache := s.fla.cache.filter fun e => e.1 / 4 != die
      recov := s.fla.recov.filter fun r => r.word.die != die }
    xlt := { s.xlt with plain := s.xlt.plain.map fun p => { p with senses := p.senses.filter fun q => q.1 != die } } }
  (s.xlt.sets.filter fun p => p.die == die).foldl State.dropSet s

/-- OUT set in COA_ROLE (R91). -/
def State.coachLeaves (s : State) (c : Nat) : State :=
  let v := (s.coaRole c).toNat
  let s := { s with coa := { s.coa with role := Tab.set 0 s.coa.role c (BitVec.ofNat 32 (v % 32768 + 32768)) } }
  s.faultRuns 1 fun t => t.plan.teams.contains (c / 16)

/-- The unit is in service now. -/
def State.inService (s : State) (o : Obj) : Bool :=
  match o.kind with
  | 1 => decide (o.index < 256) && s.coachIn o.index
  | 2 => s.dieIn o.index
  | 3 => s.fla.channels.contains o.index
  | 4 => s.drm.present.contains o.index
  | 5 => (decide (o.index < 480) || (decide (512 ≤ o.index) && decide (o.index < 575))) && !s.fab.linksOut.contains o.index
  | 6 => decide (o.index < 16777216) && !s.fla.retired.contains o.index
  | _ => false

/-- A unit leaves service; the topology generation rises. A plane block is retired instead, by a cause that the spec does not name. -/
def State.leaveService (s : State) (o : Obj) : State :=
  if !s.inService o then s
  else match o.kind with
    | 1 => (s.coachLeaves o.index).topoChange o false
    | 2 => (s.dropDie o.index).topoChange o false
    | 3 =>
      let s := (s.fla.dies.filter fun d => chanOf d == o.index).foldl State.dropDie s
      { s with fla := { s.fla with channels := s.fla.channels.filter fun c => c != o.index } }.topoChange o false
    | 4 =>
      let s := { s with drm := { s.drm with present := s.drm.present.filter fun p => p != o.index } }
      (s.faultRuns 2 fun t => t.plan.entries.any fun e => e.kind == .dram && e.unit == o.index).topoChange o false
    | 5 => { s with fab := { s.fab with linksOut := insertNat o.index s.fab.linksOut } }.topoChange o false
    | _ =>
      let (n, s) := s.drawNat
      s.retire o.index n

/-- R182: a unit leaves service under running passes. -/
def unitLeavesService (o : Obj) (s : State) : State := if s.powered && s.serving then (s.leaveService o).warn else s
def execUnitLeavesService (o : Obj) (s : State) : Host.Outcome State Fault Refusal := .next (unitLeavesService o s)

/-- A team's control core is lost: its coaches leave service, and runs of the team fault (R477). -/
def State.teamLeaves (s : State) (t : Nat) : State :=
  if !s.teamServes t then s else ((teamCoaches t).foldl State.coachLeaves s).topoChange ⟨8, 2 + t⟩ false

/-! ### Limp mode (R476, R478) -/

/-- What limp mode and the clock-failed state do to the sessions' work at a boundary: passes end their runs with ABORTED, search timetables
end with the last admitted query, and the drained buffer is followed by leaves and a mark. -/
def State.limpTick (s : State) : State :=
  if !s.limpServes then s
  else
    let idle := s.ses.list.filter fun x => match x.run with | some r => r.nextOp.isNone && decide (r.done < r.passes) | none => false
    let s := idle.foldl (fun s x => s.faultRun x.num 6 none) s
    let s := { s with ses := { s.ses with list := s.ses.list.map fun x => if x.queries.any (fun q => q.admitted.isSome) then x else { x with search := none } } }
    if !s.fwc.drained && s.xlt.buf.isEmpty && s.xlt.sets.isEmpty && s.boot.mode == .ready then
      let s := s.wantMark false
      { s with fwc := { s.fwc with drained := true } }
    else s

/-- The main cores stop and the fallback cores take over: recorded with its cause; entries of lower class end with their handlers. -/
def State.enterLimp (s : State) (cause : Nat) : State :=
  if s.fwc.limp.isSome then s
  else
    let s := { s with fwc := { s.fwc with limp := some cause, drained := false, restarting := [], retest := [], errq := s.fwc.errq.filter fun e => !e.taken } }
    ((s.event 0x0010 3 0x80 noObj [BitVec.ofNat 8 cause]).limpTick).warn

/-! ### FATAL errors (R422, R485) -/

/-- A FATAL error's action recorded and posted. -/
def State.fatalEvent (s : State) (o : Obj) (detail : List Nat) : State :=
  (s.event 0x0011 3 7 o (detail.map fun d => BitVec.ofNat 8 d)).asyncEvent 7 0 0xD0

/-- A unit left by a FATAL error: limp mode follows below a minimum, or with a package that holds a system region. -/
def State.fatalUnit (s : State) (system : Bool) : State := if s.belowMinimum || system then s.enterLimp 6 else s.warn

/-- The action by the object. -/
def State.actFatal (s : State) (o : Obj) : State :=
  match o.kind with
  | 0 => (s.fatalEvent o [1]).enterLimp 7
  | 7 | 9 =>
    let (n, s) := s.drawNat
    (s.fatalEvent o [1]).enterLimp (1 + n % 7)
  | 8 =>
    if o.index < 2 then
      let s := s.fatalEvent o [3]
      { s with pwr := { s.pwr with heldOff := true }, fwc := { s.fwc with off := true } }.startSequence 7
    else ((s.teamLeaves (o.index - 2)).fatalEvent o [4]).fatalUnit false
  | 10 => (s.updNs (o.index + 1) fun n => { n with readOnly := true }).fatalEvent o [5]
  | 11 =>
    let (n, s) := s.drawNat
    (match s.sess? o.index with
    | some _ => freeSession o.index (s.abortWork o.index 1)
    | none => s).fatalEvent o [n]
  | 12 => s
  | _ =>
    let system := o.kind == 4 && s.drm.present.contains o.index && s.systemSlots o.index != 0
    ((s.leaveService o).fatalEvent o [4]).fatalUnit system

/-- The first FATAL entry of the queue. -/
def firstFatal (q : List Err) : Option Err := q.find? fun e => e.cls == .fatal

/-- At the boundary after it entered the queue a FATAL error's action takes effect, one that found no entry at once. -/
def fatalAction (s : State) : State :=
  if !s.powered then s
  else match s.fwc.direct with
    | o :: rest => { s with fwc := { s.fwc with direct := rest } }.actFatal o
    | [] => match firstFatal s.fwc.errq with
      | some e => if stampStage e.stamp < s.stg.stage then { s with fwc := { s.fwc with errq := s.fwc.errq.erase e } }.actFatal e.obj else s
      | none => s

def execFatalAction (s : State) : Host.Outcome State Fault Refusal := .next (fatalAction s)

/-- An error enters the queue. -/
def errorRaise (cls : ErrClass) (o : Obj) (s : State) : State := if s.powered then raiseError cls o s else s
def execErrorRaise (cls : ErrClass) (o : Obj) (s : State) : Host.Outcome State Fault Refusal := .next (errorRaise cls o s)

/-! ### Restarts (R473 to R477) -/

/-- The cores of R470 and their components. -/
def coreComponents (core : Nat) : List Nat :=
  match core with
  | 0 => [0]
  | 1 => [1]
  | 2 | 3 => [2]
  | 4 => [3]
  | 5 => [4]
  | 6 => [5]
  | 7 => [6, 7]
  | _ => []

/-- Commands of a session that SESSION held: interrupted. Its run ends with ABORTED at the next boundary, under no command. -/
def State.interruptSession (s : State) (x : Session) : State :=
  let int := fun (s : State) (t : Tag) => s.fail t .interrupted
  let s := x.queued.foldl (fun s q => int s q.1) s
  let s := match x.run with | some r => int s r.tag | none => s
  let s := x.zeroing.foldl (fun s z => int s z.1) s
  let s := x.quotaWait.foldl (fun s z => int s z.1) s
  let s := match x.closing with | some z => int s z.1 | none => s
  let s := x.queries.foldl (fun s q => (int s q.tag).dropQuery x.num q.id) s
  let s := x.scans.foldl (fun s c => State.endScan .interrupted 0 s (x, c)) s
  let s := { s with ses := { s.ses with binds := s.ses.binds.filter fun b => !(b.sess == x.num && b.what == BindFor.search) } }
  (s.updSess x.num fun x => { x with
    queued := [], partials := [], zeroing := [], quotaWait := []
    closing := x.closing.map fun z => (⟨0, z.1.cid⟩, z.2)
    run := x.run.map fun r => { r with tag := ⟨0, r.tag.cid⟩ } }).faultRun x.num 6 none

/-- What a restart of a component does to the commands it held and to its work (R474). -/
def State.restartEffect (s : State) (comp : Nat) : State :=
  match comp with
  | 1 => s.ses.list.foldl State.interruptSession s
  | 2 => (s.ses.binds.filter fun b => b.since.isSome).foldl (fun s b => match s.sess? b.sess with
    | some x => s.endBind b x .interrupted 0
    | none => s) s
  | 3 =>
    let writes := s.xlt.landWaits.filter fun w => w.units.isSome
    let tags := (s.xlt.leafWaits.map fun w => w.tag) ++ (s.xlt.plain.filterMap fun p => p.what.tag) ++ (s.xlt.capWaits.map fun w => w.tag) ++ writes.map fun w => w.tag
    tags.foldl (fun s t => s.fail t .interrupted)
      { s with xlt := { s.xlt with leafWaits := [], plain := s.xlt.plain.filter fun p => p.what.tag.isNone, capWaits := [], landWaits := s.xlt.landWaits.filter fun w => w.units.isNone } }
  | 4 =>
    let targets := s.xlt.copies.filterMap fun k => match k.target, k.inSet with
      | some t, _ => some (entSb t)
      | none, some i => (s.xlt.sets.find? fun p => p.id == i).map fun p => sbOf p.die p.block
      | none, none => none
    targets.foldl State.abandon { s with xlt := { s.xlt with copies := [] } }
  | 5 =>
    let s := s.ns.list.foldl (fun s n => match n.switching with
      | some t => (s.fail t .interrupted).updNs n.nsid fun n => { n with switching := none }
      | none => s) s
    { s with ses := { s.ses with list := s.ses.list.map fun x => { x with buildDirty := [] } } }
  | _ => s

/-- A component restarts: the fourth restart within 2²⁰ stages is limp mode. -/
def State.restart (s : State) (comp cause : Nat) : State :=
  let recent := s.fwc.restarts.filter fun r => decide (s.stg.stage < r.2 + 1048576)
  let n := (recent.filter fun r => r.1 == comp).length + 1
  let s := { s with fwc := { s.fwc with restarts := recent ++ [(comp, s.stg.stage)], restarting := insertNat comp s.fwc.restarting } }
  let s := (s.event 0x000F 2 comp ⟨9, comp⟩ [BitVec.ofNat 8 cause, BitVec.ofNat 8 n]).restartEffect comp
  if 4 ≤ n then s.enterLimp 1 else s

/-- The main complex runs. -/
def State.mainRuns (s : State) : Bool := s.powered && s.boot.ph.firmware && s.fwc.limp.isNone

def componentRestart (comp cause : Nat) (s : State) : State := if s.mainRuns && decide (comp < 8) then s.restart comp cause else s
def execComponentRestart (comp cause : Nat) (s : State) : Host.Outcome State Fault Refusal := .next (componentRestart comp cause s)

/-- The handling of a SEVERE entry of an object ends. -/
def State.endHandling (s : State) (o : Obj) : State := { s with fwc := { s.fwc with errq := s.fwc.errq.filter fun e => !(e.taken && e.obj == o) } }

/-- A restart completes, or fails with a keep area whose CRC fails: limp mode. -/
def componentRestartComplete (comp : Nat) (keepOk : Bool) (s : State) : State :=
  if !s.mainRuns || !s.fwc.restarting.contains comp then s
  else
    let s := { s with fwc := { s.fwc with restarting := s.fwc.restarting.erase comp } }.endHandling ⟨9, comp⟩
    if keepOk then s else s.enterLimp 2

def execComponentRestartComplete (comp : Nat) (keepOk : Bool) (s : State) : Host.Outcome State Fault Refusal :=
  .next (componentRestartComplete comp keepOk s)

/-- A main core's watchdog: every component on it restarts. -/
def mainWatchdogExpiry (core : Nat) (s : State) : State :=
  (coreComponents core).foldl (fun s c => if s.mainRuns then s.restart c 5 else s) s

def execMainWatchdogExpiry (core : Nat) (s : State) : Host.Outcome State Fault Refusal := .next (mainWatchdogExpiry core s)

/-- A fallback core's watchdog: a FATAL error of the scheduler or power core; a team control core takes its team out of service. -/
def fallbackWatchdogExpiry (core : Nat) (s : State) : State :=
  if !s.powered || 18 ≤ core then s
  else if core < 2 then raiseError .fatal ⟨8, core⟩ s
  else s.teamLeaves (core - 2)

def execFallbackWatchdogExpiry (core : Nat) (s : State) : Host.Outcome State Fault Refusal := .next (fallbackWatchdogExpiry core s)

/-- A mailbox message: one whose CRC fails is dropped, a RECOVERABLE error of its sender. DESIGN CHOICE: the CRC stands in the header's
last 4 bytes, over the bytes before it and the body. -/
def mailboxMessage (sender _receiver : Nat) (msg : Bytes) (s : State) : State :=
  if !s.mainRuns || (decide (16 ≤ msg.length) && field msg 12 4 == crc32c (msg.take 12 ++ msg.drop 16)) then s
  else raiseError .recoverable ⟨9, sender⟩ { s with fwc := { s.fwc with mailboxDrops := s.fwc.mailboxDrops + 1 } }

def execMailboxMessage (sender receiver : Nat) (msg : Bytes) (s : State) : Host.Outcome State Fault Refusal :=
  .next (mailboxMessage sender receiver msg s)

/-! ### Handling errors (R482, R483) -/

/-- The next entry of lower class: the lowest stamp among those not taken. -/
def nextErr (q : List Err) : Option Err :=
  q.foldl (fun (b : Option Err) e => if e.cls == .fatal || e.taken then b else match b with
    | some x => if e.stamp < x.stamp then some e else b
    | none => some e) none

/-- The handler takes an entry: a NOTE is recorded and leaves; a SEVERE one starts a restart or a retest of its object. -/
def State.takeErr (s : State) (e : Err) : State :=
  if e.cls = .note then { s with fwc := { s.fwc with errq := s.fwc.errq.erase e } }
  else
    let s := { s with fwc := { s.fwc with errq := s.fwc.errq.map fun x => if x = e then { x with taken := true } else x } }
    if e.cls = .severe then
      (if e.obj.kind = 9 then s.restart e.obj.index 4 else { s with fwc := { s.fwc with retest := s.fwc.retest ++ [e.obj] } })
    else s

/-- Handles the queue's entries of lower class one at a time: takes the next, or ends the repair of the RECOVERABLE one taken. -/
def errorHandle (ended : Bool) (s : State) : State :=
  if !s.mainRuns then s
  else match s.fwc.errq.find? fun e => e.taken && e.cls != .fatal with
    | some e =>
      if ended && e.cls = .recoverable then { s with fwc := { s.fwc with errq := s.fwc.errq.erase e } }
      else if e.cls = .severe && !(s.fwc.retest.contains e.obj) && !(e.obj.kind == 9 && s.fwc.restarting.contains e.obj.index) then
        (if e.obj.kind = 9 then s.restart e.obj.index 4 else { s with fwc := { s.fwc with retest := s.fwc.retest ++ [e.obj] } })
      else s
    | none => if ended then s else match nextErr s.fwc.errq with
      | some e => s.takeErr e
      | none => s

def execErrorHandle (ended : Bool) (s : State) : Host.Outcome State Fault Refusal := .next (errorHandle ended s)

/-- The retest of the object that waits longest gives its verdict: a unit that fails leaves service. -/
def unitRetest (pass : Bool) (s : State) : State :=
  match s.fwc.retest with
  | [] => s
  | o :: rest =>
    if !s.mainRuns then s
    else
      let s := { s with fwc := { s.fwc with retest := rest } }
      (if pass then s else (s.leaveService o).warn).endHandling o

def execUnitRetest (pass : Bool) (s : State) : Host.Outcome State Fault Refusal := .next (unitRetest pass s)

/-! ### The root PLL (R48 to R52, R502) -/

/-- The PLL locks: its dividers are reset together at the next boundary. -/
def rootPllLock (s : State) : State :=
  if s.powered && s.boot.ph.fuses && !s.clk.pllLocked && s.clk.relockTries.isNone && !s.clk.failed then
    { s with clk := { s.clk with pllLocked := true, dividersPending := true } }
  else s

def execRootPllLock (s : State) : Host.Outcome State Fault Refusal := .next (rootPllLock s)

/-- A domain as the command names it. -/
def Clk.domain (c : Clk) : Domain → DomainState
  | .core => c.core
  | .flash => c.flash
  | .dram => c.dram

def Clk.setDomain (c : Clk) (d : Domain) (x : DomainState) : Clk :=
  match d with
  | .core => { c with core := x }
  | .flash => { c with flash := x }
  | .dram => { c with dram := x }

/-- Every domain is to switch to a source (R49, R52). -/
def Clk.wantAll (c : Clk) (r : Bool) : Clk :=
  { c with core := { c.core with want := some r }, flash := { c.flash with want := some r }, dram := { c.dram with want := some r } }

/-- A switch is asked for: at the next boundary S the domain stops for the whole of stage S, and at S + 1 it restarts on its new source
(R49). The root source needs a locked PLL whose dividers have been reset (R48). -/
def domainSwitch (d : Domain) (toRoot : Bool) (s : State) : State :=
  let x := s.clk.domain d
  if s.powered && x.target.isNone && x.want.isNone && x.root != toRoot && (!toRoot || (s.clk.pllLocked && !s.clk.dividersPending)) then
    { s with clk := s.clk.setDomain d { x with want := some toRoot } }
  else s

def execDomainSwitch (d : Domain) (toRoot : Bool) (s : State) : Host.Outcome State Fault Refusal := .next (domainSwitch d toRoot s)

/-- Loss of lock: a FATAL error; the dispatcher stops, every domain goes to bypass from the next boundary on, writes are no longer
acknowledged, three tries to relock follow. -/
def rootPllLoss (s : State) : State :=
  if !s.powered || !s.clk.pllLocked then s
  else
    let s := raiseError .fatal ⟨12, 0⟩ s
    { s with
      clk := { s.clk.wantAll false with pllLocked := false, relockTries := some 3 }
      stg := { s.stg with stopped := true } }

def execRootPllLoss (s : State) : Host.Outcome State Fault Refusal := .next (rootPllLoss s)

/-- The clock's FATAL entry leaves the queue once its outcome stands. -/
def State.dropClockErr (s : State) : State := { s with fwc := { s.fwc with errq := s.fwc.errq.filter fun e => e.obj != ⟨12, 0⟩ } }

/-- Every try failed: the clock-failed state ends runs, admitted queries and scans. -/
def State.clockFailed (s : State) : State :=
  let s := { s with clk := { s.clk with relockTries := none, failed := true } }.dropClockErr
  let s := s.fatalEvent ⟨12, 0⟩ [2, 2]
  let s := s.ses.list.foldl (fun s x =>
    let s := s.faultRun x.num 6 none
    let s := (x.queries.filter fun q => q.admitted.isSome).foldl (fun s q => State.abortQuery 4 s (x, q)) s
    x.scans.foldl (fun s c => State.abortScan 4 s (x, c)) s) s
  s.warn

/-- A try of 200 µs ends: relocked, the domains go back and limp mode follows; the third failure is the clock-failed state. During a
power-loss sequence one try is left, which decides the flush's rate alone. -/
def pllRelockTryEnd (locked : Bool) (s : State) : State :=
  match s.clk.relockTries with
  | none => s
  | some n =>
    if s.pwr.seq != .none then { s with clk := { s.clk with relockTries := none, pllLocked := locked } }
    else if locked then
      let s := { s with
        clk := { s.clk.wantAll true with relockTries := none, pllLocked := true, dividersPending := true }
        stg := { s.stg with stopped := false } }.dropClockErr
      ((s.fatalEvent ⟨12, 0⟩ [2, 1]).enterLimp 5).landCheck
    else if n ≤ 1 then s.clockFailed
    else { s with clk := { s.clk with relockTries := some (n - 1) } }

def execPllRelockTryEnd (locked : Bool) (s : State) : Host.Outcome State Fault Refusal := .next (pllRelockTryEnd locked s)

end Sys2Proof.Machine
end

