-- ==== Sys2Proof/Machine/Records.lean ====
section
/-! DEFINITION. The records of the configuration memory: how they are found, which of them stand, and their fields (R312, R370, R455 to
R461, R492). -/

namespace Sys2Proof.Machine

/-! ### The reader (R455) -/

/-- Bytes of the configuration memory; erased NOR reads 0xFF. -/
def State.cfgBytes (s : State) (a n : Nat) : Bytes := Tab.getBytes 0xFF s.boot.cfg a n

/-- A record as the reader finds it. -/
structure CfgRec where
  off : Nat
  type : Nat
  value : Bytes
  crcOk : Bool
deriving DecidableEq, Repr

/-- First byte of the records and the first byte beyond them. -/
def recordsFrom : Nat := 0x2000000
def recordsEnd : Nat := 0x4000000

/-- Records from an address on: until TYPE 0xFFFF, or one that would run past the end. -/
def readRecords (s : State) : Nat → Nat → List CfgRec
  | 0, _ => []
  | fuel + 1, a =>
    let head := s.cfgBytes a 8
    let len := field head 4 4
    if recordsEnd < a + 8 || field head 0 2 = 0xFFFF || recordsEnd < a + 12 + len then []
    else
      let v := s.cfgBytes (a + 8) len
      let crc := field (s.cfgBytes (a + 8 + len) 4) 0 4
      ⟨a, field head 0 2, v, crc == crc32c (head ++ v)⟩ :: readRecords s fuel (roundUp (a + 12 + len) 8)

/-- Every record of the list: none is shorter than 16 bytes with its gap. -/
def State.records (s : State) : List CfgRec := readRecords s 2097152 recordsFrom

/-! ### Values (R312, R457 to R461, R492) -/

def allZero (bs : Bytes) : Bool := bs.all fun b => b == 0

/-- Full figures of the six classes. -/
def fullFigures : List Nat := [256, 16, 12, 64, 1024, 480]

def expectedOf (v : Bytes) : List Nat := (List.range 6).map fun i => field v (4 * i) 2
def minimumOf (v : Bytes) : List Nat := (List.range 6).map fun i => field v (4 * i + 2) 2

def topologyOk (v : Bytes) : Bool :=
  v.length == 24 && (List.range 6).all (fun i =>
    decide ((minimumOf v).getD i 0 ≤ (expectedOf v).getD i 0) && decide ((expectedOf v).getD i 0 ≤ fullFigures.getD i 0)) &&
    decide (1 ≤ (minimumOf v).getD 2 0) && decide (1 ≤ (minimumOf v).getD 3 0)

def within (x lo hi : Nat) : Bool := decide (lo ≤ x) && decide (x ≤ hi)

/-- Opcodes of the commands that R304 uses (PRESUMED: ONFI's: reset, status enhanced, page read, parameter page, page program, block erase, features,
ZQ calibration, training). -/
def onfiOpcodes : List Nat :=
  [0x00, 0x30, 0x32, 0x10, 0x11, 0x14, 0x18, 0x60, 0x62, 0x63, 0x64, 0x76, 0x78, 0x80, 0x81, 0xD0, 0xD1, 0xD9, 0xEC, 0xEE, 0xEF, 0xF9, 0xFF]

/-- DIE_TYPE within the ranges of R312, its extension opcodes none that R304 uses. -/
def dieTypeOk (v : Bytes) : Bool :=
  v.length == 32 && within (field v 8 1) 2 6 && within (field v 9 1) 8 16 && within (field v 10 2) 100 305 && within (field v 12 1) 0 4 &&
    within (field v 13 1) 0 3 && allZero (slice v 17 15) && (List.range 3).all fun i => !onfiOpcodes.contains (field v (14 + i) 1)

def portPtpOk (v : Bytes) : Bool :=
  v.length == 64 && decide (field v 6 2 < 32768) && within (field v 12 1) 0 32 && within (field v 13 1) 0 7 && within (field v 14 1) 0 127 &&
    decide (field v 15 1 < 8) && within (field v 32 1) 0 128 && allZero (slice v 33 3) && allZero (slice v 60 4)

/-- Fields of feature 0xE1 that are in range, with no reserved bit set (R225, R460). -/
def sliceOk (d : Nat) : Bool := within (d % 32768) 256 16384
def quotaDefaultsOk (v : Bytes) : Bool := v.length == 4 && sliceOk (field v 0 4) && !bit (field v 0 4) 15 && decide (field v 0 4 < 131072)

def mapCacheOk (v : Bytes) : Bool := v.length == 1 && within (field v 0 1) 8 64
def stampRestartOk (v : Bytes) : Bool := v.length == 4 && within (field v 0 1) 0 1 && field v 1 1 == 0 && within (field v 2 2) 0 8000

/-- DEFECT without its signature: length, count, SERIAL equal to the fuses, reserved bits. -/
def defectOk (serial : Bytes) (v : Bytes) : Bool :=
  let n := field v 24 4
  decide (n ≤ 65536) && v.length == 28 + 4 * n + 4627 && v.take 16 == fit 16 serial && allZero (slice v 22 2) &&
    (List.range n).all fun j => decide (field v (28 + 4 * j) 4 < 2 ^ 24)

/-- The record bytes that come before the signature: TYPE, reserved, LENGTH and VALUE up to it (R489). -/
def signedPart (t : Nat) (v : Bytes) (sigAt : Nat) : Bytes := toLe 2 t ++ zeros 2 ++ toLe 4 v.length ++ v.take sigAt

def defectSigned (v : Bytes) : Bool :=
  let at_ := 28 + 4 * field v 24 4
  Config.factorySigned (sha3_512 (signedPart 7 v at_)) (slice v at_ 4627)

/-- Factory-bad plane blocks: die, plane and block in the bits of R461. -/
def defectBlocks (v : Bytes) : List Nat := (List.range (field v 24 4)).map fun j => let b := field v (28 + 4 * j) 4; (bits b 23 14 * 4 + bits b 13 12) * 4096 + bits b 11 0

def ownerChainOk (v : Bytes) : Bool :=
  decide (field v 0 4 < 4) && v.length == 9824 + field v 4 4 && allZero (slice v 9819 5)

/-- Known record types. -/
def knownType (t : Nat) : Bool := within t 1 8

/-- The VALUE passes its own checks: 0, else the cause of event 0x000B. -/
def valueCause (serial : Bytes) (t : Nat) (v : Bytes) : Nat :=
  let ok := match t with
    | 1 => topologyOk v
    | 2 => dieTypeOk v
    | 3 => portPtpOk v
    | 4 => quotaDefaultsOk v
    | 5 => mapCacheOk v
    | 6 => stampRestartOk v
    | 7 => defectOk serial v
    | _ => ownerChainOk v
  if !ok then 2 else if t = 7 && !defectSigned v then 4 else 0

/-! ### Which records stand (R456) -/

/-- Records that stand, and the ignored ones with their causes: 1 CRC, 2 value, 3 duplicate, 4 signature. A record of unknown type is
skipped. -/
def sortRecords (serial : Bytes) : List CfgRec → List CfgRec × List (CfgRec × Nat)
  | l => l.foldl (fun (a : List CfgRec × List (CfgRec × Nat)) r =>
    if !knownType r.type then a
    else if !r.crcOk then (a.1, a.2 ++ [(r, 1)])
    else if a.1.any fun q => q.type == r.type then (a.1, a.2 ++ [(r, 3)])
    else match valueCause serial r.type r.value with
      | 0 => (a.1 ++ [r], a.2)
      | c => (a.1, a.2 ++ [(r, c)])) ([], [])

def State.standing (s : State) : List CfgRec := (sortRecords s.sec.serial s.records).1

/-- VALUE of the record of a type that stands. -/
def State.recordOf (s : State) (t : Nat) : Option Bytes := (s.standing.find? fun r => r.type == t).map fun r => r.value

end Sys2Proof.Machine
end

