-- ==== Sys2Proof/Machine/Boot.lean ====
section
/-! DEFINITION. Bring-up: fuses, configuration records, training and self-tests, the firmware image and the owner chain, the topology check,
the start of the main firmware, media scan and replay, the stamp start, media work and ready (R41 to R45, R192, R323, R325, R328, R366,
R380, R384, R448 to R468, R481, R492). -/

namespace Sys2Proof.Machine

/-! ### The fuse array (R45, R462, R492, R493) -/

def State.fuse (s : State) (i : Nat) : Bool := s.sec.fuses.contains i

/-- A field of n fuse bits from a bit on, as a number. -/
def State.fuseField (s : State) (lo n : Nat) : Nat := (s.sec.fuses.filter fun i => decide (lo ≤ i) && decide (i < lo + n)).foldl (fun a i => a + 2 ^ (i - lo)) 0

def State.fuseCount (s : State) (lo n : Nat) : Nat := (s.sec.fuses.filter fun i => decide (lo ≤ i) && decide (i < lo + n)).length

/-- COACH_STATE of a coach; entries of SRAM_REPAIR; a coach that its fuses take out. -/
def State.coachFuse (s : State) (c : Nat) : Nat := s.fuseField (3096 + 2 * c) 2
def State.repairs (s : State) : List Nat := ((List.range 128).map fun k => s.fuseField (4248 + 24 * k) 24).filter fun e => bit e 23
def State.coachFused (s : State) (c : Nat) : Bool :=
  s.coachFuse c != 0 || (List.range 32).any fun b => decide (2 < (s.repairs.filter fun e => bits e 22 15 == c && bits e 14 10 == b).length)

def meshFuse (k : Nat) : Nat := 3608 + k
def ringFuse (k : Nat) : Nat := 4088 + k
def laneFuse (k : Nat) : Nat := 4152 + k
def channelFuse (k : Nat) : Nat := 4160 + k
def packageFuse (k : Nat) : Nat := 4224 + k

/-- What the fuses give: owners, the fused security version, SERIAL, UDS, the yoke fuse. -/
def State.readFuses (s : State) : State :=
  let slots := (List.range 5).map fun k => s.fuseField (408 + 512 * k) 512
  { s with
    sec := { s.sec with
      owners := (slots.takeWhile fun d => d != 0).map (toLe 64)
      secFused := s.fuseCount 2968 128, serial := toLe 16 (s.fuseField 24 128), uds := s.fuseField 152 256 }
    stg := { s.stg with capable := !s.fuse 20 } }

/-- Factory trim, signed (R45). -/
def State.factoryTrim (s : State) : Int := signed 20 (s.fuseField 0 20)

/-- The security core reads the fuses; the trim word is loaded, and the PLL may lock. -/
def fuseRead (fuses : List Nat) (s : State) : State :=
  if !s.powered || s.boot.mode != .bringUp || s.boot.ph.fuses then s
  else
    let all := (fuses.filter fun i => decide (i < 8192)).foldl (fun l i => insertNat i l) s.sec.fuses
    let s := ({ s with sec := { s.sec with fuses := all } } : State).readFuses
    { s with
      clk := { s.clk with trim := max (-250000) (min 250000 s.factoryTrim), src := 0 }
      boot := { s.boot with ph := { s.boot.ph with fuses := true } } }

def execFuseRead (fuses : List Nat) (s : State) : Host.Outcome State Fault Refusal := .next (fuseRead fuses s)

/-! ### Configuration records (R40, R225, R312, R370, R456 to R461) -/

/-- Every domain runs from the root PLL. -/
def State.clocksUp (s : State) : Bool :=
  s.clk.core.root && s.clk.flash.root && s.clk.dram.root && s.clk.core.target.isNone && s.clk.flash.target.isNone && s.clk.dram.target.isNone

/-- DIE_TYPE. -/
def applyDieType (v : Bytes) (f : Fla) : Fla :=
  { f with
    tRead := field v 8 1, tProg := field v 9 1, tErase := field v 10 2, retrySenses := field v 12 1, softSenses := field v 13 1, dieId := field v 0 8
    opcodes := [field v 14 1, field v 15 1, field v 16 1] }

/-- PORT_PTP, or the factory MAC of the DEFECT record alone. -/
def applyPort (rec : Option Bytes) (mac : Nat) (p : Port) : Port :=
  match rec with
  | none => { p with mac := mac }
  | some v => { p with
    mac := field v 0 6, vlan := field v 6 2, ipv4 := field v 8 4, ipv4Prefix := field v 12 1, pfcPriority := field v 13 1
    ipv6 := field v 16 16, ipv6Prefix := field v 32 1, asymmetry := signed 32 (field v 36 4), gateway4 := field v 40 4, gateway6 := field v 44 16 }

/-- The resets of feature 0xE0 (R40); the yoke seeks where enabled and capable. -/
def applyPtp (rec : Option Bytes) (g : Stg) : Stg :=
  let dom := match rec with | some v => field v 14 1 | none => 0
  let fl := match rec with | some v => field v 15 1 | none => 0
  let en := bit fl 0 && g.capable
  { g with
    ptpDomain := dom, lineTrim := bit fl 2, ptpTrim := bit fl 1, yokeEn := en, config := fl % 8 / 2 * 2 + (if en then 1 else 0)
    yoke := if en then .free else .disabled }

/-- The default of feature 0xE1: the QUOTA_DEFAULTS record's value, or its resets (R225, R460). -/
def sliceDefault (rec : Option Bytes) : Nat × Nat := match rec with | some v => (bits (field v 0 4) 14 0, bits (field v 0 4) 16 16) | none => (1024, 0)

/-- An ignored record is logged with its type, its place and the cause. -/
def State.logIgnored (s : State) (t off cause : Nat) : State := s.event 0x000B 0 0xFF noObj (toLe 2 t ++ toLe 4 off ++ [BitVec.ofNat 8 cause])

/-- A map cache record that is absent is logged as well; place and cause of such an event are free values. -/
def State.logNoMapCache (s : State) : State :=
  if s.records.any fun r => r.type == 5 then s
  else
    let (b, s) := s.drawBytes 5
    s.event 0x000B 0 0xFF noObj (toLe 2 5 ++ b)

/-- The records that stand take effect, the others are logged. -/
def configRecordRead (s : State) : State :=
  if !s.powered || s.boot.mode != .bringUp || !s.boot.ph.fuses || s.boot.ph.records || !s.clocksUp then s
  else
    let (st, bad) := sortRecords s.sec.serial s.records
    let get := fun t : Nat => (st.find? fun r => r.type == t).map fun r => r.value
    let s := (bad.foldl (fun s r => s.logIgnored r.1.type r.1.off r.2) s).logNoMapCache
    let mac := match get 7 with | some v => field v 16 6 | none => 0
    let blocks := match get 7 with | some v => defectBlocks v | none => []
    { s with
      fla := { (match get 2 with | some v => applyDieType v s.fla | none => s.fla) with retired := blocks.foldl (fun l pb => insertNat pb l) s.fla.retired }
      port := applyPort (get 3) mac s.port
      stg := { applyPtp (get 3) s.stg with
        policy := match get 6 with | some v => field v 0 1 | none => 0
        waitMs := match get 6 with | some v => field v 2 2 | none => 3000 }
      ses := { s.ses with slice := (sliceDefault (get 4)).1, pack := (sliceDefault (get 4)).2 }
      drm := { s.drm with cacheGiB := match get 5 with | some v => field v 0 1 | none => 32 }
      boot := { s.boot with
        ph := { s.boot.ph with records := true }
        stand := st.map fun r => r.type
        expected := match get 1 with | some v => expectedOf v | none => []
        minimum := match get 1 with | some v => minimumOf v | none => [] } }

def execConfigRecordRead (s : State) : Host.Outcome State Fault Refusal := .next (configRecordRead s)

/-! ### Tests (R463 to R465) -/

/-- A unit of a class failed its own test: held for log page 0xD3; with good fuses logged too. A link of ring or attachment belongs to no
class of R469: its class byte is a free value. -/
def State.testFail (s : State) (cls idx : Nat) (o : Obj) (fused : Bool) : State :=
  if s.boot.failed.contains (cls, idx) then s
  else
    let s := { s with boot := { s.boot with failed := s.boot.failed ++ [(cls, idx)] } }
    if fused then s
    else if cls = 8 then
      let (b, s) := s.drawBytes 1
      s.event 0x000C 0 0xFF o (b ++ toLe 2 idx)
    else s.event 0x000C 0 0xFF o ([BitVec.ofNat 8 cls] ++ toLe 2 idx)

/-- Whether fuses already take out a unit of a class. -/
def State.classFused (s : State) (cls idx : Nat) : Bool :=
  match cls with
  | 0 => s.coachFused idx
  | 2 => s.fuse (packageFuse idx)
  | 3 => s.fuse (channelFuse idx)
  | 5 => s.fuse (meshFuse idx)
  | 6 => s.fuse (laneFuse idx)
  | 8 => s.fuse (ringFuse idx)
  | _ => false

/-- Failures of one class recorded in order of their index. -/
def State.testFails (s : State) (cls n : Nat) (obj : Nat → Obj) (failed : List Nat) : State :=
  ((List.range n).filter fun i => failed.contains i).foldl (fun s i => s.testFail cls i (obj i) (s.classFused cls i)) s

/-- Bring-up runs and its records are read. -/
def State.testing (s : State) : Bool := s.powered && s.boot.mode == .bringUp && s.boot.ph.records

/-- Packages that train are in service (R192, R464). -/
def dramTraining (failed : List Nat) (s : State) : State :=
  if !s.testing || s.boot.ph.dram then s
  else
    let s := s.testFails 2 12 (fun i => ⟨4, i⟩) failed
    { s with
      drm := { s.drm with present := (List.range 12).filter fun p => !failed.contains p && !s.fuse (packageFuse p) }
      boot := { s.boot with ph := { s.boot.ph with dram := true } } }

def execDramTraining (failed : List Nat) (s : State) : Host.Outcome State Fault Refusal := .next (dramTraining failed s)

/-- DRM_FILL: DONE with every line written, or SKIPPED. -/
def fillReg (present : Bool) : BitVec 32 := if present then BitVec.ofNat 32 (2 ^ 31 + 2 ^ 20) else BitVec.ofNat 32 (2 ^ 30)

/-- Every line of every package in service is zero and clean. -/
def dramFill (s : State) : State :=
  if !s.testing || !s.boot.ph.dram || s.boot.ph.filled then s
  else { s with
    drm := { s.drm with data := [], check := [], fill := (List.range 12).map fun p => (p, fillReg (s.drm.present.contains p)) }
    boot := { s.boot with ph := { s.boot.ph with filled := true } } }

def execDramFill (s : State) : Host.Outcome State Fault Refusal := .next (dramFill s)

/-- Channels that train are in service. -/
def flashChannelTraining (failed : List Nat) (s : State) : State :=
  if !s.testing || s.boot.ph.channels then s
  else
    let s := s.testFails 3 64 (fun i => ⟨3, i⟩) failed
    { s with
      fla := { s.fla with channels := (List.range 64).filter fun c => !failed.contains c && !s.fuse (channelFuse c) }
      boot := { s.boot with ph := { s.boot.ph with channels := true } } }

def execFlashChannelTraining (failed : List Nat) (s : State) : Host.Outcome State Fault Refusal := .next (flashChannelTraining failed s)

/-- Dies of trained channels that identify themselves and pass the encoder check are in service. -/
def dieIdentification (failed : List Nat) (s : State) : State :=
  if !s.testing || !s.boot.ph.channels || s.boot.ph.dies then s
  else
    let s := s.testFails 4 1024 (fun i => ⟨2, i⟩) (failed.filter fun d => s.fla.channels.contains (chanOf d))
    { s with
      fla := { s.fla with dies := (List.range 1024).filter fun d => !failed.contains d && s.fla.channels.contains (chanOf d) }
      boot := { s.boot with ph := { s.boot.ph with dies := true } } }

def execDieIdentification (failed : List Nat) (s : State) : Host.Outcome State Fault Refusal := .next (dieIdentification failed s)

/-- Lanes that pass take part in the port's training, which begins. -/
def portLaneTest (failed : List Nat) (s : State) : State :=
  if !s.testing || s.boot.ph.lanes then s
  else
    let s := s.testFails 6 8 (fun _ => noObj) failed
    { s with
      port := { s.port with trying := 3, lanesOut := (List.range 8).filter fun k => failed.contains k || s.fuse (laneFuse k) }
      boot := { s.boot with ph := { s.boot.ph with lanes := true } } }

def execPortLaneTest (failed : List Nat) (s : State) : Host.Outcome State Fault Refusal := .next (portLaneTest failed s)

/-- The mesh links of a coach's router. -/
def routerLinks (c : Nat) : List Nat :=
  let x := c % 16
  let y := c / 16
  (if 0 < x then [y * 15 + x - 1] else []) ++ (if x < 15 then [y * 15 + x] else []) ++
    (if 0 < y then [240 + x * 15 + y - 1] else []) ++ (if y < 15 then [240 + x * 15 + y] else [])

/-- The ring and attachment links of a ring station. -/
def stationLinks (st : Nat) : List Nat := let k := ringPlace st; [512 + (k + 30) % 31, 512 + k, 544 + k]

/-- A ring link by its number in RING_BAD, 0 to 61, as a link number of R482. -/
def ringLinkNo (k : Nat) : Nat := if k < 31 then 512 + k else 544 + (k - 31)

/-- The self-test of coaches, SRAM, routers and links: what fuses or tests take out, what depends on it, and the dimension orders of
R80. Routers from 256 on are the ring stations' (DESIGN CHOICE: their test belongs to the router test). -/
def coachSelfTest (fc fr fl fg : List Nat) (s : State) : State :=
  if !s.testing || s.boot.ph.coaches then s
  else
    let routers := (List.range 256).filter fun c => fr.contains c || decide (2 ≤ s.coachFuse c)
    let stations := (List.range 31).filterMap fun k => if fr.contains (256 + k) then some (256 + k) else none
    let mesh := (List.range 480).filter fun k => fl.contains k || s.fuse (meshFuse k)
    let ring := (List.range 62).filter fun k => fg.contains k || s.fuse (ringFuse k)
    let out := (mesh ++ ring.map ringLinkNo ++ routers.flatMap routerLinks ++ stations.flatMap stationLinks).foldl (fun l k => insertNat k l) []
    let coaches := (List.range 256).filter fun c => fc.contains c || routers.contains c || s.coachFused c
    let s := ((s.testFails 0 256 (fun i => ⟨1, i⟩) (fc ++ fr)).testFails 5 480 (fun i => ⟨5, i⟩) fl).testFails 8 62 (fun i => ⟨5, ringLinkNo i⟩) fg
    let s := s.testFails 7 287 (fun _ => noObj) (fr.filter fun r => decide (284 ≤ r))
    { s with
      coa := { s.coa with role := coaches.foldl (fun t c => Tab.set 0 t c 32768) s.coa.role }
      fab := { s.fab with linksOut := out, bad := out, routersOut := routers }
      boot := { s.boot with ph := { s.boot.ph with coaches := true }, stationsOut := stations } }

def execCoachSelfTest (fc fr fl fg : List Nat) (s : State) : Host.Outcome State Fault Refusal := .next (coachSelfTest fc fr fl fg s)

/-! ### The image and the owner chain (R453, R454, R492, R493) -/

def State.imageHeader (s : State) : Bytes := s.cfgBytes 0 8192

/-- Digest of R454's step 2: the factory key's, or the owner digest in use. -/
def State.signerDigest (s : State) (signer : Nat) : Option Bytes :=
  match signer with
  | 0 => some (toLe 64 Config.factoryDigest.toNat)
  | 1 => s.sec.owners.getLast?
  | _ => none

/-- The five checks of R454 on a header; the signature's verdict comes with the command. -/
def State.imageChecks (s : State) (h : Bytes) (signatureOk : Bool) : Bool :=
  let n := field h 8 4
  field h 0 4 == 0x5746424E && field h 4 4 == 1 && within n 4096 33546240 &&
    s.signerDigest (field h 24 1) == some (sha3_512 (slice h 96 2592)) && signatureOk &&
    slice h 32 64 == sha3_512 (s.cfgBytes 8192 n) && decide (s.sec.secFused ≤ field h 12 4)

/-- The image is loaded and checked: one that fails releases no core and no port. -/
def firmwareImageVerify (signatureOk : Bool) (s : State) : State :=
  if !s.testing || !s.boot.ph.filled || s.boot.ph.image then s
  else
    let h := s.imageHeader
    let ok := s.imageChecks h signatureOk
    let s := { s with boot := { s.boot with ph := { s.boot.ph with image := true } } }
    if ok then { s with sec := { s.sec with imageOk := true, secVersion := field h 12 4, fwVersion := field h 16 8, signer := field h 24 1 } }
    else if s.port.width = 0 then s else s.linkDown

def execFirmwareImageVerify (signatureOk : Bool) (s : State) : Host.Outcome State Fault Refusal := .next (firmwareImageVerify signatureOk s)

/-- Fuse bits blown. -/
def State.blow (s : State) (l : List Nat) : State := { s with sec := { s.sec with fuses := l.foldl (fun t i => insertNat i t) s.sec.fuses } }

/-- The fuse bits of a digest in an owner slot. -/
def digestFuses (slot : Nat) (d : Bytes) : List Nat := ((List.range 512).filter fun i => bit (leNat d) i).map fun i => 408 + 512 * slot + i

/-- The owner-chain record changes nothing and is logged as ignored. -/
def State.chainIgnored (s : State) (r : CfgRec) (cause : Nat) : State :=
  { s with boot := { s.boot with stand := s.boot.stand.filter fun t => t != 8 } }.logIgnored 8 r.off cause

/-- Once the image has verified, the security core checks OWNER_CHAIN, installs its key and disables the yoke where it says so. -/
def ownerChainCheck (authOk : Bool) (s : State) : State :=
  if !s.testing || !s.sec.imageOk || s.boot.ph.owner then s
  else
    let s := { s with boot := { s.boot with ph := { s.boot.ph with owner := true } } }
    match s.standing.find? fun r => r.type == 8 with
    | none => s
    | some r =>
      let v := r.value
      let flags := field v 0 4
      let used := s.sec.owners.length
      let auth := sha3_512 (slice v 2600 2592)
      let new := sha3_512 (slice v 8 2592)
      let known := match s.sec.owners.getLast? with | some d => d == auth | none => toLe 64 Config.factoryDigest.toNat == auth
      let install := bit flags 0 && s.sec.owners.getLast? != some new
      if !known || !authOk then s.chainIgnored r 4
      else if install && decide (5 ≤ used) then s.chainIgnored r 2
      else
        let s := { s with sec := { s.sec with chain := v.drop 9824 } }
        let s := if install then ((s.blow (digestFuses used new)).readFuses).event 0x0015 0 0xC0 noObj [BitVec.ofNat 8 used] else s
        if bit flags 1 && s.stg.capable then
          let s := ((s.blow [20]).readFuses).event 0x0016 0 0xC0 noObj [1]
          ({ s with stg := { s.stg with yokeEn := false, config := s.stg.config / 2 * 2 } } : State).setYoke .disabled
        else s

def execOwnerChainCheck (authOk : Bool) (s : State) : Host.Outcome State Fault Refusal := .next (ownerChainCheck authOk s)

/-! ### The topology check (R464, R466) -/

/-- The bank has been measured, or it cannot be (R429). -/
def State.bankDone (s : State) : Bool := s.pwr.measured || s.pwr.bank == .fault

/-- A mandatory station that is out, or whose attachment link is out. -/
def State.stationOut (s : State) : Option Nat :=
  [284, 285, 286].find? fun st => s.boot.stationsOut.contains st || s.fab.linksOut.contains (544 + ringPlace st)

/-- Units that stand behind a ring station out of service are out with it. -/
def State.behindStations (s : State) : State :=
  let chan := s.fla.channels.filter fun c => !s.boot.stationsOut.contains (268 + c / 4)
  { s with
    drm := { s.drm with present := s.drm.present.filter fun p => !s.boot.stationsOut.contains (256 + p) }
    fla := { s.fla with channels := chan, dies := s.fla.dies.filter fun d => chan.contains (chanOf d) } }

/-- Held cause and its detail: the first that applies in the order of their numbers, the lowest of its kind. -/
def State.heldCause (s : State) : Nat × Nat :=
  match (List.range 6).find? fun i => decide (s.classCounts.getD i 0 < s.boot.minimum.getD i 0) with
  | some i => (1, i)
  | none => match [1, 2].find? fun t => !s.boot.stand.contains t with
    | some t => (2, t)
    | none => match s.stationOut with
      | some st => (3, st)
      | none => if s.boot.stand.contains 7 then (0, 0) else (4, 0)

/-- The outcome: READY, REDUCED, or HELD in the diagnostic state. The first check of the module's life fixes U₀ (R351). -/
def topologyCheck (s : State) : State :=
  let p := s.boot.ph
  if !s.testing || p.topology || !(p.filled && p.image && s.sec.imageOk && p.dies && p.coaches && s.bankDone) then s
  else
    let s := s.behindStations
    let (cause, detail) := s.heldCause
    let below := (List.range 6).any fun i => decide (s.classCounts.getD i 0 < s.boot.expected.getD i 0)
    let outcome := if cause ≠ 0 then 2 else if below then 1 else 0
    let s := if s.xlt.u0Known then s else { s with xlt := { s.xlt with u0 := s.allUsable / 64, u0Known := true } }
    { s with boot := { s.boot with
      ph := { s.boot.ph with topology := true }
      outcome := outcome, cause := cause, detail := detail, reduced := outcome == 1
      mode := if outcome = 2 then .diagnostic else .bringUp } }

def execTopologyCheck (s : State) : Host.Outcome State Fault Refusal := .next (topologyCheck s)

/-! ### Firmware start, media scan and replay (R325 to R328, R330, R362, R364, R366, R367, R468) -/

/-- Bring-up past the topology check, towards ready or in the diagnostic state. -/
def State.starting (s : State) : Bool := s.powered && s.boot.ph.topology && (s.boot.mode == .bringUp || s.boot.mode == .diagnostic)

/-- The lock record that stands: of those last written, the one with the latest stamp whose code word reads back with its CRC (R326). -/
def State.lockStands (s : State) (n : Ns) : Lock :=
  let good := (n.lockAt.map s.word).zip n.lockAt |>.filter fun p =>
    let b := fit 128 p.1.data
    s.dieIn p.2.die && p.1.kind == 7 && p.1.unit == n.nsid && !p.1.undefined && !p.1.void && p.1.raw.isNone && field b 124 4 == crc32c (b.take 124)
  if n.lockAt.isEmpty then n.lock
  else match good.foldl (fun (m : Option CWord) p => match m with | some w => if w.stamp < p.1.stamp then some p.1 else m | none => some p.1) none with
    | some w => lockOf (fit 128 w.data)
    | none => {}

/-- A namespace's locks at power-on, from its lock record. -/
def State.lockAtStart (s : State) (n : Ns) : Ns :=
  let l := s.lockStands n
  { n with lock := if l.atPowerOn then { l with readLock := true, writeLock := true } else l }

/-- The main firmware starts; it lays out the system regions (R192). -/
def mainFirmwareStart (s : State) : State :=
  if !s.starting || s.boot.ph.firmware then s
  else { s with
    ns := { s.ns with list := s.ns.list.map s.lockAtStart }
    drm := { s.drm with layout := systemLayout s.drm.present s.drm.cacheGiB }
    boot := { s.boot with ph := { s.boot.ph with firmware := true } } }

def execMainFirmwareStart (s : State) : Host.Outcome State Fault Refusal := .next (mainFirmwareStart s)

/-- What a media scan without any mark starts from. -/
def emptyMark : Mark := ⟨0, 0, [], false, false, 0, [], [], [], [], [], 0, []⟩

/-- The newest mark of which a copy reads back. -/
def State.newestMark (s : State) : Mark := ((s.xlt.marks.filter s.markReads).getLast?).getD emptyMark

/-- An entry or a page set belongs to the namespace as it now stands: it exists, and was created or formatted no later. -/
def State.nsHolds (s : State) (ns : Nat) (stamp : Nat) : Bool := match s.ns? (ns + 1) with | some n => decide (n.created ≤ stamp) | none => false

/-- The newest mark gives leaf index, read counts, cursor, the read-only state and the map that its leaves hold. The table of superblocks
is found from the media. -/
def mediaScan (s : State) : State :=
  if !s.starting || !s.boot.ph.firmware || s.boot.ph.scan then s
  else
    let m := s.newestMark
    let ofNs := fun (i : Nat) => s.nsHolds i m.stamp
    let mapKeep := fun (e : Nat × BitVec 64) => ofNs (e.1 / 2 ^ 40)
    let leafKeep := fun (e : Nat × BitVec 64) => ofNs (e.1 / 2 ^ 32)
    let sbs := s.xlt.sbs
    { s with
      xlt := { s.xlt with
        map := m.map.filter mapKeep, leafIndex := m.leafIndex.filter leafKeep
        cursor := m.cursor, full := m.readOnly
        openSb := (sbs.filter fun e => e.2.st == .opened).foldl (fun t e => Tab.set 0 t e.2.stream (e.1 + 1)) []
        toVerify := s.xlt.accOpen.filter fun i => (s.sb i).st == .closed }
      fla := { s.fla with reads := m.reads }
      boot := { s.boot with ph := { s.boot.ph with scan := true } } }

def execMediaScan (s : State) : Host.Outcome State Fault Refusal := .next (mediaScan s)

/-- Page set of a code word's key: die, block and page. -/
def setOf (key : Nat) : Nat × Nat × Nat := (key / 4 / 512 / 16384, key / 4 / 512 % 4096, key / 4 % 512)

/-- What the scan found of a page set. -/
def foundOf (sets : List FoundSet) (k : Nat × Nat × Nat) : Option Bool :=
  (sets.find? fun f => f.sb == sbOf k.1 k.2.1 && f.row == k.2.2 && f.chan == chanOf k.1).map fun f => f.written

/-- A code word of an interrupted program, not of an interrupted erase nor marked. -/
def State.interrupted (s : State) (e : Nat × CWord) : Bool := e.2.undefined && !e.2.void && !s.fla.eraseCut.contains (e.1 / 2048)

/-- Interrupted page sets classed: WRITTEN ones stand, ERASED ones hold nothing, UNDEFINED ones stay undefined (R325). -/
def State.classify (s : State) (sets : List FoundSet) : State :=
  let cut := s.fla.words.filter s.interrupted
  let gone := cut.filter fun e => foundOf sets (setOf e.1) == none
  let words := (s.fla.words.filter fun e => !(s.interrupted e && foundOf sets (setOf e.1) == none)).map fun e =>
    if s.interrupted e && foundOf sets (setOf e.1) == some true then (e.1, { e.2 with undefined := false }) else e
  let top := fun (pb : Nat) => (words.filter fun e => e.1 / 2048 == pb).foldl (fun m e => max m (e.1 / 4 % 512 + 1)) 0
  { s with fla := { s.fla with
    words := words, next := ((gone.map fun e => e.1 / 2048).eraseDups).foldl (fun t pb => Tab.set 0 t pb (top pb)) s.fla.next } }

/-- Insertion by program stamp and then by code word key, which rises with the die index. -/
def insertPage (p : Nat × CWord) : List (Nat × CWord) → List (Nat × CWord)
  | [] => [p]
  | q :: l => if p.2.stamp < q.2.stamp || (p.2.stamp == q.2.stamp && decide (p.1 < q.1)) then p :: q :: l else q :: insertPage p l

/-- Pages of user streams newer than the mark, in replay order. -/
def State.replayPages (s : State) (stamp : Nat) : List (Nat × CWord) :=
  (s.fla.words.filter fun e => e.1 % 4 == 0 && e.2.kind == 1 && decide (e.2.stream ≤ 7) && decide (stamp < e.2.stamp) && e.2.raw.isNone && !e.2.void &&
    !s.fla.eraseCut.contains (e.1 / 2048) && s.dieIn (pbDie (e.1 / 2048))).foldl (fun l e => insertPage e l) []

/-- One plane page replayed: its unit's entry, or LOST where its set is UNDEFINED. -/
def State.replayPage (s : State) (bad : List (Nat × Nat × Nat)) (e : Nat × CWord) : State :=
  let w := e.2
  let (die, block, page) := setOf e.1
  if !s.nsHolds w.ns w.stamp then s
  else if bad.contains (die, block, page) then s.loseUnit w.ns w.unit 1
  else s.setEntry w.ns w.unit (mkEntry w.stamp (pbPlane (e.1 / 2048)) (ppa die block page))

/-- Superblocks of stream 14 that no READY or CURRENT generation holds return to the free pool, by way of their erase. -/
def State.freeUnrecorded (s : State) : State :=
  let keep := fun g : Gen => g.st == .ready || g.st == .current
  let list := s.ns.list.map fun n => { n with gens := n.gens.filter keep }
  let held := fun (i : Nat) => list.any fun n => n.gens.any fun g => g.sbs.contains i
  { s with
    ns := { s.ns with list := list }
    xlt := { s.xlt with
      openSb := Tab.set 0 s.xlt.openSb 14 0
      sbs := s.xlt.sbs.map fun e : Nat × Sb => if e.2.stream = 14 && e.2.st == .opened && !held e.1 then (e.1, { e.2 with st := .closed }) else e } }

/-- The replay proper, after a loss that no CLEAN mark covers. -/
def State.replay (s : State) (sets : List FoundSet) : State :=
  let s := s.classify sets
  let stamp := s.newestMark.stamp
  let bad := ((s.fla.words.filter fun e => s.interrupted e).map fun e => setOf e.1).eraseDups
  let s := (s.replayPages stamp).foldl (fun s e => s.replayPage bad e) s
  let newestAt := s.fla.words.foldl (fun (b : Option (Nat × Nat)) e => match b with
    | some (st, _) => if st < e.2.stamp then some (e.2.stamp, pbSb (e.1 / 2048)) else b
    | none => some (e.2.stamp, pbSb (e.1 / 2048))) none
  let blocks := ((s.fla.words.map fun e : Nat × CWord => e.1 / 2048) ++ s.fla.reads.map fun e : Nat × Nat => e.1).eraseDups
  { s with
    xlt := { s.xlt with cursor := match newestAt with | some (_, i) => (i + 1) % 65536 | none => s.xlt.cursor }
    fla := { s.fla with reads := blocks.foldl (fun t pb => Tab.set 0 t pb (Tab.get 0 t pb + 50000)) s.fla.reads } }

/-- Replay: nothing after a CLEAN mark. -/
def mapRebuild (sets : List FoundSet) (s : State) : State :=
  if !s.starting || !s.boot.ph.scan || s.boot.ph.replay then s
  else
    let s := if s.newestMark.clean then s else s.replay sets
    let s := s.freeUnrecorded
    { s with boot := { s.boot with ph := { s.boot.ph with replay := true } } }

def execMapRebuild (sets : List FoundSet) (s : State) : Host.Outcome State Fault Refusal := .next (mapRebuild sets s)

/-! ### The stamp start (R41, R42, R44, R468) -/

/-- H of R41: the highest stage count in the stamp of a page that reads clean, or in the last mark. -/
def State.highest (s : State) : Nat :=
  let pages := s.fla.words.foldl (fun m e => if !e.2.undefined && !e.2.void && e.2.raw.isNone && s.dieIn (pbDie (e.1 / 2048)) then max m e.2.stamp else m) 0
  stampStage (max pages s.newestMark.stamp)

/-- The value that the stage counter takes, once the policy allows it: PTP_FIRST takes the PTP count where the servo has locked within the
wait and the count lies above H (R41). -/
def State.startValue (s : State) : Option Nat :=
  let jump := min stageMax (s.highest + 2 ^ 24)
  if s.stg.policy = 0 then some jump
  else match s.stg.lockedInWait, s.stg.ptpCount with
    | true, some p => some (if s.highest < p then min stageMax p else jump)
    | _, _ => if s.stg.waitOver && s.boot.ph.lanes then some jump else none

/-- The events held so far enter the log, each in a core cycle of its own. -/
def State.enterHeld (s : State) : State :=
  s.fwc.early.foldl (fun s e => s.event e.code e.cls e.source e.obj e.detail) { s with fwc := { s.fwc with early := [] } }

/-- Stage counts that firmware keeps move with the counter. -/
def State.moveStages (s : State) (v : Nat) : State :=
  let mv := fun n : Nat => v - (s.stg.stage - n)
  { s with
    pwr := { s.pwr with measStage := mv s.pwr.measStage, lossStage := mv s.pwr.lossStage }
    sec := { s.sec with reseedAt := mv s.sec.reseedAt }
    xlt := { s.xlt with markStage := mv s.xlt.markStage }
    fwc := { s.fwc with
      restarts := s.fwc.restarts.map fun r => (r.1, mv r.2)
      errq := s.fwc.errq.map fun e : Err => { e with stamp := fullStamp (mv (stampStage e.stamp)) (stampCycle e.stamp) } }
    fla := { s.fla with ops := s.fla.ops.map fun o : DieOp => { o with starts := v + o.starts - s.stg.stage, ends := v + (o.ends - s.stg.stage) } } }

/-- At this boundary the counter takes its value; the stamp-start event is the log's first of this power-on, the held ones follow. -/
def stampStart (s : State) : State :=
  if !s.starting || !s.boot.ph.replay || s.stg.loaded then s
  else match s.startValue with
    | none => s
    | some v =>
      let s := s.moveStages v
      let gap : Int := match s.stg.ptpCount with | some p => (p : Int) - (v : Int) | none => s.stg.ptpGap
      let s := { s with
        stg := { s.stg with loaded := true, stage := v, cycle := 0, ptpGap := gap, ptpCount := none, exhausted := decide (exhaustAt ≤ v) }
        boot := { s.boot with ph := { s.boot.ph with stamp := true } } }
      ((s.event 0x0001 0 0 noObj (toLe 8 v ++ [BitVec.ofNat 8 s.stg.policy])).enterHeld).warn

def execStampStart (s : State) : Host.Outcome State Fault Refusal := .next (stampStart s)

/-! ### Media work and ready (R323, R325, R381, R465 to R468, R481) -/

/-- A raw program of zeros over parts of a code word (R323). -/
def markRaw (t : Table CWord) (a : CwAddr) (retire : Bool) : Bytes :=
  let r := overlay (rawWord t a) 4096 (zeros 64)
  if retire then overlay r 0 (zeros 64) else r

/-- RETIRE marks on retired plane blocks of dies in service that bear none. -/
def State.retireMarks (s : State) : State :=
  let l := s.fla.retired.filter fun pb => !s.fla.retireMarked.contains pb && s.dieIn (pbDie pb)
  l.foldl (fun s pb =>
    let a : CwAddr := ⟨pbDie pb, pbPlane pb, pbBlock pb, 0, 0⟩
    let w : CWord := { s.word a with raw := some (trim (markRaw s.fla.words a true)), void := true, undefined := false }
    let s := s.rawProgram a true
    { s with fla := { s.fla with words := Tab.put s.fla.words (cwKey a) w, retireMarked := insertNat pb s.fla.retireMarked } }) s

/-- VOID marks on every code word of an undefined page set. -/
def State.voidMarks (s : State) : State :=
  let bad := ((s.fla.words.filter s.interrupted).map fun e => setOf e.1).eraseDups
  let marked := s.fla.words.filter fun e => bad.contains (setOf e.1) && s.dieIn (pbDie (e.1 / 2048))
  let addr := fun k : Nat => (⟨pbDie (k / 2048), pbPlane (k / 2048), pbBlock (k / 2048), k / 4 % 512, k % 4⟩ : CwAddr)
  let mark := fun e : Nat × CWord =>
    if bad.contains (setOf e.1) && s.dieIn (pbDie (e.1 / 2048)) then (e.1, { e.2 with raw := some (trim (markRaw s.fla.words (addr e.1) false)), void := true, undefined := false }) else e
  let t : State := { s with fla := { s.fla with words := s.fla.words.map mark } }
  marked.foldl (fun t e => t.rawProgram (addr e.1) true) t

/-- A superblock whose erase power loss ended: the blocks cut in it are erased again; where none was, it is closed with nothing in it, and the
collector's erase frees it. -/
def State.freeErasing (s : State) : State :=
  let again := fun i : Nat => s.fla.ops.any fun o => match o.work with | .erase b _ => sbOf o.die b == i | _ => false
  { s with xlt := { s.xlt with sbs := s.xlt.sbs.map fun e : Nat × Sb =>
    if e.2.st == .erasing && !again e.1 then (e.1, { e.2 with st := .closed }) else e } }

/-- Before ready: re-erases issued, marks, test-failure records, changed leaves, a journal mark. -/
def mediaWork (s : State) : State :=
  if !s.starting || s.boot.mode != .bringUp || !s.stg.loaded || s.boot.ph.work then s
  else
    let s := s.queueErases (s.fla.eraseCut.filter fun pb => s.dieIn (pbDie pb))
    let s := s.retireMarks.voidMarks.freeErasing
    let fails := s.boot.failed.filter fun f => !s.classFused f.1 f.2
    let s := { s with boot := { s.boot with failLog := fails, ph := { s.boot.ph with work := true } } }
    s.wantMark false

def execMediaWork (s : State) : Host.Outcome State Fault Refusal := .next (mediaWork s)

/-- The port's first training pass has ended, or none can run. -/
def State.portDone (s : State) : Bool := s.boot.ph.lanes && (s.port.passDone || !s.port.plugged || !s.port.plugPowered)

/-- Fuses of the security version blown up to the image's. -/
def State.raiseVersion (s : State) : State :=
  if s.sec.secVersion ≤ s.sec.secFused then s
  else
    let v := s.sec.secVersion
    let s := (s.blow ((List.range v).map fun k => 2968 + k)).readFuses
    s.event 0x0016 0 0xC0 noObj [BitVec.ofNat 8 v]

/-- Ready: leaves and the mark are in flash, the test modes have ended with the erases of what they programmed, the map cache is empty but for
leaves that found no place, and the topology generation is 1 (R322, R338, R366, R466). -/
def ready (s : State) : State :=
  if !s.starting || s.boot.mode != .bringUp || !s.boot.ph.work || !s.bankDone || !s.portDone || s.xlt.markDue.isSome || !s.xlt.sets.isEmpty then s
  else
    let s := (List.range 16).foldl (fun s h => s.endTest h 0) s
    if !s.fla.testBlocks.isEmpty then s
    else
    let s := { s with
      fla := { s.fla with pgmode := [], pgWish := [] }
      xlt := { s.xlt with cached := s.xlt.cached.filter fun e => e.2 }
      drm := { s.drm with test := [] }
      ses := { s.ses with topoGen := 1 }
      boot := { s.boot with mode := .ready } }
    s.raiseVersion.warn

def execReady (s : State) : Host.Outcome State Fault Refusal := .next (ready s)

/-- The security core's generator is reseeded (R496). -/
def drbgReseed (s : State) : State :=
  if s.powered then { s with sec := { s.sec with reseeds := s.sec.reseeds + 1, reseedAt := s.stg.stage } } else s

def execDrbgReseed (s : State) : Host.Outcome State Fault Refusal := .next (drbgReseed s)

end Sys2Proof.Machine
end

