-- ==== Sys2Proof/Machine/NsAdmin.lean ====
section
/-! DEFINITION. Namespaces: creation, deletion, format and full format, and the password locks (R240, R241, R274 to R278, R326 to R328,
R402 to R406, R497 to R499). -/

namespace Sys2Proof.Machine

/-! ### Descriptors (R240, R241, R274 to R278) -/

/-- A vector descriptor's fields. -/
def vecDescOf (b : Bytes) : VecDesc := ⟨field b 0 2, field b 2 1, field b 3 1, field b 4 2, field b 6 1, field b 8 2, BitVec.ofNat 32 (field b 12 4)⟩

/-- A vector descriptor is valid. DEDUCED: its attribute row layout is ATTR_BYTES wide. -/
def vecDescOk (b : Bytes) : Bool :=
  let d := vecDescOf b
  let lay := b.drop 64
  decide (64 ≤ b.length) && field b 10 2 == lay.length && field b 60 4 == crc32c (b.take 60 ++ lay) && decide (32 ≤ d.dim) && decide (d.dim ≤ 4096) && d.dim % 32 == 0 &&
    [1, 2, 3, 4, 6].contains d.elem && decide (d.metric ≤ 2) && ([4, 8, 16, 32].contains d.codeBytes || (decide (64 ≤ d.codeBytes) && decide (d.codeBytes ≤ 512) && d.codeBytes % 64 == 0)) &&
    d.dim % (2 * d.codeBytes) == 0 && decide (16 ≤ d.degree) && decide (d.degree ≤ 64) && decide (d.attrBytes ≤ 1024) && d.attrBytes % 8 == 0 &&
    decide (1 ≤ field b 16 8) && decide (field b 16 8 ≤ 8000000000) && (if d.attrBytes = 0 then lay.isEmpty else layoutOk lay && field lay 0 2 == d.attrBytes)

/-- A record descriptor is valid. -/
def recDescOk (b : Bytes) : Bool :=
  let lay := b.drop 64
  let id := field b 8 1
  let w := field lay 0 2
  decide (64 ≤ b.length) && field b 12 2 == lay.length && field b 60 4 == crc32c (b.take 60 ++ lay) && decide (1 ≤ field b 0 8) && decide (field b 0 8 ≤ 2 ^ 40) &&
    slice b 9 3 == zeros 3 && slice b 14 46 == zeros 46 && layoutOk lay && decide (16 ≤ w) && decide (w ≤ 4096) && w % 8 == 0 &&
    (id == 255 || (match (layoutColumns lay)[id]? with | some c => c.type == 4 || c.type == 8 | none => false))

/-! ### Creation (R402, R403) -/

/-- Size in bytes of a namespace by its kind and block size (R242, R278). -/
def nsSize (n : Ns) : Nat :=
  match n.kind with
  | .block => n.size
  | .record => roundUp (ceilDiv n.records (perWord n.rowBytes) * 4096) n.lba
  | .vector => let r := regionBlocks n; (r.1 + r.2.1 + r.2.2) * n.lba

/-- Superblocks charged for a namespace (R243, R403). -/
def nsCharge (n : Ns) : Nat :=
  (if n.stolrak then ceilDiv (n.size * 64) (63 * superBytes) else ceilDiv n.size superBytes) + (if n.kind = .vector then 2 * genReserve n.vec n.capacity else 0)

/-- The namespace that a creation's fields describe, before it has a number; none where check 1 fails. -/
def describe (flbas nsze ncap : Nat) (header : Bytes) : Option Ns :=
  let kind := field header 0 1
  let media := field header 1 1
  let desc := slice header 16 (field header 2 2)
  let lay := desc.drop 64
  let base : Ns := {
    nsid := 0, kind := .block, stolrak := media == 1, lba := if flbas = 0 then 4096 else 16384, size := nsze * (if flbas = 0 then 4096 else 16384)
    charge := 0, records := 0, idColumn := 255, rowBytes := 0, columns := [], vec := {}, capacity := 0, created := 0, key := 0, gens := [], lastGen := 0
    lock := {}, lockNext := none, readOnly := false, deleting := none, formatting := none, switching := none }
  if 1 < flbas || 1 < media || desc.length ≠ field header 2 2 then none
  else if kind = 0 then (if desc.isEmpty && nsze = ncap && nsze ≠ 0 then some base else none)
  else if kind = 1 then
    (if recDescOk desc then
      let n := { base with kind := .record, records := field desc 0 8, idColumn := field desc 8 1, rowBytes := field lay 0 2, columns := layoutColumns lay }
      some { n with size := nsSize n }
    else none)
  else if kind = 2 then
    (if vecDescOk desc then
      let n := { base with kind := .vector, vec := vecDescOf desc, capacity := field desc 16 8, rowBytes := field desc 8 2, columns := if lay.isEmpty then [] else layoutColumns lay }
      some { n with size := nsSize n }
    else none)
  else none

/-- Superblocks of user capacity (R19). -/
def userSupers : Nat := 61184

/-- Namespaces in order of their numbers. -/
def insertNs (n : Ns) : List Ns → List Ns
  | [] => [n]
  | m :: l => if n.nsid < m.nsid then n :: m :: l else m :: insertNs n l

/-- A Namespace Attribute Changed notice for every controller (R422). -/
def State.notice (s : State) (nsid : Nat) : State :=
  let add := fun c : Ctrl => { c with changedNs := insertNat nsid c.changedNs }
  let s : State := { s with que := { s.que with ctrls := s.que.ctrls.map add } }
  s.asyncEvent 2 0 4

/-- A data key drawn by the security core (R497). -/
def State.newKey (s : State) : Nat × State :=
  let k := s.ns.keyNo
  let t : State := s.drawKey.2
  (k, { t with ns := { s.ns with keyNo := k + 1 } })

/-- Namespace Management create. -/
def namespaceCreate (tag : Tag) (flbas nsze ncap : Nat) (header : Bytes) (s : State) : State :=
  s.command tag {} fun _ s =>
    match describe flbas nsze ncap header with
    | none => s.fail tag .invalidField
    | some n =>
      let charge := nsCharge n
      match firstBelow (fun k => (s.ns? (k + 1)).isNone) 256 with
      | none => s.fail tag .nsIdUnavailable
      | some k =>
        if userSupers < charge + (s.ns.list.map fun m => m.charge).sum then s.fail tag .nsInsufficient
        else if s.stg.exhausted then s.fail tag .stampExhausted
        else
          let at_ := s.stamp
          let (key, s) := s.nextCycle.newKey
          let n := { n with nsid := k + 1, charge := charge, key := key, created := at_ }
          ({ s with ns := { s.ns with list := insertNs n s.ns.list } }.notice (k + 1)).succeed tag (k + 1) 0 []

def execNamespaceCreate (tag : Tag) (flbas nsze ncap : Nat) (header : Bytes) (s : State) : Host.Outcome State Fault Refusal :=
  .next (namespaceCreate tag flbas nsze ncap header s)

/-! ### Deletion (R266, R404, R499) -/

/-- All namespaces. -/
def allNs : Nat := 0xFFFFFFFF

/-- Namespace Management delete: scheduled for the next boundary. -/
def namespaceDelete (tag : Tag) (nsid : Nat) (s : State) : State :=
  s.command tag { pend := true } fun _ s =>
    let mine := fun n : Ns => (nsid == allNs || n.nsid == nsid) && n.deleting.isNone
    if nsid = allNs && s.ns.list.isEmpty then s.succeed tag 0 0 []
    else if !s.ns.list.any mine then s.fail tag .invalidNs
    else { s with ns := { s.ns with list := updateIf mine (fun n => { n with deleting := some tag }) s.ns.list } }

def execNamespaceDelete (tag : Tag) (nsid : Nat) (s : State) : Host.Outcome State Fault Refusal := .next (namespaceDelete tag nsid s)

/-- Plain commands to a namespace (by its index) that have not completed end with a status. -/
def State.endPlain (s : State) (ns : Nat) (st : Status) : State :=
  let cap := s.xlt.capWaits.filter fun w => w.ns == ns
  let land := s.xlt.landWaits.filter fun w => w.ns == some ns
  let leaf := s.xlt.leafWaits.filter fun w => w.ns == ns
  let tags := (cap.map fun w => w.tag) ++ (land.map fun w => w.tag) ++ leaf.map fun w => w.tag
  let s : State := { s with xlt := { s.xlt with
    capWaits := s.xlt.capWaits.filter fun w => w.ns != ns
    landWaits := s.xlt.landWaits.filter fun w => w.ns != some ns
    leafWaits := s.xlt.leafWaits.filter fun w => w.ns != ns
    plain := s.xlt.plain.filter fun p => !p.what.forNs ns } }
  tags.foldl (fun s t => s.fail t st) s

/-- A namespace's contents gone: every unit UNMAPPED, no leaf, nothing buffered, no copy under way. -/
def State.dropContents (s : State) (ns : Nat) : State :=
  { s with xlt := { s.xlt with
    map := Tab.clear s.xlt.map (mapKey ns 0) (mapKey (ns + 1) 0)
    leafIndex := Tab.clear s.xlt.leafIndex (leafKey ns 0) (leafKey (ns + 1) 0)
    cached := s.xlt.cached.filter fun e => e.1 / 2 ^ 32 != ns
    buf := s.xlt.buf.filter fun b => b.ns != ns
    copies := s.xlt.copies.filter fun k => k.ns != ns } }.landCheck

/-- Queries of a namespace that meet a test end with ABORTED and a reason. -/
def State.endQueries (s : State) (nsid reason : Nat) (p : Query → Bool) : State :=
  s.ses.list.foldl (fun s x => (x.queries.filter fun q => qNsid q.block == nsid && p q).foldl (fun s q => s.abortQuery reason (x, q)) s) s

/-- Grants and peer sets that name a deleted namespace go. -/
def State.forgetNs (s : State) (nsid : Nat) : State :=
  let cut := fun q : Quota => { q with grants := q.grants.filter fun g => g.1 != nsid }
  let s := s.ses.list.foldl (fun s x => (x.peerSets.filter fun p => p.nsid == nsid).foldl State.closePeers s) s
  { s with ses := { s.ses with list := s.ses.list.map fun x => { x with
    quota := cut x.quota, peerSets := x.peerSets.filter fun p => p.nsid != nsid } } }

/-- What a deletion does at its boundary but for the key table: work ends, the namespace with its key, lock and generations is gone. -/
def State.deleteNs (s : State) (n : Ns) : State :=
  let s := s.endQueries n.nsid 2 fun _ => true
  let s := s.endBuilds n.nsid 2
  let s := (s.endPlain (n.nsid - 1) .invalidNs).forgetNs n.nsid
  let s := match n.switching with | some t => s.refuse t 0x40 | none => s
  let s := match n.formatting with
    | some (t, _) => if s.ns.list.any fun m => m.nsid != n.nsid && (m.formatting.map fun f : Tag × Nat => f.1) == some t then s else s.fail t .invalidNs
    | none => s
  let s : State := { s with ns := { s.ns with list := s.ns.list.filter fun m => m.nsid != n.nsid } }
  ((s.dropContents (n.nsid - 1)).notice n.nsid).releaseFull

/-- A deletion takes effect at a boundary. -/
def namespaceDeleteEffect (nsid : Nat) (s : State) : State :=
  match s.ns? nsid with
  | none => s
  | some n => match n.deleting with
    | none => s
    | some tag => if !s.powered then s else
      let s := s.deleteNs n
      { s with ns := { s.ns with erasing := s.ns.erasing ++ [(nsid, some tag)] } }

def execNamespaceDeleteEffect (nsid : Nat) (s : State) : Host.Outcome State Fault Refusal := .next (namespaceDeleteEffect nsid s)

/-- The old key table is erased: the deletion completes with the last of its namespaces. -/
def namespaceDeleteComplete (nsid : Nat) (s : State) : State :=
  match s.ns.erasing.find? fun e => e.1 == nsid with
  | none => s
  | some (_, t) => if !s.powered then s else
    let s : State := { s with ns := { s.ns with erasing := s.ns.erasing.filter fun e => e.1 != nsid } }
    match t with
    | none => s
    | some tag => if (s.ns.erasing.any fun e => e.2 == some tag) || s.ns.list.any fun n => n.deleting == some tag then s else s.succeed tag 0 0 []

def execNamespaceDeleteComplete (nsid : Nat) (s : State) : Host.Outcome State Fault Refusal := .next (namespaceDeleteComplete nsid s)

/-! ### Format (R405, R406) -/

/-- The full format begins: every namespace deleted, every superblock to be erased, full-format pending from here on (DESIGN CHOICE: already while
its erases go on). -/
def State.fullFormat (s : State) (tag : Tag) : State :=
  if !s.ses.list.isEmpty || s.ns.list.any fun n => let l := n.lockNext.getD n.lock; l.readLock || l.writeLock then s.fail tag .operationDenied
  else
    let s := s.ns.list.foldl (fun s n => s.deleteNs n) s
    let x := s.xlt
    { s with
      xlt := { ({} : Xlt) with
        cursor := x.cursor, bufSeq := x.bufSeq, setId := x.setId, u0 := x.u0, u0Known := x.u0Known, shutdowns := x.shutdowns, landWaits := x.landWaits
        full := x.full, sbs := x.sbs.map fun e : Nat × Sb => (e.1, { e.2 with st := .closed }) }
      fla := { s.fla with ops := s.fla.ops.filter fun o => decide (o.starts ≤ s.stg.stage), recov := [], formatNext := [] }
      ns := { s.ns with formatPending := true, formatAll := some tag } }

/-- Dies of a channel that erase. -/
def State.erasingOn (s : State) (chan : Nat) : Nat :=
  (s.fla.ops.filter fun o => chanOf o.die == chan && !o.ended && match o.work with | .erase _ _ => true | _ => false).length

/-- A die's next erase of a full format, with at most four dies of its channel erasing at once (R406). -/
def State.formatDie (s : State) (die : Nat) : State :=
  let b := Tab.get 0 s.fla.formatNext die
  if 4096 ≤ b || (s.fla.ops.any fun o => o.die == die) || decide (4 ≤ s.erasingOn (chanOf die)) then s
  else
    let s : State := { s with fla := { s.fla with formatNext := Tab.set 0 s.fla.formatNext die (b + 1) } }
    if (s.planesIn die b).isEmpty then s else s.issueErase die b

/-- A full format at a boundary: its next erases; after the last of them the full state and the event log are cleared, the format is logged and the
command completes. -/
def State.formatTick (s : State) : State :=
  match s.ns.formatAll with
  | none => s
  | some tag =>
    let dies := s.fla.dies.filter s.dieIn
    if !s.flashClock then s
    else if dies.any fun d => decide (Tab.get 0 s.fla.formatNext d < 4096) then dies.foldl State.formatDie s
    else if dies.any fun d => s.fla.ops.any fun o => o.die == d then s
    else
      let s : State := { s with
        xlt := { s.xlt with sbs := [], full := false, fullFreed := false }
        fla := { s.fla with formatNext := [], eraseCut := s.fla.eraseCut.filter fun pb => !s.dieIn (pbDie pb) }
        fwc := { s.fwc with events := [], total := 0 }
        ns := { s.ns with formatAll := none } }
      ((s.event 0x0014 0 0 noObj []).succeed tag 0 0 []).landCheck.warn

/-- Format NVM: scheduled for the next boundary on one namespace or on each; SES 1 on all is the full format. -/
def formatNvm (tag : Tag) (nsid lbaf ses pi pil : Nat) (s : State) : State :=
  s.command tag { pend := true } fun _ s =>
    let mine := fun n : Ns => nsid == allNs || n.nsid == nsid
    if pi ≠ 0 || pil ≠ 0 || 1 < lbaf || 2 < ses then s.fail tag .invalidField
    else if nsid = allNs && ses = 1 then s.fullFormat tag
    else if nsid = allNs && s.ns.list.isEmpty then s.succeed tag 0 0 []
    else if !s.ns.list.any mine then s.fail tag .invalidNs
    else if s.ns.list.any fun n => mine n && n.formatting.isSome then s.fail tag .formatInProgress
    else { s with ns := { s.ns with list := updateIf mine (fun n => { n with formatting := some (tag, lbaf) }) s.ns.list } }

def execFormatNvm (tag : Tag) (nsid lbaf ses pi pil : Nat) (s : State) : Host.Outcome State Fault Refusal := .next (formatNvm tag nsid lbaf ses pi pil s)

/-- A format takes effect at a boundary, whose stamp is the namespace's creation stamp from then on. -/
def formatEffect (nsid : Nat) (s : State) : State :=
  match s.ns? nsid with
  | none => s
  | some n => match n.formatting with
    | none => s
    | some (tag, lbaf) => if !s.powered then s else
      let s := s.endQueries nsid 3 fun q => q.admitted.isSome
      let s := s.endBuilds nsid 4
      let s := s.endPlain (nsid - 1) .formatInProgress
      let s := match n.switching with | some t => s.refuse t 0x4B | none => s
      let s := s.dropContents (nsid - 1)
      let (key, s) := s.newKey
      let redo := fun n : Ns =>
        let n := { n with lba := if lbaf = 0 then 4096 else 16384, key := key, created := s.boundaryStamp, gens := [], formatting := none, switching := none }
        { n with size := nsSize n }
      let s := ((s.updNs nsid redo).notice nsid).releaseFull
      if s.ns.list.any fun m => (m.formatting.map fun f : Tag × Nat => f.1) == some tag then s else s.succeed tag 0 0 []

def execFormatEffect (nsid : Nat) (s : State) : Host.Outcome State Fault Refusal := .next (formatEffect nsid s)

def formatNvmFull (tag : Tag) (s : State) : State := s.command tag { pend := true } fun _ s => s.fullFormat tag

def execFormatNvmFull (tag : Tag) (s : State) : Host.Outcome State Fault Refusal := .next (formatNvmFull tag s)

/-! ### Password locks (R326 to R328) -/

/-- Verifier of a password under a salt. -/
def verifierOf (salt password : Bytes) : Bytes := sha3_512 (salt ++ password)

/-- The lock as Security Send last left it. -/
def Ns.lockNow (n : Ns) : Lock := n.lockNext.getD n.lock

/-- A lock to take effect as the completion is posted. -/
def State.setLock (s : State) (nsid : Nat) (l : Lock) : State := s.updNs nsid fun n => { n with lockNext := some l }

/-- A lock that is recorded in flash first: two copies of its record, in pages of their own on dies of different hubs; the records of the last two
updates are remembered (R326). DESIGN CHOICE: KIND 7 has no stream of its own in R339, the records lie in stream 12 as marks do. -/
def State.recordLock (s : State) (nsid : Nat) (l : Lock) : State :=
  let (at_, s) := s.writeTwice 12 [{ data := trim (lockRecord nsid l), ns := 255, unit := nsid, kind := 7 }]
  (s.updNs nsid fun n => { n with lockAt := newest 4 (n.lockAt ++ at_) }).setLock nsid l

/-- Fields of the Security Send data, by operation: 1 SET_PASSWORD, 2 LOCK, 3 UNLOCK. -/
def lockFieldsOk (op : Nat) (b : Bytes) : Bool :=
  decide (144 ≤ b.length) && field b 140 4 == crc32c (b.take 140) && decide (field b 5 1 ≤ 64) &&
    (if op = 1 then decide (field b 6 1 ≤ 64) else field b 6 1 == 0) && (if op = 2 then decide (field b 4 1 ≤ 7) else field b 4 1 == 0)

/-- OLD matches the password. -/
def oldMatches (l : Lock) (b : Bytes) : Bool := l.passwordSet && verifierOf l.salt (slice b 8 (field b 5 1)) == l.verifier

/-- A password that does not match: counted, the eighth in a row logged. -/
def State.lockFailure (s : State) (tag : Tag) (nsid : Nat) (l : Lock) : State :=
  let s := s.setLock nsid { l with failures := l.failures + 1 }
  let s := if l.failures + 1 = 8 then s.event 0x0017 0 0xC0 ⟨10, nsid - 1⟩ (toLe 4 nsid) else s
  s.fail tag .accessDenied

/-- A lock operation past its common checks. -/
def State.lockCommand (s : State) (tag : Tag) (op : Nat) (b : Bytes) (f : Nat → Lock → State → State) : State :=
  s.command tag { pend := true } fun _ s =>
    if !lockFieldsOk op b then s.fail tag .invalidField
    else match s.ns? (field b 0 4) with
      | none => s.fail tag .invalidNs
      | some n => if 8 ≤ n.lockNow.failures then s.fail tag .operationDenied else f n.nsid n.lockNow s

/-- SET_PASSWORD. -/
def securitySetPassword (tag : Tag) (b : Bytes) (s : State) : State :=
  s.lockCommand tag 1 b fun nsid l s =>
    let n := field b 6 1
    if !l.passwordSet && field b 5 1 ≠ 0 then s.fail tag .invalidField
    else if l.passwordSet && !oldMatches l b then s.lockFailure tag nsid l
    else if n = 0 then (s.recordLock nsid {}).succeed tag 0 0 []
    else
      let (k, s) := s.drawKey
      let salt := toLe 32 k
      (s.recordLock nsid { l with passwordSet := true, salt := salt, verifier := verifierOf salt (slice b 72 n), failures := 0 }).succeed tag 0 0 []

def execSecuritySetPassword (tag : Tag) (data : Bytes) (s : State) : Host.Outcome State Fault Refusal := .next (securitySetPassword tag data s)

/-- LOCK. -/
def securityLock (tag : Tag) (b : Bytes) (s : State) : State :=
  s.lockCommand tag 2 b fun nsid l s =>
    let k := field b 4 1
    if !l.passwordSet then s.fail tag .invalidField
    else if !oldMatches l b then s.lockFailure tag nsid l
    else (s.recordLock nsid { l with
      readLock := l.readLock || bit k 0, writeLock := l.writeLock || bit k 1, atPowerOn := l.atPowerOn || bit k 2, failures := 0 }).succeed tag 0 0 []

def execSecurityLock (tag : Tag) (data : Bytes) (s : State) : Host.Outcome State Fault Refusal := .next (securityLock tag data s)

/-- UNLOCK. -/
def securityUnlock (tag : Tag) (b : Bytes) (s : State) : State :=
  s.lockCommand tag 3 b fun nsid l s =>
    if !oldMatches l b then s.lockFailure tag nsid l
    else (s.recordLock nsid { l with readLock := false, writeLock := false, failures := 0 }).succeed tag 0 0 []

def execSecurityUnlock (tag : Tag) (data : Bytes) (s : State) : Host.Outcome State Fault Refusal := .next (securityUnlock tag data s)

/-- Security Receive of protocol 0xF0: STATE, the failures left, six zero bytes. -/
def securityReceiveLockState (tag : Tag) (nsid alloc : Nat) (s : State) : State :=
  s.command tag { pend := true } fun _ s =>
    match s.ns? nsid with
    | none => s.fail tag .invalidNs
    | some n => s.succeed tag 0 0 ((toLe 1 (lockByte n.lockNow) ++ toLe 1 (8 - n.lockNow.failures) ++ zeros 6).take alloc)

def execSecurityReceiveLockState (tag : Tag) (nsid alloc : Nat) (s : State) : Host.Outcome State Fault Refusal :=
  .next (securityReceiveLockState tag nsid alloc s)

/-- A run names a namespace in a slot. -/
def runNames (nsid : Nat) (r : Run) : Bool :=
  (runSlots r.block).any fun sl => sl.kind == 2 && sl.nsid == nsid

/-- At a boundary new locks stand: runs that name the namespace finish their pass and are bound anew (R328). -/
def State.lockTick (s : State) : State :=
  let changed := (s.ns.list.filter fun n => n.lockNext.isSome).map fun n => n.nsid
  if changed.isEmpty then s
  else
    let upd := fun x : Session => { x with run := x.run.map fun r => if changed.any fun k => runNames k r then { r with rebind := true } else r }
    { s with
      ns := { s.ns with list := s.ns.list.map fun n => { n with lock := n.lockNow, lockNext := none } }
      ses := { s.ses with list := s.ses.list.map upd } }

end Sys2Proof.Machine
end

