-- ==== Sys2Proof/Machine/Admin.lean ====
section
/-! DEFINITION. Admin commands: features, asynchronous event requests, Abort, opcodes not supported, Identify, session keys and SPDM (R40,
R212, R225, R237, R392, R398 to R401, R407, R408, R417, R421, R422, R489 to R491). -/

namespace Sys2Proof.Machine

/-! ### Features (R407) -/

/-- Identifiers of R407. -/
def knownFeature (fid : Nat) : Bool := [0x04, 0x06, 0x07, 0x0B, 0x0F, 0xE0, 0xE1, 0xE2, 0xE3, 0xE4].contains fid

/-- Current value of a feature, as Get Features returns it in dword 0. -/
def State.featureNow (s : State) (c : Ctrl) (fid : Nat) : Nat :=
  match fid with
  | 0x04 => s.que.tempOver
  | 0x06 => 1
  | 0x07 => (c.granted - 1) * 65537
  | 0x0B => c.evCfg
  | 0x0F => c.kato
  | 0xE0 => s.stgYoke
  | 0xE1 => s.ses.pack * 65536 + s.ses.slice
  | 0xE2 => (if s.pwr.prot then 2 ^ 31 else 0) + (if s.pwr.prot then 0 else s.pwr.cap)
  | 0xE3 => s.ses.peerWait * 65536 + s.ses.hopRetries * 256 + (if s.ses.strict then 1 else 0)
  | _ => s.ses.window

/-- Default value, which the saved value equals; the default of the dirty cap and of KATO, which the spec does not give, is a free
value. -/
def State.featureDefault (s : State) (fid free : Nat) : Nat :=
  match fid with
  | 0x04 => 368
  | 0x06 => 1
  | 0x07 => 63 * 65537
  | 0x0B => 0
  | 0x0F => free
  | 0xE0 =>
    let g := applyPtp (s.recordOf 3) s.stg
    (if g.yokeEn then 2 ^ 28 else 0) + (if g.capable then 2 ^ 27 else 0) + g.config * 2 ^ 16
  | 0xE1 => (sliceDefault (s.recordOf 4)).2 * 65536 + (sliceDefault (s.recordOf 4)).1
  | 0xE2 => free % 512
  | 0xE3 => 512 * 65536 + 2 * 256
  | _ => 60

/-- Get Features by Select: current, default, saved, capabilities (bit 2 changeable). -/
def getFeatures (tag : Tag) (fid sel : Nat) (s : State) : State :=
  s.command tag ⟨false, true, true, true⟩ fun c s =>
    if !knownFeature fid || 3 < sel then s.fail tag .invalidField
    else if sel = 0 then s.succeed tag (s.featureNow c fid) 0 []
    else if sel = 3 then s.succeed tag (if fid = 0x06 || fid = 0xE2 then 0 else 4) 0 []
    else
      let (n, s) := s.drawNat
      s.succeed tag (s.featureDefault fid n) 0 []

def execGetFeatures (tag : Tag) (fid sel : Nat) (s : State) : Host.Outcome State Fault Refusal := .next (getFeatures tag fid sel s)

/-- A Set Features past its common checks: SV is refused. -/
def State.setCommand (s : State) (tag : Tag) (sv : Bool) (f : Ctrl → State → State) : State :=
  s.command tag { pend := true } fun c s => if sv then s.fail tag .notSaveable else f c s

/-- Feature 0xE0 (R40): a domain above 127 fails; the yoke is disabled, or seeks where the fuse is intact. A change of domain forgets the
master of the old one (DEDUCED). -/
def setYokeFeature (tag : Tag) (v : Nat) (s : State) : State :=
  let dom := bits v 15 8
  let en := bit v 0 && s.stg.capable
  if 127 < dom then s.fail tag .invalidField
  else
    let g := { s.stg with ptpDomain := dom, lineTrim := bit v 2, ptpTrim := bit v 1, yokeEn := en, config := v % 8 / 2 * 2 + (if en then 1 else 0) }
    let g := if dom = s.stg.ptpDomain then g else { g with master := none, syncPending := none, delayPending := none, servoGood := 0, servoBad := 0 }
    let s : State := { s with stg := g }
    let s := if !en then s.setYoke .disabled else if s.stg.yokeSoon == .disabled then s.setYoke .free else s
    s.succeed tag 0 0 []

/-- Feature 0xE1 (R225): every partition takes it at its next slice start. -/
def setSliceFeature (tag : Tag) (v : Nat) (s : State) : State :=
  if !sliceOk v then s.fail tag .invalidField
  else ({ s with ses := { s.ses with slice := bits v 14 0, pack := bits v 16 16 } } : State).succeed tag 0 0 []

/-- Feature 0xE3 (R212): sessions opened from now on. -/
def setPolicyFeature (tag : Tag) (v : Nat) (s : State) : State :=
  if bits v 31 16 < 16 then s.fail tag .invalidField
  else ({ s with ses := { s.ses with peerWait := bits v 31 16, hopRetries := bits v 10 8, strict := bit v 0 } } : State).succeed tag 0 0 []

/-- Feature 0xE4 (R237). -/
def setWindowFeature (tag : Tag) (v : Nat) (s : State) : State :=
  if 3600 < bits v 11 0 then s.fail tag .invalidField
  else ({ s with ses := { s.ses with window := bits v 11 0 } } : State).succeed tag 0 0 []

/-- Feature 0x04 (R438): TMPTH, TMPSEL 0 for the composite or 1 to 8 for a sensor, THSEL 0 over or 1 under. -/
def setTempFeature (tag : Tag) (v : Nat) (s : State) : State :=
  let th := bits v 15 0
  let sensor := bits v 19 16
  let sel := bits v 21 20
  if 8 < sensor || 1 < sel then s.fail tag .invalidField
  else
    let q := match sensor, sel with
      | 0, 0 => { s.que with tempOver := th }
      | 0, _ => { s.que with tempUnder := th }
      | k, 0 => { s.que with sensOver := Tab.set 65535 s.que.sensOver k th }
      | k, _ => { s.que with sensUnder := Tab.set 0 s.que.sensUnder k th }
    (({ s with que := q } : State).warn).succeed tag 0 0 []

/-- Feature 0x07: min(request, 64) of both kinds, 0's based. -/
def setQueuesFeature (tag : Tag) (c : Ctrl) (v : Nat) (s : State) : State :=
  let n := min (bits v 15 0) 63
  let m := min (bits v 31 16) 63
  (s.updCtrl c.id fun c => { c with granted := min n m + 1 }).succeed tag (m * 65536 + n) 0 []

/-- Set Features by its identifier. -/
def setFeature (tag : Tag) (fid v : Nat) (c : Ctrl) (s : State) : State :=
  match fid with
  | 0x04 => setTempFeature tag v s
  | 0x06 => if bit v 0 then s.succeed tag 0 0 [] else s.fail tag .notChangeable
  | 0x07 => setQueuesFeature tag c v s
  | 0x0B => (s.updCtrl c.id fun c => { c with evCfg := v % 2 ^ 32 }).succeed tag 0 0 []
  | 0x0F => if v < 1000 || 120000 < v then s.fail tag .invalidField else (s.updCtrl c.id fun c => { c with kato := v }).succeed tag 0 0 []
  | 0xE0 => setYokeFeature tag v s
  | 0xE1 => setSliceFeature tag v s
  | 0xE2 => s.fail tag .notChangeable
  | 0xE3 => setPolicyFeature tag v s
  | 0xE4 => setWindowFeature tag v s
  | _ => s.fail tag .invalidField

def setFeatures (tag : Tag) (fid : Nat) (sv : Bool) (v : Nat) (s : State) : State := s.setCommand tag sv fun c s => setFeature tag fid v c s
def execSetFeatures (tag : Tag) (fid : Nat) (sv : Bool) (dw11 : Nat) (s : State) : Host.Outcome State Fault Refusal := .next (setFeatures tag fid sv dw11 s)

def setFeaturesYoke (tag : Tag) (sv : Bool) (v : BitVec 32) (s : State) : State := s.setCommand tag sv fun _ s => setYokeFeature tag v.toNat s
def execSetFeaturesYoke (tag : Tag) (sv : Bool) (dw11 : BitVec 32) (s : State) : Host.Outcome State Fault Refusal := .next (setFeaturesYoke tag sv dw11 s)

def setFeaturesTimeSlice (tag : Tag) (sv : Bool) (v : BitVec 32) (s : State) : State := s.setCommand tag sv fun _ s => setSliceFeature tag v.toNat s
def execSetFeaturesTimeSlice (tag : Tag) (sv : Bool) (dw11 : BitVec 32) (s : State) : Host.Outcome State Fault Refusal :=
  .next (setFeaturesTimeSlice tag sv dw11 s)

def setFeaturesDirtyCap (tag : Tag) (sv : Bool) (_ : BitVec 32) (s : State) : State := s.setCommand tag sv fun _ s => s.fail tag .notChangeable
def execSetFeaturesDirtyCap (tag : Tag) (sv : Bool) (dw11 : BitVec 32) (s : State) : Host.Outcome State Fault Refusal :=
  .next (setFeaturesDirtyCap tag sv dw11 s)

def setFeaturesDeadlinePolicy (tag : Tag) (sv : Bool) (v : BitVec 32) (s : State) : State := s.setCommand tag sv fun _ s => setPolicyFeature tag v.toNat s
def execSetFeaturesDeadlinePolicy (tag : Tag) (sv : Bool) (dw11 : BitVec 32) (s : State) : Host.Outcome State Fault Refusal :=
  .next (setFeaturesDeadlinePolicy tag sv dw11 s)

def setFeaturesReclaimWindow (tag : Tag) (sv : Bool) (v : BitVec 32) (s : State) : State := s.setCommand tag sv fun _ s => setWindowFeature tag v.toNat s
def execSetFeaturesReclaimWindow (tag : Tag) (sv : Bool) (dw11 : BitVec 32) (s : State) : Host.Outcome State Fault Refusal :=
  .next (setFeaturesReclaimWindow tag sv dw11 s)

/-! ### Asynchronous events, Abort, opcodes not supported (R398, R421, R422) -/

/-- An event request: an event kept for it completes it at once; four may be outstanding (PRESUMED: AERL 3). -/
def asyncEventRequest (tag : Tag) (s : State) : State :=
  s.command tag { pend := true } fun c s =>
    match c.held with
    | (t, i, l) :: rest => (s.updCtrl c.id fun c => { c with held := rest }).succeed tag (t + i * 256 + l * 65536) 0 []
    | [] => if 4 ≤ c.aers.length then s.fail tag .aerLimit else s.updCtrl c.id fun c => { c with aers := c.aers ++ [tag.cid] }

def execAsyncEventRequest (tag : Tag) (s : State) : Host.Outcome State Fault Refusal := .next (asyncEventRequest tag s)

/-- A command that has not started its work, found by its tag, completes with Command Abort Requested; none where there is none such. -/
def State.abortTag (s : State) (t : Tag) : Option State :=
  if s.xlt.capWaits.any fun w => w.tag == t then
    some (({ s with xlt := { s.xlt with capWaits := s.xlt.capWaits.filter fun w => w.tag != t } } : State).fail t .abortRequested)
  else
    (s.ses.list.findSome? fun x =>
      if x.queued.any fun q => q.1 == t then
        some ((s.updSess x.num fun x => { x with queued := x.queued.filter fun q => q.1 != t }).fail t .abortRequested)
      else match x.run with
        | some r =>
          if r.tag = t && r.done = 0 && r.tt.isNone && r.fault = 0 then
            (s.ses.binds.find? fun b => b.sess == x.num && b.what == BindFor.route).map fun b => s.endBind b x .abortRequested 0
          else none
        | none => none) <|>
    (s.ses.list.findSome? fun x => (x.queries.find? fun q => q.tag == t && q.admitted.isNone).map fun q => (s.fail t .abortRequested).dropQuery x.num q.id) <|>
    (s.ses.list.findSome? fun x => (x.scans.find? fun c => c.tag == t && !c.bound).map fun c => State.endScan .abortRequested 0 s (x, c))

/-- Abort of a command of the same controller; bit 0 of dword 0 says that it runs on. -/
def abort (tag : Tag) (cid : Nat) (s : State) : State :=
  s.command tag { pend := true } fun c s =>
    match s.abortTag ⟨c.id, cid⟩ with
    | some s => s.succeed tag 0 0 []
    | none => s.succeed tag 1 0 []

def execAbort (tag : Tag) (cid : Nat) (s : State) : Host.Outcome State Fault Refusal := .next (abort tag cid s)

/-- An opcode that the module does not support. -/
def invalidOpcode (tag : Tag) (admin : Bool) (_opcode : Nat) (s : State) : State :=
  s.command tag { pend := admin } fun _ s => s.fail tag .invalidOpcode

def execInvalidOpcode (tag : Tag) (admin : Bool) (opcode : Nat) (s : State) : Host.Outcome State Fault Refusal := .next (invalidOpcode tag admin opcode s)

/-! ### Identify (R400 to R402, R438) -/

/-- Free bytes at the given places, zero elsewhere. -/
def openFields (l : List (Nat × Nat)) (free : Bytes) : Bytes := (l.map fun f => (f.1, slice free f.1 f.2)).foldl (fun b f => overlay b f.1 f.2) (zeros 4096)

/-- An NVMe Qualified Name in its field of 256 bytes. -/
def nqnBytes (n : String) : Bytes := fit 256 (n.toList.map fun c => BitVec.ofNat 8 c.toNat)

/-- The module's subsystem NQN (R391). -/
def State.subNqn (s : State) : Bytes :=
  fit 256 (("nqn.2024-01.com.thiermin:anb128-e8l:".toList.map fun c => BitVec.ofNat 8 c.toNat) ++ fit 16 s.sec.serial)

/-- Identify Controller (R7, R389 to R392, R396, R400, R401): the fields that the spec gives, at the places of the NVMe base specification
(PRESUMED; capsules of 64 + 8,192 and 16 bytes, one data block descriptor, Disconnect, the dynamic controller model); names, limits and
times that it leaves open are free, and what it does not list as supported reads zero: OACS names Security Send and Receive, Format NVM and
Namespace Management alone, SANICAP nothing. -/
def State.identifyController (s : State) (c : Ctrl) (free : Bytes) : Bytes :=
  let put := fun (b : Bytes) (f : Nat × Bytes) => overlay b f.1 f.2
  [(64, toLe 8 s.sec.fwVersion), (76, toLe 1 2), (77, toLe 1 11), (78, toLe 2 c.id), (88, toLe 4 2000000), (92, toLe 4 0x100), (96, toLe 4 1), (111, toLe 1 (if c.discovery then 2 else 1)),
   (256, toLe 2 0x000B), (258, toLe 1 3), (259, toLe 1 3), (260, toLe 1 3), (261, toLe 1 6), (262, toLe 1 63), (266, toLe 2 368), (268, toLe 2 383),
   (320, toLe 2 1), (328, toLe 4 0), (512, toLe 1 0x66), (513, toLe 1 0x44), (516, toLe 4 256), (520, toLe 2 0x0C), (522, toLe 2 0), (525, toLe 1 7),
   (526, toLe 2 0), (528, toLe 2 0), (532, toLe 2 0), (536, toLe 4 0x00100005),
   (768, if c.discovery then nqnBytes "nqn.2014-08.org.nvmexpress.discovery" else s.subNqn),
   (1792, toLe 4 516 ++ toLe 4 1 ++ toLe 2 0 ++ toLe 1 0 ++ toLe 1 1 ++ toLe 2 1 ++ zeros 2),
   (3072, toLe 2 0x0102 ++ toLe 1 64 ++ toLe 1 (s.classCounts.getD 1 0) ++ toLe 4 8200 ++ toLe 8 s.stamp ++ zeros 1008)].foldl put
    (openFields [(0, 64), (73, 3), (80, 8), (280, 32), (514, 2), (2048, 32)] free)

/-- Identify Namespace; NSFEAT bit 1 is clear, NMIC bit 0 set (R397, R400). -/
def identifyNamespace (n : Ns) (free : Bytes) : Bytes :=
  let put := fun (b : Bytes) (f : Nat × Bytes) => overlay b f.1 f.2
  let unit := if n.lba = 4096 then 3 else 0
  [(0, toLe 8 (n.size / n.lba)), (8, toLe 8 (n.size / n.lba)), (24, toLe 1 0x10), (25, toLe 1 1), (26, toLe 1 (if n.lba = 4096 then 0 else 1)), (27, zeros 3),
   (30, toLe 1 1), (33, toLe 1 1), (48, toLe 8 n.size), (64, toLe 2 unit), (66, toLe 2 unit), (128, toLe 4 0x000C0000), (132, toLe 4 0x000E0000)].foldl put
    (openFields [(16, 8), (104, 24), (384, 3712)] free)

/-- A namespace's identification descriptors: one UUID, which the spec leaves open (PRESUMED: NVMe's form). -/
def nsDescriptors (free : Bytes) : Bytes := fit 4096 (toLe 1 3 ++ toLe 1 16 ++ zeros 2 ++ slice free 0 16)

/-- Identify by CNS (R397; PRESUMED: what the values name in NVMe): 0x00 and 0x11 a namespace, 0x01 the controller, 0x02 and 0x10 the namespaces
above NSID, since every one is attached, 0x03 a namespace's descriptors; others fail. -/
def identify (tag : Tag) (cns nsid : Nat) (s : State) : State :=
  s.command tag ⟨false, true, true, true⟩ fun c s =>
    let (free, s) := s.drawBytes 4096
    let ofNs := fun f : Ns → Bytes => match s.ns? nsid with
      | some n => s.succeed tag 0 0 (f n)
      | none => s.fail tag .invalidNs
    match cns with
    | 0x01 => s.nextCycle.succeed tag 0 0 (s.identifyController c free)
    | 0x00 | 0x11 => ofNs fun n => identifyNamespace n free
    | 0x02 | 0x10 => s.succeed tag 0 0 (fit 4096 (((s.ns.list.map fun n => n.nsid).filter fun k => decide (nsid < k)).flatMap (toLe 4)))
    | 0x03 => ofNs fun _ => nsDescriptors free
    | _ => s.fail tag .invalidField

def execIdentify (tag : Tag) (cns nsid : Nat) (s : State) : Host.Outcome State Fault Refusal := .next (identify tag cns nsid s)

/-! ### Session keys (R417) -/

/-- Security Receive of protocol 0xF1: number and key, to the controller that the session is attached to. -/
def securityReceiveSessionKey (tag : Tag) (sess alloc : Nat) (s : State) : State :=
  s.command tag { pend := true } fun c s =>
    if alloc < 16 then s.fail tag .invalidField
    else match s.sess? sess with
      | some x => if x.ctrl = c.id && x.st != .orphaned then s.succeed tag 0 0 (toLe 1 x.num ++ zeros 7 ++ toLe 8 x.key) else s.fail tag .accessDenied
      | none => s.fail tag .accessDenied

def execSecurityReceiveSessionKey (tag : Tag) (sess alloc : Nat) (s : State) : Host.Outcome State Fault Refusal :=
  .next (securityReceiveSessionKey tag sess alloc s)

/-! ### SPDM (R490, R491). PRESUMED: message codes and places of fields by DMTF SPDM 1.4. -/

/-- How far a controller's SPDM connection has come: 1 version, 2 capabilities, 3 algorithms. -/
def State.spdmAt (s : State) (c : Nat) : Nat := ((s.sec.spdm.find? fun p => p.1 == c).map fun p => p.2).getD 0

def State.setSpdm (s : State) (c n : Nat) : State := { s with sec := { s.sec with spdm := (s.sec.spdm.filter fun p => p.1 != c) ++ [(c, n)] } }

/-- A response: version, code, two parameters, the rest. -/
def spdmMsg (code p1 p2 : Nat) (rest : Bytes) : Bytes := toLe 1 0x14 ++ toLe 1 code ++ toLe 1 p1 ++ toLe 1 p2 ++ rest

/-- The response leaves, the Security Send completes. -/
def State.spdmReply (s : State) (tag : Tag) (r : Bytes) : State := (s.send (.spdm tag r)).succeed tag 0 0 []

/-- A request that needs a step before it: without it, ERROR with Unexpected Request. -/
def State.spdmCommand (s : State) (tag : Tag) (need : Nat) (f : Ctrl → State → State) : State :=
  s.command tag { pend := true } fun c s => if s.spdmAt c.id < need then s.spdmReply tag (spdmMsg 0x7F 4 0 []) else f c s

def spdmGetVersion (tag : Tag) (s : State) : State :=
  s.spdmCommand tag 0 fun c s => (s.setSpdm c.id 1).spdmReply tag ([0x10, 0x04, 0, 0, 0, 1] ++ toLe 2 0x1400)
def execSpdmGetVersion (tag : Tag) (s : State) : Host.Outcome State Fault Refusal := .next (spdmGetVersion tag s)

/-- CERT_CAP, CHAL_CAP, MEAS_CAP with signature. -/
def spdmGetCapabilities (tag : Tag) (s : State) : State :=
  s.spdmCommand tag 1 fun c s => (s.setSpdm c.id 2).spdmReply tag (spdmMsg 0x61 0 0 (zeros 4 ++ toLe 4 (2 + 4 + 16)))
def execSpdmGetCapabilities (tag : Tag) (s : State) : Host.Outcome State Fault Refusal := .next (spdmGetCapabilities tag s)

/-- The one choice: ML-DSA-87 and SHA3-512; how the response encodes it is a free value. -/
def spdmNegotiateAlgorithms (tag : Tag) (s : State) : State :=
  s.spdmCommand tag 2 fun c s =>
    let (b, s) := s.drawBytes 32
    (s.setSpdm c.id 3).spdmReply tag (spdmMsg 0x63 0 0 b)
def execSpdmNegotiateAlgorithms (tag : Tag) (s : State) : Host.Outcome State Fault Refusal := .next (spdmNegotiateAlgorithms tag s)

/-- Certificate chains of the two slots; an empty slot has none. -/
def State.spdmChain (s : State) (slot : Nat) : Option Bytes :=
  if slot = 0 then some (Config.certChain s.sec.aliasNo) else if slot = 1 && !s.sec.chain.isEmpty then some s.sec.chain else none

def spdmGetDigests (tag : Tag) (s : State) : State :=
  s.spdmCommand tag 3 fun _ s =>
    let l := [0, 1].filterMap fun k => s.spdmChain k
    s.spdmReply tag (spdmMsg 0x01 0 (2 ^ l.length - 1) (l.flatMap sha3_512))
def execSpdmGetDigests (tag : Tag) (s : State) : Host.Outcome State Fault Refusal := .next (spdmGetDigests tag s)

/-- A portion of a slot's chain and what remains of it. -/
def spdmGetCertificate (tag : Tag) (slot offset len : Nat) (s : State) : State :=
  s.spdmCommand tag 3 fun _ s =>
    match s.spdmChain slot with
    | none => s.spdmReply tag (spdmMsg 0x7F 1 0 [])
    | some b =>
      if b.length < offset then s.spdmReply tag (spdmMsg 0x7F 1 0 [])
      else
        let d := slice b offset len
        s.spdmReply tag (spdmMsg 0x02 slot 0 (toLe 2 d.length ++ toLe 2 (b.length - offset - d.length) ++ d))
def execSpdmGetCertificate (tag : Tag) (slot offset len : Nat) (s : State) : Host.Outcome State Fault Refusal :=
  .next (spdmGetCertificate tag slot offset len s)

/-- SHA3-512 of image header bytes 0 to 2,687. -/
def State.headerDigest (s : State) : Bytes := sha3_512 (s.imageHeader.take 2688)

/-- UDS as bytes. -/
def State.udsBytes (s : State) : Bytes := toLe 32 s.sec.uds

/-- Seeds of the device identity key and of the alias key (R490). -/
def State.identitySeed (s : State) : Bytes := (sha3_512 ([0x4E, 0x42, 0x49, 0x44] ++ s.udsBytes)).take 32
def State.aliasSeed (s : State) : Bytes := (sha3_512 ([0x4E, 0x42, 0x41, 0x4C] ++ s.udsBytes ++ s.headerDigest)).take 32

/-- The digest in use, zero when none. -/
def State.ownerDigest (s : State) : Bytes := s.sec.owners.getLast?.getD (zeros 64)

/-- The counts of R495: coaches, mesh, ring, PHY, repairs. -/
def State.fuseCounts (s : State) : Bytes :=
  toLe 2 ((List.range 256).filter fun c => s.coachFuse c != 0).length ++ toLe 2 (s.fuseCount 3608 480) ++ toLe 2 (s.fuseCount 4088 62) ++ toLe 2 (s.fuseCount 4152 96) ++
    toLe 2 s.repairs.length

/-- Measurement by its index, as SHA3-512 of what it measures (DEDUCED: each of the seven is a hash). -/
def State.measurement (s : State) (k : Nat) : Option Bytes :=
  match k with
  | 1 => some (toLe 64 Config.bootRom.toNat)
  | 2 => some s.headerDigest
  | 3 => some (slice s.imageHeader 32 64)
  | 4 => some (sha3_512 (toLe 1 s.sec.secFused ++ toLe 8 s.sec.fwVersion))
  | 5 => some s.ownerDigest
  | 6 => some (sha3_512 (toLe 4 (s.fuseField 0 21) ++ s.fuseCounts))
  | 7 => some (sha3_512 ((s.standing.filter fun r => s.boot.stand.contains r.type).flatMap fun r => s.cfgBytes r.off (12 + r.value.length)))
  | _ => none

/-- CHALLENGE: the chain's hash, a fresh nonce, the summary of all measurements, and the alias key's signature over nonces and these. -/
def spdmChallenge (tag : Tag) (slot : Nat) (nonce : Bytes) (s : State) : State :=
  s.spdmCommand tag 3 fun _ s =>
    match s.spdmChain slot with
    | none => s.spdmReply tag (spdmMsg 0x7F 1 0 [])
    | some b =>
      let (k, s) := s.drawKey
      let sum := sha3_512 ([1, 2, 3, 4, 5, 6, 7].flatMap fun k => (s.measurement k).getD [])
      let body := spdmMsg 0x03 slot (2 ^ slot) (sha3_512 b ++ toLe 32 k ++ sum ++ zeros 2)
      s.spdmReply tag (body ++ Config.sign (leNat s.aliasSeed) (fit 32 nonce ++ body))
def execSpdmChallenge (tag : Tag) (slot : Nat) (nonce : Bytes) (s : State) : Host.Outcome State Fault Refusal := .next (spdmChallenge tag slot nonce s)

/-- GET_MEASUREMENTS: index 0 asks their number, 0xFF all, else one; signed. -/
def spdmGetMeasurements (tag : Tag) (index : Nat) (nonce : Bytes) (s : State) : State :=
  s.spdmCommand tag 3 fun _ s =>
    let l := if index = 0 then [] else if index = 0xFF then [1, 2, 3, 4, 5, 6, 7] else [index]
    if l.any fun k => (s.measurement k).isNone then s.spdmReply tag (spdmMsg 0x7F 1 0 [])
    else
      let (k, s) := s.drawKey
      let recs := l.flatMap fun k => toLe 1 k ++ (s.measurement k).getD []
      let body := spdmMsg 0x60 (if index = 0 then 7 else 0) 0 (toLe 1 l.length ++ toLe 3 recs.length ++ recs ++ toLe 32 k ++ zeros 2)
      s.spdmReply tag (body ++ Config.sign (leNat s.aliasSeed) (fit 32 nonce ++ body))
def execSpdmGetMeasurements (tag : Tag) (index : Nat) (nonce : Bytes) (s : State) : Host.Outcome State Fault Refusal :=
  .next (spdmGetMeasurements tag index nonce s)

end Sys2Proof.Machine
end

