-- ==== Sys2Proof/Machine/Boundary.lean ====
section
/-! DEFINITION. The stage boundary: the counter, the batch of completions, the clock domains, trim, power and temperature, partitions,
faulted runs, the dispatcher's releases and the programs that the stage issues; the forward jump; writes of named registers (R9, R10,
R27, R28, R36, R44, R47 to R52). -/

namespace Sys2Proof.Machine

/-! ### The counter and the clocks -/

/-- The counter at a boundary: one more stage, core cycle 0; at 2⁵⁰ − 1 it holds, and the cycle field, which has counted on to its end,
holds at 12,299 (R27, R44). -/
def countStage (g : Stg) : Stg :=
  let n := min stageMax (g.stage + 1)
  { g with
    stage := n
    cycle := if g.stage = stageMax then 12299 else 0
    exhausted := g.exhausted || (g.loaded && decide (exhaustAt ≤ n))
    staleOff := false
    ptpCount := g.ptpCount.map fun p => p + 1 }

/-- A domain at a boundary: a switch in progress ends on its new source, one asked for begins and costs the stage that starts (R49). -/
def domainTick (d : DomainState) : DomainState :=
  let d : DomainState := match d.target with
    | some r => { d with root := r, target := none }
    | none => d
  match d.want with
  | some r => { d with target := if d.root = r then none else some r, want := none }
  | none => d

/-- The clock generator at a boundary: dividers reset after lock, domains switched (R48, R49, R52). -/
def clkTick (c : Clk) : Clk :=
  { c with dividersPending := false, core := domainTick c.core, flash := domainTick c.flash, dram := domainTick c.dram }

/-- Records that a FETCH without KEEP has returned are freed as its completion is posted; one whose completion is not posted frees nothing
(R300, R395). -/
def State.freeFetched (s : State) : State :=
  let gone := (s.que.freeing.filter fun f => s.que.done.any fun c => c.tag == f.1).map fun f => f.2
  { s with
    que := { s.que with freeing := [] }
    ses := { s.ses with list := s.ses.list.map fun x => { x with held := x.held.filter fun h => !gone.contains (x.num, h) } } }

/-- The batch of the stage that ends is posted; what the port sent in it has left (R28). -/
def State.postBatch (s : State) : State :=
  let s := s.freeFetched
  { s with que := { s.que with posted := s.que.done, done := [] }, port := { s.port with tx := [] }, xlt := { s.xlt with fresh := [] } }

/-- A mark is due: 2²⁰ stages since the last one, or 16 superblocks closed since (R365). -/
def State.markTick (s : State) : State :=
  if s.upkeep && s.stg.loaded && !s.ns.formatPending && s.xlt.markDue.isNone && (decide (s.xlt.markStage + 1048576 ≤ s.stg.stage) || decide (16 ≤ s.xlt.closedSince)) then
    s.wantMark false
  else s

/-- Power and temperature of the stage: a period's rest windows are fixed at its start (R426, R438, R439). -/
def State.powerTick (smp : Samples) (s : State) : State :=
  let p := if s.stg.stage % 1024 = 0 then periodStart smp.meanPower s.pwr else s.pwr
  { s with pwr := samplePower smp p }

/-- What every boundary does once the counter has counted: the batch is posted, the yoke's changes take effect, trim, power and the cap on
dirty data follow, and dies whose operations have ended are free (R28, R33, R47). -/
def State.clockTick (smp : Samples) (s : State) : State :=
  ((trimUpdate smp.trimWish smp.lineErr s.postBatch.yokeTick).powerTick smp).capTick.freeDies

/-- Then, where the array runs, the seats of the stage that ended have drained, and recoveries and reads move on (R16). -/
def State.boundaryTick (smp : Samples) (s : State) : State :=
  let s := s.clockTick smp
  if s.arrayRuns then s.drainSeats.recovTick.plainTick else s

/-- First boundary of the power-loss sequence: runs report POWER_STOP while the port is up; then the port is switched off and its
controllers end (R433, R434). -/
def State.quiesceTick (s : State) : State :=
  if s.pwr.seq != .quiesce then s
  else
    let s := s.endFaulted.postBatch
    { s with que := { s.que with ctrls := [] }, port := { s.port with width := 0, trained := [], conns := [], qps := [] } }

/-- One stage boundary. Where the counter holds, no stage that an entry names begins (R10, R44). -/
def stageBoundary (smp : Samples) (s : State) : State :=
  if !(s.pwr.standby && s.pwr.rails) then s
  else
    let ran := s.coreClock
    let moved := s.stg.stage != stageMax
    let s : State := { s with stg := countStage s.stg, clk := clkTick s.clk }
    let s := s.boundaryTick smp
    if s.pwr.seq != .none then (flushMore s.quiesceTick).warn.nextCycle
    else
      let s := s.restTick.partitionsTick ran
      let s := s.mergeTick.scanTick.formatTick.verifyTick.patrolTick.lockTick.limpTick.emitDeadline.endFaulted.startWindows.markTick
      (placeStage (if moved then s.release else s)).checkFull.warn.nextCycle

def execStageBoundary (smp : Samples) (s : State) : Host.Outcome State Fault Refusal := .next (stageBoundary smp s)

/-! ### The forward jump (R36) -/

/-- A session's stages moved by a jump: every timetable, suspended ones with the boundary of their suspension, and what it waits for. -/
def jumpSession (n : Nat) (x : Session) : Session :=
  let mv := fun t : Timetable => { shiftTt n t with suspended := t.suspended.map fun b => b + n, seatsFrom := t.seatsFrom + n }
  { x with
    windowStart := x.windowStart.map fun a => a + n
    run := x.run.map fun r => { r with tt := r.tt.map mv, nextStart := r.nextStart + n }
    search := x.search.map mv
    scans := x.scans.map fun c => { c with tt := c.tt.map mv }
    buildTts := x.buildTts.map fun k => (k.1, mv k.2)
    queries := x.queries.map fun q => { q with admitted := q.admitted.map fun b => b + n } }

/-- A switch's stages moved by a jump. -/
def jumpSwitch (n : Nat) : Switch → Switch
  | .deferred b => .deferred (b + n)
  | .moving b x g => .moving (b + n) x g
  | .restored x => .restored x

/-- A context's deadline moved by a jump. -/
def jumpCtx (n : Nat) (c : Ctx) : Ctx := if c.lapse = 0 then c else { c with lapse := c.lapse + n }

/-- The counter advanced by a jump of n stages, every unreleased entry with it; it never passes its end (R44). DESIGN CHOICE: waits
counted in stages keep what has elapsed of them. -/
def State.jumpBy (s : State) (n : Nat) : State :=
  let n := min n (stageMax - s.stg.stage)
  let errq := s.fwc.errq
  let s := s.moveStages (s.stg.stage + n)
  { s with
    stg := { s.stg with stage := s.stg.stage + n, ptpGap := s.stg.ptpGap - n }
    fwc := { s.fwc with errq := errq }
    fla := { s.fla with openReads := s.fla.openReads.map fun o => { o with stage := o.stage + n } }
    coa := { s.coa with ctxs := s.coa.ctxs.map fun e => (e.1, jumpCtx n e.2) }
    ses := { s.ses with
      list := s.ses.list.map (jumpSession n)
      parts := s.ses.parts.map fun p => { p with switch := p.switch.map (jumpSwitch n) }
      binds := s.ses.binds.map fun b => { b with since := b.since.map fun a => a + n, waiting := b.waiting.map fun a => a + n } } }

/-- At this boundary the counter takes the PTP stage count, the module counts as yoked and no carriage is stale in the stage that
begins; where another change of the yoke takes effect at it there is no jump (R33, R36). -/
def yokeForwardJump (smp : Samples) (s : State) : State :=
  match s.stg.jump with
  | none => s
  | some n =>
    if !s.powered || !s.stg.loaded || s.stg.yokeNext != [] then s
    else
      let s := stageBoundary smp (s.jumpBy n)
      State.changeYoke { s with stg := { s.stg with staleOff := true } } .yoked

def execYokeForwardJump (smp : Samples) (s : State) : Host.Outcome State Fault Refusal := .next (yokeForwardJump smp s)

/-! ### Writes of named registers (R9) -/

/-- Bits of a value that a register keeps: its reserved bits stay 0. -/
def keepBits (v : BitVec 32) (mask : Nat) : BitVec 32 := v &&& BitVec.ofNat 32 mask

/-- CLK_TRIM: TRIM saturates, and SRC 3, which does not occur, leaves SRC (R47). -/
def writeTrim (v : Nat) (c : Clk) : Clk :=
  { c with trim := max (-250000) (min 250000 (signed 20 v)), src := if bits v 21 20 = 3 then c.src else bits v 21 20 }

/-- FLA_PGMODE: the mode by its code; 3 is ignored (R321). -/
def writePgmode (hub v : Nat) (s : State) : State :=
  match v % 4 with
  | 0 => flaPgmodeService hub (bits v 15 8) s
  | 1 => flaPgmodeRecovery hub (bits v 15 8) s
  | 2 => flaPgmodeTest hub (bits v 15 8) s
  | _ => s

/-- A write of a DRAM controller's register. -/
def Drm.write (d : Drm) (r : Reg) (unit : Nat) (v : BitVec 32) : Drm :=
  match r with
  | .drmWin => { d with win := Tab.set 0 d.win unit (keepBits v 0xFFFFF800) }
  | .drmEcc => { d with ecc := Tab.set 0 d.ecc unit v }
  | .drmFill => { d with fill := Tab.set 0 d.fill unit v }
  | .drmCheckval => { d with checkval := Tab.set 0 d.checkval unit (keepBits v 0x000FFFFF) }
  | .drmSynd =>
    let n := (Tab.get 0 d.synd (unit / 2)).toNat
    let w := if unit % 2 = 0 then n / 2 ^ 32 * 2 ^ 32 + v.toNat else v.toNat * 2 ^ 32 + n % 2 ^ 32
    { d with synd := Tab.set 0 d.synd (unit / 2) (BitVec.ofNat 64 w) }
  | _ => d

/-- How many units hold a register: windows are numbered package × 16 + partition, DRM_SYND's halves package × 2 + half. -/
def regUnits : Reg → Nat
  | .stgYoke | .clkTrim | .portLink | .pwrBank => 1
  | .coaRole => 256
  | .fabDrop => 287
  | .flaPgmode => 16
  | .drmWin => 192
  | .drmSynd => 24
  | .drmEcc | .drmFill | .drmTest | .drmCheckval => 12

/-- A write of a named register: stored without its reserved bits; a register with a behaviour of its own behaves so, and one that only
reports keeps what it reports (R9, R40, R386, R429). -/
def registerWrite (r : Reg) (unit : Nat) (v : BitVec 32) (s : State) : State :=
  if !s.powered || regUnits r ≤ unit then s
  else match r with
    | .stgYoke | .portLink | .pwrBank => s
    | .clkTrim => { s with clk := writeTrim v.toNat s.clk }
    | .coaRole => { s with coa := { s.coa with role := Tab.set 0 s.coa.role unit (keepBits v 0xCFFF) } }
    | .fabDrop => { s with fab := { s.fab with drop := Tab.set 0 s.fab.drop unit v } }
    | .flaPgmode => writePgmode unit v.toNat s
    | .drmTest => writeDrmTest unit (bits v.toNat 15 8) (bit v.toNat 3) (v.toNat % 4) s
    | r => { s with drm := s.drm.write r unit v }

def execRegisterWrite (r : Reg) (unit : Nat) (v : BitVec 32) (s : State) : Host.Outcome State Fault Refusal :=
  .next (registerWrite r unit v s)

end Sys2Proof.Machine
end

