-- ==== Sys2Proof/Machine/Logs.lean ====
section
/-! DEFINITION. Log pages (R186 to R188, R391, R409, R410, R469, R487, R495). -/

namespace Sys2Proof.Machine

/-! ### Pages -/

/-- A page with its CRC in the last 4 bytes. -/
def sealPage (n : Nat) (b : Bytes) : Bytes := withCrc (fit (n - 4) b)

/-- Bits as bytes: bit k of byte k div 8. -/
def bitBytes (n : Nat) (p : Nat → Bool) : Bytes := toLe n (maskOf ((List.range (8 * n)).filter p))

/-- Log page 0xD0. -/
def State.pageEvents (s : State) : Bytes :=
  sealPage 64 (toLe 8 s.stamp ++ toLe 8 s.fwc.total ++ toLe 2 s.fwc.events.length) ++ fit 4096 (s.fwc.events.flatMap eventBytes)

/-- STATE of log page 0xD1 (R410). -/
def State.stateWord (s : State) : Nat :=
  let b := fun (c : Bool) (i : Nat) => if c then 2 ^ i else 0
  b s.ns.formatPending 0 + b s.xlt.full 1 + b s.stg.exhausted 2 + b s.pwr.prot 3 + b s.fwc.limp.isSome 4 + b s.boot.reduced 5 + b (decide (s.port.width < 3)) 6 +
    b (s.boot.mode == .diagnostic) 7 + b s.clk.failed 8

/-- A namespace has a live generation marked degraded. -/
def State.degradedAt (s : State) (i : Nat) : Bool := match s.ns? (i + 1) with | some n => n.gens.any fun g => g.degraded | none => false

/-- Log page 0xD1. -/
def State.pageHealth (s : State) : Bytes :=
  let h := s.fwc.health
  sealPage 512 (toLe 8 s.stamp ++ toLe 4 s.stateWord ++ toLe 4 h.overflow ++
    ([h.missRerank, h.missHop, h.missCodes, h.missWindow, h.missStageIn, h.missStall, h.missScan, h.missPeer, h.approximate, h.dropStale, h.dropRole, h.dropCrc,
      h.dropKind, h.secondProgram, h.programFail, h.eraseFail, h.verifyRefresh, h.verifyWeak, h.unitsLost, h.mapFaults, h.dramCorrected, h.dramUncorr,
      h.dramPoison].flatMap (toLe 8)) ++
    toLe 4 s.fla.retired.length ++ toLe 4 s.fla.suspect.length ++ toLe 4 s.eraseMean ++ toLe 4 s.eraseMax ++ bitBytes 32 s.degradedAt)

/-- Log page 0xD2. -/
def State.pageFuses (s : State) : Bytes :=
  let n := s.sec.owners.length
  sealPage 512 (toLe 8 s.stamp ++ fit 16 s.sec.serial ++ toLe 8 s.sec.fwVersion ++ toLe 1 s.sec.secFused ++ toLe 1 (128 - s.sec.secFused) ++ toLe 1 n ++
    toLe 1 (if n ≤ 1 then 4 else 5 - n) ++ toLe 1 ((if s.fuse 20 then 1 else 0) + (if n = 0 then 0 else 2)) ++ zeros 3 ++ toLe 4 (unsigned 32 s.factoryTrim) ++
    s.fuseCounts ++ zeros 2 ++ fit 64 s.ownerDigest)

/-- Counts of a class that failed a test: the units themselves, and those behind a unit that failed. -/
def State.failedCount (s : State) (cls : Nat) : Nat :=
  let f := s.boot.failed
  match cls with
  | 1 => ((List.range 16).filter fun t => !s.teamServes t && (teamCoaches t).any fun c => f.contains (0, c)).length
  | 4 => ((List.range 1024).filter fun d => f.contains (4, d) || f.contains (3, chanOf d)).length
  | 5 => ((List.range 480).filter fun l => f.contains (5, l) || s.fab.routersOut.any fun c => (routerLinks c).contains l && f.contains (0, c) && s.coachFuse c < 2).length
  | k => (f.filter fun e => e.1 == k).length

/-- Expected, in service, minimum and failed of a class (R469). -/
def State.classEntry (s : State) (cls : Nat) : Bytes :=
  let (e, i, m) :=
    if cls < 6 then (s.boot.expected.getD cls 0, s.classCounts.getD cls 0, s.boot.minimum.getD cls 0)
    else if cls = 6 then (8, 8 - s.port.lanesOut.length, 0)
    else (3, ([284, 285, 286].filter fun st => !s.boot.stationsOut.contains st && !s.fab.linksOut.contains (544 + ringPlace st)).length, 3)
  toLe 2 e ++ toLe 2 i ++ toLe 2 m ++ toLe 2 (s.failedCount cls)

/-- Log page 0xD3. -/
def State.pageTopology (s : State) : Bytes :=
  let ring := fun k : Nat => (decide (k < 31) && !s.fab.linksOut.contains (512 + k)) || (decide (32 ≤ k) && decide (k < 63) && !s.fab.linksOut.contains (544 + (k - 32)))
  sealPage 512 (toLe 8 s.stamp ++ toLe 1 s.boot.outcome ++ toLe 1 s.boot.cause ++ toLe 2 s.boot.detail ++ toLe 4 s.ses.topoGen ++
    ((List.range 8).flatMap s.classEntry) ++ bitBytes 32 s.coachIn ++ bitBytes 32 (fun c => s.coachFuse c != 0) ++ bitBytes 32 (fun c => s.boot.failed.contains (0, c)) ++
    bitBytes 8 s.fla.channels.contains ++ bitBytes 2 s.drm.present.contains ++ bitBytes 1 s.port.trained.contains ++ zeros 1 ++ bitBytes 128 s.dieIn ++
    bitBytes 60 (fun l => !s.fab.linksOut.contains l) ++ bitBytes 8 ring)

/-! ### Log page 0xD4 (R186 to R188) -/

def kindCode : EntryKind → Nat
  | .coach => 1
  | .dram => 2
  | .dieRead => 3
  | .dieReadOpen => 4
  | .programOpen => 5
  | .seat => 6
  | .seatOpen => 7

/-- Entries in the order STAGE, KIND, UNIT. -/
def ttBefore (a b : TtEntry) : Bool := lexLt [a.stage, kindCode a.kind, a.unit] [b.stage, kindCode b.kind, b.unit]

def insertTt (e : TtEntry) : List TtEntry → List TtEntry
  | [] => [e]
  | x :: l => if ttBefore e x then e :: x :: l else x :: insertTt e l

def entryBytes (e : TtEntry) : Bytes :=
  toLe 4 e.stage ++ toLe 2 e.unit ++ toLe 1 (kindCode e.kind) ++ toLe 1 e.span ++ toLe 2 e.amount ++ toLe 2 e.stride ++ toLe 4 e.rep ++ toLe 4 e.op ++ toLe 2 e.group ++ zeros 2

/-- Descriptor and entries of a timetable; zeros where there is none. -/
def ttBytes (t : Option Timetable) : Bytes :=
  match t with
  | none => zeros 64
  | some t =>
    withCrc (toLe 8 t.routeId ++ toLe 8 t.bound ++ toLe 4 t.plan.passStages ++ toLe 4 t.plan.passStride ++ toLe 4 t.plan.entries.length ++
      toLe 2 (maskOf t.plan.teams) ++ toLe 2 t.peakFlits ++ toLe 4 t.topoGen ++ zeros 24) ++
      (t.plan.entries.foldl (fun l e => insertTt e l) []).flatMap entryBytes

/-- The timetable that a Log Specific Identifier names: a handle's, running or kept, or the session's standing search timetable. DESIGN CHOICE: of
the up to four kept ones of a handle that does not run, the oldest (log 71). -/
def State.ttNamed (s : State) (lsi : Nat) : Option Timetable :=
  match s.sess? (bits lsi 15 8) with
  | none => none
  | some x =>
    let h := lsi % 256
    if h = 255 then x.search
    else
      let now := match x.run with | some r => if r.handle = h then r.tt else none | none => none
      now <|> (x.cache.find? fun c => c.handle == h).map fun c => c.tt

/-- A partition's entry of the summary. -/
def State.partEntry (s : State) (p : Nat) : Bytes :=
  match s.part? p with
  | none => toLe 1 0 ++ toLe 1 255 ++ zeros 14
  | some q =>
    let r := (q.holder.bind s.sess?).bind fun x => x.run
    let t := r.bind fun r => r.tt
    toLe 1 (q.holder.getD 0) ++ toLe 1 (match r with | some r => r.handle | none => 255) ++ toLe 2 (maskOf q.teams) ++
      toLe 4 (match t with | some t => t.plan.passStride | none => 0) ++ toLe 8 (match t with | some t => if (r.map fun r => r.nextOp.isSome) == some true then fullStamp ((r.map fun r => r.passStart t).getD 0) 0 else 0 | none => 0)

/-- The summary (R187). -/
def State.pageSummary (s : State) : Bytes :=
  let t := s.fwc.tt
  sealPage 512 (toLe 8 s.stamp ++
    ([t.stages, t.released, t.seatsFixed, t.seatsFilled, t.seatsLapsed, t.seatsMissed, t.seatsUnres, t.dieStages, t.dramLines].flatMap (toLe 8)) ++
    ([t.binds, t.cacheHits, t.rebinds, t.refusals, (s.ses.binds.filter fun b => b.waiting.isSome).length, t.maxBind].flatMap (toLe 4)) ++
    toLe 2 t.peakSeats ++ toLe 2 t.peakLines ++ toLe 2 t.peakFlits ++ toLe 2 s.tables.length ++ (List.range 16).flatMap s.partEntry)

/-! ### Standard pages (R391, R409, R438). PRESUMED: places of fields by the NVMe specifications, over free bytes; what those reserve reads
zero (R3). -/

def put (b : Bytes) (f : Nat × Bytes) : Bytes := overlay b f.1 f.2

/-- Error Information: 64 entries, the newest first; unused ones read zero. -/
def State.pageErrors (s : State) (free : Bytes) : Bytes :=
  fit 4096 ((s.que.errLog.reverse.zipIdx).flatMap fun e =>
    [(0, toLe 8 (s.que.errLog.length - e.2)), (10, toLe 2 e.1.tag.cid), (12, toLe 2 ((e.1.sct * 256 + e.1.sc) * 2)), (42, zeros 21)].foldl put
      (fit 64 (slice free (64 * e.2) 64)))

/-- SMART / Health Information. -/
def State.pageSmart (s : State) (free : Bytes) : Bytes :=
  [(0, toLe 1 s.criticalWarning), (1, toLe 2 s.composite), (3, toLe 1 s.availableSpare), (4, toLe 1 10), (5, toLe 1 s.percentageUsed),
   (6, zeros 26), (232, zeros 280), (160, toLe 16 s.que.mediaErrors), (200, fit 16 ((s.pwr.temps.take 8).flatMap fun t => toLe 2 (t + 273)))].foldl put (fit 512 free)

/-- Firmware Slot Information: AFI 1, the one slot's revision. -/
def State.pageSlot (s : State) : Bytes := fit 512 (toLe 8 1 ++ toLe 8 s.sec.fwVersion)

/-- An entry of the Discovery log page: transport, IPv4 or IPv6, an NVM subsystem, no secure channel, the dynamic controller model, 32 admin
queue entries, the service port, the subsystem's NQN and the port's address, which are free here; TSAS by transport: no TLS; reliable
connected, RDMA_CM (R389 to R392). -/
def State.discoveryEntry (s : State) (trtype : Nat) (tsas free : Bytes) : Bytes :=
  fit 1024 (toLe 1 trtype ++ toLe 1 (1 + field free 0 1 % 2) ++ toLe 1 2 ++ toLe 1 2 ++ slice free 2 2 ++ toLe 2 0xFFFF ++ toLe 2 32 ++ zeros 22 ++
    [0x34, 0x34, 0x32, 0x30] ++ zeros 220 ++ s.subNqn ++ slice free 256 256 ++ tsas)

/-- The Discovery log page: an RoCEv2 and an NVMe/TCP entry. -/
def State.pageDiscovery (s : State) (free : Bytes) : Bytes :=
  fit 1024 (slice free 0 8 ++ toLe 8 2 ++ toLe 2 0) ++ s.discoveryEntry 1 ([1, free.getD 1025 0, 1] ++ zeros 5 ++ slice free 1032 2) (slice free 1024 1024) ++
    s.discoveryEntry 3 [0] (slice free 2048 1024)

/-- Opcodes of the admin and of the I/O commands (R397, R398, R413, R414). -/
def adminOpcodes : List Nat := [0x02, 0x06, 0x08, 0x09, 0x0A, 0x0C, 0x0D, 0x18, 0x7F, 0x80, 0x81, 0x82, 0xC1, 0xC5, 0xC9, 0xCD]
def ioOpcodes : List Nat := [0x00, 0x01, 0x02, 0x08, 0x09, 0x81, 0x85, 0x89, 0x8E, 0x91, 0x95, 0x99]

/-- Commands Supported and Effects: what R397 and R398 list is supported and nothing else; its effects are free. -/
def pageEffects (free : Bytes) : Bytes :=
  let entries := fun (l : List Nat) (at_ : Nat) => (List.range 256).flatMap fun op =>
    if l.contains op then toLe 4 (Nat.land (field free (at_ + 4 * op) 4) 0xFFFF001E + 1) else zeros 4
  fit 4096 (entries adminOpcodes 0 ++ entries ioOpcodes 1024)

/-! ### Get Log Page -/

/-- A page read with RAE clear: its events may post again. -/
def State.pageRead (s : State) (c : Ctrl) (lid : Nat) (rae : Bool) : State :=
  if rae then s
  else s.updCtrl c.id fun c => { c with
    masked := c.masked.filter fun m => m.2 != lid, held := c.held.filter fun h => h.2.2 != lid, changedNs := if lid = 4 then [] else c.changedNs }

/-- A page that carries a stamp of its assembly, or not, returned from an offset on. -/
def State.givePage (s : State) (c : Ctrl) (tag : Tag) (lid offset len : Nat) (rae stamped : Bool) (page : Bytes) : State :=
  let s := (s.pageRead c lid rae).succeed tag 0 0 (slice page offset len)
  if stamped then s.nextCycle else s

/-- Log pages that limp mode serves. -/
def limpPage (lid : Nat) : Bool := [0x01, 0x02, 0xD0, 0xD1].contains lid

/-- Get Log Page past the states of R399. -/
def State.logCommand (s : State) (tag : Tag) (lid : Nat) (f : Ctrl → State → State) : State :=
  s.command tag ⟨false, true, limpPage lid, true⟩ f

def getLogPageEventLog (tag : Tag) (offset len : Nat) (rae : Bool) (s : State) : State :=
  s.logCommand tag 0xD0 fun c s => s.givePage c tag 0xD0 offset len rae true s.pageEvents
def execGetLogPageEventLog (tag : Tag) (offset len : Nat) (rae : Bool) (s : State) : Host.Outcome State Fault Refusal :=
  .next (getLogPageEventLog tag offset len rae s)

def getLogPageHealth (tag : Tag) (offset len : Nat) (rae : Bool) (s : State) : State :=
  s.logCommand tag 0xD1 fun c s => s.givePage c tag 0xD1 offset len rae true s.pageHealth
def execGetLogPageHealth (tag : Tag) (offset len : Nat) (rae : Bool) (s : State) : Host.Outcome State Fault Refusal :=
  .next (getLogPageHealth tag offset len rae s)

def getLogPageFuses (tag : Tag) (offset len : Nat) (rae : Bool) (s : State) : State :=
  s.logCommand tag 0xD2 fun c s => s.givePage c tag 0xD2 offset len rae true s.pageFuses
def execGetLogPageFuses (tag : Tag) (offset len : Nat) (rae : Bool) (s : State) : Host.Outcome State Fault Refusal :=
  .next (getLogPageFuses tag offset len rae s)

def getLogPageTopology (tag : Tag) (offset len : Nat) (rae : Bool) (s : State) : State :=
  s.logCommand tag 0xD3 fun c s => s.givePage c tag 0xD3 offset len rae true s.pageTopology
def execGetLogPageTopology (tag : Tag) (offset len : Nat) (rae : Bool) (s : State) : Host.Outcome State Fault Refusal :=
  .next (getLogPageTopology tag offset len rae s)

/-- Log page 0xD4 by its Log Specific Parameter; a parameter above 1 fails (DEDUCED: it selects nothing). -/
def getLogPageTimetable (tag : Tag) (lsp lsi offset len : Nat) (rae : Bool) (s : State) : State :=
  s.logCommand tag 0xD4 fun c s =>
    if 1 < lsp then s.fail tag .invalidField
    else s.givePage c tag 0xD4 offset len rae true (s.pageSummary ++ if lsp = 1 then ttBytes (s.ttNamed lsi) else [])
def execGetLogPageTimetable (tag : Tag) (lsp lsi offset len : Nat) (rae : Bool) (s : State) : Host.Outcome State Fault Refusal :=
  .next (getLogPageTimetable tag lsp lsi offset len rae s)

/-- Get Log Page by its identifier. -/
def getLogPage (tag : Tag) (lid nsid offset len : Nat) (rae : Bool) (s : State) : State :=
  match lid with
  | 0xD0 => getLogPageEventLog tag offset len rae s
  | 0xD1 => getLogPageHealth tag offset len rae s
  | 0xD2 => getLogPageFuses tag offset len rae s
  | 0xD3 => getLogPageTopology tag offset len rae s
  | 0xD4 => getLogPageTimetable tag 0 0 offset len rae s
  | _ =>
    s.logCommand tag lid fun c s =>
      let (free, s) := s.drawBytes 4096
      let give := fun page : Bytes => s.givePage c tag lid offset len rae false page
      match lid with
      | 0x01 => give (s.pageErrors free)
      | 0x02 => if nsid = 0 || nsid = allNs then give (s.pageSmart free) else s.fail tag .invalidField
      | 0x03 => give s.pageSlot
      | 0x04 => give (fit 4096 (c.changedNs.flatMap (toLe 4)))
      | 0x05 => give (pageEffects free)
      | 0x70 => if c.discovery then give (s.pageDiscovery free) else s.fail tag .invalidLogPage
      | _ => s.fail tag .invalidLogPage
def execGetLogPage (tag : Tag) (lid nsid offset len : Nat) (rae : Bool) (s : State) : Host.Outcome State Fault Refusal :=
  .next (getLogPage tag lid nsid offset len rae s)

end Sys2Proof.Machine
end

