-- ==== Sys2Proof/Machine/Dispatch.lean ====
section
/-! DEFINITION. The dispatch: one arm for each command. -/

namespace Sys2Proof.Machine

def exec (i : Instr) (s : State) : Host.Outcome State Fault Refusal :=
  match i with
  | .stageBoundary smp => Sys2Proof.Machine.execStageBoundary smp s
  | .dieSenseComplete die dirty erased => Sys2Proof.Machine.execDieSenseComplete die dirty erased s
  | .dieProgramComplete die failed => Sys2Proof.Machine.execDieProgramComplete die failed s
  | .dieEraseComplete die failed => Sys2Proof.Machine.execDieEraseComplete die failed s
  | .dirtyRecoveryStep hub ok => Sys2Proof.Machine.execDirtyRecoveryStep hub ok s
  | .syncMessage m twoStep => Sys2Proof.Machine.execSyncMessage m twoStep s
  | .followUpMessage m => Sys2Proof.Machine.execFollowUpMessage m s
  | .announceMessage a => Sys2Proof.Machine.execAnnounceMessage a s
  | .delayRespMessage domain master seq delay logInterval => Sys2Proof.Machine.execDelayRespMessage domain master seq delay logInterval s
  | .delayReqSend => Sys2Proof.Machine.execDelayReqSend s
  | .yokeHoldoverTimeout => Sys2Proof.Machine.execYokeHoldoverTimeout s
  | .yokeSyncLossTimeout => Sys2Proof.Machine.execYokeSyncLossTimeout s
  | .servoLockTimeout => Sys2Proof.Machine.execServoLockTimeout s
  | .yokeForwardJump smp => Sys2Proof.Machine.execYokeForwardJump smp s
  | .ptpFirstWaitExpiry => Sys2Proof.Machine.execPtpFirstWaitExpiry s
  | .stampStart => Sys2Proof.Machine.execStampStart s
  | .rootPllLock => Sys2Proof.Machine.execRootPllLock s
  | .domainSwitch d toRoot => Sys2Proof.Machine.execDomainSwitch d toRoot s
  | .rootPllLoss => Sys2Proof.Machine.execRootPllLoss s
  | .pllRelockTryEnd locked => Sys2Proof.Machine.execPllRelockTryEnd locked s
  | .matrixInstruction coach t work upto => Sys2Proof.Machine.execMatrixInstruction coach t work upto s
  | .stationarySwap coach t => Sys2Proof.Machine.execStationarySwap coach t s
  | .transposedLoad coach t l => Sys2Proof.Machine.execTransposedLoad coach t l s
  | .vectorInstruction coach work => Sys2Proof.Machine.execVectorInstruction coach work s
  | .crossLaneSum coach src dst => Sys2Proof.Machine.execCrossLaneSum coach src dst s
  | .sequencerIssue coach pc work => Sys2Proof.Machine.execSequencerIssue coach pc work s
  | .contextWake coach ctx => Sys2Proof.Machine.execContextWake coach ctx s
  | .contextFree coach ctx => Sys2Proof.Machine.execContextFree coach ctx s
  | .contextRestart coach ctx => Sys2Proof.Machine.execContextRestart coach ctx s
  | .carriageSend src r => Sys2Proof.Machine.execCarriageSend src r s
  | .carriageWrite st c => Sys2Proof.Machine.execCarriageWrite st c s
  | .carriageRead st c => Sys2Proof.Machine.execCarriageRead st c s
  | .carriageReply st c => Sys2Proof.Machine.execCarriageReply st c s
  | .carriageWriteAck st c => Sys2Proof.Machine.execCarriageWriteAck st c s
  | .carriageSeat st c => Sys2Proof.Machine.execCarriageSeat st c s
  | .carriageFill st c => Sys2Proof.Machine.execCarriageFill st c s
  | .carriageAnswer st c => Sys2Proof.Machine.execCarriageAnswer st c s
  | .carriageControl st c => Sys2Proof.Machine.execCarriageControl st c s
  | .carriageSave st c => Sys2Proof.Machine.execCarriageSave st c s
  | .carriageError st c => Sys2Proof.Machine.execCarriageError st c s
  | .dramScrub pkg => Sys2Proof.Machine.execDramScrub pkg s
  | .fabDropFold st => Sys2Proof.Machine.execFabDropFold st s
  | .drmEccFold pkg => Sys2Proof.Machine.execDrmEccFold pkg s
  | .roleWrite team assigned partition => Sys2Proof.Machine.execRoleWrite team assigned partition s
  | .flaPgmodeService hub key => Sys2Proof.Machine.execFlaPgmodeService hub key s
  | .flaPgmodeRecovery hub key => Sys2Proof.Machine.execFlaPgmodeRecovery hub key s
  | .flaPgmodeTest hub key => Sys2Proof.Machine.execFlaPgmodeTest hub key s
  | .recoveryRawProgram a raw => Sys2Proof.Machine.execRecoveryRawProgram a raw s
  | .drmTestWritePath pkg key path => Sys2Proof.Machine.execDrmTestWritePath pkg key path s
  | .drmTestRawRead pkg key on => Sys2Proof.Machine.execDrmTestRawRead pkg key on s
  | .registerWrite r unit v => Sys2Proof.Machine.execRegisterWrite r unit v s
  | .routeLoad tag sess handle first offset piece => Sys2Proof.Machine.execRouteLoad tag sess handle first offset piece s
  | .routeLoadExtent tag sess handle nsid lba blocks => Sys2Proof.Machine.execRouteLoadExtent tag sess handle nsid lba blocks s
  | .run tag sess handle block => Sys2Proof.Machine.execRun tag sess handle block s
  | .bind id => Sys2Proof.Machine.execBind id s
  | .bindComplete id e => Sys2Proof.Machine.execBindComplete id e s
  | .bindWaitExpiry id => Sys2Proof.Machine.execBindWaitExpiry id s
  | .passStart sess => Sys2Proof.Machine.execPassStart sess s
  | .runComplete sess => Sys2Proof.Machine.execRunComplete sess s
  | .opMatmul sess op => Sys2Proof.Machine.execOpMatmul sess op s
  | .opBmatmul sess op => Sys2Proof.Machine.execOpBmatmul sess op s
  | .opAdd sess op => Sys2Proof.Machine.execOpAdd sess op s
  | .opSub sess op => Sys2Proof.Machine.execOpSub sess op s
  | .opMul sess op => Sys2Proof.Machine.execOpMul sess op s
  | .opDiv sess op => Sys2Proof.Machine.execOpDiv sess op s
  | .opFma sess op => Sys2Proof.Machine.execOpFma sess op s
  | .opMax sess op => Sys2Proof.Machine.execOpMax sess op s
  | .opMin sess op => Sys2Proof.Machine.execOpMin sess op s
  | .opCmp sess op => Sys2Proof.Machine.execOpCmp sess op s
  | .opSelect sess op => Sys2Proof.Machine.execOpSelect sess op s
  | .opUnary sess op => Sys2Proof.Machine.execOpUnary sess op s
  | .opGated sess op => Sys2Proof.Machine.execOpGated sess op s
  | .opReduce sess op => Sys2Proof.Machine.execOpReduce sess op s
  | .opSoftmax sess op => Sys2Proof.Machine.execOpSoftmax sess op s
  | .opLayernorm sess op => Sys2Proof.Machine.execOpLayernorm sess op s
  | .opRmsnorm sess op => Sys2Proof.Machine.execOpRmsnorm sess op s
  | .opAttention sess op => Sys2Proof.Machine.execOpAttention sess op s
  | .opRope sess op => Sys2Proof.Machine.execOpRope sess op s
  | .opRotate sess op => Sys2Proof.Machine.execOpRotate sess op s
  | .opQuant sess op => Sys2Proof.Machine.execOpQuant sess op s
  | .opDequant sess op => Sys2Proof.Machine.execOpDequant sess op s
  | .opConvert sess op => Sys2Proof.Machine.execOpConvert sess op s
  | .opDist sess op => Sys2Proof.Machine.execOpDist sess op s
  | .opCodeDist sess op => Sys2Proof.Machine.execOpCodeDist sess op s
  | .opTopk sess op => Sys2Proof.Machine.execOpTopk sess op s
  | .opGather sess op => Sys2Proof.Machine.execOpGather sess op s
  | .opPut sess op => Sys2Proof.Machine.execOpPut sess op s
  | .opFilter sess op => Sys2Proof.Machine.execOpFilter sess op s
  | .opScanRead sess op => Sys2Proof.Machine.execOpScanRead sess op s
  | .opNsRead sess op => Sys2Proof.Machine.execOpNsRead sess op s
  | .opNsWrite sess op => Sys2Proof.Machine.execOpNsWrite sess op s
  | .opEmit sess op => Sys2Proof.Machine.execOpEmit sess op s
  | .opAccum sess op => Sys2Proof.Machine.execOpAccum sess op s
  | .stagedWriteEnterBuffer sess => Sys2Proof.Machine.execStagedWriteEnterBuffer sess s
  | .timetableResume sess => Sys2Proof.Machine.execTimetableResume sess s
  | .emitResume sess => Sys2Proof.Machine.execEmitResume sess s
  | .waitLapse coach ctx m => Sys2Proof.Machine.execWaitLapse coach ctx m s
  | .openReadLapse die stage => Sys2Proof.Machine.execOpenReadLapse die stage s
  | .scanReread id word landed => Sys2Proof.Machine.execScanReread id word landed s
  | .unitLeavesService o => Sys2Proof.Machine.execUnitLeavesService o s
  | .sessionOpen tag major data => Sys2Proof.Machine.execSessionOpen tag major data s
  | .sessionOpenReclaim tag major sess key => Sys2Proof.Machine.execSessionOpenReclaim tag major sess key s
  | .granuleZeroingComplete sess => Sys2Proof.Machine.execGranuleZeroingComplete sess s
  | .sessionCloseDrain tag sess => Sys2Proof.Machine.execSessionCloseDrain tag sess s
  | .sessionCloseAbort tag sess => Sys2Proof.Machine.execSessionCloseAbort tag sess s
  | .sessionFree sess => Sys2Proof.Machine.execSessionFree sess s
  | .quotaSet tag sess data => Sys2Proof.Machine.execQuotaSet tag sess data s
  | .quotaSetTeamsReplace sess => Sys2Proof.Machine.execQuotaSetTeamsReplace sess s
  | .sliceEnd part => Sys2Proof.Machine.execSliceEnd part s
  | .switchDeferLimit part => Sys2Proof.Machine.execSwitchDeferLimit part s
  | .partitionSwitch part => Sys2Proof.Machine.execPartitionSwitch part s
  | .switchRestoreComplete part => Sys2Proof.Machine.execSwitchRestoreComplete part s
  | .reclaimWindowExpiry sess => Sys2Proof.Machine.execReclaimWindowExpiry sess s
  | .query tag sess data => Sys2Proof.Machine.execQuery tag sess data s
  | .queryAdmit id => Sys2Proof.Machine.execQueryAdmit id s
  | .peerAnswerFetch id member r => Sys2Proof.Machine.execPeerAnswerFetch id member r s
  | .peerWaitExpiry id => Sys2Proof.Machine.execPeerWaitExpiry id s
  | .answerRecordComplete tree => Sys2Proof.Machine.execAnswerRecordComplete tree s
  | .indexBuild tag sess nsid discard => Sys2Proof.Machine.execIndexBuild tag sess nsid discard s
  | .buildEnd nsid b => Sys2Proof.Machine.execBuildEnd nsid b s
  | .indexSwitch tag sess nsid => Sys2Proof.Machine.execIndexSwitch tag sess nsid s
  | .generationSwitch nsid => Sys2Proof.Machine.execGenerationSwitch nsid s
  | .generationFree nsid gen => Sys2Proof.Machine.execGenerationFree nsid gen s
  | .codeLayerReload nsid gen => Sys2Proof.Machine.execCodeLayerReload nsid gen s
  | .peerSet tag data replies => Sys2Proof.Machine.execPeerSet tag data replies s
  | .scan tag sess data => Sys2Proof.Machine.execScan tag sess data s
  | .scanComplete id => Sys2Proof.Machine.execScanComplete id s
  | .fetch tag sess cls byId keep queryId after len => Sys2Proof.Machine.execFetch tag sess cls byId keep queryId after len s
  | .write tag nsid slba nlb prinfo fua data => Sys2Proof.Machine.execWrite tag nsid slba nlb prinfo fua data s
  | .writeLocate tag nsid slba nlb prinfo sgl data => Sys2Proof.Machine.execWriteLocate tag nsid slba nlb prinfo sgl data s
  | .writeCapRelease => Sys2Proof.Machine.execWriteCapRelease s
  | .read tag nsid slba nlb prinfo => Sys2Proof.Machine.execRead tag nsid slba nlb prinfo s
  | .readLocator tag nsid slba nlb prinfo bufLen loc decodes => Sys2Proof.Machine.execReadLocator tag nsid slba nlb prinfo bufLen loc decodes s
  | .flush tag nsid => Sys2Proof.Machine.execFlush tag nsid s
  | .writeZeroes tag nsid slba nlb prinfo => Sys2Proof.Machine.execWriteZeroes tag nsid slba nlb prinfo s
  | .datasetManagement tag nsid dealloc nr data => Sys2Proof.Machine.execDatasetManagement tag nsid dealloc nr data s
  | .leafLoadComplete ns leaf ok => Sys2Proof.Machine.execLeafLoadComplete ns leaf ok s
  | .gcCopy ns unit => Sys2Proof.Machine.execGcCopy ns unit s
  | .gcVerify ns unit ok => Sys2Proof.Machine.execGcVerify ns unit ok s
  | .superblockErase sb => Sys2Proof.Machine.execSuperblockErase sb s
  | .superblockCloseVerify sb rewrite lost => Sys2Proof.Machine.execSuperblockCloseVerify sb rewrite lost s
  | .patrolVerify pb v lost => Sys2Proof.Machine.execPatrolVerify pb v lost s
  | .journalMark clean => Sys2Proof.Machine.execJournalMark clean s
  | .mapRebuild sets => Sys2Proof.Machine.execMapRebuild sets s
  | .linkTrain locked => Sys2Proof.Machine.execLinkTrain locked s
  | .linkWidthTimeout => Sys2Proof.Machine.execLinkWidthTimeout s
  | .linkLoss => Sys2Proof.Machine.execLinkLoss s
  | .pluggableInsert watts => Sys2Proof.Machine.execPluggableInsert watts s
  | .pluggableRemove => Sys2Proof.Machine.execPluggableRemove s
  | .arpRequest target sender => Sys2Proof.Machine.execArpRequest target sender s
  | .neighbourDiscovery target sender => Sys2Proof.Machine.execNeighbourDiscovery target sender s
  | .icmpEcho v6 dest sender payload => Sys2Proof.Machine.execIcmpEcho v6 dest sender payload s
  | .frameDrop len => Sys2Proof.Machine.execFrameDrop len s
  | .icreq conn port hdgst ddgst => Sys2Proof.Machine.execIcreq conn port hdgst ddgst s
  | .tcpPduReceive conn digestOk len => Sys2Proof.Machine.execTcpPduReceive conn digestOk len s
  | .rdmaConnectRequest qp port => Sys2Proof.Machine.execRdmaConnectRequest qp port s
  | .cnpReceived qp => Sys2Proof.Machine.execCnpReceived qp s
  | .connect tag conn a => Sys2Proof.Machine.execConnect tag conn a s
  | .propertyGet tag offset => Sys2Proof.Machine.execPropertyGet tag offset s
  | .ccEnableClear tag => Sys2Proof.Machine.execCcEnableClear tag s
  | .ccShutdownNotification tag abrupt => Sys2Proof.Machine.execCcShutdownNotification tag abrupt s
  | .disconnect tag => Sys2Proof.Machine.execDisconnect tag s
  | .controllerEnd ctrl => Sys2Proof.Machine.execControllerEnd ctrl s
  | .keepAlive tag => Sys2Proof.Machine.execKeepAlive tag s
  | .keepAliveExpiry ctrl => Sys2Proof.Machine.execKeepAliveExpiry ctrl s
  | .peerKeepAliveSend => Sys2Proof.Machine.execPeerKeepAliveSend s
  | .identify tag cns nsid => Sys2Proof.Machine.execIdentify tag cns nsid s
  | .getLogPage tag lid nsid offset len rae => Sys2Proof.Machine.execGetLogPage tag lid nsid offset len rae s
  | .getLogPageEventLog tag offset len rae => Sys2Proof.Machine.execGetLogPageEventLog tag offset len rae s
  | .getLogPageHealth tag offset len rae => Sys2Proof.Machine.execGetLogPageHealth tag offset len rae s
  | .getLogPageFuses tag offset len rae => Sys2Proof.Machine.execGetLogPageFuses tag offset len rae s
  | .getLogPageTopology tag offset len rae => Sys2Proof.Machine.execGetLogPageTopology tag offset len rae s
  | .getLogPageTimetable tag lsp lsi offset len rae => Sys2Proof.Machine.execGetLogPageTimetable tag lsp lsi offset len rae s
  | .getFeatures tag fid sel => Sys2Proof.Machine.execGetFeatures tag fid sel s
  | .setFeatures tag fid sv dw11 => Sys2Proof.Machine.execSetFeatures tag fid sv dw11 s
  | .setFeaturesYoke tag sv dw11 => Sys2Proof.Machine.execSetFeaturesYoke tag sv dw11 s
  | .setFeaturesTimeSlice tag sv dw11 => Sys2Proof.Machine.execSetFeaturesTimeSlice tag sv dw11 s
  | .setFeaturesDirtyCap tag sv dw11 => Sys2Proof.Machine.execSetFeaturesDirtyCap tag sv dw11 s
  | .setFeaturesDeadlinePolicy tag sv dw11 => Sys2Proof.Machine.execSetFeaturesDeadlinePolicy tag sv dw11 s
  | .setFeaturesReclaimWindow tag sv dw11 => Sys2Proof.Machine.execSetFeaturesReclaimWindow tag sv dw11 s
  | .asyncEventRequest tag => Sys2Proof.Machine.execAsyncEventRequest tag s
  | .abort tag cid => Sys2Proof.Machine.execAbort tag cid s
  | .invalidOpcode tag admin opcode => Sys2Proof.Machine.execInvalidOpcode tag admin opcode s
  | .namespaceCreate tag flbas nsze ncap header => Sys2Proof.Machine.execNamespaceCreate tag flbas nsze ncap header s
  | .namespaceDelete tag nsid => Sys2Proof.Machine.execNamespaceDelete tag nsid s
  | .namespaceDeleteEffect nsid => Sys2Proof.Machine.execNamespaceDeleteEffect nsid s
  | .namespaceDeleteComplete nsid => Sys2Proof.Machine.execNamespaceDeleteComplete nsid s
  | .formatNvm tag nsid lbaf ses pi pil => Sys2Proof.Machine.execFormatNvm tag nsid lbaf ses pi pil s
  | .formatEffect nsid => Sys2Proof.Machine.execFormatEffect nsid s
  | .formatNvmFull tag => Sys2Proof.Machine.execFormatNvmFull tag s
  | .securitySetPassword tag data => Sys2Proof.Machine.execSecuritySetPassword tag data s
  | .securityLock tag data => Sys2Proof.Machine.execSecurityLock tag data s
  | .securityUnlock tag data => Sys2Proof.Machine.execSecurityUnlock tag data s
  | .securityReceiveLockState tag nsid alloc => Sys2Proof.Machine.execSecurityReceiveLockState tag nsid alloc s
  | .securityReceiveSessionKey tag sess alloc => Sys2Proof.Machine.execSecurityReceiveSessionKey tag sess alloc s
  | .spdmGetVersion tag => Sys2Proof.Machine.execSpdmGetVersion tag s
  | .spdmGetCapabilities tag => Sys2Proof.Machine.execSpdmGetCapabilities tag s
  | .spdmNegotiateAlgorithms tag => Sys2Proof.Machine.execSpdmNegotiateAlgorithms tag s
  | .spdmGetDigests tag => Sys2Proof.Machine.execSpdmGetDigests tag s
  | .spdmGetCertificate tag slot offset len => Sys2Proof.Machine.execSpdmGetCertificate tag slot offset len s
  | .spdmChallenge tag slot nonce => Sys2Proof.Machine.execSpdmChallenge tag slot nonce s
  | .spdmGetMeasurements tag index nonce => Sys2Proof.Machine.execSpdmGetMeasurements tag index nonce s
  | .bringUpStart => Sys2Proof.Machine.execBringUpStart s
  | .fuseRead fuses => Sys2Proof.Machine.execFuseRead fuses s
  | .configRecordRead => Sys2Proof.Machine.execConfigRecordRead s
  | .dramTraining failed => Sys2Proof.Machine.execDramTraining failed s
  | .dramFill => Sys2Proof.Machine.execDramFill s
  | .firmwareImageVerify signatureOk => Sys2Proof.Machine.execFirmwareImageVerify signatureOk s
  | .ownerChainCheck authOk => Sys2Proof.Machine.execOwnerChainCheck authOk s
  | .flashChannelTraining failed => Sys2Proof.Machine.execFlashChannelTraining failed s
  | .dieIdentification failed => Sys2Proof.Machine.execDieIdentification failed s
  | .portLaneTest failed => Sys2Proof.Machine.execPortLaneTest failed s
  | .coachSelfTest failedCoaches failedRouters failedLinks failedRing => Sys2Proof.Machine.execCoachSelfTest failedCoaches failedRouters failedLinks failedRing s
  | .topologyCheck => Sys2Proof.Machine.execTopologyCheck s
  | .mainFirmwareStart => Sys2Proof.Machine.execMainFirmwareStart s
  | .mediaScan => Sys2Proof.Machine.execMediaScan s
  | .mediaWork => Sys2Proof.Machine.execMediaWork s
  | .ready => Sys2Proof.Machine.execReady s
  | .bankMeasure => Sys2Proof.Machine.execBankMeasure s
  | .bankMeasureComplete cMeas => Sys2Proof.Machine.execBankMeasureComplete cMeas s
  | .bankChargeTimeout => Sys2Proof.Machine.execBankChargeTimeout s
  | .powerLoss => Sys2Proof.Machine.execPowerLoss s
  | .railFault osfp => Sys2Proof.Machine.execRailFault osfp s
  | .overvoltage => Sys2Proof.Machine.execOvervoltage s
  | .flushSequenceStart => Sys2Proof.Machine.execFlushSequenceStart s
  | .powerOff => Sys2Proof.Machine.execPowerOff s
  | .seatedOpen => Sys2Proof.Machine.execSeatedOpen s
  | .bankBleedSwitch => Sys2Proof.Machine.execBankBleedSwitch s
  | .thermalShutdown => Sys2Proof.Machine.execThermalShutdown s
  | .holdAssert => Sys2Proof.Machine.execHoldAssert s
  | .holdRelease => Sys2Proof.Machine.execHoldRelease s
  | .mailboxMessage sender receiver msg => Sys2Proof.Machine.execMailboxMessage sender receiver msg s
  | .componentRestart comp cause => Sys2Proof.Machine.execComponentRestart comp cause s
  | .componentRestartComplete comp keepOk => Sys2Proof.Machine.execComponentRestartComplete comp keepOk s
  | .mainWatchdogExpiry coreNo => Sys2Proof.Machine.execMainWatchdogExpiry coreNo s
  | .fallbackWatchdogExpiry coreNo => Sys2Proof.Machine.execFallbackWatchdogExpiry coreNo s
  | .errorRaise cls o => Sys2Proof.Machine.execErrorRaise cls o s
  | .errorHandle ended => Sys2Proof.Machine.execErrorHandle ended s
  | .fatalAction => Sys2Proof.Machine.execFatalAction s
  | .unitRetest pass => Sys2Proof.Machine.execUnitRetest pass s
  | .drbgReseed => Sys2Proof.Machine.execDrbgReseed s
  | .standbyRailOff => Sys2Proof.Machine.execStandbyRailOff s
  | .bankChargeComplete => Sys2Proof.Machine.execBankChargeComplete s
  | .holdupEnergyExhausted => Sys2Proof.Machine.execHoldupEnergyExhausted s
  | .peerConnectionLoss sess member => Sys2Proof.Machine.execPeerConnectionLoss sess member s
  | .rdmaAckTimeout qp => Sys2Proof.Machine.execRdmaAckTimeout qp s
  | .ecnMarkedPacket qp => Sys2Proof.Machine.execEcnMarkedPacket qp s
  | .pfcPauseFrame priority pause => Sys2Proof.Machine.execPfcPauseFrame priority pause s
  | .ccEnableSet tag => Sys2Proof.Machine.execCcEnableSet tag s
  | .configBusTransfer write addr len data => Sys2Proof.Machine.execConfigBusTransfer write addr len data s

end Sys2Proof.Machine
end

