-- ==== Sys2Proof/Safety.lean ====
section
/-! DEFINITION. What claims say of a run: a command that completes, a step that follows, and the properties of a state that no command
may break. -/

namespace Sys2Proof.Safety

open Sys2Proof.Machine

/-- A command answers a next state with a property. -/
def Completes (c : Instr) (s : State) (p : State → Prop) : Prop := ∃ t, exec c s = .next t ∧ p t

/-- A state that a step reaches. -/
def Steps (s t : State) : Prop := step s = .next t

/-- A run of steps. -/
inductive Reaches : State → State → Prop where
  | here (s : State) : Reaches s s
  | step (s t u : State) : Steps s t → Reaches t u → Reaches s u

/-- The stamp lies within its fields: 50 bits of stage, a core cycle up to 12,299 (R25, R29, R44). -/
def StampOk (s : State) : Prop := s.stg.stage ≤ stageMax ∧ s.stg.cycle ≤ 12299

/-- The trim word lies within its range (R47). -/
def TrimOk (s : State) : Prop := -250000 ≤ s.clk.trim ∧ s.clk.trim ≤ 250000

/-- Keys of a table strictly rising. -/
def KeysUp {α : Type} (t : Table α) : Prop := t.Pairwise fun a b => a.1 < b.1

/-- Memory in its canonical form: coach SRAM, DRAM data and check bytes and configuration memory list no address twice, none out of
order and none that holds what an unlisted one reads as; flash lists each programmed code word once, in order. -/
def MemoryOk (s : State) : Prop :=
  Tab.wf 0 s.coa.sram = true ∧ Tab.wf 0 s.drm.data = true ∧ Tab.wf 0 s.drm.check = true ∧ Tab.wf 0xFF s.boot.cfg = true ∧
    KeysUp s.fla.words

/-- A state that no command may leave: stamp and trim within their fields, memory canonical. -/
def Sound (s : State) : Prop := StampOk s ∧ TrimOk s ∧ MemoryOk s

/-- Bytes of a coach's SRAM were written from an address on, none past its end, and every other byte of every SRAM stands. -/
def SramWritten (s t : State) (coach addr : Nat) (bs : Bytes) : Prop :=
  ∀ a, Tab.get 0 t.coa.sram a =
    if sramKey coach addr ≤ a ∧ a < sramKey coach addr + min (sramBytes - addr) bs.length then bs.getD (a - sramKey coach addr) 0
    else Tab.get 0 s.coa.sram a

/-- The fabric delivers a carriage of a kind to a station: the station is clocked, the carriage is the oldest in flight of its source and
destination, CRC, kind, length, age and role are in order, no relay (R49, R81, R83, R86, R88, R89). -/
def Arrives (kind st : Nat) (c : Bytes) (s : State) : Prop :=
  s.stationRuns st = true ∧ s.oldestFlight st (wbSrc c) = some (st, c) ∧ wbCrcOk c = true ∧ wbKind c = kind ∧ kindAccepted st (wbSrc c) kind = true ∧ wbLength c ≤ 256 ∧
    wbRelayDir c ≠ 3 ∧ (s.stg.staleOff = true ∨ carriageStale (wbShort c) (s.stamp % 2 ^ 32) = false) ∧
    (st < 256 → wbRole c = s.roleStamp st ∧ s.coachOut st = false) ∧ wbRelayCount c = 0

/-- A state in which a carriage has left the fabric at a station. -/
def landed (st : Nat) (c : Bytes) (s : State) : State := { s with fab := { s.fab with flight := s.fab.flight.erase (st, c) } }

/-- A host command reaches its meaning: the port serves, the controller is enabled, and no diagnostic state, limp mode, clock-failed
state or pending format answers it (R385, R399, R452). -/
def Admits (tag : Tag) (c : Ctrl) (s : State) : Prop :=
  s.portServes = true ∧ s.ctrl? tag.ctrl = some c ∧ c.enabled = true ∧ s.boot.mode = .ready ∧ s.limpServes = false ∧ s.ns.formatPending = false

/-- A command of a session reaches its meaning: it is admitted and the session takes it (R216, R413). -/
def AdmitsSess (tag : Tag) (c : Ctrl) (n : Nat) (x : Session) (s : State) : Prop := Admits tag c s ∧ s.openSess c n = some x

/-- The parts of a state: one for each subsystem, the queues' completions, the event log and limp mode apart. -/
inductive Part where
  | free | stage | clock | coaches | fabric | dram | flash | media | power | port | queues | completions | namespaces | sessions | answers
  | faults | limp | log | security | boot
deriving DecidableEq, Repr

/-- Every part. -/
def allParts : List Part :=
  [.free, .stage, .clock, .coaches, .fabric, .dram, .flash, .media, .power, .port, .queues, .completions, .namespaces, .sessions, .answers,
    .faults, .limp, .log, .security, .boot]

/-- Two states agree in a part. The core cycle of the stamp, which every requester of a stamp advances, belongs to no part. -/
@[reducible] def Same (p : Part) (s t : State) : Prop :=
  match p with
  | .free => t.freeCtr = s.freeCtr
  | .stage => { t.stg with cycle := 0, ticks := 0 } = { s.stg with cycle := 0, ticks := 0 }
  | .clock => t.clk = s.clk
  | .coaches => t.coa = s.coa
  | .fabric => t.fab = s.fab
  | .dram => t.drm = s.drm
  | .flash => t.fla = s.fla
  | .media => t.xlt = s.xlt
  | .power => t.pwr = s.pwr
  | .port => t.port = s.port
  | .queues => { t.que with done := [], posted := [], errLog := [], mediaErrors := 0 } = { s.que with done := [], posted := [], errLog := [], mediaErrors := 0 }
  | .completions => (t.que.done, t.que.posted, t.que.errLog, t.que.mediaErrors) = (s.que.done, s.que.posted, s.que.errLog, s.que.mediaErrors)
  | .namespaces => t.ns = s.ns
  | .sessions => t.ses = s.ses
  | .answers => t.ans = s.ans
  | .faults =>
    { t.fwc with events := [], total := 0, early := [], limp := none } = { s.fwc with events := [], total := 0, early := [], limp := none }
  | .limp => t.fwc.limp = s.fwc.limp
  | .log => (t.fwc.events, t.fwc.total, t.fwc.early) = (s.fwc.events, s.fwc.total, s.fwc.early)
  | .security => t.sec = s.sec
  | .boot => t.boot = s.boot

/-- A state differs from another in the listed parts alone. -/
def Only (l : List Part) (s t : State) : Prop := ∀ p, p ∉ l → Same p s t

/-- The parts of the machine that a command may change: every other part is as it was before it. -/
def touches (c : Instr) : List Part :=
  match c with
  | .stageBoundary _ => [.free, .stage, .clock, .coaches, .fabric, .dram, .flash, .media, .power, .port, .queues, .completions, .namespaces, .sessions, .answers, .faults, .log]
  | .dieSenseComplete _ _ _ | .dirtyRecoveryStep _ _ | .gcVerify _ _ _ | .superblockCloseVerify _ _ _ => [.flash, .media, .faults, .log]
  | .dieProgramComplete _ _ => [.flash, .media, .power, .queues, .completions, .namespaces, .faults, .log]
  | .dieEraseComplete _ _ => [.flash, .media, .power, .queues, .completions, .faults, .log]
  | .syncMessage _ _ | .followUpMessage _ | .announceMessage _ | .delayRespMessage _ _ _ _ _ | .yokeHoldoverTimeout
    | .yokeSyncLossTimeout | .servoLockTimeout | .ptpFirstWaitExpiry => [.stage]
  | .delayReqSend | .linkTrain _ | .linkLoss | .pluggableRemove => [.stage, .port]
  | .yokeForwardJump _ => [.free, .stage, .clock, .coaches, .fabric, .dram, .flash, .media, .power, .port, .queues, .completions, .namespaces, .sessions, .answers, .faults, .log, .security]
  | .stampStart => [.stage, .flash, .media, .power, .queues, .completions, .faults, .log, .security, .boot]
  | .rootPllLock | .domainSwitch _ _ => [.clock]
  | .rootPllLoss => [.stage, .clock, .faults]
  | .pllRelockTryEnd _ => [.stage, .clock, .coaches, .dram, .flash, .media, .port, .queues, .completions, .sessions, .answers, .faults, .limp, .log]
  | .matrixInstruction _ _ _ _ | .stationarySwap _ _ | .transposedLoad _ _ _ | .vectorInstruction _ _ | .crossLaneSum _ _ _
    | .contextWake _ _ | .contextFree _ _ | .contextRestart _ _ | .roleWrite _ _ _ => [.coaches]
  | .sequencerIssue _ _ _ => [.coaches, .fabric, .dram, .port, .completions, .sessions, .answers, .faults, .log]
  | .carriageSend _ _ => [.coaches, .fabric, .sessions]
  | .carriageWrite _ _ | .carriageRead _ _ | .carriageSeat _ _ | .carriageSave _ _ => [.coaches, .fabric, .dram, .sessions, .log]
  | .carriageReply _ _ | .carriageWriteAck _ _ | .carriageControl _ _ | .carriageError _ _ => [.coaches, .fabric, .sessions, .log]
  | .carriageFill _ _ => [.coaches, .fabric, .flash, .sessions, .log]
  | .carriageAnswer _ _ => [.coaches, .fabric, .sessions, .answers, .log]
  | .dramScrub _ => [.dram, .log]
  | .fabDropFold _ => [.fabric, .faults]
  | .drmEccFold _ => [.dram, .faults]
  | .flaPgmodeService _ _ | .flaPgmodeRecovery _ _ | .flaPgmodeTest _ _ => [.flash]
  | .recoveryRawProgram _ _ => [.free, .flash, .media, .faults]
  | .drmTestWritePath _ _ _ | .drmTestRawRead _ _ _ => [.dram]
  | .registerWrite _ _ _ => [.clock, .coaches, .fabric, .dram, .flash]
  | .routeLoad _ _ _ _ _ _ | .granuleZeroingComplete _ | .sessionCloseDrain _ _ | .query _ _ _ | .scan _ _ _
    | .setFeaturesTimeSlice _ _ _ | .setFeaturesDeadlinePolicy _ _ _ | .setFeaturesReclaimWindow _ _ _ => [.completions, .sessions]
  | .routeLoadExtent _ _ _ _ _ _ | .bind _ => [.flash, .media, .completions, .sessions, .faults, .log]
  | .run _ _ _ _ | .bindComplete _ _ | .bindWaitExpiry _ => [.completions, .sessions, .faults]
  | .passStart _ | .sliceEnd _ | .switchDeferLimit _ | .partitionSwitch _ | .peerConnectionLoss _ _ => [.sessions]
  | .runComplete _ => [.free, .dram, .media, .completions, .sessions, .faults, .log]
  | .opMatmul _ _ | .opBmatmul _ _ | .opAdd _ _ | .opSub _ _ | .opMul _ _ | .opDiv _ _ | .opFma _ _ | .opMax _ _ | .opMin _ _
    | .opCmp _ _ | .opSelect _ _ | .opUnary _ _ | .opGated _ _ | .opReduce _ _ | .opSoftmax _ _ | .opLayernorm _ _
    | .opRmsnorm _ _ | .opAttention _ _ | .opRope _ _ | .opRotate _ _ | .opQuant _ _ | .opDequant _ _ | .opConvert _ _
    | .opDist _ _ | .opCodeDist _ _ | .opTopk _ _ | .opGather _ _ | .opPut _ _ | .opFilter _ _ | .opScanRead _ _ | .opNsRead _ _
    | .opAccum _ _ => [.free, .dram, .flash, .media, .sessions, .faults, .log]
  | .opNsWrite _ _ => [.free, .dram, .flash, .media, .queues, .completions, .sessions, .faults, .log]
  | .opEmit _ _ | .emitResume _ => [.free, .fabric, .dram, .flash, .media, .sessions, .answers, .faults, .log]
  | .stagedWriteEnterBuffer _ => [.media, .sessions, .log]
  | .timetableResume _ => [.sessions, .faults]
  | .waitLapse _ _ _ => [.coaches, .fabric, .sessions, .faults]
  | .openReadLapse _ _ => [.flash, .faults]
  | .scanReread _ _ _ => [.free, .flash, .media, .sessions, .faults, .log]
  | .unitLeavesService _ | .unitRetest _ => [.free, .coaches, .fabric, .dram, .flash, .media, .queues, .completions, .namespaces, .sessions, .faults, .log]
  | .sessionOpen _ _ _ => [.coaches, .dram, .completions, .sessions, .log, .security]
  | .sessionOpenReclaim _ _ _ _ => [.completions, .sessions, .log]
  | .sessionCloseAbort _ _ => [.coaches, .dram, .port, .completions, .namespaces, .sessions, .answers, .faults, .log]
  | .sessionFree _ => [.coaches, .dram, .flash, .port, .completions, .sessions, .answers, .log]
  | .quotaSet _ _ _ | .quotaSetTeamsReplace _ => [.free, .coaches, .dram, .flash, .completions, .sessions, .log]
  | .switchRestoreComplete _ => [.free, .coaches, .dram, .sessions, .log]
  | .reclaimWindowExpiry _ => [.coaches, .dram, .flash, .port, .completions, .namespaces, .sessions, .answers, .faults, .log]
  | .queryAdmit _ => [.coaches, .port, .sessions]
  | .peerAnswerFetch _ _ _ => [.port, .sessions]
  | .peerWaitExpiry _ | .answerRecordComplete _ => [.coaches, .dram, .port, .completions, .sessions, .answers, .faults, .log]
  | .indexBuild _ _ _ _ => [.completions, .namespaces, .sessions]
  | .buildEnd _ _ => [.free, .dram, .flash, .media, .namespaces, .sessions, .faults, .log]
  | .indexSwitch _ _ _ | .namespaceDelete _ _ | .namespaceDeleteComplete _ => [.completions, .namespaces]
  | .generationSwitch _ | .securityLock _ _ | .securityUnlock _ _ => [.flash, .media, .completions, .namespaces, .faults, .log]
  | .generationFree _ _ => [.namespaces]
  | .codeLayerReload _ _ => [.dram, .flash, .media, .namespaces, .faults, .log]
  | .peerSet _ _ _ => [.port, .completions, .sessions]
  | .scanComplete _ => [.free, .fabric, .dram, .sessions, .answers, .log]
  | .fetch _ _ _ _ _ _ _ _ | .connect _ _ _ | .keepAlive _ | .getLogPageEventLog _ _ _ _ | .getLogPageHealth _ _ _ _
    | .getLogPageFuses _ _ _ _ | .getLogPageTopology _ _ _ _ | .getLogPageTimetable _ _ _ _ _ _ | .asyncEventRequest _
    | .ccEnableSet _ => [.queues, .completions]
  | .write _ _ _ _ _ _ _ | .writeLocate _ _ _ _ _ _ _ => [.free, .media, .queues, .completions, .sessions, .log]
  | .writeCapRelease => [.media, .completions, .sessions, .log]
  | .read _ _ _ _ _ | .readLocator _ _ _ _ _ _ _ _ | .leafLoadComplete _ _ _ => [.free, .flash, .media, .completions, .faults, .log]
  | .flush _ _ => [.media, .completions]
  | .writeZeroes _ _ _ _ _ | .datasetManagement _ _ _ _ _ => [.free, .flash, .media, .queues, .completions, .sessions, .faults, .log]
  | .gcCopy _ _ | .ccShutdownNotification _ _ => [.flash, .media, .queues, .completions, .faults, .log]
  | .superblockErase _ => [.flash, .media, .log]
  | .patrolVerify _ _ _ => [.flash, .media, .namespaces, .faults, .log]
  | .journalMark _ => [.flash, .media, .completions, .faults, .log]
  | .mapRebuild _ => [.flash, .media, .namespaces, .faults, .log, .boot]
  | .linkWidthTimeout | .pluggableInsert _ | .arpRequest _ _ | .neighbourDiscovery _ _ | .icmpEcho _ _ _ _ | .frameDrop _
    | .icreq _ _ _ _ | .rdmaConnectRequest _ _ | .peerKeepAliveSend | .ecnMarkedPacket _ | .pfcPauseFrame _ _ => [.port]
  | .tcpPduReceive _ _ _ | .rdmaAckTimeout _ => [.media, .port, .queues, .completions, .namespaces, .sessions, .answers, .log, .security]
  | .cnpReceived _ => [.free, .port]
  | .propertyGet _ _ | .identify _ _ _ | .getFeatures _ _ _ => [.free, .completions]
  | .ccEnableClear _ | .disconnect _ | .controllerEnd _ | .keepAliveExpiry _ => [.media, .queues, .completions, .namespaces, .sessions, .answers, .log, .security]
  | .getLogPage _ _ _ _ _ _ => [.free, .queues, .completions]
  | .setFeatures _ _ _ _ => [.stage, .queues, .completions, .sessions]
  | .setFeaturesYoke _ _ _ => [.stage, .completions]
  | .setFeaturesDirtyCap _ _ _ | .invalidOpcode _ _ _ | .securityReceiveLockState _ _ _ | .securityReceiveSessionKey _ _ _ => [.completions]
  | .abort _ _ => [.coaches, .dram, .media, .port, .completions, .sessions, .answers, .faults, .log]
  | .namespaceCreate _ _ _ _ _ => [.queues, .completions, .namespaces, .security]
  | .namespaceDeleteEffect _ => [.coaches, .dram, .media, .port, .queues, .completions, .namespaces, .sessions, .answers, .faults, .log]
  | .formatNvm _ _ _ _ _ _ | .formatNvmFull _ => [.coaches, .dram, .flash, .media, .port, .queues, .completions, .namespaces, .sessions, .answers, .faults, .log]
  | .formatEffect _ => [.coaches, .dram, .media, .port, .queues, .completions, .namespaces, .sessions, .answers, .faults, .log, .security]
  | .securitySetPassword _ _ => [.flash, .media, .completions, .namespaces, .faults, .log, .security]
  | .spdmGetVersion _ | .spdmGetCapabilities _ | .spdmChallenge _ _ _ | .spdmGetMeasurements _ _ _ => [.port, .completions, .security]
  | .spdmNegotiateAlgorithms _ => [.free, .port, .completions, .security]
  | .spdmGetDigests _ | .spdmGetCertificate _ _ _ _ => [.port, .completions]
  | .bringUpStart | .powerOff | .holdRelease => allParts
  | .fuseRead _ => [.stage, .clock, .security, .boot]
  | .configRecordRead => [.free, .stage, .dram, .flash, .port, .sessions, .log, .boot]
  | .dramTraining _ => [.free, .dram, .log, .boot]
  | .dramFill => [.dram, .boot]
  | .firmwareImageVerify _ => [.stage, .port, .security, .boot]
  | .ownerChainCheck _ => [.stage, .log, .security, .boot]
  | .flashChannelTraining _ | .dieIdentification _ => [.free, .flash, .log, .boot]
  | .portLaneTest _ => [.free, .port, .log, .boot]
  | .coachSelfTest _ _ _ _ => [.free, .coaches, .fabric, .log, .boot]
  | .topologyCheck => [.dram, .flash, .media, .boot]
  | .mainFirmwareStart => [.dram, .namespaces, .boot]
  | .mediaScan => [.flash, .media, .boot]
  | .mediaWork => [.flash, .media, .completions, .faults, .log, .boot]
  | .ready => [.stage, .dram, .flash, .media, .queues, .completions, .sessions, .log, .security, .boot]
  | .bankMeasure | .bankChargeTimeout | .bankChargeComplete => [.media, .power, .queues, .completions]
  | .bankMeasureComplete _ => [.media, .power, .queues, .completions, .log]
  | .powerLoss | .overvoltage | .seatedOpen | .thermalShutdown | .holdAssert => [.clock, .flash, .media, .power, .completions, .sessions, .log]
  | .railFault _ => [.stage, .clock, .flash, .media, .power, .port, .completions, .sessions, .log]
  | .flushSequenceStart => [.flash, .media, .power, .completions, .faults, .log]
  | .bankBleedSwitch | .holdupEnergyExhausted => [.flash, .media, .power, .log]
  | .mailboxMessage _ _ _ | .errorRaise _ _ => [.faults]
  | .componentRestart _ _ | .mainWatchdogExpiry _ | .errorHandle _ => [.coaches, .dram, .flash, .media, .port, .queues, .completions, .namespaces, .sessions, .answers, .faults, .limp, .log]
  | .componentRestartComplete _ _ => [.flash, .media, .queues, .completions, .sessions, .faults, .limp, .log]
  | .fallbackWatchdogExpiry _ => [.coaches, .sessions, .faults, .log]
  | .fatalAction => [.free, .clock, .coaches, .fabric, .dram, .flash, .media, .power, .port, .queues, .completions, .namespaces, .sessions, .answers, .faults, .limp, .log]
  | .drbgReseed => [.security]
  | .standbyRailOff => [.power, .faults]
  | .configBusTransfer _ _ _ _ => [.boot]

end Sys2Proof.Safety
end

