-- ==== Sys2Proof/Certificates/Slice0/Obligations.lean ====
section
/-! DEFINITION. The statements for the provers: what each command does, what no command may break, what a step is. -/

open Sys2Proof Sys2Proof.Machine Sys2Proof.Safety

/-- A step takes the command at the front of the queue, and changes nothing on an empty queue. With the command c at the front of the queue a
step is exec of c on the state whose queue is the rest, whatever c and the state are. On an empty queue a step answers the same state:
time passes by the command STAGE_BOUNDARY alone. That commands wait in a queue, and that an empty one idles, is the form of the model, no
rule of the spec (log entry 4). (R2, R9, R10) -/
def Obligations.StepTakesFrontCommand : Prop :=
  (∀ (c : Instr) (rest : List Instr) (s : State), step { s with pending := c :: rest } = exec c { s with pending := rest }) ∧
    ∀ s : State, s.pending = [] → step s = .next s

/-- Every command answers a next state and leaves the queue of commands alone. From every state, exec of every command answers a next state,
no fault and no refusal, and the commands that wait behind it wait still. In particular a command whose condition does not hold ends no
run. That a command whose condition does not hold leaves the state is the model's choice (DESIGN CHOICE, log entry 1). (R2, R9) -/
def Obligations.EveryCommandAnswersAndKeepsQueue : Prop :=
  ∀ (c : Instr) (s : State), ∃ t, exec c s = .next t ∧ t.pending = s.pending

/-- The state after reset is sound. Right after reset the stamp and the trim word lie within their fields and every memory table is in its
canonical form: SRAM, DRAM data and check bytes, configuration memory and programmed flash words. (R25, R29, R47, R68, R191, R309, R455) -/
def Obligations.ResetIsSound : Prop := Sound State.reset

/-- Every step keeps the stamp, the trim word and the memories within their forms. If a state is sound and a step answers a next state, that
state is sound: the stage count does not exceed 2^50 − 1 and the core cycle 12,299; the trim word lies within −250,000 and 250,000; SRAM,
DRAM data, DRAM check bytes and configuration memory list addresses strictly rising and none at the value an unlisted one reads as; flash
lists each programmed code word once. (R25, R29, R44, R47, R68, R191, R309, R371, R455) -/
def Obligations.EveryStepKeepsSoundness : Prop :=
  ∀ s t : State, Sound s → step s = .next t → Sound t

/-- A command changes no part of the machine but those listed for it. From a sound state, every part of the machine that touches does not list
for the command is the same after it: the stage unit (its core cycle aside, which every request for a stamp advances), clock generator,
coaches, fabric, DRAM, flash array, translation and upkeep, power, port, queues with their controllers, the batch of completions,
namespaces, sessions, answer trees, the firmware complex's error queue and counters, the event log, the security core, bring-up's state,
and the model's own counter of free values. (R9) -/
def Obligations.CommandsTouchOnlyTheirParts : Prop :=
  ∀ (c : Instr) (s t : State), Sound s → exec c s = .next t → Only (touches c) s t

/-- The stage count moves only at a boundary, at the stamp start and at a forward jump. From a sound state, after any command the stage count
is what it was, unless the command is STAGE_BOUNDARY, which adds one or holds it at 2^50 − 1 (or leaves it, with the rails off);
YOKE_FORWARD_JUMP, which adds the jump and that boundary's one; STAMP_START, which loads it once; or POWER_OFF, BRING_UP_START or
HOLD_RELEASE, after which it either stands or is unloaded at 0. (R27, R36, R41, R44) -/
def Obligations.StageCountMovesOnlyAtBoundaries : Prop :=
  ∀ (c : Instr) (s t : State), Sound s → exec c s = .next t →
    match c with
    | .stageBoundary _ =>
      t.stg.loaded = s.stg.loaded ∧ t.stg.stage = if s.pwr.standby && s.pwr.rails then min stageMax (s.stg.stage + 1) else s.stg.stage
    | .yokeForwardJump _ =>
      (t.stg.stage = s.stg.stage ∨ ∃ n, s.stg.jump = some n ∧ t.stg.stage = min stageMax (s.stg.stage + n + 1)) ∧ t.stg.loaded = s.stg.loaded
    | .stampStart =>
      (t.stg.stage = s.stg.stage ∧ t.stg.loaded = s.stg.loaded) ∨
        (s.stg.loaded = false ∧ t.stg.loaded = true ∧ s.startValue = some t.stg.stage)
    | .powerOff | .bringUpStart | .holdRelease =>
      (t.stg.stage = s.stg.stage ∧ t.stg.loaded = s.stg.loaded) ∨ (t.stg.stage = 0 ∧ t.stg.loaded = false)
    | _ => t.stg.stage = s.stg.stage ∧ t.stg.loaded = s.stg.loaded

/-- No command restores a blown fuse. From a sound state, a fuse bit that is blown before a command is blown after it, whichever the command.
(R462) -/
def Obligations.BlownFusesStayBlown : Prop :=
  ∀ (c : Instr) (s t : State), Sound s → exec c s = .next t → ∀ k ∈ s.sec.fuses, k ∈ t.sec.fuses

/-- Nothing but a transfer on the configuration bus changes the configuration memory. From a sound state, every command but
CONFIG_BUS_TRANSFER leaves every byte of the configuration memory as it was; the transfer leaves every byte outside the written ones as it
was. (R445, R455) -/
def Obligations.OnlyTheConfigurationBusWritesConfigurationMemory : Prop :=
  ∀ (c : Instr) (s t : State), Sound s → exec c s = .next t →
    match c with
    | .configBusTransfer _ addr _ data =>
      ∀ a, a < addr ∨ addr + data.length ≤ a → Tab.get 0xFF t.boot.cfg a = Tab.get 0xFF s.boot.cfg a
    | _ => ∀ a, Tab.get 0xFF t.boot.cfg a = Tab.get 0xFF s.boot.cfg a

/-- Completions reach the port at a stage boundary and at no other time. From a sound state, every command but a stage boundary, a forward
jump (which is taken at one), POWER_OFF, BRING_UP_START and HOLD_RELEASE leaves the posted batch as it was; and the boundary of a machine
with its rails up and no power-loss sequence posts exactly the completions of the stage that ends. (R28, R433) -/
def Obligations.CompletionsArePostedOnlyAtBoundaries : Prop :=
  ∀ (c : Instr) (s t : State), Sound s → exec c s = .next t →
    match c with
    | .stageBoundary _ => s.powered = true → t.que.posted = s.que.done
    | .yokeForwardJump _ | .powerOff | .bringUpStart | .holdRelease => True
    | _ => t.que.posted = s.que.posted

/-- A Sync message of the best master moves the servo and hands its offset to the yoke; any other is dropped. SYNC_MESSAGE and
FOLLOW_UP_MESSAGE. A message of the domain, from the best master, with its log interval within −7 to 0, counts. A two-step one waits for
its Follow_Up; a one-step one, or the Follow_Up of the master and sequence awaited, is complete: the servo counts up to 16 consecutive
errors within ±1 ppm and up to 4 beyond it, locks at the 16th, unlocks at the 4th, keeps the measured error. The PTP time of the own
boundary, corrected by the path asymmetry, gives the PTP stage count nearest to it (time divided by 8,200 ns) and the offset, own boundary
minus the PTP boundary of the own count where the yoke counts with PTP, else of that nearest count (DEDUCED, log entry 13); the gap to the
own count and, before the stamp start, the PTP stage count are kept, and a lock within the wait of PTP_FIRST is noted; then the yoke's
table is read (YokeMovesBySyncMessages). A message that does not count, and a Follow_Up not awaited, change nothing. Each of these answers
a next state, the one stated, under conditions on state and operands alone: SYNC_MESSAGE, FOLLOW_UP_MESSAGE. (R31, R32, R388, R501) -/
def Obligations.SyncMessagesDriveTheServo : Prop :=
  ∀ (m : PtpSync) (s : State),
    let inside := decide (-1000 ≤ m.freqErr) && decide (m.freqErr ≤ 1000)
    let good := if inside then min 16 (s.stg.servoGood + 1) else 0
    let bad := if inside then 0 else min 4 (s.stg.servoBad + 1)
    let locked := if s.stg.servoLocked then decide (bad < 4) else good == 16
    let time := ((m.time : Int) + s.port.asymmetry).toNat
    let n := (time + 4100) / 8200
    let taken : State := yokeSync { s with stg := { s.stg with
      servoGood := good, servoBad := bad, freqErr := m.freqErr, servoLocked := locked
      offset := if s.stg.yoke.counts then (time : Int) - 8200 * (s.stg.stage : Int) else (time : Int) - 8200 * (n : Int), ptpGap := (n : Int) - (s.stg.stage : Int)
      ptpCount := if s.stg.loaded then none else some n
      lockedInWait := s.stg.lockedInWait || (locked && !s.stg.loaded && !s.stg.waitOver)
      silent := false, syncPending := none } }
    (s.syncCounts m = true →
      exec (.syncMessage m false) s = .next taken ∧
      exec (.syncMessage m true) s = .next { s with stg := { s.stg with syncPending := some (m.master, m.seq) } } ∧
      (s.stg.syncPending = some (m.master, m.seq) → exec (.followUpMessage m) s = .next taken) ∧
      (s.stg.syncPending ≠ some (m.master, m.seq) → exec (.followUpMessage m) s = .next s)) ∧
    (s.syncCounts m = false → ∀ b, exec (.syncMessage m b) s = .next s ∧ exec (.followUpMessage m) s = .next s)

/-- A Sync message meets the conditions of the yoke's table, and the change takes effect at the next boundary. Where a one-step Sync message
counts and no change awaits the next boundary, with off the measured offset and gap the PTP stage count minus the module's own: the state
stands until the boundary, and from it on DISABLED stays; FREE is ACQUIRING once the servo is locked after the stamp start; ACQUIRING, at
the 16th consecutive offset within ±500 ns, is BEHIND where the gap is negative, YOKED where it is 0, and else has a forward jump of the
gap decided, and stays before the 16th; YOKED is ACQUIRING at the 4th consecutive offset outside ±2,000 ns; HOLDOVER is YOKED within
±2,000 ns and FREE outside; BEHIND stays, with a jump decided where the gap is positive. At a boundary with the rails up the yoke takes
the state it is due. Each of these answers a next state, the one stated, under conditions on state and operands alone: STAGE_BOUNDARY,
SYNC_MESSAGE. (R33, R36) -/
def Obligations.YokeMovesBySyncMessages : Prop :=
  (∀ (m : PtpSync) (s : State), s.syncCounts m = true → s.stg.yokeNext = [] →
    let off := yokeOffset s.stg.yoke s.stg.stage (s.ptpBoundary m)
    let gap := (nearestStage (s.ptpBoundary m) : Int) - (s.stg.stage : Int)
    ∃ t, exec (.syncMessage m false) s = .next t ∧ t.stg.yoke = s.stg.yoke ∧
      (s.stg.yoke = .disabled → t.stg.yokeSoon = .disabled) ∧
      (s.stg.yoke = .free → t.stg.yokeSoon = if s.stg.loaded && t.stg.servoLocked then .acquiring else .free) ∧
      (s.stg.yoke = .acquiring →
        if -500 ≤ off ∧ off ≤ 500 then
          if s.stg.okRun < 15 then t.stg.yokeSoon = .acquiring ∧ t.stg.okRun = s.stg.okRun + 1 ∧ t.stg.jump = none
          else if gap < 0 then t.stg.yokeSoon = .behind
          else if gap = 0 then t.stg.yokeSoon = .yoked
          else t.stg.yokeSoon = .acquiring ∧ t.stg.jump = some gap.toNat
        else t.stg.yokeSoon = .acquiring ∧ t.stg.okRun = 0 ∧ t.stg.jump = none) ∧
      (s.stg.yoke = .yoked →
        if -2000 ≤ off ∧ off ≤ 2000 then t.stg.yokeSoon = .yoked ∧ t.stg.farRun = 0
        else if s.stg.farRun < 3 then t.stg.yokeSoon = .yoked ∧ t.stg.farRun = s.stg.farRun + 1
        else t.stg.yokeSoon = .acquiring) ∧
      (s.stg.yoke = .holdover → t.stg.yokeSoon = if -2000 ≤ off ∧ off ≤ 2000 then .yoked else .free) ∧
      (s.stg.yoke = .behind → t.stg.yokeSoon = .behind ∧ t.stg.jump = if 0 < gap then some gap.toNat else none)) ∧
  ∀ (smp : Samples) (s : State), Sound s → (s.pwr.standby && s.pwr.rails) = true →
    ∃ t, exec (.stageBoundary smp) s = .next t ∧ t.stg.yoke = s.stg.yokeSoon ∧ t.stg.yokeNext = []

/-- Announce and delay messages: the best master, the path delay, the interval of Delay_Req. ANNOUNCE_MESSAGE, DELAY_RESP_MESSAGE,
DELAY_REQ_SEND. An Announce of the domain is taken while the port is up: the first master, or the same master announcing anew, is kept; a
better one by the order of the algorithm replaces it and starts the servo's counts anew; a worse one changes nothing. A Delay_Resp of the
best master to the outstanding request gives the path delay and an interval never below −7. A Delay_Req leaves for the best master with
the next sequence and becomes the outstanding one. Each of these answers a next state, the one stated, under conditions on state and
operands alone: ANNOUNCE_MESSAGE, DELAY_RESP_MESSAGE, DELAY_REQ_SEND. (R31, R388, R501) -/
def Obligations.BestMasterAndDelayMessages : Prop :=
  (∀ (a : PtpAnnounce) (s : State), s.ptpTakes a.domain = true →
    (s.stg.master = none → exec (.announceMessage a) s = .next { s with stg := { s.stg with master := some a } }) ∧
    (∀ b, s.stg.master = some b →
      (a.identity = b.identity → exec (.announceMessage a) s = .next { s with stg := { s.stg with master := some a } }) ∧
      (a.identity ≠ b.identity → lexLt (announceKey a) (announceKey b) = true →
        exec (.announceMessage a) s = .next { s with stg := { s.stg with
          master := some a, servoGood := 0, servoBad := 0, syncPending := none, delayPending := none } }) ∧
      (a.identity ≠ b.identity → lexLt (announceKey a) (announceKey b) = false → exec (.announceMessage a) s = .next s))) ∧
  (∀ (a : PtpAnnounce) (s : State), a.domain ≠ s.stg.ptpDomain → exec (.announceMessage a) s = .next s) ∧
  (∀ (seq : Nat) (delay logInterval : Int) (a : PtpAnnounce) (s : State),
    s.servoRuns = true → s.stg.master = some a → s.stg.delayPending = some seq →
    exec (.delayRespMessage s.stg.ptpDomain a.identity seq delay logInterval) s =
      .next { s with stg := { s.stg with delayPending := none, pathDelay := delay, delayInterval := max (-7) logInterval } }) ∧
  (∀ s : State, s.servoRuns = true → s.stg.master.isSome = true →
    exec .delayReqSend s = .next { s with
      stg := { s.stg with delayPending := some s.stg.delaySeq, delaySeq := (s.stg.delaySeq + 1) % 65536 }
      port := { s.port with tx := s.port.tx ++ [.delayReq s.stg.delaySeq] } })

/-- Timeouts of the yoke, of the servo and of the wait of PTP_FIRST. YOKE_HOLDOVER_TIMEOUT, YOKE_SYNC_LOSS_TIMEOUT, SERVO_LOCK_TIMEOUT,
PTP_FIRST_WAIT_EXPIRY. In a running module four silent sync intervals make YOKED HOLDOVER at the next boundary; two silent seconds make
ACQUIRING, BEHIND and HOLDOVER FREE and unlock the servo with its counts at 0; a yoke in any other state stays; each notes that no Sync
message is there for the trim loop to follow. The wait of PTP_FIRST ends before the stamp start, in bring-up and in the diagnostic state,
after the port's first training pass, under policy 1. Each of these answers a next state, the one stated, under conditions on state and
operands alone: YOKE_HOLDOVER_TIMEOUT, YOKE_SYNC_LOSS_TIMEOUT, SERVO_LOCK_TIMEOUT, PTP_FIRST_WAIT_EXPIRY. (R33, R41, R46, R468, R501) -/
def Obligations.SilenceOfPtpMovesYokeAndServo : Prop :=
  ∀ s : State, s.powered = true →
    let quiet : State := { s with stg := { s.stg with silent := true } }
    (s.stg.yokeSoon = .yoked → ∃ t, exec .yokeHoldoverTimeout s = .next t ∧ t.stg.yoke = s.stg.yoke ∧ t.stg.yokeSoon = .holdover ∧ t.stg.silent = true) ∧
    (s.stg.yokeSoon ≠ .yoked → exec .yokeHoldoverTimeout s = .next quiet) ∧
    (s.stg.yokeSoon = .acquiring ∨ s.stg.yokeSoon = .behind ∨ s.stg.yokeSoon = .holdover →
      ∃ t, exec .yokeSyncLossTimeout s = .next t ∧ t.stg.yoke = s.stg.yoke ∧ t.stg.yokeSoon = .free ∧ t.stg.silent = true) ∧
    (s.stg.yokeSoon = .disabled ∨ s.stg.yokeSoon = .free ∨ s.stg.yokeSoon = .yoked → exec .yokeSyncLossTimeout s = .next quiet) ∧
    exec .servoLockTimeout s = .next { quiet with stg := { quiet.stg with servoLocked := false, servoGood := 0, servoBad := 0 } } ∧
    (s.boot.mode = .bringUp ∨ s.boot.mode = .diagnostic → s.port.passDone = true → s.stg.policy = 1 → s.stg.loaded = false →
      exec .ptpFirstWaitExpiry s = .next { s with stg := { s.stg with waitOver := true } })

/-- A change of the yoke's state is recorded with the stamp of its boundary and both states. The yoke's tick, by which a stage boundary lets a
change take effect that is due: after the stamp start the newest event of the log is then code 0x0002 under the stamp of the boundary that
starts the stage, with the old and the new state's codes in its first two detail bytes and the offset after them. STAGE_BOUNDARY with the
rails up: the yoke is in that state after it. The stamp of such an event is read from the rules (DEDUCED, log entry 13). Each of these
answers a next state, the one stated, under conditions on state and operands alone: STAGE_BOUNDARY. (R33, R488) -/
def Obligations.YokeChangesAreLoggedAndPosted : Prop :=
  ∀ (y : Yoke) (s : State), s.stg.loaded = true → s.stg.yokeNext = [y] → s.stg.yoke ≠ y →
    (s.yokeTick.stg.yoke = y ∧ s.yokeTick.stg.yokeNext = [] ∧ s.yokeTick.fwc.total = s.fwc.total + 1 ∧
      s.yokeTick.fwc.events.getLast? = some ⟨s.stg.stage * 16384, s.fwc.total + 1, 0x0002, 0, 6, ⟨0, 0⟩,
        fit 36 ([BitVec.ofNat 8 s.stg.yoke.code, BitVec.ofNat 8 y.code] ++ toLe 4 (unsigned 32 s.stg.offset))⟩) ∧
    ∀ smp, Sound s → (s.pwr.standby && s.pwr.rails) = true → ∃ u, exec (.stageBoundary smp) s = .next u ∧ u.stg.yoke = y

/-- STAGE_BOUNDARY counts, posts the batch, advances clock switches and moves the trim word by at most one unit. STAGE_BOUNDARY in a running
module answers a next state: the counter counts one stage and holds at 2^50 − 1; the completions of the stage that ends are the posted
batch; in each clock domain a switch asked for stops the domain for the stage that starts, one in progress restarts it on its new source,
and a domain with neither runs on; pending dividers are reset; the trim word moves by at most one unit and stays in its range, and without
a reference it stands. With the rails off a boundary is none. Each of these answers a next state, the one stated, under conditions on
state and operands alone: STAGE_BOUNDARY. (R27, R28, R34, R44, R46, R47, R48, R49, R52) -/
def Obligations.StageBoundaryCountsPostsAndTicksClocks : Prop :=
  ∀ (smp : Samples) (s : State), Sound s →
    (s.powered = true → ∃ t, exec (.stageBoundary smp) s = .next t ∧
      t.stg.stage = min (2 ^ 50 - 1) (s.stg.stage + 1) ∧ t.que.posted = s.que.done ∧
      (∀ p ∈ [(s.clk.core, t.clk.core), (s.clk.flash, t.clk.flash), (s.clk.dram, t.clk.dram)],
        (∀ r, p.1.target = none → p.1.want = some r → p.1.root ≠ r → p.2 = { root := p.1.root, target := some r, want := none }) ∧
        (∀ r, p.1.target = some r → p.1.want = none → p.2 = { root := r, target := none, want := none }) ∧
        (p.1.target = none → p.1.want = none → p.2 = p.1)) ∧
      t.clk.dividersPending = false ∧ s.clk.trim - 1 ≤ t.clk.trim ∧ t.clk.trim ≤ s.clk.trim + 1 ∧
      (s.stg.ptpTrim = false → s.stg.lineTrim = false → t.clk.trim = s.clk.trim)) ∧
    ((s.pwr.standby && s.pwr.rails) = false → exec (.stageBoundary smp) s = .next s)

/-- A forward jump sets the counter to the PTP stage count, moves every timetable with it and ends yoked. YOKE_FORWARD_JUMP in a running
module with a jump of n decided and no other change of the yoke due at the boundary: the counter moves by n before the boundary at which
the jump is taken counts one more; every session's timetables move by the same n; the yoke is then YOKED, and no carriage is stale in the
stage that begins. That waits counted in stages move along, and that the jump never passes 2^50 − 1, are the model's choices (DESIGN
CHOICE, log entry 14). Without a jump decided, and where another change of the yoke takes effect at that boundary, nothing happens. Each
of these answers a next state, the one stated, under conditions on state and operands alone: YOKE_FORWARD_JUMP. (R33, R36, R44, R89) -/
def Obligations.ForwardJumpTakesPtpStageCount : Prop :=
  ∀ (smp : Samples) (s : State), Sound s →
    (∀ n, s.stg.jump = some n → s.powered = true → s.stg.loaded = true → s.stg.yokeNext = [] →
      let m := min n (stageMax - s.stg.stage)
      (s.jumpBy n).stg.stage = s.stg.stage + m ∧ (s.jumpBy n).ses.list = s.ses.list.map (jumpSession m) ∧
      exec (.yokeForwardJump smp) s = .next (State.changeYoke { stageBoundary smp (s.jumpBy n) with
        stg := { (stageBoundary smp (s.jumpBy n)).stg with staleOff := true } } .yoked) ∧
      ∃ t, exec (.yokeForwardJump smp) s = .next t ∧ t.stg.stage = min stageMax (s.stg.stage + n + 1) ∧
        t.stg.yoke = .yoked ∧ t.stg.staleOff = true) ∧
    (s.stg.jump = none ∨ s.stg.yokeNext ≠ [] → exec (.yokeForwardJump smp) s = .next s)

/-- The stamp start loads a stage count above every page that reads clean and records it. STAMP_START once replay has ended and the counter is
not loaded: with policy 0 it takes H + 2^24 (held at 2^50 − 1), H being at least the stage count of every page that reads clean on a die
in service; with policy 1 and the servo locked within its wait it takes the PTP stage count where that lies above H; the module enters the
exhausted state at once from the threshold on; with no event held, the log's newest event is 0x0001 with the value and the policy. Each of
these answers a next state, the one stated, under conditions on state and operands alone: STAMP_START. (R41, R44, R468) -/
def Obligations.StampStartLoadsTheCounter : Prop :=
  ∀ s : State, Sound s → s.starting = true → s.boot.ph.replay = true → s.stg.loaded = false →
    (∀ e ∈ s.fla.words, e.2.undefined = false → e.2.void = false → e.2.raw = none → s.dieIn (pbDie (e.1 / 2048)) = true →
      stampStage e.2.stamp ≤ s.highest) ∧
    (∀ v, s.startValue = some v → ∃ t, exec .stampStart s = .next t ∧ t.stg.stage = v ∧ t.stg.loaded = true ∧
      t.stg.exhausted = decide (2 ^ 50 - 2 ^ 32 ≤ v) ∧
      (s.fwc.early = [] → ∃ e, t.fwc.events.getLast? = some e ∧ e.code = 0x0001 ∧ e.stamp = v * 16384 ∧
        e.detail = fit 36 (toLe 8 v ++ [BitVec.ofNat 8 s.stg.policy]))) ∧
    (s.stg.policy = 0 → s.startValue = some (min (2 ^ 50 - 1) (s.highest + 2 ^ 24))) ∧
    (s.stg.policy = 1 → s.stg.lockedInWait = true → ∀ p, s.stg.ptpCount = some p → s.highest < p → p ≤ 2 ^ 50 - 1 → s.startValue = some p)

/-- The root PLL locks, and a switch of a domain's source is asked for the next boundary. ROOT_PLL_LOCK and DOMAIN_SWITCH. After the fuses are
read, with no lock and no relock tries, the PLL locks and its dividers are reset at the next boundary. A domain that runs on the other
source, with no switch asked for, is to switch (to the root source only with a locked PLL whose dividers have been reset): it runs on
until the boundary that starts the stage it stops for (StageBoundaryCountsPostsAndTicksClocks), and the other domains are as they were.
Each of these answers a next state, the one stated, under conditions on state and operands alone: ROOT_PLL_LOCK, DOMAIN_SWITCH. (R48, R49,
R50) -/
def Obligations.RootPllLocksDomainsSwitch : Prop :=
  (∀ s : State, s.powered = true → s.boot.ph.fuses = true → s.clk.pllLocked = false → s.clk.relockTries = none → s.clk.failed = false →
    exec .rootPllLock s = .next { s with clk := { s.clk with pllLocked := true, dividersPending := true } }) ∧
  (∀ (toRoot : Bool) (s : State), s.powered = true → (toRoot = true → s.clk.pllLocked = true ∧ s.clk.dividersPending = false) →
    let now : DomainState := { root := !toRoot, target := none, want := none }
    let soon : DomainState := { root := !toRoot, target := none, want := some toRoot }
    (s.clk.core = now → exec (.domainSwitch .core toRoot) s = .next { s with clk := { s.clk with core := soon } }) ∧
    (s.clk.flash = now → exec (.domainSwitch .flash toRoot) s = .next { s with clk := { s.clk with flash := soon } }) ∧
    (s.clk.dram = now → exec (.domainSwitch .dram toRoot) s = .next { s with clk := { s.clk with dram := soon } }))

/-- Loss of the root PLL: a FATAL error, a stopped dispatcher, bypass, three tries; relocked is limp mode, failed the clock-failed state.
ROOT_PLL_LOSS and PLL_RELOCK_TRY_END, the latter from a sound state. A loss of lock raises a FATAL error of the clock, stops the
dispatcher, sends every domain to bypass from the next boundary and leaves three tries. A failed try with others left uses one up; a try
that relocks starts the dispatcher again, sends the domains back to the root source and is limp mode with cause 5; the last failed try is
the clock-failed state, which is no limp mode. During a power-loss sequence a try decides the lock alone. Each of these answers a next
state, the one stated, under conditions on state and operands alone: ROOT_PLL_LOSS, PLL_RELOCK_TRY_END. (R52, R476, R485, R502) -/
def Obligations.LossOfRootPllAndItsTries : Prop :=
  (∀ s : State, s.powered = true → s.clk.pllLocked = true →
    ∃ t, exec .rootPllLoss s = .next t ∧ t.clk.pllLocked = false ∧ (∀ d ∈ [t.clk.core, t.clk.flash, t.clk.dram], d.want = some false) ∧ t.clk.relockTries = some 3 ∧
      t.stg.stopped = true ∧ ((∃ e ∈ t.fwc.errq, e.cls = .fatal ∧ e.obj = ⟨12, 0⟩) ∨ ⟨12, 0⟩ ∈ t.fwc.direct)) ∧
  (∀ (n : Nat) (s : State), Sound s → s.clk.relockTries = some n → s.pwr.seq = .none →
    (2 ≤ n → exec (.pllRelockTryEnd false) s = .next { s with clk := { s.clk with relockTries := some (n - 1) } }) ∧
    (∃ t, exec (.pllRelockTryEnd true) s = .next t ∧ t.clk.pllLocked = true ∧ t.clk.relockTries = none ∧ (∀ d ∈ [t.clk.core, t.clk.flash, t.clk.dram], d.want = some true) ∧
      t.clk.dividersPending = true ∧ t.stg.stopped = false ∧ (s.fwc.limp = none → t.fwc.limp = some 5)) ∧
    (n ≤ 1 → ∃ t, exec (.pllRelockTryEnd false) s = .next t ∧ t.clk.failed = true ∧ t.clk.relockTries = none ∧ t.clk.pllLocked = s.clk.pllLocked ∧
      t.fwc.limp = s.fwc.limp)) ∧
  (∀ (n : Nat) (b : Bool) (s : State), s.clk.relockTries = some n → s.pwr.seq ≠ .none →
    exec (.pllRelockTryEnd b) s = .next { s with clk := { s.clk with relockTries := none, pllLocked := b } })

/-- A write of a named register keeps its reserved bits 0, saturates, acts or is ignored as the register says. REGISTER_WRITE in a running
module for a unit that has the register: STG_YOKE, PORT_LINK and PWR_BANK only report and stay; CLK_TRIM saturates its trim and takes SRC
but for 3; COA_ROLE, FAB_DROP, DRM_WIN, DRM_ECC, DRM_FILL and DRM_CHECKVAL read back what was written without reserved bits; DRM_SYND
takes the half named; FLA_PGMODE acts by its mode as the keyed commands do; DRM_TEST by its key. A unit that has no such register changes
nothing. That a write by any agent acts so is the model's reading of R9 (log entry 16). Each of these answers a next state, the one
stated, under conditions on state and operands alone: REGISTER_WRITE. (R9, R40, R47, R90, R91, R195, R321, R376, R380, R381, R386, R429) -/
def Obligations.RegisterWritesBehave : Prop :=
  ∀ (unit : Nat) (v : BitVec 32) (s : State), s.powered = true →
    (unit = 0 → exec (.registerWrite .stgYoke unit v) s = .next s ∧ exec (.registerWrite .portLink unit v) s = .next s ∧
      exec (.registerWrite .pwrBank unit v) s = .next s ∧
      exec (.registerWrite .clkTrim unit v) s = .next { s with clk := { s.clk with
        trim := max (-250000) (min 250000 (signed 20 v.toNat)), src := if bits v.toNat 21 20 = 3 then s.clk.src else bits v.toNat 21 20 } }) ∧
    (unit < 256 → exec (.registerWrite .coaRole unit v) s =
      .next { s with coa := { s.coa with role := Tab.set 0 s.coa.role unit (v &&& 0xCFFF) } }) ∧
    (unit < 287 → exec (.registerWrite .fabDrop unit v) s = .next { s with fab := { s.fab with drop := Tab.set 0 s.fab.drop unit v } }) ∧
    (unit < 192 → exec (.registerWrite .drmWin unit v) s =
      .next { s with drm := { s.drm with win := Tab.set 0 s.drm.win unit (v &&& 0xFFFFF800) } }) ∧
    (unit < 12 →
      exec (.registerWrite .drmEcc unit v) s = .next { s with drm := { s.drm with ecc := Tab.set 0 s.drm.ecc unit v } } ∧
      exec (.registerWrite .drmFill unit v) s = .next { s with drm := { s.drm with fill := Tab.set 0 s.drm.fill unit v } } ∧
      exec (.registerWrite .drmCheckval unit v) s =
        .next { s with drm := { s.drm with checkval := Tab.set 0 s.drm.checkval unit (v &&& 0xFFFFF) } }) ∧
    (unit < 24 → exec (.registerWrite .drmSynd unit v) s = .next { s with drm := { s.drm with synd := Tab.set 0 s.drm.synd (unit / 2) (if unit % 2 = 0 then (Tab.get 0 s.drm.synd (unit / 2)).extractLsb 63 32 ++ v else v ++ (Tab.get 0 s.drm.synd (unit / 2)).extractLsb 31 0) } }) ∧
    (unit < 16 →
      (v.toNat % 4 = 0 → exec (.registerWrite .flaPgmode unit v) s = exec (.flaPgmodeService unit (bits v.toNat 15 8)) s) ∧
      (v.toNat % 4 = 1 → exec (.registerWrite .flaPgmode unit v) s = exec (.flaPgmodeRecovery unit (bits v.toNat 15 8)) s) ∧
      (v.toNat % 4 = 2 → exec (.registerWrite .flaPgmode unit v) s = exec (.flaPgmodeTest unit (bits v.toNat 15 8)) s) ∧
      (v.toNat % 4 = 3 → exec (.registerWrite .flaPgmode unit v) s = .next s)) ∧
    (unit < 12 → bits v.toNat 15 8 = 0x5C → v.toNat % 4 ≠ 3 → bit v.toNat 3 = s.rawRead unit →
      exec (.registerWrite .drmTest unit v) s = exec (.drmTestWritePath unit 0x5C (v.toNat % 4)) s) ∧
    (∀ r, regUnits r ≤ unit → exec (.registerWrite r unit v) s = .next s)

/-- A transposed load fills the shadow set and dates its end; a swap exchanges the sets and waits for that end. TRANSPOSED_LOAD and
STATIONARY_SWAP on a coach that runs. The load of a tile in a weight format, asked for in cycle t, puts the tile, its scales and its
format into the shadow set and its entry is taken from the load queue; after a swap in cycle n it starts no earlier than n + 62 and a swap
to it is permitted no earlier than n + 128, both four times as far where one of the two sets that the swap exchanged runs at quarter rate,
and 66 cycles after its start. The swap makes the shadow set the active one, is dated at t or at the load's end where that is later, and
uses the load up. A tile in another format is not loaded. A swap with no tile loaded since the last one changes nothing: the spec does not
give such a swap, and that it does not take place is the model's choice (DEDUCED from R61's wait, log entry 17). Each of these answers a
next state, the one stated, under conditions on state and operands alone: STATIONARY_SWAP, TRANSPOSED_LOAD. (R58, R59, R60, R61, R62, R63,
R73) -/
def Obligations.CoachLoadsAndSwapsTiles : Prop :=
  (∀ (coach t : Nat) (l : TileLoad) (s : State), s.coachRuns coach = true →
    let f := Tab.get 1 s.coa.swapRate coach
    let start := match Tab.get 0 s.coa.lastSwap coach with | 0 => t | n + 1 => max t (n + 62 * f)
    let done := match Tab.get 0 s.coa.lastSwap coach with | 0 => start + 66 | n + 1 => max (start + 66) (n + 128 * f)
    let u := loadTile coach l s
    (isWeight l.fmt = true → exec (.transposedLoad coach t l) s =
      .next (takeQueue coach (.load l) { u with coa := { u.coa with loadEnd := Tab.set 0 u.coa.loadEnd coach (done + 1) } })) ∧
    (isWeight l.fmt = false → exec (.transposedLoad coach t l) s = .next s)) ∧
  (∀ (coach t e : Nat) (s : State), s.coachRuns coach = true → Tab.get 0 s.coa.loadEnd coach = e + 1 →
    exec (.stationarySwap coach t) s = .next { s with coa := { s.coa with
      active := Tab.set 0 s.coa.active coach (1 - Tab.get 0 s.coa.active coach)
      lastSwap := Tab.set 0 s.coa.lastSwap coach (max t e + 1)
      swapRate := Tab.set 1 s.coa.swapRate coach (if quarterRate (s.setFmt coach 0) || quarterRate (s.setFmt coach 1) then 4 else 1)
      loadEnd := Tab.set 0 s.coa.loadEnd coach 0 } }) ∧
  (∀ (coach t : Nat) (s : State), Tab.get 0 s.coa.loadEnd coach = 0 → exec (.stationarySwap coach t) s = .next s)

/-- A tile's codes and scales stand in the shadow set, each code in its row and column, and the active set stands. TRANSPOSED_LOAD of a tile
in a weight format on a coach that runs, whose registers and scales are listed in canonical form (premises on the two tables alone). After
it, register (row i, column j) of the shadow set holds code i of the line of column j, for all 64 rows and columns, the scale of column j
is the one the load names, and every register of the active set and of every other coach is as before. Each of these answers a next state,
the one stated, under conditions on state and operands alone: TRANSPOSED_LOAD. (R55, R58, R60, R63, R97) -/
def Obligations.TileColumnsLandInShadowSet : Prop :=
  ∀ (coach t : Nat) (l : TileLoad) (s : State), s.coachRuns coach = true → isWeight l.fmt = true → Tab.wf 0 s.coa.regs = true → Tab.wf 0 s.coa.scales = true →
    ∃ u, exec (.transposedLoad coach t l) s = .next u ∧
      (∀ i j, i < 64 → j < 64 →
        Tab.get 0 u.coa.regs (setKey coach (s.shadowSet coach) * 4096 + i * 64 + j) =
          BitVec.ofNat 16 (elemAt l.fmt (s.sramRead coach (l.base + elemBytes l.fmt 64 * j) (elemBytes l.fmt 64)) i) ∧
        Tab.get 0 u.coa.scales (setKey coach (s.shadowSet coach) * 64 + j) = loadScale s coach l j) ∧
      (∀ k, ¬(setKey coach (s.shadowSet coach) * 4096 ≤ k ∧ k < setKey coach (s.shadowSet coach) * 4096 + 4096) →
        Tab.get 0 u.coa.regs k = Tab.get 0 s.coa.regs k) ∧
      u.coa.sram = s.coa.sram ∧ u.coa.active = s.coa.active

/-- A vector instruction writes the 64 results of its lanes, a cross-lane sum one element, and nothing else of SRAM. VECTOR_INSTRUCTION and
CROSS_LANE_SUM from a sound state on a coach that runs: its entry is taken from the vector queue; each lane of the destination line is the
operation on that lane of the operands, read before anything is written; a conversion widens 64 elements of its source format and writes
them packed in its destination format; the sum is the chunk sum of the lanes in ascending order. Every other byte of every coach's SRAM
stands, and so does all else of the machine. The form of a comparison's lane is the model's choice (DESIGN CHOICE, log entry 18). Each of
these answers a next state, the one stated, under conditions on state and operands alone: VECTOR_INSTRUCTION, CROSS_LANE_SUM. (R66, R67,
R68, R73, R96, R102, R107, R109) -/
def Obligations.VectorUnitWritesItsLanes : Prop :=
  ∀ (coach : Nat) (s : State), Sound s → s.coachRuns coach = true →
    (∀ i : VecInstr, (∀ f g, i.op ≠ .convert f g) → ∃ t, exec (.vectorInstruction coach i) s = .next t ∧
      SramWritten s t coach i.dst ((List.range 64).flatMap fun k => toLe 4
        (vecLane i.op ((s.lanes coach i.a).getD k 0) ((s.lanes coach i.b).getD k 0) ((s.lanes coach i.c).getD k 0)).toNat) ∧
      t = { takeQueue coach (.vector i) s with coa := { (takeQueue coach (.vector i) s).coa with sram := t.coa.sram } }) ∧
    (∀ (i : VecInstr) (f g : Fmt), i.op = .convert f g → ∃ t, exec (.vectorInstruction coach i) s = .next t ∧
      SramWritten s t coach i.dst (packElems g ((List.range 64).map fun k =>
        encodeVal g (widen f (elemAt f (s.sramRead coach i.a (elemBytes f 64)) k)).val)) ∧
      t = { takeQueue coach (.vector i) s with coa := { (takeQueue coach (.vector i) s).coa with sram := t.coa.sram } }) ∧
    (∀ src dst, ∃ t, exec (.crossLaneSum coach src dst) s = .next t ∧
      SramWritten s t coach dst (toLe 4 (chunkSum (s.lanes coach src)).toNat) ∧
      t = { takeQueue coach (.laneSum src dst) s with coa := { (takeQueue coach (.laneSum src dst) s).coa with sram := t.coa.sram } })

/-- A matrix instruction loads, swaps and streams its tiles in order and counts its cycles; a row is rescaled and accumulated.
MATRIX_INSTRUCTION in the grid's formats on a coach that runs: unless it goes on where a preemption interrupted it, its entry is taken
from the grid queue; the tiles run in the order of issue from the vector due, each its load, unless one is loaded already, its swap and
its rows; the cycles up to the last row's result are counted, and where the vector named interrupts it the next vector is kept. A whole
tile ends 129 cycles after its last row has issued, at quarter rate four times as late. One row of one tile writes, for each of 64
columns, the chunk sum of the 64 products times the column's scale, added to the accumulator unless the chunk is the first without
ACC_INIT kept, and leaves every other byte of SRAM as it was. Other formats do not reach the grid. Each of these answers a next state, the
one stated, under conditions on state and operands alone: MATRIX_INSTRUCTION. (R54, R55, R56, R57, R62, R63, R64, R73, R76) -/
def Obligations.MatrixInstructionRunsItsTiles : Prop :=
  (∀ (coach t : Nat) (i : MatInstr) (upto : Option Nat) (s : State), s.coachRuns coach = true →
    let n := (i.k / 64) * (i.n / 64)
    let a := match Tab.get none s.coa.work coach with | some (j, v) => if j = i then v else 0 | none => 0
    let b := match upto with | some v => max a (min v (n * i.m)) | none => n * i.m
    let g := (i.tiles.take n).zipIdx.foldl (gridTile coach t i a b) ⟨if a = 0 then takeQueue coach (.matrix i) s else s, t, t⟩
    (isAct i.xFmt = true → (∀ l ∈ i.tiles, isWeight l.fmt = true) → exec (.matrixInstruction coach t i upto) s =
      .next { g.s with coa := { g.s.coa with
        gridCycles := Tab.set 0 g.s.coa.gridCycles coach (Tab.get 0 g.s.coa.gridCycles coach + (g.ends - t))
        work := Tab.set none g.s.coa.work coach (if b < n * i.m then some (i, b) else none) } }) ∧
    ((isAct i.xFmt = false ∨ ∃ l ∈ i.tiles, isWeight l.fmt = false) → exec (.matrixInstruction coach t i upto) s = .next s)) ∧
  (∀ (coach t : Nat) (i : MatInstr) (a b : Nat) (g : GridRun) (l : TileLoad) (p : Nat), 0 < i.m → a ≤ p * i.m → (p + 1) * i.m ≤ b →
    let rate := if quarterRate l.fmt then 4 else 1
    let u := if Tab.get 0 g.s.coa.loadEnd coach = 0 then startLoad coach t l g.s else g.s
    let swap := max g.free (Tab.get 0 u.coa.loadEnd coach - 1)
    (gridTile coach t i a b g (l, p)).free = swap + rate * i.m ∧ (gridTile coach t i a b g (l, p)).ends = swap + rate * (i.m + 129) ∧
      (gridTile coach t i a b g (l, p)).s = (List.range i.m).foldl (gridRow coach i (p / (i.n / 64)) (p % (i.n / 64))) (swapSets coach g.free u)) ∧
  (∀ (coach : Nat) (i : MatInstr) (chunk ct r : Nat) (s : State), Sound s →
    let set := s.activeSet coach
    let x := (List.range 64).map fun k => widen i.xFmt
      (elemAt i.xFmt (s.sramRead coach (i.xBase + r * i.xStride + chunk * elemBytes i.xFmt 64) (elemBytes i.xFmt 64)) k)
    let at_ := i.yBase + r * i.yStride + ct * 256
    let v := fun j => fmul (chunkSum ((x.zipIdx).map fun p => fmul p.1 (s.weight coach set p.2 j))) (s.colScale coach set j)
    let old := fun j => BitVec.ofNat 32 (field (s.sramRead coach (at_ + 4 * j) 4) 0 4)
    SramWritten s (gridRow coach i chunk ct s r) coach at_
      ((List.range 64).flatMap fun j => toLe 4 (if chunk = 0 ∧ i.accIn = false then v j else fadd (old j) (v j)).toNat))

/-- Contexts are freed, restarted and woken, and the sequencer issues from the context whose turn it is. CONTEXT_FREE, CONTEXT_RESTART,
CONTEXT_WAKE and SEQUENCER_ISSUE. Firmware frees a HALTED context or restarts it at READY with its fault gone; a WAITING one with no reply
outstanding, or one that waits for a place in a unit's queue that has room, becomes READY; contexts in other states stay. On a coach that
runs and whose session (if it has one) holds it, the sequencer issues from the first READY context after the last issuer, wrapping: the
turn passes on and the pc is kept; an instruction for a unit takes the last place in its queue where one is free (4 grid, 8 vector, 4
load, 16 send), else its context waits; one that awaits data makes it WAITING with its tag, replies and deadline, on a filled open read
the one that R170 gives; one of the sequencer's own writes the registers and stream descriptors it names; one that reaches a fault HALTS
it with the fault's code and the coach faults. With no READY context nothing happens. Each of these answers a next state, the one stated,
under conditions on state and operands alone: SEQUENCER_ISSUE, CONTEXT_WAKE, CONTEXT_FREE, CONTEXT_RESTART. (R72, R73, R74) -/
def Obligations.ContextsWaitWakeAndEnd : Prop :=
  (∀ (coach ctx : Nat) (s : State), s.powered = true →
    ((s.ctx coach ctx).st = .halted → exec (.contextFree coach ctx) s = .next (s.setCtx coach ctx {}) ∧
      exec (.contextRestart coach ctx) s =
        .next (s.setCtx coach ctx { s.ctx coach ctx with st := .ready, fault := 0, tag := 0, replies := 0, lapse := 0 })) ∧
    ((s.ctx coach ctx).st ≠ .halted → exec (.contextFree coach ctx) s = .next s ∧ exec (.contextRestart coach ctx) s = .next s) ∧
    ((s.ctx coach ctx).st = .waiting →
      ((s.ctx coach ctx).unit = none ∧ (s.ctx coach ctx).replies = 0 ∨
        ∃ q, (s.ctx coach ctx).unit = some q ∧ s.queued coach q < (match q with | .grid => 4 | .vector => 8 | .load => 4 | .send => 16)) →
      exec (.contextWake coach ctx) s = .next (s.setCtx coach ctx { s.ctx coach ctx with st := .ready, tag := 0, lapse := 0, unit := none }))) ∧
  (∀ (coach pc : Nat) (i : Issue) (s : State), s.coachRuns coach = true → (s.coachSess coach).all (fun n => (s.sess? n).any s.holds) = true →
    (s.nextReady coach = none → exec (.sequencerIssue coach pc i) s = .next s) ∧
    ∀ ctx, s.nextReady coach = some ctx →
      let turn : State := { s with coa := { s.coa with nextCtx := Tab.set 0 s.coa.nextCtx coach ((ctx + 1) % 64) } }
      let u := turn.setCtx coach ctx { turn.ctx coach ctx with pc := BitVec.ofNat 64 pc }
      (∀ tag replies lapse, exec (.sequencerIssue coach pc (.await tag replies lapse)) s =
        .next (u.setCtx coach ctx { u.ctx coach ctx with st := .waiting, tag := tag % 2 ^ 32, replies := replies, lapse := (u.fillLapse coach (tag % 2 ^ 32)).getD lapse, unit := none })) ∧
      (∀ gpr stream, exec (.sequencerIssue coach pc (.scalar gpr stream)) s = .next (u.setCtx coach ctx { u.ctx coach ctx with
        gpr := gpr.foldl (fun t e => Tab.set 0 t (e.1 % 32) e.2) (u.ctx coach ctx).gpr
        stream := stream.foldl (fun t e => Tab.set 0 t (e.1 % 8) e.2) (u.ctx coach ctx).stream })) ∧
      (∀ f, exec (.sequencerIssue coach pc (.fault f)) s =
        .next ((u.setCtx coach ctx { u.ctx coach ctx with st := .halted, fault := f % 256 }).faultCoach coach (f % 256))) ∧
      (∀ i : UnitInstr, let k := coach * 4 + (match i.unit with | .grid => 0 | .vector => 1 | .load => 2 | .send => 3)
        let l := Tab.get [] s.coa.queues k
        exec (.sequencerIssue coach pc (.toUnit i)) s =
          if l.length < (match i.unit with | .grid => 4 | .vector => 8 | .load => 4 | .send => 16) then
            .next { u with coa := { u.coa with queues := Tab.set [] u.coa.queues k (l ++ [i]) } }
          else .next (u.setCtx coach ctx { u.ctx coach ctx with st := .waiting, tag := 0, replies := 0, lapse := 0, unit := some i.unit })))

/-- A station sends a carriage stamped with its core cycle and route order, or the fabric refuses it at the source. CARRIAGE_SEND from a
station in service while the core domain runs; a coach's entry is taken from its send queue. To an assigned station, with a relay that
stays in the team row and a route, the carriage enters the fabric: waybill with destination, source, the low 32 bits of the stamp, role
(from a coach to a station other than a coach its own role stamp), kind, length, address, tag and flags (with the dimension order of the
pair), then its payload. A FILL and a coach's READ of DRAM are remembered under coach and tag. To an unassigned station, with a relay that
leaves the row, or with neither dimension order free of bad links, nothing is sent and a source coach's context halts with fault 1 (that
an unassigned station and a relay that leaves the row are answered so too is the model's choice, DESIGN CHOICE, log entry 71). Each of
these answers a next state, the one stated, under conditions on state and operands alone: CARRIAGE_SEND. (R77, R80, R81, R83, R84, R85,
R86) -/
def Obligations.CarriagesAreSentOrRefusedAtTheSource : Prop :=
  ∀ (src : Nat) (r : CarriageReq) (s : State), s.coreClock = true → src ≤ 286 → (src < 256 → s.coachOut src = false) →
    let u := if src < 256 then takeQueue src (.carriage r) s else s
    let role := if src < 256 ∧ 256 ≤ r.dst then s.roleStamp src else r.role
    let c := mkCarriage r.dst src (s.stamp % 2 ^ 32) role r.kind r.address r.tag
      (mkFlags r.relayCount r.relayDir r.ack r.last (s.routeOrder src r.dst)) r.payload
    (r.dst ≤ 286 ∧ relayLeaves r.dst r.relayCount r.relayDir = false ∧ s.routeOrder src r.dst ≠ 2 →
      ∃ t, exec (.carriageSend src r) s = .next t ∧ t.fab = { s.fab with flight := s.fab.flight ++ [(r.dst, c)] } ∧
        t.coa.queues = u.coa.queues ∧ t.coa.sram = s.coa.sram ∧ t.coa.ctxs = u.coa.ctxs ∧
        t.coa.fills = (if src < 256 ∧ r.kind = 6 then Tab.set [] s.coa.fills (src * 2 ^ 32 + r.tag % 2 ^ 32) r.payload else s.coa.fills) ∧
        t.coa.reads = (if src < 256 ∧ r.kind = 2 ∧ 256 ≤ r.dst ∧ r.dst < 268 then
          Tab.set [] s.coa.reads (src * 2 ^ 32 + r.tag % 2 ^ 32) (mkCarriage r.dst src 0 role 2 r.address r.tag 0 r.payload) else s.coa.reads)) ∧
    (286 < r.dst ∨ relayLeaves r.dst r.relayCount r.relayDir = true ∨ s.routeOrder src r.dst = 2 →
      exec (.carriageSend src r) s = .next (if src < 256 then haltContext src (tagCtx r.tag) 1 u else u))

/-- A carriage that arrives passes the checks in order; the first it fails drops it and counts it in that check's field. For each of the ten
kinds at a station whose domain runs, for the oldest carriage in flight of its source to that station: a bad waybill CRC counts in
FAB_DROP bits 31:24 (that such a carriage is the oldest in flight to the station, damaged on its way, is the model's reading, DEDUCED, log
entry 20); else a wrong or unaccepted kind, a length above 256 or a reserved relay direction in bits 7:0; else a stale stage in bits 15:8,
unless the check is off; else at a coach a role that is not the coach's in bits 23:16, with event 0x0004 naming the station and the
source. A dropped carriage is in flight no more and has no other effect. A carriage that is not the oldest of its pair, and any at a
stopped station, does not arrive yet. (R81, R86, R88, R89, R90) -/
def Obligations.CarriagesAreCheckedInOrderAndDropsCounted : Prop :=
  ∀ (st : Nat) (c : Bytes) (s : State), s.stationRuns st = true →
    ∀ p ∈ [(1, Instr.carriageWrite st c), (2, .carriageRead st c), (3, .carriageReply st c), (4, .carriageWriteAck st c), (5, .carriageSeat st c),
      (6, .carriageFill st c), (7, .carriageAnswer st c), (8, .carriageControl st c), (9, .carriageSave st c), (10, .carriageError st c)],
      let badKind : Prop := wbKind c ≠ p.1 ∨ kindAccepted st (wbSrc c) p.1 = false ∨ 256 < wbLength c ∨ wbRelayDir c = 3
      let stale : Prop := s.stg.staleOff = false ∧ carriageStale (wbShort c) (s.stamp % 2 ^ 32) = true
      (∀ d, wbCrcOk c = false → (s.fab.flight.find? fun e => e.1 == st) = some (st, d) → exec p.2 s = .next ((landed st d s).countDrop st 24)) ∧
      (wbCrcOk c = true → s.oldestFlight st (wbSrc c) ≠ some (st, c) → exec p.2 s = .next s) ∧
      (wbCrcOk c = true → s.oldestFlight st (wbSrc c) = some (st, c) →
      (badKind → exec p.2 s = .next ((landed st c s).countDrop st 0)) ∧
      (¬badKind → stale → exec p.2 s = .next ((landed st c s).countDrop st 8)) ∧
      (¬badKind → ¬stale → st < 256 → wbRole c ≠ s.roleStamp st →
        exec p.2 s = .next (((landed st c s).countDrop st 16).event 0x0004 0 0xFF ⟨1, st⟩ (toLe 2 st ++ toLe 2 (wbSrc c)))))

/-- WRITE, READ, REPLY, WRITE_ACK and SAVE have their effect at the station they arrive at. A carriage that arrives (Arrives: all checks
passed, no relay) in a sound state. WRITE at a coach puts its payload at ADDRESS (mod 2 MiB) and answers WRITE_ACK where asked; at a DRAM
station it writes the lines, or answers ERROR 1 outside the partition's window and ERROR 2 on a bus error. READ sends the bytes asked for
back in REPLY carriages, or the same ERRORs. REPLY puts its payload into SRAM and, with LAST, ends one awaited reply of the tag's context
and the outstanding read. WRITE_ACK with LAST does so for its context. SAVE puts its piece of 256 bytes or fewer at its offset into the
coach's record (SRAM, register sets, scale sets, contexts) or, at a DRAM station, into its lines, and answers ERROR 1 there for another
package's address. That its ADDRESS at a coach is the offset in the record is the model's choice (DESIGN CHOICE, log entry 19). Each of
these answers a next state, the one stated, under conditions on state and operands alone: CARRIAGE_WRITE, CARRIAGE_READ, CARRIAGE_REPLY,
CARRIAGE_WRITE_ACK, CARRIAGE_SAVE. (R68, R73, R81, R86, R87, R191, R231, R373, R374) -/
def Obligations.DataCarriagesDeliver : Prop :=
  ∀ (st : Nat) (c : Bytes) (s : State), Sound s →
    let u := landed st c s
    (Arrives 1 st c s →
      (st < 256 → ∃ v, SramWritten u v st (wbAddress c % 2097152) (wbPayload c) ∧ v = { u with coa := { u.coa with sram := v.coa.sram } } ∧
        exec (.carriageWrite st c) s = .next (if wbAck c then v.reply st (wbSrc c) (wbRole c) 4 0 (wbTag c) (wbLast c) [] else v)) ∧
      (256 ≤ st → windowRefuses st c (wbLength c) u = true → exec (.carriageWrite st c) s = .next (answerError st c 1 u)) ∧
      (256 ≤ st → windowRefuses st c (wbLength c) u = false → (dramWrite (wbSrc c) (wbAddress c) (wbPayload c) u).1 = false →
        exec (.carriageWrite st c) s = .next (answerError st c 2 (dramWrite (wbSrc c) (wbAddress c) (wbPayload c) u).2)) ∧
      (256 ≤ st → windowRefuses st c (wbLength c) u = false → (dramWrite (wbSrc c) (wbAddress c) (wbPayload c) u).1 = true →
        let v := (dramWrite (wbSrc c) (wbAddress c) (wbPayload c) u).2
        exec (.carriageWrite st c) s = .next (if wbAck c then v.reply st (wbSrc c) (wbRole c) 4 0 (wbTag c) (wbLast c) [] else v))) ∧
    (Arrives 2 st c s →
      let len := field (wbPayload c) 4 4 % 512
      let ret := field (wbPayload c) 0 4 % 2 ^ 21
      (st < 256 → len ≤ 256 →
        exec (.carriageRead st c) s = .next (u.reply st (wbSrc c) (wbRole c) 3 ret (wbTag c) true (u.sramRead st (wbAddress c % 2097152) len))) ∧
      (256 ≤ st → windowRefuses st c len u = true → exec (.carriageRead st c) s = .next (answerError st c 1 u)) ∧
      (256 ≤ st → windowRefuses st c len u = false → ∀ v, dramRead (wbSrc c) (wbAddress c) len u = (none, v) →
        exec (.carriageRead st c) s = .next (answerError st c 2 v)) ∧
      (256 ≤ st → windowRefuses st c len u = false → len ≤ 256 → ∀ bs v, dramRead (wbSrc c) (wbAddress c) len u = (some bs, v) →
        bs.length = len ∧ exec (.carriageRead st c) s = .next (v.reply st (wbSrc c) (wbRole c) 3 ret (wbTag c) true bs))) ∧
    (Arrives 3 st c s → st < 256 → ∃ v, SramWritten u v st (wbAddress c % 2097152) (wbPayload c) ∧ v = { u with coa := { u.coa with sram := v.coa.sram } } ∧
      exec (.carriageReply st c) s = .next (if wbLast c then wakeReply st (tagCtx (wbTag c)) (v.readDone st (wbTag c)) else v)) ∧
    (Arrives 4 st c s → st < 256 → exec (.carriageWriteAck st c) s = .next (if wbLast c then wakeReply st (tagCtx (wbTag c)) u else u)) ∧
    (Arrives 9 st c s →
      (st < 256 → exec (.carriageSave st c) s = .next { u with coa := u.coa.putPiece st (wbAddress c) (wbPayload c) }) ∧
      (256 ≤ st → st < 268 → packageRefuses st c (wbLength c) u = true → exec (.carriageSave st c) s = .next (answerError st c 1 u)) ∧
      (256 ≤ st → st < 268 → packageRefuses st c (wbLength c) u = false →
        exec (.carriageSave st c) s = .next (dramWrite (wbSrc c) (wbAddress c) (wbPayload c) u).2))

/-- SEAT, FILL, ANSWER, ERROR and CONTROL have their effect at the station they arrive at. A carriage that arrives (Arrives) in a sound state.
SEAT at a coach, not empty, puts its payload at ADDRESS and with LAST ends an awaited reply and the fill; a context that it wakes issues
again from the next stage on (R13). FILL from a coach of a session's partition, for a later stage, with a place of 4 KiB in SRAM at a
multiple of 64, of a die of the hub, a code word of a namespace that the session may read at the erase generation it names: where the
session's timetables reserve an open read on that die in that stage which is not filled yet, it is taken and adds that read, with the code
word, the place, tag, role and coach, and a context that waits on that tag lapses by the stage in which its data is due; where none is
reserved there but a read-out seat of its channel is left, it adds that; every other FILL without an open read or read-out seat reserved
is answered with an empty SEAT. ANSWER appends its items, in order, to the open list of its handle and ends it with LAST. ERROR halts the
context of its tag with fault 2 for code 2 and fault 1 else, and ends the outstanding read. CONTROL changes nothing but that it has left
the fabric: the spec gives its words no effect. That, and the fault of an ERROR code other than 2, are the model's (DESIGN CHOICE, log
entry 19). Each of these answers a next state, the one stated, under conditions on state and operands alone: CARRIAGE_SEAT, CARRIAGE_FILL,
CARRIAGE_ANSWER, CARRIAGE_CONTROL, CARRIAGE_ERROR. (R74, R81, R86, R161, R171, R184, R204, R206, R250, R298, R379) -/
def Obligations.SeatsFillsAnswersAndErrorsDeliver : Prop :=
  ∀ (st : Nat) (c : Bytes) (s : State), Sound s →
    let u := landed st c s
    (Arrives 5 st c s → st < 256 → wbLength c ≠ 0 →
      ∃ v, SramWritten u v st (wbAddress c % 2097152) (wbPayload c) ∧ v = { u with coa := { u.coa with sram := v.coa.sram } } ∧
        exec (.carriageSeat st c) s = .next (if wbLast c then
          wakeSeat st (tagCtx (wbTag c)) { v with coa := { v.coa with fills := Tab.set [] v.coa.fills (st * 2 ^ 32 + wbTag c) [] } } else v)) ∧
    (Arrives 6 st c s →
      (u.coachPart (wbSrc c) = none → exec (.carriageFill st c) s = .next (emptySeat st c u)) ∧
      ∀ part n x, u.coachPart (wbSrc c) = some part → u.coachSess (wbSrc c) = some n → u.sess? n = some x →
        let p := wbPayload c
        let w := fillWord p
        let stage := resStage s.stg.stage (field p 2 2)
        let dest := field p 8 4 % 2 ^ 21
        let sound := dest % 64 = 0 ∧ dest + 4095 < 2097152 ∧ s.stg.stage < stage ∧ hubOf w.die + 268 = st ∧ u.blockOf w (field p 15 1) = true ∧
          Tab.get 0 s.fla.gen (pbOf w) = field p 12 4 % 2 ^ 17 ∧ readQuota x (field p 15 1 + 1) = true
        (¬sound → exec (.carriageFill st c) s = .next (emptySeat st c u)) ∧
        (sound → reservedOpen x w.die stage = true →
          ((∀ o ∈ s.fla.openReads, ¬(o.part = part ∧ o.readOut = false ∧ o.die = w.die ∧ o.stage = stage)) → exec (.carriageFill st c) s =
            .next (({ u with fla := { u.fla with openReads := u.fla.openReads ++
              [{ part := part, die := w.die, stage := stage, readOut := false, fill := some (w, dest, wbTag c, wbRole c, wbSrc c) }] } } : State).setLapse (wbSrc c) (wbTag c))) ∧
          ((∃ o ∈ s.fla.openReads, o.part = part ∧ o.readOut = false ∧ o.die = w.die ∧ o.stage = stage) →
            exec (.carriageFill st c) s = .next (emptySeat st c u))) ∧
        (sound → reservedOpen x w.die stage = false →
          (s.fla.openReads.filter fun o => o.part == part && o.readOut && o.die == w.die / 16 * 16 && o.stage == stage).length <
            readOutSeats s.fla.tRead x (chanOf w.die) stage → exec (.carriageFill st c) s = .next (({ u with fla := { u.fla with openReads := u.fla.openReads ++
              [{ part := part, die := w.die / 16 * 16, stage := stage, readOut := true, fill := some (w, dest, wbTag c, wbRole c, wbSrc c) }] } } : State).setLapse (wbSrc c) (wbTag c))) ∧
        (reservedOpen x w.die stage = false → readOutSeats s.fla.tRead x (chanOf w.die) stage = 0 → exec (.carriageFill st c) s = .next (emptySeat st c u))) ∧
    (Arrives 7 st c s →
      let p := wbPayload c
      let items := (List.range (field p 8 2)).map fun i => (field p 4 4 + i, (⟨field p (16 + 16 * i) 8, BitVec.ofNat 32 (field p (24 + 16 * i) 4)⟩ : Item))
      ∃ t, exec (.carriageAnswer st c) s = .next t ∧ t.ans.trees.length = s.ans.trees.length ∧
        ∀ e ∈ t.ans.trees, ∃ e' ∈ s.ans.trees, e.1 = e'.1 ∧ e.2.lists.length = e'.2.lists.length ∧
          ∀ l ∈ e.2.lists, ∃ l' ∈ e'.2.lists, l.handle = l'.handle ∧
            (if l'.handle = field p 0 4 ∧ l'.ended = false then l.items = l'.items ++ items ∧ l.ended = wbLast c else l = l')) ∧
    (Arrives 10 st c s → st < 256 → exec (.carriageError st c) s =
      .next (haltContext st (tagCtx (wbTag c)) (field (wbPayload c) 0 4) (u.readDone st (wbTag c)))) ∧
    (Arrives 8 st c s → exec (.carriageControl st c) s = .next u)

/-- Firmware folds the drop and ECC counters into the health log and writes a team's role words. FAB_DROP_FOLD and DRM_ECC_FOLD, with firmware
running, add the register's fields to the counts of log page 0xD1 and clear the register. ROLE_WRITE writes COA_ROLE of all 16 coaches of
the team: assigned or not, partition, and a role stamp one higher modulo 256; coaches of other teams keep theirs (the table of role words
in canonical form, a premise). Each of these answers a next state, the one stated, under conditions on state and operands alone:
FAB_DROP_FOLD, DRM_ECC_FOLD, ROLE_WRITE. (R90, R91, R92, R376) -/
def Obligations.FirmwareFoldsCountersAndWritesRoles : Prop :=
  (∀ (st : Nat) (s : State), s.powered = true → s.boot.ph.firmware = true →
    let x := (Tab.get 0 s.fab.drop st).toNat
    ∃ t, exec (.fabDropFold st) s = .next t ∧ t.fab = { s.fab with drop := Tab.set 0 s.fab.drop st 0 } ∧
      t.fwc.health = { s.fwc.health with
        dropCrc := s.fwc.health.dropCrc + x / 2 ^ 24 % 256, dropRole := s.fwc.health.dropRole + x / 2 ^ 16 % 256
        dropStale := s.fwc.health.dropStale + x / 2 ^ 8 % 256, dropKind := s.fwc.health.dropKind + x % 256 }) ∧
  (∀ (pkg : Nat) (s : State), s.powered = true → s.boot.ph.firmware = true →
    let x := (Tab.get 0 s.drm.ecc pkg).toNat
    ∃ t, exec (.drmEccFold pkg) s = .next t ∧ t.drm = { s.drm with ecc := Tab.set 0 s.drm.ecc pkg 0 } ∧
      t.fwc.health = { s.fwc.health with
        dramCorrected := s.fwc.health.dramCorrected + x % 65536, dramPoison := s.fwc.health.dramPoison + x / 2 ^ 16 % 256
        dramUncorr := s.fwc.health.dramUncorr + x / 2 ^ 24 % 256 })
 ∧
  (∀ (team part : Nat) (assigned : Bool) (s : State), s.powered = true → team < 16 → Tab.wf 0 s.coa.role = true →
    ∃ t, exec (.roleWrite team assigned part) s = .next t ∧ t = { s with coa := { s.coa with role := t.coa.role } } ∧
      ∀ c, t.coaRole c =
        if c ∈ teamCoaches team then
          BitVec.ofNat 32 (((s.coaRole c).toNat / 32768 % 2) * 32768 + (if assigned then 16384 + part % 16 * 256 else 0) + ((s.coaRole c).toNat + 1) % 256)
        else s.coaRole c)

/-- The scrubber reads a line, writes back what it corrects, poisons what it cannot correct, and moves on. DRAM_SCRUB of a present package of
a filled DRAM whose domain runs, raw reads off. The next line of the package is read and the pointer moves to the one after it modulo
2^30, whatever the line holds. A line of clean code words is left as it is. With one code word that has a single wrong symbol and the
others clean, that symbol alone is put right in the line. With an uncorrectable code word (the others clean) the line is poisoned:
afterwards each of its check bytes is the complement of that of its data. Each of these answers a next state, the one stated, under
conditions on state and operands alone: DRAM_SCRUB. (R373, R376, R377, R378) -/
def Obligations.DramLinesAreScrubbed : Prop :=
  ∀ (pkg : Nat) (s : State), Sound s → s.dramClock = true → s.drm.present.contains pkg = true → s.boot.ph.filled = true → s.rawRead pkg = false → pkg < 12 →
    Tab.get 0 s.drm.scrub pkg < 2 ^ 30 →
    let line := pkg * 2 ^ 30 + Tab.get 0 s.drm.scrub pkg
    ∃ t, exec (.dramScrub pkg) s = .next t ∧
      t.drm.scrub = Tab.set 0 s.drm.scrub pkg ((Tab.get 0 s.drm.scrub pkg + 1) % 2 ^ 30) ∧
      ((∀ w, w < 4 → s.lineClass line w = .clean) → t.drm.data = s.drm.data ∧ t.drm.check = s.drm.check ∧ t.fwc = s.fwc) ∧
      (∀ w j e, w < 4 → s.lineClass line w = .corrected j e → (∀ v, v < 4 → v ≠ w → s.lineClass line v = .clean) →
        (∀ a, Tab.get 0 t.drm.data a =
          if 2 ≤ j ∧ a = line * 64 + 16 * w + (17 - j) then Tab.get 0 s.drm.data a ^^^ e else Tab.get 0 s.drm.data a) ∧
        (∀ a, Tab.get 0 t.drm.check a =
          if j < 2 ∧ a = line * 8 + 2 * w + (1 - j) then Tab.get 0 s.drm.check a ^^^ e else Tab.get 0 s.drm.check a)) ∧
      (∀ w, w < 4 → s.lineClass line w = .uncorrectable → (∀ v, v < 4 → v ≠ w → s.lineClass line v = .clean) →
        t.drm.data = s.drm.data ∧
        ∀ v, v < 4 → t.cwCheck line v = ((rsEncode (s.cwData line v)).1 ^^^ 0xFF, (rsEncode (s.cwData line v)).2 ^^^ 0xFF))

/-- A code word as written reads clean, with one wrong symbol it reads corrected at that symbol, and poison has its syndromes. For any sixteen
data bytes with their check bytes: the syndromes are (0, 0) and the class is clean; with one symbol of the eighteen (d0 to d15 at
positions 17 to 2, p0 at 1, p1 at 0) changed by a nonzero error, the class is corrected, with that position and that error; with both
check bytes complemented the syndromes are (0, 0x1C). (R372, R373, R377) -/
def Obligations.TheDramCodeCorrectsOneSymbol : Prop :=
  ∀ d : Bytes, d.length = 16 →
    let p := rsEncode d
    syndromes d p.1 p.2 = (0, 0) ∧
    syndromes d (p.1 ^^^ 0xFF) (p.2 ^^^ 0xFF) = (0, 0x1C) ∧
    ∀ e : Byte, e ≠ 0 → ∀ all,
      (let y := syndromes d p.1 (p.2 ^^^ e); classOf y.1 y.2 all = .corrected 0 e) ∧
      (let y := syndromes d (p.1 ^^^ e) p.2; classOf y.1 y.2 all = .corrected 1 e) ∧
      ∀ i, i < 16 → let y := syndromes (d.set i (d.getD i 0 ^^^ e)) p.1 p.2; classOf y.1 y.2 all = .corrected (17 - i) e

/-- DRM_TEST takes a raw read or a write path under its key alone, and only before ready or in the diagnostic state. A write with the key 0x5C
while the module is brought up or diagnosed turns raw reads on or off and leaves the path, or selects a path of 0 to 2 (3 leaves it) and
leaves raw reads. Without the key, and in every other mode, the register stays. Each of these answers a next state, the one stated, under
conditions on state and operands alone: DRM_TEST_WRITE_PATH, DRM_TEST_RAW_READ. (R381) -/
def Obligations.TheDramTestModeIsKeyed : Prop :=
  ∀ (pkg key path : Nat) (on : Bool) (s : State),
    let put := fun (raw : Bool) (p : Nat) =>
      ({ s with drm := { s.drm with test := Tab.set 0 s.drm.test pkg (BitVec.ofNat 32 ((if raw then 8 else 0) + p)) } } : State)
    (s.testOpen = true → key = 0x5C →
      exec (.drmTestRawRead pkg key on) s = .next (put on (s.drmTest pkg % 4)) ∧
      (path < 3 → exec (.drmTestWritePath pkg key path) s = .next (put (bit (s.drmTest pkg) 3) path)) ∧
      (path = 3 → exec (.drmTestWritePath pkg key path) s = .next (put (bit (s.drmTest pkg) 3) (s.drmTest pkg % 4)))) ∧
    (s.testOpen = false ∨ key ≠ 0x5C → exec (.drmTestRawRead pkg key on) s = .next s ∧ exec (.drmTestWritePath pkg key path) s = .next s)

/-- A sense fills the cache registers, a program that passes maps its units, one that fails retires its planes, an erase empties.
DIE_SENSE_COMPLETE, DIE_PROGRAM_COMPLETE and DIE_ERASE_COMPLETE, once the operation's last stage has come on a running array. The
operation has ended with each, and the die stays occupied to the end of its declared stages. A sense whose pages hold no unit that fails
its META checks changes the cache registers of its planes, which then hold block, page, the four code words and their classes, and the
first read that waits for it has it; nothing else. A host program (no shutdown or flush under way; map in canonical form, distinct units
in planes of the set, set numbers below the next one, premises) that passes on all planes names its page in the map entry of every unit it
carried and drops that version from the buffer; planes that fail are retired, and no version waits in the set any more; the set is over.
Outside a flush (which goes on to program at once) an erase leaves every code word of a plane block that passed unprogrammed and retires
the planes that failed. Before the last stage none of the three changes anything. That retired planes keep their words is read from the
rules (DEDUCED, log entry 22). Each of these answers a next state, the one stated, under conditions on state and operands alone:
DIE_SENSE_COMPLETE, DIE_PROGRAM_COMPLETE, DIE_ERASE_COMPLETE. (R307, R313, R317, R318, R320, R333, R335, R341, R342) -/
def Obligations.SensesProgramsAndErasesEnd : Prop :=
  ∀ (die : Nat) (s : State), s.arrayRuns = true →
    (∀ o, s.opOn die = some o → s.stg.stage + 1 < o.ends → ∀ a b,
      exec (.dieSenseComplete die a b) s = .next s ∧ exec (.dieProgramComplete die a) s = .next s ∧ exec (.dieEraseComplete die a) s = .next s) ∧
    (∀ o block page planes dirty erased, s.opOn die = some o → o.work = .sense block page planes →
      o.ends ≤ s.stg.stage + 1 → planes.Nodup → (∀ q ∈ planes, q < 4) →
      let cls := fun q => (List.range 4).map fun c => wordClass (s.word ⟨die, q, block, page, c⟩) (dirty.contains (q * 4 + c)) (erased.contains (q * 4 + c))
      (∀ q ∈ planes, s.badUnits die block page q (cls q) = []) →
      ∃ t, exec (.dieSenseComplete die dirty erased) s = .next t ∧
        t = { s with fla := { (s.endOp o).fla with cache := t.fla.cache }, xlt := { s.xlt with plain := dropSense (die, block, page, planes) s.xlt.plain } } ∧
        ∀ k, Tab.get ⟨0, 0, [], []⟩ t.fla.cache k =
          if k / 4 = die ∧ k % 4 ∈ planes then ⟨block, page, cls (k % 4), (List.range 4).map fun c => s.word ⟨die, k % 4, block, page, c⟩⟩
          else Tab.get ⟨0, 0, [], []⟩ s.fla.cache k) ∧
    (∀ o id failed p, s.opOn die = some o → o.work = .program id → o.ends ≤ s.stg.stage + 1 →
      (s.xlt.sets.find? fun p => p.id == id) = some p → p.stream ≤ 7 → s.pwr.seq ≠ .flush → s.xlt.shutdowns = [] → Tab.wf unmapped s.xlt.map = true →
      (p.units.map fun u => mapKey u.2.1 u.2.2).Nodup → p.units ≠ [] → (∀ u ∈ p.units, u.1 ∈ p.planes) → (∀ x ∈ s.xlt.sets, x.id < s.xlt.setId) →
      ∃ t, exec (.dieProgramComplete die failed) s = .next t ∧ (∀ x ∈ (s.endOp o).fla.ops, x ∈ t.fla.ops) ∧ (∀ x ∈ t.xlt.sets, x.id ≠ id) ∧
        ((∀ u ∈ p.units, u.1 ∉ failed) → ∀ u ∈ p.units, (∃ b ∈ s.xlt.buf, b.ns = u.2.1 ∧ b.unit = u.2.2 ∧ b.inSet = some id) →
          t.entry u.2.1 u.2.2 = mkEntry p.stamp u.1 (ppa p.die p.block p.page) ∧
          ∀ b ∈ t.xlt.buf, ¬(b.ns = u.2.1 ∧ b.unit = u.2.2 ∧ b.inSet = some id)) ∧
        (∀ u ∈ p.units, u.1 ∈ failed → pbKey p.die u.1 p.block ∈ t.fla.retired ∧ ∀ b ∈ t.xlt.buf, b.inSet ≠ some id)) ∧
    (∀ o block planes failed, s.opOn die = some o → o.work = .erase block planes → o.ends ≤ s.stg.stage + 1 → s.pwr.seq ≠ .flush →
      ∃ t, exec (.dieEraseComplete die failed) s = .next t ∧ (∀ x ∈ (s.endOp o).fla.ops, x ∈ t.fla.ops) ∧
        ∀ q ∈ planes, (q ∈ failed → pbKey die q block ∈ t.fla.retired) ∧
          (q ∉ failed → ∀ page cw, page < 512 → cw < 4 → t.word ⟨die, q, block, page, cw⟩ = {}))

/-- A DIRTY code word goes through hard retries and soft decodes to its rebuild; raw programs lower bits; unfilled open reads lapse.
DIRTY_RECOVERY_STEP on the hub's first word under recovery waits for the senses of its step, each queued on the die and counted among the
block's reads, and until the raw read-outs of the step pass in free seats; the first decode takes a sense where the cache register no
longer holds the page. A decode that succeeds ends it, the word enters the hub's correction cache, and from step 2 on its block heads the
patrol queue; one that fails goes to the next step that the chip has (retry senses one by one, then soft senses), and after the last the
word is rebuilt or its unit lost. FLA_PGMODE under its key, and only before ready or in the diagnostic state: TEST is taken at once;
SERVICE and RECOVERY at once where TEST has programmed no block of the hub, and else wait for the erases of those blocks, which are
queued. A raw program in RECOVERY puts the 4,608 bytes into a code word of a die in service, and nothing where a bit would rise; in TEST
it always does, and the block is noted to be erased; cells that a TEST program would raise are open; each is queued for its die as an
array program. An open die read of a session that none has filled by the end of its stage lapses: its reservation is used up and the seat
counted. Each of these answers a next state, the one stated, under conditions on state and operands alone: DIRTY_RECOVERY_STEP,
FLA_PGMODE_SERVICE, FLA_PGMODE_RECOVERY, FLA_PGMODE_TEST, RECOVERY_RAW_PROGRAM, OPEN_READ_LAPSE. (R14, R187, R314, R315, R316, R321, R322,
R323) -/
def Obligations.DirtyWordsAreRecoveredStepByStep : Prop :=
  (∀ (hub key : Nat) (s : State), s.powered = true → hub < 16 →
    (s.boot.mode = .bringUp ∨ s.boot.mode = .diagnostic → key = 0xA5 →
      let waits : Prop := ∃ pb ∈ s.fla.testBlocks, hubOf (pbDie pb) = hub
      let taken := fun (t : State) (mode : Nat) => t.fla.testBlocks = s.fla.testBlocks ∧ t.fla.words = s.fla.words ∧
        (¬waits → t.fla.pgmode = Tab.set 0 s.fla.pgmode hub mode ∧ t.fla.ops = s.fla.ops) ∧
        (waits → t.fla.pgmode = s.fla.pgmode ∧ Tab.get 0 t.fla.pgWish hub = mode + 1 ∧
          ∀ pb ∈ s.fla.testBlocks, hubOf (pbDie pb) = hub → ∃ o ∈ t.fla.ops, o.die = pbDie pb ∧ o.ended = false ∧ ∃ qs, o.work = .erase (pbBlock pb) qs ∧ pbPlane pb ∈ qs)
      (∃ t, exec (.flaPgmodeService hub key) s = .next t ∧ (Tab.wf 0 s.fla.pgWish = true → taken t 0)) ∧
      (∃ t, exec (.flaPgmodeRecovery hub key) s = .next t ∧ (Tab.wf 0 s.fla.pgWish = true → taken t 1)) ∧
      exec (.flaPgmodeTest hub key) s =
        .next { s with fla := { s.fla with pgmode := Tab.set 0 s.fla.pgmode hub 2, pgWish := Tab.set 0 s.fla.pgWish hub 0 } }) ∧
    (s.boot.mode ≠ .bringUp ∧ s.boot.mode ≠ .diagnostic ∨ key ≠ 0xA5 →
      exec (.flaPgmodeService hub key) s = .next s ∧ exec (.flaPgmodeRecovery hub key) s = .next s ∧ exec (.flaPgmodeTest hub key) s = .next s)) ∧
  (∀ (hub : Nat) (r : Recovery) (s : State), s.flashClock = true → (s.fla.recov.find? fun r => hubOf r.word.die == hub) = some r →
    let others := s.fla.recov.filter fun x => x.word != r.word
    let u : State := { s with fla := { s.fla with recov := others } }
    let next := fun (r' : Recovery) (n : Nat) => (({ s with fla := { s.fla with recov := { r' with left := none } :: others } } : State).resense r.word n)
    let due : Prop := s.sensing r.word = false ∧ ∃ n, r.left = some n ∧ n ≤ s.seatsLeft (chanOf r.word.die) s.stg.stage
    (¬due → ∀ ok, exec (.dirtyRecoveryStep hub ok) s = .next s) ∧
    (due → r.step = 1 → s.cached r.word = none → ∀ ok, exec (.dirtyRecoveryStep hub ok) s = .next (next r 1)) ∧
    (due → r.step ≠ 1 ∨ s.cached r.word ≠ none →
      exec (.dirtyRecoveryStep hub true) s =
        .next (if 2 ≤ r.step then (u.keepCorrected r.word).patrolFirst (pbOf r.word) else u.keepCorrected r.word) ∧
      exec (.dirtyRecoveryStep hub false) s = .next (
        if r.step = 1 ∧ s.fla.retrySenses ≠ 0 then next { r with step := 2, tries := 0 } 1
        else if r.step = 2 ∧ r.tries + 1 < s.fla.retrySenses then next { r with tries := r.tries + 1 } 1
        else if (r.step = 1 ∨ r.step = 2) ∧ s.fla.softSenses ≠ 0 then next { r with step := 3, tries := 0 } s.fla.softSenses
        else u.uncorrectable r.word))) ∧
  (∀ (w : CwAddr) (n : Nat) (s : State), s.resense w 0 = s ∧
    s.resense w (n + 1) = ((s.queueOp w.die (.sense w.block w.page [w.plane]) s.fla.tRead).countSenses (pbOf w) 1).resense w n) ∧
  (∀ (a : CwAddr) (raw : Bytes) (s : State), s.flashClock = true → s.dieIn a.die = true → a.plane < 4 → a.block < 4096 → a.page < 512 → a.cw < 4 →
    let mode := Tab.get 0 s.fla.pgmode (hubOf a.die)
    let new := fit 4608 raw
    let put := fun (t : State) (b : Bytes) => ({ t with fla := { t.fla with words := Tab.put s.fla.words (cwKey a) { s.word a with raw := some (trim b), void := isMarked b } } } : State)
    let noted := fun t : State => ({ t with fla := { t.fla with testBlocks := insertNat (pbOf a) t.fla.testBlocks } } : State)
    (mode = 1 → raisesBit (rawWord s.fla.words a) new = true → exec (.recoveryRawProgram a raw) s = .next s) ∧
    (mode = 1 → raisesBit (rawWord s.fla.words a) new = false →
      let u := (((put s new).queueSense a.die a.block a.page [a.plane]).freeSeats (chanOf a.die) 4).queueOp a.die (.program 0) s.fla.tProg
      ∃ t, exec (.recoveryRawProgram a raw) s = .next t ∧ t.fla.words = u.fla.words ∧ t.fla.ops = u.fla.ops ∧ t.xlt = u.xlt ∧
        (pbOf a ∈ t.fla.retireMarked ↔ pbOf a ∈ s.fla.retireMarked ∨ (isRetireMark new = true ∧ a.page = 0 ∧ a.cw = 0))) ∧
    (mode = 2 → raisesBit (rawWord s.fla.words a) new = false → exec (.recoveryRawProgram a raw) s =
      .next (noted (((put s new).freeSeats (chanOf a.die) 2).queueOp a.die (.program 0) s.fla.tProg))) ∧
    (mode = 2 → raisesBit (rawWord s.fla.words a) new = true → ∀ f v, s.drawBytes 4608 = (f, v) → exec (.recoveryRawProgram a raw) s =
      .next (noted (((put v f).freeSeats (chanOf a.die) 2).queueOp a.die (.program 0) s.fla.tProg))) ∧
    (mode ≠ 1 → mode ≠ 2 → exec (.recoveryRawProgram a raw) s = .next s)) ∧
  (∀ (die part : Nat) (x : Session) (s : State), s.powered = true → s.openOwner die s.stg.stage = some (part, x) →
    (∀ o ∈ s.fla.openReads, o.die = die → o.stage = s.stg.stage → o.readOut = true) →
    ∃ t, exec (.openReadLapse die s.stg.stage) s = .next t ∧
      t.fla = { s.fla with openReads := s.fla.openReads ++ [{ part := part, die := die, stage := s.stg.stage, readOut := false, fill := none }] } ∧
      t.fwc.tt = { s.fwc.tt with seatsLapsed := s.fwc.tt.seatsLapsed + 1 })

/-- An operation whose turn has come reads its operands, delivers its results once and hands on to the next. The 32 operations of the
catalogue that compute from their operands, for a run that executes and has the operation next with its opcode, after the blocks of its
stream group are in place (enterGroup; no fault met there). A fault that its reads meet ends the run at this operation. Otherwise, where
SKIP does not leave it out, the result its function gives on the operands is converted and written, and the next operation is due or the
pass ends; where the function is not defined on the operands (an unchecked host error) or an operand is unknown, every result is free
bytes and the run goes on all the same. An operation that SKIP leaves out sets flag 0 and hands on. An operation whose turn has not come
changes nothing. Which operands count as an unchecked host error beyond the spec's list is the model's reading (DEDUCED, log entry 29),
and free bytes are those of log entry 3. Each of these answers a next state, the one stated, under conditions on state and operands alone:
OP_MATMUL, OP_BMATMUL, OP_ADD, OP_SUB, OP_MUL, OP_DIV, OP_FMA, OP_MAX, OP_MIN, OP_CMP, OP_SELECT, OP_UNARY, OP_GATED, OP_REDUCE,
OP_SOFTMAX, OP_LAYERNORM, OP_RMSNORM, OP_ATTENTION, OP_ROPE, OP_ROTATE, OP_QUANT, OP_DEQUANT, OP_CONVERT, OP_DIST, OP_CODE_DIST, OP_TOPK,
OP_GATHER, OP_PUT, OP_FILTER, OP_SCAN_READ, OP_NS_READ, OP_ACCUM. (R4, R129, R136, R142, R145, R158, R159, R161, R162, R209) -/
def Obligations.OperationsComputeWriteAndAdvance : Prop :=
  ∀ (sess op : Nat) (s : State),
    ∀ p ∈ [(0x0001, Instr.opMatmul sess op, opMatmulF), (0x0002, .opBmatmul sess op, opBmatmulF), (0x0010, .opAdd sess op, opAddF),
      (0x0011, .opSub sess op, opSubF), (0x0012, .opMul sess op, opMulF), (0x0013, .opDiv sess op, opDivF), (0x0014, .opFma sess op, opFmaF),
      (0x0015, .opMax sess op, opMaxF), (0x0016, .opMin sess op, opMinF), (0x0017, .opCmp sess op, opCmpF), (0x0018, .opSelect sess op, opSelectF),
      (0x0019, .opUnary sess op, opUnaryF), (0x001A, .opGated sess op, opGatedF), (0x0020, .opReduce sess op, opReduceF),
      (0x0021, .opSoftmax sess op, opSoftmaxF), (0x0022, .opLayernorm sess op, opLayernormF), (0x0023, .opRmsnorm sess op, opRmsnormF),
      (0x0030, .opAttention sess op, opAttentionF), (0x0031, .opRope sess op, opRopeF), (0x0040, .opRotate sess op, opRotateF),
      (0x0041, .opQuant sess op, opQuantF), (0x0042, .opDequant sess op, opDequantF), (0x0043, .opConvert sess op, opConvertF),
      (0x0050, .opDist sess op, opDistF), (0x0051, .opCodeDist sess op, opCodeDistF), (0x0052, .opTopk sess op, opTopkF),
      (0x0053, .opGather sess op, opGatherF), (0x0054, .opPut sess op, opPutF), (0x0060, .opFilter sess op, opFilterF),
      (0x0061, .opScanRead sess op, opScanReadF), (0x0062, .opNsRead sess op, opNsReadF), (0x0070, .opAccum sess op, opAccumF)],
      (s.nextOf? sess op p.1 = none → exec p.2.1 s = .next s) ∧
      ∀ x0 r0 o, s.nextOf? sess op p.1 = some (x0, r0, o) →
        ∀ x r, (s.enterGroup sess o.group).run? sess = some (x, r) → r.fault = 0 →
          ∀ q u, (s.enterGroup sess o.group).opEnv x r o = (q, u) →
            (q.code ≠ 0 → exec p.2.1 s = .next (u.faultRun sess q.code (some op))) ∧
            (q.code = 0 → skipsOp q.env = true → exec p.2.1 s = .next ((u.flagRun sess 0).opDone sess op)) ∧
            (q.code = 0 → skipsOp q.env = false → q.unknown = false → ∀ out, p.2.2 q.env = some out →
              exec p.2.1 s = .next ((u.deliver sess op out).opDone sess op)) ∧
            (q.code = 0 → skipsOp q.env = false → q.unknown = true ∨ p.2.2 q.env = none →
              exec p.2.1 s = .next (((targetsOf r.route.image o).foldl (State.putFree sess op) u).opDone sess op))

/-- An elementwise operation on floating operands of one shape delivers its function of each pair of elements, one rounding each. For two
floating operands a and b (a third c for FMA) of the result's shape and a result format that arithmetic may deliver: ADD, SUB, MUL, DIV,
MAX, MIN, FMA and GATED with f = SILU or GELU deliver the FP32 function of the elements at each position, an operand of one element is
spread over the shape, UNARY delivers its function of a, CMP delivers the bytes 1 and 0 into a BYTE tensor, and SELECT takes a where the
mask is not 0 and b elsewhere; with the operation next, no group, its reads clean and SKIP not in force these are what exec writes
(OperationsComputeWriteAndAdvance). That a mask or a verdict has the format BYTE is read from the rules (DEDUCED, log entry 29). (R102,
R106, R107, R109, R120, R145, R147) -/
def Obligations.ElementwiseOperationsApplyTheirFunction : Prop :=
  ∀ (e : OpEnv) (t : Nat) (sh : List Nat) (a b : List F32), e.out? 0 = some (t, sh) → a.length = prod sh → b.length = prod sh →
    let put := fun l : List F32 => some ({ res := [(t, .vals l)] } : OpOut)
    (arithOut (e.tensor t).fmt = true → e.float? 0 = some (sh, a) → e.float? 1 = some (sh, b) →
      opAddF e = put (a.zipWith fadd b) ∧ opSubF e = put (a.zipWith fsub b) ∧ opMulF e = put (a.zipWith fmul b) ∧
      opDivF e = put (a.zipWith fdiv b) ∧ opMaxF e = put (a.zipWith fmax b) ∧ opMinF e = put (a.zipWith fmin b) ∧
      (e.attr 3 = some 16 → opGatedF e = put (a.zipWith (fun x y => fmul x (fgelu y)) b)) ∧
      (e.attr 3 = some 17 → opGatedF e = put (a.zipWith (fun x y => fmul x (fsilu y)) b)) ∧
      (∀ c : List F32, c.length = prod sh → e.float? 2 = some (sh, c) → opFmaF e = put ((a.zip b).zipWith (fun p z => ffma p.1 p.2 z) c))) ∧
    (arithOut (e.tensor t).fmt = true → e.float? 0 = some (sh, a) → ∀ k, e.float? 1 = some (List.replicate sh.length 1, [k]) →
      opAddF e = put (a.map fun x => fadd x k) ∧ opMulF e = put (a.map fun x => fmul x k)) ∧
    (arithOut (e.tensor t).fmt = true → e.float? 0 = some (sh, a) → ∀ n f, e.attr 3 = some n → funcOf n = some f → opUnaryF e = put (a.map f)) ∧
    ((e.tensor t).fmt = .byte → e.float? 0 = some (sh, a) → e.float? 1 = some (sh, b) → ∀ n f, e.attr 0x10 = some n → cmpOf n = some f →
      opCmpF e = some { res := [(t, .bytes (a.zipWith (fun x y => if f x y then 1 else 0) b))] }) ∧
    (arithOut (e.tensor t).fmt = true → e.float? 1 = some (sh, a) → e.float? 2 = some (sh, b) → ∀ m : List Nat, m.length = prod sh →
      e.mask? 0 = some (sh, m) → opSelectF e = put (m.zipWith (fun k p => if k ≠ 0 then p.1 else p.2) (a.zip b)))

/-- NS_WRITE stages its tensor or suspends the run, staged data enters the buffer, EMIT hands its items to a merge tree or waits. OP_NS_WRITE
whose turn has come, its group's blocks in place, naming an extent: where writing is refused (no quota, exhausted stamp, full, write
protection) the run meets fault 4; else, its reads clean and not left out by SKIP, with two copies waiting the timetable is suspended at
this stage, and with fewer the tensor joins the staged data and the run goes on. STAGED_WRITE_ENTER_BUFFER moves of the oldest staged data
as many of its pieces, in order, into the write buffer as fit below the cap; the rest stays staged, and the copy is free once all has
entered. OP_EMIT and EMIT_RESUME of a run without an unchecked host error hand the first count of the items to the lowest merge tree at
rest, where the protected part has room for the record, in ANSWER carriages of the first coach of the timetable's teams that is in service
and has a route to the answer unit; else the run waits. The retry of a waiting EMIT by its own command is the model's choice (DESIGN
CHOICE, log entry 32). Each of these answers a next state, the one stated, under conditions on state and operands alone: OP_NS_WRITE,
OP_EMIT, STAGED_WRITE_ENTER_BUFFER, EMIT_RESUME. (R155, R158, R196, R296, R297, R298, R503, R504) -/
def Obligations.NsWritesAreStagedAndItemsEmitted : Prop :=
  (∀ (sess op : Nat) (s : State) (x0 x : Session) (r0 r : Run) (o : OpRec) (ti : Nat) (sl : RunSlot) (n : Ns) (off len : Nat),
    s.nextOf? sess op 0x0063 = some (x0, r0, o) → (s.enterGroup sess o.group).run? sess = some (x, r) → r.fault = 0 → o.in? 1 = some ti →
    r.slot? (imgTensor r.route.image ti) = some sl →
    let w := (s.enterGroup sess o.group).checkFull
    w.extent sl = some (n, off, len) →
    (w.nsRefuses x n.nsid = true → exec (.opNsWrite sess op) s = .next (w.faultRun sess 4 (some op))) ∧
    (w.nsRefuses x n.nsid = false → ∀ q u, w.opEnv x r o = (q, u) → q.code = 0 → skipsOp q.env = false →
      (2 ≤ (r.staging.filter fun g => g.1 == op).length → exec (.opNsWrite sess op) s =
        .next (u.updRun sess fun r => { r with stalled := true, tt := r.tt.map fun t => { t with suspended := some u.stg.stage } })) ∧
      (∀ xi, (r.staging.filter fun g => g.1 == op).length < 2 → q.unknown = false → o.in? 0 = some xi → (imgTensor r.route.image xi).bytes ≤ len →
        exec (.opNsWrite sess op) s =
          .next ((u.updRun sess fun r => { r with staging := r.staging ++ [(op, n.nsid - 1, off, q.env.bytes xi)] }).opDone sess op)))) ∧
  (∀ (sess k ns off : Nat) (d : Bytes) (rest : List (Nat × Nat × Nat × Bytes)) (x : Session) (r : Run) (s : State), s.powered = true →
    s.run? sess = some (x, r) → r.staging = (k, ns, off, d) :: rest → (s.ns? (ns + 1)).isSome = true →
    let ps := s.spanPieces ns off d
    ∀ n, n ≤ ps.length → (n = 0 ∨ s.fits (s.newUnits ns (ps.take n)) = true) → (∀ m, n < m → m ≤ ps.length → s.fits (s.newUnits ns (ps.take m)) = false) →
      exec (.stagedWriteEnterBuffer sess) s = .next ((if n = 0 then s else s.bufferWrite (some sess) ns (ps.take n)).updRun sess fun r =>
        { r with staging := if n = ps.length then rest else (k, ns, off + 4096 * n, d.drop (4096 * n)) :: rest })) ∧
  (∀ (sess op : Nat) (s : State),
    (∀ x0 r0 o x r, s.nextOf? sess op 0x0064 = some (x0, r0, o) → (s.enterGroup sess o.group).run? sess = some (x, r) → r.fault = 0 →
      exec (.opEmit sess op) s = .next (emitNow sess op (s.enterGroup sess o.group))) ∧
    (∀ x r, s.run? sess = some (x, r) → r.emitWait = some op → s.runLive x r = true →
      exec (.emitResume sess) s = .next (emitNow sess op (s.updRun sess fun r => { r with emitWait := none }))) ∧
    (∀ x r q u items, s.run? sess = some (x, r) → s.opEnv x r (imgOp r.route.image op) = (q, u) → q.code = 0 → skipsOp q.env = false →
      q.unknown = false → emitItems q.env = some items → r.erred = false →
      let wait := u.updRun sess fun r => { r with emitWait := some op }
      (u.freeTree = none → emitNow sess op s = wait) ∧
      (∀ k, u.freeTree = some k →
        (protFree x < u.treeBytes sess + recordBytes items.length 0 → emitNow sess op s = wait) ∧
        (u.treeBytes sess + recordBytes items.length 0 ≤ protFree x →
          let c := ((match r.tt with | some t => t.plan.teams | none => []).flatMap teamCoaches).find? fun c => u.coachIn c && u.routeOrder c 286 != 2
          let v := match c with | some c => (if items.isEmpty then u else sendAnswers c k 0 (items.length / 15 + 1) 0 items u) | none => u
          ∃ t : Tree, t.sess = sess ∧ t.source = 4 ∧ t.flags = r.flags ∧
            t.lists = [if items.isEmpty = false ∧ c.isSome then ⟨k, [], 0, false⟩ else ⟨k, (List.range items.length).zip items, 0, true⟩] ∧
            emitNow sess op s = { v with ans := { v.ans with trees := Tab.put v.ans.trees k t } }.opDone sess op))))

/-- ROUTE LOAD takes an image in pieces or from an extent and checks it whole; RUN queues a run block of a loaded handle. For a session that
takes the admitted command. ROUTE LOAD: a first piece of at least 128 bytes at offset 0 that is not the whole image is kept and answered
with its length; a piece that continues the partial image extends it; the piece that completes it, or a first piece that is the whole, has
the image checked and taken; any other offset or length is refused with 0x0D, and more than the protected part has room for with 0x0B. A
complete image that fails its checks is refused with their reason. A handle of 32 or more, or a piece above 8 MiB, fails. From an extent
of a namespace it may read, the module reads header and image and does the same; without quota or under READ_LOCK it is refused with 0x43.
RUN with a block too short for its slots fails; of a handle without an image it is refused with 0x64; else it stands behind the session's
runs and the next of them starts. The reasons of malformed pieces and of a read-locked extent are the model's reading (DEDUCED, log entry
33). Each of these answers a next state, the one stated, under conditions on state and operands alone: ROUTE_LOAD, ROUTE_LOAD_EXTENT, RUN.
(R128, R130, R158, R180, R216, R328, R413, R415, R416) -/
def Obligations.RoutesLoadAndRunsQueue : Prop :=
  ∀ (tag : Tag) (c : Ctrl) (sess handle : Nat) (x : Session) (s : State), AdmitsSess tag c sess x s →
    (∀ (offset : Nat) (piece : Bytes) (first : Bool), 32 ≤ handle ∨ 8388608 < piece.length →
      exec (.routeLoad tag sess handle first offset piece) s = .next (s.fail tag .invalidField)) ∧
    (handle < 32 → ∀ (offset : Nat) (piece : Bytes), piece.length ≤ 8388608 →
      let keep := x.partials.filter fun p => p.handle != handle
      let u := s.updSess sess fun x => { x with partials := x.partials.filter fun p => p.handle != handle }
      (128 ≤ piece.length → offset ≠ 0 → exec (.routeLoad tag sess handle true offset piece) s = .next (s.refuse tag 0x0D)) ∧
      (128 ≤ piece.length → imgSize piece ≤ protFree { x with partials := keep } →
        (piece.length = imgSize piece → exec (.routeLoad tag sess handle true 0 piece) s = .next (u.takeImage tag sess handle piece none)) ∧
        (piece.length < imgSize piece → exec (.routeLoad tag sess handle true 0 piece) s =
          .next ((u.updSess sess fun x => { x with partials := x.partials ++ [⟨handle, imgSize piece, piece⟩] }).succeed tag piece.length 0 []))) ∧
      (128 ≤ piece.length → protFree { x with partials := keep } < imgSize piece →
        exec (.routeLoad tag sess handle true 0 piece) s = .next (u.refuse tag 0x0B)) ∧
      (∀ p, (x.partials.find? fun p => p.handle == handle) = some p →
        (offset = p.bytes.length → offset + piece.length = p.size →
          exec (.routeLoad tag sess handle false offset piece) s = .next (s.takeImage tag sess handle (p.bytes ++ piece) none)) ∧
        (offset = p.bytes.length → offset + piece.length < p.size → exec (.routeLoad tag sess handle false offset piece) s =
          .next ((s.updSess sess fun x => { x with
            partials := updateIf (fun p => p.handle == handle) (fun p => { p with bytes := p.bytes ++ piece }) x.partials }).succeed tag (offset + piece.length) 0 [])) ∧
        (offset ≠ p.bytes.length ∨ p.size < offset + piece.length →
          exec (.routeLoad tag sess handle false offset piece) s = .next (s.refuse tag 0x0D)))) ∧
    (∀ image source, s.sess? sess = some x → imageCheck image ≠ 0 → s.takeImage tag sess handle image source =
      (s.updSess sess fun x => { x with partials := x.partials.filter fun p => p.handle != handle }).refuse tag (imageCheck image)) ∧
    (handle < 32 → ∀ nsid lba blocks n, s.ns? nsid = some n →
      (readQuota x nsid = false ∨ n.lock.readLock = true → exec (.routeLoadExtent tag sess handle nsid lba blocks) s = .next (s.refuse tag 0x43)) ∧
      (readQuota x nsid = true → n.lock.readLock = false → (lba + blocks) * n.lba ≤ n.size →
        let u := s.updSess sess fun x => { x with partials := x.partials.filter fun p => p.handle != handle }
        ∀ h v b w, readSpan (nsid - 1) (lba * n.lba) (min 128 (blocks * n.lba)) u = (some h, v) → min (imgSize h) (blocks * n.lba) ≠ 0 →
          readSpan (nsid - 1) (lba * n.lba) (min (imgSize h) (blocks * n.lba)) v = (some b, w) →
          exec (.routeLoadExtent tag sess handle nsid lba blocks) s = .next (w.takeImage tag sess handle b (some (nsid, lba, blocks))))) ∧
    (∀ block : Bytes, 
      (block.length < 32 + 32 * runSlotCount block → exec (.run tag sess handle block) s = .next (s.fail tag .dataSglLength)) ∧
      (32 + 32 * runSlotCount block ≤ block.length → (x.routes.find? fun r => r.handle == handle) = none →
        exec (.run tag sess handle block) s = .next (s.refuse tag 0x64)) ∧
      (32 + 32 * runSlotCount block ≤ block.length → ∀ route, (x.routes.find? fun r => r.handle == handle) = some route →
        exec (.run tag sess handle block) s = .next ((s.updSess sess fun x => { x with
          queued := x.queued ++ [(tag, block.take (32 + 32 * runSlotCount block), route)] }).nextRun sess)))

/-- The binder takes a bind up, lets it wait or ends it; a bound run starts its passes on time, completes and leaves its record. BIND of one
that the running binder may take up next (none before it waits, or none of those has room and it is new) begins it, or lets it wait where
some unit or filter slot is short; more than 15 predicates refuse it with 0x29, limp mode with 0x27. BIND_WAIT_EXPIRY refuses with 0x28
after 1,048,576 stages of waiting in all. BIND_COMPLETE within its bound refuses with the reason that the module finds; without one, a
bind with a unit short waits again, and a route's plan that serves it and fits takes its filter slots and gives the run its timetable from
the next multiple of 8 at least 2 stages on, kept in the cache; past the bound nothing happens. PASS_START in the stage before its start,
the timetable standing, begins the next pass at the boundary (operation 0 is next where no pass is in progress) and moves the next start
by the pass stride; a timetable that no longer stands is bound again. RUN_COMPLETE of a run whose passes are done and whose writes have
entered the buffer ends it: its record is held and its command completes with the passes done. TIMETABLE_RESUME of a session that holds
its teams in the next stage R, at R − B' a multiple of 64, moves the run's timetable by R − B'. What the binder's plan is, is an operand
(log entry 5), and what of a refused bind is kept is the model's reading (DEDUCED, log entry 34). Each of these answers a next state, the
one stated, under conditions on state and operands alone: BIND, BIND_COMPLETE, BIND_WAIT_EXPIRY, PASS_START, RUN_COMPLETE,
TIMETABLE_RESUME. (R159, R160, R163, R165, R174, R176, R178, R179, R181, R230, R296, R416) -/
def Obligations.RunsBindPassAndComplete : Prop :=
  (∀ (id : Nat) (b : Bind) (x y : Session) (s : State), s.bind? id = some (b, x) → s.binderRuns = true → b.since = none →
    (∀ c ∈ s.ses.binds.takeWhile (fun c => c.id != id), c.waiting.isSome = true → b.waiting = none ∧ ∀ z, s.sess? c.sess = some z → s.short c z = true) →
    s.fwc.limp = none → let w := if b.what == BindFor.route then s.rereadImage x else s
    w.sess? x.num = some y →
    let ps := State.bindPredicates y b.what
    let upd := fun f : Bind → Bind => { w with ses := { w.ses with binds := updateIf (fun c => c.id == id) f w.ses.binds } }
    (15 < ps.length → exec (.bind id) s = .next (w.refuseBind b y 0x29)) ∧
    (ps.length ≤ 15 → w.short b y = true →
      exec (.bind id) s = .next (upd fun c => { c with since := none, waiting := some (c.waiting.getD w.stg.stage) })) ∧
    (ps.length ≤ 15 → w.short b y = false → exec (.bind id) s = .next (upd fun c => { c with
      since := some w.stg.stage, waiting := none, waited := c.waited + match c.waiting with | some a => w.stg.stage - a | none => 0 }))) ∧
  (∀ (id : Nat) (b : Bind) (x : Session) (s : State), s.powered = true → s.bind? id = some (b, x) → s.fwc.limp.isSome = true →
    exec (.bind id) s = .next (s.refuseBind b x 0x27)) ∧
  (∀ (id w : Nat) (b : Bind) (x : Session) (s : State), s.powered = true → s.bind? id = some (b, x) → b.waiting = some w →
    exec (.bindWaitExpiry id) s = .next (if w + 1048576 ≤ s.stg.stage + b.waited then s.refuseBind b x 0x28 else s)) ∧
  (∀ (id since : Nat) (b : Bind) (x : Session) (r : Run) (s : State), s.powered = true → s.bind? id = some (b, x) → b.since = some since →
    b.what = .route → x.run = some r →
    let spent := b.worked + (s.stg.stage - since)
    (bindBound (imgOpCount r.route.image) (4 * (s.bindLayout b x).length) < spent → ∀ e, exec (.bindComplete id e) s = .next s) ∧
    (s.stg.exhausted = false → spent ≤ bindBound (imgOpCount r.route.image) (4 * (s.bindLayout b x).length) →
    (∀ k, s.bindReason b x none = k + 1 → ∀ j, exec (.bindComplete id (.refuse j)) s = .next (s.refuseBind b x (k + 1))) ∧
    (∀ p k, s.bindReason b x (some p) = k + 1 → exec (.bindComplete id (.fits p)) s = .next (s.refuseBind b x (k + 1))) ∧
    (∀ p, s.bindReason b x (some p) = 0 → s.short b x = true → exec (.bindComplete id (.fits p)) s = .next { s with ses := { s.ses with
      binds := updateIf (fun c => c.id == id) (fun c => { c with since := none, waiting := some s.stg.stage, worked := spent }) s.ses.binds } }) ∧
    (∀ p slots, s.bindReason b x (some p) = 0 → s.short b x = false →
      takeSlots (State.bindPredicates x .route) s.ses.slots = some slots → s.planOk b x slots (s.newTt b x p) = true →
      spent ≤ bindBound (imgOpCount r.route.image) ((p.entries.filter fun e => e.kind == .dieRead).map fun e => max 1 e.rep).sum →
      let t := s.newTt b x p
      let placed := placeTt t t.base t.first t.ahead (s.holds x)
      t.base = roundUp (s.stg.stage + 2) 8 ∧
      exec (.bindComplete id (.fits p)) s =
        .next ((({ s with ses := { s.ses with slots := slots } }.countBind b (b.again || r.rebind) t).dropBind id).updSess x.num fun y => match y.run with
          | some r => { y with
              run := some (r.bound placed)
              cache := cachePut ⟨r.handle, r.route.loads, imgHeaderCrc r.route.image, r.block.drop 32, placed⟩ y.cache }
          | none => y)))) ∧
  (∀ (sess : Nat) (x : Session) (r : Run) (t : Timetable) (s : State), s.run? sess = some (x, r) → s.runsNext x r = true → r.begun < r.passes →
    r.nextStart = s.stg.stage + 1 → x.st ≠ .orphaned → s.limpServes = false → r.tt = some t →
    (r.rebind = false → t.topoGen = s.ses.topoGen → s.layoutStands t = true →
      let v := { t with started := t.started + 1, ahead := t.ahead - 1 }
      exec (.passStart sess) s = .next (s.updRun sess fun r =>
        let q := { r with tt := some v, begun := r.begun + 1, nextStart := r.nextStart + t.plan.passStride }
        if r.nextOp.isNone then q.passReset else q)) ∧
    (t.topoGen ≠ s.ses.topoGen → r.nextOp = none → exec (.passStart sess) s =
      .next (((s.freeSlots (scanPredicates r.route.image)).updRun sess fun r => { r with tt := none, rebind := true }).addBind sess .route)) ∧
    (t.topoGen ≠ s.ses.topoGen → r.nextOp ≠ none → exec (.passStart sess) s = .next (s.updRun sess fun r => { r with rebind := true }))) ∧
  (∀ (sess : Nat) (x : Session) (r : Run) (s : State), s.powered = true → s.run? sess = some (x, r) → r.fault = 0 → r.nextOp = none → r.staging = [] →
    r.passes ≤ r.done →
    let h := s.hold sess ⟨1, s.stamp, 0, r.flags % 8, statusRecord s.stamp r⟩
    exec (.runComplete sess) s = .next (((if s.stg.loaded then h.nextCycle else h).succeed r.tag r.done 0 []).dropRun sess)) ∧
  (∀ (sess b : Nat) (x : Session) (r : Run) (t : Timetable) (s : State), s.coreClock = true → s.sess? sess = some x → s.holdsNext x = true → x.run = some r →
    r.tt = some t → t.suspended = some b → r.stalled = false → b ≤ s.stg.stage + 1 → (s.stg.stage + 1 - b) % 64 = 0 →
    let n := s.stg.stage + 1
    ∃ u : State, exec (.timetableResume sess) s = .next u ∧
      u.sess? sess = some { x with
        run := some { r with
          tt := some { t with base := t.base + (n - b), suspended := none, seatsFrom := n + s.fla.tRead }
          nextStart := r.nextStart + (n - b)
          stalled := false }
        scans := x.scans.map fun c => match c.tt with
          | some v => if resumes n v then { c with tt := some (resumeTt s.fla.tRead n v) } else c
          | none => c
        buildTts := x.buildTts.map fun k => if resumes n k.2 then (k.1, resumeTt s.fla.tRead n k.2) else k })

/-- A wait lapses into its cheaper path or a fault, a missed scan word is read again up to eight times, a unit leaves under its runs.
WAIT_LAPSE of a context that waits past its stage: its unanswered READs that were not sent again are sent once more; else the wait ends
and the miss counts: a stall halts the context and faults the session's run with ROUTE_STALL, a missed hop is tried again or given up by
its walk, a lapse on a coach without session changes only the context. SCAN_REREAD, a sense of its own where the map names a page: a word
that lands goes through the filter (as open bytes where a command has written it since the SCAN), one whose unit is LOST or whose page
fails its checks, and the eighth failure, give it up as unread, the last with its page rebuilt or its unit LOST; a failure before counts
up. UNIT_LEAVES_SERVICE of a served machine: a unit in service leaves it and the topology generation rises by one, one that is not in
service changes no unit; afterwards the Critical Warning is judged again. Which path a missed wait takes is an operand (DEDUCED, log entry
35). Each of these answers a next state, the one stated, under conditions on state and operands alone: WAIT_LAPSE, SCAN_REREAD,
UNIT_LEAVES_SERVICE. (R91, R182, R207, R208, R209, R210, R294, R485) -/
def Obligations.MissesLapseAndUnitsLeave : Prop :=
  (∀ (coach ctx : Nat) (m : Miss) (s : State), s.coreClock = true → (s.ctx coach ctx).st = .waiting → (s.ctx coach ctx).lapse ≠ 0 →
    (s.ctx coach ctx).lapse ≤ s.stg.stage →
    let late := s.lateReads coach ctx
    let u := s.setCtx coach ctx { s.ctx coach ctx with st := .ready, tag := 0, replies := 0, lapse := 0 }
    (late ≠ [] → ∃ t, exec (.waitLapse coach ctx m) s = .next t ∧ t.coa.ctxs = s.coa.ctxs ∧
      t.coa.reads = updateIf (fun e => late.any fun l => l.1 == e.1) (fun e => (e.1, markReissued e.2)) s.coa.reads) ∧
    (late = [] → u.coachSess coach = none → exec (.waitLapse coach ctx m) s = .next u) ∧
    (late = [] → ∀ n, u.coachSess coach = some n →
      exec (.waitLapse coach ctx .hop) s =
        .next ((u.health fun h => { h with missHop := h.missHop + 1 }).updWalk n coach ctx fun w => { w with lapsed := w.lapsed + 1 }) ∧
      exec (.waitLapse coach ctx .stall) s =
        .next (((u.setCtx coach ctx { u.ctx coach ctx with st := .halted, fault := 3 }).health fun h => { h with missStall := h.missStall + 1 }).faultHere n 3))) ∧
  (∀ (id word n : Nat) (x : Session) (c : Scan) (s : State), s.powered = true → s.scan? id = some (x, c) →
    (c.missed.find? fun m => m.1 == word) = some (word, n) →
    let rest := c.missed.filter fun y => y.1 != word
    let e := s.entry (c.nsid - 1) (word / 4)
    let v := if entMapped e then s.plainSense (entAddr e (word % 4)) 1 else s
    let giveUp := fun t : State => t.updScan x.num id fun c => { c with missed := rest, unread := c.unread ++ [word] }
    (∀ d k, v.readSlot (c.nsid - 1) (word / 4) (word % 4) = .data d → v.ns? c.nsid = some k →
      (c.dirty.contains word = false → exec (.scanReread id word true) s = .next (v.updScan x.num id fun c => c.take k word (some (fit 4096 d)))) ∧
      (c.dirty.contains word = true → ∀ f w, v.drawBytes 4096 = (f, w) →
        exec (.scanReread id word true) s = .next (w.updScan x.num id fun c => c.take k word (some f)))) ∧
    (v.readSlot (c.nsid - 1) (word / 4) (word % 4) = .lost → exec (.scanReread id word true) s = .next (giveUp v)) ∧
    (v.readSlot (c.nsid - 1) (word / 4) (word % 4) = .fault → exec (.scanReread id word true) s = .next (giveUp (v.mapFault (c.nsid - 1) (word / 4)))) ∧
    (n < 7 → exec (.scanReread id word false) s =
      .next (v.updScan x.num id fun c => { c with missed := updateIf (fun y => y.1 == word) (fun y => (word, y.2 + 1)) c.missed })) ∧
    (7 ≤ n → exec (.scanReread id word false) s = .next (giveUp (if entMapped e then v.uncorrectable (entAddr e (word % 4)) else v)))) ∧
  (∀ (o : Obj) (s : State), s.powered = true → s.serving = true →
    ∃ t : State, exec (.unitLeavesService o) s = .next t.warn ∧
      (s.inService o = false → t = s) ∧
      (s.inService o = true → t.inService o = false ∧ (o.kind ≠ 6 → t.ses.topoGen = s.ses.topoGen + 1)))

/-- SESSION OPEN takes the lowest free number with zeroed granules, reclaims an orphan by its key, and QUOTA SET changes a quota. For an
admitted command. SESSION OPEN with major version 1: with no number of 1 to 64 free it is refused with 0x61; a descriptor that fails a
check is refused with its reason; one that passes and is placed opens a session under the lowest free number, of the controller and its
host, with the quota, its granules reading zero; its command waits for the zeroing to end. Another major version is refused with 0x02. The
reclaim form takes an ORPHANED session with the right key and host to OPEN again and answers; a wrong key, host or state is refused with
0x62. GRANULE_ZEROING_COMPLETE completes the waiting commands in their order, a SESSION OPEN with the session's number and partition.
QUOTA SET with a failing descriptor is refused; with a change of TEAMS under a run, an admitted query or an older one that waits it waits,
and QUOTA_SET_TEAMS_REPLACE judges the oldest again and takes it once no run and no admitted query stands; else it is taken at once. The
order of the checks of a short descriptor and the second judgement of a waiting QUOTA SET are the model's reading (DEDUCED and DESIGN
CHOICE, log entries 39 and 67). Each of these answers a next state, the one stated, under conditions on state and operands alone:
SESSION_OPEN, SESSION_OPEN_RECLAIM, GRANULE_ZEROING_COMPLETE, QUOTA_SET, QUOTA_SET_TEAMS_REPLACE. (R198, R199, R212, R214, R215, R216,
R217, R220, R224, R238, R239) -/
def Obligations.SessionsOpenAndTakeQuotas : Prop :=
  (∀ (tag : Tag) (c : Ctrl) (major : Nat) (data : Bytes) (s : State), Admits tag c s →
    (major ≠ 1 → exec (.sessionOpen tag major data) s = .next (s.refuse tag 0x02)) ∧
    ((∀ k, 1 ≤ k → k ≤ 64 → (s.sess? k).isSome = true) → exec (.sessionOpen tag 1 data) s = .next (s.refuse tag 0x61)) ∧
    ∀ n, 1 ≤ n → n ≤ 64 → s.sess? n = none → (∀ k, 1 ≤ k → k < n → (s.sess? k).isSome = true) → quotaShort data = false →
      let q := parseQuota data
      (∀ r, s.quotaReason none data = some r → exec (.sessionOpen tag 1 data) s = .next (s.refuse tag r)) ∧
      (s.quotaReason none data = none → ∀ part u, (if q.teams = 0 then some (none, s) else (s.placePart q.teams).map fun p => (some p.1, p.2)) = some (part, u) →
        ∃ t x, exec (.sessionOpen tag 1 data) s = .next t ∧ x ∈ t.ses.list ∧ x.num = n ∧ x.st = .opened ∧ x.hostId = c.hostId ∧ x.ctrl = c.id ∧
          x.quota = q ∧ x.part = part ∧ x.zeroing = [(tag, true)] ∧ some x.ranges = some ((u.placeSession q.granules).getD []) ∧
          ∀ r ∈ x.ranges, ∀ a, r.1 * 2 ^ 36 + r.2.1 * granule ≤ a → a < r.1 * 2 ^ 36 + r.2.1 * granule + r.2.2 * granule → Tab.get 0 t.drm.data a = 0)) ∧
  (∀ (tag : Tag) (c : Ctrl) (sess key : Nat) (x : Session) (s : State), Admits tag c s → s.sess? sess = some x →
    exec (.sessionOpenReclaim tag 1 sess key) s = .next (if x.st = .orphaned ∧ x.key = key ∧ x.hostId = c.hostId
      then ((s.updSess sess fun x => { x with st := .opened, ctrl := c.id, windowStart := none }).sessEvent sess 1).succeed tag (sessionDw0 x) 0 []
      else s.refuse tag 0x62)) ∧
  (∀ (sess : Nat) (x : Session) (s : State), s.powered = true → s.sess? sess = some x →
    exec (.granuleZeroingComplete sess) s = .next (x.zeroing.foldl (fun u z =>
      u.succeed z.1 (if z.2 then x.num + (match x.part with | some p => p * 256 | none => 4096) else 0) 0 [])
      (s.updSess sess fun x => { x with zeroing := [] }))) ∧
  (∀ (tag : Tag) (c : Ctrl) (sess : Nat) (x : Session) (data : Bytes) (s : State), AdmitsSess tag c sess x s → quotaShort data = false →
    let q := parseQuota data
    (∀ r, s.quotaReason (some x) data = some r → exec (.quotaSet tag sess data) s = .next (s.refuse tag r)) ∧
    (s.quotaReason (some x) data = none →
      let waits := x.run.isSome = true ∨ x.queries.any (fun q => q.admitted.isSome) = true ∨ x.quotaWait ≠ []
      (q.teams = x.quota.teams ∨ ¬waits → exec (.quotaSet tag sess data) s = .next (s.takeQuota x tag q)) ∧
      (q.teams ≠ x.quota.teams → waits → exec (.quotaSet tag sess data) s =
        .next (s.updSess sess fun x => { x with quotaWait := x.quotaWait ++ [(tag, data)] })))) ∧
  (∀ (tag : Tag) (sess : Nat) (data : Bytes) (rest : List (Tag × Bytes)) (x : Session) (s : State), s.powered = true → s.sess? sess = some x →
    x.st ≠ .closing → x.quotaWait = (tag, data) :: rest →
    let y := { x with quotaWait := rest }
    let u := s.updSess sess fun x => { x with quotaWait := rest }
    exec (.quotaSetTeamsReplace sess) s = .next (
      if x.run.isSome = true ∨ x.queries.any (fun q => q.admitted.isSome) = true then s
      else match u.quotaReason (some y) data with
        | some k => u.refuse tag k
        | none => u.takeQuota y tag (parseQuota data)))

/-- SESSION CLOSE drains or aborts a session, which is freed once nothing of it is left; the reclaim window frees an orphan. For a session
that takes the admitted command: SESSION CLOSE enters CLOSING in mode DRAIN and ends a waiting QUOTA SET with ABORTED, and in mode ABORT
ends its runs, queries, scans and builds too. SESSION_FREE of a CLOSING session without runs, queries, scans and builds frees it: no
session has its number any more, its binds are gone and its close completes; one with something left stays. RECLAIM_WINDOW_EXPIRY aborts
and frees an ORPHANED session once its window, in seconds of 8.2 µs stages, has passed, and leaves it before. What becomes of work that
waits is the model's reading (DEDUCED, log entry 40). Each of these answers a next state, the one stated, under conditions on state and
operands alone: SESSION_CLOSE_DRAIN, SESSION_CLOSE_ABORT, SESSION_FREE, RECLAIM_WINDOW_EXPIRY. (R216, R218, R219, R220, R224, R237) -/
def Obligations.SessionsCloseAndAreFreed : Prop :=
  (∀ (tag : Tag) (c : Ctrl) (sess : Nat) (x : Session) (s : State), AdmitsSess tag c sess x s →
    exec (.sessionCloseDrain tag sess) s = .next (s.enterClosing x tag 0) ∧
    exec (.sessionCloseAbort tag sess) s = .next ((s.enterClosing x tag 1).abortWork sess 1) ∧
    ∀ mode, (s.enterClosing x tag mode).sess? sess = some { x with st := .closing, closing := some (tag, mode), quotaWait := [] }) ∧
  (∀ (sess : Nat) (x : Session) (s : State), s.powered = true → s.sess? sess = some x → x.st = .closing →
    (drained x = false → exec (.sessionFree sess) s = .next s) ∧
    (drained x = true → ∃ t, exec (.sessionFree sess) s = .next t ∧ (∀ y ∈ t.ses.list, y.num ≠ sess) ∧ (∀ b ∈ t.ses.binds, b.sess ≠ sess) ∧
      (∀ tag mode, x.closing = some (tag, mode) → (t.ctrl? tag.ctrl).isSome = true → ∃ e ∈ t.que.done, e.tag = tag ∧ e.sct = 0 ∧ e.sc = 0))) ∧
  (∀ (sess a : Nat) (x : Session) (s : State), s.powered = true → s.sess? sess = some x → x.st = .orphaned → x.windowStart = some a →
    exec (.reclaimWindowExpiry sess) s =
      .next (if x.window * 1000000000 ≤ (s.stg.stage - a) * 8200 then freeSession sess (s.abortWork sess 1) else s))

/-- A slice ends, the switch begins once no program is in flight or at B + 32, and the incoming session's state is restored. SLICE_END of a
held partition with no switch under way, its slice's stages passed with this one and another session with work, defers the switch from the
next boundary on; before that it changes nothing. The switch is to begin at the next boundary, to the next session with work, at
PARTITION_SWITCH where no program of the outgoing session is in flight, or at SWITCH_DEFER_LIMIT where that boundary is B + 32 or later:
the partition moves to that session, and the holder's debt is the stages deferred; PARTITION_SWITCH of a holder without work begins one
without debt. At its boundary B' the holder's route timetable is suspended (startSwitch, a part of STAGE_BOUNDARY). With a program in
flight, or before the limit, nothing changes. SWITCH_RESTORE_COMPLETE, once the save engines can have moved the lines at 6,144 a stage
after B' + t_read + 1, puts the records and control blocks of the incoming session's save area into the partition's coaches and notes it
restored; before that it changes nothing. That these commands act for the boundary that follows is the form of the model (DESIGN CHOICE,
log entry 76). Each of these answers a next state, the one stated, under conditions on state and operands alone: SLICE_END,
SWITCH_DEFER_LIMIT, PARTITION_SWITCH, SWITCH_RESTORE_COMPLETE. (R225, R226, R227, R228, R229, R230, R231, R233, R234) -/
def Obligations.PartitionsSwitchBetweenSessions : Prop :=
  ∀ (part : Nat) (p : Partition) (s : State), s.coreClock = true → s.part? part = some p →
    (p.switch = none → p.holder.isSome = true →
      exec (.sliceEnd part) s = .next (if p.slice ≤ p.run + 1 ∧ (s.nextHolder p).isSome = true
        then s.updPart part fun p => { p with switch := some (.deferred (s.stg.stage + 1)) } else s)) ∧
    (∀ next, s.nextHolder p = some next →
      let begins := fun (c : Instr) (debt : Nat) => ∃ t, exec c s = .next t ∧
        t.part? part = some { p with switch := some (.moving (s.stg.stage + 1) next 0) } ∧
        ∀ h x, p.holder = some h → s.sess? h = some x → ∃ y, t.sess? h = some y ∧ y.debt = debt ∧ y.run = x.run
      (p.switch = none → s.holderWorks p = false → begins (.partitionSwitch part) 0) ∧
      (∀ b, p.switch = some (.deferred b) →
        (s.programsRun p b = false → begins (.partitionSwitch part) (s.stg.stage + 1 - b)) ∧
        (s.programsRun p b = true → exec (.partitionSwitch part) s = .next s) ∧
        (b + 32 ≤ s.stg.stage + 1 → begins (.switchDeferLimit part) 32) ∧
        (s.stg.stage + 1 < b + 32 → exec (.switchDeferLimit part) s = .next s))) ∧
    (∀ next g h x, p.switch = some (.moving s.stg.stage next g) → p.holder = some h → s.sess? h = some x →
      ∃ y, (s.startSwitch p).sess? h = some y ∧ ∀ r tt, x.run = some r → r.tt = some tt → tt.suspended = none →
        ∃ r', y.run = some r' ∧ r'.tt = some { tt with suspended := some s.stg.stage }) ∧
    (∀ b next g x, p.switch = some (.moving b next g) → s.sess? next = some x →
      (s.stg.stage + 1 < s.switchFirst p b next → exec (.switchRestoreComplete part) s = .next s) ∧
      (s.switchFirst p b next ≤ s.stg.stage + 1 →
        let u := s.restoreRecords x p.teams
        exec (.switchRestoreComplete part) s = .next
          ({ u with coa := u.coa.takeControl p.teams x.save }.updPart part fun p => { p with switch := some (.restored next) })))

/-- QUERY is checked and queued, admitted in order with its session's teams, and its records are completed and held. QUERY of a session that
takes the admitted command, long enough: a block that fails a check is refused with its reason, one that passes waits as the session's
newest query, and a standing search timetable is asked for where none is bound or on its way. QUERY_ADMIT of the oldest waiting query,
with the session's teams held and its search timetable bound: a plain one is placed on the session's coaches, pinned to the current
generation, one walk for each vector; a shard query that fits there is first forwarded to the members that are up and placed 16 stages
later. PEER_ANSWER_FETCH before the boundary b + PEER_WAIT sends a FETCH and takes an awaited member's lists; later ones, refusals and
errors bring nothing. PEER_WAIT_EXPIRY, at the stage whose boundary is b + PEER_WAIT, counts each missing member as a deadline miss and
ends a STRICT query. ANSWER_RECORD_COMPLETE of an EMIT's tree whose lists have ended stamps its record in a core cycle later than the last
record's and holds it where the protected part has room; else the tree waits with it, and it waits where the stage has no cycle left. The
reserved flag bits and peers that do not answer follow the model's reading (DEDUCED, log entry 36). Each of these answers a next state,
the one stated, under conditions on state and operands alone: QUERY, QUERY_ADMIT, PEER_ANSWER_FETCH, PEER_WAIT_EXPIRY,
ANSWER_RECORD_COMPLETE. (R163, R253, R254, R259, R269, R270, R271, R298, R299) -/
def Obligations.QueriesAreAdmittedAndAnswered : Prop :=
  (∀ (tag : Tag) (c : Ctrl) (sess : Nat) (x : Session) (data : Bytes) (s : State), AdmitsSess tag c sess x s → 64 ≤ data.length →
    let d := (s.ns? (qNsid data)).elim {} fun n => n.vec
    qLength d data ≤ data.length →
    (∀ r, s.queryReason x data = some r → exec (.query tag sess data) s = .next (s.refuse tag r)) ∧
    (s.queryReason x data = none →
      let q : Query := ⟨s.ses.nextId, tag, sess, data.take (qLength d data), none, 0, [], 0, [], [], false⟩
      let u := { s with ses := { s.ses with nextId := s.ses.nextId + 1 } }.updSess sess fun x => { x with queries := x.queries ++ [q] }
      exec (.query tag sess data) s = .next (if x.search = none ∧ (∀ b ∈ s.ses.binds, ¬(b.sess = sess ∧ b.what = .search)) then u.addBind sess .search else u))) ∧
  (∀ (id : Nat) (x : Session) (q : Query) (s : State), s.query? id = some (x, q) → s.coreClock = true → s.boot.mode = .ready → s.limpServes = false →
    s.holds x = true → x.st = .opened → q.walks = [] → x.search.isSome = true → qForwarded q.block = false →
    (∀ p ∈ x.queries.takeWhile fun p => p.id != id, p.walks ≠ []) →
    (qShard q.block = false → ∀ n g p cs, s.ns? (qNsid q.block) = some n → currentGen n = some g → x.part = some p → g.codeLoaded = true → n.switching = none →
      s.placeVectors (s.partCoaches p) (queryArea n.vec q.block) n.nsid g.num n.vec (qVectors q.block) [] = some cs →
      exec (.queryAdmit id) s = .next (cs.zipIdx.foldl (State.startWalk q.id n g)
        (s.updQuery x.num q.id fun q => { q with admitted := some (q.admitted.getD s.stg.stage), gen := g.num }))) ∧
    (qShard q.block = true →
      (q.admitted = none → ∀ p, peerSet? x (qNsid q.block) = some p → exec (.queryAdmit id) s = .next (if s.fitsNow x q then s.forwardQuery x q p else s)) ∧
      (∀ b, q.admitted = some b → exec (.queryAdmit id) s = .next (if b + 16 ≤ s.stg.stage then s.admitLocal x q else s)))) ∧
  (∀ (id member : Nat) (l : List PeerList) (x : Session) (q : Query) (s : State), s.query? id = some (x, q) →
    (∀ b p m, s.portUp = true → q.waitingFor.contains member = true → l.length = qVectors q.block → q.admitted = some b →
      (x.peerSets.find? fun p => p.no == q.set) = some p → (p.peers.find? fun m => m.member == member) = some m →
      exec (.peerAnswerFetch id member (some l)) s = .next (if b + x.peerWait ≤ s.stg.stage then s
        else (s.send (.peerFetch m.session member)).updQuery x.num id fun q => { q with waitingFor := q.waitingFor.erase member, lists := q.lists ++ [(member, l)] })) ∧
    exec (.peerAnswerFetch id member none) s = .next s ∧
    (∀ b, s.powered = true → qShard q.block = true → q.waitingFor ≠ [] → q.admitted = some b →
      let u := s.health fun h => { h with missPeer := h.missPeer + q.waitingFor.length }
      exec (.peerWaitExpiry id) s = .next (if s.stg.stage + 1 < b + x.peerWait then s
        else if x.strict = true then u.missQuery (x, q)
        else u.updQuery x.num id fun q => { q with waitingFor := [], leftOut := true }))) ∧
  (∀ (k : Nat) (t : Tree) (x : Session) (s : State), s.powered = true → (s.ans.trees.find? fun e => e.1 == k) = some (k, t) →
    (∀ l ∈ t.lists, l.ended = true) → s.sess? t.sess = some x → t.owner = none → t.built = none →
    (s.recordCycle = none → exec (.answerRecordComplete k) s = .next s) ∧
    (∀ c, s.recordCycle = some c →
      let v : State := { s with stg := { s.stg with cycle := c } }
      let r := treeRecord v.stamp t
      let u := ({ v with ans := { v.ans with last := v.stamp } } : State).nextCycle
      exec (.answerRecordComplete k) s = .next (if u.recordRoom x t r.length
        then (u.dropTree k).hold x.num ⟨0, field r 0 8, t.queryId, field r 26 1, r⟩
        else { u with ans := { u.ans with trees := Tab.put u.ans.trees k { t with built := some r } } }))) ∧
  (∀ (c : Nat) (s : State), s.stg.stage ≠ stageMax → s.recordCycle = some c → s.stg.cycle ≤ c ∧ c ≤ 12299 ∧
    (stampStage s.ans.last = s.stg.stage → stampCycle s.ans.last < c))

/-- SCAN is checked and bound, its ended plan answered, FETCH delivers and frees held records; PEER SET replaces a shard set. SCAN of a
session that takes the admitted command: a block that fails a check is refused with its reason; one that passes joins the session's scans
and goes to the binder. SCAN_COMPLETE, at the end of the plan with no word still missed and a merge tree at rest, assembles the answer,
once. FETCH of classes 0 to 2 delivers, in ascending stamp order, as many whole records of the class after the stamp as fit, by identifier
for class 0 where asked, answers their number and bytes and, unless KEEP is set, notes them to be freed; with records but none that fits
it fails. At the boundary that posts the completion the noted records leave the session's held ones, and only those. PEER SET with a bad
CRC or fields is refused with 0x4C or 0x4D, with a peer whose descriptor differs with 0x4E; else the set joins the session's sets with
each entry's fields, every peer is connected to and asked for a shard session, and the command answers how many members are down. A lost
peer connection marks the member down in the session's sets for its namespace. PEER_KEEP_ALIVE_SEND sends one message to each member that
is up, in order, and does nothing else. That an identifier counts for class 0 alone is the model's reading (DEDUCED, log entry 38). Each
of these answers a next state, the one stated, under conditions on state and operands alone: PEER_SET, SCAN, SCAN_COMPLETE, FETCH,
PEER_KEEP_ALIVE_SEND, PEER_CONNECTION_LOSS. (R268, R270, R273, R287, R288, R294, R300, R394) -/
def Obligations.ScansRunAndRecordsAreFetched : Prop :=
  (∀ (tag : Tag) (c : Ctrl) (sess : Nat) (x : Session) (s : State), AdmitsSess tag c sess x s →
    (∀ data : Bytes, 64 ≤ data.length → scLength data ≤ data.length →
      (∀ r, s.scanReason x data = some r → exec (.scan tag sess data) s = .next (s.refuse tag r)) ∧
      (s.scanReason x data = none →
        let k : Scan := { id := s.ses.nextId, tag := tag, sess := sess, nsid := field data 8 4, block := data.take (scLength data), bound := false, tt := none
                          missed := [], unread := [], slot := 0, ended := false, upTo := s.xlt.bufSeq }
        exec (.scan tag sess data) s = .next ((State.updSess { s with ses := { s.ses with nextId := s.ses.nextId + 1 } } sess
          fun x => { x with scans := x.scans ++ [k] }).addBind sess (.scan s.ses.nextId)))) ∧
    (∀ (cls queryId after len : Nat) (byId keep : Bool), cls < 3 →
      let sel := byStamp (x.held.filter fun h => h.cls == cls && decide (after < h.stamp) && (!(byId && cls == 0) || h.queryId == queryId))
      let out := takeFit len sel
      let b := out.flatMap fun h => h.bytes
      (sel ≠ [] → out = [] → ∃ n, exec (.fetch tag sess cls byId keep queryId after len) s = .next (s.completeWith tag .dataSglLength n 0 [])) ∧
      (sel = [] ∨ out ≠ [] → exec (.fetch tag sess cls byId keep queryId after len) s = .next ((if keep = true then s
        else { s with que := { s.que with freeing := s.que.freeing ++ out.map fun h => (tag, sess, h) } }).succeed tag out.length b.length b)))) ∧
  (∀ (sess : Nat) (x : Session) (s : State), s.sess? sess = some x → ∃ y, s.postBatch.sess? sess = some y ∧ s.postBatch.que.freeing = [] ∧
    ∀ h, h ∈ y.held ↔ h ∈ x.held ∧ ¬∃ tag, (tag, x.num, h) ∈ s.que.freeing ∧ ∃ c ∈ s.que.done, c.tag = tag) ∧
  (∀ (id k : Nat) (x : Session) (c : Scan) (t : Timetable) (n : Ns) (s : State), s.powered = true → s.scan? id = some (x, c) → c.tt = some t →
    s.freeTree = some k → t.suspended = none → s.ns? c.nsid = some n → n.created ≤ t.bound →
    exec (.scanComplete id) s = .next (if c.ended = false ∧ c.missed = [] ∧ t.start + t.plan.passStages ≤ s.stg.stage
      then (s.updScan x.num id fun c => { c with ended := true }).scanAnswer x c n k else s)) ∧
  (∀ (tag : Tag) (c : Ctrl) (b : Bytes) (replies : List PeerReply) (x : Session) (s : State), AdmitsSess tag c (field b 0 1) x s → 64 ≤ b.length →
    let n := field b 2 2
    64 + 288 * n ≤ b.length →
    let crc := crc32c (b.take 60 ++ slice b 64 (288 * n))
    (field b 60 4 ≠ crc → exec (.peerSet tag b replies) s = .next (s.refuse tag 0x4C)) ∧
    (field b 60 4 = crc → peerFieldsOk s b n = false → exec (.peerSet tag b replies) s = .next (s.refuse tag 0x4D)) ∧
    (field b 60 4 = crc → peerFieldsOk s b n = true → ∀ m, s.ns? (field b 4 4) = some m →
      ((∃ r ∈ replies.take n, ∃ d, peerDesc r = some d ∧ peerDiffers m d = true) → exec (.peerSet tag b replies) s = .next (s.refuse tag 0x4E)) ∧
      ((∀ r ∈ replies.take n, ∀ d, peerDesc r = some d → peerDiffers m d = false) →
        ∃ u : State, ∃ set : PeerSet, set.nsid = field b 4 4 ∧ set.self = field b 1 1 ∧ set.teams = field b 8 1 ∧ set.seats = field b 9 1 ∧
          set.granules = field b 12 4 ∧ set.peers.length = n ∧
          (∀ j r, j < n → replies[j]? = some r → let e := slice b (64 + 288 * j) 288
            ∃ p, set.peers[j]? = some p ∧ p.member = field e 0 1 ∧ p.family = field e 1 1 ∧ p.port = field e 2 2 ∧ p.nsid = field e 4 4 ∧
              p.address = slice e 8 16 ∧ p.subnqn = slice e 32 256 ∧ (p.down = false ↔ ∃ k d, r = .opened k d) ∧ (∀ k d, r = .opened k d → p.session = k) ∧
              .peerConnect p.member p.family p.port p.nsid p.address p.subnqn ∈ u.port.tx ∧
              (r ≠ .down → .peerOpen p.member (shardQuota set p) ∈ u.port.tx)) ∧
          exec (.peerSet tag b replies) s = .next (u.succeed tag (set.peers.filter fun p => p.down).length 0 []) ∧
          ∃ y, u.sess? x.num = some y ∧ y.peerSets.getLast? = some set))) ∧
  (∀ (sess nsid member : Nat) (s : State), s.powered = true → exec (.peerConnectionLoss sess (nsid, member)) s = .next (s.updSess sess fun x => { x with
    peerSets := x.peerSets.map fun p => if p.nsid = nsid then
      { p with peers := p.peers.map fun m => if m.member = member then { m with down := true } else m } else p })) ∧
  (∀ s : State, s.portUp = true → exec .peerKeepAliveSend s = .next { s with port := { s.port with
    tx := s.port.tx ++ s.ses.list.flatMap fun x => x.peerSets.flatMap fun p => (p.peers.filter fun m => !m.down).map fun m => .peerKeepAlive m.session m.member } })

/-- A build takes the next generation number and ends READY with its items; the switch makes it CURRENT; a retired one is freed. INDEX BUILD
of a session that takes the admitted command, on a vector namespace it may write, in a partition, its stamp not exhausted: with two
generations standing it is refused with 0x48, without pool slots for the code layer with 0x49, else a BUILDING generation under the next
number (1 after 65,535) joins, its plan goes to the binder and its number is answered. Without write quota it is refused with 0x4A.
BUILD_END of a bound build with result 0 takes every readable slot whose identifier is not 0; with result 3, where a slot has a page that
cannot be read, it ends the build and frees its generation. INDEX SWITCH waits for a boundary where a generation is READY and none is
being switched; else it is refused with 0x4B. GENERATION_SWITCH makes the READY one CURRENT and CURRENT RETIRING and asks for a mark,
which answers the number once written; with no READY one left it is refused with 0x4B (DEDUCED). GENERATION_FREE frees a RETIRING
generation that no query is pinned to, and leaves every other. CODE_LAYER_RELOAD after ready reads the flash copy, page by page, into pool
slots placed anew for the N items and marks the layer loaded. When the items are read is the model's reading (DEDUCED, log entry 37). Each
of these answers a next state, the one stated, under conditions on state and operands alone: INDEX_BUILD, BUILD_END, INDEX_SWITCH,
GENERATION_SWITCH, GENERATION_FREE, CODE_LAYER_RELOAD. (R43, R244, R248, R261, R263, R264, R265, R266) -/
def Obligations.GenerationsAreBuiltSwitchedAndFreed : Prop :=
  (∀ (tag : Tag) (c : Ctrl) (sess nsid : Nat) (x : Session) (n : Ns) (s : State), AdmitsSess tag c sess x s → s.ns? nsid = some n → n.kind = .vector →
    (writeQuota x nsid = false → ∀ d, exec (.indexBuild tag sess nsid d) s = .next (s.refuse tag 0x4A)) ∧
    (writeQuota x nsid = true → x.part.isSome = true → s.stg.exhausted = false → ∀ discard,
      let kept := if discard then n.gens.filter fun g => g.st != .ready else n.gens
      let u := s.updNs nsid fun n => { n with gens := kept }
      let num := if n.lastGen % 65536 = 65535 then 1 else n.lastGen % 65536 + 1
      (2 ≤ kept.length → exec (.indexBuild tag sess nsid discard) s = .next (s.refuse tag 0x48)) ∧
      (kept.length < 2 → u.placeLayer (layerGranules n.vec n.capacity) = none → exec (.indexBuild tag sess nsid discard) s = .next (s.refuse tag 0x49)) ∧
      (kept.length < 2 → ∀ rs, u.placeLayer (layerGranules n.vec n.capacity) = some rs → exec (.indexBuild tag sess nsid discard) s =
        .next ((((u.updNs nsid fun n => { n with gens := kept ++ [⟨num, .building, 0, [], [], [], false, false, rs, [], []⟩], lastGen := num }).updSess sess
          fun x => { x with builds := x.builds ++ [(nsid, num)] }).addBind sess (.build nsid num)).succeed tag num 0 []))) ∧
    (exec (.indexSwitch tag sess nsid) s = .next (if n.switching = none ∧ (∃ g ∈ n.gens, g.st = .ready)
      then s.updNs nsid fun n => { n with switching := some tag } else s.refuse tag 0x4B))) ∧
  (∀ (nsid : Nat) (n : Ns) (g : Gen) (b : Built) (s : State), s.ns? nsid = some n → (n.gens.find? fun g => g.st == .building) = some g → s.upkeep = true → s.buildBound nsid g.num = true →
    (b.result = 3 → exec (.buildEnd nsid b) s = .next (if s.buildStops (s.buildDirty nsid g.num) n then s.endBuild nsid g.num 3 b.nodes.length b.skipped else s)) ∧
    (b.result = 0 → builtOk n b = true → s.builtAll (s.buildDirty nsid g.num) n b = true →
      ∀ items u, b.nodes.foldl (State.readItem (s.buildDirty nsid g.num) n) (some [], s) = (some items, u) → (∀ i ∈ items, i.id ≠ 0) →
      let g' := { g with st := .ready, entry := b.entry, items := items, codebook := fit (64 * n.vec.dim) b.codebook, codeLoaded := true }
      let g' := { g' with ranges := u.layerFor n g' }
      let w := (u.closeBuild.putCodeLayer n.vec g').writeLayers n g'
      exec (.buildEnd nsid b) s = .next ((w.2.endBuild nsid g.num 0 items.length b.skipped).updNs nsid fun m => { m with
        gens := m.gens.map fun x => if x.num = g.num then { g' with sbs := w.1.1, codePages := w.1.2 } else x }))) ∧
  (∀ (tag : Tag) (nsid : Nat) (n : Ns) (r : Gen) (s : State), s.powered = true → s.ns? nsid = some n → n.switching = some tag →
    (n.gens.find? fun g => g.st == .ready) = some r →
    let u := s.updNs nsid fun n => { n with
      gens := n.gens.map fun g => if g.st = .ready ∧ g.num = r.num then { g with st := .current } else if g.st = .current then { g with st := .retiring } else g
      switching := none }
    exec (.generationSwitch nsid) s = .next (({ u with xlt := { u.xlt with markTags := u.xlt.markTags ++ [(tag, r.num)] } } : State).wantMark false)) ∧
  (∀ (tag : Tag) (nsid : Nat) (n : Ns) (s : State), s.powered = true → s.ns? nsid = some n → n.switching = some tag →
    (n.gens.find? fun g => g.st == .ready) = none →
    exec (.generationSwitch nsid) s = .next ((s.updNs nsid fun n => { n with switching := none }).refuse tag 0x4B)) ∧
  (∀ (nsid num : Nat) (g : Gen) (s : State), s.gen? nsid num = some g → s.powered = true → exec (.generationFree nsid num) s =
    .next (if g.st = .retiring ∧ s.pinned nsid num = false then s.updNs nsid fun n => { n with gens := n.gens.filter fun g => g.num != num } else s)) ∧
  (∀ (nsid num : Nat) (n : Ns) (g : Gen) (rs : List (Nat × Nat × Nat)) (s : State), s.ns? nsid = some n → s.gen? nsid num = some g → s.powered = true →
    s.boot.mode = .ready → g.codeLoaded = false → g.st ≠ .building → s.placeLayer (layerGranules n.vec g.items.length) = some rs →
    let ws := codeWords g
    (∀ w ∈ ws, (s.word w).kind = 5 ∧ (s.word w).ns + 1 = nsid ∧ (s.word w).seq = num ∧ s.dieIn w.die = true) →
    let put := fun x : Gen => takeCodes n.vec (ws.flatMap fun w => fit 4096 (openData n.key (s.word w))) { x with codeLoaded := true, ranges := rs }
    let u := (pagesOf ws).foldl (fun s q => s.queueSense q.1 q.2.1 q.2.2.1 q.2.2.2) s
    let u := ws.foldl (fun s w => s.freeSeats (chanOf w.die) 1) u
    exec (.codeLayerReload nsid num) s = .next ((u.putCodeLayer n.vec (put g)).updNs nsid fun n => { n with
      gens := n.gens.map fun x => if x.num = num then put x else x }))

/-- A write that passes its checks enters the buffer below the cap or waits behind those that wait; a flush waits for what is dirty. For an
admitted command on a namespace, in range and within 8 MiB, whose data is complete: WRITE and WRITE with LOCATE (its buffer long enough
for a locator a unit) are refused by the first of format in progress, WRITE_LOCK, exhausted stamp, full state and write protection
(writeGate), and else offer their pieces (free where another write to the same blocks is in flight, R5): with no write waiting, a locked
clock and room below the dirty cap the pieces enter the buffer, and without FUA and LOCATE the command completes at once; else the write
waits, and runs that read its blocks read them as open from then on (R156). WRITE_ZEROES and DATASET_MANAGEMENT set the units that they
cover UNMAPPED at once and offer zeros for the rest; without Deallocate nothing is set. WRITE_CAP_RELEASE takes the oldest waiting write
once it fits. FLUSH waits for the dirty writes before it, of its namespace or of all. PRINFO not 0 is Invalid Field, a range past the end
LBA Out of Range, an unknown namespace Invalid Namespace. The status beyond 8 MiB and the layout of ranges are PRESUMED (log entries 27
and 28). Each of these answers a next state, the one stated, under conditions on state and operands alone: WRITE, WRITE_LOCATE,
WRITE_CAP_RELEASE, FLUSH, WRITE_ZEROES, DATASET_MANAGEMENT. (R52, R334, R340, R342, R343, R398, R411, R503) -/
def Obligations.WritesEnterTheBufferOrWait : Prop :=
  (∀ (tag : Tag) (c : Ctrl) (nsid slba nlb : Nat) (data : Bytes) (s : State), Admits tag c s →
    (s.ns? nsid = none → ∀ pr fua, exec (.write tag nsid slba nlb pr fua data) s = .next (s.fail tag .invalidNs)) ∧
    ∀ n, s.ns? nsid = some n →
      (∀ pr fua, pr ≠ 0 → exec (.write tag nsid slba nlb pr fua data) s = .next (s.fail tag .invalidField)) ∧
      (∀ fua, n.size < (slba + nlb + 1) * n.lba → exec (.write tag nsid slba nlb 0 fua data) s = .next (s.fail tag .lbaRange)) ∧
      ((slba + nlb + 1) * n.lba ≤ n.size → (nlb + 1) * n.lba ≤ 8388608 →
        let u := s.checkFull
        let ps := pieces (slba * blockSlots n) ((nlb + 1) * blockSlots n) data
        let go := fun (st : Option Status) (t : State) => match st with | some e => u.fail tag e | none => t
        ((nlb + 1) * n.lba ≤ data.length → ∀ fua, exec (.write tag nsid slba nlb 0 fua data) s =
          .next (go (writeGate n u) (u.offerWrite ⟨tag, nsid - 1, ps, fua, none⟩))) ∧
        ((nlb + 1) * n.lba ≤ data.length → ∀ sgl : Option Nat, (∀ l, sgl = some l → 16 * (lowestSlots (pieces (slba * blockSlots n) ((nlb + 1) * blockSlots n) [])).length ≤ l) →
          exec (.writeLocate tag nsid slba nlb 0 sgl data) s = .next (go (writeGate n u) (u.offerWrite ⟨tag, nsid - 1, ps, false, some (lowestSlots ps)⟩))) ∧
        exec (.writeZeroes tag nsid slba nlb 0) s = .next (go (writeGate n u) (u.zeroBlocks tag n [(slba, nlb + 1)]))) ∧
      (∀ nr dealloc, 16 * (nr + 1) ≤ data.length → (dsmRanges nr data).all (fun r => inRange n r.1 r.2) = true →
        exec (.datasetManagement tag nsid dealloc nr data) s = .next (match writeGate n s.checkFull with
          | some e => s.checkFull.fail tag e
          | none => s.checkFull.zeroBlocks tag n (if dealloc then dsmRanges nr data else []))) ∧
      (n.formatting = none → nsid ≠ 0xFFFFFFFF → exec (.flush tag nsid) s = .next ({ s with xlt := { s.xlt with
        landWaits := s.xlt.landWaits ++ [⟨tag, s.xlt.bufSeq, some (nsid - 1), none, [], []⟩] } } : State).landCheck)) ∧
  (∀ (tag : Tag) (c : Ctrl) (s : State), Admits tag c s → exec (.flush tag 0xFFFFFFFF) s = .next ({ s with xlt := { s.xlt with
    landWaits := s.xlt.landWaits ++ [⟨tag, s.xlt.bufSeq, none, none, [], []⟩] } } : State).landCheck) ∧
  (∀ (w : WaitWrite) (s : State),
    ((∀ p ∈ w.pieces, s.slotInFlight w.ns p.1 p.2.1 = false) → s.openPieces w.ns w.pieces =
      (w.pieces, { s with xlt := { s.xlt with fresh := s.xlt.fresh ++ w.pieces.map fun p => (w.ns, p.1, p.2.1) } })) ∧
    (∀ ps v, s.openPieces w.ns w.pieces = (ps, v) → ps ≠ [] →
      (v.xlt.capWaits = [] → v.acknowledges = true → v.fits (v.newUnits w.ns ps) = true →
        s.offerWrite w = (v.bufferWrite none w.ns ps).bufferDone { w with pieces := ps }) ∧
      (v.xlt.capWaits ≠ [] ∨ v.acknowledges = false ∨ v.fits (v.newUnits w.ns ps) = false →
        let u := v.noteWrite w.ns (ps.map fun p => p.1 * 4 + p.2.1)
        s.offerWrite w = { u with xlt := { u.xlt with capWaits := u.xlt.capWaits ++ [{ w with pieces := ps }] } })) ∧
    (∀ rest, s.powered = true → s.xlt.capWaits = w :: rest → exec .writeCapRelease s =
      .next (if s.acknowledges && s.fits (s.newUnits w.ns w.pieces) then { s with xlt := { s.xlt with capWaits := rest } }.takeWrite w else s)))

/-- A read gives each slot's newest data, zeros for unmapped slots and an error for LOST units, by the map or by a valid locator. For an
admitted READ, in range, without format or READ_LOCK: where some leaf it needs is neither in the cache nor known unwritten it waits for it
and its load begins; else its pages are sensed, or with nothing to take from flash it completes at once, as finishRead says: slots that no
write in flight names read as they stand. A slot reads as the newest buffered version of it, else zeros where its entry is UNMAPPED, an
error where it is LOST, and the data of its code word, opened under the namespace's key, where that passes its META checks. READ with a
locator whose CRC is wrong is Invalid Field; with one that is good on arrival its page is sensed, and on landing it gives the slots of the
program that it names and 16 bytes of zeros, or takes the map path where it is not; one that is stale on arrival takes the map path at
once. LEAF_LOAD_COMPLETE, the leaf's page landed, changes nothing where no read waits for it; one that decodes becomes the newest in the
cache, and the reads whose leaves are all at hand go on. Each of these answers a next state, the one stated, under conditions on state and
operands alone: READ, READ_LOCATOR, LEAF_LOAD_COMPLETE. (R5, R334, R335, R337, R338, R341, R345, R346, R347, R398, R412) -/
def Obligations.ReadsGiveTheNewestData : Prop :=
  (∀ (tag : Tag) (c : Ctrl) (nsid slba nlb : Nat) (n : Ns) (s : State), Admits tag c s → s.ns? nsid = some n → (slba + nlb + 1) * n.lba ≤ n.size →
    (nlb + 1) * n.lba ≤ 8388608 → n.formatting = none → n.lock.readLock = false →
    let first := slba * blockSlots n
    let count := (nlb + 1) * blockSlots n
    let w := fun stale : Bool => (⟨tag, nsid - 1, first, count, stale⟩ : LeafWait)
    exec (.read tag nsid slba nlb 0) s = .next (s.mapRead (w false)) ∧
    (∀ (bufLen : Nat) (loc : Bytes) (decodes : Bool), first / 4 = (first + count - 1) / 4 → count * 4096 + 16 ≤ bufLen →
      (field loc 14 2 ≠ crc16 (loc.take 14) → exec (.readLocator tag nsid slba nlb 0 bufLen loc decodes) s = .next (s.fail tag .invalidField)) ∧
      (field loc 14 2 = crc16 (loc.take 14) → exec (.readLocator tag nsid slba nlb 0 bufLen loc decodes) s = .next (if s.locatorArrives n loc = true
        then s.startPlain (.locator (w true) loc decodes) ((unitSlots first count).map (locAddr loc)) true else s.mapRead (w true))))) ∧
  (∀ (w : LeafWait) (s : State),
    (s.missingLeaves w.ns w.first w.count ≠ [] → s.mapRead w = ({ s with xlt := { s.xlt with leafWaits := s.xlt.leafWaits ++ [w] } } : State).loadLeaves w) ∧
    (s.missingLeaves w.ns w.first w.count = [] →
      let ws := (s.readWords w.ns w.first w.count).filter fun a => s.dieIn a.die
      (ws = [] → s.mapRead w = s.finishRead w) ∧ (ws ≠ [] → s.mapRead w = s.startPlain (.read w) ws true))) ∧
  (∀ (p : Plain) (w : LeafWait) (loc : Bytes) (decodes : Bool) (n : Ns) (s : State), p.senses = [] → p.seats = some [] → p.what = .locator w loc decodes →
    (∀ r ∈ s.fla.recov, r.word ∉ p.words) → (∀ a ∈ p.words, (s.cached a).isSome = true) → s.ns? (w.ns + 1) = some n →
    let slots := unitSlots w.first w.count
    s.plainStep p = if s.locatorLands n loc (w.first / 4) slots decodes = true
      then s.succeed w.tag 0 0 ((slots.flatMap fun i => fit 4096 (openData n.key (s.word (locAddr loc i)))) ++ zeros 16) else s.mapRead w) ∧
  (∀ (ns unit slot : Nat) (s : State),
    (∀ d, s.buffered ns unit slot = some d → s.readSlot ns unit slot = .data d) ∧
    (s.buffered ns unit slot = none →
      (entPpa (s.entry ns unit) = 0xFFFFFFFF → s.readSlot ns unit slot = .data []) ∧
      (entPpa (s.entry ns unit) = 0xFFFFFFFE → s.readSlot ns unit slot = .lost) ∧
      (∀ n, entPpa (s.entry ns unit) < 0xFFFFFFFE → s.dieIn (entDie (s.entry ns unit)) = true → s.ns? (ns + 1) = some n →
        let w := s.word (entAddr (s.entry ns unit) slot)
        s.readSlot ns unit slot = if wordChecks w ns unit slot (entStamp (s.entry ns unit)) then .data (openData n.key w) else .fault))) ∧
  (∀ (w : LeafWait) (s : State), w.stale = false →
    let u := s.touchRead w.ns w.first w.count
    (∀ d t, readSlots w.ns w.first w.count u = (some d, t) →
      s.finishRead w = (t.openRead w.ns w.first d).2.succeed w.tag 0 0 (t.openRead w.ns w.first d).1 ∧
      ((∀ i, i < d.length / 4096 → t.slotInFlight w.ns ((w.first + i) / 4) ((w.first + i) % 4) = false) → t.openRead w.ns w.first d = (d, t))) ∧
    (∀ t, readSlots w.ns w.first w.count u = (none, t) → s.finishRead w = t.fail w.tag .readError)) ∧
  (∀ (ns leaf : Nat) (s : State), s.powered = true → s.reading (.leaf ns leaf) = false →
    (s.xlt.leafWaits.any (s.waitsFor ns leaf) = false → ∀ ok, exec (.leafLoadComplete ns leaf ok) s = .next s) ∧
    (s.xlt.leafWaits.any (s.waitsFor ns leaf) = true →
      exec (.leafLoadComplete ns leaf true) s = .next (((s.mendLeaf ns leaf).touchLeaf (leafKey ns leaf) false).releaseReads)))

/-- The movers copy the victim's units and verify them, superblocks are verified and erased, patrol judges a block, marks are written. GC_COPY
of a mapped unit of the victim, the free pool below RESERVE + 128 superblocks, queues its copy in stream 8 (9 from a Stolrak superblock),
its source read first. GC_VERIFY, the copy's target sensed, of a good copy ends it and replaces the map entry where that still names the
source; a bad copy stays to be copied again, marks its plane block SUSPECT and closes its superblock. SUPERBLOCK_ERASE of a closed
superblock with nothing valid, covered, its dies idle and unreserved for the erase, makes it ERASING and starts one erase on each of its
dies in service; any other superblock stays. SUPERBLOCK_CLOSE_VERIFY takes a superblock whose page sets have all been sensed off the list
that awaits it. PATROL_VERIFY of the block that is next, its page sets all sensed: passing sets its read count to 0, refreshing counts and
rewrites it, weak also makes it SUSPECT, or retires a SUSPECT one. Both walks sense the next page set where its die has nothing to do;
each sense counts in its plane blocks' read counts, and a block past 200,000 heads the patrol queue. JOURNAL_MARK writes the changed
leaves; the mark follows once they are in flash, CLEAN only with no program in flight and nothing dirty. Each of these answers a next
state, the one stated, under conditions on state and operands alone: GC_COPY, GC_VERIFY, SUPERBLOCK_ERASE, SUPERBLOCK_CLOSE_VERIFY,
PATROL_VERIFY, JOURNAL_MARK. (R352, R353, R354, R355, R357, R361, R363, R364, R365) -/
def Obligations.UpkeepMovesVerifiesAndErases : Prop :=
  (∀ (ns unit : Nat) (s : State), s.upkeep = true →
    let e := s.entry ns unit
    exec (.gcCopy ns unit) s = .next (if entMapped e = true ∧ s.victim = some (entSb e) ∧ s.freeBytes < reserveBytes + 128 * superBytes
      then (s.queueCopy (if isStolrak (s.sb (entSb e)).stream then 9 else 8) ns unit).checkFull else s)) ∧
  (∀ (ns unit : Nat) (k : Copy) (t : BitVec 64) (s : State), s.flashClock = true → (s.xlt.copies.find? fun k => k.ns == ns && k.unit == unit) = some k →
    k.target = some t → s.reading (.verify ns unit) = false →
    let w := s.word (entAddr t 0)
    let rest := s.xlt.copies.filter fun x => !(x.ns == ns && x.unit == unit)
    let u : State := { s with xlt := { s.xlt with copies := rest } }
    let src := entSb k.srcEntry
    (w.ns = ns → w.unit = unit → w.undefined = false →
      (s.entry ns unit = k.srcEntry → exec (.gcVerify ns unit true) s = .next
        (((u.setSb src { s.sb src with copyStamp := max (s.sb src).copyStamp w.stamp }).setEntry ns unit t).verifyDone src)) ∧
      (s.entry ns unit ≠ k.srcEntry → exec (.gcVerify ns unit true) s = .next (u.verifyDone src))) ∧
    exec (.gcVerify ns unit false) s = .next (({ s with
      fla := { s.fla with suspect := if s.fla.retired.contains (entPb t) then s.fla.suspect else insertNat (entPb t) s.fla.suspect }
      xlt := { s.xlt with copies := updateIf (fun x => x.ns == ns && x.unit == unit) (fun x => { x with target := none }) s.xlt.copies } } : State).abandon
        (entSb t))) ∧
  (∀ (i : Nat) (s : State), s.upkeep = true → i < 65536 →
    let x := s.sb i
    (x.st = .closed → s.sbValid i = 0 → (∀ k ∈ s.xlt.copies, entSb k.srcEntry ≠ i) → (x.copyStamp = 0 ∨ ∃ m ∈ s.xlt.marks, x.copyStamp ≤ m.stamp) →
      s.passNames i = false → i ∉ s.xlt.toVerify → (∀ d ∈ s.sbDies i, (∀ o ∈ s.fla.ops, o.die ≠ d) ∧ s.dieReserved d s.stg.stage s.fla.tErase = false) →
      ∃ t, exec (.superblockErase i) s = .next t ∧
        t.fla.ops.map (fun o => (o.die, o.ends)) = s.fla.ops.map (fun o => (o.die, o.ends)) ++ (s.sbDies i).map fun d => (d, s.stg.stage + s.fla.tErase)) ∧
    (x.st ≠ .closed ∨ s.sbValid i ≠ 0 ∨ i ∈ s.xlt.toVerify ∨ s.passNames i = true → exec (.superblockErase i) s = .next s) ∧
    (i ∈ s.xlt.toVerify → (∀ p ∈ s.xlt.sets, sbOf p.die p.block ≠ i) → s.sbWalked i = true →
      let u : State := { s with xlt := { s.xlt with walks := (s.sbDies i).foldl (fun t d => Tab.set 0 t (sbWalk d (sbBlock i)) 0) s.xlt.walks } }
      exec (.superblockCloseVerify i [] []) s = .next (({ u with xlt := { u.xlt with toVerify := u.xlt.toVerify.erase i } } : State).verifyDone i))) ∧
  (∀ (pb : Nat) (s : State), s.upkeep = true →
    (s.patrolNext ≠ some pb → ∀ v l, exec (.patrolVerify pb v l) s = .next s) ∧
    (s.patrolNext = some pb → s.walked (pbWalk pb) (pbDie pb) (pbBlock pb) [pbPlane pb] = true →
      let u : State := { s with xlt := { s.xlt with
        walks := Tab.set 0 s.xlt.walks (pbWalk pb) 0
        patrolQueue := s.xlt.patrolQueue.filter fun x => x != pb
        patrolCursor := if s.xlt.patrolQueue.isEmpty then patrolOrder pb + 1 else s.xlt.patrolCursor } }
      (∀ l, exec (.patrolVerify pb .pass l) s = .next { u with fla := { u.fla with reads := Tab.set 0 u.fla.reads pb 0 } }) ∧
      (∀ l, exec (.patrolVerify pb .refresh l) s = .next ((u.health fun h => { h with verifyRefresh := h.verifyRefresh + 1 }).rewriteBlock pb)) ∧
      (∀ l, ∃ v : State, v = (State.loseListed (u.health fun h => { h with verifyWeak := h.verifyWeak + 1 }) (fun e => entPb e == pb) l).rewriteBlock pb ∧
        exec (.patrolVerify pb .weak l) s = .next (if v.fla.suspect.contains pb then v.retire pb 3
          else { v with fla := { v.fla with suspect := insertNat pb v.fla.suspect } })))) ∧
  (∀ (pb n : Nat) (s : State),
    let c := Tab.get 0 s.fla.reads pb + n
    (s.countSenses pb n).fla.reads = Tab.set 0 s.fla.reads pb c ∧
    (200000 < c → (s.countSenses pb n).xlt.patrolQueue = pb :: s.xlt.patrolQueue.filter fun x => x != pb) ∧
    (c ≤ 200000 → (s.countSenses pb n).xlt = s.xlt)) ∧
  (∀ (key die block : Nat) (planes : List Nat) (s : State), let p := Tab.get 0 s.xlt.walks key
    planes ≠ [] → p < s.walkLast die block planes → (∀ o ∈ s.fla.ops, o.die ≠ die) →
    s.walkOn key die block planes = ({ s with xlt := { s.xlt with walks := Tab.set 0 s.xlt.walks key (p + 1) } } : State).queueSense die block p planes) ∧
  (∀ (clean : Bool) (s : State), s.powered = true → s.stg.loaded = true → s.boot.mode ≠ .diagnostic → s.clk.failed = false → s.ns.formatPending = false →
    let u := s.writeLeaves
    exec (.journalMark clean) s = .next ({ u with xlt := { u.xlt with markDue := some (u.newMark clean) } } : State).markCheck) ∧
  (∀ (m : Mark) (s : State), s.xlt.markDue = some m →
    ((∃ p ∈ s.xlt.sets, p.stream = 11) → s.markCheck = s) ∧
    ((∀ p ∈ s.xlt.sets, p.stream ≠ 11) → ∃ c : Bool, s.markCheck = ({ s with xlt := { s.xlt with markDue := none } } : State).putMark { m with clean := c } ∧
      (c = true ↔ m.clean = true ∧ s.xlt.sets = [] ∧ s.xlt.buf = [] ∧ ∀ e ∈ s.xlt.cached, e.2 = false)))

/-- A physical page address is 32 bits with die, block and page in its fields; a map entry carries the plane in a field of its own. For every
die below 1,024, block below 4,096 and page below 512 the page address fits 32 bits, its bit 31 is zero, and its bits 30 to 21, 20 to 9
and 8 to 0 give back the die, the block and the page. A map entry made of a page address, a plane and a program stamp gives back die,
block and page from the page address and the plane from its own field, whatever the stamp; and an address of a code word keeps plane and
code word beside die, block and page. (R303) -/
def Obligations.PageAddressesHoldDieBlockAndPage : Prop :=
  ∀ die block page : Nat, die < 1024 → block < 4096 → page < 512 →
    (ppa die block page < 2 ^ 32 ∧ (BitVec.ofNat 32 (ppa die block page)).getLsbD 31 = false ∧
      bits (ppa die block page) 30 21 = die ∧ bits (ppa die block page) 20 9 = block ∧ bits (ppa die block page) 8 0 = page) ∧
    ∀ stamp plane slot : Nat, plane < 4 →
      let e := mkEntry stamp plane (ppa die block page)
      entPpa e = ppa die block page ∧ entPlane e = plane ∧ entDie e = die ∧ entBlock e = block ∧ entPage e = page ∧
        entAddr e slot = ⟨die, plane, block, page, slot⟩

/-- A session runs one RUN at a time; others wait behind it in order of arrival; a handle without an image is refused. For an admitted command
of a session with a whole run block. A RUN of a handle that holds no image is refused with reason 0x64. A RUN that arrives while another
is in progress goes behind those that wait, and the run in progress stands as it is, alone. A RUN that arrives with none in progress and
none waiting is the session's run at once. When the run in progress ends, the RUN that arrived first of those waiting is the session's run
and the others wait on in their order; with none waiting no run is left. State holds at most one run of a session in progress. Each of
these answers a next state, the one stated, under conditions on state and operands alone: RUN, RUN_COMPLETE. (R416) -/
def Obligations.ASessionRunsOneRunAtATime : Prop :=
  (∀ (tag : Tag) (c : Ctrl) (sess handle : Nat) (x : Session) (block : Bytes) (s : State), AdmitsSess tag c sess x s →
    32 + 32 * runSlotCount block ≤ block.length →
    let own := block.take (32 + 32 * runSlotCount block)
    ((x.routes.find? fun r => r.handle == handle) = none → exec (.run tag sess handle block) s = .next (s.refuse tag 0x64)) ∧
    ∀ route, (x.routes.find? fun r => r.handle == handle) = some route →
      (x.run.isSome = true → ∃ t : State, exec (.run tag sess handle block) s = .next t ∧ t.que.done = s.que.done ∧ t.ses.binds = s.ses.binds ∧
        t.sess? sess = some { x with queued := x.queued ++ [(tag, own, route)] }) ∧
      (x.run = none → x.queued = [] → ∃ (t : State) (y : Session) (r : Run), exec (.run tag sess handle block) s = .next t ∧
        t.que.done = s.que.done ∧ t.sess? sess = some y ∧ y.queued = [] ∧ y.run = some r ∧ r.tag = tag ∧ r.block = own ∧ r.done = 0)) ∧
  ∀ (sess : Nat) (x : Session) (r : Run) (s : State), s.powered = true → s.sess? sess = some x → x.run = some r → r.fault = 0 → r.nextOp = none →
    r.staging = [] → r.passes ≤ r.done →
    (∀ tag block route rest, x.queued = (tag, block, route) :: rest → ∃ (t : State) (y : Session) (r' : Run), exec (.runComplete sess) s = .next t ∧
      t.sess? sess = some y ∧ y.queued = rest ∧ y.run = some r' ∧ r'.tag = tag ∧ r'.block = block ∧ r'.handle = route.handle ∧ r'.done = 0) ∧
    (x.queued = [] → ∃ (t : State) (y : Session), exec (.runComplete sess) s = .next t ∧ t.sess? sess = some y ∧ y.queued = [] ∧ y.run = none)

/-- The owner digest in use is the highest slot's; SIGNER 1 images verify against it alone, SIGNER 0 images against the factory key. After the
fuses are read the digest in use is that of the highest owner slot in use. For an image whose other checks pass: with SIGNER 1 it is
accepted exactly where a slot is in use and the SHA3-512 of its key is the digest in use; with SIGNER 0 exactly where that is the factory
key's digest, whichever owners are installed. Each of these answers a next state, the one stated, under conditions on state and operands
alone: FUSE_READ, FIRMWARE_IMAGE_VERIFY. (R493) -/
def Obligations.ImagesVerifyAgainstTheirSigner : Prop :=
  (∀ (fuses : List Nat) (s : State), s.powered = true → s.boot.mode = .bringUp → s.boot.ph.fuses = false → ∃ t : State, exec (.fuseRead fuses) s = .next t ∧
    ∀ k, k < 5 → (∀ j, j < 5 → (t.fuseField (408 + 512 * j) 512 ≠ 0 ↔ j ≤ k)) → t.sec.owners.length = k + 1 ∧ t.ownerDigest = toLe 64 (t.fuseField (408 + 512 * k) 512)) ∧
  ∀ s : State, s.testing = true → s.boot.ph.filled = true → s.boot.ph.image = false → s.sec.imageOk = false →
    let h := s.imageHeader
    let n := field h 8 4
    field h 0 4 = 0x5746424E → field h 4 4 = 1 → 4096 ≤ n → n ≤ 33546240 → slice h 32 64 = sha3_512 (s.cfgBytes 8192 n) → s.sec.secFused ≤ field h 12 4 →
    ∃ t : State, exec (.firmwareImageVerify true) s = .next t ∧
      (field h 24 1 = 1 → (t.sec.imageOk = true ↔ s.sec.owners ≠ [] ∧ sha3_512 (slice h 96 2592) = s.ownerDigest)) ∧
      (field h 24 1 = 0 → (t.sec.imageOk = true ↔ sha3_512 (slice h 96 2592) = toLe 64 Config.factoryDigest.toNat))

/-- The port takes the first width its lanes allow, answers its own protocols alone and keeps connections and queue pairs. While the port
trains: where the lanes of the width now tried lock on some place, the lowest such place becomes the link and a PTP exchange under way is
discarded; where they lock nowhere, the port stays down; 500 ms without the width tries the next, and after the last the first again. A
loss of link or the removal of the pluggable takes the link down; an inserted pluggable is powered only up to 15 W. With the link up: ARP,
Neighbour Discovery and ICMP echo are answered for the port's own addresses alone, any other frame is dropped and counted; an ICReq before
ready or to another port is reset, one without header digest or with data digest ends with Unsupported Parameter, else ICResp; a header
that fails its digest ends the connection; an RDMA connection request before ready or to another service is rejected, else accepted; a
congestion notification never raises the rate of its queue pair; an ACK timeout resends, and the eighth ends the queue pair; an ECN mark
is answered; a pause frame of the configured priority alone pauses. The Fatal Error Status codes are the model's (PRESUMED, log entry 47).
Each of these answers a next state, the one stated, under conditions on state and operands alone: LINK_TRAIN, LINK_WIDTH_TIMEOUT,
LINK_LOSS, PLUGGABLE_INSERT, PLUGGABLE_REMOVE, ARP_REQUEST, NEIGHBOUR_DISCOVERY, ICMP_ECHO, FRAME_DROP, ICREQ, TCP_PDU_RECEIVE,
RDMA_CONNECT_REQUEST, CNP_RECEIVED, RDMA_ACK_TIMEOUT, ECN_MARKED_PACKET, PFC_PAUSE_FRAME. (R384, R385, R387, R388, R389, R390, R447, R452) -/
def Obligations.ThePortTrainsAndAnswers : Prop :=
  (∀ (locked : List Nat) (s : State), s.training = true → 
    let lanes := fun b => ∀ k, b ≤ k → k < b + 2 ^ s.port.trying → k ∈ locked ∧ k ∉ s.port.lanesOut
    let place := fun b => 1 ≤ s.port.trying ∧ s.port.trying ≤ 3 ∧ b + 2 ^ s.port.trying ≤ 8 ∧ b % 2 ^ s.port.trying = 0
    (∀ b, place b → lanes b → (∀ b', b' < b → place b' → ¬ lanes b') → ∃ t : State, exec (.linkTrain locked) s = .next t ∧
      t.port.width = s.port.trying ∧ t.port.base = b ∧ t.port.passDone = true ∧ t.stg.syncPending = none ∧ t.stg.delayPending = none ∧
      ∀ k, k ∈ t.port.trained ↔ k < 8 ∧ k ∈ locked ∧ k ∉ s.port.lanesOut) ∧
    ((∀ b, place b → ¬ lanes b) → ∃ t : State, exec (.linkTrain locked) s = .next t ∧ t.port.width = 0 ∧ t.port.trying = s.port.trying) ∧
    ∃ t : State, exec .linkWidthTimeout s = .next t ∧ t.port.width = 0 ∧ t.port.trying = if s.port.trying ≤ 1 then 3 else s.port.trying - 1) ∧
  (∀ s : State, s.portUp = true → ∃ t : State, exec .linkLoss s = .next t ∧ t.port.width = 0 ∧ t.port.base = 0 ∧ t.port.trying = 3 ∧ t.stg.syncPending = none ∧
    t.portServes = false) ∧
  (∀ s : State, ∃ t : State, exec .pluggableRemove s = .next t ∧ t.port.plugged = false ∧ t.port.width = 0 ∧ t.training = false) ∧
  (∀ (watts : Nat) (s : State), s.port.plugged = false → ∃ t : State, exec (.pluggableInsert watts) s = .next t ∧ t.port.plugged = true ∧
    (t.port.plugPowered = true ↔ watts ≤ 15) ∧ t.port.trying = 3 ∧ (15 < watts → t.training = false)) ∧
  ∀ s : State, s.portUp = true →
    (∀ a b, exec (.arpRequest a b) s = .next (if a = s.port.ipv4 ∧ a ≠ 0 then s.send (.arpReply a b) else s)) ∧
    (∀ a b, exec (.neighbourDiscovery a b) s =
      .next (if a = linkLocal s.port.mac ∨ (a = s.port.ipv6 ∧ a ≠ 0) then s.send (.ndReply a b) else s)) ∧
    (∀ v6 a b p, exec (.icmpEcho v6 a b p) s = .next (if (if v6 then s.ownV6 a else s.ownV4 a) then s.send (.echoReply v6 b p) else s)) ∧
    (∀ n, exec (.frameDrop n) s = .next { s with port := { s.port with dropped := s.port.dropped + 1 } }) ∧
    (∀ conn port h d, conn ∉ s.port.conns → exec (.icreq conn port h d) s =
      .next (if s.serving = false ∨ (port ≠ 4420 ∧ port ≠ 8009) then s.send (.tcpReset conn)
        else if h = false ∨ d = true then s.send (.termReq conn 6)
        else { s with port := { s.port with conns := s.port.conns ++ [conn] } }.send (.icResp conn))) ∧
    (∀ conn ok n, conn ∈ s.port.conns → ∃ t : State, exec (.tcpPduReceive conn ok n) s = .next t ∧
      (ok = true → t = s) ∧ (ok = false → t.port.conns = s.port.conns.erase conn ∧ t.port.tx = s.port.tx ++ [.termReq conn 3] ∧
        ∀ k ∈ t.que.ctrls, k.conn ≠ conn)) ∧
    (∀ qp port, (∀ q ∈ s.port.qps, q.1 ≠ qp) → exec (.rdmaConnectRequest qp port) s =
      .next (if s.serving = false ∨ port ≠ 4420 then s.send (.rdmaReject qp)
        else { s with port := { s.port with qps := s.port.qps ++ [(qp, 256, 0)] } }.send (.rdmaAccept qp))) ∧
    (∀ qp rate n, (s.port.qps.find? fun q => q.1 == qp) = some (qp, rate, n) →
      (∃ (t : State) (r : Nat), exec (.cnpReceived qp) s = .next t ∧ (t.port.qps.find? fun q => q.1 == qp) = some (qp, r, n) ∧ r ≤ rate ∧ (1 < rate → 1 ≤ r ∧ r < rate)) ∧
      (n < 7 → ∃ t : State, exec (.rdmaAckTimeout qp) s = .next t ∧ (t.port.qps.find? fun q => q.1 == qp) = some (qp, rate, n + 1) ∧
        t.port.tx = s.port.tx ++ [.rdmaResend qp]) ∧
      (7 ≤ n → ∃ t : State, exec (.rdmaAckTimeout qp) s = .next t ∧ (∀ q ∈ t.port.qps, q.1 ≠ qp) ∧ ∀ k ∈ t.que.ctrls, k.conn ≠ qp) ∧
      exec (.ecnMarkedPacket qp) s = .next (s.send (.cnp qp))) ∧
    ∀ p on, exec (.pfcPauseFrame p on) s = .next (if p = s.port.pfcPriority
      then { s with port := { s.port with paused := if on then insertNat p s.port.paused else s.port.paused.erase p } } else s)

/-- Connect makes controllers and I/O queues; properties, shutdown and Keep Alive serve them; every way of ending one orphans its sessions.
Connect of queue 0 is refused unless it asks for a new identifier, a KATO of 1,000 to 120,000 ms and a depth of 2 to 32; with no
identifier free it is busy; else a controller that is not enabled begins under the lowest free identifier, which is the answer. Connect of
another queue succeeds for an enabled controller of the same host only within the queues granted, depth 2 to 1,024 and 1,024 queues in
all; in the diagnostic state it is busy. Properties read CC.EN and CSTS back. CC.EN 1 enables. CC.EN 0, Disconnect, CONTROLLER_END and the
expiry of the keep-alive timer end the controller: it is gone, no waiting completion of it is left, its OPEN sessions are ORPHANED and no
session of another controller changes state. Keep Alive restarts the timer. A shutdown notification is answered and reported complete once
what was dirty has landed, at once in the diagnostic state. Depth limits of the admin queue, the count of granted queues and the free bits
of properties are the model's choices (log entries 44, 47 and 49). Each of these answers a next state, the one stated, under conditions on
state and operands alone: CONNECT, PROPERTY_GET, CC_ENABLE_CLEAR, CC_SHUTDOWN_NOTIFICATION, DISCONNECT, CONTROLLER_END, KEEP_ALIVE,
KEEP_ALIVE_EXPIRY, CC_ENABLE_SET. (R235, R392, R393, R394, R395, R396, R397, R399) -/
def Obligations.ControllersBeginServeAndEnd : Prop :=
  (∀ (tag : Tag) (conn : Nat) (a : ConnectArgs) (s : State), s.portServes = true → (conn ∈ s.port.conns ∨ ∃ q ∈ s.port.qps, q.1 = conn) →
    (a.qid = 0 → 
      let good := a.ctrlId = 0xFFFF ∧ 1000 ≤ a.kato ∧ a.kato ≤ 120000 ∧ 2 ≤ a.qsize ∧ a.qsize ≤ 32
      (¬ good → exec (.connect tag conn a) s = .next (s.reply_ tag .connectInvalid 0)) ∧
      (good → s.freeCtrlId a.discovery = none → exec (.connect tag conn a) s = .next (s.reply_ tag .connectBusy 0)) ∧
      (good → a.discovery = false → ∀ id, 1 ≤ id → id ≤ 256 → s.ctrl? id = none → (∀ k, 1 ≤ k → k < id → (s.ctrl? k).isSome = true) →
        ∃ (t : State) (k : Ctrl), exec (.connect tag conn a) s = .next t ∧ t.que.ctrls = s.que.ctrls ++ [k] ∧ k.id = id ∧ k.conn = conn ∧
          k.hostId = a.hostId ∧ k.kato = a.kato ∧ k.enabled = false ∧ k.queues = [] ∧ k.discovery = false ∧
          t.que.done = s.que.done ++ [⟨tag, 0, 0, false, BitVec.ofNat 32 id, 0, []⟩])) ∧
    (a.qid ≠ 0 → 
      (s.boot.mode = .diagnostic → exec (.connect tag conn a) s = .next (s.reply_ tag .connectBusy 0)) ∧
      (s.boot.mode = .ready → ∀ k, s.ctrl? a.ctrlId = some k →
        let fits := k.enabled = true ∧ k.discovery = false ∧ k.hostId = a.hostId ∧ k.hostNqn = a.hostNqn ∧ a.qid ≤ k.granted ∧ 2 ≤ a.qsize ∧
          a.qsize ≤ 1024 ∧ (s.que.ctrls.map fun c => c.queues.length).sum < 1024 ∧ ∀ q ∈ k.queues, q.1 ≠ a.qid
        (fits → exec (.connect tag conn a) s =
          .next ((s.updCtrl k.id fun k => { k with queues := k.queues ++ [(a.qid, a.qsize)] }).reply_ tag .ok k.id)) ∧
        (¬ fits → exec (.connect tag conn a) s = .next (s.reply_ tag .connectInvalid 0))))) ∧
  (∀ (id : Nat) (c : Ctrl) (s : State), s.powered = true → s.ctrl? id = some c →
    ∃ t : State, exec (.controllerEnd id) s = .next t ∧ exec (.keepAliveExpiry id) s = .next t ∧
      t.ctrl? id = none ∧ (∀ k ∈ t.que.ctrls, k ∈ s.que.ctrls) ∧ (∀ k ∈ s.que.ctrls, k.id ≠ id → k ∈ t.que.ctrls) ∧
      (∀ x ∈ t.ses.list, x.ctrl = id → x.st ≠ .opened) ∧
      (∀ n x, s.sess? n = some x → (∀ z ∈ s.ses.list, z.num = n → z.ctrl ≠ id ∨ z.st ≠ .opened) → ∃ y, t.sess? n = some y ∧ y.st = x.st) ∧
      (∀ d ∈ t.que.done, d.tag.ctrl ≠ id) ∧
      ∀ tag : Tag, tag.ctrl = id → s.portServes = true →
        exec (.disconnect tag) s = .next (t.reply_ tag .ok 0) ∧
        exec (.ccEnableClear tag) s = .next (t.reply_ tag .ok 0)) ∧
  ∀ (tag : Tag) (c : Ctrl) (s : State), s.portServes = true → s.ctrl? tag.ctrl = some c →
    exec (.ccEnableSet tag) s = .next ((s.updCtrl c.id fun c => { c with enabled := true }).succeed tag 0 0 []) ∧
    (c.enabled = true → exec (.keepAlive tag) s = .next ((s.updCtrl c.id fun c => { c with alive := c.alive + 1 }).succeed tag 0 0 [])) ∧
    (∀ offset, ∃ n : Nat, exec (.propertyGet tag offset) s = .next (
      let u : State := { s with freeCtr := s.freeCtr + 1 }
      if offset = 0 then u.succeed tag (1023 + 65536 + n % 256 * 2 ^ 24) 32 []
      else if offset = 8 then u.succeed tag n 0 []
      else if offset = 0x14 then u.succeed tag (n / 2 * 2 + (if c.enabled then 1 else 0)) 0 []
      else if offset = 0x1C then u.succeed tag ((if c.enabled then 1 else 0) + c.shst * 4) 0 []
      else u.fail tag .invalidField)) ∧
    ∀ abrupt,
      (s.boot.mode = .diagnostic → exec (.ccShutdownNotification tag abrupt) s =
        .next ((s.succeed tag 0 0 []).updCtrl c.id fun c => { c with shst := 2 })) ∧
      (s.boot.mode = .ready → ∃ t u : State, t = ({ u with xlt := { u.xlt with shutdowns := u.xlt.shutdowns ++ [(c.id, u.xlt.bufSeq)] } } : State).finishShutdown ∧
        u = (s.succeed tag 0 0 []).updCtrl c.id (fun c => { c with shst := 1 }) ∧ exec (.ccShutdownNotification tag abrupt) s = .next t)

/-- Get Features, Set Features, log pages, Identify, event requests, Abort and opcodes not supported. For an admitted command. Log pages 0xD0
to 0xD4 return the asked bytes of the page as the state makes it, by their own command or by Get Log Page alike; a read without RAE lets
the page's events post again; pages 0xD1 to 0xD3 and the summary are 512 bytes and end with the CRC-32C of the bytes before it. Other
pages are given or refused as the list of R409 has them. Get Features returns current, default and saved values and capabilities of a
known feature; another identifier fails. Set Features with SV fails; a value out of range fails and changes nothing; a valid value of
0xE1, 0xE3, 0xE4, 0x0B, 0x0F and 0x07 is what Get Features then returns; 0xE2 and a cleared 0x06 are not changeable; 0xE0 sets domain and
yoke, DISABLED from the next boundary where the yoke is not enabled. Identify gives the controller, a namespace, its descriptors or the
list of namespaces by the CNS values that R397 lists, and fails for every other. An event request completes with a kept event or waits,
four at most; Abort ends a write waiting at the cap, or answers that the command runs on; an opcode not supported fails. Places of
standard fields, the free bytes, the limit of four and capability bits are the model's (log entries 43 to 46). Each of these answers a
next state, the one stated, under conditions on state and operands alone: IDENTIFY, GET_LOG_PAGE, GET_LOG_PAGE_EVENT_LOG,
GET_LOG_PAGE_HEALTH, GET_LOG_PAGE_FUSES, GET_LOG_PAGE_TOPOLOGY, GET_LOG_PAGE_TIMETABLE, GET_FEATURES, SET_FEATURES, SET_FEATURES_YOKE,
SET_FEATURES_TIME_SLICE, SET_FEATURES_DIRTY_CAP, SET_FEATURES_DEADLINE_POLICY, SET_FEATURES_RECLAIM_WINDOW, ASYNC_EVENT_REQUEST, ABORT,
INVALID_OPCODE. (R40, R212, R225, R237, R398, R400, R407, R410, R421, R422, R487, R495) -/
def Obligations.AdminCommandsReportAndSet : Prop :=
  ∀ (tag : Tag) (c : Ctrl) (s : State), Admits tag c s →
    let gives := fun (i : Instr) (lid : Nat) (rae : Bool) (data : Bytes) => ∃ t : State, exec i s = .next t ∧
      t.que.done = s.que.done ++ [⟨tag, 0, 0, false, 0, 0, data⟩] ∧
      t.que.ctrls = (s.pageRead c lid rae).que.ctrls ∧ t.freeCtr ≤ s.freeCtr + 1
    (∀ (nsid offset len : Nat) (rae : Bool),
      gives (.getLogPageEventLog tag offset len rae) 0xD0 rae (slice s.pageEvents offset len) ∧
      gives (.getLogPageHealth tag offset len rae) 0xD1 rae (slice s.pageHealth offset len) ∧
      gives (.getLogPageFuses tag offset len rae) 0xD2 rae (slice s.pageFuses offset len) ∧
      gives (.getLogPageTopology tag offset len rae) 0xD3 rae (slice s.pageTopology offset len) ∧
      (∀ lsi, gives (.getLogPageTimetable tag 0 lsi offset len rae) 0xD4 rae (slice s.pageSummary offset len) ∧
        gives (.getLogPageTimetable tag 1 lsi offset len rae) 0xD4 rae (slice (s.pageSummary ++ ttBytes (s.ttNamed lsi)) offset len)) ∧
      exec (.getLogPage tag 0xD0 nsid offset len rae) s = exec (.getLogPageEventLog tag offset len rae) s ∧
      exec (.getLogPage tag 0xD1 nsid offset len rae) s = exec (.getLogPageHealth tag offset len rae) s ∧
      exec (.getLogPage tag 0xD2 nsid offset len rae) s = exec (.getLogPageFuses tag offset len rae) s ∧
      exec (.getLogPage tag 0xD3 nsid offset len rae) s = exec (.getLogPageTopology tag offset len rae) s ∧
      exec (.getLogPage tag 0xD4 nsid offset len rae) s = exec (.getLogPageTimetable tag 0 0 offset len rae) s ∧
      (∃ free, gives (.getLogPage tag 0x01 nsid offset len rae) 0x01 rae (slice (s.pageErrors free) offset len)) ∧
      ((nsid = 0 ∨ nsid = allNs) → ∃ free, gives (.getLogPage tag 0x02 nsid offset len rae) 0x02 rae (slice (s.pageSmart free) offset len)) ∧
      gives (.getLogPage tag 0x03 nsid offset len rae) 0x03 rae (slice s.pageSlot offset len) ∧
      gives (.getLogPage tag 0x04 nsid offset len rae) 0x04 rae (slice (fit 4096 (c.changedNs.flatMap (toLe 4))) offset len) ∧
      (∃ free, gives (.getLogPage tag 0x05 nsid offset len rae) 0x05 rae (slice (pageEffects free) offset len)) ∧
      (c.discovery = false → ∀ lid, lid ∉ [0x01, 0x02, 0x03, 0x04, 0x05, 0xD0, 0xD1, 0xD2, 0xD3, 0xD4] →
        ∃ t : State, exec (.getLogPage tag lid nsid offset len rae) s = .next t ∧ t.que.done = s.que.done ++ [⟨tag, 1, 0x09, true, 0, 0, []⟩])) ∧
    (∀ page ∈ [s.pageHealth, s.pageFuses, s.pageTopology, s.pageSummary], page.length = 512 ∧ field page 508 4 = crc32c (page.take 508)) ∧
    (∀ fid sel : Nat,
      (knownFeature fid = true → exec (.getFeatures tag fid 0) s = .next (s.succeed tag (s.featureNow c fid) 0 [])) ∧
      (knownFeature fid = true → exec (.getFeatures tag fid 3) s = .next (s.succeed tag (if fid = 0x06 ∨ fid = 0xE2 then 0 else 4) 0 [])) ∧
      (knownFeature fid = true → sel = 1 ∨ sel = 2 → ∃ n : Nat, exec (.getFeatures tag fid sel) s =
        .next (State.succeed { s with freeCtr := s.freeCtr + 1 } tag (s.featureDefault fid n) 0 [])) ∧
      (knownFeature fid = false ∨ 3 < sel → exec (.getFeatures tag fid sel) s = .next (s.fail tag .invalidField))) ∧
    (∀ (fid : Nat) (v : BitVec 32),
      exec (.setFeatures tag fid true v.toNat) s = .next (s.fail tag .notSaveable) ∧
      exec (.setFeaturesYoke tag true v) s = .next (s.fail tag .notSaveable) ∧ exec (.setFeaturesTimeSlice tag true v) s = .next (s.fail tag .notSaveable) ∧
      exec (.setFeaturesDirtyCap tag true v) s = .next (s.fail tag .notSaveable) ∧ exec (.setFeaturesDeadlinePolicy tag true v) s = .next (s.fail tag .notSaveable) ∧
      exec (.setFeaturesReclaimWindow tag true v) s = .next (s.fail tag .notSaveable) ∧
      exec (.setFeatures tag 0xE0 false v.toNat) s = exec (.setFeaturesYoke tag false v) s ∧
      exec (.setFeatures tag 0xE1 false v.toNat) s = exec (.setFeaturesTimeSlice tag false v) s ∧
      exec (.setFeatures tag 0xE2 false v.toNat) s = exec (.setFeaturesDirtyCap tag false v) s ∧
      exec (.setFeatures tag 0xE3 false v.toNat) s = exec (.setFeaturesDeadlinePolicy tag false v) s ∧
      exec (.setFeatures tag 0xE4 false v.toNat) s = exec (.setFeaturesReclaimWindow tag false v) s ∧
      exec (.setFeaturesDirtyCap tag false v) s = .next (s.fail tag .notChangeable) ∧
      (v.getLsbD 0 = false → exec (.setFeatures tag 0x06 false v.toNat) s = .next (s.fail tag .notChangeable)) ∧
      (sliceOk v.toNat = false → exec (.setFeaturesTimeSlice tag false v) s = .next (s.fail tag .invalidField)) ∧
      (sliceOk v.toNat = true → ∃ t : State, exec (.setFeaturesTimeSlice tag false v) s = .next t ∧
        t.featureNow c 0xE1 = (v.extractLsb' 16 1).toNat * 65536 + (v.extractLsb' 0 15).toNat ∧ t.ses.list = s.ses.list ∧ t.ses.parts = s.ses.parts) ∧
      ((v.extractLsb' 16 16).toNat < 16 → exec (.setFeaturesDeadlinePolicy tag false v) s = .next (s.fail tag .invalidField)) ∧
      (16 ≤ (v.extractLsb' 16 16).toNat → ∃ t : State, exec (.setFeaturesDeadlinePolicy tag false v) s = .next t ∧
        t.featureNow c 0xE3 = (v.extractLsb' 16 16).toNat * 65536 + (v.extractLsb' 8 3).toNat * 256 + (v.extractLsb' 0 1).toNat ∧ t.ses.list = s.ses.list) ∧
      (3600 < (v.extractLsb' 0 12).toNat → exec (.setFeaturesReclaimWindow tag false v) s = .next (s.fail tag .invalidField)) ∧
      ((v.extractLsb' 0 12).toNat ≤ 3600 → ∃ t : State, exec (.setFeaturesReclaimWindow tag false v) s = .next t ∧
        t.featureNow c 0xE4 = (v.extractLsb' 0 12).toNat ∧ t.ses.list = s.ses.list) ∧
      (127 < (v.extractLsb' 8 8).toNat → exec (.setFeaturesYoke tag false v) s = .next (s.fail tag .invalidField)) ∧
      ((v.extractLsb' 8 8).toNat ≤ 127 → ∃ t : State, exec (.setFeaturesYoke tag false v) s = .next t ∧
        t.stg.ptpDomain = (v.extractLsb' 8 8).toNat ∧ t.stg.yokeEn = (v.getLsbD 0 && s.stg.capable) ∧ t.stg.ptpTrim = v.getLsbD 1 ∧ t.stg.lineTrim = v.getLsbD 2 ∧
        ((v.getLsbD 0 && s.stg.capable) = false → t.stg.yokeSoon = .disabled)) ∧
      (∃ t : State, exec (.setFeatures tag 0x07 false v.toNat) s = .next t ∧ t.que.done = s.que.done ++ [⟨tag, 0, 0, false,
          BitVec.ofNat 32 (min (v.extractLsb' 16 16).toNat 63 * 65536 + min (v.extractLsb' 0 16).toNat 63), 0, []⟩] ∧
        ∀ k ∈ t.que.ctrls, k.id = c.id → k.granted = min (min (v.extractLsb' 0 16).toNat 63) (min (v.extractLsb' 16 16).toNat 63) + 1) ∧
      (1000 ≤ v.toNat → v.toNat ≤ 120000 → ∃ t : State, exec (.setFeatures tag 0x0F false v.toNat) s = .next t ∧ ∀ k ∈ t.que.ctrls, k.id = c.id → k.kato = v.toNat) ∧
      (∃ t : State, exec (.setFeatures tag 0x0B false v.toNat) s = .next t ∧ ∀ k ∈ t.que.ctrls, k.id = c.id → k.evCfg = v.toNat) ∧
      (knownFeature fid = false → exec (.setFeatures tag fid false v.toNat) s = .next (s.fail tag .invalidField))) ∧
    (∀ nsid : Nat, (∃ free, gives (.identify tag 1 nsid) 0 true (s.identifyController c free)) ∧
      (∀ n, s.ns? nsid = some n → ∃ free, gives (.identify tag 0 nsid) 0 true (identifyNamespace n free) ∧
        gives (.identify tag 0x11 nsid) 0 true (identifyNamespace n free) ∧ gives (.identify tag 3 nsid) 0 true (nsDescriptors free)) ∧
      (∀ cns ∈ [0x02, 0x10], gives (.identify tag cns nsid) 0 true
        (fit 4096 (((s.ns.list.map fun n => n.nsid).filter fun k => decide (nsid < k)).flatMap (toLe 4)))) ∧
      ∀ cns ∉ [0x00, 0x01, 0x02, 0x03, 0x10, 0x11], ∃ t : State, exec (.identify tag cns nsid) s = .next t ∧ t.que.done = (s.fail tag .invalidField).que.done) ∧
    (∀ type info page rest, c.held = (type, info, page) :: rest → exec (.asyncEventRequest tag) s =
      .next ((s.updCtrl c.id fun c => { c with held := rest }).succeed tag (type + info * 256 + page * 65536) 0 [])) ∧
    (c.held = [] → exec (.asyncEventRequest tag) s =
      .next (if 4 ≤ c.aers.length then s.fail tag .aerLimit else s.updCtrl c.id fun c => { c with aers := c.aers ++ [tag.cid] })) ∧
    (∀ cid, ((∃ w ∈ s.xlt.capWaits, w.tag = ⟨c.id, cid⟩) → ∃ t : State, exec (.abort tag cid) s = .next t ∧
        (∀ w, w ∈ t.xlt.capWaits ↔ w ∈ s.xlt.capWaits ∧ w.tag ≠ ⟨c.id, cid⟩) ∧
        t.que.done = ((s.fail ⟨c.id, cid⟩ .abortRequested).succeed tag 0 0 []).que.done) ∧
      (s.abortTag ⟨c.id, cid⟩ = none → exec (.abort tag cid) s = .next (s.succeed tag 1 0 []))) ∧
    ∀ admin opcode, exec (.invalidOpcode tag admin opcode) s = .next (s.fail tag .invalidOpcode)

/-- Namespaces are created, deleted and formatted, locked by passwords, and the module attests itself by SPDM. For an admitted command. A
creation is checked in order: descriptor, number, capacity, stamp; one that passes takes the lowest free number, its stamp and a fresh
key, and other namespaces stand. A deletion waits for the boundary; there the namespace is gone, no unit of it is mapped and no grant
names it; it completes with the last old key table. A format waits for the boundary; there the namespace has a fresh key, the boundary's
stamp, its new block size, no generation and no mapped unit, and its lock stands; PI, PIL or a format out of range fail. The full format
is refused while a session or a lock stands; else no namespace is left, full-format is pending until the next power-on, and from boundary
to boundary every die's blocks are erased one after the other, on at most four dies of a channel at once; after the last the full state is
clear, the log begins with the format and it completes. SET_PASSWORD, LOCK and UNLOCK change a lock only with the password; eight failures
in a row deny the rest; its state is read back. A session key is given to the controller it is attached to alone. SPDM answers in its
order, and CHALLENGE and GET_MEASUREMENTS are signed. The order of SPDM requests, its codes and the places of its fields are the model's
(PRESUMED, log entry 53), as is that a second deletion fails (DEDUCED, log entry 51). Each of these answers a next state, the one stated,
under conditions on state and operands alone: NAMESPACE_CREATE, NAMESPACE_DELETE, NAMESPACE_DELETE_EFFECT, NAMESPACE_DELETE_COMPLETE,
FORMAT_NVM, FORMAT_EFFECT, FORMAT_NVM_FULL, SECURITY_SET_PASSWORD, SECURITY_LOCK, SECURITY_UNLOCK, SECURITY_RECEIVE_LOCK_STATE,
SECURITY_RECEIVE_SESSION_KEY, SPDM_GET_VERSION, SPDM_GET_CAPABILITIES, SPDM_NEGOTIATE_ALGORITHMS, SPDM_GET_DIGESTS, SPDM_GET_CERTIFICATE,
SPDM_CHALLENGE, SPDM_GET_MEASUREMENTS. (R326, R327, R328, R402, R403, R404, R405, R406, R417, R490, R491, R499) -/
def Obligations.NamespacesAreMadeLockedAndDestroyed : Prop :=
  (∀ (tag : Tag) (c : Ctrl) (flbas nsze ncap : Nat) (header : Bytes) (s : State), Admits tag c s →
    let make : Instr := .namespaceCreate tag flbas nsze ncap header
    (describe flbas nsze ncap header = none → exec make s = .next (s.fail tag .invalidField)) ∧
    ∀ n, describe flbas nsze ncap header = some n →
      let used := (s.ns.list.map fun m => m.charge).sum
      ((∀ k, 1 ≤ k → k ≤ 256 → (s.ns? k).isSome = true) → exec make s = .next (s.fail tag .nsIdUnavailable)) ∧
      ∀ k, 1 ≤ k → k ≤ 256 → s.ns? k = none → (∀ j, 1 ≤ j → j < k → (s.ns? j).isSome = true) →
        (61184 < nsCharge n + used → exec make s = .next (s.fail tag .nsInsufficient)) ∧
        (nsCharge n + used ≤ 61184 → s.stg.exhausted = true → exec make s = .next (s.fail tag .stampExhausted)) ∧
        (nsCharge n + used ≤ 61184 → s.stg.exhausted = false → ∃ t : State, exec make s = .next t ∧
          t.ns? k = some { n with nsid := k, charge := nsCharge n, key := s.ns.keyNo, created := s.stamp } ∧ t.ns.keyNo = s.ns.keyNo + 1 ∧
          (∀ j, j ≠ k → t.ns? j = s.ns? j) ∧ ∃ l, t.que.done = s.que.done ++ l ++ [⟨tag, 0, 0, false, BitVec.ofNat 32 k, 0, []⟩])) ∧
  (∀ (tag : Tag) (c : Ctrl) (nsid : Nat) (s : State), Admits tag c s → nsid ≠ allNs →
    ((∀ n ∈ s.ns.list, n.nsid = nsid → n.deleting.isSome = true) → exec (.namespaceDelete tag nsid) s = .next (s.fail tag .invalidNs)) ∧
    ((∃ n ∈ s.ns.list, n.nsid = nsid ∧ n.deleting = none) → ∃ t : State, exec (.namespaceDelete tag nsid) s = .next t ∧ t.que = s.que ∧
      t.ns.list = s.ns.list.map fun n => if n.nsid = nsid ∧ n.deleting = none then { n with deleting := some tag } else n)) ∧
  (∀ (nsid : Nat) (n : Ns) (s : State), s.powered = true → s.ns? nsid = some n → 
    (∀ tag, n.deleting = some tag → ∃ t : State, exec (.namespaceDeleteEffect nsid) s = .next t ∧ t.ns? nsid = none ∧
      (∀ u, u < 2 ^ 40 → t.entry (nsid - 1) u = unmapped) ∧ (∀ x ∈ t.ses.list, ∀ g ∈ x.quota.grants, g.1 ≠ nsid) ∧ (nsid, some tag) ∈ t.ns.erasing) ∧
    ∀ tag lbaf, n.formatting = some (tag, lbaf) → ∃ (t : State) (m : Ns), exec (.formatEffect nsid) s = .next t ∧ t.ns? nsid = some m ∧
      m.key = s.ns.keyNo ∧ t.ns.keyNo = s.ns.keyNo + 1 ∧ m.created = s.boundaryStamp ∧ m.lba = (if lbaf = 0 then 4096 else 16384) ∧ m.gens = [] ∧ m.formatting = none ∧
      m.lock = n.lock ∧ m.kind = n.kind ∧ m.charge = n.charge ∧ ∀ u, u < 2 ^ 40 → t.entry (nsid - 1) u = unmapped) ∧
  (∀ (nsid : Nat) (tag : Tag) (s : State), s.powered = true → (s.ns.erasing.find? fun e => e.1 == nsid) = some (nsid, some tag) →
    let left := s.ns.erasing.filter fun e => e.1 != nsid
    exec (.namespaceDeleteComplete nsid) s =
      .next (if (∃ e ∈ left, e.2 = some tag) ∨ ∃ n ∈ s.ns.list, n.deleting = some tag then { s with ns := { s.ns with erasing := left } }
        else State.succeed { s with ns := { s.ns with erasing := left } } tag 0 0 [])) ∧
  (∀ (tag : Tag) (c : Ctrl) (nsid lbaf ses pi pil : Nat) (s : State), Admits tag c s →
    (pi ≠ 0 ∨ pil ≠ 0 ∨ 1 < lbaf ∨ 2 < ses → exec (.formatNvm tag nsid lbaf ses pi pil) s = .next (s.fail tag .invalidField)) ∧
    (lbaf ≤ 1 → exec (.formatNvm tag allNs lbaf 1 0 0) s = exec (.formatNvmFull tag) s) ∧
    (lbaf ≤ 1 → ses ≤ 2 → nsid ≠ allNs → ∀ n, s.ns? nsid = some n →
      ((∀ m ∈ s.ns.list, m.nsid = nsid → m.formatting = none) → ∃ t : State, exec (.formatNvm tag nsid lbaf ses 0 0) s = .next t ∧ t.que = s.que ∧
        t.ns? nsid = some { n with formatting := some (tag, lbaf) } ∧ ∀ k, k ≠ nsid → t.ns? k = s.ns? k) ∧
      (n.formatting.isSome = true → exec (.formatNvm tag nsid lbaf ses 0 0) s = .next (s.fail tag .formatInProgress))) ∧
    (s.ses.list ≠ [] ∨ (∃ n ∈ s.ns.list, n.lockNow.readLock = true ∨ n.lockNow.writeLock = true) →
      exec (.formatNvmFull tag) s = .next (s.fail tag .operationDenied)) ∧
    (s.ses.list = [] → (∀ n ∈ s.ns.list, n.lockNow.readLock = false ∧ n.lockNow.writeLock = false) → s.stg.loaded = true →
      ∃ t : State, exec (.formatNvmFull tag) s = .next t ∧ t.ns.list = [] ∧ t.ns.formatPending = true ∧ t.ns.formatAll = some tag ∧
        t.fla.formatNext = [])) ∧
  (∀ (tag : Tag) (s : State), s.ns.formatAll = some tag → s.flashClock = true →
    ((∃ d ∈ s.fla.dies, s.dieIn d = true ∧ Tab.get 0 s.fla.formatNext d < 4096) → s.formatTick = (s.fla.dies.filter s.dieIn).foldl State.formatDie s) ∧
    (s.stg.loaded = true → (s.ctrl? tag.ctrl).isSome = true →
      (∀ d ∈ s.fla.dies, s.dieIn d = true → 4096 ≤ Tab.get 0 s.fla.formatNext d ∧ ∀ o ∈ s.fla.ops, o.die ≠ d) →
      s.formatTick.ns.formatAll = none ∧ s.formatTick.xlt.full = false ∧ (∃ e, s.formatTick.fwc.events.head? = some e ∧ e.code = 0x0014) ∧
      ∃ d ∈ s.formatTick.que.done, d.tag = tag ∧ d.sct = 0 ∧ d.sc = 0)) ∧
  (∀ (die : Nat) (s : State), let b := Tab.get 0 s.fla.formatNext die
    (4096 ≤ b ∨ (∃ o ∈ s.fla.ops, o.die = die) ∨ 4 ≤ s.erasingOn (chanOf die) → s.formatDie die = s) ∧
    (b < 4096 → (∀ o ∈ s.fla.ops, o.die ≠ die) → s.erasingOn (chanOf die) < 4 → s.planesIn die b ≠ [] →
      s.formatDie die = ({ s with fla := { s.fla with formatNext := Tab.set 0 s.fla.formatNext die (b + 1) } } : State).issueErase die b)) ∧
  (∀ (tag : Tag) (c : Ctrl) (b : Bytes) (n : Ns) (s : State), Admits tag c s → s.ns? (field b 0 4) = some n →
    let l := n.lockNow
    let locked := fun (i : Instr) (st : Status) (p : Lock → Prop) => ∃ (t : State) (m : Ns), exec i s = .next t ∧ t.ns? n.nsid = some m ∧ p m.lockNow ∧ m.lock = n.lock ∧
      (∃ d, t.que.done = s.que.done ++ [d] ∧ d.tag = tag ∧ d.sct = st.sct ∧ d.sc = st.sc) ∧ ∀ k, k ≠ n.nsid → t.ns? k = s.ns? k
    let missed := fun q : Lock => q = { l with failures := l.failures + 1 }
    (lockFieldsOk 1 b = false → exec (.securitySetPassword tag b) s = .next (s.fail tag .invalidField)) ∧
    (lockFieldsOk 2 b = false → exec (.securityLock tag b) s = .next (s.fail tag .invalidField)) ∧
    (lockFieldsOk 3 b = false → exec (.securityUnlock tag b) s = .next (s.fail tag .invalidField)) ∧
    (8 ≤ l.failures → (lockFieldsOk 1 b = true → exec (.securitySetPassword tag b) s = .next (s.fail tag .operationDenied)) ∧
      (lockFieldsOk 2 b = true → exec (.securityLock tag b) s = .next (s.fail tag .operationDenied)) ∧
      (lockFieldsOk 3 b = true → exec (.securityUnlock tag b) s = .next (s.fail tag .operationDenied))) ∧
    (l.failures < 8 → 
      (lockFieldsOk 1 b = true → l.passwordSet = true → oldMatches l b = false → locked (.securitySetPassword tag b) .accessDenied missed) ∧
      (lockFieldsOk 2 b = true → l.passwordSet = true → oldMatches l b = false → locked (.securityLock tag b) .accessDenied missed) ∧
      (lockFieldsOk 3 b = true → oldMatches l b = false → locked (.securityUnlock tag b) .accessDenied missed) ∧
      (lockFieldsOk 2 b = true → l.passwordSet = false → exec (.securityLock tag b) s = .next (s.fail tag .invalidField)) ∧
      (lockFieldsOk 1 b = true → l.passwordSet = false → field b 5 1 ≠ 0 → exec (.securitySetPassword tag b) s = .next (s.fail tag .invalidField)) ∧
      (lockFieldsOk 1 b = true → (l.passwordSet = false ∧ field b 5 1 = 0) ∨ oldMatches l b = true →
        (field b 6 1 = 0 → locked (.securitySetPassword tag b) .ok fun q => q = {}) ∧
        (field b 6 1 ≠ 0 → locked (.securitySetPassword tag b) .ok fun q => q.passwordSet = true ∧ q.salt.length = 32 ∧
          q.verifier = sha3_512 (q.salt ++ slice b 72 (field b 6 1)) ∧ q.readLock = l.readLock ∧ q.writeLock = l.writeLock ∧ q.atPowerOn = l.atPowerOn ∧ q.failures = 0)) ∧
      (lockFieldsOk 2 b = true → oldMatches l b = true → locked (.securityLock tag b) .ok fun q => q = { l with
        readLock := l.readLock || bit (field b 4 1) 0, writeLock := l.writeLock || bit (field b 4 1) 1, atPowerOn := l.atPowerOn || bit (field b 4 1) 2, failures := 0 }) ∧
      (lockFieldsOk 3 b = true → oldMatches l b = true → locked (.securityUnlock tag b) .ok fun q =>
        q = { l with readLock := false, writeLock := false, failures := 0 })) ∧
    ∀ alloc, exec (.securityReceiveLockState tag n.nsid alloc) s =
      .next (s.succeed tag 0 0 ((toLe 1 (lockByte l) ++ toLe 1 (8 - l.failures) ++ zeros 6).take alloc))) ∧
  (∀ (tag : Tag) (c : Ctrl) (sess alloc : Nat) (x : Session) (s : State), Admits tag c s → s.sess? sess = some x →
    exec (.securityReceiveSessionKey tag sess alloc) s = .next (if alloc < 16 then s.fail tag .invalidField
      else if x.ctrl = c.id ∧ x.st ≠ .orphaned then s.succeed tag 0 0 (toLe 1 x.num ++ zeros 7 ++ toLe 8 x.key) else s.fail tag .accessDenied)) ∧
  ∀ (tag : Tag) (c : Ctrl) (s : State), Admits tag c s →
    let tells := fun (i : Instr) (at_ : Nat) (r : Bytes) => ∃ t : State, exec i s = .next t ∧ t.spdmAt c.id = at_ ∧ t.port.tx = s.port.tx ++ [.spdm tag r] ∧
      t.que.done = s.que.done ++ [⟨tag, 0, 0, false, 0, 0, []⟩]
    let now := s.spdmAt c.id
    let early := spdmMsg 0x7F 4 0 []
    tells (.spdmGetVersion tag) 1 ([0x10, 0x04, 0, 0, 0, 1] ++ toLe 2 0x1400) ∧
    (now = 0 → tells (.spdmGetCapabilities tag) now early) ∧ (now < 2 → tells (.spdmNegotiateAlgorithms tag) now early) ∧
    (now < 3 → tells (.spdmGetDigests tag) now early ∧ ∀ slot a n nonce, tells (.spdmGetCertificate tag slot a n) now early ∧
      tells (.spdmChallenge tag slot nonce) now early ∧ tells (.spdmGetMeasurements tag slot nonce) now early) ∧
    (1 ≤ now → tells (.spdmGetCapabilities tag) 2 (spdmMsg 0x61 0 0 (zeros 4 ++ toLe 4 22))) ∧
    (2 ≤ now → ∃ r, tells (.spdmNegotiateAlgorithms tag) 3 (spdmMsg 0x63 0 0 r)) ∧
    (3 ≤ now → 
      tells (.spdmGetDigests tag) now (if s.sec.chain = [] then spdmMsg 0x01 0 1 (sha3_512 (Config.certChain s.sec.aliasNo))
        else spdmMsg 0x01 0 3 (sha3_512 (Config.certChain s.sec.aliasNo) ++ sha3_512 s.sec.chain)) ∧
      (∀ slot b, s.spdmChain slot = some b → ∀ offset len, offset ≤ b.length →
        tells (.spdmGetCertificate tag slot offset len) now (spdmMsg 0x02 slot 0 (toLe 2 (slice b offset len).length ++
          toLe 2 (b.length - offset - (slice b offset len).length) ++ slice b offset len))) ∧
      (∀ slot, s.spdmChain slot = none → (∀ a n, tells (.spdmGetCertificate tag slot a n) now (spdmMsg 0x7F 1 0 [])) ∧
        ∀ nonce, tells (.spdmChallenge tag slot nonce) now (spdmMsg 0x7F 1 0 [])) ∧
      (∀ slot b nonce, s.spdmChain slot = some b → ∃ mine : Nat,
        let body := spdmMsg 0x03 slot (2 ^ slot) (sha3_512 b ++ toLe 32 mine ++
          sha3_512 ([1, 2, 3, 4, 5, 6, 7].flatMap fun k => (s.measurement k).getD []) ++ zeros 2)
        tells (.spdmChallenge tag slot nonce) now (body ++ Config.sign (leNat s.aliasSeed) (fit 32 nonce ++ body))) ∧
      (∀ k m nonce, 1 ≤ k → k ≤ 7 → s.measurement k = some m → ∃ mine : Nat,
        let body := spdmMsg 0x60 0 0 (toLe 1 1 ++ toLe 3 (1 + m.length) ++ (toLe 1 k ++ m) ++ toLe 32 mine ++ zeros 2)
        tells (.spdmGetMeasurements tag k nonce) now (body ++ Config.sign (leNat s.aliasSeed) (fit 32 nonce ++ body))) ∧
      ∀ k nonce, 7 < k → k ≠ 255 → tells (.spdmGetMeasurements tag k nonce) now (spdmMsg 0x7F 1 0 []))

/-- Bring-up reads fuses and records, tests and trains, verifies the image, checks the topology and reaches ready, each step in its turn. A
step of bring-up whose turn has not come or is past changes nothing. FUSE_READ adds the blown fuses, from which owners, version, serial
number and trim come. CONFIG_RECORD_READ takes the records that stand, with the resets of those absent, and logs each ignored one. Tests
take out what failed or is fused: DRAM packages, channels, dies, lanes, coaches and links; DRAM_FILL zeroes DRAM. A header that fails a
check of R454 leaves no firmware and no port; one that passes gives its version and signer. An owner chain that is not authorised installs
nothing; an authorised one blows the new digest's fuses, and the yoke fuse where it says so. The topology check holds the module in the
diagnostic state on a cause of R466, else READY or REDUCED. The main firmware's start takes locks at power-on; the scan takes the newest
mark; replay follows unless the mark is clean, and counts 50,000 reads; media work begins the erase of every cut block again and asks for
a mark; ready, once all is in flash and nothing that a test mode programmed is left, ends the test modes, begins topology generation 1 and
raises the security version. A reseed is recorded. The order and the held events are read from the rules (DEDUCED, log entries 54 to 58).
Each of these answers a next state, the one stated, under conditions on state and operands alone: MAP_REBUILD, FUSE_READ,
CONFIG_RECORD_READ, DRAM_TRAINING, DRAM_FILL, FIRMWARE_IMAGE_VERIFY, OWNER_CHAIN_CHECK, FLASH_CHANNEL_TRAINING, DIE_IDENTIFICATION,
PORT_LANE_TEST, COACH_SELF_TEST, TOPOLOGY_CHECK, MAIN_FIRMWARE_START, MEDIA_SCAN, MEDIA_WORK, READY, DRBG_RESEED. (R45, R192, R448, R450,
R454, R456, R462, R464, R466, R468, R492, R496) -/
def Obligations.BringUpRunsInItsOrder : Prop :=
  (∀ (s : State), (s.powered = false → ∀ l l' l'' l''' ok sets, ∀ i ∈ ([.fuseRead l, .configRecordRead, .dramTraining l, .dramFill, .flashChannelTraining l,
      .dieIdentification l, .portLaneTest l, .coachSelfTest l l' l'' l''', .firmwareImageVerify ok, .ownerChainCheck ok, .topologyCheck, .mainFirmwareStart,
      .mediaScan, .mapRebuild sets, .mediaWork, .ready, .drbgReseed] : List Instr), exec i s = .next s) ∧
    (s.testing = false → ∀ l l' l'' l''' ok, ∀ i ∈ ([.dramTraining l, .dramFill, .flashChannelTraining l, .dieIdentification l, .portLaneTest l,
      .coachSelfTest l l' l'' l''', .firmwareImageVerify ok, .ownerChainCheck ok, .topologyCheck] : List Instr), exec i s = .next s) ∧
    (s.starting = false → ∀ sets, ∀ i ∈ ([.mainFirmwareStart, .mediaScan, .mapRebuild sets, .mediaWork, .ready] : List Instr), exec i s = .next s) ∧
    (s.boot.ph.scan = false → ∀ sets, exec (.mapRebuild sets) s = .next s) ∧ (s.boot.ph.work = false → exec .ready s = .next s)) ∧
  (∀ (fuses : List Nat) (s : State), s.powered = true → s.boot.mode = .bringUp → s.boot.ph.fuses = false → ∃ t : State, exec (.fuseRead fuses) s = .next t ∧
    t.boot.ph.fuses = true ∧ (∀ k, k ∈ t.sec.fuses ↔ k ∈ s.sec.fuses ∨ (k ∈ fuses ∧ k < 8192)) ∧ t.stg.capable = !t.fuse 20 ∧
    t.clk.trim = max (-250000) (min 250000 t.factoryTrim) ∧ t.sec.serial = toLe 16 (t.fuseField 24 128) ∧ t.sec.secFused = t.fuseCount 2968 128) ∧
  (∀ s : State, s.powered = true → s.boot.mode = .bringUp → s.boot.ph.fuses = true → s.boot.ph.records = false → s.clocksUp = true → s.stg.loaded = false →
    let stand := (sortRecords s.sec.serial s.records).1
    let get := fun t : Nat => (stand.find? fun r => r.type == t).map fun r => r.value
    ∃ t : State, exec .configRecordRead s = .next t ∧ t.boot.ph.records = true ∧ t.boot.stand = stand.map (fun r => r.type) ∧
      (get 2 = none → t.fla.tRead = s.fla.tRead ∧ t.fla.tProg = s.fla.tProg ∧ t.fla.tErase = s.fla.tErase) ∧
      (∀ v, get 2 = some v → t.fla.tRead = field v 8 1 ∧ t.fla.tProg = field v 9 1 ∧ t.fla.tErase = field v 10 2) ∧
      (get 3 = none → t.stg.yokeEn = false ∧ t.stg.ptpDomain = 0 ∧ t.stg.yoke = .disabled) ∧
      (∀ v, get 3 = some v → t.port.mac = field v 0 6 ∧ t.port.vlan = field v 6 2 ∧ t.port.ipv4 = field v 8 4 ∧ t.port.ipv6 = field v 16 16 ∧
        t.stg.ptpDomain = field v 14 1 ∧ t.stg.yokeEn = (bit (field v 15 1) 0 && s.stg.capable)) ∧
      (get 4 = none → t.ses.slice = 1024 ∧ t.ses.pack = 0) ∧ (get 5 = none → t.drm.cacheGiB = 32) ∧ (get 6 = none → t.stg.policy = 0 ∧ t.stg.waitMs = 3000) ∧
      t.fwc.early.length = s.fwc.early.length + (sortRecords s.sec.serial s.records).2.length + if s.records.any (fun r => r.type == 5) then 0 else 1) ∧
  (∀ (failed fr fl fg : List Nat) (s : State), s.testing = true →
    (s.boot.ph.dram = false → ∃ t : State, exec (.dramTraining failed) s = .next t ∧ t.boot.ph.dram = true ∧
      ∀ p, p ∈ t.drm.present ↔ p < 12 ∧ p ∉ failed ∧ s.fuse (packageFuse p) = false) ∧
    (s.boot.ph.dram = true → s.boot.ph.filled = false → ∃ t : State, exec .dramFill s = .next t ∧ t.boot.ph.filled = true ∧
      (∀ a, Tab.get 0 t.drm.data a = 0 ∧ Tab.get 0 t.drm.check a = 0) ∧ ∀ p, p < 12 → (p, fillReg (s.drm.present.contains p)) ∈ t.drm.fill) ∧
    (s.boot.ph.channels = false → ∃ t : State, exec (.flashChannelTraining failed) s = .next t ∧ t.boot.ph.channels = true ∧
      ∀ c, c ∈ t.fla.channels ↔ c < 64 ∧ c ∉ failed ∧ s.fuse (channelFuse c) = false) ∧
    (s.boot.ph.channels = true → s.boot.ph.dies = false → ∃ t : State, exec (.dieIdentification failed) s = .next t ∧ t.boot.ph.dies = true ∧
      ∀ d, d ∈ t.fla.dies ↔ d < 1024 ∧ d ∉ failed ∧ chanOf d ∈ s.fla.channels) ∧
    (s.boot.ph.lanes = false → ∃ t : State, exec (.portLaneTest failed) s = .next t ∧ t.boot.ph.lanes = true ∧ t.port.trying = 3 ∧
      ∀ k, k ∈ t.port.lanesOut ↔ k < 8 ∧ (k ∈ failed ∨ s.fuse (laneFuse k) = true)) ∧
    (s.boot.ph.coaches = false → ∃ t : State, exec (.coachSelfTest failed fr fl fg) s = .next t ∧ t.boot.ph.coaches = true ∧
      (∀ c, c < 256 → (c ∈ failed ∨ c ∈ fr ∨ s.coachFused c = true → t.coachIn c = false) ∧
        (¬ (c ∈ failed ∨ c ∈ fr ∨ s.coachFused c = true) → t.coaRole c = s.coaRole c)) ∧
      ∀ k, k < 480 → (k ∈ t.fab.linksOut ↔ k ∈ fl ∨ s.fuse (meshFuse k) = true ∨ ∃ c, c < 256 ∧ (c ∈ fr ∨ 2 ≤ s.coachFuse c) ∧ k ∈ routerLinks c))) ∧
  (∀ (ok : Bool) (s : State), s.testing = true →
    (s.boot.ph.filled = true → s.boot.ph.image = false → ∃ t : State, exec (.firmwareImageVerify ok) s = .next t ∧ t.boot.ph.image = true ∧
      (s.imageChecks s.imageHeader ok = true → t.sec.imageOk = true ∧ t.sec.secVersion = field s.imageHeader 12 4 ∧ t.sec.fwVersion = field s.imageHeader 16 8 ∧
        t.sec.signer = field s.imageHeader 24 1) ∧
      (s.imageChecks s.imageHeader ok = false → t.port.width = 0 ∧ t.sec = s.sec)) ∧
    (s.imageChecks s.imageHeader false = false) ∧
    (s.sec.imageOk = true → s.boot.ph.owner = false →
      ((s.standing.find? fun r => r.type == 8) = none → exec (.ownerChainCheck ok) s = .next { s with boot := { s.boot with ph := { s.boot.ph with owner := true } } }) ∧
      ∀ r, (s.standing.find? fun r => r.type == 8) = some r →
        let auth := sha3_512 (slice r.value 2600 2592)
        let new := sha3_512 (slice r.value 8 2592)
        let mine := match s.sec.owners.getLast? with | some d => d | none => toLe 64 Config.factoryDigest.toNat
        (ok = false ∨ mine ≠ auth → ∃ t : State, exec (.ownerChainCheck ok) s = .next t ∧ t.sec = s.sec ∧ 8 ∉ t.boot.stand) ∧
        (ok = true → mine = auth → bit (field r.value 0 4) 0 = true → s.sec.owners.getLast? ≠ some new → s.sec.owners.length < 5 →
          ∃ t : State, exec (.ownerChainCheck ok) s = .next t ∧ t.sec.chain = r.value.drop 9824 ∧
            (∀ k ∈ s.sec.fuses, k ∈ t.sec.fuses) ∧ ∀ i, i < 512 → bit (leNat new) i = true → 408 + 512 * s.sec.owners.length + i ∈ t.sec.fuses) ∧
        (ok = true → mine = auth → bit (field r.value 0 4) 0 = false → bit (field r.value 0 4) 1 = true → s.stg.capable = true →
          ∃ t : State, exec (.ownerChainCheck ok) s = .next t ∧ 20 ∈ t.sec.fuses ∧ t.stg.capable = false ∧ t.stg.yokeEn = false ∧ t.stg.yokeSoon = .disabled))) ∧
  (∀ s : State, s.testing = true → s.boot.ph.topology = false →
    ((s.boot.ph.filled && s.boot.ph.image && s.sec.imageOk && s.boot.ph.dies && s.boot.ph.coaches && s.bankDone) = false → exec .topologyCheck s = .next s) ∧
    ((s.boot.ph.filled && s.boot.ph.image && s.sec.imageOk && s.boot.ph.dies && s.boot.ph.coaches && s.bankDone) = true →
      ∃ t : State, exec .topologyCheck s = .next t ∧ t.boot.ph.topology = true ∧ (t.boot.cause, t.boot.detail) = t.heldCause ∧
        (t.boot.cause ≠ 0 → t.boot.outcome = 2 ∧ t.boot.mode = .diagnostic) ∧
        (t.boot.cause = 0 → t.boot.mode = .bringUp ∧ (t.boot.outcome = 1 ↔ t.boot.reduced = true) ∧
          (t.boot.outcome = 0 ↔ ∀ i, i < 6 → s.boot.expected.getD i 0 ≤ t.classCounts.getD i 0)) ∧
        ((∃ i, i < 6 ∧ t.classCounts.getD i 0 < s.boot.minimum.getD i 0) ↔ t.boot.cause = 1))) ∧
  (∀ (sets : List FoundSet) (s : State), s.starting = true →
    (s.boot.ph.firmware = false → ∃ t : State, exec .mainFirmwareStart s = .next t ∧ t.boot.ph.firmware = true ∧ t.ns.list = s.ns.list.map s.lockAtStart) ∧
    (s.boot.ph.firmware = true → s.boot.ph.scan = false → ∃ t : State, exec .mediaScan s = .next t ∧ t.boot.ph.scan = true ∧
      t.xlt.cursor = s.newestMark.cursor ∧ t.xlt.full = s.newestMark.readOnly ∧ t.fla.reads = s.newestMark.reads ∧
      ∀ e, e ∈ t.xlt.map ↔ e ∈ s.newestMark.map ∧ s.nsHolds (e.1 / 2 ^ 40) s.newestMark.stamp = true) ∧
    (s.boot.ph.scan = true → s.boot.ph.replay = false → 
      (s.newestMark.clean = true → ∃ t : State, exec (.mapRebuild sets) s = .next t ∧ t.boot.ph.replay = true ∧ t.xlt.map = s.xlt.map ∧ t.fla = s.fla) ∧
      (s.newestMark.clean = false → ∃ t : State, exec (.mapRebuild sets) s = .next t ∧ t.boot.ph.replay = true ∧
        t.xlt.map = (((s.classify sets).replayPages s.newestMark.stamp).foldl (fun u e => u.replayPage
          ((((s.classify sets).fla.words.filter fun e => (s.classify sets).interrupted e).map fun e => Sys2Proof.Machine.setOf e.1).eraseDups) e) (s.classify sets)).xlt.map ∧
        (∀ g, ∀ n ∈ t.ns.list, g ∈ n.gens → g.st = .ready ∨ g.st = .current))) ∧
    (s.boot.mode = .bringUp → s.stg.loaded = true → s.boot.ph.work = false → ∃ t : State, exec .mediaWork s = .next t ∧ t.boot.ph.work = true ∧
      (∀ pb ∈ s.fla.eraseCut, s.dieIn (pbDie pb) = true → ∃ o ∈ t.fla.ops, o.die = pbDie pb ∧ ∃ b qs, o.work = .erase b qs ∧ b = pbBlock pb ∧ pbPlane pb ∈ qs) ∧
      ((∃ m, t.xlt.markDue = some m) ∨ ∃ m, t.xlt.marks.getLast? = some m)) ∧
    (s.boot.mode = .bringUp → s.boot.ph.work = true → s.bankDone = true → s.portDone = true → s.xlt.markDue = none → s.xlt.sets = [] → s.fla.testBlocks = [] → ∃ t : State, exec .ready s = .next t ∧ t.boot.mode = .ready ∧
      t.ses.topoGen = 1 ∧ t.fla.pgmode = [] ∧ t.drm.test = [] ∧ (∀ k ∈ s.sec.fuses, k ∈ t.sec.fuses) ∧
      ∀ k, s.sec.secFused < s.sec.secVersion → k < s.sec.secVersion → 2968 + k ∈ t.sec.fuses)) ∧
  ∀ s : State, s.powered = true → exec .drbgReseed s = .next { s with sec := { s.sec with reseeds := s.sec.reseeds + 1, reseedAt := s.stg.stage } }

/-- The bank sets the dirty cap; every trigger starts one sequence: quiesce, flush, off; HOLD and input start the module again. A dirty cap is
0, or 16 to 256 units. A measurement begins only in turn; it ends with its capacitance logged and recharge, or FAULT below 7.8 mF;
charging ends READY, or after 3 s in FAULT, where the cap is 0 and PROTECTED stands. Power loss, rail fault, overvoltage, HOLD, thermal
shutdown and an open SEATED pin start the sequence with their trigger logged: waiting writes and completions are dropped, every RUN in
progress is to complete with POWER_STOP; a sequence under way starts no second. A VOSFP fault takes the port down alone. The flush begins
once array operations have ended and a boundary has passed. The end of the bank's energy, or the bleed switch, cuts operations in flight:
erased blocks are marked, nothing more is programmed, and accumulators not yet spilled are lost. POWER_OFF needs the flush over; media,
fuses, configuration memory, namespaces with their keys stay, and volatile state is as after reset. BRING_UP_START needs an off module not
held; HOLD_RELEASE starts one at once; a module held off by a thermal shutdown waits for input removal or HOLD. HOLD joins the bus of an
off module, and only then bytes of the configuration memory are read or written. What of the log a lost flush leaves is the model's choice
(log entries 26, 59 and 60). Each of these answers a next state, the one stated, under conditions on state and operands alone:
BRING_UP_START, BANK_MEASURE, BANK_MEASURE_COMPLETE, BANK_CHARGE_TIMEOUT, POWER_LOSS, RAIL_FAULT, OVERVOLTAGE, FLUSH_SEQUENCE_START,
POWER_OFF, SEATED_OPEN, BANK_BLEED_SWITCH, THERMAL_SHUTDOWN, HOLD_ASSERT, HOLD_RELEASE, STANDBY_RAIL_OFF, BANK_CHARGE_COMPLETE,
HOLDUP_ENERGY_EXHAUSTED, CONFIG_BUS_TRANSFER. (R423, R424, R429, R430, R432, R433, R434, R435, R437, R441, R445, R450) -/
def Obligations.PowerLossStopsFlushesAndRestarts : Prop :=
  (∀ c v n low, dirtyCap c v n low = 0 ∨ (16 ≤ dirtyCap c v n low ∧ dirtyCap c v n low ≤ 256)) ∧
  (∀ (c : Nat) (s : State), s.powered = true →
    (s.pwr.bank = .ready → (s.pwr.measured = false ∨ s.pwr.measStage + 8589934592 ≤ s.stg.stage) → vchg s.pwr.cMeas ≤ s.pwr.vbank + 10 →
      s.xlt.buf.length * 16384 ≤ dirtyCap s.pwr.cMeas s.pwr.vbank s.fla.channels.length true * 67108864 → ∃ t : State, exec .bankMeasure s = .next t ∧
        t.pwr.bank = .measuring ∧ t.pwr.cap = dirtyCap s.pwr.cMeas s.pwr.vbank s.fla.channels.length true) ∧
    (s.pwr.bank ≠ .ready ∨ (s.pwr.measured = true ∧ s.stg.stage < s.pwr.measStage + 8589934592) ∨ s.pwr.vbank + 10 < vchg s.pwr.cMeas →
      exec .bankMeasure s = .next s) ∧
    (s.pwr.bank = .measuring ∨ s.pwr.faultMeas = true → c < 1024 → ∃ t : State, exec (.bankMeasureComplete c) s = .next t ∧ t.pwr.cMeas = c ∧ t.pwr.measured = true ∧
      t.pwr.measStage = s.stg.stage ∧ (78 ≤ c → t.pwr.bank = .charging) ∧ (c < 78 → t.pwr.bank = .fault ∧ t.pwr.cap = 0 ∧ t.pwr.prot = true)) ∧
    (s.pwr.bank = .charging → ∃ t : State, exec .bankChargeTimeout s = .next t ∧ t.pwr.bank = .fault ∧ t.pwr.cap = 0 ∧ t.pwr.prot = true ∧ t.xlt.capWaits.length ≤ s.xlt.capWaits.length) ∧
    (s.pwr.bank = .charging → ∃ t : State, exec .bankChargeComplete s = .next t ∧ t.pwr.bank = .ready ∧
      t.pwr.cap = dirtyCap s.pwr.cMeas s.pwr.vbank s.fla.channels.length false ∧ (16 ≤ t.pwr.cap → t.pwr.prot = false)) ∧
    (s.pwr.bank = .fault → ∃ t : State, exec .bankChargeComplete s = .next t ∧ t.pwr.faultMeas = true ∧ t.pwr.bank = .fault)) ∧
  (∀ s : State, s.pwr.rails = true → s.pwr.seq = .none → s.stg.loaded = true →
    let stops := fun (i : Instr) (trigger : Nat) => ∃ t : State, exec i s = .next t ∧ t.pwr.seq = .quiesce ∧ t.pwr.trigger = trigger ∧ t.pwr.lossStage = s.stg.stage ∧
      t.que.done = [] ∧ t.xlt.capWaits = [] ∧ t.xlt.landWaits = [] ∧ t.xlt.leafWaits = [] ∧ t.xlt.buf = s.xlt.buf ∧ t.fla = { s.fla with seatDebt := [], recov := [] } ∧
      (∀ x ∈ t.ses.list, x.queued = [] ∧ ∀ r, x.run = some r → r.fault ≠ 0) ∧ t.powered = false ∧
      ∃ e ∈ t.fwc.events, e.code = 0x0012 ∧ e.detail.getD 0 0 = BitVec.ofNat 8 trigger
    stops .powerLoss 1 ∧ stops (.railFault false) 2 ∧ stops .overvoltage 3 ∧ (s.pwr.hold = false → stops .holdAssert 4) ∧ stops .seatedOpen 6 ∧
    (s.pwr.standby = true → 16 ≤ s.pwr.hotRun → stops .thermalShutdown 5 ∧ ∃ t : State, exec .thermalShutdown s = .next t ∧ t.pwr.heldOff = true ∧ t.faultPin = true ∧
      exec .bringUpStart t = .next t) ∧
    (s.pwr.hotRun < 16 → exec .thermalShutdown s = .next s) ∧
    ((s.pwr.standby = true → s.port.width ≠ 0 → ∃ t : State, exec (.railFault true) s = .next t ∧ t.port.width = 0 ∧ t.pwr = s.pwr)) ∧
    exec .flushSequenceStart s = .next s ∧ exec .holdupEnergyExhausted s = .next s ∧ exec .powerOff s = .next s ∧ exec .bringUpStart s = .next s ∧
    exec .standbyRailOff s = .next s) ∧
  (∀ s : State, s.pwr.rails = true → s.pwr.seq ≠ .none →
    exec .powerLoss s = .next s ∧ exec (.railFault false) s = .next s ∧ exec .overvoltage s = .next s ∧
    (s.pwr.seq = .quiesce → (∀ o ∈ s.fla.ops, o.ended = true ∨ s.stg.stage < o.starts) → s.pwr.lossStage < s.stg.stage → ∃ t : State, exec .flushSequenceStart s = .next t ∧ t.pwr.seq = .flush) ∧
    ((∃ o ∈ s.fla.ops, o.ended = false ∧ o.starts ≤ s.stg.stage) ∨ s.stg.stage ≤ s.pwr.lossStage → exec .flushSequenceStart s = .next s) ∧
    (s.fromInput = true → exec .holdupEnergyExhausted s = .next s) ∧
    (s.fromInput = false → ∃ t : State, exec .holdupEnergyExhausted s = .next t ∧ t.pwr.energyGone = true ∧ t.fla.ops = [] ∧ t.xlt.sets = [] ∧
      (s.pwr.spilled = false → t.xlt.acc = []) ∧
      (∀ o ∈ s.fla.ops, o.starts ≤ s.stg.stage → o.ended = false → ∀ b ps, o.work = .erase b ps → ∀ q ∈ ps, pbKey o.die q b ∈ t.fla.eraseCut) ∧ t.flushOver = true) ∧
    (s.pwr.seated = false → ∃ t : State, exec .bankBleedSwitch s = .next t ∧ t.pwr.bleeding = true ∧ t.pwr.energyGone = true ∧ t.fla.ops = []) ∧
    (s.flushOver = false → exec .powerOff s = .next s) ∧
    (s.flushOver = true → ∃ t : State, exec .powerOff s = .next t ∧ t.pwr.rails = false ∧ t.pwr.seq = .off ∧ t.boot.mode = .off ∧ t.stg.loaded = false ∧
      t.coa = {} ∧ t.fab = {} ∧ t.drm = {} ∧ t.que = {} ∧ t.ses = {} ∧ t.ans = {} ∧ t.xlt.buf = [] ∧
      t.sec.fuses = s.sec.fuses ∧ t.boot.cfg = s.boot.cfg ∧ t.fla.gen = s.fla.gen ∧
      t.ns.list = s.ns.list.map nsOff ∧ (∀ n, (nsOff n).key = n.key ∧ (nsOff n).size = n.size ∧ (nsOff n).created = n.created) ∧
      t.fla.words = s.fla.words ∧ t.xlt.acc = s.xlt.acc)) ∧
  (∀ s : State, 
    (s.boot.mode = .off → s.pwr.rails = false → s.pwr.hold = false → s.pwr.heldOff = false → ∃ t : State, exec .bringUpStart s = .next t ∧
      t.powered = true ∧ t.boot.mode = .bringUp ∧ t.fla.words = s.fla.words ∧ t.sec.fuses = s.sec.fuses ∧ t.boot.ph = {} ∧ t.port.conns = []) ∧
    (s.pwr.hold = true ∨ s.pwr.heldOff = true → exec .bringUpStart s = .next s) ∧
    (s.pwr.hold = true → s.pwr.rails = false → ∃ t : State, exec .holdRelease s = .next t ∧ t.powered = true ∧ t.boot.mode = .bringUp ∧ t.pwr.busJoined = false ∧
      t.pwr.heldOff = false ∧ t.boot.cfg = s.boot.cfg) ∧
    (s.pwr.hold = true → s.pwr.rails = true → ∃ t : State, exec .holdRelease s = .next t ∧ t.pwr.seq = s.pwr.seq ∧ t.pwr.heldOff = false ∧ t.boot = s.boot) ∧
    (s.pwr.rails = false → s.pwr.hold = false → ∃ t : State, exec .holdAssert s = .next t ∧ t.pwr.busJoined = true ∧ t.pwr.hold = true) ∧
    (s.pwr.rails = false → ∃ t : State, exec .standbyRailOff s = .next t ∧ t.pwr.standby = false ∧ t.pwr.heldOff = false ∧ t.faultPin = false) ∧
    (s.pwr.rails = false → s.pwr.seated = false → ∃ t : State, exec .bankBleedSwitch s = .next t ∧ t.pwr.bleeding = true ∧ t.fla = s.fla)) ∧
  ∀ (addr len : Nat) (data : Bytes) (s : State),
    (s.pwr.busJoined = true → s.pwr.hold = true → s.pwr.standby = true → addr + len ≤ 0x4000000 → data.length = len → 
      (∃ t : State, exec (.configBusTransfer true addr len data) s = .next t ∧ t.boot.cfgOut = s.boot.cfgOut ∧ 
        (Tab.wf 0xFF s.boot.cfg = true → ∀ a, Tab.get 0xFF t.boot.cfg a = if addr ≤ a ∧ a < addr + len then data.getD (a - addr) 0 else Tab.get 0xFF s.boot.cfg a)) ∧
      ∃ t : State, exec (.configBusTransfer false addr len data) s = .next t ∧ t.boot.cfg = s.boot.cfg ∧ t.boot.cfgOut.length = len ∧
        ∀ k, k < len → t.boot.cfgOut.getD k 0 = Tab.get 0xFF s.boot.cfg (addr + k)) ∧
    (s.pwr.busJoined = false ∨ s.pwr.hold = false → ∀ write, exec (.configBusTransfer write addr len data) s = .next s)

/-- Errors enter a queue and rise in class; components restart; FATAL errors act by their object; four restarts or a failed one bring limp
mode. An error of an object not being handled enters the queue with its class and stamp, where 60 places take lower classes and four take
FATAL; beyond them a lower one is counted and a FATAL one acts directly; an error of an object whose earlier error is being handled raises
both by one class. The handler takes the entry with the lowest stamp below FATAL: a NOTE leaves, a SEVERE one starts a restart or a
retest; a RECOVERABLE one leaves when its repair ends. A FATAL entry acts at the boundary after it entered: none brings limp mode with
cause 7, a scheduler or power core turns the module off, a team's control core takes its coaches out, a namespace turns read-only, a
session is freed, a coach, die, channel, package or link leaves service. A unit that fails its retest leaves service; one that passes
stays. A component's restart is recorded, MAP's waiting reads and writes complete with Command Interrupted; the fourth within 1,048,576
stages, or one whose keep area fails, brings limp mode with cause 1 or 2. A main core's watchdog restarts every component on it; a
fallback core's is FATAL or takes its team out. A mailbox message whose CRC fails is dropped and a RECOVERABLE error of its sender. The
place of the CRC and the handling of namespace and session codes are the model's (log entries 62 and 63). Each of these answers a next
state, the one stated, under conditions on state and operands alone: MAILBOX_MESSAGE, COMPONENT_RESTART, COMPONENT_RESTART_COMPLETE,
MAIN_WATCHDOG_EXPIRY, FALLBACK_WATCHDOG_EXPIRY, ERROR_RAISE, ERROR_HANDLE, FATAL_ACTION, UNIT_RETEST. (R470, R471, R473, R474, R475, R476,
R477, R478, R482, R483, R484, R485) -/
def Obligations.ErrorsAreQueuedHandledAndActedOn : Prop :=
  (∀ (cls : ErrClass) (o : Obj) (s : State), s.powered = true →
    ((∀ e ∈ s.fwc.errq, e.obj = o → e.taken = true → e.raised = true) →
      let many := fun p : ErrClass → Bool => (s.fwc.errq.filter fun e => p e.cls).length
      (cls ≠ .fatal → many (fun k => k != .fatal) < 60 → ∃ t : State, exec (.errorRaise cls o) s = .next t ∧ t.fwc.errq = s.fwc.errq ++ [⟨cls, o, s.stamp, false, false⟩]) ∧
      (cls ≠ .fatal → 60 ≤ many (fun k => k != .fatal) → ∃ t : State, exec (.errorRaise cls o) s = .next t ∧ t.fwc.errq = s.fwc.errq ∧
        t.fwc.health.overflow = s.fwc.health.overflow + 1) ∧
      (cls = .fatal → many (fun k => k == .fatal) < 4 → ∃ t : State, exec (.errorRaise cls o) s = .next t ∧ t.fwc.errq = s.fwc.errq ++ [⟨cls, o, s.stamp, false, false⟩]) ∧
      (cls = .fatal → 4 ≤ many (fun k => k == .fatal) → ∃ t : State, exec (.errorRaise cls o) s = .next t ∧ t.fwc.direct = s.fwc.direct ++ [o])) ∧
    (∀ e ∈ s.fwc.errq, e.obj = o → e.taken = true → e.raised = false → ∃ t : State, exec (.errorRaise cls o) s = .next t ∧
      { e with cls := errUp e.cls, raised := true } ∈ t.fwc.errq)) ∧
  (∀ s : State, s.mainRuns = true → (∀ e ∈ s.fwc.errq, e.taken = true → e.cls = .fatal) → ∀ e ∈ s.fwc.errq, e.cls ≠ .fatal → e.taken = false →
    (∀ f ∈ s.fwc.errq, f.cls ≠ .fatal → f.taken = false → f = e ∨ e.stamp < f.stamp) → 
    exec (.errorHandle true) s = .next s ∧ ∃ t : State, exec (.errorHandle false) s = .next t ∧
      (e.cls = .note → t.fwc.errq = s.fwc.errq.erase e) ∧
      (e.cls = .recoverable → { e with taken := true } ∈ t.fwc.errq ∧ t.fwc.retest = s.fwc.retest) ∧
      (e.cls = .severe → e.obj.kind ≠ 9 → { e with taken := true } ∈ t.fwc.errq ∧ t.fwc.retest = s.fwc.retest ++ [e.obj]) ∧
      (e.cls = .severe → e.obj.kind = 9 → e.obj.index < 8 → t.fwc.limp = none → e.obj.index ∈ t.fwc.restarting)) ∧
  (∀ s : State, s.mainRuns = true → ∀ e, s.fwc.errq.find? (fun e => e.taken && e.cls != .fatal) = some e → e.cls = .recoverable →
    exec (.errorHandle true) s = .next { s with fwc := { s.fwc with errq := s.fwc.errq.erase e } } ∧ exec (.errorHandle false) s = .next s) ∧
  (∀ s : State, s.powered = true → s.fwc.direct = [] → 
    (firstFatal s.fwc.errq = none → exec .fatalAction s = .next s) ∧
    ∀ e, firstFatal s.fwc.errq = some e → 
      (s.stg.stage ≤ stampStage e.stamp → exec .fatalAction s = .next s) ∧
      (stampStage e.stamp < s.stg.stage → 
        let acts := fun p : State → Prop => ∃ t : State, exec .fatalAction s = .next t ∧ p t
        (e.obj.kind = 0 → acts fun t => t.fwc.limp = if s.fwc.limp.isSome then s.fwc.limp else some 7) ∧
        (e.obj.kind = 7 ∨ e.obj.kind = 9 → acts fun t => t.fwc.limp.isSome = true) ∧
        (e.obj.kind = 8 → e.obj.index < 2 → acts fun t => t.pwr.heldOff = true ∧ t.fwc.off = true ∧ t.pwr.seq = .quiesce ∧ t.pwr.trigger = 7) ∧
        (e.obj.kind = 8 → 2 ≤ e.obj.index → e.obj.index < 18 → acts fun t => t.teamServes (e.obj.index - 2) = false) ∧
        (e.obj.kind = 10 → acts fun t => ∀ n, t.ns? (e.obj.index + 1) = some n → n.readOnly = true) ∧
        (e.obj.kind = 11 → (∀ x ∈ s.ses.list, ∀ y ∈ s.ses.list, x.num = y.num → x = y) → acts fun t => t.sess? e.obj.index = none) ∧
        (1 ≤ e.obj.kind → e.obj.kind ≤ 6 → acts fun t => t.inService e.obj = false ∧
          ((e.obj.kind = 1 ∨ e.obj.kind = 2 ∨ e.obj.kind = 3 ∨ e.obj.kind = 5) → s.limpServes = false → (t.belowMinimum = true ↔ t.fwc.limp = some 6)))))  ∧
  (∀ (o : Obj) (rest : List Obj) (s : State), s.mainRuns = true → s.fwc.retest = o :: rest →
    (exec (.unitRetest true) s = .next (({ s with fwc := { s.fwc with retest := rest } } : State).endHandling o)) ∧
    ∃ t : State, exec (.unitRetest false) s = .next t ∧ t.fwc.retest = rest ∧ t.inService o = false) ∧
  (∀ (comp cause : Nat) (s : State), s.mainRuns = true → comp < 8 →
    let recent := (s.fwc.restarts.filter fun r => decide (r.1 = comp) && decide (s.stg.stage < r.2 + 1048576)).length
    (∃ t : State, exec (.componentRestart comp cause) s = .next t ∧ (comp, s.stg.stage) ∈ t.fwc.restarts ∧
      (3 ≤ recent → t.fwc.limp = some 1) ∧ (recent < 3 → t.fwc.limp = none ∧ comp ∈ t.fwc.restarting) ∧
      (comp = 3 → t.xlt.capWaits = [] ∧ t.xlt.leafWaits = [] ∧ (∀ p ∈ t.xlt.plain, p.what.tag = none) ∧ (∀ w ∈ t.xlt.landWaits, w.units = none))) ∧
    (comp ∈ s.fwc.restarting → 
      (exec (.componentRestartComplete comp true) s =
        .next (({ s with fwc := { s.fwc with restarting := s.fwc.restarting.erase comp } } : State).endHandling ⟨9, comp⟩)) ∧
      ∃ t : State, exec (.componentRestartComplete comp false) s = .next t ∧ t.fwc.limp = some 2) ∧
    (comp ∉ s.fwc.restarting → ∀ ok, exec (.componentRestartComplete comp ok) s = .next s)) ∧
  (∀ (core : Nat) (s : State), s.mainRuns = true → 
    (∃ t : State, exec (.mainWatchdogExpiry core) s = .next t ∧ (t.fwc.limp = none → ∀ c ∈ coreComponents core, c ∈ t.fwc.restarting)) ∧
    (∀ c, coreComponents core = [c] → exec (.mainWatchdogExpiry core) s = exec (.componentRestart c 5) s) ∧
    (18 ≤ core → exec (.fallbackWatchdogExpiry core) s = .next s) ∧
    (core < 2 → exec (.fallbackWatchdogExpiry core) s = exec (.errorRaise .fatal ⟨8, core⟩) s ∧ ∃ t : State, exec (.fallbackWatchdogExpiry core) s = .next t ∧
      ((∀ e ∈ s.fwc.errq, e.obj ≠ ⟨8, core⟩) → ⟨.fatal, ⟨8, core⟩, s.stamp, false, false⟩ ∈ t.fwc.errq ∨ ⟨8, core⟩ ∈ t.fwc.direct)) ∧
    (2 ≤ core → core < 18 → ∃ t : State, exec (.fallbackWatchdogExpiry core) s = .next t ∧ t.teamServes (core - 2) = false ∧
      (s.teamServes (core - 2) = true → t.ses.topoGen = s.ses.topoGen + 1))) ∧
  ∀ (sender receiver : Nat) (msg : Bytes) (s : State), s.mainRuns = true →
    let whole := 16 ≤ msg.length ∧ field msg 12 4 = crc32c (msg.take 12 ++ msg.drop 16)
    (whole → exec (.mailboxMessage sender receiver msg) s = .next s) ∧
    (¬ whole → (∃ t : State, exec (.mailboxMessage sender receiver msg) s = .next t ∧ t.fwc.mailboxDrops = s.fwc.mailboxDrops + 1) ∧
      exec (.mailboxMessage sender receiver msg) s = exec (.errorRaise .recoverable ⟨9, sender⟩) { s with fwc := { s.fwc with mailboxDrops := s.fwc.mailboxDrops + 1 } })
end

