-- ==== Sys2Proof/Laws/Tables.lean ====
section
/-! SUPPORT. Sparse tables: what a read gives after a write, and that every operation keeps the canonical form. -/

namespace Sys2Proof.Machine

set_option Elab.async false

open Sys2Proof.Safety

variable {α : Type}

theorem Tab.get_put (d : α) (t : Table α) (i : Nat) (v : α) (j : Nat) :
    Tab.get d (Tab.put t i v) j = if j = i then v else Tab.get d t j := by
  induction t with
  | nil => simp only [Tab.put, Tab.get]; grind
  | cons e t ih => obtain ⟨k, w⟩ := e; simp only [Tab.put]; grind [Tab.get]

/-- A read of a key below every listed one gives the default. -/
theorem Tab.get_of_wfFrom [DecidableEq α] (d : α) (t : Table α) (lo j : Nat) (h : Tab.wfFrom d lo t = true) (hj : j < lo) :
    Tab.get d t j = d := by
  induction t generalizing lo with
  | nil => rfl
  | cons e t ih => obtain ⟨k, w⟩ := e; simp only [Tab.wfFrom, Tab.get] at *; grind

theorem Tab.wfFrom_mono [DecidableEq α] (d : α) (t : Table α) (lo hi : Nat) (h : Tab.wfFrom d hi t = true) (hl : lo ≤ hi) :
    Tab.wfFrom d lo t = true := by
  cases t with
  | nil => rfl
  | cons e t => obtain ⟨k, w⟩ := e; simp only [Tab.wfFrom] at *; grind

theorem Tab.get_del [DecidableEq α] (d : α) (t : Table α) (lo i j : Nat) (h : Tab.wfFrom d lo t = true) :
    Tab.get d (Tab.del t i) j = if j = i then d else Tab.get d t j := by
  induction t generalizing lo with
  | nil => simp [Tab.del, Tab.get]
  | cons e t ih =>
    obtain ⟨k, w⟩ := e
    simp only [Tab.wfFrom, Bool.and_eq_true, decide_eq_true_eq] at h
    have hk := Tab.get_of_wfFrom d t (k + 1) k h.2 (by omega)
    have := ih (k + 1) h.2
    simp only [Tab.del, Tab.get]
    grind [Tab.get]

/-- A read after a write: the value written at its key, elsewhere what stood there. -/
theorem Tab.get_set [DecidableEq α] (d : α) (t : Table α) (i : Nat) (v : α) (j : Nat) (h : Tab.wf d t = true) :
    Tab.get d (Tab.set d t i v) j = if j = i then v else Tab.get d t j := by
  unfold Tab.set
  split
  · next hv => subst hv; exact Tab.get_del v t 0 i j h
  · exact Tab.get_put d t i v j

theorem Tab.wfFrom_put [DecidableEq α] (d : α) (t : Table α) (lo i : Nat) (v : α) (h : Tab.wfFrom d lo t = true) (hv : v ≠ d)
    (hi : lo ≤ i) : Tab.wfFrom d lo (Tab.put t i v) = true := by
  induction t generalizing lo with
  | nil => simp [Tab.put, Tab.wfFrom, hv, hi]
  | cons e t ih =>
    obtain ⟨k, w⟩ := e
    simp only [Tab.wfFrom, Bool.and_eq_true, decide_eq_true_eq] at h
    simp only [Tab.put]
    split
    · have := ih (k + 1) h.2 (by omega)
      simp [Tab.wfFrom, h, this]
    · split
      · next hk => subst hk; simp [Tab.wfFrom, h, hv]
      · simp only [Tab.wfFrom, Bool.and_eq_true, decide_eq_true_eq]
        exact ⟨⟨hi, hv⟩, ⟨by omega, h.1.2⟩, h.2⟩

theorem Tab.wfFrom_del [DecidableEq α] (d : α) (t : Table α) (lo i : Nat) (h : Tab.wfFrom d lo t = true) :
    Tab.wfFrom d lo (Tab.del t i) = true := by
  induction t generalizing lo with
  | nil => rfl
  | cons e t ih =>
    obtain ⟨k, w⟩ := e
    simp only [Tab.wfFrom, Bool.and_eq_true, decide_eq_true_eq] at h
    simp only [Tab.del]
    split
    · exact Tab.wfFrom_mono d t lo (k + 1) h.2 (by omega)
    · simp [Tab.wfFrom, h, ih (k + 1) h.2]

/-- A write keeps the canonical form. -/
theorem Tab.wf_set [DecidableEq α] (d : α) (t : Table α) (i : Nat) (v : α) (h : Tab.wf d t = true) : Tab.wf d (Tab.set d t i v) = true := by
  unfold Tab.set
  split
  · exact Tab.wfFrom_del d t 0 i h
  · next hv => exact Tab.wfFrom_put d t 0 i v h hv (by omega)

theorem Tab.wf_putBytes (d : Byte) (t : Table Byte) (i : Nat) (bs : Bytes) (h : Tab.wf d t = true) :
    Tab.wf d (Tab.putBytes d t i bs) = true := by
  induction bs generalizing t i with
  | nil => exact h
  | cons b bs ih => exact ih _ _ (Tab.wf_set d t i b h)

/-- A read after a byte string was written: its bytes there, elsewhere what stood there. -/
theorem Tab.get_putBytes (d : Byte) (t : Table Byte) (i : Nat) (bs : Bytes) (j : Nat) (h : Tab.wf d t = true) :
    Tab.get d (Tab.putBytes d t i bs) j = if i ≤ j ∧ j < i + bs.length then bs.getD (j - i) 0 else Tab.get d t j := by
  induction bs generalizing t i with
  | nil => simp only [Tab.putBytes, List.length_nil]; grind
  | cons b bs ih =>
    simp only [Tab.putBytes]
    rw [ih _ _ (Tab.wf_set d t i b h), Tab.get_set d t i b j h]
    simp only [List.length_cons]
    by_cases h1 : i + 1 ≤ j ∧ j < i + 1 + bs.length
    · rw [if_pos h1, if_pos (by omega), show j - i = (j - (i + 1)) + 1 by omega]; rfl
    · rw [if_neg h1]
      by_cases h2 : j = i
      · subst h2; rw [if_pos rfl, if_pos (by omega)]; simp
      · rw [if_neg h2, if_neg (by omega)]

/-- The canonical form: keys rising and no entry equal to the default. -/
theorem Tab.wf_iff [DecidableEq α] (d : α) (t : Table α) (lo : Nat) :
    Tab.wfFrom d lo t = true ↔ KeysUp t ∧ ∀ e ∈ t, lo ≤ e.1 ∧ e.2 ≠ d := by
  induction t generalizing lo with
  | nil => simp [Tab.wfFrom, KeysUp]
  | cons e t ih =>
    obtain ⟨k, w⟩ := e
    simp only [Tab.wfFrom, Bool.and_eq_true, decide_eq_true_eq, ih, KeysUp, List.pairwise_cons, List.mem_cons]
    constructor
    · rintro ⟨⟨h1, h2⟩, h3, h4⟩
      refine ⟨⟨fun e he => (h4 e he).1, h3⟩, ?_⟩
      rintro e (rfl | he)
      · exact ⟨h1, h2⟩
      · exact ⟨by have := (h4 e he).1; omega, (h4 e he).2⟩
    · rintro ⟨⟨h1, h2⟩, h3⟩
      exact ⟨h3 _ (.inl rfl), h2, fun e he => ⟨h1 e he, (h3 e (.inr he)).2⟩⟩

theorem Tab.wf_filter [DecidableEq α] (d : α) (t : Table α) (p : Nat × α → Bool) (h : Tab.wf d t = true) : Tab.wf d (t.filter p) = true := by
  rw [Tab.wf, Tab.wf_iff] at *
  exact ⟨h.1.sublist List.filter_sublist, fun e he => h.2 e (List.mem_filter.1 he).1⟩

/-- Clearing a range keeps the canonical form. -/
theorem Tab.wf_clear [DecidableEq α] (d : α) (t : Table α) (lo hi : Nat) (h : Tab.wf d t = true) : Tab.wf d (Tab.clear t lo hi) = true :=
  Tab.wf_filter d t _ h

/-- A read after a range was cleared: the default within, elsewhere what stood there. -/
theorem Tab.get_clear (d : α) (t : Table α) (lo hi j : Nat) :
    Tab.get d (Tab.clear t lo hi) j = if lo ≤ j ∧ j < hi then d else Tab.get d t j := by
  induction t with
  | nil => simp [Tab.clear, Tab.get]
  | cons e t ih =>
    obtain ⟨k, w⟩ := e
    simp only [Tab.clear, List.filter_cons, Bool.or_eq_true, decide_eq_true_eq] at *
    split
    · simp only [Tab.get, ih]; grind
    · simp only [Tab.get, ih]; grind

theorem KeysUp_put (t : Table α) (i : Nat) (v : α) (h : KeysUp t) : KeysUp (Tab.put t i v) := by
  have hm : ∀ (t : Table α), ∀ e ∈ Tab.put t i v, e.1 = i ∨ e ∈ t := by
    intro t
    induction t with
    | nil => simp [Tab.put]
    | cons e t ih => obtain ⟨k, w⟩ := e; simp only [Tab.put]; grind
  induction t with
  | nil => simp [Tab.put, KeysUp]
  | cons e t ih =>
    obtain ⟨k, w⟩ := e
    simp only [KeysUp, List.pairwise_cons] at h
    simp only [Tab.put]
    split
    · next hk =>
      simp only [KeysUp, List.pairwise_cons]
      refine ⟨fun e he => ?_, ih h.2⟩
      rcases hm t e he with h1 | h1
      · omega
      · exact h.1 e h1
    · split
      · next hk => subst hk; simpa [KeysUp] using h
      · next h1 h2 =>
        have h3 : i < k := by omega
        simp only [KeysUp, List.pairwise_cons, List.mem_cons]
        refine ⟨?_, h⟩
        rintro e (rfl | he)
        · exact h3
        · exact lt_trans h3 (h.1 e he)

theorem KeysUp_filter (t : Table α) (p : Nat × α → Bool) (h : KeysUp t) : KeysUp (t.filter p) := h.sublist List.filter_sublist

/-- A change of the values alone keeps the keys. -/
theorem KeysUp_map {β : Type} (t : Table α) (f : Nat × α → Nat × β) (h : KeysUp t) (hf : ∀ e, (f e).1 = e.1) : KeysUp (t.map f) := by
  simp only [KeysUp, List.pairwise_map, hf]
  exact h

theorem KeysUp_foldl {β : Type} (f : Table α → β → Table α) (hf : ∀ t x, KeysUp t → KeysUp (f t x)) (l : List β) (t : Table α)
    (h : KeysUp t) : KeysUp (l.foldl f t) := by
  induction l generalizing t with
  | nil => exact h
  | cons x l ih => exact ih _ (hf t x h)

/-- A sorted table without its default entries is canonical. -/
theorem Tab.wf_of_keysUp [DecidableEq α] (d : α) (t : Table α) (h : KeysUp t) (hd : ∀ e ∈ t, e.2 ≠ d) : Tab.wf d t = true := by
  rw [Tab.wf, Tab.wf_iff]
  exact ⟨h, fun e he => ⟨Nat.zero_le _, hd e he⟩⟩

end Sys2Proof.Machine
end

