-- ==== Sys2Proof/Laws/Keep.lean ====
section
/-! SUPPORT. What nearly every operation keeps: the queue, the stage count, the posted batch, the fuses, the configuration memory, and a
sound state. One lemma for each operation says that it keeps them (Keep…); the few that do not are named in Laws/Moves.lean. -/

namespace Sys2Proof.Machine

set_option Elab.async false

open Sys2Proof.Safety

/-- The parts of a state that few operations change. -/
abbrev Anchor := List Instr × (Nat × Bool × Bool) × List Completion × List Nat × Table Byte

/-- A state's anchor. -/
def State.anchor (s : State) : Anchor :=
  (s.pending, (s.stg.stage, s.stg.loaded, s.stg.exhausted), s.que.posted, s.sec.fuses, s.boot.cfg)

/-- What a run of operations keeps: the anchor, and of a first state every part but those touched. -/
structure KeepCtx where
  anchor : Anchor
  touched : List Part
  base : State

/-- A sound state with the anchor, in which the parts not touched are those of the first state. -/
def Keep (anc : KeepCtx) (s : State) : Prop := s.anchor = anc.anchor ∧ Sound s ∧ Only anc.touched anc.base s

/-- The same of an operation that may not answer with a state. -/
def KeepOpt (anc : KeepCtx) (o : Option State) : Prop :=
  ∀ t, o = some t → Keep anc t

variable {anc : KeepCtx}

theorem Same.trans {p : Part} {s t u : State} (h : Same p s t) (h' : Same p t u) : Same p s u := by
  cases p <;> exact Eq.trans h' h

theorem part_mem {l l' : List Part} {p : Part} (h : l ⊆ l') (hp : p ∈ l) : p ∈ l' := h hp

theorem Only.intro {l : List Part} {s t : State} (h : ∀ p, p ∉ l → Same p s t) : Only l s t := h

theorem Only.refl (l : List Part) (s : State) : Only l s s := fun p _ => by cases p <;> rfl

theorem Only.trans {l : List Part} {s t u : State} (h : Only l s t) (h' : Only l t u) : Only l s u := fun p hp => Same.trans (h p hp) (h' p hp)

/-- A change of other fields keeps what counts. -/
theorem Keep.upd {s : State} (h : Keep anc s) {fc : Nat} {stg : Stg} {clk : Clk} {coa : Coa} {fab : Fab} {drm : Drm} {fla : Fla} {xlt : Xlt}
    {pwr : Pwr} {port : Port} {que : Que} {ns : NsTab} {ses : Ses} {ans : Ans} {fwc : Fwc} {sec : Sec} {boot : Boot}
    (h1 : (stg.stage, stg.loaded, stg.exhausted) = (s.stg.stage, s.stg.loaded, s.stg.exhausted)) (h2 : stg.cycle = s.stg.cycle)
    (h3 : clk.trim = s.clk.trim) (h4 : coa.sram = s.coa.sram) (h5 : (drm.data, drm.check) = (s.drm.data, s.drm.check))
    (h6 : KeysUp s.fla.words → KeysUp fla.words) (h7 : que.posted = s.que.posted) (h8 : sec.fuses = s.sec.fuses) (h9 : boot.cfg = s.boot.cfg)
    (ho : Only anc.touched s ⟨s.pending, fc, stg, clk, coa, fab, drm, fla, xlt, pwr, port, que, ns, ses, ans, fwc, sec, boot⟩ := by
      refine Only.intro fun p hp => ?_
      cases p <;> first
        | with_reducible rfl
        | exact absurd (part_mem hm (by decide)) hp
        | with_unfolding_all rfl) :
    Keep anc ⟨s.pending, fc, stg, clk, coa, fab, drm, fla, xlt, pwr, port, que, ns, ses, ans, fwc, sec, boot⟩ := by
  obtain ⟨ha, ⟨hs, ht, hm⟩, hp⟩ := h
  simp only [Prod.mk.injEq] at h1 h5
  refine ⟨?_, ⟨?_, ?_, ?_⟩, Only.trans hp ho⟩
  · rw [← ha]
    simp [State.anchor, h1, h7, h8, h9]
  · simpa [StampOk, h1, h2] using hs
  · simpa [TrimOk, h3] using ht
  · obtain ⟨m1, m2, m3, m4, m5⟩ := hm
    exact ⟨h4 ▸ m1, h5.1 ▸ m2, h5.2 ▸ m3, h9 ▸ m4, h6 m5⟩

/-- One of the two states of a choice. -/
theorem Keep.ite {c : Prop} [Decidable c] {s t : State} (h : Keep anc s) (h' : Keep anc t) : Keep anc (if c then s else t) := by
  split
  · exact h
  · exact h'

/-- A fold of steps that keep it. -/
theorem Keep.foldl {β : Type} {f : State → β → State} {l : List β} {s : State} (h : Keep anc s) (hf : ∀ s x, Keep anc s → Keep anc (f s x)) :
    Keep anc (l.foldl f s) := by
  induction l generalizing s with
  | nil => exact h
  | cons x l ih => exact ih (hf s x h)

/-- A fold that carries a value beside the state. -/
theorem Keep.foldl2 {β γ : Type} {f : γ × State → β → γ × State} {l : List β} {p : γ × State} (h : Keep anc p.2)
    (hf : ∀ p x, Keep anc p.2 → Keep anc (f p x).2) : Keep anc (l.foldl f p).2 := by
  induction l generalizing p with
  | nil => exact h
  | cons x l ih => exact ih (hf p x h)

/-- The state of a pair that a match has taken apart. -/
theorem Keep.pair {γ : Type} {p : γ × State} {x : γ} {s : State} (e : p = (x, s)) (h : Keep anc p.2) : Keep anc s := by subst e; exact h

/-- The state that an operation answered. -/
theorem Keep.opt {o : Option State} {s : State} (e : o = some s) (h : KeepOpt anc o) : Keep anc s := h s e

/-- The state that an operation answered beside a value. -/
theorem Keep.optPair {γ : Type} {o : Option (γ × State)} {x : γ} {s : State} (e : o = Option.some (x, s)) (h : KeepOpt anc (o.map Prod.snd)) :
    Keep anc s := h s (by rw [e]; rfl)

/-- The same with the pair kept whole. -/
theorem Keep.optSnd {γ : Type} {o : Option (γ × State)} {p : γ × State} (e : o = Option.some p) (h : KeepOpt anc (o.map Prod.snd)) :
    Keep anc p.2 := h p.2 (by rw [e]; rfl)

theorem Keep.id {s : State} (h : Keep anc s) : Keep anc (id s) := h

theorem KeepOpt.none : KeepOpt anc Option.none := fun _ h => nomatch h

theorem KeepOpt.some {s : State} (h : Keep anc s) : KeepOpt anc (Option.some s) := fun _ e => Option.some.inj e ▸ h

theorem KeepOpt.mapNone {γ : Type} : KeepOpt anc (Option.map Prod.snd (Option.none : Option (γ × State))) := fun _ h => nomatch h

theorem KeepOpt.mapSome {γ : Type} {p : γ × State} (h : Keep anc p.2) : KeepOpt anc (Option.map Prod.snd (Option.some p)) :=
  fun _ e => Option.some.inj e ▸ h

/-- A change of the value beside the state. -/
theorem KeepOpt.mapFst {γ δ : Type} {o : Option (γ × State)} {f : γ × State → δ × State} (h : KeepOpt anc (o.map Prod.snd))
    (hf : ∀ p, (f p).2 = p.2) : KeepOpt anc ((o.map f).map Prod.snd) := by
  cases o with
  | none => exact KeepOpt.mapNone
  | some p => exact KeepOpt.mapSome (hf p ▸ h p.2 rfl)

/-- A state made from what an operation answered. -/
theorem KeepOpt.mapState {γ : Type} {o : Option (γ × State)} {f : γ × State → State} (h : KeepOpt anc (o.map Prod.snd))
    (hf : ∀ p, Keep anc p.2 → Keep anc (f p)) : KeepOpt anc (o.map f) := by
  cases o with
  | none => exact KeepOpt.none
  | some p => exact KeepOpt.some (hf p (h p.2 rfl))

/-- The first of two operations that answers. -/
theorem KeepOpt.orElse {o p : Option State} (h : KeepOpt anc o) (h' : KeepOpt anc p) : KeepOpt anc (o <|> p) := by
  cases o with
  | none => exact h'
  | some t => exact h

/-- The first element that answers. -/
theorem KeepOpt.findSome {β : Type} {f : β → Option State} {l : List β} (h : ∀ x, KeepOpt anc (f x)) : KeepOpt anc (l.findSome? f) := by
  intro t e
  obtain ⟨x, -, hx⟩ := List.exists_of_findSome?_eq_some e
  exact h x t hx

/-- A state made from a value that may be absent. -/
theorem KeepOpt.map {β : Type} {f : β → State} {o : Option β} (h : ∀ x, Keep anc (f x)) : KeepOpt anc (o.map f) := by
  cases o with
  | none => exact KeepOpt.none
  | some x => exact KeepOpt.some (h x)

/-- An option's state, with a fallback. -/
theorem Keep.getD {o : Option State} {s : State} (h : KeepOpt anc o) (h' : Keep anc s) : Keep anc (o.getD s) := by
  cases o with
  | none => exact h'
  | some t => exact h t rfl

/-- A state whose memory changed within its canonical form. -/
theorem Keep.mem {s t : State} (h : Keep anc s) (ha : t.anchor = s.anchor) (hs : t.stg = s.stg) (hc : t.clk.trim = s.clk.trim)
    (hm' : MemoryOk s → MemoryOk t)
    (ho : Only anc.touched s t := by
      refine Only.intro fun p hp => ?_
      cases p <;> first
        | with_reducible rfl
        | exact absurd (part_mem hm (by decide)) hp
        | rfl) : Keep anc t := by
  obtain ⟨h0, ⟨h1, h2, h3⟩, hp⟩ := h
  refine ⟨ha.trans h0, ⟨?_, ?_, hm' h3⟩, Only.trans hp ho⟩
  · simpa [StampOk, hs] using h1
  · simpa [TrimOk, hc] using h2

/-- A clock generator whose trim word stays within its range. -/
theorem Keep.clk {s : State} (h : Keep anc s) (c : Clk) (hc : -250000 ≤ c.trim ∧ c.trim ≤ 250000)
    (ho : Only anc.touched s { s with clk := c } := by
      refine Only.intro fun p hp => ?_
      cases p <;> first
        | with_reducible rfl
        | exact absurd (part_mem hm (by decide)) hp) : Keep anc { s with clk := c } := by
  obtain ⟨h0, ⟨h1, -, h3⟩, hp⟩ := h
  exact ⟨h0, ⟨h1, hc, h3⟩, Only.trans hp ho⟩

end Sys2Proof.Machine
end

