-- ==== Sys2Proof/Laws/KeepOps.lean ====
section
/-! SUPPORT. What the operations of Machine/Ops.lean keep (Laws/Keep.lean). -/

namespace Sys2Proof.Machine

set_option Elab.async false

open Sys2Proof.Safety

set_option linter.unusedTactic false
set_option linter.unreachableTactic false

variable {anc : KeepCtx}

theorem State.drawNat_keep {s : State} (hk : Keep anc s) (hm : [.free] ⊆ anc.touched := by exact List.Subset.trans (by decide) hm) : Keep anc
    (State.drawNat s).2 := by
  unfold State.drawNat
  repeat' (first
      | with_reducible assumption
      | (fail_if_no_progress (with_reducible refine Keep.upd ?_ ?_ ?_ ?_ ?_ ?_ ?_ ?_ ?_ ?_) <;> try with_reducible first | rfl | exact fun h => h))

theorem State.drawBytes_keep {s : State} (n : Nat) (hk : Keep anc s) (hm : [.free] ⊆ anc.touched := by exact List.Subset.trans (by decide) hm) : Keep
    anc (State.drawBytes s n).2 := by
  unfold State.drawBytes
  repeat' (first
      | with_reducible assumption
      | (fail_if_no_progress (with_reducible refine Keep.upd ?_ ?_ ?_ ?_ ?_ ?_ ?_ ?_ ?_ ?_) <;> try with_reducible first | rfl | exact fun h => h))

theorem State.drawKey_keep {s : State} (hk : Keep anc s) (hm : [.security] ⊆ anc.touched := by exact List.Subset.trans (by decide) hm) : Keep anc
    (State.drawKey s).2 := by
  unfold State.drawKey
  repeat' (first
      | with_reducible assumption | extract_lets
      | (fail_if_no_progress (with_reducible refine Keep.upd ?_ ?_ ?_ ?_ ?_ ?_ ?_ ?_ ?_ ?_) <;> try with_reducible first | rfl | exact fun h => h))

theorem State.nextCycle_le {s : State} (h : s.stg.cycle ≤ 12299) : s.nextCycle.stg.cycle ≤ 12299 := by
  have h1 : Config.corePace s.stg.ticks % ((12299 - s.stg.cycle) / s.cycleStep + 1) ≤ (12299 - s.stg.cycle) / s.cycleStep :=
    Nat.lt_succ_iff.mp (Nat.mod_lt _ (Nat.succ_pos _))
  have h2 := (Nat.mul_le_mul_left s.cycleStep h1).trans (Nat.mul_div_le _ _)
  change s.stg.cycle + s.cycleStep * _ ≤ 12299
  omega

theorem State.nextCycle_keep {s : State} (hk : Keep anc s) (hm : [] ⊆ anc.touched := by exact List.Subset.trans (by decide) hm) : Keep anc s.nextCycle := by
  obtain ⟨ha, ⟨hs, ht, hk⟩, hp⟩ := hk
  exact ⟨ha, ⟨⟨hs.1, State.nextCycle_le hs.2⟩, ht, hk⟩, Only.trans hp (Only.intro fun p _ => by cases p <;> rfl)⟩

theorem State.stampTo_keep {s : State} (stamp : Nat) (hk : Keep anc s) (hm : [] ⊆ anc.touched := by exact List.Subset.trans (by decide) hm) : Keep anc (State.stampTo s stamp) := by
  obtain ⟨ha, ⟨hs, ht, hk⟩, hp⟩ := hk
  refine ⟨ha, ⟨⟨hs.1, ?_⟩, ht, hk⟩, Only.trans hp (Only.intro fun p _ => by cases p <;> rfl)⟩
  have h := hs.2
  change max s.stg.cycle (if stampStage stamp = s.stg.stage then min 12299 (stampCycle stamp) else 0) ≤ 12299
  split <;> omega

theorem State.eventAt_keep {s : State} (stamp : Nat) (code : Nat) (cls : Nat) (source : Nat) (obj : Obj) (detail : Bytes) (hk : Keep anc s)
    (hm : [.log] ⊆ anc.touched := by exact List.Subset.trans (by decide) hm) : Keep anc (State.eventAt s stamp code cls source obj detail) := by
  unfold State.eventAt
  repeat' (first
      | with_reducible assumption | extract_lets | with_reducible apply Keep.ite
      | (fail_if_no_progress (with_reducible refine Keep.upd ?_ ?_ ?_ ?_ ?_ ?_ ?_ ?_ ?_ ?_) <;> try with_reducible first | rfl | exact fun h => h))

theorem State.event_keep {s : State} (code : Nat) (cls : Nat) (source : Nat) (obj : Obj) (detail : Bytes) (hk : Keep anc s)
    (hm : [.log] ⊆ anc.touched := by exact List.Subset.trans (by decide) hm) : Keep anc (State.event s code cls source obj detail) := by
  unfold State.event
  repeat' (first
      | with_reducible assumption | with_reducible exact List.Subset.trans (by decide) hm | extract_lets | with_reducible apply State.eventAt_keep
      | with_reducible apply State.nextCycle_keep | with_reducible apply Keep.ite)

theorem raiseError_keep (cls : ErrClass) (o : Obj) {s : State} (hk : Keep anc s)
    (hm : [.faults] ⊆ anc.touched := by exact List.Subset.trans (by decide) hm) : Keep anc (raiseError cls o s) := by
  unfold raiseError
  repeat' (first
      | with_reducible assumption | with_reducible exact List.Subset.trans (by decide) hm | extract_lets | with_reducible apply State.nextCycle_keep
      | with_reducible apply Keep.ite
      | (fail_if_no_progress (with_reducible refine Keep.upd ?_ ?_ ?_ ?_ ?_ ?_ ?_ ?_ ?_ ?_) <;> try with_reducible first | rfl | exact fun h => h))

theorem State.updCtrl_keep {s : State} (id : Nat) (f : Ctrl → Ctrl) (hk : Keep anc s)
    (hm : [.queues] ⊆ anc.touched := by exact List.Subset.trans (by decide) hm) : Keep anc (State.updCtrl s id f) := by
  unfold State.updCtrl
  repeat' (first
      | with_reducible assumption | extract_lets
      | (fail_if_no_progress (with_reducible refine Keep.upd ?_ ?_ ?_ ?_ ?_ ?_ ?_ ?_ ?_ ?_) <;> try with_reducible first | rfl | exact fun h => h))

theorem State.updSess_keep {s : State} (n : Nat) (f : Session → Session) (hk : Keep anc s)
    (hm : [.sessions] ⊆ anc.touched := by exact List.Subset.trans (by decide) hm) : Keep anc (State.updSess s n f) := by
  unfold State.updSess
  repeat' (first
      | with_reducible assumption | extract_lets
      | (fail_if_no_progress (with_reducible refine Keep.upd ?_ ?_ ?_ ?_ ?_ ?_ ?_ ?_ ?_ ?_) <;> try with_reducible first | rfl | exact fun h => h))

theorem State.updNs_keep {s : State} (nsid : Nat) (f : Ns → Ns) (hk : Keep anc s)
    (hm : [.namespaces] ⊆ anc.touched := by exact List.Subset.trans (by decide) hm) : Keep anc (State.updNs s nsid f) := by
  unfold State.updNs
  repeat' (first
      | with_reducible assumption | extract_lets
      | (fail_if_no_progress (with_reducible refine Keep.upd ?_ ?_ ?_ ?_ ?_ ?_ ?_ ?_ ?_ ?_) <;> try with_reducible first | rfl | exact fun h => h))

theorem State.updPart_keep {s : State} (n : Nat) (f : Partition → Partition) (hk : Keep anc s)
    (hm : [.sessions] ⊆ anc.touched := by exact List.Subset.trans (by decide) hm) : Keep anc (State.updPart s n f) := by
  unfold State.updPart
  repeat' (first
      | with_reducible assumption | extract_lets
      | (fail_if_no_progress (with_reducible refine Keep.upd ?_ ?_ ?_ ?_ ?_ ?_ ?_ ?_ ?_ ?_) <;> try with_reducible first | rfl | exact fun h => h))

theorem State.completeWith_keep {s : State} (tag : Tag) (st : Status) (dw0 : Nat) (dw1 : Nat) (data : Bytes) (hk : Keep anc s)
    (hm : [.completions] ⊆ anc.touched := by exact List.Subset.trans (by decide) hm) : Keep anc (State.completeWith s tag st dw0 dw1 data) := by
  unfold State.completeWith
  repeat' (first
      | with_reducible assumption | extract_lets | with_reducible apply Keep.ite
      | (fail_if_no_progress (with_reducible refine Keep.upd ?_ ?_ ?_ ?_ ?_ ?_ ?_ ?_ ?_ ?_) <;> try with_reducible first | rfl | exact fun h => h))

theorem State.succeed_keep {s : State} (tag : Tag) (dw0 : Nat) (dw1 : Nat) (data : Bytes) (hk : Keep anc s)
    (hm : [.completions] ⊆ anc.touched := by exact List.Subset.trans (by decide) hm) : Keep anc (State.succeed s tag dw0 dw1 data) := by
  unfold State.succeed
  repeat' (first
      | with_reducible assumption | with_reducible apply State.completeWith_keep)

theorem State.fail_keep {s : State} (tag : Tag) (st : Status) (hk : Keep anc s)
    (hm : [.completions] ⊆ anc.touched := by exact List.Subset.trans (by decide) hm) : Keep anc (State.fail s tag st) := by
  unfold State.fail
  repeat' (first
      | with_reducible assumption | with_reducible apply State.completeWith_keep)

theorem State.refuse_keep {s : State} (tag : Tag) (reason : Nat) (hk : Keep anc s)
    (hm : [.completions] ⊆ anc.touched := by exact List.Subset.trans (by decide) hm) : Keep anc (State.refuse s tag reason) := by
  unfold State.refuse
  repeat' (first
      | with_reducible assumption | with_reducible apply State.completeWith_keep)

theorem State.command_keep {s : State} (tag : Tag) (w : Serve) (f : Ctrl → State → State) (hk : Keep anc s)
    (hm : [.completions] ⊆ anc.touched := by exact List.Subset.trans (by decide) hm) (hf : ∀ x0 t, Keep anc t → Keep anc (f x0 t)) : Keep anc
    (State.command s tag w f) := by
  unfold State.command
  repeat' (first
      | with_reducible assumption | extract_lets | with_reducible apply State.fail_keep | with_reducible apply Keep.ite | with_reducible apply hf
      | split)

theorem postOne_keep (type : Nat) (info : Nat) (lid : Nat) {s : State} (c : Ctrl) (hk : Keep anc s)
    (hm : [.queues, .completions] ⊆ anc.touched := by exact List.Subset.trans (by decide) hm) : Keep anc (postOne type info lid s c) := by
  unfold postOne
  repeat' (first
      | with_reducible assumption | with_reducible exact List.Subset.trans (by decide) hm | extract_lets | with_reducible apply State.updCtrl_keep
      | with_reducible apply State.succeed_keep | with_reducible apply Keep.ite | split)

theorem State.asyncEvent_keep {s : State} (type : Nat) (info : Nat) (lid : Nat) (hk : Keep anc s)
    (hm : [.queues, .completions] ⊆ anc.touched := by exact List.Subset.trans (by decide) hm) : Keep anc (State.asyncEvent s type info lid) := by
  unfold State.asyncEvent
  repeat' (first
      | with_reducible assumption | with_reducible intro _ | extract_lets | with_reducible apply postOne_keep | with_reducible apply Keep.foldl)

theorem State.send_keep {s : State} (m : TxMsg) (hk : Keep anc s) (hm : [.port] ⊆ anc.touched := by exact List.Subset.trans (by decide) hm) : Keep anc
    (State.send s m) := by
  unfold State.send
  repeat' (first
      | with_reducible assumption | extract_lets
      | (fail_if_no_progress (with_reducible refine Keep.upd ?_ ?_ ?_ ?_ ?_ ?_ ?_ ?_ ?_ ?_) <;> try with_reducible first | rfl | exact fun h => h))

theorem State.changeYoke_keep {s : State} (y : Yoke) (hk : Keep anc s)
    (hm : [.stage, .queues, .completions, .log] ⊆ anc.touched := by exact List.Subset.trans (by decide) hm) : Keep anc (State.changeYoke s y) := by
  unfold State.changeYoke
  repeat' (first
      | with_reducible assumption | with_reducible exact List.Subset.trans (by decide) hm | extract_lets | with_reducible apply State.eventAt_keep
      | with_reducible apply State.asyncEvent_keep | with_reducible apply Keep.ite
      | (fail_if_no_progress (with_reducible refine Keep.upd ?_ ?_ ?_ ?_ ?_ ?_ ?_ ?_ ?_ ?_) <;> try with_reducible first | rfl | exact fun h => h))

theorem State.setYoke_keep {s : State} (y : Yoke) (hk : Keep anc s) (hm : [.stage] ⊆ anc.touched := by exact List.Subset.trans (by decide) hm) : Keep
    anc (State.setYoke s y) := by
  unfold State.setYoke
  repeat' (first
      | with_reducible assumption | extract_lets | with_reducible apply Keep.ite
      | (fail_if_no_progress (with_reducible refine Keep.upd ?_ ?_ ?_ ?_ ?_ ?_ ?_ ?_ ?_ ?_) <;> try with_reducible first | rfl | exact fun h => h))

theorem State.yokeTick_keep {s : State} (hk : Keep anc s)
    (hm : [.stage, .queues, .completions, .log] ⊆ anc.touched := by exact List.Subset.trans (by decide) hm) : Keep anc (State.yokeTick s) := by
  unfold State.yokeTick
  repeat' (first
      | with_reducible assumption | with_reducible intro _ | extract_lets | with_reducible apply State.changeYoke_keep
      | (fail_if_no_progress (with_reducible refine Keep.upd ?_ ?_ ?_ ?_ ?_ ?_ ?_ ?_ ?_ ?_) <;> try with_reducible first | rfl | exact fun h => h)
      | with_reducible apply Keep.foldl)

theorem State.health_keep {s : State} (f : Health → Health) (hk : Keep anc s)
    (hm : [.faults] ⊆ anc.touched := by exact List.Subset.trans (by decide) hm) : Keep anc (State.health s f) := by
  unfold State.health
  repeat' (first
      | with_reducible assumption | extract_lets
      | (fail_if_no_progress (with_reducible refine Keep.upd ?_ ?_ ?_ ?_ ?_ ?_ ?_ ?_ ?_ ?_) <;> try with_reducible first | rfl | exact fun h => h))

theorem State.tt_keep {s : State} (f : TtStats → TtStats) (hk : Keep anc s)
    (hm : [.faults] ⊆ anc.touched := by exact List.Subset.trans (by decide) hm) : Keep anc (State.tt s f) := by
  unfold State.tt
  repeat' (first
      | with_reducible assumption | extract_lets
      | (fail_if_no_progress (with_reducible refine Keep.upd ?_ ?_ ?_ ?_ ?_ ?_ ?_ ?_ ?_ ?_) <;> try with_reducible first | rfl | exact fun h => h))

theorem State.topoChange_keep {s : State} (o : Obj) (entered : Bool) (hk : Keep anc s)
    (hm : [.sessions, .log] ⊆ anc.touched := by exact List.Subset.trans (by decide) hm) : Keep anc (State.topoChange s o entered) := by
  unfold State.topoChange
  repeat' (first
      | with_reducible assumption | with_reducible exact List.Subset.trans (by decide) hm | extract_lets | with_reducible apply State.event_keep
      | (fail_if_no_progress (with_reducible refine Keep.upd ?_ ?_ ?_ ?_ ?_ ?_ ?_ ?_ ?_ ?_) <;> try with_reducible first | rfl | exact fun h => h))

end Sys2Proof.Machine
end

