-- ==== Sys2Proof/Laws/KeepStage.lean ====
section
/-! SUPPORT. What the operations of Machine/Stage.lean keep (Laws/Keep.lean). -/

namespace Sys2Proof.Machine

set_option Elab.async false

open Sys2Proof.Safety

set_option linter.unusedTactic false
set_option linter.unreachableTactic false

variable {anc : KeepCtx}

theorem yokeSync_keep {s : State} (hk : Keep anc s) (hm : [.stage] ⊆ anc.touched := by exact List.Subset.trans (by decide) hm) : Keep anc (yokeSync s) := by
  unfold yokeSync
  repeat' (first
      | with_reducible assumption | extract_lets | with_reducible apply State.setYoke_keep | with_reducible apply Keep.ite
      | (fail_if_no_progress (with_reducible refine Keep.upd ?_ ?_ ?_ ?_ ?_ ?_ ?_ ?_ ?_ ?_) <;> try with_reducible first | rfl | exact fun h => h)
      | split)

theorem syncTaken_keep (m : PtpSync) {s : State} (hk : Keep anc s) (hm : [.stage] ⊆ anc.touched := by exact List.Subset.trans (by decide) hm) : Keep
    anc (syncTaken m s) := by
  unfold syncTaken
  repeat' (first
      | with_reducible assumption | extract_lets | with_reducible apply yokeSync_keep
      | (fail_if_no_progress (with_reducible refine Keep.upd ?_ ?_ ?_ ?_ ?_ ?_ ?_ ?_ ?_ ?_) <;> try with_reducible first | rfl | exact fun h => h)
      | exact Eq.refl _)

theorem syncMessage_keep (m : PtpSync) (twoStep : Bool) {s : State} (hk : Keep anc s)
    (hm : [.stage] ⊆ anc.touched := by exact List.Subset.trans (by decide) hm) : Keep anc (syncMessage m twoStep s) := by
  unfold syncMessage
  repeat' (first
      | with_reducible assumption | extract_lets | with_reducible apply syncTaken_keep | with_reducible apply Keep.ite
      | (fail_if_no_progress (with_reducible refine Keep.upd ?_ ?_ ?_ ?_ ?_ ?_ ?_ ?_ ?_ ?_) <;> try with_reducible first | rfl | exact fun h => h))

theorem followUpMessage_keep (m : PtpSync) {s : State} (hk : Keep anc s) (hm : [.stage] ⊆ anc.touched := by exact List.Subset.trans (by decide) hm) :
    Keep anc (followUpMessage m s) := by
  unfold followUpMessage
  repeat' (first
      | with_reducible assumption | extract_lets | with_reducible apply syncTaken_keep | with_reducible apply Keep.ite)

theorem announceMessage_keep (a : PtpAnnounce) {s : State} (hk : Keep anc s)
    (hm : [.stage] ⊆ anc.touched := by exact List.Subset.trans (by decide) hm) : Keep anc (announceMessage a s) := by
  unfold announceMessage
  repeat' (first
      | with_reducible assumption | extract_lets | with_reducible apply Keep.ite
      | (fail_if_no_progress (with_reducible refine Keep.upd ?_ ?_ ?_ ?_ ?_ ?_ ?_ ?_ ?_ ?_) <;> try with_reducible first | rfl | exact fun h => h)
      | split)

theorem delayRespMessage_keep (domain : Nat) (master : Nat) (seq : Nat) (delay : Int) (logInterval : Int) {s : State} (hk : Keep anc s)
    (hm : [.stage] ⊆ anc.touched := by exact List.Subset.trans (by decide) hm) : Keep anc (delayRespMessage domain master seq delay logInterval s) := by
  unfold delayRespMessage
  repeat' (first
      | with_reducible assumption | extract_lets | with_reducible apply Keep.ite
      | (fail_if_no_progress (with_reducible refine Keep.upd ?_ ?_ ?_ ?_ ?_ ?_ ?_ ?_ ?_ ?_) <;> try with_reducible first | rfl | exact fun h => h))

theorem delayReqSend_keep {s : State} (hk : Keep anc s) (hm : [.stage, .port] ⊆ anc.touched := by exact List.Subset.trans (by decide) hm) : Keep anc
    (delayReqSend s) := by
  unfold delayReqSend
  repeat' (first
      | with_reducible assumption | with_reducible exact List.Subset.trans (by decide) hm | extract_lets | with_reducible apply State.send_keep
      | with_reducible apply Keep.ite
      | (fail_if_no_progress (with_reducible refine Keep.upd ?_ ?_ ?_ ?_ ?_ ?_ ?_ ?_ ?_ ?_) <;> try with_reducible first | rfl | exact fun h => h))

theorem yokeHoldoverTimeout_keep {s : State} (hk : Keep anc s) (hm : [.stage] ⊆ anc.touched := by exact List.Subset.trans (by decide) hm) : Keep anc
    (yokeHoldoverTimeout s) := by
  unfold yokeHoldoverTimeout
  repeat' (first
      | with_reducible assumption | extract_lets | with_reducible apply State.setYoke_keep | with_reducible apply Keep.ite
      | (fail_if_no_progress (with_reducible refine Keep.upd ?_ ?_ ?_ ?_ ?_ ?_ ?_ ?_ ?_ ?_) <;> try with_reducible first | rfl | exact fun h => h))

theorem yokeSyncLossTimeout_keep {s : State} (hk : Keep anc s) (hm : [.stage] ⊆ anc.touched := by exact List.Subset.trans (by decide) hm) : Keep anc
    (yokeSyncLossTimeout s) := by
  unfold yokeSyncLossTimeout
  repeat' (first
      | with_reducible assumption | extract_lets | with_reducible apply State.setYoke_keep | with_reducible apply Keep.ite
      | (fail_if_no_progress (with_reducible refine Keep.upd ?_ ?_ ?_ ?_ ?_ ?_ ?_ ?_ ?_ ?_) <;> try with_reducible first | rfl | exact fun h => h))

theorem servoLockTimeout_keep {s : State} (hk : Keep anc s) (hm : [.stage] ⊆ anc.touched := by exact List.Subset.trans (by decide) hm) : Keep anc
    (servoLockTimeout s) := by
  unfold servoLockTimeout
  repeat' (first
      | with_reducible assumption | extract_lets | with_reducible apply Keep.ite
      | (fail_if_no_progress (with_reducible refine Keep.upd ?_ ?_ ?_ ?_ ?_ ?_ ?_ ?_ ?_ ?_) <;> try with_reducible first | rfl | exact fun h => h))

theorem ptpFirstWaitExpiry_keep {s : State} (hk : Keep anc s) (hm : [.stage] ⊆ anc.touched := by exact List.Subset.trans (by decide) hm) : Keep anc
    (ptpFirstWaitExpiry s) := by
  unfold ptpFirstWaitExpiry
  repeat' (first
      | with_reducible assumption | extract_lets | with_reducible apply Keep.ite
      | (fail_if_no_progress (with_reducible refine Keep.upd ?_ ?_ ?_ ?_ ?_ ?_ ?_ ?_ ?_ ?_) <;> try with_reducible first | rfl | exact fun h => h))

theorem trimUpdate_keep (wish lineErr : Int) {s : State} (hk : Keep anc s) (hm : [.stage, .clock] ⊆ anc.touched := by exact List.Subset.trans (by decide) hm) : Keep anc (trimUpdate wish lineErr s) := by
  unfold trimUpdate
  extract_lets _ _ _ _ _ _ t
  refine Keep.ite hk ?_
  obtain ⟨ha, ⟨hs, _, hk⟩, hp⟩ := hk
  refine ⟨ha, ⟨hs, (by show -250000 ≤ t ∧ t ≤ 250000; omega), hk⟩, Only.trans hp (Only.intro fun p hp => ?_)⟩
  cases p <;> first | rfl | exact absurd (part_mem hm (by decide)) hp

end Sys2Proof.Machine
end

