-- ==== Sys2Proof/Laws/KeepCoach.lean ====
section
/-! SUPPORT. What the operations of Machine/Coach.lean keep (Laws/Keep.lean). -/

namespace Sys2Proof.Machine

set_option Elab.async false

open Sys2Proof.Safety

set_option linter.unusedTactic false
set_option linter.unreachableTactic false

variable {anc : KeepCtx}

theorem State.sramWrite_keep {s : State} (coach : Nat) (addr : Nat) (bs : Bytes) (hk : Keep anc s) (hm : [.coaches] ⊆ anc.touched := by exact List.Subset.trans (by decide) hm) : Keep anc (State.sramWrite s coach addr bs) :=
  hk.mem rfl rfl rfl fun h => ⟨Tab.wf_putBytes _ _ _ _ h.1, h.2⟩

theorem loadColumn_keep (coach set : Nat) (l : TileLoad) {s : State} (j : Nat) (hk : Keep anc s) (hm : [.coaches] ⊆ anc.touched := by exact List.Subset.trans (by decide) hm) : Keep anc (loadColumn coach set l s j) := by
  unfold loadColumn
  extract_lets n line regs
  clear_value regs
  exact hk.upd rfl rfl rfl rfl rfl id rfl rfl rfl

theorem loadTile_keep (coach : Nat) (l : TileLoad) {s : State} (hk : Keep anc s) (hm : [.coaches] ⊆ anc.touched := by exact List.Subset.trans (by decide) hm) : Keep anc (loadTile coach l s) := by
  unfold loadTile
  extract_lets set t
  have h : Keep anc t := hk.foldl fun s j h => loadColumn_keep coach set l j h
  clear_value t
  exact h.upd rfl rfl rfl rfl rfl id rfl rfl rfl

theorem takeQueue_keep (coach : Nat) (i : UnitInstr) {s : State} (hk : Keep anc s)
    (hm : [.coaches] ⊆ anc.touched := by exact List.Subset.trans (by decide) hm) : Keep anc (takeQueue coach i s) := by
  unfold takeQueue
  repeat' (first
      | with_reducible assumption | extract_lets
      | (fail_if_no_progress (with_reducible refine Keep.upd ?_ ?_ ?_ ?_ ?_ ?_ ?_ ?_ ?_ ?_) <;> try with_reducible first | rfl | exact fun h => h))

theorem startLoad_keep (coach t : Nat) (l : TileLoad) {s : State} (hk : Keep anc s) (hm : [.coaches] ⊆ anc.touched := by exact List.Subset.trans (by decide) hm) : Keep anc (startLoad coach t l s) := by
  unfold startLoad
  extract_lets start u
  have h : Keep anc u := loadTile_keep _ _ hk
  clear_value u
  exact h.upd rfl rfl rfl rfl rfl id rfl rfl rfl

theorem transposedLoad_keep (coach : Nat) (t : Nat) (l : TileLoad) {s : State} (hk : Keep anc s)
    (hm : [.coaches] ⊆ anc.touched := by exact List.Subset.trans (by decide) hm) : Keep anc (transposedLoad coach t l s) := by
  unfold transposedLoad
  repeat' (first
      | with_reducible assumption | extract_lets | with_reducible apply takeQueue_keep | with_reducible apply startLoad_keep
      | with_reducible apply Keep.ite)

theorem swapSets_keep (coach : Nat) (t : Nat) {s : State} (hk : Keep anc s)
    (hm : [.coaches] ⊆ anc.touched := by exact List.Subset.trans (by decide) hm) : Keep anc (swapSets coach t s) := by
  unfold swapSets
  repeat' (first
      | with_reducible assumption | extract_lets
      | (fail_if_no_progress (with_reducible refine Keep.upd ?_ ?_ ?_ ?_ ?_ ?_ ?_ ?_ ?_ ?_) <;> try with_reducible first | rfl | exact fun h => h))

theorem stationarySwap_keep (coach : Nat) (t : Nat) {s : State} (hk : Keep anc s)
    (hm : [.coaches] ⊆ anc.touched := by exact List.Subset.trans (by decide) hm) : Keep anc (stationarySwap coach t s) := by
  unfold stationarySwap
  repeat' (first
      | with_reducible assumption | extract_lets | with_reducible apply swapSets_keep | with_reducible apply Keep.ite)

theorem gridRow_keep (coach : Nat) (i : MatInstr) (chunk : Nat) (ct : Nat) {s : State} (r : Nat) (hk : Keep anc s)
    (hm : [.coaches] ⊆ anc.touched := by exact List.Subset.trans (by decide) hm) : Keep anc (gridRow coach i chunk ct s r) := by
  unfold gridRow
  repeat' (first
      | with_reducible assumption | extract_lets | with_reducible apply State.sramWrite_keep)

/-- A matrix instruction at work keeps what counts. -/
theorem gridTile_keep (coach t : Nat) (i : MatInstr) (a b : Nat) (g : GridRun) (p : TileLoad × Nat) (hk : Keep anc g.s) (hm : [.coaches] ⊆ anc.touched := by exact List.Subset.trans (by decide) hm) : Keep anc (gridTile coach t i a b g p).s := by
  unfold gridTile
  extract_lets lo hi rate cols fresh loaded first s1 s2
  split
  · exact hk
  · have h1 : Keep anc loaded := by
      show Keep anc (ite _ _ _)
      split
      · exact startLoad_keep _ _ _ hk
      · exact hk
    clear_value loaded
    have h2 : Keep anc s1 := by
      show Keep anc (ite _ _ _)
      split
      · exact swapSets_keep _ _ h1
      · exact h1
    clear_value s1
    exact h2.foldl fun s r h => gridRow_keep _ _ _ _ r h

theorem matrixInstruction_keep (coach t : Nat) (i : MatInstr) (upto : Option Nat) {s : State} (hk : Keep anc s) (hm : [.coaches] ⊆ anc.touched := by exact List.Subset.trans (by decide) hm) : Keep anc (matrixInstruction coach t i upto s) := by
  unfold matrixInstruction
  extract_lets a b u g
  have hu : Keep anc u := by
    show Keep anc (ite _ _ _)
    split
    · exact takeQueue_keep _ _ hk
    · exact hk
  have hg : Keep anc g.s := by
    refine List.foldlRecOn (motive := fun g : GridRun => Keep anc g.s) _ _ hu fun g h p _ => gridTile_keep _ _ _ _ _ g p h
  clear_value g
  split
  · exact hk
  · exact hg.upd rfl rfl rfl rfl rfl id rfl rfl rfl

theorem vectorInstruction_keep (coach : Nat) (i : VecInstr) {s : State} (hk : Keep anc s)
    (hm : [.coaches] ⊆ anc.touched := by exact List.Subset.trans (by decide) hm) : Keep anc (vectorInstruction coach i s) := by
  unfold vectorInstruction
  repeat' (first
      | with_reducible assumption | extract_lets | with_reducible apply takeQueue_keep | with_reducible apply State.sramWrite_keep
      | with_reducible apply Keep.ite | split)

theorem crossLaneSum_keep (coach : Nat) (src : Nat) (dst : Nat) {s : State} (hk : Keep anc s)
    (hm : [.coaches] ⊆ anc.touched := by exact List.Subset.trans (by decide) hm) : Keep anc (crossLaneSum coach src dst s) := by
  unfold crossLaneSum
  repeat' (first
      | with_reducible assumption | extract_lets | with_reducible apply takeQueue_keep | with_reducible apply State.sramWrite_keep
      | with_reducible apply Keep.ite)

theorem State.setCtx_keep {s : State} (coach : Nat) (ctx : Nat) (c : Ctx) (hk : Keep anc s)
    (hm : [.coaches] ⊆ anc.touched := by exact List.Subset.trans (by decide) hm) : Keep anc (State.setCtx s coach ctx c) := by
  unfold State.setCtx
  repeat' (first
      | with_reducible assumption | extract_lets
      | (fail_if_no_progress (with_reducible refine Keep.upd ?_ ?_ ?_ ?_ ?_ ?_ ?_ ?_ ?_ ?_) <;> try with_reducible first | rfl | exact fun h => h))

theorem contextFree_keep (coach : Nat) (ctx : Nat) {s : State} (hk : Keep anc s)
    (hm : [.coaches] ⊆ anc.touched := by exact List.Subset.trans (by decide) hm) : Keep anc (contextFree coach ctx s) := by
  unfold contextFree
  repeat' (first
      | with_reducible assumption | extract_lets | with_reducible apply State.setCtx_keep | with_reducible apply Keep.ite)

theorem contextRestart_keep (coach : Nat) (ctx : Nat) {s : State} (hk : Keep anc s)
    (hm : [.coaches] ⊆ anc.touched := by exact List.Subset.trans (by decide) hm) : Keep anc (contextRestart coach ctx s) := by
  unfold contextRestart
  repeat' (first
      | with_reducible assumption | extract_lets | with_reducible apply State.setCtx_keep | with_reducible apply Keep.ite)

theorem contextWake_keep (coach : Nat) (ctx : Nat) {s : State} (hk : Keep anc s)
    (hm : [.coaches] ⊆ anc.touched := by exact List.Subset.trans (by decide) hm) : Keep anc (contextWake coach ctx s) := by
  unfold contextWake
  repeat' (first
      | with_reducible assumption | extract_lets | with_reducible apply State.setCtx_keep | with_reducible apply Keep.ite)

theorem wakeReply_keep (coach : Nat) (ctx : Nat) {s : State} (hk : Keep anc s)
    (hm : [.coaches] ⊆ anc.touched := by exact List.Subset.trans (by decide) hm) : Keep anc (wakeReply coach ctx s) := by
  unfold wakeReply
  repeat' (first
      | with_reducible assumption | extract_lets | with_reducible apply State.setCtx_keep | with_reducible apply Keep.ite)

theorem wakeSeat_keep (coach : Nat) (ctx : Nat) {s : State} (hk : Keep anc s)
    (hm : [.coaches] ⊆ anc.touched := by exact List.Subset.trans (by decide) hm) : Keep anc (wakeSeat coach ctx s) := by
  unfold wakeSeat
  repeat' (first
      | with_reducible assumption | extract_lets | with_reducible apply wakeReply_keep | with_reducible apply State.setCtx_keep
      | with_reducible apply Keep.ite)

end Sys2Proof.Machine
end

