-- ==== Sys2Proof/Laws/KeepDram.lean ====
section
/-! SUPPORT. What the operations of Machine/Dram.lean keep (Laws/Keep.lean). -/

namespace Sys2Proof.Machine

set_option Elab.async false

open Sys2Proof.Safety

set_option linter.unusedTactic false
set_option linter.unreachableTactic false

variable {anc : KeepCtx}

theorem State.setCheck_keep {s : State} (line w : Nat) (p : Byte × Byte) (hk : Keep anc s) (hm : [.dram] ⊆ anc.touched := by exact List.Subset.trans (by decide) hm) : Keep anc (State.setCheck s line w p) :=
  hk.mem rfl rfl rfl fun h => ⟨h.1, h.2.1, Tab.wf_set _ _ _ _ (Tab.wf_set _ _ _ _ h.2.2.1), h.2.2.2⟩

theorem State.setData_keep {s : State} (addr : Nat) (bs : Bytes) (hk : Keep anc s) (hm : [.dram] ⊆ anc.touched := by exact List.Subset.trans (by decide) hm) : Keep anc (State.setData s addr bs) :=
  hk.mem rfl rfl rfl fun h => ⟨h.1, Tab.wf_putBytes _ _ _ _ h.2.1, h.2.2⟩

theorem State.putWord_keep {s : State} (line : Nat) (w : Nat) (d : Bytes) (hk : Keep anc s)
    (hm : [.dram] ⊆ anc.touched := by exact List.Subset.trans (by decide) hm) : Keep anc (State.putWord s line w d) := by
  unfold State.putWord
  repeat' (first
      | with_reducible assumption | extract_lets | with_reducible apply State.setData_keep | with_reducible apply State.setCheck_keep)

theorem State.poisonLine_keep {s : State} (line : Nat) (hk : Keep anc s) (hm : [.dram] ⊆ anc.touched := by exact List.Subset.trans (by decide) hm) :
    Keep anc (State.poisonLine s line) := by
  unfold State.poisonLine
  repeat' (first
      | with_reducible assumption | with_reducible intro _ | extract_lets | with_reducible apply State.setCheck_keep | with_reducible apply Keep.foldl)

theorem State.countEcc_keep {s : State} (pkg : Nat) (corr : Nat) (pois : Nat) (unc : Nat) (hk : Keep anc s)
    (hm : [.dram] ⊆ anc.touched := by exact List.Subset.trans (by decide) hm) : Keep anc (State.countEcc s pkg corr pois unc) := by
  unfold State.countEcc
  repeat' (first
      | with_reducible assumption | extract_lets
      | (fail_if_no_progress (with_reducible refine Keep.upd ?_ ?_ ?_ ?_ ?_ ?_ ?_ ?_ ?_ ?_) <;> try with_reducible first | rfl | exact fun h => h))

theorem State.fixWord_keep {s : State} (line : Nat) (w : Nat) (j : Nat) (err : Byte) (hk : Keep anc s)
    (hm : [.dram] ⊆ anc.touched := by exact List.Subset.trans (by decide) hm) : Keep anc (State.fixWord s line w j err) := by
  unfold State.fixWord
  repeat' (first
      | with_reducible assumption | extract_lets | with_reducible apply State.setCheck_keep | with_reducible apply State.setData_keep
      | with_reducible apply Keep.ite)

theorem readLine_keep (req : Nat) (line : Nat) (ws : List Nat) {s : State} (hk : Keep anc s)
    (hm : [.dram, .log] ⊆ anc.touched := by exact List.Subset.trans (by decide) hm) : Keep anc (readLine req line ws s).2 := by
  unfold readLine
  repeat' (first
      | with_reducible assumption | with_reducible exact List.Subset.trans (by decide) hm | with_reducible intro _ | extract_lets
      | with_reducible apply State.fixWord_keep | with_reducible apply State.countEcc_keep | with_reducible apply State.poisonLine_keep
      | with_reducible apply State.event_keep
      | (fail_if_no_progress (with_reducible refine Keep.upd ?_ ?_ ?_ ?_ ?_ ?_ ?_ ?_ ?_ ?_) <;> try with_reducible first | rfl | exact fun h => h)
      | with_reducible apply Keep.foldl | split)

theorem readParts_keep (req : Nat) (sel : Nat → List Nat) (ls : List Nat) {s : State} (hk : Keep anc s) (hm : [.dram, .log] ⊆ anc.touched := by exact List.Subset.trans (by decide) hm) : Keep anc (readParts req sel ls s).2 := by
  induction ls generalizing s with
  | nil => exact hk
  | cons l ls ih =>
    unfold readParts
    split
    · exact ih hk
    · split
      · next e => exact ih (Keep.pair e (readLine_keep _ _ _ hk))
      · next e => exact Keep.pair e (readLine_keep _ _ _ hk)

theorem dramRead_keep (req : Nat) (addr : Nat) (len : Nat) {s : State} (hk : Keep anc s)
    (hm : [.dram, .log] ⊆ anc.touched := by exact List.Subset.trans (by decide) hm) : Keep anc (dramRead req addr len s).2 := by
  unfold dramRead
  repeat' (first
      | with_reducible assumption | extract_lets | with_reducible apply readParts_keep | with_reducible refine Keep.pair (by assumption) ?_ | split)

theorem writePiece_keep (addr : Nat) (bs : Bytes) {s : State} (line : Nat) (hk : Keep anc s)
    (hm : [.dram] ⊆ anc.touched := by exact List.Subset.trans (by decide) hm) : Keep anc (writePiece addr bs s line) := by
  unfold writePiece
  repeat' (first
      | with_reducible assumption | with_reducible intro _ | extract_lets | with_reducible apply State.setData_keep
      | with_reducible apply State.setCheck_keep | with_reducible apply State.putWord_keep | with_reducible apply Keep.ite
      | with_reducible apply Keep.foldl | split)

theorem dramWrite_keep (req addr : Nat) (bs : Bytes) {s : State} (hk : Keep anc s) (hm : [.dram, .log] ⊆ anc.touched := by exact List.Subset.trans (by decide) hm) : Keep anc (dramWrite req addr bs s).2 := by
  unfold dramWrite
  extract_lets lines pre
  have h : Keep anc pre.2 := by
    show Keep anc (ite _ _ _ : Bool × State).2
    split
    · exact readParts_keep _ _ _ hk
    · exact hk
  clear_value pre
  obtain ⟨b, t⟩ := pre
  cases b
  · exact h
  · exact Keep.foldl h fun _ _ h => writePiece_keep _ _ _ h

theorem dramScrub_keep (pkg : Nat) {s : State} (hk : Keep anc s) (hm : [.dram, .log] ⊆ anc.touched := by exact List.Subset.trans (by decide) hm) :
    Keep anc (dramScrub pkg s) := by
  unfold dramScrub
  repeat' (first
      | with_reducible assumption | extract_lets | with_reducible apply readLine_keep | with_reducible apply Keep.ite
      | (fail_if_no_progress (with_reducible refine Keep.upd ?_ ?_ ?_ ?_ ?_ ?_ ?_ ?_ ?_ ?_) <;> try with_reducible first | rfl | exact fun h => h))

theorem drmEccFold_keep (pkg : Nat) {s : State} (hk : Keep anc s) (hm : [.dram, .faults] ⊆ anc.touched := by exact List.Subset.trans (by decide) hm) :
    Keep anc (drmEccFold pkg s) := by
  unfold drmEccFold
  repeat' (first
      | with_reducible assumption | with_reducible exact List.Subset.trans (by decide) hm | extract_lets | with_reducible apply State.health_keep
      | with_reducible apply Keep.ite
      | (fail_if_no_progress (with_reducible refine Keep.upd ?_ ?_ ?_ ?_ ?_ ?_ ?_ ?_ ?_ ?_) <;> try with_reducible first | rfl | exact fun h => h))

theorem writeDrmTest_keep (pkg : Nat) (key : Nat) (raw : Bool) (path : Nat) {s : State} (hk : Keep anc s)
    (hm : [.dram] ⊆ anc.touched := by exact List.Subset.trans (by decide) hm) : Keep anc (writeDrmTest pkg key raw path s) := by
  unfold writeDrmTest
  repeat' (first
      | with_reducible assumption | extract_lets | with_reducible apply Keep.ite
      | (fail_if_no_progress (with_reducible refine Keep.upd ?_ ?_ ?_ ?_ ?_ ?_ ?_ ?_ ?_ ?_) <;> try with_reducible first | rfl | exact fun h => h))

theorem drmTestWritePath_keep (pkg : Nat) (key : Nat) (path : Nat) {s : State} (hk : Keep anc s)
    (hm : [.dram] ⊆ anc.touched := by exact List.Subset.trans (by decide) hm) : Keep anc (drmTestWritePath pkg key path s) := by
  unfold drmTestWritePath
  repeat' (first
      | with_reducible assumption | with_reducible apply writeDrmTest_keep)

theorem drmTestRawRead_keep (pkg : Nat) (key : Nat) (on : Bool) {s : State} (hk : Keep anc s)
    (hm : [.dram] ⊆ anc.touched := by exact List.Subset.trans (by decide) hm) : Keep anc (drmTestRawRead pkg key on s) := by
  unfold drmTestRawRead
  repeat' (first
      | with_reducible assumption | with_reducible apply writeDrmTest_keep)

theorem quotaRead_keep (req : Nat) (ranges : List (Nat × Nat × Nat)) (off len : Nat) {s : State} (hk : Keep anc s) (hm : [.dram, .log] ⊆ anc.touched := by exact List.Subset.trans (by decide) hm) :
    Keep anc (quotaRead req ranges off len s).2 := by
  unfold quotaRead
  refine Keep.foldl2 hk fun p x h => ?_
  obtain ⟨o, t⟩ := p
  split
  · next e =>
    cases e
    split
    · split
      · next e => exact Keep.pair e (dramRead_keep _ _ _ h)
      · next e => exact Keep.pair e (dramRead_keep _ _ _ h)
    · exact h
  · exact h

theorem quotaWrite_keep (req : Nat) (ranges : List (Nat × Nat × Nat)) (off : Nat) (bs : Bytes) {s : State} (hk : Keep anc s) (hm : [.dram, .log] ⊆ anc.touched := by exact List.Subset.trans (by decide) hm) :
    Keep anc (quotaWrite req ranges off bs s).2 := by
  unfold quotaWrite
  refine Keep.foldl2 hk fun p x h => ?_
  split
  · split
    · exact dramWrite_keep _ _ _ h
    · exact h
  · exact h

end Sys2Proof.Machine
end

