-- ==== Sys2Proof/Laws/KeepSess.lean ====
section
/-! SUPPORT. What the operations of Machine/Sess.lean keep (Laws/Keep.lean). -/

namespace Sys2Proof.Machine

set_option Elab.async false

open Sys2Proof.Safety

set_option linter.unusedTactic false
set_option linter.unreachableTactic false

variable {anc : KeepCtx}

theorem State.zeroSlots_keep {s : State} (pkg first n : Nat) (hk : Keep anc s) (hm : [.dram] ⊆ anc.touched := by exact List.Subset.trans (by decide) hm) : Keep anc (State.zeroSlots s pkg first n) :=
  hk.mem rfl rfl rfl fun h => ⟨h.1, Tab.wf_clear _ _ _ _ h.2.1, Tab.wf_clear _ _ _ _ h.2.2.1, h.2.2.2⟩

theorem State.zeroRanges_keep {s : State} (ranges : List (Nat × Nat × Nat)) (hk : Keep anc s)
    (hm : [.dram] ⊆ anc.touched := by exact List.Subset.trans (by decide) hm) : Keep anc (State.zeroRanges s ranges) := by
  unfold State.zeroRanges
  repeat' (first
      | with_reducible assumption | with_reducible intro _ | extract_lets | with_reducible apply State.zeroSlots_keep
      | with_reducible apply Keep.foldl)

theorem State.hold_keep {s : State} (sess : Nat) (h : Held) (hk : Keep anc s)
    (hm : [.sessions, .faults] ⊆ anc.touched := by exact List.Subset.trans (by decide) hm) : Keep anc (State.hold s sess h) := by
  unfold State.hold
  repeat' (first
      | with_reducible assumption | with_reducible exact List.Subset.trans (by decide) hm | extract_lets | with_reducible apply State.updSess_keep
      | with_reducible apply State.health_keep | with_reducible apply Keep.ite)

theorem State.writeRole_keep {s : State} (t : Nat) (assigned : Bool) (part : Nat) (hk : Keep anc s)
    (hm : [.coaches] ⊆ anc.touched := by exact List.Subset.trans (by decide) hm) : Keep anc (State.writeRole s t assigned part) := by
  unfold State.writeRole
  repeat' (first
      | with_reducible assumption | extract_lets
      | (fail_if_no_progress (with_reducible refine Keep.upd ?_ ?_ ?_ ?_ ?_ ?_ ?_ ?_ ?_ ?_) <;> try with_reducible first | rfl | exact fun h => h))

theorem State.writeRoles_keep {s : State} (ts : List Nat) (assigned : Bool) (part : Nat) (hk : Keep anc s)
    (hm : [.coaches] ⊆ anc.touched := by exact List.Subset.trans (by decide) hm) : Keep anc (State.writeRoles s ts assigned part) := by
  unfold State.writeRoles
  repeat' (first
      | with_reducible assumption | with_reducible intro _ | extract_lets | with_reducible apply State.writeRole_keep
      | with_reducible apply Keep.foldl)

theorem State.setWindows_keep {s : State} (part : Nat) (x : Option Session) (hk : Keep anc s)
    (hm : [.dram] ⊆ anc.touched := by exact List.Subset.trans (by decide) hm) : Keep anc (State.setWindows s part x) := by
  unfold State.setWindows
  repeat' (first
      | with_reducible assumption | extract_lets
      | (fail_if_no_progress (with_reducible refine Keep.upd ?_ ?_ ?_ ?_ ?_ ?_ ?_ ?_ ?_ ?_) <;> try with_reducible first | rfl | exact fun h => h))

theorem State.faultRun_keep {s : State} (sess : Nat) (code : Nat) (op : Option Nat) (hk : Keep anc s)
    (hm : [.sessions] ⊆ anc.touched := by exact List.Subset.trans (by decide) hm) : Keep anc (State.faultRun s sess code op) := by
  unfold State.faultRun
  repeat' (first
      | with_reducible assumption | with_reducible apply State.updSess_keep)

theorem State.faultHere_keep {s : State} (sess : Nat) (code : Nat) (hk : Keep anc s)
    (hm : [.sessions] ⊆ anc.touched := by exact List.Subset.trans (by decide) hm) : Keep anc (State.faultHere s sess code) := by
  unfold State.faultHere
  repeat' (first
      | with_reducible assumption | with_reducible apply State.faultRun_keep)

theorem State.faultCoach_keep {s : State} (c : Nat) (code : Nat) (hk : Keep anc s)
    (hm : [.sessions] ⊆ anc.touched := by exact List.Subset.trans (by decide) hm) : Keep anc (State.faultCoach s c code) := by
  unfold State.faultCoach
  repeat' (first
      | with_reducible assumption | with_reducible apply State.faultHere_keep | split)

theorem State.flagRun_keep {s : State} (sess : Nat) (b : Nat) (hk : Keep anc s)
    (hm : [.sessions] ⊆ anc.touched := by exact List.Subset.trans (by decide) hm) : Keep anc (State.flagRun s sess b) := by
  unfold State.flagRun
  repeat' (first
      | with_reducible assumption | with_reducible apply State.updSess_keep)

theorem State.freeSlots_keep {s : State} (ps : List Bytes) (hk : Keep anc s)
    (hm : [.sessions] ⊆ anc.touched := by exact List.Subset.trans (by decide) hm) : Keep anc (State.freeSlots s ps) := by
  unfold State.freeSlots
  repeat' (first
      | with_reducible assumption | extract_lets
      | (fail_if_no_progress (with_reducible refine Keep.upd ?_ ?_ ?_ ?_ ?_ ?_ ?_ ?_ ?_ ?_) <;> try with_reducible first | rfl | exact fun h => h))

theorem State.sessEvent_keep {s : State} (n : Nat) (code : Nat) (hk : Keep anc s)
    (hm : [.log] ⊆ anc.touched := by exact List.Subset.trans (by decide) hm) : Keep anc (State.sessEvent s n code) := by
  unfold State.sessEvent
  repeat' (first
      | with_reducible assumption | with_reducible apply State.event_keep)

theorem State.formPart_keep {s : State} (p : Nat) (ts : List Nat) (hk : Keep anc s)
    (hm : [.coaches, .sessions] ⊆ anc.touched := by exact List.Subset.trans (by decide) hm) : Keep anc (State.formPart s p ts) := by
  unfold State.formPart
  repeat' (first
      | with_reducible assumption | with_reducible exact List.Subset.trans (by decide) hm | extract_lets | with_reducible apply State.writeRoles_keep
      | (fail_if_no_progress (with_reducible refine Keep.upd ?_ ?_ ?_ ?_ ?_ ?_ ?_ ?_ ?_ ?_) <;> try with_reducible first | rfl | exact fun h => h))

theorem State.placePart_keep {s : State} (t : Nat) (hk : Keep anc s) (hm : [.coaches, .sessions] ⊆ anc.touched := by exact List.Subset.trans (by decide) hm) : KeepOpt anc ((State.placePart s t).map Prod.snd) := by
  have h1 : ∀ u, Option.map Prod.snd ((s.newPart t).map fun n => (n.1, s.formPart n.1 n.2)) = some u → Keep anc u := by
    intro u e
    simp only [Option.map_map, Option.map_eq_some_iff, Function.comp] at e
    obtain ⟨n, -, rfl⟩ := e
    exact State.formPart_keep _ _ hk
  have h2 : ∀ u, Option.map Prod.snd ((s.joinPart t).map fun p => (p, s)) = some u → Keep anc u := by
    intro u e
    simp only [Option.map_map, Option.map_eq_some_iff, Function.comp] at e
    obtain ⟨n, -, rfl⟩ := e
    exact hk
  unfold State.placePart
  extract_lets fresh join
  intro u e
  split at e
  · cases h : fresh with
    | none => rw [h] at e; exact h2 u e
    | some p => rw [h] at e; exact h1 u ((congrArg (Option.map Prod.snd) h).trans e)
  · cases h : join with
    | none => rw [h] at e; exact h1 u e
    | some p => rw [h] at e; exact h2 u ((congrArg (Option.map Prod.snd) h).trans e)

theorem State.clearContexts_keep {s : State} (ts : List Nat) (hk : Keep anc s)
    (hm : [.coaches] ⊆ anc.touched := by exact List.Subset.trans (by decide) hm) : Keep anc (State.clearContexts s ts) := by
  unfold State.clearContexts
  repeat' (first
      | with_reducible assumption | extract_lets
      | (fail_if_no_progress (with_reducible refine Keep.upd ?_ ?_ ?_ ?_ ?_ ?_ ?_ ?_ ?_ ?_) <;> try with_reducible first | rfl | exact fun h => h))

theorem State.leavePart_keep {s : State} (n : Nat) (hk : Keep anc s)
    (hm : [.coaches, .dram, .flash, .sessions] ⊆ anc.touched := by exact List.Subset.trans (by decide) hm) : Keep anc (State.leavePart s n) := by
  unfold State.leavePart
  repeat' (first
      | with_reducible assumption | with_reducible exact List.Subset.trans (by decide) hm | extract_lets | with_reducible apply State.updSess_keep
      | with_reducible apply State.clearContexts_keep | with_reducible apply State.setWindows_keep | with_reducible apply State.writeRoles_keep
      | with_reducible apply State.updPart_keep | with_reducible apply Keep.ite
      | (fail_if_no_progress (with_reducible refine Keep.upd ?_ ?_ ?_ ?_ ?_ ?_ ?_ ?_ ?_ ?_) <;> try with_reducible first | rfl | exact fun h => h)
      | split)

theorem State.closePeers_keep {s : State} (p : PeerSet) (hk : Keep anc s) (hm : [.port] ⊆ anc.touched := by exact List.Subset.trans (by decide) hm) :
    Keep anc (State.closePeers s p) := by
  unfold State.closePeers
  repeat' (first
      | with_reducible assumption | with_reducible intro _ | extract_lets | with_reducible apply State.send_keep | with_reducible apply Keep.ite
      | with_reducible apply Keep.foldl)

theorem State.abortQuotaWait_keep {s : State} (x : Session) (hk : Keep anc s)
    (hm : [.sessions, .completions] ⊆ anc.touched := by exact List.Subset.trans (by decide) hm) : Keep anc (State.abortQuotaWait s x) := by
  unfold State.abortQuotaWait
  repeat' (first
      | with_reducible assumption | with_reducible exact List.Subset.trans (by decide) hm | with_reducible intro _ | extract_lets
      | with_reducible apply State.completeWith_keep | with_reducible apply State.updSess_keep | with_reducible apply Keep.foldl)

theorem State.endZeroing_keep {s : State} (x : Session) (hk : Keep anc s)
    (hm : [.completions] ⊆ anc.touched := by exact List.Subset.trans (by decide) hm) : Keep anc (State.endZeroing s x) := by
  unfold State.endZeroing
  repeat' (first
      | with_reducible assumption | with_reducible intro _ | extract_lets | with_reducible apply State.succeed_keep | with_reducible apply Keep.foldl)

theorem freeSession_keep (n : Nat) {s : State} (hk : Keep anc s)
    (hm : [.coaches, .dram, .flash, .port, .sessions, .answers, .completions, .log] ⊆ anc.touched := by exact List.Subset.trans (by decide) hm) : Keep
    anc (freeSession n s) := by
  unfold freeSession
  repeat' (first
      | with_reducible assumption | with_reducible exact List.Subset.trans (by decide) hm | with_reducible intro _ | extract_lets
      | with_reducible apply State.closePeers_keep | with_reducible apply State.endZeroing_keep | with_reducible apply State.abortQuotaWait_keep
      | with_reducible apply State.leavePart_keep | with_reducible apply State.sessEvent_keep | with_reducible apply State.succeed_keep
      | (fail_if_no_progress (with_reducible refine Keep.upd ?_ ?_ ?_ ?_ ?_ ?_ ?_ ?_ ?_ ?_) <;> try with_reducible first | rfl | exact fun h => h)
      | with_reducible apply Keep.foldl | split)

theorem State.sessCommand_keep {s : State} (c : Ctrl) (tag : Tag) (n : Nat) (f : Session → State → State) (hk : Keep anc s)
    (hm : [.completions] ⊆ anc.touched := by exact List.Subset.trans (by decide) hm) (hf : ∀ x0 t, Keep anc t → Keep anc (f x0 t)) : Keep anc
    (State.sessCommand s c tag n f) := by
  unfold State.sessCommand
  repeat' (first
      | with_reducible assumption | with_reducible apply State.refuse_keep | with_reducible apply hf | split)

end Sys2Proof.Machine
end

