-- ==== Sys2Proof/Laws/KeepFabric.lean ====
section
/-! SUPPORT. What the operations of Machine/Fabric.lean keep (Laws/Keep.lean). -/

namespace Sys2Proof.Machine

set_option Elab.async false

open Sys2Proof.Safety

set_option linter.unusedTactic false
set_option linter.unreachableTactic false

variable {anc : KeepCtx}

theorem State.inject_keep {s : State} (dst : Nat) (c : Bytes) (hk : Keep anc s)
    (hm : [.fabric] ⊆ anc.touched := by exact List.Subset.trans (by decide) hm) : Keep anc (State.inject s dst c) := by
  unfold State.inject
  repeat' (first
      | with_reducible assumption | extract_lets
      | (fail_if_no_progress (with_reducible refine Keep.upd ?_ ?_ ?_ ?_ ?_ ?_ ?_ ?_ ?_ ?_) <;> try with_reducible first | rfl | exact fun h => h))

theorem State.sendCarriage_keep {s : State} (src : Nat) (dst : Nat) (role : Nat) (kind : Nat) (addr : Nat) (tag : Nat) (count : Nat) (dir : Nat) (ack
    : Bool) (last : Bool) (payload : Bytes) (hk : Keep anc s) (hm : [.fabric] ⊆ anc.touched := by exact List.Subset.trans (by decide) hm) : KeepOpt
    anc (State.sendCarriage s src dst role kind addr tag count dir ack last payload) := by
  unfold State.sendCarriage
  repeat' (first
      | with_reducible assumption | with_reducible exact List.Subset.trans (by decide) hm | extract_lets | with_reducible apply State.inject_keep
      | with_reducible apply State.nextCycle_keep | with_reducible apply KeepOpt.none | with_reducible apply KeepOpt.some | split)

theorem haltContext_keep (coach : Nat) (ctx : Nat) (code : Nat) {s : State} (hk : Keep anc s)
    (hm : [.coaches, .sessions] ⊆ anc.touched := by exact List.Subset.trans (by decide) hm) : Keep anc (haltContext coach ctx code s) := by
  unfold haltContext
  repeat' (first
      | with_reducible assumption | with_reducible exact List.Subset.trans (by decide) hm | extract_lets | with_reducible apply State.setCtx_keep
      | with_reducible apply State.faultCoach_keep | with_reducible apply Keep.ite)

theorem State.refuseSend_keep {s : State} (src : Nat) (tag : Nat) (hk : Keep anc s)
    (hm : [.coaches, .sessions] ⊆ anc.touched := by exact List.Subset.trans (by decide) hm) : Keep anc (State.refuseSend s src tag) := by
  unfold State.refuseSend
  repeat' (first
      | with_reducible assumption | extract_lets | with_reducible apply haltContext_keep | with_reducible apply Keep.ite)

theorem State.sendOr_keep {s : State} (src : Nat) (dst : Nat) (role : Nat) (kind : Nat) (addr : Nat) (tag : Nat) (count : Nat) (dir : Nat) (ack :
    Bool) (last : Bool) (payload : Bytes) (hk : Keep anc s)
    (hm : [.coaches, .fabric, .sessions] ⊆ anc.touched := by exact List.Subset.trans (by decide) hm) : Keep anc (State.sendOr s src dst role kind addr
    tag count dir ack last payload) := by
  unfold State.sendOr
  repeat' (first
      | with_reducible assumption | with_reducible exact List.Subset.trans (by decide) hm | extract_lets
      | with_reducible apply State.sendCarriage_keep | with_reducible apply State.refuseSend_keep | with_reducible apply Keep.getD)

theorem State.reply_keep {s : State} (src : Nat) (dst : Nat) (role : Nat) (kind : Nat) (addr : Nat) (tag : Nat) (last : Bool) (payload : Bytes) (hk :
    Keep anc s) (hm : [.coaches, .fabric, .sessions] ⊆ anc.touched := by exact List.Subset.trans (by decide) hm) : Keep anc (State.reply s src dst
    role kind addr tag last payload) := by
  unfold State.reply
  repeat' (first
      | with_reducible assumption | with_reducible apply State.sendOr_keep)

theorem carriageSend_keep (src : Nat) (r : CarriageReq) {s : State} (hk : Keep anc s)
    (hm : [.coaches, .fabric, .sessions] ⊆ anc.touched := by exact List.Subset.trans (by decide) hm) : Keep anc (carriageSend src r s) := by
  unfold carriageSend
  repeat' (first
      | with_reducible assumption | with_reducible exact List.Subset.trans (by decide) hm | extract_lets | with_reducible apply takeQueue_keep
      | with_reducible apply State.sendCarriage_keep | with_reducible apply State.refuseSend_keep | with_reducible apply Keep.ite
      | (fail_if_no_progress (with_reducible refine Keep.upd ?_ ?_ ?_ ?_ ?_ ?_ ?_ ?_ ?_ ?_) <;> try with_reducible first | rfl | exact fun h => h)
      | with_reducible refine Keep.opt (by assumption) ?_ | with_reducible apply KeepOpt.none | split)

theorem State.countDrop_keep {s : State} (st : Nat) (lo : Nat) (hk : Keep anc s)
    (hm : [.fabric] ⊆ anc.touched := by exact List.Subset.trans (by decide) hm) : Keep anc (State.countDrop s st lo) := by
  unfold State.countDrop
  repeat' (first
      | with_reducible assumption | extract_lets
      | (fail_if_no_progress (with_reducible refine Keep.upd ?_ ?_ ?_ ?_ ?_ ?_ ?_ ?_ ?_ ?_) <;> try with_reducible first | rfl | exact fun h => h))

theorem relayOn_keep (st : Nat) (c : Bytes) {s : State} (hk : Keep anc s)
    (hm : [.coaches, .fabric, .sessions] ⊆ anc.touched := by exact List.Subset.trans (by decide) hm) : Keep anc (relayOn st c s) := by
  unfold relayOn
  repeat' (first
      | with_reducible assumption | with_reducible exact List.Subset.trans (by decide) hm | extract_lets | with_reducible apply State.reply_keep
      | with_reducible apply State.inject_keep | with_reducible apply Keep.ite)

theorem arrive_keep (kind : Nat) (st : Nat) (c : Bytes) (deliver : State → State) {s : State} (hk : Keep anc s)
    (hm : [.coaches, .fabric, .sessions, .log] ⊆ anc.touched := by exact List.Subset.trans (by decide) hm) (hdeliver : ∀ t, Keep anc t → Keep anc
    (deliver t)) : Keep anc (arrive kind st c deliver s) := by
  unfold arrive
  repeat' (first
      | with_reducible assumption | with_reducible exact List.Subset.trans (by decide) hm | extract_lets | with_reducible apply State.countDrop_keep
      | with_reducible apply State.event_keep | with_reducible apply relayOn_keep | with_reducible apply Keep.ite
      | (fail_if_no_progress (with_reducible refine Keep.upd ?_ ?_ ?_ ?_ ?_ ?_ ?_ ?_ ?_ ?_) <;> try with_reducible first | rfl | exact fun h => h)
      | with_reducible apply hdeliver | split)

theorem answerError_keep (st : Nat) (c : Bytes) (code : Nat) {s : State} (hk : Keep anc s)
    (hm : [.coaches, .fabric, .sessions] ⊆ anc.touched := by exact List.Subset.trans (by decide) hm) : Keep anc (answerError st c code s) := by
  unfold answerError
  repeat' (first
      | with_reducible assumption | with_reducible apply State.reply_keep)

theorem deliverWrite_keep (st : Nat) (c : Bytes) {s : State} (hk : Keep anc s)
    (hm : [.coaches, .fabric, .dram, .sessions, .log] ⊆ anc.touched := by exact List.Subset.trans (by decide) hm) : Keep anc (deliverWrite st c s) := by
  unfold deliverWrite
  repeat' (first
      | with_reducible assumption | with_reducible exact List.Subset.trans (by decide) hm | extract_lets | with_reducible apply State.reply_keep
      | with_reducible apply State.sramWrite_keep | with_reducible apply answerError_keep | with_reducible apply dramWrite_keep
      | with_reducible apply Keep.ite | with_reducible refine Keep.pair (by assumption) ?_ | split)

theorem sendReplies_keep (st dst role tag n addr : Nat) (bs : Bytes) {s : State} (hk : Keep anc s) (hm : [.coaches, .fabric, .sessions] ⊆ anc.touched := by exact List.Subset.trans (by decide) hm) :
    Keep anc (sendReplies st dst role tag n addr bs s) := by
  induction n generalizing addr bs s with
  | zero => exact hk
  | succ n ih =>
    unfold sendReplies
    split
    · exact State.reply_keep _ _ _ _ _ _ _ _ hk
    · exact ih _ _ (State.reply_keep _ _ _ _ _ _ _ _ hk)

theorem deliverRead_keep (st : Nat) (c : Bytes) {s : State} (hk : Keep anc s)
    (hm : [.coaches, .fabric, .dram, .sessions, .log] ⊆ anc.touched := by exact List.Subset.trans (by decide) hm) : Keep anc (deliverRead st c s) := by
  unfold deliverRead
  repeat' (first
      | with_reducible assumption | with_reducible exact List.Subset.trans (by decide) hm | extract_lets | with_reducible apply sendReplies_keep
      | with_reducible apply answerError_keep | with_reducible apply dramRead_keep | with_reducible apply Keep.ite
      | with_reducible refine Keep.pair (by assumption) ?_ | split)

theorem State.readDone_keep {s : State} (coach : Nat) (tag : Nat) (hk : Keep anc s)
    (hm : [.coaches] ⊆ anc.touched := by exact List.Subset.trans (by decide) hm) : Keep anc (State.readDone s coach tag) := by
  unfold State.readDone
  repeat' (first
      | with_reducible assumption | extract_lets
      | (fail_if_no_progress (with_reducible refine Keep.upd ?_ ?_ ?_ ?_ ?_ ?_ ?_ ?_ ?_ ?_) <;> try with_reducible first | rfl | exact fun h => h))

theorem deliverReply_keep (st : Nat) (c : Bytes) {s : State} (hk : Keep anc s)
    (hm : [.coaches] ⊆ anc.touched := by exact List.Subset.trans (by decide) hm) : Keep anc (deliverReply st c s) := by
  unfold deliverReply
  repeat' (first
      | with_reducible assumption | extract_lets | with_reducible apply State.sramWrite_keep | with_reducible apply wakeReply_keep
      | with_reducible apply State.readDone_keep | with_reducible apply Keep.ite)

theorem State.reissueReads_keep {s : State} (p : Nat → Bool) (hk : Keep anc s)
    (hm : [.coaches, .fabric, .sessions] ⊆ anc.touched := by exact List.Subset.trans (by decide) hm) : Keep anc (State.reissueReads s p) := by
  unfold State.reissueReads
  repeat' (first
      | with_reducible assumption | with_reducible intro _ | extract_lets | with_reducible apply State.sendOr_keep | with_reducible apply Keep.foldl)

theorem deliverWriteAck_keep (st : Nat) (c : Bytes) {s : State} (hk : Keep anc s)
    (hm : [.coaches] ⊆ anc.touched := by exact List.Subset.trans (by decide) hm) : Keep anc (deliverWriteAck st c s) := by
  unfold deliverWriteAck
  repeat' (first
      | with_reducible assumption | extract_lets | with_reducible apply wakeReply_keep | with_reducible apply Keep.ite)

theorem emptySeat_keep (st : Nat) (c : Bytes) {s : State} (hk : Keep anc s)
    (hm : [.coaches, .fabric, .sessions] ⊆ anc.touched := by exact List.Subset.trans (by decide) hm) : Keep anc (emptySeat st c s) := by
  unfold emptySeat
  repeat' (first
      | with_reducible assumption | with_reducible apply State.reply_keep)

theorem State.setLapse_keep {s : State} (coach : Nat) (tag : Nat) (hk : Keep anc s)
    (hm : [.coaches] ⊆ anc.touched := by exact List.Subset.trans (by decide) hm) : Keep anc (State.setLapse s coach tag) := by
  unfold State.setLapse
  repeat' (first
      | with_reducible assumption | extract_lets | with_reducible apply State.setCtx_keep | with_reducible apply Keep.ite | split)

theorem deliverFill_keep (st : Nat) (c : Bytes) {s : State} (hk : Keep anc s)
    (hm : [.coaches, .fabric, .flash, .sessions] ⊆ anc.touched := by exact List.Subset.trans (by decide) hm) : Keep anc (deliverFill st c s) := by
  unfold deliverFill
  repeat' (first
      | with_reducible assumption | with_reducible exact List.Subset.trans (by decide) hm | extract_lets | with_reducible apply emptySeat_keep
      | with_reducible apply State.setLapse_keep | with_reducible apply Keep.ite
      | (fail_if_no_progress (with_reducible refine Keep.upd ?_ ?_ ?_ ?_ ?_ ?_ ?_ ?_ ?_ ?_) <;> try with_reducible first | rfl | exact fun h => h)
      | split)

theorem refill_keep (coach : Nat) (c : Bytes) {s : State} (hk : Keep anc s)
    (hm : [.coaches, .fabric, .sessions] ⊆ anc.touched := by exact List.Subset.trans (by decide) hm) : KeepOpt anc (refill coach c s) := by
  unfold refill
  repeat' (first
      | with_reducible assumption | extract_lets | with_reducible apply State.sendOr_keep
      | (fail_if_no_progress (with_reducible refine Keep.upd ?_ ?_ ?_ ?_ ?_ ?_ ?_ ?_ ?_ ?_) <;> try with_reducible first | rfl | exact fun h => h)
      | with_reducible apply KeepOpt.none | with_reducible apply KeepOpt.some | split)

theorem State.noteEmpty_keep {s : State} (coach : Nat) (ctx : Nat) (hk : Keep anc s)
    (hm : [.sessions] ⊆ anc.touched := by exact List.Subset.trans (by decide) hm) : Keep anc (State.noteEmpty s coach ctx) := by
  unfold State.noteEmpty
  repeat' (first
      | with_reducible assumption | with_reducible apply State.updSess_keep | split)

theorem deliverSeat_keep (st : Nat) (c : Bytes) {s : State} (hk : Keep anc s)
    (hm : [.coaches, .fabric, .dram, .sessions, .log] ⊆ anc.touched := by exact List.Subset.trans (by decide) hm) : Keep anc (deliverSeat st c s) := by
  unfold deliverSeat
  repeat' (first
      | with_reducible assumption | with_reducible exact List.Subset.trans (by decide) hm | extract_lets | with_reducible apply refill_keep
      | with_reducible apply State.sramWrite_keep | with_reducible apply State.noteEmpty_keep | with_reducible apply wakeReply_keep
      | with_reducible apply wakeSeat_keep | with_reducible apply answerError_keep | with_reducible apply dramWrite_keep
      | with_reducible apply Keep.ite
      | (fail_if_no_progress (with_reducible refine Keep.upd ?_ ?_ ?_ ?_ ?_ ?_ ?_ ?_ ?_ ?_) <;> try with_reducible first | rfl | exact fun h => h)
      | with_reducible refine Keep.opt (by assumption) ?_ | with_reducible apply KeepOpt.none | split)

theorem deliverAnswer_keep (c : Bytes) {s : State} (hk : Keep anc s) (hm : [.answers] ⊆ anc.touched := by exact List.Subset.trans (by decide) hm) :
    Keep anc (deliverAnswer c s) := by
  unfold deliverAnswer
  repeat' (first
      | with_reducible assumption | extract_lets
      | (fail_if_no_progress (with_reducible refine Keep.upd ?_ ?_ ?_ ?_ ?_ ?_ ?_ ?_ ?_ ?_) <;> try with_reducible first | rfl | exact fun h => h))

theorem Coa.putRecord_wf {c : Coa} (k : Nat) (r : Table Byte) (h : Tab.wf 0 c.sram = true) : Tab.wf 0 (c.putRecord k r).sram = true :=
  List.foldlRecOn (motive := fun t => Tab.wf 0 t = true) _ _ (Tab.wf_clear _ _ _ _ h) fun _ h _ _ => Tab.wf_set _ _ _ _ h

/-- A coach that takes its record keeps what counts. -/
theorem Coa.putRecord_keep {s : State} (k : Nat) (r : Table Byte) (hk : Keep anc s) (hm : [.coaches] ⊆ anc.touched := by exact List.Subset.trans (by decide) hm) : Keep anc { s with coa := s.coa.putRecord k r } :=
  hk.mem rfl rfl rfl fun h => ⟨Coa.putRecord_wf k r h.1, h.2⟩

theorem deliverSave_keep (st : Nat) (c : Bytes) {s : State} (hk : Keep anc s) (hm : [.coaches, .fabric, .dram, .sessions, .log] ⊆ anc.touched := by exact List.Subset.trans (by decide) hm) : Keep anc (deliverSave st c s) := by
  unfold deliverSave
  split
  · exact hk.mem rfl rfl rfl fun h => ⟨Coa.putRecord_wf (c := s.coa) st _ h.1, h.2⟩
  · split
    · split
      · exact answerError_keep _ _ _ hk
      · exact dramWrite_keep _ _ _ hk
    · exact hk

theorem deliverError_keep (st : Nat) (c : Bytes) {s : State} (hk : Keep anc s)
    (hm : [.coaches, .sessions] ⊆ anc.touched := by exact List.Subset.trans (by decide) hm) : Keep anc (deliverError st c s) := by
  unfold deliverError
  repeat' (first
      | with_reducible assumption | with_reducible exact List.Subset.trans (by decide) hm | extract_lets | with_reducible apply haltContext_keep
      | with_reducible apply State.readDone_keep | with_reducible apply Keep.ite)

theorem carriageWrite_keep (st : Nat) (c : Bytes) {s : State} (hk : Keep anc s)
    (hm : [.coaches, .fabric, .dram, .sessions, .log] ⊆ anc.touched := by exact List.Subset.trans (by decide) hm) : Keep anc (carriageWrite st c s) := by
  unfold carriageWrite
  repeat' (first
      | with_reducible assumption | with_reducible exact List.Subset.trans (by decide) hm | with_reducible intro _ | extract_lets
      | with_reducible apply arrive_keep | with_reducible apply deliverWrite_keep)

theorem carriageRead_keep (st : Nat) (c : Bytes) {s : State} (hk : Keep anc s)
    (hm : [.coaches, .fabric, .dram, .sessions, .log] ⊆ anc.touched := by exact List.Subset.trans (by decide) hm) : Keep anc (carriageRead st c s) := by
  unfold carriageRead
  repeat' (first
      | with_reducible assumption | with_reducible exact List.Subset.trans (by decide) hm | with_reducible intro _ | extract_lets
      | with_reducible apply arrive_keep | with_reducible apply deliverRead_keep)

theorem carriageReply_keep (st : Nat) (c : Bytes) {s : State} (hk : Keep anc s)
    (hm : [.coaches, .fabric, .sessions, .log] ⊆ anc.touched := by exact List.Subset.trans (by decide) hm) : Keep anc (carriageReply st c s) := by
  unfold carriageReply
  repeat' (first
      | with_reducible assumption | with_reducible exact List.Subset.trans (by decide) hm | with_reducible intro _ | extract_lets
      | with_reducible apply arrive_keep | with_reducible apply deliverReply_keep)

theorem carriageWriteAck_keep (st : Nat) (c : Bytes) {s : State} (hk : Keep anc s)
    (hm : [.coaches, .fabric, .sessions, .log] ⊆ anc.touched := by exact List.Subset.trans (by decide) hm) : Keep anc (carriageWriteAck st c s) := by
  unfold carriageWriteAck
  repeat' (first
      | with_reducible assumption | with_reducible exact List.Subset.trans (by decide) hm | with_reducible intro _ | extract_lets
      | with_reducible apply arrive_keep | with_reducible apply deliverWriteAck_keep)

theorem carriageSeat_keep (st : Nat) (c : Bytes) {s : State} (hk : Keep anc s)
    (hm : [.coaches, .fabric, .dram, .sessions, .log] ⊆ anc.touched := by exact List.Subset.trans (by decide) hm) : Keep anc (carriageSeat st c s) := by
  unfold carriageSeat
  repeat' (first
      | with_reducible assumption | with_reducible exact List.Subset.trans (by decide) hm | with_reducible intro _ | extract_lets
      | with_reducible apply arrive_keep | with_reducible apply deliverSeat_keep)

theorem carriageFill_keep (st : Nat) (c : Bytes) {s : State} (hk : Keep anc s)
    (hm : [.coaches, .fabric, .flash, .sessions, .log] ⊆ anc.touched := by exact List.Subset.trans (by decide) hm) : Keep anc (carriageFill st c s) := by
  unfold carriageFill
  repeat' (first
      | with_reducible assumption | with_reducible exact List.Subset.trans (by decide) hm | with_reducible intro _ | extract_lets
      | with_reducible apply arrive_keep | with_reducible apply deliverFill_keep)

theorem carriageAnswer_keep (st : Nat) (c : Bytes) {s : State} (hk : Keep anc s)
    (hm : [.coaches, .fabric, .sessions, .answers, .log] ⊆ anc.touched := by exact List.Subset.trans (by decide) hm) : Keep anc (carriageAnswer st c
    s) := by
  unfold carriageAnswer
  repeat' (first
      | with_reducible assumption | with_reducible exact List.Subset.trans (by decide) hm | with_reducible intro _ | extract_lets
      | with_reducible apply arrive_keep | with_reducible apply deliverAnswer_keep)

theorem carriageControl_keep (st : Nat) (c : Bytes) {s : State} (hk : Keep anc s)
    (hm : [.coaches, .fabric, .sessions, .log] ⊆ anc.touched := by exact List.Subset.trans (by decide) hm) : Keep anc (carriageControl st c s) := by
  unfold carriageControl
  repeat' (first
      | with_reducible assumption | with_reducible intro _ | extract_lets | with_reducible apply arrive_keep | with_reducible apply Keep.id)

theorem carriageSave_keep (st : Nat) (c : Bytes) {s : State} (hk : Keep anc s)
    (hm : [.coaches, .fabric, .dram, .sessions, .log] ⊆ anc.touched := by exact List.Subset.trans (by decide) hm) : Keep anc (carriageSave st c s) := by
  unfold carriageSave
  repeat' (first
      | with_reducible assumption | with_reducible exact List.Subset.trans (by decide) hm | with_reducible intro _ | extract_lets
      | with_reducible apply arrive_keep | with_reducible apply deliverSave_keep)

theorem carriageError_keep (st : Nat) (c : Bytes) {s : State} (hk : Keep anc s)
    (hm : [.coaches, .fabric, .sessions, .log] ⊆ anc.touched := by exact List.Subset.trans (by decide) hm) : Keep anc (carriageError st c s) := by
  unfold carriageError
  repeat' (first
      | with_reducible assumption | with_reducible exact List.Subset.trans (by decide) hm | with_reducible intro _ | extract_lets
      | with_reducible apply arrive_keep | with_reducible apply deliverError_keep)

theorem fabDropFold_keep (st : Nat) {s : State} (hk : Keep anc s) (hm : [.fabric, .faults] ⊆ anc.touched := by exact List.Subset.trans (by decide) hm)
    : Keep anc (fabDropFold st s) := by
  unfold fabDropFold
  repeat' (first
      | with_reducible assumption | with_reducible exact List.Subset.trans (by decide) hm | extract_lets | with_reducible apply State.health_keep
      | with_reducible apply Keep.ite
      | (fail_if_no_progress (with_reducible refine Keep.upd ?_ ?_ ?_ ?_ ?_ ?_ ?_ ?_ ?_ ?_) <;> try with_reducible first | rfl | exact fun h => h))

theorem roleWrite_keep (team : Nat) (assigned : Bool) (part : Nat) {s : State} (hk : Keep anc s)
    (hm : [.coaches] ⊆ anc.touched := by exact List.Subset.trans (by decide) hm) : Keep anc (roleWrite team assigned part s) := by
  unfold roleWrite
  repeat' (first
      | with_reducible assumption | extract_lets | with_reducible apply State.writeRole_keep | with_reducible apply Keep.ite)

end Sys2Proof.Machine
end

