-- ==== Sys2Proof/Laws/KeepMedia.lean ====
section
/-! SUPPORT. What the operations of Machine/Media.lean keep (Laws/Keep.lean). -/

namespace Sys2Proof.Machine

set_option Elab.async false

open Sys2Proof.Safety

set_option linter.unusedTactic false
set_option linter.unreachableTactic false

variable {anc : KeepCtx}

theorem State.setSb_keep {s : State} (i : Nat) (x : Sb) (hk : Keep anc s) (hm : [.media] ⊆ anc.touched := by exact List.Subset.trans (by decide) hm) :
    Keep anc (State.setSb s i x) := by
  unfold State.setSb
  repeat' (first
      | with_reducible assumption | extract_lets
      | (fail_if_no_progress (with_reducible refine Keep.upd ?_ ?_ ?_ ?_ ?_ ?_ ?_ ?_ ?_ ?_) <;> try with_reducible first | rfl | exact fun h => h))

theorem warnPosts_keep {s : State} (w : Nat) (hk : Keep anc s) (hm : [.queues, .completions] ⊆ anc.touched := by exact List.Subset.trans (by decide) hm) :
    Keep anc ((List.range 5).foldl (fun s i => if bit w i && !bit s.que.warned i then s.asyncEvent 1 i 2 else s) s) :=
  hk.foldl fun s i h => by
    split
    · exact State.asyncEvent_keep _ _ _ h
    · exact h

theorem setWarned_keep {s : State} (w : Nat) (hk : Keep anc s) (hm : [.queues] ⊆ anc.touched := by exact List.Subset.trans (by decide) hm) : Keep anc { s with que := { s.que with warned := w } } :=
  hk.upd rfl rfl rfl rfl rfl id rfl rfl rfl

theorem State.warn_keep {s : State} (hk : Keep anc s) (hm : [.queues, .completions] ⊆ anc.touched := by exact List.Subset.trans (by decide) hm) : Keep anc (State.warn s) := setWarned_keep _ (warnPosts_keep _ hk)

theorem State.retire_keep {s : State} (pb : Nat) (cause : Nat) (hk : Keep anc s)
    (hm : [.flash, .log] ⊆ anc.touched := by exact List.Subset.trans (by decide) hm) : Keep anc (State.retire s pb cause) := by
  unfold State.retire
  repeat' (first
      | with_reducible assumption | with_reducible exact List.Subset.trans (by decide) hm | extract_lets | with_reducible apply State.event_keep
      | with_reducible apply Keep.ite
      | (fail_if_no_progress (with_reducible refine Keep.upd ?_ ?_ ?_ ?_ ?_ ?_ ?_ ?_ ?_ ?_) <;> try with_reducible first | rfl | exact fun h => h))

theorem State.beginOp_keep {s : State} (die : Nat) (w : DieWork) (n : Nat) (hk : Keep anc s)
    (hm : [.flash] ⊆ anc.touched := by exact List.Subset.trans (by decide) hm) : Keep anc (State.beginOp s die w n) := by
  unfold State.beginOp
  repeat' (first
      | with_reducible assumption | extract_lets
      | (fail_if_no_progress (with_reducible refine Keep.upd ?_ ?_ ?_ ?_ ?_ ?_ ?_ ?_ ?_ ?_) <;> try with_reducible first | rfl | exact fun h => h))

theorem State.endOp_keep {s : State} (o : DieOp) (hk : Keep anc s) (hm : [.flash] ⊆ anc.touched := by exact List.Subset.trans (by decide) hm) : Keep
    anc (State.endOp s o) := by
  unfold State.endOp
  repeat' (first
      | with_reducible assumption | extract_lets
      | (fail_if_no_progress (with_reducible refine Keep.upd ?_ ?_ ?_ ?_ ?_ ?_ ?_ ?_ ?_ ?_) <;> try with_reducible first | rfl | exact fun h => h))

theorem State.raiseGens_keep {s : State} (die : Nat) (block : Nat) (ps : List Nat) (hk : Keep anc s)
    (hm : [.flash, .log] ⊆ anc.touched := by exact List.Subset.trans (by decide) hm) : Keep anc (State.raiseGens s die block ps) := by
  unfold State.raiseGens
  repeat' (first
      | with_reducible assumption | with_reducible intro _ | extract_lets | with_reducible apply State.retire_keep | with_reducible apply Keep.ite
      | (fail_if_no_progress (with_reducible refine Keep.upd ?_ ?_ ?_ ?_ ?_ ?_ ?_ ?_ ?_ ?_) <;> try with_reducible first | rfl | exact fun h => h)
      | with_reducible apply Keep.foldl)

theorem State.freeDies_keep {s : State} (hk : Keep anc s) (hm : [.flash, .log] ⊆ anc.touched := by exact List.Subset.trans (by decide) hm) : Keep anc
    (State.freeDies s) := by
  unfold State.freeDies
  repeat' (first
      | with_reducible assumption | with_reducible intro _ | extract_lets | with_reducible apply State.raiseGens_keep
      | (fail_if_no_progress (with_reducible refine Keep.upd ?_ ?_ ?_ ?_ ?_ ?_ ?_ ?_ ?_ ?_) <;> try with_reducible first | rfl | exact fun h => h)
      | with_reducible apply Keep.foldl | split)

theorem State.queueOp_keep {s : State} (die : Nat) (w : DieWork) (n : Nat) (hk : Keep anc s)
    (hm : [.flash] ⊆ anc.touched := by exact List.Subset.trans (by decide) hm) : Keep anc (State.queueOp s die w n) := by
  unfold State.queueOp
  repeat' (first
      | with_reducible assumption | extract_lets
      | (fail_if_no_progress (with_reducible refine Keep.upd ?_ ?_ ?_ ?_ ?_ ?_ ?_ ?_ ?_ ?_) <;> try with_reducible first | rfl | exact fun h => h))

theorem State.allocSb_keep {s : State} (stream : Nat) (hk : Keep anc s) (hm : [.media] ⊆ anc.touched := by exact List.Subset.trans (by decide) hm) :
    KeepOpt anc ((State.allocSb s stream).map Prod.snd) := by
  unfold State.allocSb
  repeat' (first
      | with_reducible assumption | extract_lets | with_reducible apply State.setSb_keep
      | (fail_if_no_progress (with_reducible refine Keep.upd ?_ ?_ ?_ ?_ ?_ ?_ ?_ ?_ ?_ ?_) <;> try with_reducible first | rfl | exact fun h => h)
      | with_reducible apply KeepOpt.mapNone | with_reducible apply KeepOpt.mapSome | split)

theorem State.closeSb_keep {s : State} (i : Nat) (hk : Keep anc s) (hm : [.media] ⊆ anc.touched := by exact List.Subset.trans (by decide) hm) : Keep
    anc (State.closeSb s i) := by
  unfold State.closeSb
  repeat' (first
      | with_reducible assumption | extract_lets | with_reducible apply State.setSb_keep
      | (fail_if_no_progress (with_reducible refine Keep.upd ?_ ?_ ?_ ?_ ?_ ?_ ?_ ?_ ?_ ?_) <;> try with_reducible first | rfl | exact fun h => h))

theorem State.dropAcc_keep {s : State} (i : Nat) (hk : Keep anc s) (hm : [.media] ⊆ anc.touched := by exact List.Subset.trans (by decide) hm) : Keep
    anc (State.dropAcc s i) := by
  unfold State.dropAcc
  repeat' (first
      | with_reducible assumption | extract_lets
      | (fail_if_no_progress (with_reducible refine Keep.upd ?_ ?_ ?_ ?_ ?_ ?_ ?_ ?_ ?_ ?_) <;> try with_reducible first | rfl | exact fun h => h))

theorem State.secondProgram_keep {s : State} (die : Nat) (block : Nat) (page : Nat) (hk : Keep anc s)
    (hm : [.faults, .log] ⊆ anc.touched := by exact List.Subset.trans (by decide) hm) : Keep anc (State.secondProgram s die block page) := by
  unfold State.secondProgram
  repeat' (first
      | with_reducible assumption | with_reducible exact List.Subset.trans (by decide) hm | extract_lets | with_reducible apply State.health_keep
      | with_reducible apply State.event_keep)

theorem State.putPages_keep {s : State} (die block page : Nat) (pages : List PlaneWords) (stamp stream : Nat) (pending : Bool) (hk : Keep anc s) (hm : [.flash, .media] ⊆ anc.touched := by exact List.Subset.trans (by decide) hm) :
    Keep anc (State.putPages s die block page pages stamp stream pending) := by
  unfold State.putPages
  refine hk.foldl fun s p h => ?_
  extract_lets pb t
  have ht : Keep anc t := h.foldl fun s w h =>
    h.mem rfl rfl rfl fun hm => ⟨hm.1, hm.2.1, hm.2.2.1, hm.2.2.2.1, KeysUp_put _ _ _ hm.2.2.2.2⟩
  clear_value t
  exact ht.upd rfl rfl rfl rfl rfl id rfl rfl rfl

theorem State.freeSeats_keep {s : State} (chan : Nat) (n : Nat) (hk : Keep anc s)
    (hm : [.flash, .faults] ⊆ anc.touched := by exact List.Subset.trans (by decide) hm) : Keep anc (State.freeSeats s chan n) := by
  unfold State.freeSeats
  repeat' (first
      | with_reducible assumption | with_reducible exact List.Subset.trans (by decide) hm | extract_lets | with_reducible apply State.tt_keep
      | (fail_if_no_progress (with_reducible refine Keep.upd ?_ ?_ ?_ ?_ ?_ ?_ ?_ ?_ ?_ ?_) <;> try with_reducible first | rfl | exact fun h => h))

theorem State.patrolFirst_keep {s : State} (pb : Nat) (hk : Keep anc s) (hm : [.media] ⊆ anc.touched := by exact List.Subset.trans (by decide) hm) :
    Keep anc (State.patrolFirst s pb) := by
  unfold State.patrolFirst
  repeat' (first
      | with_reducible assumption | extract_lets
      | (fail_if_no_progress (with_reducible refine Keep.upd ?_ ?_ ?_ ?_ ?_ ?_ ?_ ?_ ?_ ?_) <;> try with_reducible first | rfl | exact fun h => h))

theorem State.countSenses_keep {s : State} (pb : Nat) (n : Nat) (hk : Keep anc s)
    (hm : [.flash, .media] ⊆ anc.touched := by exact List.Subset.trans (by decide) hm) : Keep anc (State.countSenses s pb n) := by
  unfold State.countSenses
  repeat' (first
      | with_reducible assumption | with_reducible exact List.Subset.trans (by decide) hm | extract_lets | with_reducible apply State.patrolFirst_keep
      | with_reducible apply Keep.ite
      | (fail_if_no_progress (with_reducible refine Keep.upd ?_ ?_ ?_ ?_ ?_ ?_ ?_ ?_ ?_ ?_) <;> try with_reducible first | rfl | exact fun h => h))

theorem State.queueSense_keep {s : State} (die : Nat) (block : Nat) (page : Nat) (planes : List Nat) (hk : Keep anc s)
    (hm : [.flash, .media] ⊆ anc.touched := by exact List.Subset.trans (by decide) hm) : Keep anc (State.queueSense s die block page planes) := by
  unfold State.queueSense
  repeat' (first
      | with_reducible assumption | with_reducible exact List.Subset.trans (by decide) hm | with_reducible intro _ | extract_lets
      | with_reducible apply State.countSenses_keep | with_reducible apply State.queueOp_keep | with_reducible apply Keep.foldl)

theorem State.plainSense_keep {s : State} (a : CwAddr) (n : Nat) (hk : Keep anc s)
    (hm : [.flash, .media, .faults] ⊆ anc.touched := by exact List.Subset.trans (by decide) hm) : Keep anc (State.plainSense s a n) := by
  unfold State.plainSense
  repeat' (first
      | with_reducible assumption | with_reducible exact List.Subset.trans (by decide) hm | extract_lets | with_reducible apply State.queueSense_keep
      | with_reducible apply State.freeSeats_keep)

theorem State.drainSeats_keep {s : State} (hk : Keep anc s) (hm : [.flash, .media] ⊆ anc.touched := by exact List.Subset.trans (by decide) hm) : Keep
    anc (State.drainSeats s) := by
  unfold State.drainSeats
  repeat' (first
      | with_reducible assumption | extract_lets
      | (fail_if_no_progress (with_reducible refine Keep.upd ?_ ?_ ?_ ?_ ?_ ?_ ?_ ?_ ?_ ?_) <;> try with_reducible first | rfl | exact fun h => h))

theorem State.queueSet_keep {s : State} (sb : Nat) (row : Nat) (chan : Nat) (stream : Nat) (pages : List PlaneWords) (hk : Keep anc s)
    (hm : [.flash, .media, .faults] ⊆ anc.touched := by exact List.Subset.trans (by decide) hm) : Keep anc (State.queueSet s sb row chan stream pages) := by
  unfold State.queueSet
  repeat' (first
      | with_reducible assumption | with_reducible exact List.Subset.trans (by decide) hm | extract_lets | with_reducible apply State.freeSeats_keep
      | with_reducible apply State.putPages_keep | with_reducible apply State.queueOp_keep
      | (fail_if_no_progress (with_reducible refine Keep.upd ?_ ?_ ?_ ?_ ?_ ?_ ?_ ?_ ?_ ?_) <;> try with_reducible first | rfl | exact fun h => h))

theorem State.putParityOn_keep {s : State} (sb : Nat) (row : Nat) (stream : Nat) (chan : Nat) (pages : List PlaneWords) (hk : Keep anc s)
    (hm : [.flash, .media, .faults, .log] ⊆ anc.touched := by exact List.Subset.trans (by decide) hm) : Keep anc (State.putParityOn s sb row stream
    chan pages) := by
  unfold State.putParityOn
  repeat' (first
      | with_reducible assumption | with_reducible exact List.Subset.trans (by decide) hm | extract_lets
      | with_reducible apply State.secondProgram_keep | with_reducible apply State.queueSet_keep | with_reducible apply Keep.ite
      | (fail_if_no_progress (with_reducible refine Keep.upd ?_ ?_ ?_ ?_ ?_ ?_ ?_ ?_ ?_ ?_) <;> try with_reducible first | rfl | exact fun h => h))

theorem State.putParity_keep {s : State} (sb : Nat) (row : Nat) (stream : Nat) (hk : Keep anc s)
    (hm : [.flash, .media, .faults, .log] ⊆ anc.touched := by exact List.Subset.trans (by decide) hm) : Keep anc (State.putParity s sb row stream) := by
  unfold State.putParity
  repeat' (first
      | with_reducible assumption | with_reducible intro _ | extract_lets | with_reducible apply State.putParityOn_keep
      | (fail_if_no_progress (with_reducible refine Keep.upd ?_ ?_ ?_ ?_ ?_ ?_ ?_ ?_ ?_ ?_) <;> try with_reducible first | rfl | exact fun h => h)
      | with_reducible apply Keep.foldl)

theorem State.nextPlace_keep (stream : Nat) (queued : Bool) (mayAlloc : State → Bool) (ok : Nat → Bool) (n : Nat) {s : State} (hk : Keep anc s) (hm : [.flash, .media, .faults, .log] ⊆ anc.touched := by exact List.Subset.trans (by decide) hm) :
    Keep anc (State.nextPlace stream queued mayAlloc ok n s).2 := by
  induction n generalizing s with
  | zero => exact hk
  | succ n ih =>
    unfold State.nextPlace
    split
    · split
      · exact hk
      · split
        · exact hk
        · next e => exact ih (Keep.optPair e (State.allocSb_keep _ hk))
    · extract_lets x st
      have hp : ∀ (c : Bool) (u v : State), Keep anc u → Keep anc v → Keep anc (if c then u else v) := fun c u v hu hv => by cases c <;> assumption
      split
      · exact ih (State.closeSb_keep _ (hp _ _ _ (State.putParity_keep _ _ _ hk) hk))
      · next row _ =>
        extract_lets t sb u
        have ht : Keep anc t := hp _ _ _ (State.putParity_keep _ _ _ hk) hk
        have hu : Keep anc u := State.setSb_keep _ _ ht
        split
        · exact hu
        · exact hu

theorem State.firmwareSet_keep {s : State} (stream : Nat) (may : State → Bool) (ok : Nat → Bool) (words : List CWord) (hk : Keep anc s)
    (hm : [.flash, .media, .faults, .log] ⊆ anc.touched := by exact List.Subset.trans (by decide) hm) : Keep anc (State.firmwareSet s stream may ok
    words).2 := by
  unfold State.firmwareSet
  repeat' (first
      | with_reducible assumption | with_reducible exact List.Subset.trans (by decide) hm | extract_lets | with_reducible apply State.nextPlace_keep
      | with_reducible apply State.queueSet_keep | with_reducible refine Keep.pair (by assumption) ?_ | split)

theorem State.firmwareWrite_keep (stream : Nat) (may : State → Bool) (n : Nat) (words : List CWord) {s : State} (hk : Keep anc s) (hm : [.flash, .media, .faults, .log] ⊆ anc.touched := by exact List.Subset.trans (by decide) hm) :
    Keep anc (State.firmwareWrite stream may n words s).2 := by
  induction n generalizing words s with
  | zero => exact hk
  | succ n ih =>
    unfold State.firmwareWrite
    split
    · exact hk
    · split
      next e =>
      have h := Keep.pair e (State.firmwareSet_keep _ _ _ _ hk)
      split
      · exact h
      · split
        next e => exact Keep.pair e (ih _ h)

theorem State.writeTwice_keep {s : State} (stream : Nat) (words : List CWord) (hk : Keep anc s)
    (hm : [.flash, .media, .faults, .log] ⊆ anc.touched := by exact List.Subset.trans (by decide) hm) : Keep anc (State.writeTwice s stream words).2 := by
  unfold State.writeTwice
  repeat' (first
      | with_reducible assumption | extract_lets | with_reducible apply State.firmwareSet_keep)

theorem State.putMark_keep {s : State} (m : Mark) (hk : Keep anc s)
    (hm : [.flash, .media, .faults, .completions, .log] ⊆ anc.touched := by exact List.Subset.trans (by decide) hm) : Keep anc (State.putMark s m) := by
  unfold State.putMark
  repeat' (first
      | with_reducible assumption | with_reducible exact List.Subset.trans (by decide) hm | with_reducible intro _ | extract_lets
      | with_reducible apply State.writeTwice_keep | with_reducible apply State.firmwareSet_keep | with_reducible apply State.succeed_keep
      | (fail_if_no_progress (with_reducible refine Keep.upd ?_ ?_ ?_ ?_ ?_ ?_ ?_ ?_ ?_ ?_) <;> try with_reducible first | rfl | exact fun h => h)
      | with_reducible apply Keep.foldl)

theorem State.pushMark_keep {s : State} (clean : Bool) (hk : Keep anc s)
    (hm : [.flash, .media, .faults, .completions, .log] ⊆ anc.touched := by exact List.Subset.trans (by decide) hm) : Keep anc (State.pushMark s
    clean) := by
  unfold State.pushMark
  repeat' (first
      | with_reducible assumption | with_reducible apply State.putMark_keep)

theorem State.issueSet_keep {s : State} (sb : Nat) (row : Nat) (chan : Nat) (stream : Nat) (pages : List PlaneWords) (units : List (Nat × Nat × Nat))
    (sess : Option Nat) (hk : Keep anc s)
    (hm : [.flash, .media, .faults, .completions, .log] ⊆ anc.touched := by exact List.Subset.trans (by decide) hm) : Keep anc (State.issueSet s sb
    row chan stream pages units sess).2 := by
  unfold State.issueSet
  repeat' (first
      | with_reducible assumption | with_reducible exact List.Subset.trans (by decide) hm | extract_lets | with_reducible apply State.pushMark_keep
      | with_reducible apply State.secondProgram_keep | with_reducible apply State.freeSeats_keep | with_reducible apply State.putPages_keep
      | with_reducible apply State.stampTo_keep | with_reducible apply State.beginOp_keep | with_reducible apply Keep.ite
      | (fail_if_no_progress (with_reducible refine Keep.upd ?_ ?_ ?_ ?_ ?_ ?_ ?_ ?_ ?_ ?_) <;> try with_reducible first | rfl | exact fun h => h)
      | split)

theorem State.writeLeafList_keep {s : State} (ks : List Nat) (hk : Keep anc s)
    (hm : [.flash, .media, .faults, .log] ⊆ anc.touched := by exact List.Subset.trans (by decide) hm) : Keep anc (State.writeLeafList s ks) := by
  unfold State.writeLeafList
  repeat' (first
      | with_reducible assumption | extract_lets | with_reducible apply State.firmwareWrite_keep
      | (fail_if_no_progress (with_reducible refine Keep.upd ?_ ?_ ?_ ?_ ?_ ?_ ?_ ?_ ?_ ?_) <;> try with_reducible first | rfl | exact fun h => h))

theorem State.touchLeaf_keep {s : State} (k : Nat) (changed : Bool) (hk : Keep anc s)
    (hm : [.flash, .media, .faults, .log] ⊆ anc.touched := by exact List.Subset.trans (by decide) hm) : Keep anc (State.touchLeaf s k changed) := by
  unfold State.touchLeaf
  repeat' (first
      | with_reducible assumption | extract_lets | with_reducible apply State.writeLeafList_keep | with_reducible apply Keep.ite
      | (fail_if_no_progress (with_reducible refine Keep.upd ?_ ?_ ?_ ?_ ?_ ?_ ?_ ?_ ?_ ?_) <;> try with_reducible first | rfl | exact fun h => h)
      | split)

theorem State.setEntry_keep {s : State} (ns : Nat) (unit : Nat) (e : BitVec 64) (hk : Keep anc s)
    (hm : [.flash, .media, .faults, .log] ⊆ anc.touched := by exact List.Subset.trans (by decide) hm) : Keep anc (State.setEntry s ns unit e) := by
  unfold State.setEntry
  repeat' (first
      | with_reducible assumption | with_reducible exact List.Subset.trans (by decide) hm | extract_lets | with_reducible apply State.plainSense_keep
      | with_reducible apply State.touchLeaf_keep | with_reducible apply Keep.ite
      | (fail_if_no_progress (with_reducible refine Keep.upd ?_ ?_ ?_ ?_ ?_ ?_ ?_ ?_ ?_ ?_) <;> try with_reducible first | rfl | exact fun h => h))

theorem State.loseUnit_keep {s : State} (ns : Nat) (unit : Nat) (cause : Nat) (hk : Keep anc s)
    (hm : [.flash, .media, .faults, .log] ⊆ anc.touched := by exact List.Subset.trans (by decide) hm) : Keep anc (State.loseUnit s ns unit cause) := by
  unfold State.loseUnit
  repeat' (first
      | with_reducible assumption | with_reducible exact List.Subset.trans (by decide) hm | extract_lets | with_reducible apply State.setEntry_keep
      | with_reducible apply State.health_keep | with_reducible apply State.event_keep)

theorem State.mapFault_keep {s : State} (ns : Nat) (unit : Nat) (hk : Keep anc s)
    (hm : [.flash, .media, .faults, .log] ⊆ anc.touched := by exact List.Subset.trans (by decide) hm) : Keep anc (State.mapFault s ns unit) := by
  unfold State.mapFault
  repeat' (first
      | with_reducible assumption | with_reducible exact List.Subset.trans (by decide) hm | extract_lets | with_reducible apply State.setEntry_keep
      | with_reducible apply State.health_keep | with_reducible apply State.event_keep)

theorem State.mendLeaf_keep {s : State} (ns : Nat) (leaf : Nat) (hk : Keep anc s)
    (hm : [.media] ⊆ anc.touched := by exact List.Subset.trans (by decide) hm) : Keep anc (State.mendLeaf s ns leaf) := by
  unfold State.mendLeaf
  repeat' (first
      | with_reducible assumption | with_reducible intro _ | extract_lets | with_reducible apply Keep.ite
      | (fail_if_no_progress (with_reducible refine Keep.upd ?_ ?_ ?_ ?_ ?_ ?_ ?_ ?_ ?_ ?_) <;> try with_reducible first | rfl | exact fun h => h)
      | with_reducible apply Keep.foldl)

theorem State.mended_keep {s : State} (ns : Nat) (unit : Nat) (hk : Keep anc s)
    (hm : [.flash, .media, .faults, .log] ⊆ anc.touched := by exact List.Subset.trans (by decide) hm) : Keep anc (State.mended s ns unit) := by
  unfold State.mended
  repeat' (first
      | with_reducible assumption | with_reducible exact List.Subset.trans (by decide) hm | extract_lets | with_reducible apply State.plainSense_keep
      | with_reducible apply State.mendLeaf_keep | with_reducible apply State.touchLeaf_keep | with_reducible apply Keep.ite)

theorem slotThen_keep (ns i : Nat) {rest : State → Option Bytes × State} {s : State} (hk : Keep anc s) (hm : [.flash, .media, .faults, .log] ⊆ anc.touched := by exact List.Subset.trans (by decide) hm) (hr : ∀ t, Keep anc t → Keep anc (rest t).2) :
    Keep anc (slotThen ns i rest s).2 := by
  unfold slotThen
  split
  · exact hk
  · exact State.mapFault_keep _ _ hk
  · exact hr _ hk

theorem readSlots_keep (ns i n : Nat) {s : State} (hk : Keep anc s) (hm : [.flash, .media, .faults, .log] ⊆ anc.touched := by exact List.Subset.trans (by decide) hm) : Keep anc (readSlots ns i n s).2 := by
  induction n generalizing i s with
  | zero => exact hk
  | succ n ih => exact slotThen_keep _ _ (State.mended_keep _ _ hk) (hr := fun _ h => ih _ h)

theorem readSpan_keep (ns : Nat) (off : Nat) (len : Nat) {s : State} (hk : Keep anc s)
    (hm : [.flash, .media, .faults, .log] ⊆ anc.touched := by exact List.Subset.trans (by decide) hm) : Keep anc (readSpan ns off len s).2 := by
  unfold readSpan
  repeat' (first
      | with_reducible assumption | extract_lets | with_reducible apply readSlots_keep | with_reducible refine Keep.pair (by assumption) ?_ | split)

theorem State.checkFull_keep {s : State} (hk : Keep anc s)
    (hm : [.media, .queues, .completions] ⊆ anc.touched := by exact List.Subset.trans (by decide) hm) : Keep anc (State.checkFull s) := by
  unfold State.checkFull
  repeat' (first
      | with_reducible assumption | with_reducible exact List.Subset.trans (by decide) hm | extract_lets | with_reducible apply State.warn_keep
      | with_reducible apply Keep.ite
      | (fail_if_no_progress (with_reducible refine Keep.upd ?_ ?_ ?_ ?_ ?_ ?_ ?_ ?_ ?_ ?_) <;> try with_reducible first | rfl | exact fun h => h))

theorem State.clearFull_keep {s : State} (hk : Keep anc s)
    (hm : [.media, .queues, .completions] ⊆ anc.touched := by exact List.Subset.trans (by decide) hm) : Keep anc (State.clearFull s) := by
  unfold State.clearFull
  repeat' (first
      | with_reducible assumption | with_reducible exact List.Subset.trans (by decide) hm | extract_lets | with_reducible apply State.warn_keep
      | with_reducible apply Keep.ite
      | (fail_if_no_progress (with_reducible refine Keep.upd ?_ ?_ ?_ ?_ ?_ ?_ ?_ ?_ ?_ ?_) <;> try with_reducible first | rfl | exact fun h => h))

theorem State.releaseFull_keep {s : State} (hk : Keep anc s)
    (hm : [.media, .queues, .completions] ⊆ anc.touched := by exact List.Subset.trans (by decide) hm) : Keep anc (State.releaseFull s) := by
  unfold State.releaseFull
  repeat' (first
      | with_reducible assumption | extract_lets | with_reducible apply State.checkFull_keep | with_reducible apply State.clearFull_keep
      | (fail_if_no_progress (with_reducible refine Keep.upd ?_ ?_ ?_ ?_ ?_ ?_ ?_ ?_ ?_ ?_) <;> try with_reducible first | rfl | exact fun h => h))

theorem State.issueErase_keep {s : State} (die : Nat) (block : Nat) (hk : Keep anc s)
    (hm : [.flash, .log] ⊆ anc.touched := by exact List.Subset.trans (by decide) hm) : Keep anc (State.issueErase s die block) := by
  unfold State.issueErase
  repeat' (first
      | with_reducible assumption | with_reducible exact List.Subset.trans (by decide) hm | extract_lets | with_reducible apply State.raiseGens_keep
      | with_reducible apply State.beginOp_keep)

theorem State.erasePlane_keep {s : State} (pb : Nat) (hk : Keep anc s) (hm : [.flash, .media] ⊆ anc.touched := by exact List.Subset.trans (by decide) hm) : Keep anc (State.erasePlane s pb) :=
  hk.mem rfl rfl rfl fun h => ⟨h.1, h.2.1, h.2.2.1, h.2.2.2.1, KeysUp_filter _ _ h.2.2.2.2⟩

theorem State.keepCorrected_keep {s : State} (a : CwAddr) (hk : Keep anc s) (hm : [.flash] ⊆ anc.touched := by exact List.Subset.trans (by decide) hm)
    : Keep anc (State.keepCorrected s a) := by
  unfold State.keepCorrected
  repeat' (first
      | with_reducible assumption | extract_lets
      | (fail_if_no_progress (with_reducible refine Keep.upd ?_ ?_ ?_ ?_ ?_ ?_ ?_ ?_ ?_ ?_) <;> try with_reducible first | rfl | exact fun h => h))

theorem State.recover_keep {s : State} (w : CwAddr) (hk : Keep anc s)
    (hm : [.flash, .faults] ⊆ anc.touched := by exact List.Subset.trans (by decide) hm) : Keep anc (State.recover s w) := by
  unfold State.recover
  repeat' (first
      | with_reducible assumption | extract_lets | with_reducible apply State.freeSeats_keep | with_reducible apply Keep.ite
      | (fail_if_no_progress (with_reducible refine Keep.upd ?_ ?_ ?_ ?_ ?_ ?_ ?_ ?_ ?_ ?_) <;> try with_reducible first | rfl | exact fun h => h))

theorem State.startPlain_keep {s : State} (what : PlainFor) (ws : List CwAddr) (readOut : Bool) (hk : Keep anc s)
    (hm : [.flash, .media] ⊆ anc.touched := by exact List.Subset.trans (by decide) hm) : Keep anc (State.startPlain s what ws readOut) := by
  unfold State.startPlain
  repeat' (first
      | with_reducible assumption | with_reducible intro _ | extract_lets | with_reducible apply State.queueSense_keep
      | (fail_if_no_progress (with_reducible refine Keep.upd ?_ ?_ ?_ ?_ ?_ ?_ ?_ ?_ ?_ ?_) <;> try with_reducible first | rfl | exact fun h => h)
      | with_reducible apply Keep.foldl)

end Sys2Proof.Machine
end

