-- ==== Sys2Proof/Laws/KeepUpkeep.lean ====
section
/-! SUPPORT. What the operations of Machine/Upkeep.lean keep (Laws/Keep.lean). -/

namespace Sys2Proof.Machine

set_option Elab.async false

open Sys2Proof.Safety

set_option linter.unusedTactic false
set_option linter.unreachableTactic false

variable {anc : KeepCtx}

theorem State.clearLost_keep {s : State} (ns : Nat) (unit : Nat) (slots : List Nat) (hk : Keep anc s)
    (hm : [.log] ⊆ anc.touched := by exact List.Subset.trans (by decide) hm) : Keep anc (State.clearLost s ns unit slots).1 := by
  unfold State.clearLost
  repeat' (first
      | with_reducible assumption | extract_lets | with_reducible apply State.event_keep | with_reducible apply Keep.ite | split)

theorem State.bufferPiece_keep (who : Option Nat) (ns : Nat) (seq : Nat) (slots : Nat → List Nat) {s : State} (p : Nat × Nat × Bytes) (hk : Keep anc
    s) (hm : [.media, .log] ⊆ anc.touched := by exact List.Subset.trans (by decide) hm) : Keep anc (State.bufferPiece who ns seq slots s p) := by
  unfold State.bufferPiece
  repeat' (first
      | with_reducible assumption | with_reducible exact List.Subset.trans (by decide) hm | extract_lets | with_reducible apply State.clearLost_keep
      | with_reducible apply Keep.ite
      | (fail_if_no_progress (with_reducible refine Keep.upd ?_ ?_ ?_ ?_ ?_ ?_ ?_ ?_ ?_ ?_) <;> try with_reducible first | rfl | exact fun h => h))

theorem State.noteWrite_keep {s : State} (ns : Nat) (slots : List Nat) (hk : Keep anc s)
    (hm : [.sessions] ⊆ anc.touched := by exact List.Subset.trans (by decide) hm) : Keep anc (State.noteWrite s ns slots) := by
  unfold State.noteWrite
  repeat' (first
      | with_reducible assumption | extract_lets
      | (fail_if_no_progress (with_reducible refine Keep.upd ?_ ?_ ?_ ?_ ?_ ?_ ?_ ?_ ?_ ?_) <;> try with_reducible first | rfl | exact fun h => h))

theorem State.bufferWrite_keep {s : State} (who : Option Nat) (ns : Nat) (pieces : List (Nat × Nat × Bytes)) (hk : Keep anc s)
    (hm : [.media, .sessions, .log] ⊆ anc.touched := by exact List.Subset.trans (by decide) hm) : Keep anc (State.bufferWrite s who ns pieces) := by
  unfold State.bufferWrite
  repeat' (first
      | with_reducible assumption | with_reducible exact List.Subset.trans (by decide) hm | with_reducible intro _ | extract_lets
      | with_reducible apply State.noteWrite_keep | with_reducible apply State.bufferPiece_keep
      | (fail_if_no_progress (with_reducible refine Keep.upd ?_ ?_ ?_ ?_ ?_ ?_ ?_ ?_ ?_ ?_) <;> try with_reducible first | rfl | exact fun h => h)
      | with_reducible apply Keep.foldl)

theorem State.landCheck_keep {s : State} (hk : Keep anc s) (hm : [.media, .completions] ⊆ anc.touched := by exact List.Subset.trans (by decide) hm) :
    Keep anc (State.landCheck s) := by
  unfold State.landCheck
  repeat' (first
      | with_reducible assumption | with_reducible exact List.Subset.trans (by decide) hm | with_reducible intro _ | extract_lets
      | with_reducible apply State.succeed_keep
      | (fail_if_no_progress (with_reducible refine Keep.upd ?_ ?_ ?_ ?_ ?_ ?_ ?_ ?_ ?_ ?_) <;> try with_reducible first | rfl | exact fun h => h)
      | with_reducible apply Keep.foldl)

theorem State.bufferDone_keep {s : State} (w : WaitWrite) (hk : Keep anc s)
    (hm : [.media, .completions] ⊆ anc.touched := by exact List.Subset.trans (by decide) hm) : Keep anc (State.bufferDone s w) := by
  unfold State.bufferDone
  repeat' (first
      | with_reducible assumption | with_reducible exact List.Subset.trans (by decide) hm | extract_lets | with_reducible apply State.landCheck_keep
      | with_reducible apply State.succeed_keep | with_reducible apply Keep.ite
      | (fail_if_no_progress (with_reducible refine Keep.upd ?_ ?_ ?_ ?_ ?_ ?_ ?_ ?_ ?_ ?_) <;> try with_reducible first | rfl | exact fun h => h))

theorem State.takeWrite_keep {s : State} (w : WaitWrite) (hk : Keep anc s)
    (hm : [.media, .sessions, .completions, .log] ⊆ anc.touched := by exact List.Subset.trans (by decide) hm) : Keep anc (State.takeWrite s w) := by
  unfold State.takeWrite
  repeat' (first
      | with_reducible assumption | with_reducible exact List.Subset.trans (by decide) hm | extract_lets | with_reducible apply State.bufferWrite_keep
      | with_reducible apply State.bufferDone_keep)

theorem State.openPieces_keep {s : State} (ns : Nat) (ps : List (Nat × Nat × Bytes)) (hk : Keep anc s)
    (hm : [.free, .media] ⊆ anc.touched := by exact List.Subset.trans (by decide) hm) : Keep anc (State.openPieces s ns ps).2 := by
  unfold State.openPieces
  repeat' (first
      | with_reducible assumption | with_reducible exact List.Subset.trans (by decide) hm | with_reducible intro _ | extract_lets
      | with_reducible apply State.drawBytes_keep
      | (fail_if_no_progress (with_reducible refine Keep.upd ?_ ?_ ?_ ?_ ?_ ?_ ?_ ?_ ?_ ?_) <;> try with_reducible first | rfl | exact fun h => h)
      | with_reducible apply Keep.foldl2 | split)

theorem State.offerWrite_keep {s : State} (w : WaitWrite) (hk : Keep anc s)
    (hm : [.free, .media, .sessions, .completions, .log] ⊆ anc.touched := by exact List.Subset.trans (by decide) hm) : Keep anc (State.offerWrite s w) := by
  unfold State.offerWrite
  repeat' (first
      | with_reducible assumption | with_reducible exact List.Subset.trans (by decide) hm | extract_lets | with_reducible apply State.openPieces_keep
      | with_reducible apply State.succeed_keep | with_reducible apply State.takeWrite_keep | with_reducible apply State.noteWrite_keep
      | with_reducible apply Keep.ite
      | (fail_if_no_progress (with_reducible refine Keep.upd ?_ ?_ ?_ ?_ ?_ ?_ ?_ ?_ ?_ ?_) <;> try with_reducible first | rfl | exact fun h => h))

theorem writeCapRelease_keep {s : State} (hk : Keep anc s)
    (hm : [.media, .sessions, .completions, .log] ⊆ anc.touched := by exact List.Subset.trans (by decide) hm) : Keep anc (writeCapRelease s) := by
  unfold writeCapRelease
  repeat' (first
      | with_reducible assumption | extract_lets | with_reducible apply State.takeWrite_keep | with_reducible apply Keep.ite
      | (fail_if_no_progress (with_reducible refine Keep.upd ?_ ?_ ?_ ?_ ?_ ?_ ?_ ?_ ?_ ?_) <;> try with_reducible first | rfl | exact fun h => h)
      | split)

theorem State.unmapUnits_keep {s : State} (ns : Nat) (units : List Nat) (hk : Keep anc s)
    (hm : [.flash, .media, .sessions, .faults, .completions, .log] ⊆ anc.touched := by exact List.Subset.trans (by decide) hm) : Keep anc
    (State.unmapUnits s ns units) := by
  unfold State.unmapUnits
  repeat' (first
      | with_reducible assumption | with_reducible exact List.Subset.trans (by decide) hm | with_reducible intro _ | extract_lets
      | with_reducible apply State.setEntry_keep | with_reducible apply State.noteWrite_keep | with_reducible apply State.landCheck_keep
      | (fail_if_no_progress (with_reducible refine Keep.upd ?_ ?_ ?_ ?_ ?_ ?_ ?_ ?_ ?_ ?_) <;> try with_reducible first | rfl | exact fun h => h)
      | with_reducible apply Keep.foldl)

theorem State.fillUnit_keep {s : State} (b : BufUnit) (hk : Keep anc s)
    (hm : [.flash, .media, .faults, .log] ⊆ anc.touched := by exact List.Subset.trans (by decide) hm) : Keep anc (State.fillUnit s b) := by
  unfold State.fillUnit
  repeat' (first
      | with_reducible assumption | with_reducible exact List.Subset.trans (by decide) hm | extract_lets | with_reducible apply State.mapFault_keep
      | with_reducible apply State.event_keep | with_reducible apply Keep.ite)

theorem State.startFills_keep {s : State} (hk : Keep anc s)
    (hm : [.flash, .media, .faults, .log] ⊆ anc.touched := by exact List.Subset.trans (by decide) hm) : Keep anc (State.startFills s) := by
  unfold State.startFills
  repeat' (first
      | with_reducible assumption | with_reducible exact List.Subset.trans (by decide) hm | with_reducible intro _ | extract_lets
      | with_reducible apply State.mended_keep | with_reducible apply State.startPlain_keep | with_reducible apply Keep.foldl)

theorem State.fillDone_keep {s : State} (ns : Nat) (unit : Nat) (hk : Keep anc s)
    (hm : [.flash, .media, .faults, .log] ⊆ anc.touched := by exact List.Subset.trans (by decide) hm) : Keep anc (State.fillDone s ns unit) := by
  unfold State.fillDone
  repeat' (first
      | with_reducible assumption | extract_lets | with_reducible apply State.fillUnit_keep
      | (fail_if_no_progress (with_reducible refine Keep.upd ?_ ?_ ?_ ?_ ?_ ?_ ?_ ?_ ?_ ?_) <;> try with_reducible first | rfl | exact fun h => h)
      | split)

theorem State.placeSet_keep {s : State} (stream : Nat) (may : State → Bool) (ok : Nat → Bool) (sel : BufUnit → Bool) (sess : Option Nat) (hk : Keep anc s) (hm : [.flash, .media, .faults, .completions, .log] ⊆ anc.touched := by exact List.Subset.trans (by decide) hm) :
    Keep anc (State.placeSet stream may ok sel sess s).2 := by
  unfold State.placeSet
  split
  · exact hk
  · split
    · next e => exact Keep.pair e (State.nextPlace_keep _ _ _ _ _ hk)
    · next e =>
      have h := Keep.pair e (State.nextPlace_keep _ _ _ _ _ hk)
      extract_lets us
      have hf : ∀ l : List (Nat × BufUnit), ∀ {s : State}, Keep anc s → Keep anc (l.foldl (fun s p => s.fillUnit p.2) s) :=
        fun _ _ h => h.foldl fun _ _ h => State.fillUnit_keep _ h
      split
      · next e => exact Keep.pair e (State.issueSet_keep _ _ _ _ _ _ _ (hf _ h))
      · next e =>
        have h := Keep.pair e (State.issueSet_keep _ _ _ _ _ _ _ (hf _ h))
        exact h.upd rfl rfl rfl rfl rfl id rfl rfl rfl

theorem placeStream_keep (stream : Nat) (may : State → Bool) (n : Nat) {s : State} (hk : Keep anc s) (hm : [.flash, .media, .faults, .completions, .log] ⊆ anc.touched := by exact List.Subset.trans (by decide) hm) : Keep anc (placeStream stream may n s) := by
  induction n generalizing s with
  | zero => exact hk
  | succ n ih =>
    unfold placeStream
    split
    · next e => exact ih (Keep.pair e (State.placeSet_keep _ _ _ _ _ hk))
    · next e => exact Keep.pair e (State.placeSet_keep _ _ _ _ _ hk)

theorem State.fillProgram_keep {s : State} (sess : Nat) (chan : Nat) (hk : Keep anc s)
    (hm : [.flash, .media, .faults, .completions, .log] ⊆ anc.touched := by exact List.Subset.trans (by decide) hm) : Keep anc (State.fillProgram s
    sess chan) := by
  unfold State.fillProgram
  repeat' (first
      | with_reducible assumption | with_reducible exact List.Subset.trans (by decide) hm | extract_lets | with_reducible apply State.tt_keep
      | with_reducible apply State.placeSet_keep | with_reducible refine Keep.pair (by assumption) ?_ | split)

theorem placeHost_keep (may : State → Bool) {s : State} (hk : Keep anc s)
    (hm : [.flash, .media, .faults, .completions, .log] ⊆ anc.touched := by exact List.Subset.trans (by decide) hm) : Keep anc (placeHost may s) := by
  unfold placeHost
  repeat' (first
      | with_reducible assumption | with_reducible intro _ | extract_lets | with_reducible apply placeStream_keep | with_reducible apply Keep.foldl)

theorem placeCopies_keep (stream n : Nat) {s : State} (hk : Keep anc s) (hm : [.flash, .media, .faults, .completions, .log] ⊆ anc.touched := by exact List.Subset.trans (by decide) hm) : Keep anc (placeCopies stream n s) := by
  induction n generalizing s with
  | zero => exact hk
  | succ n ih =>
    unfold placeCopies
    extract_lets ready
    clear_value ready
    cases ready with
    | nil => exact hk
    | cons r rs =>
      dsimp only
      split
      · next e => exact Keep.pair e (State.nextPlace_keep _ _ _ _ _ hk)
      · next e =>
        have h := Keep.pair e (State.nextPlace_keep _ _ _ _ _ hk)
        split
        · next e => exact Keep.pair e (State.issueSet_keep _ _ _ _ _ _ _ h)
        · next e =>
          have h := Keep.pair e (State.issueSet_keep _ _ _ _ _ _ _ h)
          exact ih (h.upd rfl rfl rfl rfl rfl id rfl rfl rfl)

theorem placeMovers_keep {s : State} (hk : Keep anc s)
    (hm : [.flash, .media, .faults, .completions, .log] ⊆ anc.touched := by exact List.Subset.trans (by decide) hm) : Keep anc (placeMovers s) := by
  unfold placeMovers
  repeat' (first
      | with_reducible assumption | with_reducible intro _ | extract_lets | with_reducible apply placeCopies_keep | with_reducible apply Keep.foldl)

theorem placeStage_keep {s : State} (hk : Keep anc s)
    (hm : [.flash, .media, .faults, .completions, .log] ⊆ anc.touched := by exact List.Subset.trans (by decide) hm) : Keep anc (placeStage s) := by
  unfold placeStage
  repeat' (first
      | with_reducible assumption | with_reducible exact List.Subset.trans (by decide) hm | extract_lets | with_reducible apply State.startFills_keep
      | with_reducible apply placeHost_keep | with_reducible apply placeMovers_keep | with_reducible apply Keep.ite)

theorem State.writeLeaves_keep {s : State} (hk : Keep anc s)
    (hm : [.flash, .media, .faults, .log] ⊆ anc.touched := by exact List.Subset.trans (by decide) hm) : Keep anc (State.writeLeaves s) := by
  unfold State.writeLeaves
  repeat' (first
      | with_reducible assumption | with_reducible apply State.writeLeafList_keep)

theorem State.markCheck_keep {s : State} (hk : Keep anc s)
    (hm : [.flash, .media, .faults, .completions, .log] ⊆ anc.touched := by exact List.Subset.trans (by decide) hm) : Keep anc (State.markCheck s) := by
  unfold State.markCheck
  repeat' (first
      | with_reducible assumption | extract_lets | with_reducible apply State.putMark_keep | with_reducible apply Keep.ite
      | (fail_if_no_progress (with_reducible refine Keep.upd ?_ ?_ ?_ ?_ ?_ ?_ ?_ ?_ ?_ ?_) <;> try with_reducible first | rfl | exact fun h => h)
      | split)

theorem State.wantMark_keep {s : State} (clean : Bool) (hk : Keep anc s)
    (hm : [.flash, .media, .faults, .completions, .log] ⊆ anc.touched := by exact List.Subset.trans (by decide) hm) : Keep anc (State.wantMark s
    clean) := by
  unfold State.wantMark
  repeat' (first
      | with_reducible assumption | with_reducible exact List.Subset.trans (by decide) hm | extract_lets | with_reducible apply State.writeLeaves_keep
      | with_reducible apply State.markCheck_keep
      | (fail_if_no_progress (with_reducible refine Keep.upd ?_ ?_ ?_ ?_ ?_ ?_ ?_ ?_ ?_ ?_) <;> try with_reducible first | rfl | exact fun h => h))

theorem State.finishShutdown_keep {s : State} (hk : Keep anc s)
    (hm : [.flash, .media, .queues, .faults, .completions, .log] ⊆ anc.touched := by exact List.Subset.trans (by decide) hm) : Keep anc
    (State.finishShutdown s) := by
  unfold State.finishShutdown
  repeat' (first
      | with_reducible assumption | with_reducible exact List.Subset.trans (by decide) hm | with_reducible intro _ | extract_lets
      | with_reducible apply State.writeLeaves_keep | with_reducible apply State.pushMark_keep | with_reducible apply State.updCtrl_keep
      | with_reducible apply Keep.ite
      | (fail_if_no_progress (with_reducible refine Keep.upd ?_ ?_ ?_ ?_ ?_ ?_ ?_ ?_ ?_ ?_) <;> try with_reducible first | rfl | exact fun h => h)
      | with_reducible apply Keep.foldl | split)

theorem State.passUnit_keep (p : PageSet) {s : State} (u : Nat × Nat × Nat) (hk : Keep anc s)
    (hm : [.flash, .media, .faults, .log] ⊆ anc.touched := by exact List.Subset.trans (by decide) hm) : Keep anc (State.passUnit p s u) := by
  unfold State.passUnit
  repeat' (first
      | with_reducible assumption | extract_lets | with_reducible apply State.setEntry_keep
      | (fail_if_no_progress (with_reducible refine Keep.upd ?_ ?_ ?_ ?_ ?_ ?_ ?_ ?_ ?_ ?_) <;> try with_reducible first | rfl | exact fun h => h)
      | split)

theorem State.passCopy_keep (p : PageSet) {s : State} (u : Nat × Nat × Nat) (hk : Keep anc s)
    (hm : [.flash, .media] ⊆ anc.touched := by exact List.Subset.trans (by decide) hm) : Keep anc (State.passCopy p s u) := by
  unfold State.passCopy
  repeat' (first
      | with_reducible assumption | extract_lets | with_reducible apply State.startPlain_keep
      | (fail_if_no_progress (with_reducible refine Keep.upd ?_ ?_ ?_ ?_ ?_ ?_ ?_ ?_ ?_ ?_) <;> try with_reducible first | rfl | exact fun h => h))

theorem State.abandon_keep {s : State} (i : Nat) (hk : Keep anc s) (hm : [.media] ⊆ anc.touched := by exact List.Subset.trans (by decide) hm) : Keep
    anc (State.abandon s i) := by
  unfold State.abandon
  repeat' (first
      | with_reducible assumption | extract_lets | with_reducible apply State.closeSb_keep | with_reducible apply Keep.ite)

theorem State.failPlane_keep (p : PageSet) {s : State} (q : Nat) (hk : Keep anc s)
    (hm : [.flash, .faults, .log] ⊆ anc.touched := by exact List.Subset.trans (by decide) hm) : Keep anc (State.failPlane p s q) := by
  unfold State.failPlane
  repeat' (first
      | with_reducible assumption | with_reducible exact List.Subset.trans (by decide) hm | extract_lets | with_reducible apply State.health_keep
      | with_reducible apply State.retire_keep)

theorem State.settle_keep {s : State} (p : PageSet) (failed : List Nat) (hk : Keep anc s) (hm : [.flash, .media, .faults, .log] ⊆ anc.touched := by exact List.Subset.trans (by decide) hm) : Keep anc (State.settle s p failed) := by
  unfold State.settle
  extract_lets words _ _ v
  have hv : Keep anc v := hk.upd rfl rfl rfl rfl rfl (fun h => KeysUp_map _ _ h fun e => by dsimp only; split <;> rfl) rfl rfl rfl
  clear_value v
  exact hv.foldl fun _ _ h => State.failPlane_keep _ _ h

theorem State.endProgram_keep {s : State} (p : PageSet) (failed : List Nat) (hk : Keep anc s)
    (hm : [.flash, .media, .faults, .completions, .log] ⊆ anc.touched := by exact List.Subset.trans (by decide) hm) : Keep anc (State.endProgram s p
    failed) := by
  unfold State.endProgram
  repeat' (first
      | with_reducible assumption | with_reducible exact List.Subset.trans (by decide) hm | with_reducible intro _ | extract_lets
      | with_reducible apply State.settle_keep | with_reducible apply State.passUnit_keep | with_reducible apply State.landCheck_keep
      | with_reducible apply State.passCopy_keep | with_reducible apply State.abandon_keep | with_reducible apply Keep.ite
      | (fail_if_no_progress (with_reducible refine Keep.upd ?_ ?_ ?_ ?_ ?_ ?_ ?_ ?_ ?_ ?_) <;> try with_reducible first | rfl | exact fun h => h)
      | with_reducible apply Keep.foldl)

theorem State.queueCopy_keep {s : State} (stream ns unit : Nat) (hk : Keep anc s) (hm : [.flash, .media, .faults, .log] ⊆ anc.touched := by exact List.Subset.trans (by decide) hm) : Keep anc (State.queueCopy s stream ns unit) := by
  unfold State.queueCopy
  extract_lets t e
  have ht : Keep anc t := State.mended_keep _ _ hk
  clear_value e t
  exact Keep.ite ht (State.startPlain_keep _ _ _ (ht.upd rfl rfl rfl rfl rfl id rfl rfl rfl))

theorem State.copyRead_keep {s : State} (ns : Nat) (unit : Nat) (hk : Keep anc s)
    (hm : [.flash, .media, .faults, .log] ⊆ anc.touched := by exact List.Subset.trans (by decide) hm) : Keep anc (State.copyRead s ns unit) := by
  unfold State.copyRead
  repeat' (first
      | with_reducible assumption | extract_lets | with_reducible apply State.mapFault_keep | with_reducible apply Keep.ite
      | (fail_if_no_progress (with_reducible refine Keep.upd ?_ ?_ ?_ ?_ ?_ ?_ ?_ ?_ ?_ ?_) <;> try with_reducible first | rfl | exact fun h => h)
      | split)

theorem gcCopy_keep (ns : Nat) (unit : Nat) {s : State} (hk : Keep anc s)
    (hm : [.flash, .media, .queues, .faults, .completions, .log] ⊆ anc.touched := by exact List.Subset.trans (by decide) hm) : Keep anc (gcCopy ns
    unit s) := by
  unfold gcCopy
  repeat' (first
      | with_reducible assumption | with_reducible exact List.Subset.trans (by decide) hm | extract_lets | with_reducible apply State.queueCopy_keep
      | with_reducible apply State.checkFull_keep | with_reducible apply Keep.ite)

theorem State.verifyDone_keep {s : State} (i : Nat) (hk : Keep anc s) (hm : [.media] ⊆ anc.touched := by exact List.Subset.trans (by decide) hm) :
    Keep anc (State.verifyDone s i) := by
  unfold State.verifyDone
  repeat' (first
      | with_reducible assumption | extract_lets | with_reducible apply State.dropAcc_keep | with_reducible apply Keep.ite)

theorem gcVerify_keep (ns : Nat) (unit : Nat) (ok : Bool) {s : State} (hk : Keep anc s)
    (hm : [.flash, .media, .faults, .log] ⊆ anc.touched := by exact List.Subset.trans (by decide) hm) : Keep anc (gcVerify ns unit ok s) := by
  unfold gcVerify
  repeat' (first
      | with_reducible assumption | with_reducible exact List.Subset.trans (by decide) hm | extract_lets | with_reducible apply State.setSb_keep
      | with_reducible apply State.setEntry_keep | with_reducible apply State.verifyDone_keep | with_reducible apply State.abandon_keep
      | with_reducible apply Keep.ite
      | (fail_if_no_progress (with_reducible refine Keep.upd ?_ ?_ ?_ ?_ ?_ ?_ ?_ ?_ ?_ ?_) <;> try with_reducible first | rfl | exact fun h => h)
      | split)

theorem superblockErase_keep (i : Nat) {s : State} (hk : Keep anc s)
    (hm : [.flash, .media, .log] ⊆ anc.touched := by exact List.Subset.trans (by decide) hm) : Keep anc (superblockErase i s) := by
  unfold superblockErase
  repeat' (first
      | with_reducible assumption | with_reducible exact List.Subset.trans (by decide) hm | with_reducible intro _ | extract_lets
      | with_reducible apply State.issueErase_keep | with_reducible apply State.setSb_keep | with_reducible apply State.dropAcc_keep
      | with_reducible apply Keep.ite | with_reducible apply Keep.foldl)

theorem State.walkOn_keep {s : State} (key : Nat) (die : Nat) (block : Nat) (planes : List Nat) (hk : Keep anc s)
    (hm : [.flash, .media] ⊆ anc.touched := by exact List.Subset.trans (by decide) hm) : Keep anc (State.walkOn s key die block planes) := by
  unfold State.walkOn
  repeat' (first
      | with_reducible assumption | extract_lets | with_reducible apply State.queueSense_keep | with_reducible apply Keep.ite
      | (fail_if_no_progress (with_reducible refine Keep.upd ?_ ?_ ?_ ?_ ?_ ?_ ?_ ?_ ?_ ?_) <;> try with_reducible first | rfl | exact fun h => h))

theorem State.verifyTick_keep {s : State} (hk : Keep anc s) (hm : [.flash, .media] ⊆ anc.touched := by exact List.Subset.trans (by decide) hm) : Keep
    anc (State.verifyTick s) := by
  unfold State.verifyTick
  repeat' (first
      | with_reducible assumption | with_reducible intro _ | extract_lets | with_reducible apply State.walkOn_keep | with_reducible apply Keep.foldl)

theorem State.loseListed_keep {s : State} (p : BitVec 64 → Bool) (l : List (Nat × Nat)) (hk : Keep anc s)
    (hm : [.flash, .media, .faults, .log] ⊆ anc.touched := by exact List.Subset.trans (by decide) hm) : Keep anc (State.loseListed s p l) := by
  unfold State.loseListed
  repeat' (first
      | with_reducible assumption | with_reducible intro _ | extract_lets | with_reducible apply State.loseUnit_keep | with_reducible apply Keep.ite
      | with_reducible apply Keep.foldl)

theorem superblockCloseVerify_keep (i : Nat) (rewrite : List (Nat × Nat)) (lost : List (Nat × Nat)) {s : State} (hk : Keep anc s)
    (hm : [.flash, .media, .faults, .log] ⊆ anc.touched := by exact List.Subset.trans (by decide) hm) : Keep anc (superblockCloseVerify i rewrite lost
    s) := by
  unfold superblockCloseVerify
  repeat' (first
      | with_reducible assumption | with_reducible exact List.Subset.trans (by decide) hm | with_reducible intro _ | extract_lets
      | with_reducible apply State.loseListed_keep | with_reducible apply State.queueCopy_keep | with_reducible apply State.verifyDone_keep
      | with_reducible apply Keep.ite
      | (fail_if_no_progress (with_reducible refine Keep.upd ?_ ?_ ?_ ?_ ?_ ?_ ?_ ?_ ?_ ?_) <;> try with_reducible first | rfl | exact fun h => h)
      | with_reducible apply Keep.foldl)

theorem State.movePage_keep (die : Nat) (block : Nat) (sb : Nat) {s : State} (page : Nat) (hk : Keep anc s)
    (hm : [.flash, .media, .faults] ⊆ anc.touched := by exact List.Subset.trans (by decide) hm) : Keep anc (State.movePage die block sb s page) := by
  unfold State.movePage
  repeat' (first
      | with_reducible assumption | with_reducible exact List.Subset.trans (by decide) hm | extract_lets | with_reducible apply State.queueSense_keep
      | with_reducible apply State.freeSeats_keep | with_reducible apply State.queueSet_keep)

theorem State.moveGenBlock_keep {s : State} (pb : Nat) (hk : Keep anc s)
    (hm : [.flash, .media, .namespaces, .faults] ⊆ anc.touched := by exact List.Subset.trans (by decide) hm) : Keep anc (State.moveGenBlock s pb) := by
  unfold State.moveGenBlock
  repeat' (first
      | with_reducible assumption | with_reducible exact List.Subset.trans (by decide) hm | with_reducible intro _ | extract_lets
      | with_reducible apply State.allocSb_keep | with_reducible apply State.closeSb_keep | with_reducible apply State.movePage_keep
      | with_reducible apply State.queueOp_keep | with_reducible apply Keep.ite
      | (fail_if_no_progress (with_reducible refine Keep.upd ?_ ?_ ?_ ?_ ?_ ?_ ?_ ?_ ?_ ?_) <;> try with_reducible first | rfl | exact fun h => h)
      | with_reducible apply Keep.foldl | with_reducible refine Keep.optPair (by assumption) ?_ | split)

theorem State.rehome_keep {s : State} (old : CwAddr) (new : CwAddr) (hk : Keep anc s)
    (hm : [.media, .namespaces] ⊆ anc.touched := by exact List.Subset.trans (by decide) hm) : Keep anc (State.rehome s old new) := by
  unfold State.rehome
  repeat' (first
      | with_reducible assumption | extract_lets
      | (fail_if_no_progress (with_reducible refine Keep.upd ?_ ?_ ?_ ?_ ?_ ?_ ?_ ?_ ?_ ?_) <;> try with_reducible first | rfl | exact fun h => h))

theorem State.placeAgain_keep {s : State} (p : PageSet) (failed : List Nat) (words : List CWord) (hk : Keep anc s)
    (hm : [.flash, .media, .namespaces, .faults, .log] ⊆ anc.touched := by exact List.Subset.trans (by decide) hm) : Keep anc (State.placeAgain s p
    failed words) := by
  unfold State.placeAgain
  repeat' (first
      | with_reducible assumption | with_reducible exact List.Subset.trans (by decide) hm | with_reducible intro _ | extract_lets
      | with_reducible apply State.moveGenBlock_keep | with_reducible apply State.putParityOn_keep | with_reducible apply State.firmwareWrite_keep
      | with_reducible apply State.rehome_keep | with_reducible apply Keep.ite | with_reducible apply Keep.foldl)

theorem State.endFirmware_keep {s : State} (p : PageSet) (failed : List Nat) (hk : Keep anc s)
    (hm : [.flash, .media, .namespaces, .faults, .log] ⊆ anc.touched := by exact List.Subset.trans (by decide) hm) : Keep anc (State.endFirmware s p
    failed) := by
  unfold State.endFirmware
  repeat' (first
      | with_reducible assumption | with_reducible exact List.Subset.trans (by decide) hm | extract_lets | with_reducible apply State.settle_keep
      | with_reducible apply State.placeAgain_keep | with_reducible apply Keep.ite)

theorem State.rewriteBlock_keep {s : State} (pb : Nat) (hk : Keep anc s)
    (hm : [.flash, .media, .namespaces, .faults, .log] ⊆ anc.touched := by exact List.Subset.trans (by decide) hm) : Keep anc (State.rewriteBlock s
    pb) := by
  unfold State.rewriteBlock
  repeat' (first
      | with_reducible assumption | with_reducible exact List.Subset.trans (by decide) hm | with_reducible intro _ | extract_lets
      | with_reducible apply State.queueCopy_keep | with_reducible apply State.moveGenBlock_keep | with_reducible apply Keep.foldl)

theorem State.patrolTick_keep {s : State} (hk : Keep anc s) (hm : [.flash, .media] ⊆ anc.touched := by exact List.Subset.trans (by decide) hm) : Keep
    anc (State.patrolTick s) := by
  unfold State.patrolTick
  repeat' (first
      | with_reducible assumption | with_reducible apply State.walkOn_keep | split)

theorem patrolVerify_keep (pb : Nat) (v : Verify) (lost : List (Nat × Nat)) {s : State} (hk : Keep anc s)
    (hm : [.flash, .media, .namespaces, .faults, .log] ⊆ anc.touched := by exact List.Subset.trans (by decide) hm) : Keep anc (patrolVerify pb v lost
    s) := by
  unfold patrolVerify
  repeat' (first
      | with_reducible assumption | with_reducible exact List.Subset.trans (by decide) hm | extract_lets | with_reducible apply State.health_keep
      | with_reducible apply State.rewriteBlock_keep | with_reducible apply State.loseListed_keep | with_reducible apply State.retire_keep
      | with_reducible apply Keep.ite
      | (fail_if_no_progress (with_reducible refine Keep.upd ?_ ?_ ?_ ?_ ?_ ?_ ?_ ?_ ?_ ?_) <;> try with_reducible first | rfl | exact fun h => h)
      | split)

theorem journalMark_keep (clean : Bool) {s : State} (hk : Keep anc s)
    (hm : [.flash, .media, .faults, .completions, .log] ⊆ anc.touched := by exact List.Subset.trans (by decide) hm) : Keep anc (journalMark clean s) := by
  unfold journalMark
  repeat' (first
      | with_reducible assumption | extract_lets | with_reducible apply State.wantMark_keep | with_reducible apply Keep.ite)

end Sys2Proof.Machine
end

