-- ==== Sys2Proof/Laws/KeepFlash.lean ====
section
/-! SUPPORT. What the operations of Machine/Flash.lean keep (Laws/Keep.lean). -/

namespace Sys2Proof.Machine

set_option Elab.async false

open Sys2Proof.Safety

set_option linter.unusedTactic false
set_option linter.unreachableTactic false

variable {anc : KeepCtx}

theorem State.issueSense_keep {s : State} (die : Nat) (block : Nat) (page : Nat) (planes : List Nat) (hk : Keep anc s)
    (hm : [.flash, .media] ⊆ anc.touched := by exact List.Subset.trans (by decide) hm) : Keep anc (State.issueSense s die block page planes) := by
  unfold State.issueSense
  repeat' (first
      | with_reducible assumption | with_reducible exact List.Subset.trans (by decide) hm | with_reducible intro _ | extract_lets
      | with_reducible apply State.countSenses_keep | with_reducible apply State.beginOp_keep | with_reducible apply Keep.foldl)

theorem State.resense_keep {s : State} (w : CwAddr) (n : Nat) (hk : Keep anc s)
    (hm : [.flash, .media] ⊆ anc.touched := by exact List.Subset.trans (by decide) hm) : Keep anc (State.resense s w n) := by
  unfold State.resense
  repeat' (first
      | with_reducible assumption | with_reducible intro _ | extract_lets | with_reducible apply State.queueSense_keep
      | with_reducible apply Keep.foldl)

theorem dieSenseComplete_keep (die : Nat) (dirty : List Nat) (erased : List Nat) {s : State} (hk : Keep anc s)
    (hm : [.flash, .media, .faults, .log] ⊆ anc.touched := by exact List.Subset.trans (by decide) hm) : Keep anc (dieSenseComplete die dirty erased s) := by
  unfold dieSenseComplete
  repeat' (first
      | with_reducible assumption | with_reducible exact List.Subset.trans (by decide) hm | with_reducible intro _ | extract_lets
      | with_reducible apply State.endOp_keep | with_reducible apply State.mapFault_keep | with_reducible apply Keep.ite
      | (fail_if_no_progress (with_reducible refine Keep.upd ?_ ?_ ?_ ?_ ?_ ?_ ?_ ?_ ?_ ?_) <;> try with_reducible first | rfl | exact fun h => h)
      | with_reducible apply Keep.foldl | split)

theorem flushSets_keep (n : Nat) (l : List Nat) {s : State} (hk : Keep anc s) (hm : [.flash, .media, .faults, .completions, .log] ⊆ anc.touched := by exact List.Subset.trans (by decide) hm) : Keep anc (flushSets n l s) := by
  induction n generalizing l s with
  | zero => exact hk
  | succ n ih =>
    unfold flushSets
    split
    · exact hk
    · split
      · exact hk
      · exact ih _ (placeStream_keep _ _ _ hk)

theorem State.spill_keep {s : State} (hk : Keep anc s)
    (hm : [.flash, .media, .power, .faults, .log] ⊆ anc.touched := by exact List.Subset.trans (by decide) hm) : Keep anc (State.spill s) := by
  unfold State.spill
  repeat' (first
      | with_reducible assumption | with_reducible exact List.Subset.trans (by decide) hm | extract_lets
      | with_reducible apply State.firmwareWrite_keep | with_reducible apply State.firmwareSet_keep
      | (fail_if_no_progress (with_reducible refine Keep.upd ?_ ?_ ?_ ?_ ?_ ?_ ?_ ?_ ?_ ?_) <;> try with_reducible first | rfl | exact fun h => h))

theorem flushMore_keep {s : State} (hk : Keep anc s)
    (hm : [.flash, .media, .power, .faults, .completions, .log] ⊆ anc.touched := by exact List.Subset.trans (by decide) hm) : Keep anc (flushMore s) := by
  unfold flushMore
  repeat' (first
      | with_reducible assumption | with_reducible exact List.Subset.trans (by decide) hm | extract_lets | with_reducible apply State.startFills_keep
      | with_reducible apply flushSets_keep | with_reducible apply State.spill_keep | with_reducible apply Keep.ite
      | (fail_if_no_progress (with_reducible refine Keep.upd ?_ ?_ ?_ ?_ ?_ ?_ ?_ ?_ ?_ ?_) <;> try with_reducible first | rfl | exact fun h => h))

theorem dieProgramComplete_keep (die : Nat) (failed : List Nat) {s : State} (hk : Keep anc s)
    (hm : [.flash, .media, .power, .queues, .namespaces, .faults, .completions, .log] ⊆ anc.touched := by exact List.Subset.trans (by decide) hm) :
    Keep anc (dieProgramComplete die failed s) := by
  unfold dieProgramComplete
  repeat' (first
      | with_reducible assumption | with_reducible exact List.Subset.trans (by decide) hm | extract_lets | with_reducible apply State.endOp_keep
      | with_reducible apply flushMore_keep | with_reducible apply State.endFirmware_keep | with_reducible apply State.endProgram_keep
      | with_reducible apply State.finishShutdown_keep | with_reducible apply State.markCheck_keep | with_reducible apply Keep.ite | split)

theorem State.freeErased_keep {s : State} (i : Nat) (hk : Keep anc s)
    (hm : [.media, .queues, .completions] ⊆ anc.touched := by exact List.Subset.trans (by decide) hm) : Keep anc (State.freeErased s i) := by
  unfold State.freeErased
  repeat' (first
      | with_reducible assumption | with_reducible exact List.Subset.trans (by decide) hm | extract_lets | with_reducible apply State.setSb_keep
      | with_reducible apply State.clearFull_keep | with_reducible apply Keep.ite)

theorem State.queueErases_keep {s : State} (l : List Nat) (hk : Keep anc s) (hm : [.flash] ⊆ anc.touched := by exact List.Subset.trans (by decide) hm)
    : Keep anc (State.queueErases s l) := by
  unfold State.queueErases
  repeat' (first
      | with_reducible assumption | with_reducible intro _ | extract_lets | with_reducible apply State.queueOp_keep | with_reducible apply Keep.foldl)

theorem State.testDone_keep {s : State} (hub : Nat) (hk : Keep anc s) (hm : [.flash] ⊆ anc.touched := by exact List.Subset.trans (by decide) hm) :
    Keep anc (State.testDone s hub) := by
  unfold State.testDone
  repeat' (first
      | with_reducible assumption | extract_lets | with_reducible apply State.queueErases_keep | with_reducible apply Keep.ite
      | (fail_if_no_progress (with_reducible refine Keep.upd ?_ ?_ ?_ ?_ ?_ ?_ ?_ ?_ ?_ ?_) <;> try with_reducible first | rfl | exact fun h => h))

theorem dieEraseComplete_keep (die : Nat) (failed : List Nat) {s : State} (hk : Keep anc s)
    (hm : [.flash, .media, .power, .queues, .faults, .completions, .log] ⊆ anc.touched := by exact List.Subset.trans (by decide) hm) : Keep anc
    (dieEraseComplete die failed s) := by
  unfold dieEraseComplete
  repeat' (first
      | with_reducible assumption | with_reducible exact List.Subset.trans (by decide) hm | with_reducible intro _ | extract_lets
      | with_reducible apply State.endOp_keep | with_reducible apply State.health_keep | with_reducible apply State.retire_keep
      | with_reducible apply State.erasePlane_keep | with_reducible apply flushMore_keep | with_reducible apply State.freeErased_keep
      | with_reducible apply State.testDone_keep | with_reducible apply Keep.ite
      | (fail_if_no_progress (with_reducible refine Keep.upd ?_ ?_ ?_ ?_ ?_ ?_ ?_ ?_ ?_ ?_) <;> try with_reducible first | rfl | exact fun h => h)
      | with_reducible apply Keep.foldl | split)

theorem State.uncorrectable_keep {s : State} (a : CwAddr) (hk : Keep anc s)
    (hm : [.flash, .media, .faults, .log] ⊆ anc.touched := by exact List.Subset.trans (by decide) hm) : Keep anc (State.uncorrectable s a) := by
  unfold State.uncorrectable
  repeat' (first
      | with_reducible assumption | with_reducible exact List.Subset.trans (by decide) hm | extract_lets
      | with_reducible apply State.keepCorrected_keep | with_reducible apply State.patrolFirst_keep | with_reducible apply State.loseUnit_keep
      | with_reducible apply Keep.ite)

theorem State.recovTick_keep {s : State} (hk : Keep anc s) (hm : [.flash, .faults] ⊆ anc.touched := by exact List.Subset.trans (by decide) hm) : Keep
    anc (State.recovTick s) := by
  unfold State.recovTick
  repeat' (first
      | with_reducible assumption | with_reducible intro _ | extract_lets | with_reducible apply State.freeSeats_keep | with_reducible apply Keep.ite
      | (fail_if_no_progress (with_reducible refine Keep.upd ?_ ?_ ?_ ?_ ?_ ?_ ?_ ?_ ?_ ?_) <;> try with_reducible first | rfl | exact fun h => h)
      | with_reducible apply Keep.foldl)

theorem dirtyRecoveryStep_keep (hub : Nat) (ok : Bool) {s : State} (hk : Keep anc s)
    (hm : [.flash, .media, .faults, .log] ⊆ anc.touched := by exact List.Subset.trans (by decide) hm) : Keep anc (dirtyRecoveryStep hub ok s) := by
  unfold dirtyRecoveryStep
  repeat' (first
      | with_reducible assumption | with_reducible exact List.Subset.trans (by decide) hm | extract_lets | with_reducible apply State.resense_keep
      | with_reducible apply State.keepCorrected_keep | with_reducible apply State.patrolFirst_keep | with_reducible apply State.uncorrectable_keep
      | with_reducible apply Keep.ite
      | (fail_if_no_progress (with_reducible refine Keep.upd ?_ ?_ ?_ ?_ ?_ ?_ ?_ ?_ ?_ ?_) <;> try with_reducible first | rfl | exact fun h => h)
      | split)

theorem openReadLapse_keep (die : Nat) (stage : Nat) {s : State} (hk : Keep anc s)
    (hm : [.flash, .faults] ⊆ anc.touched := by exact List.Subset.trans (by decide) hm) : Keep anc (openReadLapse die stage s) := by
  unfold openReadLapse
  repeat' (first
      | with_reducible assumption | with_reducible exact List.Subset.trans (by decide) hm | extract_lets | with_reducible apply State.tt_keep
      | with_reducible apply Keep.ite
      | (fail_if_no_progress (with_reducible refine Keep.upd ?_ ?_ ?_ ?_ ?_ ?_ ?_ ?_ ?_ ?_) <;> try with_reducible first | rfl | exact fun h => h)
      | split)

theorem State.setPgmode_keep {s : State} (hub : Nat) (mode : Nat) (hk : Keep anc s)
    (hm : [.flash] ⊆ anc.touched := by exact List.Subset.trans (by decide) hm) : Keep anc (State.setPgmode s hub mode) := by
  unfold State.setPgmode
  repeat' (first
      | with_reducible assumption | extract_lets
      | (fail_if_no_progress (with_reducible refine Keep.upd ?_ ?_ ?_ ?_ ?_ ?_ ?_ ?_ ?_ ?_) <;> try with_reducible first | rfl | exact fun h => h))

theorem State.endTest_keep {s : State} (hub : Nat) (mode : Nat) (hk : Keep anc s)
    (hm : [.flash] ⊆ anc.touched := by exact List.Subset.trans (by decide) hm) : Keep anc (State.endTest s hub mode) := by
  unfold State.endTest
  repeat' (first
      | with_reducible assumption | extract_lets | with_reducible apply State.testDone_keep
      | (fail_if_no_progress (with_reducible refine Keep.upd ?_ ?_ ?_ ?_ ?_ ?_ ?_ ?_ ?_ ?_) <;> try with_reducible first | rfl | exact fun h => h))

theorem flaPgmodeService_keep (hub : Nat) (key : Nat) {s : State} (hk : Keep anc s)
    (hm : [.flash] ⊆ anc.touched := by exact List.Subset.trans (by decide) hm) : Keep anc (flaPgmodeService hub key s) := by
  unfold flaPgmodeService
  repeat' (first
      | with_reducible assumption | extract_lets | with_reducible apply State.endTest_keep | with_reducible apply Keep.ite)

theorem flaPgmodeRecovery_keep (hub : Nat) (key : Nat) {s : State} (hk : Keep anc s)
    (hm : [.flash] ⊆ anc.touched := by exact List.Subset.trans (by decide) hm) : Keep anc (flaPgmodeRecovery hub key s) := by
  unfold flaPgmodeRecovery
  repeat' (first
      | with_reducible assumption | extract_lets | with_reducible apply State.endTest_keep | with_reducible apply Keep.ite)

theorem flaPgmodeTest_keep (hub : Nat) (key : Nat) {s : State} (hk : Keep anc s)
    (hm : [.flash] ⊆ anc.touched := by exact List.Subset.trans (by decide) hm) : Keep anc (flaPgmodeTest hub key s) := by
  unfold flaPgmodeTest
  repeat' (first
      | with_reducible assumption | extract_lets | with_reducible apply State.setPgmode_keep | with_reducible apply Keep.ite)

theorem State.rawProgram_keep {s : State} (a : CwAddr) (readFirst : Bool) (hk : Keep anc s)
    (hm : [.flash, .media, .faults] ⊆ anc.touched := by exact List.Subset.trans (by decide) hm) : Keep anc (State.rawProgram s a readFirst) := by
  unfold State.rawProgram
  repeat' (first
      | with_reducible assumption | with_reducible exact List.Subset.trans (by decide) hm | extract_lets | with_reducible apply State.queueSense_keep
      | with_reducible apply State.freeSeats_keep | with_reducible apply State.queueOp_keep | with_reducible apply Keep.ite)

theorem recoveryRawProgram_keep (a : CwAddr) (raw : Bytes) {s : State} (hk : Keep anc s)
    (hm : [.free, .flash, .media, .faults] ⊆ anc.touched := by exact List.Subset.trans (by decide) hm) : Keep anc (recoveryRawProgram a raw s) := by
  unfold recoveryRawProgram
  repeat' (first
      | with_reducible assumption | with_reducible exact List.Subset.trans (by decide) hm | with_reducible intro _ | extract_lets
      | with_reducible apply State.drawBytes_keep | with_reducible apply State.rawProgram_keep | with_reducible apply Keep.ite
      | (fail_if_no_progress (with_reducible refine Keep.upd ?_ ?_ ?_ ?_ ?_ ?_ ?_ ?_ ?_ ?_) <;> try with_reducible first | rfl | exact fun h => h)
      | with_reducible apply KeysUp_put | split)

end Sys2Proof.Machine
end

