-- ==== Sys2Proof/Laws/KeepStore.lean ====
section
/-! SUPPORT. What the operations of Machine/Store.lean keep (Laws/Keep.lean). -/

namespace Sys2Proof.Machine

set_option Elab.async false

open Sys2Proof.Safety

set_option linter.unusedTactic false
set_option linter.unreachableTactic false

variable {anc : KeepCtx}

theorem State.writeCommand_keep {s : State} (tag : Tag) (nsid : Nat) (prinfo : Nat) (ranges : List (Nat × Nat)) (field : Ns → Option Status) (f : Ns →
    State → State) (hk : Keep anc s) (hm : [.media, .queues, .completions] ⊆ anc.touched := by exact List.Subset.trans (by decide) hm) (hf : ∀ x0 t,
    Keep anc t → Keep anc (f x0 t)) : Keep anc (State.writeCommand s tag nsid prinfo ranges field f) := by
  unfold State.writeCommand
  repeat' (first
      | with_reducible assumption | with_reducible exact List.Subset.trans (by decide) hm | with_reducible intro _ | extract_lets
      | with_reducible apply State.command_keep | with_reducible apply State.fail_keep | with_reducible apply State.checkFull_keep
      | with_reducible apply Keep.ite | with_reducible apply hf | split)

theorem write_keep (tag : Tag) (nsid : Nat) (slba : Nat) (nlb : Nat) (prinfo : Nat) (fua : Bool) (data : Bytes) {s : State} (hk : Keep anc s)
    (hm : [.free, .media, .queues, .sessions, .completions, .log] ⊆ anc.touched := by exact List.Subset.trans (by decide) hm) : Keep anc (write tag
    nsid slba nlb prinfo fua data s) := by
  unfold write
  repeat' (first
      | with_reducible assumption | with_reducible exact List.Subset.trans (by decide) hm | with_reducible intro _ | extract_lets
      | with_reducible apply State.writeCommand_keep | with_reducible apply State.offerWrite_keep)

theorem writeLocate_keep (tag : Tag) (nsid : Nat) (slba : Nat) (nlb : Nat) (prinfo : Nat) (sgl : Option Nat) (data : Bytes) {s : State} (hk : Keep anc
    s) (hm : [.free, .media, .queues, .sessions, .completions, .log] ⊆ anc.touched := by exact List.Subset.trans (by decide) hm) : Keep anc
    (writeLocate tag nsid slba nlb prinfo sgl data s) := by
  unfold writeLocate
  repeat' (first
      | with_reducible assumption | with_reducible exact List.Subset.trans (by decide) hm | with_reducible intro _ | extract_lets
      | with_reducible apply State.writeCommand_keep | with_reducible apply State.offerWrite_keep)

theorem State.zeroBlocks_keep {s : State} (tag : Tag) (n : Ns) (ranges : List (Nat × Nat)) (hk : Keep anc s)
    (hm : [.free, .flash, .media, .sessions, .faults, .completions, .log] ⊆ anc.touched := by exact List.Subset.trans (by decide) hm) : Keep anc
    (State.zeroBlocks s tag n ranges) := by
  unfold State.zeroBlocks
  repeat' (first
      | with_reducible assumption | with_reducible exact List.Subset.trans (by decide) hm | extract_lets | with_reducible apply State.unmapUnits_keep
      | with_reducible apply State.offerWrite_keep
      | (fail_if_no_progress (with_reducible refine Keep.upd ?_ ?_ ?_ ?_ ?_ ?_ ?_ ?_ ?_ ?_) <;> try with_reducible first | rfl | exact fun h => h))

theorem writeZeroes_keep (tag : Tag) (nsid : Nat) (slba : Nat) (nlb : Nat) (prinfo : Nat) {s : State} (hk : Keep anc s)
    (hm : [.free, .flash, .media, .queues, .sessions, .faults, .completions, .log] ⊆ anc.touched := by exact List.Subset.trans (by decide) hm) : Keep
    anc (writeZeroes tag nsid slba nlb prinfo s) := by
  unfold writeZeroes
  repeat' (first
      | with_reducible assumption | with_reducible exact List.Subset.trans (by decide) hm | with_reducible intro _ | extract_lets
      | with_reducible apply State.writeCommand_keep | with_reducible apply State.zeroBlocks_keep)

theorem datasetManagement_keep (tag : Tag) (nsid : Nat) (dealloc : Bool) (nr : Nat) (data : Bytes) {s : State} (hk : Keep anc s)
    (hm : [.free, .flash, .media, .queues, .sessions, .faults, .completions, .log] ⊆ anc.touched := by exact List.Subset.trans (by decide) hm) : Keep
    anc (datasetManagement tag nsid dealloc nr data s) := by
  unfold datasetManagement
  repeat' (first
      | with_reducible assumption | with_reducible exact List.Subset.trans (by decide) hm | with_reducible intro _ | extract_lets
      | with_reducible apply State.writeCommand_keep | with_reducible apply State.zeroBlocks_keep)

theorem State.touchRead_keep {s : State} (ns : Nat) (first : Nat) (count : Nat) (hk : Keep anc s)
    (hm : [.flash, .media, .faults, .log] ⊆ anc.touched := by exact List.Subset.trans (by decide) hm) : Keep anc (State.touchRead s ns first count) := by
  unfold State.touchRead
  repeat' (first
      | with_reducible assumption | with_reducible intro _ | extract_lets | with_reducible apply State.touchLeaf_keep
      | with_reducible apply Keep.foldl)

theorem State.openRead_keep {s : State} (ns : Nat) (first : Nat) (d : Bytes) (hk : Keep anc s)
    (hm : [.free] ⊆ anc.touched := by exact List.Subset.trans (by decide) hm) : Keep anc (State.openRead s ns first d).2 := by
  unfold State.openRead
  repeat' (first
      | with_reducible assumption | with_reducible intro _ | extract_lets | with_reducible apply State.drawBytes_keep
      | with_reducible apply Keep.foldl2 | split)

theorem State.finishRead_keep {s : State} (w : LeafWait) (hk : Keep anc s)
    (hm : [.free, .flash, .media, .faults, .completions, .log] ⊆ anc.touched := by exact List.Subset.trans (by decide) hm) : Keep anc
    (State.finishRead s w) := by
  unfold State.finishRead
  repeat' (first
      | with_reducible assumption | with_reducible exact List.Subset.trans (by decide) hm | extract_lets | with_reducible apply readSlots_keep
      | with_reducible apply State.touchRead_keep | with_reducible apply State.fail_keep | with_reducible apply State.openRead_keep
      | with_reducible apply State.succeed_keep | with_reducible apply Keep.ite | with_reducible refine Keep.pair (by assumption) ?_ | split)

theorem State.senseRead_keep {s : State} (w : LeafWait) (hk : Keep anc s)
    (hm : [.free, .flash, .media, .faults, .completions, .log] ⊆ anc.touched := by exact List.Subset.trans (by decide) hm) : Keep anc (State.senseRead
    s w) := by
  unfold State.senseRead
  repeat' (first
      | with_reducible assumption | with_reducible exact List.Subset.trans (by decide) hm | with_reducible apply State.finishRead_keep
      | with_reducible apply State.startPlain_keep | split)

theorem State.loadLeaves_keep {s : State} (w : LeafWait) (hk : Keep anc s)
    (hm : [.flash, .media] ⊆ anc.touched := by exact List.Subset.trans (by decide) hm) : Keep anc (State.loadLeaves s w) := by
  unfold State.loadLeaves
  repeat' (first
      | with_reducible assumption | with_reducible intro _ | extract_lets | with_reducible apply State.startPlain_keep | with_reducible apply Keep.ite
      | with_reducible apply Keep.foldl)

theorem State.mapRead_keep {s : State} (w : LeafWait) (hk : Keep anc s)
    (hm : [.free, .flash, .media, .faults, .completions, .log] ⊆ anc.touched := by exact List.Subset.trans (by decide) hm) : Keep anc (State.mapRead s
    w) := by
  unfold State.mapRead
  repeat' (first
      | with_reducible assumption | with_reducible exact List.Subset.trans (by decide) hm | extract_lets | with_reducible apply State.senseRead_keep
      | with_reducible apply State.loadLeaves_keep | with_reducible apply Keep.ite
      | (fail_if_no_progress (with_reducible refine Keep.upd ?_ ?_ ?_ ?_ ?_ ?_ ?_ ?_ ?_ ?_) <;> try with_reducible first | rfl | exact fun h => h))

theorem State.readCommand_keep {s : State} (tag : Tag) (nsid : Nat) (slba : Nat) (nlb : Nat) (prinfo : Nat) (f : Ns → State → State) (hk : Keep anc s)
    (hm : [.completions] ⊆ anc.touched := by exact List.Subset.trans (by decide) hm) (hf : ∀ x0 t, Keep anc t → Keep anc (f x0 t)) : Keep anc
    (State.readCommand s tag nsid slba nlb prinfo f) := by
  unfold State.readCommand
  repeat' (first
      | with_reducible assumption | with_reducible intro _ | extract_lets | with_reducible apply State.command_keep
      | with_reducible apply State.fail_keep | with_reducible apply Keep.ite | with_reducible apply hf | split)

theorem read_keep (tag : Tag) (nsid : Nat) (slba : Nat) (nlb : Nat) (prinfo : Nat) {s : State} (hk : Keep anc s)
    (hm : [.free, .flash, .media, .faults, .completions, .log] ⊆ anc.touched := by exact List.Subset.trans (by decide) hm) : Keep anc (read tag nsid
    slba nlb prinfo s) := by
  unfold read
  repeat' (first
      | with_reducible assumption | with_reducible exact List.Subset.trans (by decide) hm | with_reducible intro _ | extract_lets
      | with_reducible apply State.readCommand_keep | with_reducible apply State.mapRead_keep)

theorem readLocator_keep (tag : Tag) (nsid : Nat) (slba : Nat) (nlb : Nat) (prinfo : Nat) (bufLen : Nat) (loc : Bytes) (decodes : Bool) {s : State}
    (hk : Keep anc s) (hm : [.free, .flash, .media, .faults, .completions, .log] ⊆ anc.touched := by exact List.Subset.trans (by decide) hm) : Keep
    anc (readLocator tag nsid slba nlb prinfo bufLen loc decodes s) := by
  unfold readLocator
  repeat' (first
      | with_reducible assumption | with_reducible exact List.Subset.trans (by decide) hm | with_reducible intro _ | extract_lets
      | with_reducible apply State.readCommand_keep | with_reducible apply State.fail_keep | with_reducible apply State.startPlain_keep
      | with_reducible apply State.mapRead_keep | with_reducible apply Keep.ite)

theorem State.locatorLanded_keep {s : State} (w : LeafWait) (loc : Bytes) (decodes : Bool) (hk : Keep anc s)
    (hm : [.free, .flash, .media, .faults, .completions, .log] ⊆ anc.touched := by exact List.Subset.trans (by decide) hm) : Keep anc
    (State.locatorLanded s w loc decodes) := by
  unfold State.locatorLanded
  repeat' (first
      | with_reducible assumption | with_reducible exact List.Subset.trans (by decide) hm | extract_lets | with_reducible apply State.fail_keep
      | with_reducible apply State.succeed_keep | with_reducible apply State.mapRead_keep | with_reducible apply Keep.ite | split)

theorem State.releaseReads_keep {s : State} (hk : Keep anc s)
    (hm : [.free, .flash, .media, .faults, .completions, .log] ⊆ anc.touched := by exact List.Subset.trans (by decide) hm) : Keep anc
    (State.releaseReads s) := by
  unfold State.releaseReads
  repeat' (first
      | with_reducible assumption | with_reducible intro _ | extract_lets | with_reducible apply State.senseRead_keep
      | (fail_if_no_progress (with_reducible refine Keep.upd ?_ ?_ ?_ ?_ ?_ ?_ ?_ ?_ ?_ ?_) <;> try with_reducible first | rfl | exact fun h => h)
      | with_reducible apply Keep.foldl)

theorem leafLoadComplete_keep (ns : Nat) (leaf : Nat) (ok : Bool) {s : State} (hk : Keep anc s)
    (hm : [.free, .flash, .media, .faults, .completions, .log] ⊆ anc.touched := by exact List.Subset.trans (by decide) hm) : Keep anc
    (leafLoadComplete ns leaf ok s) := by
  unfold leafLoadComplete
  repeat' (first
      | with_reducible assumption | with_reducible exact List.Subset.trans (by decide) hm | with_reducible intro _ | extract_lets
      | with_reducible apply State.mendLeaf_keep | with_reducible apply State.touchLeaf_keep | with_reducible apply State.releaseReads_keep
      | with_reducible apply State.mapFault_keep | with_reducible apply Keep.ite | with_reducible apply Keep.foldl)

theorem State.landPlain_keep {s : State} (p : Plain) (hk : Keep anc s)
    (hm : [.free, .flash, .media, .faults, .completions, .log] ⊆ anc.touched := by exact List.Subset.trans (by decide) hm) : Keep anc (State.landPlain
    s p) := by
  unfold State.landPlain
  repeat' (first
      | with_reducible assumption | with_reducible exact List.Subset.trans (by decide) hm | extract_lets | with_reducible apply State.finishRead_keep
      | with_reducible apply State.mapRead_keep | with_reducible apply State.locatorLanded_keep | with_reducible apply State.fillDone_keep
      | with_reducible apply State.copyRead_keep | with_reducible apply Keep.ite | split)

theorem State.keepPlain_keep {s : State} (p : Plain) (hk : Keep anc s) (hm : [.media] ⊆ anc.touched := by exact List.Subset.trans (by decide) hm) :
    Keep anc (State.keepPlain s p) := by
  unfold State.keepPlain
  repeat' (first
      | with_reducible assumption | extract_lets
      | (fail_if_no_progress (with_reducible refine Keep.upd ?_ ?_ ?_ ?_ ?_ ?_ ?_ ?_ ?_ ?_) <;> try with_reducible first | rfl | exact fun h => h))

theorem State.plainStep_keep {s : State} (p : Plain) (hk : Keep anc s)
    (hm : [.free, .flash, .media, .faults, .completions, .log] ⊆ anc.touched := by exact List.Subset.trans (by decide) hm) : Keep anc (State.plainStep
    s p) := by
  unfold State.plainStep
  repeat' (first
      | with_reducible assumption | with_reducible exact List.Subset.trans (by decide) hm | with_reducible intro _ | extract_lets
      | with_reducible apply State.keepPlain_keep | with_reducible apply State.recover_keep | with_reducible apply State.freeSeats_keep
      | with_reducible apply State.landPlain_keep | with_reducible apply State.queueSense_keep | with_reducible apply Keep.ite
      | with_reducible apply Keep.foldl | split)

theorem State.plainTick_keep {s : State} (hk : Keep anc s)
    (hm : [.free, .flash, .media, .faults, .completions, .log] ⊆ anc.touched := by exact List.Subset.trans (by decide) hm) : Keep anc (State.plainTick
    s) := by
  unfold State.plainTick
  repeat' (first
      | with_reducible assumption | with_reducible intro _ | extract_lets | with_reducible apply State.plainStep_keep
      | (fail_if_no_progress (with_reducible refine Keep.upd ?_ ?_ ?_ ?_ ?_ ?_ ?_ ?_ ?_ ?_) <;> try with_reducible first | rfl | exact fun h => h)
      | with_reducible apply Keep.foldl)

theorem flush_keep (tag : Tag) (nsid : Nat) {s : State} (hk : Keep anc s)
    (hm : [.media, .completions] ⊆ anc.touched := by exact List.Subset.trans (by decide) hm) : Keep anc (flush tag nsid s) := by
  unfold flush
  repeat' (first
      | with_reducible assumption | with_reducible exact List.Subset.trans (by decide) hm | with_reducible intro _ | extract_lets
      | with_reducible apply State.command_keep | with_reducible apply State.landCheck_keep | with_reducible apply State.fail_keep
      | with_reducible apply Keep.ite
      | (fail_if_no_progress (with_reducible refine Keep.upd ?_ ?_ ?_ ?_ ?_ ?_ ?_ ?_ ?_ ?_) <;> try with_reducible first | rfl | exact fun h => h)
      | split)

end Sys2Proof.Machine
end

