-- ==== Sys2Proof/Laws/KeepRuns.lean ====
section
/-! SUPPORT. What the operations of Machine/Runs.lean keep (Laws/Keep.lean). -/

namespace Sys2Proof.Machine

set_option Elab.async false

open Sys2Proof.Safety

set_option linter.unusedTactic false
set_option linter.unreachableTactic false

variable {anc : KeepCtx}

theorem State.updRun_keep {s : State} (n : Nat) (f : Run → Run) (hk : Keep anc s)
    (hm : [.sessions] ⊆ anc.touched := by exact List.Subset.trans (by decide) hm) : Keep anc (State.updRun s n f) := by
  unfold State.updRun
  repeat' (first
      | with_reducible assumption | with_reducible apply State.updSess_keep)

theorem State.readPlaced_keep {s : State} (x : Session) (r : Run) (i : Nat) (opened : Bool) (staged : Bool) (hk : Keep anc s)
    (hm : [.dram, .log] ⊆ anc.touched := by exact List.Subset.trans (by decide) hm) : Keep anc (State.readPlaced s x r i opened staged).2 := by
  unfold State.readPlaced
  repeat' (first
      | with_reducible assumption | extract_lets | with_reducible apply quotaRead_keep | with_reducible refine Keep.pair (by assumption) ?_ | split)

theorem State.loadStream_keep (sess : Nat) {s : State} (st : Stream) (hk : Keep anc s)
    (hm : [.free, .dram, .flash, .media, .sessions, .faults, .log] ⊆ anc.touched := by exact List.Subset.trans (by decide) hm) : Keep anc
    (State.loadStream sess s st) := by
  unfold State.loadStream
  repeat' (first
      | with_reducible assumption | with_reducible exact List.Subset.trans (by decide) hm | with_reducible intro _ | extract_lets
      | with_reducible apply State.readPlaced_keep | with_reducible apply State.faultHere_keep | with_reducible apply State.drawBytes_keep
      | with_reducible apply State.mapFault_keep | with_reducible apply State.health_keep | with_reducible apply State.flagRun_keep
      | with_reducible apply State.updRun_keep | with_reducible apply Keep.ite | with_reducible apply Keep.foldl | split)

theorem State.enterGroup_keep {s : State} (sess : Nat) (g : Nat) (hk : Keep anc s)
    (hm : [.free, .dram, .flash, .media, .sessions, .faults, .log] ⊆ anc.touched := by exact List.Subset.trans (by decide) hm) : Keep anc
    (State.enterGroup s sess g) := by
  unfold State.enterGroup
  repeat' (first
      | with_reducible assumption | with_reducible exact List.Subset.trans (by decide) hm | with_reducible intro _ | extract_lets
      | with_reducible apply State.updRun_keep | with_reducible apply State.loadStream_keep | with_reducible apply Keep.ite
      | with_reducible apply Keep.foldl | split)

theorem State.readTensor_keep {s : State} (x : Session) (r : Run) (g : Nat) (i : Nat) (opened : Bool) (hk : Keep anc s)
    (hm : [.dram, .log] ⊆ anc.touched := by exact List.Subset.trans (by decide) hm) : Keep anc (State.readTensor s x r g i opened).2 := by
  unfold State.readTensor
  repeat' (first
      | with_reducible assumption | extract_lets | with_reducible apply State.readPlaced_keep | split)

theorem State.writeTensor_keep {s : State} (sess : Nat) (i : Nat) (b : Bytes) (ranges : List (Nat × Nat)) (hk : Keep anc s)
    (hm : [.free, .dram, .sessions, .log] ⊆ anc.touched := by exact List.Subset.trans (by decide) hm) : Keep anc (State.writeTensor s sess i b
    ranges).2 := by
  unfold State.writeTensor
  repeat' (first
      | with_reducible assumption | with_reducible exact List.Subset.trans (by decide) hm | with_reducible intro _ | extract_lets
      | with_reducible apply State.updRun_keep | with_reducible apply State.drawBytes_keep | with_reducible apply quotaWrite_keep
      | with_reducible apply Keep.ite | with_reducible apply Keep.foldl2 | with_reducible refine Keep.pair (by assumption) ?_ | split | dsimp only
      | dsimp +zetaDelta only)

theorem State.opEnv_keep {s : State} (x : Session) (r : Run) (o : OpRec) (hk : Keep anc s)
    (hm : [.dram, .flash, .media, .faults, .log] ⊆ anc.touched := by exact List.Subset.trans (by decide) hm) : Keep anc (State.opEnv s x r o).2 := by
  unfold State.opEnv
  repeat' (first
      | with_reducible assumption | with_reducible exact List.Subset.trans (by decide) hm | with_reducible intro _ | extract_lets
      | with_reducible apply State.readTensor_keep | with_reducible apply State.mapFault_keep | with_reducible apply State.health_keep
      | with_reducible apply Keep.ite | with_reducible apply Keep.foldl | with_reducible apply Keep.foldl2 | split)

theorem State.passDone_keep {s : State} (sess : Nat) (hk : Keep anc s) (hm : [.sessions] ⊆ anc.touched := by exact List.Subset.trans (by decide) hm) :
    Keep anc (State.passDone s sess) := by
  unfold State.passDone
  repeat' (first
      | with_reducible assumption | with_reducible apply State.updSess_keep)

theorem State.opDone_keep {s : State} (sess : Nat) (op : Nat) (hk : Keep anc s)
    (hm : [.sessions] ⊆ anc.touched := by exact List.Subset.trans (by decide) hm) : Keep anc (State.opDone s sess op) := by
  unfold State.opDone
  repeat' (first
      | with_reducible assumption | extract_lets | with_reducible apply State.updRun_keep | with_reducible apply State.passDone_keep
      | with_reducible apply Keep.ite | split)

theorem State.putResult_keep (sess : Nat) (op : Nat) (force : Bool) {s : State} (q : Nat × Res) (hk : Keep anc s)
    (hm : [.free, .dram, .sessions, .log] ⊆ anc.touched := by exact List.Subset.trans (by decide) hm) : Keep anc (State.putResult sess op force s q) := by
  unfold State.putResult
  repeat' (first
      | with_reducible assumption | with_reducible exact List.Subset.trans (by decide) hm | extract_lets | with_reducible apply State.updRun_keep
      | with_reducible apply State.writeTensor_keep | with_reducible apply State.faultRun_keep | with_reducible apply Keep.ite
      | with_reducible refine Keep.pair (by assumption) ?_ | split)

theorem State.putFree_keep (sess : Nat) (op : Nat) {s : State} (i : Nat) (hk : Keep anc s)
    (hm : [.free, .dram, .sessions, .log] ⊆ anc.touched := by exact List.Subset.trans (by decide) hm) : Keep anc (State.putFree sess op s i) := by
  unfold State.putFree
  repeat' (first
      | with_reducible assumption | with_reducible exact List.Subset.trans (by decide) hm | extract_lets | with_reducible apply State.updRun_keep
      | with_reducible apply State.drawBytes_keep | with_reducible apply State.putResult_keep | split)

theorem State.deliver_keep {s : State} (sess : Nat) (op : Nat) (out : OpOut) (hk : Keep anc s)
    (hm : [.free, .dram, .sessions, .log] ⊆ anc.touched := by exact List.Subset.trans (by decide) hm) : Keep anc (State.deliver s sess op out) := by
  unfold State.deliver
  repeat' (first
      | with_reducible assumption | with_reducible exact List.Subset.trans (by decide) hm | with_reducible intro _ | extract_lets
      | with_reducible apply State.putResult_keep | with_reducible apply State.flagRun_keep | with_reducible apply State.updRun_keep
      | with_reducible apply Keep.ite | with_reducible apply Keep.foldl)

theorem runOp_keep (code : Nat) (f : OpEnv → Option OpOut) (sess : Nat) (op : Nat) {s : State} (hk : Keep anc s)
    (hm : [.free, .dram, .flash, .media, .sessions, .faults, .log] ⊆ anc.touched := by exact List.Subset.trans (by decide) hm) : Keep anc (runOp code
    f sess op s) := by
  unfold runOp
  repeat' (first
      | with_reducible assumption | with_reducible exact List.Subset.trans (by decide) hm | with_reducible intro _ | extract_lets
      | with_reducible apply State.enterGroup_keep | with_reducible apply State.opEnv_keep | with_reducible apply State.faultRun_keep
      | with_reducible apply State.flagRun_keep | with_reducible apply State.opDone_keep | with_reducible apply State.deliver_keep
      | with_reducible apply State.putFree_keep | with_reducible apply Keep.ite | with_reducible apply Keep.foldl | split)

theorem opNsWrite_keep (sess : Nat) (op : Nat) {s : State} (hk : Keep anc s)
    (hm : [.free, .dram, .flash, .media, .queues, .sessions, .faults, .completions, .log] ⊆ anc.touched := by exact List.Subset.trans (by decide) hm)
    : Keep anc (opNsWrite sess op s) := by
  unfold opNsWrite
  repeat' (first
      | with_reducible assumption | with_reducible exact List.Subset.trans (by decide) hm | extract_lets | with_reducible apply State.enterGroup_keep
      | with_reducible apply State.opDone_keep | with_reducible apply State.checkFull_keep | with_reducible apply State.faultRun_keep
      | with_reducible apply State.opEnv_keep | with_reducible apply State.flagRun_keep | with_reducible apply State.updRun_keep
      | with_reducible apply State.drawBytes_keep | with_reducible apply Keep.ite | split)

theorem stagedWriteEnterBuffer_keep (sess : Nat) {s : State} (hk : Keep anc s)
    (hm : [.media, .sessions, .log] ⊆ anc.touched := by exact List.Subset.trans (by decide) hm) : Keep anc (stagedWriteEnterBuffer sess s) := by
  unfold stagedWriteEnterBuffer
  repeat' (first
      | with_reducible assumption | with_reducible exact List.Subset.trans (by decide) hm | extract_lets | with_reducible apply State.updRun_keep
      | with_reducible apply State.bufferWrite_keep | with_reducible apply Keep.ite | split)

theorem State.freeItems_keep {s : State} (hk : Keep anc s) (hm : [.free] ⊆ anc.touched := by exact List.Subset.trans (by decide) hm) : Keep anc
    (State.freeItems s).2 := by
  unfold State.freeItems
  repeat' (first
      | with_reducible assumption | extract_lets | with_reducible apply State.drawNat_keep | with_reducible apply State.drawBytes_keep)

theorem sendAnswers_keep (coach handle flags n first : Nat) (items : List Item) {s : State} (hk : Keep anc s) (hm : [.fabric] ⊆ anc.touched := by exact List.Subset.trans (by decide) hm) :
    Keep anc (sendAnswers coach handle flags n first items s) := by
  induction n generalizing first items s with
  | zero => exact hk
  | succ n ih =>
    unfold sendAnswers
    have h := Keep.getD (State.sendCarriage_keep coach 286 (s.roleStamp coach) 7 0 0 0 0 false (decide (items.length ≤ 15))
      (answerPayload handle first flags (items.take 15)) hk) hk
    exact Keep.ite h (ih _ _ h)

theorem State.handItems_keep {s : State} (teams : List Nat) (k : Nat) (flags : Nat) (items : List Item) (hk : Keep anc s)
    (hm : [.fabric] ⊆ anc.touched := by exact List.Subset.trans (by decide) hm) : Keep anc (State.handItems s teams k flags items).2 := by
  unfold State.handItems
  repeat' (first
      | with_reducible assumption | with_reducible apply sendAnswers_keep | split)

theorem emitNow_keep (sess : Nat) (op : Nat) {s : State} (hk : Keep anc s)
    (hm : [.free, .fabric, .dram, .flash, .media, .sessions, .answers, .faults, .log] ⊆ anc.touched := by exact List.Subset.trans (by decide) hm) :
    Keep anc (emitNow sess op s) := by
  unfold emitNow
  repeat' (first
      | with_reducible assumption | with_reducible exact List.Subset.trans (by decide) hm | extract_lets | with_reducible apply State.opEnv_keep
      | with_reducible apply State.faultRun_keep | with_reducible apply State.flagRun_keep | with_reducible apply State.opDone_keep
      | with_reducible apply State.drawNat_keep | with_reducible apply State.freeItems_keep | with_reducible apply State.updRun_keep
      | with_reducible apply State.handItems_keep | with_reducible apply Keep.ite
      | (fail_if_no_progress (with_reducible refine Keep.upd ?_ ?_ ?_ ?_ ?_ ?_ ?_ ?_ ?_ ?_) <;> try with_reducible first | rfl | exact fun h => h)
      | with_reducible refine Keep.pair (by assumption) ?_ | split)

theorem opEmit_keep (sess : Nat) (op : Nat) {s : State} (hk : Keep anc s)
    (hm : [.free, .fabric, .dram, .flash, .media, .sessions, .answers, .faults, .log] ⊆ anc.touched := by exact List.Subset.trans (by decide) hm) :
    Keep anc (opEmit sess op s) := by
  unfold opEmit
  repeat' (first
      | with_reducible assumption | with_reducible exact List.Subset.trans (by decide) hm | extract_lets | with_reducible apply State.enterGroup_keep
      | with_reducible apply emitNow_keep | with_reducible apply Keep.ite | split)

theorem State.emitDeadline_keep {s : State} (hk : Keep anc s) (hm : [.sessions] ⊆ anc.touched := by exact List.Subset.trans (by decide) hm) : Keep anc
    (State.emitDeadline s) := by
  unfold State.emitDeadline
  repeat' (first
      | with_reducible assumption | with_reducible intro _ | extract_lets | with_reducible apply State.faultRun_keep | with_reducible apply Keep.ite
      | with_reducible apply Keep.foldl | split)

theorem emitResume_keep (sess : Nat) {s : State} (hk : Keep anc s)
    (hm : [.free, .fabric, .dram, .flash, .media, .sessions, .answers, .faults, .log] ⊆ anc.touched := by exact List.Subset.trans (by decide) hm) :
    Keep anc (emitResume sess s) := by
  unfold emitResume
  repeat' (first
      | with_reducible assumption | with_reducible exact List.Subset.trans (by decide) hm | extract_lets | with_reducible apply emitNow_keep
      | with_reducible apply State.updRun_keep | with_reducible apply Keep.ite | split)

end Sys2Proof.Machine
end

