-- ==== Sys2Proof/Laws/KeepBinds.lean ====
section
/-! SUPPORT. What the operations of Machine/Binds.lean keep (Laws/Keep.lean). -/

namespace Sys2Proof.Machine

set_option Elab.async false

open Sys2Proof.Safety

set_option linter.unusedTactic false
set_option linter.unreachableTactic false

variable {anc : KeepCtx}

theorem State.takeImage_keep {s : State} (tag : Tag) (sess : Nat) (handle : Nat) (image : Bytes) (source : Option (Nat × Nat × Nat)) (hk : Keep anc s)
    (hm : [.sessions, .completions] ⊆ anc.touched := by exact List.Subset.trans (by decide) hm) : Keep anc (State.takeImage s tag sess handle image
    source) := by
  unfold State.takeImage
  repeat' (first
      | with_reducible assumption | with_reducible exact List.Subset.trans (by decide) hm | extract_lets | with_reducible apply State.updSess_keep
      | with_reducible apply State.refuse_keep | with_reducible apply State.succeed_keep | with_reducible apply Keep.ite | split)

theorem routeLoad_keep (tag : Tag) (sess : Nat) (handle : Nat) (first : Bool) (offset : Nat) (piece : Bytes) {s : State} (hk : Keep anc s)
    (hm : [.sessions, .completions] ⊆ anc.touched := by exact List.Subset.trans (by decide) hm) : Keep anc (routeLoad tag sess handle first offset
    piece s) := by
  unfold routeLoad
  repeat' (first
      | with_reducible assumption | with_reducible exact List.Subset.trans (by decide) hm | with_reducible intro _ | extract_lets
      | with_reducible apply State.command_keep | with_reducible apply State.sessCommand_keep | with_reducible apply State.fail_keep
      | with_reducible apply State.refuse_keep | with_reducible apply State.updSess_keep | with_reducible apply State.takeImage_keep
      | with_reducible apply State.succeed_keep | with_reducible apply Keep.ite | split)

theorem State.readImage_keep {s : State} (n : Ns) (lba : Nat) (blocks : Nat) (hk : Keep anc s)
    (hm : [.flash, .media, .faults, .log] ⊆ anc.touched := by exact List.Subset.trans (by decide) hm) : Keep anc (State.readImage s n lba blocks).2 := by
  unfold State.readImage
  repeat' (first
      | with_reducible assumption | extract_lets | with_reducible apply readSpan_keep | with_reducible refine Keep.pair (by assumption) ?_ | split)

theorem routeLoadExtent_keep (tag : Tag) (sess : Nat) (handle : Nat) (nsid : Nat) (lba : Nat) (blocks : Nat) {s : State} (hk : Keep anc s)
    (hm : [.flash, .media, .sessions, .faults, .completions, .log] ⊆ anc.touched := by exact List.Subset.trans (by decide) hm) : Keep anc
    (routeLoadExtent tag sess handle nsid lba blocks s) := by
  unfold routeLoadExtent
  repeat' (first
      | with_reducible assumption | with_reducible exact List.Subset.trans (by decide) hm | with_reducible intro _ | extract_lets
      | with_reducible apply State.command_keep | with_reducible apply State.sessCommand_keep | with_reducible apply State.fail_keep
      | with_reducible apply State.refuse_keep | with_reducible apply State.updSess_keep | with_reducible apply State.readImage_keep
      | with_reducible apply State.takeImage_keep | with_reducible apply Keep.ite | with_reducible refine Keep.pair (by assumption) ?_ | split)

theorem State.notePeaks_keep {s : State} (t : Timetable) (hk : Keep anc s) (hm : [.faults] ⊆ anc.touched := by exact List.Subset.trans (by decide) hm)
    : Keep anc (State.notePeaks s t) := by
  unfold State.notePeaks
  repeat' (first
      | with_reducible assumption | extract_lets | with_reducible apply State.tt_keep)

theorem State.addBind_keep {s : State} (sess : Nat) (w : BindFor) (again : Bool := false) (hk : Keep anc s)
    (hm : [.sessions] ⊆ anc.touched := by exact List.Subset.trans (by decide) hm) : Keep anc (State.addBind s sess w again) := by
  unfold State.addBind
  repeat' (first
      | with_reducible assumption | extract_lets
      | (fail_if_no_progress (with_reducible refine Keep.upd ?_ ?_ ?_ ?_ ?_ ?_ ?_ ?_ ?_ ?_) <;> try with_reducible first | rfl | exact fun h => h))

theorem State.startRun_keep {s : State} (sess : Nat) (r : Run) (hk : Keep anc s)
    (hm : [.sessions, .faults] ⊆ anc.touched := by exact List.Subset.trans (by decide) hm) : Keep anc (State.startRun s sess r) := by
  unfold State.startRun
  repeat' (first
      | with_reducible assumption | with_reducible exact List.Subset.trans (by decide) hm | extract_lets | with_reducible apply State.updSess_keep
      | with_reducible apply State.addBind_keep | with_reducible apply State.tt_keep | with_reducible apply State.notePeaks_keep
      | with_reducible apply Keep.ite
      | (fail_if_no_progress (with_reducible refine Keep.upd ?_ ?_ ?_ ?_ ?_ ?_ ?_ ?_ ?_ ?_) <;> try with_reducible first | rfl | exact fun h => h)
      | split)

theorem State.nextRun_keep {s : State} (sess : Nat) (hk : Keep anc s)
    (hm : [.sessions, .faults] ⊆ anc.touched := by exact List.Subset.trans (by decide) hm) : Keep anc (State.nextRun s sess) := by
  unfold State.nextRun
  repeat' (first
      | with_reducible assumption | with_reducible exact List.Subset.trans (by decide) hm | extract_lets | with_reducible apply State.updSess_keep
      | with_reducible apply State.startRun_keep | split)

theorem State.dropRun_keep {s : State} (sess : Nat) (hk : Keep anc s)
    (hm : [.sessions, .faults] ⊆ anc.touched := by exact List.Subset.trans (by decide) hm) : Keep anc (State.dropRun s sess) := by
  unfold State.dropRun
  repeat' (first
      | with_reducible assumption | with_reducible exact List.Subset.trans (by decide) hm | extract_lets | with_reducible apply State.freeSlots_keep
      | with_reducible apply State.updSess_keep | with_reducible apply State.nextRun_keep | with_reducible apply Keep.ite
      | (fail_if_no_progress (with_reducible refine Keep.upd ?_ ?_ ?_ ?_ ?_ ?_ ?_ ?_ ?_ ?_) <;> try with_reducible first | rfl | exact fun h => h)
      | split)

theorem State.openStaging_keep {s : State} (sess : Nat) (r : Run) (hk : Keep anc s)
    (hm : [.free, .media, .sessions, .log] ⊆ anc.touched := by exact List.Subset.trans (by decide) hm) : Keep anc (State.openStaging s sess r) := by
  unfold State.openStaging
  repeat' (first
      | with_reducible assumption | with_reducible exact List.Subset.trans (by decide) hm | with_reducible intro _ | extract_lets
      | with_reducible apply State.drawNat_keep | with_reducible apply State.drawBytes_keep | with_reducible apply State.bufferWrite_keep
      | with_reducible apply Keep.ite | with_reducible apply Keep.foldl)

theorem State.openResults_keep {s : State} (x : Session) (r : Run) (hk : Keep anc s)
    (hm : [.free, .dram, .media, .sessions, .log] ⊆ anc.touched := by exact List.Subset.trans (by decide) hm) : Keep anc (State.openResults s x r) := by
  unfold State.openResults
  repeat' (first
      | with_reducible assumption | with_reducible exact List.Subset.trans (by decide) hm | with_reducible intro _ | extract_lets
      | with_reducible apply State.drawBytes_keep | with_reducible apply quotaWrite_keep | with_reducible apply State.openStaging_keep
      | with_reducible apply Keep.ite | with_reducible apply Keep.foldl | split)

theorem State.endRun_keep {s : State} (sess : Nat) (hk : Keep anc s)
    (hm : [.free, .dram, .media, .sessions, .faults, .completions, .log] ⊆ anc.touched := by exact List.Subset.trans (by decide) hm) : Keep anc
    (State.endRun s sess) := by
  unfold State.endRun
  repeat' (first
      | with_reducible assumption | with_reducible exact List.Subset.trans (by decide) hm | extract_lets | with_reducible apply State.openResults_keep
      | with_reducible apply State.hold_keep | with_reducible apply State.nextCycle_keep | with_reducible apply State.succeed_keep
      | with_reducible apply State.completeWith_keep | with_reducible apply State.dropRun_keep | with_reducible apply Keep.ite | split)

theorem State.endFaulted_keep {s : State} (hk : Keep anc s)
    (hm : [.free, .dram, .media, .sessions, .faults, .completions, .log] ⊆ anc.touched := by exact List.Subset.trans (by decide) hm) : Keep anc
    (State.endFaulted s) := by
  unfold State.endFaulted
  repeat' (first
      | with_reducible assumption | with_reducible intro _ | extract_lets | with_reducible apply State.endRun_keep | with_reducible apply Keep.foldl)

theorem runComplete_keep (sess : Nat) {s : State} (hk : Keep anc s)
    (hm : [.free, .dram, .media, .sessions, .faults, .completions, .log] ⊆ anc.touched := by exact List.Subset.trans (by decide) hm) : Keep anc
    (runComplete sess s) := by
  unfold runComplete
  repeat' (first
      | with_reducible assumption | extract_lets | with_reducible apply State.endRun_keep | with_reducible apply Keep.ite | split)

theorem run_keep (tag : Tag) (sess : Nat) (handle : Nat) (block : Bytes) {s : State} (hk : Keep anc s)
    (hm : [.sessions, .faults, .completions] ⊆ anc.touched := by exact List.Subset.trans (by decide) hm) : Keep anc (run tag sess handle block s) := by
  unfold run
  repeat' (first
      | with_reducible assumption | with_reducible exact List.Subset.trans (by decide) hm | with_reducible intro _ | extract_lets
      | with_reducible apply State.command_keep | with_reducible apply State.sessCommand_keep | with_reducible apply State.fail_keep
      | with_reducible apply State.refuse_keep | with_reducible apply State.updSess_keep | with_reducible apply State.nextRun_keep
      | with_reducible apply Keep.ite | split)

theorem State.dropBind_keep {s : State} (id : Nat) (hk : Keep anc s) (hm : [.sessions] ⊆ anc.touched := by exact List.Subset.trans (by decide) hm) :
    Keep anc (State.dropBind s id) := by
  unfold State.dropBind
  repeat' (first
      | with_reducible assumption | extract_lets
      | (fail_if_no_progress (with_reducible refine Keep.upd ?_ ?_ ?_ ?_ ?_ ?_ ?_ ?_ ?_ ?_) <;> try with_reducible first | rfl | exact fun h => h))

theorem State.endBind_keep {s : State} (b : Bind) (x : Session) (st : Status) (dw0 : Nat) (hk : Keep anc s)
    (hm : [.sessions, .faults, .completions] ⊆ anc.touched := by exact List.Subset.trans (by decide) hm) : Keep anc (State.endBind s b x st dw0) := by
  unfold State.endBind
  repeat' (first
      | with_reducible assumption | with_reducible exact List.Subset.trans (by decide) hm | with_reducible intro _ | extract_lets
      | with_reducible apply State.hold_keep | with_reducible apply State.completeWith_keep | with_reducible apply State.dropRun_keep
      | with_reducible apply State.dropBind_keep | with_reducible apply State.updSess_keep | with_reducible apply State.addBind_keep
      | with_reducible apply Keep.ite | with_reducible apply Keep.foldl | split)

theorem State.refuseBind_keep {s : State} (b : Bind) (x : Session) (reason : Nat) (hk : Keep anc s)
    (hm : [.sessions, .faults, .completions] ⊆ anc.touched := by exact List.Subset.trans (by decide) hm) : Keep anc (State.refuseBind s b x reason) := by
  unfold State.refuseBind
  repeat' (first
      | with_reducible assumption | with_reducible exact List.Subset.trans (by decide) hm | extract_lets | with_reducible apply State.tt_keep
      | with_reducible apply State.endBind_keep)

theorem State.rereadImage_keep {s : State} (x : Session) (hk : Keep anc s)
    (hm : [.flash, .media, .sessions, .faults, .log] ⊆ anc.touched := by exact List.Subset.trans (by decide) hm) : Keep anc (State.rereadImage s x) := by
  unfold State.rereadImage
  repeat' (first
      | with_reducible assumption | with_reducible exact List.Subset.trans (by decide) hm | extract_lets | with_reducible apply State.readImage_keep
      | with_reducible apply State.updSess_keep | with_reducible apply Keep.ite | with_reducible refine Keep.pair (by assumption) ?_ | split)

theorem bind_keep (id : Nat) {s : State} (hk : Keep anc s)
    (hm : [.flash, .media, .sessions, .faults, .completions, .log] ⊆ anc.touched := by exact List.Subset.trans (by decide) hm) : Keep anc (bind id s) := by
  unfold bind
  repeat' (first
      | with_reducible assumption | with_reducible exact List.Subset.trans (by decide) hm | extract_lets | with_reducible apply State.refuseBind_keep
      | with_reducible apply State.rereadImage_keep | with_reducible apply Keep.ite
      | (fail_if_no_progress (with_reducible refine Keep.upd ?_ ?_ ?_ ?_ ?_ ?_ ?_ ?_ ?_ ?_) <;> try with_reducible first | rfl | exact fun h => h)
      | split)

theorem bindWaitExpiry_keep (id : Nat) {s : State} (hk : Keep anc s)
    (hm : [.sessions, .faults, .completions] ⊆ anc.touched := by exact List.Subset.trans (by decide) hm) : Keep anc (bindWaitExpiry id s) := by
  unfold bindWaitExpiry
  repeat' (first
      | with_reducible assumption | extract_lets | with_reducible apply State.refuseBind_keep | with_reducible apply Keep.ite | split)

theorem State.countBind_keep {s : State} (b : Bind) (again : Bool) (t : Timetable) (hk : Keep anc s)
    (hm : [.faults] ⊆ anc.touched := by exact List.Subset.trans (by decide) hm) : Keep anc (State.countBind s b again t) := by
  unfold State.countBind
  repeat' (first
      | with_reducible assumption | extract_lets | with_reducible apply State.tt_keep | with_reducible apply State.notePeaks_keep)

theorem bindComplete_keep (id : Nat) (e : BindEnd) {s : State} (hk : Keep anc s)
    (hm : [.sessions, .faults, .completions] ⊆ anc.touched := by exact List.Subset.trans (by decide) hm) : Keep anc (bindComplete id e s) := by
  unfold bindComplete
  repeat' (first
      | with_reducible assumption | with_reducible exact List.Subset.trans (by decide) hm | extract_lets | with_reducible apply State.endBind_keep
      | with_reducible apply State.refuseBind_keep | with_reducible apply State.countBind_keep | with_reducible apply State.dropBind_keep
      | with_reducible apply State.updSess_keep | with_reducible apply Keep.ite
      | (fail_if_no_progress (with_reducible refine Keep.upd ?_ ?_ ?_ ?_ ?_ ?_ ?_ ?_ ?_ ?_) <;> try with_reducible first | rfl | exact fun h => h)
      | split)

theorem State.missBlock_keep {s : State} (sess : Nat) (kind : Nat) (tensor : Nat) (block : Nat) (pass : Nat) (hk : Keep anc s)
    (hm : [.sessions, .faults] ⊆ anc.touched := by exact List.Subset.trans (by decide) hm) : Keep anc (State.missBlock s sess kind tensor block pass) := by
  unfold State.missBlock
  repeat' (first
      | with_reducible assumption | with_reducible exact List.Subset.trans (by decide) hm | extract_lets | with_reducible apply State.health_keep
      | with_reducible apply State.faultHere_keep | with_reducible apply State.flagRun_keep | with_reducible apply State.updRun_keep
      | with_reducible apply Keep.ite | split)

theorem State.updWalk_keep {s : State} (sess : Nat) (coach : Nat) (ctx : Nat) (f : Walk → Walk) (hk : Keep anc s)
    (hm : [.sessions] ⊆ anc.touched := by exact List.Subset.trans (by decide) hm) : Keep anc (State.updWalk s sess coach ctx f) := by
  unfold State.updWalk
  repeat' (first
      | with_reducible assumption | with_reducible apply State.updSess_keep)

theorem State.haltStalled_keep {s : State} (coach : Nat) (ctx : Nat) (stalls : Bool) (hk : Keep anc s)
    (hm : [.coaches] ⊆ anc.touched := by exact List.Subset.trans (by decide) hm) : Keep anc (State.haltStalled s coach ctx stalls) := by
  unfold State.haltStalled
  repeat' (first
      | with_reducible assumption | extract_lets | with_reducible apply State.setCtx_keep | with_reducible apply Keep.ite)

theorem State.missHere_keep {s : State} (sess : Nat) (kind : Nat) (tensor : Nat) (block : Nat) (hk : Keep anc s)
    (hm : [.sessions, .faults] ⊆ anc.touched := by exact List.Subset.trans (by decide) hm) : Keep anc (State.missHere s sess kind tensor block) := by
  unfold State.missHere
  repeat' (first
      | with_reducible assumption | with_reducible apply State.missBlock_keep)

theorem waitLapse_keep (coach : Nat) (ctx : Nat) (m : Miss) {s : State} (hk : Keep anc s)
    (hm : [.coaches, .fabric, .sessions, .faults] ⊆ anc.touched := by exact List.Subset.trans (by decide) hm) : Keep anc (waitLapse coach ctx m s) := by
  unfold waitLapse
  repeat' (first
      | with_reducible assumption | with_reducible exact List.Subset.trans (by decide) hm | extract_lets
      | with_reducible apply State.reissueReads_keep | with_reducible apply State.setCtx_keep | with_reducible apply State.health_keep
      | with_reducible apply State.updWalk_keep | with_reducible apply State.haltStalled_keep | with_reducible apply State.missHere_keep
      | with_reducible apply State.faultHere_keep | with_reducible apply Keep.ite
      | (fail_if_no_progress (with_reducible refine Keep.upd ?_ ?_ ?_ ?_ ?_ ?_ ?_ ?_ ?_ ?_) <;> try with_reducible first | rfl | exact fun h => h)
      | split)

end Sys2Proof.Machine
end

