-- ==== Sys2Proof/Laws/KeepRelease.lean ====
section
/-! SUPPORT. What the operations of Machine/Release.lean keep (Laws/Keep.lean). -/

namespace Sys2Proof.Machine

set_option Elab.async false

open Sys2Proof.Safety

set_option linter.unusedTactic false
set_option linter.unreachableTactic false

variable {anc : KeepCtx}

theorem State.reservedSense_keep {s : State} (w : CwAddr) (hk : Keep anc s)
    (hm : [.flash, .media] ⊆ anc.touched := by exact List.Subset.trans (by decide) hm) : Keep anc (State.reservedSense s w) := by
  unfold State.reservedSense
  repeat' (first
      | with_reducible assumption | extract_lets | with_reducible apply State.issueSense_keep | with_reducible apply Keep.ite)

theorem State.deliverSeats_keep {s : State} (w : CwAddr) (dest : Nat) (tag : Nat) (role : Nat) (src : Nat) (hk : Keep anc s)
    (hm : [.coaches, .fabric, .sessions] ⊆ anc.touched := by exact List.Subset.trans (by decide) hm) : Keep anc (State.deliverSeats s w dest tag role
    src) := by
  unfold State.deliverSeats
  repeat' (first
      | with_reducible assumption | with_reducible intro _ | extract_lets | with_reducible apply State.reply_keep | with_reducible apply Keep.foldl)

theorem State.gatherSeat_keep {s : State} (w : CwAddr) (g : Nat × Nat × Nat × Nat × Nat) (hk : Keep anc s)
    (hm : [.flash, .sessions, .faults] ⊆ anc.touched := by exact List.Subset.trans (by decide) hm) : Keep anc (State.gatherSeat s w g) := by
  unfold State.gatherSeat
  repeat' (first
      | with_reducible assumption | with_reducible exact List.Subset.trans (by decide) hm | extract_lets | with_reducible apply State.tt_keep
      | with_reducible apply State.updRun_keep | with_reducible apply State.recover_keep | with_reducible apply State.health_keep
      | with_reducible apply State.faultRun_keep | with_reducible apply Keep.ite | split | dsimp +zetaDelta only)

theorem State.seatOpenRead_keep {s : State} (o : OpenRead) (hk : Keep anc s)
    (hm : [.coaches, .fabric, .flash, .sessions, .faults] ⊆ anc.touched := by exact List.Subset.trans (by decide) hm) : Keep anc (State.seatOpenRead s
    o) := by
  unfold State.seatOpenRead
  repeat' (first
      | with_reducible assumption | with_reducible exact List.Subset.trans (by decide) hm | extract_lets | with_reducible apply State.gatherSeat_keep
      | with_reducible apply State.deliverSeats_keep | with_reducible apply State.tt_keep | with_reducible apply State.reply_keep
      | with_reducible apply State.recover_keep | with_reducible apply Keep.ite | split)

theorem State.scanData_keep {s : State} (c : Scan) (word : Nat) (data : Option Bytes) (hk : Keep anc s)
    (hm : [.free] ⊆ anc.touched := by exact List.Subset.trans (by decide) hm) : Keep anc (State.scanData s c word data).2 := by
  unfold State.scanData
  repeat' (first
      | with_reducible assumption | with_reducible apply State.drawBytes_keep | split)

theorem State.scanSeat_keep {s : State} (d : Due) (w : CwAddr) (data : Option Bytes) (hk : Keep anc s)
    (hm : [.free, .sessions, .faults] ⊆ anc.touched := by exact List.Subset.trans (by decide) hm) : Keep anc (State.scanSeat s d w data) := by
  unfold State.scanSeat
  repeat' (first
      | with_reducible assumption | with_reducible exact List.Subset.trans (by decide) hm | extract_lets | with_reducible apply State.scanData_keep
      | with_reducible apply State.health_keep | with_reducible apply State.updSess_keep | with_reducible apply Keep.ite | split)

theorem State.runMiss_keep {s : State} (d : Due) (w : CwAddr) (hk : Keep anc s)
    (hm : [.sessions, .faults] ⊆ anc.touched := by exact List.Subset.trans (by decide) hm) : Keep anc (State.runMiss s d w) := by
  unfold State.runMiss
  repeat' (first
      | with_reducible assumption | with_reducible exact List.Subset.trans (by decide) hm | with_reducible intro _ | extract_lets
      | with_reducible apply State.health_keep | with_reducible apply State.faultRun_keep | with_reducible apply State.missBlock_keep
      | with_reducible apply Keep.foldl | split)

theorem State.seatFixed_keep (d : Due) {s : State} (w : CwAddr) (hk : Keep anc s)
    (hm : [.free, .flash, .sessions, .faults] ⊆ anc.touched := by exact List.Subset.trans (by decide) hm) : Keep anc (State.seatFixed d s w) := by
  unfold State.seatFixed
  repeat' (first
      | with_reducible assumption | with_reducible exact List.Subset.trans (by decide) hm | extract_lets | with_reducible apply State.tt_keep
      | with_reducible apply State.recover_keep | with_reducible apply State.runMiss_keep | with_reducible apply State.scanSeat_keep
      | with_reducible apply State.updRun_keep | with_reducible apply Keep.ite | split | dsimp +zetaDelta only)

theorem State.gatherFill_keep {s : State} (d : Due) (hk : Keep anc s)
    (hm : [.dram, .flash, .log] ⊆ anc.touched := by exact List.Subset.trans (by decide) hm) : Keep anc (State.gatherFill s d) := by
  unfold State.gatherFill
  repeat' (first
      | with_reducible assumption | extract_lets
      | (fail_if_no_progress (with_reducible refine Keep.upd ?_ ?_ ?_ ?_ ?_ ?_ ?_ ?_ ?_ ?_) <;> try with_reducible first | rfl | exact fun h => h)
      | split)

theorem State.releaseEntry_keep {s : State} (d : Due) (hk : Keep anc s)
    (hm : [.free, .dram, .flash, .media, .sessions, .faults, .completions, .log] ⊆ anc.touched := by exact List.Subset.trans (by decide) hm) : Keep
    anc (State.releaseEntry s d) := by
  unfold State.releaseEntry
  repeat' (first
      | with_reducible assumption | with_reducible exact List.Subset.trans (by decide) hm | with_reducible intro _ | extract_lets
      | with_reducible apply State.tt_keep | with_reducible apply State.reservedSense_keep | with_reducible apply State.seatFixed_keep
      | with_reducible apply State.fillProgram_keep | with_reducible apply State.gatherFill_keep | with_reducible apply Keep.ite
      | with_reducible apply Keep.foldl | split)

theorem State.releaseDue_keep {s : State} (due : List Due) (hk : Keep anc s)
    (hm : [.free, .dram, .flash, .media, .sessions, .faults, .completions, .log] ⊆ anc.touched := by exact List.Subset.trans (by decide) hm) : Keep
    anc (State.releaseDue s due) := by
  unfold State.releaseDue
  repeat' (first
      | with_reducible assumption | with_reducible intro _ | extract_lets | with_reducible apply State.releaseEntry_keep
      | with_reducible apply Keep.foldl)

theorem State.stallRuns_keep {s : State} (hk : Keep anc s) (hm : [.sessions] ⊆ anc.touched := by exact List.Subset.trans (by decide) hm) : Keep anc
    (State.stallRuns s) := by
  unfold State.stallRuns
  repeat' (first
      | with_reducible assumption | extract_lets
      | (fail_if_no_progress (with_reducible refine Keep.upd ?_ ?_ ?_ ?_ ?_ ?_ ?_ ?_ ?_ ?_) <;> try with_reducible first | rfl | exact fun h => h))

theorem State.releaseNow_keep {s : State} (due : List Due) (hk : Keep anc s)
    (hm : [.free, .dram, .flash, .media, .sessions, .faults, .completions, .log] ⊆ anc.touched := by exact List.Subset.trans (by decide) hm) : Keep
    anc (State.releaseNow s due) := by
  unfold State.releaseNow
  repeat' (first
      | with_reducible assumption | with_reducible exact List.Subset.trans (by decide) hm | extract_lets | with_reducible apply State.tt_keep
      | with_reducible apply State.releaseDue_keep | with_reducible apply Keep.ite)

theorem State.release_keep {s : State} (hk : Keep anc s)
    (hm : [.free, .coaches, .fabric, .dram, .flash, .media, .sessions, .faults, .completions, .log] ⊆ anc.touched := by exact List.Subset.trans (by decide) hm)
    : Keep anc (State.release s) := by
  unfold State.release
  repeat' (first
      | with_reducible assumption | with_reducible exact List.Subset.trans (by decide) hm | with_reducible intro _ | extract_lets
      | with_reducible apply State.stallRuns_keep | with_reducible apply State.seatOpenRead_keep | with_reducible apply State.tt_keep
      | with_reducible apply State.releaseNow_keep | with_reducible apply State.reservedSense_keep | with_reducible apply Keep.ite
      | (fail_if_no_progress (with_reducible refine Keep.upd ?_ ?_ ?_ ?_ ?_ ?_ ?_ ?_ ?_ ?_) <;> try with_reducible first | rfl | exact fun h => h)
      | with_reducible apply Keep.foldl | split)

theorem passStart_keep (sess : Nat) {s : State} (hk : Keep anc s) (hm : [.sessions] ⊆ anc.touched := by exact List.Subset.trans (by decide) hm) : Keep
    anc (passStart sess s) := by
  unfold passStart
  repeat' (first
      | with_reducible assumption | extract_lets | with_reducible apply State.updRun_keep | with_reducible apply State.freeSlots_keep
      | with_reducible apply State.addBind_keep | with_reducible apply Keep.ite | split)

theorem timetableResume_keep (sess : Nat) {s : State} (hk : Keep anc s)
    (hm : [.sessions, .faults] ⊆ anc.touched := by exact List.Subset.trans (by decide) hm) : Keep anc (timetableResume sess s) := by
  unfold timetableResume
  repeat' (first
      | with_reducible assumption | with_reducible exact List.Subset.trans (by decide) hm | with_reducible intro _ | extract_lets
      | with_reducible apply State.updSess_keep | with_reducible apply State.notePeaks_keep | with_reducible apply Keep.ite
      | with_reducible apply Keep.foldl | split)

end Sys2Proof.Machine
end

