-- ==== Sys2Proof/Laws/KeepSearch.lean ====
section
/-! SUPPORT. What the operations of Machine/Search.lean keep (Laws/Keep.lean). -/

namespace Sys2Proof.Machine

set_option Elab.async false

open Sys2Proof.Safety

set_option linter.unusedTactic false
set_option linter.unreachableTactic false

variable {anc : KeepCtx}

theorem query_keep (tag : Tag) (sess : Nat) (data : Bytes) {s : State} (hk : Keep anc s)
    (hm : [.sessions, .completions] ⊆ anc.touched := by exact List.Subset.trans (by decide) hm) : Keep anc (query tag sess data s) := by
  unfold query
  repeat' (first
      | with_reducible assumption | with_reducible exact List.Subset.trans (by decide) hm | with_reducible intro _ | extract_lets
      | with_reducible apply State.command_keep | with_reducible apply State.sessCommand_keep | with_reducible apply State.fail_keep
      | with_reducible apply State.refuse_keep | with_reducible apply State.updSess_keep | with_reducible apply State.addBind_keep
      | with_reducible apply Keep.ite
      | (fail_if_no_progress (with_reducible refine Keep.upd ?_ ?_ ?_ ?_ ?_ ?_ ?_ ?_ ?_ ?_) <;> try with_reducible first | rfl | exact fun h => h)
      | split)

theorem State.updQuery_keep {s : State} (sess : Nat) (id : Nat) (f : Query → Query) (hk : Keep anc s)
    (hm : [.sessions] ⊆ anc.touched := by exact List.Subset.trans (by decide) hm) : Keep anc (State.updQuery s sess id f) := by
  unfold State.updQuery
  repeat' (first
      | with_reducible assumption | with_reducible apply State.updSess_keep)

theorem State.startWalk_keep (id : Nat) (n : Ns) (g : Gen) {s : State} (p : Nat × Nat) (hk : Keep anc s)
    (hm : [.coaches, .sessions] ⊆ anc.touched := by exact List.Subset.trans (by decide) hm) : Keep anc (State.startWalk id n g s p) := by
  unfold State.startWalk
  repeat' (first
      | with_reducible assumption | with_reducible exact List.Subset.trans (by decide) hm | extract_lets | with_reducible apply State.setCtx_keep
      | with_reducible apply State.updQuery_keep | split)

theorem State.admitLocal_keep {s : State} (x : Session) (q : Query) (hk : Keep anc s)
    (hm : [.coaches, .sessions] ⊆ anc.touched := by exact List.Subset.trans (by decide) hm) : Keep anc (State.admitLocal s x q) := by
  unfold State.admitLocal
  repeat' (first
      | with_reducible assumption | with_reducible exact List.Subset.trans (by decide) hm | with_reducible intro _ | extract_lets
      | with_reducible apply State.updQuery_keep | with_reducible apply State.startWalk_keep | with_reducible apply Keep.ite
      | with_reducible apply Keep.foldl | split)

theorem State.forwardQuery_keep {s : State} (x : Session) (q : Query) (p : PeerSet) (hk : Keep anc s)
    (hm : [.port, .sessions] ⊆ anc.touched := by exact List.Subset.trans (by decide) hm) : Keep anc (State.forwardQuery s x q p) := by
  unfold State.forwardQuery
  repeat' (first
      | with_reducible assumption | with_reducible exact List.Subset.trans (by decide) hm | with_reducible intro _ | extract_lets
      | with_reducible apply State.send_keep | with_reducible apply State.updQuery_keep | with_reducible apply Keep.foldl)

theorem queryAdmit_keep (id : Nat) {s : State} (hk : Keep anc s)
    (hm : [.coaches, .port, .sessions] ⊆ anc.touched := by exact List.Subset.trans (by decide) hm) : Keep anc (queryAdmit id s) := by
  unfold queryAdmit
  repeat' (first
      | with_reducible assumption | with_reducible exact List.Subset.trans (by decide) hm | extract_lets
      | with_reducible apply State.forwardQuery_keep | with_reducible apply State.admitLocal_keep | with_reducible apply Keep.ite | split)

theorem State.dropTrees_keep {s : State} (id : Nat) (hk : Keep anc s) (hm : [.answers] ⊆ anc.touched := by exact List.Subset.trans (by decide) hm) :
    Keep anc (State.dropTrees s id) := by
  unfold State.dropTrees
  repeat' (first
      | with_reducible assumption | extract_lets
      | (fail_if_no_progress (with_reducible refine Keep.upd ?_ ?_ ?_ ?_ ?_ ?_ ?_ ?_ ?_ ?_) <;> try with_reducible first | rfl | exact fun h => h))

theorem State.clearSaved_keep {s : State} (x : Session) (place : Nat) (ctx : Nat) (hk : Keep anc s)
    (hm : [.dram, .sessions, .log] ⊆ anc.touched := by exact List.Subset.trans (by decide) hm) : Keep anc (State.clearSaved s x place ctx) := by
  unfold State.clearSaved
  repeat' (first
      | with_reducible assumption | with_reducible exact List.Subset.trans (by decide) hm | with_reducible intro _ | extract_lets
      | with_reducible apply dramWrite_keep | with_reducible apply State.updSess_keep | with_reducible apply Keep.foldl | split)

theorem State.clearCtx_keep {s : State} (sess : Nat) (coach : Nat) (ctx : Nat) (hk : Keep anc s)
    (hm : [.coaches, .dram, .sessions, .log] ⊆ anc.touched := by exact List.Subset.trans (by decide) hm) : Keep anc (State.clearCtx s sess coach ctx) := by
  unfold State.clearCtx
  repeat' (first
      | with_reducible assumption | with_reducible exact List.Subset.trans (by decide) hm | extract_lets | with_reducible apply State.setCtx_keep
      | with_reducible apply State.clearSaved_keep | with_reducible apply Keep.ite | split)

theorem State.dropQuery_keep {s : State} (sess : Nat) (id : Nat) (hk : Keep anc s)
    (hm : [.coaches, .dram, .port, .sessions, .answers, .log] ⊆ anc.touched := by exact List.Subset.trans (by decide) hm) : Keep anc (State.dropQuery
    s sess id) := by
  unfold State.dropQuery
  repeat' (first
      | with_reducible assumption | with_reducible exact List.Subset.trans (by decide) hm | with_reducible intro _ | extract_lets
      | with_reducible apply State.clearCtx_keep | with_reducible apply State.dropTrees_keep | with_reducible apply State.updSess_keep
      | with_reducible apply State.closePeers_keep | with_reducible apply Keep.ite | with_reducible apply Keep.foldl | split)

theorem State.abortQuery_keep (reason : Nat) {s : State} (p : Session × Query) (hk : Keep anc s)
    (hm : [.coaches, .dram, .port, .sessions, .answers, .completions, .log] ⊆ anc.touched := by exact List.Subset.trans (by decide) hm) : Keep anc
    (State.abortQuery reason s p) := by
  unfold State.abortQuery
  repeat' (first
      | with_reducible assumption | with_reducible exact List.Subset.trans (by decide) hm | extract_lets
      | with_reducible apply State.completeWith_keep | with_reducible apply State.dropQuery_keep)

theorem State.missQuery_keep {s : State} (p : Session × Query) (hk : Keep anc s)
    (hm : [.coaches, .dram, .port, .sessions, .answers, .completions, .log] ⊆ anc.touched := by exact List.Subset.trans (by decide) hm) : Keep anc
    (State.missQuery s p) := by
  unfold State.missQuery
  repeat' (first
      | with_reducible assumption | with_reducible exact List.Subset.trans (by decide) hm | extract_lets | with_reducible apply State.fail_keep
      | with_reducible apply State.dropQuery_keep)

theorem State.queryDone_keep {s : State} (id : Nat) (hk : Keep anc s)
    (hm : [.coaches, .dram, .port, .sessions, .answers, .completions, .log] ⊆ anc.touched := by exact List.Subset.trans (by decide) hm) : Keep anc
    (State.queryDone s id) := by
  unfold State.queryDone
  repeat' (first
      | with_reducible assumption | with_reducible exact List.Subset.trans (by decide) hm | extract_lets | with_reducible apply State.succeed_keep
      | with_reducible apply State.dropQuery_keep | with_reducible apply Keep.ite | split)

theorem State.answerWalk_keep {s : State} (x : Session) (q : Query) (v : Nat) (w : Walk) (items : List Item) (hk : Keep anc s)
    (hm : [.coaches, .fabric, .sessions, .answers] ⊆ anc.touched := by exact List.Subset.trans (by decide) hm) : Keep anc (State.answerWalk s x q v w
    items) := by
  unfold State.answerWalk
  repeat' (first
      | with_reducible assumption | with_reducible exact List.Subset.trans (by decide) hm | extract_lets | with_reducible apply haltContext_keep
      | with_reducible apply sendAnswers_keep | with_reducible apply State.updQuery_keep | with_reducible apply State.setCtx_keep
      | with_reducible apply Keep.ite
      | (fail_if_no_progress (with_reducible refine Keep.upd ?_ ?_ ?_ ?_ ?_ ?_ ?_ ?_ ?_ ?_) <;> try with_reducible first | rfl | exact fun h => h)
      | split)

theorem State.walkStep_keep {s : State} (coach : Nat) (ctx : Nat) (f : Session → Query → Nat → Walk → Ns → Gen → State → State) (hk : Keep anc s)
    (hm : [] ⊆ anc.touched := by exact List.Subset.trans (by decide) hm) (hf : ∀ x0 x1 x2 x3 x4 x5 t, Keep anc t → Keep anc (f x0 x1 x2 x3 x4 x5 t)) :
    Keep anc (State.walkStep s coach ctx f) := by
  unfold State.walkStep
  repeat' (first
      | with_reducible assumption | with_reducible apply hf | split)

theorem State.issue_keep {s : State} (coach : Nat) (ctx : Nat) (i : Issue) (hk : Keep anc s)
    (hm : [.coaches, .fabric, .dram, .port, .sessions, .answers, .faults, .completions, .log] ⊆ anc.touched := by exact List.Subset.trans (by decide) hm)
    : Keep anc (State.issue s coach ctx i) := by
  unfold State.issue
  repeat' (first
      | with_reducible assumption | with_reducible exact List.Subset.trans (by decide) hm | with_reducible intro _ | extract_lets
      | with_reducible apply State.setCtx_keep | with_reducible apply State.faultCoach_keep | with_reducible apply State.walkStep_keep
      | with_reducible apply State.health_keep | with_reducible apply State.updQuery_keep | with_reducible apply State.updWalk_keep
      | with_reducible apply State.missQuery_keep | with_reducible apply State.answerWalk_keep | with_reducible apply Keep.ite
      | (fail_if_no_progress (with_reducible refine Keep.upd ?_ ?_ ?_ ?_ ?_ ?_ ?_ ?_ ?_ ?_) <;> try with_reducible first | rfl | exact fun h => h)
      | split)

theorem sequencerIssue_keep (coach : Nat) (pc : Nat) (i : Issue) {s : State} (hk : Keep anc s)
    (hm : [.coaches, .fabric, .dram, .port, .sessions, .answers, .faults, .completions, .log] ⊆ anc.touched := by exact List.Subset.trans (by decide) hm)
    : Keep anc (sequencerIssue coach pc i s) := by
  unfold sequencerIssue
  repeat' (first
      | with_reducible assumption | with_reducible exact List.Subset.trans (by decide) hm | extract_lets | with_reducible apply State.setCtx_keep
      | with_reducible apply State.issue_keep | with_reducible apply Keep.ite
      | (fail_if_no_progress (with_reducible refine Keep.upd ?_ ?_ ?_ ?_ ?_ ?_ ?_ ?_ ?_ ?_) <;> try with_reducible first | rfl | exact fun h => h)
      | split)

theorem State.mergeVector_keep {s : State} (x : Session) (q : Query) (v : Nat) (hk : Keep anc s)
    (hm : [.answers] ⊆ anc.touched := by exact List.Subset.trans (by decide) hm) : Keep anc (State.mergeVector s x q v) := by
  unfold State.mergeVector
  repeat' (first
      | with_reducible assumption | extract_lets | with_reducible apply Keep.ite
      | (fail_if_no_progress (with_reducible refine Keep.upd ?_ ?_ ?_ ?_ ?_ ?_ ?_ ?_ ?_ ?_) <;> try with_reducible first | rfl | exact fun h => h)
      | split)

theorem State.mergeShards_keep {s : State} (id : Nat) (hk : Keep anc s) (hm : [.answers] ⊆ anc.touched := by exact List.Subset.trans (by decide) hm) :
    Keep anc (State.mergeShards s id) := by
  unfold State.mergeShards
  repeat' (first
      | with_reducible assumption | with_reducible intro _ | extract_lets | with_reducible apply State.mergeVector_keep
      | with_reducible apply Keep.ite | with_reducible apply Keep.foldl | split)

theorem State.mergeTick_keep {s : State} (hk : Keep anc s) (hm : [.answers] ⊆ anc.touched := by exact List.Subset.trans (by decide) hm) : Keep anc
    (State.mergeTick s) := by
  unfold State.mergeTick
  repeat' (first
      | with_reducible assumption | with_reducible intro _ | extract_lets | with_reducible apply State.mergeShards_keep
      | with_reducible apply Keep.foldl)

theorem State.localList_keep {s : State} (x : Session) (q : Query) (t : Tree) (v : Nat) (stamp : Nat) (hk : Keep anc s)
    (hm : [.sessions] ⊆ anc.touched := by exact List.Subset.trans (by decide) hm) : Keep anc (State.localList s x q t v stamp) := by
  unfold State.localList
  repeat' (first
      | with_reducible assumption | extract_lets | with_reducible apply State.updQuery_keep)

theorem State.walkRecord_keep {s : State} (sess : Nat) (id : Nat) (v : Nat) (r : Bytes) (hk : Keep anc s)
    (hm : [.sessions] ⊆ anc.touched := by exact List.Subset.trans (by decide) hm) : Keep anc (State.walkRecord s sess id v r) := by
  unfold State.walkRecord
  repeat' (first
      | with_reducible assumption | with_reducible apply State.updQuery_keep)

theorem State.dropTree_keep {s : State} (k : Nat) (hk : Keep anc s) (hm : [.answers] ⊆ anc.touched := by exact List.Subset.trans (by decide) hm) :
    Keep anc (State.dropTree s k) := by
  unfold State.dropTree
  repeat' (first
      | with_reducible assumption | extract_lets
      | (fail_if_no_progress (with_reducible refine Keep.upd ?_ ?_ ?_ ?_ ?_ ?_ ?_ ?_ ?_ ?_) <;> try with_reducible first | rfl | exact fun h => h))

theorem State.scanDone_keep {s : State} (x : Session) (id : Nat) (matches_ : Nat) (hk : Keep anc s)
    (hm : [.sessions, .completions] ⊆ anc.touched := by exact List.Subset.trans (by decide) hm) : Keep anc (State.scanDone s x id matches_) := by
  unfold State.scanDone
  repeat' (first
      | with_reducible assumption | with_reducible exact List.Subset.trans (by decide) hm | extract_lets | with_reducible apply State.freeSlots_keep
      | with_reducible apply State.succeed_keep | with_reducible apply State.updSess_keep | with_reducible apply Keep.ite | split)

theorem State.assemble_keep {s : State} (t : Tree) (hk : Keep anc s) (hm : [.answers] ⊆ anc.touched := by exact List.Subset.trans (by decide) hm) : KeepOpt anc ((s.assemble t).map Prod.snd) := by
  unfold State.assemble
  split
  · exact KeepOpt.mapSome hk
  · split
    · exact KeepOpt.mapNone
    · next c e =>
      have hc : c ≤ 12299 := by
        unfold State.recordCycle at e
        split at e
        · cases e; exact hk.2.1.1.2
        · simp only [Option.ite_none_right_eq_some, Option.some.injEq] at e
          exact e.2 ▸ e.1
      have h : Keep anc ({ s with stg := { s.stg with cycle := c } } : State) := by
        obtain ⟨ha, ⟨hs, ht, hk⟩, hp⟩ := hk
        exact ⟨ha, ⟨⟨hs.1, hc⟩, ht, hk⟩, Only.trans hp (Only.intro fun p _ => by cases p <;> rfl)⟩
      exact KeepOpt.mapSome (State.nextCycle_keep (h.upd rfl rfl rfl rfl rfl id rfl rfl rfl))

theorem answerRecordComplete_keep (k : Nat) {s : State} (hk : Keep anc s)
    (hm : [.coaches, .dram, .port, .sessions, .answers, .faults, .completions, .log] ⊆ anc.touched := by exact List.Subset.trans (by decide) hm) :
    Keep anc (answerRecordComplete k s) := by
  unfold answerRecordComplete
  repeat' (first
      | with_reducible assumption | with_reducible exact List.Subset.trans (by decide) hm | extract_lets | with_reducible apply State.assemble_keep
      | with_reducible apply State.dropTree_keep | with_reducible apply State.hold_keep | with_reducible apply State.scanDone_keep
      | with_reducible apply State.localList_keep | with_reducible apply quotaWrite_keep | with_reducible apply State.health_keep
      | with_reducible apply State.walkRecord_keep | with_reducible apply State.queryDone_keep | with_reducible apply Keep.ite
      | (fail_if_no_progress (with_reducible refine Keep.upd ?_ ?_ ?_ ?_ ?_ ?_ ?_ ?_ ?_ ?_) <;> try with_reducible first | rfl | exact fun h => h)
      | with_reducible refine Keep.optPair (by assumption) ?_ | split)

theorem peerAnswerFetch_keep (id : Nat) (member : Nat) (r : Option (List PeerList)) {s : State} (hk : Keep anc s)
    (hm : [.port, .sessions] ⊆ anc.touched := by exact List.Subset.trans (by decide) hm) : Keep anc (peerAnswerFetch id member r s) := by
  unfold peerAnswerFetch
  repeat' (first
      | with_reducible assumption | with_reducible exact List.Subset.trans (by decide) hm | extract_lets | with_reducible apply State.send_keep
      | with_reducible apply State.updQuery_keep | with_reducible apply Keep.ite | split | dsimp +zetaDelta only)

theorem peerWaitExpiry_keep (id : Nat) {s : State} (hk : Keep anc s)
    (hm : [.coaches, .dram, .port, .sessions, .answers, .faults, .completions, .log] ⊆ anc.touched := by exact List.Subset.trans (by decide) hm) :
    Keep anc (peerWaitExpiry id s) := by
  unfold peerWaitExpiry
  repeat' (first
      | with_reducible assumption | with_reducible exact List.Subset.trans (by decide) hm | extract_lets | with_reducible apply State.health_keep
      | with_reducible apply State.missQuery_keep | with_reducible apply State.updQuery_keep | with_reducible apply Keep.ite | split)

theorem State.reachPeer_keep (p : PeerSet) {s : State} (m : Peer × PeerReply) (hk : Keep anc s)
    (hm : [.port] ⊆ anc.touched := by exact List.Subset.trans (by decide) hm) : Keep anc (State.reachPeer p s m) := by
  unfold State.reachPeer
  repeat' (first
      | with_reducible assumption | extract_lets | with_reducible apply State.send_keep | with_reducible apply Keep.ite)

theorem peerSet_keep (tag : Tag) (b : Bytes) (replies : List PeerReply) {s : State} (hk : Keep anc s)
    (hm : [.port, .sessions, .completions] ⊆ anc.touched := by exact List.Subset.trans (by decide) hm) : Keep anc (peerSet tag b replies s) := by
  unfold peerSet
  repeat' (first
      | with_reducible assumption | with_reducible exact List.Subset.trans (by decide) hm | with_reducible intro _ | extract_lets
      | with_reducible apply State.command_keep | with_reducible apply State.fail_keep | with_reducible apply State.sessCommand_keep
      | with_reducible apply State.refuse_keep | with_reducible apply State.reachPeer_keep | with_reducible apply State.closePeers_keep
      | with_reducible apply State.updSess_keep | with_reducible apply State.succeed_keep | with_reducible apply Keep.ite
      | (fail_if_no_progress (with_reducible refine Keep.upd ?_ ?_ ?_ ?_ ?_ ?_ ?_ ?_ ?_ ?_) <;> try with_reducible first | rfl | exact fun h => h)
      | with_reducible apply Keep.foldl)

theorem peerConnectionLoss_keep (sess : Nat) (nsid : Nat) (member : Nat) {s : State} (hk : Keep anc s)
    (hm : [.sessions] ⊆ anc.touched := by exact List.Subset.trans (by decide) hm) : Keep anc (peerConnectionLoss sess nsid member s) := by
  unfold peerConnectionLoss
  repeat' (first
      | with_reducible assumption | extract_lets | with_reducible apply State.updSess_keep | with_reducible apply Keep.ite)

theorem peerKeepAliveSend_keep {s : State} (hk : Keep anc s) (hm : [.port] ⊆ anc.touched := by exact List.Subset.trans (by decide) hm) : Keep anc
    (peerKeepAliveSend s) := by
  unfold peerKeepAliveSend
  repeat' (first
      | with_reducible assumption | with_reducible intro _ | extract_lets | with_reducible apply State.send_keep | with_reducible apply Keep.ite
      | with_reducible apply Keep.foldl)

theorem State.closeBuild_keep {s : State} (hk : Keep anc s) (hm : [.media] ⊆ anc.touched := by exact List.Subset.trans (by decide) hm) : Keep anc
    (State.closeBuild s) := by
  unfold State.closeBuild
  repeat' (first
      | with_reducible assumption | with_reducible apply State.closeSb_keep | split)

theorem State.freeGen_keep {s : State} (nsid : Nat) (num : Nat) (hk : Keep anc s)
    (hm : [.namespaces] ⊆ anc.touched := by exact List.Subset.trans (by decide) hm) : Keep anc (State.freeGen s nsid num) := by
  unfold State.freeGen
  repeat' (first
      | with_reducible assumption | with_reducible apply State.updNs_keep)

theorem State.endBuild_keep {s : State} (nsid : Nat) (gen : Nat) (result : Nat) (items : Nat) (skipped : Nat) (hk : Keep anc s)
    (hm : [.namespaces, .sessions, .faults] ⊆ anc.touched := by exact List.Subset.trans (by decide) hm) : Keep anc (State.endBuild s nsid gen result
    items skipped) := by
  unfold State.endBuild
  repeat' (first
      | with_reducible assumption | with_reducible exact List.Subset.trans (by decide) hm | extract_lets | with_reducible apply State.freeGen_keep
      | with_reducible apply State.updSess_keep | with_reducible apply State.hold_keep | with_reducible apply State.nextCycle_keep
      | with_reducible apply Keep.ite
      | (fail_if_no_progress (with_reducible refine Keep.upd ?_ ?_ ?_ ?_ ?_ ?_ ?_ ?_ ?_ ?_) <;> try with_reducible first | rfl | exact fun h => h)
      | split)

theorem State.endBuilds_keep {s : State} (nsid : Nat) (result : Nat) (hk : Keep anc s)
    (hm : [.namespaces, .sessions, .faults] ⊆ anc.touched := by exact List.Subset.trans (by decide) hm) : Keep anc (State.endBuilds s nsid result) := by
  unfold State.endBuilds
  repeat' (first
      | with_reducible assumption | with_reducible intro _ | extract_lets | with_reducible apply State.endBuild_keep | with_reducible apply Keep.foldl)

theorem indexBuild_keep (tag : Tag) (sess : Nat) (nsid : Nat) (discard : Bool) {s : State} (hk : Keep anc s)
    (hm : [.namespaces, .sessions, .completions] ⊆ anc.touched := by exact List.Subset.trans (by decide) hm) : Keep anc (indexBuild tag sess nsid
    discard s) := by
  unfold indexBuild
  repeat' (first
      | with_reducible assumption | with_reducible exact List.Subset.trans (by decide) hm | with_reducible intro _ | extract_lets
      | with_reducible apply State.command_keep | with_reducible apply State.sessCommand_keep | with_reducible apply State.refuse_keep
      | with_reducible apply State.fail_keep | with_reducible apply State.updNs_keep | with_reducible apply State.updSess_keep
      | with_reducible apply State.addBind_keep | with_reducible apply State.succeed_keep | with_reducible apply Keep.ite | split)

theorem State.buildSpan_keep (dirty : Dirty) (n : Ns) (off : Nat) (len : Nat) {s : State} (hk : Keep anc s)
    (hm : [.free, .flash, .media, .faults, .log] ⊆ anc.touched := by exact List.Subset.trans (by decide) hm) : Keep anc (State.buildSpan dirty n off
    len s).2 := by
  unfold State.buildSpan
  repeat' (first
      | with_reducible assumption | with_reducible exact List.Subset.trans (by decide) hm | extract_lets | with_reducible apply readSpan_keep
      | with_reducible apply State.drawBytes_keep | with_reducible refine Keep.pair (by assumption) ?_ | split)

theorem State.readItem_keep (dirty : Dirty) (n : Ns) (p : Option (List GenItem) × State) (d : GraphNode) (hk : Keep anc p.2) (hm : [.free, .flash, .media, .faults, .log] ⊆ anc.touched := by exact List.Subset.trans (by decide) hm) :
    Keep anc (State.readItem dirty n p d).2 := by
  have h := State.buildSpan_keep dirty n (itemSpans n d.slot).2.2.1 (itemSpans n d.slot).2.2.2 (State.buildSpan_keep dirty n
    (itemSpans n d.slot).2.1.1 (itemSpans n d.slot).2.1.2 (State.buildSpan_keep dirty n (itemSpans n d.slot).1.1 (itemSpans n d.slot).1.2 hk))
  unfold State.readItem
  dsimp only
  split <;> exact h

theorem State.putCodeLayer_keep {s : State} (d : VecDesc) (g : Gen) (hk : Keep anc s)
    (hm : [.dram, .log] ⊆ anc.touched := by exact List.Subset.trans (by decide) hm) : Keep anc (State.putCodeLayer s d g) := by
  unfold State.putCodeLayer
  repeat' (first
      | with_reducible assumption | with_reducible apply quotaWrite_keep)

theorem State.writeLayers_keep {s : State} (n : Ns) (g : Gen) (hk : Keep anc s) (hm : [.flash, .media, .faults, .log] ⊆ anc.touched := by exact List.Subset.trans (by decide) hm) : Keep anc (State.writeLayers s n g).2 :=
  State.closeBuild_keep (State.firmwareWrite_keep _ _ _ _ hk)

theorem buildEnd_keep (nsid : Nat) (b : Built) {s : State} (hk : Keep anc s)
    (hm : [.free, .dram, .flash, .media, .namespaces, .sessions, .faults, .log] ⊆ anc.touched := by exact List.Subset.trans (by decide) hm) : Keep anc
    (buildEnd nsid b s) := by
  unfold buildEnd
  repeat' (first
      | with_reducible assumption | with_reducible exact List.Subset.trans (by decide) hm | with_reducible intro _ | extract_lets
      | with_reducible apply State.endBuild_keep | with_reducible apply State.readItem_keep | with_reducible apply State.putCodeLayer_keep
      | with_reducible apply State.closeBuild_keep | with_reducible apply State.writeLayers_keep | with_reducible apply State.updNs_keep
      | with_reducible apply Keep.ite | with_reducible apply Keep.foldl2 | with_reducible refine Keep.pair (by assumption) ?_ | split)

theorem indexSwitch_keep (tag : Tag) (sess : Nat) (nsid : Nat) {s : State} (hk : Keep anc s)
    (hm : [.namespaces, .completions] ⊆ anc.touched := by exact List.Subset.trans (by decide) hm) : Keep anc (indexSwitch tag sess nsid s) := by
  unfold indexSwitch
  repeat' (first
      | with_reducible assumption | with_reducible exact List.Subset.trans (by decide) hm | with_reducible intro _ | extract_lets
      | with_reducible apply State.command_keep | with_reducible apply State.sessCommand_keep | with_reducible apply State.refuse_keep
      | with_reducible apply State.updNs_keep | with_reducible apply Keep.ite | split)

theorem generationSwitch_keep (nsid : Nat) {s : State} (hk : Keep anc s)
    (hm : [.flash, .media, .namespaces, .faults, .completions, .log] ⊆ anc.touched := by exact List.Subset.trans (by decide) hm) : Keep anc
    (generationSwitch nsid s) := by
  unfold generationSwitch
  repeat' (first
      | with_reducible assumption | with_reducible exact List.Subset.trans (by decide) hm | extract_lets | with_reducible apply State.updNs_keep
      | with_reducible apply State.refuse_keep | with_reducible apply State.wantMark_keep | with_reducible apply Keep.ite
      | (fail_if_no_progress (with_reducible refine Keep.upd ?_ ?_ ?_ ?_ ?_ ?_ ?_ ?_ ?_ ?_) <;> try with_reducible first | rfl | exact fun h => h)
      | split)

theorem generationFree_keep (nsid : Nat) (num : Nat) {s : State} (hk : Keep anc s)
    (hm : [.namespaces] ⊆ anc.touched := by exact List.Subset.trans (by decide) hm) : Keep anc (generationFree nsid num s) := by
  unfold generationFree
  repeat' (first
      | with_reducible assumption | extract_lets | with_reducible apply State.freeGen_keep | with_reducible apply Keep.ite | split)

theorem codeLayerReload_keep (nsid : Nat) (num : Nat) {s : State} (hk : Keep anc s)
    (hm : [.dram, .flash, .media, .namespaces, .faults, .log] ⊆ anc.touched := by exact List.Subset.trans (by decide) hm) : Keep anc (codeLayerReload
    nsid num s) := by
  unfold codeLayerReload
  repeat' (first
      | with_reducible assumption | with_reducible exact List.Subset.trans (by decide) hm | with_reducible intro _ | extract_lets
      | with_reducible apply State.queueSense_keep | with_reducible apply State.freeSeats_keep | with_reducible apply State.putCodeLayer_keep
      | with_reducible apply State.updNs_keep | with_reducible apply Keep.ite | with_reducible apply Keep.foldl | split)

end Sys2Proof.Machine
end

