-- ==== Sys2Proof/Laws/KeepScans.lean ====
section
/-! SUPPORT. What the operations of Machine/Scans.lean keep (Laws/Keep.lean). -/

namespace Sys2Proof.Machine

set_option Elab.async false

open Sys2Proof.Safety

set_option linter.unusedTactic false
set_option linter.unreachableTactic false

variable {anc : KeepCtx}

theorem scan_keep (tag : Tag) (sess : Nat) (data : Bytes) {s : State} (hk : Keep anc s)
    (hm : [.sessions, .completions] ⊆ anc.touched := by exact List.Subset.trans (by decide) hm) : Keep anc (scan tag sess data s) := by
  unfold scan
  repeat' (first
      | with_reducible assumption | with_reducible exact List.Subset.trans (by decide) hm | with_reducible intro _ | extract_lets
      | with_reducible apply State.command_keep | with_reducible apply State.sessCommand_keep | with_reducible apply State.fail_keep
      | with_reducible apply State.refuse_keep | with_reducible apply State.updSess_keep | with_reducible apply State.addBind_keep
      | with_reducible apply Keep.ite
      | (fail_if_no_progress (with_reducible refine Keep.upd ?_ ?_ ?_ ?_ ?_ ?_ ?_ ?_ ?_ ?_) <;> try with_reducible first | rfl | exact fun h => h)
      | split)

theorem State.updScan_keep {s : State} (sess : Nat) (id : Nat) (f : Scan → Scan) (hk : Keep anc s)
    (hm : [.sessions] ⊆ anc.touched := by exact List.Subset.trans (by decide) hm) : Keep anc (State.updScan s sess id f) := by
  unfold State.updScan
  repeat' (first
      | with_reducible assumption | with_reducible apply State.updSess_keep)

theorem scanReread_keep (id : Nat) (word : Nat) (landed : Bool) {s : State} (hk : Keep anc s)
    (hm : [.free, .flash, .media, .sessions, .faults, .log] ⊆ anc.touched := by exact List.Subset.trans (by decide) hm) : Keep anc (scanReread id word
    landed s) := by
  unfold scanReread
  repeat' (first
      | with_reducible assumption | with_reducible exact List.Subset.trans (by decide) hm | extract_lets | with_reducible apply State.plainSense_keep
      | with_reducible apply State.updScan_keep | with_reducible apply State.scanData_keep | with_reducible apply State.mapFault_keep
      | with_reducible apply State.uncorrectable_keep | with_reducible apply Keep.ite | split)

theorem State.scanBlank_keep (n : Ns) (p : Scan × State) (word : Nat) (hk : Keep anc p.2) (hm : [.free] ⊆ anc.touched := by exact List.Subset.trans (by decide) hm) : Keep anc (State.scanBlank n p word).2 :=
  State.scanData_keep p.1 word (some (zeros 4096)) hk

theorem State.scanAnswer_keep {s : State} (x : Session) (c : Scan) (n : Ns) (k : Nat) (hk : Keep anc s)
    (hm : [.free, .fabric, .dram, .answers, .log] ⊆ anc.touched := by exact List.Subset.trans (by decide) hm) : Keep anc (State.scanAnswer s x c n k) := by
  unfold State.scanAnswer
  repeat' (first
      | with_reducible assumption | with_reducible exact List.Subset.trans (by decide) hm | with_reducible intro _ | extract_lets
      | with_reducible apply State.scanBlank_keep | with_reducible apply quotaWrite_keep | with_reducible apply State.handItems_keep
      | with_reducible apply Keep.ite
      | (fail_if_no_progress (with_reducible refine Keep.upd ?_ ?_ ?_ ?_ ?_ ?_ ?_ ?_ ?_ ?_) <;> try with_reducible first | rfl | exact fun h => h)
      | with_reducible apply Keep.foldl2)

theorem State.scanOpen_keep {s : State} (x : Session) (c : Scan) (k : Nat) (hk : Keep anc s)
    (hm : [.free, .dram, .answers, .log] ⊆ anc.touched := by exact List.Subset.trans (by decide) hm) : Keep anc (State.scanOpen s x c k) := by
  unfold State.scanOpen
  repeat' (first
      | with_reducible assumption | with_reducible exact List.Subset.trans (by decide) hm | extract_lets | with_reducible apply State.drawNat_keep
      | with_reducible apply State.freeItems_keep | with_reducible apply State.drawBytes_keep | with_reducible apply quotaWrite_keep
      | with_reducible apply Keep.ite
      | (fail_if_no_progress (with_reducible refine Keep.upd ?_ ?_ ?_ ?_ ?_ ?_ ?_ ?_ ?_ ?_) <;> try with_reducible first | rfl | exact fun h => h))

theorem scanComplete_keep (id : Nat) {s : State} (hk : Keep anc s)
    (hm : [.free, .fabric, .dram, .sessions, .answers, .log] ⊆ anc.touched := by exact List.Subset.trans (by decide) hm) : Keep anc (scanComplete id
    s) := by
  unfold scanComplete
  repeat' (first
      | with_reducible assumption | with_reducible exact List.Subset.trans (by decide) hm | extract_lets | with_reducible apply State.updScan_keep
      | with_reducible apply State.scanAnswer_keep | with_reducible apply State.scanOpen_keep | with_reducible apply Keep.ite | split)

theorem State.scanTick_keep {s : State} (hk : Keep anc s) (hm : [.sessions] ⊆ anc.touched := by exact List.Subset.trans (by decide) hm) : Keep anc
    (State.scanTick s) := by
  unfold State.scanTick
  repeat' (first
      | with_reducible assumption | with_reducible intro _ | extract_lets | with_reducible apply State.freeSlots_keep
      | with_reducible apply State.updScan_keep | with_reducible apply Keep.foldl)

theorem State.endScan_keep (st : Status) (dw0 : Nat) {s : State} (p : Session × Scan) (hk : Keep anc s)
    (hm : [.sessions, .answers, .completions] ⊆ anc.touched := by exact List.Subset.trans (by decide) hm) : Keep anc (State.endScan st dw0 s p) := by
  unfold State.endScan
  repeat' (first
      | with_reducible assumption | with_reducible exact List.Subset.trans (by decide) hm | extract_lets | with_reducible apply State.freeSlots_keep
      | with_reducible apply State.dropTrees_keep | with_reducible apply State.completeWith_keep | with_reducible apply State.updSess_keep
      | with_reducible apply Keep.ite
      | (fail_if_no_progress (with_reducible refine Keep.upd ?_ ?_ ?_ ?_ ?_ ?_ ?_ ?_ ?_ ?_) <;> try with_reducible first | rfl | exact fun h => h))

theorem State.abortScan_keep (reason : Nat) {s : State} (p : Session × Scan) (hk : Keep anc s)
    (hm : [.sessions, .answers, .completions] ⊆ anc.touched := by exact List.Subset.trans (by decide) hm) : Keep anc (State.abortScan reason s p) := by
  unfold State.abortScan
  repeat' (first
      | with_reducible assumption | with_reducible apply State.endScan_keep)

theorem fetch_keep (tag : Tag) (sess : Nat) (cls : Nat) (byId : Bool) (keep : Bool) (queryId : Nat) (after : Nat) (len : Nat) {s : State} (hk : Keep
    anc s) (hm : [.queues, .completions] ⊆ anc.touched := by exact List.Subset.trans (by decide) hm) : Keep anc (fetch tag sess cls byId keep queryId
    after len s) := by
  unfold fetch
  repeat' (first
      | with_reducible assumption | with_reducible exact List.Subset.trans (by decide) hm | with_reducible intro _ | extract_lets
      | with_reducible apply State.command_keep | with_reducible apply State.sessCommand_keep | with_reducible apply State.fail_keep
      | with_reducible apply State.completeWith_keep | with_reducible apply State.succeed_keep | with_reducible apply Keep.ite
      | (fail_if_no_progress (with_reducible refine Keep.upd ?_ ?_ ?_ ?_ ?_ ?_ ?_ ?_ ?_ ?_) <;> try with_reducible first | rfl | exact fun h => h)
      | split | dsimp +zetaDelta only)

end Sys2Proof.Machine
end

