-- ==== Sys2Proof/Laws/KeepSessions.lean ====
section
/-! SUPPORT. What the operations of Machine/Sessions.lean keep (Laws/Keep.lean). -/

namespace Sys2Proof.Machine

set_option Elab.async false

open Sys2Proof.Safety

set_option linter.unusedTactic false
set_option linter.unreachableTactic false

variable {anc : KeepCtx}

theorem State.openGate_keep {s : State} (tag : Tag) (major : Nat) (f : Ctrl → State → State) (hk : Keep anc s)
    (hm : [.completions] ⊆ anc.touched := by exact List.Subset.trans (by decide) hm) (hf : ∀ x0 t, Keep anc t → Keep anc (f x0 t)) : Keep anc
    (State.openGate s tag major f) := by
  unfold State.openGate
  repeat' (first
      | with_reducible assumption | with_reducible intro _ | extract_lets | with_reducible apply State.command_keep
      | with_reducible apply State.refuse_keep | with_reducible apply State.fail_keep | with_reducible apply Keep.ite | with_reducible apply hf)

theorem sessionOpen_keep (tag : Tag) (major : Nat) (data : Bytes) {s : State} (hk : Keep anc s)
    (hm : [.coaches, .dram, .sessions, .security, .completions, .log] ⊆ anc.touched := by exact List.Subset.trans (by decide) hm) : Keep anc
    (sessionOpen tag major data s) := by
  unfold sessionOpen
  repeat' (first
      | with_reducible assumption | with_reducible exact List.Subset.trans (by decide) hm | with_reducible rfl | with_reducible intro _ | extract_lets
      | with_reducible apply State.openGate_keep | with_reducible apply State.refuse_keep | with_reducible apply State.fail_keep
      | with_reducible apply State.placePart_keep | with_reducible apply State.drawKey_keep | with_reducible apply State.zeroRanges_keep
      | with_reducible apply State.sessEvent_keep | with_reducible apply Keep.ite
      | (fail_if_no_progress (with_reducible refine Keep.upd ?_ ?_ ?_ ?_ ?_ ?_ ?_ ?_ ?_ ?_) <;> try with_reducible first | rfl | exact fun h => h)
      | with_reducible refine Keep.optPair (by assumption) ?_ | with_reducible apply KeepOpt.mapFst | with_reducible apply KeepOpt.mapSome | split)

theorem sessionOpenReclaim_keep (tag : Tag) (major : Nat) (sess : Nat) (key : Nat) {s : State} (hk : Keep anc s)
    (hm : [.sessions, .completions, .log] ⊆ anc.touched := by exact List.Subset.trans (by decide) hm) : Keep anc (sessionOpenReclaim tag major sess
    key s) := by
  unfold sessionOpenReclaim
  repeat' (first
      | with_reducible assumption | with_reducible exact List.Subset.trans (by decide) hm | with_reducible intro _ | extract_lets
      | with_reducible apply State.openGate_keep | with_reducible apply State.refuse_keep | with_reducible apply State.updSess_keep
      | with_reducible apply State.sessEvent_keep | with_reducible apply State.succeed_keep | with_reducible apply Keep.ite | split)

theorem granuleZeroingComplete_keep (sess : Nat) {s : State} (hk : Keep anc s)
    (hm : [.sessions, .completions] ⊆ anc.touched := by exact List.Subset.trans (by decide) hm) : Keep anc (granuleZeroingComplete sess s) := by
  unfold granuleZeroingComplete
  repeat' (first
      | with_reducible assumption | with_reducible exact List.Subset.trans (by decide) hm | extract_lets | with_reducible apply State.updSess_keep
      | with_reducible apply State.endZeroing_keep | with_reducible apply Keep.ite | split)

theorem State.clearData_keep {s : State} (addr n : Nat) (hk : Keep anc s) (hm : [.dram] ⊆ anc.touched := by exact List.Subset.trans (by decide) hm) : Keep anc (State.clearData s addr n) :=
  hk.mem rfl rfl rfl fun h => ⟨h.1, Tab.wf_clear _ _ _ _ h.2.1, Tab.wf_clear _ _ _ _ h.2.2.1, h.2.2.2⟩

theorem State.writeRecord_keep {s : State} (x : Session) (place : Nat) (r : Table Byte) (hk : Keep anc s)
    (hm : [.dram, .log] ⊆ anc.touched := by exact List.Subset.trans (by decide) hm) : Keep anc (State.writeRecord s x place r) := by
  unfold State.writeRecord
  repeat' (first
      | with_reducible assumption | with_reducible exact List.Subset.trans (by decide) hm | with_reducible intro _ | extract_lets
      | with_reducible apply State.clearData_keep | with_reducible apply dramWrite_keep | with_reducible apply Keep.foldl)

theorem State.readRecord_keep (x : Session) (place : Nat) {s : State} (hk : Keep anc s)
    (hm : [.free, .dram, .log] ⊆ anc.touched := by exact List.Subset.trans (by decide) hm) : Keep anc (State.readRecord x place s).2 := by
  unfold State.readRecord
  repeat' (first
      | with_reducible assumption | with_reducible exact List.Subset.trans (by decide) hm | with_reducible intro _ | extract_lets
      | with_reducible apply dramRead_keep | with_reducible apply State.drawBytes_keep | with_reducible apply Keep.foldl2
      | with_reducible refine Keep.pair (by assumption) ?_ | split)

theorem State.saveRecords_keep {s : State} (x : Session) (ts : List Nat) (hk : Keep anc s)
    (hm : [.dram, .log] ⊆ anc.touched := by exact List.Subset.trans (by decide) hm) : Keep anc (State.saveRecords s x ts) := by
  unfold State.saveRecords
  repeat' (first
      | with_reducible assumption | with_reducible intro _ | extract_lets | with_reducible apply State.writeRecord_keep
      | with_reducible apply Keep.foldl)

theorem State.restoreRecords_keep {s : State} (x : Session) (ts : List Nat) (hk : Keep anc s) (hm : [.free, .coaches, .dram, .log] ⊆ anc.touched := by exact List.Subset.trans (by decide) hm) : Keep anc (State.restoreRecords s x ts) := by
  unfold State.restoreRecords
  refine hk.foldl fun s k h => ?_
  extract_lets c
  split
  · exact h
  · split
    next e => exact Coa.putRecord_keep _ _ (Keep.pair e (State.readRecord_keep x k h))

theorem State.replaceTeams_keep {s : State} (n teams : Nat) (hk : Keep anc s) (hm : [.coaches, .dram, .flash, .sessions] ⊆ anc.touched := by exact List.Subset.trans (by decide) hm) : KeepOpt anc (State.replaceTeams s n teams) := by
  unfold State.replaceTeams
  extract_lets t u
  have h : Keep anc u := State.updSess_keep _ _ (State.leavePart_keep _ hk)
  clear_value u
  split
  · exact KeepOpt.some h
  · exact KeepOpt.mapState (State.placePart_keep _ h) fun p h => State.updSess_keep _ _ h

/-- A fold that gathers what each step answers. -/
theorem gather_keep (f : Nat → State → Table Byte × State) (l : List Nat) {s : State} (hk : Keep anc s) (hm : [] ⊆ anc.touched := by exact List.Subset.trans (by decide) hm) (hf : ∀ k t, Keep anc t → Keep anc (f k t).2) :
    Keep anc (gather f l s).2 :=
  Keep.foldl2 (p := (_, s)) hk fun a k h => by
    split
    next e => exact Keep.pair e (hf k a.2 h)

theorem State.readSave_keep {s : State} (x : Session) (hk : Keep anc s) (hm : [.free, .dram, .log] ⊆ anc.touched := by exact List.Subset.trans (by decide) hm) : Keep anc (State.readSave s x).2 := by
  unfold State.readSave
  exact gather_keep _ _ hk (hf := fun k _ h => State.readRecord_keep x k h)

theorem State.writeSave_keep {s : State} (x : Session) (l : List (Nat × Table Byte)) (hk : Keep anc s)
    (hm : [.dram, .log] ⊆ anc.touched := by exact List.Subset.trans (by decide) hm) : Keep anc (State.writeSave s x l) := by
  unfold State.writeSave
  repeat' (first
      | with_reducible assumption | with_reducible intro _ | extract_lets | with_reducible apply State.writeRecord_keep
      | with_reducible apply Keep.foldl)

theorem State.moveSave_keep {s : State} (x : Session) (y : Session) (moved : Bool) (grown : List ((Nat × Nat × Nat) × Nat × Nat × Nat)) (hk : Keep anc
    s) (hm : [.free, .dram, .log] ⊆ anc.touched := by exact List.Subset.trans (by decide) hm) : Keep anc (State.moveSave s x y moved grown) := by
  unfold State.moveSave
  repeat' (first
      | with_reducible assumption | with_reducible exact List.Subset.trans (by decide) hm | with_reducible intro _ | extract_lets
      | with_reducible apply State.readSave_keep | with_reducible apply State.writeSave_keep | with_reducible apply State.zeroSlots_keep
      | with_reducible apply Keep.foldl | split | dsimp +zetaDelta only)

theorem State.takeQuota_keep {s : State} (x : Session) (tag : Tag) (q : Quota) (hk : Keep anc s)
    (hm : [.free, .coaches, .dram, .flash, .sessions, .completions, .log] ⊆ anc.touched := by exact List.Subset.trans (by decide) hm) : Keep anc
    (State.takeQuota s x tag q) := by
  unfold State.takeQuota
  repeat' (first
      | with_reducible assumption | with_reducible exact List.Subset.trans (by decide) hm | extract_lets
      | with_reducible apply State.replaceTeams_keep | with_reducible apply State.refuse_keep | with_reducible apply State.moveSave_keep
      | with_reducible apply State.updSess_keep | with_reducible apply State.setWindows_keep | with_reducible apply State.addBind_keep
      | with_reducible apply State.succeed_keep | with_reducible apply Keep.ite | with_reducible refine Keep.opt (by assumption) ?_
      | with_reducible apply KeepOpt.some | split | dsimp +zetaDelta only)

theorem quotaSet_keep (tag : Tag) (sess : Nat) (data : Bytes) {s : State} (hk : Keep anc s)
    (hm : [.free, .coaches, .dram, .flash, .sessions, .completions, .log] ⊆ anc.touched := by exact List.Subset.trans (by decide) hm) : Keep anc
    (quotaSet tag sess data s) := by
  unfold quotaSet
  repeat' (first
      | with_reducible assumption | with_reducible exact List.Subset.trans (by decide) hm | with_reducible intro _ | extract_lets
      | with_reducible apply State.command_keep | with_reducible apply State.sessCommand_keep | with_reducible apply State.fail_keep
      | with_reducible apply State.refuse_keep | with_reducible apply State.updSess_keep | with_reducible apply State.takeQuota_keep
      | with_reducible apply Keep.ite | split)

theorem quotaSetTeamsReplace_keep (sess : Nat) {s : State} (hk : Keep anc s)
    (hm : [.free, .coaches, .dram, .flash, .sessions, .completions, .log] ⊆ anc.touched := by exact List.Subset.trans (by decide) hm) : Keep anc
    (quotaSetTeamsReplace sess s) := by
  unfold quotaSetTeamsReplace
  repeat' (first
      | with_reducible assumption | with_reducible exact List.Subset.trans (by decide) hm | extract_lets | with_reducible apply State.updSess_keep
      | with_reducible apply State.refuse_keep | with_reducible apply State.takeQuota_keep | with_reducible apply Keep.ite | split)

theorem State.enterClosing_keep {s : State} (x : Session) (tag : Tag) (mode : Nat) (hk : Keep anc s)
    (hm : [.sessions, .completions] ⊆ anc.touched := by exact List.Subset.trans (by decide) hm) : Keep anc (State.enterClosing s x tag mode) := by
  unfold State.enterClosing
  repeat' (first
      | with_reducible assumption | with_reducible exact List.Subset.trans (by decide) hm | extract_lets
      | with_reducible apply State.abortQuotaWait_keep | with_reducible apply State.updSess_keep)

theorem State.abortWork_keep {s : State} (n : Nat) (reason : Nat) (hk : Keep anc s)
    (hm : [.coaches, .dram, .port, .namespaces, .sessions, .answers, .faults, .completions, .log] ⊆ anc.touched := by exact List.Subset.trans (by decide) hm)
    : Keep anc (State.abortWork s n reason) := by
  unfold State.abortWork
  repeat' (first
      | with_reducible assumption | with_reducible exact List.Subset.trans (by decide) hm | with_reducible intro _ | extract_lets
      | with_reducible apply State.completeWith_keep | with_reducible apply State.updSess_keep | with_reducible apply State.faultRun_keep
      | with_reducible apply State.abortQuery_keep | with_reducible apply State.abortScan_keep | with_reducible apply State.endBuild_keep
      | (fail_if_no_progress (with_reducible refine Keep.upd ?_ ?_ ?_ ?_ ?_ ?_ ?_ ?_ ?_ ?_) <;> try with_reducible first | rfl | exact fun h => h)
      | with_reducible apply Keep.foldl | split)

theorem sessionCloseDrain_keep (tag : Tag) (sess : Nat) {s : State} (hk : Keep anc s)
    (hm : [.sessions, .completions] ⊆ anc.touched := by exact List.Subset.trans (by decide) hm) : Keep anc (sessionCloseDrain tag sess s) := by
  unfold sessionCloseDrain
  repeat' (first
      | with_reducible assumption | with_reducible exact List.Subset.trans (by decide) hm | with_reducible intro _ | extract_lets
      | with_reducible apply State.command_keep | with_reducible apply State.sessCommand_keep | with_reducible apply State.enterClosing_keep)

theorem sessionCloseAbort_keep (tag : Tag) (sess : Nat) {s : State} (hk : Keep anc s)
    (hm : [.coaches, .dram, .port, .namespaces, .sessions, .answers, .faults, .completions, .log] ⊆ anc.touched := by exact List.Subset.trans (by decide) hm)
    : Keep anc (sessionCloseAbort tag sess s) := by
  unfold sessionCloseAbort
  repeat' (first
      | with_reducible assumption | with_reducible exact List.Subset.trans (by decide) hm | with_reducible intro _ | extract_lets
      | with_reducible apply State.command_keep | with_reducible apply State.sessCommand_keep | with_reducible apply State.enterClosing_keep
      | with_reducible apply State.abortWork_keep)

theorem sessionFree_keep (sess : Nat) {s : State} (hk : Keep anc s)
    (hm : [.coaches, .dram, .flash, .port, .sessions, .answers, .completions, .log] ⊆ anc.touched := by exact List.Subset.trans (by decide) hm) : Keep
    anc (sessionFree sess s) := by
  unfold sessionFree
  repeat' (first
      | with_reducible assumption | extract_lets | with_reducible apply freeSession_keep | with_reducible apply Keep.ite | split)

theorem State.orphan_keep {s : State} (x : Session) (hk : Keep anc s)
    (hm : [.sessions, .answers, .completions, .log] ⊆ anc.touched := by exact List.Subset.trans (by decide) hm) : Keep anc (State.orphan s x) := by
  unfold State.orphan
  repeat' (first
      | with_reducible assumption | with_reducible exact List.Subset.trans (by decide) hm | with_reducible intro _ | extract_lets
      | with_reducible apply State.abortScan_keep | with_reducible apply State.updSess_keep | with_reducible apply State.sessEvent_keep
      | with_reducible apply Keep.ite
      | (fail_if_no_progress (with_reducible refine Keep.upd ?_ ?_ ?_ ?_ ?_ ?_ ?_ ?_ ?_ ?_) <;> try with_reducible first | rfl | exact fun h => h)
      | with_reducible apply Keep.foldl)

theorem State.startWindows_keep {s : State} (hk : Keep anc s) (hm : [.sessions] ⊆ anc.touched := by exact List.Subset.trans (by decide) hm) : Keep anc
    (State.startWindows s) := by
  unfold State.startWindows
  repeat' (first
      | with_reducible assumption | extract_lets
      | (fail_if_no_progress (with_reducible refine Keep.upd ?_ ?_ ?_ ?_ ?_ ?_ ?_ ?_ ?_ ?_) <;> try with_reducible first | rfl | exact fun h => h))

theorem reclaimWindowExpiry_keep (sess : Nat) {s : State} (hk : Keep anc s)
    (hm : [.coaches, .dram, .flash, .port, .namespaces, .sessions, .answers, .faults, .completions, .log] ⊆ anc.touched := by exact List.Subset.trans (by decide) hm)
    : Keep anc (reclaimWindowExpiry sess s) := by
  unfold reclaimWindowExpiry
  repeat' (first
      | with_reducible assumption | with_reducible exact List.Subset.trans (by decide) hm | extract_lets | with_reducible apply freeSession_keep
      | with_reducible apply State.abortWork_keep | with_reducible apply Keep.ite | split)

theorem sliceEnd_keep (part : Nat) {s : State} (hk : Keep anc s) (hm : [.sessions] ⊆ anc.touched := by exact List.Subset.trans (by decide) hm) : Keep
    anc (sliceEnd part s) := by
  unfold sliceEnd
  repeat' (first
      | with_reducible assumption | extract_lets | with_reducible apply State.updPart_keep | with_reducible apply Keep.ite | split)

theorem State.beginSwitch_keep {s : State} (p : Partition) (debt : Nat) (hk : Keep anc s)
    (hm : [.sessions] ⊆ anc.touched := by exact List.Subset.trans (by decide) hm) : Keep anc (State.beginSwitch s p debt) := by
  unfold State.beginSwitch
  repeat' (first
      | with_reducible assumption | extract_lets | with_reducible apply State.updPart_keep | with_reducible apply State.updSess_keep | split
      | dsimp +zetaDelta only)

theorem partitionSwitch_keep (part : Nat) {s : State} (hk : Keep anc s) (hm : [.sessions] ⊆ anc.touched := by exact List.Subset.trans (by decide) hm)
    : Keep anc (partitionSwitch part s) := by
  unfold partitionSwitch
  repeat' (first
      | with_reducible assumption | extract_lets | with_reducible apply State.beginSwitch_keep | with_reducible apply Keep.ite | split)

theorem switchDeferLimit_keep (part : Nat) {s : State} (hk : Keep anc s) (hm : [.sessions] ⊆ anc.touched := by exact List.Subset.trans (by decide) hm)
    : Keep anc (switchDeferLimit part s) := by
  unfold switchDeferLimit
  repeat' (first
      | with_reducible assumption | extract_lets | with_reducible apply State.beginSwitch_keep | with_reducible apply Keep.ite | split)

theorem State.saveOut_keep {s : State} (p : Partition) (hk : Keep anc s)
    (hm : [.coaches, .dram, .sessions, .log] ⊆ anc.touched := by exact List.Subset.trans (by decide) hm) : Keep anc (State.saveOut s p) := by
  unfold State.saveOut
  repeat' (first
      | with_reducible assumption | with_reducible exact List.Subset.trans (by decide) hm | extract_lets | with_reducible apply State.writeRoles_keep
      | with_reducible apply State.saveRecords_keep | with_reducible apply State.updSess_keep | with_reducible apply Keep.ite | split)

theorem State.startSwitch_keep {s : State} (p : Partition) (hk : Keep anc s)
    (hm : [.sessions] ⊆ anc.touched := by exact List.Subset.trans (by decide) hm) : Keep anc (State.startSwitch s p) := by
  unfold State.startSwitch
  repeat' (first
      | with_reducible assumption | extract_lets | with_reducible apply State.updSess_keep | with_reducible apply State.updPart_keep
      | with_reducible apply Keep.ite | split | dsimp +zetaDelta only)

theorem State.restoreIn_keep {s : State} (p : Partition) (next : Nat) (hk : Keep anc s)
    (hm : [.free, .coaches, .dram, .sessions, .log] ⊆ anc.touched := by exact List.Subset.trans (by decide) hm) : Keep anc (State.restoreIn s p next) := by
  unfold State.restoreIn
  repeat' (first
      | with_reducible assumption | with_reducible exact List.Subset.trans (by decide) hm | extract_lets
      | with_reducible apply State.restoreRecords_keep | with_reducible apply State.updPart_keep
      | (fail_if_no_progress (with_reducible refine Keep.upd ?_ ?_ ?_ ?_ ?_ ?_ ?_ ?_ ?_ ?_) <;> try with_reducible first | rfl | exact fun h => h)
      | exact Eq.refl _ | split)

theorem switchRestoreComplete_keep (part : Nat) {s : State} (hk : Keep anc s)
    (hm : [.free, .coaches, .dram, .sessions, .log] ⊆ anc.touched := by exact List.Subset.trans (by decide) hm) : Keep anc (switchRestoreComplete part
    s) := by
  unfold switchRestoreComplete
  repeat' (first
      | with_reducible assumption | extract_lets | with_reducible apply State.restoreIn_keep | with_reducible apply Keep.ite | split)

theorem State.boundRestore_keep {s : State} (p : Partition) (hk : Keep anc s)
    (hm : [.free, .coaches, .dram, .sessions, .log] ⊆ anc.touched := by exact List.Subset.trans (by decide) hm) : Keep anc (State.boundRestore s p) := by
  unfold State.boundRestore
  repeat' (first
      | with_reducible assumption | extract_lets | with_reducible apply State.restoreIn_keep | with_reducible apply Keep.ite | split)

theorem State.startHolder_keep {s : State} (p : Partition) (hk : Keep anc s)
    (hm : [.coaches, .fabric, .dram, .sessions] ⊆ anc.touched := by exact List.Subset.trans (by decide) hm) : Keep anc (State.startHolder s p) := by
  unfold State.startHolder
  repeat' (first
      | with_reducible assumption | with_reducible exact List.Subset.trans (by decide) hm | extract_lets | with_reducible apply State.updPart_keep
      | with_reducible apply State.updSess_keep | with_reducible apply State.setWindows_keep | with_reducible apply State.reissueReads_keep | split)

theorem State.countSlice_keep {s : State} (p : Partition) (hk : Keep anc s)
    (hm : [.sessions] ⊆ anc.touched := by exact List.Subset.trans (by decide) hm) : Keep anc (State.countSlice s p) := by
  unfold State.countSlice
  repeat' (first
      | with_reducible assumption | extract_lets | with_reducible apply State.updPart_keep | with_reducible apply Keep.ite)

theorem State.partitionsTick_keep (ran : Bool) {s : State} (hk : Keep anc s)
    (hm : [.free, .coaches, .fabric, .dram, .sessions, .log] ⊆ anc.touched := by exact List.Subset.trans (by decide) hm) : Keep anc
    (State.partitionsTick ran s) := by
  unfold State.partitionsTick
  repeat' (first
      | with_reducible assumption | with_reducible exact List.Subset.trans (by decide) hm | with_reducible intro _ | extract_lets
      | with_reducible apply State.countSlice_keep | with_reducible apply State.startSwitch_keep | with_reducible apply State.saveOut_keep
      | with_reducible apply State.boundRestore_keep | with_reducible apply State.startHolder_keep | with_reducible apply Keep.ite
      | with_reducible apply Keep.foldl)

end Sys2Proof.Machine
end

