-- ==== Sys2Proof/Laws/KeepPort.lean ====
section
/-! SUPPORT. What the operations of Machine/Port.lean keep (Laws/Keep.lean). -/

namespace Sys2Proof.Machine

set_option Elab.async false

open Sys2Proof.Safety

set_option linter.unusedTactic false
set_option linter.unreachableTactic false

variable {anc : KeepCtx}

theorem State.setWidth_keep {s : State} (width : Nat) (base : Nat) (hk : Keep anc s)
    (hm : [.stage, .port] ⊆ anc.touched := by exact List.Subset.trans (by decide) hm) : Keep anc (State.setWidth s width base) := by
  unfold State.setWidth
  repeat' (first
      | with_reducible assumption | extract_lets
      | (fail_if_no_progress (with_reducible refine Keep.upd ?_ ?_ ?_ ?_ ?_ ?_ ?_ ?_ ?_ ?_) <;> try with_reducible first | rfl | exact fun h => h))

theorem linkTrain_keep (locked : List Nat) {s : State} (hk : Keep anc s)
    (hm : [.stage, .port] ⊆ anc.touched := by exact List.Subset.trans (by decide) hm) : Keep anc (linkTrain locked s) := by
  unfold linkTrain
  repeat' (first
      | with_reducible assumption | extract_lets | with_reducible apply State.setWidth_keep | with_reducible apply Keep.ite
      | (fail_if_no_progress (with_reducible refine Keep.upd ?_ ?_ ?_ ?_ ?_ ?_ ?_ ?_ ?_ ?_) <;> try with_reducible first | rfl | exact fun h => h)
      | split)

theorem linkWidthTimeout_keep {s : State} (hk : Keep anc s) (hm : [.port] ⊆ anc.touched := by exact List.Subset.trans (by decide) hm) : Keep anc
    (linkWidthTimeout s) := by
  unfold linkWidthTimeout
  repeat' (first
      | with_reducible assumption | extract_lets | with_reducible apply Keep.ite
      | (fail_if_no_progress (with_reducible refine Keep.upd ?_ ?_ ?_ ?_ ?_ ?_ ?_ ?_ ?_ ?_) <;> try with_reducible first | rfl | exact fun h => h))

theorem State.linkDown_keep {s : State} (hk : Keep anc s) (hm : [.stage, .port] ⊆ anc.touched := by exact List.Subset.trans (by decide) hm) : Keep anc
    (State.linkDown s) := by
  unfold State.linkDown
  repeat' (first
      | with_reducible assumption | extract_lets | with_reducible apply State.setWidth_keep
      | (fail_if_no_progress (with_reducible refine Keep.upd ?_ ?_ ?_ ?_ ?_ ?_ ?_ ?_ ?_ ?_) <;> try with_reducible first | rfl | exact fun h => h))

theorem linkLoss_keep {s : State} (hk : Keep anc s) (hm : [.stage, .port] ⊆ anc.touched := by exact List.Subset.trans (by decide) hm) : Keep anc
    (linkLoss s) := by
  unfold linkLoss
  repeat' (first
      | with_reducible assumption | extract_lets | with_reducible apply State.linkDown_keep | with_reducible apply Keep.ite)

theorem pluggableInsert_keep (watts : Nat) {s : State} (hk : Keep anc s) (hm : [.port] ⊆ anc.touched := by exact List.Subset.trans (by decide) hm) :
    Keep anc (pluggableInsert watts s) := by
  unfold pluggableInsert
  repeat' (first
      | with_reducible assumption | extract_lets | with_reducible apply Keep.ite
      | (fail_if_no_progress (with_reducible refine Keep.upd ?_ ?_ ?_ ?_ ?_ ?_ ?_ ?_ ?_ ?_) <;> try with_reducible first | rfl | exact fun h => h))

theorem pluggableRemove_keep {s : State} (hk : Keep anc s) (hm : [.stage, .port] ⊆ anc.touched := by exact List.Subset.trans (by decide) hm) : Keep
    anc (pluggableRemove s) := by
  unfold pluggableRemove
  repeat' (first
      | with_reducible assumption | extract_lets | with_reducible apply State.linkDown_keep | with_reducible apply Keep.ite
      | (fail_if_no_progress (with_reducible refine Keep.upd ?_ ?_ ?_ ?_ ?_ ?_ ?_ ?_ ?_ ?_) <;> try with_reducible first | rfl | exact fun h => h))

theorem arpRequest_keep (target : Nat) (sender : Nat) {s : State} (hk : Keep anc s)
    (hm : [.port] ⊆ anc.touched := by exact List.Subset.trans (by decide) hm) : Keep anc (arpRequest target sender s) := by
  unfold arpRequest
  repeat' (first
      | with_reducible assumption | extract_lets | with_reducible apply State.send_keep | with_reducible apply Keep.ite)

theorem neighbourDiscovery_keep (target : Nat) (sender : Nat) {s : State} (hk : Keep anc s)
    (hm : [.port] ⊆ anc.touched := by exact List.Subset.trans (by decide) hm) : Keep anc (neighbourDiscovery target sender s) := by
  unfold neighbourDiscovery
  repeat' (first
      | with_reducible assumption | extract_lets | with_reducible apply State.send_keep | with_reducible apply Keep.ite)

theorem icmpEcho_keep (v6 : Bool) (dest : Nat) (sender : Nat) (payload : Bytes) {s : State} (hk : Keep anc s)
    (hm : [.port] ⊆ anc.touched := by exact List.Subset.trans (by decide) hm) : Keep anc (icmpEcho v6 dest sender payload s) := by
  unfold icmpEcho
  repeat' (first
      | with_reducible assumption | extract_lets | with_reducible apply State.send_keep | with_reducible apply Keep.ite)

theorem frameDrop_keep (_len : Nat) {s : State} (hk : Keep anc s) (hm : [.port] ⊆ anc.touched := by exact List.Subset.trans (by decide) hm) : Keep anc
    (frameDrop _len s) := by
  unfold frameDrop
  repeat' (first
      | with_reducible assumption | extract_lets | with_reducible apply Keep.ite
      | (fail_if_no_progress (with_reducible refine Keep.upd ?_ ?_ ?_ ?_ ?_ ?_ ?_ ?_ ?_ ?_) <;> try with_reducible first | rfl | exact fun h => h))

theorem State.orphanFrom_keep {s : State} (x : Session) (hk : Keep anc s)
    (hm : [.sessions, .answers, .completions, .log] ⊆ anc.touched := by exact List.Subset.trans (by decide) hm) : Keep anc (State.orphanFrom s x) := by
  unfold State.orphanFrom
  repeat' (first
      | with_reducible assumption | with_reducible exact List.Subset.trans (by decide) hm | extract_lets | with_reducible apply State.updSess_keep
      | with_reducible apply State.orphan_keep)

theorem State.endCtrl_keep {s : State} (id : Nat) (hk : Keep anc s)
    (hm : [.media, .queues, .namespaces, .sessions, .answers, .security, .completions, .log] ⊆ anc.touched := by exact List.Subset.trans (by decide) hm)
    : Keep anc (State.endCtrl s id) := by
  unfold State.endCtrl
  repeat' (first
      | with_reducible assumption | with_reducible exact List.Subset.trans (by decide) hm | with_reducible intro _ | extract_lets
      | with_reducible apply State.orphanFrom_keep
      | (fail_if_no_progress (with_reducible refine Keep.upd ?_ ?_ ?_ ?_ ?_ ?_ ?_ ?_ ?_ ?_) <;> try with_reducible first | rfl | exact fun h => h)
      | with_reducible apply Keep.foldl | split)

theorem State.endConn_keep {s : State} (conn : Nat) (hk : Keep anc s)
    (hm : [.media, .port, .queues, .namespaces, .sessions, .answers, .security, .completions, .log] ⊆ anc.touched := by exact List.Subset.trans (by decide) hm)
    : Keep anc (State.endConn s conn) := by
  unfold State.endConn
  repeat' (first
      | with_reducible assumption | with_reducible exact List.Subset.trans (by decide) hm | with_reducible intro _ | extract_lets
      | with_reducible apply State.endCtrl_keep
      | (fail_if_no_progress (with_reducible refine Keep.upd ?_ ?_ ?_ ?_ ?_ ?_ ?_ ?_ ?_ ?_) <;> try with_reducible first | rfl | exact fun h => h)
      | with_reducible apply Keep.foldl)

theorem controllerEnd_keep (ctrl : Nat) {s : State} (hk : Keep anc s)
    (hm : [.media, .queues, .namespaces, .sessions, .answers, .security, .completions, .log] ⊆ anc.touched := by exact List.Subset.trans (by decide) hm)
    : Keep anc (controllerEnd ctrl s) := by
  unfold controllerEnd
  repeat' (first
      | with_reducible assumption | extract_lets | with_reducible apply State.endCtrl_keep | with_reducible apply Keep.ite)

theorem icreq_keep (conn : Nat) (port : Nat) (hdgst : Bool) (ddgst : Bool) {s : State} (hk : Keep anc s)
    (hm : [.port] ⊆ anc.touched := by exact List.Subset.trans (by decide) hm) : Keep anc (icreq conn port hdgst ddgst s) := by
  unfold icreq
  repeat' (first
      | with_reducible assumption | extract_lets | with_reducible apply State.send_keep | with_reducible apply Keep.ite
      | (fail_if_no_progress (with_reducible refine Keep.upd ?_ ?_ ?_ ?_ ?_ ?_ ?_ ?_ ?_ ?_) <;> try with_reducible first | rfl | exact fun h => h))

theorem tcpPduReceive_keep (conn : Nat) (digestOk : Bool) (_len : Nat) {s : State} (hk : Keep anc s)
    (hm : [.media, .port, .queues, .namespaces, .sessions, .answers, .security, .completions, .log] ⊆ anc.touched := by exact List.Subset.trans (by decide) hm)
    : Keep anc (tcpPduReceive conn digestOk _len s) := by
  unfold tcpPduReceive
  repeat' (first
      | with_reducible assumption | with_reducible exact List.Subset.trans (by decide) hm | extract_lets | with_reducible apply State.send_keep
      | with_reducible apply State.endConn_keep | with_reducible apply Keep.ite)

theorem rdmaConnectRequest_keep (qp : Nat) (port : Nat) {s : State} (hk : Keep anc s)
    (hm : [.port] ⊆ anc.touched := by exact List.Subset.trans (by decide) hm) : Keep anc (rdmaConnectRequest qp port s) := by
  unfold rdmaConnectRequest
  repeat' (first
      | with_reducible assumption | extract_lets | with_reducible apply State.send_keep | with_reducible apply Keep.ite
      | (fail_if_no_progress (with_reducible refine Keep.upd ?_ ?_ ?_ ?_ ?_ ?_ ?_ ?_ ?_ ?_) <;> try with_reducible first | rfl | exact fun h => h))

theorem cnpReceived_keep (qp : Nat) {s : State} (hk : Keep anc s) (hm : [.free, .port] ⊆ anc.touched := by exact List.Subset.trans (by decide) hm) :
    Keep anc (cnpReceived qp s) := by
  unfold cnpReceived
  repeat' (first
      | with_reducible assumption | with_reducible exact List.Subset.trans (by decide) hm | extract_lets | with_reducible apply State.drawNat_keep
      | with_reducible apply Keep.ite
      | (fail_if_no_progress (with_reducible refine Keep.upd ?_ ?_ ?_ ?_ ?_ ?_ ?_ ?_ ?_ ?_) <;> try with_reducible first | rfl | exact fun h => h))

theorem rdmaAckTimeout_keep (qp : Nat) {s : State} (hk : Keep anc s)
    (hm : [.media, .port, .queues, .namespaces, .sessions, .answers, .security, .completions, .log] ⊆ anc.touched := by exact List.Subset.trans (by decide) hm)
    : Keep anc (rdmaAckTimeout qp s) := by
  unfold rdmaAckTimeout
  repeat' (first
      | with_reducible assumption | with_reducible exact List.Subset.trans (by decide) hm | extract_lets | with_reducible apply State.endConn_keep
      | with_reducible apply State.send_keep | with_reducible apply Keep.ite
      | (fail_if_no_progress (with_reducible refine Keep.upd ?_ ?_ ?_ ?_ ?_ ?_ ?_ ?_ ?_ ?_) <;> try with_reducible first | rfl | exact fun h => h)
      | split)

theorem ecnMarkedPacket_keep (qp : Nat) {s : State} (hk : Keep anc s) (hm : [.port] ⊆ anc.touched := by exact List.Subset.trans (by decide) hm) : Keep
    anc (ecnMarkedPacket qp s) := by
  unfold ecnMarkedPacket
  repeat' (first
      | with_reducible assumption | extract_lets | with_reducible apply State.send_keep | with_reducible apply Keep.ite)

theorem pfcPauseFrame_keep (priority : Nat) (pause : Bool) {s : State} (hk : Keep anc s)
    (hm : [.port] ⊆ anc.touched := by exact List.Subset.trans (by decide) hm) : Keep anc (pfcPauseFrame priority pause s) := by
  unfold pfcPauseFrame
  repeat' (first
      | with_reducible assumption | extract_lets | with_reducible apply Keep.ite
      | (fail_if_no_progress (with_reducible refine Keep.upd ?_ ?_ ?_ ?_ ?_ ?_ ?_ ?_ ?_ ?_) <;> try with_reducible first | rfl | exact fun h => h))

theorem State.reply__keep {s : State} (tag : Tag) (st : Status) (dw0 : Nat) (hk : Keep anc s)
    (hm : [.completions] ⊆ anc.touched := by exact List.Subset.trans (by decide) hm) : Keep anc (State.reply_ s tag st dw0) := by
  unfold State.reply_
  repeat' (first
      | with_reducible assumption | extract_lets
      | (fail_if_no_progress (with_reducible refine Keep.upd ?_ ?_ ?_ ?_ ?_ ?_ ?_ ?_ ?_ ?_) <;> try with_reducible first | rfl | exact fun h => h))

theorem connectAdmin_keep (tag : Tag) (conn : Nat) (a : ConnectArgs) {s : State} (hk : Keep anc s)
    (hm : [.queues, .completions] ⊆ anc.touched := by exact List.Subset.trans (by decide) hm) : Keep anc (connectAdmin tag conn a s) := by
  unfold connectAdmin
  repeat' (first
      | with_reducible assumption | with_reducible exact List.Subset.trans (by decide) hm | extract_lets | with_reducible apply State.reply__keep
      | with_reducible apply Keep.ite
      | (fail_if_no_progress (with_reducible refine Keep.upd ?_ ?_ ?_ ?_ ?_ ?_ ?_ ?_ ?_ ?_) <;> try with_reducible first | rfl | exact fun h => h)
      | split)

theorem connectQueue_keep (tag : Tag) (a : ConnectArgs) {s : State} (hk : Keep anc s)
    (hm : [.queues, .completions] ⊆ anc.touched := by exact List.Subset.trans (by decide) hm) : Keep anc (connectQueue tag a s) := by
  unfold connectQueue
  repeat' (first
      | with_reducible assumption | with_reducible exact List.Subset.trans (by decide) hm | extract_lets | with_reducible apply State.reply__keep
      | with_reducible apply State.updCtrl_keep | with_reducible apply Keep.ite | split)

theorem connect_keep (tag : Tag) (conn : Nat) (a : ConnectArgs) {s : State} (hk : Keep anc s)
    (hm : [.queues, .completions] ⊆ anc.touched := by exact List.Subset.trans (by decide) hm) : Keep anc (connect tag conn a s) := by
  unfold connect
  repeat' (first
      | with_reducible assumption | extract_lets | with_reducible apply connectAdmin_keep | with_reducible apply connectQueue_keep
      | with_reducible apply Keep.ite)

theorem propertyGet_keep (tag : Tag) (offset : Nat) {s : State} (hk : Keep anc s)
    (hm : [.free, .completions] ⊆ anc.touched := by exact List.Subset.trans (by decide) hm) : Keep anc (propertyGet tag offset s) := by
  unfold propertyGet
  repeat' (first
      | with_reducible assumption | with_reducible exact List.Subset.trans (by decide) hm | with_reducible intro _ | extract_lets
      | with_reducible apply State.command_keep | with_reducible apply State.drawNat_keep | with_reducible apply State.succeed_keep
      | with_reducible apply State.fail_keep | with_reducible apply Keep.ite)

theorem ccEnableSet_keep (tag : Tag) {s : State} (hk : Keep anc s)
    (hm : [.queues, .completions] ⊆ anc.touched := by exact List.Subset.trans (by decide) hm) : Keep anc (ccEnableSet tag s) := by
  unfold ccEnableSet
  repeat' (first
      | with_reducible assumption | with_reducible exact List.Subset.trans (by decide) hm | with_reducible intro _ | extract_lets
      | with_reducible apply State.command_keep | with_reducible apply State.updCtrl_keep | with_reducible apply State.succeed_keep)

theorem ccEnableClear_keep (tag : Tag) {s : State} (hk : Keep anc s)
    (hm : [.media, .queues, .namespaces, .sessions, .answers, .security, .completions, .log] ⊆ anc.touched := by exact List.Subset.trans (by decide) hm)
    : Keep anc (ccEnableClear tag s) := by
  unfold ccEnableClear
  repeat' (first
      | with_reducible assumption | with_reducible exact List.Subset.trans (by decide) hm | with_reducible intro _ | extract_lets
      | with_reducible apply State.command_keep | with_reducible apply State.endCtrl_keep | with_reducible apply State.reply__keep)

theorem ccShutdownNotification_keep (tag : Tag) (_abrupt : Bool) {s : State} (hk : Keep anc s)
    (hm : [.flash, .media, .queues, .faults, .completions, .log] ⊆ anc.touched := by exact List.Subset.trans (by decide) hm) : Keep anc
    (ccShutdownNotification tag _abrupt s) := by
  unfold ccShutdownNotification
  repeat' (first
      | with_reducible assumption | with_reducible exact List.Subset.trans (by decide) hm | with_reducible intro _ | extract_lets
      | with_reducible apply State.command_keep | with_reducible apply State.succeed_keep | with_reducible apply State.updCtrl_keep
      | with_reducible apply State.finishShutdown_keep | with_reducible apply Keep.ite
      | (fail_if_no_progress (with_reducible refine Keep.upd ?_ ?_ ?_ ?_ ?_ ?_ ?_ ?_ ?_ ?_) <;> try with_reducible first | rfl | exact fun h => h))

theorem disconnect_keep (tag : Tag) {s : State} (hk : Keep anc s)
    (hm : [.media, .queues, .namespaces, .sessions, .answers, .security, .completions, .log] ⊆ anc.touched := by exact List.Subset.trans (by decide) hm)
    : Keep anc (disconnect tag s) := by
  unfold disconnect
  repeat' (first
      | with_reducible assumption | with_reducible exact List.Subset.trans (by decide) hm | with_reducible intro _ | extract_lets
      | with_reducible apply State.command_keep | with_reducible apply State.endCtrl_keep | with_reducible apply State.reply__keep)

theorem keepAlive_keep (tag : Tag) {s : State} (hk : Keep anc s)
    (hm : [.queues, .completions] ⊆ anc.touched := by exact List.Subset.trans (by decide) hm) : Keep anc (keepAlive tag s) := by
  unfold keepAlive
  repeat' (first
      | with_reducible assumption | with_reducible exact List.Subset.trans (by decide) hm | with_reducible intro _ | extract_lets
      | with_reducible apply State.command_keep | with_reducible apply State.updCtrl_keep | with_reducible apply State.succeed_keep)

theorem keepAliveExpiry_keep (ctrl : Nat) {s : State} (hk : Keep anc s)
    (hm : [.media, .queues, .namespaces, .sessions, .answers, .security, .completions, .log] ⊆ anc.touched := by exact List.Subset.trans (by decide) hm)
    : Keep anc (keepAliveExpiry ctrl s) := by
  unfold keepAliveExpiry
  repeat' (first
      | with_reducible assumption | extract_lets | with_reducible apply State.endCtrl_keep | with_reducible apply Keep.ite)

end Sys2Proof.Machine
end

