-- ==== Sys2Proof/Laws/KeepPower.lean ====
section
/-! SUPPORT. What the operations of Machine/Power.lean keep (Laws/Keep.lean). -/

namespace Sys2Proof.Machine

set_option Elab.async false

open Sys2Proof.Safety

set_option linter.unusedTactic false
set_option linter.unreachableTactic false

variable {anc : KeepCtx}

theorem State.protect_keep {s : State} (hk : Keep anc s)
    (hm : [.media, .power, .completions] ⊆ anc.touched := by exact List.Subset.trans (by decide) hm) : Keep anc (State.protect s) := by
  unfold State.protect
  repeat' (first
      | with_reducible assumption | with_reducible exact List.Subset.trans (by decide) hm | with_reducible intro _ | extract_lets
      | with_reducible apply State.fail_keep
      | (fail_if_no_progress (with_reducible refine Keep.upd ?_ ?_ ?_ ?_ ?_ ?_ ?_ ?_ ?_ ?_) <;> try with_reducible first | rfl | exact fun h => h)
      | with_reducible apply Keep.foldl)

theorem State.capTick_keep {s : State} (hk : Keep anc s)
    (hm : [.media, .power, .completions] ⊆ anc.touched := by exact List.Subset.trans (by decide) hm) : Keep anc (State.capTick s) := by
  unfold State.capTick
  repeat' (first
      | with_reducible assumption | extract_lets | with_reducible apply State.protect_keep | with_reducible apply Keep.ite
      | (fail_if_no_progress (with_reducible refine Keep.upd ?_ ?_ ?_ ?_ ?_ ?_ ?_ ?_ ?_ ?_) <;> try with_reducible first | rfl | exact fun h => h))

theorem bankMeasure_keep {s : State} (hk : Keep anc s)
    (hm : [.media, .power, .queues, .completions] ⊆ anc.touched := by exact List.Subset.trans (by decide) hm) : Keep anc (bankMeasure s) := by
  unfold bankMeasure
  repeat' (first
      | with_reducible assumption | with_reducible exact List.Subset.trans (by decide) hm | extract_lets | with_reducible apply State.warn_keep
      | with_reducible apply State.capTick_keep | with_reducible apply Keep.ite
      | (fail_if_no_progress (with_reducible refine Keep.upd ?_ ?_ ?_ ?_ ?_ ?_ ?_ ?_ ?_ ?_) <;> try with_reducible first | rfl | exact fun h => h))

theorem bankMeasureComplete_keep (c : Nat) {s : State} (hk : Keep anc s)
    (hm : [.media, .power, .queues, .completions, .log] ⊆ anc.touched := by exact List.Subset.trans (by decide) hm) : Keep anc (bankMeasureComplete c
    s) := by
  unfold bankMeasureComplete
  repeat' (first
      | with_reducible assumption | with_reducible exact List.Subset.trans (by decide) hm | extract_lets | with_reducible apply State.event_keep
      | with_reducible apply State.warn_keep | with_reducible apply State.capTick_keep | with_reducible apply Keep.ite
      | (fail_if_no_progress (with_reducible refine Keep.upd ?_ ?_ ?_ ?_ ?_ ?_ ?_ ?_ ?_ ?_) <;> try with_reducible first | rfl | exact fun h => h))

theorem bankChargeTimeout_keep {s : State} (hk : Keep anc s)
    (hm : [.media, .power, .queues, .completions] ⊆ anc.touched := by exact List.Subset.trans (by decide) hm) : Keep anc (bankChargeTimeout s) := by
  unfold bankChargeTimeout
  repeat' (first
      | with_reducible assumption | with_reducible exact List.Subset.trans (by decide) hm | extract_lets | with_reducible apply State.warn_keep
      | with_reducible apply State.capTick_keep | with_reducible apply Keep.ite
      | (fail_if_no_progress (with_reducible refine Keep.upd ?_ ?_ ?_ ?_ ?_ ?_ ?_ ?_ ?_ ?_) <;> try with_reducible first | rfl | exact fun h => h))

theorem bankChargeComplete_keep {s : State} (hk : Keep anc s)
    (hm : [.media, .power, .queues, .completions] ⊆ anc.touched := by exact List.Subset.trans (by decide) hm) : Keep anc (bankChargeComplete s) := by
  unfold bankChargeComplete
  repeat' (first
      | with_reducible assumption | with_reducible exact List.Subset.trans (by decide) hm | extract_lets | with_reducible apply State.warn_keep
      | with_reducible apply State.capTick_keep | with_reducible apply Keep.ite
      | (fail_if_no_progress (with_reducible refine Keep.upd ?_ ?_ ?_ ?_ ?_ ?_ ?_ ?_ ?_ ?_) <;> try with_reducible first | rfl | exact fun h => h)
      | split)

theorem State.shiftEntries_keep {s : State} (n : Nat) (hk : Keep anc s)
    (hm : [.coaches, .flash, .sessions] ⊆ anc.touched := by exact List.Subset.trans (by decide) hm) : Keep anc (State.shiftEntries s n) := by
  unfold State.shiftEntries
  repeat' (first
      | with_reducible assumption | extract_lets
      | (fail_if_no_progress (with_reducible refine Keep.upd ?_ ?_ ?_ ?_ ?_ ?_ ?_ ?_ ?_ ?_) <;> try with_reducible first | rfl | exact fun h => h))

theorem State.restTick_keep {s : State} (hk : Keep anc s)
    (hm : [.coaches, .flash, .power, .sessions] ⊆ anc.touched := by exact List.Subset.trans (by decide) hm) : Keep anc (State.restTick s) := by
  unfold State.restTick
  repeat' (first
      | with_reducible assumption | with_reducible exact List.Subset.trans (by decide) hm | extract_lets
      | with_reducible apply State.shiftEntries_keep | with_reducible apply Keep.ite
      | (fail_if_no_progress (with_reducible refine Keep.upd ?_ ?_ ?_ ?_ ?_ ?_ ?_ ?_ ?_ ?_) <;> try with_reducible first | rfl | exact fun h => h))

theorem State.startSequence_keep {s : State} (trigger : Nat) (hk : Keep anc s)
    (hm : [.clock, .flash, .media, .power, .sessions, .completions, .log] ⊆ anc.touched := by exact List.Subset.trans (by decide) hm) : Keep anc
    (State.startSequence s trigger) := by
  unfold State.startSequence
  repeat' (first
      | with_reducible assumption | with_reducible exact List.Subset.trans (by decide) hm | extract_lets | with_reducible apply State.event_keep
      | with_reducible apply Keep.ite
      | (fail_if_no_progress (with_reducible refine Keep.upd ?_ ?_ ?_ ?_ ?_ ?_ ?_ ?_ ?_ ?_) <;> try with_reducible first | rfl | exact fun h => h))

theorem powerLoss_keep {s : State} (hk : Keep anc s)
    (hm : [.clock, .flash, .media, .power, .sessions, .completions, .log] ⊆ anc.touched := by exact List.Subset.trans (by decide) hm) : Keep anc
    (powerLoss s) := by
  unfold powerLoss
  repeat' (first
      | with_reducible assumption | with_reducible apply State.startSequence_keep)

theorem railFault_keep (osfp : Bool) {s : State} (hk : Keep anc s)
    (hm : [.stage, .clock, .flash, .media, .power, .port, .sessions, .completions, .log] ⊆ anc.touched := by exact List.Subset.trans (by decide) hm) :
    Keep anc (railFault osfp s) := by
  unfold railFault
  repeat' (first
      | with_reducible assumption | with_reducible exact List.Subset.trans (by decide) hm | extract_lets
      | with_reducible apply State.startSequence_keep | with_reducible apply State.linkDown_keep | with_reducible apply Keep.ite)

theorem overvoltage_keep {s : State} (hk : Keep anc s)
    (hm : [.clock, .flash, .media, .power, .sessions, .completions, .log] ⊆ anc.touched := by exact List.Subset.trans (by decide) hm) : Keep anc
    (overvoltage s) := by
  unfold overvoltage
  repeat' (first
      | with_reducible assumption | with_reducible apply State.startSequence_keep)

theorem seatedOpen_keep {s : State} (hk : Keep anc s)
    (hm : [.clock, .flash, .media, .power, .sessions, .completions, .log] ⊆ anc.touched := by exact List.Subset.trans (by decide) hm) : Keep anc
    (seatedOpen s) := by
  unfold seatedOpen
  repeat' (first
      | with_reducible assumption | extract_lets | with_reducible apply State.startSequence_keep
      | (fail_if_no_progress (with_reducible refine Keep.upd ?_ ?_ ?_ ?_ ?_ ?_ ?_ ?_ ?_ ?_) <;> try with_reducible first | rfl | exact fun h => h))

theorem thermalShutdown_keep {s : State} (hk : Keep anc s)
    (hm : [.clock, .flash, .media, .power, .sessions, .completions, .log] ⊆ anc.touched := by exact List.Subset.trans (by decide) hm) : Keep anc
    (thermalShutdown s) := by
  unfold thermalShutdown
  repeat' (first
      | with_reducible assumption | with_reducible exact List.Subset.trans (by decide) hm | extract_lets | with_reducible apply State.event_keep
      | with_reducible apply State.startSequence_keep | with_reducible apply Keep.ite
      | (fail_if_no_progress (with_reducible refine Keep.upd ?_ ?_ ?_ ?_ ?_ ?_ ?_ ?_ ?_ ?_) <;> try with_reducible first | rfl | exact fun h => h))

theorem State.unqueue_keep {s : State} (keep : DieOp → Bool) (hk : Keep anc s)
    (hm : [.flash, .media] ⊆ anc.touched := by exact List.Subset.trans (by decide) hm) : Keep anc (State.unqueue s keep) := by
  unfold State.unqueue
  repeat' (first
      | with_reducible assumption | with_reducible intro _ | extract_lets
      | (fail_if_no_progress (with_reducible refine Keep.upd ?_ ?_ ?_ ?_ ?_ ?_ ?_ ?_ ?_ ?_) <;> try with_reducible first | rfl | exact fun h => h)
      | with_reducible apply KeysUp_filter)

theorem flushSequenceStart_keep {s : State} (hk : Keep anc s)
    (hm : [.flash, .media, .power, .faults, .completions, .log] ⊆ anc.touched := by exact List.Subset.trans (by decide) hm) : Keep anc
    (flushSequenceStart s) := by
  unfold flushSequenceStart
  repeat' (first
      | with_reducible assumption | with_reducible exact List.Subset.trans (by decide) hm | extract_lets | with_reducible apply State.unqueue_keep
      | with_reducible apply flushMore_keep | with_reducible apply Keep.ite
      | (fail_if_no_progress (with_reducible refine Keep.upd ?_ ?_ ?_ ?_ ?_ ?_ ?_ ?_ ?_ ?_) <;> try with_reducible first | rfl | exact fun h => h))

theorem State.loseUnwritten_keep {s : State} (hk : Keep anc s) (hm : [.media, .log] ⊆ anc.touched := by exact List.Subset.trans (by decide) hm) : Keep
    anc (State.loseUnwritten s) := by
  unfold State.loseUnwritten
  repeat' (first
      | with_reducible assumption | extract_lets
      | (fail_if_no_progress (with_reducible refine Keep.upd ?_ ?_ ?_ ?_ ?_ ?_ ?_ ?_ ?_ ?_) <;> try with_reducible first | rfl | exact fun h => h))

theorem State.interrupt_keep {s : State} (hk : Keep anc s)
    (hm : [.flash, .media, .power, .log] ⊆ anc.touched := by exact List.Subset.trans (by decide) hm) : Keep anc (State.interrupt s) := by
  unfold State.interrupt
  repeat' (first
      | with_reducible assumption | with_reducible exact List.Subset.trans (by decide) hm | with_reducible rfl | with_reducible intro _ | extract_lets
      | with_reducible apply State.unqueue_keep | with_reducible apply State.loseUnwritten_keep | with_reducible apply Keep.ite
      | (fail_if_no_progress (with_reducible refine Keep.upd ?_ ?_ ?_ ?_ ?_ ?_ ?_ ?_ ?_ ?_) <;> try with_reducible first | rfl | exact fun h => h)
      | with_reducible refine KeysUp_map _ _ ?_ (fun e => ?_) | split)

theorem holdupEnergyExhausted_keep {s : State} (hk : Keep anc s)
    (hm : [.flash, .media, .power, .log] ⊆ anc.touched := by exact List.Subset.trans (by decide) hm) : Keep anc (holdupEnergyExhausted s) := by
  unfold holdupEnergyExhausted
  repeat' (first
      | with_reducible assumption | extract_lets | with_reducible apply State.interrupt_keep | with_reducible apply Keep.ite)

theorem bankBleedSwitch_keep {s : State} (hk : Keep anc s)
    (hm : [.flash, .media, .power, .log] ⊆ anc.touched := by exact List.Subset.trans (by decide) hm) : Keep anc (bankBleedSwitch s) := by
  unfold bankBleedSwitch
  repeat' (first
      | with_reducible assumption | extract_lets | with_reducible apply State.interrupt_keep | with_reducible apply Keep.ite
      | (fail_if_no_progress (with_reducible refine Keep.upd ?_ ?_ ?_ ?_ ?_ ?_ ?_ ?_ ?_ ?_) <;> try with_reducible first | rfl | exact fun h => h))

theorem holdAssert_keep {s : State} (hk : Keep anc s)
    (hm : [.clock, .flash, .media, .power, .sessions, .completions, .log] ⊆ anc.touched := by exact List.Subset.trans (by decide) hm) : Keep anc
    (holdAssert s) := by
  unfold holdAssert
  repeat' (first
      | with_reducible assumption | extract_lets | with_reducible apply State.startSequence_keep | with_reducible apply Keep.ite
      | (fail_if_no_progress (with_reducible refine Keep.upd ?_ ?_ ?_ ?_ ?_ ?_ ?_ ?_ ?_ ?_) <;> try with_reducible first | rfl | exact fun h => h))

theorem standbyRailOff_keep {s : State} (hk : Keep anc s) (hm : [.power, .faults] ⊆ anc.touched := by exact List.Subset.trans (by decide) hm) : Keep
    anc (standbyRailOff s) := by
  unfold standbyRailOff
  repeat' (first
      | with_reducible assumption | extract_lets | with_reducible apply Keep.ite
      | (fail_if_no_progress (with_reducible refine Keep.upd ?_ ?_ ?_ ?_ ?_ ?_ ?_ ?_ ?_ ?_) <;> try with_reducible first | rfl | exact fun h => h))

end Sys2Proof.Machine
end

