-- ==== Sys2Proof/Laws/KeepFaults.lean ====
section
/-! SUPPORT. What the operations of Machine/Faults.lean keep (Laws/Keep.lean). -/

namespace Sys2Proof.Machine

set_option Elab.async false

open Sys2Proof.Safety

set_option linter.unusedTactic false
set_option linter.unreachableTactic false

variable {anc : KeepCtx}

theorem State.faultRuns_keep {s : State} (code : Nat) (uses : Timetable → Bool) (hk : Keep anc s)
    (hm : [.sessions] ⊆ anc.touched := by exact List.Subset.trans (by decide) hm) : Keep anc (State.faultRuns s code uses) := by
  unfold State.faultRuns
  repeat' (first
      | with_reducible assumption | with_reducible intro _ | extract_lets | with_reducible apply State.faultHere_keep
      | with_reducible apply Keep.foldl)

theorem State.dropSet_keep {s : State} (p : PageSet) (hk : Keep anc s)
    (hm : [.flash, .media, .namespaces, .faults, .log] ⊆ anc.touched := by exact List.Subset.trans (by decide) hm) : Keep anc (State.dropSet s p) := by
  unfold State.dropSet
  repeat' (first
      | with_reducible assumption | extract_lets | with_reducible apply State.placeAgain_keep | with_reducible apply Keep.ite
      | (fail_if_no_progress (with_reducible refine Keep.upd ?_ ?_ ?_ ?_ ?_ ?_ ?_ ?_ ?_ ?_) <;> try with_reducible first | rfl | exact fun h => h))

theorem State.dropDie_keep {s : State} (die : Nat) (hk : Keep anc s)
    (hm : [.flash, .media, .namespaces, .faults, .log] ⊆ anc.touched := by exact List.Subset.trans (by decide) hm) : Keep anc (State.dropDie s die) := by
  unfold State.dropDie
  repeat' (first
      | with_reducible assumption | with_reducible intro _ | extract_lets | with_reducible apply State.dropSet_keep
      | (fail_if_no_progress (with_reducible refine Keep.upd ?_ ?_ ?_ ?_ ?_ ?_ ?_ ?_ ?_ ?_) <;> try with_reducible first | rfl | exact fun h => h)
      | with_reducible apply Keep.foldl)

theorem State.coachLeaves_keep {s : State} (c : Nat) (hk : Keep anc s)
    (hm : [.coaches, .sessions] ⊆ anc.touched := by exact List.Subset.trans (by decide) hm) : Keep anc (State.coachLeaves s c) := by
  unfold State.coachLeaves
  repeat' (first
      | with_reducible assumption | with_reducible exact List.Subset.trans (by decide) hm | extract_lets | with_reducible apply State.faultRuns_keep
      | (fail_if_no_progress (with_reducible refine Keep.upd ?_ ?_ ?_ ?_ ?_ ?_ ?_ ?_ ?_ ?_) <;> try with_reducible first | rfl | exact fun h => h))

theorem State.leaveService_keep {s : State} (o : Obj) (hk : Keep anc s)
    (hm : [.free, .coaches, .fabric, .dram, .flash, .media, .namespaces, .sessions, .faults, .log] ⊆ anc.touched := by exact List.Subset.trans (by decide) hm)
    : Keep anc (State.leaveService s o) := by
  unfold State.leaveService
  repeat' (first
      | with_reducible assumption | with_reducible exact List.Subset.trans (by decide) hm | with_reducible intro _ | extract_lets
      | with_reducible apply State.coachLeaves_keep | with_reducible apply State.topoChange_keep | with_reducible apply State.dropDie_keep
      | with_reducible apply State.faultRuns_keep | with_reducible apply State.drawNat_keep | with_reducible apply State.retire_keep
      | with_reducible apply Keep.ite
      | (fail_if_no_progress (with_reducible refine Keep.upd ?_ ?_ ?_ ?_ ?_ ?_ ?_ ?_ ?_ ?_) <;> try with_reducible first | rfl | exact fun h => h)
      | with_reducible apply Keep.foldl | split)

theorem unitLeavesService_keep (o : Obj) {s : State} (hk : Keep anc s)
    (hm : [.free, .coaches, .fabric, .dram, .flash, .media, .queues, .namespaces, .sessions, .faults, .completions, .log] ⊆ anc.touched := by exact List.Subset.trans (by decide) hm)
    : Keep anc (unitLeavesService o s) := by
  unfold unitLeavesService
  repeat' (first
      | with_reducible assumption | with_reducible exact List.Subset.trans (by decide) hm | extract_lets
      | with_reducible apply State.leaveService_keep | with_reducible apply State.warn_keep | with_reducible apply Keep.ite)

theorem State.teamLeaves_keep {s : State} (t : Nat) (hk : Keep anc s)
    (hm : [.coaches, .sessions, .log] ⊆ anc.touched := by exact List.Subset.trans (by decide) hm) : Keep anc (State.teamLeaves s t) := by
  unfold State.teamLeaves
  repeat' (first
      | with_reducible assumption | with_reducible exact List.Subset.trans (by decide) hm | with_reducible intro _ | extract_lets
      | with_reducible apply State.coachLeaves_keep | with_reducible apply State.topoChange_keep | with_reducible apply Keep.ite
      | with_reducible apply Keep.foldl)

theorem State.limpTick_keep {s : State} (hk : Keep anc s)
    (hm : [.flash, .media, .sessions, .faults, .completions, .log] ⊆ anc.touched := by exact List.Subset.trans (by decide) hm) : Keep anc
    (State.limpTick s) := by
  unfold State.limpTick
  repeat' (first
      | with_reducible assumption | with_reducible exact List.Subset.trans (by decide) hm | with_reducible intro _ | extract_lets
      | with_reducible apply State.faultRun_keep | with_reducible apply State.wantMark_keep | with_reducible apply Keep.ite
      | (fail_if_no_progress (with_reducible refine Keep.upd ?_ ?_ ?_ ?_ ?_ ?_ ?_ ?_ ?_ ?_) <;> try with_reducible first | rfl | exact fun h => h)
      | with_reducible apply Keep.foldl)

theorem State.enterLimp_keep {s : State} (cause : Nat) (hk : Keep anc s)
    (hm : [.flash, .media, .queues, .sessions, .faults, .completions, .log, .limp] ⊆ anc.touched := by exact List.Subset.trans (by decide) hm) : Keep
    anc (State.enterLimp s cause) := by
  unfold State.enterLimp
  repeat' (first
      | with_reducible assumption | with_reducible exact List.Subset.trans (by decide) hm | extract_lets | with_reducible apply State.event_keep
      | with_reducible apply State.limpTick_keep | with_reducible apply State.warn_keep | with_reducible apply Keep.ite
      | (fail_if_no_progress (with_reducible refine Keep.upd ?_ ?_ ?_ ?_ ?_ ?_ ?_ ?_ ?_ ?_) <;> try with_reducible first | rfl | exact fun h => h))

theorem State.fatalEvent_keep {s : State} (o : Obj) (detail : List Nat) (hk : Keep anc s)
    (hm : [.queues, .completions, .log] ⊆ anc.touched := by exact List.Subset.trans (by decide) hm) : Keep anc (State.fatalEvent s o detail) := by
  unfold State.fatalEvent
  repeat' (first
      | with_reducible assumption | with_reducible exact List.Subset.trans (by decide) hm | extract_lets | with_reducible apply State.event_keep
      | with_reducible apply State.asyncEvent_keep)

theorem State.fatalUnit_keep {s : State} (system : Bool) (hk : Keep anc s)
    (hm : [.flash, .media, .queues, .sessions, .faults, .completions, .log, .limp] ⊆ anc.touched := by exact List.Subset.trans (by decide) hm) : Keep
    anc (State.fatalUnit s system) := by
  unfold State.fatalUnit
  repeat' (first
      | with_reducible assumption | with_reducible exact List.Subset.trans (by decide) hm | extract_lets | with_reducible apply State.enterLimp_keep
      | with_reducible apply State.warn_keep | with_reducible apply Keep.ite)

theorem State.actFatal_keep {s : State} (o : Obj) (hk : Keep anc s)
    (hm : [.free, .clock, .coaches, .fabric, .dram, .flash, .media, .power, .port, .queues, .namespaces, .sessions, .answers, .faults, .completions, .log, .limp] ⊆ anc.touched := by exact List.Subset.trans (by decide) hm)
    : Keep anc (State.actFatal s o) := by
  unfold State.actFatal
  repeat' (first
      | with_reducible assumption | with_reducible exact List.Subset.trans (by decide) hm | extract_lets | with_reducible apply State.fatalEvent_keep
      | with_reducible apply State.enterLimp_keep | with_reducible apply State.drawNat_keep | with_reducible apply State.startSequence_keep
      | with_reducible apply State.teamLeaves_keep | with_reducible apply State.fatalUnit_keep | with_reducible apply State.updNs_keep
      | with_reducible apply freeSession_keep | with_reducible apply State.abortWork_keep | with_reducible apply State.leaveService_keep
      | with_reducible apply Keep.ite
      | (fail_if_no_progress (with_reducible refine Keep.upd ?_ ?_ ?_ ?_ ?_ ?_ ?_ ?_ ?_ ?_) <;> try with_reducible first | rfl | exact fun h => h)
      | split)

theorem fatalAction_keep {s : State} (hk : Keep anc s)
    (hm : [.free, .clock, .coaches, .fabric, .dram, .flash, .media, .power, .port, .queues, .namespaces, .sessions, .answers, .faults, .completions, .log, .limp] ⊆ anc.touched := by exact List.Subset.trans (by decide) hm)
    : Keep anc (fatalAction s) := by
  unfold fatalAction
  repeat' (first
      | with_reducible assumption | extract_lets | with_reducible apply State.actFatal_keep | with_reducible apply Keep.ite
      | (fail_if_no_progress (with_reducible refine Keep.upd ?_ ?_ ?_ ?_ ?_ ?_ ?_ ?_ ?_ ?_) <;> try with_reducible first | rfl | exact fun h => h)
      | split)

theorem errorRaise_keep (cls : ErrClass) (o : Obj) {s : State} (hk : Keep anc s)
    (hm : [.faults] ⊆ anc.touched := by exact List.Subset.trans (by decide) hm) : Keep anc (errorRaise cls o s) := by
  unfold errorRaise
  repeat' (first
      | with_reducible assumption | extract_lets | with_reducible apply raiseError_keep | with_reducible apply Keep.ite)

theorem State.interruptSession_keep {s : State} (x : Session) (hk : Keep anc s)
    (hm : [.coaches, .dram, .port, .sessions, .answers, .completions, .log] ⊆ anc.touched := by exact List.Subset.trans (by decide) hm) : Keep anc
    (State.interruptSession s x) := by
  unfold State.interruptSession
  repeat' (first
      | with_reducible assumption | with_reducible exact List.Subset.trans (by decide) hm | with_reducible intro _ | extract_lets
      | with_reducible apply State.fail_keep | with_reducible apply State.dropQuery_keep | with_reducible apply State.endScan_keep
      | with_reducible apply State.updSess_keep | with_reducible apply State.faultRun_keep
      | (fail_if_no_progress (with_reducible refine Keep.upd ?_ ?_ ?_ ?_ ?_ ?_ ?_ ?_ ?_ ?_) <;> try with_reducible first | rfl | exact fun h => h)
      | with_reducible apply Keep.foldl | split | dsimp +zetaDelta only)

theorem State.restartEffect_keep {s : State} (comp : Nat) (hk : Keep anc s)
    (hm : [.coaches, .dram, .media, .port, .namespaces, .sessions, .answers, .faults, .completions, .log] ⊆ anc.touched := by exact List.Subset.trans (by decide) hm)
    : Keep anc (State.restartEffect s comp) := by
  unfold State.restartEffect
  repeat' (first
      | with_reducible assumption | with_reducible exact List.Subset.trans (by decide) hm | with_reducible intro _ | extract_lets
      | with_reducible apply State.interruptSession_keep | with_reducible apply State.endBind_keep | with_reducible apply State.fail_keep
      | with_reducible apply State.abandon_keep | with_reducible apply State.updNs_keep
      | (fail_if_no_progress (with_reducible refine Keep.upd ?_ ?_ ?_ ?_ ?_ ?_ ?_ ?_ ?_ ?_) <;> try with_reducible first | rfl | exact fun h => h)
      | with_reducible apply Keep.foldl | split)

theorem State.restart_keep {s : State} (comp : Nat) (cause : Nat) (hk : Keep anc s)
    (hm : [.coaches, .dram, .flash, .media, .port, .queues, .namespaces, .sessions, .answers, .faults, .completions, .log, .limp] ⊆ anc.touched := by exact List.Subset.trans (by decide) hm)
    : Keep anc (State.restart s comp cause) := by
  unfold State.restart
  repeat' (first
      | with_reducible assumption | with_reducible exact List.Subset.trans (by decide) hm | extract_lets | with_reducible apply State.event_keep
      | with_reducible apply State.restartEffect_keep | with_reducible apply State.enterLimp_keep | with_reducible apply Keep.ite
      | (fail_if_no_progress (with_reducible refine Keep.upd ?_ ?_ ?_ ?_ ?_ ?_ ?_ ?_ ?_ ?_) <;> try with_reducible first | rfl | exact fun h => h))

theorem componentRestart_keep (comp : Nat) (cause : Nat) {s : State} (hk : Keep anc s)
    (hm : [.coaches, .dram, .flash, .media, .port, .queues, .namespaces, .sessions, .answers, .faults, .completions, .log, .limp] ⊆ anc.touched := by exact List.Subset.trans (by decide) hm)
    : Keep anc (componentRestart comp cause s) := by
  unfold componentRestart
  repeat' (first
      | with_reducible assumption | extract_lets | with_reducible apply State.restart_keep | with_reducible apply Keep.ite)

theorem State.endHandling_keep {s : State} (o : Obj) (hk : Keep anc s) (hm : [.faults] ⊆ anc.touched := by exact List.Subset.trans (by decide) hm) :
    Keep anc (State.endHandling s o) := by
  unfold State.endHandling
  repeat' (first
      | with_reducible assumption | extract_lets
      | (fail_if_no_progress (with_reducible refine Keep.upd ?_ ?_ ?_ ?_ ?_ ?_ ?_ ?_ ?_ ?_) <;> try with_reducible first | rfl | exact fun h => h))

theorem componentRestartComplete_keep (comp : Nat) (keepOk : Bool) {s : State} (hk : Keep anc s)
    (hm : [.flash, .media, .queues, .sessions, .faults, .completions, .log, .limp] ⊆ anc.touched := by exact List.Subset.trans (by decide) hm) : Keep
    anc (componentRestartComplete comp keepOk s) := by
  unfold componentRestartComplete
  repeat' (first
      | with_reducible assumption | with_reducible exact List.Subset.trans (by decide) hm | extract_lets | with_reducible apply State.endHandling_keep
      | with_reducible apply State.enterLimp_keep | with_reducible apply Keep.ite
      | (fail_if_no_progress (with_reducible refine Keep.upd ?_ ?_ ?_ ?_ ?_ ?_ ?_ ?_ ?_ ?_) <;> try with_reducible first | rfl | exact fun h => h))

theorem mainWatchdogExpiry_keep (core : Nat) {s : State} (hk : Keep anc s)
    (hm : [.coaches, .dram, .flash, .media, .port, .queues, .namespaces, .sessions, .answers, .faults, .completions, .log, .limp] ⊆ anc.touched := by exact List.Subset.trans (by decide) hm)
    : Keep anc (mainWatchdogExpiry core s) := by
  unfold mainWatchdogExpiry
  repeat' (first
      | with_reducible assumption | with_reducible intro _ | extract_lets | with_reducible apply State.restart_keep | with_reducible apply Keep.ite
      | with_reducible apply Keep.foldl)

theorem fallbackWatchdogExpiry_keep (core : Nat) {s : State} (hk : Keep anc s)
    (hm : [.coaches, .sessions, .faults, .log] ⊆ anc.touched := by exact List.Subset.trans (by decide) hm) : Keep anc (fallbackWatchdogExpiry core s) := by
  unfold fallbackWatchdogExpiry
  repeat' (first
      | with_reducible assumption | with_reducible exact List.Subset.trans (by decide) hm | extract_lets | with_reducible apply raiseError_keep
      | with_reducible apply State.teamLeaves_keep | with_reducible apply Keep.ite)

theorem mailboxMessage_keep (sender : Nat) (_receiver : Nat) (msg : Bytes) {s : State} (hk : Keep anc s)
    (hm : [.faults] ⊆ anc.touched := by exact List.Subset.trans (by decide) hm) : Keep anc (mailboxMessage sender _receiver msg s) := by
  unfold mailboxMessage
  repeat' (first
      | with_reducible assumption | extract_lets | with_reducible apply raiseError_keep | with_reducible apply Keep.ite
      | (fail_if_no_progress (with_reducible refine Keep.upd ?_ ?_ ?_ ?_ ?_ ?_ ?_ ?_ ?_ ?_) <;> try with_reducible first | rfl | exact fun h => h))

theorem State.takeErr_keep {s : State} (e : Err) (hk : Keep anc s)
    (hm : [.coaches, .dram, .flash, .media, .port, .queues, .namespaces, .sessions, .answers, .faults, .completions, .log, .limp] ⊆ anc.touched := by exact List.Subset.trans (by decide) hm)
    : Keep anc (State.takeErr s e) := by
  unfold State.takeErr
  repeat' (first
      | with_reducible assumption | extract_lets | with_reducible apply State.restart_keep | with_reducible apply Keep.ite
      | (fail_if_no_progress (with_reducible refine Keep.upd ?_ ?_ ?_ ?_ ?_ ?_ ?_ ?_ ?_ ?_) <;> try with_reducible first | rfl | exact fun h => h))

theorem errorHandle_keep (ended : Bool) {s : State} (hk : Keep anc s)
    (hm : [.coaches, .dram, .flash, .media, .port, .queues, .namespaces, .sessions, .answers, .faults, .completions, .log, .limp] ⊆ anc.touched := by exact List.Subset.trans (by decide) hm)
    : Keep anc (errorHandle ended s) := by
  unfold errorHandle
  repeat' (first
      | with_reducible assumption | extract_lets | with_reducible apply State.restart_keep | with_reducible apply State.takeErr_keep
      | with_reducible apply Keep.ite
      | (fail_if_no_progress (with_reducible refine Keep.upd ?_ ?_ ?_ ?_ ?_ ?_ ?_ ?_ ?_ ?_) <;> try with_reducible first | rfl | exact fun h => h)
      | split)

theorem unitRetest_keep (pass : Bool) {s : State} (hk : Keep anc s)
    (hm : [.free, .coaches, .fabric, .dram, .flash, .media, .queues, .namespaces, .sessions, .faults, .completions, .log] ⊆ anc.touched := by exact List.Subset.trans (by decide) hm)
    : Keep anc (unitRetest pass s) := by
  unfold unitRetest
  repeat' (first
      | with_reducible assumption | with_reducible exact List.Subset.trans (by decide) hm | extract_lets
      | with_reducible apply State.leaveService_keep | with_reducible apply State.warn_keep | with_reducible apply State.endHandling_keep
      | with_reducible apply Keep.ite
      | (fail_if_no_progress (with_reducible refine Keep.upd ?_ ?_ ?_ ?_ ?_ ?_ ?_ ?_ ?_ ?_) <;> try with_reducible first | rfl | exact fun h => h)
      | split)

theorem rootPllLock_keep {s : State} (hk : Keep anc s) (hm : [.clock] ⊆ anc.touched := by exact List.Subset.trans (by decide) hm) : Keep anc
    (rootPllLock s) := by
  unfold rootPllLock
  repeat' (first
      | with_reducible assumption | extract_lets | with_reducible apply Keep.ite
      | (fail_if_no_progress (with_reducible refine Keep.upd ?_ ?_ ?_ ?_ ?_ ?_ ?_ ?_ ?_ ?_) <;> try with_reducible first | rfl | exact fun h => h))

@[simp] theorem Clk.setDomain_trim (c : Clk) (d : Domain) (x : DomainState) : (c.setDomain d x).trim = c.trim := by cases d <;> rfl

theorem domainSwitch_keep (d : Domain) (toRoot : Bool) {s : State} (hk : Keep anc s) (hm : [.clock] ⊆ anc.touched := by exact List.Subset.trans (by decide) hm) : Keep anc (domainSwitch d toRoot s) := by
  unfold domainSwitch
  exact Keep.ite (hk.upd rfl rfl (Clk.setDomain_trim _ _ _) rfl rfl id rfl rfl rfl) hk

theorem rootPllLoss_keep {s : State} (hk : Keep anc s) (hm : [.stage, .clock, .faults] ⊆ anc.touched := by exact List.Subset.trans (by decide) hm) :
    Keep anc (rootPllLoss s) := by
  unfold rootPllLoss
  repeat' (first
      | with_reducible assumption | with_reducible exact List.Subset.trans (by decide) hm | extract_lets | with_reducible apply raiseError_keep
      | with_reducible apply Keep.ite
      | (fail_if_no_progress (with_reducible refine Keep.upd ?_ ?_ ?_ ?_ ?_ ?_ ?_ ?_ ?_ ?_) <;> try with_reducible first | rfl | exact fun h => h)
      | exact Eq.refl _)

theorem State.dropClockErr_keep {s : State} (hk : Keep anc s) (hm : [.faults] ⊆ anc.touched := by exact List.Subset.trans (by decide) hm) : Keep anc
    (State.dropClockErr s) := by
  unfold State.dropClockErr
  repeat' (first
      | with_reducible assumption | extract_lets
      | (fail_if_no_progress (with_reducible refine Keep.upd ?_ ?_ ?_ ?_ ?_ ?_ ?_ ?_ ?_ ?_) <;> try with_reducible first | rfl | exact fun h => h))

theorem State.clockFailed_keep {s : State} (hk : Keep anc s)
    (hm : [.clock, .coaches, .dram, .port, .queues, .sessions, .answers, .faults, .completions, .log] ⊆ anc.touched := by exact List.Subset.trans (by decide) hm)
    : Keep anc (State.clockFailed s) := by
  unfold State.clockFailed
  repeat' (first
      | with_reducible assumption | with_reducible exact List.Subset.trans (by decide) hm | with_reducible intro _ | extract_lets
      | with_reducible apply State.dropClockErr_keep | with_reducible apply State.fatalEvent_keep | with_reducible apply State.faultRun_keep
      | with_reducible apply State.abortQuery_keep | with_reducible apply State.abortScan_keep | with_reducible apply State.warn_keep
      | (fail_if_no_progress (with_reducible refine Keep.upd ?_ ?_ ?_ ?_ ?_ ?_ ?_ ?_ ?_ ?_) <;> try with_reducible first | rfl | exact fun h => h)
      | with_reducible apply Keep.foldl)

theorem pllRelockTryEnd_keep (locked : Bool) {s : State} (hk : Keep anc s)
    (hm : [.stage, .clock, .coaches, .dram, .flash, .media, .port, .queues, .sessions, .answers, .faults, .completions, .log, .limp] ⊆ anc.touched := by exact List.Subset.trans (by decide) hm)
    : Keep anc (pllRelockTryEnd locked s) := by
  unfold pllRelockTryEnd
  repeat' (first
      | with_reducible assumption | with_reducible exact List.Subset.trans (by decide) hm | extract_lets
      | with_reducible apply State.dropClockErr_keep | with_reducible apply State.fatalEvent_keep | with_reducible apply State.enterLimp_keep
      | with_reducible apply State.landCheck_keep | with_reducible apply State.clockFailed_keep | with_reducible apply Keep.ite
      | (fail_if_no_progress (with_reducible refine Keep.upd ?_ ?_ ?_ ?_ ?_ ?_ ?_ ?_ ?_ ?_) <;> try with_reducible first | rfl | exact fun h => h)
      | exact Eq.refl _ | split)

end Sys2Proof.Machine
end

