-- ==== Sys2Proof/Laws/KeepBoot.lean ====
section
/-! SUPPORT. What the operations of Machine/Boot.lean keep (Laws/Keep.lean). -/

namespace Sys2Proof.Machine

set_option Elab.async false

open Sys2Proof.Safety

set_option linter.unusedTactic false
set_option linter.unreachableTactic false

variable {anc : KeepCtx}

theorem State.readFuses_keep {s : State} (hk : Keep anc s) (hm : [.stage, .security] ⊆ anc.touched := by exact List.Subset.trans (by decide) hm) :
    Keep anc (State.readFuses s) := by
  unfold State.readFuses
  repeat' (first
      | with_reducible assumption | extract_lets
      | (fail_if_no_progress (with_reducible refine Keep.upd ?_ ?_ ?_ ?_ ?_ ?_ ?_ ?_ ?_ ?_) <;> try with_reducible first | rfl | exact fun h => h))

theorem State.logIgnored_keep {s : State} (t : Nat) (off : Nat) (cause : Nat) (hk : Keep anc s)
    (hm : [.log] ⊆ anc.touched := by exact List.Subset.trans (by decide) hm) : Keep anc (State.logIgnored s t off cause) := by
  unfold State.logIgnored
  repeat' (first
      | with_reducible assumption | with_reducible apply State.event_keep)

theorem State.logNoMapCache_keep {s : State} (hk : Keep anc s) (hm : [.free, .log] ⊆ anc.touched := by exact List.Subset.trans (by decide) hm) : Keep
    anc (State.logNoMapCache s) := by
  unfold State.logNoMapCache
  repeat' (first
      | with_reducible assumption | with_reducible exact List.Subset.trans (by decide) hm | extract_lets | with_reducible apply State.drawBytes_keep
      | with_reducible apply State.event_keep | with_reducible apply Keep.ite)

theorem applyPtp_counter (r : Option Bytes) (g : Stg) : (applyPtp r g).stage = g.stage ∧ (applyPtp r g).loaded = g.loaded ∧
    (applyPtp r g).exhausted = g.exhausted ∧ (applyPtp r g).cycle = g.cycle := ⟨rfl, rfl, rfl, rfl⟩

theorem configRecordRead_keep {s : State} (hk : Keep anc s) (hm : [.free, .stage, .dram, .flash, .port, .sessions, .boot, .log] ⊆ anc.touched := by exact List.Subset.trans (by decide) hm) : Keep anc (configRecordRead s) := by
  unfold configRecordRead
  refine Keep.ite hk ?_
  generalize sortRecords s.sec.serial s.records = p
  obtain ⟨st, bad⟩ := p
  dsimp only
  have h : Keep anc ((bad.foldl (fun s r => s.logIgnored r.1.type r.1.off r.2) s).logNoMapCache) :=
    State.logNoMapCache_keep (hk.foldl fun _ _ h => State.logIgnored_keep _ _ _ h)
  generalize (bad.foldl (fun s r => s.logIgnored r.1.type r.1.off r.2) s).logNoMapCache = u at h
  refine h.upd ?_ ?_ rfl rfl rfl (fun h => ?_) rfl rfl rfl
  · simp [applyPtp_counter]
  · simp [applyPtp_counter]
  · dsimp only; split <;> exact h

theorem State.testFail_keep {s : State} (cls : Nat) (idx : Nat) (o : Obj) (fused : Bool) (hk : Keep anc s)
    (hm : [.free, .boot, .log] ⊆ anc.touched := by exact List.Subset.trans (by decide) hm) : Keep anc (State.testFail s cls idx o fused) := by
  unfold State.testFail
  repeat' (first
      | with_reducible assumption | with_reducible exact List.Subset.trans (by decide) hm | extract_lets | with_reducible apply State.drawBytes_keep
      | with_reducible apply State.event_keep | with_reducible apply Keep.ite
      | (fail_if_no_progress (with_reducible refine Keep.upd ?_ ?_ ?_ ?_ ?_ ?_ ?_ ?_ ?_ ?_) <;> try with_reducible first | rfl | exact fun h => h))

theorem State.testFails_keep {s : State} (cls : Nat) (n : Nat) (obj : Nat → Obj) (failed : List Nat) (hk : Keep anc s)
    (hm : [.free, .boot, .log] ⊆ anc.touched := by exact List.Subset.trans (by decide) hm) : Keep anc (State.testFails s cls n obj failed) := by
  unfold State.testFails
  repeat' (first
      | with_reducible assumption | with_reducible intro _ | extract_lets | with_reducible apply State.testFail_keep | with_reducible apply Keep.foldl)

theorem dramTraining_keep (failed : List Nat) {s : State} (hk : Keep anc s)
    (hm : [.free, .dram, .boot, .log] ⊆ anc.touched := by exact List.Subset.trans (by decide) hm) : Keep anc (dramTraining failed s) := by
  unfold dramTraining
  repeat' (first
      | with_reducible assumption | with_reducible exact List.Subset.trans (by decide) hm | extract_lets | with_reducible apply State.testFails_keep
      | with_reducible apply Keep.ite
      | (fail_if_no_progress (with_reducible refine Keep.upd ?_ ?_ ?_ ?_ ?_ ?_ ?_ ?_ ?_ ?_) <;> try with_reducible first | rfl | exact fun h => h))

theorem dramFill_keep {s : State} (hk : Keep anc s) (hm : [.dram, .boot] ⊆ anc.touched := by exact List.Subset.trans (by decide) hm) : Keep anc (dramFill s) := by
  unfold dramFill
  split
  · exact hk
  · refine Keep.mem hk ?_ rfl rfl fun h => ⟨h.1, rfl, rfl, h.2.2.2⟩
    simp [State.anchor]

theorem flashChannelTraining_keep (failed : List Nat) {s : State} (hk : Keep anc s)
    (hm : [.free, .flash, .boot, .log] ⊆ anc.touched := by exact List.Subset.trans (by decide) hm) : Keep anc (flashChannelTraining failed s) := by
  unfold flashChannelTraining
  repeat' (first
      | with_reducible assumption | with_reducible exact List.Subset.trans (by decide) hm | extract_lets | with_reducible apply State.testFails_keep
      | with_reducible apply Keep.ite
      | (fail_if_no_progress (with_reducible refine Keep.upd ?_ ?_ ?_ ?_ ?_ ?_ ?_ ?_ ?_ ?_) <;> try with_reducible first | rfl | exact fun h => h))

theorem dieIdentification_keep (failed : List Nat) {s : State} (hk : Keep anc s)
    (hm : [.free, .flash, .boot, .log] ⊆ anc.touched := by exact List.Subset.trans (by decide) hm) : Keep anc (dieIdentification failed s) := by
  unfold dieIdentification
  repeat' (first
      | with_reducible assumption | with_reducible exact List.Subset.trans (by decide) hm | extract_lets | with_reducible apply State.testFails_keep
      | with_reducible apply Keep.ite
      | (fail_if_no_progress (with_reducible refine Keep.upd ?_ ?_ ?_ ?_ ?_ ?_ ?_ ?_ ?_ ?_) <;> try with_reducible first | rfl | exact fun h => h))

theorem portLaneTest_keep (failed : List Nat) {s : State} (hk : Keep anc s)
    (hm : [.free, .port, .boot, .log] ⊆ anc.touched := by exact List.Subset.trans (by decide) hm) : Keep anc (portLaneTest failed s) := by
  unfold portLaneTest
  repeat' (first
      | with_reducible assumption | with_reducible exact List.Subset.trans (by decide) hm | extract_lets | with_reducible apply State.testFails_keep
      | with_reducible apply Keep.ite
      | (fail_if_no_progress (with_reducible refine Keep.upd ?_ ?_ ?_ ?_ ?_ ?_ ?_ ?_ ?_ ?_) <;> try with_reducible first | rfl | exact fun h => h))

theorem coachSelfTest_keep (fc : List Nat) (fr : List Nat) (fl : List Nat) (fg : List Nat) {s : State} (hk : Keep anc s)
    (hm : [.free, .coaches, .fabric, .boot, .log] ⊆ anc.touched := by exact List.Subset.trans (by decide) hm) : Keep anc (coachSelfTest fc fr fl fg s) := by
  unfold coachSelfTest
  repeat' (first
      | with_reducible assumption | with_reducible exact List.Subset.trans (by decide) hm | extract_lets | with_reducible apply State.testFails_keep
      | with_reducible apply Keep.ite
      | (fail_if_no_progress (with_reducible refine Keep.upd ?_ ?_ ?_ ?_ ?_ ?_ ?_ ?_ ?_ ?_) <;> try with_reducible first | rfl | exact fun h => h))

theorem firmwareImageVerify_keep (signatureOk : Bool) {s : State} (hk : Keep anc s)
    (hm : [.stage, .port, .security, .boot] ⊆ anc.touched := by exact List.Subset.trans (by decide) hm) : Keep anc (firmwareImageVerify signatureOk s) := by
  unfold firmwareImageVerify
  repeat' (first
      | with_reducible assumption | with_reducible exact List.Subset.trans (by decide) hm | extract_lets | with_reducible apply State.linkDown_keep
      | with_reducible apply Keep.ite
      | (fail_if_no_progress (with_reducible refine Keep.upd ?_ ?_ ?_ ?_ ?_ ?_ ?_ ?_ ?_ ?_) <;> try with_reducible first | rfl | exact fun h => h))

theorem State.chainIgnored_keep {s : State} (r : CfgRec) (cause : Nat) (hk : Keep anc s)
    (hm : [.boot, .log] ⊆ anc.touched := by exact List.Subset.trans (by decide) hm) : Keep anc (State.chainIgnored s r cause) := by
  unfold State.chainIgnored
  repeat' (first
      | with_reducible assumption | with_reducible exact List.Subset.trans (by decide) hm | extract_lets | with_reducible apply State.logIgnored_keep
      | (fail_if_no_progress (with_reducible refine Keep.upd ?_ ?_ ?_ ?_ ?_ ?_ ?_ ?_ ?_ ?_) <;> try with_reducible first | rfl | exact fun h => h))

theorem State.behindStations_keep {s : State} (hk : Keep anc s) (hm : [.dram, .flash] ⊆ anc.touched := by exact List.Subset.trans (by decide) hm) :
    Keep anc (State.behindStations s) := by
  unfold State.behindStations
  repeat' (first
      | with_reducible assumption | extract_lets
      | (fail_if_no_progress (with_reducible refine Keep.upd ?_ ?_ ?_ ?_ ?_ ?_ ?_ ?_ ?_ ?_) <;> try with_reducible first | rfl | exact fun h => h))

theorem topologyCheck_keep {s : State} (hk : Keep anc s)
    (hm : [.dram, .flash, .media, .boot] ⊆ anc.touched := by exact List.Subset.trans (by decide) hm) : Keep anc (topologyCheck s) := by
  unfold topologyCheck
  repeat' (first
      | with_reducible assumption | with_reducible exact List.Subset.trans (by decide) hm | extract_lets
      | with_reducible apply State.behindStations_keep | with_reducible apply Keep.ite
      | (fail_if_no_progress (with_reducible refine Keep.upd ?_ ?_ ?_ ?_ ?_ ?_ ?_ ?_ ?_ ?_) <;> try with_reducible first | rfl | exact fun h => h))

theorem mainFirmwareStart_keep {s : State} (hk : Keep anc s)
    (hm : [.dram, .namespaces, .boot] ⊆ anc.touched := by exact List.Subset.trans (by decide) hm) : Keep anc (mainFirmwareStart s) := by
  unfold mainFirmwareStart
  repeat' (first
      | with_reducible assumption | extract_lets | with_reducible apply Keep.ite
      | (fail_if_no_progress (with_reducible refine Keep.upd ?_ ?_ ?_ ?_ ?_ ?_ ?_ ?_ ?_ ?_) <;> try with_reducible first | rfl | exact fun h => h))

theorem mediaScan_keep {s : State} (hk : Keep anc s) (hm : [.flash, .media, .boot] ⊆ anc.touched := by exact List.Subset.trans (by decide) hm) : Keep
    anc (mediaScan s) := by
  unfold mediaScan
  repeat' (first
      | with_reducible assumption | extract_lets | with_reducible apply Keep.ite
      | (fail_if_no_progress (with_reducible refine Keep.upd ?_ ?_ ?_ ?_ ?_ ?_ ?_ ?_ ?_ ?_) <;> try with_reducible first | rfl | exact fun h => h))

theorem State.classify_keep {s : State} (sets : List FoundSet) (hk : Keep anc s) (hm : [.flash] ⊆ anc.touched := by exact List.Subset.trans (by decide) hm) : Keep anc (State.classify s sets) := by
  unfold State.classify
  extract_lets cut gone words top
  exact hk.upd rfl rfl rfl rfl rfl (fun h => KeysUp_map _ _ (KeysUp_filter _ _ h) fun e => by dsimp only; split <;> rfl) rfl rfl rfl

theorem State.replayPage_keep {s : State} (bad : List (Nat × Nat × Nat)) (e : Nat × CWord) (hk : Keep anc s)
    (hm : [.flash, .media, .faults, .log] ⊆ anc.touched := by exact List.Subset.trans (by decide) hm) : Keep anc (State.replayPage s bad e) := by
  unfold State.replayPage
  repeat' (first
      | with_reducible assumption | extract_lets | with_reducible apply State.loseUnit_keep | with_reducible apply State.setEntry_keep
      | with_reducible apply Keep.ite)

theorem State.freeUnrecorded_keep {s : State} (hk : Keep anc s)
    (hm : [.media, .namespaces] ⊆ anc.touched := by exact List.Subset.trans (by decide) hm) : Keep anc (State.freeUnrecorded s) := by
  unfold State.freeUnrecorded
  repeat' (first
      | with_reducible assumption | extract_lets
      | (fail_if_no_progress (with_reducible refine Keep.upd ?_ ?_ ?_ ?_ ?_ ?_ ?_ ?_ ?_ ?_) <;> try with_reducible first | rfl | exact fun h => h))

theorem State.replay_keep {s : State} (sets : List FoundSet) (hk : Keep anc s)
    (hm : [.flash, .media, .faults, .log] ⊆ anc.touched := by exact List.Subset.trans (by decide) hm) : Keep anc (State.replay s sets) := by
  unfold State.replay
  repeat' (first
      | with_reducible assumption | with_reducible exact List.Subset.trans (by decide) hm | with_reducible intro _ | extract_lets
      | with_reducible apply State.classify_keep | with_reducible apply State.replayPage_keep
      | (fail_if_no_progress (with_reducible refine Keep.upd ?_ ?_ ?_ ?_ ?_ ?_ ?_ ?_ ?_ ?_) <;> try with_reducible first | rfl | exact fun h => h)
      | with_reducible apply Keep.foldl)

theorem mapRebuild_keep (sets : List FoundSet) {s : State} (hk : Keep anc s)
    (hm : [.flash, .media, .namespaces, .faults, .boot, .log] ⊆ anc.touched := by exact List.Subset.trans (by decide) hm) : Keep anc (mapRebuild sets
    s) := by
  unfold mapRebuild
  repeat' (first
      | with_reducible assumption | with_reducible exact List.Subset.trans (by decide) hm | extract_lets | with_reducible apply State.replay_keep
      | with_reducible apply State.freeUnrecorded_keep | with_reducible apply Keep.ite
      | (fail_if_no_progress (with_reducible refine Keep.upd ?_ ?_ ?_ ?_ ?_ ?_ ?_ ?_ ?_ ?_) <;> try with_reducible first | rfl | exact fun h => h))

theorem State.enterHeld_keep {s : State} (hk : Keep anc s) (hm : [.log] ⊆ anc.touched := by exact List.Subset.trans (by decide) hm) : Keep anc
    (State.enterHeld s) := by
  unfold State.enterHeld
  repeat' (first
      | with_reducible assumption | with_reducible intro _ | extract_lets | with_reducible apply State.event_keep
      | (fail_if_no_progress (with_reducible refine Keep.upd ?_ ?_ ?_ ?_ ?_ ?_ ?_ ?_ ?_ ?_) <;> try with_reducible first | rfl | exact fun h => h)
      | with_reducible apply Keep.foldl)

theorem State.moveStages_keep {s : State} (v : Nat) (hk : Keep anc s)
    (hm : [.flash, .media, .power, .faults, .security] ⊆ anc.touched := by exact List.Subset.trans (by decide) hm) : Keep anc (State.moveStages s v) := by
  unfold State.moveStages
  repeat' (first
      | with_reducible assumption | extract_lets
      | (fail_if_no_progress (with_reducible refine Keep.upd ?_ ?_ ?_ ?_ ?_ ?_ ?_ ?_ ?_ ?_) <;> try with_reducible first | rfl | exact fun h => h))

theorem State.retireMarks_keep {s : State} (hk : Keep anc s)
    (hm : [.flash, .media, .faults] ⊆ anc.touched := by exact List.Subset.trans (by decide) hm) : Keep anc (State.retireMarks s) := by
  unfold State.retireMarks
  repeat' (first
      | with_reducible assumption | with_reducible intro _ | extract_lets | with_reducible apply State.rawProgram_keep
      | (fail_if_no_progress (with_reducible refine Keep.upd ?_ ?_ ?_ ?_ ?_ ?_ ?_ ?_ ?_ ?_) <;> try with_reducible first | rfl | exact fun h => h)
      | with_reducible apply Keep.foldl | with_reducible apply KeysUp_put)

theorem State.voidMarks_keep {s : State} (hk : Keep anc s) (hm : [.flash, .media, .faults] ⊆ anc.touched := by exact List.Subset.trans (by decide) hm)
    : Keep anc (State.voidMarks s) := by
  unfold State.voidMarks
  repeat' (first
      | with_reducible assumption | with_reducible rfl | with_reducible intro _ | extract_lets | with_reducible apply State.rawProgram_keep
      | (fail_if_no_progress (with_reducible refine Keep.upd ?_ ?_ ?_ ?_ ?_ ?_ ?_ ?_ ?_ ?_) <;> try with_reducible first | rfl | exact fun h => h)
      | with_reducible apply Keep.foldl | with_reducible refine KeysUp_map _ _ ?_ (fun e => ?_) | split | dsimp +zetaDelta only)

theorem State.freeErasing_keep {s : State} (hk : Keep anc s) (hm : [.media] ⊆ anc.touched := by exact List.Subset.trans (by decide) hm) : Keep anc
    (State.freeErasing s) := by
  unfold State.freeErasing
  repeat' (first
      | with_reducible assumption | extract_lets
      | (fail_if_no_progress (with_reducible refine Keep.upd ?_ ?_ ?_ ?_ ?_ ?_ ?_ ?_ ?_ ?_) <;> try with_reducible first | rfl | exact fun h => h))

theorem mediaWork_keep {s : State} (hk : Keep anc s)
    (hm : [.flash, .media, .faults, .boot, .completions, .log] ⊆ anc.touched := by exact List.Subset.trans (by decide) hm) : Keep anc (mediaWork s) := by
  unfold mediaWork
  repeat' (first
      | with_reducible assumption | with_reducible exact List.Subset.trans (by decide) hm | extract_lets | with_reducible apply State.queueErases_keep
      | with_reducible apply State.freeErasing_keep | with_reducible apply State.retireMarks_keep | with_reducible apply State.voidMarks_keep
      | with_reducible apply State.wantMark_keep | with_reducible apply Keep.ite
      | (fail_if_no_progress (with_reducible refine Keep.upd ?_ ?_ ?_ ?_ ?_ ?_ ?_ ?_ ?_ ?_) <;> try with_reducible first | rfl | exact fun h => h))

theorem drbgReseed_keep {s : State} (hk : Keep anc s) (hm : [.security] ⊆ anc.touched := by exact List.Subset.trans (by decide) hm) : Keep anc
    (drbgReseed s) := by
  unfold drbgReseed
  repeat' (first
      | with_reducible assumption | extract_lets | with_reducible apply Keep.ite
      | (fail_if_no_progress (with_reducible refine Keep.upd ?_ ?_ ?_ ?_ ?_ ?_ ?_ ?_ ?_ ?_) <;> try with_reducible first | rfl | exact fun h => h))

end Sys2Proof.Machine
end

