-- ==== Sys2Proof/Laws/KeepNsAdmin.lean ====
section
/-! SUPPORT. What the operations of Machine/NsAdmin.lean keep (Laws/Keep.lean). -/

namespace Sys2Proof.Machine

set_option Elab.async false

open Sys2Proof.Safety

set_option linter.unusedTactic false
set_option linter.unreachableTactic false

variable {anc : KeepCtx}

theorem State.notice_keep {s : State} (nsid : Nat) (hk : Keep anc s)
    (hm : [.queues, .completions] ⊆ anc.touched := by exact List.Subset.trans (by decide) hm) : Keep anc (State.notice s nsid) := by
  unfold State.notice
  repeat' (first
      | with_reducible assumption | extract_lets | with_reducible apply State.asyncEvent_keep
      | (fail_if_no_progress (with_reducible refine Keep.upd ?_ ?_ ?_ ?_ ?_ ?_ ?_ ?_ ?_ ?_) <;> try with_reducible first | rfl | exact fun h => h))

theorem State.newKey_keep {s : State} (hk : Keep anc s) (hm : [.namespaces, .security] ⊆ anc.touched := by exact List.Subset.trans (by decide) hm) :
    Keep anc (State.newKey s).2 := by
  unfold State.newKey
  repeat' (first
      | with_reducible assumption | with_reducible exact List.Subset.trans (by decide) hm | extract_lets | with_reducible apply State.drawKey_keep
      | (fail_if_no_progress (with_reducible refine Keep.upd ?_ ?_ ?_ ?_ ?_ ?_ ?_ ?_ ?_ ?_) <;> try with_reducible first | rfl | exact fun h => h))

theorem namespaceCreate_keep (tag : Tag) (flbas : Nat) (nsze : Nat) (ncap : Nat) (header : Bytes) {s : State} (hk : Keep anc s)
    (hm : [.queues, .namespaces, .security, .completions] ⊆ anc.touched := by exact List.Subset.trans (by decide) hm) : Keep anc (namespaceCreate tag
    flbas nsze ncap header s) := by
  unfold namespaceCreate
  repeat' (first
      | with_reducible assumption | with_reducible exact List.Subset.trans (by decide) hm | with_reducible intro _ | extract_lets
      | with_reducible apply State.command_keep | with_reducible apply State.fail_keep | with_reducible apply State.newKey_keep
      | with_reducible apply State.nextCycle_keep | with_reducible apply State.notice_keep | with_reducible apply State.succeed_keep
      | with_reducible apply Keep.ite
      | (fail_if_no_progress (with_reducible refine Keep.upd ?_ ?_ ?_ ?_ ?_ ?_ ?_ ?_ ?_ ?_) <;> try with_reducible first | rfl | exact fun h => h)
      | split)

theorem namespaceDelete_keep (tag : Tag) (nsid : Nat) {s : State} (hk : Keep anc s)
    (hm : [.namespaces, .completions] ⊆ anc.touched := by exact List.Subset.trans (by decide) hm) : Keep anc (namespaceDelete tag nsid s) := by
  unfold namespaceDelete
  repeat' (first
      | with_reducible assumption | with_reducible exact List.Subset.trans (by decide) hm | with_reducible intro _ | extract_lets
      | with_reducible apply State.command_keep | with_reducible apply State.succeed_keep | with_reducible apply State.fail_keep
      | with_reducible apply Keep.ite
      | (fail_if_no_progress (with_reducible refine Keep.upd ?_ ?_ ?_ ?_ ?_ ?_ ?_ ?_ ?_ ?_) <;> try with_reducible first | rfl | exact fun h => h))

theorem State.endPlain_keep {s : State} (ns : Nat) (st : Status) (hk : Keep anc s)
    (hm : [.media, .completions] ⊆ anc.touched := by exact List.Subset.trans (by decide) hm) : Keep anc (State.endPlain s ns st) := by
  unfold State.endPlain
  repeat' (first
      | with_reducible assumption | with_reducible exact List.Subset.trans (by decide) hm | with_reducible intro _ | extract_lets
      | with_reducible apply State.fail_keep
      | (fail_if_no_progress (with_reducible refine Keep.upd ?_ ?_ ?_ ?_ ?_ ?_ ?_ ?_ ?_ ?_) <;> try with_reducible first | rfl | exact fun h => h)
      | with_reducible apply Keep.foldl)

theorem State.dropContents_keep {s : State} (ns : Nat) (hk : Keep anc s)
    (hm : [.media, .completions] ⊆ anc.touched := by exact List.Subset.trans (by decide) hm) : Keep anc (State.dropContents s ns) := by
  unfold State.dropContents
  repeat' (first
      | with_reducible assumption | extract_lets | with_reducible apply State.landCheck_keep
      | (fail_if_no_progress (with_reducible refine Keep.upd ?_ ?_ ?_ ?_ ?_ ?_ ?_ ?_ ?_ ?_) <;> try with_reducible first | rfl | exact fun h => h))

theorem State.endQueries_keep {s : State} (nsid : Nat) (reason : Nat) (p : Query → Bool) (hk : Keep anc s)
    (hm : [.coaches, .dram, .port, .sessions, .answers, .completions, .log] ⊆ anc.touched := by exact List.Subset.trans (by decide) hm) : Keep anc
    (State.endQueries s nsid reason p) := by
  unfold State.endQueries
  repeat' (first
      | with_reducible assumption | with_reducible intro _ | extract_lets | with_reducible apply State.abortQuery_keep
      | with_reducible apply Keep.foldl)

theorem State.forgetNs_keep {s : State} (nsid : Nat) (hk : Keep anc s)
    (hm : [.port, .sessions] ⊆ anc.touched := by exact List.Subset.trans (by decide) hm) : Keep anc (State.forgetNs s nsid) := by
  unfold State.forgetNs
  repeat' (first
      | with_reducible assumption | with_reducible exact List.Subset.trans (by decide) hm | with_reducible intro _ | extract_lets
      | with_reducible apply State.closePeers_keep
      | (fail_if_no_progress (with_reducible refine Keep.upd ?_ ?_ ?_ ?_ ?_ ?_ ?_ ?_ ?_ ?_) <;> try with_reducible first | rfl | exact fun h => h)
      | with_reducible apply Keep.foldl)

theorem State.deleteNs_keep {s : State} (n : Ns) (hk : Keep anc s)
    (hm : [.coaches, .dram, .media, .port, .queues, .namespaces, .sessions, .answers, .faults, .completions, .log] ⊆ anc.touched := by exact List.Subset.trans (by decide) hm)
    : Keep anc (State.deleteNs s n) := by
  unfold State.deleteNs
  repeat' (first
      | with_reducible assumption | with_reducible exact List.Subset.trans (by decide) hm | extract_lets | with_reducible apply State.endQueries_keep
      | with_reducible apply State.endBuilds_keep | with_reducible apply State.endPlain_keep | with_reducible apply State.forgetNs_keep
      | with_reducible apply State.refuse_keep | with_reducible apply State.fail_keep | with_reducible apply State.dropContents_keep
      | with_reducible apply State.notice_keep | with_reducible apply State.releaseFull_keep | with_reducible apply Keep.ite
      | (fail_if_no_progress (with_reducible refine Keep.upd ?_ ?_ ?_ ?_ ?_ ?_ ?_ ?_ ?_ ?_) <;> try with_reducible first | rfl | exact fun h => h)
      | split | dsimp +zetaDelta only)

theorem namespaceDeleteEffect_keep (nsid : Nat) {s : State} (hk : Keep anc s)
    (hm : [.coaches, .dram, .media, .port, .queues, .namespaces, .sessions, .answers, .faults, .completions, .log] ⊆ anc.touched := by exact List.Subset.trans (by decide) hm)
    : Keep anc (namespaceDeleteEffect nsid s) := by
  unfold namespaceDeleteEffect
  repeat' (first
      | with_reducible assumption | extract_lets | with_reducible apply State.deleteNs_keep | with_reducible apply Keep.ite
      | (fail_if_no_progress (with_reducible refine Keep.upd ?_ ?_ ?_ ?_ ?_ ?_ ?_ ?_ ?_ ?_) <;> try with_reducible first | rfl | exact fun h => h)
      | split)

theorem namespaceDeleteComplete_keep (nsid : Nat) {s : State} (hk : Keep anc s)
    (hm : [.namespaces, .completions] ⊆ anc.touched := by exact List.Subset.trans (by decide) hm) : Keep anc (namespaceDeleteComplete nsid s) := by
  unfold namespaceDeleteComplete
  repeat' (first
      | with_reducible assumption | with_reducible exact List.Subset.trans (by decide) hm | extract_lets | with_reducible apply State.succeed_keep
      | with_reducible apply Keep.ite
      | (fail_if_no_progress (with_reducible refine Keep.upd ?_ ?_ ?_ ?_ ?_ ?_ ?_ ?_ ?_ ?_) <;> try with_reducible first | rfl | exact fun h => h)
      | split)

theorem State.fullFormat_keep {s : State} (tag : Tag) (hk : Keep anc s)
    (hm : [.coaches, .dram, .flash, .media, .port, .queues, .namespaces, .sessions, .answers, .faults, .completions, .log] ⊆ anc.touched := by exact List.Subset.trans (by decide) hm)
    : Keep anc (State.fullFormat s tag) := by
  unfold State.fullFormat
  repeat' (first
      | with_reducible assumption | with_reducible exact List.Subset.trans (by decide) hm | with_reducible intro _ | extract_lets
      | with_reducible apply State.fail_keep | with_reducible apply State.deleteNs_keep | with_reducible apply Keep.ite
      | (fail_if_no_progress (with_reducible refine Keep.upd ?_ ?_ ?_ ?_ ?_ ?_ ?_ ?_ ?_ ?_) <;> try with_reducible first | rfl | exact fun h => h)
      | with_reducible apply Keep.foldl)

theorem State.formatDie_keep {s : State} (die : Nat) (hk : Keep anc s)
    (hm : [.flash, .log] ⊆ anc.touched := by exact List.Subset.trans (by decide) hm) : Keep anc (State.formatDie s die) := by
  unfold State.formatDie
  repeat' (first
      | with_reducible assumption | extract_lets | with_reducible apply State.issueErase_keep | with_reducible apply Keep.ite
      | (fail_if_no_progress (with_reducible refine Keep.upd ?_ ?_ ?_ ?_ ?_ ?_ ?_ ?_ ?_ ?_) <;> try with_reducible first | rfl | exact fun h => h))

theorem State.formatTick_keep {s : State} (hk : Keep anc s)
    (hm : [.flash, .media, .queues, .namespaces, .completions, .log] ⊆ anc.touched := by exact List.Subset.trans (by decide) hm) : Keep anc
    (State.formatTick s) := by
  unfold State.formatTick
  repeat' (first
      | with_reducible assumption | with_reducible exact List.Subset.trans (by decide) hm | with_reducible intro _ | extract_lets
      | with_reducible apply State.formatDie_keep | with_reducible apply State.event_keep | with_reducible apply State.succeed_keep
      | with_reducible apply State.warn_keep | with_reducible apply State.landCheck_keep | with_reducible apply Keep.ite
      | (fail_if_no_progress (with_reducible refine Keep.upd ?_ ?_ ?_ ?_ ?_ ?_ ?_ ?_ ?_ ?_) <;> try with_reducible first | rfl | exact fun h => h)
      | with_reducible apply Keep.foldl | split)

theorem formatNvm_keep (tag : Tag) (nsid : Nat) (lbaf : Nat) (ses : Nat) (pi : Nat) (pil : Nat) {s : State} (hk : Keep anc s)
    (hm : [.coaches, .dram, .flash, .media, .port, .queues, .namespaces, .sessions, .answers, .faults, .completions, .log] ⊆ anc.touched := by exact List.Subset.trans (by decide) hm)
    : Keep anc (formatNvm tag nsid lbaf ses pi pil s) := by
  unfold formatNvm
  repeat' (first
      | with_reducible assumption | with_reducible exact List.Subset.trans (by decide) hm | with_reducible intro _ | extract_lets
      | with_reducible apply State.command_keep | with_reducible apply State.fail_keep | with_reducible apply State.fullFormat_keep
      | with_reducible apply State.succeed_keep | with_reducible apply Keep.ite
      | (fail_if_no_progress (with_reducible refine Keep.upd ?_ ?_ ?_ ?_ ?_ ?_ ?_ ?_ ?_ ?_) <;> try with_reducible first | rfl | exact fun h => h))

theorem formatEffect_keep (nsid : Nat) {s : State} (hk : Keep anc s)
    (hm : [.coaches, .dram, .media, .port, .queues, .namespaces, .sessions, .answers, .faults, .security, .completions, .log] ⊆ anc.touched := by exact List.Subset.trans (by decide) hm)
    : Keep anc (formatEffect nsid s) := by
  unfold formatEffect
  repeat' (first
      | with_reducible assumption | with_reducible exact List.Subset.trans (by decide) hm | extract_lets | with_reducible apply State.endQueries_keep
      | with_reducible apply State.endBuilds_keep | with_reducible apply State.endPlain_keep | with_reducible apply State.refuse_keep
      | with_reducible apply State.dropContents_keep | with_reducible apply State.newKey_keep | with_reducible apply State.updNs_keep
      | with_reducible apply State.notice_keep | with_reducible apply State.releaseFull_keep | with_reducible apply State.succeed_keep
      | with_reducible apply Keep.ite | split | dsimp +zetaDelta only)

theorem formatNvmFull_keep (tag : Tag) {s : State} (hk : Keep anc s)
    (hm : [.coaches, .dram, .flash, .media, .port, .queues, .namespaces, .sessions, .answers, .faults, .completions, .log] ⊆ anc.touched := by exact List.Subset.trans (by decide) hm)
    : Keep anc (formatNvmFull tag s) := by
  unfold formatNvmFull
  repeat' (first
      | with_reducible assumption | with_reducible exact List.Subset.trans (by decide) hm | with_reducible intro _ | extract_lets
      | with_reducible apply State.command_keep | with_reducible apply State.fullFormat_keep)

theorem State.setLock_keep {s : State} (nsid : Nat) (l : Lock) (hk : Keep anc s)
    (hm : [.namespaces] ⊆ anc.touched := by exact List.Subset.trans (by decide) hm) : Keep anc (State.setLock s nsid l) := by
  unfold State.setLock
  repeat' (first
      | with_reducible assumption | with_reducible apply State.updNs_keep)

theorem State.recordLock_keep {s : State} (nsid : Nat) (l : Lock) (hk : Keep anc s)
    (hm : [.flash, .media, .namespaces, .faults, .log] ⊆ anc.touched := by exact List.Subset.trans (by decide) hm) : Keep anc (State.recordLock s nsid
    l) := by
  unfold State.recordLock
  repeat' (first
      | with_reducible assumption | with_reducible exact List.Subset.trans (by decide) hm | extract_lets | with_reducible apply State.writeTwice_keep
      | with_reducible apply State.updNs_keep | with_reducible apply State.setLock_keep)

theorem State.lockFailure_keep {s : State} (tag : Tag) (nsid : Nat) (l : Lock) (hk : Keep anc s)
    (hm : [.namespaces, .completions, .log] ⊆ anc.touched := by exact List.Subset.trans (by decide) hm) : Keep anc (State.lockFailure s tag nsid l) := by
  unfold State.lockFailure
  repeat' (first
      | with_reducible assumption | with_reducible exact List.Subset.trans (by decide) hm | extract_lets | with_reducible apply State.setLock_keep
      | with_reducible apply State.event_keep | with_reducible apply State.fail_keep | with_reducible apply Keep.ite)

theorem State.lockCommand_keep {s : State} (tag : Tag) (op : Nat) (b : Bytes) (f : Nat → Lock → State → State) (hk : Keep anc s)
    (hm : [.completions] ⊆ anc.touched := by exact List.Subset.trans (by decide) hm) (hf : ∀ x0 x1 t, Keep anc t → Keep anc (f x0 x1 t)) : Keep anc
    (State.lockCommand s tag op b f) := by
  unfold State.lockCommand
  repeat' (first
      | with_reducible assumption | with_reducible intro _ | extract_lets | with_reducible apply State.command_keep
      | with_reducible apply State.fail_keep | with_reducible apply Keep.ite | with_reducible apply hf | split)

theorem securitySetPassword_keep (tag : Tag) (b : Bytes) {s : State} (hk : Keep anc s)
    (hm : [.flash, .media, .namespaces, .faults, .security, .completions, .log] ⊆ anc.touched := by exact List.Subset.trans (by decide) hm) : Keep anc
    (securitySetPassword tag b s) := by
  unfold securitySetPassword
  repeat' (first
      | with_reducible assumption | with_reducible exact List.Subset.trans (by decide) hm | with_reducible intro _ | extract_lets
      | with_reducible apply State.lockCommand_keep | with_reducible apply State.fail_keep | with_reducible apply State.lockFailure_keep
      | with_reducible apply State.recordLock_keep | with_reducible apply State.succeed_keep | with_reducible apply State.drawKey_keep
      | with_reducible apply Keep.ite)

theorem securityLock_keep (tag : Tag) (b : Bytes) {s : State} (hk : Keep anc s)
    (hm : [.flash, .media, .namespaces, .faults, .completions, .log] ⊆ anc.touched := by exact List.Subset.trans (by decide) hm) : Keep anc
    (securityLock tag b s) := by
  unfold securityLock
  repeat' (first
      | with_reducible assumption | with_reducible exact List.Subset.trans (by decide) hm | with_reducible intro _ | extract_lets
      | with_reducible apply State.lockCommand_keep | with_reducible apply State.fail_keep | with_reducible apply State.lockFailure_keep
      | with_reducible apply State.recordLock_keep | with_reducible apply State.succeed_keep | with_reducible apply Keep.ite)

theorem securityUnlock_keep (tag : Tag) (b : Bytes) {s : State} (hk : Keep anc s)
    (hm : [.flash, .media, .namespaces, .faults, .completions, .log] ⊆ anc.touched := by exact List.Subset.trans (by decide) hm) : Keep anc
    (securityUnlock tag b s) := by
  unfold securityUnlock
  repeat' (first
      | with_reducible assumption | with_reducible exact List.Subset.trans (by decide) hm | with_reducible intro _ | extract_lets
      | with_reducible apply State.lockCommand_keep | with_reducible apply State.lockFailure_keep | with_reducible apply State.recordLock_keep
      | with_reducible apply State.succeed_keep | with_reducible apply Keep.ite)

theorem securityReceiveLockState_keep (tag : Tag) (nsid : Nat) (alloc : Nat) {s : State} (hk : Keep anc s)
    (hm : [.completions] ⊆ anc.touched := by exact List.Subset.trans (by decide) hm) : Keep anc (securityReceiveLockState tag nsid alloc s) := by
  unfold securityReceiveLockState
  repeat' (first
      | with_reducible assumption | with_reducible intro _ | extract_lets | with_reducible apply State.command_keep
      | with_reducible apply State.fail_keep | with_reducible apply State.succeed_keep | split)

theorem State.lockTick_keep {s : State} (hk : Keep anc s) (hm : [.namespaces, .sessions] ⊆ anc.touched := by exact List.Subset.trans (by decide) hm) :
    Keep anc (State.lockTick s) := by
  unfold State.lockTick
  repeat' (first
      | with_reducible assumption | extract_lets | with_reducible apply Keep.ite
      | (fail_if_no_progress (with_reducible refine Keep.upd ?_ ?_ ?_ ?_ ?_ ?_ ?_ ?_ ?_ ?_) <;> try with_reducible first | rfl | exact fun h => h))

end Sys2Proof.Machine
end

