-- ==== Sys2Proof/Laws/KeepAdmin.lean ====
section
/-! SUPPORT. What the operations of Machine/Admin.lean keep (Laws/Keep.lean). -/

namespace Sys2Proof.Machine

set_option Elab.async false

open Sys2Proof.Safety

set_option linter.unusedTactic false
set_option linter.unreachableTactic false

variable {anc : KeepCtx}

theorem getFeatures_keep (tag : Tag) (fid : Nat) (sel : Nat) {s : State} (hk : Keep anc s)
    (hm : [.free, .completions] ⊆ anc.touched := by exact List.Subset.trans (by decide) hm) : Keep anc (getFeatures tag fid sel s) := by
  unfold getFeatures
  repeat' (first
      | with_reducible assumption | with_reducible exact List.Subset.trans (by decide) hm | with_reducible intro _ | extract_lets
      | with_reducible apply State.command_keep | with_reducible apply State.fail_keep | with_reducible apply State.succeed_keep
      | with_reducible apply State.drawNat_keep | with_reducible apply Keep.ite)

theorem State.setCommand_keep {s : State} (tag : Tag) (sv : Bool) (f : Ctrl → State → State) (hk : Keep anc s)
    (hm : [.completions] ⊆ anc.touched := by exact List.Subset.trans (by decide) hm) (hf : ∀ x0 t, Keep anc t → Keep anc (f x0 t)) : Keep anc
    (State.setCommand s tag sv f) := by
  unfold State.setCommand
  repeat' (first
      | with_reducible assumption | with_reducible intro _ | extract_lets | with_reducible apply State.command_keep
      | with_reducible apply State.fail_keep | with_reducible apply Keep.ite | with_reducible apply hf)

theorem setYokeFeature_keep (tag : Tag) (v : Nat) {s : State} (hk : Keep anc s)
    (hm : [.stage, .completions] ⊆ anc.touched := by exact List.Subset.trans (by decide) hm) : Keep anc (setYokeFeature tag v s) := by
  unfold setYokeFeature
  repeat' (first
      | with_reducible assumption | with_reducible exact List.Subset.trans (by decide) hm | with_reducible rfl | extract_lets
      | with_reducible apply State.fail_keep | with_reducible apply State.setYoke_keep | with_reducible apply State.succeed_keep
      | with_reducible apply Keep.ite
      | (fail_if_no_progress (with_reducible refine Keep.upd ?_ ?_ ?_ ?_ ?_ ?_ ?_ ?_ ?_ ?_) <;> try with_reducible first | rfl | exact fun h => h)
      | split | dsimp +zetaDelta only)

theorem setSliceFeature_keep (tag : Tag) (v : Nat) {s : State} (hk : Keep anc s)
    (hm : [.sessions, .completions] ⊆ anc.touched := by exact List.Subset.trans (by decide) hm) : Keep anc (setSliceFeature tag v s) := by
  unfold setSliceFeature
  repeat' (first
      | with_reducible assumption | with_reducible exact List.Subset.trans (by decide) hm | extract_lets | with_reducible apply State.fail_keep
      | with_reducible apply State.succeed_keep | with_reducible apply Keep.ite
      | (fail_if_no_progress (with_reducible refine Keep.upd ?_ ?_ ?_ ?_ ?_ ?_ ?_ ?_ ?_ ?_) <;> try with_reducible first | rfl | exact fun h => h))

theorem setPolicyFeature_keep (tag : Tag) (v : Nat) {s : State} (hk : Keep anc s)
    (hm : [.sessions, .completions] ⊆ anc.touched := by exact List.Subset.trans (by decide) hm) : Keep anc (setPolicyFeature tag v s) := by
  unfold setPolicyFeature
  repeat' (first
      | with_reducible assumption | with_reducible exact List.Subset.trans (by decide) hm | extract_lets | with_reducible apply State.fail_keep
      | with_reducible apply State.succeed_keep | with_reducible apply Keep.ite
      | (fail_if_no_progress (with_reducible refine Keep.upd ?_ ?_ ?_ ?_ ?_ ?_ ?_ ?_ ?_ ?_) <;> try with_reducible first | rfl | exact fun h => h))

theorem setWindowFeature_keep (tag : Tag) (v : Nat) {s : State} (hk : Keep anc s)
    (hm : [.sessions, .completions] ⊆ anc.touched := by exact List.Subset.trans (by decide) hm) : Keep anc (setWindowFeature tag v s) := by
  unfold setWindowFeature
  repeat' (first
      | with_reducible assumption | with_reducible exact List.Subset.trans (by decide) hm | extract_lets | with_reducible apply State.fail_keep
      | with_reducible apply State.succeed_keep | with_reducible apply Keep.ite
      | (fail_if_no_progress (with_reducible refine Keep.upd ?_ ?_ ?_ ?_ ?_ ?_ ?_ ?_ ?_ ?_) <;> try with_reducible first | rfl | exact fun h => h))

theorem setTempFeature_keep (tag : Tag) (v : Nat) {s : State} (hk : Keep anc s)
    (hm : [.queues, .completions] ⊆ anc.touched := by exact List.Subset.trans (by decide) hm) : Keep anc (setTempFeature tag v s) := by
  unfold setTempFeature
  repeat' (first
      | with_reducible assumption | with_reducible exact List.Subset.trans (by decide) hm | with_reducible rfl | extract_lets
      | with_reducible apply State.fail_keep | with_reducible apply State.warn_keep | with_reducible apply State.succeed_keep
      | with_reducible apply Keep.ite
      | (fail_if_no_progress (with_reducible refine Keep.upd ?_ ?_ ?_ ?_ ?_ ?_ ?_ ?_ ?_ ?_) <;> try with_reducible first | rfl | exact fun h => h)
      | split | dsimp +zetaDelta only)

theorem setQueuesFeature_keep (tag : Tag) (c : Ctrl) (v : Nat) {s : State} (hk : Keep anc s)
    (hm : [.queues, .completions] ⊆ anc.touched := by exact List.Subset.trans (by decide) hm) : Keep anc (setQueuesFeature tag c v s) := by
  unfold setQueuesFeature
  repeat' (first
      | with_reducible assumption | with_reducible exact List.Subset.trans (by decide) hm | extract_lets | with_reducible apply State.updCtrl_keep
      | with_reducible apply State.succeed_keep)

theorem setFeature_keep (tag : Tag) (fid : Nat) (v : Nat) (c : Ctrl) {s : State} (hk : Keep anc s)
    (hm : [.stage, .queues, .sessions, .completions] ⊆ anc.touched := by exact List.Subset.trans (by decide) hm) : Keep anc (setFeature tag fid v c s) := by
  unfold setFeature
  repeat' (first
      | with_reducible assumption | with_reducible exact List.Subset.trans (by decide) hm | extract_lets | with_reducible apply setTempFeature_keep
      | with_reducible apply State.succeed_keep | with_reducible apply State.fail_keep | with_reducible apply setQueuesFeature_keep
      | with_reducible apply State.updCtrl_keep | with_reducible apply setYokeFeature_keep | with_reducible apply setSliceFeature_keep
      | with_reducible apply setPolicyFeature_keep | with_reducible apply setWindowFeature_keep | with_reducible apply Keep.ite | split)

theorem setFeatures_keep (tag : Tag) (fid : Nat) (sv : Bool) (v : Nat) {s : State} (hk : Keep anc s)
    (hm : [.stage, .queues, .sessions, .completions] ⊆ anc.touched := by exact List.Subset.trans (by decide) hm) : Keep anc (setFeatures tag fid sv v
    s) := by
  unfold setFeatures
  repeat' (first
      | with_reducible assumption | with_reducible exact List.Subset.trans (by decide) hm | with_reducible intro _ | extract_lets
      | with_reducible apply State.setCommand_keep | with_reducible apply setFeature_keep)

theorem setFeaturesYoke_keep (tag : Tag) (sv : Bool) (v : BitVec 32) {s : State} (hk : Keep anc s)
    (hm : [.stage, .completions] ⊆ anc.touched := by exact List.Subset.trans (by decide) hm) : Keep anc (setFeaturesYoke tag sv v s) := by
  unfold setFeaturesYoke
  repeat' (first
      | with_reducible assumption | with_reducible exact List.Subset.trans (by decide) hm | with_reducible intro _ | extract_lets
      | with_reducible apply State.setCommand_keep | with_reducible apply setYokeFeature_keep)

theorem setFeaturesTimeSlice_keep (tag : Tag) (sv : Bool) (v : BitVec 32) {s : State} (hk : Keep anc s)
    (hm : [.sessions, .completions] ⊆ anc.touched := by exact List.Subset.trans (by decide) hm) : Keep anc (setFeaturesTimeSlice tag sv v s) := by
  unfold setFeaturesTimeSlice
  repeat' (first
      | with_reducible assumption | with_reducible exact List.Subset.trans (by decide) hm | with_reducible intro _ | extract_lets
      | with_reducible apply State.setCommand_keep | with_reducible apply setSliceFeature_keep)

theorem setFeaturesDirtyCap_keep (tag : Tag) (sv : Bool) (x_ : BitVec 32) {s : State} (hk : Keep anc s)
    (hm : [.completions] ⊆ anc.touched := by exact List.Subset.trans (by decide) hm) : Keep anc (setFeaturesDirtyCap tag sv x_ s) := by
  unfold setFeaturesDirtyCap
  repeat' (first
      | with_reducible assumption | with_reducible intro _ | extract_lets | with_reducible apply State.setCommand_keep
      | with_reducible apply State.fail_keep)

theorem setFeaturesDeadlinePolicy_keep (tag : Tag) (sv : Bool) (v : BitVec 32) {s : State} (hk : Keep anc s)
    (hm : [.sessions, .completions] ⊆ anc.touched := by exact List.Subset.trans (by decide) hm) : Keep anc (setFeaturesDeadlinePolicy tag sv v s) := by
  unfold setFeaturesDeadlinePolicy
  repeat' (first
      | with_reducible assumption | with_reducible exact List.Subset.trans (by decide) hm | with_reducible intro _ | extract_lets
      | with_reducible apply State.setCommand_keep | with_reducible apply setPolicyFeature_keep)

theorem setFeaturesReclaimWindow_keep (tag : Tag) (sv : Bool) (v : BitVec 32) {s : State} (hk : Keep anc s)
    (hm : [.sessions, .completions] ⊆ anc.touched := by exact List.Subset.trans (by decide) hm) : Keep anc (setFeaturesReclaimWindow tag sv v s) := by
  unfold setFeaturesReclaimWindow
  repeat' (first
      | with_reducible assumption | with_reducible exact List.Subset.trans (by decide) hm | with_reducible intro _ | extract_lets
      | with_reducible apply State.setCommand_keep | with_reducible apply setWindowFeature_keep)

theorem asyncEventRequest_keep (tag : Tag) {s : State} (hk : Keep anc s)
    (hm : [.queues, .completions] ⊆ anc.touched := by exact List.Subset.trans (by decide) hm) : Keep anc (asyncEventRequest tag s) := by
  unfold asyncEventRequest
  repeat' (first
      | with_reducible assumption | with_reducible exact List.Subset.trans (by decide) hm | with_reducible intro _ | extract_lets
      | with_reducible apply State.command_keep | with_reducible apply State.updCtrl_keep | with_reducible apply State.succeed_keep
      | with_reducible apply State.fail_keep | with_reducible apply Keep.ite | split)

theorem State.abortTag_keep {s : State} (t : Tag) (hk : Keep anc s)
    (hm : [.coaches, .dram, .media, .port, .sessions, .answers, .faults, .completions, .log] ⊆ anc.touched := by exact List.Subset.trans (by decide) hm)
    : KeepOpt anc (State.abortTag s t) := by
  unfold State.abortTag
  repeat' (first
      | with_reducible assumption | with_reducible exact List.Subset.trans (by decide) hm | with_reducible intro _ | extract_lets
      | with_reducible apply State.fail_keep | with_reducible apply State.updSess_keep | with_reducible apply State.endBind_keep
      | with_reducible apply State.dropQuery_keep | with_reducible apply State.endScan_keep
      | (fail_if_no_progress (with_reducible refine Keep.upd ?_ ?_ ?_ ?_ ?_ ?_ ?_ ?_ ?_ ?_) <;> try with_reducible first | rfl | exact fun h => h)
      | with_reducible apply KeepOpt.none | with_reducible apply KeepOpt.some | with_reducible apply KeepOpt.orElse
      | with_reducible apply KeepOpt.findSome | split | with_reducible apply KeepOpt.map)

theorem abort_keep (tag : Tag) (cid : Nat) {s : State} (hk : Keep anc s)
    (hm : [.coaches, .dram, .media, .port, .sessions, .answers, .faults, .completions, .log] ⊆ anc.touched := by exact List.Subset.trans (by decide) hm)
    : Keep anc (abort tag cid s) := by
  unfold abort
  repeat' (first
      | with_reducible assumption | with_reducible exact List.Subset.trans (by decide) hm | with_reducible intro _ | extract_lets
      | with_reducible apply State.command_keep | with_reducible apply State.abortTag_keep | with_reducible apply State.succeed_keep
      | with_reducible refine Keep.opt (by assumption) ?_ | split)

theorem invalidOpcode_keep (tag : Tag) (admin : Bool) (_opcode : Nat) {s : State} (hk : Keep anc s)
    (hm : [.completions] ⊆ anc.touched := by exact List.Subset.trans (by decide) hm) : Keep anc (invalidOpcode tag admin _opcode s) := by
  unfold invalidOpcode
  repeat' (first
      | with_reducible assumption | with_reducible intro _ | extract_lets | with_reducible apply State.command_keep
      | with_reducible apply State.fail_keep)

theorem identify_keep (tag : Tag) (cns : Nat) (nsid : Nat) {s : State} (hk : Keep anc s)
    (hm : [.free, .completions] ⊆ anc.touched := by exact List.Subset.trans (by decide) hm) : Keep anc (identify tag cns nsid s) := by
  unfold identify
  repeat' (first
      | with_reducible assumption | with_reducible exact List.Subset.trans (by decide) hm | with_reducible intro _ | extract_lets
      | with_reducible apply State.command_keep | with_reducible apply State.drawBytes_keep | with_reducible apply State.succeed_keep
      | with_reducible apply State.fail_keep | with_reducible apply State.nextCycle_keep | with_reducible refine Keep.pair (by assumption) ?_ | split
      | dsimp +zetaDelta only)

theorem securityReceiveSessionKey_keep (tag : Tag) (sess : Nat) (alloc : Nat) {s : State} (hk : Keep anc s)
    (hm : [.completions] ⊆ anc.touched := by exact List.Subset.trans (by decide) hm) : Keep anc (securityReceiveSessionKey tag sess alloc s) := by
  unfold securityReceiveSessionKey
  repeat' (first
      | with_reducible assumption | with_reducible intro _ | extract_lets | with_reducible apply State.command_keep
      | with_reducible apply State.fail_keep | with_reducible apply State.succeed_keep | with_reducible apply Keep.ite | split)

theorem State.setSpdm_keep {s : State} (c : Nat) (n : Nat) (hk : Keep anc s)
    (hm : [.security] ⊆ anc.touched := by exact List.Subset.trans (by decide) hm) : Keep anc (State.setSpdm s c n) := by
  unfold State.setSpdm
  repeat' (first
      | with_reducible assumption | extract_lets
      | (fail_if_no_progress (with_reducible refine Keep.upd ?_ ?_ ?_ ?_ ?_ ?_ ?_ ?_ ?_ ?_) <;> try with_reducible first | rfl | exact fun h => h))

theorem State.spdmReply_keep {s : State} (tag : Tag) (r : Bytes) (hk : Keep anc s)
    (hm : [.port, .completions] ⊆ anc.touched := by exact List.Subset.trans (by decide) hm) : Keep anc (State.spdmReply s tag r) := by
  unfold State.spdmReply
  repeat' (first
      | with_reducible assumption | with_reducible exact List.Subset.trans (by decide) hm | extract_lets | with_reducible apply State.send_keep
      | with_reducible apply State.succeed_keep)

theorem State.spdmCommand_keep {s : State} (tag : Tag) (need : Nat) (f : Ctrl → State → State) (hk : Keep anc s)
    (hm : [.port, .completions] ⊆ anc.touched := by exact List.Subset.trans (by decide) hm) (hf : ∀ x0 t, Keep anc t → Keep anc (f x0 t)) : Keep anc
    (State.spdmCommand s tag need f) := by
  unfold State.spdmCommand
  repeat' (first
      | with_reducible assumption | with_reducible exact List.Subset.trans (by decide) hm | with_reducible intro _ | extract_lets
      | with_reducible apply State.command_keep | with_reducible apply State.spdmReply_keep | with_reducible apply Keep.ite | with_reducible apply hf)

theorem spdmGetVersion_keep (tag : Tag) {s : State} (hk : Keep anc s)
    (hm : [.port, .security, .completions] ⊆ anc.touched := by exact List.Subset.trans (by decide) hm) : Keep anc (spdmGetVersion tag s) := by
  unfold spdmGetVersion
  repeat' (first
      | with_reducible assumption | with_reducible exact List.Subset.trans (by decide) hm | with_reducible intro _ | extract_lets
      | with_reducible apply State.spdmCommand_keep | with_reducible apply State.setSpdm_keep | with_reducible apply State.spdmReply_keep)

theorem spdmGetCapabilities_keep (tag : Tag) {s : State} (hk : Keep anc s)
    (hm : [.port, .security, .completions] ⊆ anc.touched := by exact List.Subset.trans (by decide) hm) : Keep anc (spdmGetCapabilities tag s) := by
  unfold spdmGetCapabilities
  repeat' (first
      | with_reducible assumption | with_reducible exact List.Subset.trans (by decide) hm | with_reducible intro _ | extract_lets
      | with_reducible apply State.spdmCommand_keep | with_reducible apply State.setSpdm_keep | with_reducible apply State.spdmReply_keep)

theorem spdmNegotiateAlgorithms_keep (tag : Tag) {s : State} (hk : Keep anc s)
    (hm : [.free, .port, .security, .completions] ⊆ anc.touched := by exact List.Subset.trans (by decide) hm) : Keep anc (spdmNegotiateAlgorithms tag
    s) := by
  unfold spdmNegotiateAlgorithms
  repeat' (first
      | with_reducible assumption | with_reducible exact List.Subset.trans (by decide) hm | with_reducible intro _ | extract_lets
      | with_reducible apply State.spdmCommand_keep | with_reducible apply State.drawBytes_keep | with_reducible apply State.setSpdm_keep
      | with_reducible apply State.spdmReply_keep)

theorem spdmGetDigests_keep (tag : Tag) {s : State} (hk : Keep anc s)
    (hm : [.port, .completions] ⊆ anc.touched := by exact List.Subset.trans (by decide) hm) : Keep anc (spdmGetDigests tag s) := by
  unfold spdmGetDigests
  repeat' (first
      | with_reducible assumption | with_reducible intro _ | extract_lets | with_reducible apply State.spdmCommand_keep
      | with_reducible apply State.spdmReply_keep)

theorem spdmGetCertificate_keep (tag : Tag) (slot : Nat) (offset : Nat) (len : Nat) {s : State} (hk : Keep anc s)
    (hm : [.port, .completions] ⊆ anc.touched := by exact List.Subset.trans (by decide) hm) : Keep anc (spdmGetCertificate tag slot offset len s) := by
  unfold spdmGetCertificate
  repeat' (first
      | with_reducible assumption | with_reducible intro _ | extract_lets | with_reducible apply State.spdmCommand_keep
      | with_reducible apply State.spdmReply_keep | with_reducible apply Keep.ite | split)

theorem spdmChallenge_keep (tag : Tag) (slot : Nat) (nonce : Bytes) {s : State} (hk : Keep anc s)
    (hm : [.port, .security, .completions] ⊆ anc.touched := by exact List.Subset.trans (by decide) hm) : Keep anc (spdmChallenge tag slot nonce s) := by
  unfold spdmChallenge
  repeat' (first
      | with_reducible assumption | with_reducible exact List.Subset.trans (by decide) hm | with_reducible intro _ | extract_lets
      | with_reducible apply State.spdmCommand_keep | with_reducible apply State.spdmReply_keep | with_reducible apply State.drawKey_keep | split)

theorem spdmGetMeasurements_keep (tag : Tag) (index : Nat) (nonce : Bytes) {s : State} (hk : Keep anc s)
    (hm : [.port, .security, .completions] ⊆ anc.touched := by exact List.Subset.trans (by decide) hm) : Keep anc (spdmGetMeasurements tag index nonce
    s) := by
  unfold spdmGetMeasurements
  repeat' (first
      | with_reducible assumption | with_reducible exact List.Subset.trans (by decide) hm | with_reducible intro _ | extract_lets
      | with_reducible apply State.spdmCommand_keep | with_reducible apply State.spdmReply_keep | with_reducible apply State.drawKey_keep
      | with_reducible apply Keep.ite)

end Sys2Proof.Machine
end

