-- ==== Sys2Proof/Laws/KeepLogs.lean ====
section
/-! SUPPORT. What the operations of Machine/Logs.lean keep (Laws/Keep.lean). -/

namespace Sys2Proof.Machine

set_option Elab.async false

open Sys2Proof.Safety

set_option linter.unusedTactic false
set_option linter.unreachableTactic false

variable {anc : KeepCtx}

theorem State.pageRead_keep {s : State} (c : Ctrl) (lid : Nat) (rae : Bool) (hk : Keep anc s)
    (hm : [.queues] ⊆ anc.touched := by exact List.Subset.trans (by decide) hm) : Keep anc (State.pageRead s c lid rae) := by
  unfold State.pageRead
  repeat' (first
      | with_reducible assumption | extract_lets | with_reducible apply State.updCtrl_keep | with_reducible apply Keep.ite)

theorem State.givePage_keep {s : State} (c : Ctrl) (tag : Tag) (lid : Nat) (offset : Nat) (len : Nat) (rae : Bool) (stamped : Bool) (page : Bytes) (hk
    : Keep anc s) (hm : [.queues, .completions] ⊆ anc.touched := by exact List.Subset.trans (by decide) hm) : Keep anc (State.givePage s c tag lid
    offset len rae stamped page) := by
  unfold State.givePage
  repeat' (first
      | with_reducible assumption | with_reducible exact List.Subset.trans (by decide) hm | extract_lets | with_reducible apply State.pageRead_keep
      | with_reducible apply State.succeed_keep | with_reducible apply State.nextCycle_keep | with_reducible apply Keep.ite)

theorem State.logCommand_keep {s : State} (tag : Tag) (lid : Nat) (f : Ctrl → State → State) (hk : Keep anc s)
    (hm : [.completions] ⊆ anc.touched := by exact List.Subset.trans (by decide) hm) (hf : ∀ x0 t, Keep anc t → Keep anc (f x0 t)) : Keep anc
    (State.logCommand s tag lid f) := by
  unfold State.logCommand
  repeat' (first
      | with_reducible assumption | with_reducible apply State.command_keep)

theorem getLogPageEventLog_keep (tag : Tag) (offset : Nat) (len : Nat) (rae : Bool) {s : State} (hk : Keep anc s)
    (hm : [.queues, .completions] ⊆ anc.touched := by exact List.Subset.trans (by decide) hm) : Keep anc (getLogPageEventLog tag offset len rae s) := by
  unfold getLogPageEventLog
  repeat' (first
      | with_reducible assumption | with_reducible exact List.Subset.trans (by decide) hm | with_reducible intro _ | extract_lets
      | with_reducible apply State.logCommand_keep | with_reducible apply State.givePage_keep)

theorem getLogPageHealth_keep (tag : Tag) (offset : Nat) (len : Nat) (rae : Bool) {s : State} (hk : Keep anc s)
    (hm : [.queues, .completions] ⊆ anc.touched := by exact List.Subset.trans (by decide) hm) : Keep anc (getLogPageHealth tag offset len rae s) := by
  unfold getLogPageHealth
  repeat' (first
      | with_reducible assumption | with_reducible exact List.Subset.trans (by decide) hm | with_reducible intro _ | extract_lets
      | with_reducible apply State.logCommand_keep | with_reducible apply State.givePage_keep)

theorem getLogPageFuses_keep (tag : Tag) (offset : Nat) (len : Nat) (rae : Bool) {s : State} (hk : Keep anc s)
    (hm : [.queues, .completions] ⊆ anc.touched := by exact List.Subset.trans (by decide) hm) : Keep anc (getLogPageFuses tag offset len rae s) := by
  unfold getLogPageFuses
  repeat' (first
      | with_reducible assumption | with_reducible exact List.Subset.trans (by decide) hm | with_reducible intro _ | extract_lets
      | with_reducible apply State.logCommand_keep | with_reducible apply State.givePage_keep)

theorem getLogPageTopology_keep (tag : Tag) (offset : Nat) (len : Nat) (rae : Bool) {s : State} (hk : Keep anc s)
    (hm : [.queues, .completions] ⊆ anc.touched := by exact List.Subset.trans (by decide) hm) : Keep anc (getLogPageTopology tag offset len rae s) := by
  unfold getLogPageTopology
  repeat' (first
      | with_reducible assumption | with_reducible exact List.Subset.trans (by decide) hm | with_reducible intro _ | extract_lets
      | with_reducible apply State.logCommand_keep | with_reducible apply State.givePage_keep)

theorem getLogPageTimetable_keep (tag : Tag) (lsp : Nat) (lsi : Nat) (offset : Nat) (len : Nat) (rae : Bool) {s : State} (hk : Keep anc s)
    (hm : [.queues, .completions] ⊆ anc.touched := by exact List.Subset.trans (by decide) hm) : Keep anc (getLogPageTimetable tag lsp lsi offset len
    rae s) := by
  unfold getLogPageTimetable
  repeat' (first
      | with_reducible assumption | with_reducible exact List.Subset.trans (by decide) hm | with_reducible intro _ | extract_lets
      | with_reducible apply State.logCommand_keep | with_reducible apply State.fail_keep | with_reducible apply State.givePage_keep
      | with_reducible apply Keep.ite)

theorem getLogPage_keep (tag : Tag) (lid : Nat) (nsid : Nat) (offset : Nat) (len : Nat) (rae : Bool) {s : State} (hk : Keep anc s)
    (hm : [.free, .queues, .completions] ⊆ anc.touched := by exact List.Subset.trans (by decide) hm) : Keep anc (getLogPage tag lid nsid offset len
    rae s) := by
  unfold getLogPage
  repeat' (first
      | with_reducible assumption | with_reducible exact List.Subset.trans (by decide) hm | with_reducible intro _ | extract_lets
      | with_reducible apply getLogPageEventLog_keep | with_reducible apply getLogPageHealth_keep | with_reducible apply getLogPageFuses_keep
      | with_reducible apply getLogPageTopology_keep | with_reducible apply getLogPageTimetable_keep | with_reducible apply State.logCommand_keep
      | with_reducible apply State.drawBytes_keep | with_reducible apply State.givePage_keep | with_reducible apply State.fail_keep
      | with_reducible apply Keep.ite | with_reducible refine Keep.pair (by assumption) ?_ | split)

end Sys2Proof.Machine
end

