-- ==== Sys2Proof/Laws/KeepBoundary.lean ====
section
/-! SUPPORT. What the operations of Machine/Boundary.lean keep (Laws/Keep.lean). -/

namespace Sys2Proof.Machine

set_option Elab.async false

open Sys2Proof.Safety

set_option linter.unusedTactic false
set_option linter.unreachableTactic false

variable {anc : KeepCtx}

theorem State.freeFetched_keep {s : State} (hk : Keep anc s) (hm : [.queues, .sessions] ⊆ anc.touched := by exact List.Subset.trans (by decide) hm) :
    Keep anc (State.freeFetched s) := by
  unfold State.freeFetched
  repeat' (first
      | with_reducible assumption | extract_lets
      | (fail_if_no_progress (with_reducible refine Keep.upd ?_ ?_ ?_ ?_ ?_ ?_ ?_ ?_ ?_ ?_) <;> try with_reducible first | rfl | exact fun h => h))

theorem State.markTick_keep {s : State} (hk : Keep anc s)
    (hm : [.flash, .media, .faults, .completions, .log] ⊆ anc.touched := by exact List.Subset.trans (by decide) hm) : Keep anc (State.markTick s) := by
  unfold State.markTick
  repeat' (first
      | with_reducible assumption | extract_lets | with_reducible apply State.wantMark_keep | with_reducible apply Keep.ite)

theorem State.powerTick_keep (smp : Samples) {s : State} (hk : Keep anc s) (hm : [.power] ⊆ anc.touched := by exact List.Subset.trans (by decide) hm)
    : Keep anc (State.powerTick smp s) := by
  unfold State.powerTick
  repeat' (first
      | with_reducible assumption | extract_lets
      | (fail_if_no_progress (with_reducible refine Keep.upd ?_ ?_ ?_ ?_ ?_ ?_ ?_ ?_ ?_ ?_) <;> try with_reducible first | rfl | exact fun h => h))

theorem writePgmode_keep (hub : Nat) (v : Nat) {s : State} (hk : Keep anc s)
    (hm : [.flash] ⊆ anc.touched := by exact List.Subset.trans (by decide) hm) : Keep anc (writePgmode hub v s) := by
  unfold writePgmode
  repeat' (first
      | with_reducible assumption | with_reducible apply flaPgmodeService_keep | with_reducible apply flaPgmodeRecovery_keep
      | with_reducible apply flaPgmodeTest_keep | split)

theorem writeTrim_range (v : Nat) (c : Clk) : -250000 ≤ (writeTrim v c).trim ∧ (writeTrim v c).trim ≤ 250000 := by
  simp only [writeTrim]; omega

theorem Drm.write_memory (d : Drm) (r : Reg) (unit : Nat) (v : BitVec 32) : ((d.write r unit v).data, (d.write r unit v).check) = (d.data, d.check) := by
  cases r <;> rfl

theorem registerWrite_keep (r : Reg) (unit : Nat) (v : BitVec 32) {s : State} (hk : Keep anc s) (hm : [.clock, .coaches, .fabric, .dram, .flash] ⊆ anc.touched := by exact List.Subset.trans (by decide) hm) : Keep anc (registerWrite r unit v s) := by
  unfold registerWrite
  split
  · exact hk
  · split
    · exact hk
    · exact hk
    · exact hk
    · exact hk.clk _ (writeTrim_range _ _)
    · exact hk.upd rfl rfl rfl rfl rfl id rfl rfl rfl
    · exact hk.upd rfl rfl rfl rfl rfl id rfl rfl rfl
    · exact writePgmode_keep _ _ hk
    · exact writeDrmTest_keep _ _ _ _ hk
    · exact hk.upd rfl rfl rfl rfl (Drm.write_memory _ _ _ _) id rfl rfl rfl

end Sys2Proof.Machine
end

