-- ==== Sys2Proof/Laws/State.lean ====
section
/-! SUPPORT. What each named update of the state leaves alone: one lemma for each field it does not write. -/

namespace Sys2Proof.Machine

@[simp] theorem State.nextCycle_pending (s : State) : (State.nextCycle s).pending = s.pending := rfl
@[simp] theorem State.nextCycle_freeCtr (s : State) : (State.nextCycle s).freeCtr = s.freeCtr := rfl
@[simp] theorem State.nextCycle_clk (s : State) : (State.nextCycle s).clk = s.clk := rfl
@[simp] theorem State.nextCycle_coa (s : State) : (State.nextCycle s).coa = s.coa := rfl
@[simp] theorem State.nextCycle_fab (s : State) : (State.nextCycle s).fab = s.fab := rfl
@[simp] theorem State.nextCycle_drm (s : State) : (State.nextCycle s).drm = s.drm := rfl
@[simp] theorem State.nextCycle_fla (s : State) : (State.nextCycle s).fla = s.fla := rfl
@[simp] theorem State.nextCycle_xlt (s : State) : (State.nextCycle s).xlt = s.xlt := rfl
@[simp] theorem State.nextCycle_pwr (s : State) : (State.nextCycle s).pwr = s.pwr := rfl
@[simp] theorem State.nextCycle_port (s : State) : (State.nextCycle s).port = s.port := rfl
@[simp] theorem State.nextCycle_que (s : State) : (State.nextCycle s).que = s.que := rfl
@[simp] theorem State.nextCycle_ns (s : State) : (State.nextCycle s).ns = s.ns := rfl
@[simp] theorem State.nextCycle_ses (s : State) : (State.nextCycle s).ses = s.ses := rfl
@[simp] theorem State.nextCycle_ans (s : State) : (State.nextCycle s).ans = s.ans := rfl
@[simp] theorem State.nextCycle_fwc (s : State) : (State.nextCycle s).fwc = s.fwc := rfl
@[simp] theorem State.nextCycle_sec (s : State) : (State.nextCycle s).sec = s.sec := rfl
@[simp] theorem State.nextCycle_boot (s : State) : (State.nextCycle s).boot = s.boot := rfl

@[simp] theorem State.eventAt_pending (s : State) (stamp code cls source : Nat) (obj : Obj) (detail : Bytes) : (State.eventAt s stamp code cls source obj detail).pending = s.pending := by unfold State.eventAt; split <;> rfl
@[simp] theorem State.eventAt_freeCtr (s : State) (stamp code cls source : Nat) (obj : Obj) (detail : Bytes) : (State.eventAt s stamp code cls source obj detail).freeCtr = s.freeCtr := by unfold State.eventAt; split <;> rfl
@[simp] theorem State.eventAt_stg (s : State) (stamp code cls source : Nat) (obj : Obj) (detail : Bytes) : (State.eventAt s stamp code cls source obj detail).stg = s.stg := by unfold State.eventAt; split <;> rfl
@[simp] theorem State.eventAt_clk (s : State) (stamp code cls source : Nat) (obj : Obj) (detail : Bytes) : (State.eventAt s stamp code cls source obj detail).clk = s.clk := by unfold State.eventAt; split <;> rfl
@[simp] theorem State.eventAt_coa (s : State) (stamp code cls source : Nat) (obj : Obj) (detail : Bytes) : (State.eventAt s stamp code cls source obj detail).coa = s.coa := by unfold State.eventAt; split <;> rfl
@[simp] theorem State.eventAt_fab (s : State) (stamp code cls source : Nat) (obj : Obj) (detail : Bytes) : (State.eventAt s stamp code cls source obj detail).fab = s.fab := by unfold State.eventAt; split <;> rfl
@[simp] theorem State.eventAt_drm (s : State) (stamp code cls source : Nat) (obj : Obj) (detail : Bytes) : (State.eventAt s stamp code cls source obj detail).drm = s.drm := by unfold State.eventAt; split <;> rfl
@[simp] theorem State.eventAt_fla (s : State) (stamp code cls source : Nat) (obj : Obj) (detail : Bytes) : (State.eventAt s stamp code cls source obj detail).fla = s.fla := by unfold State.eventAt; split <;> rfl
@[simp] theorem State.eventAt_xlt (s : State) (stamp code cls source : Nat) (obj : Obj) (detail : Bytes) : (State.eventAt s stamp code cls source obj detail).xlt = s.xlt := by unfold State.eventAt; split <;> rfl
@[simp] theorem State.eventAt_pwr (s : State) (stamp code cls source : Nat) (obj : Obj) (detail : Bytes) : (State.eventAt s stamp code cls source obj detail).pwr = s.pwr := by unfold State.eventAt; split <;> rfl
@[simp] theorem State.eventAt_port (s : State) (stamp code cls source : Nat) (obj : Obj) (detail : Bytes) : (State.eventAt s stamp code cls source obj detail).port = s.port := by unfold State.eventAt; split <;> rfl
@[simp] theorem State.eventAt_que (s : State) (stamp code cls source : Nat) (obj : Obj) (detail : Bytes) : (State.eventAt s stamp code cls source obj detail).que = s.que := by unfold State.eventAt; split <;> rfl
@[simp] theorem State.eventAt_ns (s : State) (stamp code cls source : Nat) (obj : Obj) (detail : Bytes) : (State.eventAt s stamp code cls source obj detail).ns = s.ns := by unfold State.eventAt; split <;> rfl
@[simp] theorem State.eventAt_ses (s : State) (stamp code cls source : Nat) (obj : Obj) (detail : Bytes) : (State.eventAt s stamp code cls source obj detail).ses = s.ses := by unfold State.eventAt; split <;> rfl
@[simp] theorem State.eventAt_ans (s : State) (stamp code cls source : Nat) (obj : Obj) (detail : Bytes) : (State.eventAt s stamp code cls source obj detail).ans = s.ans := by unfold State.eventAt; split <;> rfl
@[simp] theorem State.eventAt_sec (s : State) (stamp code cls source : Nat) (obj : Obj) (detail : Bytes) : (State.eventAt s stamp code cls source obj detail).sec = s.sec := by unfold State.eventAt; split <;> rfl
@[simp] theorem State.eventAt_boot (s : State) (stamp code cls source : Nat) (obj : Obj) (detail : Bytes) : (State.eventAt s stamp code cls source obj detail).boot = s.boot := by unfold State.eventAt; split <;> rfl

@[simp] theorem State.event_pending (s : State) (code cls source : Nat) (obj : Obj) (detail : Bytes) : (State.event s code cls source obj detail).pending = s.pending := by unfold State.event; dsimp only; split <;> simp
@[simp] theorem State.event_freeCtr (s : State) (code cls source : Nat) (obj : Obj) (detail : Bytes) : (State.event s code cls source obj detail).freeCtr = s.freeCtr := by unfold State.event; dsimp only; split <;> simp
@[simp] theorem State.event_clk (s : State) (code cls source : Nat) (obj : Obj) (detail : Bytes) : (State.event s code cls source obj detail).clk = s.clk := by unfold State.event; dsimp only; split <;> simp
@[simp] theorem State.event_coa (s : State) (code cls source : Nat) (obj : Obj) (detail : Bytes) : (State.event s code cls source obj detail).coa = s.coa := by unfold State.event; dsimp only; split <;> simp
@[simp] theorem State.event_fab (s : State) (code cls source : Nat) (obj : Obj) (detail : Bytes) : (State.event s code cls source obj detail).fab = s.fab := by unfold State.event; dsimp only; split <;> simp
@[simp] theorem State.event_drm (s : State) (code cls source : Nat) (obj : Obj) (detail : Bytes) : (State.event s code cls source obj detail).drm = s.drm := by unfold State.event; dsimp only; split <;> simp
@[simp] theorem State.event_fla (s : State) (code cls source : Nat) (obj : Obj) (detail : Bytes) : (State.event s code cls source obj detail).fla = s.fla := by unfold State.event; dsimp only; split <;> simp
@[simp] theorem State.event_xlt (s : State) (code cls source : Nat) (obj : Obj) (detail : Bytes) : (State.event s code cls source obj detail).xlt = s.xlt := by unfold State.event; dsimp only; split <;> simp
@[simp] theorem State.event_pwr (s : State) (code cls source : Nat) (obj : Obj) (detail : Bytes) : (State.event s code cls source obj detail).pwr = s.pwr := by unfold State.event; dsimp only; split <;> simp
@[simp] theorem State.event_port (s : State) (code cls source : Nat) (obj : Obj) (detail : Bytes) : (State.event s code cls source obj detail).port = s.port := by unfold State.event; dsimp only; split <;> simp
@[simp] theorem State.event_que (s : State) (code cls source : Nat) (obj : Obj) (detail : Bytes) : (State.event s code cls source obj detail).que = s.que := by unfold State.event; dsimp only; split <;> simp
@[simp] theorem State.event_ns (s : State) (code cls source : Nat) (obj : Obj) (detail : Bytes) : (State.event s code cls source obj detail).ns = s.ns := by unfold State.event; dsimp only; split <;> simp
@[simp] theorem State.event_ses (s : State) (code cls source : Nat) (obj : Obj) (detail : Bytes) : (State.event s code cls source obj detail).ses = s.ses := by unfold State.event; dsimp only; split <;> simp
@[simp] theorem State.event_ans (s : State) (code cls source : Nat) (obj : Obj) (detail : Bytes) : (State.event s code cls source obj detail).ans = s.ans := by unfold State.event; dsimp only; split <;> simp
@[simp] theorem State.event_sec (s : State) (code cls source : Nat) (obj : Obj) (detail : Bytes) : (State.event s code cls source obj detail).sec = s.sec := by unfold State.event; dsimp only; split <;> simp
@[simp] theorem State.event_boot (s : State) (code cls source : Nat) (obj : Obj) (detail : Bytes) : (State.event s code cls source obj detail).boot = s.boot := by unfold State.event; dsimp only; split <;> simp

@[simp] theorem State.topoChange_pending (s : State) (o : Obj) (entered : Bool) : (State.topoChange s o entered).pending = s.pending := State.event_pending _ _ _ _ _ _
@[simp] theorem State.topoChange_freeCtr (s : State) (o : Obj) (entered : Bool) : (State.topoChange s o entered).freeCtr = s.freeCtr := State.event_freeCtr _ _ _ _ _ _
@[simp] theorem State.topoChange_clk (s : State) (o : Obj) (entered : Bool) : (State.topoChange s o entered).clk = s.clk := State.event_clk _ _ _ _ _ _
@[simp] theorem State.topoChange_coa (s : State) (o : Obj) (entered : Bool) : (State.topoChange s o entered).coa = s.coa := State.event_coa _ _ _ _ _ _
@[simp] theorem State.topoChange_fab (s : State) (o : Obj) (entered : Bool) : (State.topoChange s o entered).fab = s.fab := State.event_fab _ _ _ _ _ _
@[simp] theorem State.topoChange_drm (s : State) (o : Obj) (entered : Bool) : (State.topoChange s o entered).drm = s.drm := State.event_drm _ _ _ _ _ _
@[simp] theorem State.topoChange_fla (s : State) (o : Obj) (entered : Bool) : (State.topoChange s o entered).fla = s.fla := State.event_fla _ _ _ _ _ _
@[simp] theorem State.topoChange_xlt (s : State) (o : Obj) (entered : Bool) : (State.topoChange s o entered).xlt = s.xlt := State.event_xlt _ _ _ _ _ _
@[simp] theorem State.topoChange_pwr (s : State) (o : Obj) (entered : Bool) : (State.topoChange s o entered).pwr = s.pwr := State.event_pwr _ _ _ _ _ _
@[simp] theorem State.topoChange_port (s : State) (o : Obj) (entered : Bool) : (State.topoChange s o entered).port = s.port := State.event_port _ _ _ _ _ _
@[simp] theorem State.topoChange_que (s : State) (o : Obj) (entered : Bool) : (State.topoChange s o entered).que = s.que := State.event_que _ _ _ _ _ _
@[simp] theorem State.topoChange_ns (s : State) (o : Obj) (entered : Bool) : (State.topoChange s o entered).ns = s.ns := State.event_ns _ _ _ _ _ _
@[simp] theorem State.topoChange_ans (s : State) (o : Obj) (entered : Bool) : (State.topoChange s o entered).ans = s.ans := State.event_ans _ _ _ _ _ _
@[simp] theorem State.topoChange_sec (s : State) (o : Obj) (entered : Bool) : (State.topoChange s o entered).sec = s.sec := State.event_sec _ _ _ _ _ _
@[simp] theorem State.topoChange_boot (s : State) (o : Obj) (entered : Bool) : (State.topoChange s o entered).boot = s.boot := State.event_boot _ _ _ _ _ _

@[simp] theorem State.send_pending (s : State) (m : TxMsg) : (State.send s m).pending = s.pending := rfl
@[simp] theorem State.send_freeCtr (s : State) (m : TxMsg) : (State.send s m).freeCtr = s.freeCtr := rfl
@[simp] theorem State.send_stg (s : State) (m : TxMsg) : (State.send s m).stg = s.stg := rfl
@[simp] theorem State.send_clk (s : State) (m : TxMsg) : (State.send s m).clk = s.clk := rfl
@[simp] theorem State.send_coa (s : State) (m : TxMsg) : (State.send s m).coa = s.coa := rfl
@[simp] theorem State.send_fab (s : State) (m : TxMsg) : (State.send s m).fab = s.fab := rfl
@[simp] theorem State.send_drm (s : State) (m : TxMsg) : (State.send s m).drm = s.drm := rfl
@[simp] theorem State.send_fla (s : State) (m : TxMsg) : (State.send s m).fla = s.fla := rfl
@[simp] theorem State.send_xlt (s : State) (m : TxMsg) : (State.send s m).xlt = s.xlt := rfl
@[simp] theorem State.send_pwr (s : State) (m : TxMsg) : (State.send s m).pwr = s.pwr := rfl
@[simp] theorem State.send_que (s : State) (m : TxMsg) : (State.send s m).que = s.que := rfl
@[simp] theorem State.send_ns (s : State) (m : TxMsg) : (State.send s m).ns = s.ns := rfl
@[simp] theorem State.send_ses (s : State) (m : TxMsg) : (State.send s m).ses = s.ses := rfl
@[simp] theorem State.send_ans (s : State) (m : TxMsg) : (State.send s m).ans = s.ans := rfl
@[simp] theorem State.send_fwc (s : State) (m : TxMsg) : (State.send s m).fwc = s.fwc := rfl
@[simp] theorem State.send_sec (s : State) (m : TxMsg) : (State.send s m).sec = s.sec := rfl
@[simp] theorem State.send_boot (s : State) (m : TxMsg) : (State.send s m).boot = s.boot := rfl

@[simp] theorem State.health_pending (s : State) (f : Health → Health) : (State.health s f).pending = s.pending := rfl
@[simp] theorem State.health_freeCtr (s : State) (f : Health → Health) : (State.health s f).freeCtr = s.freeCtr := rfl
@[simp] theorem State.health_stg (s : State) (f : Health → Health) : (State.health s f).stg = s.stg := rfl
@[simp] theorem State.health_clk (s : State) (f : Health → Health) : (State.health s f).clk = s.clk := rfl
@[simp] theorem State.health_coa (s : State) (f : Health → Health) : (State.health s f).coa = s.coa := rfl
@[simp] theorem State.health_fab (s : State) (f : Health → Health) : (State.health s f).fab = s.fab := rfl
@[simp] theorem State.health_drm (s : State) (f : Health → Health) : (State.health s f).drm = s.drm := rfl
@[simp] theorem State.health_fla (s : State) (f : Health → Health) : (State.health s f).fla = s.fla := rfl
@[simp] theorem State.health_xlt (s : State) (f : Health → Health) : (State.health s f).xlt = s.xlt := rfl
@[simp] theorem State.health_pwr (s : State) (f : Health → Health) : (State.health s f).pwr = s.pwr := rfl
@[simp] theorem State.health_port (s : State) (f : Health → Health) : (State.health s f).port = s.port := rfl
@[simp] theorem State.health_que (s : State) (f : Health → Health) : (State.health s f).que = s.que := rfl
@[simp] theorem State.health_ns (s : State) (f : Health → Health) : (State.health s f).ns = s.ns := rfl
@[simp] theorem State.health_ses (s : State) (f : Health → Health) : (State.health s f).ses = s.ses := rfl
@[simp] theorem State.health_ans (s : State) (f : Health → Health) : (State.health s f).ans = s.ans := rfl
@[simp] theorem State.health_sec (s : State) (f : Health → Health) : (State.health s f).sec = s.sec := rfl
@[simp] theorem State.health_boot (s : State) (f : Health → Health) : (State.health s f).boot = s.boot := rfl

@[simp] theorem State.tt_pending (s : State) (f : TtStats → TtStats) : (State.tt s f).pending = s.pending := rfl
@[simp] theorem State.tt_freeCtr (s : State) (f : TtStats → TtStats) : (State.tt s f).freeCtr = s.freeCtr := rfl
@[simp] theorem State.tt_stg (s : State) (f : TtStats → TtStats) : (State.tt s f).stg = s.stg := rfl
@[simp] theorem State.tt_clk (s : State) (f : TtStats → TtStats) : (State.tt s f).clk = s.clk := rfl
@[simp] theorem State.tt_coa (s : State) (f : TtStats → TtStats) : (State.tt s f).coa = s.coa := rfl
@[simp] theorem State.tt_fab (s : State) (f : TtStats → TtStats) : (State.tt s f).fab = s.fab := rfl
@[simp] theorem State.tt_drm (s : State) (f : TtStats → TtStats) : (State.tt s f).drm = s.drm := rfl
@[simp] theorem State.tt_fla (s : State) (f : TtStats → TtStats) : (State.tt s f).fla = s.fla := rfl
@[simp] theorem State.tt_xlt (s : State) (f : TtStats → TtStats) : (State.tt s f).xlt = s.xlt := rfl
@[simp] theorem State.tt_pwr (s : State) (f : TtStats → TtStats) : (State.tt s f).pwr = s.pwr := rfl
@[simp] theorem State.tt_port (s : State) (f : TtStats → TtStats) : (State.tt s f).port = s.port := rfl
@[simp] theorem State.tt_que (s : State) (f : TtStats → TtStats) : (State.tt s f).que = s.que := rfl
@[simp] theorem State.tt_ns (s : State) (f : TtStats → TtStats) : (State.tt s f).ns = s.ns := rfl
@[simp] theorem State.tt_ses (s : State) (f : TtStats → TtStats) : (State.tt s f).ses = s.ses := rfl
@[simp] theorem State.tt_ans (s : State) (f : TtStats → TtStats) : (State.tt s f).ans = s.ans := rfl
@[simp] theorem State.tt_sec (s : State) (f : TtStats → TtStats) : (State.tt s f).sec = s.sec := rfl
@[simp] theorem State.tt_boot (s : State) (f : TtStats → TtStats) : (State.tt s f).boot = s.boot := rfl

@[simp] theorem State.updCtrl_pending (s : State) (id : Nat) (f : Ctrl → Ctrl) : (State.updCtrl s id f).pending = s.pending := rfl
@[simp] theorem State.updCtrl_freeCtr (s : State) (id : Nat) (f : Ctrl → Ctrl) : (State.updCtrl s id f).freeCtr = s.freeCtr := rfl
@[simp] theorem State.updCtrl_stg (s : State) (id : Nat) (f : Ctrl → Ctrl) : (State.updCtrl s id f).stg = s.stg := rfl
@[simp] theorem State.updCtrl_clk (s : State) (id : Nat) (f : Ctrl → Ctrl) : (State.updCtrl s id f).clk = s.clk := rfl
@[simp] theorem State.updCtrl_coa (s : State) (id : Nat) (f : Ctrl → Ctrl) : (State.updCtrl s id f).coa = s.coa := rfl
@[simp] theorem State.updCtrl_fab (s : State) (id : Nat) (f : Ctrl → Ctrl) : (State.updCtrl s id f).fab = s.fab := rfl
@[simp] theorem State.updCtrl_drm (s : State) (id : Nat) (f : Ctrl → Ctrl) : (State.updCtrl s id f).drm = s.drm := rfl
@[simp] theorem State.updCtrl_fla (s : State) (id : Nat) (f : Ctrl → Ctrl) : (State.updCtrl s id f).fla = s.fla := rfl
@[simp] theorem State.updCtrl_xlt (s : State) (id : Nat) (f : Ctrl → Ctrl) : (State.updCtrl s id f).xlt = s.xlt := rfl
@[simp] theorem State.updCtrl_pwr (s : State) (id : Nat) (f : Ctrl → Ctrl) : (State.updCtrl s id f).pwr = s.pwr := rfl
@[simp] theorem State.updCtrl_port (s : State) (id : Nat) (f : Ctrl → Ctrl) : (State.updCtrl s id f).port = s.port := rfl
@[simp] theorem State.updCtrl_ns (s : State) (id : Nat) (f : Ctrl → Ctrl) : (State.updCtrl s id f).ns = s.ns := rfl
@[simp] theorem State.updCtrl_ses (s : State) (id : Nat) (f : Ctrl → Ctrl) : (State.updCtrl s id f).ses = s.ses := rfl
@[simp] theorem State.updCtrl_ans (s : State) (id : Nat) (f : Ctrl → Ctrl) : (State.updCtrl s id f).ans = s.ans := rfl
@[simp] theorem State.updCtrl_fwc (s : State) (id : Nat) (f : Ctrl → Ctrl) : (State.updCtrl s id f).fwc = s.fwc := rfl
@[simp] theorem State.updCtrl_sec (s : State) (id : Nat) (f : Ctrl → Ctrl) : (State.updCtrl s id f).sec = s.sec := rfl
@[simp] theorem State.updCtrl_boot (s : State) (id : Nat) (f : Ctrl → Ctrl) : (State.updCtrl s id f).boot = s.boot := rfl

@[simp] theorem State.updSess_pending (s : State) (n : Nat) (f : Session → Session) : (State.updSess s n f).pending = s.pending := rfl
@[simp] theorem State.updSess_freeCtr (s : State) (n : Nat) (f : Session → Session) : (State.updSess s n f).freeCtr = s.freeCtr := rfl
@[simp] theorem State.updSess_stg (s : State) (n : Nat) (f : Session → Session) : (State.updSess s n f).stg = s.stg := rfl
@[simp] theorem State.updSess_clk (s : State) (n : Nat) (f : Session → Session) : (State.updSess s n f).clk = s.clk := rfl
@[simp] theorem State.updSess_coa (s : State) (n : Nat) (f : Session → Session) : (State.updSess s n f).coa = s.coa := rfl
@[simp] theorem State.updSess_fab (s : State) (n : Nat) (f : Session → Session) : (State.updSess s n f).fab = s.fab := rfl
@[simp] theorem State.updSess_drm (s : State) (n : Nat) (f : Session → Session) : (State.updSess s n f).drm = s.drm := rfl
@[simp] theorem State.updSess_fla (s : State) (n : Nat) (f : Session → Session) : (State.updSess s n f).fla = s.fla := rfl
@[simp] theorem State.updSess_xlt (s : State) (n : Nat) (f : Session → Session) : (State.updSess s n f).xlt = s.xlt := rfl
@[simp] theorem State.updSess_pwr (s : State) (n : Nat) (f : Session → Session) : (State.updSess s n f).pwr = s.pwr := rfl
@[simp] theorem State.updSess_port (s : State) (n : Nat) (f : Session → Session) : (State.updSess s n f).port = s.port := rfl
@[simp] theorem State.updSess_que (s : State) (n : Nat) (f : Session → Session) : (State.updSess s n f).que = s.que := rfl
@[simp] theorem State.updSess_ns (s : State) (n : Nat) (f : Session → Session) : (State.updSess s n f).ns = s.ns := rfl
@[simp] theorem State.updSess_ans (s : State) (n : Nat) (f : Session → Session) : (State.updSess s n f).ans = s.ans := rfl
@[simp] theorem State.updSess_fwc (s : State) (n : Nat) (f : Session → Session) : (State.updSess s n f).fwc = s.fwc := rfl
@[simp] theorem State.updSess_sec (s : State) (n : Nat) (f : Session → Session) : (State.updSess s n f).sec = s.sec := rfl
@[simp] theorem State.updSess_boot (s : State) (n : Nat) (f : Session → Session) : (State.updSess s n f).boot = s.boot := rfl

@[simp] theorem State.updNs_pending (s : State) (nsid : Nat) (f : Ns → Ns) : (State.updNs s nsid f).pending = s.pending := rfl
@[simp] theorem State.updNs_freeCtr (s : State) (nsid : Nat) (f : Ns → Ns) : (State.updNs s nsid f).freeCtr = s.freeCtr := rfl
@[simp] theorem State.updNs_stg (s : State) (nsid : Nat) (f : Ns → Ns) : (State.updNs s nsid f).stg = s.stg := rfl
@[simp] theorem State.updNs_clk (s : State) (nsid : Nat) (f : Ns → Ns) : (State.updNs s nsid f).clk = s.clk := rfl
@[simp] theorem State.updNs_coa (s : State) (nsid : Nat) (f : Ns → Ns) : (State.updNs s nsid f).coa = s.coa := rfl
@[simp] theorem State.updNs_fab (s : State) (nsid : Nat) (f : Ns → Ns) : (State.updNs s nsid f).fab = s.fab := rfl
@[simp] theorem State.updNs_drm (s : State) (nsid : Nat) (f : Ns → Ns) : (State.updNs s nsid f).drm = s.drm := rfl
@[simp] theorem State.updNs_fla (s : State) (nsid : Nat) (f : Ns → Ns) : (State.updNs s nsid f).fla = s.fla := rfl
@[simp] theorem State.updNs_xlt (s : State) (nsid : Nat) (f : Ns → Ns) : (State.updNs s nsid f).xlt = s.xlt := rfl
@[simp] theorem State.updNs_pwr (s : State) (nsid : Nat) (f : Ns → Ns) : (State.updNs s nsid f).pwr = s.pwr := rfl
@[simp] theorem State.updNs_port (s : State) (nsid : Nat) (f : Ns → Ns) : (State.updNs s nsid f).port = s.port := rfl
@[simp] theorem State.updNs_que (s : State) (nsid : Nat) (f : Ns → Ns) : (State.updNs s nsid f).que = s.que := rfl
@[simp] theorem State.updNs_ses (s : State) (nsid : Nat) (f : Ns → Ns) : (State.updNs s nsid f).ses = s.ses := rfl
@[simp] theorem State.updNs_ans (s : State) (nsid : Nat) (f : Ns → Ns) : (State.updNs s nsid f).ans = s.ans := rfl
@[simp] theorem State.updNs_fwc (s : State) (nsid : Nat) (f : Ns → Ns) : (State.updNs s nsid f).fwc = s.fwc := rfl
@[simp] theorem State.updNs_sec (s : State) (nsid : Nat) (f : Ns → Ns) : (State.updNs s nsid f).sec = s.sec := rfl
@[simp] theorem State.updNs_boot (s : State) (nsid : Nat) (f : Ns → Ns) : (State.updNs s nsid f).boot = s.boot := rfl

@[simp] theorem State.updPart_pending (s : State) (n : Nat) (f : Partition → Partition) : (State.updPart s n f).pending = s.pending := rfl
@[simp] theorem State.updPart_freeCtr (s : State) (n : Nat) (f : Partition → Partition) : (State.updPart s n f).freeCtr = s.freeCtr := rfl
@[simp] theorem State.updPart_stg (s : State) (n : Nat) (f : Partition → Partition) : (State.updPart s n f).stg = s.stg := rfl
@[simp] theorem State.updPart_clk (s : State) (n : Nat) (f : Partition → Partition) : (State.updPart s n f).clk = s.clk := rfl
@[simp] theorem State.updPart_coa (s : State) (n : Nat) (f : Partition → Partition) : (State.updPart s n f).coa = s.coa := rfl
@[simp] theorem State.updPart_fab (s : State) (n : Nat) (f : Partition → Partition) : (State.updPart s n f).fab = s.fab := rfl
@[simp] theorem State.updPart_drm (s : State) (n : Nat) (f : Partition → Partition) : (State.updPart s n f).drm = s.drm := rfl
@[simp] theorem State.updPart_fla (s : State) (n : Nat) (f : Partition → Partition) : (State.updPart s n f).fla = s.fla := rfl
@[simp] theorem State.updPart_xlt (s : State) (n : Nat) (f : Partition → Partition) : (State.updPart s n f).xlt = s.xlt := rfl
@[simp] theorem State.updPart_pwr (s : State) (n : Nat) (f : Partition → Partition) : (State.updPart s n f).pwr = s.pwr := rfl
@[simp] theorem State.updPart_port (s : State) (n : Nat) (f : Partition → Partition) : (State.updPart s n f).port = s.port := rfl
@[simp] theorem State.updPart_que (s : State) (n : Nat) (f : Partition → Partition) : (State.updPart s n f).que = s.que := rfl
@[simp] theorem State.updPart_ns (s : State) (n : Nat) (f : Partition → Partition) : (State.updPart s n f).ns = s.ns := rfl
@[simp] theorem State.updPart_ans (s : State) (n : Nat) (f : Partition → Partition) : (State.updPart s n f).ans = s.ans := rfl
@[simp] theorem State.updPart_fwc (s : State) (n : Nat) (f : Partition → Partition) : (State.updPart s n f).fwc = s.fwc := rfl
@[simp] theorem State.updPart_sec (s : State) (n : Nat) (f : Partition → Partition) : (State.updPart s n f).sec = s.sec := rfl
@[simp] theorem State.updPart_boot (s : State) (n : Nat) (f : Partition → Partition) : (State.updPart s n f).boot = s.boot := rfl

@[simp] theorem State.completeWith_pending (s : State) (tag : Tag) (st : Status) (dw0 dw1 : Nat) (data : Bytes) : (State.completeWith s tag st dw0 dw1 data).pending = s.pending := by unfold State.completeWith; split <;> rfl
@[simp] theorem State.completeWith_freeCtr (s : State) (tag : Tag) (st : Status) (dw0 dw1 : Nat) (data : Bytes) : (State.completeWith s tag st dw0 dw1 data).freeCtr = s.freeCtr := by unfold State.completeWith; split <;> rfl
@[simp] theorem State.completeWith_stg (s : State) (tag : Tag) (st : Status) (dw0 dw1 : Nat) (data : Bytes) : (State.completeWith s tag st dw0 dw1 data).stg = s.stg := by unfold State.completeWith; split <;> rfl
@[simp] theorem State.completeWith_clk (s : State) (tag : Tag) (st : Status) (dw0 dw1 : Nat) (data : Bytes) : (State.completeWith s tag st dw0 dw1 data).clk = s.clk := by unfold State.completeWith; split <;> rfl
@[simp] theorem State.completeWith_coa (s : State) (tag : Tag) (st : Status) (dw0 dw1 : Nat) (data : Bytes) : (State.completeWith s tag st dw0 dw1 data).coa = s.coa := by unfold State.completeWith; split <;> rfl
@[simp] theorem State.completeWith_fab (s : State) (tag : Tag) (st : Status) (dw0 dw1 : Nat) (data : Bytes) : (State.completeWith s tag st dw0 dw1 data).fab = s.fab := by unfold State.completeWith; split <;> rfl
@[simp] theorem State.completeWith_drm (s : State) (tag : Tag) (st : Status) (dw0 dw1 : Nat) (data : Bytes) : (State.completeWith s tag st dw0 dw1 data).drm = s.drm := by unfold State.completeWith; split <;> rfl
@[simp] theorem State.completeWith_fla (s : State) (tag : Tag) (st : Status) (dw0 dw1 : Nat) (data : Bytes) : (State.completeWith s tag st dw0 dw1 data).fla = s.fla := by unfold State.completeWith; split <;> rfl
@[simp] theorem State.completeWith_xlt (s : State) (tag : Tag) (st : Status) (dw0 dw1 : Nat) (data : Bytes) : (State.completeWith s tag st dw0 dw1 data).xlt = s.xlt := by unfold State.completeWith; split <;> rfl
@[simp] theorem State.completeWith_pwr (s : State) (tag : Tag) (st : Status) (dw0 dw1 : Nat) (data : Bytes) : (State.completeWith s tag st dw0 dw1 data).pwr = s.pwr := by unfold State.completeWith; split <;> rfl
@[simp] theorem State.completeWith_port (s : State) (tag : Tag) (st : Status) (dw0 dw1 : Nat) (data : Bytes) : (State.completeWith s tag st dw0 dw1 data).port = s.port := by unfold State.completeWith; split <;> rfl
@[simp] theorem State.completeWith_ns (s : State) (tag : Tag) (st : Status) (dw0 dw1 : Nat) (data : Bytes) : (State.completeWith s tag st dw0 dw1 data).ns = s.ns := by unfold State.completeWith; split <;> rfl
@[simp] theorem State.completeWith_ses (s : State) (tag : Tag) (st : Status) (dw0 dw1 : Nat) (data : Bytes) : (State.completeWith s tag st dw0 dw1 data).ses = s.ses := by unfold State.completeWith; split <;> rfl
@[simp] theorem State.completeWith_ans (s : State) (tag : Tag) (st : Status) (dw0 dw1 : Nat) (data : Bytes) : (State.completeWith s tag st dw0 dw1 data).ans = s.ans := by unfold State.completeWith; split <;> rfl
@[simp] theorem State.completeWith_fwc (s : State) (tag : Tag) (st : Status) (dw0 dw1 : Nat) (data : Bytes) : (State.completeWith s tag st dw0 dw1 data).fwc = s.fwc := by unfold State.completeWith; split <;> rfl
@[simp] theorem State.completeWith_sec (s : State) (tag : Tag) (st : Status) (dw0 dw1 : Nat) (data : Bytes) : (State.completeWith s tag st dw0 dw1 data).sec = s.sec := by unfold State.completeWith; split <;> rfl
@[simp] theorem State.completeWith_boot (s : State) (tag : Tag) (st : Status) (dw0 dw1 : Nat) (data : Bytes) : (State.completeWith s tag st dw0 dw1 data).boot = s.boot := by unfold State.completeWith; split <;> rfl

@[simp] theorem State.fail_pending (s : State) (tag : Tag) (st : Status) : (State.fail s tag st).pending = s.pending := State.completeWith_pending _ _ _ _ _ _
@[simp] theorem State.fail_freeCtr (s : State) (tag : Tag) (st : Status) : (State.fail s tag st).freeCtr = s.freeCtr := State.completeWith_freeCtr _ _ _ _ _ _
@[simp] theorem State.fail_stg (s : State) (tag : Tag) (st : Status) : (State.fail s tag st).stg = s.stg := State.completeWith_stg _ _ _ _ _ _
@[simp] theorem State.fail_clk (s : State) (tag : Tag) (st : Status) : (State.fail s tag st).clk = s.clk := State.completeWith_clk _ _ _ _ _ _
@[simp] theorem State.fail_coa (s : State) (tag : Tag) (st : Status) : (State.fail s tag st).coa = s.coa := State.completeWith_coa _ _ _ _ _ _
@[simp] theorem State.fail_fab (s : State) (tag : Tag) (st : Status) : (State.fail s tag st).fab = s.fab := State.completeWith_fab _ _ _ _ _ _
@[simp] theorem State.fail_drm (s : State) (tag : Tag) (st : Status) : (State.fail s tag st).drm = s.drm := State.completeWith_drm _ _ _ _ _ _
@[simp] theorem State.fail_fla (s : State) (tag : Tag) (st : Status) : (State.fail s tag st).fla = s.fla := State.completeWith_fla _ _ _ _ _ _
@[simp] theorem State.fail_xlt (s : State) (tag : Tag) (st : Status) : (State.fail s tag st).xlt = s.xlt := State.completeWith_xlt _ _ _ _ _ _
@[simp] theorem State.fail_pwr (s : State) (tag : Tag) (st : Status) : (State.fail s tag st).pwr = s.pwr := State.completeWith_pwr _ _ _ _ _ _
@[simp] theorem State.fail_port (s : State) (tag : Tag) (st : Status) : (State.fail s tag st).port = s.port := State.completeWith_port _ _ _ _ _ _
@[simp] theorem State.fail_ns (s : State) (tag : Tag) (st : Status) : (State.fail s tag st).ns = s.ns := State.completeWith_ns _ _ _ _ _ _
@[simp] theorem State.fail_ses (s : State) (tag : Tag) (st : Status) : (State.fail s tag st).ses = s.ses := State.completeWith_ses _ _ _ _ _ _
@[simp] theorem State.fail_ans (s : State) (tag : Tag) (st : Status) : (State.fail s tag st).ans = s.ans := State.completeWith_ans _ _ _ _ _ _
@[simp] theorem State.fail_fwc (s : State) (tag : Tag) (st : Status) : (State.fail s tag st).fwc = s.fwc := State.completeWith_fwc _ _ _ _ _ _
@[simp] theorem State.fail_sec (s : State) (tag : Tag) (st : Status) : (State.fail s tag st).sec = s.sec := State.completeWith_sec _ _ _ _ _ _
@[simp] theorem State.fail_boot (s : State) (tag : Tag) (st : Status) : (State.fail s tag st).boot = s.boot := State.completeWith_boot _ _ _ _ _ _

@[simp] theorem State.refuse_pending (s : State) (tag : Tag) (reason : Nat) : (State.refuse s tag reason).pending = s.pending := State.completeWith_pending _ _ _ _ _ _
@[simp] theorem State.refuse_freeCtr (s : State) (tag : Tag) (reason : Nat) : (State.refuse s tag reason).freeCtr = s.freeCtr := State.completeWith_freeCtr _ _ _ _ _ _
@[simp] theorem State.refuse_stg (s : State) (tag : Tag) (reason : Nat) : (State.refuse s tag reason).stg = s.stg := State.completeWith_stg _ _ _ _ _ _
@[simp] theorem State.refuse_clk (s : State) (tag : Tag) (reason : Nat) : (State.refuse s tag reason).clk = s.clk := State.completeWith_clk _ _ _ _ _ _
@[simp] theorem State.refuse_coa (s : State) (tag : Tag) (reason : Nat) : (State.refuse s tag reason).coa = s.coa := State.completeWith_coa _ _ _ _ _ _
@[simp] theorem State.refuse_fab (s : State) (tag : Tag) (reason : Nat) : (State.refuse s tag reason).fab = s.fab := State.completeWith_fab _ _ _ _ _ _
@[simp] theorem State.refuse_drm (s : State) (tag : Tag) (reason : Nat) : (State.refuse s tag reason).drm = s.drm := State.completeWith_drm _ _ _ _ _ _
@[simp] theorem State.refuse_fla (s : State) (tag : Tag) (reason : Nat) : (State.refuse s tag reason).fla = s.fla := State.completeWith_fla _ _ _ _ _ _
@[simp] theorem State.refuse_xlt (s : State) (tag : Tag) (reason : Nat) : (State.refuse s tag reason).xlt = s.xlt := State.completeWith_xlt _ _ _ _ _ _
@[simp] theorem State.refuse_pwr (s : State) (tag : Tag) (reason : Nat) : (State.refuse s tag reason).pwr = s.pwr := State.completeWith_pwr _ _ _ _ _ _
@[simp] theorem State.refuse_port (s : State) (tag : Tag) (reason : Nat) : (State.refuse s tag reason).port = s.port := State.completeWith_port _ _ _ _ _ _
@[simp] theorem State.refuse_ns (s : State) (tag : Tag) (reason : Nat) : (State.refuse s tag reason).ns = s.ns := State.completeWith_ns _ _ _ _ _ _
@[simp] theorem State.refuse_ses (s : State) (tag : Tag) (reason : Nat) : (State.refuse s tag reason).ses = s.ses := State.completeWith_ses _ _ _ _ _ _
@[simp] theorem State.refuse_ans (s : State) (tag : Tag) (reason : Nat) : (State.refuse s tag reason).ans = s.ans := State.completeWith_ans _ _ _ _ _ _
@[simp] theorem State.refuse_fwc (s : State) (tag : Tag) (reason : Nat) : (State.refuse s tag reason).fwc = s.fwc := State.completeWith_fwc _ _ _ _ _ _
@[simp] theorem State.refuse_sec (s : State) (tag : Tag) (reason : Nat) : (State.refuse s tag reason).sec = s.sec := State.completeWith_sec _ _ _ _ _ _
@[simp] theorem State.refuse_boot (s : State) (tag : Tag) (reason : Nat) : (State.refuse s tag reason).boot = s.boot := State.completeWith_boot _ _ _ _ _ _

@[simp] theorem State.succeed_pending (s : State) (tag : Tag) (dw0 dw1 : Nat) (data : Bytes) : (State.succeed s tag dw0 dw1 data).pending = s.pending := State.completeWith_pending _ _ _ _ _ _
@[simp] theorem State.succeed_freeCtr (s : State) (tag : Tag) (dw0 dw1 : Nat) (data : Bytes) : (State.succeed s tag dw0 dw1 data).freeCtr = s.freeCtr := State.completeWith_freeCtr _ _ _ _ _ _
@[simp] theorem State.succeed_stg (s : State) (tag : Tag) (dw0 dw1 : Nat) (data : Bytes) : (State.succeed s tag dw0 dw1 data).stg = s.stg := State.completeWith_stg _ _ _ _ _ _
@[simp] theorem State.succeed_clk (s : State) (tag : Tag) (dw0 dw1 : Nat) (data : Bytes) : (State.succeed s tag dw0 dw1 data).clk = s.clk := State.completeWith_clk _ _ _ _ _ _
@[simp] theorem State.succeed_coa (s : State) (tag : Tag) (dw0 dw1 : Nat) (data : Bytes) : (State.succeed s tag dw0 dw1 data).coa = s.coa := State.completeWith_coa _ _ _ _ _ _
@[simp] theorem State.succeed_fab (s : State) (tag : Tag) (dw0 dw1 : Nat) (data : Bytes) : (State.succeed s tag dw0 dw1 data).fab = s.fab := State.completeWith_fab _ _ _ _ _ _
@[simp] theorem State.succeed_drm (s : State) (tag : Tag) (dw0 dw1 : Nat) (data : Bytes) : (State.succeed s tag dw0 dw1 data).drm = s.drm := State.completeWith_drm _ _ _ _ _ _
@[simp] theorem State.succeed_fla (s : State) (tag : Tag) (dw0 dw1 : Nat) (data : Bytes) : (State.succeed s tag dw0 dw1 data).fla = s.fla := State.completeWith_fla _ _ _ _ _ _
@[simp] theorem State.succeed_xlt (s : State) (tag : Tag) (dw0 dw1 : Nat) (data : Bytes) : (State.succeed s tag dw0 dw1 data).xlt = s.xlt := State.completeWith_xlt _ _ _ _ _ _
@[simp] theorem State.succeed_pwr (s : State) (tag : Tag) (dw0 dw1 : Nat) (data : Bytes) : (State.succeed s tag dw0 dw1 data).pwr = s.pwr := State.completeWith_pwr _ _ _ _ _ _
@[simp] theorem State.succeed_port (s : State) (tag : Tag) (dw0 dw1 : Nat) (data : Bytes) : (State.succeed s tag dw0 dw1 data).port = s.port := State.completeWith_port _ _ _ _ _ _
@[simp] theorem State.succeed_ns (s : State) (tag : Tag) (dw0 dw1 : Nat) (data : Bytes) : (State.succeed s tag dw0 dw1 data).ns = s.ns := State.completeWith_ns _ _ _ _ _ _
@[simp] theorem State.succeed_ses (s : State) (tag : Tag) (dw0 dw1 : Nat) (data : Bytes) : (State.succeed s tag dw0 dw1 data).ses = s.ses := State.completeWith_ses _ _ _ _ _ _
@[simp] theorem State.succeed_ans (s : State) (tag : Tag) (dw0 dw1 : Nat) (data : Bytes) : (State.succeed s tag dw0 dw1 data).ans = s.ans := State.completeWith_ans _ _ _ _ _ _
@[simp] theorem State.succeed_fwc (s : State) (tag : Tag) (dw0 dw1 : Nat) (data : Bytes) : (State.succeed s tag dw0 dw1 data).fwc = s.fwc := State.completeWith_fwc _ _ _ _ _ _
@[simp] theorem State.succeed_sec (s : State) (tag : Tag) (dw0 dw1 : Nat) (data : Bytes) : (State.succeed s tag dw0 dw1 data).sec = s.sec := State.completeWith_sec _ _ _ _ _ _
@[simp] theorem State.succeed_boot (s : State) (tag : Tag) (dw0 dw1 : Nat) (data : Bytes) : (State.succeed s tag dw0 dw1 data).boot = s.boot := State.completeWith_boot _ _ _ _ _ _

@[simp] theorem State.sramWrite_pending (s : State) (coach addr : Nat) (bs : Bytes) : (State.sramWrite s coach addr bs).pending = s.pending := rfl
@[simp] theorem State.sramWrite_freeCtr (s : State) (coach addr : Nat) (bs : Bytes) : (State.sramWrite s coach addr bs).freeCtr = s.freeCtr := rfl
@[simp] theorem State.sramWrite_stg (s : State) (coach addr : Nat) (bs : Bytes) : (State.sramWrite s coach addr bs).stg = s.stg := rfl
@[simp] theorem State.sramWrite_clk (s : State) (coach addr : Nat) (bs : Bytes) : (State.sramWrite s coach addr bs).clk = s.clk := rfl
@[simp] theorem State.sramWrite_fab (s : State) (coach addr : Nat) (bs : Bytes) : (State.sramWrite s coach addr bs).fab = s.fab := rfl
@[simp] theorem State.sramWrite_drm (s : State) (coach addr : Nat) (bs : Bytes) : (State.sramWrite s coach addr bs).drm = s.drm := rfl
@[simp] theorem State.sramWrite_fla (s : State) (coach addr : Nat) (bs : Bytes) : (State.sramWrite s coach addr bs).fla = s.fla := rfl
@[simp] theorem State.sramWrite_xlt (s : State) (coach addr : Nat) (bs : Bytes) : (State.sramWrite s coach addr bs).xlt = s.xlt := rfl
@[simp] theorem State.sramWrite_pwr (s : State) (coach addr : Nat) (bs : Bytes) : (State.sramWrite s coach addr bs).pwr = s.pwr := rfl
@[simp] theorem State.sramWrite_port (s : State) (coach addr : Nat) (bs : Bytes) : (State.sramWrite s coach addr bs).port = s.port := rfl
@[simp] theorem State.sramWrite_que (s : State) (coach addr : Nat) (bs : Bytes) : (State.sramWrite s coach addr bs).que = s.que := rfl
@[simp] theorem State.sramWrite_ns (s : State) (coach addr : Nat) (bs : Bytes) : (State.sramWrite s coach addr bs).ns = s.ns := rfl
@[simp] theorem State.sramWrite_ses (s : State) (coach addr : Nat) (bs : Bytes) : (State.sramWrite s coach addr bs).ses = s.ses := rfl
@[simp] theorem State.sramWrite_ans (s : State) (coach addr : Nat) (bs : Bytes) : (State.sramWrite s coach addr bs).ans = s.ans := rfl
@[simp] theorem State.sramWrite_fwc (s : State) (coach addr : Nat) (bs : Bytes) : (State.sramWrite s coach addr bs).fwc = s.fwc := rfl
@[simp] theorem State.sramWrite_sec (s : State) (coach addr : Nat) (bs : Bytes) : (State.sramWrite s coach addr bs).sec = s.sec := rfl
@[simp] theorem State.sramWrite_boot (s : State) (coach addr : Nat) (bs : Bytes) : (State.sramWrite s coach addr bs).boot = s.boot := rfl

@[simp] theorem State.setCtx_pending (s : State) (coach ctx : Nat) (c : Ctx) : (State.setCtx s coach ctx c).pending = s.pending := rfl
@[simp] theorem State.setCtx_freeCtr (s : State) (coach ctx : Nat) (c : Ctx) : (State.setCtx s coach ctx c).freeCtr = s.freeCtr := rfl
@[simp] theorem State.setCtx_stg (s : State) (coach ctx : Nat) (c : Ctx) : (State.setCtx s coach ctx c).stg = s.stg := rfl
@[simp] theorem State.setCtx_clk (s : State) (coach ctx : Nat) (c : Ctx) : (State.setCtx s coach ctx c).clk = s.clk := rfl
@[simp] theorem State.setCtx_fab (s : State) (coach ctx : Nat) (c : Ctx) : (State.setCtx s coach ctx c).fab = s.fab := rfl
@[simp] theorem State.setCtx_drm (s : State) (coach ctx : Nat) (c : Ctx) : (State.setCtx s coach ctx c).drm = s.drm := rfl
@[simp] theorem State.setCtx_fla (s : State) (coach ctx : Nat) (c : Ctx) : (State.setCtx s coach ctx c).fla = s.fla := rfl
@[simp] theorem State.setCtx_xlt (s : State) (coach ctx : Nat) (c : Ctx) : (State.setCtx s coach ctx c).xlt = s.xlt := rfl
@[simp] theorem State.setCtx_pwr (s : State) (coach ctx : Nat) (c : Ctx) : (State.setCtx s coach ctx c).pwr = s.pwr := rfl
@[simp] theorem State.setCtx_port (s : State) (coach ctx : Nat) (c : Ctx) : (State.setCtx s coach ctx c).port = s.port := rfl
@[simp] theorem State.setCtx_que (s : State) (coach ctx : Nat) (c : Ctx) : (State.setCtx s coach ctx c).que = s.que := rfl
@[simp] theorem State.setCtx_ns (s : State) (coach ctx : Nat) (c : Ctx) : (State.setCtx s coach ctx c).ns = s.ns := rfl
@[simp] theorem State.setCtx_ses (s : State) (coach ctx : Nat) (c : Ctx) : (State.setCtx s coach ctx c).ses = s.ses := rfl
@[simp] theorem State.setCtx_ans (s : State) (coach ctx : Nat) (c : Ctx) : (State.setCtx s coach ctx c).ans = s.ans := rfl
@[simp] theorem State.setCtx_fwc (s : State) (coach ctx : Nat) (c : Ctx) : (State.setCtx s coach ctx c).fwc = s.fwc := rfl
@[simp] theorem State.setCtx_sec (s : State) (coach ctx : Nat) (c : Ctx) : (State.setCtx s coach ctx c).sec = s.sec := rfl
@[simp] theorem State.setCtx_boot (s : State) (coach ctx : Nat) (c : Ctx) : (State.setCtx s coach ctx c).boot = s.boot := rfl

@[simp] theorem State.setCheck_pending (s : State) (line w : Nat) (p : Byte × Byte) : (State.setCheck s line w p).pending = s.pending := rfl
@[simp] theorem State.setCheck_freeCtr (s : State) (line w : Nat) (p : Byte × Byte) : (State.setCheck s line w p).freeCtr = s.freeCtr := rfl
@[simp] theorem State.setCheck_stg (s : State) (line w : Nat) (p : Byte × Byte) : (State.setCheck s line w p).stg = s.stg := rfl
@[simp] theorem State.setCheck_clk (s : State) (line w : Nat) (p : Byte × Byte) : (State.setCheck s line w p).clk = s.clk := rfl
@[simp] theorem State.setCheck_coa (s : State) (line w : Nat) (p : Byte × Byte) : (State.setCheck s line w p).coa = s.coa := rfl
@[simp] theorem State.setCheck_fab (s : State) (line w : Nat) (p : Byte × Byte) : (State.setCheck s line w p).fab = s.fab := rfl
@[simp] theorem State.setCheck_fla (s : State) (line w : Nat) (p : Byte × Byte) : (State.setCheck s line w p).fla = s.fla := rfl
@[simp] theorem State.setCheck_xlt (s : State) (line w : Nat) (p : Byte × Byte) : (State.setCheck s line w p).xlt = s.xlt := rfl
@[simp] theorem State.setCheck_pwr (s : State) (line w : Nat) (p : Byte × Byte) : (State.setCheck s line w p).pwr = s.pwr := rfl
@[simp] theorem State.setCheck_port (s : State) (line w : Nat) (p : Byte × Byte) : (State.setCheck s line w p).port = s.port := rfl
@[simp] theorem State.setCheck_que (s : State) (line w : Nat) (p : Byte × Byte) : (State.setCheck s line w p).que = s.que := rfl
@[simp] theorem State.setCheck_ns (s : State) (line w : Nat) (p : Byte × Byte) : (State.setCheck s line w p).ns = s.ns := rfl
@[simp] theorem State.setCheck_ses (s : State) (line w : Nat) (p : Byte × Byte) : (State.setCheck s line w p).ses = s.ses := rfl
@[simp] theorem State.setCheck_ans (s : State) (line w : Nat) (p : Byte × Byte) : (State.setCheck s line w p).ans = s.ans := rfl
@[simp] theorem State.setCheck_fwc (s : State) (line w : Nat) (p : Byte × Byte) : (State.setCheck s line w p).fwc = s.fwc := rfl
@[simp] theorem State.setCheck_sec (s : State) (line w : Nat) (p : Byte × Byte) : (State.setCheck s line w p).sec = s.sec := rfl
@[simp] theorem State.setCheck_boot (s : State) (line w : Nat) (p : Byte × Byte) : (State.setCheck s line w p).boot = s.boot := rfl

@[simp] theorem State.setData_pending (s : State) (addr : Nat) (bs : Bytes) : (State.setData s addr bs).pending = s.pending := rfl
@[simp] theorem State.setData_freeCtr (s : State) (addr : Nat) (bs : Bytes) : (State.setData s addr bs).freeCtr = s.freeCtr := rfl
@[simp] theorem State.setData_stg (s : State) (addr : Nat) (bs : Bytes) : (State.setData s addr bs).stg = s.stg := rfl
@[simp] theorem State.setData_clk (s : State) (addr : Nat) (bs : Bytes) : (State.setData s addr bs).clk = s.clk := rfl
@[simp] theorem State.setData_coa (s : State) (addr : Nat) (bs : Bytes) : (State.setData s addr bs).coa = s.coa := rfl
@[simp] theorem State.setData_fab (s : State) (addr : Nat) (bs : Bytes) : (State.setData s addr bs).fab = s.fab := rfl
@[simp] theorem State.setData_fla (s : State) (addr : Nat) (bs : Bytes) : (State.setData s addr bs).fla = s.fla := rfl
@[simp] theorem State.setData_xlt (s : State) (addr : Nat) (bs : Bytes) : (State.setData s addr bs).xlt = s.xlt := rfl
@[simp] theorem State.setData_pwr (s : State) (addr : Nat) (bs : Bytes) : (State.setData s addr bs).pwr = s.pwr := rfl
@[simp] theorem State.setData_port (s : State) (addr : Nat) (bs : Bytes) : (State.setData s addr bs).port = s.port := rfl
@[simp] theorem State.setData_que (s : State) (addr : Nat) (bs : Bytes) : (State.setData s addr bs).que = s.que := rfl
@[simp] theorem State.setData_ns (s : State) (addr : Nat) (bs : Bytes) : (State.setData s addr bs).ns = s.ns := rfl
@[simp] theorem State.setData_ses (s : State) (addr : Nat) (bs : Bytes) : (State.setData s addr bs).ses = s.ses := rfl
@[simp] theorem State.setData_ans (s : State) (addr : Nat) (bs : Bytes) : (State.setData s addr bs).ans = s.ans := rfl
@[simp] theorem State.setData_fwc (s : State) (addr : Nat) (bs : Bytes) : (State.setData s addr bs).fwc = s.fwc := rfl
@[simp] theorem State.setData_sec (s : State) (addr : Nat) (bs : Bytes) : (State.setData s addr bs).sec = s.sec := rfl
@[simp] theorem State.setData_boot (s : State) (addr : Nat) (bs : Bytes) : (State.setData s addr bs).boot = s.boot := rfl

@[simp] theorem State.freeSlots_pending (s : State) (ps : List Bytes) : (State.freeSlots s ps).pending = s.pending := rfl
@[simp] theorem State.freeSlots_freeCtr (s : State) (ps : List Bytes) : (State.freeSlots s ps).freeCtr = s.freeCtr := rfl
@[simp] theorem State.freeSlots_stg (s : State) (ps : List Bytes) : (State.freeSlots s ps).stg = s.stg := rfl
@[simp] theorem State.freeSlots_clk (s : State) (ps : List Bytes) : (State.freeSlots s ps).clk = s.clk := rfl
@[simp] theorem State.freeSlots_coa (s : State) (ps : List Bytes) : (State.freeSlots s ps).coa = s.coa := rfl
@[simp] theorem State.freeSlots_fab (s : State) (ps : List Bytes) : (State.freeSlots s ps).fab = s.fab := rfl
@[simp] theorem State.freeSlots_drm (s : State) (ps : List Bytes) : (State.freeSlots s ps).drm = s.drm := rfl
@[simp] theorem State.freeSlots_fla (s : State) (ps : List Bytes) : (State.freeSlots s ps).fla = s.fla := rfl
@[simp] theorem State.freeSlots_xlt (s : State) (ps : List Bytes) : (State.freeSlots s ps).xlt = s.xlt := rfl
@[simp] theorem State.freeSlots_pwr (s : State) (ps : List Bytes) : (State.freeSlots s ps).pwr = s.pwr := rfl
@[simp] theorem State.freeSlots_port (s : State) (ps : List Bytes) : (State.freeSlots s ps).port = s.port := rfl
@[simp] theorem State.freeSlots_que (s : State) (ps : List Bytes) : (State.freeSlots s ps).que = s.que := rfl
@[simp] theorem State.freeSlots_ns (s : State) (ps : List Bytes) : (State.freeSlots s ps).ns = s.ns := rfl
@[simp] theorem State.freeSlots_ans (s : State) (ps : List Bytes) : (State.freeSlots s ps).ans = s.ans := rfl
@[simp] theorem State.freeSlots_fwc (s : State) (ps : List Bytes) : (State.freeSlots s ps).fwc = s.fwc := rfl
@[simp] theorem State.freeSlots_sec (s : State) (ps : List Bytes) : (State.freeSlots s ps).sec = s.sec := rfl
@[simp] theorem State.freeSlots_boot (s : State) (ps : List Bytes) : (State.freeSlots s ps).boot = s.boot := rfl

@[simp] theorem State.inject_pending (s : State) (dst : Nat) (c : Bytes) : (State.inject s dst c).pending = s.pending := rfl
@[simp] theorem State.inject_freeCtr (s : State) (dst : Nat) (c : Bytes) : (State.inject s dst c).freeCtr = s.freeCtr := rfl
@[simp] theorem State.inject_stg (s : State) (dst : Nat) (c : Bytes) : (State.inject s dst c).stg = s.stg := rfl
@[simp] theorem State.inject_clk (s : State) (dst : Nat) (c : Bytes) : (State.inject s dst c).clk = s.clk := rfl
@[simp] theorem State.inject_coa (s : State) (dst : Nat) (c : Bytes) : (State.inject s dst c).coa = s.coa := rfl
@[simp] theorem State.inject_drm (s : State) (dst : Nat) (c : Bytes) : (State.inject s dst c).drm = s.drm := rfl
@[simp] theorem State.inject_fla (s : State) (dst : Nat) (c : Bytes) : (State.inject s dst c).fla = s.fla := rfl
@[simp] theorem State.inject_xlt (s : State) (dst : Nat) (c : Bytes) : (State.inject s dst c).xlt = s.xlt := rfl
@[simp] theorem State.inject_pwr (s : State) (dst : Nat) (c : Bytes) : (State.inject s dst c).pwr = s.pwr := rfl
@[simp] theorem State.inject_port (s : State) (dst : Nat) (c : Bytes) : (State.inject s dst c).port = s.port := rfl
@[simp] theorem State.inject_que (s : State) (dst : Nat) (c : Bytes) : (State.inject s dst c).que = s.que := rfl
@[simp] theorem State.inject_ns (s : State) (dst : Nat) (c : Bytes) : (State.inject s dst c).ns = s.ns := rfl
@[simp] theorem State.inject_ses (s : State) (dst : Nat) (c : Bytes) : (State.inject s dst c).ses = s.ses := rfl
@[simp] theorem State.inject_ans (s : State) (dst : Nat) (c : Bytes) : (State.inject s dst c).ans = s.ans := rfl
@[simp] theorem State.inject_fwc (s : State) (dst : Nat) (c : Bytes) : (State.inject s dst c).fwc = s.fwc := rfl
@[simp] theorem State.inject_sec (s : State) (dst : Nat) (c : Bytes) : (State.inject s dst c).sec = s.sec := rfl
@[simp] theorem State.inject_boot (s : State) (dst : Nat) (c : Bytes) : (State.inject s dst c).boot = s.boot := rfl

@[simp] theorem State.readDone_pending (s : State) (coach tag : Nat) : (State.readDone s coach tag).pending = s.pending := rfl
@[simp] theorem State.readDone_freeCtr (s : State) (coach tag : Nat) : (State.readDone s coach tag).freeCtr = s.freeCtr := rfl
@[simp] theorem State.readDone_stg (s : State) (coach tag : Nat) : (State.readDone s coach tag).stg = s.stg := rfl
@[simp] theorem State.readDone_clk (s : State) (coach tag : Nat) : (State.readDone s coach tag).clk = s.clk := rfl
@[simp] theorem State.readDone_fab (s : State) (coach tag : Nat) : (State.readDone s coach tag).fab = s.fab := rfl
@[simp] theorem State.readDone_drm (s : State) (coach tag : Nat) : (State.readDone s coach tag).drm = s.drm := rfl
@[simp] theorem State.readDone_fla (s : State) (coach tag : Nat) : (State.readDone s coach tag).fla = s.fla := rfl
@[simp] theorem State.readDone_xlt (s : State) (coach tag : Nat) : (State.readDone s coach tag).xlt = s.xlt := rfl
@[simp] theorem State.readDone_pwr (s : State) (coach tag : Nat) : (State.readDone s coach tag).pwr = s.pwr := rfl
@[simp] theorem State.readDone_port (s : State) (coach tag : Nat) : (State.readDone s coach tag).port = s.port := rfl
@[simp] theorem State.readDone_que (s : State) (coach tag : Nat) : (State.readDone s coach tag).que = s.que := rfl
@[simp] theorem State.readDone_ns (s : State) (coach tag : Nat) : (State.readDone s coach tag).ns = s.ns := rfl
@[simp] theorem State.readDone_ses (s : State) (coach tag : Nat) : (State.readDone s coach tag).ses = s.ses := rfl
@[simp] theorem State.readDone_ans (s : State) (coach tag : Nat) : (State.readDone s coach tag).ans = s.ans := rfl
@[simp] theorem State.readDone_fwc (s : State) (coach tag : Nat) : (State.readDone s coach tag).fwc = s.fwc := rfl
@[simp] theorem State.readDone_sec (s : State) (coach tag : Nat) : (State.readDone s coach tag).sec = s.sec := rfl
@[simp] theorem State.readDone_boot (s : State) (coach tag : Nat) : (State.readDone s coach tag).boot = s.boot := rfl

@[simp] theorem State.setSb_pending (s : State) (i : Nat) (x : Sb) : (State.setSb s i x).pending = s.pending := rfl
@[simp] theorem State.setSb_freeCtr (s : State) (i : Nat) (x : Sb) : (State.setSb s i x).freeCtr = s.freeCtr := rfl
@[simp] theorem State.setSb_stg (s : State) (i : Nat) (x : Sb) : (State.setSb s i x).stg = s.stg := rfl
@[simp] theorem State.setSb_clk (s : State) (i : Nat) (x : Sb) : (State.setSb s i x).clk = s.clk := rfl
@[simp] theorem State.setSb_coa (s : State) (i : Nat) (x : Sb) : (State.setSb s i x).coa = s.coa := rfl
@[simp] theorem State.setSb_fab (s : State) (i : Nat) (x : Sb) : (State.setSb s i x).fab = s.fab := rfl
@[simp] theorem State.setSb_drm (s : State) (i : Nat) (x : Sb) : (State.setSb s i x).drm = s.drm := rfl
@[simp] theorem State.setSb_fla (s : State) (i : Nat) (x : Sb) : (State.setSb s i x).fla = s.fla := rfl
@[simp] theorem State.setSb_pwr (s : State) (i : Nat) (x : Sb) : (State.setSb s i x).pwr = s.pwr := rfl
@[simp] theorem State.setSb_port (s : State) (i : Nat) (x : Sb) : (State.setSb s i x).port = s.port := rfl
@[simp] theorem State.setSb_que (s : State) (i : Nat) (x : Sb) : (State.setSb s i x).que = s.que := rfl
@[simp] theorem State.setSb_ns (s : State) (i : Nat) (x : Sb) : (State.setSb s i x).ns = s.ns := rfl
@[simp] theorem State.setSb_ses (s : State) (i : Nat) (x : Sb) : (State.setSb s i x).ses = s.ses := rfl
@[simp] theorem State.setSb_ans (s : State) (i : Nat) (x : Sb) : (State.setSb s i x).ans = s.ans := rfl
@[simp] theorem State.setSb_fwc (s : State) (i : Nat) (x : Sb) : (State.setSb s i x).fwc = s.fwc := rfl
@[simp] theorem State.setSb_sec (s : State) (i : Nat) (x : Sb) : (State.setSb s i x).sec = s.sec := rfl
@[simp] theorem State.setSb_boot (s : State) (i : Nat) (x : Sb) : (State.setSb s i x).boot = s.boot := rfl

@[simp] theorem State.erasePlane_pending (s : State) (pb : Nat) : (State.erasePlane s pb).pending = s.pending := rfl
@[simp] theorem State.erasePlane_freeCtr (s : State) (pb : Nat) : (State.erasePlane s pb).freeCtr = s.freeCtr := rfl
@[simp] theorem State.erasePlane_stg (s : State) (pb : Nat) : (State.erasePlane s pb).stg = s.stg := rfl
@[simp] theorem State.erasePlane_clk (s : State) (pb : Nat) : (State.erasePlane s pb).clk = s.clk := rfl
@[simp] theorem State.erasePlane_coa (s : State) (pb : Nat) : (State.erasePlane s pb).coa = s.coa := rfl
@[simp] theorem State.erasePlane_fab (s : State) (pb : Nat) : (State.erasePlane s pb).fab = s.fab := rfl
@[simp] theorem State.erasePlane_drm (s : State) (pb : Nat) : (State.erasePlane s pb).drm = s.drm := rfl
@[simp] theorem State.erasePlane_pwr (s : State) (pb : Nat) : (State.erasePlane s pb).pwr = s.pwr := rfl
@[simp] theorem State.erasePlane_port (s : State) (pb : Nat) : (State.erasePlane s pb).port = s.port := rfl
@[simp] theorem State.erasePlane_que (s : State) (pb : Nat) : (State.erasePlane s pb).que = s.que := rfl
@[simp] theorem State.erasePlane_ns (s : State) (pb : Nat) : (State.erasePlane s pb).ns = s.ns := rfl
@[simp] theorem State.erasePlane_ses (s : State) (pb : Nat) : (State.erasePlane s pb).ses = s.ses := rfl
@[simp] theorem State.erasePlane_ans (s : State) (pb : Nat) : (State.erasePlane s pb).ans = s.ans := rfl
@[simp] theorem State.erasePlane_fwc (s : State) (pb : Nat) : (State.erasePlane s pb).fwc = s.fwc := rfl
@[simp] theorem State.erasePlane_sec (s : State) (pb : Nat) : (State.erasePlane s pb).sec = s.sec := rfl
@[simp] theorem State.erasePlane_boot (s : State) (pb : Nat) : (State.erasePlane s pb).boot = s.boot := rfl

@[simp] theorem State.setPgmode_pending (s : State) (hub mode : Nat) : (State.setPgmode s hub mode).pending = s.pending := rfl
@[simp] theorem State.setPgmode_freeCtr (s : State) (hub mode : Nat) : (State.setPgmode s hub mode).freeCtr = s.freeCtr := rfl
@[simp] theorem State.setPgmode_stg (s : State) (hub mode : Nat) : (State.setPgmode s hub mode).stg = s.stg := rfl
@[simp] theorem State.setPgmode_clk (s : State) (hub mode : Nat) : (State.setPgmode s hub mode).clk = s.clk := rfl
@[simp] theorem State.setPgmode_coa (s : State) (hub mode : Nat) : (State.setPgmode s hub mode).coa = s.coa := rfl
@[simp] theorem State.setPgmode_fab (s : State) (hub mode : Nat) : (State.setPgmode s hub mode).fab = s.fab := rfl
@[simp] theorem State.setPgmode_drm (s : State) (hub mode : Nat) : (State.setPgmode s hub mode).drm = s.drm := rfl
@[simp] theorem State.setPgmode_xlt (s : State) (hub mode : Nat) : (State.setPgmode s hub mode).xlt = s.xlt := rfl
@[simp] theorem State.setPgmode_pwr (s : State) (hub mode : Nat) : (State.setPgmode s hub mode).pwr = s.pwr := rfl
@[simp] theorem State.setPgmode_port (s : State) (hub mode : Nat) : (State.setPgmode s hub mode).port = s.port := rfl
@[simp] theorem State.setPgmode_que (s : State) (hub mode : Nat) : (State.setPgmode s hub mode).que = s.que := rfl
@[simp] theorem State.setPgmode_ns (s : State) (hub mode : Nat) : (State.setPgmode s hub mode).ns = s.ns := rfl
@[simp] theorem State.setPgmode_ses (s : State) (hub mode : Nat) : (State.setPgmode s hub mode).ses = s.ses := rfl
@[simp] theorem State.setPgmode_ans (s : State) (hub mode : Nat) : (State.setPgmode s hub mode).ans = s.ans := rfl
@[simp] theorem State.setPgmode_fwc (s : State) (hub mode : Nat) : (State.setPgmode s hub mode).fwc = s.fwc := rfl
@[simp] theorem State.setPgmode_sec (s : State) (hub mode : Nat) : (State.setPgmode s hub mode).sec = s.sec := rfl
@[simp] theorem State.setPgmode_boot (s : State) (hub mode : Nat) : (State.setPgmode s hub mode).boot = s.boot := rfl

@[simp] theorem State.addBind_pending (s : State) (sess : Nat) (w : BindFor) (again : Bool := false) : (State.addBind s sess w again).pending = s.pending := rfl
@[simp] theorem State.addBind_freeCtr (s : State) (sess : Nat) (w : BindFor) (again : Bool := false) : (State.addBind s sess w again).freeCtr = s.freeCtr := rfl
@[simp] theorem State.addBind_stg (s : State) (sess : Nat) (w : BindFor) (again : Bool := false) : (State.addBind s sess w again).stg = s.stg := rfl
@[simp] theorem State.addBind_clk (s : State) (sess : Nat) (w : BindFor) (again : Bool := false) : (State.addBind s sess w again).clk = s.clk := rfl
@[simp] theorem State.addBind_coa (s : State) (sess : Nat) (w : BindFor) (again : Bool := false) : (State.addBind s sess w again).coa = s.coa := rfl
@[simp] theorem State.addBind_fab (s : State) (sess : Nat) (w : BindFor) (again : Bool := false) : (State.addBind s sess w again).fab = s.fab := rfl
@[simp] theorem State.addBind_drm (s : State) (sess : Nat) (w : BindFor) (again : Bool := false) : (State.addBind s sess w again).drm = s.drm := rfl
@[simp] theorem State.addBind_fla (s : State) (sess : Nat) (w : BindFor) (again : Bool := false) : (State.addBind s sess w again).fla = s.fla := rfl
@[simp] theorem State.addBind_xlt (s : State) (sess : Nat) (w : BindFor) (again : Bool := false) : (State.addBind s sess w again).xlt = s.xlt := rfl
@[simp] theorem State.addBind_pwr (s : State) (sess : Nat) (w : BindFor) (again : Bool := false) : (State.addBind s sess w again).pwr = s.pwr := rfl
@[simp] theorem State.addBind_port (s : State) (sess : Nat) (w : BindFor) (again : Bool := false) : (State.addBind s sess w again).port = s.port := rfl
@[simp] theorem State.addBind_que (s : State) (sess : Nat) (w : BindFor) (again : Bool := false) : (State.addBind s sess w again).que = s.que := rfl
@[simp] theorem State.addBind_ns (s : State) (sess : Nat) (w : BindFor) (again : Bool := false) : (State.addBind s sess w again).ns = s.ns := rfl
@[simp] theorem State.addBind_ans (s : State) (sess : Nat) (w : BindFor) (again : Bool := false) : (State.addBind s sess w again).ans = s.ans := rfl
@[simp] theorem State.addBind_fwc (s : State) (sess : Nat) (w : BindFor) (again : Bool := false) : (State.addBind s sess w again).fwc = s.fwc := rfl
@[simp] theorem State.addBind_sec (s : State) (sess : Nat) (w : BindFor) (again : Bool := false) : (State.addBind s sess w again).sec = s.sec := rfl
@[simp] theorem State.addBind_boot (s : State) (sess : Nat) (w : BindFor) (again : Bool := false) : (State.addBind s sess w again).boot = s.boot := rfl

@[simp] theorem State.dropBind_pending (s : State) (id : Nat) : (State.dropBind s id).pending = s.pending := rfl
@[simp] theorem State.dropBind_freeCtr (s : State) (id : Nat) : (State.dropBind s id).freeCtr = s.freeCtr := rfl
@[simp] theorem State.dropBind_stg (s : State) (id : Nat) : (State.dropBind s id).stg = s.stg := rfl
@[simp] theorem State.dropBind_clk (s : State) (id : Nat) : (State.dropBind s id).clk = s.clk := rfl
@[simp] theorem State.dropBind_coa (s : State) (id : Nat) : (State.dropBind s id).coa = s.coa := rfl
@[simp] theorem State.dropBind_fab (s : State) (id : Nat) : (State.dropBind s id).fab = s.fab := rfl
@[simp] theorem State.dropBind_drm (s : State) (id : Nat) : (State.dropBind s id).drm = s.drm := rfl
@[simp] theorem State.dropBind_fla (s : State) (id : Nat) : (State.dropBind s id).fla = s.fla := rfl
@[simp] theorem State.dropBind_xlt (s : State) (id : Nat) : (State.dropBind s id).xlt = s.xlt := rfl
@[simp] theorem State.dropBind_pwr (s : State) (id : Nat) : (State.dropBind s id).pwr = s.pwr := rfl
@[simp] theorem State.dropBind_port (s : State) (id : Nat) : (State.dropBind s id).port = s.port := rfl
@[simp] theorem State.dropBind_que (s : State) (id : Nat) : (State.dropBind s id).que = s.que := rfl
@[simp] theorem State.dropBind_ns (s : State) (id : Nat) : (State.dropBind s id).ns = s.ns := rfl
@[simp] theorem State.dropBind_ans (s : State) (id : Nat) : (State.dropBind s id).ans = s.ans := rfl
@[simp] theorem State.dropBind_fwc (s : State) (id : Nat) : (State.dropBind s id).fwc = s.fwc := rfl
@[simp] theorem State.dropBind_sec (s : State) (id : Nat) : (State.dropBind s id).sec = s.sec := rfl
@[simp] theorem State.dropBind_boot (s : State) (id : Nat) : (State.dropBind s id).boot = s.boot := rfl

@[simp] theorem State.dropTree_pending (s : State) (k : Nat) : (State.dropTree s k).pending = s.pending := rfl
@[simp] theorem State.dropTree_freeCtr (s : State) (k : Nat) : (State.dropTree s k).freeCtr = s.freeCtr := rfl
@[simp] theorem State.dropTree_stg (s : State) (k : Nat) : (State.dropTree s k).stg = s.stg := rfl
@[simp] theorem State.dropTree_clk (s : State) (k : Nat) : (State.dropTree s k).clk = s.clk := rfl
@[simp] theorem State.dropTree_coa (s : State) (k : Nat) : (State.dropTree s k).coa = s.coa := rfl
@[simp] theorem State.dropTree_fab (s : State) (k : Nat) : (State.dropTree s k).fab = s.fab := rfl
@[simp] theorem State.dropTree_drm (s : State) (k : Nat) : (State.dropTree s k).drm = s.drm := rfl
@[simp] theorem State.dropTree_fla (s : State) (k : Nat) : (State.dropTree s k).fla = s.fla := rfl
@[simp] theorem State.dropTree_xlt (s : State) (k : Nat) : (State.dropTree s k).xlt = s.xlt := rfl
@[simp] theorem State.dropTree_pwr (s : State) (k : Nat) : (State.dropTree s k).pwr = s.pwr := rfl
@[simp] theorem State.dropTree_port (s : State) (k : Nat) : (State.dropTree s k).port = s.port := rfl
@[simp] theorem State.dropTree_que (s : State) (k : Nat) : (State.dropTree s k).que = s.que := rfl
@[simp] theorem State.dropTree_ns (s : State) (k : Nat) : (State.dropTree s k).ns = s.ns := rfl
@[simp] theorem State.dropTree_ses (s : State) (k : Nat) : (State.dropTree s k).ses = s.ses := rfl
@[simp] theorem State.dropTree_fwc (s : State) (k : Nat) : (State.dropTree s k).fwc = s.fwc := rfl
@[simp] theorem State.dropTree_sec (s : State) (k : Nat) : (State.dropTree s k).sec = s.sec := rfl
@[simp] theorem State.dropTree_boot (s : State) (k : Nat) : (State.dropTree s k).boot = s.boot := rfl

@[simp] theorem State.blow_pending (s : State) (l : List Nat) : (State.blow s l).pending = s.pending := rfl
@[simp] theorem State.blow_freeCtr (s : State) (l : List Nat) : (State.blow s l).freeCtr = s.freeCtr := rfl
@[simp] theorem State.blow_stg (s : State) (l : List Nat) : (State.blow s l).stg = s.stg := rfl
@[simp] theorem State.blow_clk (s : State) (l : List Nat) : (State.blow s l).clk = s.clk := rfl
@[simp] theorem State.blow_coa (s : State) (l : List Nat) : (State.blow s l).coa = s.coa := rfl
@[simp] theorem State.blow_fab (s : State) (l : List Nat) : (State.blow s l).fab = s.fab := rfl
@[simp] theorem State.blow_drm (s : State) (l : List Nat) : (State.blow s l).drm = s.drm := rfl
@[simp] theorem State.blow_fla (s : State) (l : List Nat) : (State.blow s l).fla = s.fla := rfl
@[simp] theorem State.blow_xlt (s : State) (l : List Nat) : (State.blow s l).xlt = s.xlt := rfl
@[simp] theorem State.blow_pwr (s : State) (l : List Nat) : (State.blow s l).pwr = s.pwr := rfl
@[simp] theorem State.blow_port (s : State) (l : List Nat) : (State.blow s l).port = s.port := rfl
@[simp] theorem State.blow_que (s : State) (l : List Nat) : (State.blow s l).que = s.que := rfl
@[simp] theorem State.blow_ns (s : State) (l : List Nat) : (State.blow s l).ns = s.ns := rfl
@[simp] theorem State.blow_ses (s : State) (l : List Nat) : (State.blow s l).ses = s.ses := rfl
@[simp] theorem State.blow_ans (s : State) (l : List Nat) : (State.blow s l).ans = s.ans := rfl
@[simp] theorem State.blow_fwc (s : State) (l : List Nat) : (State.blow s l).fwc = s.fwc := rfl
@[simp] theorem State.blow_boot (s : State) (l : List Nat) : (State.blow s l).boot = s.boot := rfl

@[simp] theorem State.postBatch_pending (s : State) : (State.postBatch s).pending = s.pending := rfl
@[simp] theorem State.postBatch_freeCtr (s : State) : (State.postBatch s).freeCtr = s.freeCtr := rfl
@[simp] theorem State.postBatch_stg (s : State) : (State.postBatch s).stg = s.stg := rfl
@[simp] theorem State.postBatch_clk (s : State) : (State.postBatch s).clk = s.clk := rfl
@[simp] theorem State.postBatch_coa (s : State) : (State.postBatch s).coa = s.coa := rfl
@[simp] theorem State.postBatch_fab (s : State) : (State.postBatch s).fab = s.fab := rfl
@[simp] theorem State.postBatch_drm (s : State) : (State.postBatch s).drm = s.drm := rfl
@[simp] theorem State.postBatch_fla (s : State) : (State.postBatch s).fla = s.fla := rfl
@[simp] theorem State.postBatch_pwr (s : State) : (State.postBatch s).pwr = s.pwr := rfl
@[simp] theorem State.postBatch_ns (s : State) : (State.postBatch s).ns = s.ns := rfl
@[simp] theorem State.postBatch_ans (s : State) : (State.postBatch s).ans = s.ans := rfl
@[simp] theorem State.postBatch_fwc (s : State) : (State.postBatch s).fwc = s.fwc := rfl
@[simp] theorem State.postBatch_sec (s : State) : (State.postBatch s).sec = s.sec := rfl
@[simp] theorem State.postBatch_boot (s : State) : (State.postBatch s).boot = s.boot := rfl

end Sys2Proof.Machine
end

