-- ==== Sys2Proof/Laws/Ops.lean ====
section
/-! SUPPORT. What the shared operations answer: asynchronous events, the yoke's change, the newest entries of a log, completions. -/

namespace Sys2Proof.Machine

set_option Elab.async false

/-- The newest entry of a log after one has been added. -/
@[simp] theorem newest_getLast {α : Type} (n : Nat) (l : List α) (e : α) : (newest (n + 1) (l ++ [e])).getLast? = some e := by
  simp [newest, List.getLast?_drop]

/-- Asynchronous events reach the queues alone. -/
theorem asyncEvent_frame (t i l : Nat) (cs : List Ctrl) (s : State) :
    (cs.foldl (postOne t i l) s).stg = s.stg ∧ (cs.foldl (postOne t i l) s).fwc = s.fwc ∧ (cs.foldl (postOne t i l) s).clk = s.clk := by
  induction cs generalizing s with
  | nil => exact ⟨rfl, rfl, rfl⟩
  | cons c cs ih =>
    have h : (postOne t i l s c).stg = s.stg ∧ (postOne t i l s c).fwc = s.fwc ∧ (postOne t i l s c).clk = s.clk := by
      unfold postOne
      split
      · split <;> exact ⟨by simp, by simp, by simp⟩
      · exact ⟨rfl, rfl, rfl⟩
    obtain ⟨h1, h2, h3⟩ := ih (postOne t i l s c)
    exact ⟨h1.trans h.1, h2.trans h.2.1, h3.trans h.2.2⟩

@[simp] theorem State.asyncEvent_stg (s : State) (t i l : Nat) : (s.asyncEvent t i l).stg = s.stg := (asyncEvent_frame t i l _ s).1
@[simp] theorem State.asyncEvent_fwc (s : State) (t i l : Nat) : (s.asyncEvent t i l).fwc = s.fwc := (asyncEvent_frame t i l _ s).2.1
@[simp] theorem State.asyncEvent_clk (s : State) (t i l : Nat) : (s.asyncEvent t i l).clk = s.clk := (asyncEvent_frame t i l _ s).2.2

/-- Asynchronous events reach neither power nor the port. -/
theorem asyncEvent_pwr (t i l : Nat) (cs : List Ctrl) (s : State) : (cs.foldl (postOne t i l) s).pwr = s.pwr := by
  induction cs generalizing s with
  | nil => rfl
  | cons c cs ih =>
    rw [List.foldl_cons, ih]
    unfold postOne
    split
    · split <;> simp
    · rfl

@[simp] theorem State.asyncEvent_pwr (s : State) (t i l : Nat) : (s.asyncEvent t i l).pwr = s.pwr := Machine.asyncEvent_pwr t i l _ s

@[simp] theorem State.changeYoke_yoke (s : State) (y : Yoke) : (s.changeYoke y).stg.yoke = y := by
  unfold State.changeYoke
  split
  · assumption
  · simp

@[simp] theorem State.changeYoke_servoLocked (s : State) (y : Yoke) : (s.changeYoke y).stg.servoLocked = s.stg.servoLocked := by
  unfold State.changeYoke
  split
  · rfl
  · simp

@[simp] theorem State.changeYoke_pwr (s : State) (y : Yoke) : (s.changeYoke y).pwr = s.pwr := by
  unfold State.changeYoke
  split
  · rfl
  · simp

/-- A change that has been asked for is the one that takes effect. -/
@[simp] theorem State.setYoke_yokeSoon (s : State) (y : Yoke) : (s.setYoke y).stg.yokeSoon = y := by
  unfold State.setYoke
  split
  · assumption
  · simp [Stg.yokeSoon]

@[simp] theorem State.setYoke_yoke (s : State) (y : Yoke) : (s.setYoke y).stg.yoke = s.stg.yoke := by
  unfold State.setYoke
  split <;> rfl

@[simp] theorem State.setYoke_servoLocked (s : State) (y : Yoke) : (s.setYoke y).stg.servoLocked = s.stg.servoLocked := by
  unfold State.setYoke
  split <;> rfl

/-- At a boundary the yoke takes the last of the changes asked for (R33). -/
@[simp] theorem State.yokeTick_yoke (s : State) : s.yokeTick.stg.yoke = s.stg.yokeSoon := by
  have h : ∀ (l : List Yoke) (t : State), (l.foldl State.changeYoke t).stg.yoke = l.getLastD t.stg.yoke := by
    intro l
    induction l with
    | nil => intro t; rfl
    | cons y l ih => intro t; rw [List.foldl_cons, ih, State.changeYoke_yoke]; cases l <;> rfl
  exact h _ _

theorem warn_frame (w : Nat) (l : List Nat) (s : State) :
    (l.foldl (fun s i => if bit w i && !bit s.que.warned i then s.asyncEvent 1 i 2 else s) s).stg = s.stg ∧
      (l.foldl (fun s i => if bit w i && !bit s.que.warned i then s.asyncEvent 1 i 2 else s) s).fwc = s.fwc ∧
      (l.foldl (fun s i => if bit w i && !bit s.que.warned i then s.asyncEvent 1 i 2 else s) s).clk = s.clk := by
  induction l generalizing s with
  | nil => exact ⟨rfl, rfl, rfl⟩
  | cons i l ih =>
    rw [List.foldl_cons]
    generalize ht : (if bit w i && !bit s.que.warned i then s.asyncEvent 1 i 2 else s) = t
    have h : t.stg = s.stg ∧ t.fwc = s.fwc ∧ t.clk = s.clk := by
      subst ht
      split <;> simp
    exact ⟨(ih t).1.trans h.1, (ih t).2.1.trans h.2.1, (ih t).2.2.trans h.2.2⟩

theorem State.warn_eq (s : State) :
    s.warn = (let t := (List.range 5).foldl (fun u i => if bit s.criticalWarning i && !bit u.que.warned i then u.asyncEvent 1 i 2 else u) s
      { t with que := { t.que with warned := s.criticalWarning } }) := rfl

/-- A state that differs in what has been posted of the warnings. -/
theorem warned_frame {s t : State} (w : Nat) (h : t.stg = s.stg ∧ t.fwc = s.fwc ∧ t.clk = s.clk) :
    ({ t with que := { t.que with warned := w } } : State).stg = s.stg ∧ ({ t with que := { t.que with warned := w } } : State).fwc = s.fwc ∧
      ({ t with que := { t.que with warned := w } } : State).clk = s.clk := h

theorem State.warn_rest (s : State) : s.warn.stg = s.stg ∧ s.warn.fwc = s.fwc ∧ s.warn.clk = s.clk := by
  rw [State.warn_eq]
  exact warned_frame _ (warn_frame _ _ s)

@[simp] theorem State.warn_stg (s : State) : s.warn.stg = s.stg := s.warn_rest.1
@[simp] theorem State.warn_fwc (s : State) : s.warn.fwc = s.fwc := s.warn_rest.2.1
@[simp] theorem State.warn_clk (s : State) : s.warn.clk = s.clk := s.warn_rest.2.2

end Sys2Proof.Machine
end

