-- ==== Sys2Proof/Laws/Moves.lean ====
section
/-! SUPPORT. The operations that move what Laws/Keep.lean keeps: the stage boundary and the forward jump, the stamp start, power-down and
the start of bring-up, fuses blown, a write of the configuration memory. -/

namespace Sys2Proof.Machine

set_option Elab.async false

open Sys2Proof.Safety

variable {anc : KeepCtx} {l : List Part}

/-- A sound state keeps its own anchor. -/
theorem Keep.self {s : State} (h : Sound s) : Keep ⟨s.anchor, l, s⟩ s := ⟨rfl, h, Only.refl _ _⟩

/-! ### Fuses -/

theorem mem_insertNat (n k : Nat) (l : List Nat) : k ∈ insertNat n l ↔ k = n ∨ k ∈ l := by
  induction l with
  | nil => simp [insertNat]
  | cons m l ih => simp only [insertNat]; grind

theorem mem_insertAll (l fs : List Nat) (k : Nat) : k ∈ l.foldl (fun t i => insertNat i t) fs ↔ k ∈ l ∨ k ∈ fs := by
  induction l generalizing fs with
  | nil => simp
  | cons i l ih => simp only [List.foldl_cons, ih, mem_insertNat, List.mem_cons]; grind

/-- Of the anchor nothing but the fuses moves, and none of those blown is restored; of the parts, the listed ones alone. -/
def Blows (l : List Part) (s t : State) : Prop :=
  t.pending = s.pending ∧ (t.stg.stage, t.stg.loaded, t.stg.exhausted) = (s.stg.stage, s.stg.loaded, s.stg.exhausted) ∧
    t.que.posted = s.que.posted ∧ t.boot.cfg = s.boot.cfg ∧ (∀ k ∈ s.sec.fuses, k ∈ t.sec.fuses) ∧ Sound t ∧ Only l s t

theorem Blows.of_keep {s t u : State} (hb : Blows l s t) (h : Keep ⟨t.anchor, l, s⟩ u) : Blows l s u := by
  obtain ⟨h1, hs, ho⟩ := h
  simp only [State.anchor, Prod.mk.injEq] at h1
  obtain ⟨b1, b2, b3, b4, b5, -⟩ := hb
  simp only [Prod.mk.injEq] at b2
  refine ⟨h1.1.trans b1, ?_, h1.2.2.1.trans b3, h1.2.2.2.2.trans b4, fun k hk => h1.2.2.2.1 ▸ b5 k hk, hs, ho⟩
  simp [h1, b2]

theorem Blows.refl {s : State} (h : Sound s) : Blows l s s := ⟨rfl, rfl, rfl, rfl, fun _ h => h, h, Only.refl _ _⟩

theorem Blows.sound {s t : State} (h : Blows l s t) : Sound t := h.2.2.2.2.2.1

theorem Blows.keep {s t u : State} (hb : Blows l s t) (h : Keep ⟨t.anchor, l, s⟩ t → Keep ⟨t.anchor, l, s⟩ u) : Blows l s u :=
  hb.of_keep (h ⟨rfl, hb.sound, hb.2.2.2.2.2.2⟩)

theorem Blows.ite {c : Prop} [Decidable c] {s t u : State} (h : Blows l s t) (h' : Blows l s u) : Blows l s (if c then t else u) := by
  split
  · exact h
  · exact h'

theorem State.blow_blows {s t : State} (fs : List Nat) (h : Blows l s t) (hm : [.security] ⊆ l) : Blows l s (t.blow fs) := by
  obtain ⟨b1, b2, b3, b4, b5, hs, ho⟩ := h
  refine ⟨b1, b2, b3, b4, fun k hk => (mem_insertAll _ _ _).2 (.inr (b5 k hk)), hs, Only.trans ho (Only.intro fun p hp => ?_)⟩
  cases p <;> first | rfl | exact absurd (part_mem hm (by decide)) hp

theorem State.blow_mem (s : State) (l : List Nat) (k : Nat) : k ∈ (s.blow l).sec.fuses ↔ k ∈ l ∨ k ∈ s.sec.fuses := mem_insertAll _ _ _

theorem State.raiseVersion_blows {s t : State} (h : Blows l s t) (hm : [.stage, .security, .log] ⊆ l) : Blows l s t.raiseVersion := by
  unfold State.raiseVersion
  split
  · exact h
  · exact ((State.blow_blows _ h (List.Subset.trans (by decide) hm)).keep fun h => State.readFuses_keep h).keep fun h => State.event_keep _ _ _ _ _ h

theorem fuseRead_blows {s : State} (fs : List Nat) (h : Sound s) (hm : [.stage, .clock, .security, .boot] ⊆ l) :
    Blows l s (fuseRead fs s) := by
  unfold fuseRead
  split
  · exact Blows.refl h
  · extract_lets all _ t
    have ht : Blows l s t := by
      have h0 : Blows l s { s with sec := { s.sec with fuses := all } } :=
        by
        refine ⟨rfl, rfl, rfl, rfl, fun k hk => (mem_insertAll _ _ _).2 (.inr hk), h, Only.intro fun p hp => ?_⟩
        cases p <;> first | rfl | exact absurd (part_mem hm (by decide)) hp
      exact h0.keep fun h => State.readFuses_keep h
    clear_value t
    have hc : Blows l s { t with clk := { t.clk with trim := max (-250000) (min 250000 t.factoryTrim), src := 0 } } :=
      ht.keep fun h => h.clk _ (by show -250000 ≤ max (-250000) (min 250000 t.factoryTrim) ∧ max (-250000) (min 250000 t.factoryTrim) ≤ 250000; omega)
    exact hc.keep fun h => h.upd rfl rfl rfl rfl rfl id rfl rfl rfl

theorem ownerChainCheck_blows {s : State} (ok : Bool) (h : Sound s) (hm : [.stage, .queues, .security, .boot, .completions, .log] ⊆ l) :
    Blows l s (ownerChainCheck ok s) := by
  unfold ownerChainCheck
  split
  · exact Blows.refl h
  · extract_lets _ _ t
    have ht : Blows l s t := (Blows.refl h).keep fun h => h.upd rfl rfl rfl rfl rfl id rfl rfl rfl
    clear_value t
    have hi : ∀ (r : CfgRec) (c : Nat), Blows l s (t.chainIgnored r c) := fun r c => ht.keep fun h => State.chainIgnored_keep _ _ h
    split
    · exact ht
    · next r _ =>
      have h0 : Blows l s { t with sec := { t.sec with chain := r.value.drop 9824 } } := ht.keep fun h => h.upd rfl rfl rfl rfl rfl id rfl rfl rfl
      have h1 : ∀ (c : Bool) (fs : List Nat) (code cls src : Nat) (o : Obj) (d : Bytes) (t : State), Blows l s t →
          Blows l s (if c = true then ((t.blow fs).readFuses).event code cls src o d else t) := by
        intro c fs code cls src o d t ht
        exact Blows.ite (((State.blow_blows _ ht (List.Subset.trans (by decide) hm)).keep fun h => State.readFuses_keep h).keep fun h => State.event_keep _ _ _ _ _ h) ht
      have h2 := fun c fs d => h1 c fs 0x0015 0 0xC0 noObj d _ h0
      refine Blows.ite (hi _ _) (Blows.ite (hi _ _) (Blows.ite (Blows.keep ?_ fun h => State.setYoke_keep .disabled h) (h2 _ _ _)))
      exact (((State.blow_blows _ (h2 _ _ _) (List.Subset.trans (by decide) hm)).keep fun h => State.readFuses_keep h).keep fun h => State.event_keep _ _ _ _ _ h).keep
        fun h => h.upd rfl rfl rfl rfl rfl id rfl rfl rfl

theorem ready_blows {s : State} (h : Sound s) (hm : [.stage, .dram, .flash, .media, .queues, .sessions, .security, .boot, .completions, .log] ⊆ l) :
    Blows l s (ready s) := by
  unfold ready
  split
  · exact Blows.refl h
  · extract_lets t _ _ _ _ _ u
    have ht : Blows l s t := (Blows.refl h).keep fun h => h.foldl fun _ _ h => State.endTest_keep _ _ h
    clear_value t
    refine Blows.ite ht ?_
    have hu : Blows l s u := ht.keep fun h => h.upd rfl rfl rfl rfl rfl id rfl rfl rfl
    exact (State.raiseVersion_blows hu (List.Subset.trans (by decide) hm)).keep fun h => State.warn_keep h

/-! ### The configuration memory -/

theorem configBusTransfer_moves (write : Bool) (addr len : Nat) (data : Bytes) {s : State} (h : Sound s) :
    Sound (configBusTransfer write addr len data s) ∧ (configBusTransfer write addr len data s).sec = s.sec ∧
      (configBusTransfer write addr len data s).stg = s.stg ∧ (configBusTransfer write addr len data s).que = s.que ∧
      (configBusTransfer write addr len data s).pending = s.pending := by
  unfold configBusTransfer
  split
  · exact ⟨h, rfl, rfl, rfl, rfl⟩
  · split
    · obtain ⟨h1, h2, m1, m2, m3, m4, m5⟩ := h
      exact ⟨⟨h1, h2, m1, m2, m3, Tab.wf_putBytes _ _ _ _ m4, m5⟩, rfl, rfl, rfl, rfl⟩
    · exact ⟨h, rfl, rfl, rfl, rfl⟩

/-! ### Power -/

/-- What a power-down leaves of the anchor: the queue, the fuses and the configuration memory. -/
def Darkens (s t : State) : Prop := t.pending = s.pending ∧ t.sec.fuses = s.sec.fuses ∧ t.boot.cfg = s.boot.cfg ∧ Sound t

theorem State.powerDown_darkens {s : State} (h : Sound s) :
    Darkens s s.powerDown ∧ s.powerDown.stg.loaded = false ∧ s.powerDown.stg.stage = 0 ∧ s.powerDown.stg.exhausted = false ∧
      s.powerDown.que.posted = [] := by
  obtain ⟨-, -, -, -, -, m4, m5⟩ := h
  refine ⟨⟨rfl, rfl, rfl, ⟨by show 0 ≤ stageMax; omega, by show 0 ≤ 12299; omega⟩, ⟨by show (-250000 : Int) ≤ 0; omega, by show (0 : Int) ≤ 250000; omega⟩, rfl, rfl, rfl, m4, m5⟩,
    rfl, rfl, rfl, rfl⟩

theorem Darkens.of_keep {s t u : State} (h : Keep ⟨s.anchor, l, s⟩ t) (hd : Darkens t u) : Darkens s u := by
  obtain ⟨h1, -, -⟩ := h
  simp only [State.anchor, Prod.mk.injEq] at h1
  exact ⟨hd.1.trans h1.1, hd.2.1.trans h1.2.2.2.1, hd.2.2.1.trans h1.2.2.2.2, hd.2.2.2⟩

theorem Darkens.refl {s : State} (h : Sound s) : Darkens s s := ⟨rfl, rfl, rfl, h⟩

theorem powerOff_darkens {s : State} (h : Sound s) : Darkens s (powerOff s) := by
  unfold powerOff
  split
  · exact Darkens.refl h
  · exact (State.powerDown_darkens h).1

theorem State.softStart_darkens {s : State} (h : Sound s) : Darkens s s.softStart := by
  have hd := (State.powerDown_darkens h).1
  exact ⟨hd.1, hd.2.1, hd.2.2.1, hd.2.2.2⟩

theorem bringUpStart_darkens {s : State} (h : Sound s) : Darkens s (bringUpStart s) := by
  unfold bringUpStart
  split
  · exact State.softStart_darkens h
  · exact Darkens.refl h

theorem holdRelease_darkens {s : State} (h : Sound s) : Darkens s (holdRelease s) := by
  have hm : allParts ⊆ allParts := fun _ h => h
  unfold holdRelease
  split
  · exact Darkens.refl h
  · extract_lets _ t
    have hk : Keep ⟨s.anchor, allParts, s⟩ t := (Keep.self (l := allParts) h).upd rfl rfl rfl rfl rfl id rfl rfl rfl
    have hd : Darkens t (if t.pwr.rails then t else t.softStart) := by
      split
      · exact Darkens.refl hk.2.1
      · exact State.softStart_darkens hk.2.1
    exact hd.of_keep hk

/-! ### The stamp start and the boundary -/

theorem State.startValue_le {s : State} {v : Nat} (h : s.startValue = some v) : v ≤ stageMax := by
  unfold State.startValue at h
  extract_lets jump at h
  have hj : jump ≤ stageMax := Nat.min_le_left _ _
  clear_value jump
  split at h
  · cases h; exact hj
  · split at h
    · cases h
      split
      · exact Nat.min_le_left _ _
      · exact hj
    · split at h
      · cases h; exact hj
      · cases h

/-- The stamp start loads the counter with its value. -/
theorem stampStart_loads {s : State} {v : Nat} (h : Sound s) (h1 : s.starting = true) (h2 : s.boot.ph.replay = true) (h3 : s.stg.loaded = false)
    (hv : s.startValue = some v) (hm : [.stage, .flash, .media, .power, .queues, .faults, .security, .boot, .completions, .log] ⊆ l) :
    Keep ⟨(s.pending, (v, true, decide (exhaustAt ≤ v)), s.que.posted, s.sec.fuses, s.boot.cfg), l, s⟩ (stampStart s) := by
  unfold stampStart
  rw [if_neg (by simp [h1, h2, h3]), hv]
  have hk := State.moveStages_keep v (Keep.self (l := l) h)
  dsimp only
  generalize s.moveStages v = t at hk
  obtain ⟨ha, hs, ho⟩ := hk
  have hle := State.startValue_le hv
  refine State.warn_keep (State.enterHeld_keep (State.event_keep _ _ _ _ _ ?_))
  refine ⟨?_, ⟨⟨hle, Nat.zero_le _⟩, hs.2.1, hs.2.2⟩, Only.trans ho (Only.intro fun p hp => ?_)⟩
  · simp only [State.anchor, Prod.mk.injEq] at ha ⊢
    simp [ha]
  · cases p <;> first | rfl | exact absurd (part_mem hm (by decide)) hp

/-- The stamp start: nothing happens, or the counter is loaded with its value. -/
theorem stampStart_moves {s : State} (h : Sound s) (hm : [.stage, .flash, .media, .power, .queues, .faults, .security, .boot, .completions, .log] ⊆ l) :
    stampStart s = s ∨ ∃ v, s.startValue = some v ∧ s.stg.loaded = false ∧
      Keep ⟨(s.pending, (v, true, decide (exhaustAt ≤ v)), s.que.posted, s.sec.fuses, s.boot.cfg), l, s⟩ (stampStart s) := by
  by_cases hc : !s.starting || !s.boot.ph.replay || s.stg.loaded
  · exact .inl (by unfold stampStart; rw [if_pos hc])
  · simp only [Bool.or_eq_true, Bool.not_eq_true', not_or, Bool.not_eq_false, Bool.not_eq_true] at hc
    cases hv : s.startValue with
    | none => exact .inl (by unfold stampStart; simp [hc, hv])
    | some v => exact .inr ⟨v, rfl, hc.2, stampStart_loads h hc.1.1 hc.1.2 hc.2 hv hm⟩

/-- The anchor with another batch posted. -/
def KeepCtx.post (anc : KeepCtx) (p : List Completion) : KeepCtx := { anc with anchor := (anc.anchor.1, anc.anchor.2.1, p, anc.anchor.2.2.2) }

theorem State.postBatch_keep {s : State} (h : Keep anc s) (hm : [.media, .port, .queues, .sessions, .completions] ⊆ anc.touched) : Keep (anc.post s.que.done) s.postBatch := by
  obtain ⟨ha, hs, ho⟩ := h
  refine ⟨?_, hs, Only.trans ho (Only.intro fun p hp => ?_)⟩
  · show s.postBatch.anchor = (anc.anchor.1, anc.anchor.2.1, s.que.done, anc.anchor.2.2.2)
    rw [← ha]
    rfl
  · cases p <;> first | rfl | exact absurd (part_mem hm (by decide)) hp

theorem State.quiesceTick_keep {s : State} (h : Keep anc s) (hm : [.free, .dram, .media, .port, .queues, .sessions, .faults, .completions, .log] ⊆ anc.touched) :
    ∃ p, Keep (anc.post p) s.quiesceTick := by
  unfold State.quiesceTick
  split
  · refine ⟨s.que.posted, ?_⟩
    exact ⟨by show s.anchor = (anc.anchor.1, anc.anchor.2.1, s.que.posted, anc.anchor.2.2.2); rw [← h.1]; rfl, h.2⟩
  · have hp := State.postBatch_keep (State.endFaulted_keep h) (List.Subset.trans (by decide) hm)
    exact ⟨_, Keep.upd (anc := anc.post _) hp rfl rfl rfl rfl rfl id rfl rfl rfl⟩

theorem State.protect_seq (s : State) : s.protect.pwr.seq = s.pwr.seq := by
  have h : ∀ (l : List WaitWrite) (s : State), (l.foldl (fun s w => s.fail w.tag .writeProtected) s).pwr = s.pwr := by
    intro l
    induction l with
    | nil => intro s; rfl
    | cons w l ih => intro s; rw [List.foldl_cons, ih, State.fail_pwr]
  unfold State.protect
  rw [h]

theorem State.capTick_seq (s : State) : s.capTick.pwr.seq = s.pwr.seq := by
  unfold State.capTick
  generalize (if s.pwr.bank == .fault then 0 else dirtyCap s.pwr.cMeas s.pwr.vbank s.fla.channels.length s.capLow) = n
  dsimp only
  repeat' split
  all_goals first
    | rfl
    | exact State.protect_seq _

theorem State.powerTick_seq (smp : Samples) (s : State) : (s.powerTick smp).pwr.seq = s.pwr.seq := by
  unfold State.powerTick
  dsimp only
  split <;> rfl

theorem trimUpdate_pwr (wish lineErr : Int) (s : State) : (trimUpdate wish lineErr s).pwr = s.pwr := by
  unfold trimUpdate
  extract_lets _ _ _ _ d g t held
  generalize (held || t == s.clk.trim || _) = b
  cases b <;> rfl

theorem State.yokeTick_pwr (s : State) : s.yokeTick.pwr = s.pwr := by
  have h : ∀ (l : List Yoke) (t : State), (l.foldl State.changeYoke t).pwr = t.pwr := by
    intro l
    induction l with
    | nil => intro t; rfl
    | cons y l ih => intro t; rw [List.foldl_cons, ih, State.changeYoke_pwr]
  exact h _ _

theorem State.freeDies_pwr {s : State} (h : Sound s) : s.freeDies.pwr = s.pwr :=
  (State.freeDies_keep (Keep.self (l := [.flash, .log]) h) (show _ ⊆ [Part.flash, Part.log] by decide)).2.2 .power (show Part.power ∉ [Part.flash, Part.log] by decide)

theorem State.clockTick_keep (smp : Samples) {s : State} (h : Keep anc s)
    (hm : [.stage, .clock, .flash, .media, .power, .port, .queues, .sessions, .completions, .faults, .log] ⊆ anc.touched) :
    Keep (anc.post s.que.done) (s.clockTick smp) :=
  State.freeDies_keep (State.capTick_keep (State.powerTick_keep _ (trimUpdate_keep _ _ (State.yokeTick_keep
    (State.postBatch_keep h (List.Subset.trans (by decide) hm))))))

theorem State.clockTick_seq (smp : Samples) {s : State} (h : Sound s) : (s.clockTick smp).pwr.seq = s.pwr.seq := by
  have hm : allParts ⊆ allParts := fun _ h => h
  have hc := (State.capTick_keep (State.powerTick_keep smp (trimUpdate_keep smp.trimWish smp.lineErr (State.yokeTick_keep
    (State.postBatch_keep (Keep.self (l := allParts) h) (show _ ⊆ allParts by decide)))))).2.1
  unfold State.clockTick
  rw [State.freeDies_pwr hc, State.capTick_seq, State.powerTick_seq, trimUpdate_pwr, State.yokeTick_pwr]
  rfl

/-- Of what counts, a boundary's first work moves the batch posted. -/
theorem State.boundaryTick_keep (smp : Samples) {s : State} (h : Keep anc s)
    (hm : [.free, .stage, .clock, .flash, .media, .power, .port, .queues, .sessions, .completions, .faults, .log] ⊆ anc.touched) :
    Keep (anc.post s.que.done) (s.boundaryTick smp) := by
  have hc := State.clockTick_keep smp h (List.Subset.trans (by decide) hm)
  unfold State.boundaryTick
  generalize s.clockTick smp = t at hc
  have hm : [.free, .flash, .media, .faults, .completions, .log] ⊆ (anc.post s.que.done).touched := List.Subset.trans (by decide) hm
  exact Keep.ite (State.plainTick_keep (State.recovTick_keep (State.drainSeats_keep hc))) hc

/-- Reads and recoveries leave the power as it stands. -/
theorem State.readTick_pwr {s : State} (h : Sound s) : s.drainSeats.recovTick.plainTick.pwr = s.pwr := by
  have hl : ∀ m : List Part, m ⊆ [.free, .flash, .media, .faults, .completions, .log] →
      m ⊆ (⟨s.anchor, [.free, .flash, .media, .faults, .completions, .log], s⟩ : KeepCtx).touched := fun _ h => h
  exact (State.plainTick_keep (State.recovTick_keep (State.drainSeats_keep (Keep.self h) (hl _ (by decide))) (hl _ (by decide))) (hl _ (by decide))).2.2
    .power (show Part.power ∉ [.free, .flash, .media, .faults, .completions, .log] by decide)

/-- It leaves the power sequence as it stands. -/
theorem State.boundaryTick_seq (smp : Samples) {s : State} (h : Sound s) : (s.boundaryTick smp).pwr.seq = s.pwr.seq := by
  have hc : Sound (s.clockTick smp) := (State.clockTick_keep smp (Keep.self (l := allParts) h) (show _ ⊆ allParts by decide)).2.1
  have hs := State.clockTick_seq smp h
  unfold State.boundaryTick
  generalize s.clockTick smp = t at hc hs
  dsimp only
  split
  · exact (congrArg Pwr.seq (State.readTick_pwr hc)).trans hs
  · exact hs

/-- What the counter reads after the boundary that ends the present stage (R27, R44). -/
def nextStage (s : State) : Nat × Bool × Bool :=
  (min stageMax (s.stg.stage + 1), s.stg.loaded, s.stg.exhausted || (s.stg.loaded && decide (exhaustAt ≤ min stageMax (s.stg.stage + 1))))

/-- A boundary with the rails up: the counter counts, a batch is posted, the rest stands. -/
theorem stageBoundary_moves (smp : Samples) {s : State} (h : Sound s) (hp : (s.pwr.standby && s.pwr.rails) = true)
    (hm : [.free, .stage, .clock, .coaches, .fabric, .dram, .flash, .media, .power, .port, .queues, .namespaces, .sessions, .answers, .faults, .completions, .log] ⊆ l) :
    ∃ p, Keep ⟨(s.pending, nextStage s, p, s.sec.fuses, s.boot.cfg), l, s⟩ (stageBoundary smp s) ∧ (s.pwr.seq = .none → p = s.que.done) := by
  unfold stageBoundary
  rw [if_neg (by simp [hp])]
  extract_lets ran moved t u v w
  have ht : Keep ⟨(s.pending, nextStage s, s.que.posted, s.sec.fuses, s.boot.cfg), l, s⟩ t := by
    refine ⟨rfl, ⟨⟨Nat.min_le_left _ _, ?_⟩, h.2.1, h.2.2⟩, Only.intro fun p hp => ?_⟩
    rotate_left
    · cases p <;> first | rfl | exact absurd (part_mem hm (by decide)) hp
    show (if s.stg.stage = stageMax then 12299 else 0) ≤ 12299
    split <;> omega
  have hq : t.que.done = s.que.done := rfl
  have hx : t.pwr = s.pwr := rfl
  clear_value t
  have hu : Keep ⟨(s.pending, nextStage s, s.que.done, s.sec.fuses, s.boot.cfg), l, s⟩ u :=
    hq ▸ State.boundaryTick_keep smp ht (List.Subset.trans (by decide) hm)
  split
  · next hs =>
    obtain ⟨p, hp⟩ := State.quiesceTick_keep hu (List.Subset.trans (by decide) hm)
    refine ⟨p, State.nextCycle_keep (State.warn_keep (flushMore_keep hp)), fun h0 => ?_⟩
    exact absurd hs (by
      have h1 : u.pwr.seq = s.pwr.seq := by
        rw [← hx]
        exact State.boundaryTick_seq smp ht.2.1
      simp [h1, h0])
  · have hw : Keep ⟨(s.pending, nextStage s, s.que.done, s.sec.fuses, s.boot.cfg), l, s⟩ w :=
      State.markTick_keep (State.startWindows_keep (State.endFaulted_keep (State.emitDeadline_keep (State.limpTick_keep (State.lockTick_keep
        (State.patrolTick_keep (State.verifyTick_keep (State.formatTick_keep (State.scanTick_keep (State.mergeTick_keep
          (State.partitionsTick_keep _ (State.restTick_keep hu))))))))))))
    exact ⟨_, State.nextCycle_keep (State.warn_keep (State.checkFull_keep (placeStage_keep (Keep.ite (State.release_keep hw) hw)))), fun _ => rfl⟩

/-- A boundary without power is none. -/
theorem stageBoundary_dark (smp : Samples) {s : State} (hp : (s.pwr.standby && s.pwr.rails) = false) : stageBoundary smp s = s := by
  unfold stageBoundary
  rw [if_pos (by simp [hp])]

theorem State.jumpBy_keep {s : State} (n : Nat) (h : Sound s) (hm : [.stage, .coaches, .flash, .media, .power, .sessions, .faults, .security] ⊆ l) :
    Keep ⟨(s.pending, (s.stg.stage + min n (stageMax - s.stg.stage), s.stg.loaded, s.stg.exhausted), s.que.posted, s.sec.fuses, s.boot.cfg), l, s⟩
      (s.jumpBy n) := by
  have hk := State.moveStages_keep (s.stg.stage + min n (stageMax - s.stg.stage)) (Keep.self (l := l) h)
  unfold State.jumpBy
  extract_lets m q t
  change Keep _ t at hk
  clear_value t
  obtain ⟨ha, ht, ho⟩ := hk
  simp only [State.anchor, Prod.mk.injEq] at ha
  refine ⟨by simp only [State.anchor, ha, m, Prod.mk.injEq, true_and]; exact ⟨⟨ha.2.1.2.1, ha.2.1.2.2⟩, trivial⟩, ⟨⟨?_, ht.1.2⟩, ht.2.1, ht.2.2⟩,
    Only.trans ho (Only.intro fun p hp => ?_)⟩
  rotate_left
  · cases p <;> first | rfl | exact absurd (part_mem hm (by decide)) hp
  show t.stg.stage + m ≤ stageMax
  have := h.1.1
  simp only [m, ha]
  omega

/-- A forward jump moves the counter by the jump and by the boundary at which it is taken (R36). -/
theorem yokeForwardJump_jumps (smp : Samples) {s : State} {n : Nat} (h : Sound s) (hn : s.stg.jump = some n) (hp : s.powered = true)
    (hl : s.stg.loaded = true) (hy : s.stg.yokeNext = [])
    (hm : [.free, .stage, .clock, .coaches, .fabric, .dram, .flash, .media, .power, .port, .queues, .namespaces, .sessions, .answers, .faults, .security, .completions, .log] ⊆ l) :
    Sound (yokeForwardJump smp s) ∧ Only l s (yokeForwardJump smp s) ∧ (yokeForwardJump smp s).pending = s.pending ∧
      (yokeForwardJump smp s).sec.fuses = s.sec.fuses ∧ (yokeForwardJump smp s).boot.cfg = s.boot.cfg ∧
      (yokeForwardJump smp s).stg.stage = min stageMax (s.stg.stage + n + 1) ∧ (yokeForwardJump smp s).stg.loaded = s.stg.loaded := by
  unfold yokeForwardJump
  rw [hn]
  dsimp only
  rw [if_neg (by simp [hp, hl, hy])]
  have hj := State.jumpBy_keep n h (List.Subset.trans (by decide) hm)
  have hq : ((s.jumpBy n).pwr.standby && (s.jumpBy n).pwr.rails) = true := by
    show (s.pwr.standby && s.pwr.rails) = true
    simp only [State.powered] at hp
    simp at hp ⊢
    tauto
  obtain ⟨p, hb, -⟩ := stageBoundary_moves smp hj.2.1 hq (List.Subset.trans (by decide) hm)
  generalize stageBoundary smp (s.jumpBy n) = u at hb
  have hu : Keep _ { u with stg := { u.stg with staleOff := true } } := hb.upd rfl rfl rfl rfl rfl id rfl rfl rfl
  obtain ⟨ha, hs, ho⟩ := State.changeYoke_keep .yoked hu
  obtain ⟨ja, -, jo⟩ := hj
  simp only [State.anchor, Prod.mk.injEq, nextStage] at ha ja
  refine ⟨hs, Only.trans jo ho, ha.1.trans ja.1, ha.2.2.2.1.trans ja.2.2.2.1, ha.2.2.2.2.trans ja.2.2.2.2, ?_, ha.2.1.2.1.trans ja.2.1.2.1⟩
  have := h.1.1
  rw [ha.2.1.1, ja.2.1.1]
  omega

/-- A forward jump: nothing happens, or the counter moves. -/
theorem yokeForwardJump_moves (smp : Samples) {s : State} (h : Sound s)
    (hm : [.free, .stage, .clock, .coaches, .fabric, .dram, .flash, .media, .power, .port, .queues, .namespaces, .sessions, .answers, .faults, .security, .completions, .log] ⊆ l) :
    yokeForwardJump smp s = s ∨ ∃ n, s.stg.jump = some n ∧
      Sound (yokeForwardJump smp s) ∧ Only l s (yokeForwardJump smp s) ∧ (yokeForwardJump smp s).pending = s.pending ∧
      (yokeForwardJump smp s).sec.fuses = s.sec.fuses ∧ (yokeForwardJump smp s).boot.cfg = s.boot.cfg ∧
      (yokeForwardJump smp s).stg.stage = min stageMax (s.stg.stage + n + 1) ∧ (yokeForwardJump smp s).stg.loaded = s.stg.loaded := by
  cases hn : s.stg.jump with
  | none => exact .inl (by unfold yokeForwardJump; rw [hn])
  | some n =>
    by_cases hc : !s.powered || !s.stg.loaded || s.stg.yokeNext != []
    · exact .inl (by unfold yokeForwardJump; rw [hn]; dsimp only; rw [if_pos hc])
    · simp only [Bool.or_eq_true, Bool.not_eq_true', not_or, Bool.not_eq_false, bne_iff_ne, ne_eq, not_not] at hc
      exact .inr ⟨n, rfl, yokeForwardJump_jumps smp h hn hc.1.1 hc.1.2 hc.2 hm⟩

/-! ### What every step keeps -/

/-- A property that follows from Keep for every operation of Laws/Keep*.lean. -/
theorem Keep.sound {s t : State} (h : Sound s) (hk : Keep ⟨s.anchor, l, s⟩ s → Keep ⟨s.anchor, l, s⟩ t) : Sound t := (hk (Keep.self h)).2.1

end Sys2Proof.Machine
end

