-- ==== Sys2Proof/WellFormed.lean ====
section
/-! DEFINITION. Well-formed commands: every operand within the range of the field that carries it. The meanings are total and do not rest
on it; a command outside it is one that no sender can form. -/

namespace Sys2Proof

/-- A number within a field. -/
def below (n x : Nat) : Bool := decide (x < n)

/-- 16-bit controller and command identifiers (R392). -/
def Tag.wf (t : Tag) : Bool := below 65536 t.ctrl && below 65536 t.cid

/-- VBANK is 10 bits wide (R429); eight sensors (R438). -/
def Samples.wf (x : Samples) : Bool := below 1024 x.vbank && x.temps.length == 8

/-- The fields of a physical address (R303). -/
def CwAddr.wf (a : CwAddr) : Bool := below 1024 a.die && below 4 a.plane && below 4096 a.block && below 512 a.page && below 4 a.cw

/-- Addresses of a coach's 2 MiB (R68). -/
def sramAddr (a : Nat) : Bool := below (2 ^ 21) a

def TileLoad.wf (l : TileLoad) : Bool :=
  sramAddr l.base && sramAddr l.scaleBase && [Fmt.int4, .int8, .e2m1, .e4m3, .e5m2, .bf16, .fp16].contains l.fmt
def MatInstr.wf (i : MatInstr) : Bool := (i.xFmt == .bf16 || i.xFmt == .fp16) && sramAddr i.xBase && sramAddr i.yBase && i.tiles.all TileLoad.wf
def VecInstr.wf (i : VecInstr) : Bool := sramAddr i.a && sramAddr i.b && sramAddr i.c && sramAddr i.dst

/-- Domain numbers and sequence numbers of PTP messages (R388). -/
def PtpSync.wf (m : PtpSync) : Bool := below 256 m.domain && below 65536 m.seq
def PtpAnnounce.wf (a : PtpAnnounce) : Bool := below 256 a.domain && below 65536 a.steps

/-- The waybill's fields (R84). -/
def CarriageReq.wf (r : CarriageReq) : Bool :=
  below 512 r.dst && below 256 r.role && below 16 r.kind && below (2 ^ 48) r.address && below (2 ^ 32) r.tag && below 16 r.relayCount && below 4 r.relayDir &&
    below 257 r.payload.length

/-- A carriage: a waybill of 32 bytes and a payload of at most 256 (R84). -/
def carriageWf (c : Bytes) : Bool := decide (32 ≤ c.length) && below 289 c.length

def ConnectArgs.wf (a : ConnectArgs) : Bool := below 65536 a.qid && below 65537 a.qsize && below 65536 a.ctrlId && below (2 ^ 32) a.kato

/-- Kind and index of an object word (R482). -/
def Obj.wf (o : Obj) : Bool := below 256 o.kind && below (2 ^ 24) o.index

/-- A command whose operands lie within their fields. -/
def Instr.wf : Instr → Bool
  | .stageBoundary smp => smp.wf
  | .dieSenseComplete die dirty erased => below 1024 die && dirty.all (below 16) && erased.all (below 16)
  | .dieProgramComplete die failed => below 1024 die && failed.all (below 16)
  | .dieEraseComplete die failed => below 1024 die && failed.all (below 16)
  | .dirtyRecoveryStep hub _ => below 16 hub
  | .syncMessage m _ => m.wf
  | .followUpMessage m => m.wf
  | .announceMessage a => a.wf
  | .delayRespMessage domain master seq _ _ => below 256 domain && below (2 ^ 64) master && below (2 ^ 16) seq
  | .yokeForwardJump smp => smp.wf
  | .domainSwitch _ _ => true
  | .pllRelockTryEnd _ => true
  | .matrixInstruction coach _ i _ => below 256 coach && i.wf
  | .stationarySwap coach _ => below 256 coach
  | .transposedLoad coach _ l => below 256 coach && l.wf
  | .vectorInstruction coach i => below 256 coach && i.wf
  | .crossLaneSum coach src dst => below 256 coach && below (2 ^ 21) src && below (2 ^ 21) dst
  | .sequencerIssue coach pc _ => below 256 coach && below (2 ^ 64) pc
  | .contextWake coach ctx => below 256 coach && below 64 ctx
  | .contextFree coach ctx => below 256 coach && below 64 ctx
  | .contextRestart coach ctx => below 256 coach && below 64 ctx
  | .carriageSend src r => below 287 src && r.wf
  | .carriageWrite st c => below 287 st && carriageWf c
  | .carriageRead st c => below 287 st && carriageWf c
  | .carriageReply st c => below 287 st && carriageWf c
  | .carriageWriteAck st c => below 287 st && carriageWf c
  | .carriageSeat st c => below 287 st && carriageWf c
  | .carriageFill st c => below 287 st && carriageWf c
  | .carriageAnswer st c => below 287 st && carriageWf c
  | .carriageControl st c => below 287 st && carriageWf c
  | .carriageSave st c => below 287 st && carriageWf c
  | .carriageError st c => below 287 st && carriageWf c
  | .dramScrub pkg => below 12 pkg
  | .fabDropFold st => below 287 st
  | .drmEccFold pkg => below 12 pkg
  | .roleWrite team _ partition => below 16 team && below 16 partition
  | .flaPgmodeService hub key => below 16 hub && below 256 key
  | .flaPgmodeRecovery hub key => below 16 hub && below 256 key
  | .flaPgmodeTest hub key => below 16 hub && below 256 key
  | .recoveryRawProgram a _ => a.wf
  | .drmTestWritePath pkg key path => below 12 pkg && below 256 key && below 4 path
  | .drmTestRawRead pkg key _ => below 12 pkg && below 256 key
  | .registerWrite _ unit _ => below 287 unit
  | .routeLoad tag sess handle _ offset _ => tag.wf && below 128 sess && below 32 handle && below (2 ^ 64) offset
  | .routeLoadExtent tag sess handle nsid lba blocks => tag.wf && below 128 sess && below 32 handle && below (2 ^ 32) nsid && below (2 ^ 64) lba && below (2 ^ 32) blocks
  | .run tag sess handle _ => tag.wf && below 128 sess && below 32 handle
  | .bind _ => true
  | .bindComplete _ _ => true
  | .bindWaitExpiry _ => true
  | .passStart sess => below 128 sess
  | .runComplete sess => below 128 sess
  | .opMatmul sess op => below 128 sess && below (2 ^ 32) op
  | .opBmatmul sess op => below 128 sess && below (2 ^ 32) op
  | .opAdd sess op => below 128 sess && below (2 ^ 32) op
  | .opSub sess op => below 128 sess && below (2 ^ 32) op
  | .opMul sess op => below 128 sess && below (2 ^ 32) op
  | .opDiv sess op => below 128 sess && below (2 ^ 32) op
  | .opFma sess op => below 128 sess && below (2 ^ 32) op
  | .opMax sess op => below 128 sess && below (2 ^ 32) op
  | .opMin sess op => below 128 sess && below (2 ^ 32) op
  | .opCmp sess op => below 128 sess && below (2 ^ 32) op
  | .opSelect sess op => below 128 sess && below (2 ^ 32) op
  | .opUnary sess op => below 128 sess && below (2 ^ 32) op
  | .opGated sess op => below 128 sess && below (2 ^ 32) op
  | .opReduce sess op => below 128 sess && below (2 ^ 32) op
  | .opSoftmax sess op => below 128 sess && below (2 ^ 32) op
  | .opLayernorm sess op => below 128 sess && below (2 ^ 32) op
  | .opRmsnorm sess op => below 128 sess && below (2 ^ 32) op
  | .opAttention sess op => below 128 sess && below (2 ^ 32) op
  | .opRope sess op => below 128 sess && below (2 ^ 32) op
  | .opRotate sess op => below 128 sess && below (2 ^ 32) op
  | .opQuant sess op => below 128 sess && below (2 ^ 32) op
  | .opDequant sess op => below 128 sess && below (2 ^ 32) op
  | .opConvert sess op => below 128 sess && below (2 ^ 32) op
  | .opDist sess op => below 128 sess && below (2 ^ 32) op
  | .opCodeDist sess op => below 128 sess && below (2 ^ 32) op
  | .opTopk sess op => below 128 sess && below (2 ^ 32) op
  | .opGather sess op => below 128 sess && below (2 ^ 32) op
  | .opPut sess op => below 128 sess && below (2 ^ 32) op
  | .opFilter sess op => below 128 sess && below (2 ^ 32) op
  | .opScanRead sess op => below 128 sess && below (2 ^ 32) op
  | .opNsRead sess op => below 128 sess && below (2 ^ 32) op
  | .opNsWrite sess op => below 128 sess && below (2 ^ 32) op
  | .opEmit sess op => below 128 sess && below (2 ^ 32) op
  | .opAccum sess op => below 128 sess && below (2 ^ 32) op
  | .stagedWriteEnterBuffer sess => below 128 sess
  | .timetableResume sess => below 128 sess
  | .emitResume sess => below 128 sess
  | .waitLapse coach ctx _ => below 256 coach && below 64 ctx
  | .openReadLapse die _ => below 1024 die
  | .scanReread _ _ _ => true
  | .unitLeavesService o => o.wf
  | .sessionOpen tag major _ => tag.wf && below 256 major
  | .sessionOpenReclaim tag major sess key => tag.wf && below 256 major && below 128 sess && below (2 ^ 64) key
  | .granuleZeroingComplete sess => below 128 sess
  | .sessionCloseDrain tag sess => tag.wf && below 128 sess
  | .sessionCloseAbort tag sess => tag.wf && below 128 sess
  | .sessionFree sess => below 128 sess
  | .quotaSet tag sess _ => tag.wf && below 128 sess
  | .quotaSetTeamsReplace sess => below 128 sess
  | .sliceEnd part => below 16 part
  | .switchDeferLimit part => below 16 part
  | .partitionSwitch part => below 16 part
  | .switchRestoreComplete part => below 16 part
  | .reclaimWindowExpiry sess => below 128 sess
  | .query tag sess _ => tag.wf && below 128 sess
  | .queryAdmit _ => true
  | .peerAnswerFetch _ member _ => below (2 ^ 16) member
  | .peerWaitExpiry _ => true
  | .answerRecordComplete _ => true
  | .indexBuild tag sess nsid _ => tag.wf && below 128 sess && below (2 ^ 32) nsid
  | .buildEnd nsid _ => below (2 ^ 32) nsid
  | .indexSwitch tag sess nsid => tag.wf && below 128 sess && below (2 ^ 32) nsid
  | .generationSwitch nsid => below (2 ^ 32) nsid
  | .generationFree nsid gen => below (2 ^ 32) nsid && below (2 ^ 16) gen
  | .codeLayerReload nsid gen => below (2 ^ 32) nsid && below (2 ^ 16) gen
  | .peerSet tag _ _ => tag.wf
  | .scan tag sess _ => tag.wf && below 128 sess
  | .scanComplete _ => true
  | .fetch tag sess cls _ _ queryId after len => tag.wf && below 128 sess && below 4 cls && below (2 ^ 64) queryId && below (2 ^ 64) after && below (2 ^ 32) len
  | .write tag nsid slba nlb prinfo _ _ => tag.wf && below (2 ^ 32) nsid && below (2 ^ 64) slba && below (2 ^ 16) nlb && below 16 prinfo
  | .writeLocate tag nsid slba nlb prinfo _ _ => tag.wf && below (2 ^ 32) nsid && below (2 ^ 64) slba && below (2 ^ 16) nlb && below 16 prinfo
  | .read tag nsid slba nlb prinfo => tag.wf && below (2 ^ 32) nsid && below (2 ^ 64) slba && below (2 ^ 16) nlb && below 16 prinfo
  | .readLocator tag nsid slba nlb prinfo bufLen loc _ => tag.wf && below (2 ^ 32) nsid && below (2 ^ 64) slba && below (2 ^ 16) nlb && below 16 prinfo && below (2 ^ 32) bufLen && loc.length == 16
  | .flush tag nsid => tag.wf && below (2 ^ 32) nsid
  | .writeZeroes tag nsid slba nlb prinfo => tag.wf && below (2 ^ 32) nsid && below (2 ^ 64) slba && below (2 ^ 16) nlb && below 16 prinfo
  | .datasetManagement tag nsid _ nr _ => tag.wf && below (2 ^ 32) nsid && below 256 nr
  | .leafLoadComplete ns leaf _ => below 256 ns && below (2 ^ 32) leaf
  | .gcCopy ns unit => below 256 ns && below (2 ^ 40) unit
  | .gcVerify ns unit _ => below 256 ns && below (2 ^ 40) unit
  | .superblockErase sb => below (2 ^ 16) sb
  | .superblockCloseVerify sb _ _ => below (2 ^ 16) sb
  | .patrolVerify pb _ _ => below (2 ^ 24) pb
  | .journalMark _ => true
  | .mapRebuild _ => true
  | .linkTrain _ => true
  | .pluggableInsert _ => true
  | .arpRequest _ _ => true
  | .neighbourDiscovery _ _ => true
  | .icmpEcho _ _ _ _ => true
  | .frameDrop _ => true
  | .icreq _ port _ _ => below (2 ^ 16) port
  | .tcpPduReceive _ _ _ => true
  | .rdmaConnectRequest _ port => below (2 ^ 16) port
  | .cnpReceived _ => true
  | .connect tag _ a => tag.wf && a.wf
  | .propertyGet tag offset => tag.wf && below (2 ^ 64) offset
  | .ccEnableClear tag => tag.wf
  | .ccShutdownNotification tag _ => tag.wf
  | .disconnect tag => tag.wf
  | .controllerEnd ctrl => below (2 ^ 16) ctrl
  | .keepAlive tag => tag.wf
  | .keepAliveExpiry ctrl => below (2 ^ 16) ctrl
  | .identify tag cns nsid => tag.wf && below 256 cns && below (2 ^ 32) nsid
  | .getLogPage tag lid nsid offset len _ => tag.wf && below 256 lid && below (2 ^ 32) nsid && below (2 ^ 64) offset && below (2 ^ 32) len
  | .getLogPageEventLog tag offset len _ => tag.wf && below (2 ^ 64) offset && below (2 ^ 32) len
  | .getLogPageHealth tag offset len _ => tag.wf && below (2 ^ 64) offset && below (2 ^ 32) len
  | .getLogPageFuses tag offset len _ => tag.wf && below (2 ^ 64) offset && below (2 ^ 32) len
  | .getLogPageTopology tag offset len _ => tag.wf && below (2 ^ 64) offset && below (2 ^ 32) len
  | .getLogPageTimetable tag lsp lsi offset len _ => tag.wf && below 128 lsp && below (2 ^ 16) lsi && below (2 ^ 64) offset && below (2 ^ 32) len
  | .getFeatures tag fid sel => tag.wf && below 256 fid && below 8 sel
  | .setFeatures tag fid _ dw11 => tag.wf && below 256 fid && below (2 ^ 32) dw11
  | .setFeaturesYoke tag _ _ => tag.wf
  | .setFeaturesTimeSlice tag _ _ => tag.wf
  | .setFeaturesDirtyCap tag _ _ => tag.wf
  | .setFeaturesDeadlinePolicy tag _ _ => tag.wf
  | .setFeaturesReclaimWindow tag _ _ => tag.wf
  | .asyncEventRequest tag => tag.wf
  | .abort tag cid => tag.wf && below (2 ^ 16) cid
  | .invalidOpcode tag _ opcode => tag.wf && below 256 opcode
  | .namespaceCreate tag flbas nsze ncap _ => tag.wf && below 256 flbas && below (2 ^ 64) nsze && below (2 ^ 64) ncap
  | .namespaceDelete tag nsid => tag.wf && below (2 ^ 32) nsid
  | .namespaceDeleteEffect nsid => below (2 ^ 32) nsid
  | .namespaceDeleteComplete nsid => below (2 ^ 32) nsid
  | .formatNvm tag nsid lbaf ses pi pil => tag.wf && below (2 ^ 32) nsid && below 64 lbaf && below 8 ses && below 8 pi && below 2 pil
  | .formatEffect nsid => below (2 ^ 32) nsid
  | .formatNvmFull tag => tag.wf
  | .securitySetPassword tag _ => tag.wf
  | .securityLock tag _ => tag.wf
  | .securityUnlock tag _ => tag.wf
  | .securityReceiveLockState tag nsid alloc => tag.wf && below (2 ^ 32) nsid && below (2 ^ 32) alloc
  | .securityReceiveSessionKey tag sess alloc => tag.wf && below 128 sess && below (2 ^ 32) alloc
  | .spdmGetVersion tag => tag.wf
  | .spdmGetCapabilities tag => tag.wf
  | .spdmNegotiateAlgorithms tag => tag.wf
  | .spdmGetDigests tag => tag.wf
  | .spdmGetCertificate tag slot offset _ => tag.wf && below 256 slot && below (2 ^ 64) offset
  | .spdmChallenge tag slot _ => tag.wf && below 256 slot
  | .spdmGetMeasurements tag index _ => tag.wf && below 256 index
  | .fuseRead fuses => fuses.all (below 8192)
  | .dramTraining _ => true
  | .firmwareImageVerify _ => true
  | .ownerChainCheck _ => true
  | .flashChannelTraining _ => true
  | .dieIdentification _ => true
  | .portLaneTest _ => true
  | .coachSelfTest _ _ _ _ => true
  | .bankMeasureComplete cMeas => below 1024 cMeas
  | .railFault _ => true
  | .mailboxMessage _ _ _ => true
  | .componentRestart comp cause => below 8 comp && below 256 cause
  | .componentRestartComplete comp _ => below 8 comp
  | .mainWatchdogExpiry coreNo => below 18 coreNo
  | .fallbackWatchdogExpiry coreNo => below 18 coreNo
  | .errorRaise _ o => o.wf
  | .errorHandle _ => true
  | .unitRetest _ => true
  | .peerConnectionLoss sess member => below 128 sess && below (2 ^ 32) member.1 && below (2 ^ 16) member.2
  | .rdmaAckTimeout _ => true
  | .ecnMarkedPacket _ => true
  | .pfcPauseFrame priority _ => below 8 priority
  | .ccEnableSet tag => tag.wf
  | .configBusTransfer _ addr _ _ => below (2 ^ 26) addr
  | .delayReqSend => true
  | .yokeHoldoverTimeout => true
  | .yokeSyncLossTimeout => true
  | .servoLockTimeout => true
  | .ptpFirstWaitExpiry => true
  | .stampStart => true
  | .rootPllLock => true
  | .rootPllLoss => true
  | .writeCapRelease => true
  | .linkWidthTimeout => true
  | .linkLoss => true
  | .pluggableRemove => true
  | .peerKeepAliveSend => true
  | .bringUpStart => true
  | .configRecordRead => true
  | .dramFill => true
  | .topologyCheck => true
  | .mainFirmwareStart => true
  | .mediaScan => true
  | .mediaWork => true
  | .ready => true
  | .bankMeasure => true
  | .bankChargeTimeout => true
  | .powerLoss => true
  | .overvoltage => true
  | .flushSequenceStart => true
  | .powerOff => true
  | .seatedOpen => true
  | .bankBleedSwitch => true
  | .thermalShutdown => true
  | .holdAssert => true
  | .holdRelease => true
  | .fatalAction => true
  | .drbgReseed => true
  | .standbyRailOff => true
  | .bankChargeComplete => true
  | .holdupEnergyExhausted => true

/-- The controller and identifier of a host's command; none for the other events. -/
def Instr.tag? : Instr → Option Tag
  | .stageBoundary _ => none
  | .dieSenseComplete _ _ _ => none
  | .dieProgramComplete _ _ => none
  | .dieEraseComplete _ _ => none
  | .dirtyRecoveryStep _ _ => none
  | .syncMessage _ _ => none
  | .followUpMessage _ => none
  | .announceMessage _ => none
  | .delayRespMessage _ _ _ _ _ => none
  | .yokeForwardJump _ => none
  | .domainSwitch _ _ => none
  | .pllRelockTryEnd _ => none
  | .matrixInstruction _ _ _ _ => none
  | .stationarySwap _ _ => none
  | .transposedLoad _ _ _ => none
  | .vectorInstruction _ _ => none
  | .crossLaneSum _ _ _ => none
  | .sequencerIssue _ _ _ => none
  | .contextWake _ _ => none
  | .contextFree _ _ => none
  | .contextRestart _ _ => none
  | .carriageSend _ _ => none
  | .carriageWrite _ _ => none
  | .carriageRead _ _ => none
  | .carriageReply _ _ => none
  | .carriageWriteAck _ _ => none
  | .carriageSeat _ _ => none
  | .carriageFill _ _ => none
  | .carriageAnswer _ _ => none
  | .carriageControl _ _ => none
  | .carriageSave _ _ => none
  | .carriageError _ _ => none
  | .dramScrub _ => none
  | .fabDropFold _ => none
  | .drmEccFold _ => none
  | .roleWrite _ _ _ => none
  | .flaPgmodeService _ _ => none
  | .flaPgmodeRecovery _ _ => none
  | .flaPgmodeTest _ _ => none
  | .recoveryRawProgram _ _ => none
  | .drmTestWritePath _ _ _ => none
  | .drmTestRawRead _ _ _ => none
  | .registerWrite _ _ _ => none
  | .routeLoad tag _ _ _ _ _ => some tag
  | .routeLoadExtent tag _ _ _ _ _ => some tag
  | .run tag _ _ _ => some tag
  | .bind _ => none
  | .bindComplete _ _ => none
  | .bindWaitExpiry _ => none
  | .passStart _ => none
  | .runComplete _ => none
  | .opMatmul _ _ => none
  | .opBmatmul _ _ => none
  | .opAdd _ _ => none
  | .opSub _ _ => none
  | .opMul _ _ => none
  | .opDiv _ _ => none
  | .opFma _ _ => none
  | .opMax _ _ => none
  | .opMin _ _ => none
  | .opCmp _ _ => none
  | .opSelect _ _ => none
  | .opUnary _ _ => none
  | .opGated _ _ => none
  | .opReduce _ _ => none
  | .opSoftmax _ _ => none
  | .opLayernorm _ _ => none
  | .opRmsnorm _ _ => none
  | .opAttention _ _ => none
  | .opRope _ _ => none
  | .opRotate _ _ => none
  | .opQuant _ _ => none
  | .opDequant _ _ => none
  | .opConvert _ _ => none
  | .opDist _ _ => none
  | .opCodeDist _ _ => none
  | .opTopk _ _ => none
  | .opGather _ _ => none
  | .opPut _ _ => none
  | .opFilter _ _ => none
  | .opScanRead _ _ => none
  | .opNsRead _ _ => none
  | .opNsWrite _ _ => none
  | .opEmit _ _ => none
  | .opAccum _ _ => none
  | .stagedWriteEnterBuffer _ => none
  | .timetableResume _ => none
  | .emitResume _ => none
  | .waitLapse _ _ _ => none
  | .openReadLapse _ _ => none
  | .scanReread _ _ _ => none
  | .unitLeavesService _ => none
  | .sessionOpen tag _ _ => some tag
  | .sessionOpenReclaim tag _ _ _ => some tag
  | .granuleZeroingComplete _ => none
  | .sessionCloseDrain tag _ => some tag
  | .sessionCloseAbort tag _ => some tag
  | .sessionFree _ => none
  | .quotaSet tag _ _ => some tag
  | .quotaSetTeamsReplace _ => none
  | .sliceEnd _ => none
  | .switchDeferLimit _ => none
  | .partitionSwitch _ => none
  | .switchRestoreComplete _ => none
  | .reclaimWindowExpiry _ => none
  | .query tag _ _ => some tag
  | .queryAdmit _ => none
  | .peerAnswerFetch _ _ _ => none
  | .peerWaitExpiry _ => none
  | .answerRecordComplete _ => none
  | .indexBuild tag _ _ _ => some tag
  | .buildEnd _ _ => none
  | .indexSwitch tag _ _ => some tag
  | .generationSwitch _ => none
  | .generationFree _ _ => none
  | .codeLayerReload _ _ => none
  | .peerSet tag _ _ => some tag
  | .scan tag _ _ => some tag
  | .scanComplete _ => none
  | .fetch tag _ _ _ _ _ _ _ => some tag
  | .write tag _ _ _ _ _ _ => some tag
  | .writeLocate tag _ _ _ _ _ _ => some tag
  | .read tag _ _ _ _ => some tag
  | .readLocator tag _ _ _ _ _ _ _ => some tag
  | .flush tag _ => some tag
  | .writeZeroes tag _ _ _ _ => some tag
  | .datasetManagement tag _ _ _ _ => some tag
  | .leafLoadComplete _ _ _ => none
  | .gcCopy _ _ => none
  | .gcVerify _ _ _ => none
  | .superblockErase _ => none
  | .superblockCloseVerify _ _ _ => none
  | .patrolVerify _ _ _ => none
  | .journalMark _ => none
  | .mapRebuild _ => none
  | .linkTrain _ => none
  | .pluggableInsert _ => none
  | .arpRequest _ _ => none
  | .neighbourDiscovery _ _ => none
  | .icmpEcho _ _ _ _ => none
  | .frameDrop _ => none
  | .icreq _ _ _ _ => none
  | .tcpPduReceive _ _ _ => none
  | .rdmaConnectRequest _ _ => none
  | .cnpReceived _ => none
  | .connect tag _ _ => some tag
  | .propertyGet tag _ => some tag
  | .ccEnableClear tag => some tag
  | .ccShutdownNotification tag _ => some tag
  | .disconnect tag => some tag
  | .controllerEnd _ => none
  | .keepAlive tag => some tag
  | .keepAliveExpiry _ => none
  | .identify tag _ _ => some tag
  | .getLogPage tag _ _ _ _ _ => some tag
  | .getLogPageEventLog tag _ _ _ => some tag
  | .getLogPageHealth tag _ _ _ => some tag
  | .getLogPageFuses tag _ _ _ => some tag
  | .getLogPageTopology tag _ _ _ => some tag
  | .getLogPageTimetable tag _ _ _ _ _ => some tag
  | .getFeatures tag _ _ => some tag
  | .setFeatures tag _ _ _ => some tag
  | .setFeaturesYoke tag _ _ => some tag
  | .setFeaturesTimeSlice tag _ _ => some tag
  | .setFeaturesDirtyCap tag _ _ => some tag
  | .setFeaturesDeadlinePolicy tag _ _ => some tag
  | .setFeaturesReclaimWindow tag _ _ => some tag
  | .asyncEventRequest tag => some tag
  | .abort tag _ => some tag
  | .invalidOpcode tag _ _ => some tag
  | .namespaceCreate tag _ _ _ _ => some tag
  | .namespaceDelete tag _ => some tag
  | .namespaceDeleteEffect _ => none
  | .namespaceDeleteComplete _ => none
  | .formatNvm tag _ _ _ _ _ => some tag
  | .formatEffect _ => none
  | .formatNvmFull tag => some tag
  | .securitySetPassword tag _ => some tag
  | .securityLock tag _ => some tag
  | .securityUnlock tag _ => some tag
  | .securityReceiveLockState tag _ _ => some tag
  | .securityReceiveSessionKey tag _ _ => some tag
  | .spdmGetVersion tag => some tag
  | .spdmGetCapabilities tag => some tag
  | .spdmNegotiateAlgorithms tag => some tag
  | .spdmGetDigests tag => some tag
  | .spdmGetCertificate tag _ _ _ => some tag
  | .spdmChallenge tag _ _ => some tag
  | .spdmGetMeasurements tag _ _ => some tag
  | .fuseRead _ => none
  | .dramTraining _ => none
  | .firmwareImageVerify _ => none
  | .ownerChainCheck _ => none
  | .flashChannelTraining _ => none
  | .dieIdentification _ => none
  | .portLaneTest _ => none
  | .coachSelfTest _ _ _ _ => none
  | .bankMeasureComplete _ => none
  | .railFault _ => none
  | .mailboxMessage _ _ _ => none
  | .componentRestart _ _ => none
  | .componentRestartComplete _ _ => none
  | .mainWatchdogExpiry _ => none
  | .fallbackWatchdogExpiry _ => none
  | .errorRaise _ _ => none
  | .errorHandle _ => none
  | .unitRetest _ => none
  | .peerConnectionLoss _ _ => none
  | .rdmaAckTimeout _ => none
  | .ecnMarkedPacket _ => none
  | .pfcPauseFrame _ _ => none
  | .ccEnableSet tag => some tag
  | .configBusTransfer _ _ _ _ => none
  | .delayReqSend => none
  | .yokeHoldoverTimeout => none
  | .yokeSyncLossTimeout => none
  | .servoLockTimeout => none
  | .ptpFirstWaitExpiry => none
  | .stampStart => none
  | .rootPllLock => none
  | .rootPllLoss => none
  | .writeCapRelease => none
  | .linkWidthTimeout => none
  | .linkLoss => none
  | .pluggableRemove => none
  | .peerKeepAliveSend => none
  | .bringUpStart => none
  | .configRecordRead => none
  | .dramFill => none
  | .topologyCheck => none
  | .mainFirmwareStart => none
  | .mediaScan => none
  | .mediaWork => none
  | .ready => none
  | .bankMeasure => none
  | .bankChargeTimeout => none
  | .powerLoss => none
  | .overvoltage => none
  | .flushSequenceStart => none
  | .powerOff => none
  | .seatedOpen => none
  | .bankBleedSwitch => none
  | .thermalShutdown => none
  | .holdAssert => none
  | .holdRelease => none
  | .fatalAction => none
  | .drbgReseed => none
  | .standbyRailOff => none
  | .bankChargeComplete => none
  | .holdupEnergyExhausted => none

end Sys2Proof
end

