-- ==== Sys2Proof/Laws/PerInstr.lean ====
section
/-! SUPPORT. Laws stated for each command alone: a well-formed host command carries 16-bit identifiers. -/

namespace Sys2Proof.Laws.WellFormed

/-- A well-formed command that carries a tag carries one whose two identifiers have 16 bits. -/
def Statement (i : Instr) : Prop := i.wf = true → ∀ t, i.tag? = some t → t.ctrl < 65536 ∧ t.cid < 65536

/-- The identifiers of a well-formed tag. -/
theorem tag_bounds (t : Tag) (h : t.wf = true) : t.ctrl < 65536 ∧ t.cid < 65536 := by
  simpa [Tag.wf, below] using h

/-- The left half of a conjunction of checks. -/
theorem left {a b : Bool} (h : (a && b) = true) : a = true := (Bool.and_eq_true _ _ ▸ h).1

/-- The right half. -/
theorem right {a b : Bool} (h : (a && b) = true) : b = true := (Bool.and_eq_true _ _ ▸ h).2

theorem stageBoundary (smp : Samples) : Statement (.stageBoundary smp) := fun _ _ e => nomatch e

theorem dieSenseComplete (die : Nat) (dirty : List Nat) (erased : List Nat) : Statement (.dieSenseComplete die dirty erased) := fun _ _ e => nomatch e

theorem dieProgramComplete (die : Nat) (failed : List Nat) : Statement (.dieProgramComplete die failed) := fun _ _ e => nomatch e

theorem dieEraseComplete (die : Nat) (failed : List Nat) : Statement (.dieEraseComplete die failed) := fun _ _ e => nomatch e

theorem dirtyRecoveryStep (hub : Nat) (ok : Bool) : Statement (.dirtyRecoveryStep hub ok) := fun _ _ e => nomatch e

theorem syncMessage (m : PtpSync) (twoStep : Bool) : Statement (.syncMessage m twoStep) := fun _ _ e => nomatch e

theorem followUpMessage (m : PtpSync) : Statement (.followUpMessage m) := fun _ _ e => nomatch e

theorem announceMessage (a : PtpAnnounce) : Statement (.announceMessage a) := fun _ _ e => nomatch e

theorem delayRespMessage (domain : Nat) (master : Nat) (seq : Nat) (delay : Int) (logInterval : Int) : Statement (.delayRespMessage domain master seq delay logInterval) := fun _ _ e => nomatch e

theorem yokeForwardJump (smp : Samples) : Statement (.yokeForwardJump smp) := fun _ _ e => nomatch e

theorem domainSwitch (d : Domain) (toRoot : Bool) : Statement (.domainSwitch d toRoot) := fun _ _ e => nomatch e

theorem pllRelockTryEnd (locked : Bool) : Statement (.pllRelockTryEnd locked) := fun _ _ e => nomatch e

theorem matrixInstruction (coach : Nat) (t : Nat) (i : MatInstr) (upto : Option Nat) : Statement (.matrixInstruction coach t i upto) := fun _ _ e => nomatch e

theorem stationarySwap (coach : Nat) (t : Nat) : Statement (.stationarySwap coach t) := fun _ _ e => nomatch e

theorem transposedLoad (coach : Nat) (t : Nat) (l : TileLoad) : Statement (.transposedLoad coach t l) := fun _ _ e => nomatch e

theorem vectorInstruction (coach : Nat) (i : VecInstr) : Statement (.vectorInstruction coach i) := fun _ _ e => nomatch e

theorem crossLaneSum (coach : Nat) (src : Nat) (dst : Nat) : Statement (.crossLaneSum coach src dst) := fun _ _ e => nomatch e

theorem sequencerIssue (coach : Nat) (pc : Nat) (i : Issue) : Statement (.sequencerIssue coach pc i) := fun _ _ e => nomatch e

theorem contextWake (coach : Nat) (ctx : Nat) : Statement (.contextWake coach ctx) := fun _ _ e => nomatch e

theorem contextFree (coach : Nat) (ctx : Nat) : Statement (.contextFree coach ctx) := fun _ _ e => nomatch e

theorem contextRestart (coach : Nat) (ctx : Nat) : Statement (.contextRestart coach ctx) := fun _ _ e => nomatch e

theorem carriageSend (src : Nat) (r : CarriageReq) : Statement (.carriageSend src r) := fun _ _ e => nomatch e

theorem carriageWrite (st : Nat) (c : Bytes) : Statement (.carriageWrite st c) := fun _ _ e => nomatch e

theorem carriageRead (st : Nat) (c : Bytes) : Statement (.carriageRead st c) := fun _ _ e => nomatch e

theorem carriageReply (st : Nat) (c : Bytes) : Statement (.carriageReply st c) := fun _ _ e => nomatch e

theorem carriageWriteAck (st : Nat) (c : Bytes) : Statement (.carriageWriteAck st c) := fun _ _ e => nomatch e

theorem carriageSeat (st : Nat) (c : Bytes) : Statement (.carriageSeat st c) := fun _ _ e => nomatch e

theorem carriageFill (st : Nat) (c : Bytes) : Statement (.carriageFill st c) := fun _ _ e => nomatch e

theorem carriageAnswer (st : Nat) (c : Bytes) : Statement (.carriageAnswer st c) := fun _ _ e => nomatch e

theorem carriageControl (st : Nat) (c : Bytes) : Statement (.carriageControl st c) := fun _ _ e => nomatch e

theorem carriageSave (st : Nat) (c : Bytes) : Statement (.carriageSave st c) := fun _ _ e => nomatch e

theorem carriageError (st : Nat) (c : Bytes) : Statement (.carriageError st c) := fun _ _ e => nomatch e

theorem dramScrub (pkg : Nat) : Statement (.dramScrub pkg) := fun _ _ e => nomatch e

theorem fabDropFold (st : Nat) : Statement (.fabDropFold st) := fun _ _ e => nomatch e

theorem drmEccFold (pkg : Nat) : Statement (.drmEccFold pkg) := fun _ _ e => nomatch e

theorem roleWrite (team : Nat) (assigned : Bool) (partition : Nat) : Statement (.roleWrite team assigned partition) := fun _ _ e => nomatch e

theorem flaPgmodeService (hub : Nat) (key : Nat) : Statement (.flaPgmodeService hub key) := fun _ _ e => nomatch e

theorem flaPgmodeRecovery (hub : Nat) (key : Nat) : Statement (.flaPgmodeRecovery hub key) := fun _ _ e => nomatch e

theorem flaPgmodeTest (hub : Nat) (key : Nat) : Statement (.flaPgmodeTest hub key) := fun _ _ e => nomatch e

theorem recoveryRawProgram (a : CwAddr) (raw : Bytes) : Statement (.recoveryRawProgram a raw) := fun _ _ e => nomatch e

theorem drmTestWritePath (pkg : Nat) (key : Nat) (path : Nat) : Statement (.drmTestWritePath pkg key path) := fun _ _ e => nomatch e

theorem drmTestRawRead (pkg : Nat) (key : Nat) (on : Bool) : Statement (.drmTestRawRead pkg key on) := fun _ _ e => nomatch e

theorem registerWrite (r : Reg) (unit : Nat) (v : BitVec 32) : Statement (.registerWrite r unit v) := fun _ _ e => nomatch e

theorem routeLoad (tag : Tag) (sess : Nat) (handle : Nat) (first : Bool) (offset : Nat) (piece : Bytes) : Statement (.routeLoad tag sess handle first offset piece) := fun h _ e => Option.some.inj e ▸ tag_bounds _ (left (left (left h)))

theorem routeLoadExtent (tag : Tag) (sess : Nat) (handle : Nat) (nsid : Nat) (lba : Nat) (blocks : Nat) : Statement (.routeLoadExtent tag sess handle nsid lba blocks) := fun h _ e => Option.some.inj e ▸ tag_bounds _ (left (left (left (left (left h)))))

theorem run (tag : Tag) (sess : Nat) (handle : Nat) (block : Bytes) : Statement (.run tag sess handle block) := fun h _ e => Option.some.inj e ▸ tag_bounds _ (left (left h))

theorem bind (id : Nat) : Statement (.bind id) := fun _ _ e => nomatch e

theorem bindComplete (id : Nat) (e : BindEnd) : Statement (.bindComplete id e) := fun _ _ e => nomatch e

theorem bindWaitExpiry (id : Nat) : Statement (.bindWaitExpiry id) := fun _ _ e => nomatch e

theorem passStart (sess : Nat) : Statement (.passStart sess) := fun _ _ e => nomatch e

theorem runComplete (sess : Nat) : Statement (.runComplete sess) := fun _ _ e => nomatch e

theorem opMatmul (sess : Nat) (op : Nat) : Statement (.opMatmul sess op) := fun _ _ e => nomatch e

theorem opBmatmul (sess : Nat) (op : Nat) : Statement (.opBmatmul sess op) := fun _ _ e => nomatch e

theorem opAdd (sess : Nat) (op : Nat) : Statement (.opAdd sess op) := fun _ _ e => nomatch e

theorem opSub (sess : Nat) (op : Nat) : Statement (.opSub sess op) := fun _ _ e => nomatch e

theorem opMul (sess : Nat) (op : Nat) : Statement (.opMul sess op) := fun _ _ e => nomatch e

theorem opDiv (sess : Nat) (op : Nat) : Statement (.opDiv sess op) := fun _ _ e => nomatch e

theorem opFma (sess : Nat) (op : Nat) : Statement (.opFma sess op) := fun _ _ e => nomatch e

theorem opMax (sess : Nat) (op : Nat) : Statement (.opMax sess op) := fun _ _ e => nomatch e

theorem opMin (sess : Nat) (op : Nat) : Statement (.opMin sess op) := fun _ _ e => nomatch e

theorem opCmp (sess : Nat) (op : Nat) : Statement (.opCmp sess op) := fun _ _ e => nomatch e

theorem opSelect (sess : Nat) (op : Nat) : Statement (.opSelect sess op) := fun _ _ e => nomatch e

theorem opUnary (sess : Nat) (op : Nat) : Statement (.opUnary sess op) := fun _ _ e => nomatch e

theorem opGated (sess : Nat) (op : Nat) : Statement (.opGated sess op) := fun _ _ e => nomatch e

theorem opReduce (sess : Nat) (op : Nat) : Statement (.opReduce sess op) := fun _ _ e => nomatch e

theorem opSoftmax (sess : Nat) (op : Nat) : Statement (.opSoftmax sess op) := fun _ _ e => nomatch e

theorem opLayernorm (sess : Nat) (op : Nat) : Statement (.opLayernorm sess op) := fun _ _ e => nomatch e

theorem opRmsnorm (sess : Nat) (op : Nat) : Statement (.opRmsnorm sess op) := fun _ _ e => nomatch e

theorem opAttention (sess : Nat) (op : Nat) : Statement (.opAttention sess op) := fun _ _ e => nomatch e

theorem opRope (sess : Nat) (op : Nat) : Statement (.opRope sess op) := fun _ _ e => nomatch e

theorem opRotate (sess : Nat) (op : Nat) : Statement (.opRotate sess op) := fun _ _ e => nomatch e

theorem opQuant (sess : Nat) (op : Nat) : Statement (.opQuant sess op) := fun _ _ e => nomatch e

theorem opDequant (sess : Nat) (op : Nat) : Statement (.opDequant sess op) := fun _ _ e => nomatch e

theorem opConvert (sess : Nat) (op : Nat) : Statement (.opConvert sess op) := fun _ _ e => nomatch e

theorem opDist (sess : Nat) (op : Nat) : Statement (.opDist sess op) := fun _ _ e => nomatch e

theorem opCodeDist (sess : Nat) (op : Nat) : Statement (.opCodeDist sess op) := fun _ _ e => nomatch e

theorem opTopk (sess : Nat) (op : Nat) : Statement (.opTopk sess op) := fun _ _ e => nomatch e

theorem opGather (sess : Nat) (op : Nat) : Statement (.opGather sess op) := fun _ _ e => nomatch e

theorem opPut (sess : Nat) (op : Nat) : Statement (.opPut sess op) := fun _ _ e => nomatch e

theorem opFilter (sess : Nat) (op : Nat) : Statement (.opFilter sess op) := fun _ _ e => nomatch e

theorem opScanRead (sess : Nat) (op : Nat) : Statement (.opScanRead sess op) := fun _ _ e => nomatch e

theorem opNsRead (sess : Nat) (op : Nat) : Statement (.opNsRead sess op) := fun _ _ e => nomatch e

theorem opNsWrite (sess : Nat) (op : Nat) : Statement (.opNsWrite sess op) := fun _ _ e => nomatch e

theorem opEmit (sess : Nat) (op : Nat) : Statement (.opEmit sess op) := fun _ _ e => nomatch e

theorem opAccum (sess : Nat) (op : Nat) : Statement (.opAccum sess op) := fun _ _ e => nomatch e

theorem stagedWriteEnterBuffer (sess : Nat) : Statement (.stagedWriteEnterBuffer sess) := fun _ _ e => nomatch e

theorem timetableResume (sess : Nat) : Statement (.timetableResume sess) := fun _ _ e => nomatch e

theorem emitResume (sess : Nat) : Statement (.emitResume sess) := fun _ _ e => nomatch e

theorem waitLapse (coach : Nat) (ctx : Nat) (m : Miss) : Statement (.waitLapse coach ctx m) := fun _ _ e => nomatch e

theorem openReadLapse (die : Nat) (stage : Nat) : Statement (.openReadLapse die stage) := fun _ _ e => nomatch e

theorem scanReread (id : Nat) (word : Nat) (landed : Bool) : Statement (.scanReread id word landed) := fun _ _ e => nomatch e

theorem unitLeavesService (o : Obj) : Statement (.unitLeavesService o) := fun _ _ e => nomatch e

theorem sessionOpen (tag : Tag) (major : Nat) (data : Bytes) : Statement (.sessionOpen tag major data) := fun h _ e => Option.some.inj e ▸ tag_bounds _ (left h)

theorem sessionOpenReclaim (tag : Tag) (major : Nat) (sess : Nat) (key : Nat) : Statement (.sessionOpenReclaim tag major sess key) := fun h _ e => Option.some.inj e ▸ tag_bounds _ (left (left (left h)))

theorem granuleZeroingComplete (sess : Nat) : Statement (.granuleZeroingComplete sess) := fun _ _ e => nomatch e

theorem sessionCloseDrain (tag : Tag) (sess : Nat) : Statement (.sessionCloseDrain tag sess) := fun h _ e => Option.some.inj e ▸ tag_bounds _ (left h)

theorem sessionCloseAbort (tag : Tag) (sess : Nat) : Statement (.sessionCloseAbort tag sess) := fun h _ e => Option.some.inj e ▸ tag_bounds _ (left h)

theorem sessionFree (sess : Nat) : Statement (.sessionFree sess) := fun _ _ e => nomatch e

theorem quotaSet (tag : Tag) (sess : Nat) (data : Bytes) : Statement (.quotaSet tag sess data) := fun h _ e => Option.some.inj e ▸ tag_bounds _ (left h)

theorem quotaSetTeamsReplace (sess : Nat) : Statement (.quotaSetTeamsReplace sess) := fun _ _ e => nomatch e

theorem sliceEnd (part : Nat) : Statement (.sliceEnd part) := fun _ _ e => nomatch e

theorem switchDeferLimit (part : Nat) : Statement (.switchDeferLimit part) := fun _ _ e => nomatch e

theorem partitionSwitch (part : Nat) : Statement (.partitionSwitch part) := fun _ _ e => nomatch e

theorem switchRestoreComplete (part : Nat) : Statement (.switchRestoreComplete part) := fun _ _ e => nomatch e

theorem reclaimWindowExpiry (sess : Nat) : Statement (.reclaimWindowExpiry sess) := fun _ _ e => nomatch e

theorem query (tag : Tag) (sess : Nat) (data : Bytes) : Statement (.query tag sess data) := fun h _ e => Option.some.inj e ▸ tag_bounds _ (left h)

theorem queryAdmit (id : Nat) : Statement (.queryAdmit id) := fun _ _ e => nomatch e

theorem peerAnswerFetch (id : Nat) (member : Nat) (r : Option (List PeerList)) : Statement (.peerAnswerFetch id member r) := fun _ _ e => nomatch e

theorem peerWaitExpiry (id : Nat) : Statement (.peerWaitExpiry id) := fun _ _ e => nomatch e

theorem answerRecordComplete (tree : Nat) : Statement (.answerRecordComplete tree) := fun _ _ e => nomatch e

theorem indexBuild (tag : Tag) (sess : Nat) (nsid : Nat) (discard : Bool) : Statement (.indexBuild tag sess nsid discard) := fun h _ e => Option.some.inj e ▸ tag_bounds _ (left (left h))

theorem buildEnd (nsid : Nat) (b : Built) : Statement (.buildEnd nsid b) := fun _ _ e => nomatch e

theorem indexSwitch (tag : Tag) (sess : Nat) (nsid : Nat) : Statement (.indexSwitch tag sess nsid) := fun h _ e => Option.some.inj e ▸ tag_bounds _ (left (left h))

theorem generationSwitch (nsid : Nat) : Statement (.generationSwitch nsid) := fun _ _ e => nomatch e

theorem generationFree (nsid : Nat) (gen : Nat) : Statement (.generationFree nsid gen) := fun _ _ e => nomatch e

theorem codeLayerReload (nsid : Nat) (gen : Nat) : Statement (.codeLayerReload nsid gen) := fun _ _ e => nomatch e

theorem peerSet (tag : Tag) (data : Bytes) (replies : List PeerReply) : Statement (.peerSet tag data replies) := fun h _ e => Option.some.inj e ▸ tag_bounds _ h

theorem scan (tag : Tag) (sess : Nat) (data : Bytes) : Statement (.scan tag sess data) := fun h _ e => Option.some.inj e ▸ tag_bounds _ (left h)

theorem scanComplete (id : Nat) : Statement (.scanComplete id) := fun _ _ e => nomatch e

theorem fetch (tag : Tag) (sess : Nat) (cls : Nat) (byId : Bool) (keep : Bool) (queryId : Nat) (after : Nat) (len : Nat) : Statement (.fetch tag sess cls byId keep queryId after len) := fun h _ e => Option.some.inj e ▸ tag_bounds _ (left (left (left (left (left h)))))

theorem write (tag : Tag) (nsid : Nat) (slba : Nat) (nlb : Nat) (prinfo : Nat) (fua : Bool) (data : Bytes) : Statement (.write tag nsid slba nlb prinfo fua data) := fun h _ e => Option.some.inj e ▸ tag_bounds _ (left (left (left (left h))))

theorem writeLocate (tag : Tag) (nsid : Nat) (slba : Nat) (nlb : Nat) (prinfo : Nat) (sgl : Option Nat) (data : Bytes) : Statement (.writeLocate tag nsid slba nlb prinfo sgl data) := fun h _ e => Option.some.inj e ▸ tag_bounds _ (left (left (left (left h))))

theorem read (tag : Tag) (nsid : Nat) (slba : Nat) (nlb : Nat) (prinfo : Nat) : Statement (.read tag nsid slba nlb prinfo) := fun h _ e => Option.some.inj e ▸ tag_bounds _ (left (left (left (left h))))

theorem readLocator (tag : Tag) (nsid : Nat) (slba : Nat) (nlb : Nat) (prinfo : Nat) (bufLen : Nat) (loc : Bytes) (decodes : Bool) : Statement (.readLocator tag nsid slba nlb prinfo bufLen loc decodes) := fun h _ e => Option.some.inj e ▸ tag_bounds _ (left (left (left (left (left (left h))))))

theorem flush (tag : Tag) (nsid : Nat) : Statement (.flush tag nsid) := fun h _ e => Option.some.inj e ▸ tag_bounds _ (left h)

theorem writeZeroes (tag : Tag) (nsid : Nat) (slba : Nat) (nlb : Nat) (prinfo : Nat) : Statement (.writeZeroes tag nsid slba nlb prinfo) := fun h _ e => Option.some.inj e ▸ tag_bounds _ (left (left (left (left h))))

theorem datasetManagement (tag : Tag) (nsid : Nat) (dealloc : Bool) (nr : Nat) (data : Bytes) : Statement (.datasetManagement tag nsid dealloc nr data) := fun h _ e => Option.some.inj e ▸ tag_bounds _ (left (left h))

theorem leafLoadComplete (ns : Nat) (leaf : Nat) (ok : Bool) : Statement (.leafLoadComplete ns leaf ok) := fun _ _ e => nomatch e

theorem gcCopy (ns : Nat) (unit : Nat) : Statement (.gcCopy ns unit) := fun _ _ e => nomatch e

theorem gcVerify (ns : Nat) (unit : Nat) (ok : Bool) : Statement (.gcVerify ns unit ok) := fun _ _ e => nomatch e

theorem superblockErase (sb : Nat) : Statement (.superblockErase sb) := fun _ _ e => nomatch e

theorem superblockCloseVerify (sb : Nat) (rewrite : List (Nat × Nat)) (lost : List (Nat × Nat)) : Statement (.superblockCloseVerify sb rewrite lost) := fun _ _ e => nomatch e

theorem patrolVerify (pb : Nat) (v : Verify) (lost : List (Nat × Nat)) : Statement (.patrolVerify pb v lost) := fun _ _ e => nomatch e

theorem journalMark (clean : Bool) : Statement (.journalMark clean) := fun _ _ e => nomatch e

theorem mapRebuild (sets : List FoundSet) : Statement (.mapRebuild sets) := fun _ _ e => nomatch e

theorem linkTrain (locked : List Nat) : Statement (.linkTrain locked) := fun _ _ e => nomatch e

theorem pluggableInsert (watts : Nat) : Statement (.pluggableInsert watts) := fun _ _ e => nomatch e

theorem arpRequest (target : Nat) (sender : Nat) : Statement (.arpRequest target sender) := fun _ _ e => nomatch e

theorem neighbourDiscovery (target : Nat) (sender : Nat) : Statement (.neighbourDiscovery target sender) := fun _ _ e => nomatch e

theorem icmpEcho (v6 : Bool) (dest : Nat) (sender : Nat) (payload : Bytes) : Statement (.icmpEcho v6 dest sender payload) := fun _ _ e => nomatch e

theorem frameDrop (len : Nat) : Statement (.frameDrop len) := fun _ _ e => nomatch e

theorem icreq (conn : Nat) (port : Nat) (hdgst : Bool) (ddgst : Bool) : Statement (.icreq conn port hdgst ddgst) := fun _ _ e => nomatch e

theorem tcpPduReceive (conn : Nat) (digestOk : Bool) (len : Nat) : Statement (.tcpPduReceive conn digestOk len) := fun _ _ e => nomatch e

theorem rdmaConnectRequest (qp : Nat) (port : Nat) : Statement (.rdmaConnectRequest qp port) := fun _ _ e => nomatch e

theorem cnpReceived (qp : Nat) : Statement (.cnpReceived qp) := fun _ _ e => nomatch e

theorem connect (tag : Tag) (conn : Nat) (a : ConnectArgs) : Statement (.connect tag conn a) := fun h _ e => Option.some.inj e ▸ tag_bounds _ (left h)

theorem propertyGet (tag : Tag) (offset : Nat) : Statement (.propertyGet tag offset) := fun h _ e => Option.some.inj e ▸ tag_bounds _ (left h)

theorem ccEnableClear (tag : Tag) : Statement (.ccEnableClear tag) := fun h _ e => Option.some.inj e ▸ tag_bounds _ h

theorem ccShutdownNotification (tag : Tag) (abrupt : Bool) : Statement (.ccShutdownNotification tag abrupt) := fun h _ e => Option.some.inj e ▸ tag_bounds _ h

theorem disconnect (tag : Tag) : Statement (.disconnect tag) := fun h _ e => Option.some.inj e ▸ tag_bounds _ h

theorem controllerEnd (ctrl : Nat) : Statement (.controllerEnd ctrl) := fun _ _ e => nomatch e

theorem keepAlive (tag : Tag) : Statement (.keepAlive tag) := fun h _ e => Option.some.inj e ▸ tag_bounds _ h

theorem keepAliveExpiry (ctrl : Nat) : Statement (.keepAliveExpiry ctrl) := fun _ _ e => nomatch e

theorem identify (tag : Tag) (cns : Nat) (nsid : Nat) : Statement (.identify tag cns nsid) := fun h _ e => Option.some.inj e ▸ tag_bounds _ (left (left h))

theorem getLogPage (tag : Tag) (lid : Nat) (nsid : Nat) (offset : Nat) (len : Nat) (rae : Bool) : Statement (.getLogPage tag lid nsid offset len rae) := fun h _ e => Option.some.inj e ▸ tag_bounds _ (left (left (left (left h))))

theorem getLogPageEventLog (tag : Tag) (offset : Nat) (len : Nat) (rae : Bool) : Statement (.getLogPageEventLog tag offset len rae) := fun h _ e => Option.some.inj e ▸ tag_bounds _ (left (left h))

theorem getLogPageHealth (tag : Tag) (offset : Nat) (len : Nat) (rae : Bool) : Statement (.getLogPageHealth tag offset len rae) := fun h _ e => Option.some.inj e ▸ tag_bounds _ (left (left h))

theorem getLogPageFuses (tag : Tag) (offset : Nat) (len : Nat) (rae : Bool) : Statement (.getLogPageFuses tag offset len rae) := fun h _ e => Option.some.inj e ▸ tag_bounds _ (left (left h))

theorem getLogPageTopology (tag : Tag) (offset : Nat) (len : Nat) (rae : Bool) : Statement (.getLogPageTopology tag offset len rae) := fun h _ e => Option.some.inj e ▸ tag_bounds _ (left (left h))

theorem getLogPageTimetable (tag : Tag) (lsp : Nat) (lsi : Nat) (offset : Nat) (len : Nat) (rae : Bool) : Statement (.getLogPageTimetable tag lsp lsi offset len rae) := fun h _ e => Option.some.inj e ▸ tag_bounds _ (left (left (left (left h))))

theorem getFeatures (tag : Tag) (fid : Nat) (sel : Nat) : Statement (.getFeatures tag fid sel) := fun h _ e => Option.some.inj e ▸ tag_bounds _ (left (left h))

theorem setFeatures (tag : Tag) (fid : Nat) (sv : Bool) (dw11 : Nat) : Statement (.setFeatures tag fid sv dw11) := fun h _ e => Option.some.inj e ▸ tag_bounds _ (left (left h))

theorem setFeaturesYoke (tag : Tag) (sv : Bool) (dw11 : BitVec 32) : Statement (.setFeaturesYoke tag sv dw11) := fun h _ e => Option.some.inj e ▸ tag_bounds _ h

theorem setFeaturesTimeSlice (tag : Tag) (sv : Bool) (dw11 : BitVec 32) : Statement (.setFeaturesTimeSlice tag sv dw11) := fun h _ e => Option.some.inj e ▸ tag_bounds _ h

theorem setFeaturesDirtyCap (tag : Tag) (sv : Bool) (dw11 : BitVec 32) : Statement (.setFeaturesDirtyCap tag sv dw11) := fun h _ e => Option.some.inj e ▸ tag_bounds _ h

theorem setFeaturesDeadlinePolicy (tag : Tag) (sv : Bool) (dw11 : BitVec 32) : Statement (.setFeaturesDeadlinePolicy tag sv dw11) := fun h _ e => Option.some.inj e ▸ tag_bounds _ h

theorem setFeaturesReclaimWindow (tag : Tag) (sv : Bool) (dw11 : BitVec 32) : Statement (.setFeaturesReclaimWindow tag sv dw11) := fun h _ e => Option.some.inj e ▸ tag_bounds _ h

theorem asyncEventRequest (tag : Tag) : Statement (.asyncEventRequest tag) := fun h _ e => Option.some.inj e ▸ tag_bounds _ h

theorem abort (tag : Tag) (cid : Nat) : Statement (.abort tag cid) := fun h _ e => Option.some.inj e ▸ tag_bounds _ (left h)

theorem invalidOpcode (tag : Tag) (admin : Bool) (opcode : Nat) : Statement (.invalidOpcode tag admin opcode) := fun h _ e => Option.some.inj e ▸ tag_bounds _ (left h)

theorem namespaceCreate (tag : Tag) (flbas : Nat) (nsze : Nat) (ncap : Nat) (header : Bytes) : Statement (.namespaceCreate tag flbas nsze ncap header) := fun h _ e => Option.some.inj e ▸ tag_bounds _ (left (left (left h)))

theorem namespaceDelete (tag : Tag) (nsid : Nat) : Statement (.namespaceDelete tag nsid) := fun h _ e => Option.some.inj e ▸ tag_bounds _ (left h)

theorem namespaceDeleteEffect (nsid : Nat) : Statement (.namespaceDeleteEffect nsid) := fun _ _ e => nomatch e

theorem namespaceDeleteComplete (nsid : Nat) : Statement (.namespaceDeleteComplete nsid) := fun _ _ e => nomatch e

theorem formatNvm (tag : Tag) (nsid : Nat) (lbaf : Nat) (ses : Nat) (pi : Nat) (pil : Nat) : Statement (.formatNvm tag nsid lbaf ses pi pil) := fun h _ e => Option.some.inj e ▸ tag_bounds _ (left (left (left (left (left h)))))

theorem formatEffect (nsid : Nat) : Statement (.formatEffect nsid) := fun _ _ e => nomatch e

theorem formatNvmFull (tag : Tag) : Statement (.formatNvmFull tag) := fun h _ e => Option.some.inj e ▸ tag_bounds _ h

theorem securitySetPassword (tag : Tag) (data : Bytes) : Statement (.securitySetPassword tag data) := fun h _ e => Option.some.inj e ▸ tag_bounds _ h

theorem securityLock (tag : Tag) (data : Bytes) : Statement (.securityLock tag data) := fun h _ e => Option.some.inj e ▸ tag_bounds _ h

theorem securityUnlock (tag : Tag) (data : Bytes) : Statement (.securityUnlock tag data) := fun h _ e => Option.some.inj e ▸ tag_bounds _ h

theorem securityReceiveLockState (tag : Tag) (nsid : Nat) (alloc : Nat) : Statement (.securityReceiveLockState tag nsid alloc) := fun h _ e => Option.some.inj e ▸ tag_bounds _ (left (left h))

theorem securityReceiveSessionKey (tag : Tag) (sess : Nat) (alloc : Nat) : Statement (.securityReceiveSessionKey tag sess alloc) := fun h _ e => Option.some.inj e ▸ tag_bounds _ (left (left h))

theorem spdmGetVersion (tag : Tag) : Statement (.spdmGetVersion tag) := fun h _ e => Option.some.inj e ▸ tag_bounds _ h

theorem spdmGetCapabilities (tag : Tag) : Statement (.spdmGetCapabilities tag) := fun h _ e => Option.some.inj e ▸ tag_bounds _ h

theorem spdmNegotiateAlgorithms (tag : Tag) : Statement (.spdmNegotiateAlgorithms tag) := fun h _ e => Option.some.inj e ▸ tag_bounds _ h

theorem spdmGetDigests (tag : Tag) : Statement (.spdmGetDigests tag) := fun h _ e => Option.some.inj e ▸ tag_bounds _ h

theorem spdmGetCertificate (tag : Tag) (slot : Nat) (offset : Nat) (len : Nat) : Statement (.spdmGetCertificate tag slot offset len) := fun h _ e => Option.some.inj e ▸ tag_bounds _ (left (left h))

theorem spdmChallenge (tag : Tag) (slot : Nat) (nonce : Bytes) : Statement (.spdmChallenge tag slot nonce) := fun h _ e => Option.some.inj e ▸ tag_bounds _ (left h)

theorem spdmGetMeasurements (tag : Tag) (index : Nat) (nonce : Bytes) : Statement (.spdmGetMeasurements tag index nonce) := fun h _ e => Option.some.inj e ▸ tag_bounds _ (left h)

theorem fuseRead (fuses : List Nat) : Statement (.fuseRead fuses) := fun _ _ e => nomatch e

theorem dramTraining (failed : List Nat) : Statement (.dramTraining failed) := fun _ _ e => nomatch e

theorem firmwareImageVerify (signatureOk : Bool) : Statement (.firmwareImageVerify signatureOk) := fun _ _ e => nomatch e

theorem ownerChainCheck (authOk : Bool) : Statement (.ownerChainCheck authOk) := fun _ _ e => nomatch e

theorem flashChannelTraining (failed : List Nat) : Statement (.flashChannelTraining failed) := fun _ _ e => nomatch e

theorem dieIdentification (failed : List Nat) : Statement (.dieIdentification failed) := fun _ _ e => nomatch e

theorem portLaneTest (failed : List Nat) : Statement (.portLaneTest failed) := fun _ _ e => nomatch e

theorem coachSelfTest (failedCoaches : List Nat) (failedRouters : List Nat) (failedLinks : List Nat) (failedRing : List Nat) : Statement (.coachSelfTest failedCoaches failedRouters failedLinks failedRing) := fun _ _ e => nomatch e

theorem bankMeasureComplete (cMeas : Nat) : Statement (.bankMeasureComplete cMeas) := fun _ _ e => nomatch e

theorem railFault (osfp : Bool) : Statement (.railFault osfp) := fun _ _ e => nomatch e

theorem mailboxMessage (sender : Nat) (receiver : Nat) (msg : Bytes) : Statement (.mailboxMessage sender receiver msg) := fun _ _ e => nomatch e

theorem componentRestart (comp : Nat) (cause : Nat) : Statement (.componentRestart comp cause) := fun _ _ e => nomatch e

theorem componentRestartComplete (comp : Nat) (keepOk : Bool) : Statement (.componentRestartComplete comp keepOk) := fun _ _ e => nomatch e

theorem mainWatchdogExpiry (coreNo : Nat) : Statement (.mainWatchdogExpiry coreNo) := fun _ _ e => nomatch e

theorem fallbackWatchdogExpiry (coreNo : Nat) : Statement (.fallbackWatchdogExpiry coreNo) := fun _ _ e => nomatch e

theorem errorRaise (cls : ErrClass) (o : Obj) : Statement (.errorRaise cls o) := fun _ _ e => nomatch e

theorem errorHandle (ended : Bool) : Statement (.errorHandle ended) := fun _ _ e => nomatch e

theorem unitRetest (pass : Bool) : Statement (.unitRetest pass) := fun _ _ e => nomatch e

theorem peerConnectionLoss (sess : Nat) (member : Nat × Nat) : Statement (.peerConnectionLoss sess member) := fun _ _ e => nomatch e

theorem rdmaAckTimeout (qp : Nat) : Statement (.rdmaAckTimeout qp) := fun _ _ e => nomatch e

theorem ecnMarkedPacket (qp : Nat) : Statement (.ecnMarkedPacket qp) := fun _ _ e => nomatch e

theorem pfcPauseFrame (priority : Nat) (pause : Bool) : Statement (.pfcPauseFrame priority pause) := fun _ _ e => nomatch e

theorem ccEnableSet (tag : Tag) : Statement (.ccEnableSet tag) := fun h _ e => Option.some.inj e ▸ tag_bounds _ h

theorem configBusTransfer (write : Bool) (addr : Nat) (len : Nat) (data : Bytes) : Statement (.configBusTransfer write addr len data) := fun _ _ e => nomatch e

theorem delayReqSend : Statement (.delayReqSend) := fun _ _ e => nomatch e

theorem yokeHoldoverTimeout : Statement (.yokeHoldoverTimeout) := fun _ _ e => nomatch e

theorem yokeSyncLossTimeout : Statement (.yokeSyncLossTimeout) := fun _ _ e => nomatch e

theorem servoLockTimeout : Statement (.servoLockTimeout) := fun _ _ e => nomatch e

theorem ptpFirstWaitExpiry : Statement (.ptpFirstWaitExpiry) := fun _ _ e => nomatch e

theorem stampStart : Statement (.stampStart) := fun _ _ e => nomatch e

theorem rootPllLock : Statement (.rootPllLock) := fun _ _ e => nomatch e

theorem rootPllLoss : Statement (.rootPllLoss) := fun _ _ e => nomatch e

theorem writeCapRelease : Statement (.writeCapRelease) := fun _ _ e => nomatch e

theorem linkWidthTimeout : Statement (.linkWidthTimeout) := fun _ _ e => nomatch e

theorem linkLoss : Statement (.linkLoss) := fun _ _ e => nomatch e

theorem pluggableRemove : Statement (.pluggableRemove) := fun _ _ e => nomatch e

theorem peerKeepAliveSend : Statement (.peerKeepAliveSend) := fun _ _ e => nomatch e

theorem bringUpStart : Statement (.bringUpStart) := fun _ _ e => nomatch e

theorem configRecordRead : Statement (.configRecordRead) := fun _ _ e => nomatch e

theorem dramFill : Statement (.dramFill) := fun _ _ e => nomatch e

theorem topologyCheck : Statement (.topologyCheck) := fun _ _ e => nomatch e

theorem mainFirmwareStart : Statement (.mainFirmwareStart) := fun _ _ e => nomatch e

theorem mediaScan : Statement (.mediaScan) := fun _ _ e => nomatch e

theorem mediaWork : Statement (.mediaWork) := fun _ _ e => nomatch e

theorem ready : Statement (.ready) := fun _ _ e => nomatch e

theorem bankMeasure : Statement (.bankMeasure) := fun _ _ e => nomatch e

theorem bankChargeTimeout : Statement (.bankChargeTimeout) := fun _ _ e => nomatch e

theorem powerLoss : Statement (.powerLoss) := fun _ _ e => nomatch e

theorem overvoltage : Statement (.overvoltage) := fun _ _ e => nomatch e

theorem flushSequenceStart : Statement (.flushSequenceStart) := fun _ _ e => nomatch e

theorem powerOff : Statement (.powerOff) := fun _ _ e => nomatch e

theorem seatedOpen : Statement (.seatedOpen) := fun _ _ e => nomatch e

theorem bankBleedSwitch : Statement (.bankBleedSwitch) := fun _ _ e => nomatch e

theorem thermalShutdown : Statement (.thermalShutdown) := fun _ _ e => nomatch e

theorem holdAssert : Statement (.holdAssert) := fun _ _ e => nomatch e

theorem holdRelease : Statement (.holdRelease) := fun _ _ e => nomatch e

theorem fatalAction : Statement (.fatalAction) := fun _ _ e => nomatch e

theorem drbgReseed : Statement (.drbgReseed) := fun _ _ e => nomatch e

theorem standbyRailOff : Statement (.standbyRailOff) := fun _ _ e => nomatch e

theorem bankChargeComplete : Statement (.bankChargeComplete) := fun _ _ e => nomatch e

theorem holdupEnergyExhausted : Statement (.holdupEnergyExhausted) := fun _ _ e => nomatch e

end Sys2Proof.Laws.WellFormed
end

