-- ==== Sys2Proof/Tests/Slice0.lean ====
section
/-! SUPPORT. Own tests: ill-formed commands refused, single steps with expected results worked out by hand from the spec, and for each
statement a state and operands that meet its hypotheses. -/

namespace Sys2Proof.Tests

set_option Elab.async false

open Sys2Proof.Machine Sys2Proof.Safety

/-! ### Well-formed commands: each check refuses a term outside its range (WellFormed) -/

def zeros16 : Bytes := List.replicate 16 0
def zeros32 : Bytes := List.replicate 32 0
/-- Samples with nothing to report. -/
def smp : Samples := ⟨550, 0, [40, 40, 40, 40, 40, 40, 40, 40], 0, 0⟩

theorem test_formed_0 : ([.stageBoundary smp, .dieSenseComplete 0 [] [], .dieProgramComplete 0 [], .dieEraseComplete 0 [], .dirtyRecoveryStep 0 false,
    .syncMessage ⟨0, 0, 0, 0, 0, 0⟩ false, .followUpMessage ⟨0, 0, 0, 0, 0, 0⟩, .announceMessage ⟨0, 0, 0, 0, 0, 0, 0, 0⟩, .delayRespMessage 0 0 0 0 0,
    .yokeForwardJump smp, .matrixInstruction 0 0 ⟨1, 64, 64, 0, 0, .bf16, [], 0, 0, false⟩ none, .stationarySwap 0 0,
    .transposedLoad 0 0 ⟨0, .int8, 0, .none⟩, .vectorInstruction 0 ⟨.add, 0, 0, 0, 0⟩, .crossLaneSum 0 0 0, .sequencerIssue 0 0 (.toUnit (.laneSum 0 0)),
    .contextWake 0 0, .contextFree 0 0, .contextRestart 0 0, .carriageSend 0 ⟨0, 0, 1, 0, 0, 0, 0, false, true, []⟩, .carriageWrite 0 zeros32,
    .carriageRead 0 zeros32, .carriageReply 0 zeros32, .carriageWriteAck 0 zeros32, .carriageSeat 0 zeros32, .carriageFill 0 zeros32,
    .carriageAnswer 0 zeros32, .carriageControl 0 zeros32] : List Instr).all (fun c => c.wf) = true := by decide

theorem test_formed_1 : ([.carriageSave 0 zeros32, .carriageError 0 zeros32, .dramScrub 0, .fabDropFold 0, .drmEccFold 0, .roleWrite 0 false 0, .flaPgmodeService 0 0,
    .flaPgmodeRecovery 0 0, .flaPgmodeTest 0 0, .recoveryRawProgram ⟨0, 0, 0, 0, 0⟩ [], .drmTestWritePath 0 0 0, .drmTestRawRead 0 0 false,
    .registerWrite .stgYoke 0 0, .routeLoad ⟨0, 0⟩ 0 0 false 0 [], .routeLoadExtent ⟨0, 0⟩ 0 0 0 0 0, .run ⟨0, 0⟩ 0 0 [], .passStart 0, .runComplete 0,
    .opMatmul 0 0, .opBmatmul 0 0, .opAdd 0 0, .opSub 0 0, .opMul 0 0, .opDiv 0 0, .opFma 0 0, .opMax 0 0, .opMin 0 0, .opCmp 0 0] : List Instr).all (fun c => c.wf) = true := by decide

theorem test_formed_2 : ([.opSelect 0 0, .opUnary 0 0, .opGated 0 0, .opReduce 0 0, .opSoftmax 0 0, .opLayernorm 0 0, .opRmsnorm 0 0, .opAttention 0 0, .opRope 0 0,
    .opRotate 0 0, .opQuant 0 0, .opDequant 0 0, .opConvert 0 0, .opDist 0 0, .opCodeDist 0 0, .opTopk 0 0, .opGather 0 0, .opPut 0 0, .opFilter 0 0,
    .opScanRead 0 0, .opNsRead 0 0, .opNsWrite 0 0, .opEmit 0 0, .opAccum 0 0, .stagedWriteEnterBuffer 0, .timetableResume 0, .emitResume 0,
    .waitLapse 0 0 .hop] : List Instr).all (fun c => c.wf) = true := by decide

theorem test_formed_3 : ([.openReadLapse 0 0, .unitLeavesService ⟨1, 0⟩, .sessionOpen ⟨0, 0⟩ 0 [], .sessionOpenReclaim ⟨0, 0⟩ 0 0 0, .granuleZeroingComplete 0,
    .sessionCloseDrain ⟨0, 0⟩ 0, .sessionCloseAbort ⟨0, 0⟩ 0, .sessionFree 0, .quotaSet ⟨0, 0⟩ 0 [], .quotaSetTeamsReplace 0, .sliceEnd 0,
    .switchDeferLimit 0, .partitionSwitch 0, .switchRestoreComplete 0, .reclaimWindowExpiry 0, .query ⟨0, 0⟩ 0 [], .peerAnswerFetch 0 0 none,
    .indexBuild ⟨0, 0⟩ 0 0 false, .buildEnd 0 ⟨3, 0, [], [], 0⟩, .indexSwitch ⟨0, 0⟩ 0 0, .generationSwitch 0, .generationFree 0 0, .codeLayerReload 0 0,
    .peerSet ⟨0, 0⟩ [] [], .scan ⟨0, 0⟩ 0 [], .fetch ⟨0, 0⟩ 0 0 false false 0 0 0, .write ⟨0, 0⟩ 0 0 0 0 false [], .writeLocate ⟨0, 0⟩ 0 0 0 0 none []] : List Instr).all (fun c => c.wf) = true := by decide

theorem test_formed_4 : ([.read ⟨0, 0⟩ 0 0 0 0, .readLocator ⟨0, 0⟩ 0 0 0 0 0 zeros16 false, .flush ⟨0, 0⟩ 0, .writeZeroes ⟨0, 0⟩ 0 0 0 0,
    .datasetManagement ⟨0, 0⟩ 0 false 0 [], .leafLoadComplete 0 0 false, .gcCopy 0 0, .gcVerify 0 0 false, .superblockErase 0,
    .superblockCloseVerify 0 [] [], .patrolVerify 0 .pass [], .icreq 0 0 false false, .rdmaConnectRequest 0 0,
    .connect ⟨0, 0⟩ 0 ⟨false, 0, 32, 0xFFFF, 1, [], 1000⟩, .propertyGet ⟨0, 0⟩ 0, .ccEnableClear ⟨0, 0⟩, .ccShutdownNotification ⟨0, 0⟩ false,
    .disconnect ⟨0, 0⟩, .controllerEnd 0, .keepAlive ⟨0, 0⟩, .keepAliveExpiry 0, .identify ⟨0, 0⟩ 0 0, .getLogPage ⟨0, 0⟩ 0 0 0 0 false,
    .getLogPageEventLog ⟨0, 0⟩ 0 0 false, .getLogPageHealth ⟨0, 0⟩ 0 0 false, .getLogPageFuses ⟨0, 0⟩ 0 0 false, .getLogPageTopology ⟨0, 0⟩ 0 0 false,
    .getLogPageTimetable ⟨0, 0⟩ 0 0 0 0 false] : List Instr).all (fun c => c.wf) = true := by decide

theorem test_formed_5 : ([.getFeatures ⟨0, 0⟩ 0 0, .setFeatures ⟨0, 0⟩ 0 false 0, .setFeaturesYoke ⟨0, 0⟩ false 0, .setFeaturesTimeSlice ⟨0, 0⟩ false 0,
    .setFeaturesDirtyCap ⟨0, 0⟩ false 0, .setFeaturesDeadlinePolicy ⟨0, 0⟩ false 0, .setFeaturesReclaimWindow ⟨0, 0⟩ false 0, .asyncEventRequest ⟨0, 0⟩,
    .abort ⟨0, 0⟩ 0, .invalidOpcode ⟨0, 0⟩ false 0, .namespaceCreate ⟨0, 0⟩ 0 0 0 [], .namespaceDelete ⟨0, 0⟩ 0, .namespaceDeleteEffect 0,
    .namespaceDeleteComplete 0, .formatNvm ⟨0, 0⟩ 0 0 0 0 0, .formatEffect 0, .formatNvmFull ⟨0, 0⟩, .securitySetPassword ⟨0, 0⟩ [],
    .securityLock ⟨0, 0⟩ [], .securityUnlock ⟨0, 0⟩ [], .securityReceiveLockState ⟨0, 0⟩ 0 0, .securityReceiveSessionKey ⟨0, 0⟩ 0 0,
    .spdmGetVersion ⟨0, 0⟩, .spdmGetCapabilities ⟨0, 0⟩, .spdmNegotiateAlgorithms ⟨0, 0⟩, .spdmGetDigests ⟨0, 0⟩, .spdmGetCertificate ⟨0, 0⟩ 0 0 0,
    .spdmChallenge ⟨0, 0⟩ 0 []] : List Instr).all (fun c => c.wf) = true := by decide

theorem test_formed_6 : ([.spdmGetMeasurements ⟨0, 0⟩ 0 [], .fuseRead [], .bankMeasureComplete 0, .componentRestart 0 0, .componentRestartComplete 0 false,
    .mainWatchdogExpiry 0, .fallbackWatchdogExpiry 0, .errorRaise .note ⟨1, 0⟩, .peerConnectionLoss 0 (1, 0), .pfcPauseFrame 0 false, .ccEnableSet ⟨0, 0⟩,
    .configBusTransfer false 0 0 []] : List Instr).all (fun c => c.wf) = true := by decide

theorem test_illFormed_0 : ([.stageBoundary ⟨1024, 0, [0, 0, 0, 0, 0, 0, 0, 0], 0, 0⟩, .stageBoundary ⟨0, 0, [], 0, 0⟩, .dieSenseComplete 1024 [] [], .dieSenseComplete 0 [16] [],
    .dieSenseComplete 0 [] [16], .dieProgramComplete 1024 [], .dieProgramComplete 0 [16], .dieEraseComplete 1024 [], .dieEraseComplete 0 [16],
    .dirtyRecoveryStep 16 false, .syncMessage ⟨256, 0, 0, 0, 0, 0⟩ false, .syncMessage ⟨0, 0, 0, 65536, 0, 0⟩ false, .followUpMessage ⟨256, 0, 0, 0, 0, 0⟩,
    .followUpMessage ⟨0, 0, 0, 65536, 0, 0⟩, .announceMessage ⟨256, 0, 0, 0, 0, 0, 0, 0⟩, .announceMessage ⟨0, 0, 0, 0, 0, 0, 0, 65536⟩,
    .delayRespMessage 256 0 0 0 0, .delayRespMessage 0 (2 ^ 64) 0 0 0, .delayRespMessage 0 0 (2 ^ 16) 0 0,
    .yokeForwardJump ⟨1024, 0, [0, 0, 0, 0, 0, 0, 0, 0], 0, 0⟩, .yokeForwardJump ⟨0, 0, [], 0, 0⟩,
    .matrixInstruction 256 0 ⟨1, 64, 64, 0, 0, .bf16, [], 0, 0, false⟩ none, .matrixInstruction 0 0 ⟨1, 64, 64, 0, 0, .fp32, [], 0, 0, false⟩ none,
    .matrixInstruction 0 0 ⟨1, 64, 64, 2097152, 0, .bf16, [], 0, 0, false⟩ none,
    .matrixInstruction 0 0 ⟨1, 64, 64, 0, 0, .bf16, [], 2097152, 0, false⟩ none,
    .matrixInstruction 0 0 ⟨1, 64, 64, 0, 0, .fp16, [⟨2097152, .int8, 0, .none⟩], 0, 0, false⟩ none, .stationarySwap 256 0,
    .transposedLoad 256 0 ⟨0, .int8, 0, .none⟩] : List Instr).all (fun c => !c.wf) = true := by decide

theorem test_illFormed_1 : ([.transposedLoad 0 0 ⟨2097152, .int8, 0, .none⟩, .transposedLoad 0 0 ⟨0, .int8, 2097152, .none⟩, .transposedLoad 0 0 ⟨0, .fp32, 0, .none⟩,
    .vectorInstruction 256 ⟨.add, 0, 0, 0, 0⟩, .vectorInstruction 0 ⟨.add, 2097152, 0, 0, 0⟩, .vectorInstruction 0 ⟨.add, 0, 2097152, 0, 0⟩,
    .vectorInstruction 0 ⟨.add, 0, 0, 2097152, 0⟩, .vectorInstruction 0 ⟨.add, 0, 0, 0, 2097152⟩, .crossLaneSum 256 0 0, .crossLaneSum 0 (2 ^ 21) 0,
    .crossLaneSum 0 0 (2 ^ 21), .sequencerIssue 256 0 (.toUnit (.laneSum 0 0)), .sequencerIssue 0 (2 ^ 64) (.toUnit (.laneSum 0 0)), .contextWake 256 0, .contextWake 0 64,
    .contextFree 256 0, .contextFree 0 64, .contextRestart 256 0, .contextRestart 0 64, .carriageSend 287 ⟨0, 0, 1, 0, 0, 0, 0, false, true, []⟩,
    .carriageSend 0 ⟨512, 0, 1, 0, 0, 0, 0, false, true, []⟩, .carriageSend 0 ⟨0, 256, 1, 0, 0, 0, 0, false, true, []⟩,
    .carriageSend 0 ⟨0, 0, 16, 0, 0, 0, 0, false, true, []⟩, .carriageSend 0 ⟨0, 0, 1, 2 ^ 48, 0, 0, 0, false, true, []⟩,
    .carriageSend 0 ⟨0, 0, 1, 0, 2 ^ 32, 0, 0, false, true, []⟩, .carriageSend 0 ⟨0, 0, 1, 0, 0, 16, 0, false, true, []⟩,
    .carriageSend 0 ⟨0, 0, 1, 0, 0, 0, 4, false, true, []⟩, .carriageWrite 287 zeros32] : List Instr).all (fun c => !c.wf) = true := by decide

theorem test_illFormed_2 : ([.carriageWrite 0 [], .carriageRead 287 zeros32, .carriageRead 0 [], .carriageReply 287 zeros32, .carriageReply 0 [], .carriageWriteAck 287 zeros32,
    .carriageWriteAck 0 [], .carriageSeat 287 zeros32, .carriageSeat 0 [], .carriageFill 287 zeros32, .carriageFill 0 [], .carriageAnswer 287 zeros32,
    .carriageAnswer 0 [], .carriageControl 287 zeros32, .carriageControl 0 [], .carriageSave 287 zeros32, .carriageSave 0 [], .carriageError 287 zeros32,
    .carriageError 0 [], .dramScrub 12, .fabDropFold 287, .drmEccFold 12, .roleWrite 16 false 0, .roleWrite 0 false 16, .flaPgmodeService 16 0,
    .flaPgmodeService 0 256, .flaPgmodeRecovery 16 0, .flaPgmodeRecovery 0 256] : List Instr).all (fun c => !c.wf) = true := by decide

theorem test_illFormed_3 : ([.flaPgmodeTest 16 0, .flaPgmodeTest 0 256, .recoveryRawProgram ⟨1024, 0, 0, 0, 0⟩ [], .recoveryRawProgram ⟨0, 4, 0, 0, 0⟩ [],
    .recoveryRawProgram ⟨0, 0, 4096, 0, 0⟩ [], .recoveryRawProgram ⟨0, 0, 0, 512, 0⟩ [], .recoveryRawProgram ⟨0, 0, 0, 0, 4⟩ [], .drmTestWritePath 12 0 0,
    .drmTestWritePath 0 256 0, .drmTestWritePath 0 0 4, .drmTestRawRead 12 0 false, .drmTestRawRead 0 256 false, .registerWrite .stgYoke 287 0,
    .routeLoad ⟨65536, 0⟩ 0 0 false 0 [], .routeLoad ⟨0, 65536⟩ 0 0 false 0 [], .routeLoad ⟨0, 0⟩ 128 0 false 0 [], .routeLoad ⟨0, 0⟩ 0 32 false 0 [],
    .routeLoad ⟨0, 0⟩ 0 0 false (2 ^ 64) [], .routeLoadExtent ⟨65536, 0⟩ 0 0 0 0 0, .routeLoadExtent ⟨0, 65536⟩ 0 0 0 0 0,
    .routeLoadExtent ⟨0, 0⟩ 128 0 0 0 0, .routeLoadExtent ⟨0, 0⟩ 0 32 0 0 0, .routeLoadExtent ⟨0, 0⟩ 0 0 (2 ^ 32) 0 0,
    .routeLoadExtent ⟨0, 0⟩ 0 0 0 (2 ^ 64) 0, .routeLoadExtent ⟨0, 0⟩ 0 0 0 0 (2 ^ 32), .run ⟨65536, 0⟩ 0 0 [], .run ⟨0, 65536⟩ 0 0 [],
    .run ⟨0, 0⟩ 128 0 []] : List Instr).all (fun c => !c.wf) = true := by decide

theorem test_illFormed_4 : ([.run ⟨0, 0⟩ 0 32 [], .passStart 128, .runComplete 128, .opMatmul 128 0, .opMatmul 0 (2 ^ 32), .opBmatmul 128 0, .opBmatmul 0 (2 ^ 32), .opAdd 128 0,
    .opAdd 0 (2 ^ 32), .opSub 128 0, .opSub 0 (2 ^ 32), .opMul 128 0, .opMul 0 (2 ^ 32), .opDiv 128 0, .opDiv 0 (2 ^ 32), .opFma 128 0, .opFma 0 (2 ^ 32),
    .opMax 128 0, .opMax 0 (2 ^ 32), .opMin 128 0, .opMin 0 (2 ^ 32), .opCmp 128 0, .opCmp 0 (2 ^ 32), .opSelect 128 0, .opSelect 0 (2 ^ 32),
    .opUnary 128 0, .opUnary 0 (2 ^ 32), .opGated 128 0] : List Instr).all (fun c => !c.wf) = true := by decide

theorem test_illFormed_5 : ([.opGated 0 (2 ^ 32), .opReduce 128 0, .opReduce 0 (2 ^ 32), .opSoftmax 128 0, .opSoftmax 0 (2 ^ 32), .opLayernorm 128 0, .opLayernorm 0 (2 ^ 32),
    .opRmsnorm 128 0, .opRmsnorm 0 (2 ^ 32), .opAttention 128 0, .opAttention 0 (2 ^ 32), .opRope 128 0, .opRope 0 (2 ^ 32), .opRotate 128 0,
    .opRotate 0 (2 ^ 32), .opQuant 128 0, .opQuant 0 (2 ^ 32), .opDequant 128 0, .opDequant 0 (2 ^ 32), .opConvert 128 0, .opConvert 0 (2 ^ 32),
    .opDist 128 0, .opDist 0 (2 ^ 32), .opCodeDist 128 0, .opCodeDist 0 (2 ^ 32), .opTopk 128 0, .opTopk 0 (2 ^ 32), .opGather 128 0] : List Instr).all (fun c => !c.wf) = true := by decide

theorem test_illFormed_6 : ([.opGather 0 (2 ^ 32), .opPut 128 0, .opPut 0 (2 ^ 32), .opFilter 128 0, .opFilter 0 (2 ^ 32), .opScanRead 128 0, .opScanRead 0 (2 ^ 32),
    .opNsRead 128 0, .opNsRead 0 (2 ^ 32), .opNsWrite 128 0, .opNsWrite 0 (2 ^ 32), .opEmit 128 0, .opEmit 0 (2 ^ 32), .opAccum 128 0, .opAccum 0 (2 ^ 32),
    .stagedWriteEnterBuffer 128, .timetableResume 128, .emitResume 128, .waitLapse 256 0 .hop, .waitLapse 0 64 .hop, .openReadLapse 1024 0,
    .unitLeavesService ⟨256, 0⟩, .unitLeavesService ⟨1, 2 ^ 24⟩, .sessionOpen ⟨65536, 0⟩ 0 [], .sessionOpen ⟨0, 65536⟩ 0 [], .sessionOpen ⟨0, 0⟩ 256 [],
    .sessionOpenReclaim ⟨65536, 0⟩ 0 0 0, .sessionOpenReclaim ⟨0, 65536⟩ 0 0 0] : List Instr).all (fun c => !c.wf) = true := by decide

theorem test_illFormed_7 : ([.sessionOpenReclaim ⟨0, 0⟩ 256 0 0, .sessionOpenReclaim ⟨0, 0⟩ 0 128 0, .sessionOpenReclaim ⟨0, 0⟩ 0 0 (2 ^ 64), .granuleZeroingComplete 128,
    .sessionCloseDrain ⟨65536, 0⟩ 0, .sessionCloseDrain ⟨0, 65536⟩ 0, .sessionCloseDrain ⟨0, 0⟩ 128, .sessionCloseAbort ⟨65536, 0⟩ 0,
    .sessionCloseAbort ⟨0, 65536⟩ 0, .sessionCloseAbort ⟨0, 0⟩ 128, .sessionFree 128, .quotaSet ⟨65536, 0⟩ 0 [], .quotaSet ⟨0, 65536⟩ 0 [],
    .quotaSet ⟨0, 0⟩ 128 [], .quotaSetTeamsReplace 128, .sliceEnd 16, .switchDeferLimit 16, .partitionSwitch 16, .switchRestoreComplete 16,
    .reclaimWindowExpiry 128, .query ⟨65536, 0⟩ 0 [], .query ⟨0, 65536⟩ 0 [], .query ⟨0, 0⟩ 128 [], .peerAnswerFetch 0 (2 ^ 16) none,
    .indexBuild ⟨65536, 0⟩ 0 0 false, .indexBuild ⟨0, 65536⟩ 0 0 false, .indexBuild ⟨0, 0⟩ 128 0 false, .indexBuild ⟨0, 0⟩ 0 (2 ^ 32) false] : List Instr).all (fun c => !c.wf) = true := by decide

theorem test_illFormed_8 : ([.buildEnd (2 ^ 32) ⟨3, 0, [], [], 0⟩, .indexSwitch ⟨65536, 0⟩ 0 0, .indexSwitch ⟨0, 65536⟩ 0 0, .indexSwitch ⟨0, 0⟩ 128 0,
    .indexSwitch ⟨0, 0⟩ 0 (2 ^ 32), .generationSwitch (2 ^ 32), .generationFree (2 ^ 32) 0, .generationFree 0 (2 ^ 16), .codeLayerReload (2 ^ 32) 0,
    .codeLayerReload 0 (2 ^ 16), .peerSet ⟨65536, 0⟩ [] [], .peerSet ⟨0, 65536⟩ [] [], .scan ⟨65536, 0⟩ 0 [], .scan ⟨0, 65536⟩ 0 [], .scan ⟨0, 0⟩ 128 [],
    .fetch ⟨65536, 0⟩ 0 0 false false 0 0 0, .fetch ⟨0, 65536⟩ 0 0 false false 0 0 0, .fetch ⟨0, 0⟩ 128 0 false false 0 0 0,
    .fetch ⟨0, 0⟩ 0 4 false false 0 0 0, .fetch ⟨0, 0⟩ 0 0 false false (2 ^ 64) 0 0, .fetch ⟨0, 0⟩ 0 0 false false 0 (2 ^ 64) 0,
    .fetch ⟨0, 0⟩ 0 0 false false 0 0 (2 ^ 32), .write ⟨65536, 0⟩ 0 0 0 0 false [], .write ⟨0, 65536⟩ 0 0 0 0 false [],
    .write ⟨0, 0⟩ (2 ^ 32) 0 0 0 false [], .write ⟨0, 0⟩ 0 (2 ^ 64) 0 0 false [], .write ⟨0, 0⟩ 0 0 (2 ^ 16) 0 false [], .write ⟨0, 0⟩ 0 0 0 16 false []] : List Instr).all (fun c => !c.wf) = true := by decide

theorem test_illFormed_9 : ([.writeLocate ⟨65536, 0⟩ 0 0 0 0 none [], .writeLocate ⟨0, 65536⟩ 0 0 0 0 none [], .writeLocate ⟨0, 0⟩ (2 ^ 32) 0 0 0 none [],
    .writeLocate ⟨0, 0⟩ 0 (2 ^ 64) 0 0 none [], .writeLocate ⟨0, 0⟩ 0 0 (2 ^ 16) 0 none [], .writeLocate ⟨0, 0⟩ 0 0 0 16 none [], .read ⟨65536, 0⟩ 0 0 0 0,
    .read ⟨0, 65536⟩ 0 0 0 0, .read ⟨0, 0⟩ (2 ^ 32) 0 0 0, .read ⟨0, 0⟩ 0 (2 ^ 64) 0 0, .read ⟨0, 0⟩ 0 0 (2 ^ 16) 0, .read ⟨0, 0⟩ 0 0 0 16,
    .readLocator ⟨65536, 0⟩ 0 0 0 0 0 zeros16 false, .readLocator ⟨0, 65536⟩ 0 0 0 0 0 zeros16 false, .readLocator ⟨0, 0⟩ (2 ^ 32) 0 0 0 0 zeros16 false,
    .readLocator ⟨0, 0⟩ 0 (2 ^ 64) 0 0 0 zeros16 false, .readLocator ⟨0, 0⟩ 0 0 (2 ^ 16) 0 0 zeros16 false, .readLocator ⟨0, 0⟩ 0 0 0 16 0 zeros16 false,
    .readLocator ⟨0, 0⟩ 0 0 0 0 (2 ^ 32) zeros16 false, .readLocator ⟨0, 0⟩ 0 0 0 0 0 [] false, .flush ⟨65536, 0⟩ 0, .flush ⟨0, 65536⟩ 0,
    .flush ⟨0, 0⟩ (2 ^ 32), .writeZeroes ⟨65536, 0⟩ 0 0 0 0, .writeZeroes ⟨0, 65536⟩ 0 0 0 0, .writeZeroes ⟨0, 0⟩ (2 ^ 32) 0 0 0,
    .writeZeroes ⟨0, 0⟩ 0 (2 ^ 64) 0 0, .writeZeroes ⟨0, 0⟩ 0 0 (2 ^ 16) 0] : List Instr).all (fun c => !c.wf) = true := by decide

theorem test_illFormed_10 : ([.writeZeroes ⟨0, 0⟩ 0 0 0 16, .datasetManagement ⟨65536, 0⟩ 0 false 0 [], .datasetManagement ⟨0, 65536⟩ 0 false 0 [],
    .datasetManagement ⟨0, 0⟩ (2 ^ 32) false 0 [], .datasetManagement ⟨0, 0⟩ 0 false 256 [], .leafLoadComplete 256 0 false,
    .leafLoadComplete 0 (2 ^ 32) false, .gcCopy 256 0, .gcCopy 0 (2 ^ 40), .gcVerify 256 0 false, .gcVerify 0 (2 ^ 40) false, .superblockErase (2 ^ 16),
    .superblockCloseVerify (2 ^ 16) [] [], .patrolVerify (2 ^ 24) .pass [], .icreq 0 (2 ^ 16) false false, .rdmaConnectRequest 0 (2 ^ 16),
    .connect ⟨65536, 0⟩ 0 ⟨false, 0, 32, 0xFFFF, 1, [], 1000⟩, .connect ⟨0, 65536⟩ 0 ⟨false, 0, 32, 0xFFFF, 1, [], 1000⟩,
    .connect ⟨0, 0⟩ 0 ⟨false, 65536, 32, 0xFFFF, 1, [], 1000⟩, .connect ⟨0, 0⟩ 0 ⟨false, 0, 65537, 0xFFFF, 1, [], 1000⟩,
    .connect ⟨0, 0⟩ 0 ⟨false, 0, 32, 65536, 1, [], 1000⟩, .connect ⟨0, 0⟩ 0 ⟨false, 0, 32, 0xFFFF, 1, [], 2 ^ 32⟩, .propertyGet ⟨65536, 0⟩ 0,
    .propertyGet ⟨0, 65536⟩ 0, .propertyGet ⟨0, 0⟩ (2 ^ 64), .ccEnableClear ⟨65536, 0⟩, .ccEnableClear ⟨0, 65536⟩,
    .ccShutdownNotification ⟨65536, 0⟩ false] : List Instr).all (fun c => !c.wf) = true := by decide

theorem test_illFormed_11 : ([.ccShutdownNotification ⟨0, 65536⟩ false, .disconnect ⟨65536, 0⟩, .disconnect ⟨0, 65536⟩, .controllerEnd (2 ^ 16), .keepAlive ⟨65536, 0⟩,
    .keepAlive ⟨0, 65536⟩, .keepAliveExpiry (2 ^ 16), .identify ⟨65536, 0⟩ 0 0, .identify ⟨0, 65536⟩ 0 0, .identify ⟨0, 0⟩ 256 0,
    .identify ⟨0, 0⟩ 0 (2 ^ 32), .getLogPage ⟨65536, 0⟩ 0 0 0 0 false, .getLogPage ⟨0, 65536⟩ 0 0 0 0 false, .getLogPage ⟨0, 0⟩ 256 0 0 0 false,
    .getLogPage ⟨0, 0⟩ 0 (2 ^ 32) 0 0 false, .getLogPage ⟨0, 0⟩ 0 0 (2 ^ 64) 0 false, .getLogPage ⟨0, 0⟩ 0 0 0 (2 ^ 32) false,
    .getLogPageEventLog ⟨65536, 0⟩ 0 0 false, .getLogPageEventLog ⟨0, 65536⟩ 0 0 false, .getLogPageEventLog ⟨0, 0⟩ (2 ^ 64) 0 false,
    .getLogPageEventLog ⟨0, 0⟩ 0 (2 ^ 32) false, .getLogPageHealth ⟨65536, 0⟩ 0 0 false, .getLogPageHealth ⟨0, 65536⟩ 0 0 false,
    .getLogPageHealth ⟨0, 0⟩ (2 ^ 64) 0 false, .getLogPageHealth ⟨0, 0⟩ 0 (2 ^ 32) false, .getLogPageFuses ⟨65536, 0⟩ 0 0 false,
    .getLogPageFuses ⟨0, 65536⟩ 0 0 false, .getLogPageFuses ⟨0, 0⟩ (2 ^ 64) 0 false] : List Instr).all (fun c => !c.wf) = true := by decide

theorem test_illFormed_12 : ([.getLogPageFuses ⟨0, 0⟩ 0 (2 ^ 32) false, .getLogPageTopology ⟨65536, 0⟩ 0 0 false, .getLogPageTopology ⟨0, 65536⟩ 0 0 false,
    .getLogPageTopology ⟨0, 0⟩ (2 ^ 64) 0 false, .getLogPageTopology ⟨0, 0⟩ 0 (2 ^ 32) false, .getLogPageTimetable ⟨65536, 0⟩ 0 0 0 0 false,
    .getLogPageTimetable ⟨0, 65536⟩ 0 0 0 0 false, .getLogPageTimetable ⟨0, 0⟩ 128 0 0 0 false, .getLogPageTimetable ⟨0, 0⟩ 0 (2 ^ 16) 0 0 false,
    .getLogPageTimetable ⟨0, 0⟩ 0 0 (2 ^ 64) 0 false, .getLogPageTimetable ⟨0, 0⟩ 0 0 0 (2 ^ 32) false, .getFeatures ⟨65536, 0⟩ 0 0,
    .getFeatures ⟨0, 65536⟩ 0 0, .getFeatures ⟨0, 0⟩ 256 0, .getFeatures ⟨0, 0⟩ 0 8, .setFeatures ⟨65536, 0⟩ 0 false 0, .setFeatures ⟨0, 65536⟩ 0 false 0,
    .setFeatures ⟨0, 0⟩ 256 false 0, .setFeatures ⟨0, 0⟩ 0 false (2 ^ 32), .setFeaturesYoke ⟨65536, 0⟩ false 0, .setFeaturesYoke ⟨0, 65536⟩ false 0,
    .setFeaturesTimeSlice ⟨65536, 0⟩ false 0, .setFeaturesTimeSlice ⟨0, 65536⟩ false 0, .setFeaturesDirtyCap ⟨65536, 0⟩ false 0,
    .setFeaturesDirtyCap ⟨0, 65536⟩ false 0, .setFeaturesDeadlinePolicy ⟨65536, 0⟩ false 0, .setFeaturesDeadlinePolicy ⟨0, 65536⟩ false 0,
    .setFeaturesReclaimWindow ⟨65536, 0⟩ false 0] : List Instr).all (fun c => !c.wf) = true := by decide

theorem test_illFormed_13 : ([.setFeaturesReclaimWindow ⟨0, 65536⟩ false 0, .asyncEventRequest ⟨65536, 0⟩, .asyncEventRequest ⟨0, 65536⟩, .abort ⟨65536, 0⟩ 0, .abort ⟨0, 65536⟩ 0,
    .abort ⟨0, 0⟩ (2 ^ 16), .invalidOpcode ⟨65536, 0⟩ false 0, .invalidOpcode ⟨0, 65536⟩ false 0, .invalidOpcode ⟨0, 0⟩ false 256,
    .namespaceCreate ⟨65536, 0⟩ 0 0 0 [], .namespaceCreate ⟨0, 65536⟩ 0 0 0 [], .namespaceCreate ⟨0, 0⟩ 256 0 0 [],
    .namespaceCreate ⟨0, 0⟩ 0 (2 ^ 64) 0 [], .namespaceCreate ⟨0, 0⟩ 0 0 (2 ^ 64) [], .namespaceDelete ⟨65536, 0⟩ 0, .namespaceDelete ⟨0, 65536⟩ 0,
    .namespaceDelete ⟨0, 0⟩ (2 ^ 32), .namespaceDeleteEffect (2 ^ 32), .namespaceDeleteComplete (2 ^ 32), .formatNvm ⟨65536, 0⟩ 0 0 0 0 0,
    .formatNvm ⟨0, 65536⟩ 0 0 0 0 0, .formatNvm ⟨0, 0⟩ (2 ^ 32) 0 0 0 0, .formatNvm ⟨0, 0⟩ 0 64 0 0 0, .formatNvm ⟨0, 0⟩ 0 0 8 0 0,
    .formatNvm ⟨0, 0⟩ 0 0 0 8 0, .formatNvm ⟨0, 0⟩ 0 0 0 0 2, .formatEffect (2 ^ 32), .formatNvmFull ⟨65536, 0⟩] : List Instr).all (fun c => !c.wf) = true := by decide

theorem test_illFormed_14 : ([.formatNvmFull ⟨0, 65536⟩, .securitySetPassword ⟨65536, 0⟩ [], .securitySetPassword ⟨0, 65536⟩ [], .securityLock ⟨65536, 0⟩ [],
    .securityLock ⟨0, 65536⟩ [], .securityUnlock ⟨65536, 0⟩ [], .securityUnlock ⟨0, 65536⟩ [], .securityReceiveLockState ⟨65536, 0⟩ 0 0,
    .securityReceiveLockState ⟨0, 65536⟩ 0 0, .securityReceiveLockState ⟨0, 0⟩ (2 ^ 32) 0, .securityReceiveLockState ⟨0, 0⟩ 0 (2 ^ 32),
    .securityReceiveSessionKey ⟨65536, 0⟩ 0 0, .securityReceiveSessionKey ⟨0, 65536⟩ 0 0, .securityReceiveSessionKey ⟨0, 0⟩ 128 0,
    .securityReceiveSessionKey ⟨0, 0⟩ 0 (2 ^ 32), .spdmGetVersion ⟨65536, 0⟩, .spdmGetVersion ⟨0, 65536⟩, .spdmGetCapabilities ⟨65536, 0⟩,
    .spdmGetCapabilities ⟨0, 65536⟩, .spdmNegotiateAlgorithms ⟨65536, 0⟩, .spdmNegotiateAlgorithms ⟨0, 65536⟩, .spdmGetDigests ⟨65536, 0⟩,
    .spdmGetDigests ⟨0, 65536⟩, .spdmGetCertificate ⟨65536, 0⟩ 0 0 0, .spdmGetCertificate ⟨0, 65536⟩ 0 0 0, .spdmGetCertificate ⟨0, 0⟩ 256 0 0,
    .spdmGetCertificate ⟨0, 0⟩ 0 (2 ^ 64) 0, .spdmChallenge ⟨65536, 0⟩ 0 []] : List Instr).all (fun c => !c.wf) = true := by decide

theorem test_illFormed_15 : ([.spdmChallenge ⟨0, 65536⟩ 0 [], .spdmChallenge ⟨0, 0⟩ 256 [], .spdmGetMeasurements ⟨65536, 0⟩ 0 [], .spdmGetMeasurements ⟨0, 65536⟩ 0 [],
    .spdmGetMeasurements ⟨0, 0⟩ 256 [], .fuseRead [8192], .bankMeasureComplete 1024, .componentRestart 8 0, .componentRestart 0 256,
    .componentRestartComplete 8 false, .mainWatchdogExpiry 18, .fallbackWatchdogExpiry 18, .errorRaise .note ⟨256, 0⟩, .errorRaise .note ⟨1, 2 ^ 24⟩,
    .peerConnectionLoss 128 (1, 0), .peerConnectionLoss 0 (2 ^ 32, 0), .peerConnectionLoss 0 (1, 2 ^ 16), .pfcPauseFrame 8 false, .ccEnableSet ⟨65536, 0⟩, .ccEnableSet ⟨0, 65536⟩,
    .configBusTransfer false (2 ^ 26) 0 []] : List Instr).all (fun c => !c.wf) = true := by decide

theorem test_illFormed_long (c p : Bytes) (hc : c.length = 289) (hp : p.length = 257) :
    Instr.wf (.carriageWrite 0 c) = false ∧
    Instr.wf (.carriageRead 0 c) = false ∧
    Instr.wf (.carriageReply 0 c) = false ∧
    Instr.wf (.carriageWriteAck 0 c) = false ∧
    Instr.wf (.carriageSeat 0 c) = false ∧
    Instr.wf (.carriageFill 0 c) = false ∧
    Instr.wf (.carriageAnswer 0 c) = false ∧
    Instr.wf (.carriageControl 0 c) = false ∧
    Instr.wf (.carriageSave 0 c) = false ∧
    Instr.wf (.carriageError 0 c) = false ∧
    Instr.wf (.carriageSend 0 ⟨0, 0, 1, 0, 0, 0, 0, false, true, p⟩) = false := by
  simp [Instr.wf, CarriageReq.wf, carriageWf, below, hc, hp]
/-! ### States that meet the statements' hypotheses -/

def tag : Tag := ⟨1, 7⟩

/-- An enabled controller. -/
def host : Ctrl :=
  { id := 1, discovery := false, conn := 1, hostId := 5, hostNqn := [], kato := 1000, adminDepth := 32, queues := [], granted := 64, enabled := true, shst := 0, aers := []
    evCfg := 0, masked := [], held := [], alive := 0, changedNs := [] }

def phases : Phases := ⟨true, true, true, true, true, true, true, true, true, true, true, true, true, true, true, true⟩

/-- A small machine in service: one controller, one die, two DRAM packages. -/
def up : State := { State.reset with
  stg := { loaded := true, stage := 100 }
  clk := { pllLocked := true, core := ⟨true, none, none⟩, flash := ⟨true, none, none⟩, dram := ⟨true, none, none⟩ }
  drm := { present := [0, 1] }
  fla := { channels := [0], dies := [0] }
  pwr := { standby := true, rails := true, bank := .ready, vbank := 550, prot := false, cap := 256, measured := true }
  port := { width := 3, conns := [1], ipv4 := 1, ipv6 := 2 }
  que := { ctrls := [host] }
  boot := { mode := .ready, ph := phases } }

/-- A session that is open to the controller. -/
def sess1 : Session :=
  { num := 1, st := .opened, key := 77, hostId := 5, ctrl := 1, quota := { grants := [(1, 2), (2, 2)] }, part := none, ranges := [], peerWait := 512, hopRetries := 2, strict := false
    window := 60, windowStart := none, zeroing := [], quotaWait := [], closing := none, held := [], routes := [], partials := [], cache := [], run := none, queued := []
    search := none, queries := [], scans := [], builds := [], peerSets := [], save := {}, debt := 0 }

/-- A block namespace of 16 blocks. -/
def ns1 : Ns :=
  { nsid := 1, kind := .block, stolrak := false, lba := 4096, size := 65536, charge := 1, records := 0, idColumn := 255, rowBytes := 0, columns := [], vec := {}, capacity := 0
    created := 0, key := 1, gens := [], lastGen := 0, lock := {}, lockNext := none, readOnly := false, deleting := none, formatting := none, switching := none }

def withSess (x : Session) (s : State) : State := { s with ses := { s.ses with list := [x] } }
def withNs (n : Ns) (s : State) : State := { s with ns := { s.ns with list := [n] } }
def withStg (f : Stg → Stg) (s : State) : State := { s with stg := f s.stg }
def inUse : State := withNs ns1 (withSess sess1 up)

/-- Hypotheses of the statements on admitted commands and on commands of a session. -/
theorem test_admits : Admits tag host up ∧ Admits tag host inUse ∧ AdmitsSess tag host 1 sess1 inUse := by
  refine ⟨⟨by decide, rfl, rfl, rfl, by decide, rfl⟩, ⟨by decide, rfl, rfl, rfl, by decide, rfl⟩, ⟨by decide, rfl, rfl, rfl, by decide, rfl⟩, by decide⟩

theorem up_sound : Sound up := by
  refine ⟨⟨by decide, by decide⟩, ⟨by decide, by decide⟩, by decide, by decide, by decide, by decide, List.Pairwise.nil⟩

/-- O2, O4 to O9: an empty queue; a sound state from which a command and a step answer a next state, one of them a boundary with power. -/
theorem test_generalHypotheses : State.reset.pending = [] ∧ Sound up ∧ up.powered = true ∧ (∃ t, exec (.frameDrop 1) up = .next t) ∧ (∃ t, exec (.stageBoundary smp) up = .next t) ∧
    ∃ t, step { up with pending := [.frameDrop 1] } = .next t := ⟨rfl, up_sound, rfl, ⟨_, rfl⟩, ⟨_, rfl⟩, ⟨_, rfl⟩⟩

/-! #### Stage unit, clocks and registers -/

def master1 : PtpAnnounce := ⟨0, 128, 6, 0, 0, 128, 9, 1⟩
def synced : State := withStg (fun g => { g with master := some master1 }) up
def sync1 (offset : Int) (stage : Nat) : PtpSync := ⟨0, -3, 9, 4, 10, (stage * 8200 + offset).toNat⟩

theorem test_syncHypotheses : synced.syncCounts (sync1 0 100) = true ∧ synced.syncCounts { sync1 0 100 with domain := 1 } = false ∧
    synced.stg.syncPending ≠ some ((sync1 0 100).master, (sync1 0 100).seq) ∧
    (withStg (fun g => { g with syncPending := some (9, 4) }) synced).syncCounts (sync1 0 100) = true := by decide

/-- Each state of the yoke, at the ends of the ranges of offset, run and gap. -/
theorem test_yokeHypotheses : ∀ y ∈ [Yoke.disabled, .free, .acquiring, .yoked, .holdover, .behind], ∀ k ∈ [0, 3, 14, 15], ∀ o ∈ [(-2001 : Int), -2000, -500, 0, 500, 501, 2000], ∀ p ∈ [99, 100, 101],
    let s := withStg (fun g => { g with yoke := y, okRun := k, farRun := k }) synced
    s.syncCounts (sync1 o p) = true ∧ s.stg.yokeNext = [] ∧ boundaryOffset (s.ptpBoundary (sync1 o p)) = o ∧ nearestStage (s.ptpBoundary (sync1 o p)) = p := by decide +kernel

theorem test_announceHypotheses : up.ptpTakes master1.domain = true ∧ up.stg.master = none ∧ synced.ptpTakes 0 = true ∧
    lexLt (announceKey { master1 with priority1 := 1, identity := 8 }) (announceKey master1) = true ∧
    lexLt (announceKey { master1 with priority1 := 200, identity := 8 }) (announceKey master1) = false ∧ (5 : Nat) ≠ synced.stg.ptpDomain ∧
    (withStg (fun g => { g with delayPending := some 3 }) synced).servoRuns = true ∧ synced.stg.master.isSome = true := by decide

theorem test_silenceHypotheses : (∀ y ∈ [Yoke.disabled, .free, .acquiring, .yoked, .holdover, .behind],
      (withStg (fun g => { g with yoke := y }) up).powered = true ∧ (withStg (fun g => { g with yoke := y }) up).stg.yokeSoon = y) ∧
    (∀ m ∈ [Mode.bringUp, .diagnostic], let s : State := { up with stg := { policy := 1 }, boot := { mode := m }, port := { passDone := true } }
     s.powered = true ∧ (s.boot.mode = .bringUp ∨ s.boot.mode = .diagnostic) ∧ s.port.passDone = true ∧ s.stg.policy = 1 ∧ s.stg.loaded = false) := by decide

/-- A change that is due at the next boundary. -/
theorem test_yokeDue : ∀ y ∈ [Yoke.free, .acquiring, .yoked, .holdover, .behind], let s := withStg (fun g => { g with yokeNext := [y] }) up
    s.stg.loaded = true ∧ s.stg.yokeNext = [y] ∧ s.stg.yoke ≠ y ∧ (s.pwr.standby && s.pwr.rails) = true := by decide

theorem test_yokeDueSound : Sound (withStg (fun g => { g with yokeNext := [.free] }) up) := up_sound

def withClk (f : Clk → Clk) (s : State) : State := { s with clk := f s.clk }

/-- Domains with a switch pending, without one and with all to switch; rails off. -/
theorem test_boundaryHypotheses : Sound up ∧ up.powered = true ∧ up.clk.core.target = none ∧ up.clk.core.want = none ∧
    (withClk (fun c => { c with core := ⟨true, some false, none⟩ }) up).clk.core = ⟨true, some false, none⟩ ∧
    (withClk (fun c => { c with core := ⟨true, none, some false⟩ }) up).clk.core.root ≠ false ∧
    (State.reset.pwr.standby && State.reset.pwr.rails) = false := ⟨up_sound, by decide⟩

theorem test_jumpHypotheses : (let s := withStg (fun g => { g with jump := some 5 }) up
    s.stg.jump = some 5 ∧ s.powered = true ∧ s.stg.loaded = true ∧ s.stg.yokeNext = []) ∧ up.stg.jump = none ∧
    (withStg (fun g => { g with jump := some 5, yokeNext := [.free] }) up).stg.yokeNext ≠ [] := by decide

/-- Bring-up past replay. -/
def starting : State := { up with stg := {}, boot := { mode := .bringUp, ph := { phases with stamp := false, work := false } } }

theorem test_stampStartHypotheses : starting.starting = true ∧ starting.boot.ph.replay = true ∧ starting.stg.loaded = false ∧ starting.startValue = some (2 ^ 24) ∧ starting.fwc.early = [] ∧
    starting.stg.policy = 0 ∧ (let s := withStg (fun g => { g with policy := 1, lockedInWait := true, ptpCount := some 7 }) starting
      s.starting = true ∧ s.highest < 7 ∧ (7 : Nat) ≤ 2 ^ 50 - 1) := by decide

theorem starting_sound : Sound starting := by
  refine ⟨⟨by decide, by decide⟩, ⟨by decide, by decide⟩, by decide, by decide, by decide, by decide, List.Pairwise.nil⟩

theorem test_pllHypotheses : (let s := withClk (fun c => { c with pllLocked := false }) up
      s.powered = true ∧ s.boot.ph.fuses = true ∧ s.clk.relockTries = none ∧ s.clk.failed = false) ∧
    up.clk.pllLocked = true ∧ up.clk.dividersPending = false ∧ up.clk.core = { root := !false, target := none, want := none } ∧
    (withClk (fun c => { c with core := ⟨false, none, none⟩ }) up).clk.core = { root := !true, target := none, want := none } ∧
    (∀ n ∈ [1, 2, 3], (withClk (fun c => { c with relockTries := some n }) up).pwr.seq = .none) ∧
    ({ up with pwr := { up.pwr with seq := .quiesce } } : State).pwr.seq ≠ .none := by decide

/-- Each register at the last unit it has, and at one past it. -/
theorem test_registerHypotheses : up.powered = true ∧ (255 : Nat) < 256 ∧ (286 : Nat) < 287 ∧ (191 : Nat) < 192 ∧ (11 : Nat) < 12 ∧ (15 : Nat) < 16 ∧ regUnits .coaRole ≤ 256 ∧
    (∀ k ∈ [0, 1, 2, 3], (BitVec.ofNat 32 k).toNat % 4 = k) ∧ bits (BitVec.ofNat 32 0x5C02).toNat 15 8 = 0x5C ∧ bit (BitVec.ofNat 32 0x5C02).toNat 3 = up.rawRead 11 := by decide
/-! #### Coaches, fabric, DRAM and flash -/

def withCoa (f : Coa → Coa) (s : State) : State := { s with coa := f s.coa }
def ctxIn (st : CtxState) : State := withCoa (fun c => { c with ctxs := [(0, { st := st })] }) up

theorem test_coachHypotheses : up.coachRuns 0 = true ∧ up.coachRuns 255 = true ∧ Tab.wf 0 up.coa.regs = true ∧ Tab.wf 0 up.coa.scales = true ∧ Tab.get 0 up.coa.loadEnd 0 = 0 ∧
    Tab.get 0 (withCoa (fun c => { c with loadEnd := [(0, 67)] }) up).coa.loadEnd 0 = 66 + 1 ∧ (∀ f g, VecOp.add ≠ .convert f g) ∧
    ([Fmt.int4, .int8, .e2m1, .e4m3, .e5m2, .bf16, .fp16].all isWeight && [Fmt.bf16, .fp16].all isAct) = true ∧ isWeight .fp32 = false ∧ isAct .fp32 = false := by
  refine ⟨by decide +kernel, by decide +kernel, by decide +kernel, by decide +kernel, by decide +kernel, by decide +kernel, fun _ _ => nofun, by decide +kernel⟩

theorem test_contextHypotheses : ((ctxIn .halted).ctx 0 0).st = .halted ∧ ((ctxIn .waiting).ctx 0 0).st = .waiting ∧ ((ctxIn .waiting).ctx 0 0).replies = 0 ∧
    (∀ k ∈ [CtxState.free, .ready, .waiting], ((ctxIn k).ctx 0 0).st ≠ .halted) ∧ (up.coachSess 0).all (fun n => (up.sess? n).any up.holds) = true ∧
    up.nextReady 0 = none ∧ (ctxIn .ready).nextReady 0 = some 0 ∧
    (∀ n ∈ [3, 4], (Tab.get [] (withCoa (fun c => { c with queues := [(0, List.replicate n (.laneSum 0 0))] }) (ctxIn .ready)).coa.queues 0).length = n) ∧ ((ctxIn .waiting).ctx 0 0).unit = none ∧
    (∀ n ∈ [0, 3], let s := withCoa (fun c => { c with ctxs := [(0, { st := .waiting, unit := some .grid })], queues := [(0, List.replicate n (.laneSum 0 0))] }) up
      (s.ctx 0 0).unit = some .grid ∧ s.queued 0 .grid < 4) := by decide +kernel

theorem test_sendHypotheses : up.powered = true ∧ up.coachOut 0 = false ∧ relayLeaves 1 0 0 = false ∧ up.routeOrder 0 1 ≠ 2 ∧ up.routeOrder 0 286 ≠ 2 ∧ relayLeaves 0 1 1 = true ∧
    ({ up with fab := { bad := List.range 480 } } : State).routeOrder 0 1 = 2 := by decide +kernel

/-- A carriage of a kind with a payload, stamped now. -/
def carriage (dst src kind flags : Nat) (payload : Bytes) : Bytes := mkCarriage dst src (up.stamp % 2 ^ 32) 0 kind 0 0 flags payload

/-- A machine with one carriage in flight. -/
def sent (st : Nat) (c : Bytes) : State := { up with fab := { flight := [(st, c)] } }

/-- `Arrives` for a carriage in flight, by evaluation. -/
def lands (kind st : Nat) (c : Bytes) : Bool :=
  let s := sent st c
  s.stationRuns st && s.oldestFlight st (wbSrc c) == some (st, c) && wbCrcOk c && wbKind c == kind && kindAccepted st (wbSrc c) kind && decide (wbLength c ≤ 256) &&
    wbRelayDir c != 3 && !carriageStale (wbShort c) (s.stamp % 2 ^ 32) && wbRole c == s.roleStamp st && !s.coachOut st && wbRelayCount c == 0

theorem arrives_of_lands {kind st : Nat} {c : Bytes} (h : lands kind st c = true) : Arrives kind st c (sent st c) := by
  simp only [lands, Bool.and_eq_true, beq_iff_eq, bne_iff_ne, ne_eq, Bool.not_eq_true', decide_eq_true_eq] at h
  obtain ⟨⟨⟨⟨⟨⟨⟨⟨⟨⟨h1, h2⟩, h3⟩, h4⟩, h5⟩, h6⟩, h7⟩, h8⟩, h9⟩, h10⟩, h11⟩ := h
  exact ⟨h1, h2, h3, h4, h5, h6, h7, .inr h8, fun _ => ⟨h9, h10⟩, h11⟩

/-- Each kind of carriage arrives at a station that takes it: coaches at 0 and 255, a DRAM station, a hub, the answer unit. -/
theorem test_arrivals : [(1, 0, carriage 0 1 1 0 [1]), (1, 255, carriage 255 1 1 0 [1]), (1, 256, carriage 256 285 1 0 [1]), (2, 0, carriage 0 1 2 0 (toLe 4 0 ++ toLe 4 256)),
    (2, 256, carriage 256 285 2 0 (toLe 4 0 ++ toLe 4 1)), (3, 0, carriage 0 256 3 16 [1]), (4, 0, carriage 0 256 4 16 []), (5, 0, carriage 0 268 5 16 [1]),
    (6, 268, carriage 268 0 6 0 (zeros 12)), (7, 286, carriage 286 0 7 16 (zeros 16)), (8, 0, carriage 0 285 8 0 []), (9, 0, carriage 0 285 9 0 [1]), (9, 256, carriage 256 0 9 0 [1]),
    (10, 0, carriage 0 1 10 16 (toLe 4 1))].all (fun p => lands p.1 p.2.1 p.2.2) = true := by decide +kernel

/-- What a delivery meets: a wrong CRC, another kind, a stale stamp, another role; a window that refuses and one that takes; a read that
fails; a fill whose stage has come. -/
theorem test_deliveryHypotheses : wbCrcOk (zeros 32) = false ∧ wbKind (carriage 0 1 1 0 []) ≠ 2 ∧ carriageStale 0 (3 * 16384) = true ∧ carriageStale 0 16384 = false ∧
    wbRole (mkCarriage 0 1 (up.stamp % 2 ^ 32) 3 1 0 0 0 []) ≠ up.roleStamp 0 ∧ windowRefuses 257 (carriage 257 285 1 0 [1]) 1 up = true ∧
    windowRefuses 256 (carriage 256 285 1 0 [1]) 1 up = false ∧ packageRefuses 257 (carriage 257 0 9 0 [1]) 1 up = true ∧
    packageRefuses 256 (carriage 256 0 9 0 [1]) 1 up = false ∧ (dramWrite 285 0 [1] up).1 = true ∧ (dramRead 285 0 1 up).1 = some [0] ∧
    (dramRead 285 0 1 { up with drm := { up.drm with check := [(0, 1), (1, 1)] } }).1 = none ∧
    (dramWrite 285 0 [1] { up with drm := { up.drm with check := [(0, 1), (1, 1)] } }).1 = false ∧
    up.coachPart 0 = none ∧ resStage up.stg.stage 100 ≤ up.stg.stage ∧ up.stg.stage < resStage up.stg.stage 101 ∧
    ({ up with coa := { up.coa with role := [(0, 16384)] } } : State).coachPart 0 = some 0 := by
  refine ⟨?_, ?_, ?_, ?_, ?_, ?_, ?_, ?_, ?_, ?_, ?_, ?_, ?_, ?_, ?_, ?_, ?_⟩ <;> decide +kernel

theorem test_firmwareHypotheses : up.powered = true ∧ up.boot.ph.firmware = true ∧ Tab.wf 0 up.coa.role = true ∧ (15 : Nat) < 16 := by decide +kernel

/-- A line that is clean, one with one wrong byte, one that cannot be read. -/
theorem test_scrubHypotheses : Sound up ∧ up.drm.present.contains 1 = true ∧ up.boot.ph.filled = true ∧ up.rawRead 1 = false ∧ Tab.get 0 up.drm.scrub 1 < 2 ^ 30 ∧
    (∀ w, w < 4 → up.lineClass (2 ^ 30) w = .clean) ∧ ({ up with drm := { up.drm with data := [(2 ^ 36, 5)] } } : State).lineClass (2 ^ 30) 0 = .corrected 17 5 ∧
    ({ up with drm := { up.drm with check := [(2 ^ 33, 5)] } } : State).lineClass (2 ^ 30) 0 = .corrected 1 5 ∧
    ({ up with drm := { up.drm with check := [(2 ^ 33, 1), (2 ^ 33 + 1, 1)] } } : State).lineClass (2 ^ 30) 0 = .uncorrectable := by
  refine ⟨up_sound, by decide +kernel, by decide +kernel, by decide +kernel, by decide +kernel, by decide +kernel, by decide +kernel, by decide +kernel, by decide +kernel⟩

theorem test_codeHypotheses : (zeros 16).length = 16 ∧ (1 : Byte) ≠ 0 := by decide +kernel

theorem test_testModeHypotheses : starting.testOpen = true ∧ up.testOpen = false ∧ (0 : Nat) ≠ 0x5C := by decide +kernel

def withFla (f : Fla → Fla) (s : State) : State := { s with fla := f s.fla }
def pageSet : PageSet := ⟨1, 0, 5, 0, 0, [(0, 0, 3)], [0], 90 * 16384, none⟩
/-- A machine with one operation on die 0. -/
def busy (w : DieWork) (ends : Nat) : State := { withFla (fun f => { f with ops := [⟨0, w, 80, ends, false⟩] }) up with xlt := { sets := [pageSet], setId := 2, buf := [⟨0, 3, [], 1, 1, some 1, none⟩] } }

theorem test_dieHypotheses : (∀ w ∈ [DieWork.sense 5 0 [0, 1, 2, 3], .program 1, .erase 5 [0, 3]], ∀ e ∈ [100, 101, 102],
      (busy w e).arrayRuns = true ∧ (busy w e).opOn 0 = some ⟨0, w, 80, e, false⟩) ∧ (up.stg.stage + 1 < 102 ∧ (101 : Nat) ≤ up.stg.stage + 1) ∧
    [0, 1, 2, 3].Nodup ∧ (∀ q ∈ [0, 3], q < 4) ∧ (∀ q ∈ [0, 1, 2, 3], (busy (.sense 5 0 [0, 1, 2, 3]) 101).badUnits 0 5 0 q [.erased, .erased, .erased, .erased] = []) ∧
    ((busy (.program 1) 101).xlt.sets.find? (fun p => p.id == 1) = some pageSet ∧ pageSet.stream ≤ 7 ∧ (busy (.program 1) 101).pwr.seq ≠ .flush ∧
      (busy (.program 1) 101).xlt.shutdowns = [] ∧ Tab.wf unmapped (busy (.program 1) 101).xlt.map = true ∧ (pageSet.units.map fun u => mapKey u.2.1 u.2.2).Nodup ∧
      pageSet.units ≠ [] ∧ (∀ u ∈ pageSet.units, u.1 ∈ pageSet.planes) ∧ (∀ x ∈ (busy (.program 1) 101).xlt.sets, x.id < (busy (.program 1) 101).xlt.setId) ∧
      ∃ b ∈ (busy (.program 1) 101).xlt.buf, b.ns = 0 ∧ b.unit = 3 ∧ b.inSet = some 1) := by decide +kernel

def recovering (step : Nat) : State := withFla (fun f => { f with recov := [⟨⟨0, 0, 5, 0, 0⟩, step, 0, some 2⟩], pgmode := [(0, step)] }) up

theorem test_recoveryHypotheses : (∀ k ∈ [1, 2, 3], (recovering k).powered = true ∧ (recovering k).fla.recov.find? (fun r => hubOf r.word.die == 0) = some ⟨⟨0, 0, 5, 0, 0⟩, k, 0, some 2⟩) ∧
    up.fla.retrySenses ≠ 0 ∧ up.fla.softSenses ≠ 0 ∧ up.dieIn 0 = true ∧ (∀ k ∈ [1, 2, 3], Tab.get 0 (recovering k).fla.pgmode (hubOf 0) = k) := by decide +kernel

/-- A decode that can start, one that takes a sense first, one that waits for a sense and one that waits for its raw read-outs. -/
theorem test_decodeHypotheses : let w : CwAddr := ⟨0, 0, 5, 0, 0⟩; let hit := withFla (fun f => { f with cache := [(0, ⟨5, 0, [.dirty, .clean, .clean, .clean], [{}, {}, {}, {}]⟩)] }) (recovering 1)
    (∀ k ∈ [1, 2, 3], (recovering k).sensing w = false ∧ 2 ≤ (recovering k).seatsLeft (chanOf 0) (recovering k).stg.stage) ∧ (recovering 1).flashClock = true ∧
      (recovering 1).cached w = none ∧ hit.cached w ≠ none ∧ ((recovering 2).queueOp 0 (.sense 5 0 [0]) 4).sensing w = true ∧ ¬8 ≤ (recovering 1).seatsLeft (chanOf 0) up.stg.stage := by
  intro w hit
  refine ⟨?_, ?_, ?_, ?_, ?_, ?_⟩ <;> decide +kernel

/-- A hub whose TEST session has programmed a block, and one whose has not; code words at both ends of the ranges. -/
theorem test_pgmodeHypotheses : (let s := withFla (fun f => { f with testBlocks := [pbKey 0 0 5] }) starting
    (∃ pb ∈ s.fla.testBlocks, hubOf (pbDie pb) = 0) ∧ ¬(∃ pb ∈ s.fla.testBlocks, hubOf (pbDie pb) = 15) ∧ Tab.wf 0 s.fla.pgWish = true ∧ s.boot.mode = .bringUp) ∧
    (∀ a ∈ [(⟨0, 0, 0, 0, 0⟩ : CwAddr), ⟨0, 3, 4095, 511, 3⟩], up.dieIn a.die = true ∧ a.plane < 4 ∧ a.block < 4096 ∧ a.page < 512 ∧ a.cw < 4) ∧ up.flashClock = true := by
  refine ⟨?_, ?_, ?_⟩ <;> decide +kernel

/-- Cells that a raw program would raise are open, in the TEST mode's programs alone. -/
theorem test_rawProgramHypotheses : raisesBit [0x00] [0x01] = true ∧ raisesBit [0xFF] [0x01] = false ∧
    (let a : CwAddr := ⟨0, 0, 5, 0, 0⟩; let s := withFla (fun f => { f with pgmode := [(0, 2)], words := [(cwKey a, { raw := some [] })] }) up;
     raisesBit (rawWord s.fla.words a) (fit 4608 [1]) = true ∧ raisesBit (rawWord up.fla.words a) (fit 4608 [1]) = false ∧
       (recoveryRawProgram a [1] s).freeCtr ≠ s.freeCtr) := by
  refine ⟨?_, ?_, ?_, ?_, ?_⟩ <;> decide +kernel

def openEntry : TtEntry := ⟨0, 0, .dieReadOpen, 1, 1, 0, 1, 0, 0, [], 0⟩
/-- A session whose pass has an open read reserved on die 0 in this stage. -/
def reserving : State := withSess { sess1 with part := some 0, search := some { plan := ⟨[0], 64, 64, [openEntry], []⟩, base := 100, suspended := none, bound := 0, topoGen := 0, routeId := 0, layout := [] } } up

theorem test_openReadHypotheses : reserving.powered = true ∧ (reserving.openOwner 0 100).isSome = true ∧ reserving.fla.openReads = [] := by decide +kernel

/-- A fill of coach 0 for code word 0 of page 0 in block 1 of die 0, at offset 64 of SRAM. -/
def fillData (dest stage : Nat) : Bytes := toLe 2 0 ++ toLe 2 stage ++ toLe 4 (1 * 512) ++ toLe 4 dest ++ toLe 3 0 ++ [0]

def seatEntry : TtEntry := ⟨4, 0, .seatOpen, 1, 3, 0, 1, 0, 0, [], 0⟩

/-- A session that holds coach 0 and has open reads of die 0 reserved in stage 101 and read-out seats of its channel in stage 104. -/
def filling (opened : List OpenRead) : State :=
  let e : TtEntry := { openEntry with stage := 1 }
  let x : Session := { sess1 with part := some 0, search := some { plan := ⟨[0], 64, 64, [e, seatEntry], []⟩, base := 100, suspended := none, bound := 0, topoGen := 0, routeId := 0, layout := [] } }
  let s := withSess x up
  { s with ses := { s.ses with parts := [⟨0, [0], some 1, 0, 1000, none, 0, false⟩] }, coa := { s.coa with role := [(0, 16384)] }
           fla := { s.fla with words := [(cwKey ⟨0, 0, 1, 0, 0⟩, { ns := 0, stamp := 5 })], openReads := opened } }

theorem test_fillHypotheses : let s := filling []
    (∀ e ∈ [101, 104, 105], let c := mkCarriage 268 0 (s.stamp % 2 ^ 32) 0 6 0 7 0 (fillData 64 e)
      let s := { s with fab := { flight := [(268, c)] } }
      Arrives 6 268 c s ∧ s.coachPart 0 = some 0 ∧ s.coachSess 0 = some 1 ∧ s.sess? 1 = s.ses.list.head? ∧ fillWord (wbPayload c) = ⟨0, 0, 1, 0, 0⟩ ∧ s.blockOf ⟨0, 0, 1, 0, 0⟩ 0 = true ∧
      resStage s.stg.stage (field (wbPayload c) 2 2) = e ∧ field (wbPayload c) 8 4 % 2 ^ 21 = 64 ∧ Tab.get 0 s.fla.gen (pbOf ⟨0, 0, 1, 0, 0⟩) = field (wbPayload c) 12 4 % 2 ^ 17) ∧
    s.ses.list.head?.any (fun x => reservedOpen x 0 101 && readQuota x 1 && !reservedOpen x 0 104 && readOutSeats 3 x 0 104 == 1 && readOutSeats 3 x 0 105 == 0) = true ∧
    ∃ o ∈ (filling [{ part := 0, die := 0, stage := 101, readOut := false, fill := none }]).fla.openReads, o.part = 0 ∧ o.readOut = false ∧ o.die = 0 ∧ o.stage = 101 := by
  refine ⟨?_, ?_, ?_⟩
  · intro e he
    simp only [List.mem_cons, List.not_mem_nil, or_false] at he
    rcases he with rfl | rfl | rfl <;>
      exact ⟨⟨by decide +kernel, by decide +kernel, by decide +kernel, by decide +kernel, by decide +kernel, by decide +kernel, by decide +kernel, .inr (by decide +kernel), by decide +kernel, by decide +kernel⟩, by decide +kernel⟩
  · decide +kernel
  · decide +kernel

theorem test_modeHypotheses : starting.powered = true ∧ starting.boot.mode = .bringUp ∧ up.boot.mode ≠ .bringUp ∧ up.boot.mode ≠ .diagnostic ∧ up.dramClock = true ∧ up.flashClock = true ∧
    (15 : Nat) < 16 ∧ (23 : Nat) < 24 ∧ (∃ pb ∈ (withFla (fun f => { f with testBlocks := [5] }) starting).fla.testBlocks, hubOf (pbDie pb) = 0) := by decide +kernel

/-- A matrix instruction of one tile of one row that runs whole, and one that a preemption cuts before its second tile. -/
theorem test_matrixHypotheses : (let i : MatInstr := ⟨1, 64, 64, 0, 0, .bf16, [⟨0, .int8, 0, .none⟩], 0, 0, false⟩
      isAct i.xFmt = true ∧ (∀ l ∈ i.tiles, isWeight l.fmt = true) ∧ 0 < i.m ∧ 0 ≤ 0 * i.m ∧ (0 + 1) * i.m ≤ (i.k / 64) * (i.n / 64) * i.m ∧ Sound up ∧ up.coachRuns 255 = true) ∧
    isAct .fp32 = false ∧ (∃ l ∈ [(⟨0, .int32, 0, .none⟩ : TileLoad)], isWeight l.fmt = false) := by
  refine ⟨⟨by decide, by decide, by decide, by decide, by decide, up_sound, by decide +kernel⟩, by decide, by decide⟩

/-! #### Route images and runs -/

def secEntry (type count off size : Nat) : Bytes := toLe 2 type ++ toLe 2 1 ++ toLe 4 count ++ toLe 8 off ++ toLe 8 size ++ zeros 8
def tensorEntry (fmt place n slot : Nat) : Bytes := [BitVec.ofNat 8 fmt, 1, BitVec.ofNat 8 place, 0] ++ toLe 4 n ++ zeros 12 ++ toLe 4 noTensor ++ zeros 4 ++ toLe 2 slot ++ zeros 34
def opEntry (code : Nat) (ins outs : List Nat) : Bytes :=
  toLe 2 code ++ zeros 4 ++ toLe 1 ins.length ++ toLe 1 outs.length ++ fit 20 (ins.flatMap (toLe 4)) ++ fit 8 (outs.flatMap (toLe 4)) ++ zeros 4 ++ toLe 2 1 ++ zeros 6

/-- An image of four tensors and two operations of one opcode that share one attribute. -/
def imageOf (tensors : List Bytes) (code : Nat) (ins outs : List Nat) (key value : Nat) : Bytes :=
  toLe 4 0x5452424E ++ [0, 1, 0, 0] ++ toLe 8 9 ++ toLe 8 584 ++ toLe 2 3 ++ [1, 16] ++ zeros 100 ++ secEntry 1 4 224 256 ++ secEntry 2 2 480 96 ++ secEntry 5 1 576 8 ++
    tensors.flatten ++ opEntry code ins outs ++ opEntry code ins outs ++ toLe 2 key ++ zeros 2 ++ toLe 4 value

/-- Its tensors: three vectors of two elements, the third of the format given, and a byte tensor in slot 0 of placement NAMESPACE. -/
def image (code : Nat) (ins outs : List Nat) (key value fmt : Nat) : Bytes :=
  imageOf [tensorEntry 0 0 2 0, tensorEntry 0 0 2 0, tensorEntry fmt 0 2 0, tensorEntry 0x13 2 4 0] code ins outs key value

/-- A run block of one slot: the whole of namespace 1. -/
def runBlock : Bytes := zeros 12 ++ toLe 4 1 ++ toLe 2 1 ++ zeros 14 ++ toLe 2 0 ++ toLe 2 2 ++ toLe 4 1 ++ toLe 8 0 ++ toLe 8 16 ++ zeros 8

def route (img : Bytes) : Route := ⟨3, img, 1, [], [], none⟩
/-- A plan of no entries for team 0. -/
def plan1 : TtPlan := ⟨[0], 64, 64, [], []⟩
def table1 (start : Nat) : Timetable := { plan := plan1, base := start, suspended := none, bound := 0, topoGen := 0, routeId := 9, layout := [] }
def run1 (img : Bytes) (next : Option Nat) : Run :=
  { tag := tag, handle := 3, block := runBlock, route := route img, tt := some (table1 100), passes := 1, begun := 1, done := 0, form := some (64, 64), nextStart := 164, rebind := false, nextOp := next, groups := 0
    group := none, tensors := [(0, toLe 4 0x3F800000 ++ toLe 4 0x40000000), (1, toLe 4 0x40000000 ++ toLe 4 0x40400000)], staged := [], halves := [], missed := [], skipped := [], ordinals := [], amax := []
    flags := 0, saturations := 0, fault := 0, faultOp := none, staging := [], stalled := false, emitWait := none }

def part1 : Partition := ⟨0, [0], some 1, 0, 1000, none, 0, false⟩
/-- Session 1 holds its partition and works on the run given. -/
def withRun (r : Run) : State := withNs ns1 (withSess { sess1 with part := some 0, run := some r, quota := { sess1.quota with prot := 1 } } { up with ses := { up.ses with parts := [part1] } })

def computing (code : Nat) : State := withRun (run1 (image code [0, 1] [2] 3 16 0) (some 0))

theorem test_operationHypotheses : (∀ c ∈ [0x0001, 0x0010, 0x0019, 0x0052, 0x0070],
    (computing c).nextOf? 1 0 c = (some ({ sess1 with part := some 0, run := some (run1 (image c [0, 1] [2] 3 16 0) (some 0)), quota := { sess1.quota with prot := 1 } }, run1 (image c [0, 1] [2] 3 16 0) (some 0),
      opOf (opEntry c [0, 1] [2]))) ∧ (computing c).nextOf? 1 1 c = none) := by decide +kernel

/-- 1 + 2 = 3 and 2 + 3 = 5, and the operation after it is next. -/
theorem test_addWritesItsSums : exec (.opAdd 1 0) (computing 0x0010) = .next (runOp 0x0010 opAddF 1 0 (computing 0x0010)) ∧
    ((runOp 0x0010 opAddF 1 0 (computing 0x0010)).run? 1).map (fun p => (Tab.get [] p.2.tensors 2, p.2.nextOp, p.2.fault)) =
      some (toLe 4 0x40400000 ++ toLe 4 0x40A00000, some 1, 0) := ⟨rfl, by decide +kernel⟩

def one : F32 := 0x3F800000
def two : F32 := 0x40000000
/-- Operands 0 and 1 are (1, 2) and (2, 1), the mask of SELECT is tensor 3. -/
def env (ins : List Nat) (key value fmt : Nat) : OpEnv :=
  ⟨image 0x10 ins [2] key value fmt, opOf (opEntry 0x10 ins [2]), [(0, toLe 4 0x3F800000 ++ toLe 4 0x40000000), (1, toLe 4 0x40000000 ++ toLe 4 0x3F800000), (3, [0, 1, 0, 0])], [], [], [], none, []⟩

theorem test_elementwiseHypotheses : (∀ v ∈ [16, 17], (env [0, 1, 0] 3 v 0).attr 3 = some v) ∧ (env [0, 1, 0] 3 16 0).out? 0 = some (2, [2]) ∧
    (env [0, 1, 0] 3 16 0).float? 0 = some ([2], [one, two]) ∧ (env [0, 1, 0] 3 16 0).float? 1 = some ([2], [two, one]) ∧ (env [0, 1, 0] 3 16 0).float? 2 = some ([2], [one, two]) ∧
    arithOut ((env [0, 1, 0] 3 16 0).tensor 2).fmt = true ∧ ((env [0, 1] 0x10 0 0x13).tensor 2).fmt = .byte ∧ (env [0, 1] 0x10 0 0x13).attr 0x10 = some 0 ∧ (cmpOf 0).isSome = true ∧
    (funcOf 16).isSome = true ∧ (opAddF (env [0, 1] 3 16 0)) = some { res := [(2, .vals [0x40400000, 0x40400000])] } := by decide +kernel

def writing (staging : List (Nat × Nat × Nat × Bytes)) : State := withRun { run1 (image 0x63 [0, 3] [] 3 16 0) (some 0) with staging := staging }

/-- NS_WRITE with one and with two copies waiting, its write refused for want of the quota, and data that enter the buffer. -/
theorem test_nsWriteHypotheses : (∀ g ∈ [[], [(0, 0, 0, zeros 8)], [(0, 0, 0, zeros 8), (0, 0, 0, zeros 8)]],
      ((writing g).nextOf? 1 0 0x63).isSome = true ∧ ((writing g).run? 1).map (fun p => (p.2.fault, (opOf (opEntry 0x63 [0, 3] [])).in? 1, (p.2.slot? (imgTensor p.2.route.image 3)).isSome)) = some (0, some 3, true) ∧
      ((writing g).enterGroup 1 0).checkFull.extent ⟨0, 2, 1, 0, 16⟩ = some (ns1, 0, 65536) ∧ ((writing g).enterGroup 1 0).checkFull.nsRefuses sess1 1 = false ∧
      ((writing g).run? 1).map (fun p => let q := (((writing g).enterGroup 1 0).checkFull.opEnv p.1 p.2 (opOf (opEntry 0x63 [0, 3] []))).1; (q.code, q.unknown, skipsOp q.env)) = some (0, false, false)) ∧
    (writing []).nsRefuses { sess1 with quota := {} } 1 = true ∧ (writing [(0, 0, 0, zeros 8)]).powered = true ∧ ((writing []).ns? 1).isSome = true := by
  refine ⟨?_, by decide +kernel, by decide +kernel, by decide +kernel⟩
  decide +kernel

/-- Staged data of two units with room for none, for the first and for both. -/
theorem test_stagedHypotheses : ∀ c ∈ [(4096, 0), (4095, 4), (4094, 8)],
    let s : State := { writing [(0, 0, 0, zeros 32768)] with xlt := { buf := List.replicate c.1 ⟨1, 0, [], 1, 1, some 9, none⟩ }, pwr := { up.pwr with cap := 1 } }
    let ps := s.spanPieces 0 0 (zeros 32768)
    ps.length = 8 ∧ (c.2 = 0 ∨ s.fits (s.newUnits 0 (ps.take c.2)) = true) ∧ ∀ m ∈ [c.2 + 1, c.2 + 2, 8], c.2 < m ∧ m ≤ ps.length → s.fits (s.newUnits 0 (ps.take m)) = false := by decide +kernel

def emitting (wait : Option Nat) : Run :=
  { run1 (imageOf [tensorEntry 0x12 0 2 0, tensorEntry 0 0 2 0, tensorEntry 0x11 0 1 0, tensorEntry 0 0 2 0] 0x64 [0, 1, 2] [] 0x15 5) (some 0) with
    tensors := [(0, zeros 16), (1, zeros 8), (2, toLe 4 2)], emitWait := wait }

/-- EMIT of two items with space for them, without, and with no merge tree free. -/
theorem test_emitHypotheses : ((withRun (emitting none)).nextOf? 1 0 0x64).isSome = true ∧ ((withRun (emitting (some 0))).run? 1).map (fun p => (p.2.emitWait, p.2.fault)) = some (some 0, 0) ∧
    (withRun (emitting none)).freeTree = some 0 ∧ ({ withRun (emitting none) with ans := { trees := (List.range 64).map fun k => (k, ⟨1, 4, 0, 0, 0, [], 0, 0, 0, [], none, none⟩) } } : State).freeTree = none ∧
    ((withRun (emitting none)).run? 1).map (fun p => let q := ((withRun (emitting none)).opEnv p.1 p.2 (imgOp p.2.route.image 0)).1
      (q.code, q.unknown, skipsOp q.env, (emitItems q.env).map List.length, decide (recordBytes 2 0 ≤ protFree p.1))) = some (0, false, false, some 2, true) ∧
    protFree sess1 < recordBytes 2 0 ∧ (emitting none).erred = false ∧ (table1 100).plan.teams.flatMap teamCoaches = List.range 16 ∧
    (withRun (emitting none)).coachIn 0 = true ∧ (withRun (emitting none)).routeOrder 0 286 ≠ 2 := by refine ⟨?_, ?_, ?_, ?_, ?_, ?_, ?_, ?_, ?_, ?_⟩ <;> decide +kernel

/-- ROUTE LOAD and RUN: handles at both ends, pieces whole, first, continuing and misplaced; an image that fails its checks. -/
def loading : State := withNs ns1 (withSess { sess1 with partials := [⟨31, 256, zeros 128⟩], routes := [route (zeros 128)], quota := { sess1.quota with prot := 1 } } up)
def loader : Session := { sess1 with partials := [⟨31, 256, zeros 128⟩], routes := [route (zeros 128)], quota := { sess1.quota with prot := 1 } }

theorem test_loadHypotheses : AdmitsSess tag host 1 loader loading ∧ (31 : Nat) < 32 ∧ imgSize (image 1 [] [] 3 0 0) = 584 ∧ (584 : Nat) ≤ protFree loader ∧ protFree sess1 < 584 ∧
    (image 1 [] [] 3 0 0).length = 584 ∧ loader.partials.find? (fun p => p.handle == 31) = some ⟨31, 256, zeros 128⟩ ∧ loader.partials.find? (fun p => p.handle == 0) = none ∧
    imageCheck (zeros 128) ≠ 0 ∧ loading.ns? 1 = some ns1 ∧ readQuota loader 1 = true ∧ readQuota loader 2 = true ∧ readQuota { loader with quota := {} } 1 = false ∧ ns1.lock.readLock = false ∧
    (0 + 16) * ns1.lba ≤ ns1.size ∧ runBlock.length = 32 + 32 * runSlotCount runBlock ∧ (zeros 31).length < 32 + 32 * runSlotCount (zeros 31) ∧
    (loader.routes.find? fun r => r.handle == 3).isSome = true ∧ loader.routes.find? (fun r => r.handle == 4) = none := by
  refine ⟨⟨⟨by decide, rfl, rfl, rfl, by decide, rfl⟩, by decide⟩, ?_⟩
  decide +kernel

/-! #### Binds, passes, misses -/

def bindOf (w : BindFor) (since waiting : Option Nat) : Bind := { id := 1, sess := 1, what := w, since := since, waiting := waiting }
/-- A SCAN block of no column and one predicate of 8 bytes. -/
def scanBlock : Bytes := zeros 20 ++ toLe 4 8 ++ zeros 40 ++ [8, 0, 0, 0, 0, 0, 0, 1]
def scan1 : Scan := { id := 5, tag := tag, sess := 1, nsid := 1, block := scanBlock, bound := false, tt := none, missed := [(0, 0), (1, 6), (2, 7)], unread := [], slot := 1, ended := false, upTo := 0 }
/-- SCAN_READs, n of them, of as many predicates. -/
def manyScans (n : Nat) : Bytes :=
  zeros 24 ++ toLe 2 3 ++ [1, 16] ++ zeros 100 ++ secEntry 2 n 224 (48 * n) ++ secEntry 4 n (224 + 56 * n) (8 * n) ++ secEntry 5 n (224 + 48 * n) (8 * n) ++
    ((List.range n).flatMap fun i => toLe 2 0x61 ++ zeros 34 ++ toLe 4 i ++ toLe 2 1 ++ zeros 6) ++ ((List.range n).flatMap fun i => toLe 2 14 ++ zeros 2 ++ toLe 4 i) ++
    ((List.range n).flatMap fun i => [8, 0, 0, 0, 0, 0, 0] ++ toLe 1 i)

/-- The session's route run or its scan is to be bound. -/
def binding (b : Bind) (img : Bytes) (taken : Table (Bytes × Nat)) : State := withNs ns1
  (withSess { sess1 with part := some 0, quota := { teams := 1, granules := 3, prot := 1, grants := [(1, 2)] }, run := some { run1 img none with tt := none, begun := 0, form := none }, scans := [scan1] }
    { up with ses := { up.ses with parts := [part1], binds := [b], slots := taken } })
def noSlots : Table (Bytes × Nat) := (List.range 15).map fun k => (k + 1, [], 1)

/-- What of a bind the module finds with a bind's session, a plan and the slots it would take. -/
def found (s : State) (p : Option TtPlan) : Option (Nat × Nat × Bool) :=
  (s.bind? 1).map fun b => (s.bindReason b.1 b.2 p, (State.bindPredicates b.2 b.1.what).length, s.short b.1 b.2)

theorem test_bindHypotheses :
    (∀ q ∈ [(image 0x10 [0, 1] [2] 3 0 0, [], some (0, 0, false)), (manyScans 16, [], some (0, 16, true)), (manyScans 15, noSlots, some (0, 15, true)), (manyScans 15, [], some (0, 15, false))],
      let s := binding (bindOf .route none none) q.1 q.2.1;
      found s none = q.2.2 ∧ s.binderRuns = true ∧ s.fwc.limp = none ∧ (s.bind? 1).map (fun b => (b.1.since, s.rereadImage b.2 == s, s.sess? b.2.num == some b.2)) = some (none, true, true) ∧
        s.ses.binds.takeWhile (fun c => c.id != 1) = []) ∧
    (let s := binding (bindOf (.scan 5) none (some 40)) [] noSlots;
      found s none = some (0, 1, true) ∧ (s.bind? 1).map (fun b => (b.1.waiting, b.1.waited)) = some (some 40, 0) ∧ ¬40 + 1048576 ≤ s.stg.stage) ∧
    (withStg (fun g => { g with stage := 40 + 1048576 }) up).stg.stage = 40 + 1048576 ∧
    ({ binding (bindOf .route none none) [] [] with fwc := { limp := some 5 } } : State).fwc.limp.isSome = true ∧
    (let s := binding (bindOf .route none none) (image 0x10 [0, 1] [2] 3 0 0) noSlots;
      let s := { s with ses := { s.ses with binds := [{ bindOf (.scan 5) none (some 40) with id := 0 }, bindOf .route none none] } };
      (s.ses.binds.takeWhile fun c => c.id != 1).map (fun c => (c.waiting, (s.sess? c.sess).map (s.short c))) = [(some 40, some true)]) := by
  refine ⟨?_, ?_, rfl, rfl, ?_⟩ <;> decide +kernel

/-- A plan for the two additions: coach cycles of team 0 for each. -/
def plan2 : TtPlan := ⟨[0], 64, 64, [⟨0, 0, .coach, 1, 100, 0, 1, 0, 0, [], 0⟩, ⟨1, 0, .coach, 1, 100, 0, 1, 1, 0, [], 0⟩], []⟩

theorem test_bindEndHypotheses :
    (let s := binding (bindOf .route (some 90) none) (image 0x10 [0, 1] [2] 3 0 0) [];
      s.powered = true ∧ found s none = some (0, 0, false) ∧ found s (some plan2) = some (0, 0, false) ∧ s.stg.exhausted = false ∧ s.stg.stage ≤ 90 + bindBound 2 0 ∧
        (s.bind? 1).map (fun b => (s.planOk b.1 b.2 [] (s.newTt b.1 b.2 plan2), b.2.run.isSome, b.1.since)) = some (true, true, some 90)) ∧
    (∀ w ∈ [bindBound 2 0 - 10, bindBound 2 0 - 9], let s := binding { bindOf .route (some 90) none with worked := w } (image 0x10 [0, 1] [2] 3 0 0) [];
      (s.bind? 1).map (fun b => (b.1.worked, 4 * (s.bindLayout b.1 b.2).length)) = some (w, 0) ∧ (bindBound 2 0 < w + (s.stg.stage - 90) ↔ w = bindBound 2 0 - 9)) ∧
    found (binding (bindOf .route (some 90) none) (manyScans 15) noSlots) (some plan1) = some (0, 15, true) ∧
    found { binding (bindOf .route (some 90) none) (image 0x10 [0, 1] [2] 3 0 0) [] with fwc := { limp := some 5 } } none = some (0x27, 0, false) ∧
    found (binding (bindOf .route (some 90) none) (image 0x10 [0, 1] [2] 3 0 0) []) (some { plan1 with passStages := 2 ^ 32 }) = some (0x26, 0, false) := by
  refine ⟨?_, ?_, ?_, ?_, ?_⟩ <;> decide +kernel

def passing (f : Run → Run) : State := withRun (f { run1 (image 1 [] [] 3 0 0) none with begun := 0, nextStart := 101 })

theorem test_passHypotheses : ((passing id).run? 1).map (fun p => ((passing id).runsNext p.1 p.2, p.2.nextOp, p.2.begun, p.2.passes, p.2.nextStart, p.2.rebind || p.1.st == .orphaned)) = some (true, none, 0, 1, 101, false) ∧
    (passing id).stg.stage + 1 = 101 ∧ (passing id).limpServes = false ∧ (passing id).layoutStands (table1 100) = true ∧ (table1 100).topoGen = (passing id).ses.topoGen ∧
    ({ passing id with ses := { (passing id).ses with topoGen := 1 } } : State).ses.topoGen ≠ (table1 100).topoGen ∧
    ((passing fun r => { r with nextOp := some 0 }).run? 1).map (fun p => p.2.nextOp.isSome) = some true ∧
    ((passing fun r => { r with done := 1 }).run? 1).map (fun p => (p.2.fault, p.2.nextOp, p.2.staging.isEmpty, decide (p.2.passes ≤ p.2.done))) = some (0, none, true, true) ∧
    (∀ b ∈ [37, 101], let s := (passing fun r => { r with tt := some { table1 100 with suspended := some b } });
      s.coreClock = true ∧ (s.run? 1).map (fun p => (s.holdsNext p.1, p.2.stalled, decide (b ≤ s.stg.stage + 1), (s.stg.stage + 1 - b) % 64)) = some (true, false, true, 0)) := by
  refine ⟨?_, ?_, ?_, ?_, ?_, ?_, ?_, ?_, ?_⟩ <;> decide +kernel

def waitingCtx (reads : Table Bytes) : State := withCoa (fun c => { c with ctxs := [(0, { st := .waiting, replies := 1, lapse := 100 })], reads := reads }) up

theorem test_missHypotheses : (waitingCtx []).coreClock = true ∧ ((waitingCtx []).ctx 0 0).st = .waiting ∧ ((waitingCtx []).ctx 0 0).lapse ≠ 0 ∧ ((waitingCtx []).ctx 0 0).lapse ≤ (waitingCtx []).stg.stage ∧
    (waitingCtx []).lateReads 0 0 = [] ∧ (waitingCtx [(0, zeros 32)]).lateReads 0 0 ≠ [] ∧ (waitingCtx []).coachSess 0 = none ∧
    (let s := withCoa (fun c => { c with ctxs := [(0, { st := .waiting, replies := 1, lapse := 100 })], role := [(0, 16384)] }) (withRun (run1 [] none)); s.coachSess 0 = some 1) ∧
    (∀ n ∈ [(0, 0), (1, 6), (2, 7)], scan1.missed.find? (fun m => m.1 == n.1) = some n) ∧ ((binding (bindOf .route none none) [] []).scan? 5).isSome = true ∧
    up.serving = true ∧ up.inService ⟨2, 0⟩ = true ∧ up.inService ⟨2, 1⟩ = false ∧ up.inService ⟨6, 0⟩ = true := by
  refine ⟨?_, ?_, ?_, ?_, ?_, ?_, ?_, ?_, ?_, ?_, ?_, ?_, ?_, ?_⟩ <;> decide +kernel

/-! #### Sessions and partitions -/

/-- A quota descriptor without grants. -/
def quotaData (teams granules crc : Nat) : Bytes :=
  let h := toLe 1 teams ++ [255, 0, 0] ++ toLe 4 granules ++ zeros 4 ++ toLe 4 1 ++ zeros 12
  h ++ toLe 4 (crc32c h + crc)

/-- Sessions 1 to n. -/
def sessions (n : Nat) : State := { up with ses := { up.ses with list := (List.range n).map fun i => { sess1 with num := i + 1 } } }

theorem test_sessionOpenHypotheses : (∀ k ∈ (List.range 64).map (· + 1), ((sessions 64).sess? k).isSome = true) ∧ (sessions 63).sess? 64 = none ∧ (sessions 0).sess? 1 = none ∧
    quotaShort (quotaData 0 3 0) = false ∧ (sessions 0).quotaReason none (quotaData 0 3 0) = none ∧ (sessions 0).quotaReason none (quotaData 1 3 0) = none ∧
    ((sessions 0).placePart 1).isSome = true ∧ (sessions 0).quotaReason none (quotaData 0 3 1) = some 0x30 ∧ (sessions 0).quotaReason none (quotaData 17 3 0) = some 0x31 ∧
    (sessions 0).quotaReason none (quotaData 0 1 0) = some 0x33 := by
  refine ⟨?_, ?_, ?_, ?_, ?_, ?_, ?_, ?_, ?_, ?_⟩ <;> decide +kernel

/-- An orphan and its key; a session being zeroed; QUOTA SETs at once, while a run goes on, with a reason against it, and one that waited. -/
theorem test_quotaHypotheses : (withSess { sess1 with st := .orphaned } up).sess? 1 = some { sess1 with st := .orphaned } ∧ sess1.key = 77 ∧ sess1.hostId = host.hostId ∧
    (withSess { sess1 with zeroing := [(tag, true)] } up).sess? 1 = some { sess1 with zeroing := [(tag, true)] } ∧
    (let x := { sess1 with quota := { granules := 3, prot := 1 }, ranges := [(0, 0, 3)] }; (withSess x up).quotaReason (some x) (quotaData 0 3 0) = none ∧ (parseQuota (quotaData 0 3 0)).teams = x.quota.teams ∧
      (withSess x up).quotaReason (some x) (quotaData 1 3 0) = none ∧ (parseQuota (quotaData 1 3 0)).teams ≠ x.quota.teams ∧ (withSess x up).quotaReason (some x) (quotaData 0 3 1) = some 0x30) ∧
    (run1 [] none |> some).isSome = true ∧ AdmitsSess tag host 1 { sess1 with quotaWait := [(tag, [])] } (withSess { sess1 with quotaWait := [(tag, [])] } up) := by
  refine ⟨by decide +kernel, by decide +kernel, by decide +kernel, by decide +kernel, ⟨by decide +kernel, by decide +kernel, by decide +kernel, by decide +kernel, by decide +kernel⟩, rfl,
    ⟨⟨by decide, rfl, rfl, rfl, by decide, rfl⟩, by decide⟩⟩

/-- CLOSING with nothing left and with a held run; the reclaim window on both sides of its end (60 s are 7,317,073.2 stages). -/
theorem test_closeHypotheses : (withSess { sess1 with st := .closing, closing := some (tag, 0) } up).sess? 1 = some { sess1 with st := .closing, closing := some (tag, 0) } ∧
    drained sess1 = true ∧ drained { sess1 with builds := [1] } = false ∧ (up.ctrl? tag.ctrl).isSome = true ∧
    (let x := { sess1 with st := .orphaned, windowStart := some 0 }; (withSess x (withStg (fun g => { g with stage := 7317074 }) up)).sess? 1 = some x ∧
      x.window * 1000000000 ≤ 7317074 * 8200 ∧ ¬x.window * 1000000000 ≤ 7317073 * 8200) := by
  refine ⟨?_, ?_, ?_, ?_, ?_⟩ <;> decide +kernel

/-- Two sessions of a partition, the second with a build at work. -/
def sharing (p : Partition) (stage : Nat) (sets : List PageSet) : State :=
  { withStg (fun g => { g with stage := stage }) up with
    ses := { up.ses with
      list := [{ sess1 with part := some 0, run := some (run1 [] none) }, { sess1 with num := 2, part := some 0, builds := [(1, 1)] }]
      parts := [p] }
    xlt := { sets := sets } }

theorem test_partitionHypotheses : (sharing part1 100 []).coreClock = true ∧ (sharing part1 100 []).part? 0 = some part1 ∧ part1.switch = none ∧ part1.holder.isSome = true ∧
    (sharing { part1 with run := 1000 } 100 []).nextHolder { part1 with run := 1000 } = some 2 ∧ (sharing part1 100 []).nextHolder part1 = some 2 ∧
    (sharing { part1 with holder := some 2 } 100 []).nextHolder { part1 with holder := some 2 } = some 1 ∧
    (sharing { part1 with holder := none } 100 []).holderWorks { part1 with holder := none } = false ∧
    (let p := { part1 with switch := some (.deferred 68) }; (sharing p 100 []).programsRun p 68 = false ∧
      (sharing p 100 [⟨1, 0, 0, 0, 0, [], [], 0, some 1⟩]).programsRun p 68 = true ∧ (68 : Nat) + 32 ≤ 99 + 1 ∧ ¬(68 : Nat) + 32 ≤ 98 + 1) ∧
    (let p := { part1 with switch := some (.moving 90 2 0) }; ((sharing p 100 []).sess? 2).isSome = true ∧ (let n := (sharing p 100 []).switchFirst p 90 2; 1 < n ∧ (sharing p (n - 2) []).stg.stage + 1 < n ∧ n ≤ (sharing p (n - 1) []).stg.stage + 1)) ∧
    (let p := { part1 with switch := some (.moving 100 2 0) }; (sharing p 100 []).part? 0 = some p ∧ (sharing p 100 []).stg.stage = 100 ∧ ((sharing p 100 []).sess? 1).isSome = true) := by
  refine ⟨?_, ?_, ?_, ?_, ?_, ?_, ?_, ?_, ?_, ?_, ?_⟩ <;> decide +kernel

/-! #### Search, scans and generations -/

def vec1 : VecDesc := { dim := 4, elem := 0, metric := 0, codeBytes := 4, degree := 8, attrBytes := 0 }
def gen1 (num : Nat) (st : GenState) : Gen := ⟨num, st, 0, [], [], [], false, true, [], [], []⟩
/-- A vector namespace with the generations given. -/
def vns (gens : List Gen) : Ns := { ns1 with kind := .vector, idColumn := 0, vec := vec1, capacity := 16, gens := gens, lastGen := 65535 }
def rns : Ns := { ns1 with kind := .record, records := 100 }

/-- A QUERY of one FP32 vector of four elements for namespace 1: K 1, EF 8, 8 hops, 2 lanes, the flags given; a crc of 0 is the right one. -/
def queryData (flags crc : Nat) : Bytes :=
  let h := zeros 8 ++ toLe 4 1 ++ toLe 2 1 ++ toLe 2 8 ++ toLe 2 8 ++ [0, 2] ++ toLe 2 1 ++ [0] ++ toLe 1 flags ++ zeros 36
  h ++ toLe 4 (crc32c h + crc) ++ zeros 16

def set1 : PeerSet := { no := 1, nsid := 1, self := 0, peers := [{ member := 1, nsid := 1, down := false, session := 9 }] }
def searching (q : List Query) (sets : List PeerSet) (n : Ns) : State := withNs n
  (withSess { sess1 with part := some 0, quota := { teams := 1, granules := 3, prot := 1, grants := [(1, 2)] }, search := some (table1 96), queries := q, peerSets := sets }
    { up with ses := { up.ses with parts := [part1] } })
def query1 (flags : Nat) (admitted : Option Nat) (waitingFor : List Nat) : Query := ⟨5, tag, 1, queryData flags 0, admitted, 0, [], 1, waitingFor, [], false⟩

theorem test_queryHypotheses : (queryData 0 0).length = 80 ∧ qLength vec1 (queryData 0 0) = 80 ∧
    (let s := searching [] [] (vns [gen1 1 .current]); (s.sess? 1).map (fun x => (s.queryReason x (queryData 0 0), s.queryReason x (queryData 0 1))) = some (none, some 0x41)) ∧
    (let s := searching [query1 0 none []] [set1] (vns [gen1 1 .current]); (s.query? 5).isSome = true ∧ s.coreClock = true ∧ s.limpServes = false ∧ qForwarded (queryData 0 0) = false ∧
      qShard (queryData 0 0) = false ∧ (s.sess? 1).map (fun x => (s.holds x, x.search.isSome)) = some (true, true) ∧ currentGen (vns [gen1 1 .current]) = some (gen1 1 .current) ∧
      s.placeVectors (s.partCoaches 0) (queryArea vec1 (queryData 0 0)) 1 1 vec1 1 [] = some [0]) ∧
    qShard (queryData 1 0) = true ∧ qForwarded (queryData 1 0) = false ∧
    (let s := searching [query1 1 none []] [set1] (vns [gen1 1 .current]); (s.query? 5).map (fun p => (p.2.admitted, peerSet? p.1 1)) = some (none, some set1)) ∧
    (∀ b ∈ [84, 85], let s := searching [query1 1 (some b) [1]] [set1] (vns [gen1 1 .current]);
      (s.query? 5).map (fun p => (p.2.admitted, p.2.waitingFor.contains 1, qVectors p.2.block, (p.1.peerSets.find? fun q => q.no == p.2.set) == some set1)) = some (some b, true, 1, true) ∧ s.portUp = true) := by
  refine ⟨?_, ?_, ?_, ?_, ?_, ?_, ?_, ?_⟩ <;> decide +kernel

/-- PEER_WAIT at its end and one stage before. -/
theorem test_peerWaitHypotheses : (∀ b ∈ [88, 89], (searching [query1 1 (some b) [1]] [set1] (vns [])).powered = true ∧ (query1 1 (some b) [1]).waitingFor ≠ []) ∧
    ¬(599 : Nat) + 1 < 88 + sess1.peerWait ∧ (599 : Nat) + 1 < 89 + sess1.peerWait ∧ (88 : Nat) + sess1.peerWait ≤ 600 ∧ ¬(89 : Nat) + sess1.peerWait ≤ 600 := by decide +kernel

def tree1 : Tree := ⟨1, 3, 0, 0, 1, [⟨0, [], 0, true⟩], 0, 0, 0, [], none, none⟩

/-- A merge tree whose lists have ended, with room in the protected part and without. -/
theorem test_answerHypotheses : (let s := { searching [] [] ns1 with ans := { trees := [(0, tree1)] } }; s.powered = true ∧ s.ans.trees.find? (fun e => e.1 == 0) = some (0, tree1) ∧
      (∀ l ∈ tree1.lists, l.ended = true) ∧ (s.sess? 1).map (fun x => s.nextCycle.recordRoom x tree1 (treeRecord s.stamp tree1).length) = some true ∧
      s.nextCycle.recordRoom sess1 tree1 (treeRecord s.stamp tree1).length = false) ∧
    (∀ c ∈ [12298, 12299], let s : State := { withStg (fun g => { g with cycle := 7 }) up with ans := { last := fullStamp up.stg.stage c } };
      s.recordCycle = if c = 12299 then none else some 12299) ∧ up.stg.stage ≠ stageMax ∧
    (let s : State := { up with que := { up.que with freeing := [(tag, 1, ⟨0, 5, 8, 0, []⟩)], done := [⟨tag, 0, 0, false, 0, 0, []⟩] } };
      (withSess { sess1 with held := [⟨0, 5, 8, 0, []⟩, ⟨0, 6, 8, 0, []⟩] } s).postBatch.ses.list.map (fun x => x.held.length) = [1]) := by
  refine ⟨⟨?_, ?_, ?_, ?_, ?_⟩, ?_, ?_, ?_⟩ <;> decide +kernel

/-- A SCAN of rows 0 to 9, mode 0. -/
def scanData (crc : Nat) : Bytes :=
  let h := zeros 8 ++ toLe 4 1 ++ zeros 12 ++ toLe 2 1 ++ zeros 34
  let e := toLe 8 0 ++ toLe 8 10
  h ++ toLe 4 (crc32c (h ++ e) + crc) ++ e
def held1 : List Held := [⟨0, 5, 8, 0, zeros 64⟩, ⟨0, 6, 9, 0, zeros 128⟩, ⟨1, 7, 0, 0, zeros 64⟩]

set_option maxRecDepth 100000 in
theorem test_scanHypotheses : (scanData 0).length = 80 ∧ scLength (scanData 0) = 80 ∧
    (let s := searching [] [] rns; (s.sess? 1).map (fun x => (s.scanReason x (scanData 0), s.scanReason x (scanData 1))) = some (none, some 0x50)) ∧
    takeFit 63 (held1.take 2) = [] ∧ (takeFit 64 (held1.take 2)).length = 1 ∧ (takeFit 192 (held1.take 2)).length = 2 ∧ byStamp [] = [] ∧
    (let s := withNs rns (withSess { sess1 with scans := [{ scan1 with missed := [], tt := some (table1 36) }] } up); (s.scan? 5).map (fun p => (p.2.ended, p.2.missed.isEmpty)) = some (false, true) ∧
      s.freeTree = some 0 ∧ (table1 36).start + (table1 36).plan.passStages ≤ s.stg.stage ∧ ¬(table1 37).start + (table1 37).plan.passStages ≤ s.stg.stage ∧ rns.created ≤ (table1 36).bound) := by
  refine ⟨?_, ?_, ?_, ?_, ?_, ?_, ?_, ?_⟩ <;> decide +kernel

/-- A PEER SET block with one peer, member 1 at an IPv4 address; a self of 1 repeats a member. -/
def peerData (self crc : Nat) : Bytes :=
  let h := [1] ++ toLe 1 self ++ toLe 2 1 ++ toLe 4 1 ++ [1, 2, 0, 0] ++ toLe 4 3 ++ zeros 44
  let e : Bytes := [1, 4, 0, 0] ++ toLe 4 1 ++ zeros 280
  h ++ toLe 4 (crc32c (h ++ e) + crc) ++ e

/-- A vector namespace's descriptor of a dimension, without attributes. -/
def peerDescriptor (dim : Nat) : Bytes := toLe 2 dim ++ [0, 0] ++ zeros 60

set_option maxRecDepth 100000 in
theorem test_peerSetHypotheses : AdmitsSess tag host (field (peerData 0 0) 0 1) sess1 (withNs (vns []) (withSess sess1 up)) ∧ (peerData 0 0).length = 64 + 288 * field (peerData 0 0) 2 2 ∧
    (∀ k ∈ [0, 1], field (peerData k 0) 60 4 = crc32c ((peerData k 0).take 60 ++ slice (peerData k 0) 64 288)) ∧ field (peerData 0 1) 60 4 ≠ crc32c ((peerData 0 1).take 60 ++ slice (peerData 0 1) 64 288) ∧
    peerFieldsOk (withNs (vns []) up) (peerData 0 0) 1 = true ∧ peerFieldsOk (withNs (vns []) up) (peerData 1 0) 1 = false ∧
    (withNs (vns []) up).ns? (field (peerData 0 0) 4 4) = some (vns []) ∧
    (∀ n ∈ [0, 1], ∀ r ∈ [PeerReply.opened 9 (peerDescriptor (4 + n)), .refused (peerDescriptor (4 + n))], (peerDesc r).map (peerDiffers (vns [])) = some (n == 1)) ∧ peerDesc .down = none := by
  refine ⟨⟨⟨by decide, rfl, rfl, rfl, by decide +kernel, rfl⟩, by decide +kernel⟩, ?_, ?_, ?_, ?_, ?_, ?_, ?_, ?_⟩ <;> decide +kernel

/-- INDEX BUILD refused, without room and accepted; a switch due; a retired generation pinned and free; a layer to load again. -/
theorem test_generationHypotheses : (∀ g ∈ [[], [gen1 1 .ready], [gen1 1 .current, gen1 2 .retiring]], let s := searching [] [] (vns g);
      AdmitsSess tag host 1 { sess1 with part := some 0, quota := { teams := 1, granules := 3, prot := 1, grants := [(1, 2)] }, search := some (table1 96), queries := [], peerSets := [] } s ∧
        s.ns? 1 = some (vns g) ∧ (vns g).kind = .vector) ∧
    writeQuota sess1 1 = true ∧ writeQuota { sess1 with quota := {} } 1 = false ∧ (searching [] [] (vns [])).stg.exhausted = false ∧
    ((searching [] [] (vns [])).placeLayer (layerGranules vec1 16)).isSome = true ∧ up.placeLayer 4098 = none ∧
    (vns [gen1 1 .ready]).gens.find? (fun g => g.st == .ready) = some (gen1 1 .ready) ∧ (vns []).gens.find? (fun g => g.st == .ready) = none ∧ up.upkeep = true ∧
    builtOk (vns []) ⟨0, 0, [⟨0, [1], []⟩, ⟨15, [0], []⟩], [], 0⟩ = true ∧ (searching [] [] (vns [gen1 1 .retiring])).pinned 1 1 = false ∧
    (searching [{ query1 0 (some 90) [] with walks := [⟨0, 0, 0, 0, [], false, false, false, none, 0, 0, false⟩], gen := 1 }] [] (vns [gen1 1 .retiring])).pinned 1 1 = true := by
  refine ⟨?_, ?_, ?_, ?_, ?_, ?_, ?_, ?_, ?_, ?_, ?_, ?_⟩
  · intro g h
    simp only [List.mem_cons, List.not_mem_nil, or_false] at h
    rcases h with rfl | rfl | rfl <;> exact ⟨⟨⟨by decide, rfl, rfl, rfl, by decide, rfl⟩, by decide⟩, rfl, rfl⟩
  all_goals decide +kernel

/-- Identifiers of two slots, 7 and 8, as the write buffer holds them: the items of a build. -/
def identified : State := withNs (vns [gen1 2 .building]) { up with xlt := { buf := [⟨0, 0, [some (toLe 8 7 ++ toLe 8 8 ++ zeros 4080), none, none, none], 1, 1, none, none⟩] } }

theorem test_buildItems : ([(⟨0, [], []⟩ : GraphNode), ⟨1, [], []⟩].foldl (State.readItem [] (vns [gen1 2 .building])) (some [], identified)).1.map (fun l => l.map fun i => i.id) = some [7, 8] := by
  decide +kernel

/-- A build that takes both slots is whole, one that leaves slot 1 out is not; RESULT 3 needs a page that cannot be read. -/
theorem test_buildHypotheses : let n := vns [gen1 2 .building];
    let lost : State := { identified with xlt := { identified.xlt with map := [(mapKey 0 0, lostEntry)] } };
    identified.builtAll [] n ⟨0, 0, [⟨0, [], []⟩, ⟨1, [], []⟩], [], 0⟩ = true ∧ identified.builtAll [] n ⟨0, 0, [⟨0, [], []⟩], [], 0⟩ = false ∧
    identified.buildDirty 1 2 = [] ∧ (withSess { sess1 with buildTts := [((1, 2), table1 90)] } identified).buildBound 1 2 = true ∧ identified.buildStops [] n = false ∧ lost.buildStops [] n = true ∧
    (vns [gen1 1 .current]).gens.find? (fun g => g.st == .ready) = none := by
  refine ⟨?_, ?_, ?_, ?_, ?_, ?_, ?_⟩ <;> decide +kernel

/-! #### The store -/

theorem test_writeHypotheses : Admits tag host inUse ∧ inUse.ns? 1 = some ns1 ∧ inUse.ns? 2 = none ∧ (15 + 0 + 1) * ns1.lba ≤ ns1.size ∧ ns1.size < (16 + 0 + 1) * ns1.lba ∧ (0 + 1) * ns1.lba ≤ (zeros 4096).length ∧
    writeGate ns1 inUse = none ∧ writeGate { ns1 with formatting := some (tag, 0) } inUse = some .formatInProgress ∧ writeGate { ns1 with lock := { writeLock := true } } inUse = some .accessDenied ∧
    (lowestSlots (pieces 0 1 [])).length = 1 ∧ 16 * (0 + 1) ≤ (zeros 16).length ∧ (dsmRanges 0 (zeros 16)).all (fun r => inRange ns1 r.1 r.2) = true := by
  refine ⟨⟨by decide, rfl, rfl, rfl, by decide, rfl⟩, by decide +kernel, by decide +kernel, by decide, by decide, ?_, ?_, ?_, ?_, ?_, ?_, ?_⟩ <;> decide +kernel

/-- One unit fits just below a cap of one unit of 64 MiB shares and does not fit at cap 0. -/
theorem test_bufferHypotheses : (let w : WaitWrite := ⟨tag, 0, [(0, 0, zeros 4)], false, none⟩; inUse.xlt.capWaits = [] ∧ inUse.acknowledges = true ∧ inUse.fits (inUse.newUnits w.ns w.pieces) = true ∧
      ({ inUse with pwr := { inUse.pwr with cap := 0 } } : State).fits (inUse.newUnits w.ns w.pieces) = false ∧ (withClk (fun c => { c with relockTries := some 0 }) up).acknowledges = false ∧
      (∀ p ∈ w.pieces, inUse.slotInFlight w.ns p.1 p.2.1 = false) ∧ (inUse.openPieces w.ns w.pieces).1 ≠ []) := by
  refine ⟨?_, ?_, ?_, ?_, ?_, ?_, ?_⟩ <;> decide +kernel

/-- A namespace with unit 0 on the media: its slot 0 programmed, and with unit 1 in the buffer and unit 2 LOST. -/
def stored : State := { inUse with
  fla := { up.fla with words := [(cwKey ⟨0, 0, 5, 3, 0⟩, { data := [1, 2], stamp := 4, ns := 0, unit := 0, kind := 1, slot := 0, key := 1 })] }
  xlt := { map := [(mapKey 0 0, mkEntry 4 0 (ppa 0 5 3)), (mapKey 0 2, mkEntry 0 0 0xFFFFFFFE)], buf := [⟨0, 1, [some [7], none, none, none], 1, 1, none, none⟩], cached := [(leafKey 0 0, false)] } }

/-- The leaf of unit 0 is on the media and not in the cache. -/
def uncached : State := { stored with xlt := { stored.xlt with cached := [], leafIndex := [(leafKey 0 0, mkEntry 3 0 (ppa 0 6 0))] } }

/-- A locator of the word of unit 0; the crc as given. -/
def locator (gen crc : Nat) : Bytes :=
  let h := toLe 4 (ppa 0 5 3) ++ toLe 4 4 ++ toLe 4 gen ++ zeros 2
  h ++ toLe 2 (crc16 h + crc)

theorem test_readHypotheses : Admits tag host stored ∧ stored.missingLeaves 0 0 1 = [] ∧ uncached.missingLeaves 0 0 1 ≠ [] ∧
    stored.buffered 0 1 0 = some [7] ∧ stored.buffered 0 0 0 = none ∧ entPpa (stored.entry 0 3) = 0xFFFFFFFF ∧ entPpa (stored.entry 0 2) = 0xFFFFFFFE ∧ entPpa (stored.entry 0 0) < 0xFFFFFFFE ∧
    stored.dieIn (entDie (stored.entry 0 0)) = true ∧ wordChecks (stored.word (entAddr (stored.entry 0 0) 0)) 0 0 0 (entStamp (stored.entry 0 0)) = true ∧
    wordChecks (stored.word (entAddr (stored.entry 0 0) 1)) 0 0 1 (entStamp (stored.entry 0 0)) = false ∧
    (∀ k ∈ [0, 1], field (locator k 0) 14 2 = crc16 ((locator k 0).take 14)) ∧ field (locator 0 1) 14 2 ≠ crc16 ((locator 0 1).take 14) ∧
    stored.locatorArrives ns1 (locator 0 0) = true ∧ stored.locatorArrives ns1 (locator 1 0) = false ∧ uncached.reading (.leaf 0 0) = false ∧
    ([⟨tag, 0, 0, 1, false⟩] : List LeafWait).any (State.waitsFor uncached 0 0) = true ∧ stored.xlt.leafWaits.any (stored.waitsFor 0 0) = false := by
  refine ⟨⟨by decide, rfl, rfl, rfl, by decide, rfl⟩, ?_, ?_, ?_, ?_, ?_, ?_, ?_, ?_, ?_, ?_, ?_, ?_, ?_, ?_, ?_, ?_⟩ <;> decide +kernel

/-- A read with a word to take from flash and one without, and a locator's read whose page has landed, good and not decoded. -/
theorem test_landHypotheses : (stored.readWords 0 0 1).filter (fun a => stored.dieIn a.die) ≠ [] ∧ (stored.readWords 0 12 1).filter (fun a => stored.dieIn a.die) = [] ∧ stored.missingLeaves 0 12 1 = [] ∧
    (let a : CwAddr := ⟨0, 0, 5, 3, 0⟩; let s := withFla (fun f => { f with cache := [(0, ⟨5, 3, [.clean, .clean, .clean, .clean], [stored.word a, {}, {}, {}]⟩)] }) stored
     s.fla.recov = [] ∧ (s.cached a).isSome = true ∧ s.locatorLands ns1 (locator 0 0) 0 [0] true = true ∧ s.locatorLands ns1 (locator 0 0) 0 [0] false = false) ∧
    stored.slotInFlight 0 0 0 = false ∧ (readSlots 0 0 1 (stored.touchRead 0 0 1)).1.isSome = true ∧ (readSlots 0 8 1 (stored.touchRead 0 8 1)).1 = none := by
  refine ⟨?_, ?_, ?_, ?_, ?_, ?_, ?_⟩ <;> decide +kernel

/-- What is stored reads as data, zeros or an error. -/
theorem test_reads : stored.readSlot 0 0 0 = .data [1, 2] ∧ stored.readSlot 0 1 0 = .data [7] ∧ stored.readSlot 0 2 0 = .lost ∧ stored.readSlot 0 3 0 = .data [] := by
  refine ⟨?_, ?_, ?_, ?_⟩ <;> decide +kernel

/-- The victim's unit, a copy to verify, a superblock to erase, a block to patrol. -/
def moving (copies : List Copy) (verify : List Nat) : State := { stored with xlt := { stored.xlt with
  sbs := [(entSb (mkEntry 4 0 (ppa 0 5 3)), { st := .closed })], copies := copies, toVerify := verify, patrolQueue := [0] } }
def copy1 (target : Option (BitVec 64)) : Copy := ⟨0, 0, mkEntry 4 0 (ppa 0 5 3), 8, none, target⟩

theorem test_upkeepHypotheses : (moving [] []).upkeep = true ∧ (moving [] []).victim = some (entSb ((moving [] []).entry 0 0)) ∧ entMapped ((moving [] []).entry 0 0) = true ∧
    (moving [copy1 (some (mkEntry 4 0 (ppa 0 5 3)))] []).xlt.copies.find? (fun k => k.ns == 0 && k.unit == 0) = some (copy1 (some (mkEntry 4 0 (ppa 0 5 3)))) ∧
    (let w := stored.word (entAddr (mkEntry 4 0 (ppa 0 5 3)) 0); w.ns = 0 ∧ w.unit = 0 ∧ w.undefined = false) ∧ stored.entry 0 0 = (copy1 none).srcEntry ∧ stored.entry 0 3 ≠ (copy1 none).srcEntry ∧
    (let s : State := { up with xlt := { sbs := [(5, { st := .closed })] } }; (s.sb 5).st = .closed ∧ s.sbValid 5 = 0 ∧ s.passNames 5 = false ∧ (s.sb 5).copyStamp = 0 ∧
      ∀ d ∈ s.sbDies 5, (∀ o ∈ s.fla.ops, o.die ≠ d) ∧ s.dieReserved d s.stg.stage s.fla.tErase = false) ∧
    (up.sb 6).st ≠ .closed ∧ 6 ∈ (moving [] [6]).xlt.toVerify ∧ ((moving [] [6]).sbWalked 6 = true ∧ (moving [] []).walked (pbWalk 0) 0 0 [0] = true ∧ (moving [] []).reading (.verify 0 0) = false) ∧
    (let s := withFla (fun f => { f with next := [(0, 5)] }) up; Tab.get 0 s.xlt.walks (pbWalk 0) < s.walkLast 0 0 [0] ∧ s.fla.ops = [] ∧ s.walked (pbWalk 0) 0 0 [0] = false) ∧ (moving [] []).patrolNext = some 0 ∧ (moving [] []).patrolNext ≠ some 1 ∧ (up.stg.loaded = true ∧ up.boot.mode ≠ .diagnostic ∧ up.clk.failed = false ∧ up.ns.formatPending = false) := by
  refine ⟨?_, ?_, ?_, ?_, ?_, ?_, ?_, ?_, ?_, ?_, ?_, ?_, ?_, ?_, ?_⟩ <;> decide +kernel

/-- A mark that is due, with a leaf's program in flight and without. -/
theorem test_markHypotheses : ∀ st ∈ [10, 11], let s : State := { up with xlt := { markDue := some emptyMark, sets := [{ pageSet with stream := st }] } }
    s.xlt.markDue = some emptyMark ∧ ((∃ p ∈ s.xlt.sets, p.stream = 11) ↔ st = 11) := by decide +kernel

/-! #### Addresses, runs in order, fuses -/

/-- The ends of a page address's fields. -/
theorem test_addressHypotheses : (1023 : Nat) < 1024 ∧ (4095 : Nat) < 4096 ∧ (511 : Nat) < 512 ∧ (3 : Nat) < 4 ∧ ppa 1023 4095 511 = 2 ^ 31 - 1 ∧ ppa 0 0 1 = 1 ∧ ppa 0 1 0 = 512 ∧ ppa 1 0 0 = 2097152 := by decide +kernel

theorem test_runOrderHypotheses : (∀ r ∈ [none, some (run1 [] none)], let x := { sess1 with run := r, routes := [route (zeros 128)] }; AdmitsSess tag host 1 x (withSess x up) ∧
      (x.routes.find? fun r => r.handle == 3).isSome = true ∧ x.routes.find? (fun r => r.handle == 4) = none ∧ x.queued = []) ∧
    runBlock.take (32 + 32 * runSlotCount runBlock) = runBlock := by
  refine ⟨?_, by decide +kernel⟩
  intro r h
  simp only [List.mem_cons, List.not_mem_nil, or_false] at h
  rcases h with rfl | rfl <;> exact ⟨⟨⟨by decide, rfl, rfl, rfl, by decide, rfl⟩, by decide⟩, by decide, by decide, rfl⟩

/-- No owner, and owners in slots 0 to 1. -/
theorem test_fuseHypotheses : (let s : State := { State.reset with pwr := { standby := true, rails := true }, boot := { mode := .bringUp } }; s.powered = true ∧ s.boot.mode = .bringUp ∧ s.boot.ph.fuses = false ∧
      ∀ j, j < 5 → ((fuseRead [408, 920] s).fuseField (408 + 512 * j) 512 ≠ 0 ↔ j ≤ 1)) := by
  refine ⟨?_, ?_, ?_, ?_⟩ <;> decide +kernel

/-! #### Firmware images -/

/-- Bytes written from an address on. -/
def bytesAt : Nat → Bytes → Table Byte
  | _, [] => []
  | a, b :: l => (a, b) :: bytesAt (a + 1) l

theorem getBytes_cons (d : Byte) (k : Nat) (v : Byte) (t : Table Byte) (n a : Nat) (h : k < a) : Tab.getBytes d ((k, v) :: t) a n = Tab.getBytes d t a n := by
  induction n generalizing a with
  | zero => rfl
  | succ n ih => simp only [Tab.getBytes, Tab.get, if_neg (Nat.ne_of_lt h), ih (a + 1) (by omega)]

theorem getBytes_bytesAt (d : Byte) (a : Nat) (l : Bytes) : Tab.getBytes d (bytesAt a l) a l.length = l := by
  induction l generalizing a with
  | nil => rfl
  | cons b l ih => simp only [bytesAt, List.length_cons, Tab.getBytes, Tab.get, if_pos, getBytes_cons d a b _ _ (a + 1) (by omega), ih]

theorem getBytes_past (d : Byte) (l : Bytes) (b n a : Nat) (h : b + l.length ≤ a) : Tab.getBytes d (bytesAt b l) a n = List.replicate n d := by
  induction l generalizing b with
  | nil =>
    induction n generalizing a with
    | zero => rfl
    | succ n ih => simp only [bytesAt, Tab.getBytes, Tab.get, List.replicate_succ] at *; rw [ih (a + 1) (by simp at h ⊢; omega)]
  | cons x l ih => simp only [List.length_cons] at h; rw [bytesAt, getBytes_cons d b x _ n a (by omega), ih (b + 1) (by omega)]

theorem getBytes_add (d : Byte) (t : Table Byte) (m n a : Nat) : Tab.getBytes d t a (m + n) = Tab.getBytes d t a m ++ Tab.getBytes d t (a + m) n := by
  induction m generalizing a with
  | zero => simp [Tab.getBytes]
  | succ m ih => rw [Nat.add_right_comm]; simp only [Tab.getBytes, List.cons_append, ih, Nat.add_right_comm, Nat.add_assoc]

/-- The header of a firmware image of 4,096 bytes FFh. -/
def imgPrefix (signer : Nat) : Bytes := toLe 4 0x5746424E ++ toLe 4 1 ++ toLe 4 4096 ++ zeros 12 ++ toLe 4 signer ++ zeros 4
def imgHead (signer : Nat) : Bytes := imgPrefix signer ++ sha3_512 (List.replicate 4096 0xFF)

def verifying (signer : Nat) : State := { State.reset with
  pwr := { standby := true, rails := true }
  boot := { mode := .bringUp, ph := { fuses := true, records := true, filled := true }, cfg := bytesAt 0 (imgHead signer) } }

/-- Five planes of five lanes. -/
def shaped (s : List Plane) : Prop := s.length = 5 ∧ ∀ p ∈ s, p.length = 5

theorem xor_length {p q : Plane} (hp : p.length = 5) (hq : q.length = 5) : (xorPlanes p q).length = 5 := by simp [xorPlanes, hp, hq]

theorem shaped_map {s : List Plane} {f : Plane → Plane} (h : shaped s) (hf : ∀ p : Plane, p.length = 5 → (f p).length = 5) : shaped (s.map f) := by
  refine ⟨by simp [h.1], fun p hp => ?_⟩
  obtain ⟨q, hq, rfl⟩ := List.mem_map.1 hp
  exact hf q (h.2 q hq)

theorem rotateLeft_length (p : Plane) (n : Nat) : (p.rotateLeft n).length = p.length := by
  rw [List.rotateLeft]; split
  · rfl
  · have := Nat.mod_lt n (show 0 < p.length by omega)
    simp; omega

theorem parity_length (s : List Plane) (a : Plane) (ha : a.length = 5) (h : ∀ p ∈ s, p.length = 5) : (s.foldl xorPlanes a).length = 5 := by
  induction s generalizing a with
  | nil => exact ha
  | cons p s ih => exact ih _ (xor_length ha (h p (by simp))) fun q hq => h q (by simp [hq])

theorem shaped_mixColumns {s : List Plane} (h : shaped s) : shaped (mixColumns s) := by
  have hp := parity_length s (List.replicate 5 0) rfl h.2
  exact shaped_map h fun p => xor_length (xor_length (by rw [rotateLeft_length, hp]) (by rw [List.length_map, rotateLeft_length, hp]))

theorem flatten_length {s : List Plane} {n : Nat} (hn : s.length = n) (h : ∀ p ∈ s, p.length = 5) : s.flatten.length = 5 * n := by
  induction s generalizing n with
  | nil => subst hn; rfl
  | cons p s ih =>
    subst hn
    rw [List.flatten_cons, List.length_append, h p (by simp), ih rfl fun q hq => h q (by simp [hq]), List.length_cons]; omega

theorem shaped_moveLanes {s : List Plane} (h : shaped s) : shaped (moveLanes s) := by
  have hs : ∀ (w : List (Nat × Nat × Nat)) (f l : List (BitVec 64)), (w.foldl (fun l m => l.set m.2.1 ((f.getD m.1 0).rotateLeft m.2.2)) l).length = l.length := by
    intro w f
    induction w with
    | nil => exact fun _ => rfl
    | cons m w ih => intro l; rw [List.foldl_cons, ih, List.length_set]
  refine ⟨by simp [moveLanes], fun p hp => ?_⟩
  simp only [moveLanes, List.mem_map, List.mem_range] at hp
  obtain ⟨y, hy, rfl⟩ := hp
  rw [List.length_take, List.length_drop, hs, flatten_length h.1 h.2]; omega

theorem shaped_round {s : List Plane} (h : shaped s) (k : Nat) : shaped (spongeRound s k) := by
  have hm : shaped ((moveLanes (mixColumns s)).map mixPlane) :=
    shaped_map (shaped_moveLanes (shaped_mixColumns h)) fun p hp => xor_length hp (by simp [rotateLeft_length, hp])
  rw [spongeRound]
  split
  · rename_i w p rest e
    rw [e] at hm
    refine ⟨hm.1, fun q hq => ?_⟩
    rcases List.mem_cons.1 hq with rfl | hq
    · exact hm.2 (w :: p) (by simp)
    · exact hm.2 q (by simp [hq])
  · exact hm

theorem shaped_permute {s : List Plane} (h : shaped s) : shaped (permute s) := by
  have : ∀ (l : List Nat) (s : List Plane), shaped s → shaped (l.foldl spongeRound s) := by
    intro l
    induction l with
    | nil => exact fun _ h => h
    | cons k l ih => intro s h; rw [List.foldl_cons]; exact ih (spongeRound s k) (shaped_round h k)
  unfold permute
  exact this (List.range 24) s h

theorem shaped_absorb (n : Nat) (s : List Plane) (m : Bytes) (h : shaped s) : shaped (absorb n s m) := by
  induction n generalizing s m with
  | zero => exact h
  | succ n ih =>
    refine ih _ _ (shaped_permute ⟨by simp [h.1], fun p hp => ?_⟩)
    obtain ⟨i, hi, rfl⟩ := List.getElem_of_mem hp
    rw [List.getElem_zipWith]
    exact xor_length (h.2 _ (List.getElem_mem _)) (by simp)

theorem toLe_length (n x : Nat) : (toLe n x).length = n := by
  induction n generalizing x with
  | zero => rfl
  | succ n ih => simp [toLe, ih]

theorem sha3_length (m : Bytes) : (sha3_512 m).length = 64 := by
  have h : ∀ s, shaped s → (s.flatten.take 8).length = 8 := fun s hs => by rw [List.length_take, flatten_length hs.1 hs.2]; rfl
  rw [sha3_512, List.length_flatMap]
  simp only [toLe_length]
  rw [List.map_const', h _ (shaped_absorb _ _ _ ⟨rfl, fun p hp => (List.eq_of_mem_replicate hp) ▸ rfl⟩)]
  rfl

theorem imgHead_length (k : Nat) : (imgHead k).length = 96 := by
  rw [imgHead, List.length_append, sha3_length]; simp [imgPrefix, toLe_length, zeros]

theorem imgHead_read (k : Nat) : (verifying k).imageHeader = imgPrefix k ++ (sha3_512 (List.replicate 4096 0xFF) ++ List.replicate 8096 0xFF) := by
  show Tab.getBytes 0xFF (bytesAt 0 (imgHead k)) 0 8192 = _
  have h := getBytes_bytesAt 0xFF 0 (imgHead k)
  rw [imgHead_length] at h
  rw [show 8192 = 96 + 8096 from rfl, getBytes_add, h, getBytes_past _ _ _ _ _ (by rw [imgHead_length]), imgHead, List.append_assoc]

theorem slice_left (p q : Bytes) (off n : Nat) (h : off + n ≤ p.length) : slice (p ++ q) off n = slice p off n := by
  rw [slice, slice, List.drop_append_of_le_length (by omega), List.take_append_of_le_length (by simp; omega)]

/-- Images of both signers whose digest is that of their body. -/
theorem test_imageHypotheses : ∀ k, k < 2 → (verifying k).testing = true ∧ (verifying k).sec.imageOk = false ∧ (verifying k).sec.secFused ≤ field (verifying k).imageHeader 12 4 ∧
    field (verifying k).imageHeader 0 4 = 0x5746424E ∧ field (verifying k).imageHeader 4 4 = 1 ∧ field (verifying k).imageHeader 8 4 = 4096 ∧
    field (verifying k).imageHeader 24 1 = k ∧ slice (verifying k).imageHeader 32 64 = sha3_512 ((verifying k).cfgBytes 8192 4096) := by
  intro k hk
  have hp : (imgPrefix k).length = 32 := by simp [imgPrefix, toLe_length, zeros]
  have hf : ∀ off n, off + n ≤ 32 → field (verifying k).imageHeader off n = field (imgPrefix k) off n := by
    intro off n h; rw [field, field, imgHead_read, slice_left _ _ _ _ (by omega)]
  have hb : (verifying k).cfgBytes 8192 4096 = List.replicate 4096 0xFF := getBytes_past _ _ _ _ _ (by rw [imgHead_length]; omega)
  refine ⟨rfl, rfl, Nat.zero_le _, ?_, ?_, ?_, ?_, ?_⟩
  · rw [hf 0 4 (by omega)]; rcases k with _ | _ | k <;> first | decide | omega
  · rw [hf 4 4 (by omega)]; rcases k with _ | _ | k <;> first | decide | omega
  · rw [hf 8 4 (by omega)]; rcases k with _ | _ | k <;> first | decide | omega
  · rw [hf 24 1 (by omega)]; rcases k with _ | _ | k <;> first | decide | omega
  · rw [hb, imgHead_read, slice, List.drop_append_of_le_length (by omega), show (imgPrefix k).drop 32 = [] from by rw [List.drop_eq_nil_iff]; omega, List.nil_append,
      List.take_append_of_le_length (by rw [sha3_length]), List.take_of_length_le (by rw [sha3_length])]

/-! #### Port and controllers -/

def withPort (f : Port → Port) (s : State) : State := { s with port := f s.port }
/-- The port trains at the width code given. -/
def trainingAt (w : Nat) : State := withPort (fun p => { p with width := 0, trying := w }) { up with sec := { up.sec with imageOk := true } }

theorem test_trainHypotheses : (∀ w ∈ [0, 1, 2, 3], (trainingAt w).training = true ∧ (trainingAt w).port.trying = w) ∧
    (∀ k, 0 ≤ k → k < 0 + 2 ^ 3 → k ∈ List.range 8 ∧ k ∉ (trainingAt 3).port.lanesOut) ∧ (∀ k, 6 ≤ k → k < 6 + 2 ^ 1 → k ∈ [6, 7] ∧ k ∉ (trainingAt 1).port.lanesOut) ∧
    up.portUp = true ∧ (withPort (fun p => { p with plugged := false }) up).port.plugged = false ∧ (15 : Nat) ≤ 15 ∧ ¬(16 : Nat) ≤ 15 := by
  refine ⟨by decide, ?_, ?_, by decide, by decide, by decide, by decide⟩
  · intro k _ h
    exact ⟨List.mem_range.2 h, List.not_mem_nil⟩
  · intro k h h'
    have : k = 6 ∨ k = 7 := by omega
    rcases this with rfl | rfl <;> decide

theorem test_protocolHypotheses : up.port.ipv4 = 1 ∧ up.ownV4 1 = true ∧ up.ownV4 2 = false ∧ up.ownV6 2 = true ∧ 2 ∉ up.port.conns ∧ 1 ∈ up.port.conns ∧ up.serving = true ∧
    (let s := withPort (fun p => { p with qps := [(4, 256, 6), (5, 1, 7)] }) up; s.portUp = true ∧ (s.port.qps.find? fun q => q.1 == 4) = some (4, 256, 6) ∧ (s.port.qps.find? fun q => q.1 == 5) = some (5, 1, 7) ∧
      ∀ q ∈ s.port.qps, q.1 ≠ 6) ∧ up.port.pfcPriority = 3 := by decide

def adminArgs (ctrlId kato : Nat) : ConnectArgs := ⟨false, 0, 32, ctrlId, 5, [], kato⟩
def ioArgs : ConnectArgs := ⟨false, 64, 1024, 1, 5, [], 0⟩
def crowded : State := { up with que := { up.que with ctrls := (List.range 256).map fun i => { host with id := i + 1 } } }

theorem test_connectHypotheses : up.portServes = true ∧ 1 ∈ up.port.conns ∧ (adminArgs 0xFFFF 1000).qid = 0 ∧ (1000 ≤ (adminArgs 0xFFFF 1000).kato ∧ (adminArgs 0xFFFF 120000).kato ≤ 120000) ∧
    ¬1000 ≤ (adminArgs 0xFFFF 999).kato ∧ crowded.freeCtrlId false = none ∧ up.ctrl? 2 = none ∧ (∀ k ∈ [1], (up.ctrl? k).isSome = true) ∧
    ioArgs.qid ≠ 0 ∧ up.ctrl? ioArgs.ctrlId = some host ∧ host.enabled = true ∧ host.hostId = ioArgs.hostId ∧ ioArgs.qid ≤ host.granted ∧ ioArgs.qsize ≤ 1024 ∧
    ({ up with boot := { up.boot with mode := .diagnostic } } : State).portServes = true ∧ tag.ctrl = host.id := by
  refine ⟨?_, ?_, ?_, ?_, ?_, ?_, ?_, ?_, ?_, ?_, ?_, ?_, ?_, ?_, ?_, ?_⟩ <;> decide +kernel

/-- Ends of a controller with one open session; a CC.EN cleared, properties read, a shutdown in both modes. -/
theorem test_controllerHypotheses : inUse.powered = true ∧ inUse.ctrl? 1 = some host ∧ inUse.sess? 1 = some sess1 ∧ sess1.ctrl = 1 ∧ inUse.portServes = true ∧ host.enabled = true ∧ inUse.boot.mode = .ready := by decide

/-! #### Admin commands -/

theorem test_adminHypotheses : Admits tag host up ∧ (∀ f ∈ [0x04, 0x06, 0x07, 0x0B, 0x0F, 0xE0, 0xE1, 0xE2, 0xE3, 0xE4], knownFeature f = true) ∧ knownFeature 0xE5 = false ∧ host.discovery = false ∧
    0xD5 ∉ [0x01, 0x02, 0x03, 0x04, 0x05, 0xD0, 0xD1, 0xD2, 0xD3, 0xD4] ∧ sliceOk 256 = true ∧ sliceOk 16384 = true ∧ sliceOk 255 = false ∧ sliceOk 16385 = false ∧
    ((0x00100000 : BitVec 32).extractLsb' 16 16).toNat = 16 ∧ ((0x000F0000 : BitVec 32).extractLsb' 16 16).toNat = 15 ∧ ((3600 : BitVec 32).extractLsb' 0 12).toNat ≤ 3600 ∧
    3600 < ((3601 : BitVec 32).extractLsb' 0 12).toNat ∧ ((0x7F00 : BitVec 32).extractLsb' 8 8).toNat ≤ 127 ∧ 127 < ((0x8000 : BitVec 32).extractLsb' 8 8).toNat ∧
    (1000 ≤ (1000 : BitVec 32).toNat ∧ (120000 : BitVec 32).toNat ≤ 120000) ∧ inUse.ns? 1 = some ns1 ∧ up.abortTag ⟨1, 9⟩ = none := by
  refine ⟨⟨by decide, rfl, rfl, rfl, by decide, rfl⟩, ?_, ?_, ?_, ?_, ?_, ?_, ?_, ?_, ?_, ?_, ?_, ?_, ?_, ?_, ?_, ?_, ?_⟩ <;> decide

/-- A held event; four requests outstanding and three; a write that waits. -/
theorem test_eventRequestHypotheses : (∀ c ∈ [{ host with held := [(2, 3, 0xD0)] }, { host with aers := [1, 2, 3] }, { host with aers := [1, 2, 3, 4] }], Admits tag c { up with que := { up.que with ctrls := [c] } }) ∧
    (∃ w ∈ ({ up with xlt := { capWaits := [⟨⟨1, 9⟩, 0, [(0, 0, [])], false, none⟩] } } : State).xlt.capWaits, w.tag = ⟨1, 9⟩) := by
  refine ⟨?_, ⟨_, List.mem_singleton.2 rfl, rfl⟩⟩
  intro c h
  simp only [List.mem_cons, List.not_mem_nil, or_false] at h
  rcases h with rfl | rfl | rfl <;> exact ⟨by decide, rfl, rfl, rfl, by decide, rfl⟩

/-! #### Namespaces, locks, SPDM -/

def nsTable (n : Nat) (charge : Nat) : State := { up with ns := { up.ns with list := (List.range n).map fun i => { ns1 with nsid := i + 1, charge := charge } } }

/-- A block namespace of 16 blocks described; one with blocks reserved refused; numbers and room at their ends. -/
theorem test_createHypotheses : (describe 0 16 16 (zeros 16)).isSome = true ∧ describe 0 16 15 (zeros 16) = none ∧ describe 2 16 16 (zeros 16) = none ∧
    ((describe 0 16 16 (zeros 16)).map fun n => decide (nsCharge n + ((nsTable 1 61183).ns.list.map fun m => m.charge).sum ≤ 61184)) = some true ∧
    ((describe 0 16 16 (zeros 16)).map fun n => decide (61184 < nsCharge n + ((nsTable 1 61184).ns.list.map fun m => m.charge).sum)) = some true ∧
    (∀ k ∈ (List.range 256).map (· + 1), ((nsTable 256 0).ns? k).isSome = true) ∧ (nsTable 255 0).ns? 256 = none ∧ up.stg.exhausted = false := by
  refine ⟨?_, ?_, ?_, ?_, ?_, ?_, ?_, ?_⟩ <;> decide +kernel

theorem test_deleteHypotheses : (∃ n ∈ inUse.ns.list, n.nsid = 1 ∧ n.deleting = none) ∧ (1 : Nat) ≠ allNs ∧ (∀ n ∈ inUse.ns.list, n.nsid = 2 → n.deleting.isSome = true) ∧
    (withNs { ns1 with deleting := some tag } up).ns? 1 = some { ns1 with deleting := some tag } ∧ (withNs { ns1 with formatting := some (tag, 1) } up).ns? 1 = some { ns1 with formatting := some (tag, 1) } ∧
    (let s : State := { up with ns := { up.ns with erasing := [(1, some tag), (2, some tag)] } }; (s.ns.erasing.find? fun e => e.1 == 1) = some (1, some tag) ∧
      (∃ e ∈ s.ns.erasing.filter fun e => e.1 != 1, e.2 = some tag)) := by
  refine ⟨⟨ns1, by decide, rfl, rfl⟩, by decide, by decide, by decide, by decide, by decide, ⟨(2, some tag), by decide, rfl⟩⟩

theorem test_formatHypotheses : (∀ m ∈ inUse.ns.list, m.nsid = 1 → m.formatting = none) ∧ inUse.ses.list ≠ [] ∧ up.ses.list = [] ∧ (∀ n ∈ (withNs ns1 up).ns.list, n.lockNow.readLock = false ∧ n.lockNow.writeLock = false) ∧
    (∃ n ∈ (withNs { ns1 with lock := { readLock := true } } up).ns.list, n.lockNow.readLock = true ∨ n.lockNow.writeLock = true) ∧ (withNs ns1 up).stg.loaded = true := by
  refine ⟨by decide, by decide, rfl, by decide, ⟨_, List.mem_singleton.2 rfl, by decide⟩, rfl⟩

/-- A full format at work on die 0: before its last erase, with its erases over, and at the four dies of a channel that erase. -/
theorem test_fullFormatHypotheses : (∀ b ∈ [4095, 4096], let s : State := { withFla (fun f => { f with formatNext := [(0, b)] }) up with ns := { up.ns with formatAll := some tag } }
      s.ns.formatAll = some tag ∧ s.flashClock = true ∧ ((∃ d ∈ s.fla.dies, s.dieIn d = true ∧ Tab.get 0 s.fla.formatNext d < 4096) ↔ b = 4095) ∧ s.fla.ops = [] ∧ s.planesIn 0 4095 ≠ []) ∧
    (∀ n ∈ [3, 4], (withFla (fun f => { f with ops := (List.range n).map fun k => ⟨k + 1, .erase 5 [0], 80, 120, false⟩ }) up).erasingOn (chanOf 0) = n) := by
  refine ⟨?_, ?_⟩ <;> decide +kernel

/-- A password block for namespace 1: flags, lengths of the old and new password, and its crc. -/
def lockData (flags old new crc : Nat) : Bytes :=
  let h := toLe 4 1 ++ toLe 1 flags ++ toLe 1 old ++ toLe 1 new ++ zeros 133
  h ++ toLe 4 (crc32c h + crc)
/-- A lock whose password is n zero bytes. -/
def lockOf (n failures : Nat) : Lock := { passwordSet := true, salt := zeros 32, verifier := verifierOf (zeros 32) (slice (lockData 0 n 0 0) 8 n), failures := failures }

set_option maxRecDepth 100000 in
theorem test_lockFields : (∀ f ∈ [0, 7], lockFieldsOk 2 (lockData f 64 0 0) = true) ∧ lockFieldsOk 1 (lockData 0 0 64 0) = true ∧ lockFieldsOk 3 (lockData 0 4 0 0) = true ∧
    lockFieldsOk 2 (lockData 8 0 0 0) = false ∧ lockFieldsOk 1 (lockData 0 0 65 0) = false ∧ lockFieldsOk 3 (lockData 0 0 0 1) = false ∧
    (withNs ns1 up).ns? (field (lockData 0 0 0 0) 0 4) = some ns1 ∧ field (lockData 0 4 0 0) 5 1 = 4 ∧ field (lockData 0 4 9 0) 6 1 = 9 := by
  refine ⟨?_, ?_, ?_, ?_, ?_, ?_, ?_, ?_, ?_⟩ <;> decide +kernel

/-- The old password matches; without one set it does not; failures on both sides of eight. -/
theorem test_lockHypotheses : oldMatches (lockOf 4 7) (lockData 0 4 0 0) = true ∧ oldMatches {} (lockData 0 4 0 0) = false ∧ (lockOf 4 7).failures < 8 ∧ 8 ≤ (lockOf 4 8).failures ∧
    (lockOf 4 7).passwordSet = true ∧ ({} : Lock).passwordSet = false := by
  have h : field (lockData 0 4 0 0) 5 1 = 4 := by decide +kernel
  exact ⟨by rw [oldMatches, h]; simp [lockOf], rfl, by decide, by decide, rfl, rfl⟩

theorem test_spdmHypotheses : Admits tag host up ∧ up.spdmAt 1 = 0 ∧ (∀ n ∈ [1, 2, 3], ({ up with sec := { up.sec with spdm := [(1, n)] } } : State).spdmAt 1 = n) ∧ (up.spdmChain 0).isSome = true ∧ up.spdmChain 1 = none ∧
    ({ up with sec := { up.sec with chain := [1] } } : State).spdmChain 1 = some [1] ∧ (up.measurement 1).isSome = true ∧ (up.measurement 7).isSome = true := by
  exact ⟨⟨by decide, rfl, rfl, rfl, by decide, rfl⟩, by decide, by decide, rfl, by decide, by decide, rfl, rfl⟩

/-! #### Bring-up -/

/-- Bring-up in self-test with the phases given. -/
def inTest (ph : Phases) : State := { State.reset with pwr := { standby := true, rails := true, measured := true }, boot := { mode := .bringUp, ph := { ph with fuses := true, records := true } } }

theorem test_bringUpHypotheses : (∀ ph ∈ [({} : Phases), { dram := true }, { channels := true }, { filled := true }, phases], (inTest ph).testing = true) ∧ State.reset.powered = false ∧ up.testing = false ∧ up.starting = false ∧
    starting.starting = true ∧ (inTest { dram := true }).boot.ph.filled = false ∧ (inTest { channels := true }).boot.ph.dies = false ∧ (inTest {}).boot.ph.lanes = false ∧ (inTest {}).boot.ph.coaches = false ∧
    (let s : State := { inTest { filled := true, image := true, dies := true, coaches := true } with sec := { State.reset.sec with imageOk := true } }
     s.boot.ph.topology = false ∧ (s.boot.ph.filled && s.boot.ph.image && s.sec.imageOk && s.boot.ph.dies && s.boot.ph.coaches && s.bankDone) = true) ∧
    (let s := inTest { filled := true }; (s.boot.ph.filled && s.boot.ph.image && s.sec.imageOk && s.boot.ph.dies && s.boot.ph.coaches && s.bankDone) = false) := by
  refine ⟨by decide, by decide, by decide, by decide, by decide, by decide, by decide, by decide, by decide, by decide, by decide⟩

theorem test_recordsHypotheses : let s : State := { State.reset with pwr := { standby := true, rails := true }, boot := { mode := .bringUp, ph := { fuses := true } }, clk := { core := ⟨true, none, none⟩, flash := ⟨true, none, none⟩, dram := ⟨true, none, none⟩ } };
    s.powered = true ∧ s.boot.ph.records = false ∧ s.clocksUp = true ∧ s.stg.loaded = false := by decide

set_option maxRecDepth 100000 in
theorem test_startHypotheses : (let s : State := { starting with boot := { starting.boot with ph := { phases with firmware := false, scan := false, replay := false, stamp := false, work := false } } }
      s.starting = true ∧ s.boot.ph.firmware = false ∧ s.boot.ph.scan = false) ∧
    (let s : State := { starting with boot := { starting.boot with ph := { phases with replay := false, stamp := false, work := false } } }
     s.starting = true ∧ s.boot.ph.scan = true ∧ s.boot.ph.replay = false ∧ s.newestMark.clean = false ∧
      ({ s with
        xlt := { s.xlt with marks := [{ emptyMark with clean := true, places := [⟨0, 0, 9, 0, 0⟩] }] }
        fla := { s.fla with words := [(cwKey ⟨0, 0, 9, 0, 0⟩, { data := zeros 508 ++ toLe 4 (crc32c (zeros 508)), kind := 3 })] } } : State).newestMark.clean = true) ∧
    (let s : State := { starting with stg := up.stg, port := { up.port with passDone := true } }
     s.starting = true ∧ s.boot.mode = .bringUp ∧ s.stg.loaded = true ∧ s.boot.ph.work = false ∧ s.bankDone = true ∧ s.portDone = true ∧ s.xlt.markDue = none ∧ s.xlt.sets = [] ∧ s.fla.testBlocks = []) := by
  refine ⟨?_, ?_, ?_⟩ <;> decide +kernel

/-! #### Power -/

def withPwr (f : Pwr → Pwr) (s : State) : State := { s with pwr := f s.pwr }

theorem test_bankHypotheses : up.powered = true ∧ (let s := withPwr (fun p => { p with measured := false, vbank := 550 }) up; s.pwr.bank = .ready ∧ vchg s.pwr.cMeas ≤ s.pwr.vbank + 10 ∧
      s.xlt.buf.length * 16384 ≤ dirtyCap s.pwr.cMeas s.pwr.vbank s.fla.channels.length true * 67108864) ∧
    (∀ b ∈ [Bank.charging, .measuring, .fault], (withPwr (fun p => { p with bank := b }) up).pwr.bank = b ∧ (withPwr (fun p => { p with bank := b }) up).powered = true) ∧
    (withPwr (fun p => { p with vbank := 100 }) up).pwr.vbank + 10 < vchg up.pwr.cMeas ∧ (78 : Nat) ≤ 78 ∧ (77 : Nat) < 78 := by
  refine ⟨?_, ⟨?_, ?_, ?_⟩, ?_, ?_, ?_, ?_⟩ <;> decide +kernel

/-- R432's example: 33.5 mF at 55.0 V with 64 channels gives a cap of 237. -/
theorem test_dirtyCapExample : dirtyCap 335 550 64 false = 237 := by decide +kernel

theorem test_lossHypotheses : up.pwr.rails = true ∧ up.pwr.seq = .none ∧ up.stg.loaded = true ∧ up.pwr.hold = false ∧ up.pwr.standby = true ∧ (withPwr (fun p => { p with hotRun := 16 }) up).pwr.hotRun = 16 ∧
    up.pwr.hotRun < 16 ∧ up.port.width ≠ 0 := by decide

def losing (seq : PwrSeq) (trigger : Nat) : State := withPwr (fun p => { p with seq := seq, trigger := trigger, lossStage := 99 }) up

theorem test_sequenceHypotheses : (losing .quiesce 1).pwr.seq ≠ .none ∧ (losing .quiesce 1).fla.ops = [] ∧ (let s := { losing .quiesce 1 with fla := (busy (.erase 5 [0]) 101).fla }; ∃ o ∈ s.fla.ops, o.ended = false ∧ o.starts ≤ s.stg.stage) ∧ (losing .quiesce 1).pwr.lossStage < (losing .quiesce 1).stg.stage ∧
    (withPwr (fun p => { p with lossStage := 100 }) (losing .quiesce 1)).stg.stage ≤ 100 ∧ (∀ k ∈ [4, 5, 7], (losing .flush k).fromInput = true) ∧ (∀ k ∈ [1, 2, 3, 6], (losing .flush k).fromInput = false) ∧
    (withPwr (fun p => { p with seated := false }) (losing .flush 6)).pwr.seated = false ∧ (losing .quiesce 1).flushOver = false ∧ (losing .flush 1).flushOver = false ∧ (withPwr (fun p => { p with spilled := true }) (losing .flush 1)).flushOver = true ∧
    (withPwr (fun p => { p with energyGone := true }) (losing .flush 1)).flushOver = true := by
  refine ⟨?_, ?_, ?_, ?_, ?_, ?_, ?_, ?_, ?_, ?_, ?_, ?_⟩ <;> decide +kernel

/-- The module off: free to start, held, held off; HOLD while the rails are on; the configuration bus joined. -/
def asleep (hold heldOff : Bool) : State := { State.reset with pwr := { standby := true, hold := hold, heldOff := heldOff, busJoined := hold } }

theorem test_offHypotheses : (asleep false false).boot.mode = .off ∧ (asleep false false).pwr.rails = false ∧ (asleep true false).pwr.hold = true ∧ (asleep false true).pwr.heldOff = true ∧
    (withPwr (fun p => { p with hold := true }) up).pwr.rails = true ∧ (asleep true false).pwr.busJoined = true ∧ (asleep true false).pwr.standby = true ∧ (0x3FFFFFF : Nat) + 1 ≤ 0x4000000 ∧
    Tab.wf 0xFF (asleep true false).boot.cfg = true ∧ (withPwr (fun p => { p with seated := false }) (asleep false false)).pwr.seated = false := by decide

/-- A byte written to the end of the configuration memory is read back over the bus. -/
theorem test_configBus : (configBusTransfer false 0x3FFFFFF 1 [] (configBusTransfer true 0x3FFFFFF 1 [7] (asleep true false))).boot.cfgOut = [7] := by decide +kernel

/-! #### Faults -/

def err (cls : ErrClass) (kind stage : Nat) (taken raised : Bool) : Err := ⟨cls, ⟨kind, 0⟩, stage * 16384, taken, raised⟩
def erring (q : List Err) : State := { up with fwc := { up.fwc with errq := q } }

theorem test_raiseHypotheses : (∀ e ∈ (erring []).fwc.errq, e.obj = ⟨2, 0⟩ → e.taken = true → e.raised = true) ∧
    (let s := erring (List.replicate 60 (err .note 1 90 false false)); (∀ e ∈ s.fwc.errq, e.obj = ⟨2, 0⟩ → e.taken = true → e.raised = true) ∧ 60 ≤ (s.fwc.errq.filter fun e => e.cls != .fatal).length) ∧
    (let s := erring (List.replicate 4 (err .fatal 1 90 false false)); 4 ≤ (s.fwc.errq.filter fun e => e.cls == .fatal).length) ∧
    (∃ e ∈ (erring [err .note 2 90 true false]).fwc.errq, e.obj = ⟨2, 0⟩ ∧ e.taken = true ∧ e.raised = false) := by
  refine ⟨by decide, ⟨by decide, by decide⟩, by decide, ⟨_, List.mem_singleton.2 rfl, rfl, rfl, rfl⟩⟩

theorem test_handleHypotheses : (∀ c ∈ [ErrClass.note, .recoverable, .severe], ∀ k ∈ [2, 9], let s := erring [err .fatal 1 80 true false, err c k 90 false false, err .note 3 91 false false]
      s.mainRuns = true ∧ (∀ e ∈ s.fwc.errq, e.taken = true → e.cls = .fatal) ∧
      (∀ f ∈ s.fwc.errq, f.cls ≠ .fatal → f.taken = false → f = err c k 90 false false ∨ (err c k 90 false false).stamp < f.stamp)) ∧
    (erring [err .recoverable 2 90 true false]).fwc.errq.find? (fun e => e.taken && e.cls != .fatal) = some (err .recoverable 2 90 true false) := by decide

theorem test_fatalHypotheses : firstFatal (erring []).fwc.errq = none ∧ (∀ k ∈ [0, 1, 2, 3, 4, 5, 6, 7, 8, 9, 10, 11], firstFatal (erring [err .fatal k 99 false false]).fwc.errq = some (err .fatal k 99 false false)) ∧
    stampStage (99 * 16384) < up.stg.stage ∧ up.stg.stage ≤ stampStage (100 * 16384) ∧ up.fwc.direct = [] ∧ up.limpServes = false := by decide

theorem test_restartHypotheses : up.mainRuns = true ∧ ({ up with fwc := { up.fwc with retest := [⟨2, 0⟩] } } : State).fwc.retest = [⟨2, 0⟩] ∧
    (∀ n ∈ [2, 3], (((List.replicate n (5, 90) : List (Nat × Nat))).filter fun r => decide (r.1 = 5) && decide (up.stg.stage < r.2 + 1048576)).length = n) ∧
    3 ∈ ({ up with fwc := { up.fwc with restarting := [3] } } : State).fwc.restarting ∧ coreComponents 4 = [3] ∧ coreComponents 0 = [0] ∧ coreComponents 7 = [6, 7] ∧ up.teamServes 15 = true := by decide +kernel

/-- A whole mailbox message and one with a wrong crc. -/
theorem test_mailboxHypotheses : (let m : Bytes := zeros 12 ++ toLe 4 (crc32c (zeros 12 ++ [1])) ++ [1]; 16 ≤ m.length ∧ field m 12 4 = crc32c (m.take 12 ++ m.drop 16)) ∧
    field (zeros 16) 12 4 ≠ crc32c ((zeros 16).take 12 ++ (zeros 16).drop 16) := by decide +kernel

/-! #### An owner chain that stands -/

theorem getBytes_length (d : Byte) (t : Table Byte) (n a : Nat) : (Tab.getBytes d t a n).length = n := by
  induction n generalizing a with
  | zero => rfl
  | succ n ih => simp [Tab.getBytes, ih]

theorem getBytes_slice (d : Byte) (a off n : Nat) (l : Bytes) (h : off + n ≤ l.length) : Tab.getBytes d (bytesAt a l) (a + off) n = slice l off n := by
  have e := getBytes_bytesAt d a l
  rw [show l.length = off + (n + (l.length - off - n)) from by omega, getBytes_add, getBytes_add] at e
  have h2 := congrArg (fun b => slice b off n) e
  rw [← h2, slice, List.drop_left' (getBytes_length ..), List.take_left' (getBytes_length ..)]

theorem leNat_toLe (n x : Nat) (h : x < 256 ^ n) : leNat (toLe n x) = x := by
  induction n generalizing x with
  | zero => simp at h; simp [toLe, leNat, h]
  | succ n ih =>
    have hx : x / 256 < 256 ^ n := by rw [Nat.div_lt_iff_lt_mul (by decide)]; rw [Nat.pow_succ] at h; exact h
    rw [toLe, leNat, ih _ hx, BitVec.toNat_ofNat]; omega

theorem slice_mid (p q r : Bytes) (off n : Nat) (hp : p.length = off) (hq : q.length = n) : slice (p ++ (q ++ r)) off n = q := by
  rw [slice, List.drop_left' hp, List.take_left' hq]

/-- An OWNER_CHAIN value of the flags given, without a chain, and its record. -/
def ownerValue (flags : Nat) : Bytes := toLe 4 flags ++ zeros 9820
def ownerHead : Bytes := toLe 4 8 ++ toLe 4 9824
def ownerRec (flags : Nat) : Bytes := ownerHead ++ (ownerValue flags ++ toLe 4 (crc32c (ownerHead ++ ownerValue flags)))

def chained (flags : Nat) : State := { inTest { filled := true, image := true } with
  stg := { capable := true }
  sec := { State.reset.sec with imageOk := true, owners := [sha3_512 (slice (ownerValue flags) 2600 2592)] }
  boot := { mode := .bringUp, ph := { fuses := true, records := true, filled := true, image := true }, cfg := bytesAt recordsFrom (ownerRec flags) } }

theorem ownerValue_length (f : Nat) : (ownerValue f).length = 9824 := by rw [ownerValue, List.length_append, toLe_length, zeros, List.length_replicate]
theorem ownerRec_length (f : Nat) : (ownerRec f).length = 9836 := by simp [ownerRec, ownerHead, ownerValue_length, toLe_length]

theorem chained_records (f : Nat) : (chained f).records = [⟨recordsFrom, 8, ownerValue f, true⟩] := by
  have get : ∀ off n, off + n ≤ 9836 → (chained f).cfgBytes (recordsFrom + off) n = slice (ownerRec f) off n := fun off n h => getBytes_slice _ _ _ _ _ (by rw [ownerRec_length]; exact h)
  have hh : (chained f).cfgBytes recordsFrom 8 = ownerHead := by
    rw [show recordsFrom = recordsFrom + 0 from rfl, get 0 8 (by decide), ownerRec, slice_left _ _ _ _ (by decide)]; decide
  have hv : (chained f).cfgBytes (recordsFrom + 8) 9824 = ownerValue f := by
    rw [get 8 9824 (by decide)]; exact slice_mid _ _ _ _ _ rfl (ownerValue_length f)
  have hc : (chained f).cfgBytes (recordsFrom + 8 + 9824) 4 = toLe 4 (crc32c (ownerHead ++ ownerValue f)) := by
    rw [Nat.add_assoc, get (8 + 9824) 4 (by decide), ownerRec, ← List.append_assoc, slice, List.drop_left' (by simp [ownerHead, ownerValue_length, toLe_length]),
      List.take_of_length_le (by simp [toLe_length])]
  have hn : (chained f).cfgBytes (recordsFrom + 9840) 8 = List.replicate 8 0xFF := getBytes_past _ _ _ _ _ (by rw [ownerRec_length]; decide)
  have hl : field ownerHead 4 4 = 9824 := by decide
  have ht : field ownerHead 0 2 = 8 := by decide
  have hcc : field (toLe 4 (crc32c (ownerHead ++ ownerValue f))) 0 4 = crc32c (ownerHead ++ ownerValue f) := by
    rw [field, slice, List.drop_zero, List.take_of_length_le (by simp [toLe_length]), leNat_toLe _ _ (by rw [crc32c]; exact BitVec.isLt _)]
  show readRecords (chained f) (2097150 + 1 + 1) recordsFrom = _
  rw [readRecords]
  simp only [hh, hl, ht, hv, hc, hcc, beq_self_eq_true]
  rw [show roundUp (recordsFrom + 12 + 9824) 8 = recordsFrom + 9840 from by decide, readRecords]
  simp only [hn]
  rfl

set_option maxRecDepth 100000 in
theorem ownerValue_ok : ∀ f ∈ [1, 2], ownerChainOk (ownerValue f) = true := by decide +kernel

/-- Owner chains that take the owner over and that end the ability to yoke, signed by the owner in place. -/
theorem test_ownerHypotheses : ∀ f ∈ [1, 2], (chained f).testing = true ∧ (chained f).sec.imageOk = true ∧ (chained f).boot.ph.owner = false ∧ (chained f).stg.capable = true ∧ (chained f).sec.owners.length < 5 ∧
    ∃ r, (chained f).standing.find? (fun r => r.type == 8) = some r ∧ (chained f).sec.owners.getLast? = some (sha3_512 (slice r.value 2600 2592)) ∧
      (f = 1 → bit (field r.value 0 4) 0 = true) ∧ (f = 2 → bit (field r.value 0 4) 0 = false ∧ bit (field r.value 0 4) 1 = true) := by
  intro f hf
  have hs : (chained f).standing = [⟨recordsFrom, 8, ownerValue f, true⟩] := by
    rw [State.standing, chained_records]
    simp [sortRecords, knownType, within, valueCause, ownerValue_ok f hf]
  have hv : field (ownerValue f) 0 4 = field (toLe 4 f) 0 4 := by rw [field, field, ownerValue, slice_left _ _ _ _ (by simp [toLe_length])]
  refine ⟨rfl, rfl, rfl, rfl, (show 1 < 5 by decide), ⟨recordsFrom, 8, ownerValue f, true⟩, by rw [hs]; rfl, rfl, ?_, ?_⟩
  · rintro rfl; simp only [hv]; decide
  · rintro rfl; simp only [hv]; decide

/-! ### The spec's own worked examples -/

/-- 04, ties away from zero. -/
theorem test_tiesAway : encodeVal .bf16 (F32.val 0x3F808000) = 0x3F81 ∧ encodeVal .bf16 (F32.val 0xBF808000) = 0xBF81 ∧ fadd 0x3F800000 0x33800000 = 0x3F800001 ∧
    encodeVal .fp16 (F32.val 0x45001000) = 0x6801 ∧ fmul 0x1A000000 0x1A000000 = 0x00000001 := by decide +kernel

/-- 04, the scaling order of a column: 3.0 × scale, then + 1.0 × scale, is 0.400390625. -/
theorem test_scalingOrder : fadd (fmul 0x40400000 (widen .bf16 0x3DCD)) (fmul 0x3F800000 (widen .bf16 0x3DCD)) = 0x3ECD0000 := by decide +kernel

/-- 04, an E4M3 activation with margin 1 and amax 3.1: exponent −6, E8M0 code 121, and the codes of 3.1, 3.125, 5.0 and 8.0, the last a
saturation. -/
theorem test_historyScale : scaleExponent [0x40000000, 0x40466666, 0x402CCCCD, 0] 1 .e4m3 0 = -6 ∧ scaleCode (-6) = 121 ∧
    [0x40466666, 0x40480000, 0x40A00000, 0x41000000].map (fun x => quantCode .e4m3 x (scaleF32 (-6))) = [(0x74, false), (0x75, false), (0x7A, false), (0x7E, true)] := by decide +kernel

/-- 04, the outlier of a block of 64: 64.0 becomes 8.0 in every position. -/
theorem test_outlier : rotateBlock false (zeros 8) (0x42800000 :: List.replicate 63 0) = List.replicate 64 0x41000000 := by decide +kernel

/-- 05, REDUCE over 2²⁴ and 129 ones: 16,777,408. -/
theorem test_orderedSum : orderedSum (0x4B800000 :: List.replicate 129 0x3F800000) = 0x4B800060 := by decide +kernel

/-- 03, 64 rows by a 1,024 × 1,024 INT8 tile set: 32,899 core cycles, and 32,963 at 128 rows. -/
theorem test_gridCycles : ∀ m ∈ [(64, 32899), (128, 32963)],
    Tab.get 0 (matrixInstruction 0 0 ⟨m.1, 1024, 1024, 0, 0, .bf16, List.replicate 256 ⟨0, .int8, 0, .none⟩, 0, 0, false⟩ none up).coa.gridCycles 0 = m.2 := by decide +kernel

/-- 13, a code word of one 0x01, its check bytes and syndromes, and the error of a flipped data byte 0. -/
theorem test_symbolCode : rsEncode (zeros 15 ++ [1]) = (0x03, 0x02) ∧ syndromes (zeros 15 ++ [1]) 0x03 0x02 = (0, 0) ∧ syndromes (0x10 :: zeros 14 ++ [1]) 0x03 0x02 = (0x10, 0x75) ∧
    classOf 0x10 0x75 false = .corrected 17 0x10 ∧ alpha 17 = 0x98 := by decide +kernel

/-- 10, the row layout and the predicate "region = 7 and price < 25.0 and (tag begins with EU or flag bit 2 is set)". -/
def rowColumns : List Column := [⟨8, 0, 8⟩, ⟨6, 8, 2⟩, ⟨6, 10, 2⟩, ⟨0x0B, 12, 4⟩, ⟨0x0C, 16, 16⟩, ⟨0x0C, 32, 64⟩]
def node (op col len value : Nat) : Bytes := toLe 1 op ++ toLe 1 col ++ toLe 2 len ++ zeros 4 ++ toLe 8 value
def regionPredicate : Bytes :=
  toLe 2 122 ++ [7, 0, 2, 0, 0, 0] ++ node 1 1 0 7 ++ node 3 3 0 0x41C80000 ++ node 0x20 0 0 0 ++ node 1 4 2 0 ++ node 8 2 0 4 ++ node 0x21 0 0 0 ++ node 0x20 0 0 0 ++ [0x45, 0x55]
def row (region flags price : Nat) (tag : Bytes) : Bytes := zeros 8 ++ toLe 2 region ++ toLe 2 flags ++ toLe 4 price ++ fit 16 tag ++ zeros 64

theorem test_predicate : regionPredicate.length = 122 ∧ predValid rowColumns regionPredicate = true ∧ perWord 96 = 42 ∧ predMatches rowColumns regionPredicate (row 7 4 0x7FC00000 []) = false ∧
    predMatches rowColumns regionPredicate (row 7 4 0x41C00000 []) = true ∧ predMatches rowColumns regionPredicate (row 7 0 0x41C00000 [0x45, 0x55, 0x31]) = true ∧
    predMatches rowColumns regionPredicate (row 7 0 0x41C00000 [0x45]) = false ∧ predMatches rowColumns regionPredicate (row 8 4 0x41C00000 []) = false := by decide +kernel

/-- 14, LBAs 10 to 21 touch units 2 to 5, whose locators take code words 2, 0, 0 and 0; the locator of unit 3. -/
theorem test_locator : lowestSlots (pieces 10 12 []) = [(2, 2), (3, 0), (4, 0), (5, 0)] ∧ ppa 613 1200 37 = 0x4CA96025 ∧
    (State.locator { State.reset with fla := { words := [(cwKey ⟨613, 2, 1200, 37, 0⟩, { stamp := 0x0BA143E2580, gen := 4711 })] } } 2 0 (mkEntry 0x3E2580 2 (ppa 613 1200 37))).take 12 =
      toLe 4 0x4CA96025 ++ toLe 4 0x143E2580 ++ toLe 4 0x02801267 := by decide +kernel

/-- 00, the stamp 48,779,512:9,600. -/
theorem test_stamp : (withStg (fun g => { g with stage := 48779512, cycle := 9600 }) up).stamp = 0xBA143E2580 ∧ stampStage 0xBA143E2580 = 48779512 := by decide +kernel

end Sys2Proof.Tests
end

section
/-! PROOFS. A step of the machine, and the operations of the catalogue that compute from their operands. -/

namespace Sys2Proof.Proofs

open Sys2Proof.Machine Sys2Proof.Safety

/-- Settles O1: both sides unfold to the same branch of `step`. -/
theorem stepTakesFrontCommand : Obligations.StepTakesFrontCommand := by
  refine ⟨fun c rest s => rfl, fun s h => ?_⟩
  rw [step, h]

/-! ### What an operation does with its operands (R136, R159, R161, R209) -/

section
variable {code sess op : Nat} {f : OpEnv → Option OpOut} {s u : State} {x0 x : Session} {r0 r : Run} {o : OpRec} {q : Ready} {out : OpOut}

/-- An operation whose turn has not come. -/
theorem runOp_eq_self_of_nextOf?_none (hn : s.nextOf? sess op code = none) : runOp code f sess op s = s := by
  rw [runOp, hn]

variable (hn : s.nextOf? sess op code = some (x0, r0, o)) (hr : (s.enterGroup sess o.group).run? sess = some (x, r)) (hf : r.fault = 0)
  (he : (s.enterGroup sess o.group).opEnv x r o = (q, u))
include hn hr hf he

/-- A fault that the reads of the operands meet ends the run. -/
theorem runOp_eq_faultRun (hc : q.code ≠ 0) : runOp code f sess op s = u.faultRun sess q.code (some op) := by
  simp [runOp, hn, hr, hf, he, hc]

theorem runOp_eq_skip (hc : q.code = 0) (hs : skipsOp q.env = true) : runOp code f sess op s = (u.flagRun sess 0).opDone sess op := by
  simp [runOp, hn, hr, hf, he, hc, hs]

theorem runOp_eq_deliver (hc : q.code = 0) (hs : skipsOp q.env = false) (hk : q.unknown = false) (ho : f q.env = some out) :
    runOp code f sess op s = (u.deliver sess op out).opDone sess op := by
  simp [runOp, hn, hr, hf, he, hc, hs, hk, ho]

/-- Where the function is not defined or an operand is unknown, every result is free bytes (R4, R129). -/
theorem runOp_eq_putFree (hc : q.code = 0) (hs : skipsOp q.env = false) (hk : q.unknown = true ∨ f q.env = none) :
    runOp code f sess op s = ((targetsOf r.route.image o).foldl (State.putFree sess op) u).opDone sess op := by
  have h : (if q.unknown then none else f q.env) = none := by
    rcases hk with hk | hk <;> simp [hk]
  simp [runOp, hn, hr, hf, he, hc, hs, h]

end

/-- Settles O36: each of the 32 commands is `runOp` with its opcode and its function, and `runOp` answers case by case. -/
theorem operationsComputeWriteAndAdvance : Obligations.OperationsComputeWriteAndAdvance := by
  intro sess op s p hp
  have hexec : exec p.2.1 s = .next (runOp p.1 p.2.2 sess op s) := by
    fin_cases hp <;> rfl
  rw [hexec]
  refine ⟨fun hn => by rw [runOp_eq_self_of_nextOf?_none hn], fun x0 r0 o hn x r hr hf q u he => ⟨fun hc => ?_, fun hc hs => ?_, fun hc hs hk out ho => ?_, fun hc hs hk => ?_⟩⟩
  · rw [runOp_eq_faultRun hn hr hf he hc]
  · rw [runOp_eq_skip hn hr hf he hc hs]
  · rw [runOp_eq_deliver hn hr hf he hc hs hk ho]
  · rw [runOp_eq_putFree hn hr hf he hc hs hk]

end Sys2Proof.Proofs
end

section
/-! PROOFS. Reads of namespaces: by the map, by a locator, and after a leaf has been loaded (R334 to R347, R412). -/

namespace Sys2Proof.Proofs

open Sys2Proof.Machine Sys2Proof.Safety

variable {s t : State}

/-! ### Commands that reach their meaning -/

/-- An admitted command whatever states of R399 serve it. -/
theorem command_of_admits {tag : Tag} {c : Ctrl} (h : Admits tag c s) (w : Serve) (f : Ctrl → State → State) : s.command tag w f = f c s := by
  obtain ⟨hport, hctrl, hen, hmode, hlimp, hpend⟩ := h
  simp [State.command, hport, hctrl, hen, hmode, hlimp, hpend]

/-- A read command that passes its checks (R345, R398). -/
theorem readCommand_of_admits {tag : Tag} {c : Ctrl} {nsid slba nlb : Nat} {n : Ns} (h : Admits tag c s) (hn : s.ns? nsid = some n)
    (hr : (slba + nlb + 1) * n.lba ≤ n.size) (hm : (nlb + 1) * n.lba ≤ 8388608) (hf : n.formatting = none) (hl : n.lock.readLock = false)
    (f : Ns → State → State) : s.readCommand tag nsid slba nlb 0 f = f n s := by
  have hrange : inRange n slba (nlb + 1) = true := decide_eq_true hr
  have hmdts : overMdts n (nlb + 1) = false := decide_eq_false (by omega)
  simp [State.readCommand, command_of_admits h, hn, hrange, hmdts, hf, hl]

/-! ### The map path (R338, R347) -/

theorem mapRead_of_missing {w : LeafWait} (h : s.missingLeaves w.ns w.first w.count ≠ []) :
    s.mapRead w = ({ s with xlt := { s.xlt with leafWaits := s.xlt.leafWaits ++ [w] } } : State).loadLeaves w := by
  simp [State.mapRead, h]

theorem mapRead_of_hit {w : LeafWait} (h : s.missingLeaves w.ns w.first w.count = []) : s.mapRead w = s.senseRead w := by
  simp [State.mapRead, h]

theorem senseRead_of_nil {w : LeafWait} (h : ((s.readWords w.ns w.first w.count).filter fun a => s.dieIn a.die) = []) :
    s.senseRead w = s.finishRead w := by
  rw [State.senseRead, h]

theorem senseRead_of_ne_nil {w : LeafWait} (h : ((s.readWords w.ns w.first w.count).filter fun a => s.dieIn a.die) ≠ []) :
    s.senseRead w = s.startPlain (.read w) ((s.readWords w.ns w.first w.count).filter fun a => s.dieIn a.die) true := by
  rw [State.senseRead]
  split
  · contradiction
  · rfl

/-! ### What a slot reads as (R334, R335, R341) -/

theorem readSlot_of_buffered {ns unit slot : Nat} {d : Bytes} (h : s.buffered ns unit slot = some d) : s.readSlot ns unit slot = .data d := by
  rw [State.readSlot, h]

theorem readSlot_of_unmapped {ns unit slot : Nat} (h : s.buffered ns unit slot = none) (he : entPpa (s.entry ns unit) = 0xFFFFFFFF) :
    s.readSlot ns unit slot = .data [] := by
  simp [State.readSlot, h, he, unmappedPpa]

theorem readSlot_of_lost {ns unit slot : Nat} (h : s.buffered ns unit slot = none) (he : entPpa (s.entry ns unit) = 0xFFFFFFFE) :
    s.readSlot ns unit slot = .lost := by
  simp [State.readSlot, h, he, unmappedPpa, lostPpa]

theorem readSlot_of_mapped {ns unit slot : Nat} {n : Ns} (h : s.buffered ns unit slot = none) (he : entPpa (s.entry ns unit) < 0xFFFFFFFE)
    (hd : s.dieIn (entDie (s.entry ns unit)) = true) (hn : s.ns? (ns + 1) = some n) :
    s.readSlot ns unit slot =
      if wordChecks (s.word (entAddr (s.entry ns unit) slot)) ns unit slot (entStamp (s.entry ns unit)) then
        .data (openData n.key (s.word (entAddr (s.entry ns unit) slot)))
      else .fault := by
  have hu : entPpa (s.entry ns unit) ≠ unmappedPpa := (he.trans (by decide)).ne
  have hl : entPpa (s.entry ns unit) ≠ lostPpa := he.ne
  simp [State.readSlot, h, hu, hl, hd, hn]

/-! ### The end of a read (R5, R412) -/

/-- Nothing of a read is open where no write in flight names its slots. -/
theorem openRead_of_quiet {ns first : Nat} {d : Bytes}
    (h : ∀ i, i < d.length / 4096 → s.slotInFlight ns ((first + i) / 4) ((first + i) % 4) = false) : s.openRead ns first d = (d, s) := by
  refine List.foldlRecOn (motive := fun a => a = (d, s)) _ _ rfl fun a ha i hi => ?_
  rw [ha, if_neg (by simp [h i (List.mem_range.1 hi)])]

theorem finishRead_of_data {w : LeafWait} {d : Bytes} (hw : w.stale = false)
    (h : readSlots w.ns w.first w.count (s.touchRead w.ns w.first w.count) = (some d, t)) :
    s.finishRead w = (t.openRead w.ns w.first d).2.succeed w.tag 0 0 (t.openRead w.ns w.first d).1 := by
  simp [State.finishRead, h, hw]

theorem finishRead_of_error {w : LeafWait} (h : readSlots w.ns w.first w.count (s.touchRead w.ns w.first w.count) = (none, t)) :
    s.finishRead w = t.fail w.tag .readError := by
  simp [State.finishRead, h]

/-! ### A locator's page has landed (R345, R346) -/

theorem plainStep_lands {p : Plain} (hs : p.senses = []) (hseats : p.seats = some []) (hr : ∀ r ∈ s.fla.recov, r.word ∉ p.words)
    (hc : ∀ a ∈ p.words, (s.cached a).isSome = true) : s.plainStep p = s.landPlain p := by
  have hrecov : (s.fla.recov.any fun r => p.words.contains r.word) = false := by
    simpa [List.any_eq_false] using hr
  have hlost : (p.words.filter fun a => (s.cached a).isNone && !s.corrected a && s.dieIn a.die) = [] :=
    List.filter_eq_nil_iff.2 fun a ha => by simp [Option.isSome_iff_ne_none.1 (hc a ha)]
  simp only [State.plainStep, hs, hseats, hrecov, hlost]
  rfl

theorem landPlain_of_locator {p : Plain} {w : LeafWait} {loc : Bytes} {decodes : Bool} {n : Ns} (hp : p.what = .locator w loc decodes)
    (hn : s.ns? (w.ns + 1) = some n) :
    s.landPlain p = if s.locatorLands n loc (w.first / 4) (unitSlots w.first w.count) decodes = true
      then s.succeed w.tag 0 0 (((unitSlots w.first w.count).flatMap fun i => fit 4096 (openData n.key (s.word (locAddr loc i)))) ++ zeros 16)
      else s.mapRead w := by
  rw [State.landPlain, hp]
  simp only [State.locatorLanded, hn]

/-! ### A leaf's page has landed (R337, R338) -/

theorem leafLoadComplete_of_unawaited {ns leaf : Nat} {ok : Bool} (hw : s.xlt.leafWaits.any (s.waitsFor ns leaf) = false) :
    leafLoadComplete ns leaf ok s = s := by
  simp [leafLoadComplete, hw]

theorem leafLoadComplete_of_awaited {ns leaf : Nat} (hp : s.powered = true) (hr : s.reading (.leaf ns leaf) = false)
    (hw : s.xlt.leafWaits.any (s.waitsFor ns leaf) = true) :
    leafLoadComplete ns leaf true s = ((s.mendLeaf ns leaf).touchLeaf (leafKey ns leaf) false).releaseReads := by
  simp [leafLoadComplete, hp, hr, hw]

/-- Settles O49, clause by clause from the lemmas above. -/
theorem readsGiveTheNewestData : Obligations.ReadsGiveTheNewestData := by
  refine ⟨?_, ?_, ?_, ?_, ?_, ?_⟩
  · intro tag c nsid slba nlb n s h hn hr hm hf hl first count w
    have hread := readCommand_of_admits h hn hr hm hf hl
    refine ⟨congrArg Host.Outcome.next (hread _), fun bufLen loc decodes hunit hbuf => ⟨fun hcrc => ?_, fun hcrc => ?_⟩⟩
    · refine congrArg Host.Outcome.next ((hread _).trans ?_)
      dsimp only
      rw [if_neg (not_not.2 hunit), if_neg (not_lt.2 hbuf), if_pos hcrc]
    · refine congrArg Host.Outcome.next ((hread _).trans ?_)
      dsimp only
      rw [if_neg (not_not.2 hunit), if_neg (not_lt.2 hbuf), if_neg (not_not.2 hcrc)]
  · intro w s
    exact ⟨mapRead_of_missing, fun h => ⟨fun hw => (mapRead_of_hit h).trans (senseRead_of_nil hw),
      fun hw => (mapRead_of_hit h).trans (senseRead_of_ne_nil hw)⟩⟩
  · intro p w loc decodes n s hs hseats hp hr hc hn
    exact (plainStep_lands hs hseats hr hc).trans (landPlain_of_locator hp hn)
  · intro ns unit slot s
    exact ⟨fun d => readSlot_of_buffered, fun hb => ⟨readSlot_of_unmapped hb, readSlot_of_lost hb, fun n => readSlot_of_mapped hb⟩⟩
  · intro w s hw u
    exact ⟨fun d t h => ⟨finishRead_of_data hw h, openRead_of_quiet⟩, fun t => finishRead_of_error⟩
  · intro ns leaf s hp hr
    exact ⟨fun hw ok => congrArg Host.Outcome.next (leafLoadComplete_of_unawaited hw),
      fun hw => congrArg Host.Outcome.next (leafLoadComplete_of_awaited hp hr hw)⟩

end Sys2Proof.Proofs
end

section
/-! PROOFS. No operation touches the queue of commands: one law for each operation of the model, that the commands which wait before it wait after
it, whatever the state (Laws/Keep.lean says the same of sound states, and more). An operation is made of operations whose laws stand above it; its
own law names them, and grind follows its branches. Where an operation recurses, or answers a state only sometimes, the cases are written out. -/

namespace Sys2Proof.Machine

/-- The same commands wait in both states. The laws of folds name it: a fold's step is an application of a function to
its arguments, which the kernel then compares with the operation it stands for before it unfolds either. -/
def SameQueue (s t : State) : Prop := t.pending = s.pending

/-- A fold over values that hold a state. -/
theorem pending_foldl_of {α β : Type} (g : α → State) {f : α → β → α} (hf : ∀ a x, SameQueue (g a) (g (f a x))) (l : List β) (a : α) :
    (g (l.foldl f a)).pending = (g a).pending := by
  induction l generalizing a with
  | nil => rfl
  | cons x l ih => rw [List.foldl_cons, ih, hf]

theorem pending_foldl {β : Type} {f : State → β → State} (hf : ∀ s x, SameQueue s (f s x)) (l : List β) (s : State) :
    (l.foldl f s).pending = s.pending := pending_foldl_of (fun s => s) hf l s

theorem pending_foldl_snd {β γ : Type} {f : γ × State → β → γ × State} (hf : ∀ p x, SameQueue p.2 (f p x).2) (l : List β) (p : γ × State) :
    (l.foldl f p).2.pending = p.2.pending := pending_foldl_of Prod.snd hf l p

/-- One of the two states of a choice. -/
theorem pending_ite {c : Prop} [Decidable c] {s t : State} {q : List Instr} (h : s.pending = q) (h' : t.pending = q) :
    (if c then s else t).pending = q := by
  split
  · exact h
  · exact h'

/-- The state of a pair that a match has taken apart. -/
theorem pending_of_pair {γ : Type} {p : γ × State} {x : γ} {s : State} {q : List Instr} (e : p = (x, s)) (h : p.2.pending = q) : s.pending = q := by
  subst e
  exact h

theorem pending_withXlt {s t : State} (x : Xlt) (h : t.pending = s.pending) : ({ t with xlt := x } : State).pending = s.pending := h

theorem pending_withQue {s t : State} (x : Que) (h : t.pending = s.pending) : ({ t with que := x } : State).pending = s.pending := h

/-! ### Machine/Ops.lean -/

@[simp] theorem State.drawNat_pending (s : State) : (State.drawNat s).2.pending = s.pending := rfl

@[simp] theorem State.drawBytes_pending (s : State) (n : Nat) : (State.drawBytes s n).2.pending = s.pending := rfl

@[simp] theorem State.drawKey_pending (s : State) : (State.drawKey s).2.pending = s.pending := rfl

@[simp] theorem State.stampTo_pending (s : State) (stamp : Nat) : (State.stampTo s stamp).pending = s.pending := rfl

@[simp] theorem raiseError_pending (cls : ErrClass) (o : Obj) (s : State) : (raiseError cls o s).pending = s.pending := by
  grind [raiseError, State.nextCycle_pending]

theorem State.command_pending (s : State) (tag : Tag) (w : Serve) (f : Ctrl → State → State) (hf : ∀ x0 t, SameQueue t (f x0 t)) :
    (State.command s tag w f).pending = s.pending := by
  grind [State.command, State.fail_pending, SameQueue]

@[simp] theorem postOne_pending (type info lid : Nat) (s : State) (c : Ctrl) : (postOne type info lid s c).pending = s.pending := by
  grind [postOne, State.updCtrl_pending, State.succeed_pending]

@[simp] theorem State.asyncEvent_pending (s : State) (type info lid : Nat) : (State.asyncEvent s type info lid).pending = s.pending := by
  grind +splitImp [State.asyncEvent, postOne_pending, pending_foldl, SameQueue]

@[simp] theorem State.changeYoke_pending (s : State) (y : Yoke) : (State.changeYoke s y).pending = s.pending := by
  grind [State.changeYoke, State.eventAt_pending, State.asyncEvent_pending]

@[simp] theorem State.setYoke_pending (s : State) (y : Yoke) : (State.setYoke s y).pending = s.pending := by
  grind [State.setYoke]

@[simp] theorem State.yokeTick_pending (s : State) : (State.yokeTick s).pending = s.pending := by
  grind +splitImp [State.yokeTick, State.changeYoke_pending, pending_foldl, SameQueue]

/-! ### Machine/Stage.lean -/

@[simp] theorem yokeSync_pending (s : State) : (yokeSync s).pending = s.pending := by
  grind [yokeSync, State.setYoke_pending]

@[simp] theorem syncTaken_pending (m : PtpSync) (s : State) : (syncTaken m s).pending = s.pending := by
  grind [syncTaken, yokeSync_pending]

@[simp] theorem syncMessage_pending (m : PtpSync) (twoStep : Bool) (s : State) : (syncMessage m twoStep s).pending = s.pending := by
  grind [syncMessage, syncTaken_pending]

@[simp] theorem followUpMessage_pending (m : PtpSync) (s : State) : (followUpMessage m s).pending = s.pending := by
  grind [followUpMessage, syncTaken_pending]

@[simp] theorem announceMessage_pending (a : PtpAnnounce) (s : State) : (announceMessage a s).pending = s.pending := by
  grind [announceMessage]

@[simp] theorem delayRespMessage_pending (domain master seq : Nat) (delay logInterval : Int) (s : State) :
    (delayRespMessage domain master seq delay logInterval s).pending = s.pending := by
  grind [delayRespMessage]

@[simp] theorem delayReqSend_pending (s : State) : (delayReqSend s).pending = s.pending := by
  grind [delayReqSend, State.send_pending]

@[simp] theorem yokeHoldoverTimeout_pending (s : State) : (yokeHoldoverTimeout s).pending = s.pending := by
  grind [yokeHoldoverTimeout, State.setYoke_pending]

@[simp] theorem yokeSyncLossTimeout_pending (s : State) : (yokeSyncLossTimeout s).pending = s.pending := by
  grind [yokeSyncLossTimeout, State.setYoke_pending]

@[simp] theorem servoLockTimeout_pending (s : State) : (servoLockTimeout s).pending = s.pending := by
  grind [servoLockTimeout]

@[simp] theorem ptpFirstWaitExpiry_pending (s : State) : (ptpFirstWaitExpiry s).pending = s.pending := by
  grind [ptpFirstWaitExpiry]

@[simp] theorem trimUpdate_pending (wish lineErr : Int) (s : State) : (trimUpdate wish lineErr s).pending = s.pending := by
  grind [trimUpdate]

/-! ### Machine/Coach.lean -/

@[simp] theorem loadColumn_pending (coach set : Nat) (l : TileLoad) (s : State) (j : Nat) : (loadColumn coach set l s j).pending = s.pending := rfl

@[simp] theorem loadTile_pending (coach : Nat) (l : TileLoad) (s : State) : (loadTile coach l s).pending = s.pending := by
  grind +splitImp [loadTile, loadColumn_pending, pending_foldl, SameQueue]

@[simp] theorem takeQueue_pending (coach : Nat) (i : UnitInstr) (s : State) : (takeQueue coach i s).pending = s.pending := rfl

@[simp] theorem startLoad_pending (coach t : Nat) (l : TileLoad) (s : State) : (startLoad coach t l s).pending = s.pending := by
  grind [startLoad, loadTile_pending]

@[simp] theorem transposedLoad_pending (coach t : Nat) (l : TileLoad) (s : State) : (transposedLoad coach t l s).pending = s.pending := by
  grind [transposedLoad, takeQueue_pending, startLoad_pending]

@[simp] theorem swapSets_pending (coach t : Nat) (s : State) : (swapSets coach t s).pending = s.pending := rfl

@[simp] theorem stationarySwap_pending (coach t : Nat) (s : State) : (stationarySwap coach t s).pending = s.pending := by
  grind [stationarySwap, swapSets_pending]

@[simp] theorem gridRow_pending (coach : Nat) (i : MatInstr) (chunk ct : Nat) (s : State) (r : Nat) : (gridRow coach i chunk ct s r).pending =
    s.pending := by
  grind [gridRow, State.sramWrite_pending]

@[simp] theorem gridTile_pending (coach t : Nat) (i : MatInstr) (a b : Nat) (g : GridRun) (p : TileLoad × Nat) :
    (gridTile coach t i a b g p).s.pending = g.s.pending := by
  grind +splitImp [gridTile, startLoad_pending, swapSets_pending, gridRow_pending, pending_foldl, SameQueue]

@[simp] theorem matrixInstruction_pending (coach t : Nat) (i : MatInstr) (upto : Option Nat) (s : State) :
    (matrixInstruction coach t i upto s).pending = s.pending := by
  unfold matrixInstruction
  split
  · rfl
  · extract_lets a b t g
    have ht : t.pending = s.pending := pending_ite (takeQueue_pending ..) rfl
    have hg : g.s.pending = t.pending := pending_foldl_of GridRun.s (by grind [SameQueue, gridTile_pending]) _ _
    clear_value t g
    exact hg.trans ht

@[simp] theorem vectorInstruction_pending (coach : Nat) (i : VecInstr) (s : State) : (vectorInstruction coach i s).pending = s.pending := by
  grind [vectorInstruction, takeQueue_pending, State.sramWrite_pending]

@[simp] theorem crossLaneSum_pending (coach src dst : Nat) (s : State) : (crossLaneSum coach src dst s).pending = s.pending := by
  grind [crossLaneSum, State.sramWrite_pending, takeQueue_pending]

@[simp] theorem contextFree_pending (coach ctx : Nat) (s : State) : (contextFree coach ctx s).pending = s.pending := by
  grind [contextFree, State.setCtx_pending]

@[simp] theorem contextRestart_pending (coach ctx : Nat) (s : State) : (contextRestart coach ctx s).pending = s.pending := by
  grind [contextRestart, State.setCtx_pending]

@[simp] theorem contextWake_pending (coach ctx : Nat) (s : State) : (contextWake coach ctx s).pending = s.pending := by
  grind [contextWake, State.setCtx_pending]

@[simp] theorem wakeReply_pending (coach ctx : Nat) (s : State) : (wakeReply coach ctx s).pending = s.pending := by
  grind [wakeReply, State.setCtx_pending]

@[simp] theorem wakeSeat_pending (coach ctx : Nat) (s : State) : (wakeSeat coach ctx s).pending = s.pending := by
  grind [wakeSeat, wakeReply_pending, State.setCtx_pending]

/-! ### Machine/Dram.lean -/

@[simp] theorem State.putWord_pending (s : State) (line w : Nat) (d : Bytes) : (State.putWord s line w d).pending = s.pending := by
  grind [State.putWord, State.setCheck_pending, State.setData_pending]

@[simp] theorem State.poisonLine_pending (s : State) (line : Nat) : (State.poisonLine s line).pending = s.pending := by
  grind +splitImp [State.poisonLine, State.setCheck_pending, pending_foldl, SameQueue]

@[simp] theorem State.countEcc_pending (s : State) (pkg corr pois unc : Nat) : (State.countEcc s pkg corr pois unc).pending = s.pending := by grind
    [State.countEcc, State.tt_pending]

@[simp] theorem State.fixWord_pending (s : State) (line w j : Nat) (err : Byte) : (State.fixWord s line w j err).pending = s.pending := by
  grind [State.fixWord, State.setCheck_pending, State.setData_pending]

@[simp] theorem readLine_pending (req line : Nat) (ws : List Nat) (s : State) : (readLine req line ws s).2.pending = s.pending := by
  grind +splitImp [readLine, State.fixWord_pending, State.countEcc_pending, State.poisonLine_pending, State.event_pending, pending_foldl, SameQueue]

@[simp] theorem readParts_pending (req : Nat) (sel : Nat → List Nat) (ls : List Nat) (s : State) : (readParts req sel ls s).2.pending = s.pending :=
    by
  induction ls generalizing s with
  | nil => rfl
  | cons l ls ih => grind [readParts, readLine_pending]

@[simp] theorem dramRead_pending (req addr len : Nat) (s : State) : (dramRead req addr len s).2.pending = s.pending := by
  grind [dramRead, readParts_pending]

@[simp] theorem writePiece_pending (addr : Nat) (bs : Bytes) (s : State) (line : Nat) : (writePiece addr bs s line).pending = s.pending := by
  grind +splitImp [writePiece, State.setData_pending, State.setCheck_pending, State.putWord_pending, pending_foldl, SameQueue]

@[simp] theorem dramWrite_pending (req addr : Nat) (bs : Bytes) (s : State) : (dramWrite req addr bs s).2.pending = s.pending := by
  grind +splitImp [dramWrite, readParts_pending, writePiece_pending, pending_foldl, SameQueue]

@[simp] theorem dramScrub_pending (pkg : Nat) (s : State) : (dramScrub pkg s).pending = s.pending := by
  grind [dramScrub, readLine_pending]

@[simp] theorem drmEccFold_pending (pkg : Nat) (s : State) : (drmEccFold pkg s).pending = s.pending := by
  grind [drmEccFold, State.health_pending]

@[simp] theorem writeDrmTest_pending (pkg key : Nat) (raw : Bool) (path : Nat) (s : State) : (writeDrmTest pkg key raw path s).pending = s.pending :=
    by
  grind [writeDrmTest]

@[simp] theorem drmTestWritePath_pending (pkg key path : Nat) (s : State) : (drmTestWritePath pkg key path s).pending = s.pending := by
  grind [drmTestWritePath, writeDrmTest_pending]

@[simp] theorem drmTestRawRead_pending (pkg key : Nat) (on : Bool) (s : State) : (drmTestRawRead pkg key on s).pending = s.pending := by
  grind [drmTestRawRead, writeDrmTest_pending]

@[simp] theorem quotaRead_pending (req : Nat) (ranges : List (Nat × Nat × Nat)) (off len : Nat) (s : State) :
    (quotaRead req ranges off len s).2.pending = s.pending := by
  grind +splitImp [quotaRead, dramRead_pending, pending_foldl_snd, SameQueue]

@[simp] theorem quotaWrite_pending (req : Nat) (ranges : List (Nat × Nat × Nat)) (off : Nat) (bs : Bytes) (s : State) :
    (quotaWrite req ranges off bs s).2.pending = s.pending := by
  grind +splitImp [quotaWrite, dramWrite_pending, pending_foldl_snd, SameQueue]

/-! ### Machine/Sess.lean -/

@[simp] theorem State.zeroSlots_pending (s : State) (pkg first n : Nat) : (State.zeroSlots s pkg first n).pending = s.pending := rfl

@[simp] theorem State.zeroRanges_pending (s : State) (ranges : List (Nat × Nat × Nat)) : (State.zeroRanges s ranges).pending = s.pending := by
  grind +splitImp [State.zeroRanges, State.zeroSlots_pending, pending_foldl, SameQueue]

@[simp] theorem State.hold_pending (s : State) (sess : Nat) (h : Held) : (State.hold s sess h).pending = s.pending := by
  grind [State.hold, State.updSess_pending, State.health_pending]

@[simp] theorem State.writeRole_pending (s : State) (t : Nat) (assigned : Bool) (part : Nat) : (State.writeRole s t assigned part).pending =
    s.pending := by grind [State.writeRole]

@[simp] theorem State.writeRoles_pending (s : State) (ts : List Nat) (assigned : Bool) (part : Nat) : (State.writeRoles s ts assigned part).pending =
    s.pending := by
  grind +splitImp [State.writeRoles, State.writeRole_pending, pending_foldl, SameQueue]

@[simp] theorem State.setWindows_pending (s : State) (part : Nat) (x : Option Session) : (State.setWindows s part x).pending = s.pending := rfl

@[simp] theorem State.faultRun_pending (s : State) (sess code : Nat) (op : Option Nat) : (State.faultRun s sess code op).pending = s.pending := by
  grind [State.faultRun, State.updSess_pending]

@[simp] theorem State.faultHere_pending (s : State) (sess code : Nat) : (State.faultHere s sess code).pending = s.pending := by
  grind [State.faultHere, State.faultRun_pending]

@[simp] theorem State.faultCoach_pending (s : State) (c code : Nat) : (State.faultCoach s c code).pending = s.pending := by
  grind [State.faultCoach, State.faultHere_pending]

@[simp] theorem State.flagRun_pending (s : State) (sess b : Nat) : (State.flagRun s sess b).pending = s.pending := by
  grind [State.flagRun, State.updSess_pending]

@[simp] theorem State.sessEvent_pending (s : State) (n code : Nat) : (State.sessEvent s n code).pending = s.pending := by
  grind [State.sessEvent, State.event_pending]

@[simp] theorem State.formPart_pending (s : State) (p : Nat) (ts : List Nat) : (State.formPart s p ts).pending = s.pending := by
  grind [State.formPart, State.writeRoles_pending]

theorem State.placePart_pending (s : State) (t : Nat) {v : _ × State} (h : State.placePart s t = some v) : v.2.pending = s.pending := by
  unfold State.placePart at h
  have hfresh : ∀ v, ((s.newPart t).map fun n => (n.1, s.formPart n.1 n.2)) = some v → v.2.pending = s.pending := by
    simp only [Option.map_eq_some_iff]
    rintro v ⟨n, -, rfl⟩
    exact State.formPart_pending ..
  have hjoin : ∀ v, ((s.joinPart t).map fun p => (p, s)) = some v → v.2.pending = s.pending := by
    simp only [Option.map_eq_some_iff]
    rintro v ⟨n, -, rfl⟩
    rfl
  grind [Option.or_eq_some_iff]

@[simp] theorem State.clearContexts_pending (s : State) (ts : List Nat) : (State.clearContexts s ts).pending = s.pending := rfl

@[simp] theorem State.leavePart_pending (s : State) (n : Nat) : (State.leavePart s n).pending = s.pending := by
  unfold State.leavePart
  split
  · rfl
  split
  · rfl
  extract_lets t
  have ht : t.pending = s.pending := rfl
  clear_value t
  split
  · exact ht
  extract_lets held u
  have hu : u.pending = s.pending := pending_ite (by grind [State.clearContexts_pending, State.setWindows_pending]) ht
  clear_value u
  grind [State.clearContexts_pending, State.writeRoles_pending, State.updPart_pending]

@[simp] theorem State.closePeers_pending (s : State) (p : PeerSet) : (State.closePeers s p).pending = s.pending := by
  grind +splitImp [State.closePeers, State.send_pending, pending_foldl, SameQueue]

@[simp] theorem State.abortQuotaWait_pending (s : State) (x : Session) : (State.abortQuotaWait s x).pending = s.pending := by
  grind +splitImp [State.abortQuotaWait, State.updSess_pending, State.completeWith_pending, pending_foldl, SameQueue]

@[simp] theorem State.endZeroing_pending (s : State) (x : Session) : (State.endZeroing s x).pending = s.pending := by
  grind +splitImp [State.endZeroing, State.succeed_pending, pending_foldl, SameQueue]

@[simp] theorem freeSession_pending (n : Nat) (s : State) : (freeSession n s).pending = s.pending := by
  grind +splitImp [freeSession, State.abortQuotaWait_pending, State.endZeroing_pending, State.closePeers_pending, State.leavePart_pending,
    State.sessEvent_pending, State.succeed_pending, pending_foldl, SameQueue]

theorem State.sessCommand_pending (s : State) (c : Ctrl) (tag : Tag) (n : Nat) (f : Session → State → State) (hf : ∀ x0 t, SameQueue t (f x0 t)) :
    (State.sessCommand s c tag n f).pending = s.pending := by
  grind [State.sessCommand, State.refuse_pending, SameQueue]

/-! ### Machine/Fabric.lean -/

theorem State.sendCarriage_pending (s : State) (src dst role kind addr tag count dir : Nat) (ack last : Bool) (payload : Bytes) {v : State}
    (h : State.sendCarriage s src dst role kind addr tag count dir ack last payload = some v) : v.pending = s.pending := by
  grind [State.sendCarriage, State.nextCycle_pending, State.inject_pending]

@[simp] theorem haltContext_pending (coach ctx code : Nat) (s : State) : (haltContext coach ctx code s).pending = s.pending := by
  grind [haltContext, State.setCtx_pending, State.faultCoach_pending]

@[simp] theorem State.refuseSend_pending (s : State) (src tag : Nat) : (State.refuseSend s src tag).pending = s.pending := by
  grind [State.refuseSend, haltContext_pending]

@[simp] theorem State.sendOr_pending (s : State) (src dst role kind addr tag count dir : Nat) (ack last : Bool) (payload : Bytes) :
    (State.sendOr s src dst role kind addr tag count dir ack last payload).pending = s.pending := by
  unfold State.sendOr
  cases h : s.sendCarriage src dst role kind addr tag count dir ack last payload with
  | none => exact State.refuseSend_pending ..
  | some t => exact State.sendCarriage_pending (h := h) ..

@[simp] theorem State.reply_pending (s : State) (src dst role kind addr tag : Nat) (last : Bool) (payload : Bytes) :
    (State.reply s src dst role kind addr tag last payload).pending = s.pending := by
  grind [State.reply, State.sendOr_pending]

@[simp] theorem carriageSend_pending (src : Nat) (r : CarriageReq) (s : State) : (carriageSend src r s).pending = s.pending := by
  grind [carriageSend, takeQueue_pending, State.sendCarriage_pending, State.refuseSend_pending]

@[simp] theorem State.countDrop_pending (s : State) (st lo : Nat) : (State.countDrop s st lo).pending = s.pending := rfl

@[simp] theorem relayOn_pending (st : Nat) (c : Bytes) (s : State) : (relayOn st c s).pending = s.pending := by
  grind [relayOn, State.reply_pending, State.inject_pending]

theorem arrive_pending (kind st : Nat) (c : Bytes) (deliver : State → State) (s : State) (hdeliver : ∀ t, SameQueue t (deliver t)) :
    (arrive kind st c deliver s).pending = s.pending := by
  grind [arrive, State.countDrop_pending, State.event_pending, relayOn_pending, SameQueue]

@[simp] theorem answerError_pending (st : Nat) (c : Bytes) (code : Nat) (s : State) : (answerError st c code s).pending = s.pending := by
  grind [answerError, State.reply_pending]

@[simp] theorem deliverWrite_pending (st : Nat) (c : Bytes) (s : State) : (deliverWrite st c s).pending = s.pending := by
  grind [deliverWrite, State.reply_pending, State.sramWrite_pending, answerError_pending, dramWrite_pending]

@[simp] theorem sendReplies_pending (st dst role tag n addr : Nat) (bs : Bytes) (s : State) : (sendReplies st dst role tag n addr bs s).pending =
    s.pending := by
  induction n generalizing addr bs s with
  | zero => rfl
  | succ n ih => grind [sendReplies, State.reply_pending]

@[simp] theorem deliverRead_pending (st : Nat) (c : Bytes) (s : State) : (deliverRead st c s).pending = s.pending := by
  grind [deliverRead, sendReplies_pending, answerError_pending, dramRead_pending]

@[simp] theorem deliverReply_pending (st : Nat) (c : Bytes) (s : State) : (deliverReply st c s).pending = s.pending := by
  grind [deliverReply, State.sramWrite_pending, wakeReply_pending, State.readDone_pending]

@[simp] theorem State.reissueReads_pending (s : State) (p : Nat → Bool) : (State.reissueReads s p).pending = s.pending := by
  grind +splitImp [State.reissueReads, State.sendOr_pending, pending_foldl, SameQueue]

@[simp] theorem deliverWriteAck_pending (st : Nat) (c : Bytes) (s : State) : (deliverWriteAck st c s).pending = s.pending := by
  grind [deliverWriteAck, wakeReply_pending]

@[simp] theorem emptySeat_pending (st : Nat) (c : Bytes) (s : State) : (emptySeat st c s).pending = s.pending := by
  grind [emptySeat, State.reply_pending]

@[simp] theorem State.setLapse_pending (s : State) (coach tag : Nat) : (State.setLapse s coach tag).pending = s.pending := by
  grind [State.setLapse, State.setCtx_pending]

@[simp] theorem deliverFill_pending (st : Nat) (c : Bytes) (s : State) : (deliverFill st c s).pending = s.pending := by
  grind [deliverFill, emptySeat_pending, State.setLapse_pending]

theorem refill_pending (coach : Nat) (c : Bytes) (s : State) {v : State} (h : refill coach c s = some v) : v.pending = s.pending := by
  unfold refill at h
  dsimp only at h
  split at h
  · cases h
  split at h
  · cases h
  split at h
  · cases h
  split at h
  · cases h
  rw [← Option.some.inj h]
  exact State.sendOr_pending ..

@[simp] theorem State.noteEmpty_pending (s : State) (coach ctx : Nat) : (State.noteEmpty s coach ctx).pending = s.pending := by
  grind [State.noteEmpty, State.updSess_pending]

@[simp] theorem deliverSeat_pending (st : Nat) (c : Bytes) (s : State) : (deliverSeat st c s).pending = s.pending := by
  grind [deliverSeat, refill_pending, State.sramWrite_pending, State.noteEmpty_pending, wakeReply_pending, wakeSeat_pending, answerError_pending,
    dramWrite_pending]

@[simp] theorem deliverAnswer_pending (c : Bytes) (s : State) : (deliverAnswer c s).pending = s.pending := rfl

@[simp] theorem deliverSave_pending (st : Nat) (c : Bytes) (s : State) : (deliverSave st c s).pending = s.pending := by
  grind [deliverSave, answerError_pending, dramWrite_pending]

@[simp] theorem deliverError_pending (st : Nat) (c : Bytes) (s : State) : (deliverError st c s).pending = s.pending := by
  grind [deliverError, haltContext_pending, State.readDone_pending]

@[simp] theorem carriageWrite_pending (st : Nat) (c : Bytes) (s : State) : (carriageWrite st c s).pending = s.pending := by
  grind [carriageWrite, arrive_pending, deliverWrite_pending, SameQueue]

@[simp] theorem carriageRead_pending (st : Nat) (c : Bytes) (s : State) : (carriageRead st c s).pending = s.pending := by
  grind [carriageRead, arrive_pending, deliverRead_pending, SameQueue]

@[simp] theorem carriageReply_pending (st : Nat) (c : Bytes) (s : State) : (carriageReply st c s).pending = s.pending := by
  grind [carriageReply, arrive_pending, deliverReply_pending, SameQueue]

@[simp] theorem carriageWriteAck_pending (st : Nat) (c : Bytes) (s : State) : (carriageWriteAck st c s).pending = s.pending := by
  grind [carriageWriteAck, arrive_pending, deliverWriteAck_pending, SameQueue]

@[simp] theorem carriageSeat_pending (st : Nat) (c : Bytes) (s : State) : (carriageSeat st c s).pending = s.pending := by
  grind [carriageSeat, arrive_pending, deliverSeat_pending, SameQueue]

@[simp] theorem carriageFill_pending (st : Nat) (c : Bytes) (s : State) : (carriageFill st c s).pending = s.pending := by
  grind [carriageFill, arrive_pending, deliverFill_pending, SameQueue]

@[simp] theorem carriageAnswer_pending (st : Nat) (c : Bytes) (s : State) : (carriageAnswer st c s).pending = s.pending := by
  grind [carriageAnswer, arrive_pending, deliverAnswer_pending, SameQueue]

@[simp] theorem carriageControl_pending (st : Nat) (c : Bytes) (s : State) : (carriageControl st c s).pending = s.pending := by
  grind [carriageControl, arrive_pending, SameQueue]

@[simp] theorem carriageSave_pending (st : Nat) (c : Bytes) (s : State) : (carriageSave st c s).pending = s.pending := by
  grind [carriageSave, arrive_pending, deliverSave_pending, SameQueue]

@[simp] theorem carriageError_pending (st : Nat) (c : Bytes) (s : State) : (carriageError st c s).pending = s.pending := by
  grind [carriageError, arrive_pending, deliverError_pending, SameQueue]

@[simp] theorem fabDropFold_pending (st : Nat) (s : State) : (fabDropFold st s).pending = s.pending := by
  grind [fabDropFold, State.health_pending]

@[simp] theorem roleWrite_pending (team : Nat) (assigned : Bool) (part : Nat) (s : State) : (roleWrite team assigned part s).pending = s.pending := by
  grind [roleWrite, State.writeRole_pending]

/-! ### Machine/Media.lean -/

/-- The warnings posted one after another. -/
theorem pending_foldl_warn (w : Nat) (l : List Nat) (s : State) :
    (l.foldl (fun s i => if bit w i && !bit s.que.warned i then s.asyncEvent 1 i 2 else s) s).pending = s.pending := by
  induction l generalizing s with
  | nil => rfl
  | cons i l ih => exact (ih _).trans (pending_ite (State.asyncEvent_pending ..) rfl)

@[simp] theorem State.warn_pending (s : State) : (State.warn s).pending = s.pending := by
  rw [State.warn_eq]
  exact pending_withQue _ (pending_foldl_warn ..)

@[simp] theorem State.retire_pending (s : State) (pb cause : Nat) : (State.retire s pb cause).pending = s.pending := by
  grind [State.retire, State.event_pending]

@[simp] theorem State.beginOp_pending (s : State) (die : Nat) (w : DieWork) (n : Nat) : (State.beginOp s die w n).pending = s.pending := rfl

@[simp] theorem State.endOp_pending (s : State) (o : DieOp) : (State.endOp s o).pending = s.pending := rfl

@[simp] theorem State.raiseGens_pending (s : State) (die block : Nat) (ps : List Nat) : (State.raiseGens s die block ps).pending = s.pending := by
  grind +splitImp [State.raiseGens, State.retire_pending, pending_foldl, SameQueue]

@[simp] theorem State.freeDies_pending (s : State) : (State.freeDies s).pending = s.pending := by
  grind +splitImp [State.freeDies, State.raiseGens_pending, pending_foldl, SameQueue]

@[simp] theorem State.queueOp_pending (s : State) (die : Nat) (w : DieWork) (n : Nat) : (State.queueOp s die w n).pending = s.pending := rfl

theorem State.allocSb_pending (s : State) (stream : Nat) {v : _ × State} (h : State.allocSb s stream = some v) : v.2.pending = s.pending := by
  grind [State.allocSb, State.setSb_pending]

@[simp] theorem State.closeSb_pending (s : State) (i : Nat) : (State.closeSb s i).pending = s.pending := by
  grind [State.closeSb, State.setSb_pending]

@[simp] theorem State.dropAcc_pending (s : State) (i : Nat) : (State.dropAcc s i).pending = s.pending := rfl

@[simp] theorem State.secondProgram_pending (s : State) (die block page : Nat) : (State.secondProgram s die block page).pending = s.pending := by
  grind [State.secondProgram, State.event_pending, State.health_pending]

@[simp] theorem State.putPages_pending (s : State) (die block page : Nat) (pages : List PlaneWords) (stamp stream : Nat) (pending : Bool) :
    (State.putPages s die block page pages stamp stream pending).pending = s.pending := by
  grind +splitImp [State.putPages, pending_foldl, SameQueue]

@[simp] theorem State.freeSeats_pending (s : State) (chan n : Nat) : (State.freeSeats s chan n).pending = s.pending := by
  grind [State.freeSeats, State.tt_pending]

@[simp] theorem State.patrolFirst_pending (s : State) (pb : Nat) : (State.patrolFirst s pb).pending = s.pending := rfl

@[simp] theorem State.countSenses_pending (s : State) (pb n : Nat) : (State.countSenses s pb n).pending = s.pending := by
  grind [State.countSenses, State.patrolFirst_pending]

@[simp] theorem State.queueSense_pending (s : State) (die block page : Nat) (planes : List Nat) : (State.queueSense s die block page planes).pending
    = s.pending := by
  grind +splitImp [State.queueSense, State.countSenses_pending, State.queueOp_pending, pending_foldl, SameQueue]

@[simp] theorem State.plainSense_pending (s : State) (a : CwAddr) (n : Nat) : (State.plainSense s a n).pending = s.pending := by
  grind [State.plainSense, State.freeSeats_pending, State.queueSense_pending]

@[simp] theorem State.drainSeats_pending (s : State) : (State.drainSeats s).pending = s.pending := rfl

@[simp] theorem State.queueSet_pending (s : State) (sb row chan stream : Nat) (pages : List PlaneWords) :
    (State.queueSet s sb row chan stream pages).pending = s.pending := by
  grind [State.queueSet, State.putPages_pending, State.freeSeats_pending, State.queueOp_pending]

@[simp] theorem State.putParityOn_pending (s : State) (sb row stream chan : Nat) (pages : List PlaneWords) :
    (State.putParityOn s sb row stream chan pages).pending = s.pending := by
  grind [State.putParityOn, State.secondProgram_pending, State.queueSet_pending]

@[simp] theorem State.putParity_pending (s : State) (sb row stream : Nat) : (State.putParity s sb row stream).pending = s.pending := by
  grind +splitImp [State.putParity, State.putParityOn_pending, pending_foldl, SameQueue]

@[simp] theorem State.nextPlace_pending (stream : Nat) (queued : Bool) (mayAlloc : State → Bool) (ok : Nat → Bool) (n : Nat) (s : State) :
    (State.nextPlace stream queued mayAlloc ok n s).2.pending = s.pending := by
  induction n generalizing s with
  | zero => rfl
  | succ n ih =>
    unfold State.nextPlace
    split
    · split
      · rfl
      · split
        · rfl
        · next h => exact (ih _).trans (State.allocSb_pending (h := h) ..)
    · extract_lets x st
      split
      · exact (ih _).trans ((State.closeSb_pending ..).trans (pending_ite (State.putParity_pending ..) rfl))
      · extract_lets t _ u
        have hu : u.pending = s.pending := (State.setSb_pending ..).trans (pending_ite (State.putParity_pending ..) rfl)
        clear_value u
        split <;> exact hu

@[simp] theorem State.firmwareSet_pending (s : State) (stream : Nat) (may : State → Bool) (ok : Nat → Bool) (words : List CWord) :
    (State.firmwareSet s stream may ok words).2.pending = s.pending := by
  grind [State.firmwareSet, State.nextPlace_pending, State.queueSet_pending]

@[simp] theorem State.firmwareWrite_pending (stream : Nat) (may : State → Bool) (n : Nat) (words : List CWord) (s : State) :
    (State.firmwareWrite stream may n words s).2.pending = s.pending := by
  induction n generalizing words s with
  | zero => rfl
  | succ n ih => grind [State.firmwareWrite, State.firmwareSet_pending]

@[simp] theorem State.writeTwice_pending (s : State) (stream : Nat) (words : List CWord) : (State.writeTwice s stream words).2.pending = s.pending :=
    by
  grind [State.writeTwice, State.firmwareSet_pending]

@[simp] theorem State.putMark_pending (s : State) (m : Mark) : (State.putMark s m).pending = s.pending := by
  grind +splitImp [State.putMark, State.writeTwice_pending, State.firmwareSet_pending, State.succeed_pending, pending_foldl, SameQueue]

@[simp] theorem State.pushMark_pending (s : State) (clean : Bool) : (State.pushMark s clean).pending = s.pending := by
  grind [State.pushMark, State.putMark_pending]

@[simp] theorem State.issueSet_pending (s : State) (sb row chan stream : Nat) (pages : List PlaneWords) (units : List (Nat × Nat × Nat))
    (sess : Option Nat) : (State.issueSet s sb row chan stream pages units sess).2.pending = s.pending := by
  grind [State.issueSet, State.pushMark_pending, State.secondProgram_pending, State.stampTo_pending, State.putPages_pending, State.freeSeats_pending,
    State.beginOp_pending]

@[simp] theorem State.writeLeafList_pending (s : State) (ks : List Nat) : (State.writeLeafList s ks).pending = s.pending := by
  grind [State.writeLeafList, State.firmwareWrite_pending]

@[simp] theorem State.touchLeaf_pending (s : State) (k : Nat) (changed : Bool) : (State.touchLeaf s k changed).pending = s.pending := by
  unfold State.touchLeaf
  extract_lets old _ t
  have ht : t.pending = s.pending := rfl
  clear_value t
  split
  · split
    · extract_lets u
      refine pending_withXlt _ (pending_ite ?_ ht)
      exact (State.writeLeafList_pending ..).trans ht
    · exact ht
  · exact ht

@[simp] theorem State.setEntry_pending (s : State) (ns unit : Nat) (e : BitVec 64) : (State.setEntry s ns unit e).pending = s.pending := by
  grind [State.setEntry, State.plainSense_pending, State.touchLeaf_pending]

@[simp] theorem State.loseUnit_pending (s : State) (ns unit cause : Nat) : (State.loseUnit s ns unit cause).pending = s.pending := by
  grind [State.loseUnit, State.event_pending, State.health_pending, State.setEntry_pending]

@[simp] theorem State.mapFault_pending (s : State) (ns unit : Nat) : (State.mapFault s ns unit).pending = s.pending := by
  grind [State.mapFault, State.event_pending, State.health_pending, State.setEntry_pending]

@[simp] theorem State.mendLeaf_pending (s : State) (ns leaf : Nat) : (State.mendLeaf s ns leaf).pending = s.pending := by
  grind +splitImp [State.mendLeaf, pending_foldl, SameQueue]

@[simp] theorem State.mended_pending (s : State) (ns unit : Nat) : (State.mended s ns unit).pending = s.pending := by
  grind [State.mended, State.plainSense_pending, State.touchLeaf_pending, State.mendLeaf_pending]

theorem slotThen_pending (ns i : Nat) (rest : State → Option Bytes × State) (s : State) (hr : ∀ t, SameQueue t (rest t).2) :
    (slotThen ns i rest s).2.pending = s.pending := by
  grind [slotThen, State.mapFault_pending, SameQueue]

@[simp] theorem readSlots_pending (ns i n : Nat) (s : State) : (readSlots ns i n s).2.pending = s.pending := by
  induction n generalizing i s with
  | zero => rfl
  | succ n ih => exact (slotThen_pending (hr := ih _) ..).trans (State.mended_pending ..)

@[simp] theorem readSpan_pending (ns off len : Nat) (s : State) : (readSpan ns off len s).2.pending = s.pending := by
  grind [readSpan, readSlots_pending]

@[simp] theorem State.checkFull_pending (s : State) : (State.checkFull s).pending = s.pending := by
  grind [State.checkFull, State.warn_pending]

@[simp] theorem State.clearFull_pending (s : State) : (State.clearFull s).pending = s.pending := by
  grind [State.clearFull, State.warn_pending]

@[simp] theorem State.releaseFull_pending (s : State) : (State.releaseFull s).pending = s.pending := by
  grind [State.releaseFull, State.checkFull_pending, State.clearFull_pending]

@[simp] theorem State.issueErase_pending (s : State) (die block : Nat) : (State.issueErase s die block).pending = s.pending := by
  grind [State.issueErase, State.beginOp_pending, State.raiseGens_pending]

@[simp] theorem State.keepCorrected_pending (s : State) (a : CwAddr) : (State.keepCorrected s a).pending = s.pending := rfl

@[simp] theorem State.recover_pending (s : State) (w : CwAddr) : (State.recover s w).pending = s.pending := by
  grind [State.recover, State.freeSeats_pending]

@[simp] theorem State.startPlain_pending (s : State) (what : PlainFor) (ws : List CwAddr) (readOut : Bool) :
    (State.startPlain s what ws readOut).pending = s.pending := by
  grind +splitImp [State.startPlain, State.queueSense_pending, pending_foldl, SameQueue]

/-! ### Machine/Upkeep.lean -/

@[simp] theorem State.clearLost_pending (s : State) (ns unit : Nat) (slots : List Nat) : (State.clearLost s ns unit slots).1.pending = s.pending := by
  grind [State.clearLost, State.event_pending]

@[simp] theorem State.bufferPiece_pending (who : Option Nat) (ns seq : Nat) (slots : Nat → List Nat) (s : State) (p : Nat × Nat × Bytes) :
    (State.bufferPiece who ns seq slots s p).pending = s.pending := by
  grind [State.bufferPiece, State.clearLost_pending]

@[simp] theorem State.noteWrite_pending (s : State) (ns : Nat) (slots : List Nat) : (State.noteWrite s ns slots).pending = s.pending := rfl

@[simp] theorem State.bufferWrite_pending (s : State) (who : Option Nat) (ns : Nat) (pieces : List (Nat × Nat × Bytes)) :
    (State.bufferWrite s who ns pieces).pending = s.pending := by
  grind +splitImp [State.bufferWrite, State.noteWrite_pending, State.bufferPiece_pending, pending_foldl, SameQueue]

@[simp] theorem State.landCheck_pending (s : State) : (State.landCheck s).pending = s.pending := by
  grind +splitImp [State.landCheck, State.succeed_pending, pending_foldl, SameQueue]

@[simp] theorem State.bufferDone_pending (s : State) (w : WaitWrite) : (State.bufferDone s w).pending = s.pending := by
  grind [State.bufferDone, State.landCheck_pending, State.succeed_pending]

@[simp] theorem State.takeWrite_pending (s : State) (w : WaitWrite) : (State.takeWrite s w).pending = s.pending := by
  grind [State.takeWrite, State.bufferDone_pending, State.bufferWrite_pending]

@[simp] theorem State.openPieces_pending (s : State) (ns : Nat) (ps : List (Nat × Nat × Bytes)) : (State.openPieces s ns ps).2.pending = s.pending :=
    by
  grind +splitImp [State.openPieces, State.drawBytes_pending, pending_foldl_snd, SameQueue]

@[simp] theorem State.offerWrite_pending (s : State) (w : WaitWrite) : (State.offerWrite s w).pending = s.pending := by
  grind [State.offerWrite, State.openPieces_pending, State.succeed_pending, State.takeWrite_pending, State.noteWrite_pending]

@[simp] theorem writeCapRelease_pending (s : State) : (writeCapRelease s).pending = s.pending := by
  grind [writeCapRelease, State.takeWrite_pending]

@[simp] theorem State.unmapUnits_pending (s : State) (ns : Nat) (units : List Nat) : (State.unmapUnits s ns units).pending = s.pending := by
  grind +splitImp [State.unmapUnits, State.setEntry_pending, State.noteWrite_pending, State.landCheck_pending, pending_foldl, SameQueue]

@[simp] theorem State.fillUnit_pending (s : State) (b : BufUnit) : (State.fillUnit s b).pending = s.pending := by
  grind [State.fillUnit, State.event_pending, State.mapFault_pending]

@[simp] theorem State.startFills_pending (s : State) : (State.startFills s).pending = s.pending := by
  grind +splitImp [State.startFills, State.mended_pending, State.startPlain_pending, pending_foldl, SameQueue]

@[simp] theorem State.fillDone_pending (s : State) (ns unit : Nat) : (State.fillDone s ns unit).pending = s.pending := by
  grind [State.fillDone, State.fillUnit_pending]

@[simp] theorem State.placeSet_pending (s : State) (stream : Nat) (may : State → Bool) (ok : Nat → Bool) (sel : BufUnit → Bool) (sess : Option Nat) :
    (State.placeSet stream may ok sel sess s).2.pending = s.pending := by
  grind +splitImp [State.placeSet, State.nextPlace_pending, State.fillUnit_pending, State.issueSet_pending, pending_foldl, SameQueue]

@[simp] theorem placeStream_pending (stream : Nat) (may : State → Bool) (n : Nat) (s : State) : (placeStream stream may n s).pending = s.pending := by
  induction n generalizing s with
  | zero => rfl
  | succ n ih => grind [placeStream, State.placeSet_pending]

@[simp] theorem State.fillProgram_pending (s : State) (sess chan : Nat) : (State.fillProgram s sess chan).pending = s.pending := by
  grind [State.fillProgram, State.tt_pending, State.placeSet_pending]

@[simp] theorem placeHost_pending (may : State → Bool) (s : State) : (placeHost may s).pending = s.pending := by
  grind +splitImp [placeHost, placeStream_pending, pending_foldl, SameQueue]

@[simp] theorem placeCopies_pending (stream n : Nat) (s : State) : (placeCopies stream n s).pending = s.pending := by
  induction n generalizing s with
  | zero => rfl
  | succ n ih => grind [placeCopies, State.nextPlace_pending, State.issueSet_pending]

@[simp] theorem placeMovers_pending (s : State) : (placeMovers s).pending = s.pending := by
  grind [placeMovers, placeCopies_pending]

@[simp] theorem placeStage_pending (s : State) : (placeStage s).pending = s.pending := by
  grind [placeStage, State.startFills_pending, placeHost_pending, placeMovers_pending]

@[simp] theorem State.writeLeaves_pending (s : State) : (State.writeLeaves s).pending = s.pending := by
  grind [State.writeLeaves, State.writeLeafList_pending]

@[simp] theorem State.markCheck_pending (s : State) : (State.markCheck s).pending = s.pending := by
  grind [State.markCheck, State.putMark_pending]

@[simp] theorem State.wantMark_pending (s : State) (clean : Bool) : (State.wantMark s clean).pending = s.pending := by
  grind [State.wantMark, State.writeLeaves_pending, State.markCheck_pending]

@[simp] theorem State.finishShutdown_pending (s : State) : (State.finishShutdown s).pending = s.pending := by
  grind +splitImp [State.finishShutdown, State.writeLeaves_pending, State.pushMark_pending, State.updCtrl_pending, pending_foldl, SameQueue]

@[simp] theorem State.passUnit_pending (p : PageSet) (s : State) (u : Nat × Nat × Nat) : (State.passUnit p s u).pending = s.pending := by
  grind [State.passUnit, State.setEntry_pending]

@[simp] theorem State.passCopy_pending (p : PageSet) (s : State) (u : Nat × Nat × Nat) : (State.passCopy p s u).pending = s.pending := by
  grind [State.passCopy, State.startPlain_pending]

@[simp] theorem State.abandon_pending (s : State) (i : Nat) : (State.abandon s i).pending = s.pending := by
  grind [State.abandon, State.closeSb_pending]

@[simp] theorem State.failPlane_pending (p : PageSet) (s : State) (q : Nat) : (State.failPlane p s q).pending = s.pending := by
  grind [State.failPlane, State.retire_pending, State.health_pending]

@[simp] theorem State.settle_pending (s : State) (p : PageSet) (failed : List Nat) : (State.settle s p failed).pending = s.pending := by
  grind +splitImp [State.settle, State.failPlane_pending, pending_foldl, SameQueue]

@[simp] theorem State.endProgram_pending (s : State) (p : PageSet) (failed : List Nat) : (State.endProgram s p failed).pending = s.pending := by
  grind +splitImp [State.endProgram, State.settle_pending, State.landCheck_pending, State.passUnit_pending, State.passCopy_pending,
    State.abandon_pending, pending_foldl, SameQueue]

@[simp] theorem State.queueCopy_pending (s : State) (stream ns unit : Nat) : (State.queueCopy s stream ns unit).pending = s.pending := by
  grind [State.queueCopy, State.mended_pending, State.startPlain_pending]

@[simp] theorem State.copyRead_pending (s : State) (ns unit : Nat) : (State.copyRead s ns unit).pending = s.pending := by
  grind [State.copyRead, State.mapFault_pending]

@[simp] theorem gcCopy_pending (ns unit : Nat) (s : State) : (gcCopy ns unit s).pending = s.pending := by
  grind [gcCopy, State.checkFull_pending, State.queueCopy_pending]

@[simp] theorem State.verifyDone_pending (s : State) (i : Nat) : (State.verifyDone s i).pending = s.pending := by
  grind [State.verifyDone, State.dropAcc_pending]

@[simp] theorem gcVerify_pending (ns unit : Nat) (ok : Bool) (s : State) : (gcVerify ns unit ok s).pending = s.pending := by
  grind [gcVerify, State.setEntry_pending, State.setSb_pending, State.verifyDone_pending, State.abandon_pending]

@[simp] theorem superblockErase_pending (i : Nat) (s : State) : (superblockErase i s).pending = s.pending := by
  grind +splitImp [superblockErase, State.issueErase_pending, State.dropAcc_pending, State.setSb_pending, pending_foldl, SameQueue]

@[simp] theorem State.walkOn_pending (s : State) (key die block : Nat) (planes : List Nat) : (State.walkOn s key die block planes).pending =
    s.pending := by
  grind [State.walkOn, State.queueSense_pending]

@[simp] theorem State.verifyTick_pending (s : State) : (State.verifyTick s).pending = s.pending := by
  grind +splitImp [State.verifyTick, State.walkOn_pending, pending_foldl, SameQueue]

@[simp] theorem State.loseListed_pending (s : State) (p : BitVec 64 → Bool) (l : List (Nat × Nat)) : (State.loseListed s p l).pending = s.pending :=
    by
  grind +splitImp [State.loseListed, State.loseUnit_pending, pending_foldl, SameQueue]

@[simp] theorem superblockCloseVerify_pending (i : Nat) (rewrite lost : List (Nat × Nat)) (s : State) :
    (superblockCloseVerify i rewrite lost s).pending = s.pending := by
  grind +splitImp [superblockCloseVerify, State.loseListed_pending, State.queueCopy_pending, State.verifyDone_pending, pending_foldl, SameQueue]

@[simp] theorem State.movePage_pending (die block sb : Nat) (s : State) (page : Nat) : (State.movePage die block sb s page).pending = s.pending := by
  grind [State.movePage, State.queueSet_pending, State.freeSeats_pending, State.queueSense_pending]

@[simp] theorem State.moveGenBlock_pending (s : State) (pb : Nat) : (State.moveGenBlock s pb).pending = s.pending := by
  unfold State.moveGenBlock
  extract_lets i
  split
  · rfl
  split
  · rfl
  next h =>
    have hs := State.allocSb_pending (h := h) ..
    refine (State.queueOp_pending ..).trans ?_
    grind +splitImp [State.movePage_pending, pending_foldl, SameQueue, State.closeSb_pending]

@[simp] theorem State.rehome_pending (s : State) (old new : CwAddr) : (State.rehome s old new).pending = s.pending := rfl

@[simp] theorem State.placeAgain_pending (s : State) (p : PageSet) (failed : List Nat) (words : List CWord) :
    (State.placeAgain s p failed words).pending = s.pending := by
  grind +splitImp [State.placeAgain, State.moveGenBlock_pending, State.putParityOn_pending, State.firmwareWrite_pending, State.rehome_pending,
    pending_foldl, SameQueue]

@[simp] theorem State.endFirmware_pending (s : State) (p : PageSet) (failed : List Nat) : (State.endFirmware s p failed).pending = s.pending := by
  grind [State.endFirmware, State.settle_pending, State.placeAgain_pending]

@[simp] theorem State.rewriteBlock_pending (s : State) (pb : Nat) : (State.rewriteBlock s pb).pending = s.pending := by
  grind +splitImp [State.rewriteBlock, State.queueCopy_pending, State.moveGenBlock_pending, pending_foldl, SameQueue]

@[simp] theorem State.patrolTick_pending (s : State) : (State.patrolTick s).pending = s.pending := by
  grind [State.patrolTick, State.walkOn_pending]

@[simp] theorem patrolVerify_pending (pb : Nat) (v : Verify) (lost : List (Nat × Nat)) (s : State) : (patrolVerify pb v lost s).pending = s.pending
    := by
  grind [patrolVerify, State.rewriteBlock_pending, State.health_pending, State.loseListed_pending, State.retire_pending]

@[simp] theorem journalMark_pending (clean : Bool) (s : State) : (journalMark clean s).pending = s.pending := by
  grind [journalMark, State.wantMark_pending]

/-! ### Machine/Flash.lean -/

@[simp] theorem State.issueSense_pending (s : State) (die block page : Nat) (planes : List Nat) : (State.issueSense s die block page planes).pending
    = s.pending := by
  grind +splitImp [State.issueSense, State.countSenses_pending, State.beginOp_pending, pending_foldl, SameQueue]

@[simp] theorem State.resense_pending (s : State) (w : CwAddr) (n : Nat) : (State.resense s w n).pending = s.pending := by
  grind +splitImp [State.resense, State.queueSense_pending, pending_foldl, SameQueue]

@[simp] theorem dieSenseComplete_pending (die : Nat) (dirty erased : List Nat) (s : State) : (dieSenseComplete die dirty erased s).pending =
    s.pending := by
  grind +splitImp [dieSenseComplete, State.endOp_pending, State.mapFault_pending, pending_foldl, SameQueue]

@[simp] theorem flushSets_pending (n : Nat) (l : List Nat) (s : State) : (flushSets n l s).pending = s.pending := by
  induction n generalizing l s with
  | zero => rfl
  | succ n ih => grind [flushSets, placeStream_pending]

@[simp] theorem State.spill_pending (s : State) : (State.spill s).pending = s.pending := by
  grind [State.spill, State.firmwareWrite_pending, State.firmwareSet_pending]

@[simp] theorem flushMore_pending (s : State) : (flushMore s).pending = s.pending := by
  grind [flushMore, State.startFills_pending, flushSets_pending, State.spill_pending]

@[simp] theorem dieProgramComplete_pending (die : Nat) (failed : List Nat) (s : State) : (dieProgramComplete die failed s).pending = s.pending := by
  grind [dieProgramComplete, State.endOp_pending, flushMore_pending, State.finishShutdown_pending, State.markCheck_pending,
    State.endFirmware_pending, State.endProgram_pending]

@[simp] theorem State.freeErased_pending (s : State) (i : Nat) : (State.freeErased s i).pending = s.pending := by
  grind [State.freeErased, State.clearFull_pending, State.setSb_pending]

@[simp] theorem State.queueErases_pending (s : State) (l : List Nat) : (State.queueErases s l).pending = s.pending := by
  grind +splitImp [State.queueErases, State.queueOp_pending, pending_foldl, SameQueue]

@[simp] theorem State.testDone_pending (s : State) (hub : Nat) : (State.testDone s hub).pending = s.pending := by
  grind [State.testDone, State.queueErases_pending]

@[simp] theorem dieEraseComplete_pending (die : Nat) (failed : List Nat) (s : State) : (dieEraseComplete die failed s).pending = s.pending := by
  grind +splitImp [dieEraseComplete, State.endOp_pending, State.retire_pending, State.health_pending, State.erasePlane_pending, flushMore_pending,
    State.testDone_pending, State.freeErased_pending, pending_foldl, SameQueue]

@[simp] theorem State.uncorrectable_pending (s : State) (a : CwAddr) : (State.uncorrectable s a).pending = s.pending := by
  grind [State.uncorrectable, State.patrolFirst_pending, State.keepCorrected_pending, State.loseUnit_pending]

@[simp] theorem State.recovTick_pending (s : State) : (State.recovTick s).pending = s.pending := by
  grind +splitImp [State.recovTick, State.freeSeats_pending, pending_foldl, SameQueue]

@[simp] theorem dirtyRecoveryStep_pending (hub : Nat) (ok : Bool) (s : State) : (dirtyRecoveryStep hub ok s).pending = s.pending := by
  grind [dirtyRecoveryStep, State.resense_pending, State.keepCorrected_pending, State.patrolFirst_pending, State.uncorrectable_pending]

@[simp] theorem openReadLapse_pending (die stage : Nat) (s : State) : (openReadLapse die stage s).pending = s.pending := by
  grind [openReadLapse, State.tt_pending]

@[simp] theorem State.endTest_pending (s : State) (hub mode : Nat) : (State.endTest s hub mode).pending = s.pending := by
  grind [State.endTest, State.testDone_pending]

@[simp] theorem flaPgmodeService_pending (hub key : Nat) (s : State) : (flaPgmodeService hub key s).pending = s.pending := by
  grind [flaPgmodeService, State.endTest_pending]

@[simp] theorem flaPgmodeRecovery_pending (hub key : Nat) (s : State) : (flaPgmodeRecovery hub key s).pending = s.pending := by
  grind [flaPgmodeRecovery, State.endTest_pending]

@[simp] theorem flaPgmodeTest_pending (hub key : Nat) (s : State) : (flaPgmodeTest hub key s).pending = s.pending := by
  grind [flaPgmodeTest, State.setPgmode_pending]

@[simp] theorem State.rawProgram_pending (s : State) (a : CwAddr) (readFirst : Bool) : (State.rawProgram s a readFirst).pending = s.pending := by
  grind [State.rawProgram, State.freeSeats_pending, State.queueSense_pending, State.queueOp_pending]

@[simp] theorem recoveryRawProgram_pending (a : CwAddr) (raw : Bytes) (s : State) : (recoveryRawProgram a raw s).pending = s.pending := by
  grind [recoveryRawProgram, State.drawBytes_pending, State.rawProgram_pending]

/-! ### Machine/Store.lean -/

theorem State.writeCommand_pending (s : State) (tag : Tag) (nsid prinfo : Nat) (ranges : List (Nat × Nat)) (field : Ns → Option Status)
    (f : Ns → State → State) (hf : ∀ x0 t, SameQueue t (f x0 t)) : (State.writeCommand s tag nsid prinfo ranges field f).pending = s.pending := by
  grind [State.writeCommand, State.command_pending, State.fail_pending, State.checkFull_pending, SameQueue]

@[simp] theorem write_pending (tag : Tag) (nsid slba nlb prinfo : Nat) (fua : Bool) (data : Bytes) (s : State) :
    (write tag nsid slba nlb prinfo fua data s).pending = s.pending := by
  grind [write, State.writeCommand_pending, State.offerWrite_pending, SameQueue]

@[simp] theorem writeLocate_pending (tag : Tag) (nsid slba nlb prinfo : Nat) (sgl : Option Nat) (data : Bytes) (s : State) :
    (writeLocate tag nsid slba nlb prinfo sgl data s).pending = s.pending := by
  grind [writeLocate, State.writeCommand_pending, State.offerWrite_pending, SameQueue]

@[simp] theorem State.zeroBlocks_pending (s : State) (tag : Tag) (n : Ns) (ranges : List (Nat × Nat)) : (State.zeroBlocks s tag n ranges).pending =
    s.pending := by
  grind [State.zeroBlocks, State.offerWrite_pending, State.unmapUnits_pending]

@[simp] theorem writeZeroes_pending (tag : Tag) (nsid slba nlb prinfo : Nat) (s : State) : (writeZeroes tag nsid slba nlb prinfo s).pending =
    s.pending := by
  grind [writeZeroes, State.writeCommand_pending, State.zeroBlocks_pending, SameQueue]

@[simp] theorem datasetManagement_pending (tag : Tag) (nsid : Nat) (dealloc : Bool) (nr : Nat) (data : Bytes) (s : State) :
    (datasetManagement tag nsid dealloc nr data s).pending = s.pending := by
  grind [datasetManagement, State.writeCommand_pending, State.zeroBlocks_pending, SameQueue]

@[simp] theorem State.touchRead_pending (s : State) (ns first count : Nat) : (State.touchRead s ns first count).pending = s.pending := by
  grind +splitImp [State.touchRead, State.touchLeaf_pending, pending_foldl, SameQueue]

@[simp] theorem State.openRead_pending (s : State) (ns first : Nat) (d : Bytes) : (State.openRead s ns first d).2.pending = s.pending := by
  grind +splitImp [State.openRead, State.drawBytes_pending, pending_foldl_snd, SameQueue]

@[simp] theorem State.finishRead_pending (s : State) (w : LeafWait) : (State.finishRead s w).pending = s.pending := by
  grind [State.finishRead, readSlots_pending, State.touchRead_pending, State.fail_pending, State.openRead_pending, State.succeed_pending]

@[simp] theorem State.senseRead_pending (s : State) (w : LeafWait) : (State.senseRead s w).pending = s.pending := by
  grind [State.senseRead, State.finishRead_pending, State.startPlain_pending]

@[simp] theorem State.loadLeaves_pending (s : State) (w : LeafWait) : (State.loadLeaves s w).pending = s.pending := by
  grind +splitImp [State.loadLeaves, State.startPlain_pending, pending_foldl, SameQueue]

@[simp] theorem State.mapRead_pending (s : State) (w : LeafWait) : (State.mapRead s w).pending = s.pending := by
  grind [State.mapRead, State.senseRead_pending, State.loadLeaves_pending]

theorem State.readCommand_pending (s : State) (tag : Tag) (nsid slba nlb prinfo : Nat) (f : Ns → State → State) (hf : ∀ x0 t, SameQueue t (f x0 t)) :
    (State.readCommand s tag nsid slba nlb prinfo f).pending = s.pending := by
  grind [State.readCommand, State.command_pending, State.fail_pending, SameQueue]

@[simp] theorem read_pending (tag : Tag) (nsid slba nlb prinfo : Nat) (s : State) : (read tag nsid slba nlb prinfo s).pending = s.pending := by
  grind [read, State.readCommand_pending, State.mapRead_pending, SameQueue]

@[simp] theorem readLocator_pending (tag : Tag) (nsid slba nlb prinfo bufLen : Nat) (loc : Bytes) (decodes : Bool) (s : State) :
    (readLocator tag nsid slba nlb prinfo bufLen loc decodes s).pending = s.pending := by
  grind [readLocator, State.readCommand_pending, State.fail_pending, State.startPlain_pending, State.mapRead_pending, SameQueue]

@[simp] theorem State.locatorLanded_pending (s : State) (w : LeafWait) (loc : Bytes) (decodes : Bool) : (State.locatorLanded s w loc decodes).pending
    = s.pending := by
  grind [State.locatorLanded, State.fail_pending, State.succeed_pending, State.mapRead_pending]

@[simp] theorem State.releaseReads_pending (s : State) : (State.releaseReads s).pending = s.pending := by
  grind +splitImp [State.releaseReads, State.senseRead_pending, pending_foldl, SameQueue]

@[simp] theorem leafLoadComplete_pending (ns leaf : Nat) (ok : Bool) (s : State) : (leafLoadComplete ns leaf ok s).pending = s.pending := by
  grind +splitImp [leafLoadComplete, State.releaseReads_pending, State.touchLeaf_pending, State.mendLeaf_pending, State.mapFault_pending,
    pending_foldl, SameQueue]

@[simp] theorem State.landPlain_pending (s : State) (p : Plain) : (State.landPlain s p).pending = s.pending := by
  grind [State.landPlain, State.finishRead_pending, State.mapRead_pending, State.locatorLanded_pending, State.fillDone_pending,
    State.copyRead_pending]

@[simp] theorem State.keepPlain_pending (s : State) (p : Plain) : (State.keepPlain s p).pending = s.pending := rfl

@[simp] theorem State.plainStep_pending (s : State) (p : Plain) : (State.plainStep s p).pending = s.pending := by
  grind +splitImp [State.plainStep, State.keepPlain_pending, State.recover_pending, State.freeSeats_pending, State.landPlain_pending,
    State.queueSense_pending, pending_foldl, SameQueue]

@[simp] theorem State.plainTick_pending (s : State) : (State.plainTick s).pending = s.pending := by
  grind +splitImp [State.plainTick, State.plainStep_pending, pending_foldl, SameQueue]

@[simp] theorem flush_pending (tag : Tag) (nsid : Nat) (s : State) : (flush tag nsid s).pending = s.pending := by
  grind [flush, State.command_pending, State.landCheck_pending, State.fail_pending, SameQueue]

/-! ### Machine/Runs.lean -/

@[simp] theorem State.updRun_pending (s : State) (n : Nat) (f : Run → Run) : (State.updRun s n f).pending = s.pending := by
  grind [State.updRun, State.updSess_pending]

@[simp] theorem State.readPlaced_pending (s : State) (x : Session) (r : Run) (i : Nat) (opened staged : Bool) :
    (State.readPlaced s x r i opened staged).2.pending = s.pending := by
  unfold State.readPlaced
  extract_lets t n
  clear_value t n
  split
  · rfl
  · split <;> rfl
  · split
    · rfl
    · split
      · rfl
      · split
        · rfl
        · split
          next h => exact pending_of_pair h (quotaRead_pending ..)
          next h => exact pending_of_pair h (quotaRead_pending ..)
  · split
    · rfl
    · split <;> split <;> rfl

@[simp] theorem State.loadStream_pending (sess : Nat) (s : State) (st : Stream) : (State.loadStream sess s st).pending = s.pending := by
  grind +splitImp [State.loadStream, State.readPlaced_pending, State.faultHere_pending, State.drawBytes_pending, State.mapFault_pending,
    State.health_pending, State.flagRun_pending, State.updRun_pending, pending_foldl, SameQueue]

@[simp] theorem State.enterGroup_pending (s : State) (sess g : Nat) : (State.enterGroup s sess g).pending = s.pending := by
  grind +splitImp [State.enterGroup, State.updRun_pending, State.loadStream_pending, pending_foldl, SameQueue]

@[simp] theorem State.readTensor_pending (s : State) (x : Session) (r : Run) (g i : Nat) (opened : Bool) :
    (State.readTensor s x r g i opened).2.pending = s.pending := by
  grind [State.readTensor, State.readPlaced_pending]

@[simp] theorem State.writeTensor_pending (s : State) (sess i : Nat) (b : Bytes) (ranges : List (Nat × Nat)) :
    (State.writeTensor s sess i b ranges).2.pending = s.pending := by
  unfold State.writeTensor
  split
  · rfl
  extract_lets t u
  have hu : u.pending = s.pending := by
    unfold u
    split
    · split
      · split <;> rfl
      · rfl
    · rfl
  clear_value t u
  split
  · exact hu
  · exact hu
  · split
    · exact hu
    · split
      · split
        · exact hu
        · split
          next h => exact (quotaWrite_pending ..).trans ((pending_of_pair h (State.drawBytes_pending ..)).trans hu)
      · split
        · exact hu
        · refine (pending_foldl_snd (fun p q => ?_) _ _).trans hu
          unfold SameQueue
          split
          · rfl
          · split
            next h => exact pending_of_pair h (quotaWrite_pending ..)
            next h => exact pending_of_pair h (quotaWrite_pending ..)
  · exact hu

@[simp] theorem State.opEnv_pending (s : State) (x : Session) (r : Run) (o : OpRec) : (State.opEnv s x r o).2.pending = s.pending := by
  unfold State.opEnv
  extract_lets img base idx
  clear_value img base idx
  split
  next got t ht =>
    have h1 : t.pending = s.pending := by
      refine pending_of_pair ht (pending_foldl_snd (fun a i => ?_) _ _)
      unfold SameQueue
      split
      next h => exact pending_of_pair h (State.readTensor_pending ..)
    clear ht
    extract_lets data data'
    split
    next rows gone _ =>
      extract_lets e dry u c code
      have hu : u.pending = t.pending := by
        refine pending_foldl (fun v g => ?_) _ _
        unfold SameQueue
        split
        · refine pending_foldl (fun w k => ?_) _ _
          unfold SameQueue
          split
          · exact State.mapFault_pending ..
          · rfl
        · rfl
      clear_value u
      exact (pending_ite (State.health_pending ..) rfl).trans (hu.trans h1)

@[simp] theorem State.passDone_pending (s : State) (sess : Nat) : (State.passDone s sess).pending = s.pending := by
  grind [State.passDone, State.updSess_pending]

@[simp] theorem State.opDone_pending (s : State) (sess op : Nat) : (State.opDone s sess op).pending = s.pending := by
  grind [State.opDone, State.updRun_pending, State.passDone_pending]

@[simp] theorem State.putResult_pending (sess op : Nat) (force : Bool) (s : State) (q : Nat × Res) : (State.putResult sess op force s q).pending =
    s.pending := by
  grind [State.putResult, State.updRun_pending, State.writeTensor_pending, State.faultRun_pending]

@[simp] theorem State.putFree_pending (sess op : Nat) (s : State) (i : Nat) : (State.putFree sess op s i).pending = s.pending := by
  grind [State.putFree, State.drawBytes_pending, State.updRun_pending, State.putResult_pending]

@[simp] theorem State.deliver_pending (s : State) (sess op : Nat) (out : OpOut) : (State.deliver s sess op out).pending = s.pending := by
  grind +splitImp [State.deliver, State.putResult_pending, State.flagRun_pending, State.updRun_pending, pending_foldl, SameQueue]

@[simp] theorem runOp_pending (code : Nat) (f : OpEnv → Option OpOut) (sess op : Nat) (s : State) : (runOp code f sess op s).pending = s.pending := by
  grind +splitImp [runOp, State.enterGroup_pending, State.opEnv_pending, State.faultRun_pending, State.opDone_pending, State.flagRun_pending,
    State.deliver_pending, State.putFree_pending, pending_foldl, SameQueue]

@[simp] theorem opNsWrite_pending (sess op : Nat) (s : State) : (opNsWrite sess op s).pending = s.pending := by
  unfold opNsWrite
  split
  · rfl
  extract_lets t u xi
  have ht : t.pending = s.pending := State.enterGroup_pending ..
  have hu : u.pending = s.pending := (State.checkFull_pending ..).trans ht
  clear_value u t
  split
  · exact ht
  split
  · exact ht
  split
  · exact (State.opDone_pending ..).trans ht
  split
  · exact (State.opDone_pending ..).trans hu
  split
  · exact (State.faultRun_pending ..).trans hu
  split
  · exact (State.faultRun_pending ..).trans hu
  split
  next q v h =>
    have hv := (pending_of_pair h (State.opEnv_pending ..)).trans hu
    clear h
    grind [State.opDone_pending, State.faultRun_pending, State.flagRun_pending, State.updRun_pending, State.drawBytes_pending]

@[simp] theorem stagedWriteEnterBuffer_pending (sess : Nat) (s : State) : (stagedWriteEnterBuffer sess s).pending = s.pending := by
  grind [stagedWriteEnterBuffer, State.updRun_pending, State.bufferWrite_pending]

@[simp] theorem State.freeItems_pending (s : State) : (State.freeItems s).2.pending = s.pending := by
  grind [State.freeItems, State.drawNat_pending, State.drawBytes_pending]

@[simp] theorem sendAnswers_pending (coach handle flags n first : Nat) (items : List Item) (s : State) :
    (sendAnswers coach handle flags n first items s).pending = s.pending := by
  induction n generalizing first items s with
  | zero => rfl
  | succ n ih =>
    unfold sendAnswers
    extract_lets last t
    have ht : t.pending = s.pending := by
      unfold t
      cases h : State.sendCarriage s coach 286 (s.roleStamp coach) 7 0 0 0 0 false last (answerPayload handle first flags (items.take 15)) with
      | none => rfl
      | some u => exact State.sendCarriage_pending (h := h) ..
    exact pending_ite ht ((ih _ _ _).trans ht)

@[simp] theorem State.handItems_pending (s : State) (teams : List Nat) (k flags : Nat) (items : List Item) :
    (State.handItems s teams k flags items).2.pending = s.pending := by
  grind [State.handItems, sendAnswers_pending]

@[simp] theorem emitNow_pending (sess op : Nat) (s : State) : (emitNow sess op s).pending = s.pending := by
  unfold emitNow
  split
  · rfl
  extract_lets o
  split
  next q t ht =>
    have ht : t.pending = s.pending := pending_of_pair ht (State.opEnv_pending ..)
    split
    · exact (State.faultRun_pending ..).trans ht
    split
    · exact (State.opDone_pending ..).trans ((State.flagRun_pending ..).trans ht)
    split
    next a items u hu =>
    split
    next b flags v hv =>
    split
    next c items' w hw =>
    have hu : u.pending = t.pending := pending_of_pair hu rfl
    have hv : v.pending = u.pending := by
      split at hv
      · exact pending_of_pair hv (State.drawNat_pending ..)
      · exact pending_of_pair hv rfl
    have hw : w.pending = v.pending := by
      split at hw
      · exact pending_of_pair hw rfl
      · exact pending_of_pair hw (State.freeItems_pending ..)
    have hw := hw.trans (hv.trans (hu.trans ht))
    split
    · exact (State.updRun_pending ..).trans hw
    split
    · exact (State.updRun_pending ..).trans hw
    split
    next l z hz =>
      exact (State.opDone_pending ..).trans ((pending_of_pair hz (State.handItems_pending ..)).trans hw)

@[simp] theorem opEmit_pending (sess op : Nat) (s : State) : (opEmit sess op s).pending = s.pending := by
  grind [opEmit, State.enterGroup_pending, emitNow_pending]

@[simp] theorem State.emitDeadline_pending (s : State) : (State.emitDeadline s).pending = s.pending := by
  grind +splitImp [State.emitDeadline, State.faultRun_pending, pending_foldl, SameQueue]

@[simp] theorem emitResume_pending (sess : Nat) (s : State) : (emitResume sess s).pending = s.pending := by
  grind [emitResume, emitNow_pending, State.updRun_pending]

/-! ### Machine/Binds.lean -/

@[simp] theorem State.takeImage_pending (s : State) (tag : Tag) (sess handle : Nat) (image : Bytes) (source : Option (Nat × Nat × Nat)) :
    (State.takeImage s tag sess handle image source).pending = s.pending := by
  unfold State.takeImage
  split
  · rfl
  extract_lets old loads others x' t
  have ht : t.pending = s.pending := State.updSess_pending ..
  clear_value t
  split
  · split
    · exact (State.refuse_pending ..).trans ht
    · split
      · exact (State.refuse_pending ..).trans ht
      · exact (State.succeed_pending ..).trans ((State.updSess_pending ..).trans ht)
  · exact (State.refuse_pending ..).trans ht

@[simp] theorem routeLoad_pending (tag : Tag) (sess handle : Nat) (first : Bool) (offset : Nat) (piece : Bytes) (s : State) :
    (routeLoad tag sess handle first offset piece s).pending = s.pending := by
  refine State.command_pending (hf := fun c t => ?_) ..
  refine State.sessCommand_pending (hf := fun x u => ?_) ..
  split
  · exact State.fail_pending ..
  split
  · split
    · exact State.fail_pending ..
    split
    · exact State.refuse_pending ..
    extract_lets v x' size
    have hv : SameQueue u v := State.updSess_pending ..
    clear_value v
    split
    · exact (State.refuse_pending ..).trans hv
    split
    · exact (State.refuse_pending ..).trans hv
    split
    · exact (State.takeImage_pending ..).trans hv
    · exact (State.succeed_pending ..).trans ((State.updSess_pending ..).trans hv)
  · split
    · exact State.refuse_pending ..
    split
    · exact State.refuse_pending ..
    split
    · exact State.takeImage_pending ..
    · exact (State.succeed_pending ..).trans (State.updSess_pending ..)

@[simp] theorem State.readImage_pending (s : State) (n : Ns) (lba blocks : Nat) : (State.readImage s n lba blocks).2.pending = s.pending := by
  grind [State.readImage, readSpan_pending]

@[simp] theorem routeLoadExtent_pending (tag : Tag) (sess handle nsid lba blocks : Nat) (s : State) :
    (routeLoadExtent tag sess handle nsid lba blocks s).pending = s.pending := by
  grind [routeLoadExtent, State.command_pending, State.sessCommand_pending, State.fail_pending, State.refuse_pending, State.updSess_pending,
    State.readImage_pending, State.takeImage_pending, SameQueue]

@[simp] theorem State.notePeaks_pending (s : State) (t : Timetable) : (State.notePeaks s t).pending = s.pending := by
  grind [State.notePeaks, State.tt_pending]

@[simp] theorem State.startRun_pending (s : State) (sess : Nat) (r : Run) : (State.startRun s sess r).pending = s.pending := by
  grind [State.startRun, State.updSess_pending, State.addBind_pending, State.notePeaks_pending, State.tt_pending]

@[simp] theorem State.nextRun_pending (s : State) (sess : Nat) : (State.nextRun s sess).pending = s.pending := by
  grind [State.nextRun, State.updSess_pending, State.startRun_pending]

@[simp] theorem State.dropRun_pending (s : State) (sess : Nat) : (State.dropRun s sess).pending = s.pending := by
  grind [State.dropRun, State.freeSlots_pending, State.updSess_pending, State.nextRun_pending]

@[simp] theorem State.openStaging_pending (s : State) (sess : Nat) (r : Run) : (State.openStaging s sess r).pending = s.pending := by
  grind +splitImp [State.openStaging, State.drawNat_pending, State.drawBytes_pending, State.bufferWrite_pending, pending_foldl, SameQueue]

@[simp] theorem State.openResults_pending (s : State) (x : Session) (r : Run) : (State.openResults s x r).pending = s.pending := by
  change SameQueue s _
  unfold State.openResults
  extract_lets img put t
  have hput : ∀ sl u q, SameQueue u (put sl u q) := by
    intro sl u q
    unfold put
    extract_lets n
    split
    · rfl
    · exact (quotaWrite_pending ..).trans (State.drawBytes_pending _ n)
  clear_value put
  have ht : SameQueue s t := by
    refine pending_foldl (fun u p => ?_) _ _
    extract_lets t
    split
    · exact pending_foldl (hput _) _ _
    · rfl
  exact (State.openStaging_pending ..).trans ht

@[simp] theorem State.endRun_pending (s : State) (sess : Nat) : (State.endRun s sess).pending = s.pending := by
  grind [State.endRun, State.openResults_pending, State.hold_pending, State.nextCycle_pending, State.succeed_pending, State.completeWith_pending,
    State.dropRun_pending]

@[simp] theorem State.endFaulted_pending (s : State) : (State.endFaulted s).pending = s.pending := by
  grind +splitImp [State.endFaulted, State.endRun_pending, pending_foldl, SameQueue]

@[simp] theorem runComplete_pending (sess : Nat) (s : State) : (runComplete sess s).pending = s.pending := by
  grind [runComplete, State.endRun_pending]

@[simp] theorem run_pending (tag : Tag) (sess handle : Nat) (block : Bytes) (s : State) : (run tag sess handle block s).pending = s.pending := by
  grind [run, State.command_pending, State.sessCommand_pending, State.fail_pending, State.refuse_pending, State.nextRun_pending,
    State.updSess_pending, SameQueue]

@[simp] theorem State.endBind_pending (s : State) (b : Bind) (x : Session) (st : Status) (dw0 : Nat) : (State.endBind s b x st dw0).pending =
    s.pending := by
  grind +splitImp [State.endBind, State.hold_pending, State.dropBind_pending, State.dropRun_pending, State.completeWith_pending,
    State.updSess_pending, State.addBind_pending, pending_foldl, SameQueue]

@[simp] theorem State.refuseBind_pending (s : State) (b : Bind) (x : Session) (reason : Nat) : (State.refuseBind s b x reason).pending = s.pending :=
    by
  grind [State.refuseBind, State.endBind_pending, State.tt_pending]

@[simp] theorem State.rereadImage_pending (s : State) (x : Session) : (State.rereadImage s x).pending = s.pending := by
  grind [State.rereadImage, State.readImage_pending, State.updSess_pending]

@[simp] theorem bind_pending (id : Nat) (s : State) : (bind id s).pending = s.pending := by
  grind [bind, State.refuseBind_pending, State.rereadImage_pending]

@[simp] theorem bindWaitExpiry_pending (id : Nat) (s : State) : (bindWaitExpiry id s).pending = s.pending := by
  grind [bindWaitExpiry, State.refuseBind_pending]

@[simp] theorem State.countBind_pending (s : State) (b : Bind) (again : Bool) (t : Timetable) : (State.countBind s b again t).pending = s.pending :=
    by
  grind [State.countBind, State.notePeaks_pending, State.tt_pending]

@[simp] theorem bindComplete_pending (id : Nat) (e : BindEnd) (s : State) : (bindComplete id e s).pending = s.pending := by
  unfold bindComplete
  split
  · rfl
  split
  · rfl
  extract_lets p writes spent nops
  clear_value p writes spent nops
  split
  · rfl
  split
  · exact State.endBind_pending ..
  split
  · exact State.refuseBind_pending ..
  split
  · rfl
  split
  · extract_lets t fixed u
    have hu : SameQueue s u := (State.dropBind_pending ..).trans (State.countBind_pending ..)
    clear_value u
    split
    · rfl
    · split <;> exact (State.updSess_pending ..).trans hu
  · rfl

@[simp] theorem State.missBlock_pending (s : State) (sess kind tensor block pass : Nat) : (State.missBlock s sess kind tensor block pass).pending =
    s.pending := by
  grind [State.missBlock, State.health_pending, State.faultHere_pending, State.updRun_pending, State.flagRun_pending]

@[simp] theorem State.updWalk_pending (s : State) (sess coach ctx : Nat) (f : Walk → Walk) : (State.updWalk s sess coach ctx f).pending = s.pending
    := by
  grind [State.updWalk, State.updSess_pending]

@[simp] theorem State.haltStalled_pending (s : State) (coach ctx : Nat) (stalls : Bool) : (State.haltStalled s coach ctx stalls).pending = s.pending
    := by
  grind [State.haltStalled, State.setCtx_pending]

@[simp] theorem State.missHere_pending (s : State) (sess kind tensor block : Nat) : (State.missHere s sess kind tensor block).pending = s.pending :=
    by
  grind [State.missHere, State.missBlock_pending]

@[simp] theorem waitLapse_pending (coach ctx : Nat) (m : Miss) (s : State) : (waitLapse coach ctx m s).pending = s.pending := by
  grind [waitLapse, State.reissueReads_pending, State.setCtx_pending, State.health_pending, State.updWalk_pending, State.missHere_pending,
    State.haltStalled_pending, State.faultHere_pending]

/-! ### Machine/Release.lean -/

@[simp] theorem State.reservedSense_pending (s : State) (w : CwAddr) : (State.reservedSense s w).pending = s.pending := by
  grind [State.reservedSense, State.issueSense_pending]

@[simp] theorem State.deliverSeats_pending (s : State) (w : CwAddr) (dest tag role src : Nat) : (State.deliverSeats s w dest tag role src).pending =
    s.pending := by
  grind +splitImp [State.deliverSeats, State.reply_pending, pending_foldl, SameQueue]

@[simp] theorem State.gatherSeat_pending (s : State) (w : CwAddr) (g : Nat × Nat × Nat × Nat × Nat) : (State.gatherSeat s w g).pending = s.pending :=
    by
  grind [State.gatherSeat, State.updRun_pending, State.tt_pending, State.health_pending, State.recover_pending, State.faultRun_pending]

@[simp] theorem State.seatOpenRead_pending (s : State) (o : OpenRead) : (State.seatOpenRead s o).pending = s.pending := by
  grind [State.seatOpenRead, State.gatherSeat_pending, State.tt_pending, State.deliverSeats_pending, State.reply_pending, State.recover_pending]

@[simp] theorem State.scanData_pending (s : State) (c : Scan) (word : Nat) (data : Option Bytes) : (State.scanData s c word data).2.pending =
    s.pending := by
  unfold State.scanData
  split
  · split <;> rfl
  · rfl

@[simp] theorem State.scanSeat_pending (s : State) (d : Due) (w : CwAddr) (data : Option Bytes) : (State.scanSeat s d w data).pending = s.pending :=
    by
  grind [State.scanSeat, State.scanData_pending, State.health_pending, State.updSess_pending]

@[simp] theorem State.runMiss_pending (s : State) (d : Due) (w : CwAddr) : (State.runMiss s d w).pending = s.pending := by
  grind +splitImp [State.runMiss, State.faultRun_pending, State.health_pending, State.missBlock_pending, pending_foldl, SameQueue]

@[simp] theorem State.seatFixed_pending (d : Due) (s : State) (w : CwAddr) : (State.seatFixed d s w).pending = s.pending := by
  grind [State.seatFixed, State.tt_pending, State.recover_pending, State.runMiss_pending, State.scanSeat_pending, State.updRun_pending]

@[simp] theorem State.gatherFill_pending (s : State) (d : Due) : (State.gatherFill s d).pending = s.pending := by
  grind [State.gatherFill]

@[simp] theorem State.releaseEntry_pending (s : State) (d : Due) : (State.releaseEntry s d).pending = s.pending := by
  grind +splitImp [State.releaseEntry, State.tt_pending, State.reservedSense_pending, State.seatFixed_pending, State.fillProgram_pending,
    State.gatherFill_pending, pending_foldl, SameQueue]

@[simp] theorem State.releaseDue_pending (s : State) (due : List Due) : (State.releaseDue s due).pending = s.pending := by
  grind +splitImp [State.releaseDue, State.releaseEntry_pending, pending_foldl, SameQueue]

@[simp] theorem State.stallRuns_pending (s : State) : (State.stallRuns s).pending = s.pending := rfl

@[simp] theorem State.releaseNow_pending (s : State) (due : List Due) : (State.releaseNow s due).pending = s.pending := by
  grind [State.releaseNow, State.releaseDue_pending, State.tt_pending]

@[simp] theorem State.release_pending (s : State) : (State.release s).pending = s.pending := by
  grind +splitImp [State.release, State.stallRuns_pending, State.seatOpenRead_pending, State.releaseNow_pending, State.tt_pending,
    State.reservedSense_pending, pending_foldl, SameQueue]

@[simp] theorem passStart_pending (sess : Nat) (s : State) : (passStart sess s).pending = s.pending := by
  grind [passStart, State.updRun_pending, State.addBind_pending, State.freeSlots_pending]

@[simp] theorem timetableResume_pending (sess : Nat) (s : State) : (timetableResume sess s).pending = s.pending := by
  grind +splitImp [timetableResume, State.updSess_pending, State.notePeaks_pending, pending_foldl, SameQueue]

/-! ### Machine/Search.lean -/

@[simp] theorem query_pending (tag : Tag) (sess : Nat) (data : Bytes) (s : State) : (query tag sess data s).pending = s.pending := by
  grind [query, State.command_pending, State.sessCommand_pending, State.fail_pending, State.refuse_pending, State.updSess_pending,
    State.addBind_pending, SameQueue]

@[simp] theorem State.updQuery_pending (s : State) (sess id : Nat) (f : Query → Query) : (State.updQuery s sess id f).pending = s.pending := by
  grind [State.updQuery, State.updSess_pending]

@[simp] theorem State.startWalk_pending (id : Nat) (n : Ns) (g : Gen) (s : State) (p : Nat × Nat) : (State.startWalk id n g s p).pending = s.pending
    := by
  grind [State.startWalk, State.setCtx_pending, State.updQuery_pending]

@[simp] theorem State.admitLocal_pending (s : State) (x : Session) (q : Query) : (State.admitLocal s x q).pending = s.pending := by
  unfold State.admitLocal
  split
  · rfl
  split
  · split
    · rfl
    split
    · rfl
    · exact (pending_foldl (fun t w => State.startWalk_pending ..) _ _).trans (State.updQuery_pending ..)
  · rfl

@[simp] theorem State.forwardQuery_pending (s : State) (x : Session) (q : Query) (p : PeerSet) : (State.forwardQuery s x q p).pending = s.pending :=
    by
  grind +splitImp [State.forwardQuery, State.send_pending, State.updQuery_pending, pending_foldl, SameQueue]

@[simp] theorem queryAdmit_pending (id : Nat) (s : State) : (queryAdmit id s).pending = s.pending := by
  grind [queryAdmit, State.forwardQuery_pending, State.admitLocal_pending]

@[simp] theorem State.dropTrees_pending (s : State) (id : Nat) : (State.dropTrees s id).pending = s.pending := rfl

@[simp] theorem State.clearSaved_pending (s : State) (x : Session) (place ctx : Nat) : (State.clearSaved s x place ctx).pending = s.pending := by
  grind +splitImp [State.clearSaved, dramWrite_pending, State.updSess_pending, pending_foldl, SameQueue]

@[simp] theorem State.clearCtx_pending (s : State) (sess coach ctx : Nat) : (State.clearCtx s sess coach ctx).pending = s.pending := by
  grind [State.clearCtx, State.setCtx_pending, State.clearSaved_pending]

@[simp] theorem State.dropQuery_pending (s : State) (sess id : Nat) : (State.dropQuery s sess id).pending = s.pending := by
  grind +splitImp [State.dropQuery, State.clearCtx_pending, State.updSess_pending, State.dropTrees_pending, State.closePeers_pending, pending_foldl,
    SameQueue]

@[simp] theorem State.abortQuery_pending (reason : Nat) (s : State) (p : Session × Query) : (State.abortQuery reason s p).pending = s.pending := by
  grind [State.abortQuery, State.dropQuery_pending, State.completeWith_pending]

@[simp] theorem State.missQuery_pending (s : State) (p : Session × Query) : (State.missQuery s p).pending = s.pending := by
  grind [State.missQuery, State.dropQuery_pending, State.fail_pending]

@[simp] theorem State.queryDone_pending (s : State) (id : Nat) : (State.queryDone s id).pending = s.pending := by
  grind [State.queryDone, State.dropQuery_pending, State.succeed_pending]

@[simp] theorem State.answerWalk_pending (s : State) (x : Session) (q : Query) (v : Nat) (w : Walk) (items : List Item) :
    (State.answerWalk s x q v w items).pending = s.pending := by
  grind [State.answerWalk, haltContext_pending, sendAnswers_pending, State.setCtx_pending, State.updQuery_pending]

theorem State.walkStep_pending (s : State) (coach ctx : Nat) (f : Session → Query → Nat → Walk → Ns → Gen → State → State)
    (hf : ∀ x0 x1 x2 x3 x4 x5 t, SameQueue t (f x0 x1 x2 x3 x4 x5 t)) : (State.walkStep s coach ctx f).pending = s.pending := by
  grind [State.walkStep, SameQueue]

@[simp] theorem State.issue_pending (s : State) (coach ctx : Nat) (i : Issue) : (State.issue s coach ctx i).pending = s.pending := by
  unfold State.issue
  extract_lets c
  clear_value c
  split
  · extract_lets u k
    split
    · rfl
    · exact State.setCtx_pending ..
  · exact State.setCtx_pending ..
  · exact State.setCtx_pending ..
  · exact (State.faultCoach_pending ..).trans (State.setCtx_pending ..)
  · refine State.walkStep_pending (hf := fun x q v w n g t => ?_) ..
    extract_lets gone upd u
    have hu : SameQueue t u := by
      change SameQueue t (if _ then _ else _)
      split
      · rfl
      · exact State.health_pending ..
    exact (State.updQuery_pending ..).trans hu
  · refine State.walkStep_pending (hf := fun x q v w n g t => ?_) ..
    extract_lets gone hit u
    have hu : SameQueue t u := State.health_pending ..
    clear_value u
    split
    · rfl
    split
    · split
      · exact (State.updWalk_pending ..).trans hu
      · exact (State.missQuery_pending ..).trans hu
    · exact (State.answerWalk_pending ..).trans hu

@[simp] theorem sequencerIssue_pending (coach pc : Nat) (i : Issue) (s : State) : (sequencerIssue coach pc i s).pending = s.pending := by
  grind [sequencerIssue, State.setCtx_pending, State.issue_pending]

@[simp] theorem State.mergeVector_pending (s : State) (x : Session) (q : Query) (v : Nat) : (State.mergeVector s x q v).pending = s.pending := by
  grind [State.mergeVector]

@[simp] theorem State.mergeShards_pending (s : State) (id : Nat) : (State.mergeShards s id).pending = s.pending := by
  grind +splitImp [State.mergeShards, State.mergeVector_pending, pending_foldl, SameQueue]

@[simp] theorem State.mergeTick_pending (s : State) : (State.mergeTick s).pending = s.pending := by
  grind +splitImp [State.mergeTick, State.mergeShards_pending, pending_foldl, SameQueue]

@[simp] theorem State.localList_pending (s : State) (x : Session) (q : Query) (t : Tree) (v stamp : Nat) : (State.localList s x q t v stamp).pending
    = s.pending := by
  grind [State.localList, State.updQuery_pending]

@[simp] theorem State.walkRecord_pending (s : State) (sess id v : Nat) (r : Bytes) : (State.walkRecord s sess id v r).pending = s.pending := by
  grind [State.walkRecord, State.updQuery_pending]

@[simp] theorem State.scanDone_pending (s : State) (x : Session) (id matches_ : Nat) : (State.scanDone s x id matches_).pending = s.pending := by
  grind [State.scanDone, State.freeSlots_pending, State.updSess_pending, State.succeed_pending]

theorem State.assemble_pending (s : State) (t : Tree) {v : _ × State} (h : s.assemble t = some v) : v.2.pending = s.pending := by
  grind [State.assemble, State.nextCycle_pending]

@[simp] theorem answerRecordComplete_pending (k : Nat) (s : State) : (answerRecordComplete k s).pending = s.pending := by
  unfold answerRecordComplete
  split
  · rfl
  split
  · rfl
  split
  · exact State.dropTree_pending ..
  · rfl
  next x r u _ h =>
    have hu : u.pending = s.pending := State.assemble_pending (h := h) ..
    clear h
    extract_lets stamp _ wait hold
    have hhold : ∀ v, (hold v).pending = v.pending := fun v => (State.hold_pending ..).trans (State.dropTree_pending ..)
    have hwait : wait.pending = s.pending := hu
    clear_value hold wait
    split
    · split
      · exact (hhold _).trans hu
      · exact hwait
    split
    · split
      · exact (State.scanDone_pending ..).trans ((hhold _).trans hu)
      · exact hwait
    split
    · exact (State.localList_pending ..).trans ((State.dropTree_pending ..).trans hu)
    split
    · grind [State.dropTree_pending, quotaWrite_pending, State.health_pending, State.queryDone_pending, State.walkRecord_pending]
    split
    · exact (State.queryDone_pending ..).trans ((State.walkRecord_pending ..).trans ((hhold _).trans hu))
    · exact hwait

@[simp] theorem peerAnswerFetch_pending (id member : Nat) (r : Option (List PeerList)) (s : State) : (peerAnswerFetch id member r s).pending =
    s.pending := by
  unfold peerAnswerFetch
  split
  · split
    · rfl
    · extract_lets peer t
      have ht : t.pending = s.pending := by
        unfold t
        clear_value peer
        cases peer with
        | none => rfl
        | some m => exact State.send_pending ..
      exact (State.updQuery_pending ..).trans ht
  · rfl

@[simp] theorem peerWaitExpiry_pending (id : Nat) (s : State) : (peerWaitExpiry id s).pending = s.pending := by
  grind [peerWaitExpiry, State.health_pending, State.missQuery_pending, State.updQuery_pending]

@[simp] theorem State.reachPeer_pending (p : PeerSet) (s : State) (m : Peer × PeerReply) : (State.reachPeer p s m).pending = s.pending := by
  grind [State.reachPeer, State.send_pending]

@[simp] theorem peerSet_pending (tag : Tag) (b : Bytes) (replies : List PeerReply) (s : State) : (peerSet tag b replies s).pending = s.pending := by
  grind +splitImp [peerSet, State.command_pending, State.fail_pending, State.sessCommand_pending, State.refuse_pending, State.reachPeer_pending,
    State.closePeers_pending, State.updSess_pending, State.succeed_pending, pending_foldl, SameQueue]

@[simp] theorem peerConnectionLoss_pending (sess nsid member : Nat) (s : State) : (peerConnectionLoss sess nsid member s).pending = s.pending := by
  grind [peerConnectionLoss, State.updSess_pending]

@[simp] theorem peerKeepAliveSend_pending (s : State) : (peerKeepAliveSend s).pending = s.pending := by
  grind +splitImp [peerKeepAliveSend, State.send_pending, pending_foldl, SameQueue]

@[simp] theorem State.closeBuild_pending (s : State) : (State.closeBuild s).pending = s.pending := by
  grind [State.closeBuild, State.closeSb_pending]

@[simp] theorem State.freeGen_pending (s : State) (nsid num : Nat) : (State.freeGen s nsid num).pending = s.pending := by
  grind [State.freeGen, State.updNs_pending]

@[simp] theorem State.endBuild_pending (s : State) (nsid gen result items skipped : Nat) : (State.endBuild s nsid gen result items skipped).pending =
    s.pending := by
  grind [State.endBuild, State.freeGen_pending, State.updSess_pending, State.hold_pending, State.nextCycle_pending]

@[simp] theorem State.endBuilds_pending (s : State) (nsid result : Nat) : (State.endBuilds s nsid result).pending = s.pending := by
  grind +splitImp [State.endBuilds, State.endBuild_pending, pending_foldl, SameQueue]

@[simp] theorem indexBuild_pending (tag : Tag) (sess nsid : Nat) (discard : Bool) (s : State) : (indexBuild tag sess nsid discard s).pending =
    s.pending := by
  grind [indexBuild, State.command_pending, State.sessCommand_pending, State.refuse_pending, State.fail_pending, State.updNs_pending,
    State.succeed_pending, State.addBind_pending, State.updSess_pending, SameQueue]

@[simp] theorem State.buildSpan_pending (dirty : Dirty) (n : Ns) (off len : Nat) (s : State) : (State.buildSpan dirty n off len s).2.pending =
    s.pending := by
  grind [State.buildSpan, readSpan_pending, State.drawBytes_pending]

@[simp] theorem State.readItem_pending (dirty : Dirty) (n : Ns) (p : Option (List GenItem) × State) (d : GraphNode) :
    (State.readItem dirty n p d).2.pending = p.2.pending := by
  grind [State.readItem, State.buildSpan_pending]

@[simp] theorem State.putCodeLayer_pending (s : State) (d : VecDesc) (g : Gen) : (State.putCodeLayer s d g).pending = s.pending := by
  grind [State.putCodeLayer, quotaWrite_pending]

@[simp] theorem State.writeLayers_pending (s : State) (n : Ns) (g : Gen) : (State.writeLayers s n g).2.pending = s.pending := by
  grind [State.writeLayers, State.firmwareWrite_pending, State.closeBuild_pending]

@[simp] theorem buildEnd_pending (nsid : Nat) (b : Built) (s : State) : (buildEnd nsid b s).pending = s.pending := by
  grind +splitImp [buildEnd, State.endBuild_pending, State.readItem_pending, State.writeLayers_pending, State.putCodeLayer_pending,
    State.closeBuild_pending, State.updNs_pending, pending_foldl_snd, SameQueue]

@[simp] theorem indexSwitch_pending (tag : Tag) (sess nsid : Nat) (s : State) : (indexSwitch tag sess nsid s).pending = s.pending := by
  grind [indexSwitch, State.command_pending, State.sessCommand_pending, State.refuse_pending, State.updNs_pending, SameQueue]

@[simp] theorem generationSwitch_pending (nsid : Nat) (s : State) : (generationSwitch nsid s).pending = s.pending := by
  grind [generationSwitch, State.refuse_pending, State.updNs_pending, State.wantMark_pending]

@[simp] theorem generationFree_pending (nsid num : Nat) (s : State) : (generationFree nsid num s).pending = s.pending := by
  grind [generationFree, State.freeGen_pending]

@[simp] theorem codeLayerReload_pending (nsid num : Nat) (s : State) : (codeLayerReload nsid num s).pending = s.pending := by
  grind +splitImp [codeLayerReload, State.queueSense_pending, State.freeSeats_pending, State.updNs_pending, State.putCodeLayer_pending,
    pending_foldl, SameQueue]

/-! ### Machine/Scans.lean -/

@[simp] theorem scan_pending (tag : Tag) (sess : Nat) (data : Bytes) (s : State) : (scan tag sess data s).pending = s.pending := by
  grind [scan, State.command_pending, State.sessCommand_pending, State.fail_pending, State.refuse_pending, State.addBind_pending,
    State.updSess_pending, SameQueue]

@[simp] theorem State.updScan_pending (s : State) (sess id : Nat) (f : Scan → Scan) : (State.updScan s sess id f).pending = s.pending := by
  grind [State.updScan, State.updSess_pending]

@[simp] theorem scanReread_pending (id word : Nat) (landed : Bool) (s : State) : (scanReread id word landed s).pending = s.pending := by
  grind [scanReread, State.plainSense_pending, State.updScan_pending, State.scanData_pending, State.mapFault_pending, State.uncorrectable_pending]

@[simp] theorem State.scanBlank_pending (n : Ns) (p : Scan × State) (word : Nat) : (State.scanBlank n p word).2.pending = p.2.pending := by
  grind [State.scanBlank, State.scanData_pending]

@[simp] theorem State.scanAnswer_pending (s : State) (x : Session) (c : Scan) (n : Ns) (k : Nat) : (State.scanAnswer s x c n k).pending = s.pending
    := by
  grind +splitImp [State.scanAnswer, State.scanBlank_pending, quotaWrite_pending, State.handItems_pending, pending_foldl_snd, SameQueue]

@[simp] theorem State.scanOpen_pending (s : State) (x : Session) (c : Scan) (k : Nat) : (State.scanOpen s x c k).pending = s.pending := by
  grind [State.scanOpen, State.drawNat_pending, State.freeItems_pending, State.drawBytes_pending, quotaWrite_pending]

@[simp] theorem scanComplete_pending (id : Nat) (s : State) : (scanComplete id s).pending = s.pending := by
  grind [scanComplete, State.updScan_pending, State.scanAnswer_pending, State.scanOpen_pending]

@[simp] theorem State.scanTick_pending (s : State) : (State.scanTick s).pending = s.pending := by
  grind +splitImp [State.scanTick, State.updScan_pending, State.freeSlots_pending, pending_foldl, SameQueue]

@[simp] theorem State.endScan_pending (st : Status) (dw0 : Nat) (s : State) (p : Session × Scan) : (State.endScan st dw0 s p).pending = s.pending :=
    by
  grind [State.endScan, State.freeSlots_pending, State.dropTrees_pending, State.updSess_pending, State.completeWith_pending]

@[simp] theorem State.abortScan_pending (reason : Nat) (s : State) (p : Session × Scan) : (State.abortScan reason s p).pending = s.pending := by
  grind [State.abortScan, State.endScan_pending]

@[simp] theorem fetch_pending (tag : Tag) (sess cls : Nat) (byId keep : Bool) (queryId after len : Nat) (s : State) :
    (fetch tag sess cls byId keep queryId after len s).pending = s.pending := by
  grind [fetch, State.command_pending, State.sessCommand_pending, State.fail_pending, State.completeWith_pending, State.succeed_pending, SameQueue]

/-! ### Machine/Sessions.lean -/

theorem State.openGate_pending (s : State) (tag : Tag) (major : Nat) (f : Ctrl → State → State) (hf : ∀ x0 t, SameQueue t (f x0 t)) :
    (State.openGate s tag major f).pending = s.pending := by
  grind [State.openGate, State.command_pending, State.refuse_pending, State.fail_pending, SameQueue]

@[simp] theorem sessionOpen_pending (tag : Tag) (major : Nat) (data : Bytes) (s : State) : (sessionOpen tag major data s).pending = s.pending := by
  refine State.openGate_pending (hf := fun c t => ?_) ..
  split
  · exact State.refuse_pending ..
  split
  · exact State.fail_pending ..
  split
  · exact State.refuse_pending ..
  extract_lets q
  clear_value q
  split
  · exact State.refuse_pending ..
  next part u h =>
    have hu : u.pending = t.pending := by
      split at h
      · cases h
        rfl
      · obtain ⟨p, hp, e⟩ := Option.map_eq_some_iff.1 h
        cases e
        exact State.placePart_pending (h := hp) ..
    clear h
    split
    next k v h =>
      have hv : v.pending = u.pending := pending_of_pair h (State.drawKey_pending ..)
      exact (State.sessEvent_pending ..).trans ((State.zeroRanges_pending ..).trans (hv.trans hu))

@[simp] theorem sessionOpenReclaim_pending (tag : Tag) (major sess key : Nat) (s : State) : (sessionOpenReclaim tag major sess key s).pending =
    s.pending := by
  grind [sessionOpenReclaim, State.openGate_pending, State.refuse_pending, State.succeed_pending, State.sessEvent_pending, State.updSess_pending,
    SameQueue]

@[simp] theorem granuleZeroingComplete_pending (sess : Nat) (s : State) : (granuleZeroingComplete sess s).pending = s.pending := by
  grind [granuleZeroingComplete, State.endZeroing_pending, State.updSess_pending]

@[simp] theorem State.clearData_pending (s : State) (addr n : Nat) : (State.clearData s addr n).pending = s.pending := rfl

@[simp] theorem State.writeRecord_pending (s : State) (x : Session) (place : Nat) (r : Table Byte) : (State.writeRecord s x place r).pending =
    s.pending := by
  grind +splitImp [State.writeRecord, State.clearData_pending, dramWrite_pending, pending_foldl, SameQueue]

@[simp] theorem State.readRecord_pending (x : Session) (place : Nat) (s : State) : (State.readRecord x place s).2.pending = s.pending := by
  grind +splitImp [State.readRecord, dramRead_pending, State.drawBytes_pending, pending_foldl_snd, SameQueue]

@[simp] theorem State.saveRecords_pending (s : State) (x : Session) (ts : List Nat) : (State.saveRecords s x ts).pending = s.pending := by
  grind +splitImp [State.saveRecords, State.writeRecord_pending, pending_foldl, SameQueue]

@[simp] theorem State.restoreRecords_pending (s : State) (x : Session) (ts : List Nat) : (State.restoreRecords s x ts).pending = s.pending := by
  unfold State.restoreRecords
  refine pending_foldl (fun t k => ?_) _ _
  unfold SameQueue
  extract_lets c
  split
  · rfl
  · split
    next r u h =>
      have hu : u.pending = t.pending := pending_of_pair h (State.readRecord_pending ..)
      exact hu

theorem State.replaceTeams_pending (s : State) (n teams : Nat) {v : State} (h : State.replaceTeams s n teams = some v) : v.pending = s.pending := by
  unfold State.replaceTeams at h
  extract_lets t u at h
  have hu : u.pending = s.pending := State.leavePart_pending ..
  clear_value u
  split at h
  · rw [← Option.some.inj h, hu]
  · obtain ⟨p, hp, rfl⟩ := Option.map_eq_some_iff.1 h
    exact (State.placePart_pending (h := hp) ..).trans hu

theorem gather_pending (f : Nat → State → Table Byte × State) (l : List Nat) (s : State) (hf : ∀ k t, SameQueue t (f k t).2) :
    (gather f l s).2.pending = s.pending := by
  grind +splitImp [gather, pending_foldl_snd, SameQueue]

@[simp] theorem State.readSave_pending (s : State) (x : Session) : (State.readSave s x).2.pending = s.pending := by
  grind [State.readSave, gather_pending, State.readRecord_pending, SameQueue]

@[simp] theorem State.writeSave_pending (s : State) (x : Session) (l : List (Nat × Table Byte)) : (State.writeSave s x l).pending = s.pending := by
  grind +splitImp [State.writeSave, State.writeRecord_pending, pending_foldl, SameQueue]

@[simp] theorem State.moveSave_pending (s : State) (x y : Session) (moved : Bool) (grown : List ((Nat × Nat × Nat) × Nat × Nat × Nat)) :
    (State.moveSave s x y moved grown).pending = s.pending := by
  grind +splitImp [State.moveSave, State.readSave_pending, State.writeSave_pending, State.zeroSlots_pending, pending_foldl, SameQueue]

@[simp] theorem State.takeQuota_pending (s : State) (x : Session) (tag : Tag) (q : Quota) : (State.takeQuota s x tag q).pending = s.pending := by
  grind [State.takeQuota, State.replaceTeams_pending, State.refuse_pending, State.moveSave_pending, State.updSess_pending, State.setWindows_pending,
    State.addBind_pending, State.succeed_pending]

@[simp] theorem quotaSet_pending (tag : Tag) (sess : Nat) (data : Bytes) (s : State) : (quotaSet tag sess data s).pending = s.pending := by
  grind [quotaSet, State.command_pending, State.sessCommand_pending, State.fail_pending, State.refuse_pending, State.updSess_pending,
    State.takeQuota_pending, SameQueue]

@[simp] theorem quotaSetTeamsReplace_pending (sess : Nat) (s : State) : (quotaSetTeamsReplace sess s).pending = s.pending := by
  grind [quotaSetTeamsReplace, State.updSess_pending, State.refuse_pending, State.takeQuota_pending]

@[simp] theorem State.enterClosing_pending (s : State) (x : Session) (tag : Tag) (mode : Nat) : (State.enterClosing s x tag mode).pending = s.pending
    := by
  grind [State.enterClosing, State.updSess_pending, State.abortQuotaWait_pending]

@[simp] theorem State.abortWork_pending (s : State) (n reason : Nat) : (State.abortWork s n reason).pending = s.pending := by
  grind +splitImp [State.abortWork, State.completeWith_pending, State.faultRun_pending, State.updSess_pending, State.abortQuery_pending,
    State.abortScan_pending, State.endBuild_pending, pending_foldl, SameQueue]

@[simp] theorem sessionCloseDrain_pending (tag : Tag) (sess : Nat) (s : State) : (sessionCloseDrain tag sess s).pending = s.pending := by
  grind [sessionCloseDrain, State.command_pending, State.sessCommand_pending, State.enterClosing_pending, SameQueue]

@[simp] theorem sessionCloseAbort_pending (tag : Tag) (sess : Nat) (s : State) : (sessionCloseAbort tag sess s).pending = s.pending := by
  grind [sessionCloseAbort, State.command_pending, State.sessCommand_pending, State.abortWork_pending, State.enterClosing_pending, SameQueue]

@[simp] theorem sessionFree_pending (sess : Nat) (s : State) : (sessionFree sess s).pending = s.pending := by
  grind [sessionFree, freeSession_pending]

@[simp] theorem State.orphan_pending (s : State) (x : Session) : (State.orphan s x).pending = s.pending := by
  grind +splitImp [State.orphan, State.abortScan_pending, State.updSess_pending, State.sessEvent_pending, pending_foldl, SameQueue]

@[simp] theorem State.startWindows_pending (s : State) : (State.startWindows s).pending = s.pending := rfl

@[simp] theorem reclaimWindowExpiry_pending (sess : Nat) (s : State) : (reclaimWindowExpiry sess s).pending = s.pending := by
  grind [reclaimWindowExpiry, freeSession_pending, State.abortWork_pending]

@[simp] theorem sliceEnd_pending (part : Nat) (s : State) : (sliceEnd part s).pending = s.pending := by
  grind [sliceEnd, State.updPart_pending]

@[simp] theorem State.beginSwitch_pending (s : State) (p : Partition) (debt : Nat) : (State.beginSwitch s p debt).pending = s.pending := by
  grind [State.beginSwitch, State.updPart_pending, State.updSess_pending]

@[simp] theorem partitionSwitch_pending (part : Nat) (s : State) : (partitionSwitch part s).pending = s.pending := by
  grind [partitionSwitch, State.beginSwitch_pending]

@[simp] theorem switchDeferLimit_pending (part : Nat) (s : State) : (switchDeferLimit part s).pending = s.pending := by
  grind [switchDeferLimit, State.beginSwitch_pending]

@[simp] theorem State.saveOut_pending (s : State) (p : Partition) : (State.saveOut s p).pending = s.pending := by
  grind [State.saveOut, State.writeRoles_pending, State.updSess_pending, State.saveRecords_pending]

@[simp] theorem State.startSwitch_pending (s : State) (p : Partition) : (State.startSwitch s p).pending = s.pending := by
  grind [State.startSwitch, State.updSess_pending, State.updPart_pending]

@[simp] theorem State.restoreIn_pending (s : State) (p : Partition) (next : Nat) : (State.restoreIn s p next).pending = s.pending := by
  grind [State.restoreIn, State.restoreRecords_pending, State.updPart_pending]

@[simp] theorem switchRestoreComplete_pending (part : Nat) (s : State) : (switchRestoreComplete part s).pending = s.pending := by
  grind [switchRestoreComplete, State.restoreIn_pending]

@[simp] theorem State.boundRestore_pending (s : State) (p : Partition) : (State.boundRestore s p).pending = s.pending := by
  grind [State.boundRestore, State.restoreIn_pending]

@[simp] theorem State.startHolder_pending (s : State) (p : Partition) : (State.startHolder s p).pending = s.pending := by
  grind [State.startHolder, State.updPart_pending, State.setWindows_pending, State.updSess_pending, State.reissueReads_pending]

@[simp] theorem State.countSlice_pending (s : State) (p : Partition) : (State.countSlice s p).pending = s.pending := by
  grind [State.countSlice, State.updPart_pending]

@[simp] theorem State.partitionsTick_pending (ran : Bool) (s : State) : (State.partitionsTick ran s).pending = s.pending := by
  grind +splitImp [State.partitionsTick, State.countSlice_pending, State.startSwitch_pending, State.saveOut_pending, State.boundRestore_pending,
    State.startHolder_pending, pending_foldl, SameQueue]

/-! ### Machine/Port.lean -/

@[simp] theorem State.setWidth_pending (s : State) (width base : Nat) : (State.setWidth s width base).pending = s.pending := rfl

@[simp] theorem linkTrain_pending (locked : List Nat) (s : State) : (linkTrain locked s).pending = s.pending := by
  grind [linkTrain, State.setWidth_pending]

@[simp] theorem linkWidthTimeout_pending (s : State) : (linkWidthTimeout s).pending = s.pending := by
  grind [linkWidthTimeout]

@[simp] theorem State.linkDown_pending (s : State) : (State.linkDown s).pending = s.pending := by
  grind [State.linkDown, State.setWidth_pending]

@[simp] theorem linkLoss_pending (s : State) : (linkLoss s).pending = s.pending := by
  grind [linkLoss, State.linkDown_pending]

@[simp] theorem pluggableInsert_pending (watts : Nat) (s : State) : (pluggableInsert watts s).pending = s.pending := by
  grind [pluggableInsert]

@[simp] theorem pluggableRemove_pending (s : State) : (pluggableRemove s).pending = s.pending := by
  grind [pluggableRemove, State.linkDown_pending]

@[simp] theorem arpRequest_pending (target sender : Nat) (s : State) : (arpRequest target sender s).pending = s.pending := by
  grind [arpRequest, State.send_pending]

@[simp] theorem neighbourDiscovery_pending (target sender : Nat) (s : State) : (neighbourDiscovery target sender s).pending = s.pending := by
  grind [neighbourDiscovery, State.send_pending]

@[simp] theorem icmpEcho_pending (v6 : Bool) (dest sender : Nat) (payload : Bytes) (s : State) : (icmpEcho v6 dest sender payload s).pending =
    s.pending := by
  grind [icmpEcho, State.send_pending]

@[simp] theorem frameDrop_pending (_len : Nat) (s : State) : (frameDrop _len s).pending = s.pending := by
  grind [frameDrop]

@[simp] theorem State.orphanFrom_pending (s : State) (x : Session) : (State.orphanFrom s x).pending = s.pending := by
  grind [State.orphanFrom, State.updSess_pending, State.orphan_pending]

@[simp] theorem State.endCtrl_pending (s : State) (id : Nat) : (State.endCtrl s id).pending = s.pending := by
  grind +splitImp [State.endCtrl, State.orphanFrom_pending, pending_foldl, SameQueue]

@[simp] theorem State.endConn_pending (s : State) (conn : Nat) : (State.endConn s conn).pending = s.pending := by
  grind +splitImp [State.endConn, State.endCtrl_pending, pending_foldl, SameQueue]

@[simp] theorem controllerEnd_pending (ctrl : Nat) (s : State) : (controllerEnd ctrl s).pending = s.pending := by
  grind [controllerEnd, State.endCtrl_pending]

@[simp] theorem icreq_pending (conn port : Nat) (hdgst ddgst : Bool) (s : State) : (icreq conn port hdgst ddgst s).pending = s.pending := by
  grind [icreq, State.send_pending]

@[simp] theorem tcpPduReceive_pending (conn : Nat) (digestOk : Bool) (_len : Nat) (s : State) : (tcpPduReceive conn digestOk _len s).pending =
    s.pending := by
  grind [tcpPduReceive, State.endConn_pending, State.send_pending]

@[simp] theorem rdmaConnectRequest_pending (qp port : Nat) (s : State) : (rdmaConnectRequest qp port s).pending = s.pending := by
  grind [rdmaConnectRequest, State.send_pending]

@[simp] theorem cnpReceived_pending (qp : Nat) (s : State) : (cnpReceived qp s).pending = s.pending := by
  grind [cnpReceived, State.drawNat_pending]

@[simp] theorem rdmaAckTimeout_pending (qp : Nat) (s : State) : (rdmaAckTimeout qp s).pending = s.pending := by
  grind [rdmaAckTimeout, State.endConn_pending, State.send_pending]

@[simp] theorem ecnMarkedPacket_pending (qp : Nat) (s : State) : (ecnMarkedPacket qp s).pending = s.pending := by
  grind [ecnMarkedPacket, State.send_pending]

@[simp] theorem pfcPauseFrame_pending (priority : Nat) (pause : Bool) (s : State) : (pfcPauseFrame priority pause s).pending = s.pending := by
  grind [pfcPauseFrame]

@[simp] theorem State.reply__pending (s : State) (tag : Tag) (st : Status) (dw0 : Nat) : (State.reply_ s tag st dw0).pending = s.pending := rfl

@[simp] theorem connectAdmin_pending (tag : Tag) (conn : Nat) (a : ConnectArgs) (s : State) : (connectAdmin tag conn a s).pending = s.pending := by
  grind [connectAdmin, State.reply__pending]

@[simp] theorem connectQueue_pending (tag : Tag) (a : ConnectArgs) (s : State) : (connectQueue tag a s).pending = s.pending := by
  grind [connectQueue, State.reply__pending, State.updCtrl_pending]

@[simp] theorem connect_pending (tag : Tag) (conn : Nat) (a : ConnectArgs) (s : State) : (connect tag conn a s).pending = s.pending := by
  grind [connect, connectAdmin_pending, connectQueue_pending]

@[simp] theorem propertyGet_pending (tag : Tag) (offset : Nat) (s : State) : (propertyGet tag offset s).pending = s.pending := by
  grind [propertyGet, State.command_pending, State.drawNat_pending, State.succeed_pending, State.fail_pending, SameQueue]

@[simp] theorem ccEnableSet_pending (tag : Tag) (s : State) : (ccEnableSet tag s).pending = s.pending := by
  grind [ccEnableSet, State.command_pending, State.succeed_pending, State.updCtrl_pending, SameQueue]

@[simp] theorem ccEnableClear_pending (tag : Tag) (s : State) : (ccEnableClear tag s).pending = s.pending := by
  grind [ccEnableClear, State.command_pending, State.reply__pending, State.endCtrl_pending, SameQueue]

@[simp] theorem ccShutdownNotification_pending (tag : Tag) (_abrupt : Bool) (s : State) : (ccShutdownNotification tag _abrupt s).pending = s.pending
    := by
  grind [ccShutdownNotification, State.command_pending, State.succeed_pending, State.updCtrl_pending, State.finishShutdown_pending, SameQueue]

@[simp] theorem disconnect_pending (tag : Tag) (s : State) : (disconnect tag s).pending = s.pending := by
  grind [disconnect, State.command_pending, State.reply__pending, State.endCtrl_pending, SameQueue]

@[simp] theorem keepAlive_pending (tag : Tag) (s : State) : (keepAlive tag s).pending = s.pending := by
  grind [keepAlive, State.command_pending, State.succeed_pending, State.updCtrl_pending, SameQueue]

@[simp] theorem keepAliveExpiry_pending (ctrl : Nat) (s : State) : (keepAliveExpiry ctrl s).pending = s.pending := by
  grind [keepAliveExpiry, State.endCtrl_pending]

/-! ### Machine/Power.lean -/

@[simp] theorem State.protect_pending (s : State) : (State.protect s).pending = s.pending := by
  grind +splitImp [State.protect, State.fail_pending, pending_foldl, SameQueue]

@[simp] theorem State.capTick_pending (s : State) : (State.capTick s).pending = s.pending := by
  grind [State.capTick, State.protect_pending]

@[simp] theorem bankMeasure_pending (s : State) : (bankMeasure s).pending = s.pending := by
  grind [bankMeasure, State.warn_pending, State.capTick_pending]

@[simp] theorem bankMeasureComplete_pending (c : Nat) (s : State) : (bankMeasureComplete c s).pending = s.pending := by
  grind [bankMeasureComplete, State.warn_pending, State.capTick_pending, State.event_pending]

@[simp] theorem bankChargeTimeout_pending (s : State) : (bankChargeTimeout s).pending = s.pending := by
  grind [bankChargeTimeout, State.warn_pending, State.capTick_pending]

@[simp] theorem bankChargeComplete_pending (s : State) : (bankChargeComplete s).pending = s.pending := by
  grind [bankChargeComplete, State.warn_pending, State.capTick_pending]

@[simp] theorem State.shiftEntries_pending (s : State) (n : Nat) : (State.shiftEntries s n).pending = s.pending := rfl

@[simp] theorem State.restTick_pending (s : State) : (State.restTick s).pending = s.pending := by
  grind [State.restTick, State.shiftEntries_pending]

@[simp] theorem State.startSequence_pending (s : State) (trigger : Nat) : (State.startSequence s trigger).pending = s.pending := by
  grind [State.startSequence, State.event_pending]

@[simp] theorem powerLoss_pending (s : State) : (powerLoss s).pending = s.pending := by
  grind [powerLoss, State.startSequence_pending]

@[simp] theorem railFault_pending (osfp : Bool) (s : State) : (railFault osfp s).pending = s.pending := by
  grind [railFault, State.startSequence_pending, State.linkDown_pending]

@[simp] theorem overvoltage_pending (s : State) : (overvoltage s).pending = s.pending := by
  grind [overvoltage, State.startSequence_pending]

@[simp] theorem seatedOpen_pending (s : State) : (seatedOpen s).pending = s.pending := by
  grind [seatedOpen, State.startSequence_pending]

@[simp] theorem thermalShutdown_pending (s : State) : (thermalShutdown s).pending = s.pending := by
  grind [thermalShutdown, State.event_pending, State.startSequence_pending]

@[simp] theorem State.unqueue_pending (s : State) (keep : DieOp → Bool) : (State.unqueue s keep).pending = s.pending := rfl

@[simp] theorem flushSequenceStart_pending (s : State) : (flushSequenceStart s).pending = s.pending := by
  grind [flushSequenceStart, State.unqueue_pending, flushMore_pending]

@[simp] theorem State.loseUnwritten_pending (s : State) : (State.loseUnwritten s).pending = s.pending := rfl

@[simp] theorem State.interrupt_pending (s : State) : (State.interrupt s).pending = s.pending := by
  grind [State.interrupt, State.unqueue_pending, State.loseUnwritten_pending]

@[simp] theorem holdupEnergyExhausted_pending (s : State) : (holdupEnergyExhausted s).pending = s.pending := by
  grind [holdupEnergyExhausted, State.interrupt_pending]

@[simp] theorem bankBleedSwitch_pending (s : State) : (bankBleedSwitch s).pending = s.pending := by
  grind [bankBleedSwitch, State.interrupt_pending]

@[simp] theorem holdAssert_pending (s : State) : (holdAssert s).pending = s.pending := by
  grind [holdAssert, State.startSequence_pending]

@[simp] theorem standbyRailOff_pending (s : State) : (standbyRailOff s).pending = s.pending := by
  grind [standbyRailOff]

/-! ### Machine/Faults.lean -/

@[simp] theorem State.faultRuns_pending (s : State) (code : Nat) (uses : Timetable → Bool) : (State.faultRuns s code uses).pending = s.pending := by
  grind +splitImp [State.faultRuns, State.faultHere_pending, pending_foldl, SameQueue]

@[simp] theorem State.dropSet_pending (s : State) (p : PageSet) : (State.dropSet s p).pending = s.pending := by
  grind [State.dropSet, State.placeAgain_pending]

@[simp] theorem State.dropDie_pending (s : State) (die : Nat) : (State.dropDie s die).pending = s.pending := by
  grind +splitImp [State.dropDie, State.dropSet_pending, pending_foldl, SameQueue]

@[simp] theorem State.coachLeaves_pending (s : State) (c : Nat) : (State.coachLeaves s c).pending = s.pending := by
  grind [State.coachLeaves, State.faultRuns_pending]

@[simp] theorem State.leaveService_pending (s : State) (o : Obj) : (State.leaveService s o).pending = s.pending := by
  grind +splitImp [State.leaveService, State.topoChange_pending, State.coachLeaves_pending, State.dropDie_pending, State.faultRuns_pending,
    State.drawNat_pending, State.retire_pending, pending_foldl, SameQueue]

@[simp] theorem unitLeavesService_pending (o : Obj) (s : State) : (unitLeavesService o s).pending = s.pending := by
  grind [unitLeavesService, State.warn_pending, State.leaveService_pending]

@[simp] theorem State.teamLeaves_pending (s : State) (t : Nat) : (State.teamLeaves s t).pending = s.pending := by
  grind +splitImp [State.teamLeaves, State.topoChange_pending, State.coachLeaves_pending, pending_foldl, SameQueue]

@[simp] theorem State.limpTick_pending (s : State) : (State.limpTick s).pending = s.pending := by
  grind +splitImp [State.limpTick, State.faultRun_pending, State.wantMark_pending, pending_foldl, SameQueue]

@[simp] theorem State.enterLimp_pending (s : State) (cause : Nat) : (State.enterLimp s cause).pending = s.pending := by
  grind [State.enterLimp, State.warn_pending, State.limpTick_pending, State.event_pending]

@[simp] theorem State.fatalEvent_pending (s : State) (o : Obj) (detail : List Nat) : (State.fatalEvent s o detail).pending = s.pending := by
  grind [State.fatalEvent, State.asyncEvent_pending, State.event_pending]

@[simp] theorem State.fatalUnit_pending (s : State) (system : Bool) : (State.fatalUnit s system).pending = s.pending := by
  grind [State.fatalUnit, State.enterLimp_pending, State.warn_pending]

@[simp] theorem State.actFatal_pending (s : State) (o : Obj) : (State.actFatal s o).pending = s.pending := by
  grind [State.actFatal, State.enterLimp_pending, State.fatalEvent_pending, State.drawNat_pending, State.startSequence_pending,
    State.fatalUnit_pending, State.teamLeaves_pending, State.updNs_pending, freeSession_pending, State.abortWork_pending, State.leaveService_pending]

@[simp] theorem fatalAction_pending (s : State) : (fatalAction s).pending = s.pending := by
  grind [fatalAction, State.actFatal_pending]

@[simp] theorem errorRaise_pending (cls : ErrClass) (o : Obj) (s : State) : (errorRaise cls o s).pending = s.pending := by
  grind [errorRaise, raiseError_pending]

@[simp] theorem State.interruptSession_pending (s : State) (x : Session) : (State.interruptSession s x).pending = s.pending := by
  grind +splitImp [State.interruptSession, State.fail_pending, State.dropQuery_pending, State.endScan_pending, State.faultRun_pending,
    State.updSess_pending, pending_foldl, SameQueue]

@[simp] theorem State.restartEffect_pending (s : State) (comp : Nat) : (State.restartEffect s comp).pending = s.pending := by
  grind +splitImp [State.restartEffect, State.interruptSession_pending, State.endBind_pending, State.fail_pending, State.abandon_pending,
    State.updNs_pending, pending_foldl, SameQueue]

@[simp] theorem State.restart_pending (s : State) (comp cause : Nat) : (State.restart s comp cause).pending = s.pending := by
  grind [State.restart, State.restartEffect_pending, State.event_pending, State.enterLimp_pending]

@[simp] theorem componentRestart_pending (comp cause : Nat) (s : State) : (componentRestart comp cause s).pending = s.pending := by
  grind [componentRestart, State.restart_pending]

@[simp] theorem State.endHandling_pending (s : State) (o : Obj) : (State.endHandling s o).pending = s.pending := rfl

@[simp] theorem componentRestartComplete_pending (comp : Nat) (keepOk : Bool) (s : State) : (componentRestartComplete comp keepOk s).pending =
    s.pending := by
  grind [componentRestartComplete, State.endHandling_pending, State.enterLimp_pending]

@[simp] theorem mainWatchdogExpiry_pending (core : Nat) (s : State) : (mainWatchdogExpiry core s).pending = s.pending := by
  grind +splitImp [mainWatchdogExpiry, State.restart_pending, pending_foldl, SameQueue]

@[simp] theorem fallbackWatchdogExpiry_pending (core : Nat) (s : State) : (fallbackWatchdogExpiry core s).pending = s.pending := by
  grind [fallbackWatchdogExpiry, raiseError_pending, State.teamLeaves_pending]

@[simp] theorem mailboxMessage_pending (sender _receiver : Nat) (msg : Bytes) (s : State) : (mailboxMessage sender _receiver msg s).pending =
    s.pending := by
  grind [mailboxMessage, raiseError_pending]

@[simp] theorem State.takeErr_pending (s : State) (e : Err) : (State.takeErr s e).pending = s.pending := by
  grind [State.takeErr, State.restart_pending]

@[simp] theorem errorHandle_pending (ended : Bool) (s : State) : (errorHandle ended s).pending = s.pending := by
  grind [errorHandle, State.restart_pending, State.takeErr_pending]

@[simp] theorem unitRetest_pending (pass : Bool) (s : State) : (unitRetest pass s).pending = s.pending := by
  grind [unitRetest, State.endHandling_pending, State.warn_pending, State.leaveService_pending]

@[simp] theorem rootPllLock_pending (s : State) : (rootPllLock s).pending = s.pending := by
  grind [rootPllLock]

@[simp] theorem domainSwitch_pending (d : Domain) (toRoot : Bool) (s : State) : (domainSwitch d toRoot s).pending = s.pending := by
  grind [domainSwitch]

@[simp] theorem rootPllLoss_pending (s : State) : (rootPllLoss s).pending = s.pending := by
  grind [rootPllLoss, raiseError_pending]

@[simp] theorem State.dropClockErr_pending (s : State) : (State.dropClockErr s).pending = s.pending := rfl

@[simp] theorem State.clockFailed_pending (s : State) : (State.clockFailed s).pending = s.pending := by
  grind +splitImp [State.clockFailed, State.dropClockErr_pending, State.fatalEvent_pending, State.faultRun_pending, State.abortQuery_pending,
    State.abortScan_pending, State.warn_pending, pending_foldl, SameQueue]

@[simp] theorem pllRelockTryEnd_pending (locked : Bool) (s : State) : (pllRelockTryEnd locked s).pending = s.pending := by
  grind [pllRelockTryEnd, State.dropClockErr_pending, State.landCheck_pending, State.enterLimp_pending, State.fatalEvent_pending,
    State.clockFailed_pending]

/-! ### Machine/Boot.lean -/

@[simp] theorem State.readFuses_pending (s : State) : (State.readFuses s).pending = s.pending := rfl

@[simp] theorem State.logIgnored_pending (s : State) (t off cause : Nat) : (State.logIgnored s t off cause).pending = s.pending := by
  grind [State.logIgnored, State.event_pending]

@[simp] theorem State.logNoMapCache_pending (s : State) : (State.logNoMapCache s).pending = s.pending := by
  grind [State.logNoMapCache, State.drawBytes_pending, State.event_pending]

@[simp] theorem configRecordRead_pending (s : State) : (configRecordRead s).pending = s.pending := by
  unfold configRecordRead
  split
  · rfl
  split
  next st bad _ =>
    extract_lets get t mac blocks
    have ht : t.pending = s.pending := by
      refine (State.logNoMapCache_pending ..).trans (pending_foldl (fun u r => ?_) _ _)
      exact State.logIgnored_pending ..
    clear_value t
    exact ht

@[simp] theorem State.testFail_pending (s : State) (cls idx : Nat) (o : Obj) (fused : Bool) : (State.testFail s cls idx o fused).pending = s.pending
    := by
  grind [State.testFail, State.drawBytes_pending, State.event_pending]

@[simp] theorem State.testFails_pending (s : State) (cls n : Nat) (obj : Nat → Obj) (failed : List Nat) :
    (State.testFails s cls n obj failed).pending = s.pending := by
  grind +splitImp [State.testFails, State.testFail_pending, pending_foldl, SameQueue]

@[simp] theorem dramTraining_pending (failed : List Nat) (s : State) : (dramTraining failed s).pending = s.pending := by
  grind [dramTraining, State.testFails_pending]

@[simp] theorem dramFill_pending (s : State) : (dramFill s).pending = s.pending := by
  grind [dramFill]

@[simp] theorem flashChannelTraining_pending (failed : List Nat) (s : State) : (flashChannelTraining failed s).pending = s.pending := by
  grind [flashChannelTraining, State.testFails_pending]

@[simp] theorem dieIdentification_pending (failed : List Nat) (s : State) : (dieIdentification failed s).pending = s.pending := by
  grind [dieIdentification, State.testFails_pending]

@[simp] theorem portLaneTest_pending (failed : List Nat) (s : State) : (portLaneTest failed s).pending = s.pending := by
  grind [portLaneTest, State.testFails_pending]

@[simp] theorem coachSelfTest_pending (fc fr fl fg : List Nat) (s : State) : (coachSelfTest fc fr fl fg s).pending = s.pending := by
  grind [coachSelfTest, State.testFails_pending]

@[simp] theorem firmwareImageVerify_pending (signatureOk : Bool) (s : State) : (firmwareImageVerify signatureOk s).pending = s.pending := by
  grind [firmwareImageVerify, State.linkDown_pending]

@[simp] theorem State.chainIgnored_pending (s : State) (r : CfgRec) (cause : Nat) : (State.chainIgnored s r cause).pending = s.pending := by
  grind [State.chainIgnored, State.logIgnored_pending]

@[simp] theorem State.behindStations_pending (s : State) : (State.behindStations s).pending = s.pending := rfl

@[simp] theorem topologyCheck_pending (s : State) : (topologyCheck s).pending = s.pending := by
  grind [topologyCheck, State.behindStations_pending]

@[simp] theorem mainFirmwareStart_pending (s : State) : (mainFirmwareStart s).pending = s.pending := by
  grind [mainFirmwareStart]

@[simp] theorem mediaScan_pending (s : State) : (mediaScan s).pending = s.pending := by
  grind [mediaScan]

@[simp] theorem State.classify_pending (s : State) (sets : List FoundSet) : (State.classify s sets).pending = s.pending := rfl

@[simp] theorem State.replayPage_pending (s : State) (bad : List (Nat × Nat × Nat)) (e : Nat × CWord) : (State.replayPage s bad e).pending =
    s.pending := by
  grind [State.replayPage, State.loseUnit_pending, State.setEntry_pending]

@[simp] theorem State.freeUnrecorded_pending (s : State) : (State.freeUnrecorded s).pending = s.pending := rfl

@[simp] theorem State.replay_pending (s : State) (sets : List FoundSet) : (State.replay s sets).pending = s.pending := by
  unfold State.replay
  extract_lets t stamp bad u newest blocks
  have ht : SameQueue s t := State.classify_pending ..
  have hu : SameQueue t u := pending_foldl (fun v e => State.replayPage_pending ..) _ _
  clear_value u
  exact hu.trans ht

@[simp] theorem mapRebuild_pending (sets : List FoundSet) (s : State) : (mapRebuild sets s).pending = s.pending := by
  grind [mapRebuild, State.replay_pending, State.freeUnrecorded_pending]

@[simp] theorem State.enterHeld_pending (s : State) : (State.enterHeld s).pending = s.pending := by
  grind +splitImp [State.enterHeld, State.event_pending, pending_foldl, SameQueue]

@[simp] theorem State.moveStages_pending (s : State) (v : Nat) : (State.moveStages s v).pending = s.pending := rfl

@[simp] theorem State.retireMarks_pending (s : State) : (State.retireMarks s).pending = s.pending := by
  grind +splitImp [State.retireMarks, State.rawProgram_pending, pending_foldl, SameQueue]

@[simp] theorem State.voidMarks_pending (s : State) : (State.voidMarks s).pending = s.pending := by
  grind +splitImp [State.voidMarks, State.rawProgram_pending, pending_foldl, SameQueue]

@[simp] theorem State.freeErasing_pending (s : State) : (State.freeErasing s).pending = s.pending := rfl

@[simp] theorem mediaWork_pending (s : State) : (mediaWork s).pending = s.pending := by
  grind [mediaWork, State.queueErases_pending, State.freeErasing_pending, State.voidMarks_pending, State.retireMarks_pending, State.wantMark_pending]

@[simp] theorem drbgReseed_pending (s : State) : (drbgReseed s).pending = s.pending := by
  grind [drbgReseed]

/-! ### Machine/NsAdmin.lean -/

@[simp] theorem State.notice_pending (s : State) (nsid : Nat) : (State.notice s nsid).pending = s.pending := by
  grind [State.notice, State.asyncEvent_pending]

@[simp] theorem State.newKey_pending (s : State) : (State.newKey s).2.pending = s.pending := by
  grind [State.newKey, State.drawKey_pending]

@[simp] theorem namespaceCreate_pending (tag : Tag) (flbas nsze ncap : Nat) (header : Bytes) (s : State) :
    (namespaceCreate tag flbas nsze ncap header s).pending = s.pending := by
  grind [namespaceCreate, State.command_pending, State.fail_pending, State.newKey_pending, State.nextCycle_pending, State.succeed_pending,
    State.notice_pending, SameQueue]

@[simp] theorem namespaceDelete_pending (tag : Tag) (nsid : Nat) (s : State) : (namespaceDelete tag nsid s).pending = s.pending := by
  grind [namespaceDelete, State.command_pending, State.succeed_pending, State.fail_pending, SameQueue]

@[simp] theorem State.endPlain_pending (s : State) (ns : Nat) (st : Status) : (State.endPlain s ns st).pending = s.pending := by
  grind +splitImp [State.endPlain, State.fail_pending, pending_foldl, SameQueue]

@[simp] theorem State.dropContents_pending (s : State) (ns : Nat) : (State.dropContents s ns).pending = s.pending := by
  grind [State.dropContents, State.landCheck_pending]

@[simp] theorem State.endQueries_pending (s : State) (nsid reason : Nat) (p : Query → Bool) : (State.endQueries s nsid reason p).pending = s.pending
    := by
  grind +splitImp [State.endQueries, State.abortQuery_pending, pending_foldl, SameQueue]

@[simp] theorem State.forgetNs_pending (s : State) (nsid : Nat) : (State.forgetNs s nsid).pending = s.pending := by
  grind +splitImp [State.forgetNs, State.closePeers_pending, pending_foldl, SameQueue]

@[simp] theorem State.deleteNs_pending (s : State) (n : Ns) : (State.deleteNs s n).pending = s.pending := by
  grind [State.deleteNs, State.endQueries_pending, State.endBuilds_pending, State.forgetNs_pending, State.endPlain_pending, State.refuse_pending,
    State.fail_pending, State.releaseFull_pending, State.notice_pending, State.dropContents_pending]

@[simp] theorem namespaceDeleteEffect_pending (nsid : Nat) (s : State) : (namespaceDeleteEffect nsid s).pending = s.pending := by
  grind [namespaceDeleteEffect, State.deleteNs_pending]

@[simp] theorem namespaceDeleteComplete_pending (nsid : Nat) (s : State) : (namespaceDeleteComplete nsid s).pending = s.pending := by
  grind [namespaceDeleteComplete, State.succeed_pending]

@[simp] theorem State.fullFormat_pending (s : State) (tag : Tag) : (State.fullFormat s tag).pending = s.pending := by
  grind +splitImp [State.fullFormat, State.fail_pending, State.deleteNs_pending, pending_foldl, SameQueue]

@[simp] theorem State.formatDie_pending (s : State) (die : Nat) : (State.formatDie s die).pending = s.pending := by
  grind [State.formatDie, State.issueErase_pending]

@[simp] theorem State.formatTick_pending (s : State) : (State.formatTick s).pending = s.pending := by
  grind +splitImp [State.formatTick, State.formatDie_pending, State.warn_pending, State.landCheck_pending, State.succeed_pending,
    State.event_pending, pending_foldl, SameQueue]

@[simp] theorem formatNvm_pending (tag : Tag) (nsid lbaf ses pi pil : Nat) (s : State) : (formatNvm tag nsid lbaf ses pi pil s).pending = s.pending
    := by
  grind [formatNvm, State.command_pending, State.fail_pending, State.fullFormat_pending, State.succeed_pending, SameQueue]

@[simp] theorem formatEffect_pending (nsid : Nat) (s : State) : (formatEffect nsid s).pending = s.pending := by
  grind [formatEffect, State.endQueries_pending, State.endBuilds_pending, State.endPlain_pending, State.refuse_pending, State.dropContents_pending,
    State.newKey_pending, State.releaseFull_pending, State.notice_pending, State.updNs_pending, State.succeed_pending]

@[simp] theorem formatNvmFull_pending (tag : Tag) (s : State) : (formatNvmFull tag s).pending = s.pending := by
  grind [formatNvmFull, State.command_pending, State.fullFormat_pending, SameQueue]

@[simp] theorem State.setLock_pending (s : State) (nsid : Nat) (l : Lock) : (State.setLock s nsid l).pending = s.pending := by
  grind [State.setLock, State.updNs_pending]

@[simp] theorem State.recordLock_pending (s : State) (nsid : Nat) (l : Lock) : (State.recordLock s nsid l).pending = s.pending := by
  grind [State.recordLock, State.writeTwice_pending, State.setLock_pending, State.updNs_pending]

@[simp] theorem State.lockFailure_pending (s : State) (tag : Tag) (nsid : Nat) (l : Lock) : (State.lockFailure s tag nsid l).pending = s.pending := by
  grind [State.lockFailure, State.setLock_pending, State.event_pending, State.fail_pending]

theorem State.lockCommand_pending (s : State) (tag : Tag) (op : Nat) (b : Bytes) (f : Nat → Lock → State → State)
    (hf : ∀ x0 x1 t, SameQueue t (f x0 x1 t)) : (State.lockCommand s tag op b f).pending = s.pending := by
  grind [State.lockCommand, State.command_pending, State.fail_pending, SameQueue]

@[simp] theorem securitySetPassword_pending (tag : Tag) (b : Bytes) (s : State) : (securitySetPassword tag b s).pending = s.pending := by
  grind [securitySetPassword, State.lockCommand_pending, State.fail_pending, State.lockFailure_pending, State.succeed_pending,
    State.recordLock_pending, State.drawKey_pending, SameQueue]

@[simp] theorem securityLock_pending (tag : Tag) (b : Bytes) (s : State) : (securityLock tag b s).pending = s.pending := by
  grind [securityLock, State.lockCommand_pending, State.fail_pending, State.lockFailure_pending, State.succeed_pending, State.recordLock_pending,
    SameQueue]

@[simp] theorem securityUnlock_pending (tag : Tag) (b : Bytes) (s : State) : (securityUnlock tag b s).pending = s.pending := by
  grind [securityUnlock, State.lockCommand_pending, State.lockFailure_pending, State.succeed_pending, State.recordLock_pending, SameQueue]

@[simp] theorem securityReceiveLockState_pending (tag : Tag) (nsid alloc : Nat) (s : State) : (securityReceiveLockState tag nsid alloc s).pending =
    s.pending := by
  grind [securityReceiveLockState, State.command_pending, State.fail_pending, State.succeed_pending, SameQueue]

@[simp] theorem State.lockTick_pending (s : State) : (State.lockTick s).pending = s.pending := by
  grind [State.lockTick]

/-! ### Machine/Admin.lean -/

@[simp] theorem getFeatures_pending (tag : Tag) (fid sel : Nat) (s : State) : (getFeatures tag fid sel s).pending = s.pending := by
  grind [getFeatures, State.command_pending, State.fail_pending, State.succeed_pending, State.drawNat_pending, SameQueue]

theorem State.setCommand_pending (s : State) (tag : Tag) (sv : Bool) (f : Ctrl → State → State) (hf : ∀ x0 t, SameQueue t (f x0 t)) :
    (State.setCommand s tag sv f).pending = s.pending := by
  grind [State.setCommand, State.command_pending, State.fail_pending, SameQueue]

@[simp] theorem setYokeFeature_pending (tag : Tag) (v : Nat) (s : State) : (setYokeFeature tag v s).pending = s.pending := by
  grind [setYokeFeature, State.fail_pending, State.setYoke_pending, State.succeed_pending]

@[simp] theorem setSliceFeature_pending (tag : Tag) (v : Nat) (s : State) : (setSliceFeature tag v s).pending = s.pending := by
  grind [setSliceFeature, State.fail_pending, State.succeed_pending]

@[simp] theorem setPolicyFeature_pending (tag : Tag) (v : Nat) (s : State) : (setPolicyFeature tag v s).pending = s.pending := by
  grind [setPolicyFeature, State.fail_pending, State.succeed_pending]

@[simp] theorem setWindowFeature_pending (tag : Tag) (v : Nat) (s : State) : (setWindowFeature tag v s).pending = s.pending := by
  grind [setWindowFeature, State.fail_pending, State.succeed_pending]

@[simp] theorem setTempFeature_pending (tag : Tag) (v : Nat) (s : State) : (setTempFeature tag v s).pending = s.pending := by
  grind [setTempFeature, State.fail_pending, State.succeed_pending, State.warn_pending]

@[simp] theorem setQueuesFeature_pending (tag : Tag) (c : Ctrl) (v : Nat) (s : State) : (setQueuesFeature tag c v s).pending = s.pending := by
  grind [setQueuesFeature, State.succeed_pending, State.updCtrl_pending]

@[simp] theorem setFeature_pending (tag : Tag) (fid v : Nat) (c : Ctrl) (s : State) : (setFeature tag fid v c s).pending = s.pending := by
  grind +splitImp [setFeature, setTempFeature_pending, State.succeed_pending, State.fail_pending, setQueuesFeature_pending, State.updCtrl_pending,
    setYokeFeature_pending, setSliceFeature_pending, setPolicyFeature_pending, setWindowFeature_pending]

@[simp] theorem setFeatures_pending (tag : Tag) (fid : Nat) (sv : Bool) (v : Nat) (s : State) : (setFeatures tag fid sv v s).pending = s.pending := by
  grind [setFeatures, State.setCommand_pending, setFeature_pending, SameQueue]

@[simp] theorem setFeaturesYoke_pending (tag : Tag) (sv : Bool) (v : BitVec 32) (s : State) : (setFeaturesYoke tag sv v s).pending = s.pending := by
  grind [setFeaturesYoke, State.setCommand_pending, setYokeFeature_pending, SameQueue]

@[simp] theorem setFeaturesTimeSlice_pending (tag : Tag) (sv : Bool) (v : BitVec 32) (s : State) : (setFeaturesTimeSlice tag sv v s).pending =
    s.pending := by
  grind [setFeaturesTimeSlice, State.setCommand_pending, setSliceFeature_pending, SameQueue]

@[simp] theorem setFeaturesDirtyCap_pending (tag : Tag) (sv : Bool) (x_ : BitVec 32) (s : State) : (setFeaturesDirtyCap tag sv x_ s).pending =
    s.pending := by
  grind [setFeaturesDirtyCap, State.setCommand_pending, State.fail_pending, SameQueue]

@[simp] theorem setFeaturesDeadlinePolicy_pending (tag : Tag) (sv : Bool) (v : BitVec 32) (s : State) :
    (setFeaturesDeadlinePolicy tag sv v s).pending = s.pending := by
  grind [setFeaturesDeadlinePolicy, State.setCommand_pending, setPolicyFeature_pending, SameQueue]

@[simp] theorem setFeaturesReclaimWindow_pending (tag : Tag) (sv : Bool) (v : BitVec 32) (s : State) : (setFeaturesReclaimWindow tag sv v s).pending
    = s.pending := by
  grind [setFeaturesReclaimWindow, State.setCommand_pending, setWindowFeature_pending, SameQueue]

@[simp] theorem asyncEventRequest_pending (tag : Tag) (s : State) : (asyncEventRequest tag s).pending = s.pending := by
  grind [asyncEventRequest, State.command_pending, State.succeed_pending, State.updCtrl_pending, State.fail_pending, SameQueue]

theorem State.abortTag_pending (s : State) (t : Tag) {v : State} (h : State.abortTag s t = some v) : v.pending = s.pending := by
  unfold State.abortTag at h
  split at h
  · exact Option.some.inj h ▸ State.fail_pending ..
  simp only [Option.orElse_eq_orElse, Option.orElse_eq_or, Option.or_eq_some_iff] at h
  obtain h | ⟨-, h | ⟨-, h⟩⟩ := h <;> obtain ⟨x, -, h⟩ := List.exists_of_findSome?_eq_some h
  · split at h
    · exact Option.some.inj h ▸ (State.fail_pending ..).trans (State.updSess_pending ..)
    · split at h
      · split at h
        · obtain ⟨b, -, h⟩ := Option.map_eq_some_iff.1 h
          exact h ▸ State.endBind_pending ..
        · cases h
      · cases h
  · obtain ⟨q, -, h⟩ := Option.map_eq_some_iff.1 h
    exact h ▸ (State.dropQuery_pending ..).trans (State.fail_pending ..)
  · obtain ⟨c, -, h⟩ := Option.map_eq_some_iff.1 h
    exact h ▸ State.endScan_pending ..

@[simp] theorem abort_pending (tag : Tag) (cid : Nat) (s : State) : (abort tag cid s).pending = s.pending := by
  grind [abort, State.command_pending, State.abortTag_pending, State.succeed_pending, SameQueue]

@[simp] theorem invalidOpcode_pending (tag : Tag) (admin : Bool) (_opcode : Nat) (s : State) : (invalidOpcode tag admin _opcode s).pending =
    s.pending := by
  grind [invalidOpcode, State.command_pending, State.fail_pending, SameQueue]

@[simp] theorem identify_pending (tag : Tag) (cns nsid : Nat) (s : State) : (identify tag cns nsid s).pending = s.pending := by
  grind [identify, State.command_pending, State.drawBytes_pending, State.succeed_pending, State.fail_pending, State.nextCycle_pending, SameQueue]

@[simp] theorem securityReceiveSessionKey_pending (tag : Tag) (sess alloc : Nat) (s : State) : (securityReceiveSessionKey tag sess alloc s).pending =
    s.pending := by
  grind [securityReceiveSessionKey, State.command_pending, State.fail_pending, State.succeed_pending, SameQueue]

@[simp] theorem State.setSpdm_pending (s : State) (c n : Nat) : (State.setSpdm s c n).pending = s.pending := rfl

@[simp] theorem State.spdmReply_pending (s : State) (tag : Tag) (r : Bytes) : (State.spdmReply s tag r).pending = s.pending := by
  grind [State.spdmReply, State.succeed_pending, State.send_pending]

theorem State.spdmCommand_pending (s : State) (tag : Tag) (need : Nat) (f : Ctrl → State → State) (hf : ∀ x0 t, SameQueue t (f x0 t)) :
    (State.spdmCommand s tag need f).pending = s.pending := by
  grind [State.spdmCommand, State.command_pending, State.spdmReply_pending, SameQueue]

@[simp] theorem spdmGetVersion_pending (tag : Tag) (s : State) : (spdmGetVersion tag s).pending = s.pending := by
  grind [spdmGetVersion, State.spdmCommand_pending, State.spdmReply_pending, State.setSpdm_pending, SameQueue]

@[simp] theorem spdmGetCapabilities_pending (tag : Tag) (s : State) : (spdmGetCapabilities tag s).pending = s.pending := by
  grind [spdmGetCapabilities, State.spdmCommand_pending, State.spdmReply_pending, State.setSpdm_pending, SameQueue]

@[simp] theorem spdmNegotiateAlgorithms_pending (tag : Tag) (s : State) : (spdmNegotiateAlgorithms tag s).pending = s.pending := by
  grind [spdmNegotiateAlgorithms, State.spdmCommand_pending, State.drawBytes_pending, State.spdmReply_pending, State.setSpdm_pending, SameQueue]

@[simp] theorem spdmGetDigests_pending (tag : Tag) (s : State) : (spdmGetDigests tag s).pending = s.pending := by
  grind [spdmGetDigests, State.spdmCommand_pending, State.spdmReply_pending, SameQueue]

@[simp] theorem spdmGetCertificate_pending (tag : Tag) (slot offset len : Nat) (s : State) : (spdmGetCertificate tag slot offset len s).pending =
    s.pending := by
  grind [spdmGetCertificate, State.spdmCommand_pending, State.spdmReply_pending, SameQueue]

@[simp] theorem spdmChallenge_pending (tag : Tag) (slot : Nat) (nonce : Bytes) (s : State) : (spdmChallenge tag slot nonce s).pending = s.pending :=
    by
  grind [spdmChallenge, State.spdmCommand_pending, State.spdmReply_pending, State.drawKey_pending, SameQueue]

@[simp] theorem spdmGetMeasurements_pending (tag : Tag) (index : Nat) (nonce : Bytes) (s : State) : (spdmGetMeasurements tag index nonce s).pending =
    s.pending := by
  grind [spdmGetMeasurements, State.spdmCommand_pending, State.spdmReply_pending, State.drawKey_pending, SameQueue]

/-! ### Machine/Logs.lean -/

@[simp] theorem State.pageRead_pending (s : State) (c : Ctrl) (lid : Nat) (rae : Bool) : (State.pageRead s c lid rae).pending = s.pending := by
  grind [State.pageRead, State.updCtrl_pending]

@[simp] theorem State.givePage_pending (s : State) (c : Ctrl) (tag : Tag) (lid offset len : Nat) (rae stamped : Bool) (page : Bytes) :
    (State.givePage s c tag lid offset len rae stamped page).pending = s.pending := by
  grind [State.givePage, State.succeed_pending, State.pageRead_pending, State.nextCycle_pending]

theorem State.logCommand_pending (s : State) (tag : Tag) (lid : Nat) (f : Ctrl → State → State) (hf : ∀ x0 t, SameQueue t (f x0 t)) :
    (State.logCommand s tag lid f).pending = s.pending := by
  grind [State.logCommand, State.command_pending, SameQueue]

@[simp] theorem getLogPageEventLog_pending (tag : Tag) (offset len : Nat) (rae : Bool) (s : State) :
    (getLogPageEventLog tag offset len rae s).pending = s.pending := by
  grind [getLogPageEventLog, State.logCommand_pending, State.givePage_pending, SameQueue]

@[simp] theorem getLogPageHealth_pending (tag : Tag) (offset len : Nat) (rae : Bool) (s : State) : (getLogPageHealth tag offset len rae s).pending =
    s.pending := by
  grind [getLogPageHealth, State.logCommand_pending, State.givePage_pending, SameQueue]

@[simp] theorem getLogPageFuses_pending (tag : Tag) (offset len : Nat) (rae : Bool) (s : State) : (getLogPageFuses tag offset len rae s).pending =
    s.pending := by
  grind [getLogPageFuses, State.logCommand_pending, State.givePage_pending, SameQueue]

@[simp] theorem getLogPageTopology_pending (tag : Tag) (offset len : Nat) (rae : Bool) (s : State) :
    (getLogPageTopology tag offset len rae s).pending = s.pending := by
  grind [getLogPageTopology, State.logCommand_pending, State.givePage_pending, SameQueue]

@[simp] theorem getLogPageTimetable_pending (tag : Tag) (lsp lsi offset len : Nat) (rae : Bool) (s : State) :
    (getLogPageTimetable tag lsp lsi offset len rae s).pending = s.pending := by
  grind [getLogPageTimetable, State.logCommand_pending, State.fail_pending, State.givePage_pending, SameQueue]

@[simp] theorem getLogPage_pending (tag : Tag) (lid nsid offset len : Nat) (rae : Bool) (s : State) :
    (getLogPage tag lid nsid offset len rae s).pending = s.pending := by
  grind +splitImp [getLogPage, getLogPageEventLog_pending, getLogPageHealth_pending, getLogPageFuses_pending, getLogPageTopology_pending,
    getLogPageTimetable_pending, State.logCommand_pending, State.drawBytes_pending, State.givePage_pending, State.fail_pending, SameQueue]

/-! ### Machine/Boundary.lean -/

@[simp] theorem State.markTick_pending (s : State) : (State.markTick s).pending = s.pending := by
  grind [State.markTick, State.wantMark_pending]

@[simp] theorem State.powerTick_pending (smp : Samples) (s : State) : (State.powerTick smp s).pending = s.pending := rfl

@[simp] theorem writePgmode_pending (hub v : Nat) (s : State) : (writePgmode hub v s).pending = s.pending := by
  grind [writePgmode, flaPgmodeService_pending, flaPgmodeRecovery_pending, flaPgmodeTest_pending]

@[simp] theorem registerWrite_pending (r : Reg) (unit : Nat) (v : BitVec 32) (s : State) : (registerWrite r unit v s).pending = s.pending := by
  grind +splitImp [registerWrite, writePgmode_pending, writeDrmTest_pending]

/-! ### Power, the stamp start and the boundary -/

@[simp] theorem State.raiseVersion_pending (s : State) : s.raiseVersion.pending = s.pending := by
  grind [State.raiseVersion, State.blow_pending, State.readFuses_pending, State.event_pending]

@[simp] theorem State.powerDown_pending (s : State) : s.powerDown.pending = s.pending := rfl

@[simp] theorem State.softStart_pending (s : State) : s.softStart.pending = s.pending := rfl

@[simp] theorem powerOff_pending (s : State) : (powerOff s).pending = s.pending := by
  grind [powerOff, State.powerDown_pending]

@[simp] theorem bringUpStart_pending (s : State) : (bringUpStart s).pending = s.pending := by
  grind [bringUpStart, State.softStart_pending]

@[simp] theorem holdRelease_pending (s : State) : (holdRelease s).pending = s.pending := by
  grind [holdRelease, State.softStart_pending]

@[simp] theorem fuseRead_pending (fuses : List Nat) (s : State) : (fuseRead fuses s).pending = s.pending := by
  grind [fuseRead, State.readFuses_pending]

@[simp] theorem ownerChainCheck_pending (authOk : Bool) (s : State) : (ownerChainCheck authOk s).pending = s.pending := by
  grind [ownerChainCheck, State.chainIgnored_pending, State.blow_pending, State.readFuses_pending, State.event_pending, State.setYoke_pending]

@[simp] theorem ready_pending (s : State) : (ready s).pending = s.pending := by
  grind +splitImp [ready, State.endTest_pending, pending_foldl, SameQueue, State.raiseVersion_pending, State.warn_pending]

@[simp] theorem configBusTransfer_pending (write : Bool) (addr len : Nat) (data : Bytes) (s : State) :
    (configBusTransfer write addr len data s).pending = s.pending := by
  grind [configBusTransfer]

@[simp] theorem stampStart_pending (s : State) : (stampStart s).pending = s.pending := by
  grind [stampStart, State.moveStages_pending, State.event_pending, State.enterHeld_pending, State.warn_pending]

@[simp] theorem State.jumpBy_pending (s : State) (n : Nat) : (s.jumpBy n).pending = s.pending := by
  grind [State.jumpBy, State.moveStages_pending]

@[simp] theorem State.quiesceTick_pending (s : State) : s.quiesceTick.pending = s.pending := by
  grind [State.quiesceTick, State.postBatch_pending, State.endFaulted_pending]

@[simp] theorem State.clockTick_pending (smp : Samples) (s : State) : (s.clockTick smp).pending = s.pending := by
  grind [State.clockTick, State.postBatch_pending, State.yokeTick_pending, trimUpdate_pending, State.powerTick_pending, State.capTick_pending,
    State.freeDies_pending]

@[simp] theorem State.boundaryTick_pending (smp : Samples) (s : State) : (s.boundaryTick smp).pending = s.pending := by
  grind [State.boundaryTick, State.clockTick_pending, State.drainSeats_pending, State.recovTick_pending, State.plainTick_pending]

@[simp] theorem stageBoundary_pending (smp : Samples) (s : State) : (stageBoundary smp s).pending = s.pending := by
  grind [stageBoundary, State.boundaryTick_pending, flushMore_pending, State.quiesceTick_pending, State.warn_pending, State.nextCycle_pending,
    State.restTick_pending, State.partitionsTick_pending, State.mergeTick_pending, State.scanTick_pending, State.formatTick_pending,
    State.verifyTick_pending, State.patrolTick_pending, State.lockTick_pending, State.limpTick_pending, State.emitDeadline_pending,
    State.endFaulted_pending, State.startWindows_pending, State.markTick_pending, State.release_pending, placeStage_pending, State.checkFull_pending]

@[simp] theorem yokeForwardJump_pending (smp : Samples) (s : State) : (yokeForwardJump smp s).pending = s.pending := by
  grind [yokeForwardJump, stageBoundary_pending, State.jumpBy_pending, State.changeYoke_pending]

/-! ### Every command -/

/-- Each arm of the dispatch answers the state of one operation, and that operation leaves the queue alone. -/
theorem exec_keeps_pending (s : State) : ∀ c : Instr, ∃ t, exec c s = .next t ∧ t.pending = s.pending
  | .stageBoundary .. => ⟨_, rfl, stageBoundary_pending ..⟩
  | .dieSenseComplete .. => ⟨_, rfl, dieSenseComplete_pending ..⟩
  | .dieProgramComplete .. => ⟨_, rfl, dieProgramComplete_pending ..⟩
  | .dieEraseComplete .. => ⟨_, rfl, dieEraseComplete_pending ..⟩
  | .dirtyRecoveryStep .. => ⟨_, rfl, dirtyRecoveryStep_pending ..⟩
  | .syncMessage .. => ⟨_, rfl, syncMessage_pending ..⟩
  | .followUpMessage .. => ⟨_, rfl, followUpMessage_pending ..⟩
  | .announceMessage .. => ⟨_, rfl, announceMessage_pending ..⟩
  | .delayRespMessage .. => ⟨_, rfl, delayRespMessage_pending ..⟩
  | .delayReqSend => ⟨_, rfl, delayReqSend_pending ..⟩
  | .yokeHoldoverTimeout => ⟨_, rfl, yokeHoldoverTimeout_pending ..⟩
  | .yokeSyncLossTimeout => ⟨_, rfl, yokeSyncLossTimeout_pending ..⟩
  | .servoLockTimeout => ⟨_, rfl, servoLockTimeout_pending ..⟩
  | .yokeForwardJump .. => ⟨_, rfl, yokeForwardJump_pending ..⟩
  | .ptpFirstWaitExpiry => ⟨_, rfl, ptpFirstWaitExpiry_pending ..⟩
  | .stampStart => ⟨_, rfl, stampStart_pending ..⟩
  | .rootPllLock => ⟨_, rfl, rootPllLock_pending ..⟩
  | .domainSwitch .. => ⟨_, rfl, domainSwitch_pending ..⟩
  | .rootPllLoss => ⟨_, rfl, rootPllLoss_pending ..⟩
  | .pllRelockTryEnd .. => ⟨_, rfl, pllRelockTryEnd_pending ..⟩
  | .matrixInstruction .. => ⟨_, rfl, matrixInstruction_pending ..⟩
  | .stationarySwap .. => ⟨_, rfl, stationarySwap_pending ..⟩
  | .transposedLoad .. => ⟨_, rfl, transposedLoad_pending ..⟩
  | .vectorInstruction .. => ⟨_, rfl, vectorInstruction_pending ..⟩
  | .crossLaneSum .. => ⟨_, rfl, crossLaneSum_pending ..⟩
  | .sequencerIssue .. => ⟨_, rfl, sequencerIssue_pending ..⟩
  | .contextWake .. => ⟨_, rfl, contextWake_pending ..⟩
  | .contextFree .. => ⟨_, rfl, contextFree_pending ..⟩
  | .contextRestart .. => ⟨_, rfl, contextRestart_pending ..⟩
  | .carriageSend .. => ⟨_, rfl, carriageSend_pending ..⟩
  | .carriageWrite .. => ⟨_, rfl, carriageWrite_pending ..⟩
  | .carriageRead .. => ⟨_, rfl, carriageRead_pending ..⟩
  | .carriageReply .. => ⟨_, rfl, carriageReply_pending ..⟩
  | .carriageWriteAck .. => ⟨_, rfl, carriageWriteAck_pending ..⟩
  | .carriageSeat .. => ⟨_, rfl, carriageSeat_pending ..⟩
  | .carriageFill .. => ⟨_, rfl, carriageFill_pending ..⟩
  | .carriageAnswer .. => ⟨_, rfl, carriageAnswer_pending ..⟩
  | .carriageControl .. => ⟨_, rfl, carriageControl_pending ..⟩
  | .carriageSave .. => ⟨_, rfl, carriageSave_pending ..⟩
  | .carriageError .. => ⟨_, rfl, carriageError_pending ..⟩
  | .dramScrub .. => ⟨_, rfl, dramScrub_pending ..⟩
  | .fabDropFold .. => ⟨_, rfl, fabDropFold_pending ..⟩
  | .drmEccFold .. => ⟨_, rfl, drmEccFold_pending ..⟩
  | .roleWrite .. => ⟨_, rfl, roleWrite_pending ..⟩
  | .flaPgmodeService .. => ⟨_, rfl, flaPgmodeService_pending ..⟩
  | .flaPgmodeRecovery .. => ⟨_, rfl, flaPgmodeRecovery_pending ..⟩
  | .flaPgmodeTest .. => ⟨_, rfl, flaPgmodeTest_pending ..⟩
  | .recoveryRawProgram .. => ⟨_, rfl, recoveryRawProgram_pending ..⟩
  | .drmTestWritePath .. => ⟨_, rfl, drmTestWritePath_pending ..⟩
  | .drmTestRawRead .. => ⟨_, rfl, drmTestRawRead_pending ..⟩
  | .registerWrite .. => ⟨_, rfl, registerWrite_pending ..⟩
  | .routeLoad .. => ⟨_, rfl, routeLoad_pending ..⟩
  | .routeLoadExtent .. => ⟨_, rfl, routeLoadExtent_pending ..⟩
  | .run .. => ⟨_, rfl, run_pending ..⟩
  | .bind .. => ⟨_, rfl, bind_pending ..⟩
  | .bindComplete .. => ⟨_, rfl, bindComplete_pending ..⟩
  | .bindWaitExpiry .. => ⟨_, rfl, bindWaitExpiry_pending ..⟩
  | .passStart .. => ⟨_, rfl, passStart_pending ..⟩
  | .runComplete .. => ⟨_, rfl, runComplete_pending ..⟩
  | .opMatmul .. => ⟨_, rfl, runOp_pending ..⟩
  | .opBmatmul .. => ⟨_, rfl, runOp_pending ..⟩
  | .opAdd .. => ⟨_, rfl, runOp_pending ..⟩
  | .opSub .. => ⟨_, rfl, runOp_pending ..⟩
  | .opMul .. => ⟨_, rfl, runOp_pending ..⟩
  | .opDiv .. => ⟨_, rfl, runOp_pending ..⟩
  | .opFma .. => ⟨_, rfl, runOp_pending ..⟩
  | .opMax .. => ⟨_, rfl, runOp_pending ..⟩
  | .opMin .. => ⟨_, rfl, runOp_pending ..⟩
  | .opCmp .. => ⟨_, rfl, runOp_pending ..⟩
  | .opSelect .. => ⟨_, rfl, runOp_pending ..⟩
  | .opUnary .. => ⟨_, rfl, runOp_pending ..⟩
  | .opGated .. => ⟨_, rfl, runOp_pending ..⟩
  | .opReduce .. => ⟨_, rfl, runOp_pending ..⟩
  | .opSoftmax .. => ⟨_, rfl, runOp_pending ..⟩
  | .opLayernorm .. => ⟨_, rfl, runOp_pending ..⟩
  | .opRmsnorm .. => ⟨_, rfl, runOp_pending ..⟩
  | .opAttention .. => ⟨_, rfl, runOp_pending ..⟩
  | .opRope .. => ⟨_, rfl, runOp_pending ..⟩
  | .opRotate .. => ⟨_, rfl, runOp_pending ..⟩
  | .opQuant .. => ⟨_, rfl, runOp_pending ..⟩
  | .opDequant .. => ⟨_, rfl, runOp_pending ..⟩
  | .opConvert .. => ⟨_, rfl, runOp_pending ..⟩
  | .opDist .. => ⟨_, rfl, runOp_pending ..⟩
  | .opCodeDist .. => ⟨_, rfl, runOp_pending ..⟩
  | .opTopk .. => ⟨_, rfl, runOp_pending ..⟩
  | .opGather .. => ⟨_, rfl, runOp_pending ..⟩
  | .opPut .. => ⟨_, rfl, runOp_pending ..⟩
  | .opFilter .. => ⟨_, rfl, runOp_pending ..⟩
  | .opScanRead .. => ⟨_, rfl, runOp_pending ..⟩
  | .opNsRead .. => ⟨_, rfl, runOp_pending ..⟩
  | .opNsWrite .. => ⟨_, rfl, opNsWrite_pending ..⟩
  | .opEmit .. => ⟨_, rfl, opEmit_pending ..⟩
  | .opAccum .. => ⟨_, rfl, runOp_pending ..⟩
  | .stagedWriteEnterBuffer .. => ⟨_, rfl, stagedWriteEnterBuffer_pending ..⟩
  | .timetableResume .. => ⟨_, rfl, timetableResume_pending ..⟩
  | .emitResume .. => ⟨_, rfl, emitResume_pending ..⟩
  | .waitLapse .. => ⟨_, rfl, waitLapse_pending ..⟩
  | .openReadLapse .. => ⟨_, rfl, openReadLapse_pending ..⟩
  | .scanReread .. => ⟨_, rfl, scanReread_pending ..⟩
  | .unitLeavesService .. => ⟨_, rfl, unitLeavesService_pending ..⟩
  | .sessionOpen .. => ⟨_, rfl, sessionOpen_pending ..⟩
  | .sessionOpenReclaim .. => ⟨_, rfl, sessionOpenReclaim_pending ..⟩
  | .granuleZeroingComplete .. => ⟨_, rfl, granuleZeroingComplete_pending ..⟩
  | .sessionCloseDrain .. => ⟨_, rfl, sessionCloseDrain_pending ..⟩
  | .sessionCloseAbort .. => ⟨_, rfl, sessionCloseAbort_pending ..⟩
  | .sessionFree .. => ⟨_, rfl, sessionFree_pending ..⟩
  | .quotaSet .. => ⟨_, rfl, quotaSet_pending ..⟩
  | .quotaSetTeamsReplace .. => ⟨_, rfl, quotaSetTeamsReplace_pending ..⟩
  | .sliceEnd .. => ⟨_, rfl, sliceEnd_pending ..⟩
  | .switchDeferLimit .. => ⟨_, rfl, switchDeferLimit_pending ..⟩
  | .partitionSwitch .. => ⟨_, rfl, partitionSwitch_pending ..⟩
  | .switchRestoreComplete .. => ⟨_, rfl, switchRestoreComplete_pending ..⟩
  | .reclaimWindowExpiry .. => ⟨_, rfl, reclaimWindowExpiry_pending ..⟩
  | .query .. => ⟨_, rfl, query_pending ..⟩
  | .queryAdmit .. => ⟨_, rfl, queryAdmit_pending ..⟩
  | .peerAnswerFetch .. => ⟨_, rfl, peerAnswerFetch_pending ..⟩
  | .peerWaitExpiry .. => ⟨_, rfl, peerWaitExpiry_pending ..⟩
  | .answerRecordComplete .. => ⟨_, rfl, answerRecordComplete_pending ..⟩
  | .indexBuild .. => ⟨_, rfl, indexBuild_pending ..⟩
  | .buildEnd .. => ⟨_, rfl, buildEnd_pending ..⟩
  | .indexSwitch .. => ⟨_, rfl, indexSwitch_pending ..⟩
  | .generationSwitch .. => ⟨_, rfl, generationSwitch_pending ..⟩
  | .generationFree .. => ⟨_, rfl, generationFree_pending ..⟩
  | .codeLayerReload .. => ⟨_, rfl, codeLayerReload_pending ..⟩
  | .peerSet .. => ⟨_, rfl, peerSet_pending ..⟩
  | .scan .. => ⟨_, rfl, scan_pending ..⟩
  | .scanComplete .. => ⟨_, rfl, scanComplete_pending ..⟩
  | .fetch .. => ⟨_, rfl, fetch_pending ..⟩
  | .write .. => ⟨_, rfl, write_pending ..⟩
  | .writeLocate .. => ⟨_, rfl, writeLocate_pending ..⟩
  | .writeCapRelease => ⟨_, rfl, writeCapRelease_pending ..⟩
  | .read .. => ⟨_, rfl, read_pending ..⟩
  | .readLocator .. => ⟨_, rfl, readLocator_pending ..⟩
  | .flush .. => ⟨_, rfl, flush_pending ..⟩
  | .writeZeroes .. => ⟨_, rfl, writeZeroes_pending ..⟩
  | .datasetManagement .. => ⟨_, rfl, datasetManagement_pending ..⟩
  | .leafLoadComplete .. => ⟨_, rfl, leafLoadComplete_pending ..⟩
  | .gcCopy .. => ⟨_, rfl, gcCopy_pending ..⟩
  | .gcVerify .. => ⟨_, rfl, gcVerify_pending ..⟩
  | .superblockErase .. => ⟨_, rfl, superblockErase_pending ..⟩
  | .superblockCloseVerify .. => ⟨_, rfl, superblockCloseVerify_pending ..⟩
  | .patrolVerify .. => ⟨_, rfl, patrolVerify_pending ..⟩
  | .journalMark .. => ⟨_, rfl, journalMark_pending ..⟩
  | .mapRebuild .. => ⟨_, rfl, mapRebuild_pending ..⟩
  | .linkTrain .. => ⟨_, rfl, linkTrain_pending ..⟩
  | .linkWidthTimeout => ⟨_, rfl, linkWidthTimeout_pending ..⟩
  | .linkLoss => ⟨_, rfl, linkLoss_pending ..⟩
  | .pluggableInsert .. => ⟨_, rfl, pluggableInsert_pending ..⟩
  | .pluggableRemove => ⟨_, rfl, pluggableRemove_pending ..⟩
  | .arpRequest .. => ⟨_, rfl, arpRequest_pending ..⟩
  | .neighbourDiscovery .. => ⟨_, rfl, neighbourDiscovery_pending ..⟩
  | .icmpEcho .. => ⟨_, rfl, icmpEcho_pending ..⟩
  | .frameDrop .. => ⟨_, rfl, frameDrop_pending ..⟩
  | .icreq .. => ⟨_, rfl, icreq_pending ..⟩
  | .tcpPduReceive .. => ⟨_, rfl, tcpPduReceive_pending ..⟩
  | .rdmaConnectRequest .. => ⟨_, rfl, rdmaConnectRequest_pending ..⟩
  | .cnpReceived .. => ⟨_, rfl, cnpReceived_pending ..⟩
  | .connect .. => ⟨_, rfl, connect_pending ..⟩
  | .propertyGet .. => ⟨_, rfl, propertyGet_pending ..⟩
  | .ccEnableClear .. => ⟨_, rfl, ccEnableClear_pending ..⟩
  | .ccShutdownNotification .. => ⟨_, rfl, ccShutdownNotification_pending ..⟩
  | .disconnect .. => ⟨_, rfl, disconnect_pending ..⟩
  | .controllerEnd .. => ⟨_, rfl, controllerEnd_pending ..⟩
  | .keepAlive .. => ⟨_, rfl, keepAlive_pending ..⟩
  | .keepAliveExpiry .. => ⟨_, rfl, keepAliveExpiry_pending ..⟩
  | .peerKeepAliveSend => ⟨_, rfl, peerKeepAliveSend_pending ..⟩
  | .identify .. => ⟨_, rfl, identify_pending ..⟩
  | .getLogPage .. => ⟨_, rfl, getLogPage_pending ..⟩
  | .getLogPageEventLog .. => ⟨_, rfl, getLogPageEventLog_pending ..⟩
  | .getLogPageHealth .. => ⟨_, rfl, getLogPageHealth_pending ..⟩
  | .getLogPageFuses .. => ⟨_, rfl, getLogPageFuses_pending ..⟩
  | .getLogPageTopology .. => ⟨_, rfl, getLogPageTopology_pending ..⟩
  | .getLogPageTimetable .. => ⟨_, rfl, getLogPageTimetable_pending ..⟩
  | .getFeatures .. => ⟨_, rfl, getFeatures_pending ..⟩
  | .setFeatures .. => ⟨_, rfl, setFeatures_pending ..⟩
  | .setFeaturesYoke .. => ⟨_, rfl, setFeaturesYoke_pending ..⟩
  | .setFeaturesTimeSlice .. => ⟨_, rfl, setFeaturesTimeSlice_pending ..⟩
  | .setFeaturesDirtyCap .. => ⟨_, rfl, setFeaturesDirtyCap_pending ..⟩
  | .setFeaturesDeadlinePolicy .. => ⟨_, rfl, setFeaturesDeadlinePolicy_pending ..⟩
  | .setFeaturesReclaimWindow .. => ⟨_, rfl, setFeaturesReclaimWindow_pending ..⟩
  | .asyncEventRequest .. => ⟨_, rfl, asyncEventRequest_pending ..⟩
  | .abort .. => ⟨_, rfl, abort_pending ..⟩
  | .invalidOpcode .. => ⟨_, rfl, invalidOpcode_pending ..⟩
  | .namespaceCreate .. => ⟨_, rfl, namespaceCreate_pending ..⟩
  | .namespaceDelete .. => ⟨_, rfl, namespaceDelete_pending ..⟩
  | .namespaceDeleteEffect .. => ⟨_, rfl, namespaceDeleteEffect_pending ..⟩
  | .namespaceDeleteComplete .. => ⟨_, rfl, namespaceDeleteComplete_pending ..⟩
  | .formatNvm .. => ⟨_, rfl, formatNvm_pending ..⟩
  | .formatEffect .. => ⟨_, rfl, formatEffect_pending ..⟩
  | .formatNvmFull .. => ⟨_, rfl, formatNvmFull_pending ..⟩
  | .securitySetPassword .. => ⟨_, rfl, securitySetPassword_pending ..⟩
  | .securityLock .. => ⟨_, rfl, securityLock_pending ..⟩
  | .securityUnlock .. => ⟨_, rfl, securityUnlock_pending ..⟩
  | .securityReceiveLockState .. => ⟨_, rfl, securityReceiveLockState_pending ..⟩
  | .securityReceiveSessionKey .. => ⟨_, rfl, securityReceiveSessionKey_pending ..⟩
  | .spdmGetVersion .. => ⟨_, rfl, spdmGetVersion_pending ..⟩
  | .spdmGetCapabilities .. => ⟨_, rfl, spdmGetCapabilities_pending ..⟩
  | .spdmNegotiateAlgorithms .. => ⟨_, rfl, spdmNegotiateAlgorithms_pending ..⟩
  | .spdmGetDigests .. => ⟨_, rfl, spdmGetDigests_pending ..⟩
  | .spdmGetCertificate .. => ⟨_, rfl, spdmGetCertificate_pending ..⟩
  | .spdmChallenge .. => ⟨_, rfl, spdmChallenge_pending ..⟩
  | .spdmGetMeasurements .. => ⟨_, rfl, spdmGetMeasurements_pending ..⟩
  | .bringUpStart => ⟨_, rfl, bringUpStart_pending ..⟩
  | .fuseRead .. => ⟨_, rfl, fuseRead_pending ..⟩
  | .configRecordRead => ⟨_, rfl, configRecordRead_pending ..⟩
  | .dramTraining .. => ⟨_, rfl, dramTraining_pending ..⟩
  | .dramFill => ⟨_, rfl, dramFill_pending ..⟩
  | .firmwareImageVerify .. => ⟨_, rfl, firmwareImageVerify_pending ..⟩
  | .ownerChainCheck .. => ⟨_, rfl, ownerChainCheck_pending ..⟩
  | .flashChannelTraining .. => ⟨_, rfl, flashChannelTraining_pending ..⟩
  | .dieIdentification .. => ⟨_, rfl, dieIdentification_pending ..⟩
  | .portLaneTest .. => ⟨_, rfl, portLaneTest_pending ..⟩
  | .coachSelfTest .. => ⟨_, rfl, coachSelfTest_pending ..⟩
  | .topologyCheck => ⟨_, rfl, topologyCheck_pending ..⟩
  | .mainFirmwareStart => ⟨_, rfl, mainFirmwareStart_pending ..⟩
  | .mediaScan => ⟨_, rfl, mediaScan_pending ..⟩
  | .mediaWork => ⟨_, rfl, mediaWork_pending ..⟩
  | .ready => ⟨_, rfl, ready_pending ..⟩
  | .bankMeasure => ⟨_, rfl, bankMeasure_pending ..⟩
  | .bankMeasureComplete .. => ⟨_, rfl, bankMeasureComplete_pending ..⟩
  | .bankChargeTimeout => ⟨_, rfl, bankChargeTimeout_pending ..⟩
  | .powerLoss => ⟨_, rfl, powerLoss_pending ..⟩
  | .railFault .. => ⟨_, rfl, railFault_pending ..⟩
  | .overvoltage => ⟨_, rfl, overvoltage_pending ..⟩
  | .flushSequenceStart => ⟨_, rfl, flushSequenceStart_pending ..⟩
  | .powerOff => ⟨_, rfl, powerOff_pending ..⟩
  | .seatedOpen => ⟨_, rfl, seatedOpen_pending ..⟩
  | .bankBleedSwitch => ⟨_, rfl, bankBleedSwitch_pending ..⟩
  | .thermalShutdown => ⟨_, rfl, thermalShutdown_pending ..⟩
  | .holdAssert => ⟨_, rfl, holdAssert_pending ..⟩
  | .holdRelease => ⟨_, rfl, holdRelease_pending ..⟩
  | .mailboxMessage .. => ⟨_, rfl, mailboxMessage_pending ..⟩
  | .componentRestart .. => ⟨_, rfl, componentRestart_pending ..⟩
  | .componentRestartComplete .. => ⟨_, rfl, componentRestartComplete_pending ..⟩
  | .mainWatchdogExpiry .. => ⟨_, rfl, mainWatchdogExpiry_pending ..⟩
  | .fallbackWatchdogExpiry .. => ⟨_, rfl, fallbackWatchdogExpiry_pending ..⟩
  | .errorRaise .. => ⟨_, rfl, errorRaise_pending ..⟩
  | .errorHandle .. => ⟨_, rfl, errorHandle_pending ..⟩
  | .fatalAction => ⟨_, rfl, fatalAction_pending ..⟩
  | .unitRetest .. => ⟨_, rfl, unitRetest_pending ..⟩
  | .drbgReseed => ⟨_, rfl, drbgReseed_pending ..⟩
  | .standbyRailOff => ⟨_, rfl, standbyRailOff_pending ..⟩
  | .bankChargeComplete => ⟨_, rfl, bankChargeComplete_pending ..⟩
  | .holdupEnergyExhausted => ⟨_, rfl, holdupEnergyExhausted_pending ..⟩
  | .peerConnectionLoss .. => ⟨_, rfl, peerConnectionLoss_pending ..⟩
  | .rdmaAckTimeout .. => ⟨_, rfl, rdmaAckTimeout_pending ..⟩
  | .ecnMarkedPacket .. => ⟨_, rfl, ecnMarkedPacket_pending ..⟩
  | .pfcPauseFrame .. => ⟨_, rfl, pfcPauseFrame_pending ..⟩
  | .ccEnableSet .. => ⟨_, rfl, ccEnableSet_pending ..⟩
  | .configBusTransfer .. => ⟨_, rfl, configBusTransfer_pending ..⟩

end Sys2Proof.Machine

namespace Sys2Proof.Proofs

open Sys2Proof.Machine

/-- Settles O2: every arm of the dispatch is `.next` of an operation that keeps the queue of commands. -/
theorem everyCommandAnswersAndKeepsQueue : Obligations.EveryCommandAnswersAndKeepsQueue :=
  fun c s => exec_keeps_pending s c

end Sys2Proof.Proofs
end

section
/-! PROOFS. What a command may touch: one arm of the dispatch after another, from the law of its operation in Laws/Keep*.lean, and from Laws/Moves.lean
for the few commands that move what those laws keep. -/

namespace Sys2Proof.Machine

open Sys2Proof.Safety

/-- The commands that move the stage count, the posted batch, the fuses or the configuration memory, or that cut the power. -/
inductive MovesAnchor : Instr → Prop
  | stageBoundary (smp : Samples) : MovesAnchor (.stageBoundary smp)
  | yokeForwardJump (smp : Samples) : MovesAnchor (.yokeForwardJump smp)
  | stampStart : MovesAnchor .stampStart
  | bringUpStart : MovesAnchor .bringUpStart
  | fuseRead (fuses : List Nat) : MovesAnchor (.fuseRead fuses)
  | ownerChainCheck (authOk : Bool) : MovesAnchor (.ownerChainCheck authOk)
  | ready : MovesAnchor .ready
  | powerOff : MovesAnchor .powerOff
  | holdRelease : MovesAnchor .holdRelease
  | configBusTransfer (write : Bool) (addr len : Nat) (data : Bytes) : MovesAnchor (.configBusTransfer write addr len data)

/-- A command keeps the anchor, soundness and every part that `touches` does not list where its operation does so whatever the context. -/
theorem Keep.next {c : Instr} {s t : State} {m : List Part} (h : Sound s) (hk : ∀ {anc : KeepCtx}, Keep anc s → m ⊆ anc.touched → Keep anc t)
    (he : exec c s = .next t := by rfl) (hm : decide (m ⊆ touches c) = true := by rfl) :
    ∃ t, exec c s = .next t ∧ Keep ⟨s.anchor, touches c, s⟩ t :=
  ⟨t, he, hk (Keep.self h) (of_decide_eq_true hm)⟩

/-- Every command but the moving ones keeps the anchor, soundness and the parts it does not list. -/
theorem exec_keeps {s : State} (h : Sound s) : ∀ c : Instr, MovesAnchor c ∨ ∃ t, exec c s = .next t ∧ Keep ⟨s.anchor, touches c, s⟩ t
  | .stageBoundary smp => .inl (.stageBoundary smp)
  | .dieSenseComplete die dirty erased => .inr (Keep.next h (dieSenseComplete_keep die dirty erased · ·))
  | .dieProgramComplete die failed => .inr (Keep.next h (dieProgramComplete_keep die failed · ·))
  | .dieEraseComplete die failed => .inr (Keep.next h (dieEraseComplete_keep die failed · ·))
  | .dirtyRecoveryStep hub ok => .inr (Keep.next h (dirtyRecoveryStep_keep hub ok · ·))
  | .syncMessage m twoStep => .inr (Keep.next h (syncMessage_keep m twoStep · ·))
  | .followUpMessage m => .inr (Keep.next h (followUpMessage_keep m · ·))
  | .announceMessage a => .inr (Keep.next h (announceMessage_keep a · ·))
  | .delayRespMessage domain master seq delay logInterval => .inr (Keep.next h (delayRespMessage_keep domain master seq delay logInterval · ·))
  | .delayReqSend => .inr (Keep.next h (delayReqSend_keep · ·))
  | .yokeHoldoverTimeout => .inr (Keep.next h (yokeHoldoverTimeout_keep · ·))
  | .yokeSyncLossTimeout => .inr (Keep.next h (yokeSyncLossTimeout_keep · ·))
  | .servoLockTimeout => .inr (Keep.next h (servoLockTimeout_keep · ·))
  | .yokeForwardJump smp => .inl (.yokeForwardJump smp)
  | .ptpFirstWaitExpiry => .inr (Keep.next h (ptpFirstWaitExpiry_keep · ·))
  | .stampStart => .inl .stampStart
  | .rootPllLock => .inr (Keep.next h (rootPllLock_keep · ·))
  | .domainSwitch d toRoot => .inr (Keep.next h (domainSwitch_keep d toRoot · ·))
  | .rootPllLoss => .inr (Keep.next h (rootPllLoss_keep · ·))
  | .pllRelockTryEnd locked => .inr (Keep.next h (pllRelockTryEnd_keep locked · ·))
  | .matrixInstruction coach t work upto => .inr (Keep.next h (matrixInstruction_keep coach t work upto · ·))
  | .stationarySwap coach t => .inr (Keep.next h (stationarySwap_keep coach t · ·))
  | .transposedLoad coach t l => .inr (Keep.next h (transposedLoad_keep coach t l · ·))
  | .vectorInstruction coach work => .inr (Keep.next h (vectorInstruction_keep coach work · ·))
  | .crossLaneSum coach src dst => .inr (Keep.next h (crossLaneSum_keep coach src dst · ·))
  | .sequencerIssue coach pc work => .inr (Keep.next h (sequencerIssue_keep coach pc work · ·))
  | .contextWake coach ctx => .inr (Keep.next h (contextWake_keep coach ctx · ·))
  | .contextFree coach ctx => .inr (Keep.next h (contextFree_keep coach ctx · ·))
  | .contextRestart coach ctx => .inr (Keep.next h (contextRestart_keep coach ctx · ·))
  | .carriageSend src r => .inr (Keep.next h (carriageSend_keep src r · ·))
  | .carriageWrite st c => .inr (Keep.next h (carriageWrite_keep st c · ·))
  | .carriageRead st c => .inr (Keep.next h (carriageRead_keep st c · ·))
  | .carriageReply st c => .inr (Keep.next h (carriageReply_keep st c · ·))
  | .carriageWriteAck st c => .inr (Keep.next h (carriageWriteAck_keep st c · ·))
  | .carriageSeat st c => .inr (Keep.next h (carriageSeat_keep st c · ·))
  | .carriageFill st c => .inr (Keep.next h (carriageFill_keep st c · ·))
  | .carriageAnswer st c => .inr (Keep.next h (carriageAnswer_keep st c · ·))
  | .carriageControl st c => .inr (Keep.next h (carriageControl_keep st c · ·))
  | .carriageSave st c => .inr (Keep.next h (carriageSave_keep st c · ·))
  | .carriageError st c => .inr (Keep.next h (carriageError_keep st c · ·))
  | .dramScrub pkg => .inr (Keep.next h (dramScrub_keep pkg · ·))
  | .fabDropFold st => .inr (Keep.next h (fabDropFold_keep st · ·))
  | .drmEccFold pkg => .inr (Keep.next h (drmEccFold_keep pkg · ·))
  | .roleWrite team assigned partition => .inr (Keep.next h (roleWrite_keep team assigned partition · ·))
  | .flaPgmodeService hub key => .inr (Keep.next h (flaPgmodeService_keep hub key · ·))
  | .flaPgmodeRecovery hub key => .inr (Keep.next h (flaPgmodeRecovery_keep hub key · ·))
  | .flaPgmodeTest hub key => .inr (Keep.next h (flaPgmodeTest_keep hub key · ·))
  | .recoveryRawProgram a raw => .inr (Keep.next h (recoveryRawProgram_keep a raw · ·))
  | .drmTestWritePath pkg key path => .inr (Keep.next h (drmTestWritePath_keep pkg key path · ·))
  | .drmTestRawRead pkg key on => .inr (Keep.next h (drmTestRawRead_keep pkg key on · ·))
  | .registerWrite r unit v => .inr (Keep.next h (registerWrite_keep r unit v · ·))
  | .routeLoad tag sess handle first offset piece => .inr (Keep.next h (routeLoad_keep tag sess handle first offset piece · ·))
  | .routeLoadExtent tag sess handle nsid lba blocks => .inr (Keep.next h (routeLoadExtent_keep tag sess handle nsid lba blocks · ·))
  | .run tag sess handle block => .inr (Keep.next h (run_keep tag sess handle block · ·))
  | .bind id => .inr (Keep.next h (bind_keep id · ·))
  | .bindComplete id e => .inr (Keep.next h (bindComplete_keep id e · ·))
  | .bindWaitExpiry id => .inr (Keep.next h (bindWaitExpiry_keep id · ·))
  | .passStart sess => .inr (Keep.next h (passStart_keep sess · ·))
  | .runComplete sess => .inr (Keep.next h (runComplete_keep sess · ·))
  | .opMatmul sess op => .inr (Keep.next h (runOp_keep _ _ sess op · ·))
  | .opBmatmul sess op => .inr (Keep.next h (runOp_keep _ _ sess op · ·))
  | .opAdd sess op => .inr (Keep.next h (runOp_keep _ _ sess op · ·))
  | .opSub sess op => .inr (Keep.next h (runOp_keep _ _ sess op · ·))
  | .opMul sess op => .inr (Keep.next h (runOp_keep _ _ sess op · ·))
  | .opDiv sess op => .inr (Keep.next h (runOp_keep _ _ sess op · ·))
  | .opFma sess op => .inr (Keep.next h (runOp_keep _ _ sess op · ·))
  | .opMax sess op => .inr (Keep.next h (runOp_keep _ _ sess op · ·))
  | .opMin sess op => .inr (Keep.next h (runOp_keep _ _ sess op · ·))
  | .opCmp sess op => .inr (Keep.next h (runOp_keep _ _ sess op · ·))
  | .opSelect sess op => .inr (Keep.next h (runOp_keep _ _ sess op · ·))
  | .opUnary sess op => .inr (Keep.next h (runOp_keep _ _ sess op · ·))
  | .opGated sess op => .inr (Keep.next h (runOp_keep _ _ sess op · ·))
  | .opReduce sess op => .inr (Keep.next h (runOp_keep _ _ sess op · ·))
  | .opSoftmax sess op => .inr (Keep.next h (runOp_keep _ _ sess op · ·))
  | .opLayernorm sess op => .inr (Keep.next h (runOp_keep _ _ sess op · ·))
  | .opRmsnorm sess op => .inr (Keep.next h (runOp_keep _ _ sess op · ·))
  | .opAttention sess op => .inr (Keep.next h (runOp_keep _ _ sess op · ·))
  | .opRope sess op => .inr (Keep.next h (runOp_keep _ _ sess op · ·))
  | .opRotate sess op => .inr (Keep.next h (runOp_keep _ _ sess op · ·))
  | .opQuant sess op => .inr (Keep.next h (runOp_keep _ _ sess op · ·))
  | .opDequant sess op => .inr (Keep.next h (runOp_keep _ _ sess op · ·))
  | .opConvert sess op => .inr (Keep.next h (runOp_keep _ _ sess op · ·))
  | .opDist sess op => .inr (Keep.next h (runOp_keep _ _ sess op · ·))
  | .opCodeDist sess op => .inr (Keep.next h (runOp_keep _ _ sess op · ·))
  | .opTopk sess op => .inr (Keep.next h (runOp_keep _ _ sess op · ·))
  | .opGather sess op => .inr (Keep.next h (runOp_keep _ _ sess op · ·))
  | .opPut sess op => .inr (Keep.next h (runOp_keep _ _ sess op · ·))
  | .opFilter sess op => .inr (Keep.next h (runOp_keep _ _ sess op · ·))
  | .opScanRead sess op => .inr (Keep.next h (runOp_keep _ _ sess op · ·))
  | .opNsRead sess op => .inr (Keep.next h (runOp_keep _ _ sess op · ·))
  | .opNsWrite sess op => .inr (Keep.next h (opNsWrite_keep sess op · ·))
  | .opEmit sess op => .inr (Keep.next h (opEmit_keep sess op · ·))
  | .opAccum sess op => .inr (Keep.next h (runOp_keep _ _ sess op · ·))
  | .stagedWriteEnterBuffer sess => .inr (Keep.next h (stagedWriteEnterBuffer_keep sess · ·))
  | .timetableResume sess => .inr (Keep.next h (timetableResume_keep sess · ·))
  | .emitResume sess => .inr (Keep.next h (emitResume_keep sess · ·))
  | .waitLapse coach ctx m => .inr (Keep.next h (waitLapse_keep coach ctx m · ·))
  | .openReadLapse die stage => .inr (Keep.next h (openReadLapse_keep die stage · ·))
  | .scanReread id word landed => .inr (Keep.next h (scanReread_keep id word landed · ·))
  | .unitLeavesService o => .inr (Keep.next h (unitLeavesService_keep o · ·))
  | .sessionOpen tag major data => .inr (Keep.next h (sessionOpen_keep tag major data · ·))
  | .sessionOpenReclaim tag major sess key => .inr (Keep.next h (sessionOpenReclaim_keep tag major sess key · ·))
  | .granuleZeroingComplete sess => .inr (Keep.next h (granuleZeroingComplete_keep sess · ·))
  | .sessionCloseDrain tag sess => .inr (Keep.next h (sessionCloseDrain_keep tag sess · ·))
  | .sessionCloseAbort tag sess => .inr (Keep.next h (sessionCloseAbort_keep tag sess · ·))
  | .sessionFree sess => .inr (Keep.next h (sessionFree_keep sess · ·))
  | .quotaSet tag sess data => .inr (Keep.next h (quotaSet_keep tag sess data · ·))
  | .quotaSetTeamsReplace sess => .inr (Keep.next h (quotaSetTeamsReplace_keep sess · ·))
  | .sliceEnd part => .inr (Keep.next h (sliceEnd_keep part · ·))
  | .switchDeferLimit part => .inr (Keep.next h (switchDeferLimit_keep part · ·))
  | .partitionSwitch part => .inr (Keep.next h (partitionSwitch_keep part · ·))
  | .switchRestoreComplete part => .inr (Keep.next h (switchRestoreComplete_keep part · ·))
  | .reclaimWindowExpiry sess => .inr (Keep.next h (reclaimWindowExpiry_keep sess · ·))
  | .query tag sess data => .inr (Keep.next h (query_keep tag sess data · ·))
  | .queryAdmit id => .inr (Keep.next h (queryAdmit_keep id · ·))
  | .peerAnswerFetch id member r => .inr (Keep.next h (peerAnswerFetch_keep id member r · ·))
  | .peerWaitExpiry id => .inr (Keep.next h (peerWaitExpiry_keep id · ·))
  | .answerRecordComplete tree => .inr (Keep.next h (answerRecordComplete_keep tree · ·))
  | .indexBuild tag sess nsid discard => .inr (Keep.next h (indexBuild_keep tag sess nsid discard · ·))
  | .buildEnd nsid b => .inr (Keep.next h (buildEnd_keep nsid b · ·))
  | .indexSwitch tag sess nsid => .inr (Keep.next h (indexSwitch_keep tag sess nsid · ·))
  | .generationSwitch nsid => .inr (Keep.next h (generationSwitch_keep nsid · ·))
  | .generationFree nsid gen => .inr (Keep.next h (generationFree_keep nsid gen · ·))
  | .codeLayerReload nsid gen => .inr (Keep.next h (codeLayerReload_keep nsid gen · ·))
  | .peerSet tag data replies => .inr (Keep.next h (peerSet_keep tag data replies · ·))
  | .scan tag sess data => .inr (Keep.next h (scan_keep tag sess data · ·))
  | .scanComplete id => .inr (Keep.next h (scanComplete_keep id · ·))
  | .fetch tag sess cls byId keep queryId after len => .inr (Keep.next h (fetch_keep tag sess cls byId keep queryId after len · ·))
  | .write tag nsid slba nlb prinfo fua data => .inr (Keep.next h (write_keep tag nsid slba nlb prinfo fua data · ·))
  | .writeLocate tag nsid slba nlb prinfo sgl data => .inr (Keep.next h (writeLocate_keep tag nsid slba nlb prinfo sgl data · ·))
  | .writeCapRelease => .inr (Keep.next h (writeCapRelease_keep · ·))
  | .read tag nsid slba nlb prinfo => .inr (Keep.next h (read_keep tag nsid slba nlb prinfo · ·))
  | .readLocator tag nsid slba nlb prinfo bufLen loc decodes => .inr (Keep.next h (readLocator_keep tag nsid slba nlb prinfo bufLen loc decodes · ·))
  | .flush tag nsid => .inr (Keep.next h (flush_keep tag nsid · ·))
  | .writeZeroes tag nsid slba nlb prinfo => .inr (Keep.next h (writeZeroes_keep tag nsid slba nlb prinfo · ·))
  | .datasetManagement tag nsid dealloc nr data => .inr (Keep.next h (datasetManagement_keep tag nsid dealloc nr data · ·))
  | .leafLoadComplete ns leaf ok => .inr (Keep.next h (leafLoadComplete_keep ns leaf ok · ·))
  | .gcCopy ns unit => .inr (Keep.next h (gcCopy_keep ns unit · ·))
  | .gcVerify ns unit ok => .inr (Keep.next h (gcVerify_keep ns unit ok · ·))
  | .superblockErase sb => .inr (Keep.next h (superblockErase_keep sb · ·))
  | .superblockCloseVerify sb rewrite lost => .inr (Keep.next h (superblockCloseVerify_keep sb rewrite lost · ·))
  | .patrolVerify pb v lost => .inr (Keep.next h (patrolVerify_keep pb v lost · ·))
  | .journalMark clean => .inr (Keep.next h (journalMark_keep clean · ·))
  | .mapRebuild sets => .inr (Keep.next h (mapRebuild_keep sets · ·))
  | .linkTrain locked => .inr (Keep.next h (linkTrain_keep locked · ·))
  | .linkWidthTimeout => .inr (Keep.next h (linkWidthTimeout_keep · ·))
  | .linkLoss => .inr (Keep.next h (linkLoss_keep · ·))
  | .pluggableInsert watts => .inr (Keep.next h (pluggableInsert_keep watts · ·))
  | .pluggableRemove => .inr (Keep.next h (pluggableRemove_keep · ·))
  | .arpRequest target sender => .inr (Keep.next h (arpRequest_keep target sender · ·))
  | .neighbourDiscovery target sender => .inr (Keep.next h (neighbourDiscovery_keep target sender · ·))
  | .icmpEcho v6 dest sender payload => .inr (Keep.next h (icmpEcho_keep v6 dest sender payload · ·))
  | .frameDrop len => .inr (Keep.next h (frameDrop_keep len · ·))
  | .icreq conn port hdgst ddgst => .inr (Keep.next h (icreq_keep conn port hdgst ddgst · ·))
  | .tcpPduReceive conn digestOk len => .inr (Keep.next h (tcpPduReceive_keep conn digestOk len · ·))
  | .rdmaConnectRequest qp port => .inr (Keep.next h (rdmaConnectRequest_keep qp port · ·))
  | .cnpReceived qp => .inr (Keep.next h (cnpReceived_keep qp · ·))
  | .connect tag conn a => .inr (Keep.next h (connect_keep tag conn a · ·))
  | .propertyGet tag offset => .inr (Keep.next h (propertyGet_keep tag offset · ·))
  | .ccEnableClear tag => .inr (Keep.next h (ccEnableClear_keep tag · ·))
  | .ccShutdownNotification tag abrupt => .inr (Keep.next h (ccShutdownNotification_keep tag abrupt · ·))
  | .disconnect tag => .inr (Keep.next h (disconnect_keep tag · ·))
  | .controllerEnd ctrl => .inr (Keep.next h (controllerEnd_keep ctrl · ·))
  | .keepAlive tag => .inr (Keep.next h (keepAlive_keep tag · ·))
  | .keepAliveExpiry ctrl => .inr (Keep.next h (keepAliveExpiry_keep ctrl · ·))
  | .peerKeepAliveSend => .inr (Keep.next h (peerKeepAliveSend_keep · ·))
  | .identify tag cns nsid => .inr (Keep.next h (identify_keep tag cns nsid · ·))
  | .getLogPage tag lid nsid offset len rae => .inr (Keep.next h (getLogPage_keep tag lid nsid offset len rae · ·))
  | .getLogPageEventLog tag offset len rae => .inr (Keep.next h (getLogPageEventLog_keep tag offset len rae · ·))
  | .getLogPageHealth tag offset len rae => .inr (Keep.next h (getLogPageHealth_keep tag offset len rae · ·))
  | .getLogPageFuses tag offset len rae => .inr (Keep.next h (getLogPageFuses_keep tag offset len rae · ·))
  | .getLogPageTopology tag offset len rae => .inr (Keep.next h (getLogPageTopology_keep tag offset len rae · ·))
  | .getLogPageTimetable tag lsp lsi offset len rae => .inr (Keep.next h (getLogPageTimetable_keep tag lsp lsi offset len rae · ·))
  | .getFeatures tag fid sel => .inr (Keep.next h (getFeatures_keep tag fid sel · ·))
  | .setFeatures tag fid sv dw11 => .inr (Keep.next h (setFeatures_keep tag fid sv dw11 · ·))
  | .setFeaturesYoke tag sv dw11 => .inr (Keep.next h (setFeaturesYoke_keep tag sv dw11 · ·))
  | .setFeaturesTimeSlice tag sv dw11 => .inr (Keep.next h (setFeaturesTimeSlice_keep tag sv dw11 · ·))
  | .setFeaturesDirtyCap tag sv dw11 => .inr (Keep.next h (setFeaturesDirtyCap_keep tag sv dw11 · ·))
  | .setFeaturesDeadlinePolicy tag sv dw11 => .inr (Keep.next h (setFeaturesDeadlinePolicy_keep tag sv dw11 · ·))
  | .setFeaturesReclaimWindow tag sv dw11 => .inr (Keep.next h (setFeaturesReclaimWindow_keep tag sv dw11 · ·))
  | .asyncEventRequest tag => .inr (Keep.next h (asyncEventRequest_keep tag · ·))
  | .abort tag cid => .inr (Keep.next h (abort_keep tag cid · ·))
  | .invalidOpcode tag admin opcode => .inr (Keep.next h (invalidOpcode_keep tag admin opcode · ·))
  | .namespaceCreate tag flbas nsze ncap header => .inr (Keep.next h (namespaceCreate_keep tag flbas nsze ncap header · ·))
  | .namespaceDelete tag nsid => .inr (Keep.next h (namespaceDelete_keep tag nsid · ·))
  | .namespaceDeleteEffect nsid => .inr (Keep.next h (namespaceDeleteEffect_keep nsid · ·))
  | .namespaceDeleteComplete nsid => .inr (Keep.next h (namespaceDeleteComplete_keep nsid · ·))
  | .formatNvm tag nsid lbaf ses pi pil => .inr (Keep.next h (formatNvm_keep tag nsid lbaf ses pi pil · ·))
  | .formatEffect nsid => .inr (Keep.next h (formatEffect_keep nsid · ·))
  | .formatNvmFull tag => .inr (Keep.next h (formatNvmFull_keep tag · ·))
  | .securitySetPassword tag data => .inr (Keep.next h (securitySetPassword_keep tag data · ·))
  | .securityLock tag data => .inr (Keep.next h (securityLock_keep tag data · ·))
  | .securityUnlock tag data => .inr (Keep.next h (securityUnlock_keep tag data · ·))
  | .securityReceiveLockState tag nsid alloc => .inr (Keep.next h (securityReceiveLockState_keep tag nsid alloc · ·))
  | .securityReceiveSessionKey tag sess alloc => .inr (Keep.next h (securityReceiveSessionKey_keep tag sess alloc · ·))
  | .spdmGetVersion tag => .inr (Keep.next h (spdmGetVersion_keep tag · ·))
  | .spdmGetCapabilities tag => .inr (Keep.next h (spdmGetCapabilities_keep tag · ·))
  | .spdmNegotiateAlgorithms tag => .inr (Keep.next h (spdmNegotiateAlgorithms_keep tag · ·))
  | .spdmGetDigests tag => .inr (Keep.next h (spdmGetDigests_keep tag · ·))
  | .spdmGetCertificate tag slot offset len => .inr (Keep.next h (spdmGetCertificate_keep tag slot offset len · ·))
  | .spdmChallenge tag slot nonce => .inr (Keep.next h (spdmChallenge_keep tag slot nonce · ·))
  | .spdmGetMeasurements tag index nonce => .inr (Keep.next h (spdmGetMeasurements_keep tag index nonce · ·))
  | .bringUpStart => .inl .bringUpStart
  | .fuseRead fuses => .inl (.fuseRead fuses)
  | .configRecordRead => .inr (Keep.next h (configRecordRead_keep · ·))
  | .dramTraining failed => .inr (Keep.next h (dramTraining_keep failed · ·))
  | .dramFill => .inr (Keep.next h (dramFill_keep · ·))
  | .firmwareImageVerify signatureOk => .inr (Keep.next h (firmwareImageVerify_keep signatureOk · ·))
  | .ownerChainCheck authOk => .inl (.ownerChainCheck authOk)
  | .flashChannelTraining failed => .inr (Keep.next h (flashChannelTraining_keep failed · ·))
  | .dieIdentification failed => .inr (Keep.next h (dieIdentification_keep failed · ·))
  | .portLaneTest failed => .inr (Keep.next h (portLaneTest_keep failed · ·))
  | .coachSelfTest failedCoaches failedRouters failedLinks failedRing => .inr (Keep.next h (coachSelfTest_keep failedCoaches failedRouters failedLinks failedRing · ·))
  | .topologyCheck => .inr (Keep.next h (topologyCheck_keep · ·))
  | .mainFirmwareStart => .inr (Keep.next h (mainFirmwareStart_keep · ·))
  | .mediaScan => .inr (Keep.next h (mediaScan_keep · ·))
  | .mediaWork => .inr (Keep.next h (mediaWork_keep · ·))
  | .ready => .inl .ready
  | .bankMeasure => .inr (Keep.next h (bankMeasure_keep · ·))
  | .bankMeasureComplete cMeas => .inr (Keep.next h (bankMeasureComplete_keep cMeas · ·))
  | .bankChargeTimeout => .inr (Keep.next h (bankChargeTimeout_keep · ·))
  | .powerLoss => .inr (Keep.next h (powerLoss_keep · ·))
  | .railFault osfp => .inr (Keep.next h (railFault_keep osfp · ·))
  | .overvoltage => .inr (Keep.next h (overvoltage_keep · ·))
  | .flushSequenceStart => .inr (Keep.next h (flushSequenceStart_keep · ·))
  | .powerOff => .inl .powerOff
  | .seatedOpen => .inr (Keep.next h (seatedOpen_keep · ·))
  | .bankBleedSwitch => .inr (Keep.next h (bankBleedSwitch_keep · ·))
  | .thermalShutdown => .inr (Keep.next h (thermalShutdown_keep · ·))
  | .holdAssert => .inr (Keep.next h (holdAssert_keep · ·))
  | .holdRelease => .inl .holdRelease
  | .mailboxMessage sender receiver msg => .inr (Keep.next h (mailboxMessage_keep sender receiver msg · ·))
  | .componentRestart comp cause => .inr (Keep.next h (componentRestart_keep comp cause · ·))
  | .componentRestartComplete comp keepOk => .inr (Keep.next h (componentRestartComplete_keep comp keepOk · ·))
  | .mainWatchdogExpiry coreNo => .inr (Keep.next h (mainWatchdogExpiry_keep coreNo · ·))
  | .fallbackWatchdogExpiry coreNo => .inr (Keep.next h (fallbackWatchdogExpiry_keep coreNo · ·))
  | .errorRaise cls o => .inr (Keep.next h (errorRaise_keep cls o · ·))
  | .errorHandle ended => .inr (Keep.next h (errorHandle_keep ended · ·))
  | .fatalAction => .inr (Keep.next h (fatalAction_keep · ·))
  | .unitRetest pass => .inr (Keep.next h (unitRetest_keep pass · ·))
  | .drbgReseed => .inr (Keep.next h (drbgReseed_keep · ·))
  | .standbyRailOff => .inr (Keep.next h (standbyRailOff_keep · ·))
  | .bankChargeComplete => .inr (Keep.next h (bankChargeComplete_keep · ·))
  | .holdupEnergyExhausted => .inr (Keep.next h (holdupEnergyExhausted_keep · ·))
  | .peerConnectionLoss sess member => .inr (Keep.next h (peerConnectionLoss_keep sess member.1 member.2 · ·))
  | .rdmaAckTimeout qp => .inr (Keep.next h (rdmaAckTimeout_keep qp · ·))
  | .ecnMarkedPacket qp => .inr (Keep.next h (ecnMarkedPacket_keep qp · ·))
  | .pfcPauseFrame priority pause => .inr (Keep.next h (pfcPauseFrame_keep priority pause · ·))
  | .ccEnableSet tag => .inr (Keep.next h (ccEnableSet_keep tag · ·))
  | .configBusTransfer write addr len data => .inl (.configBusTransfer write addr len data)

/-! ### The commands that move the anchor -/

theorem Only.allParts (s t : State) : Only allParts s t := fun p hp => absurd (by cases p <;> decide) hp

theorem stageBoundary_only (smp : Samples) {s : State} (h : Sound s) : Only (touches (.stageBoundary smp)) s (stageBoundary smp s) := by
  cases hp : s.pwr.standby && s.pwr.rails with
  | false =>
    rw [stageBoundary_dark smp hp]
    exact Only.refl _ _
  | true =>
    obtain ⟨_, ⟨_, _, ho⟩, _⟩ := stageBoundary_moves smp h hp (l := touches (.stageBoundary smp)) (of_decide_eq_true rfl)
    exact ho

theorem yokeForwardJump_only (smp : Samples) {s : State} (h : Sound s) : Only (touches (.yokeForwardJump smp)) s (yokeForwardJump smp s) := by
  obtain he | ⟨_, _, _, ho, _⟩ := yokeForwardJump_moves smp h (l := touches (.yokeForwardJump smp)) (of_decide_eq_true rfl)
  · rw [he]
    exact Only.refl _ _
  · exact ho

theorem stampStart_only {s : State} (h : Sound s) : Only (touches .stampStart) s (stampStart s) := by
  obtain he | ⟨_, _, _, _, _, ho⟩ := stampStart_moves h (l := touches .stampStart) (by decide)
  · rw [he]
    exact Only.refl _ _
  · exact ho

theorem Blows.only {l : List Part} {s t : State} (h : Blows l s t) : Only l s t := by
  obtain ⟨_, _, _, _, _, _, ho⟩ := h
  exact ho

@[simp] theorem State.logIgnored_que (s : State) (type off cause : Nat) : (s.logIgnored type off cause).que = s.que := by
  simp [State.logIgnored]

/-- No branch of the check of OWNER_CHAIN completes or queues anything: it blows fuses, notes events and asks for the yoke's change. -/
theorem ownerChainCheck_que (authOk : Bool) (s : State) : (ownerChainCheck authOk s).que = s.que := by
  grind [ownerChainCheck, State.chainIgnored, State.logIgnored_que, State.blow, State.readFuses, State.event_que, State.setYoke]

theorem ownerChainCheck_only (authOk : Bool) {s : State} (h : Sound s) :
    Only (touches (.ownerChainCheck authOk)) s (ownerChainCheck authOk s) := by
  have ho := (ownerChainCheck_blows authOk h (List.Subset.refl _)).only
  have hq := ownerChainCheck_que authOk s
  refine Only.intro fun p hp => ?_
  cases p with
  | queues => simp only [Same, hq]
  | completions => simp only [Same, hq]
  | _ => exact ho _ (by revert hp; simp [touches])

/-- A transfer on the configuration bus reaches the configuration memory or what was read of it, both of bring-up's state. -/
theorem configBusTransfer_only (write : Bool) (addr len : Nat) (data : Bytes) (s : State) :
    Only [.boot] s (configBusTransfer write addr len data s) := by
  refine Only.intro fun p hp => ?_
  cases p with
  | boot => exact absurd (List.mem_singleton.2 rfl) hp
  | _ =>
    unfold configBusTransfer
    dsimp only
    split
    · rfl
    · split <;> rfl

end Sys2Proof.Machine

namespace Sys2Proof.Proofs

open Sys2Proof.Machine Sys2Proof.Safety

/-- Each of the moving commands touches its parts alone. -/
theorem only_of_movesAnchor {c : Instr} {s : State} (h : Sound s) (hc : MovesAnchor c) : ∃ t, exec c s = .next t ∧ Only (touches c) s t := by
  cases hc with
  | stageBoundary smp => exact ⟨_, rfl, stageBoundary_only smp h⟩
  | yokeForwardJump smp => exact ⟨_, rfl, yokeForwardJump_only smp h⟩
  | stampStart => exact ⟨_, rfl, stampStart_only h⟩
  | bringUpStart => exact ⟨_, rfl, Only.allParts _ _⟩
  | fuseRead fuses => exact ⟨_, rfl, (fuseRead_blows fuses h (of_decide_eq_true rfl)).only⟩
  | ownerChainCheck authOk => exact ⟨_, rfl, ownerChainCheck_only authOk h⟩
  | ready => exact ⟨_, rfl, (ready_blows h (by decide)).only⟩
  | powerOff => exact ⟨_, rfl, Only.allParts _ _⟩
  | holdRelease => exact ⟨_, rfl, Only.allParts _ _⟩
  | configBusTransfer write addr len data => exact ⟨_, rfl, configBusTransfer_only write addr len data s⟩

/-- Settles O5: a command that keeps the anchor keeps every part it does not list, and the moving ones are seen one by one. -/
theorem commandsTouchOnlyTheirParts : Obligations.CommandsTouchOnlyTheirParts := by
  intro c s t h he
  have hx : ∃ u, exec c s = .next u ∧ Only (touches c) s u := by
    obtain hc | ⟨u, hu, _, _, ho⟩ := exec_keeps h c
    · exact only_of_movesAnchor h hc
    · exact ⟨u, hu, ho⟩
  obtain ⟨u, hu, ho⟩ := hx
  obtain rfl : t = u := by simpa [he] using hu
  exact ho

end Sys2Proof.Proofs
end

section
/-! PROOFS. Writes of named registers (R9, R40, R47, R90, R91, R321, R376, R380, R381, R386, R429). -/

namespace Sys2Proof.Proofs

open Sys2Proof.Machine

variable {unit : Nat} {v : BitVec 32} {s : State}

/-- A unit that has the register, in a running module. -/
theorem register_held (r : Reg) (hp : s.powered = true) (hu : unit < regUnits r) : ¬(!s.powered || decide (regUnits r ≤ unit)) = true := by
  simp [hp, hu]

theorem registerWrite_of_units_le {r : Reg} (hu : regUnits r ≤ unit) : registerWrite r unit v s = s :=
  if_pos (by simp [hu])

/-! ### DRM_SYND by halves -/

theorem synd_lowHalf (y : BitVec 64) (v : BitVec 32) :
    BitVec.ofNat 64 (y.toNat / 2 ^ 32 * 2 ^ 32 + v.toNat) = y.extractLsb 63 32 ++ v := by
  have hv := v.isLt
  have hy := y.isLt
  have happ : (y.extractLsb 63 32 ++ v).toNat = y.toNat / 2 ^ 32 * 2 ^ 32 + v.toNat := by
    rw [BitVec.toNat_append, BitVec.extractLsb_toNat, ← Nat.shiftLeft_add_eq_or_of_lt hv, Nat.shiftLeft_eq, Nat.shiftRight_eq_div_pow]
    omega
  exact BitVec.eq_of_toNat_eq (by rw [happ, BitVec.toNat_ofNat]; omega)

theorem synd_highHalf (y : BitVec 64) (v : BitVec 32) :
    BitVec.ofNat 64 (v.toNat * 2 ^ 32 + y.toNat % 2 ^ 32) = v ++ y.extractLsb 31 0 := by
  have hv := v.isLt
  have happ : (v ++ y.extractLsb 31 0).toNat = v.toNat * 2 ^ 32 + y.toNat % 2 ^ 32 := by
    rw [BitVec.toNat_append, ← Nat.shiftLeft_add_eq_or_of_lt (y.extractLsb 31 0).isLt, BitVec.extractLsb_toNat, Nat.shiftLeft_eq, Nat.shiftRight_zero]
  exact BitVec.eq_of_toNat_eq (by rw [happ, BitVec.toNat_ofNat]; omega)

/-- A write of DRM_SYND takes the half named: the low one for an even unit. -/
theorem drmWrite_synd (d : Drm) (unit : Nat) (v : BitVec 32) :
    d.write .drmSynd unit v = { d with
      synd := Tab.set 0 d.synd (unit / 2) (if unit % 2 = 0 then (Tab.get 0 d.synd (unit / 2)).extractLsb 63 32 ++ v
        else v ++ (Tab.get 0 d.synd (unit / 2)).extractLsb 31 0) } := by
  rw [Drm.write]
  split <;> simp only [synd_lowHalf, synd_highHalf]

/-! ### The registers with a behaviour of their own -/

theorem registerWrite_flaPgmode (hp : s.powered = true) (hu : unit < 16) :
    registerWrite .flaPgmode unit v s = writePgmode unit v.toNat s :=
  if_neg (register_held .flaPgmode hp hu)

theorem registerWrite_drmTest (hp : s.powered = true) (hu : unit < 12) :
    registerWrite .drmTest unit v s = writeDrmTest unit (bits v.toNat 15 8) (bit v.toNat 3) (v.toNat % 4) s :=
  if_neg (register_held .drmTest hp hu)

theorem registerWrite_drmSynd (hp : s.powered = true) (hu : unit < 24) :
    registerWrite .drmSynd unit v s = { s with drm := s.drm.write .drmSynd unit v } :=
  if_neg (register_held .drmSynd hp hu)

/-- Settles O20: a unit that has the register takes the register's own branch, any other none. -/
theorem registerWritesBehave : Obligations.RegisterWritesBehave := by
  intro unit v s hp
  refine ⟨?_, ?_, ?_, ?_, ?_, ?_, ?_, ?_, fun r hr => congrArg Host.Outcome.next (registerWrite_of_units_le hr)⟩
  · rintro rfl
    exact ⟨congrArg Host.Outcome.next (if_neg (register_held .stgYoke hp Nat.one_pos)),
      congrArg Host.Outcome.next (if_neg (register_held .portLink hp Nat.one_pos)),
      congrArg Host.Outcome.next (if_neg (register_held .pwrBank hp Nat.one_pos)),
      congrArg Host.Outcome.next (if_neg (register_held .clkTrim hp Nat.one_pos))⟩
  · exact fun hu => congrArg Host.Outcome.next (if_neg (register_held .coaRole hp hu))
  · exact fun hu => congrArg Host.Outcome.next (if_neg (register_held .fabDrop hp hu))
  · exact fun hu => congrArg Host.Outcome.next (if_neg (register_held .drmWin hp hu))
  · exact fun hu => ⟨congrArg Host.Outcome.next (if_neg (register_held .drmEcc hp hu)),
      congrArg Host.Outcome.next (if_neg (register_held .drmFill hp hu)),
      congrArg Host.Outcome.next (if_neg (register_held .drmCheckval hp hu))⟩
  · exact fun hu => congrArg Host.Outcome.next ((registerWrite_drmSynd hp hu).trans (by rw [drmWrite_synd]))
  · intro hu
    have hw := registerWrite_flaPgmode (v := v) hp hu
    exact ⟨fun h => congrArg Host.Outcome.next (hw.trans (by simp only [writePgmode, h])),
      fun h => congrArg Host.Outcome.next (hw.trans (by simp only [writePgmode, h])),
      fun h => congrArg Host.Outcome.next (hw.trans (by simp only [writePgmode, h])),
      fun h => congrArg Host.Outcome.next (hw.trans (by simp only [writePgmode, h]))⟩
  · intro hu hkey _ hraw
    exact congrArg Host.Outcome.next ((registerWrite_drmTest hp hu).trans (by rw [hkey, hraw, drmTestWritePath]))

end Sys2Proof.Proofs
end

section
/-! PROOFS. The flash array's recoveries, raw programming and lapsed open reads (R14, R187, R314 to R316, R321 to R323). -/

namespace Sys2Proof.Machine

/-! ### What queued operations and seats leave -/

theorem State.countSenses_fla (s : State) (pb n : Nat) :
    (s.countSenses pb n).fla = { s.fla with reads := Tab.set 0 s.fla.reads pb (Tab.get 0 s.fla.reads pb + n) } := by
  unfold State.countSenses
  dsimp only
  split <;> rfl

@[simp] theorem State.freeSeats_xlt (s : State) (chan n : Nat) : (s.freeSeats chan n).xlt = s.xlt := rfl

theorem State.freeSeats_fla (s : State) (chan n : Nat) :
    (s.freeSeats chan n).fla = { s.fla with seatDebt := Tab.set 0 s.fla.seatDebt chan (Tab.get 0 s.fla.seatDebt chan + n) } := rfl

@[simp] theorem State.queueOp_xlt (s : State) (die k : Nat) (w : DieWork) : (s.queueOp die w k).xlt = s.xlt := rfl

theorem State.queueOp_fla (s : State) (die k : Nat) (w : DieWork) : (s.queueOp die w k).fla =
    { s.fla with ops := s.fla.ops ++ [⟨die, w, s.queueStage die k, s.queueStage die k + k, false⟩] } := rfl

/-- Seats taken do not move the stage at which a die comes to an operation. -/
@[simp] theorem State.queueStage_freeSeats (s : State) (chan n die k : Nat) : (s.freeSeats chan n).queueStage die k = s.queueStage die k := rfl

variable {hub : Nat} {s : State}

/-! ### FLA_PGMODE (R321, R322) -/

theorem State.pgmodeOpen_eq_true (hp : s.powered = true) (hh : hub < 16) (hm : s.boot.mode = .bringUp ∨ s.boot.mode = .diagnostic) :
    s.pgmodeOpen hub 0xA5 = true := by
  obtain hm | hm := hm <;> simp [State.pgmodeOpen, hp, hh, hm]

theorem State.pgmodeOpen_eq_false {key : Nat} (h : s.boot.mode ≠ .bringUp ∧ s.boot.mode ≠ .diagnostic ∨ key ≠ 0xA5) :
    s.pgmodeOpen hub key = false := by
  obtain ⟨hb, hd⟩ | hk := h
  · simp [State.pgmodeOpen, hb, hd]
  · simp [State.pgmodeOpen, hk]

/-- A plane block's erase is queued: an operation on its die that has not ended erases it. -/
def ErasePending (ops : List DieOp) (pb : Nat) : Prop :=
  ∃ o ∈ ops, o.die = pbDie pb ∧ o.ended = false ∧ ∃ qs, o.work = .erase (pbBlock pb) qs ∧ pbPlane pb ∈ qs

/-- A run of queued operations leaves all of the flash array but the operations, and those that stood stand. -/
theorem queueOps_fla {β : Type} (die : β → Nat) (work : β → DieWork) (n : State → Nat) (l : List β) (s : State) :
    ∃ more, (l.foldl (fun s p => s.queueOp (die p) (work p) (n s)) s).fla = { s.fla with ops := s.fla.ops ++ more } ∧
      ∀ p ∈ l, ∃ o ∈ more, o.die = die p ∧ o.work = work p ∧ o.ended = false := by
  induction l generalizing s with
  | nil => exact ⟨[], by simp⟩
  | cons p l ih =>
    obtain ⟨more, hfla, hmore⟩ := ih (s.queueOp (die p) (work p) (n s))
    refine ⟨⟨die p, work p, s.queueStage (die p) (n s), s.queueStage (die p) (n s) + n s, false⟩ :: more, ?_, fun q hq => ?_⟩
    · rw [List.foldl_cons, hfla]
      simp [State.queueOp_fla]
    · obtain rfl | hq := List.mem_cons.1 hq
      · exact ⟨_, List.mem_cons_self, rfl, rfl, rfl⟩
      · obtain ⟨o, ho, hrest⟩ := hmore q hq
        exact ⟨o, List.mem_cons_of_mem _ ho, hrest⟩

/-- After the erases of plane blocks have been queued, each is pending, and nothing else of the flash array has changed. -/
theorem State.queueErases_fla (l : List Nat) (s : State) :
    ∃ more, (s.queueErases l).fla = { s.fla with ops := s.fla.ops ++ more } ∧ ∀ pb ∈ l, ErasePending (s.fla.ops ++ more) pb := by
  unfold State.queueErases
  extract_lets m
  obtain ⟨more, hfla, hmore⟩ := queueOps_fla (fun p : Nat × Nat => p.1)
    (fun p => .erase p.2 ((m.filter fun pb => pbDie pb == p.1 && pbBlock pb == p.2).map pbPlane))
    (fun s => s.fla.tErase) (m.map fun pb => (pbDie pb, pbBlock pb)).eraseDups s
  refine ⟨more, hfla, fun pb hpb => ?_⟩
  by_cases hm : pb ∈ m
  · obtain ⟨o, ho, hdie, hwork, hend⟩ := hmore (pbDie pb, pbBlock pb) (List.mem_eraseDups.2 (List.mem_map_of_mem hm))
    exact ⟨o, List.mem_append_right _ ho, hdie, hend, _, hwork, List.mem_map_of_mem (List.mem_filter.2 ⟨hm, by simp⟩)⟩
  · obtain ⟨⟨die, work, starts, ends, ended⟩, ho, hdie, hend, hwork⟩ := by simpa [m, hpb] using hm
    cases work with
    | erase b qs =>
      obtain ⟨rfl, hq⟩ := by simpa using hwork
      exact ⟨_, List.mem_append_left _ ho, hdie, hend, qs, rfl, hq⟩
    | _ => simp at hwork

/-- A block of the hub that a TEST session programmed is still to be erased. -/
def State.testOwes (s : State) (hub : Nat) : Prop := ∃ pb ∈ s.fla.testBlocks, hubOf (pbDie pb) = hub

theorem State.testOwes_iff : s.testOwes hub ↔ (s.fla.testBlocks.filter fun pb => hubOf (pbDie pb) == hub).isEmpty = false := by
  simp [State.testOwes]

/-- The mode asked for is what the wish table then holds. -/
theorem get_pgWish_set (mode : Nat) (hw : Tab.wf 0 s.fla.pgWish = true) : Tab.get 0 (Tab.set 0 s.fla.pgWish hub (mode + 1)) hub = mode + 1 := by
  simp [Tab.get_set, hw]

/-- Where blocks of the hub are to be erased, the wish is kept and their erases are queued (R322). -/
theorem State.endTest_fla_of_owes (mode : Nat) (hw : Tab.wf 0 s.fla.pgWish = true) (h : s.testOwes hub) : ∃ more,
    (s.endTest hub mode).fla = { s.fla with pgWish := Tab.set 0 s.fla.pgWish hub (mode + 1), ops := s.fla.ops ++ more } ∧
      ∀ pb ∈ s.fla.testBlocks, hubOf (pbDie pb) = hub → ErasePending (s.fla.ops ++ more) pb := by
  obtain ⟨more, hfla, hmore⟩ := State.queueErases_fla (s.fla.testBlocks.filter fun pb => hubOf (pbDie pb) == hub)
    { s with fla := { s.fla with pgWish := Tab.set 0 s.fla.pgWish hub (mode + 1) } }
  refine ⟨more, ?_, fun pb hpb hhub => hmore pb (by simp [hpb, hhub])⟩
  rw [← hfla]
  simp [State.endTest, State.testDone, get_pgWish_set mode hw, State.testOwes_iff.1 h]

/-- Where none is, MODE changes at once. -/
theorem State.endTest_fla_of_not_owes (mode : Nat) (hw : Tab.wf 0 s.fla.pgWish = true) (h : ¬s.testOwes hub) : (s.endTest hub mode).fla =
    { s.fla with pgmode := Tab.set 0 s.fla.pgmode hub mode, pgWish := Tab.set 0 (Tab.set 0 s.fla.pgWish hub (mode + 1)) hub 0 } := by
  have hleft : (s.fla.testBlocks.filter fun pb => hubOf (pbDie pb) == hub).isEmpty = true := by
    simpa [State.testOwes_iff] using h
  simp [State.endTest, State.testDone, get_pgWish_set mode hw, hleft]

/-- What a change to SERVICE or RECOVERY leaves, by whether it waits. -/
theorem State.endTest_takes (mode : Nat) (hw : Tab.wf 0 s.fla.pgWish = true) :
    (s.endTest hub mode).fla.testBlocks = s.fla.testBlocks ∧ (s.endTest hub mode).fla.words = s.fla.words ∧
      (¬s.testOwes hub → (s.endTest hub mode).fla.pgmode = Tab.set 0 s.fla.pgmode hub mode ∧ (s.endTest hub mode).fla.ops = s.fla.ops) ∧
      (s.testOwes hub → (s.endTest hub mode).fla.pgmode = s.fla.pgmode ∧ Tab.get 0 (s.endTest hub mode).fla.pgWish hub = mode + 1 ∧
        ∀ pb ∈ s.fla.testBlocks, hubOf (pbDie pb) = hub → ErasePending (s.endTest hub mode).fla.ops pb) := by
  by_cases h : s.testOwes hub
  · obtain ⟨more, hfla, hmore⟩ := State.endTest_fla_of_owes mode hw h
    rw [hfla]
    exact ⟨rfl, rfl, fun hn => absurd h hn, fun _ => ⟨rfl, get_pgWish_set mode hw, hmore⟩⟩
  · rw [State.endTest_fla_of_not_owes mode hw h]
    exact ⟨rfl, rfl, fun _ => ⟨rfl, rfl⟩, fun hy => absurd hy h⟩

/-! ### Recovery of DIRTY code words (R315, R316) -/

theorem State.resense_succ (s : State) (w : CwAddr) (n : Nat) :
    s.resense w (n + 1) = ((s.queueOp w.die (.sense w.block w.page [w.plane]) s.fla.tRead).countSenses (pbOf w) 1).resense w n := rfl

section
variable {ok : Bool} {r : Recovery} (hf : (s.fla.recov.find? fun r => hubOf r.word.die == hub) = some r)

/-- The next decode of a recovery is due: no sense of its word is under way, and its raw read-outs pass in this stage's seats. -/
def State.decodeDue (s : State) (r : Recovery) : Prop :=
  s.sensing r.word = false ∧ ∃ n, r.left = some n ∧ n ≤ s.seatsLeft (chanOf r.word.die) s.stg.stage

theorem State.decodeDue_iff : s.decodeDue r ↔ s.sensing r.word = false ∧ s.readOut r = true := by
  unfold State.decodeDue State.readOut
  cases r.left <;> simp

/-- The state without a recovery's word among those under recovery. -/
def State.recovered (s : State) (r : Recovery) : State := { s with fla := { s.fla with recov := s.fla.recov.filter fun x => x.word != r.word } }

/-- A recovery goes on: as another step of the same word, with n senses queued. -/
def State.recoverOn (s : State) (r r' : Recovery) (n : Nat) : State :=
  ({ s with fla := { s.fla with recov := { r' with left := none } :: s.fla.recov.filter fun x => x.word != r.word } } : State).resense r.word n

/-- What follows a failed decode: the next step that the chip has, else the word is given up. -/
def State.nextRecovery (s : State) (r : Recovery) : State :=
  match nextStep s.fla.retrySenses s.fla.softSenses r with
  | some r' => s.recoverOn r r' (stepSenses s.fla.softSenses r'.step)
  | none => (s.recovered r).uncorrectable r.word

/-- The steps in their order: retry senses one by one, then the soft senses at once. -/
theorem State.nextRecovery_eq (s : State) (r : Recovery) : s.nextRecovery r =
    if r.step = 1 ∧ s.fla.retrySenses ≠ 0 then s.recoverOn r { r with step := 2, tries := 0 } 1
    else if r.step = 2 ∧ r.tries + 1 < s.fla.retrySenses then s.recoverOn r { r with tries := r.tries + 1 } 1
    else if (r.step = 1 ∨ r.step = 2) ∧ s.fla.softSenses ≠ 0 then s.recoverOn r { r with step := 3, tries := 0 } s.fla.softSenses
    else (s.recovered r).uncorrectable r.word := by
  unfold State.nextRecovery nextStep
  by_cases h1 : r.step = 1
  · by_cases hr : s.fla.retrySenses = 0 <;> by_cases hs : s.fla.softSenses = 0 <;> simp [h1, hr, hs, stepSenses]
  · by_cases h2 : r.step = 2
    · by_cases ht : r.tries + 1 < s.fla.retrySenses <;> by_cases hs : s.fla.softSenses = 0 <;> simp [h2, ht, hs, stepSenses]
    · simp [h1, h2]

include hf

theorem dirtyRecoveryStep_of_not_due (hd : ¬s.decodeDue r) : dirtyRecoveryStep hub ok s = s := by
  have hwait : s.sensing r.word = true ∨ s.readOut r = false := by
    simpa [State.decodeDue_iff, imp_iff_not_or] using hd
  have hg : (!s.flashClock || s.sensing r.word || !s.readOut r) = true := by
    obtain h | h := hwait <;> simp [h]
  simp only [dirtyRecoveryStep, hf, hg, if_true]

variable (hc : s.flashClock = true) (hd : s.decodeDue r)
include hc hd

/-- The first decode senses the page again where its cache register holds another. -/
theorem dirtyRecoveryStep_senses (hstep : r.step = 1) (hcache : s.cached r.word = none) :
    dirtyRecoveryStep hub ok s = s.recoverOn r r 1 := by
  obtain ⟨hsense, hout⟩ := State.decodeDue_iff.1 hd
  simp [dirtyRecoveryStep, hf, hc, hsense, hout, hstep, hcache, State.recoverOn]

variable (hready : r.step ≠ 1 ∨ s.cached r.word ≠ none)
include hready

theorem dirtyRecoveryStep_decoded :
    dirtyRecoveryStep hub true s = if 2 ≤ r.step then ((s.recovered r).keepCorrected r.word).patrolFirst (pbOf r.word)
      else (s.recovered r).keepCorrected r.word := by
  obtain ⟨hsense, hout⟩ := State.decodeDue_iff.1 hd
  have hg : ¬(decide (r.step = 1) && (s.cached r.word).isNone) = true := by simpa [imp_iff_not_or] using hready
  simp [dirtyRecoveryStep, hf, hc, hsense, hout, hg, State.recovered]

theorem dirtyRecoveryStep_failed : dirtyRecoveryStep hub false s = s.nextRecovery r := by
  obtain ⟨hsense, hout⟩ := State.decodeDue_iff.1 hd
  have hg : ¬(decide (r.step = 1) && (s.cached r.word).isNone) = true := by simpa [imp_iff_not_or] using hready
  unfold State.nextRecovery
  cases hn : nextStep s.fla.retrySenses s.fla.softSenses r with
  | none => simp [dirtyRecoveryStep, hf, hc, hsense, hout, hg, hn, State.recovered]
  | some r' => simp [dirtyRecoveryStep, hf, hc, hsense, hout, hg, hn, State.recoverOn]

end

/-! ### Raw programs and open reads (R14, R187, R321 to R323) -/

section
variable {a : CwAddr} {raw : Bytes}

/-- A code word programmed with raw bytes. -/
def State.putRaw (s : State) (a : CwAddr) (b : Bytes) : State :=
  { s with fla := { s.fla with words := Tab.put s.fla.words (cwKey a) { s.word a with raw := some (trim b), void := isMarked b } } }

/-- A block noted to be erased before the TEST session ends. -/
def State.noteTest (s : State) (a : CwAddr) : State := { s with fla := { s.fla with testBlocks := insertNat (pbOf a) s.fla.testBlocks } }

/-- A block noted as marked RETIRE. -/
def State.noteRetire (s : State) (a : CwAddr) : State := { s with fla := { s.fla with retireMarked := insertNat (pbOf a) s.fla.retireMarked } }

theorem State.rawProgram_retireMarked (s : State) (a : CwAddr) (readFirst : Bool) :
    (s.rawProgram a readFirst).fla.retireMarked = s.fla.retireMarked := by
  cases readFirst <;> simp [State.rawProgram, State.queueSense, State.countSenses_fla, State.freeSeats_fla, State.queueOp_fla]

/-- A raw program after a raw read-out queues the sense and the program, whatever seats the code word's two transfers take. -/
theorem State.rawProgram_afterRead (s : State) (a : CwAddr) (n : Nat) :
    let u := ((s.queueSense a.die a.block a.page [a.plane]).freeSeats (chanOf a.die) n).queueOp a.die (.program 0) s.fla.tProg
    (s.rawProgram a true).fla.words = u.fla.words ∧ (s.rawProgram a true).fla.ops = u.fla.ops ∧ (s.rawProgram a true).xlt = u.xlt := by
  simp [State.rawProgram, State.queueSense, State.countSenses_fla, State.freeSeats_fla, State.queueOp_fla]

/-- A raw program of a code word within its fields, by the mode of its hub. -/
theorem recoveryRawProgram_eq (hc : s.flashClock = true) (hd : s.dieIn a.die = true) (hp : a.plane < 4) (hb : a.block < 4096)
    (hg : a.page < 512) (hw : a.cw < 4) : recoveryRawProgram a raw s =
      if Tab.get 0 s.fla.pgmode (hubOf a.die) = 2 ||
          (Tab.get 0 s.fla.pgmode (hubOf a.die) = 1 && !raisesBit (rawWord s.fla.words a) (fit 4608 raw)) then
        let p := if raisesBit (rawWord s.fla.words a) (fit 4608 raw) then s.drawBytes 4608 else (fit 4608 raw, s)
        let t := (p.2.putRaw a p.1).rawProgram a (Tab.get 0 s.fla.pgmode (hubOf a.die) == 1)
        if Tab.get 0 s.fla.pgmode (hubOf a.die) = 2 then t.noteTest a
        else if isRetireMark p.1 && a.page = 0 && a.cw = 0 then t.noteRetire a
        else t
      else s :=
  if_neg (by simp [hc, hd, hp, hb, hg, hw])

variable (hc : s.flashClock = true) (hd : s.dieIn a.die = true) (hp : a.plane < 4) (hb : a.block < 4096) (hg : a.page < 512) (hw : a.cw < 4)
include hc hd hp hb hg hw

theorem recoveryRawProgram_refused (hm : Tab.get 0 s.fla.pgmode (hubOf a.die) = 1) (hr : raisesBit (rawWord s.fla.words a) (fit 4608 raw) = true) :
    recoveryRawProgram a raw s = s := by
  simp [recoveryRawProgram_eq hc hd hp hb hg hw, hm, hr]

theorem recoveryRawProgram_otherMode (h1 : Tab.get 0 s.fla.pgmode (hubOf a.die) ≠ 1) (h2 : Tab.get 0 s.fla.pgmode (hubOf a.die) ≠ 2) :
    recoveryRawProgram a raw s = s := by
  simp [recoveryRawProgram_eq hc hd hp hb hg hw, h1, h2]

/-- In TEST the bytes are programmed where they raise no bit. -/
theorem recoveryRawProgram_test (hm : Tab.get 0 s.fla.pgmode (hubOf a.die) = 2)
    (hr : raisesBit (rawWord s.fla.words a) (fit 4608 raw) = false) :
    recoveryRawProgram a raw s = ((s.putRaw a (fit 4608 raw)).rawProgram a false).noteTest a := by
  simp [recoveryRawProgram_eq hc hd hp hb hg hw, hm, hr]

/-- In TEST bytes that raise a bit leave free bytes. -/
theorem recoveryRawProgram_testRaises (hm : Tab.get 0 s.fla.pgmode (hubOf a.die) = 2)
    (hr : raisesBit (rawWord s.fla.words a) (fit 4608 raw) = true) {f : Bytes} {v : State} (hv : s.drawBytes 4608 = (f, v)) :
    recoveryRawProgram a raw s = ((v.putRaw a f).rawProgram a false).noteTest a := by
  simp [recoveryRawProgram_eq hc hd hp hb hg hw, hm, hr, hv]

/-- In RECOVERY the bytes are programmed where they raise no bit, and a RETIRE mark in a block's first code word is noted. -/
theorem recoveryRawProgram_recovery (hm : Tab.get 0 s.fla.pgmode (hubOf a.die) = 1)
    (hr : raisesBit (rawWord s.fla.words a) (fit 4608 raw) = false) :
    recoveryRawProgram a raw s =
      if isRetireMark (fit 4608 raw) && a.page = 0 && a.cw = 0 then
        ((s.putRaw a (fit 4608 raw)).rawProgram a true).noteRetire a
      else (s.putRaw a (fit 4608 raw)).rawProgram a true := by
  simp [recoveryRawProgram_eq hc hd hp hb hg hw, hm, hr]

end

/-- A block noted as RETIRE, or not, changes the list of those and nothing else. -/
theorem noteRetire_ite (t : State) (a : CwAddr) (b : Bool) :
    (if b then t.noteRetire a else t).fla.words = t.fla.words ∧ (if b then t.noteRetire a else t).fla.ops = t.fla.ops ∧
      (if b then t.noteRetire a else t).xlt = t.xlt ∧
      (pbOf a ∈ (if b then t.noteRetire a else t).fla.retireMarked ↔ pbOf a ∈ t.fla.retireMarked ∨ b = true) := by
  cases b with
  | false => simp
  | true => exact ⟨rfl, rfl, rfl, by simp [State.noteRetire, mem_insertNat]⟩

/-- An open read that nobody has filled by its stage lapses with its seat. -/
theorem openReadLapse_lapses {die part : Nat} {x : Session} (hp : s.powered = true) (ho : s.openOwner die s.stg.stage = some (part, x))
    (hn : ∀ o ∈ s.fla.openReads, o.die = die → o.stage = s.stg.stage → o.readOut = true) :
    openReadLapse die s.stg.stage s = ({ s with fla := { s.fla with
      openReads := s.fla.openReads ++ [{ part := part, die := die, stage := s.stg.stage, readOut := false, fill := none }] } } : State).tt
        fun t => { t with seatsLapsed := t.seatsLapsed + 1 } := by
  have hany : (s.fla.openReads.any fun o => o.die == die && o.stage == s.stg.stage && !o.readOut) = false := by
    simpa using hn
  simp [openReadLapse, ho, hp, hany]

end Sys2Proof.Machine

namespace Sys2Proof.Proofs

open Sys2Proof.Machine

/-- Settles O35: mode changes, recovery steps, re-senses, raw programs and lapses one after another, each by the lemma of its case. -/
theorem dirtyWordsAreRecoveredStepByStep : Obligations.DirtyWordsAreRecoveredStepByStep := by
  refine ⟨fun hub key s hp hh => ⟨fun hm hkey => ?_, fun h => ?_⟩,
    fun hub r s hc hf => ⟨fun hd ok => ?_, fun hd hstep hcache ok => ?_, fun hd hready => ⟨?_, ?_⟩⟩,
    fun w n s => ⟨rfl, s.resense_succ w n⟩, fun a raw s hc hd hpl hb hg hw => ?_, fun die part x s hp ho hn => ?_⟩
  · subst hkey
    have hopen := State.pgmodeOpen_eq_true hp hh hm
    exact ⟨⟨_, congrArg Host.Outcome.next (if_pos hopen), State.endTest_takes 0⟩,
      ⟨_, congrArg Host.Outcome.next (if_pos hopen), State.endTest_takes 1⟩, congrArg Host.Outcome.next (if_pos hopen)⟩
  · have hshut : ¬s.pgmodeOpen hub key = true := by simp [State.pgmodeOpen_eq_false h]
    exact ⟨congrArg Host.Outcome.next (if_neg hshut), congrArg Host.Outcome.next (if_neg hshut), congrArg Host.Outcome.next (if_neg hshut)⟩
  · exact congrArg Host.Outcome.next (dirtyRecoveryStep_of_not_due hf hd)
  · exact congrArg Host.Outcome.next (dirtyRecoveryStep_senses hf hc hd hstep hcache)
  · exact congrArg Host.Outcome.next (dirtyRecoveryStep_decoded hf hc hd hready)
  · exact congrArg Host.Outcome.next ((dirtyRecoveryStep_failed hf hc hd hready).trans (State.nextRecovery_eq s r))
  · refine ⟨fun hm hr => congrArg Host.Outcome.next (recoveryRawProgram_refused hc hd hpl hb hg hw hm hr), fun hm hr => ?_,
      fun hm hr => congrArg Host.Outcome.next (recoveryRawProgram_test hc hd hpl hb hg hw hm hr), fun hm hr f v hv => ?_,
      fun h1 h2 => congrArg Host.Outcome.next (recoveryRawProgram_otherMode hc hd hpl hb hg hw h1 h2)⟩
    · obtain ⟨hwords, hops, hxlt, hmarked⟩ := noteRetire_ite ((s.putRaw a (fit 4608 raw)).rawProgram a true) a
        (isRetireMark (fit 4608 raw) && a.page = 0 && a.cw = 0)
      obtain ⟨hw', ho', hx'⟩ := State.rawProgram_afterRead (s.putRaw a (fit 4608 raw)) a 4
      refine ⟨_, congrArg Host.Outcome.next (recoveryRawProgram_recovery hc hd hpl hb hg hw hm hr), hwords.trans hw', hops.trans ho', hxlt.trans hx', ?_⟩
      rw [hmarked, State.rawProgram_retireMarked]
      simp [State.putRaw, and_assoc]
    · obtain ⟨rfl, rfl⟩ := Prod.mk.inj hv
      exact congrArg Host.Outcome.next (recoveryRawProgram_testRaises hc hd hpl hb hg hw hm hr rfl)
  · exact ⟨_, congrArg Host.Outcome.next (openReadLapse_lapses hp ho hn), rfl, rfl⟩

end Sys2Proof.Proofs
end

section
/-! PROOFS. What every step keeps: a sound state, the stage count and the posted batch; the commands that move the anchor are seen one by one. -/

namespace Sys2Proof.Machine

open Sys2Proof.Safety

variable {c : Instr} {s t : State}

/-- The state that a command answers is the one its dispatch arm names. -/
theorem next_inj (h : exec c s = .next t) {u : State} (hu : exec c s = .next u) : t = u :=
  Host.Outcome.next.inj (h.symm.trans hu)

/-! ### Soundness -/

theorem stageBoundary_sound (smp : Samples) (h : Sound s) : Sound (stageBoundary smp s) := by
  cases hp : s.pwr.standby && s.pwr.rails with
  | false => rwa [stageBoundary_dark smp hp]
  | true =>
    obtain ⟨_, ⟨_, hs, _⟩, _⟩ := stageBoundary_moves smp h hp (l := allParts) (by decide)
    exact hs

theorem yokeForwardJump_sound (smp : Samples) (h : Sound s) : Sound (yokeForwardJump smp s) := by
  obtain he | ⟨_, _, hs, _⟩ := yokeForwardJump_moves smp h (l := allParts) (by decide)
  · rwa [he]
  · exact hs

theorem stampStart_sound (h : Sound s) : Sound (stampStart s) := by
  obtain he | ⟨_, _, _, _, hs, _⟩ := stampStart_moves h (l := allParts) (by decide)
  · rwa [he]
  · exact hs

theorem Darkens.sound (h : Darkens s t) : Sound t := h.2.2.2

/-- Each of the commands that move the anchor keeps a sound state. -/
theorem sound_of_movesAnchor (h : Sound s) (hc : MovesAnchor c) : ∃ t, exec c s = .next t ∧ Sound t := by
  cases hc with
  | stageBoundary smp => exact ⟨_, rfl, stageBoundary_sound smp h⟩
  | yokeForwardJump smp => exact ⟨_, rfl, yokeForwardJump_sound smp h⟩
  | stampStart => exact ⟨_, rfl, stampStart_sound h⟩
  | bringUpStart => exact ⟨_, rfl, Darkens.sound (bringUpStart_darkens h)⟩
  | fuseRead fuses => exact ⟨_, rfl, (fuseRead_blows fuses h (of_decide_eq_true (p := _ ⊆ allParts) rfl)).sound⟩
  | ownerChainCheck authOk => exact ⟨_, rfl, (ownerChainCheck_blows authOk h (of_decide_eq_true (p := _ ⊆ allParts) rfl)).sound⟩
  | ready => exact ⟨_, rfl, (ready_blows h (of_decide_eq_true (p := _ ⊆ allParts) rfl)).sound⟩
  | powerOff => exact ⟨_, rfl, Darkens.sound (powerOff_darkens h)⟩
  | holdRelease => exact ⟨_, rfl, Darkens.sound (holdRelease_darkens h)⟩
  | configBusTransfer write addr len data => exact ⟨_, rfl, (configBusTransfer_moves write addr len data h).1⟩

theorem exec_sound (h : Sound s) (he : exec c s = .next t) : Sound t := by
  have hx : ∃ u, exec c s = .next u ∧ Sound u := by
    obtain hc | ⟨u, hu, _, hs, _⟩ := exec_keeps h c
    · exact sound_of_movesAnchor h hc
    · exact ⟨u, hu, hs⟩
  obtain ⟨u, hu, hs⟩ := hx
  exact next_inj he hu ▸ hs

/-! ### The stage count -/

/-- A power-down unloads the counter or has not taken place. -/
def StampStandsOrUnloads (s t : State) : Prop :=
  (t.stg.stage = s.stg.stage ∧ t.stg.loaded = s.stg.loaded) ∨ (t.stg.stage = 0 ∧ t.stg.loaded = false)

theorem powerOff_stamp (s : State) : StampStandsOrUnloads s (powerOff s) := by
  unfold powerOff
  split
  · exact .inl ⟨rfl, rfl⟩
  · exact .inr ⟨rfl, rfl⟩

theorem bringUpStart_stamp (s : State) : StampStandsOrUnloads s (bringUpStart s) := by
  unfold bringUpStart
  split
  · exact .inr ⟨rfl, rfl⟩
  · exact .inl ⟨rfl, rfl⟩

theorem holdRelease_stamp (s : State) : StampStandsOrUnloads s (holdRelease s) := by
  unfold holdRelease
  split
  · exact .inl ⟨rfl, rfl⟩
  · dsimp only
    split
    · exact .inl ⟨rfl, rfl⟩
    · exact .inr ⟨rfl, rfl⟩

/-- The counter and the posted batch stand. -/
def StampAndBatchStand (s t : State) : Prop :=
  (t.stg.stage = s.stg.stage ∧ t.stg.loaded = s.stg.loaded) ∧ t.que.posted = s.que.posted

theorem Keep.stand {l : List Part} {b : State} (h : Keep ⟨s.anchor, l, b⟩ t) : StampAndBatchStand s t := by
  obtain ⟨ha, _⟩ := h
  simp only [State.anchor, Prod.mk.injEq] at ha
  exact ⟨⟨ha.2.1.1, ha.2.1.2.1⟩, ha.2.2.1⟩

theorem Blows.stand {l : List Part} (h : Blows l s t) : StampAndBatchStand s t := by
  obtain ⟨_, hstg, hposted, _⟩ := h
  simp only [Prod.mk.injEq] at hstg
  exact ⟨⟨hstg.1, hstg.2.1⟩, hposted⟩

/-- The commands at whose end the counter or the posted batch may have moved. -/
inductive MovesStampOrBatch : Instr → Prop
  | stageBoundary (smp : Samples) : MovesStampOrBatch (.stageBoundary smp)
  | yokeForwardJump (smp : Samples) : MovesStampOrBatch (.yokeForwardJump smp)
  | stampStart : MovesStampOrBatch .stampStart
  | bringUpStart : MovesStampOrBatch .bringUpStart
  | powerOff : MovesStampOrBatch .powerOff
  | holdRelease : MovesStampOrBatch .holdRelease

/-- Every other command leaves both. -/
theorem exec_stand (h : Sound s) (he : exec c s = .next t) : MovesStampOrBatch c ∨ StampAndBatchStand s t := by
  obtain hc | ⟨u, hu, hk⟩ := exec_keeps h c
  · cases hc with
    | stageBoundary smp => exact .inl (.stageBoundary smp)
    | yokeForwardJump smp => exact .inl (.yokeForwardJump smp)
    | stampStart => exact .inl .stampStart
    | bringUpStart => exact .inl .bringUpStart
    | powerOff => exact .inl .powerOff
    | holdRelease => exact .inl .holdRelease
    | fuseRead fuses =>
      exact .inr (next_inj he rfl ▸ (fuseRead_blows fuses h (of_decide_eq_true (p := _ ⊆ allParts) rfl)).stand)
    | ownerChainCheck authOk =>
      exact .inr (next_inj he rfl ▸ (ownerChainCheck_blows authOk h (of_decide_eq_true (p := _ ⊆ allParts) rfl)).stand)
    | ready => exact .inr (next_inj he rfl ▸ (ready_blows h (of_decide_eq_true (p := _ ⊆ allParts) rfl)).stand)
    | configBusTransfer write addr len data =>
      obtain ⟨_, _, hstg, hque, _⟩ := configBusTransfer_moves write addr len data h
      exact .inr (next_inj he rfl ▸ ⟨⟨congrArg Stg.stage hstg, congrArg Stg.loaded hstg⟩, congrArg Que.posted hque⟩)
  · exact .inr (next_inj he hu ▸ Keep.stand hk)

theorem stageBoundary_stamp (smp : Samples) (h : Sound s) :
    (stageBoundary smp s).stg.loaded = s.stg.loaded ∧
      (stageBoundary smp s).stg.stage = if s.pwr.standby && s.pwr.rails then min stageMax (s.stg.stage + 1) else s.stg.stage := by
  cases hp : s.pwr.standby && s.pwr.rails with
  | false => rw [stageBoundary_dark smp hp]; exact ⟨rfl, rfl⟩
  | true =>
    obtain ⟨_, ⟨ha, _⟩, _⟩ := stageBoundary_moves smp h hp (l := allParts) (by decide)
    simp only [State.anchor, nextStage, Prod.mk.injEq] at ha
    exact ⟨ha.2.1.2.1, ha.2.1.1⟩

theorem stageBoundary_posts (smp : Samples) (h : Sound s) (hp : s.powered = true) : (stageBoundary smp s).que.posted = s.que.done := by
  simp only [State.powered, Bool.and_eq_true, beq_iff_eq] at hp
  obtain ⟨hrails, hseq⟩ := hp
  obtain ⟨p, ⟨ha, _⟩, hdone⟩ := stageBoundary_moves smp h (l := allParts) (by simp [hrails]) (by decide)
  simp only [State.anchor, Prod.mk.injEq] at ha
  exact ha.2.2.1.trans (hdone hseq)

theorem yokeForwardJump_stamp (smp : Samples) (h : Sound s) :
    ((yokeForwardJump smp s).stg.stage = s.stg.stage ∨
        ∃ n, s.stg.jump = some n ∧ (yokeForwardJump smp s).stg.stage = min stageMax (s.stg.stage + n + 1)) ∧
      (yokeForwardJump smp s).stg.loaded = s.stg.loaded := by
  obtain he | ⟨n, hn, _, _, _, _, _, hstage, hloaded⟩ := yokeForwardJump_moves smp h (l := allParts) (by decide)
  · rw [he]; exact ⟨.inl rfl, rfl⟩
  · exact ⟨.inr ⟨n, hn, hstage⟩, hloaded⟩

theorem stampStart_stamp (h : Sound s) :
    ((stampStart s).stg.stage = s.stg.stage ∧ (stampStart s).stg.loaded = s.stg.loaded) ∨
      (s.stg.loaded = false ∧ (stampStart s).stg.loaded = true ∧ s.startValue = some (stampStart s).stg.stage) := by
  obtain he | ⟨v, hv, hl, ha, _⟩ := stampStart_moves h (l := allParts) (by decide)
  · rw [he]; exact .inl ⟨rfl, rfl⟩
  · simp only [State.anchor, Prod.mk.injEq] at ha
    obtain ⟨_, ⟨hstage, hloaded, _⟩, _⟩ := ha
    exact .inr ⟨hl, hloaded, by rw [hstage, hv]⟩

/-- The stamp start posts nothing. -/
theorem stampStart_posted (h : Sound s) : (stampStart s).que.posted = s.que.posted := by
  obtain he | ⟨v, _, _, ha, _⟩ := stampStart_moves h (l := allParts) (by decide)
  · rw [he]
  · simp only [State.anchor, Prod.mk.injEq] at ha
    exact ha.2.2.1

end Sys2Proof.Machine

namespace Sys2Proof.Proofs

open Sys2Proof.Machine Sys2Proof.Safety

/-- Settles O3: the counters are zero and every table is empty. -/
theorem resetIsSound : Obligations.ResetIsSound := by
  refine ⟨⟨Nat.zero_le _, Nat.zero_le _⟩, ⟨?_, ?_⟩, rfl, rfl, rfl, rfl, List.Pairwise.nil⟩ <;>
    simp [State.reset]

/-- Settles O4: a step is a command run on the state with the rest of the queue, which is sound where the state is. -/
theorem everyStepKeepsSoundness : Obligations.EveryStepKeepsSoundness := by
  intro s t h hst
  cases hq : s.pending with
  | nil =>
    rw [step, hq] at hst
    exact Host.Outcome.next.inj hst ▸ h
  | cons c rest =>
    rw [step, hq] at hst
    have hs : Sound { s with pending := rest } := h
    exact exec_sound hs hst

/-- Settles O6: the commands that move the counter one by one, every other by its anchor. -/
theorem stageCountMovesOnlyAtBoundaries : Obligations.StageCountMovesOnlyAtBoundaries := by
  intro c s t h he
  split
  · exact next_inj he rfl ▸ stageBoundary_stamp _ h
  · exact next_inj he rfl ▸ yokeForwardJump_stamp _ h
  · exact next_inj he rfl ▸ stampStart_stamp h
  · exact next_inj he rfl ▸ powerOff_stamp s
  · exact next_inj he rfl ▸ bringUpStart_stamp s
  · exact next_inj he rfl ▸ holdRelease_stamp s
  · obtain hc | ⟨hstamp, _⟩ := exec_stand h he
    · cases hc <;> simp at *
    · exact hstamp

/-- Settles O9: the boundary posts what has been completed, and of the other commands none but the four named apart moves the batch. -/
theorem completionsArePostedOnlyAtBoundaries : Obligations.CompletionsArePostedOnlyAtBoundaries := by
  intro c s t h he
  split
  · exact next_inj he rfl ▸ stageBoundary_posts _ h
  · trivial
  · trivial
  · trivial
  · trivial
  · obtain hc | ⟨_, hposted⟩ := exec_stand h he
    · cases hc with
      | stampStart => exact next_inj he rfl ▸ stampStart_posted h
      | _ => simp at *
    · exact hposted

end Sys2Proof.Proofs
end

section
/-! PROOFS. The PTP servo, the yoke's table, announce and delay messages and the timeouts (R31 to R41, R388, R501). -/

namespace Sys2Proof.Machine

variable {m : PtpSync} {s : State}

/-! ### Sync messages (R31, R32, R501) -/

theorem syncMessage_of_counts (h : s.syncCounts m = true) (twoStep : Bool) :
    syncMessage m twoStep s = if twoStep then { s with stg := { s.stg with syncPending := some (m.master, m.seq) } } else syncTaken m s :=
  if_neg (by simp [h])

theorem syncMessage_of_not_counts (h : s.syncCounts m = false) (twoStep : Bool) : syncMessage m twoStep s = s :=
  if_pos (by simp [h])

theorem followUpMessage_of_awaited (h : s.syncCounts m = true) (hp : s.stg.syncPending = some (m.master, m.seq)) :
    followUpMessage m s = syncTaken m s :=
  if_pos (by simp [h, hp])

theorem followUpMessage_of_not_awaited (hp : s.stg.syncPending ≠ some (m.master, m.seq)) : followUpMessage m s = s :=
  if_neg (by simp [hp])

theorem followUpMessage_of_not_counts (h : s.syncCounts m = false) : followUpMessage m s = s :=
  if_neg (by simp [h])

/-- A state in which a Sync exchange has been measured and the yoke's table not yet read. -/
def State.measured (s : State) (m : PtpSync) : State :=
  let g := servoStep s.stg m.freqErr
  { s with stg := { g with
    offset := yokeOffset s.stg.yoke s.stg.stage (s.ptpBoundary m)
    ptpGap := (nearestStage (s.ptpBoundary m) : Int) - (s.stg.stage : Int)
    ptpCount := if s.stg.loaded then none else some (nearestStage (s.ptpBoundary m))
    lockedInWait := g.lockedInWait || (g.servoLocked && !g.loaded && !g.waitOver)
    silent := false
    syncPending := none } }

theorem syncTaken_eq (m : PtpSync) (s : State) : syncTaken m s = yokeSync (s.measured m) := rfl

@[simp] theorem State.measured_yoke (s : State) (m : PtpSync) : (s.measured m).stg.yoke = s.stg.yoke := rfl
@[simp] theorem State.measured_yokeNext (s : State) (m : PtpSync) : (s.measured m).stg.yokeNext = s.stg.yokeNext := rfl
@[simp] theorem State.measured_loaded (s : State) (m : PtpSync) : (s.measured m).stg.loaded = s.stg.loaded := rfl
@[simp] theorem State.measured_okRun (s : State) (m : PtpSync) : (s.measured m).stg.okRun = s.stg.okRun := rfl
@[simp] theorem State.measured_farRun (s : State) (m : PtpSync) : (s.measured m).stg.farRun = s.stg.farRun := rfl
@[simp] theorem State.measured_jump (s : State) (m : PtpSync) : (s.measured m).stg.jump = s.stg.jump := rfl
@[simp] theorem State.measured_offset (s : State) (m : PtpSync) :
    (s.measured m).stg.offset = yokeOffset s.stg.yoke s.stg.stage (s.ptpBoundary m) := rfl
@[simp] theorem State.measured_ptpGap (s : State) (m : PtpSync) :
    (s.measured m).stg.ptpGap = (nearestStage (s.ptpBoundary m) : Int) - (s.stg.stage : Int) := rfl

/-! ### The yoke's table (R33, R36) -/

section
variable (hn : s.stg.yokeNext = [])
include hn

/-- With no change due the yoke stays as it is. -/
theorem yokeSoon_of_nil : s.stg.yokeSoon = s.stg.yoke := by
  rw [Stg.yokeSoon, hn]
  rfl

theorem yokeSync_disabled (hy : s.stg.yoke = .disabled) : yokeSync s = s := by
  simp [yokeSync, hn, hy]

theorem yokeSync_free (hy : s.stg.yoke = .free) :
    yokeSync s = if s.stg.loaded && s.stg.servoLocked then s.setYoke .acquiring else s := by
  simp [yokeSync, hn, hy]

/-- An offset within ±500 ns counts, and from the 16th on the gap decides. -/
theorem yokeSync_acquiring_near (hy : s.stg.yoke = .acquiring) (ho : -500 ≤ s.stg.offset ∧ s.stg.offset ≤ 500) :
    yokeSync s =
      let u : State := { s with stg := { s.stg with okRun := min 16 (s.stg.okRun + 1), jump := none } }
      if s.stg.okRun < 15 then u
      else if s.stg.ptpGap < 0 then u.setYoke .behind
      else if s.stg.ptpGap = 0 then u.setYoke .yoked
      else { u with stg := { u.stg with jump := some s.stg.ptpGap.toNat } } := by
  have h16 : min 16 (s.stg.okRun + 1) < 16 ↔ s.stg.okRun < 15 := by omega
  simp [yokeSync, hn, hy, ho, h16]

theorem yokeSync_acquiring_far (hy : s.stg.yoke = .acquiring) (ho : ¬(-500 ≤ s.stg.offset ∧ s.stg.offset ≤ 500)) :
    yokeSync s = { s with stg := { s.stg with okRun := 0, jump := none } } := by
  have hb : (decide (-500 ≤ s.stg.offset) && decide (s.stg.offset ≤ 500)) = false := by simpa using ho
  simp [yokeSync, hn, hy, hb]

theorem yokeSync_yoked (hy : s.stg.yoke = .yoked) :
    yokeSync s = if -2000 ≤ s.stg.offset ∧ s.stg.offset ≤ 2000 then { s with stg := { s.stg with farRun := 0 } }
      else if s.stg.farRun < 3 then { s with stg := { s.stg with farRun := s.stg.farRun + 1 } }
      else s.setYoke .acquiring := by
  split_ifs with hw hr
  · simp [yokeSync, hn, hy, hw]
  · have hb : (decide (-2000 ≤ s.stg.offset) && decide (s.stg.offset ≤ 2000)) = false := by simpa using hw
    simp [yokeSync, hn, hy, hb, not_le.2 hr]
  · have hb : (decide (-2000 ≤ s.stg.offset) && decide (s.stg.offset ≤ 2000)) = false := by simpa using hw
    simp [yokeSync, hn, hy, hb, not_lt.1 hr]

theorem yokeSync_holdover (hy : s.stg.yoke = .holdover) :
    yokeSync s = if -2000 ≤ s.stg.offset ∧ s.stg.offset ≤ 2000 then s.setYoke .yoked else s.setYoke .free := by
  simp [yokeSync, hn, hy]

theorem yokeSync_behind (hy : s.stg.yoke = .behind) :
    yokeSync s = { s with stg := { s.stg with jump := if 0 < s.stg.ptpGap then some s.stg.ptpGap.toNat else none } } := by
  simp [yokeSync, hn, hy]

end

/-- The yoke's table changes no state of the yoke before the boundary, and leaves the servo's lock. -/
theorem yokeSync_yoke (s : State) : (yokeSync s).stg.yoke = s.stg.yoke := by
  unfold yokeSync
  split
  · rfl
  · cases hy : s.stg.yoke <;> dsimp only <;> repeat' split
    all_goals simp [hy]

theorem yokeSync_servoLocked (s : State) : (yokeSync s).stg.servoLocked = s.stg.servoLocked := by
  unfold yokeSync
  split
  · rfl
  · split <;> dsimp only <;> repeat' split
    all_goals simp

/-- What the yoke's table asks for at a Sync message whose offset and gap have been measured. -/
theorem yokeSync_table (hn : s.stg.yokeNext = []) :
    (s.stg.yoke = .disabled → (yokeSync s).stg.yokeSoon = .disabled) ∧
    (s.stg.yoke = .free → (yokeSync s).stg.yokeSoon = if s.stg.loaded && (yokeSync s).stg.servoLocked then .acquiring else .free) ∧
    (s.stg.yoke = .acquiring →
      if -500 ≤ s.stg.offset ∧ s.stg.offset ≤ 500 then
        if s.stg.okRun < 15 then
          (yokeSync s).stg.yokeSoon = .acquiring ∧ (yokeSync s).stg.okRun = s.stg.okRun + 1 ∧ (yokeSync s).stg.jump = none
        else if s.stg.ptpGap < 0 then (yokeSync s).stg.yokeSoon = .behind
        else if s.stg.ptpGap = 0 then (yokeSync s).stg.yokeSoon = .yoked
        else (yokeSync s).stg.yokeSoon = .acquiring ∧ (yokeSync s).stg.jump = some s.stg.ptpGap.toNat
      else (yokeSync s).stg.yokeSoon = .acquiring ∧ (yokeSync s).stg.okRun = 0 ∧ (yokeSync s).stg.jump = none) ∧
    (s.stg.yoke = .yoked →
      if -2000 ≤ s.stg.offset ∧ s.stg.offset ≤ 2000 then (yokeSync s).stg.yokeSoon = .yoked ∧ (yokeSync s).stg.farRun = 0
      else if s.stg.farRun < 3 then (yokeSync s).stg.yokeSoon = .yoked ∧ (yokeSync s).stg.farRun = s.stg.farRun + 1
      else (yokeSync s).stg.yokeSoon = .acquiring) ∧
    (s.stg.yoke = .holdover → (yokeSync s).stg.yokeSoon = if -2000 ≤ s.stg.offset ∧ s.stg.offset ≤ 2000 then .yoked else .free) ∧
    (s.stg.yoke = .behind → (yokeSync s).stg.yokeSoon = .behind ∧
      (yokeSync s).stg.jump = if 0 < s.stg.ptpGap then some s.stg.ptpGap.toNat else none) := by
  refine ⟨fun hy => ?_, fun hy => ?_, fun hy => ?_, fun hy => ?_, fun hy => ?_, fun hy => ?_⟩
  · rw [yokeSync_disabled hn hy, yokeSoon_of_nil hn, hy]
  · rw [yokeSync_servoLocked, yokeSync_free hn hy]
    split
    · exact State.setYoke_yokeSoon _ _
    · rw [yokeSoon_of_nil hn, hy]
  · by_cases ho : -500 ≤ s.stg.offset ∧ s.stg.offset ≤ 500
    · rw [if_pos ho, yokeSync_acquiring_near hn hy ho]
      dsimp only
      split_ifs with hr hneg hzero
      · exact ⟨(yokeSoon_of_nil hn).trans hy, Nat.min_eq_right (by omega), rfl⟩
      · exact State.setYoke_yokeSoon _ _
      · exact State.setYoke_yokeSoon _ _
      · exact ⟨(yokeSoon_of_nil hn).trans hy, rfl⟩
    · rw [if_neg ho, yokeSync_acquiring_far hn hy ho]
      exact ⟨(yokeSoon_of_nil hn).trans hy, rfl, rfl⟩
  · rw [yokeSync_yoked hn hy]
    split_ifs
    · exact ⟨(yokeSoon_of_nil hn).trans hy, rfl⟩
    · exact ⟨(yokeSoon_of_nil hn).trans hy, rfl⟩
    · exact State.setYoke_yokeSoon _ _
  · rw [yokeSync_holdover hn hy]
    split <;> exact State.setYoke_yokeSoon _ _
  · rw [yokeSync_behind hn hy]
    exact ⟨(yokeSoon_of_nil hn).trans hy, rfl⟩

/-! ### Announce and delay messages (R388) -/

section
variable {a b : PtpAnnounce}

theorem announceMessage_of_not_taken (h : a.domain ≠ s.stg.ptpDomain) : announceMessage a s = s :=
  if_pos (by simp [State.ptpTakes, h])

variable (ht : s.ptpTakes a.domain = true)
include ht

theorem announceMessage_first (hm : s.stg.master = none) : announceMessage a s = { s with stg := { s.stg with master := some a } } := by
  simp [announceMessage, ht, hm]

theorem announceMessage_again (hm : s.stg.master = some b) (hi : a.identity = b.identity) :
    announceMessage a s = { s with stg := { s.stg with master := some a } } := by
  simp [announceMessage, ht, hm, hi]

theorem announceMessage_better (hm : s.stg.master = some b) (hi : a.identity ≠ b.identity)
    (hl : lexLt (announceKey a) (announceKey b) = true) :
    announceMessage a s =
      { s with stg := { s.stg with master := some a, servoGood := 0, servoBad := 0, syncPending := none, delayPending := none } } := by
  simp [announceMessage, ht, hm, hi, hl]

theorem announceMessage_worse (hm : s.stg.master = some b) (hi : a.identity ≠ b.identity)
    (hl : lexLt (announceKey a) (announceKey b) = false) : announceMessage a s = s := by
  simp [announceMessage, ht, hm, hi, hl]

end

theorem delayRespMessage_awaited {a : PtpAnnounce} {seq : Nat} (delay logInterval : Int) (hr : s.servoRuns = true) (hm : s.stg.master = some a)
    (hd : s.stg.delayPending = some seq) :
    delayRespMessage s.stg.ptpDomain a.identity seq delay logInterval s =
      { s with stg := { s.stg with delayPending := none, pathDelay := delay, delayInterval := max (-7) logInterval } } := by
  simp [delayRespMessage, State.ptpTakes, hr, hm, hd]

theorem delayReqSend_of_runs (hr : s.servoRuns = true) (hm : s.stg.master.isSome = true) :
    delayReqSend s =
      ({ s with stg := { s.stg with delayPending := some s.stg.delaySeq, delaySeq := (s.stg.delaySeq + 1) % 65536 } } : State).send
        (.delayReq s.stg.delaySeq) :=
  if_pos (by simp [hr, hm])

/-! ### Timeouts (R33, R41, R46, R501) -/

/-- A state in which the trim loop has no Sync message to follow. -/
def State.silenced (s : State) : State := { s with stg := { s.stg with silent := true } }

@[simp] theorem State.silenced_yoke (s : State) : s.silenced.stg.yoke = s.stg.yoke := rfl
@[simp] theorem State.silenced_yokeSoon (s : State) : s.silenced.stg.yokeSoon = s.stg.yokeSoon := rfl

@[simp] theorem State.setYoke_silent (s : State) (y : Yoke) : (s.setYoke y).stg.silent = s.stg.silent := by
  unfold State.setYoke
  split <;> rfl

variable (hp : s.powered = true)
include hp

theorem yokeHoldoverTimeout_eq :
    yokeHoldoverTimeout s = if s.stg.yokeSoon = .yoked then s.silenced.setYoke .holdover else s.silenced := by
  simp only [yokeHoldoverTimeout, hp, beq_iff_eq]
  rfl

theorem yokeSyncLossTimeout_eq : yokeSyncLossTimeout s =
    if s.stg.yokeSoon = .acquiring ∨ s.stg.yokeSoon = .behind ∨ s.stg.yokeSoon = .holdover then s.silenced.setYoke .free else s.silenced := by
  simp only [yokeSyncLossTimeout, hp, Bool.or_eq_true, beq_iff_eq, or_assoc]
  rfl

theorem servoLockTimeout_eq : servoLockTimeout s =
    { s.silenced with stg := { s.silenced.stg with servoLocked := false, servoGood := 0, servoBad := 0 } } :=
  if_pos hp

theorem ptpFirstWaitExpiry_of_waiting (hm : s.boot.mode = .bringUp ∨ s.boot.mode = .diagnostic) (hd : s.port.passDone = true)
    (hpol : s.stg.policy = 1) (hl : s.stg.loaded = false) : ptpFirstWaitExpiry s = { s with stg := { s.stg with waitOver := true } } :=
  if_pos (by simpa [hp, hd, hpol, hl] using hm)

end Sys2Proof.Machine

namespace Sys2Proof.Proofs

open Sys2Proof.Machine

/-- Settles O10: a message that counts is measured and handed to the yoke's table. -/
theorem syncMessagesDriveTheServo : Obligations.SyncMessagesDriveTheServo := by
  intro m s inside good bad locked time n taken
  have htaken : syncTaken m s = taken := rfl
  refine ⟨fun h => ⟨?_, ?_, fun hp => ?_, fun hp => ?_⟩, fun h b => ⟨?_, ?_⟩⟩
  · exact congrArg Host.Outcome.next ((syncMessage_of_counts h false).trans htaken)
  · exact congrArg Host.Outcome.next (syncMessage_of_counts h true)
  · exact congrArg Host.Outcome.next ((followUpMessage_of_awaited h hp).trans htaken)
  · exact congrArg Host.Outcome.next (followUpMessage_of_not_awaited hp)
  · exact congrArg Host.Outcome.next (syncMessage_of_not_counts h b)
  · exact congrArg Host.Outcome.next (followUpMessage_of_not_counts h)

/-- Settles O12: each message by the lemma of its case. -/
theorem bestMasterAndDelayMessages : Obligations.BestMasterAndDelayMessages := by
  refine ⟨fun a s ht => ⟨fun hm => ?_, fun b hm => ⟨fun hi => ?_, fun hi hl => ?_, fun hi hl => ?_⟩⟩, fun a s h => ?_,
    fun seq delay logInterval a s hr hm hd => ?_, fun s hr hm => ?_⟩
  · exact congrArg Host.Outcome.next (announceMessage_first ht hm)
  · exact congrArg Host.Outcome.next (announceMessage_again ht hm hi)
  · exact congrArg Host.Outcome.next (announceMessage_better ht hm hi hl)
  · exact congrArg Host.Outcome.next (announceMessage_worse ht hm hi hl)
  · exact congrArg Host.Outcome.next (announceMessage_of_not_taken h)
  · exact congrArg Host.Outcome.next (delayRespMessage_awaited delay logInterval hr hm hd)
  · exact congrArg Host.Outcome.next (delayReqSend_of_runs hr hm)

/-- Settles O13: each timeout's answer, and the yoke's state before it decides what is asked for. -/
theorem silenceOfPtpMovesYokeAndServo : Obligations.SilenceOfPtpMovesYokeAndServo := by
  intro s hp quiet
  have hhold := yokeHoldoverTimeout_eq hp
  have hloss := yokeSyncLossTimeout_eq hp
  refine ⟨fun h => ?_, fun h => ?_, fun h => ?_, fun h => ?_, ?_, fun hm hd hpol hl => ?_⟩
  · exact ⟨_, congrArg Host.Outcome.next (hhold.trans (if_pos h)), by simp, by simp, State.setYoke_silent _ _⟩
  · exact congrArg Host.Outcome.next (hhold.trans (if_neg h))
  · exact ⟨_, congrArg Host.Outcome.next (hloss.trans (if_pos h)), by simp, by simp, State.setYoke_silent _ _⟩
  · refine congrArg Host.Outcome.next (hloss.trans (if_neg ?_))
    rcases h with h | h | h <;> simp [h]
  · exact congrArg Host.Outcome.next (servoLockTimeout_eq hp)
  · exact congrArg Host.Outcome.next (ptpFirstWaitExpiry_of_waiting hp hm hd hpol hl)

end Sys2Proof.Proofs
end

section
/-! PROOFS. The stage boundary and the forward jump: what is left of yoke and clocks once the trim loop has run stands to the boundary's end, since
nothing after it touches the stage unit or the clock generator (R27, R28, R33, R36, R44, R46 to R49). -/

namespace Sys2Proof.Machine

open Sys2Proof.Safety

variable {s : State}

/-! ### The parts of a boundary -/

/-- A state whose counter and clocks have ticked. -/
def State.counted (s : State) : State := { s with stg := countStage s.stg, clk := clkTick s.clk }

/-- A state at a boundary whose trim loop has run. -/
def State.trimmed (smp : Samples) (s : State) : State := trimUpdate smp.trimWish smp.lineErr s.counted.postBatch.yokeTick

theorem State.counted_sound (h : Sound s) : Sound s.counted := by
  obtain ⟨_, htrim, hmem⟩ := h
  refine ⟨⟨Nat.min_le_left _ _, ?_⟩, htrim, hmem⟩
  show (if s.stg.stage = stageMax then 12299 else 0) ≤ 12299
  split <;> omega

theorem State.trimmed_sound (smp : Samples) (h : Sound s) : Sound (s.trimmed smp) :=
  (trimUpdate_keep smp.trimWish smp.lineErr (State.yokeTick_keep (State.postBatch_keep (Keep.self (l := allParts) (State.counted_sound h))
    (of_decide_eq_true rfl)) (of_decide_eq_true (p := _ ⊆ allParts) rfl)) (of_decide_eq_true (p := _ ⊆ allParts) rfl)).2.1

/-- The parts that a boundary may touch once its trim loop has run. -/
def afterTrim : List Part :=
  [.free, .coaches, .fabric, .dram, .flash, .media, .power, .port, .queues, .namespaces, .sessions, .answers, .faults, .completions, .log]

/-- After its trim loop a boundary touches neither the stage unit nor the clock generator. -/
theorem stageBoundary_afterTrim (smp : Samples) (h : Sound s) (hp : (s.pwr.standby && s.pwr.rails) = true) {l : List Part}
    (hm : [.free, .coaches, .fabric, .dram, .flash, .media, .power, .port, .queues, .namespaces, .sessions, .answers, .faults, .completions, .log] ⊆ l) :
    Only l (s.trimmed smp) (stageBoundary smp s) := by
  have ht : Keep ⟨(s.trimmed smp).anchor, l, s.trimmed smp⟩ (s.trimmed smp) := Keep.self (State.trimmed_sound smp h)
  have hd := State.freeDies_keep (State.capTick_keep (State.powerTick_keep smp ht))
  have hu : Keep ⟨(s.trimmed smp).anchor, l, s.trimmed smp⟩ (s.counted.boundaryTick smp) :=
    Keep.ite (State.plainTick_keep (State.recovTick_keep (State.drainSeats_keep hd))) hd
  unfold stageBoundary
  rw [if_neg (by simp [hp])]
  extract_lets ran moved t u v w
  change Keep _ u at hu
  clear_value u
  split
  · obtain ⟨_, hq⟩ := State.quiesceTick_keep hu (List.Subset.trans (by decide) hm)
    exact (State.nextCycle_keep (State.warn_keep (flushMore_keep hq))).2.2
  · have hw : Keep ⟨(s.trimmed smp).anchor, l, s.trimmed smp⟩ w :=
      State.markTick_keep (State.startWindows_keep (State.endFaulted_keep (State.emitDeadline_keep (State.limpTick_keep (State.lockTick_keep
        (State.patrolTick_keep (State.verifyTick_keep (State.formatTick_keep (State.scanTick_keep (State.mergeTick_keep
          (State.partitionsTick_keep _ (State.restTick_keep hu))))))))))))
    exact (State.nextCycle_keep (State.warn_keep (State.checkFull_keep (placeStage_keep (Keep.ite (State.release_keep hw) hw))))).2.2

/-- The fields of the stage unit but the core cycle and its free draws stand after the trim loop. -/
theorem stageBoundary_stg (smp : Samples) (h : Sound s) (hp : (s.pwr.standby && s.pwr.rails) = true) :
    { (stageBoundary smp s).stg with cycle := 0, ticks := 0 } = { (s.trimmed smp).stg with cycle := 0, ticks := 0 } :=
  stageBoundary_afterTrim smp h hp (l := afterTrim) (of_decide_eq_true rfl) .stage (by decide)

theorem stageBoundary_clk (smp : Samples) (h : Sound s) (hp : (s.pwr.standby && s.pwr.rails) = true) :
    (stageBoundary smp s).clk = (s.trimmed smp).clk :=
  stageBoundary_afterTrim smp h hp (l := afterTrim) (of_decide_eq_true rfl) .clock (by decide)

/-! ### The yoke's tick (R33) -/

/-- What a change of the yoke's state leaves of the stage unit. -/
theorem State.changeYoke_stg (s : State) (y : Yoke) : (s.changeYoke y).stg =
    if s.stg.yoke = y then s.stg else { s.stg with yoke := y, okRun := 0, farRun := 0, jump := none } := by
  unfold State.changeYoke
  split <;> simp

@[simp] theorem State.changeYoke_clk (s : State) (y : Yoke) : (s.changeYoke y).clk = s.clk := by
  unfold State.changeYoke
  split <;> simp

/-- A change of the yoke's state is the newest event of the log, under the stamp of the stage's boundary. -/
theorem State.changeYoke_logs {y : Yoke} (hl : s.stg.loaded = true) (hy : s.stg.yoke ≠ y) :
    (s.changeYoke y).fwc.total = s.fwc.total + 1 ∧ (s.changeYoke y).fwc.events.getLast? =
      some ⟨s.stg.stage * 16384, s.fwc.total + 1, 0x0002, 0, 6, ⟨0, 0⟩,
        fit 36 ([BitVec.ofNat 8 s.stg.yoke.code, BitVec.ofNat 8 y.code] ++ toLe 4 (unsigned 32 s.stg.offset))⟩ := by
  simp [State.changeYoke, State.eventAt, hy, hl, State.boundaryStamp, fullStamp, noObj]

/-- What the trim loop sees of stage unit and clocks stands while the yoke's changes take effect. -/
theorem foldl_changeYoke_frame (l : List Yoke) (s : State) :
    (l.foldl State.changeYoke s).clk = s.clk ∧ (l.foldl State.changeYoke s).stg.yokeNext = s.stg.yokeNext ∧
      (l.foldl State.changeYoke s).stg.ptpTrim = s.stg.ptpTrim ∧ (l.foldl State.changeYoke s).stg.lineTrim = s.stg.lineTrim := by
  induction l generalizing s with
  | nil => exact ⟨rfl, rfl, rfl, rfl⟩
  | cons y l ih =>
    obtain ⟨hclk, hnext, hptp, hline⟩ := ih (s.changeYoke y)
    rw [List.foldl_cons, hclk, hnext, hptp, hline, State.changeYoke_clk, State.changeYoke_stg]
    split <;> exact ⟨rfl, rfl, rfl, rfl⟩

@[simp] theorem State.yokeTick_clk (s : State) : s.yokeTick.clk = s.clk := (foldl_changeYoke_frame _ _).1
@[simp] theorem State.yokeTick_yokeNext (s : State) : s.yokeTick.stg.yokeNext = [] := (foldl_changeYoke_frame _ _).2.1
@[simp] theorem State.yokeTick_ptpTrim (s : State) : s.yokeTick.stg.ptpTrim = s.stg.ptpTrim := (foldl_changeYoke_frame _ _).2.2.1
@[simp] theorem State.yokeTick_lineTrim (s : State) : s.yokeTick.stg.lineTrim = s.stg.lineTrim := (foldl_changeYoke_frame _ _).2.2.2

theorem State.yokeTick_of_one {y : Yoke} (hn : s.stg.yokeNext = [y]) :
    s.yokeTick = ({ s with stg := { s.stg with yokeNext := [] } } : State).changeYoke y := by
  rw [State.yokeTick, hn]
  rfl

/-! ### The trim loop (R34, R46, R47) -/

/-- The trim loop leaves the state, or moves the trim word by at most one unit while it has a reference. -/
theorem trimUpdate_cases (wish lineErr : Int) (s : State) :
    trimUpdate wish lineErr s = s ∨ ∃ (d : Int) (src : Nat) (f : Int), -1 ≤ d ∧ d ≤ 1 ∧ s.trimRef ≠ .none ∧
      trimUpdate wish lineErr s = { s with
        clk := { s.clk with trim := max (-250000) (min 250000 (s.clk.trim + d)), src := src }
        stg := { s.stg with freqErr := f } } := by
  unfold trimUpdate
  extract_lets ref f limit beyond d g t held
  have hd : -1 ≤ d ∧ d ≤ 1 := by
    clear_value f
    cases hb : beyond with
    | true => rcases Int.sign_trichotomy f with h | h | h <;> simp [d, hb, h]
    | false => simp [d, hb]
  clear_value d
  generalize hb : (held || t == s.clk.trim || !trimMay _ limit f g) = b
  cases b with
  | true => exact .inl rfl
  | false =>
    refine .inr ⟨d, trimRefCode ref, _, hd.1, hd.2, fun hr => ?_, rfl⟩
    simp [held, ref, hr] at hb

/-- The trim loop moves trim word and source, of the clock generator, and of the stage unit the frequency error alone. -/
theorem trimUpdate_frame (wish lineErr : Int) (s : State) :
    (trimUpdate wish lineErr s).stg.yoke = s.stg.yoke ∧ (trimUpdate wish lineErr s).stg.yokeNext = s.stg.yokeNext ∧
      (trimUpdate wish lineErr s).clk.dividersPending = s.clk.dividersPending ∧ (trimUpdate wish lineErr s).clk.core = s.clk.core ∧
      (trimUpdate wish lineErr s).clk.flash = s.clk.flash ∧ (trimUpdate wish lineErr s).clk.dram = s.clk.dram := by
  obtain he | ⟨_, _, _, _, _, _, he⟩ := trimUpdate_cases wish lineErr s <;> rw [he] <;> exact ⟨rfl, rfl, rfl, rfl, rfl, rfl⟩

/-- The trim word moves by at most one unit: within its range saturation does not move it further. -/
theorem trimUpdate_trim_near (wish lineErr : Int) (ht : TrimOk s) :
    s.clk.trim - 1 ≤ (trimUpdate wish lineErr s).clk.trim ∧ (trimUpdate wish lineErr s).clk.trim ≤ s.clk.trim + 1 := by
  obtain ⟨hlo, hhi⟩ := ht
  obtain he | ⟨d, _, _, hd, hd', _, he⟩ := trimUpdate_cases wish lineErr s <;> rw [he]
  · omega
  · show s.clk.trim - 1 ≤ max (-250000) (min 250000 (s.clk.trim + d)) ∧ max (-250000) (min 250000 (s.clk.trim + d)) ≤ s.clk.trim + 1
    omega

/-- Without a reference the trim word stands. -/
theorem trimUpdate_of_no_reference (wish lineErr : Int) (hp : s.stg.ptpTrim = false) (hl : s.stg.lineTrim = false) :
    trimUpdate wish lineErr s = s := by
  obtain he | ⟨_, _, _, _, _, hr, _⟩ := trimUpdate_cases wish lineErr s
  · exact he
  · exact absurd (by simp [State.trimRef, hp, hl]) hr

/-! ### Clock domains (R49) -/

/-- A switch that is asked for stops the domain, one in progress ends on its source, and a domain with neither runs on. -/
theorem domainTick_cases (d : DomainState) :
    (∀ r, d.target = none → d.want = some r → d.root ≠ r → domainTick d = { root := d.root, target := some r, want := none }) ∧
      (∀ r, d.target = some r → d.want = none → domainTick d = { root := r, target := none, want := none }) ∧
      (d.target = none → d.want = none → domainTick d = d) := by
  obtain ⟨root, target, want⟩ := d
  refine ⟨fun r ht hw hr => ?_, fun r ht hw => ?_, fun ht hw => ?_⟩
  · obtain ⟨rfl, rfl⟩ : target = none ∧ want = some r := ⟨ht, hw⟩
    simp [domainTick, show root ≠ r from hr]
  · obtain ⟨rfl, rfl⟩ : target = some r ∧ want = none := ⟨ht, hw⟩
    rfl
  · obtain ⟨rfl, rfl⟩ : target = none ∧ want = none := ⟨ht, hw⟩
    rfl

/-! ### What a boundary leaves of yoke and clocks -/

section
variable (smp : Samples) (h : Sound s) (hp : (s.pwr.standby && s.pwr.rails) = true)
include h hp

/-- At a boundary the yoke takes the state it is due. -/
theorem stageBoundary_yoke : (stageBoundary smp s).stg.yoke = s.stg.yokeSoon := by
  have hs := congrArg Stg.yoke (stageBoundary_stg smp h hp)
  refine Eq.trans hs (?_ : (s.trimmed smp).stg.yoke = _)
  rw [State.trimmed, (trimUpdate_frame _ _ _).1, State.yokeTick_yoke]
  rfl

theorem stageBoundary_yokeNext : (stageBoundary smp s).stg.yokeNext = [] := by
  have hs := congrArg Stg.yokeNext (stageBoundary_stg smp h hp)
  refine Eq.trans hs (?_ : (s.trimmed smp).stg.yokeNext = _)
  rw [State.trimmed, (trimUpdate_frame _ _ _).2.1, State.yokeTick_yokeNext]

/-- Each domain and the dividers after a boundary. -/
theorem stageBoundary_domains : (stageBoundary smp s).clk.dividersPending = false ∧ (stageBoundary smp s).clk.core = domainTick s.clk.core ∧
    (stageBoundary smp s).clk.flash = domainTick s.clk.flash ∧ (stageBoundary smp s).clk.dram = domainTick s.clk.dram := by
  obtain ⟨_, _, hdiv, hcore, hflash, hdram⟩ := trimUpdate_frame smp.trimWish smp.lineErr s.counted.postBatch.yokeTick
  rw [stageBoundary_clk smp h hp, State.trimmed, hdiv, hcore, hflash, hdram, State.yokeTick_clk]
  exact ⟨rfl, rfl, rfl, rfl⟩

theorem stageBoundary_trim_near :
    s.clk.trim - 1 ≤ (stageBoundary smp s).clk.trim ∧ (stageBoundary smp s).clk.trim ≤ s.clk.trim + 1 := by
  have hc : s.counted.postBatch.yokeTick.clk.trim = s.clk.trim := by rw [State.yokeTick_clk]; rfl
  have ht : TrimOk s.counted.postBatch.yokeTick := by
    unfold TrimOk
    rw [hc]
    exact h.2.1
  rw [stageBoundary_clk smp h hp, State.trimmed, ← hc]
  exact trimUpdate_trim_near _ _ ht

theorem stageBoundary_trim_stands (hptp : s.stg.ptpTrim = false) (hline : s.stg.lineTrim = false) :
    (stageBoundary smp s).clk.trim = s.clk.trim := by
  rw [stageBoundary_clk smp h hp, State.trimmed, trimUpdate_of_no_reference, State.yokeTick_clk]
  · rfl
  · rw [State.yokeTick_ptpTrim]
    exact hptp
  · rw [State.yokeTick_lineTrim]
    exact hline

end

/-- The rails of a running module are up. -/
theorem State.rails_of_powered (hp : s.powered = true) : (s.pwr.standby && s.pwr.rails) = true := by
  simp only [State.powered, Bool.and_eq_true] at hp ⊢
  exact hp.1

/-! ### The forward jump (R36) -/

theorem yokeForwardJump_of_none (smp : Samples) (h : s.stg.jump = none) : yokeForwardJump smp s = s := by
  rw [yokeForwardJump, h]

theorem yokeForwardJump_of_change (smp : Samples) (h : s.stg.yokeNext ≠ []) : yokeForwardJump smp s = s := by
  unfold yokeForwardJump
  split
  · rfl
  · exact if_pos (by simp [h])

theorem yokeForwardJump_of_jump (smp : Samples) {n : Nat} (hn : s.stg.jump = some n) (hp : s.powered = true) (hl : s.stg.loaded = true)
    (hy : s.stg.yokeNext = []) : yokeForwardJump smp s = State.changeYoke { stageBoundary smp (s.jumpBy n) with
      stg := { (stageBoundary smp (s.jumpBy n)).stg with staleOff := true } } .yoked := by
  rw [yokeForwardJump, hn]
  exact if_neg (by simp [hp, hl, hy])

@[simp] theorem State.changeYoke_staleOff (s : State) (y : Yoke) : (s.changeYoke y).stg.staleOff = s.stg.staleOff := by
  rw [State.changeYoke_stg]
  split <;> rfl

end Sys2Proof.Machine

namespace Sys2Proof.Proofs

open Sys2Proof.Machine Sys2Proof.Safety

/-- Settles O11: the yoke's table is read of the measured state, and a boundary gives the yoke the state it is due. -/
theorem yokeMovesBySyncMessages : Obligations.YokeMovesBySyncMessages := by
  refine ⟨?_, fun smp s h hp => ?_⟩
  · intro m s hc hn off gap
    have hx := syncMessage_of_counts hc false
    exact ⟨yokeSync (s.measured m), congrArg Host.Outcome.next hx, yokeSync_yoke _, yokeSync_table (s := s.measured m) hn⟩
  · exact ⟨_, rfl, stageBoundary_yoke smp h hp, stageBoundary_yokeNext smp h hp⟩

/-- Settles O14: the one change that is due is logged under the boundary's stamp, and it is what the yoke is due. -/
theorem yokeChangesAreLoggedAndPosted : Obligations.YokeChangesAreLoggedAndPosted := by
  intro y s hl hn hy
  have hsoon : s.stg.yokeSoon = y := by rw [Stg.yokeSoon, hn]; rfl
  obtain ⟨htotal, hnewest⟩ := State.changeYoke_logs (s := { s with stg := { s.stg with yokeNext := [] } }) hl hy
  rw [← State.yokeTick_of_one hn] at htotal hnewest
  exact ⟨⟨s.yokeTick_yoke.trans hsoon, s.yokeTick_yokeNext, htotal, hnewest⟩,
    fun smp h hp => ⟨_, rfl, (stageBoundary_yoke smp h hp).trans hsoon⟩⟩

/-- Settles O15: counter and batch from what a boundary moves, clocks and trim word from what it leaves after the trim loop. -/
theorem stageBoundaryCountsPostsAndTicksClocks : Obligations.StageBoundaryCountsPostsAndTicksClocks := by
  refine fun smp s h => ⟨fun hp => ?_, fun hp => congrArg Host.Outcome.next (stageBoundary_dark smp hp)⟩
  have hr := State.rails_of_powered hp
  obtain ⟨hdiv, hcore, hflash, hdram⟩ := stageBoundary_domains smp h hr
  obtain ⟨hlo, hhi⟩ := stageBoundary_trim_near smp h hr
  refine ⟨_, rfl, ?_, stageBoundary_posts smp h hp, ?_, hdiv, hlo, hhi, stageBoundary_trim_stands smp h hr⟩
  · rw [(stageBoundary_stamp smp h).2, if_pos hr]
    rfl
  · rw [hcore, hflash, hdram]
    simp only [List.forall_mem_cons]
    exact ⟨domainTick_cases _, domainTick_cases _, domainTick_cases _, nofun⟩

/-- Settles O16: the jump moves counter and timetables, then the boundary counts, and the yoke is YOKED with no carriage stale. -/
theorem forwardJumpTakesPtpStageCount : Obligations.ForwardJumpTakesPtpStageCount := by
  refine fun smp s h => ⟨fun n hn hp hl hy => ?_, fun hc => ?_⟩
  · have hx := yokeForwardJump_of_jump smp hn hp hl hy
    obtain ⟨_, _, _, _, _, hstage, _⟩ := yokeForwardJump_jumps smp h hn hp hl hy (l := allParts) (of_decide_eq_true rfl)
    refine ⟨rfl, rfl, congrArg Host.Outcome.next hx, _, rfl, hstage, ?_, ?_⟩
    · rw [hx, State.changeYoke_yoke]
    · rw [hx, State.changeYoke_staleOff]
  · obtain hn | hy := hc
    · exact congrArg Host.Outcome.next (yokeForwardJump_of_none smp hn)
    · exact congrArg Host.Outcome.next (yokeForwardJump_of_change smp hy)

end Sys2Proof.Proofs
end

section
/-! PROOFS. The stamp start (R41, R44, R468), and the root PLL: its lock, its loss and the tries that follow (R48 to R52, R502). -/

namespace Sys2Proof.Machine

open Sys2Proof.Safety

variable {s : State}

/-! ### The stamp start (R41, R44, R468) -/

/-- A fold that takes the larger value at each element that qualifies reaches at least each of theirs. -/
theorem le_foldl_max {α : Type} (p : α → Bool) (f : α → Nat) (l : List α) (m : Nat) :
    m ≤ l.foldl (fun m e => if p e then max m (f e) else m) m ∧
      ∀ e ∈ l, p e = true → f e ≤ l.foldl (fun m e => if p e then max m (f e) else m) m := by
  induction l generalizing m with
  | nil => simp
  | cons x l ih =>
    obtain ⟨hm, hl⟩ := ih (if p x then max m (f x) else m)
    rw [List.foldl_cons]
    refine ⟨le_trans ?_ hm, List.forall_mem_cons.2 ⟨fun hx => le_trans ?_ hm, hl⟩⟩
    · split
      · exact le_max_left _ _
      · exact le_rfl
    · rw [if_pos hx]
      exact le_max_right _ _

/-- H lies at or above the stage count of every page that reads clean on a die in service. -/
theorem State.stampStage_le_highest {e : Nat × CWord} (he : e ∈ s.fla.words) (hu : e.2.undefined = false) (hv : e.2.void = false)
    (hr : e.2.raw = none) (hd : s.dieIn (pbDie (e.1 / 2048)) = true) : stampStage e.2.stamp ≤ s.highest := by
  have hp := (le_foldl_max (fun e : Nat × CWord => !e.2.undefined && !e.2.void && e.2.raw.isNone && s.dieIn (pbDie (e.1 / 2048)))
    (fun e => e.2.stamp) s.fla.words 0).2 e he (by simp [hu, hv, hr, hd])
  exact Nat.div_le_div_right (le_trans hp (le_max_left _ _))

theorem State.startValue_of_jumpPolicy (hp : s.stg.policy = 0) : s.startValue = some (min (2 ^ 50 - 1) (s.highest + 2 ^ 24)) := by
  rw [State.startValue, if_pos hp]
  rfl

theorem State.startValue_of_ptpFirst {p : Nat} (hp : s.stg.policy = 1) (hl : s.stg.lockedInWait = true) (hc : s.stg.ptpCount = some p)
    (hh : s.highest < p) (hm : p ≤ 2 ^ 50 - 1) : s.startValue = some p := by
  have hmax : min stageMax p = p := Nat.min_eq_right hm
  simp [State.startValue, hp, hl, hc, hh, hmax]

/-- A state whose counter the stamp start has loaded. -/
def State.loadedWith (s : State) (v : Nat) : State :=
  let u := s.moveStages v
  { u with
    stg := { u.stg with
      loaded := true, stage := v, cycle := 0
      ptpGap := match u.stg.ptpCount with | some p => (p : Int) - (v : Int) | none => u.stg.ptpGap
      ptpCount := none, exhausted := decide (exhaustAt ≤ v) }
    boot := { u.boot with ph := { u.boot.ph with stamp := true } } }

/-- The loaded state's first event. -/
def State.startEvent (s : State) (v : Nat) : State :=
  (s.loadedWith v).event 0x0001 0 0 noObj (toLe 8 v ++ [BitVec.ofNat 8 s.stg.policy])

theorem stampStart_eq {v : Nat} (h1 : s.starting = true) (h2 : s.boot.ph.replay = true) (h3 : s.stg.loaded = false)
    (hv : s.startValue = some v) : stampStart s = (s.startEvent v).enterHeld.warn := by
  unfold stampStart
  rw [if_neg (by simp [h1, h2, h3]), hv]
  rfl

theorem State.startEvent_early (s : State) (v : Nat) : (s.startEvent v).fwc.early = s.fwc.early := by
  simp [State.startEvent, State.event, State.eventAt, State.loadedWith, State.moveStages]

theorem State.startEvent_newest (s : State) (v : Nat) : (s.startEvent v).fwc.events.getLast? =
    some ⟨v * 16384, s.fwc.total + 1, 0x0001, 0, 0, noObj, fit 36 (toLe 8 v ++ [BitVec.ofNat 8 s.stg.policy])⟩ := by
  simp [State.startEvent, State.event, State.eventAt, State.loadedWith, State.moveStages, State.stamp, fullStamp]

/-- With no event held, the stamp start's own stays the newest. -/
theorem State.enterHeld_of_none (h : s.fwc.early = []) : s.enterHeld.fwc.events = s.fwc.events := by
  rw [State.enterHeld, h]
  rfl

theorem stampStart_newest {v : Nat} (h1 : s.starting = true) (h2 : s.boot.ph.replay = true) (h3 : s.stg.loaded = false)
    (hv : s.startValue = some v) (he : s.fwc.early = []) : (stampStart s).fwc.events.getLast? =
      some ⟨v * 16384, s.fwc.total + 1, 0x0001, 0, 0, noObj, fit 36 (toLe 8 v ++ [BitVec.ofNat 8 s.stg.policy])⟩ := by
  rw [stampStart_eq h1 h2 h3 hv, State.warn_fwc, State.enterHeld_of_none (by rw [State.startEvent_early, he]), State.startEvent_newest]

/-! ### Lock and switches (R48, R49) -/

theorem rootPllLock_locks (hp : s.powered = true) (hf : s.boot.ph.fuses = true) (hl : s.clk.pllLocked = false)
    (ht : s.clk.relockTries = none) (hc : s.clk.failed = false) :
    rootPllLock s = { s with clk := { s.clk with pllLocked := true, dividersPending := true } } :=
  if_pos (by simp [hp, hf, hl, ht, hc])

/-- A domain that runs on the other source takes the wish for a switch. -/
theorem domainSwitch_asks {d : Domain} {toRoot : Bool} (hp : s.powered = true)
    (hr : toRoot = true → s.clk.pllLocked = true ∧ s.clk.dividersPending = false)
    (hd : s.clk.domain d = { root := !toRoot, target := none, want := none }) :
    domainSwitch d toRoot s = { s with clk := s.clk.setDomain d { root := !toRoot, target := none, want := some toRoot } } := by
  unfold domainSwitch
  rw [hd]
  exact if_pos (by cases toRoot <;> simp_all)

/-! ### Loss of lock (R52) -/

/-- A FATAL error is queued, or handed on where the queue's four places are taken. -/
theorem raiseError_fatal (o : Obj) (s : State) :
    (∃ e ∈ (raiseError .fatal o s).fwc.errq, e.cls = .fatal ∧ e.obj = o) ∨ o ∈ (raiseError .fatal o s).fwc.direct := by
  unfold raiseError
  extract_lets q again cls q' e u
  have hcls : cls = .fatal := by
    simp only [cls]
    split <;> rfl
  rw [if_pos hcls]
  split
  · exact .inr (by simp)
  · exact .inl ⟨e, by simp, hcls, rfl⟩

@[simp] theorem raiseError_clk (cls : ErrClass) (o : Obj) (s : State) : (raiseError cls o s).clk = s.clk := by
  unfold raiseError
  extract_lets
  split_ifs <;> rfl

theorem rootPllLoss_of_locked (hp : s.powered = true) (hl : s.clk.pllLocked = true) :
    rootPllLoss s = { raiseError .fatal ⟨12, 0⟩ s with
      clk := { s.clk.wantAll false with pllLocked := false, relockTries := some 3 }
      stg := { (raiseError .fatal ⟨12, 0⟩ s).stg with stopped := true } } := by
  unfold rootPllLoss
  rw [if_neg (by simp [hp, hl])]
  simp only [raiseError_clk]

/-! ### The tries (R52, R476, R502) -/

section
variable {n : Nat} (ht : s.clk.relockTries = some n)
include ht

theorem pllRelockTryEnd_of_powerLoss (hs : s.pwr.seq ≠ .none) (b : Bool) :
    pllRelockTryEnd b s = { s with clk := { s.clk with relockTries := none, pllLocked := b } } := by
  rw [pllRelockTryEnd, ht]
  exact if_pos (by simpa using hs)

variable (hs : s.pwr.seq = .none)
include hs

theorem pllRelockTryEnd_uses_try (hn : 2 ≤ n) : pllRelockTryEnd false s = { s with clk := { s.clk with relockTries := some (n - 1) } } := by
  have h1 : ¬n ≤ 1 := by omega
  simp [pllRelockTryEnd, ht, hs, h1]

theorem pllRelockTryEnd_fails (hn : n ≤ 1) : pllRelockTryEnd false s = s.clockFailed := by
  simp [pllRelockTryEnd, ht, hs, hn]

/-- A state whose PLL a try has locked again. -/
def State.relocked (s : State) : State :=
  { s with
    clk := { s.clk.wantAll true with relockTries := none, pllLocked := true, dividersPending := true }
    stg := { s.stg with stopped := false } }.dropClockErr

theorem pllRelockTryEnd_relocks : pllRelockTryEnd true s = ((s.relocked.fatalEvent ⟨12, 0⟩ [2, 1]).enterLimp 5).landCheck := by
  simp [pllRelockTryEnd, ht, hs, State.relocked]

end

theorem State.relocked_sound (h : Sound s) : Sound s.relocked := h

/-- Limp mode, once entered, has its cause. -/
theorem State.enterLimp_limp (h : Sound s) (hl : s.fwc.limp = none) (cause : Nat) : (s.enterLimp cause).fwc.limp = some cause := by
  unfold State.enterLimp
  rw [if_neg (by simp [hl])]
  extract_lets _ u
  have hk := State.warn_keep (State.limpTick_keep (State.event_keep 0x0010 3 0x80 noObj [BitVec.ofNat 8 cause]
    (Keep.self (l := [.flash, .media, .sessions, .faults, .queues, .completions, .log]) (s := u) h) (of_decide_eq_true rfl))
      (of_decide_eq_true rfl)) (of_decide_eq_true rfl)
  exact hk.2.2 .limp (show Part.limp ∉ [Part.flash, .media, .sessions, .faults, .queues, .completions, .log] by decide)

/-- What follows a relock touches neither clocks nor the stage unit, and enters limp mode with cause 5. -/
theorem relocked_outcome (h : Sound s) :
    let t := ((s.fatalEvent ⟨12, 0⟩ [2, 1]).enterLimp 5).landCheck
    t.clk = s.clk ∧ t.stg.stopped = s.stg.stopped ∧ (s.fwc.limp = none → t.fwc.limp = some 5) := by
  have hf := State.fatalEvent_keep ⟨12, 0⟩ [2, 1] (Keep.self (l := [.flash, .media, .queues, .sessions, .faults, .completions, .log]) h)
    (of_decide_eq_true rfl)
  have hlimp := hf.2.2 .limp (show Part.limp ∉ [Part.flash, .media, .queues, .sessions, .faults, .completions, .log] by decide)
  have hall := State.landCheck_keep (State.enterLimp_keep 5 (State.fatalEvent_keep ⟨12, 0⟩ [2, 1]
    (Keep.self (l := [.flash, .media, .queues, .sessions, .faults, .completions, .log, .limp]) h) (of_decide_eq_true rfl)) (of_decide_eq_true rfl))
      (of_decide_eq_true rfl)
  have hclk := hall.2.2 .clock (show Part.clock ∉ [Part.flash, .media, .queues, .sessions, .faults, .completions, .log, .limp] by decide)
  have hstg := hall.2.2 .stage (show Part.stage ∉ [Part.flash, .media, .queues, .sessions, .faults, .completions, .log, .limp] by decide)
  refine ⟨hclk, ?_, fun hl => ?_⟩
  · have hst := congrArg Stg.stopped hstg
    exact hst
  · have he := State.enterLimp_limp hf.2.1 (hlimp.trans hl) 5
    have hland := State.landCheck_keep (Keep.self (l := [.media, .completions]) (State.enterLimp_keep 5
      (Keep.self (l := allParts) hf.2.1) (of_decide_eq_true rfl)).2.1) (of_decide_eq_true rfl)
    exact (hland.2.2 .limp (show Part.limp ∉ [Part.media, .completions] by decide)).trans he

/-- The clock-failed state keeps the clocks it begins with. -/
theorem State.clockFailed_clk (h : Sound s) : s.clockFailed.clk = { s.clk with relockTries := none, failed := true } := by
  unfold State.clockFailed
  extract_lets _ u v w
  have hu : Keep ⟨u.anchor, [.coaches, .dram, .port, .queues, .sessions, .answers, .faults, .completions, .log], u⟩ u := Keep.self h
  have hm : [.coaches, .dram, .port, .queues, .sessions, .answers, .faults, .completions, .log] ⊆
    (⟨u.anchor, [.coaches, .dram, .port, .queues, .sessions, .answers, .faults, .completions, .log], u⟩ : KeepCtx).touched := fun _ h => h
  have hv : Keep _ v := State.fatalEvent_keep _ _ hu
  have hw : Keep _ w := Keep.foldl hv fun t x ht =>
    Keep.foldl (Keep.foldl (State.faultRun_keep _ _ _ ht) fun _ _ hq => State.abortQuery_keep _ _ hq) fun _ _ hc => State.abortScan_keep _ _ hc
  exact (State.warn_keep hw).2.2 .clock (show Part.clock ∉ [Part.coaches, .dram, .port, .queues, .sessions, .answers, .faults, .completions, .log] by decide)

theorem State.clockFailed_limp (h : Sound s) : s.clockFailed.fwc.limp = s.fwc.limp :=
  (State.clockFailed_keep (Keep.self (l := [.clock, .coaches, .dram, .port, .queues, .sessions, .answers, .faults, .completions, .log]) h)
    (of_decide_eq_true rfl)).2.2 .limp
      (show Part.limp ∉ [Part.clock, .coaches, .dram, .port, .queues, .sessions, .answers, .faults, .completions, .log] by decide)

end Sys2Proof.Machine

namespace Sys2Proof.Proofs

open Sys2Proof.Machine Sys2Proof.Safety

/-- Settles O17: the counter takes its value, and the start's own event is the newest where none is held. -/
theorem stampStartLoadsTheCounter : Obligations.StampStartLoadsTheCounter := by
  refine fun s h h1 h2 h3 => ⟨fun e he hu hv hr hd => State.stampStage_le_highest he hu hv hr hd, fun v hv => ?_, State.startValue_of_jumpPolicy,
    fun hp hl p hc hh hm => State.startValue_of_ptpFirst hp hl hc hh hm⟩
  obtain ⟨ha, _⟩ := stampStart_loads h h1 h2 h3 hv (l := allParts) (of_decide_eq_true rfl)
  simp only [State.anchor, Prod.mk.injEq] at ha
  obtain ⟨_, ⟨hstage, hloaded, hexhausted⟩, _⟩ := ha
  exact ⟨_, rfl, hstage, hloaded, hexhausted, fun he => ⟨_, stampStart_newest h1 h2 h3 hv he, rfl, rfl, rfl⟩⟩

/-- Settles O18: the lock's condition holds, and a domain on the other source takes the wish. -/
theorem rootPllLocksDomainsSwitch : Obligations.RootPllLocksDomainsSwitch :=
  ⟨fun _ hp hf hl ht hc => congrArg Host.Outcome.next (rootPllLock_locks hp hf hl ht hc),
    fun _ _ hp hr => ⟨fun hd => congrArg Host.Outcome.next (domainSwitch_asks hp hr hd),
      fun hd => congrArg Host.Outcome.next (domainSwitch_asks hp hr hd), fun hd => congrArg Host.Outcome.next (domainSwitch_asks hp hr hd)⟩⟩

/-- Settles O19: loss of lock by its own state, and each try by the number left. -/
theorem lossOfRootPllAndItsTries : Obligations.LossOfRootPllAndItsTries := by
  refine ⟨fun s hp hl => ?_, fun n s h ht hs => ⟨fun hn => ?_, ?_, fun hn => ?_⟩, fun n b s ht hs => ?_⟩
  · rw [show exec .rootPllLoss s = .next (rootPllLoss s) from rfl, rootPllLoss_of_locked hp hl]
    exact ⟨_, rfl, rfl, by simp [Clk.wantAll], rfl, rfl, raiseError_fatal _ _⟩
  · exact congrArg Host.Outcome.next (pllRelockTryEnd_uses_try ht hs hn)
  · obtain ⟨hclk, hstopped, hlimp⟩ := relocked_outcome (State.relocked_sound h)
    refine ⟨_, congrArg Host.Outcome.next (pllRelockTryEnd_relocks ht hs), ?_, ?_, ?_, ?_, hstopped, hlimp⟩ <;> rw [hclk]
    · rfl
    · rfl
    · simp [State.relocked, State.dropClockErr, Clk.wantAll]
    · rfl
  · refine ⟨_, congrArg Host.Outcome.next (pllRelockTryEnd_fails ht hs hn), ?_, ?_, ?_, State.clockFailed_limp h⟩ <;> rw [State.clockFailed_clk h]
  · exact congrArg Host.Outcome.next (pllRelockTryEnd_of_powerLoss ht hs b)

end Sys2Proof.Proofs
end

section
/-! PROOFS. Builds of index generations, their switch, their end and the reload of a code layer (R244, R248, R261 to R266). -/

namespace Sys2Proof.Machine

open Sys2Proof.Safety

variable {s : State}

/-- A change of the elements with a key, as a choice for each element. -/
theorem updateIf_key {α : Type} (key : α → Nat) (k : Nat) (f : α → α) (l : List α) :
    updateIf (fun x => key x == k) f l = l.map fun x => if key x = k then f x else x := by
  simp [updateIf]

/-- A command of a session that takes it. -/
theorem State.sessCommand_of_takes {c : Ctrl} {sess : Nat} {x : Session} (h : s.openSess c sess = some x) (tag : Tag)
    (f : Session → State → State) : s.sessCommand c tag sess f = f x s := by
  rw [State.sessCommand, h]

/-- An admitted command of a session that takes it reaches its meaning. -/
theorem command_sessCommand_of_admits {tag : Tag} {c : Ctrl} {sess : Nat} {x : Session} (h : AdmitsSess tag c sess x s) (w : Serve)
    (f : Session → State → State) : (s.command tag w fun c s => s.sessCommand c tag sess f) = f x s := by
  obtain ⟨ha, hx⟩ := h
  rw [Proofs.command_of_admits ha, State.sessCommand_of_takes hx]

/-! ### INDEX BUILD and INDEX SWITCH (R261, R262, R265) -/

section
variable {tag : Tag} {c : Ctrl} {sess nsid : Nat} {x : Session} {n : Ns} (h : AdmitsSess tag c sess x s) (hn : s.ns? nsid = some n)
  (hk : n.kind = .vector)
include h hn hk

theorem indexBuild_of_no_quota (hw : writeQuota x nsid = false) (discard : Bool) :
    indexBuild tag sess nsid discard s = s.refuse tag 0x4A := by
  simp [indexBuild, command_sessCommand_of_admits h, hn, hk, hw]

theorem indexSwitch_eq : indexSwitch tag sess nsid s =
    if n.switching = none ∧ (∃ g ∈ n.gens, g.st = .ready) then s.updNs nsid fun n => { n with switching := some tag } else s.refuse tag 0x4B := by
  rw [indexSwitch, command_sessCommand_of_admits h, hn]
  dsimp only
  rw [if_neg (not_not.2 hk)]
  by_cases hc : n.switching = none ∧ ∃ g ∈ n.gens, g.st = .ready
  · refine (if_neg ?_).trans (if_pos hc).symm
    obtain ⟨hs, g, hg, hr⟩ := hc
    have hany : (n.gens.any fun g => g.st == .ready) = true := List.any_eq_true.2 ⟨g, hg, by simp [hr]⟩
    simp [hs, hany]
  · refine (if_pos ?_).trans (if_neg hc).symm
    cases hs : n.switching with
    | none => simpa [hs] using hc
    | some t => rfl

/-- The generations that a build finds, those READY left out where it is to discard them. -/
def keptGens (discard : Bool) (n : Ns) : List Gen := if discard then n.gens.filter fun g => g.st != .ready else n.gens

/-- A build that its session may ask for: refused for a third generation or for want of pool slots, else a generation in BUILDING. -/
theorem indexBuild_of_quota (hw : writeQuota x nsid = true) (hp : x.part.isSome = true) (he : s.stg.exhausted = false) (discard : Bool) :
    indexBuild tag sess nsid discard s =
      let kept := keptGens discard n
      let u := s.updNs nsid fun n => { n with gens := kept }
      if 2 ≤ kept.length then s.refuse tag 0x48
      else match u.placeLayer (layerGranules n.vec n.capacity) with
        | none => s.refuse tag 0x49
        | some rs =>
          (((u.updNs nsid fun m => { m with
              gens := kept ++ [⟨nextGenNum n.lastGen, .building, 0, [], [], [], false, false, rs, [], []⟩], lastGen := nextGenNum n.lastGen }).updSess sess
            fun x => { x with builds := x.builds ++ [(nsid, nextGenNum n.lastGen)] }).addBind sess (.build nsid (nextGenNum n.lastGen))).succeed tag
              (nextGenNum n.lastGen) 0 [] := by
  have hpn : x.part.isNone = false := by rw [← Option.not_isSome, hp]; rfl
  rw [indexBuild, command_sessCommand_of_admits h, hn]
  dsimp only
  rw [if_neg (not_not.2 hk), if_neg (by simp [hw]), if_neg (by simp [hpn]), if_neg (by simp [he])]
  rfl

end

/-! ### BUILD_END (R263, R264) -/

section
variable {nsid : Nat} {n : Ns} {g : Gen} {b : Built} (hn : s.ns? nsid = some n) (hg : (n.gens.find? fun g => g.st == .building) = some g)
  (hu : s.upkeep = true) (hb : s.buildBound nsid g.num = true)
include hn hg hu hb

theorem buildEnd_stops (hr : b.result = 3) : buildEnd nsid b s =
    if s.buildStops (s.buildDirty nsid g.num) n then s.endBuild nsid g.num 3 b.nodes.length b.skipped else s := by
  simp [buildEnd, hn, hg, hu, hb, hr]

/-- A build that has read its items ends READY with them. -/
theorem buildEnd_ready (hr : b.result = 0) (hok : builtOk n b = true) (hall : s.builtAll (s.buildDirty nsid g.num) n b = true)
    {items : List GenItem} {u : State} (hread : b.nodes.foldl (State.readItem (s.buildDirty nsid g.num) n) (some [], s) = (some items, u))
    (hid : ∀ i ∈ items, i.id ≠ 0) : buildEnd nsid b s =
      let g' := { g with st := .ready, entry := b.entry, items := items, codebook := fit (64 * n.vec.dim) b.codebook, codeLoaded := true }
      let g' := { g' with ranges := u.layerFor n g' }
      let w := (u.closeBuild.putCodeLayer n.vec g').writeLayers n g'
      (w.2.endBuild nsid g.num 0 items.length b.skipped).updNs nsid fun m => { m with
        gens := m.gens.map fun x => if x.num = g.num then { g' with sbs := w.1.1, codePages := w.1.2 } else x } := by
  have hany : ¬(items.any fun i => i.id == 0) = true := by simpa using hid
  rw [buildEnd, hn]
  dsimp only
  rw [hg]
  dsimp only
  rw [if_neg (by simp [hu, hb]), if_neg (by simp [hr]), if_neg (by simp [hr, hok, hall]), hread]
  dsimp only
  rw [if_neg hany]
  simp only [updateIf_key]

end

/-! ### The switch (R265) -/

/-- A generation's state after the switch to the READY one with a number. -/
def switchGen (num : Nat) (g : Gen) : Gen :=
  if g.st = .ready ∧ g.num = num then { g with st := .current } else if g.st = .current then { g with st := .retiring } else g

section
variable {nsid : Nat} {n : Ns} {tag : Tag} (hp : s.powered = true) (hn : s.ns? nsid = some n) (hs : n.switching = some tag)
include hp hn hs

theorem generationSwitch_of_none (hr : (n.gens.find? fun g => g.st == .ready) = none) :
    generationSwitch nsid s = (s.updNs nsid fun n => { n with switching := none }).refuse tag 0x4B := by
  rw [generationSwitch, hn]
  dsimp only
  rw [hs, hr]
  exact if_pos hp

theorem generationSwitch_of_ready {r : Gen} (hr : (n.gens.find? fun g => g.st == .ready) = some r) :
    generationSwitch nsid s =
      let u := s.updNs nsid fun n => { n with gens := n.gens.map (switchGen r.num), switching := none }
      ({ u with xlt := { u.xlt with markTags := u.xlt.markTags ++ [(tag, r.num)] } } : State).wantMark false := by
  rw [generationSwitch, hn]
  dsimp only
  rw [hs, hr]
  dsimp only
  rw [if_neg (by simp [hp])]
  refine congrArg (fun f : Gen → Gen =>
    let u := s.updNs nsid fun n => { n with gens := n.gens.map f, switching := none }
    ({ u with xlt := { u.xlt with markTags := u.xlt.markTags ++ [(tag, r.num)] } } : State).wantMark false) (funext fun g => ?_)
  cases g with
  | mk num st => cases st <;> simp [switchGen]

end

theorem generationFree_eq {nsid num : Nat} {g : Gen} (hg : s.gen? nsid num = some g) (hp : s.powered = true) : generationFree nsid num s =
    if g.st = .retiring ∧ s.pinned nsid num = false then s.updNs nsid fun n => { n with gens := n.gens.filter fun g => g.num != num } else s := by
  simp [generationFree, hg, hp, State.freeGen]

/-! ### CODE_LAYER_RELOAD (R266) -/

theorem codeLayerReload_of_readable {nsid num : Nat} {n : Ns} {g : Gen} {rs : List (Nat × Nat × Nat)} (hn : s.ns? nsid = some n)
    (hg : s.gen? nsid num = some g) (hp : s.powered = true) (hm : s.boot.mode = .ready) (hl : g.codeLoaded = false) (hst : g.st ≠ .building)
    (hr : s.placeLayer (layerGranules n.vec g.items.length) = some rs)
    (hw : ∀ w ∈ codeWords g, (s.word w).kind = 5 ∧ (s.word w).ns + 1 = nsid ∧ (s.word w).seq = num ∧ s.dieIn w.die = true) :
    codeLayerReload nsid num s =
      let ws := codeWords g
      let put := fun x : Gen => takeCodes n.vec (ws.flatMap fun w => fit 4096 (openData n.key (s.word w))) { x with codeLoaded := true, ranges := rs }
      let u := (pagesOf ws).foldl (fun s q => s.queueSense q.1 q.2.1 q.2.2.1 q.2.2.2) s
      let u := ws.foldl (fun s w => s.freeSeats (chanOf w.die) 1) u
      (u.putCodeLayer n.vec (put g)).updNs nsid fun n => { n with gens := n.gens.map fun x => if x.num = num then put x else x } := by
  have hok : ((codeWords g).all fun w => let d := s.word w; d.kind == 5 && d.ns + 1 == nsid && d.seq == num && s.dieIn w.die) = true := by
    refine List.all_eq_true.2 fun w hmem => ?_
    obtain ⟨hkind, hns, hseq, hdie⟩ := hw w hmem
    simp [hkind, hns, hseq, hdie]
  rw [codeLayerReload, hn, hg]
  dsimp only
  rw [if_pos (by simp [hp, hm, hl, hst]), if_pos hok, hr]
  simp only [updateIf_key]

end Sys2Proof.Machine

namespace Sys2Proof.Proofs

open Sys2Proof.Machine Sys2Proof.Safety

/-- Settles O47: each command by the lemma of its case. -/
theorem generationsAreBuiltSwitchedAndFreed : Obligations.GenerationsAreBuiltSwitchedAndFreed := by
  refine ⟨?_, ?_, ?_, ?_, ?_, ?_⟩
  · intro tag c sess nsid x n s h hn hk
    refine ⟨fun hw d => congrArg Host.Outcome.next (indexBuild_of_no_quota h hn hk hw d), ?_, congrArg Host.Outcome.next (indexSwitch_eq h hn hk)⟩
    intro hw hp he discard kept u num
    have hx := indexBuild_of_quota h hn hk hw hp he discard
    refine ⟨fun hlen => ?_, fun hlen hplace => ?_, fun hlen rs hplace => ?_⟩
    · exact congrArg Host.Outcome.next (hx.trans (if_pos hlen))
    · refine congrArg Host.Outcome.next ((hx.trans (if_neg (not_le.2 hlen))).trans ?_)
      rw [show (s.updNs nsid fun m => { m with gens := keptGens discard n }).placeLayer (layerGranules n.vec n.capacity) = none from hplace]
    · refine congrArg Host.Outcome.next ((hx.trans (if_neg (not_le.2 hlen))).trans ?_)
      rw [show (s.updNs nsid fun m => { m with gens := keptGens discard n }).placeLayer (layerGranules n.vec n.capacity) = some rs from hplace]
      rfl
  · intro nsid n g b s hn hg hu hb
    exact ⟨fun hr => congrArg Host.Outcome.next (buildEnd_stops hn hg hu hb hr),
      fun hr hok hall items u hread hid => congrArg Host.Outcome.next (buildEnd_ready hn hg hu hb hr hok hall hread hid)⟩
  · intro tag nsid n r s hp hn hs hr
    exact congrArg Host.Outcome.next (generationSwitch_of_ready hp hn hs hr)
  · intro tag nsid n s hp hn hs hr
    exact congrArg Host.Outcome.next (generationSwitch_of_none hp hn hs hr)
  · intro nsid num g s hg hp
    exact congrArg Host.Outcome.next (generationFree_eq hg hp)
  · intro nsid num n g rs s hn hg hp hm hl hst hr ws hw
    exact congrArg Host.Outcome.next (codeLayerReload_of_readable hn hg hp hm hl hst hr hw)

end Sys2Proof.Proofs
end

section
/-! PROOFS. Writes that pass their checks, the dirty cap and the flush (R334, R340, R342, R343, R398, R411, R503). -/

namespace Sys2Proof.Machine

open Sys2Proof.Safety

variable {s : State}

/-! ### The checks of a write command (R503) -/

/-- A write command's answer after the gate: the status that holds it, or its meaning. -/
def State.gated (s : State) (tag : Tag) (n : Ns) (f : Ns → State → State) : State :=
  match writeGate n s.checkFull with
  | some st => s.checkFull.fail tag st
  | none => f n s.checkFull

section
variable {tag : Tag} {c : Ctrl} {nsid : Nat} (h : Admits tag c s)
include h

theorem writeCommand_of_no_ns (hn : s.ns? nsid = none) (prinfo : Nat) (ranges : List (Nat × Nat)) (field : Ns → Option Status)
    (f : Ns → State → State) : s.writeCommand tag nsid prinfo ranges field f = s.fail tag .invalidNs := by
  simp [State.writeCommand, Proofs.command_of_admits h, hn]

variable {n : Ns} (hn : s.ns? nsid = some n)
include hn

theorem writeCommand_of_prinfo {prinfo : Nat} (hp : prinfo ≠ 0) (ranges : List (Nat × Nat)) (field : Ns → Option Status)
    (f : Ns → State → State) : s.writeCommand tag nsid prinfo ranges field f = s.fail tag .invalidField := by
  simp [State.writeCommand, Proofs.command_of_admits h, hn, hp]

theorem writeCommand_past_end {ranges : List (Nat × Nat)} (hr : (ranges.all fun r => inRange n r.1 r.2) = false)
    (field : Ns → Option Status) (f : Ns → State → State) : s.writeCommand tag nsid 0 ranges field f = s.fail tag .lbaRange := by
  rw [State.writeCommand, Proofs.command_of_admits h, hn]
  dsimp only
  rw [if_neg (not_not.2 rfl), if_pos (by simp [hr])]

/-- A write command that passes the checks before the gate. -/
theorem writeCommand_gated {ranges : List (Nat × Nat)} (hr : (ranges.all fun r => inRange n r.1 r.2) = true)
    {field : Ns → Option Status} (hf : field n = none) (f : Ns → State → State) :
    s.writeCommand tag nsid 0 ranges field f = s.gated tag n f := by
  rw [State.writeCommand, Proofs.command_of_admits h, hn]
  dsimp only
  rw [if_neg (not_not.2 rfl), if_neg (by simp [hr]), hf]
  rfl

end

/-- The blocks of a plain command lie within the namespace, or past its end. -/
theorem inRange_single (n : Ns) (slba nlb : Nat) :
    ([(slba, nlb + 1)].all fun r => inRange n r.1 r.2) = decide ((slba + nlb + 1) * n.lba ≤ n.size) := by
  simp [inRange, Nat.add_assoc]

/-! ### The write buffer (R5, R156, R340) -/

/-- Pieces whose slots no other write names stay as they are. -/
theorem State.openPieces_of_quiet {ns : Nat} {ps : List (Nat × Nat × Bytes)} (h : ∀ p ∈ ps, s.slotInFlight ns p.1 p.2.1 = false) :
    s.openPieces ns ps = (ps, { s with xlt := { s.xlt with fresh := s.xlt.fresh ++ ps.map fun p => (ns, p.1, p.2.1) } }) := by
  have hfold : ∀ (l : List (Nat × Nat × Bytes)) (acc : List (Nat × Nat × Bytes)), (∀ p ∈ l, s.slotInFlight ns p.1 p.2.1 = false) →
      l.foldl (fun a p => if s.slotInFlight ns p.1 p.2.1 then
        let (b, t) := a.2.drawBytes 4096
        (a.1 ++ [(p.1, p.2.1, b)], t)
      else (a.1 ++ [p], a.2)) (acc, s) = (acc ++ l, s) := by
    intro l
    induction l with
    | nil => simp
    | cons p l ih =>
      intro acc hl
      rw [List.foldl_cons, if_neg (by simp [hl p List.mem_cons_self]), ih _ fun q hq => hl q (List.mem_cons_of_mem _ hq)]
      simp
  have hf := hfold ps [] h
  unfold State.openPieces
  split
  next l t he =>
    obtain ⟨rfl, rfl⟩ := Prod.mk.inj (he.symm.trans hf)
    rfl

section
variable {w : WaitWrite} {ps : List (Nat × Nat × Bytes)} {v : State} (ho : s.openPieces w.ns w.pieces = (ps, v)) (hps : ps ≠ [])
include ho hps

theorem State.offerWrite_taken (hw : v.xlt.capWaits = []) (ha : v.acknowledges = true) (hf : v.fits (v.newUnits w.ns ps) = true) :
    s.offerWrite w = (v.bufferWrite none w.ns ps).bufferDone { w with pieces := ps } := by
  simp [State.offerWrite, ho, hps, hw, ha, hf, State.takeWrite]

theorem State.offerWrite_waits (hw : v.xlt.capWaits ≠ [] ∨ v.acknowledges = false ∨ v.fits (v.newUnits w.ns ps) = false) :
    s.offerWrite w =
      let u := v.noteWrite w.ns (ps.map fun p => p.1 * 4 + p.2.1)
      { u with xlt := { u.xlt with capWaits := u.xlt.capWaits ++ [{ w with pieces := ps }] } } := by
  have hc : (v.xlt.capWaits.isEmpty && v.acknowledges && v.fits (v.newUnits w.ns ps)) = false := by
    rcases hw with hw | hw | hw <;> simp [hw]
  simp [State.offerWrite, ho, hps, hc]

end

theorem writeCapRelease_eq {w : WaitWrite} {rest : List WaitWrite} (hp : s.powered = true) (hw : s.xlt.capWaits = w :: rest) :
    writeCapRelease s = if s.acknowledges && s.fits (s.newUnits w.ns w.pieces)
      then { s with xlt := { s.xlt with capWaits := rest } }.takeWrite w else s := by
  rw [writeCapRelease, hw]
  simp only [hp, Bool.true_and]

/-! ### FLUSH (R342) -/

/-- A flush waits for what was written before it, of a namespace or of all. -/
def State.flushWaits (s : State) (tag : Tag) (ns : Option Nat) : State :=
  ({ s with xlt := { s.xlt with landWaits := s.xlt.landWaits ++ [⟨tag, s.xlt.bufSeq, ns, none, [], []⟩] } } : State).landCheck

theorem flush_all {tag : Tag} {c : Ctrl} (h : Admits tag c s) : flush tag 0xFFFFFFFF s = s.flushWaits tag none := by
  rw [flush, Proofs.command_of_admits h]
  exact if_pos rfl

theorem flush_ns {tag : Tag} {c : Ctrl} {nsid : Nat} {n : Ns} (h : Admits tag c s) (hn : s.ns? nsid = some n) (hf : n.formatting = none)
    (ha : nsid ≠ 0xFFFFFFFF) : flush tag nsid s = s.flushWaits tag (some (nsid - 1)) := by
  rw [flush, Proofs.command_of_admits h]
  dsimp only
  rw [if_neg ha, hn]
  exact if_neg (by simp [hf])

end Sys2Proof.Machine

namespace Sys2Proof.Proofs

open Sys2Proof.Machine Sys2Proof.Safety

/-- Settles O48: the checks in their order, then what is offered, taken, released and flushed. -/
theorem writesEnterTheBufferOrWait : Obligations.WritesEnterTheBufferOrWait := by
  refine ⟨?_, fun tag c s h => congrArg Host.Outcome.next (flush_all h), fun w s => ⟨State.openPieces_of_quiet, fun ps v ho hps => ⟨?_, ?_⟩,
    fun rest hp hw => congrArg Host.Outcome.next (writeCapRelease_eq hp hw)⟩⟩
  · intro tag c nsid slba nlb data s h
    refine ⟨fun hn pr fua => congrArg Host.Outcome.next (writeCommand_of_no_ns h hn _ _ _ _), fun n hn => ⟨?_, ?_, ?_, ?_, ?_⟩⟩
    · exact fun pr fua hp => congrArg Host.Outcome.next (writeCommand_of_prinfo h hn hp _ _ _)
    · intro fua hlt
      refine congrArg Host.Outcome.next (writeCommand_past_end h hn ?_ _ _)
      rw [inRange_single]
      exact decide_eq_false (not_le.2 hlt)
    · intro hr hm u ps go
      have hrange := (inRange_single n slba nlb).trans (decide_eq_true hr)
      have hmdts : overMdts n (nlb + 1) = false := decide_eq_false (not_lt.2 hm)
      have hgo : ∀ f : Ns → State → State, s.gated tag n f = go (writeGate n u) (f n u) := by
        intro f
        unfold State.gated
        split <;> simp [go, u, *]
      refine ⟨fun hd fua => ?_, fun hd sgl hsgl => ?_, ?_⟩
      · exact congrArg Host.Outcome.next ((writeCommand_gated h hn hrange (by simp [hmdts, hd]) _).trans (hgo _))
      · refine congrArg Host.Outcome.next ((writeCommand_gated h hn hrange ?_ _).trans (hgo _))
        cases sgl with
        | none => simp [hmdts, hd]
        | some l => simp [hmdts, not_lt.2 hd, not_lt.2 (hsgl l rfl)]
      · exact congrArg Host.Outcome.next ((writeCommand_gated h hn hrange rfl _).trans (hgo _))
    · intro nr dealloc hd hr
      refine congrArg Host.Outcome.next ((writeCommand_gated h hn hr (by simp [hd]) _).trans ?_)
      unfold State.gated
      split <;> simp [*]
    · exact fun hf ha => congrArg Host.Outcome.next (flush_ns h hn hf ha)
  · exact fun hw ha hf => State.offerWrite_taken ho hps hw ha hf
  · exact fun hw => State.offerWrite_waits ho hps hw

end Sys2Proof.Proofs
end

section
/-! PROOFS. Admin commands: log pages, Identify, features, event requests, Abort (R40, R212, R225, R237, R397 to R410, R421, R422, R487, R495). -/

namespace Sys2Proof.Machine

open Sys2Proof.Safety

variable {s : State}

/-! ### Pages with a CRC (R127, R410) -/

theorem length_toLe (n x : Nat) : (toLe n x).length = n := by
  induction n generalizing x with
  | zero => rfl
  | succ n ih => simp [toLe, ih]

theorem leNat_toLe_of_lt {n x : Nat} (h : x < 256 ^ n) : leNat (toLe n x) = x := by
  induction n generalizing x with
  | zero => simp [toLe, leNat, Nat.lt_one_iff.1 h]
  | succ n ih =>
    rw [pow_succ] at h
    rw [toLe, leNat, ih (by omega), BitVec.toNat_ofNat]
    omega

theorem length_fit (n : Nat) (b : Bytes) : (fit n b).length = n := by
  simp [fit, zeros]; omega

/-- A sealed page has its length and ends with the CRC of the bytes before it. -/
theorem sealPage_sealed (b : Bytes) : (sealPage 512 b).length = 512 ∧ field (sealPage 512 b) 508 4 = crc32c ((sealPage 512 b).take 508) := by
  have hl : (fit 508 b).length = 508 := length_fit 508 b
  have hd : (sealPage 512 b).drop 508 = toLe 4 (crc32c (fit 508 b)) := List.drop_left' hl
  have ht : (sealPage 512 b).take 508 = fit 508 b := List.take_left' hl
  refine ⟨?_, ?_⟩
  · rw [sealPage, withCrc, List.length_append, length_toLe, hl]
  · rw [field, slice, hd, ht, List.take_of_length_le (length_toLe ..).le, leNat_toLe_of_lt (BitVec.isLt _)]

/-! ### Fields of a command's dword -/

theorem bits_toNat (v : BitVec 32) {hi lo n : Nat} (h : hi + 1 - lo = n) : bits v.toNat hi lo = (v.extractLsb' lo n).toNat := by
  rw [bits, h, BitVec.extractLsb'_toNat, Nat.shiftRight_eq_div_pow]

theorem bit_toNat (v : BitVec 32) (i : Nat) : bit v.toNat i = v.getLsbD i := by
  rw [bit, BitVec.getLsbD, Nat.testBit_eq_decide_div_mod_eq]
  rfl

/-! ### Completions of a command that is admitted -/

/-- A completion to a controller that lives joins the batch. -/
theorem State.completeWith_done {tag : Tag} {c : Ctrl} (h : s.ctrl? tag.ctrl = some c) (st : Status) (dw0 dw1 : Nat) (data : Bytes) :
    (s.completeWith tag st dw0 dw1 data).que.done = s.que.done ++ [⟨tag, st.sct, st.sc, st.dnr, BitVec.ofNat 32 dw0, BitVec.ofNat 32 dw1, data⟩] := by
  rw [State.completeWith, if_pos (by rw [h]; rfl)]

theorem State.completeWith_ctrls (s : State) (tag : Tag) (st : Status) (dw0 dw1 : Nat) (data : Bytes) :
    (s.completeWith tag st dw0 dw1 data).que.ctrls = s.que.ctrls := by
  unfold State.completeWith
  split <;> rfl

/-- A completion sees the queues alone. -/
theorem State.completeWith_que_congr {u : State} (h : u.que = s.que) (tag : Tag) (st : Status) (dw0 dw1 : Nat) (data : Bytes) :
    (u.completeWith tag st dw0 dw1 data).que = (s.completeWith tag st dw0 dw1 data).que := by
  have hc : u.ctrl? tag.ctrl = s.ctrl? tag.ctrl := by rw [State.ctrl?, State.ctrl?, h]
  rw [State.completeWith, State.completeWith, hc, h]
  split
  · rfl
  · exact h

/-- A change of a controller that keeps its number leaves it where it is found. -/
theorem State.updCtrl_ctrl? {id k : Nat} {c : Ctrl} (h : s.ctrl? k = some c) {f : Ctrl → Ctrl} (hf : ∀ x, (f x).id = x.id) :
    ∃ d, (s.updCtrl id f).ctrl? k = some d := by
  have hp : ((fun x : Ctrl => x.id == k) ∘ fun x => if x.id == id then f x else x) = fun x => x.id == k := by
    funext x
    simp only [Function.comp]
    split
    · rw [hf]
    · rfl
  have hm : (s.updCtrl id f).ctrl? k = (s.ctrl? k).map fun x => if x.id == id then f x else x := by
    show List.find? _ (List.map _ _) = _
    rw [List.find?_map, hp]
    rfl
  exact ⟨_, by rw [hm, h]; rfl⟩

/-- The changed controller is the only one of its number. -/
theorem State.updCtrl_all {id : Nat} {f : Ctrl → Ctrl} {P : Ctrl → Prop} (hP : ∀ x, P (f x)) :
    ∀ k ∈ (s.updCtrl id f).que.ctrls, k.id = id → P k := by
  intro k hk hid
  obtain ⟨x, -, rfl⟩ := List.mem_map.1 hk
  by_cases hx : (x.id == id) = true
  · rw [if_pos hx]
    exact hP x
  · rw [if_neg hx] at hid
    exact absurd (beq_iff_eq.2 hid) hx

/-- What a log page or Identify leaves: its data in a successful completion, and the page's events free to post where RAE is clear. -/
def State.Gave (s : State) (tag : Tag) (c : Ctrl) (lid : Nat) (rae : Bool) (data : Bytes) (t : State) : Prop :=
  t.que.done = s.que.done ++ [⟨tag, 0, 0, false, 0, 0, data⟩] ∧ t.que.ctrls = (s.pageRead c lid rae).que.ctrls ∧ t.freeCtr ≤ s.freeCtr + 1

/-- A state in which a command has drawn its free bytes. -/
def State.drawn (s : State) : State := { s with freeCtr := s.freeCtr + 1 }

section
variable {tag : Tag} {c : Ctrl} (h : Admits tag c s)
include h

theorem Admits.ctrl : s.ctrl? tag.ctrl = some c := h.2.1

theorem succeed_gave {u : State} (hq : u.que = s.que) (hf : u.freeCtr ≤ s.freeCtr + 1) (data : Bytes) : s.Gave tag c 0 true data (u.succeed tag 0 0 data) := by
  have hc : u.ctrl? tag.ctrl = some c := by
    rw [State.ctrl?, hq]
    exact Admits.ctrl h
  refine ⟨?_, ?_, by rwa [State.succeed_freeCtr]⟩
  · exact (State.completeWith_done hc .ok 0 0 data).trans (by rw [hq]; rfl)
  · exact (State.completeWith_ctrls u tag .ok 0 0 data).trans (by rw [hq]; rfl)

theorem givePage_gave {u : State} (hq : u.que = s.que) (hf : u.freeCtr ≤ s.freeCtr + 1) (lid offset len : Nat) (rae stamped : Bool) (page : Bytes) :
    s.Gave tag c lid rae (slice page offset len) (u.givePage c tag lid offset len rae stamped page) := by
  have hread : (u.pageRead c lid rae).que = (s.pageRead c lid rae).que ∧ (u.pageRead c lid rae).freeCtr = u.freeCtr ∧
      (u.pageRead c lid rae).que.done = s.que.done ∧ ∃ d, (u.pageRead c lid rae).ctrl? tag.ctrl = some d := by
    have hc : u.ctrl? tag.ctrl = some c := by
      rw [State.ctrl?, hq]
      exact Admits.ctrl h
    cases rae with
    | true => exact ⟨hq, rfl, congrArg Que.done hq, c, hc⟩
    | false =>
      refine ⟨?_, rfl, show u.que.done = _ by rw [hq], State.updCtrl_ctrl? hc fun _ => rfl⟩
      show Que.mk .. = Que.mk ..
      rw [hq]
  obtain ⟨hrq, hrf, hrd, d, hrc⟩ := hread
  have hgave : s.Gave tag c lid rae (slice page offset len) ((u.pageRead c lid rae).succeed tag 0 0 (slice page offset len)) := by
    refine ⟨?_, ?_, by rw [State.succeed_freeCtr, hrf]; exact hf⟩
    · exact (State.completeWith_done hrc .ok 0 0 _).trans (by rw [hrd]; rfl)
    · exact (State.completeWith_ctrls _ tag .ok 0 0 _).trans (by rw [hrq])
  cases stamped with
  | true => exact hgave
  | false => exact hgave

/-! ### Log pages (R409, R410) -/

/-- A page of the module's own, from the present state. -/
theorem logCommand_gives (lid offset len : Nat) (rae stamped : Bool) (page : State → Bytes) :
    s.Gave tag c lid rae (slice (page s) offset len) (s.logCommand tag lid fun c s => s.givePage c tag lid offset len rae stamped (page s)) := by
  rw [State.logCommand, Proofs.command_of_admits h]
  exact givePage_gave h rfl (Nat.le_succ _) ..

omit h in
theorem getLogPageTimetable_summary (lsi offset len : Nat) (rae : Bool) : getLogPageTimetable tag 0 lsi offset len rae s =
    s.logCommand tag 0xD4 fun c s => s.givePage c tag 0xD4 offset len rae true s.pageSummary := by
  refine congrArg (s.logCommand tag 0xD4) (funext fun c => funext fun s => ?_)
  rw [if_neg (by omega), if_neg (by omega), List.append_nil]

/-- A standard page, over free bytes. -/
theorem logCommand_gives_drawn (lid offset len : Nat) (rae : Bool) (page : Bytes) :
    s.Gave tag c lid rae (slice page offset len) (s.drawn.givePage c tag lid offset len rae false page) :=
  givePage_gave h (u := s.drawn) rfl (le_refl _) ..

/-- The standard pages, over free bytes. -/
theorem getLogPage_standard (nsid offset len : Nat) (rae : Bool) : ∃ free,
    getLogPage tag 1 nsid offset len rae s = s.drawn.givePage c tag 1 offset len rae false (s.pageErrors free) ∧
    (nsid = 0 ∨ nsid = allNs → getLogPage tag 2 nsid offset len rae s = s.drawn.givePage c tag 2 offset len rae false (s.pageSmart free)) ∧
    getLogPage tag 3 nsid offset len rae s = s.drawn.givePage c tag 3 offset len rae false s.pageSlot ∧
    getLogPage tag 4 nsid offset len rae s = s.drawn.givePage c tag 4 offset len rae false (fit 4096 (c.changedNs.flatMap (toLe 4))) ∧
    getLogPage tag 5 nsid offset len rae s = s.drawn.givePage c tag 5 offset len rae false (pageEffects free) := by
  simp only [getLogPage, State.logCommand, Proofs.command_of_admits h, State.drawBytes]
  refine ⟨(List.range 4096).map (Config.freeByte s.freeCtr), rfl, fun hn => ?_, rfl, rfl, rfl⟩
  rw [if_pos (by simpa using hn)]
  rfl

theorem getLogPage_unlisted (hd : c.discovery = false) {lid : Nat} (hl : lid ∉ [0x01, 0x02, 0x03, 0x04, 0x05, 0xD0, 0xD1, 0xD2, 0xD3, 0xD4])
    (nsid offset len : Nat) (rae : Bool) : getLogPage tag lid nsid offset len rae s = s.drawn.fail tag .invalidLogPage := by
  unfold getLogPage
  split
  · simp at hl
  · simp at hl
  · simp at hl
  · simp at hl
  · simp at hl
  · rw [State.logCommand, Proofs.command_of_admits h]
    dsimp only [State.drawBytes]
    split
    · simp at hl
    · simp at hl
    · simp at hl
    · simp at hl
    · simp at hl
    · rw [hd]
      rfl
    · rfl

end

/-! ### Identify (R397, R400) -/

section
variable {tag : Tag} {c : Ctrl} (h : Admits tag c s)
include h

theorem identify_controller (nsid : Nat) : ∃ free, s.Gave tag c 0 true (s.identifyController c free) (identify tag 1 nsid s) := by
  rw [identify, Proofs.command_of_admits h]
  exact ⟨_, succeed_gave h (u := s.drawn.nextCycle) rfl (le_refl _) _⟩

theorem identify_ns {nsid : Nat} {n : Ns} (hn : s.ns? nsid = some n) : ∃ free, s.Gave tag c 0 true (identifyNamespace n free) (identify tag 0 nsid s) ∧
    s.Gave tag c 0 true (identifyNamespace n free) (identify tag 0x11 nsid s) ∧ s.Gave tag c 0 true (nsDescriptors free) (identify tag 3 nsid s) := by
  have hd : s.drawn.ns? nsid = some n := hn
  simp only [identify, Proofs.command_of_admits h, State.drawBytes]
  refine ⟨(List.range 4096).map (Config.freeByte s.freeCtr), ?_, ?_, ?_⟩
  all_goals
    rw [show ({ s with freeCtr := s.freeCtr + 1 } : State).ns? nsid = some n from hn]
    exact succeed_gave h (u := s.drawn) rfl (le_refl _) _

theorem identify_list {cns : Nat} (hc : cns ∈ [0x02, 0x10]) (nsid : Nat) :
    s.Gave tag c 0 true (fit 4096 (((s.ns.list.map fun n => n.nsid).filter fun k => decide (nsid < k)).flatMap (toLe 4))) (identify tag cns nsid s) := by
  rw [identify, Proofs.command_of_admits h]
  have hc : cns = 0x02 ∨ cns = 0x10 := by simpa using hc
  obtain rfl | rfl := hc
  · exact succeed_gave h (u := s.drawn) rfl (le_refl _) _
  · exact succeed_gave h (u := s.drawn) rfl (le_refl _) _

theorem identify_unlisted {cns : Nat} (hc : cns ∉ [0x00, 0x01, 0x02, 0x03, 0x10, 0x11]) (nsid : Nat) :
    identify tag cns nsid s = s.drawn.fail tag .invalidField := by
  rw [identify, Proofs.command_of_admits h]
  dsimp only
  split
  iterate 6 simp at hc
  rfl

/-! ### Features (R407) -/

omit h in
/-- The records are read from the configuration memory alone. -/
theorem readRecords_of_cfg {u : State} (hc : u.boot.cfg = s.boot.cfg) (fuel a : Nat) : readRecords u fuel a = readRecords s fuel a := by
  have hb : u.cfgBytes = s.cfgBytes := by
    funext a n
    rw [State.cfgBytes, State.cfgBytes, hc]
  induction fuel generalizing a with
  | zero => rfl
  | succ fuel ih =>
    rw [readRecords, readRecords, hb]
    simp only [ih]

omit h in
theorem State.recordOf_drawn (k : Nat) : s.drawn.recordOf k = s.recordOf k := by
  rw [State.recordOf, State.standing, State.records, readRecords_of_cfg (u := s.drawn) (s := s) rfl]
  rfl

omit h in
theorem State.featureDefault_drawn (fid n : Nat) : s.drawn.featureDefault fid n = s.featureDefault fid n := by
  unfold State.featureDefault
  simp only [State.recordOf_drawn]
  split <;> rfl

theorem getFeatures_unknown {fid sel : Nat} (hk : knownFeature fid = false ∨ 3 < sel) : getFeatures tag fid sel s = s.fail tag .invalidField := by
  rw [getFeatures, Proofs.command_of_admits h, if_pos (by simpa using hk)]

theorem getFeatures_now {fid : Nat} (hk : knownFeature fid = true) : getFeatures tag fid 0 s = s.succeed tag (s.featureNow c fid) 0 [] := by
  rw [getFeatures, Proofs.command_of_admits h, if_neg (by simp [hk]), if_pos rfl]

theorem getFeatures_capabilities {fid : Nat} (hk : knownFeature fid = true) :
    getFeatures tag fid 3 s = s.succeed tag (if fid = 0x06 ∨ fid = 0xE2 then 0 else 4) 0 [] := by
  rw [getFeatures, Proofs.command_of_admits h, if_neg (by simp [hk]), if_neg (by decide), if_pos rfl]
  simp only [Bool.or_eq_true, decide_eq_true_eq]

theorem getFeatures_default {fid sel : Nat} (hk : knownFeature fid = true) (hs : sel = 1 ∨ sel = 2) :
    getFeatures tag fid sel s = s.drawn.succeed tag (s.featureDefault fid (Config.freeNat s.freeCtr)) 0 [] := by
  rw [getFeatures, Proofs.command_of_admits h, if_neg (by simp [hk]; omega), if_neg (by omega), if_neg (by omega), State.drawNat]
  exact congrArg (fun n => s.drawn.succeed tag n 0 []) (State.featureDefault_drawn fid _)

theorem setCommand_sv (f : Ctrl → State → State) : s.setCommand tag true f = s.fail tag .notSaveable := by
  rw [State.setCommand, Proofs.command_of_admits h, if_pos rfl]

theorem setCommand_of_admits (f : Ctrl → State → State) : s.setCommand tag false f = f c s := by
  rw [State.setCommand, Proofs.command_of_admits h, if_neg Bool.false_ne_true]

end

section
variable (tag : Tag) (c : Ctrl) (v : BitVec 32)

theorem setFeature_unknown {fid : Nat} (hk : knownFeature fid = false) (v : Nat) : setFeature tag fid v c s = s.fail tag .invalidField := by
  unfold setFeature
  split
  iterate 10 simp [knownFeature] at hk
  rfl

/-- Feature 0xE1 is what Get Features then returns. -/
theorem setSliceFeature_takes (hv : sliceOk v.toNat = true) :
    (setSliceFeature tag v.toNat s).featureNow c 0xE1 = (v.extractLsb' 16 1).toNat * 65536 + (v.extractLsb' 0 15).toNat ∧
      (setSliceFeature tag v.toNat s).ses.list = s.ses.list ∧ (setSliceFeature tag v.toNat s).ses.parts = s.ses.parts := by
  have hses : (setSliceFeature tag v.toNat s).ses = { s.ses with slice := (v.extractLsb' 0 15).toNat, pack := (v.extractLsb' 16 1).toNat } := by
    rw [setSliceFeature, if_neg (by simp [hv]), State.succeed_ses, bits_toNat v rfl, bits_toNat v rfl]
  simp only [State.featureNow, hses, and_self]

/-- Feature 0xE3 is what Get Features then returns. -/
theorem setPolicyFeature_takes (hv : 16 ≤ (v.extractLsb' 16 16).toNat) :
    (setPolicyFeature tag v.toNat s).featureNow c 0xE3 =
        (v.extractLsb' 16 16).toNat * 65536 + (v.extractLsb' 8 3).toNat * 256 + (v.extractLsb' 0 1).toNat ∧
      (setPolicyFeature tag v.toNat s).ses.list = s.ses.list := by
  have hses : (setPolicyFeature tag v.toNat s).ses =
      { s.ses with peerWait := (v.extractLsb' 16 16).toNat, hopRetries := (v.extractLsb' 8 3).toNat, strict := v.getLsbD 0 } := by
    rw [setPolicyFeature, bits_toNat v (n := 16) rfl, if_neg (by omega), State.succeed_ses, bits_toNat v rfl, bit_toNat]
  have hbit : (if v.getLsbD 0 then 1 else 0) = (v.extractLsb' 0 1).toNat := by
    rw [← bits_toNat v (hi := 0) (lo := 0) rfl, ← bit_toNat]
    rw [bit, bits, Nat.zero_add, Nat.sub_zero, pow_one]
    obtain h0 | h1 := Nat.mod_two_eq_zero_or_one (v.toNat / 2 ^ 0)
    · rw [h0]
      rfl
    · rw [h1]
      rfl
  simp only [State.featureNow, hses, hbit, and_self]

/-- Feature 0xE4 is what Get Features then returns. -/
theorem setWindowFeature_takes (hv : (v.extractLsb' 0 12).toNat ≤ 3600) :
    (setWindowFeature tag v.toNat s).featureNow c 0xE4 = (v.extractLsb' 0 12).toNat ∧ (setWindowFeature tag v.toNat s).ses.list = s.ses.list := by
  have hses : (setWindowFeature tag v.toNat s).ses = { s.ses with window := (v.extractLsb' 0 12).toNat } := by
    rw [setWindowFeature, bits_toNat v (n := 12) rfl, if_neg (by omega), State.succeed_ses]
  simp only [State.featureNow, hses, and_self]

theorem State.setYoke_servo (s : State) (y : Yoke) : (s.setYoke y).stg.ptpDomain = s.stg.ptpDomain ∧ (s.setYoke y).stg.yokeEn = s.stg.yokeEn ∧
    (s.setYoke y).stg.ptpTrim = s.stg.ptpTrim ∧ (s.setYoke y).stg.lineTrim = s.stg.lineTrim := by
  unfold State.setYoke
  split <;> exact ⟨rfl, rfl, rfl, rfl⟩

/-- Feature 0xE0 sets domain, references of the trim and the yoke, which is due to be DISABLED where it is not enabled. -/
theorem setYokeFeature_takes (hv : (v.extractLsb' 8 8).toNat ≤ 127) : (setYokeFeature tag v.toNat s).stg.ptpDomain = (v.extractLsb' 8 8).toNat ∧
    (setYokeFeature tag v.toNat s).stg.yokeEn = (v.getLsbD 0 && s.stg.capable) ∧ (setYokeFeature tag v.toNat s).stg.ptpTrim = v.getLsbD 1 ∧
    (setYokeFeature tag v.toNat s).stg.lineTrim = v.getLsbD 2 ∧
    ((v.getLsbD 0 && s.stg.capable) = false → (setYokeFeature tag v.toNat s).stg.yokeSoon = .disabled) := by
  rw [setYokeFeature, bits_toNat v (n := 8) rfl, bit_toNat, bit_toNat, bit_toNat, if_neg (by omega)]
  extract_lets _ g0 g s2 s3
  have hg : g.ptpDomain = g0.ptpDomain ∧ g.yokeEn = g0.yokeEn ∧ g.ptpTrim = g0.ptpTrim ∧ g.lineTrim = g0.lineTrim := by
    simp only [g]
    split
    · exact ⟨rfl, rfl, rfl, rfl⟩
    · exact ⟨rfl, rfl, rfl, rfl⟩
  have hs : s3.stg.ptpDomain = g.ptpDomain ∧ s3.stg.yokeEn = g.yokeEn ∧ s3.stg.ptpTrim = g.ptpTrim ∧ s3.stg.lineTrim = g.lineTrim := by
    simp only [s3]
    split
    · exact s2.setYoke_servo .disabled
    · split
      · exact s2.setYoke_servo .free
      · exact ⟨rfl, rfl, rfl, rfl⟩
  obtain ⟨hdom, hen, hptp, hline⟩ := hs
  obtain ⟨gdom, gen, gptp, gline⟩ := hg
  rw [State.succeed_stg]
  refine ⟨hdom.trans gdom, hen.trans gen, hptp.trans gptp, hline.trans gline, fun hoff => ?_⟩
  have hs3 : s3 = s2.setYoke .disabled := if_pos (by rw [hoff]; rfl)
  rw [hs3, State.setYoke_yokeSoon]

end

section
variable {tag : Tag} {c : Ctrl} (h : Admits tag c s)
include h

/-- A change of the controller with a successful answer: every controller of that number has it. -/
theorem updCtrl_succeed {f : Ctrl → Ctrl} (hf : ∀ x, (f x).id = x.id) {P : Ctrl → Prop} (hP : ∀ x, P (f x)) (dw0 : Nat) :
    ((s.updCtrl c.id f).succeed tag dw0 0 []).que.done = s.que.done ++ [⟨tag, 0, 0, false, BitVec.ofNat 32 dw0, 0, []⟩] ∧
      ∀ k ∈ ((s.updCtrl c.id f).succeed tag dw0 0 []).que.ctrls, k.id = c.id → P k := by
  obtain ⟨d, hd⟩ := State.updCtrl_ctrl? (id := c.id) (Admits.ctrl h) hf
  refine ⟨State.completeWith_done hd .ok dw0 0 [], ?_⟩
  rw [State.succeed, State.completeWith_ctrls]
  exact State.updCtrl_all hP

theorem setQueuesFeature_takes (v : BitVec 32) :
    (setQueuesFeature tag c v.toNat s).que.done = s.que.done ++ [⟨tag, 0, 0, false,
      BitVec.ofNat 32 (min (v.extractLsb' 16 16).toNat 63 * 65536 + min (v.extractLsb' 0 16).toNat 63), 0, []⟩] ∧
    ∀ k ∈ (setQueuesFeature tag c v.toNat s).que.ctrls, k.id = c.id →
      k.granted = min (min (v.extractLsb' 0 16).toNat 63) (min (v.extractLsb' 16 16).toNat 63) + 1 := by
  rw [setQueuesFeature, bits_toNat v (n := 16) rfl, bits_toNat v (n := 16) rfl]
  exact updCtrl_succeed h (fun _ => by rfl) (fun _ => by rfl) _

/-! ### Event requests and Abort (R398, R421, R422) -/

theorem asyncEventRequest_held {type info page : Nat} {rest : List (Nat × Nat × Nat)} (hh : c.held = (type, info, page) :: rest) :
    asyncEventRequest tag s = (s.updCtrl c.id fun c => { c with held := rest }).succeed tag (type + info * 256 + page * 65536) 0 [] := by
  rw [asyncEventRequest, Proofs.command_of_admits h, hh]

theorem asyncEventRequest_waits (hh : c.held = []) :
    asyncEventRequest tag s = if 4 ≤ c.aers.length then s.fail tag .aerLimit else s.updCtrl c.id fun c => { c with aers := c.aers ++ [tag.cid] } := by
  rw [asyncEventRequest, Proofs.command_of_admits h, hh]

theorem abort_of_none {cid : Nat} (hn : s.abortTag ⟨c.id, cid⟩ = none) : abort tag cid s = s.succeed tag 1 0 [] := by
  rw [abort, Proofs.command_of_admits h, hn]

/-- A write that waits at the cap is ended and leaves the line. -/
theorem abort_of_waiting {cid : Nat} (hw : ∃ w ∈ s.xlt.capWaits, w.tag = ⟨c.id, cid⟩) : abort tag cid s =
    (({ s with xlt := { s.xlt with capWaits := s.xlt.capWaits.filter fun w => w.tag != ⟨c.id, cid⟩ } } : State).fail ⟨c.id, cid⟩ .abortRequested).succeed
      tag 0 0 [] := by
  have ha : (s.xlt.capWaits.any fun w => w.tag == ⟨c.id, cid⟩) = true := by simpa using hw
  rw [abort, Proofs.command_of_admits h, State.abortTag, if_pos ha]

end

end Sys2Proof.Machine

namespace Sys2Proof.Proofs

open Sys2Proof.Machine Sys2Proof.Safety

/-- Settles O56, command by command: what each answers past the checks of every host command. -/
theorem adminCommandsReportAndSet : Obligations.AdminCommandsReportAndSet := by
  intro tag c s h gives
  have pages : ∀ (lid offset len : Nat) (rae : Bool) (page : State → Bytes), s.Gave tag c lid rae (slice (page s) offset len)
      (s.logCommand tag lid fun c s => s.givePage c tag lid offset len rae true (page s)) := fun lid offset len rae page =>
    logCommand_gives h lid offset len rae true page
  have std : ∀ (lid nsid offset len : Nat) (rae : Bool) (page : Bytes), getLogPage tag lid nsid offset len rae s = s.drawn.givePage c tag lid offset len rae false page →
      gives (.getLogPage tag lid nsid offset len rae) lid rae (slice page offset len) := fun lid nsid offset len rae page he =>
    ⟨_, congrArg Host.Outcome.next he, logCommand_gives_drawn h lid offset len rae page⟩
  have next : ∀ {t u : State}, t = u → (.next t : Host.Outcome State Fault Refusal) = .next u := congrArg Host.Outcome.next
  have takes : ∀ {f : Ctrl → State → State} {P : State → Prop}, P (f c s) →
      ∃ t : State, (.next (s.setCommand tag false f) : Host.Outcome State Fault Refusal) = .next t ∧ P t := fun hP =>
    ⟨_, next (setCommand_of_admits h _), hP⟩
  have refused : ∀ {f : Ctrl → State → State} {st : Status}, f c s = s.fail tag st →
      (.next (s.setCommand tag false f) : Host.Outcome State Fault Refusal) = .next (s.fail tag st) := fun hf =>
    next ((setCommand_of_admits h _).trans hf)
  have saved : ∀ {f : Ctrl → State → State}, (.next (s.setCommand tag true f) : Host.Outcome State Fault Refusal) = .next (s.fail tag .notSaveable) :=
    next (setCommand_sv h _)
  have sliceField : ∀ v : BitVec 32, sliceOk v.toNat = false → setSliceFeature tag v.toNat s = s.fail tag .invalidField := fun v hv => by
    rw [setSliceFeature, if_pos (by rw [hv]; rfl)]
  refine ⟨fun nsid offset len rae => ⟨⟨_, rfl, pages ..⟩, ⟨_, rfl, pages ..⟩, ⟨_, rfl, pages ..⟩, ⟨_, rfl, pages ..⟩, ?_, rfl, rfl, rfl, rfl, rfl, ?_⟩,
    ?_, fun fid sel => ⟨?_, ?_, ?_, ?_⟩, fun fid v => ?_, fun nsid => ⟨?_, ?_, ?_, ?_⟩, ?_, ?_, fun cid => ⟨?_, ?_⟩, ?_⟩
  · exact fun lsi => ⟨⟨_, next (getLogPageTimetable_summary ..), pages 0xD4 offset len rae State.pageSummary⟩,
      ⟨_, rfl, pages 0xD4 offset len rae fun s => s.pageSummary ++ ttBytes (s.ttNamed lsi)⟩⟩
  · obtain ⟨free, herr, hsmart, hslot, hchanged, heff⟩ := getLogPage_standard h nsid offset len rae
    exact ⟨⟨free, std _ _ _ _ _ _ herr⟩, fun hn => ⟨free, std _ _ _ _ _ _ (hsmart hn)⟩, std _ _ _ _ _ _ hslot, std _ _ _ _ _ _ hchanged,
      ⟨free, std _ _ _ _ _ _ heff⟩, fun hd lid hl =>
        ⟨_, next (getLogPage_unlisted h hd hl ..), State.completeWith_done (s := s.drawn) (Admits.ctrl h) ..⟩⟩
  · intro page hp
    simp only [List.mem_cons, List.not_mem_nil, or_false] at hp
    obtain rfl | rfl | rfl | rfl := hp
    · exact sealPage_sealed _
    · exact sealPage_sealed _
    · exact sealPage_sealed _
    · exact sealPage_sealed _
  · exact fun hk => next (getFeatures_now h hk)
  · exact fun hk => next (getFeatures_capabilities h hk)
  · exact fun hk hs => ⟨_, next (getFeatures_default h hk hs)⟩
  · exact fun hk => next (getFeatures_unknown h hk)
  · refine ⟨saved, saved, saved, saved, saved, saved, rfl, rfl, rfl, rfl, rfl, refused rfl, fun hv => refused ?_, fun hv => refused (sliceField v hv),
      fun hv => takes (setSliceFeature_takes tag c v hv), fun hv => refused ?_, fun hv => takes (setPolicyFeature_takes tag c v hv), fun hv => refused ?_,
      fun hv => takes (setWindowFeature_takes tag c v hv), fun hv => refused ?_, fun hv => takes (setYokeFeature_takes tag v hv),
      takes (setQueuesFeature_takes h v), fun hlo hhi => ?_, ?_, fun hk => refused (setFeature_unknown tag c hk _)⟩
    · exact if_neg (by rw [bit_toNat, hv]; exact Bool.false_ne_true)
    · exact if_pos (by rw [bits_toNat v (n := 16) rfl]; exact hv)
    · exact if_pos (by rw [bits_toNat v (n := 12) rfl]; exact hv)
    · exact if_pos (by rw [bits_toNat v (n := 8) rfl]; exact hv)
    · refine takes (f := fun c s => setFeature tag 0x0F v.toNat c s) ?_
      rw [setFeature, if_neg (by simp; omega)]
      exact (updCtrl_succeed h (fun _ => by rfl) (fun _ => by rfl) 0).2
    · refine takes (f := fun c s => setFeature tag 0x0B v.toNat c s) ?_
      rw [setFeature, Nat.mod_eq_of_lt v.isLt]
      exact (updCtrl_succeed h (fun _ => by rfl) (fun _ => by rfl) 0).2
  · exact ⟨_, _, rfl, (identify_controller h nsid).choose_spec⟩
  · intro n hn
    obtain ⟨free, h0, h17, h3⟩ := identify_ns h hn
    exact ⟨free, ⟨_, rfl, h0⟩, ⟨_, rfl, h17⟩, ⟨_, rfl, h3⟩⟩
  · exact fun cns hc => ⟨_, rfl, identify_list h hc nsid⟩
  · exact fun cns hc => ⟨_, next (identify_unlisted h hc nsid),
      (State.completeWith_done (s := s.drawn) (Admits.ctrl h) ..).trans (State.completeWith_done (Admits.ctrl h) ..).symm⟩
  · exact fun type info page rest hh => next (asyncEventRequest_held h hh)
  · exact fun hh => next (asyncEventRequest_waits h hh)
  · intro hw
    refine ⟨_, next (abort_of_waiting h hw), fun w => ?_, ?_⟩
    · rw [State.succeed_xlt, State.fail_xlt]
      simp
    · exact congrArg Que.done (State.completeWith_que_congr (by exact State.completeWith_que_congr (by rfl) ..) ..)
  · exact fun hn => next (abort_of_none h hn)
  · exact fun admin opcode => next (Proofs.command_of_admits h _ _)

end Sys2Proof.Proofs
end

section
/-! PROOFS. A replay whose newest mark was cut by the loss of power and is found WRITTEN (R325, R364, R366, R468). -/

namespace Sys2Proof.Machine

open Sys2Proof.Safety

/-- A replay that no CLEAN mark spares maps what its pages say. -/
theorem mapRebuild_map {s : State} {sets : List FoundSet} (hs : s.starting = true) (hscan : s.boot.ph.scan = true) (hreplay : s.boot.ph.replay = false)
    (hc : s.newestMark.clean = false) : (mapRebuild sets s).xlt.map = (s.replay sets).xlt.map := by
  rw [mapRebuild, if_neg (by simp [hs, hscan, hreplay]), hc]
  rfl

/-- An entry of a leaf that no flash holds joins an empty cache with room. -/
theorem setEntry_map {s : State} (hl : s.xlt.leafIndex = []) (hc : s.xlt.cached = []) (hroom : 1 ≤ s.leafCap) (ns unit : Nat) (e : BitVec 64) :
    (s.setEntry ns unit e).xlt.map = Tab.set unmapped s.xlt.map (mapKey ns unit) e := by
  have hleaf : (s.leafCached (leafKey ns (unit / 488)) || entPpa (s.leafAt (leafKey ns (unit / 488))) == unmappedPpa) = true := by
    rw [State.leafAt, hl, Tab.get]
    simp [entPpa, unmappedPpa]
  rw [State.setEntry, if_pos hleaf, State.touchLeaf]
  simp only [hc, List.filter_nil, List.nil_append]
  refine (congrArg (fun u : State => u.xlt.map) (if_neg ?_)).trans rfl
  show ¬ s.leafCap < 1
  omega

/-- The page sets that a replay finds undefined. -/
def State.badSets (s : State) : List (Nat × Nat × Nat) :=
  ((s.fla.words.filter fun e => s.interrupted e).map fun e => setOf e.1).eraseDups

/-! ### A mark cut by the loss of power -/

/-- Where the cut mark's copy lies, and what the media scan finds there: the page set is WRITTEN. -/
def cutMarkAt : CwAddr := ⟨0, 0, 9, 0, 0⟩
def cutMarkFound : FoundSet := ⟨sbOf 0 9, 0, chanOf 0, true⟩

/-- A mark of stamp 10 with one copy. -/
def cutMark : Mark := { emptyMark with stamp := 10, places := [cutMarkAt] }

/-- The copy's code word, of any data, whose program the loss of power cut. -/
def cutMarkWord (d : Bytes) : CWord := { data := d, kind := 3, undefined := true }

/-- A user page of stamp 5, which the media scan's mark does not cover. -/
def olderPage : CWord := { stamp := 5 }

/-- Its key, on block 10 of die 0, as 18,432 is that of the mark's copy. -/
def olderPageKey : Nat := 20480

/-- The namespace of the user page. -/
def heldNs : Ns :=
  { nsid := 1, kind := .block, stolrak := false, lba := 4096, size := 16384, charge := 0, records := 0, idColumn := 255, rowBytes := 0, columns := [], vec := {},
    capacity := 0, created := 0, key := 0, gens := [], lastGen := 0, lock := {}, lockNext := none, readOnly := false, deleting := none, formatting := none,
    switching := none }

/-- A module whose media scan is done and whose replay is due. -/
def cutState (d : Bytes) : State :=
  { State.reset with
    pwr := { State.reset.pwr with standby := true, rails := true }
    ns := { State.reset.ns with list := [heldNs] }
    fla := { State.reset.fla with dies := [0], channels := [0], words := [(18432, cutMarkWord d), (olderPageKey, olderPage)] }
    xlt := { State.reset.xlt with marks := [cutMark] }
    boot := { State.reset.boot with mode := .bringUp, ph := { topology := true, firmware := true, scan := true } } }

/-- The cut state with its interrupted page sets classed. -/
def cutClassed (d : Bytes) : State := (cutState d).classify [cutMarkFound]

theorem cutState_word (d : Bytes) : (cutState d).word cutMarkAt = cutMarkWord d := by
  simp [State.word, cutState, cwKey, pbKey, cutMarkAt, Tab.get]

/-- What the classing leaves: the mark's copy stands. -/
theorem cutClassed_words (d : Bytes) : (cutClassed d).fla.words = [(18432, { cutMarkWord d with undefined := false }), (olderPageKey, olderPage)] := by
  simp [cutClassed, State.classify, cutState, State.interrupted, cutMarkWord, olderPage, olderPageKey, foundOf, cutMarkFound, setOf, State.reset, sbOf, chanOf]

theorem cutClassed_word (d : Bytes) : (cutClassed d).word cutMarkAt = { cutMarkWord d with undefined := false } := by
  rw [State.word, cutClassed_words]
  simp [cwKey, pbKey, cutMarkAt, Tab.get]

/-- The media scan reads no mark: the one copy does not read back. -/
theorem cutState_newestMark (d : Bytes) : (cutState d).newestMark = emptyMark := by
  have hreads : (cutState d).markReads cutMark = false := by
    simp [State.markReads, cutMark, cutState_word, cutMarkWord]
  show (([cutMark].filter (cutState d).markReads).getLast?).getD emptyMark = emptyMark
  rw [List.filter_cons_of_neg (by simp [hreads])]
  rfl

/-- Once its page set is classed WRITTEN, the copy reads back. -/
theorem cutClassed_newestMark {d : Bytes} (hlen : d.length = 512) (hcrc : field d 508 4 = crc32c (d.take 508)) : (cutClassed d).newestMark = cutMark := by
  have hfit : fit 512 d = d := by
    rw [fit, List.take_of_length_le hlen.le, hlen]
    exact List.append_nil _
  have hreads : (cutClassed d).markReads cutMark = true := by
    show ([cutMarkAt].any _) = true
    rw [List.any_cons, cutClassed_word, List.any_nil, Bool.or_false]
    show (true && field (fit 512 d) 508 4 == crc32c ((fit 512 d).take 508)) = true
    rw [hfit, hcrc, beq_self_eq_true]
    rfl
  show (([cutMark].filter (cutClassed d).markReads).getLast?).getD emptyMark = cutMark
  rw [List.filter_cons_of_pos hreads]
  rfl

/-- Pages that a replay from a stamp goes through. -/
theorem cutClassed_replayPages (d : Bytes) (stamp : Nat) : (cutClassed d).replayPages stamp = if stamp < 5 then [(olderPageKey, olderPage)] else [] := by
  have hdie : (cutClassed d).dieIn (pbDie 10) = true := rfl
  have hcut : (cutClassed d).fla.eraseCut = [] := rfl
  rw [State.replayPages, cutClassed_words, hcut]
  by_cases h : stamp < 5 <;> simp [cutMarkWord, olderPage, h, hdie, insertPage, olderPageKey]

/-- The model's replay takes that mark and leaves the older page out. -/
theorem mapRebuild_cutState {d : Bytes} (hlen : d.length = 512) (hcrc : field d 508 4 = crc32c (d.take 508)) :
    (mapRebuild [cutMarkFound] (cutState d)).xlt.map = [] := by
  rw [mapRebuild_map rfl rfl rfl (congrArg Mark.clean (cutState_newestMark d))]
  show (((cutClassed d).replayPages (cutClassed d).newestMark.stamp).foldl _ (cutClassed d)).xlt.map = []
  rw [cutClassed_newestMark hlen hcrc, cutClassed_replayPages]
  rfl

/-- No page set of the classed state is undefined. -/
theorem cutClassed_badSets (d : Bytes) : (cutClassed d).badSets = [] := by
  rw [State.badSets, cutClassed_words]
  simp [State.interrupted, cutMarkWord, olderPage]

/-- A replay from the mark of the media scan would map the older page. -/
theorem replayPage_cutClassed (d : Bytes) :
    ((cutClassed d).replayPage [] (olderPageKey, olderPage)).xlt.map ≠ [] := by
  have hheld : (cutClassed d).nsHolds olderPage.ns olderPage.stamp = true := rfl
  have hset : setOf olderPageKey = (0, 10, 0) := by decide
  rw [State.replayPage]
  simp only [hset]
  rw [if_neg (by simp [hheld]), if_neg (by simp), setEntry_map rfl rfl (Nat.mul_pos (show 0 < (cutClassed d).drm.cacheGiB from Nat.succ_pos 31) (by decide))]
  have hne : mkEntry olderPage.stamp (pbPlane (olderPageKey / 2048)) (ppa 0 10 0) ≠ unmapped := by decide +kernel
  rw [Tab.set, if_neg hne]
  exact List.cons_ne_nil _ _

end Sys2Proof.Machine

namespace Sys2Proof.Proofs

open Sys2Proof.Machine Sys2Proof.Safety

/-- Refutes O58: a mark whose copy the loss of power cut and the media scan finds WRITTEN reads back only once its page set is classed, so the
replay of the model takes its stamp, while the statement takes the stamp of the newest mark from before: a page between the two is not replayed,
though the map that the scan took does not hold it. -/
theorem not_bringUpRunsInItsOrder : ¬ Obligations.BringUpRunsInItsOrder := by
  intro h
  obtain ⟨-, -, -, -, -, -, hstart, -⟩ := h
  obtain ⟨hlen, hcrc⟩ := sealPage_sealed []
  have hclean : (cutState (sealPage 512 [])).newestMark.clean = false := congrArg Mark.clean (cutState_newestMark _)
  obtain ⟨-, -, hreplay, -, -⟩ := hstart [cutMarkFound] (cutState (sealPage 512 [])) rfl
  obtain ⟨t, ht, -, hmap, -⟩ := (hreplay rfl rfl).2 hclean
  have ht : t = mapRebuild [cutMarkFound] (cutState (sealPage 512 [])) := (Host.Outcome.next.inj ht).symm
  rw [ht, mapRebuild_cutState hlen hcrc, cutState_newestMark] at hmap
  change [] = (((cutClassed (sealPage 512 [])).replayPages emptyMark.stamp).foldl (fun u e => u.replayPage (cutClassed (sealPage 512 [])).badSets e)
    (cutClassed (sealPage 512 []))).xlt.map at hmap
  rw [cutClassed_replayPages, cutClassed_badSets, if_pos (by decide), List.foldl_cons, List.foldl_nil] at hmap
  exact replayPage_cutClassed _ hmap.symm

end Sys2Proof.Proofs
end

section
/-! PROOFS. The coach's grid and vector unit: loads and swaps, a tile's registers, lanes and rows in SRAM (R54 to R68, R73). -/

namespace Sys2Proof.Machine

open Sys2Proof.Safety

/-! ### Writes of many keys of a table -/

section
variable {α β : Type} [DecidableEq α] (d : α) (key : β → Nat) (f : β → α → α)

/-- A table after the values of some keys were replaced, one key after another, each by one made from what stood there. -/
def Tab.updates (l : List β) (t : Table α) : Table α := l.foldl (fun t x => Tab.set d t (key x) (f x (Tab.get d t (key x)))) t

theorem Tab.get_updates_of_forall_ne (l : List β) {t : Table α} (h : Tab.wf d t = true) {k : Nat} (hk : ∀ x ∈ l, key x ≠ k) :
    Tab.get d (Tab.updates d key f l t) k = Tab.get d t k := by
  induction l generalizing t with
  | nil => rfl
  | cons x l ih =>
    refine (ih (Tab.wf_set d t _ _ h) fun y hy => hk y (List.mem_cons_of_mem x hy)).trans ?_
    rw [Tab.get_set d t _ _ k h, if_neg (hk x List.mem_cons_self).symm]

/-- A read of a listed key, where none is listed twice. -/
theorem Tab.get_updates_of_mem {l : List β} (hn : (l.map key).Nodup) {t : Table α} (h : Tab.wf d t = true) {x : β} (hx : x ∈ l) :
    Tab.get d (Tab.updates d key f l t) (key x) = f x (Tab.get d t (key x)) := by
  induction l generalizing t with
  | nil => cases hx
  | cons y l ih =>
    rw [List.map_cons, List.nodup_cons, List.mem_map, not_exists] at hn
    have hw := Tab.wf_set d t (key y) (f y (Tab.get d t (key y))) h
    rcases List.mem_cons.1 hx with rfl | hx
    · refine (Tab.get_updates_of_forall_ne d key f l hw fun y hy he => hn.1 y ⟨hy, he⟩).trans ?_
      rw [Tab.get_set d t _ _ _ h, if_pos rfl]
    · refine (ih hn.2 hw hx).trans ?_
      rw [Tab.get_set d t _ _ _ h, if_neg fun he => hn.1 x ⟨hx, he⟩]

end

variable {s : State} {coach : Nat}

/-! ### Loads and swaps (R60 to R62, R73) -/

@[simp] theorem takeQueue_sram (i : UnitInstr) : (takeQueue coach i s).coa.sram = s.coa.sram := rfl
@[simp] theorem takeQueue_active (i : UnitInstr) : (takeQueue coach i s).coa.active = s.coa.active := rfl
@[simp] theorem takeQueue_regs (i : UnitInstr) : (takeQueue coach i s).coa.regs = s.coa.regs := rfl
@[simp] theorem takeQueue_scales (i : UnitInstr) : (takeQueue coach i s).coa.scales = s.coa.scales := rfl

/-- A load dates its end; all else of the coaches is as the tile leaves it (R60 to R62). -/
theorem startLoad_coa (t : Nat) (l : TileLoad) : (startLoad coach t l s).coa = { (loadTile coach l s).coa with
    loadEnd := Tab.set 0 (loadTile coach l s).coa.loadEnd coach (loadDone s coach (max t (earliestLoad s coach)) + 1) } := by
  unfold startLoad
  generalize loadTile coach l s = u
  rfl

theorem transposedLoad_of_weight {l : TileLoad} (hr : s.coachRuns coach = true) (hw : isWeight l.fmt = true) (t : Nat) :
    transposedLoad coach t l s = takeQueue coach (.load l) (startLoad coach t l s) := by
  rw [transposedLoad, hr, hw]
  rfl

theorem transposedLoad_of_other {l : TileLoad} (hw : isWeight l.fmt = false) (t : Nat) : transposedLoad coach t l s = s := by
  rw [transposedLoad, hw, Bool.and_false]
  rfl

/-- The end of a load before any swap. -/
theorem loadDone_of_no_swap (h : Tab.get 0 s.coa.lastSwap coach = 0) (t : Nat) : loadDone s coach (max t (earliestLoad s coach)) = t + 66 := by
  simp only [loadDone, earliestLoad, h, Nat.max_zero]

/-- The end of a load after a swap in cycle n (R61, R62). -/
theorem loadDone_of_swap {n : Nat} (h : Tab.get 0 s.coa.lastSwap coach = n + 1) (t : Nat) :
    loadDone s coach (max t (earliestLoad s coach)) =
      max (max t (n + 62 * Tab.get 1 s.coa.swapRate coach) + 66) (n + 128 * Tab.get 1 s.coa.swapRate coach) := by
  simp only [loadDone, earliestLoad, h, holdRate]

theorem stationarySwap_of_loaded {e : Nat} (hr : s.coachRuns coach = true) (he : Tab.get 0 s.coa.loadEnd coach = e + 1) (t : Nat) :
    stationarySwap coach t s = swapSets coach t s := by
  rw [stationarySwap, hr, he]
  rfl

theorem stationarySwap_of_unloaded (he : Tab.get 0 s.coa.loadEnd coach = 0) (t : Nat) : stationarySwap coach t s = s := by
  rw [stationarySwap, he]
  exact if_neg (by simp)

/-! ### A tile in its register set (R55, R58, R60) -/

/-- Column and row of every register of a set, in the order in which a load writes them. -/
def tileCells : List (Nat × Nat) := List.range 64 ×ˢ List.range 64

theorem mem_tileCells {j i : Nat} : (j, i) ∈ tileCells ↔ j < 64 ∧ i < 64 := by
  simp [tileCells]

/-- The register of a column and a row of a set. -/
def cellKey (set : Nat) (p : Nat × Nat) : Nat := set * 4096 + p.2 * 64 + p.1

theorem nodup_cellKeys (set : Nat) : (tileCells.map (cellKey set)).Nodup := by
  refine List.Nodup.map_on ?_ (List.nodup_range.product List.nodup_range)
  rintro ⟨j, i⟩ hp ⟨j', i'⟩ hq he
  have hp := mem_tileCells.1 hp
  have hq := mem_tileCells.1 hq
  simp only [cellKey] at he
  rw [Prod.mk.injEq]
  omega

/-- The code that a load brings for a column and a row. -/
def tileCode (s : State) (coach : Nat) (l : TileLoad) (p : Nat × Nat) : BitVec 16 :=
  BitVec.ofNat 16 (elemAt l.fmt (s.sramRead coach (l.base + elemBytes l.fmt 64 * p.1) (elemBytes l.fmt 64)) p.2)

/-- Columns loaded one after another write registers and scales alone, and read SRAM as it was. -/
theorem foldl_loadColumn (set : Nat) (l : TileLoad) (js : List Nat) (s : State) :
    js.foldl (loadColumn coach set l) s = { s with coa := { s.coa with
      regs := Tab.updates 0 (cellKey (setKey coach set)) (fun p _ => tileCode s coach l p) (js ×ˢ List.range 64) s.coa.regs
      scales := Tab.updates 0 (setKey coach set * 64 + ·) (fun j _ => loadScale s coach l j) js s.coa.scales } } := by
  induction js generalizing s with
  | nil => rfl
  | cons j js ih =>
    rw [List.foldl_cons, ih]
    simp only [Tab.updates, List.product_cons, List.foldl_append, List.foldl_map, List.foldl_cons]
    rfl

/-- A load fills the shadow set and names its format; all else stands (R60). -/
theorem loadTile_eq (l : TileLoad) (s : State) : loadTile coach l s = { s with coa := { s.coa with
    regs := Tab.updates 0 (cellKey (setKey coach (s.shadowSet coach))) (fun p _ => tileCode s coach l p) tileCells s.coa.regs
    scales := Tab.updates 0 (setKey coach (s.shadowSet coach) * 64 + ·) (fun j _ => loadScale s coach l j) (List.range 64) s.coa.scales
    tileFmt := Tab.set 6 s.coa.tileFmt (setKey coach (s.shadowSet coach)) (fmtCode l.fmt) } } := by
  unfold loadTile tileCells
  simp only [foldl_loadColumn]

section
variable (t : Nat) (l : TileLoad)

theorem startLoad_regs : (startLoad coach t l s).coa.regs =
    Tab.updates 0 (cellKey (setKey coach (s.shadowSet coach))) (fun p _ => tileCode s coach l p) tileCells s.coa.regs := by
  rw [startLoad_coa, loadTile_eq]

theorem startLoad_scales : (startLoad coach t l s).coa.scales =
    Tab.updates 0 (setKey coach (s.shadowSet coach) * 64 + ·) (fun j _ => loadScale s coach l j) (List.range 64) s.coa.scales := by
  rw [startLoad_coa, loadTile_eq]

theorem startLoad_sram : (startLoad coach t l s).coa.sram = s.coa.sram := by rw [startLoad_coa, loadTile_eq]

theorem startLoad_active : (startLoad coach t l s).coa.active = s.coa.active := by rw [startLoad_coa, loadTile_eq]

end

end Sys2Proof.Machine

namespace Sys2Proof.Proofs

open Sys2Proof.Machine Sys2Proof.Safety

/-- Settles O21: the load's end by whether a swap came before it, the swap dated by that end. -/
theorem coachLoadsAndSwapsTiles : Obligations.CoachLoadsAndSwapsTiles := by
  refine ⟨fun coach t l s hr => ⟨fun hw => ?_, fun hw => congrArg Host.Outcome.next (transposedLoad_of_other hw t)⟩, fun coach t e s hr he => ?_,
    fun coach t s he => congrArg Host.Outcome.next (stationarySwap_of_unloaded he t)⟩
  · refine congrArg Host.Outcome.next ((transposedLoad_of_weight hr hw t).trans ?_)
    unfold startLoad
    cases hs : Tab.get 0 s.coa.lastSwap coach with
    | zero => rw [loadDone_of_no_swap hs]
    | succ n => rw [loadDone_of_swap hs]
  · refine congrArg Host.Outcome.next ((stationarySwap_of_loaded hr he t).trans ?_)
    rw [swapSets, swapCycle, he]
    rfl

/-- Settles O22: the load writes each register of the shadow set once, and no other. -/
theorem tileColumnsLandInShadowSet : Obligations.TileColumnsLandInShadowSet := by
  intro coach t l s hr hw hregs hscales
  refine ⟨_, congrArg Host.Outcome.next (transposedLoad_of_weight hr hw t), fun i j hi hj => ⟨?_, ?_⟩, fun k hk => ?_,
    (takeQueue_sram _).trans (startLoad_sram t l), (takeQueue_active _).trans (startLoad_active t l)⟩
  · rw [takeQueue_regs, startLoad_regs]
    exact Tab.get_updates_of_mem 0 (cellKey (setKey coach (s.shadowSet coach))) (fun p _ => tileCode s coach l p) (nodup_cellKeys _) hregs
      (x := (j, i)) (mem_tileCells.2 ⟨hj, hi⟩)
  · rw [takeQueue_scales, startLoad_scales]
    exact Tab.get_updates_of_mem 0 (setKey coach (s.shadowSet coach) * 64 + ·) (fun j _ => loadScale s coach l j)
      (List.nodup_range.map fun _ _ => Nat.add_left_cancel) hscales (x := j) (List.mem_range.2 hj)
  · rw [takeQueue_regs, startLoad_regs]
    refine Tab.get_updates_of_forall_ne 0 (cellKey _) _ _ hregs ?_
    rintro ⟨j, i⟩ hp rfl
    have hp := mem_tileCells.1 hp
    refine hk ?_
    simp only [cellKey]
    omega

end Sys2Proof.Proofs
end

section
/-! PROOFS. What the vector unit and the grid write into SRAM, and the order of a matrix instruction's tiles (R54 to R68, R73, R76). -/

namespace Sys2Proof.Machine

open Sys2Proof.Safety

variable {s : State} {coach : Nat}

/-! ### Writes into SRAM (R68) -/

/-- A write puts its bytes, none past the end of SRAM, and leaves every other byte. -/
theorem sramWrite_written {u : State} (hu : u.coa.sram = s.coa.sram) (hw : Tab.wf 0 s.coa.sram = true) (addr : Nat) (bs : Bytes) :
    SramWritten s (u.sramWrite coach addr bs) coach addr bs := by
  intro a
  change Tab.get 0 (Tab.putBytes 0 u.coa.sram (sramKey coach addr) (bs.take (sramBytes - addr))) a = _
  rw [hu, Tab.get_putBytes _ _ _ _ _ hw, List.length_take]
  split
  · next h => rw [List.getD_eq_getElem?_getD, List.getElem?_take, if_pos (by omega), List.getD_eq_getElem?_getD]
  · rfl

theorem sram_wf_of_sound (h : Sound s) : Tab.wf 0 s.coa.sram = true := h.2.2.1

/-! ### The vector unit (R66, R67) -/

theorem vectorInstruction_of_lanes {i : VecInstr} (hr : s.coachRuns coach = true) (hi : ∀ f g, i.op ≠ .convert f g) :
    vectorInstruction coach i s = (takeQueue coach (.vector i) s).sramWrite coach i.dst ((List.range 64).flatMap fun k => toLe 4
      (vecLane i.op ((s.lanes coach i.a).getD k 0) ((s.lanes coach i.b).getD k 0) ((s.lanes coach i.c).getD k 0)).toNat) := by
  rw [vectorInstruction, if_neg (by simp [hr])]
  dsimp only
  split
  · next f g ho => exact absurd ho (hi f g)
  · rfl

theorem vectorInstruction_of_convert {i : VecInstr} {f g : Fmt} (hr : s.coachRuns coach = true) (hi : i.op = .convert f g) :
    vectorInstruction coach i s = (takeQueue coach (.vector i) s).sramWrite coach i.dst
      (convertLanes f g (s.sramRead coach i.a (elemBytes f 64))) := by
  rw [vectorInstruction, hr, hi]
  rfl

theorem crossLaneSum_of_runs (hr : s.coachRuns coach = true) (src dst : Nat) :
    crossLaneSum coach src dst s = (takeQueue coach (.laneSum src dst) s).sramWrite coach dst (toLe 4 (chunkSum (s.lanes coach src)).toNat) := by
  rw [crossLaneSum, hr]
  rfl

/-! ### The grid (R54 to R57, R62 to R64, R76) -/

theorem matrixInstruction_of_formats {i : MatInstr} (hr : s.coachRuns coach = true) (hx : isAct i.xFmt = true)
    (hw : ∀ l ∈ i.tiles, isWeight l.fmt = true) (t : Nat) (upto : Option Nat) :
    matrixInstruction coach t i upto s =
      let a := s.nextVector coach i
      let b := match upto with | some v => max a (min v (matVectors i)) | none => matVectors i
      let g := (i.tiles.take ((i.k / 64) * (i.n / 64))).zipIdx.foldl (gridTile coach t i a b) ⟨if a = 0 then takeQueue coach (.matrix i) s else s, t, t⟩
      { g.s with coa := { g.s.coa with
        gridCycles := Tab.set 0 g.s.coa.gridCycles coach (Tab.get 0 g.s.coa.gridCycles coach + (g.ends - t))
        work := Tab.set none g.s.coa.work coach (if b < matVectors i then some (i, b) else none) } } := by
  rw [matrixInstruction, hr, hx, List.all_eq_true.2 hw]
  rfl

theorem matrixInstruction_of_other_formats {i : MatInstr} (h : isAct i.xFmt = false ∨ ∃ l ∈ i.tiles, isWeight l.fmt = false) (t : Nat)
    (upto : Option Nat) : matrixInstruction coach t i upto s = s := by
  refine if_pos ?_
  rcases h with h | ⟨l, hl, hw⟩
  · simp [h]
  · have : i.tiles.all (fun l => isWeight l.fmt) = false := List.all_eq_false.2 ⟨l, hl, by simp [hw]⟩
    simp [this]

/-- A tile none of whose vectors was issued before, and all of which are issued now. -/
theorem gridTile_whole {i : MatInstr} {a b p : Nat} (hm : 0 < i.m) (ha : a ≤ p * i.m) (hb : (p + 1) * i.m ≤ b) (t : Nat) (g : GridRun)
    (l : TileLoad) :
    gridTile coach t i a b g (l, p) =
      let rate := if quarterRate l.fmt then 4 else 1
      let u := if Tab.get 0 g.s.coa.loadEnd coach = 0 then startLoad coach t l g.s else g.s
      ⟨(List.range i.m).foldl (gridRow coach i (p / (i.n / 64)) (p % (i.n / 64))) (swapSets coach g.free u),
        swapCycle u coach g.free + rate * i.m, swapCycle u coach g.free + rate * (i.m + 129)⟩ := by
  have hlo : max a (p * i.m) = p * i.m := Nat.max_eq_right ha
  have hhi : min b ((p + 1) * i.m) = (p + 1) * i.m := Nat.min_eq_right hb
  have hn : (p + 1) * i.m - p * i.m = i.m := by rw [Nat.succ_mul]; omega
  simp only [gridTile, hlo, hhi]
  rw [if_neg (by rw [Nat.succ_mul]; omega), hn]
  simp

end Sys2Proof.Machine

namespace Sys2Proof.Proofs

open Sys2Proof.Machine Sys2Proof.Safety

/-- Settles O23: each instruction is one write into SRAM after its entry has left the queue. -/
theorem vectorUnitWritesItsLanes : Obligations.VectorUnitWritesItsLanes := by
  intro coach s hs hr
  have written : ∀ (i : UnitInstr) (addr : Nat) (bs : Bytes), SramWritten s ((takeQueue coach i s).sramWrite coach addr bs) coach addr bs :=
    fun i => sramWrite_written rfl (sram_wf_of_sound hs)
  exact ⟨fun i hi => ⟨_, congrArg Host.Outcome.next (vectorInstruction_of_lanes hr hi), written _ _ _, rfl⟩,
    fun i f g hi => ⟨_, congrArg Host.Outcome.next (vectorInstruction_of_convert hr hi), written _ _ _, rfl⟩,
    fun src dst => ⟨_, congrArg Host.Outcome.next (crossLaneSum_of_runs hr src dst), written _ _ _, rfl⟩⟩

/-- Settles O24: the tiles in order, one whole tile, one row of one tile. -/
theorem matrixInstructionRunsItsTiles : Obligations.MatrixInstructionRunsItsTiles := by
  refine ⟨fun coach t i upto s hr => ⟨fun hx hw => ?_, fun h => congrArg Host.Outcome.next (matrixInstruction_of_other_formats h t upto)⟩,
    fun coach t i a b g l p hm ha hb => ?_, fun coach i chunk ct r s hs => ?_⟩
  · exact congrArg Host.Outcome.next (matrixInstruction_of_formats hr hx hw t upto)
  · rw [gridTile_whole hm ha hb]
    exact ⟨rfl, rfl, rfl⟩
  · intro set x at_ v old
    have hinit : (chunk = 0 ∧ i.accIn = false) = ((decide (chunk = 0) && !i.accIn) = true) := by simp
    simp only [hinit]
    exact sramWrite_written rfl (sram_wf_of_sound hs) _ _

end Sys2Proof.Proofs
end

section
/-! PROOFS. Carriages: sent or refused at the source, checked in order on arrival, delivered by kind (R77 to R90, R171, R204 to R206, R298). -/

namespace Sys2Proof.Machine

open Sys2Proof.Safety

variable {s u : State} {st : Nat} {c : Bytes}

/-! ### Sending (R80, R81, R83 to R85) -/

theorem sendCarriage_of_route {src dst : Nat} (h : s.routeOrder src dst ≠ 2) (role kind addr tag count dir : Nat) (ack last : Bool) (payload : Bytes) :
    s.sendCarriage src dst role kind addr tag count dir ack last payload = some (s.inject dst (mkCarriage dst src (s.stamp % 2 ^ 32) role kind
      addr tag (mkFlags count dir ack last (s.routeOrder src dst)) payload)).nextCycle := if_neg h

theorem sendCarriage_of_no_route {src dst : Nat} (h : s.routeOrder src dst = 2) (role kind addr tag count dir : Nat) (ack last : Bool) (payload : Bytes) :
    s.sendCarriage src dst role kind addr tag count dir ack last payload = none := if_pos h

/-- The state in which the fabric meets a request: a coach's entry has left its send queue (R73). -/
def State.unqueued (s : State) (src : Nat) (r : CarriageReq) : State := if src < 256 then takeQueue src (.carriage r) s else s

/-- The ROLE that a request goes out with: to a station other than a coach the coach's own role stamp (R84). -/
def State.sendRole (s : State) (src : Nat) (r : CarriageReq) : Nat := if src < 256 ∧ 256 ≤ r.dst then s.roleStamp src else r.role

/-- A FILL and a coach's READ of DRAM are remembered under coach and tag (R204, R208). -/
def State.remember (s : State) (src role : Nat) (r : CarriageReq) : State :=
  if src < 256 && r.kind = 6 then
    { s with coa := { s.coa with fills := Tab.set [] s.coa.fills (src * 2 ^ 32 + r.tag % 2 ^ 32) r.payload } }
  else if src < 256 && r.kind = 2 && 256 ≤ r.dst && r.dst < 268 then
    let kept := mkCarriage r.dst src 0 role 2 r.address r.tag 0 r.payload
    { s with coa := { s.coa with reads := Tab.set [] s.coa.reads (src * 2 ^ 32 + r.tag % 2 ^ 32) kept } }
  else s

section
variable (s) (src role : Nat) (r : CarriageReq)

theorem State.unqueued_fab : (s.unqueued src r).fab = s.fab := by unfold State.unqueued; split <;> rfl
theorem State.unqueued_stg : (s.unqueued src r).stg = s.stg := by unfold State.unqueued; split <;> rfl
theorem State.unqueued_sram : (s.unqueued src r).coa.sram = s.coa.sram := by unfold State.unqueued; split <;> rfl
theorem State.unqueued_role : (s.unqueued src r).coa.role = s.coa.role := by unfold State.unqueued; split <;> rfl
theorem State.unqueued_fills : (s.unqueued src r).coa.fills = s.coa.fills := by unfold State.unqueued; split <;> rfl
theorem State.unqueued_reads : (s.unqueued src r).coa.reads = s.coa.reads := by unfold State.unqueued; split <;> rfl

theorem State.unqueued_sendRole : (s.unqueued src r).sendRole src r = s.sendRole src r := by
  simp only [State.sendRole, State.roleStamp, State.coaRole, State.unqueued_role]

theorem State.unqueued_routeOrder (dst : Nat) : (s.unqueued src r).routeOrder src dst = s.routeOrder src dst := by
  simp only [State.routeOrder, State.unqueued_fab]

theorem State.unqueued_stamp : (s.unqueued src r).stamp = s.stamp := by
  simp only [State.stamp, State.unqueued_stg]

theorem State.remember_fab : (s.remember src role r).fab = s.fab := by unfold State.remember; split_ifs <;> rfl
theorem State.remember_queues : (s.remember src role r).coa.queues = s.coa.queues := by unfold State.remember; split_ifs <;> rfl
theorem State.remember_sram : (s.remember src role r).coa.sram = s.coa.sram := by unfold State.remember; split_ifs <;> rfl
theorem State.remember_ctxs : (s.remember src role r).coa.ctxs = s.coa.ctxs := by unfold State.remember; split_ifs <;> rfl

theorem State.remember_fills : (s.remember src role r).coa.fills =
    if src < 256 ∧ r.kind = 6 then Tab.set [] s.coa.fills (src * 2 ^ 32 + r.tag % 2 ^ 32) r.payload else s.coa.fills := by
  simp only [State.remember, Bool.and_eq_true, decide_eq_true_eq]
  split_ifs <;> rfl

/-- Of the two kinds remembered a request is one at most. -/
theorem State.remember_reads : (s.remember src role r).coa.reads =
    if src < 256 ∧ r.kind = 2 ∧ 256 ≤ r.dst ∧ r.dst < 268 then Tab.set [] s.coa.reads (src * 2 ^ 32 + r.tag % 2 ^ 32)
      (mkCarriage r.dst src 0 role 2 r.address r.tag 0 r.payload) else s.coa.reads := by
  simp only [State.remember, Bool.and_eq_true, decide_eq_true_eq, and_assoc]
  split_ifs with hfill hread hread
  · omega
  · rfl
  · rfl
  · rfl

end

section
variable {src : Nat} {r : CarriageReq} (hc : s.coreClock = true) (hs : src ≤ 286) (ho : src < 256 → s.coachOut src = false)
include hc hs ho

/-- A station in service with its clock asks the fabric. -/
theorem carriageSend_of_serves : carriageSend src r s =
    match (if decide (286 < r.dst) || relayLeaves r.dst r.relayCount r.relayDir then none else (s.unqueued src r).sendCarriage src r.dst
      ((s.unqueued src r).sendRole src r) r.kind r.address r.tag r.relayCount r.relayDir r.ack r.last r.payload) with
    | some t => t.remember src ((s.unqueued src r).sendRole src r) r
    | none => (s.unqueued src r).refuseSend src r.tag := by
  have hnot : ¬(!s.coreClock || !decide (src ≤ 286) || (decide (src < 256) && s.coachOut src)) = true := by
    by_cases hlt : src < 256 <;> simp [hc, hs, hlt, ho]
  rw [carriageSend, if_neg hnot]
  rfl

theorem carriageSend_of_route (hd : r.dst ≤ 286) (hl : relayLeaves r.dst r.relayCount r.relayDir = false) (hr : s.routeOrder src r.dst ≠ 2) :
    carriageSend src r s = ((s.unqueued src r).inject r.dst (mkCarriage r.dst src (s.stamp % 2 ^ 32) (s.sendRole src r) r.kind r.address r.tag
      (mkFlags r.relayCount r.relayDir r.ack r.last (s.routeOrder src r.dst)) r.payload)).nextCycle.remember src (s.sendRole src r) r := by
  rw [carriageSend_of_serves hc hs ho, if_neg (by simp [hl, hd]), sendCarriage_of_route (by rwa [State.unqueued_routeOrder])]
  simp only [State.unqueued_sendRole, State.unqueued_routeOrder, State.unqueued_stamp]

theorem carriageSend_of_refused (h : 286 < r.dst ∨ relayLeaves r.dst r.relayCount r.relayDir = true ∨ s.routeOrder src r.dst = 2) :
    carriageSend src r s = (s.unqueued src r).refuseSend src r.tag := by
  rw [carriageSend_of_serves hc hs ho]
  split
  · next t ht =>
    split at ht
    · cases ht
    · next hn =>
      simp only [Bool.or_eq_true, decide_eq_true_eq, not_or] at hn
      rw [sendCarriage_of_no_route ((State.unqueued_routeOrder ..).trans ((h.resolve_left hn.1).resolve_left hn.2))] at ht
      cases ht
  · rfl

end

/-! ### Arrival: the checks in their order (R81, R88 to R90) -/

section
variable {kind : Nat} {deliver : State → State}

theorem relayOn_of_count_zero (h : wbRelayCount c = 0) : relayOn st c s = s := by
  rw [relayOn, h]
  exact if_pos rfl

section
variable (hr : s.stationRuns st = true)
include hr

theorem arrive_of_bad_crc {d : Bytes} (hc : wbCrcOk c = false) (hf : (s.fab.flight.find? fun e => e.1 == st) = some (st, d)) :
    arrive kind st c deliver s = (landed st d s).countDrop st 24 := by
  rw [arrive, if_neg (by simp [hr]), if_pos (by simp [hc]), hf]
  rfl

variable (hc : wbCrcOk c = true)
include hc

theorem arrive_of_not_oldest (ho : s.oldestFlight st (wbSrc c) ≠ some (st, c)) : arrive kind st c deliver s = s := by
  rw [arrive, if_neg (by simp [hr]), if_neg (by simp [hc]), if_pos (by simpa using ho)]

variable (ho : s.oldestFlight st (wbSrc c) = some (st, c))
include ho

/-- The oldest carriage of its pair leaves the fabric and meets the checks after its CRC. -/
theorem arrive_of_oldest : arrive kind st c deliver s =
    if wbKind c ≠ kind || !kindAccepted st (wbSrc c) kind || 256 < wbLength c || wbRelayDir c = 3 then (landed st c s).countDrop st 0
    else if !s.stg.staleOff && carriageStale (wbShort c) (s.stamp % 2 ^ 32) then (landed st c s).countDrop st 8
    else if st < 256 && wbRole c ≠ s.roleStamp st then
      ((landed st c s).countDrop st 16).event 0x0004 0 0xFF ⟨1, st⟩ (toLe 2 st ++ toLe 2 (wbSrc c))
    else if st < 256 && s.coachOut st then relayOn st c (landed st c s)
    else relayOn st c (deliver (landed st c s)) := by
  rw [arrive, if_neg (by simp [hr]), if_neg (by simp [hc]), if_neg (by simp [ho])]
  rfl

theorem arrive_of_bad_kind (hk : wbKind c ≠ kind ∨ kindAccepted st (wbSrc c) kind = false ∨ 256 < wbLength c ∨ wbRelayDir c = 3) :
    arrive kind st c deliver s = (landed st c s).countDrop st 0 := by
  rw [arrive_of_oldest hr hc ho, if_pos (by simpa [or_assoc] using hk)]

variable (hk : ¬(wbKind c ≠ kind ∨ kindAccepted st (wbSrc c) kind = false ∨ 256 < wbLength c ∨ wbRelayDir c = 3))
include hk

theorem arrive_of_stale (hs : s.stg.staleOff = false ∧ carriageStale (wbShort c) (s.stamp % 2 ^ 32) = true) :
    arrive kind st c deliver s = (landed st c s).countDrop st 8 := by
  rw [arrive_of_oldest hr hc ho, if_neg (by simpa [or_assoc] using hk), if_pos (by simpa using hs)]

theorem arrive_of_other_role (hs : ¬(s.stg.staleOff = false ∧ carriageStale (wbShort c) (s.stamp % 2 ^ 32) = true)) (hst : st < 256)
    (hrole : wbRole c ≠ s.roleStamp st) : arrive kind st c deliver s =
      ((landed st c s).countDrop st 16).event 0x0004 0 0xFF ⟨1, st⟩ (toLe 2 st ++ toLe 2 (wbSrc c)) := by
  rw [arrive_of_oldest hr hc ho, if_neg (by simpa [or_assoc] using hk), if_neg (by simpa using hs), if_pos (by simp [hst, hrole])]

end

/-- A carriage that passes every check, with no relay, is delivered. -/
theorem arrive_of_arrives (h : Arrives kind st c s) : arrive kind st c deliver s = deliver (landed st c s) := by
  obtain ⟨hr, ho, hc, hkind, hacc, hlen, hdir, hstale, hrole, hrelay⟩ := h
  have hfresh : ¬(!s.stg.staleOff && carriageStale (wbShort c) (s.stamp % 2 ^ 32)) = true := by
    rcases hstale with h | h <;> rw [h]
    · exact Bool.false_ne_true
    · rw [Bool.and_false]
      exact Bool.false_ne_true
  have hmine : ¬(decide (st < 256) && decide (wbRole c ≠ s.roleStamp st)) = true := by simpa using fun h => (hrole h).1
  have hin : ¬(decide (st < 256) && s.coachOut st) = true := by simpa using fun h => (hrole h).2
  rw [arrive_of_oldest hr hc ho, if_neg (by simp [hkind, hacc, hlen, hdir]), if_neg hfresh, if_neg hmine, if_neg hin,
    relayOn_of_count_zero hrelay]

end

end Sys2Proof.Machine

namespace Sys2Proof.Proofs

open Sys2Proof.Machine Sys2Proof.Safety

/-- Settles O26: what is sent and remembered, or refused at the source. -/
theorem carriagesAreSentOrRefusedAtTheSource : Obligations.CarriagesAreSentOrRefusedAtTheSource := by
  intro src r s hc hs ho u role c
  refine ⟨fun ⟨hd, hl, hr⟩ => ⟨_, congrArg Host.Outcome.next (carriageSend_of_route hc hs ho hd hl hr), ?_, ?_, ?_, ?_, ?_, ?_⟩,
    fun h => congrArg Host.Outcome.next (carriageSend_of_refused hc hs ho h)⟩
  · rw [State.remember_fab, State.nextCycle_fab, State.inject, State.unqueued_fab]
    rfl
  · rw [State.remember_queues]
    rfl
  · rw [State.remember_sram]
    exact State.unqueued_sram s src r
  · rw [State.remember_ctxs]
    rfl
  · rw [State.remember_fills, State.nextCycle_coa, State.inject, State.unqueued_fills]
  · rw [State.remember_reads, State.nextCycle_coa, State.inject, State.unqueued_reads]
    rfl

/-- Settles O27: each of the ten commands is `arrive` with its kind, and `arrive` answers check by check. -/
theorem carriagesAreCheckedInOrderAndDropsCounted : Obligations.CarriagesAreCheckedInOrderAndDropsCounted := by
  intro st c s hr p hp badKind stale
  obtain ⟨deliver, hexec⟩ : ∃ deliver, exec p.2 s = .next (arrive p.1 st c deliver s) := by
    fin_cases hp <;> exact ⟨_, rfl⟩
  rw [hexec]
  refine ⟨fun d hc hf => ?_, fun hc ho => ?_, fun hc ho => ⟨fun hk => ?_, fun hk hs => ?_, fun hk hs hst hrole => ?_⟩⟩
  · rw [arrive_of_bad_crc hr hc hf]
  · rw [arrive_of_not_oldest hr hc ho]
  · rw [arrive_of_bad_kind hr hc ho hk]
  · rw [arrive_of_stale hr hc ho hk hs]
  · rw [arrive_of_other_role hr hc ho hk hs hst hrole]

end Sys2Proof.Proofs
end

section
/-! PROOFS. What a carriage that has arrived does at its station, by kind (R68, R73, R86, R87, R171, R184, R191, R204 to R206, R231, R298). -/

namespace Sys2Proof.Machine

open Sys2Proof.Safety

variable {s v : State} {st : Nat} {c : Bytes}

/-! ### Fields of a payload -/

theorem leNat_append (a b : Bytes) : leNat (a ++ b) = leNat a + 256 ^ a.length * leNat b := by
  induction a with
  | nil => simp [leNat]
  | cons x a ih => simp only [List.cons_append, leNat, ih, List.length_cons, pow_succ]; ring

theorem leNat_lt (a : Bytes) : leNat a < 256 ^ a.length := by
  induction a with
  | nil => simp [leNat]
  | cons x a ih =>
    have hx := x.isLt
    rw [leNat, List.length_cons, pow_succ]
    omega

theorem field_lt (p : Bytes) (off n : Nat) : field p off n < 256 ^ n :=
  (leNat_lt _).trans_le (Nat.pow_le_pow_right (by decide) (List.length_take_le n _))

/-- A field of eight bytes is two of four. -/
theorem field_eight (p : Bytes) : field p 0 8 = field p 0 4 + 2 ^ 32 * field p 4 4 := by
  simp only [field, slice, List.drop_zero]
  rw [show 8 = 4 + 4 from rfl, List.take_add, leNat_append, List.length_take]
  rcases Nat.le_total 4 p.length with h | h
  · rw [Nat.min_eq_left h]
    rfl
  · simp [List.drop_eq_nil_of_le h, leNat]

/-- The length and the return address that a READ's payload names (R86). -/
theorem readRequest_fields (p : Bytes) : bits (field p 0 8) 40 32 = field p 4 4 % 512 ∧ field p 0 8 % 2 ^ 21 = field p 0 4 % 2 ^ 21 := by
  have h4 : field p 0 4 < 2 ^ 32 := field_lt p 0 4
  rw [bits, field_eight]
  generalize field p 0 4 = a at h4
  generalize field p 4 4 = b
  omega

theorem length_wbPayload (c : Bytes) : (wbPayload c).length = wbLength c := length_fit _ _

theorem Tab.length_getBytes (d : Byte) (t : Table Byte) (i n : Nat) : (Tab.getBytes d t i n).length = n := by
  induction n generalizing i with
  | zero => rfl
  | succ n ih => simp [Tab.getBytes, ih]

/-! ### WRITE (R86, R87, R374) -/

/-- WRITE_ACK, where the WRITE asks for one. -/
def State.ackWrite (s : State) (st : Nat) (c : Bytes) : State := if wbAck c then s.reply st (wbSrc c) (wbRole c) 4 0 (wbTag c) (wbLast c) [] else s

theorem deliverWrite_coach (h : st < 256) : deliverWrite st c s = (s.sramWrite st (wbAddress c % sramBytes) (wbPayload c)).ackWrite st c := if_pos h

section
variable (h : 256 ≤ st)
include h

theorem deliverWrite_outside (hw : windowRefuses st c (wbLength c) s = true) : deliverWrite st c s = answerError st c 1 s := by
  rw [deliverWrite, length_wbPayload]
  exact (if_neg (by omega)).trans (if_pos hw)

variable (hw : windowRefuses st c (wbLength c) s = false)
include hw

theorem deliverWrite_bus_error (hd : (dramWrite (wbSrc c) (wbAddress c) (wbPayload c) s).1 = false) :
    deliverWrite st c s = answerError st c 2 (dramWrite (wbSrc c) (wbAddress c) (wbPayload c) s).2 := by
  rw [deliverWrite, length_wbPayload]
  dsimp only
  rw [if_neg (by omega), if_neg (by simp [hw])]
  split
  · next t ht => rw [ht] at hd; cases hd
  · next t ht => rw [ht]

theorem deliverWrite_lines (hd : (dramWrite (wbSrc c) (wbAddress c) (wbPayload c) s).1 = true) :
    deliverWrite st c s = (dramWrite (wbSrc c) (wbAddress c) (wbPayload c) s).2.ackWrite st c := by
  rw [deliverWrite, length_wbPayload]
  dsimp only
  rw [if_neg (by omega), if_neg (by simp [hw])]
  split
  · next t ht => rw [ht]; rfl
  · next t ht => rw [ht] at hd; cases hd

end

/-! ### READ and its replies (R86, R87, R373) -/

theorem sendReplies_of_short {bs : Bytes} (h : bs.length ≤ 256) (dst role tag n addr : Nat) (s : State) :
    sendReplies st dst role tag (n + 1) addr bs s = s.reply st dst role 3 addr tag true bs := if_pos h

theorem length_of_dramRead {req addr len : Nat} {bs : Bytes} (h : dramRead req addr len s = (some bs, v)) : bs.length = len := by
  unfold dramRead at h
  split at h
  · cases h
    exact Tab.length_getBytes ..
  · cases h

section
variable {len : Nat} (hl : len = field (wbPayload c) 4 4 % 512)
include hl

theorem deliverRead_coach (h : st < 256) (hs : len ≤ 256) : deliverRead st c s =
    s.reply st (wbSrc c) (wbRole c) 3 (field (wbPayload c) 0 4 % 2 ^ 21) (wbTag c) true (s.sramRead st (wbAddress c % sramBytes) len) := by
  obtain ⟨hlen, hret⟩ := readRequest_fields (wbPayload c)
  rw [deliverRead, hlen, hret, ← hl]
  exact (if_pos h).trans (sendReplies_of_short (le_of_eq_of_le (length_fit _ _) hs) _ _ _ _ _ _)

variable (h : 256 ≤ st)
include h

theorem deliverRead_outside (hw : windowRefuses st c len s = true) : deliverRead st c s = answerError st c 1 s := by
  rw [deliverRead, (readRequest_fields _).1, ← hl]
  exact (if_neg (by omega)).trans (if_pos hw)

variable (hw : windowRefuses st c len s = false)
include hw

theorem deliverRead_bus_error (hd : dramRead (wbSrc c) (wbAddress c) len s = (none, v)) : deliverRead st c s = answerError st c 2 v := by
  rw [deliverRead, (readRequest_fields _).1, ← hl]
  rw [if_neg (by omega), if_neg (by simp [hw]), hd]

theorem deliverRead_lines (hs : len ≤ 256) {bs : Bytes} (hd : dramRead (wbSrc c) (wbAddress c) len s = (some bs, v)) : deliverRead st c s =
    v.reply st (wbSrc c) (wbRole c) 3 (field (wbPayload c) 0 4 % 2 ^ 21) (wbTag c) true bs := by
  obtain ⟨hlen, hret⟩ := readRequest_fields (wbPayload c)
  rw [deliverRead, hlen, hret, ← hl]
  rw [if_neg (by omega), if_neg (by simp [hw]), hd]
  exact sendReplies_of_short ((length_of_dramRead hd).trans_le hs) _ _ _ _ _ _

end

/-! ### REPLY, WRITE_ACK and SAVE (R73, R86, R231) -/

theorem deliverReply_coach (h : st < 256) : deliverReply st c s =
    let v := s.sramWrite st (wbAddress c % sramBytes) (wbPayload c)
    if wbLast c then wakeReply st (tagCtx (wbTag c)) (v.readDone st (wbTag c)) else v := if_pos h

theorem deliverWriteAck_coach (h : st < 256) : deliverWriteAck st c s = if wbLast c then wakeReply st (tagCtx (wbTag c)) s else s := by
  rw [deliverWriteAck, decide_eq_true h, Bool.true_and]

theorem deliverSave_coach (h : st < 256) : deliverSave st c s = { s with coa := s.coa.putPiece st (wbAddress c) (wbPayload c) } := if_pos h

theorem deliverSave_dram (h : 256 ≤ st) (h' : st < 268) : deliverSave st c s =
    if packageRefuses st c (wbLength c) s then answerError st c 1 s else (dramWrite (wbSrc c) (wbAddress c) (wbPayload c) s).2 :=
  (if_neg (by omega)).trans (if_pos h')

end Sys2Proof.Machine

namespace Sys2Proof.Proofs

open Sys2Proof.Machine Sys2Proof.Safety

/-- Settles O28: a carriage that arrives is delivered, and its kind's delivery answers case by case. -/
theorem dataCarriagesDeliver : Obligations.DataCarriagesDeliver := by
  intro st c s hs u
  have written : SramWritten u (u.sramWrite st (wbAddress c % 2097152) (wbPayload c)) st (wbAddress c % 2097152) (wbPayload c) :=
    sramWrite_written rfl (sram_wf_of_sound hs) _ _
  refine ⟨fun h => ?_, fun h => ?_, fun h hst => ?_, fun h hst => ?_, fun h => ?_⟩
  · have hexec : exec (.carriageWrite st c) s = .next (deliverWrite st c u) := congrArg Host.Outcome.next (arrive_of_arrives h)
    rw [hexec]
    refine ⟨fun hst => ⟨_, written, rfl, ?_⟩, fun hst hw => ?_, fun hst hw hd => ?_, fun hst hw hd => ?_⟩
    · rw [deliverWrite_coach hst]
      rfl
    · rw [deliverWrite_outside hst hw]
    · rw [deliverWrite_bus_error hst hw hd]
    · rw [deliverWrite_lines hst hw hd]
      rfl
  · have hexec : exec (.carriageRead st c) s = .next (deliverRead st c u) := congrArg Host.Outcome.next (arrive_of_arrives h)
    rw [hexec]
    refine ⟨fun hst hl => ?_, fun hst hw => ?_, fun hst hw v hd => ?_, fun hst hw hl bs v hd => ⟨length_of_dramRead hd, ?_⟩⟩
    · rw [deliverRead_coach rfl hst hl]
      rfl
    · rw [deliverRead_outside rfl hst hw]
    · rw [deliverRead_bus_error rfl hst hw hd]
    · rw [deliverRead_lines rfl hst hw hl hd]
  · exact ⟨_, written, rfl, congrArg Host.Outcome.next ((arrive_of_arrives h).trans (deliverReply_coach hst))⟩
  · exact congrArg Host.Outcome.next ((arrive_of_arrives h).trans (deliverWriteAck_coach hst))
  · have hexec : exec (.carriageSave st c) s = .next (deliverSave st c u) := congrArg Host.Outcome.next (arrive_of_arrives h)
    rw [hexec]
    refine ⟨fun hst => ?_, fun hst hst' hp => ?_, fun hst hst' hp => ?_⟩
    · rw [deliverSave_coach hst]
    · rw [deliverSave_dram hst hst', if_pos hp]
    · rw [deliverSave_dram hst hst', if_neg (by simp [hp])]

end Sys2Proof.Proofs
end

section
/-! PROOFS. Seats, fills, answers and errors that have arrived (R74, R86, R171, R184, R204 to R206, R250, R298, R379). -/

namespace Sys2Proof.Machine

open Sys2Proof.Safety

variable {s : State} {st : Nat} {c : Bytes}

theorem deliverSeat_coach (h : st < 256) (hl : wbLength c ≠ 0) : deliverSeat st c s =
    let v := s.sramWrite st (wbAddress c % sramBytes) (wbPayload c)
    if wbLast c then
      wakeSeat st (tagCtx (wbTag c)) { v with coa := { v.coa with fills := Tab.set [] v.coa.fills (st * 2 ^ 32 + wbTag c) [] } }
    else v := by
  rw [deliverSeat, if_pos h]
  simp only [if_neg hl]

theorem deliverError_coach (h : st < 256) :
    deliverError st c s = haltContext st (tagCtx (wbTag c)) (field (wbPayload c) 0 4) (s.readDone st (wbTag c)) := if_pos h

/-! ### FILL (R171, R184, R204 to R206) -/

/-- Stage that a FILL names (R204). -/
def State.fillStage (s : State) (c : Bytes) : Nat := resStage s.stg.stage (field (wbPayload c) 2 2)

/-- Place in SRAM that a FILL names (R204). -/
def fillDest (c : Bytes) : Nat := field (wbPayload c) 8 4 % 2 ^ 21

/-- A FILL that its hub cannot take: no place in SRAM, a stage that has come, a die of another hub, a code word of a namespace that the session may
not read, another erase generation (R204, R206). -/
def State.fillFaulty (s : State) (st : Nat) (c : Bytes) (x : Session) : Bool :=
  let w := fillWord (wbPayload c)
  fillDest c % 64 != 0 || decide (sramBytes ≤ fillDest c + 4095) || decide (s.fillStage c ≤ s.stg.stage) || hubOf w.die + 268 != st ||
    !s.blockOf w (field (wbPayload c) 15 1) || Tab.get 0 s.fla.gen (pbOf w) != field (wbPayload c) 12 4 % 2 ^ 17 ||
    !readQuota x (field (wbPayload c) 15 1 + 1)

theorem State.fillFaulty_eq_false_iff {x : Session} : s.fillFaulty st c x = false ↔
    fillDest c % 64 = 0 ∧ fillDest c + 4095 < sramBytes ∧ s.stg.stage < s.fillStage c ∧ hubOf (fillWord (wbPayload c)).die + 268 = st ∧
      s.blockOf (fillWord (wbPayload c)) (field (wbPayload c) 15 1) = true ∧
      Tab.get 0 s.fla.gen (pbOf (fillWord (wbPayload c))) = field (wbPayload c) 12 4 % 2 ^ 17 ∧
      readQuota x (field (wbPayload c) 15 1 + 1) = true := by
  simp only [State.fillFaulty, Bool.or_eq_false_iff, bne_eq_false_iff_eq, decide_eq_false_iff_not, Nat.not_le, Bool.not_eq_false',
    and_assoc]

/-- Open reads, or read-outs, of a partition on a die in a stage that are filled already. -/
def State.filled (s : State) (part : Nat) (ro : Bool) (die stage : Nat) : List OpenRead :=
  s.fla.openReads.filter fun o => o.part == part && o.readOut == ro && o.die == die && o.stage == stage

/-- A FILL taken: the read that it fills, and the lapse of the context that waits on its tag (R170, R204). -/
def State.takeFill (s : State) (c : Bytes) (part die : Nat) (ro : Bool) : State :=
  let fill := some (fillWord (wbPayload c), fillDest c, wbTag c, wbRole c, wbSrc c)
  ({ s with fla := { s.fla with openReads := s.fla.openReads ++
    [{ part := part, die := die, stage := s.fillStage c, readOut := ro, fill := fill }] } } : State).setLapse (wbSrc c) (wbTag c)

theorem deliverFill_of_no_part (h : s.coachPart (wbSrc c) = none) : deliverFill st c s = emptySeat st c s := by
  simp only [deliverFill, h]

/-- The session reserves an open read on the die and in the stage that a FILL names (R171). -/
def State.fillReserved (s : State) (c : Bytes) (x : Session) : Bool := reservedOpen x (fillWord (wbPayload c)).die (s.fillStage c)

/-- The read-out seats that the session holds on a FILL's channel in its stage (R184). -/
def State.fillSeats (s : State) (c : Bytes) (x : Session) : Nat := readOutSeats s.fla.tRead x (chanOf (fillWord (wbPayload c)).die) (s.fillStage c)
section
variable {part n : Nat} {x : Session} (hp : s.coachPart (wbSrc c) = some part) (hn : s.coachSess (wbSrc c) = some n) (hx : s.sess? n = some x)
include hp hn hx

/-- A FILL from a coach of a session's partition: taken, or answered at once by an empty SEAT. -/
theorem deliverFill_of_session : deliverFill st c s =
    let w := fillWord (wbPayload c)
    let die := s.fillReserved c x
    let ro := !die && decide ((s.filled part true (w.die / 16 * 16) (s.fillStage c)).length < s.fillSeats c x)
    if s.fillFaulty st c x || !(die || ro) || die && (s.filled part false w.die (s.fillStage c)).length != 0 then emptySeat st c s
    else s.takeFill c part (if ro then w.die / 16 * 16 else w.die) ro := by
  simp only [deliverFill, hp, hn, hx]
  rfl

theorem deliverFill_of_faulty (h : s.fillFaulty st c x = true) : deliverFill st c s = emptySeat st c s := by
  rw [deliverFill_of_session hp hn hx]
  exact if_pos (by simp [h])

/-- A reserved open read that is filled already is filled no second time (R171). -/
theorem deliverFill_of_filled (hr : s.fillReserved c x = true) (hf : s.filled part false (fillWord (wbPayload c)).die (s.fillStage c) ≠ []) :
    deliverFill st c s = emptySeat st c s := by
  rw [deliverFill_of_session hp hn hx]
  exact if_pos (by simp [hr, hf])

theorem deliverFill_of_unreserved (hr : s.fillReserved c x = false) (hs : s.fillSeats c x = 0) : deliverFill st c s = emptySeat st c s := by
  rw [deliverFill_of_session hp hn hx]
  exact if_pos (by simp [hr, hs])

variable (h : s.fillFaulty st c x = false)
include h

theorem deliverFill_of_open (hr : s.fillReserved c x = true) (hf : s.filled part false (fillWord (wbPayload c)).die (s.fillStage c) = []) :
    deliverFill st c s = s.takeFill c part (fillWord (wbPayload c)).die false := by
  rw [deliverFill_of_session hp hn hx]
  simp [h, hr, hf]

theorem deliverFill_of_readOut (hr : s.fillReserved c x = false)
    (hs : (s.filled part true ((fillWord (wbPayload c)).die / 16 * 16) (s.fillStage c)).length < s.fillSeats c x) :
    deliverFill st c s = s.takeFill c part ((fillWord (wbPayload c)).die / 16 * 16) true := by
  rw [deliverFill_of_session hp hn hx]
  simp [h, hr, hs]

end

/-- Whether an open read is filled already (R171). -/
theorem State.filled_eq_nil_iff {part die stage : Nat} : s.filled part false die stage = [] ↔
    ∀ o ∈ s.fla.openReads, ¬(o.part = part ∧ o.readOut = false ∧ o.die = die ∧ o.stage = stage) := by
  simp only [State.filled, List.filter_eq_nil_iff, Bool.and_eq_true, beq_iff_eq, and_assoc]

theorem State.filled_readOut (part die stage : Nat) : s.filled part true die stage =
    s.fla.openReads.filter fun o => o.part == part && o.readOut && o.die == die && o.stage == stage := by
  simp only [State.filled, beq_true]

/-! ### ANSWER (R298) -/

/-- The items that an ANSWER brings, with their places (R298). -/
def answerItemsOf (c : Bytes) : List (Nat × Item) :=
  (List.range (field (wbPayload c) 8 2)).map fun i =>
    (field (wbPayload c) 4 4 + i, ⟨field (wbPayload c) (16 + 16 * i) 8, BitVec.ofNat 32 (field (wbPayload c) (16 + 16 * i + 8) 4)⟩)

/-- A list of a merge tree after an ANSWER: its items taken, where it is the open list of the handle named. -/
def AList.answered (c : Bytes) (l : AList) : AList :=
  if l.handle == field (wbPayload c) 0 4 && !l.ended then
    { l with items := l.items ++ answerItemsOf c, flags := Nat.lor l.flags (field (wbPayload c) 10 1), ended := wbLast c }
  else l

theorem AList.answered_handle (c : Bytes) (l : AList) : (l.answered c).handle = l.handle := by
  unfold AList.answered
  split <;> rfl

theorem AList.answered_eq (c : Bytes) (l : AList) : if l.handle = field (wbPayload c) 0 4 ∧ l.ended = false
    then (l.answered c).items = l.items ++ answerItemsOf c ∧ (l.answered c).ended = wbLast c else l.answered c = l := by
  unfold AList.answered
  split
  · next h => simp [h]
  · next h => exact if_neg (by simpa using h)

theorem deliverAnswer_trees : (deliverAnswer c s).ans.trees = s.ans.trees.map fun e => (e.1, { e.2 with lists := e.2.lists.map (AList.answered c) }) := rfl

end Sys2Proof.Machine

namespace Sys2Proof.Proofs

open Sys2Proof.Machine Sys2Proof.Safety

/-- Settles O29: a carriage that arrives is delivered, and its kind's delivery answers case by case. -/
theorem seatsFillsAnswersAndErrorsDeliver : Obligations.SeatsFillsAnswersAndErrorsDeliver := by
  intro st c s hs u
  refine ⟨fun h hst hl => ?_, fun h => ⟨fun hp => ?_, fun part n x hp hn hx => ?_⟩, fun h => ?_, fun h hst => ?_,
    fun h => congrArg Host.Outcome.next (arrive_of_arrives h)⟩
  · exact ⟨u.sramWrite st _ _, sramWrite_written rfl (sram_wf_of_sound hs) _ _, rfl,
      congrArg Host.Outcome.next ((arrive_of_arrives h).trans (deliverSeat_coach hst hl))⟩
  · exact congrArg Host.Outcome.next ((arrive_of_arrives h).trans (deliverFill_of_no_part hp))
  · intro p w stage dest sound
    have hsound : u.fillFaulty st c x = false ↔ sound := State.fillFaulty_eq_false_iff
    have hexec : exec (.carriageFill st c) s = .next (deliverFill st c u) := congrArg Host.Outcome.next (arrive_of_arrives h)
    rw [hexec]
    refine ⟨fun hf => ?_, fun hf hr => ⟨fun ho => ?_, fun ⟨o, ho, hfill⟩ => ?_⟩, fun hf hr hlt => ?_, fun hr hz => ?_⟩
    · rw [deliverFill_of_faulty hp hn hx (by simpa using mt hsound.1 hf)]
    · rw [deliverFill_of_open hp hn hx (hsound.2 hf) hr (State.filled_eq_nil_iff.2 ho)]
      rfl
    · rw [deliverFill_of_filled hp hn hx hr fun hnil => State.filled_eq_nil_iff.1 hnil o ho hfill]
    · rw [deliverFill_of_readOut hp hn hx (hsound.2 hf) hr (by rw [State.filled_readOut]; exact hlt)]
      rfl
    · rw [deliverFill_of_unreserved hp hn hx hr hz]
  · intro p items
    have hitems : items = answerItemsOf c := List.map_congr_left fun i _ => by rw [show 24 + 16 * i = 16 + 16 * i + 8 by omega]
    refine ⟨deliverAnswer c u, congrArg Host.Outcome.next (arrive_of_arrives h), ?_, ?_⟩
    · rw [deliverAnswer_trees, List.length_map]
      rfl
    · rw [deliverAnswer_trees]
      intro e he
      obtain ⟨e', he', rfl⟩ := List.mem_map.1 he
      refine ⟨e', he', rfl, List.length_map _, fun l hl => ?_⟩
      obtain ⟨l', hl', rfl⟩ := List.mem_map.1 hl
      rw [hitems]
      exact ⟨l', hl', AList.answered_handle c l', AList.answered_eq c l'⟩
  · exact congrArg Host.Outcome.next ((arrive_of_arrives h).trans (deliverError_coach hst))

end Sys2Proof.Proofs
end

section
/-! PROOFS. Firmware's folds of the drop and ECC counters, role words, contexts and the sequencer (R72 to R74, R90 to R92, R376). -/

namespace Sys2Proof.Machine

open Sys2Proof.Safety

variable {s : State}

/-! ### Folds into the health log (R90, R376) -/

theorem fabDropFold_of_firmware (hp : s.powered = true) (hf : s.boot.ph.firmware = true) (st : Nat) : fabDropFold st s =
    let x := (Tab.get 0 s.fab.drop st).toNat
    ({ s with fab := { s.fab with drop := Tab.set 0 s.fab.drop st 0 } } : State).health fun h => { h with
      dropCrc := h.dropCrc + x / 2 ^ 24 % 256, dropRole := h.dropRole + x / 2 ^ 16 % 256
      dropStale := h.dropStale + x / 2 ^ 8 % 256, dropKind := h.dropKind + x % 256 } := by
  rw [fabDropFold, if_pos (by simp [hp, hf])]
  simp [bits]

theorem drmEccFold_of_firmware (hp : s.powered = true) (hf : s.boot.ph.firmware = true) (pkg : Nat) : drmEccFold pkg s =
    let x := (Tab.get 0 s.drm.ecc pkg).toNat
    ({ s with drm := { s.drm with ecc := Tab.set 0 s.drm.ecc pkg 0 } } : State).health fun h => { h with
      dramCorrected := h.dramCorrected + x % 65536, dramPoison := h.dramPoison + x / 2 ^ 16 % 256
      dramUncorr := h.dramUncorr + x / 2 ^ 24 % 256 } := by
  rw [drmEccFold, if_pos (by simp [hp, hf])]
  simp [bits]

/-! ### Role words (R91, R92) -/

/-- A role word assigned anew: OUT stands, the role stamp is one higher modulo 256 (R92). -/
def roleAfter (assigned : Bool) (part : Nat) (w : BitVec 32) : BitVec 32 :=
  BitVec.ofNat 32 (w.toNat / 32768 % 2 * 32768 + (if assigned then 16384 + part % 16 * 256 else 0) + (w.toNat + 1) % 256)

/-- Role words of a team's coaches are all that a write of roles changes. -/
theorem State.writeRole_eq (team : Nat) (assigned : Bool) (part : Nat) : s.writeRole team assigned part =
    { s with coa := { s.coa with role := Tab.updates 0 id (fun _ w => roleAfter assigned part w) (teamCoaches team) s.coa.role } } := by
  unfold State.writeRole
  generalize teamCoaches team = l
  rfl

theorem State.writeRole_role (team : Nat) (assigned : Bool) (part : Nat) :
    (s.writeRole team assigned part).coa.role = Tab.updates 0 id (fun _ w => roleAfter assigned part w) (teamCoaches team) s.coa.role := by
  rw [State.writeRole_eq]

theorem State.writeRole_frame (team : Nat) (assigned : Bool) (part : Nat) :
    s.writeRole team assigned part = { s with coa := { s.coa with role := (s.writeRole team assigned part).coa.role } } := by
  rw [State.writeRole_eq]

theorem nodup_teamCoaches (team : Nat) : (teamCoaches team).Nodup := List.nodup_range.map fun _ _ => Nat.add_left_cancel

/-- A team's role words are written; those of other teams stand (R92). -/
theorem State.coaRole_writeRole (h : Tab.wf 0 s.coa.role = true) (team : Nat) (assigned : Bool) (part c : Nat) :
    (s.writeRole team assigned part).coaRole c = if c ∈ teamCoaches team then roleAfter assigned part (s.coaRole c) else s.coaRole c := by
  rw [State.coaRole, State.writeRole_role]
  split
  · next hc => exact Tab.get_updates_of_mem 0 id _ (by rw [List.map_id]; exact nodup_teamCoaches team) h (x := c) hc
  · next hc => exact Tab.get_updates_of_forall_ne 0 id _ _ h fun x hx he => hc (he ▸ hx)

theorem roleWrite_of_powered (hp : s.powered = true) {team : Nat} (ht : team < 16) (assigned : Bool) (part : Nat) :
    roleWrite team assigned part s = s.writeRole team assigned part := if_pos (by simp [hp, ht])

/-! ### Contexts (R73, R74) -/

section
variable {coach ctx : Nat} (hp : s.powered = true)

theorem contextFree_of_not_halted (h : (s.ctx coach ctx).st ≠ .halted) : contextFree coach ctx s = s := if_neg (by simp [h])

theorem contextRestart_of_not_halted (h : (s.ctx coach ctx).st ≠ .halted) : contextRestart coach ctx s = s := if_neg (by simp [h])

include hp

theorem contextFree_of_halted (h : (s.ctx coach ctx).st = .halted) : contextFree coach ctx s = s.setCtx coach ctx {} := if_pos (by simp [hp, h])

theorem contextRestart_of_halted (h : (s.ctx coach ctx).st = .halted) : contextRestart coach ctx s =
    s.setCtx coach ctx { s.ctx coach ctx with st := .ready, fault := 0, tag := 0, replies := 0, lapse := 0 } := if_pos (by simp [hp, h])

/-- A wait ends with no reply outstanding, or with room in the unit's queue (R73). -/
theorem contextWake_of_waiting (hw : (s.ctx coach ctx).st = .waiting)
    (h : (s.ctx coach ctx).unit = none ∧ (s.ctx coach ctx).replies = 0 ∨ ∃ q, (s.ctx coach ctx).unit = some q ∧ s.queued coach q < queueCap q) :
    contextWake coach ctx s = s.setCtx coach ctx { s.ctx coach ctx with st := .ready, tag := 0, lapse := 0, unit := none } := by
  refine if_pos ?_
  rcases h with ⟨hu, hr⟩ | ⟨q, hu, hq⟩
  · simp [hp, hw, hu, hr]
  · simp [hp, hw, hu, hq]

end

/-! ### The sequencer (R72, R73) -/

/-- The state in which a context issues: the turn has passed on, its program counter is kept (R72). -/
def State.issuing (s : State) (coach ctx pc : Nat) : State :=
  let turn : State := { s with coa := { s.coa with nextCtx := Tab.set 0 s.coa.nextCtx coach ((ctx + 1) % 64) } }
  turn.setCtx coach ctx { turn.ctx coach ctx with pc := BitVec.ofNat 64 pc }

section
variable {coach : Nat} (hr : s.coachRuns coach = true) (hh : (s.coachSess coach).all (fun n => (s.sess? n).any s.holds) = true)
include hr hh

/-- The coach of a session that holds it. -/
theorem sequencerIssue_of_held (pc : Nat) (i : Issue) : sequencerIssue coach pc i s =
    match s.nextReady coach with
    | none => s
    | some ctx => (s.issuing coach ctx pc).issue coach ctx i := by
  refine (if_neg ?_).trans rfl
  cases hc : s.coachSess coach with
  | none => simp [hr]
  | some n =>
    rw [hc] at hh
    cases hx : s.sess? n with
    | none => simp [hx] at hh
    | some x => simpa [hr, hx] using hh

theorem sequencerIssue_of_none (hn : s.nextReady coach = none) (pc : Nat) (i : Issue) : sequencerIssue coach pc i s = s := by
  rw [sequencerIssue_of_held hr hh, hn]

theorem sequencerIssue_of_ready {ctx : Nat} (hn : s.nextReady coach = some ctx) (pc : Nat) (i : Issue) :
    sequencerIssue coach pc i s = (s.issuing coach ctx pc).issue coach ctx i := by
  rw [sequencerIssue_of_held hr hh, hn]

end

/-- An instruction for a unit takes the last place in its queue, or its context waits for one (R73). -/
theorem State.issue_toUnit (coach ctx : Nat) (i : UnitInstr) : s.issue coach ctx (.toUnit i) =
    let k := coach * 4 + unitNo i.unit
    let l := Tab.get [] s.coa.queues k
    if l.length < queueCap i.unit then { s with coa := { s.coa with queues := Tab.set [] s.coa.queues k (l ++ [i]) } }
    else s.setCtx coach ctx { s.ctx coach ctx with st := .waiting, tag := 0, replies := 0, lapse := 0, unit := some i.unit } := rfl

end Sys2Proof.Machine

namespace Sys2Proof.Proofs

open Sys2Proof.Machine Sys2Proof.Safety

/-- Settles O30: the fields folded and cleared, and the role words of a team's 16 coaches. -/
theorem firmwareFoldsCountersAndWritesRoles : Obligations.FirmwareFoldsCountersAndWritesRoles := by
  refine ⟨fun st s hp hf => ⟨_, congrArg Host.Outcome.next (fabDropFold_of_firmware hp hf st), rfl, rfl⟩,
    fun pkg s hp hf => ⟨_, congrArg Host.Outcome.next (drmEccFold_of_firmware hp hf pkg), rfl, rfl⟩,
    fun team part assigned s hp ht hw => ⟨_, congrArg Host.Outcome.next (roleWrite_of_powered hp ht assigned part),
      State.writeRole_frame team assigned part, fun c => ?_⟩⟩
  rw [State.coaRole_writeRole hw]
  rfl

/-- Settles O25: what firmware does with a context, what wakes one, and what the next to issue does. -/
theorem contextsWaitWakeAndEnd : Obligations.ContextsWaitWakeAndEnd := by
  refine ⟨fun coach ctx s hp => ⟨fun h => ⟨?_, ?_⟩, fun h => ⟨?_, ?_⟩, fun hw h => ?_⟩, fun coach pc i s hr hh => ⟨fun hn => ?_, fun ctx hn => ?_⟩⟩
  · exact congrArg Host.Outcome.next (contextFree_of_halted hp h)
  · exact congrArg Host.Outcome.next (contextRestart_of_halted hp h)
  · exact congrArg Host.Outcome.next (contextFree_of_not_halted h)
  · exact congrArg Host.Outcome.next (contextRestart_of_not_halted h)
  · exact congrArg Host.Outcome.next (contextWake_of_waiting hp hw h)
  · exact congrArg Host.Outcome.next (sequencerIssue_of_none hr hh hn pc i)
  · intro turn u
    have hexec : ∀ i, exec (.sequencerIssue coach pc i) s = .next (u.issue coach ctx i) :=
      fun i => congrArg Host.Outcome.next (sequencerIssue_of_ready hr hh hn pc i)
    refine ⟨fun tag replies lapse => hexec _, fun gpr stream => hexec _, fun f => hexec _, fun i => ?_⟩
    intro k l
    rw [hexec, State.issue_toUnit]
    exact apply_ite Host.Outcome.next _ _ _

end Sys2Proof.Proofs
end

section
/-! PROOFS. A wait that lapses over a READ which its coach has no route to send again (R80, R208). -/

namespace Sys2Proof.Machine

/-- A context of coach 0 that waits past its stage over an unanswered READ of DRAM station 256. Both mesh links of coach 0 are bad: kept
READs go with a session's save area to the coaches that take it, whose routes may differ from those that sent them (R80, R208, R231). -/
def unroutedWait : State :=
  { State.reset with
    stg := { State.reset.stg with stage := 1 }
    pwr := { State.reset.pwr with standby := true, rails := true }
    fab := { bad := [0, 240] }
    coa := { ctxs := [(0, { st := .waiting, replies := 1, lapse := 1 })], reads := [(0, mkCarriage 256 0 0 0 2 0 0 0 [])] } }

theorem unroutedWait_lateReads : unroutedWait.lateReads 0 0 ≠ [] := by decide +kernel

/-- The READ that is to be sent again is refused at its source, which halts the context (R74, R80). -/
theorem waitLapse_unroutedWait : ((waitLapse 0 0 .hop unroutedWait).ctx 0 0).st = .halted := by decide +kernel

end Sys2Proof.Machine

namespace Sys2Proof.Proofs

open Sys2Proof.Machine Sys2Proof.Safety

/-- Refutes O41: where a late READ is sent again the statement has every context stand as it was, but a READ that has no route is answered with
ERROR at its source, and the context that its TAG names halts. -/
theorem not_missesLapseAndUnitsLeave : ¬ Obligations.MissesLapseAndUnitsLeave := by
  rintro ⟨hwait, -⟩
  obtain ⟨hlate, -⟩ := hwait 0 0 .hop unroutedWait rfl rfl (by decide) (by decide)
  obtain ⟨t, ht, hctxs, -⟩ := hlate unroutedWait_lateReads
  have ht : t = waitLapse 0 0 .hop unroutedWait := (Host.Outcome.next.inj ht).symm
  have hst : (t.ctx 0 0).st = (unroutedWait.ctx 0 0).st := by rw [State.ctx, hctxs, State.ctx]
  rw [ht, waitLapse_unroutedWait] at hst
  exact absurd hst (by decide)

end Sys2Proof.Proofs
end

section
/-! PROOFS. Elementwise operations: operands spread over the result's shape, and the function of each position (R145, R147, R500). -/

namespace Sys2Proof.Machine

/-! ### Broadcast shapes (R145) -/

theorem prod_eq_list_prod (l : List Nat) : prod l = l.prod := List.prod_eq_foldl.symm

theorem prod_reverse (l : List Nat) : prod l.reverse = prod l := by
  rw [prod_eq_list_prod, prod_eq_list_prod, List.prod_reverse]

theorem bshape_self (sh : List Nat) : bshape sh sh = some sh := by
  induction sh with
  | nil => rfl
  | cons d ds ih => simp [bshape, ih]

/-- A shape of ones broadcasts to every shape of its rank. -/
theorem bshape_ones (sh : List Nat) : bshape sh (List.replicate sh.length 1) = some sh := by
  induction sh with
  | nil => rfl
  | cons d ds ih => simp [bshape, List.replicate_succ, ih]

/-- A flat index of a shape reads the element of its own number from an operand of that shape. -/
theorem bindex_self (sh : List Nat) (i : Nat) (hi : i < prod sh) : bindex sh sh i = i := by
  induction sh generalizing i with
  | nil => exact (Nat.lt_one_iff.mp hi).symm
  | cons d ds ih =>
    rw [prod_eq_list_prod, List.prod_cons, ← prod_eq_list_prod] at hi
    have hin : (if d = 1 then 0 else i % d) = i % d := by
      split
      · next hd => rw [hd, Nat.mod_one]
      · rfl
    calc bindex (d :: ds) (d :: ds) i = i % d + d * (i / d) := by rw [bindex, hin, ih _ (Nat.div_lt_of_lt_mul hi)]
      _ = i := Nat.mod_add_div i d

theorem bindex_ones (sh : List Nat) (n i : Nat) : bindex sh (List.replicate n 1) i = 0 := by
  induction n generalizing sh i with
  | zero => simp [bindex]
  | succ n ih => cases sh <;> simp [bindex, List.replicate_succ, ih]

section
variable {α : Type} {sh : List Nat}

theorem spread_self (d : α) {l : List α} (h : l.length = prod sh) : spread sh sh d l = l := by
  refine List.ext_getElem (by simp [spread, h]) fun i _ hi => ?_
  have hb : bindex sh.reverse sh.reverse i = i := bindex_self _ i (by rwa [prod_reverse, ← h])
  simp [spread, hb, hi]

/-- An operand of one element holds it at every position. -/
theorem spread_ones (d k : α) (n : Nat) : spread sh (List.replicate n 1) d [k] = List.replicate (prod sh) k := by
  simp [spread, bindex_ones]

end

/-! ### The function of each position (R145, R147) -/

section
variable {e : OpEnv} {t : Nat} {sh : List Nat} {a b c : List F32} (hout : e.out? 0 = some (t, sh))
include hout

theorem OpEnv.put0_of_out (hfmt : arithOut (e.tensor t).fmt = true) (l : List F32) : e.put0 sh l = some { res := [(t, .vals l)] } := by
  simp [OpEnv.put0, hout, hfmt]

section
variable (hfmt : arithOut (e.tensor t).fmt = true) (ha : a.length = prod sh)
include hfmt ha

theorem OpEnv.zip2_of_same_shape (hb : b.length = prod sh) (h0 : e.float? 0 = some (sh, a)) (h1 : e.float? 1 = some (sh, b)) (f : F32 → F32 → F32) :
    e.zip2 f = some { res := [(t, .vals (a.zipWith f b))] } := by
  simp only [OpEnv.zip2, h0, h1, bshape_self, spread_self _ ha, spread_self _ hb, OpEnv.put0_of_out hout hfmt]

theorem OpEnv.zip2_of_one_element (h0 : e.float? 0 = some (sh, a)) {k : F32} (h1 : e.float? 1 = some (List.replicate sh.length 1, [k]))
    (f : F32 → F32 → F32) : e.zip2 f = some { res := [(t, .vals (a.map fun x => f x k))] } := by
  have hk : a.zipWith f (List.replicate (prod sh) k) = a.map fun x => f x k := by
    rw [← ha, ← List.map_const', List.zipWith_map_right, List.zipWith_self]
  simp only [OpEnv.zip2, h0, h1, bshape_ones, spread_self _ ha, spread_ones, hk, OpEnv.put0_of_out hout hfmt]

theorem opFmaF_of_same_shape (hb : b.length = prod sh) (hc : c.length = prod sh) (h0 : e.float? 0 = some (sh, a)) (h1 : e.float? 1 = some (sh, b))
    (h2 : e.float? 2 = some (sh, c)) : opFmaF e = some { res := [(t, .vals ((a.zip b).zipWith (fun p z => ffma p.1 p.2 z) c))] } := by
  simp only [opFmaF, h0, h1, h2, bshape_self, Option.bind_some, spread_self _ ha, spread_self _ hb, spread_self _ hc, OpEnv.put0_of_out hout hfmt]

theorem opSelectF_of_same_shape (hb : b.length = prod sh) {m : List Nat} (hm : m.length = prod sh) (h0 : e.mask? 0 = some (sh, m))
    (h1 : e.float? 1 = some (sh, a)) (h2 : e.float? 2 = some (sh, b)) :
    opSelectF e = some { res := [(t, .vals (m.zipWith (fun k p => if k ≠ 0 then p.1 else p.2) (a.zip b)))] } := by
  simp only [opSelectF, h0, h1, h2, bshape_self, Option.bind_some, spread_self _ ha, spread_self _ hb, spread_self _ hm, OpEnv.put0_of_out hout hfmt]

end

theorem opUnaryF_of_func (hfmt : arithOut (e.tensor t).fmt = true) (h0 : e.float? 0 = some (sh, a)) {n : Nat} {f : F32 → F32}
    (hn : e.attr 3 = some n) (hf : funcOf n = some f) : opUnaryF e = some { res := [(t, .vals (a.map f))] } := by
  simp only [opUnaryF, hn, Option.bind_some, hf, h0, OpEnv.put0_of_out hout hfmt]

theorem opCmpF_of_same_shape (hfmt : (e.tensor t).fmt = .byte) (ha : a.length = prod sh) (hb : b.length = prod sh) (h0 : e.float? 0 = some (sh, a))
    (h1 : e.float? 1 = some (sh, b)) {n : Nat} {f : F32 → F32 → Bool} (hn : e.attr 0x10 = some n) (hf : cmpOf n = some f) :
    opCmpF e = some { res := [(t, .bytes (a.zipWith (fun x y => if f x y then 1 else 0) b))] } := by
  simp [opCmpF, hn, hf, h0, h1, hout, hfmt, bshape_self, spread_self _ ha, spread_self _ hb]

end

/-- GATED by GELU (FUNC 16). -/
theorem opGatedF_gelu {e : OpEnv} (h : e.attr 3 = some 16) : opGatedF e = e.zip2 fun x y => fmul x (fgelu y) := by
  simp [opGatedF, h]

/-- GATED by SILU (FUNC 17). -/
theorem opGatedF_silu {e : OpEnv} (h : e.attr 3 = some 17) : opGatedF e = e.zip2 fun x y => fmul x (fsilu y) := by
  simp [opGatedF, h]

end Sys2Proof.Machine

namespace Sys2Proof.Proofs

open Sys2Proof.Machine Sys2Proof.Safety

/-- Settles O37: an operand of the result's shape spreads to itself and an operand of one element to its copies, so each function acts position
by position. -/
theorem elementwiseOperationsApplyTheirFunction : Obligations.ElementwiseOperationsApplyTheirFunction := by
  intro e t sh a b hout ha hb put
  refine ⟨fun hfmt h0 h1 => ?_, fun hfmt h0 k h1 => ?_, fun hfmt h0 n f hn hf => opUnaryF_of_func hout hfmt h0 hn hf,
    fun hfmt h0 h1 n f hn hf => opCmpF_of_same_shape hout hfmt ha hb h0 h1 hn hf,
    fun hfmt h1 h2 m hm h0 => opSelectF_of_same_shape hout hfmt ha hb hm h0 h1 h2⟩
  · have hzip : ∀ f, e.zip2 f = put (a.zipWith f b) := OpEnv.zip2_of_same_shape hout hfmt ha hb h0 h1
    exact ⟨hzip fadd, hzip fsub, hzip fmul, hzip fdiv, hzip fmax, hzip fmin, fun h => (opGatedF_gelu h).trans (hzip _),
      fun h => (opGatedF_silu h).trans (hzip _), fun c hc h2 => opFmaF_of_same_shape hout hfmt ha hb hc h0 h1 h2⟩
  · have hzip : ∀ f, e.zip2 f = put (a.map fun x => f x k) := OpEnv.zip2_of_one_element hout hfmt ha h0 h1
    exact ⟨hzip fadd, hzip fmul⟩

end Sys2Proof.Proofs
end

section
/-! PROOFS. Staged namespace writes, and EMIT (R155, R158, R196, R296 to R298, R503, R504). -/

namespace Sys2Proof.Machine

variable {s u v : State} {sess op : Nat} {x0 x : Session} {r0 r : Run} {o : OpRec} {q : Ready}

/-! ### NS_WRITE (R155, R503, R504) -/

section
variable {ti : Nat} {sl : RunSlot} {n : Ns} {off len : Nat} (hn : s.nextOf? sess op 0x0063 = some (x0, r0, o))
  (hv : s.enterGroup sess o.group = v) (hr : v.run? sess = some (x, r)) (hf : r.fault = 0) (ht : o.in? 1 = some ti)
  (hsl : r.slot? (imgTensor r.route.image ti) = some sl) (he : v.checkFull.extent sl = some (n, off, len))
include hn hv hr hf ht hsl he

theorem opNsWrite_of_refused (hw : v.checkFull.nsRefuses x n.nsid = true) : opNsWrite sess op s = v.checkFull.faultRun sess 4 (some op) := by
  simp [opNsWrite, hn, hv, hr, hf, ht, hsl, he, hw]

variable (hw : v.checkFull.nsRefuses x n.nsid = false) (hq : v.checkFull.opEnv x r o = (q, u)) (hc : q.code = 0) (hs : skipsOp q.env = false)
include hw hq hc hs

/-- Both staging copies of the operation wait. -/
theorem opNsWrite_suspends (h : 2 ≤ (r.staging.filter fun g => g.1 == op).length) : opNsWrite sess op s =
    u.updRun sess fun r => { r with stalled := true, tt := r.tt.map fun t => { t with suspended := some u.stg.stage } } := by
  simp [opNsWrite, hn, hv, hr, hf, ht, hsl, he, hw, hq, hc, hs, h]

/-- A tensor that is known and fits its extent takes the free copy. -/
theorem opNsWrite_stages {xi : Nat} (h : (r.staging.filter fun g => g.1 == op).length < 2) (hk : q.unknown = false) (hx : o.in? 0 = some xi)
    (hl : (imgTensor r.route.image xi).bytes ≤ len) : opNsWrite sess op s =
    (u.updRun sess fun r => { r with staging := r.staging ++ [(op, n.nsid - 1, off, q.env.bytes xi)] }).opDone sess op := by
  simp [opNsWrite, hn, hv, hr, hf, ht, hsl, he, hw, hq, hc, hs, not_le.2 h, hk, hx, not_lt.2 hl]

end

/-! ### Staged data enters the buffer (R296, R504) -/

/-- The largest number up to a bound that meets a test, 0 where none does. -/
theorem foldl_max_range_filter {p : Nat → Bool} {n b : Nat} (hn : n ≤ b) (hp : n = 0 ∨ p n = true) (hmax : ∀ m, n < m → m ≤ b → p m = false) :
    ((List.range (b + 1)).filter p).foldl max 0 = n := by
  refine le_antisymm ?_ ?_
  · refine List.foldlRecOn (motive := (· ≤ n)) _ _ (Nat.zero_le n) fun a ha m hm => max_le ha (not_lt.1 fun hlt => ?_)
    obtain ⟨hmem, hpm⟩ := List.mem_filter.1 hm
    simp [hmax m hlt (Nat.lt_succ_iff.1 (List.mem_range.1 hmem))] at hpm
  · rcases hp with rfl | hp
    · exact Nat.zero_le _
    · rw [List.foldl_filter]
      exact (le_foldl_max p id _ 0).2 n (List.mem_range.2 (Nat.lt_succ_of_le hn)) hp

/-- The oldest staged data: as many of its pieces enter as fit, and the copy is free once all have. -/
theorem stagedWriteEnterBuffer_eq {k ns off n : Nat} {d : Bytes} {rest : List (Nat × Nat × Nat × Bytes)} (hp : s.powered = true)
    (hr : s.run? sess = some (x, r)) (hst : r.staging = (k, ns, off, d) :: rest) (hns : (s.ns? (ns + 1)).isSome = true)
    (hn : n ≤ (s.spanPieces ns off d).length) (hfit : n = 0 ∨ s.fits (s.newUnits ns ((s.spanPieces ns off d).take n)) = true)
    (hmax : ∀ m, n < m → m ≤ (s.spanPieces ns off d).length → s.fits (s.newUnits ns ((s.spanPieces ns off d).take m)) = false) :
    stagedWriteEnterBuffer sess s = (if n = 0 then s else s.bufferWrite (some sess) ns ((s.spanPieces ns off d).take n)).updRun sess fun r =>
      { r with staging := if n = (s.spanPieces ns off d).length then rest else (k, ns, off + 4096 * n, d.drop (4096 * n)) :: rest } := by
  simp only [stagedWriteEnterBuffer, hr, hst, hp, Option.isNone_eq_false_iff.2 hns, foldl_max_range_filter hn hfit hmax, Bool.not_true,
    Bool.false_eq_true, if_false]
  by_cases hall : n = (s.spanPieces ns off d).length
  · simp only [if_pos hall]
  · simp only [if_neg hall]

/-! ### EMIT (R155, R196, R297, R298) -/

theorem opEmit_eq_emitNow (hn : s.nextOf? sess op 0x0064 = some (x0, r0, o)) (hr : (s.enterGroup sess o.group).run? sess = some (x, r))
    (hf : r.fault = 0) : opEmit sess op s = emitNow sess op (s.enterGroup sess o.group) := by
  simp [opEmit, hn, hr, hf]

theorem emitResume_eq_emitNow (hr : s.run? sess = some (x, r)) (hw : r.emitWait = some op) (hl : s.runLive x r = true) :
    emitResume sess s = emitNow sess op (s.updRun sess fun r => { r with emitWait := none }) := by
  simp [emitResume, hr, hw, hl]

/-- The teams of a run's timetable. -/
def Run.teams (r : Run) : List Nat := match r.tt with | some t => t.plan.teams | none => []

/-- The coach that hands items to a merge tree: the first of some teams in service with a route to the answer unit. -/
def State.handingCoach (s : State) (teams : List Nat) : Option Nat :=
  (teams.flatMap teamCoaches).find? fun c => s.coachIn c && s.routeOrder c 286 != 2

/-- Items on their way to a merge tree, where a coach hands them. -/
def State.sendItems (s : State) (teams : List Nat) (k : Nat) (items : List Item) : State :=
  match s.handingCoach teams with
  | some c => if items.isEmpty then s else sendAnswers c k 0 (items.length / 15 + 1) 0 items s
  | none => s

/-- The list stays open for items that travel, and is ended at once where it has none or holds them already. -/
theorem State.handItems_eq (s : State) (teams : List Nat) (k : Nat) (items : List Item) : s.handItems teams k 0 items =
    (if items.isEmpty = false ∧ (s.handingCoach teams).isSome then ⟨k, [], 0, false⟩ else ⟨k, (List.range items.length).zip items, 0, true⟩,
      s.sendItems teams k items) := by
  unfold State.handItems State.sendItems
  split
  · next c hc =>
    have hcoach : s.handingCoach teams = some c := hc
    cases items <;> simp [hcoach]
  · next hc =>
    have hcoach : s.handingCoach teams = none := hc
    simp [hcoach]

section
variable {items : List Item} (hr : s.run? sess = some (x, r)) (hq : s.opEnv x r (imgOp r.route.image op) = (q, u)) (hc : q.code = 0)
  (hs : skipsOp q.env = false) (hk : q.unknown = false) (hi : emitItems q.env = some items) (herr : r.erred = false)
include hr hq hc hs hk hi herr

theorem emitNow_of_no_tree (ht : u.freeTree = none) : emitNow sess op s = u.updRun sess fun r => { r with emitWait := some op } := by
  simp [emitNow, hr, hq, hc, hs, hk, hi, herr, ht]

variable {k : Nat} (ht : u.freeTree = some k)
include ht

theorem emitNow_of_no_space (hp : protFree x < u.treeBytes sess + recordBytes items.length 0) :
    emitNow sess op s = u.updRun sess fun r => { r with emitWait := some op } := by
  simp [emitNow, hr, hq, hc, hs, hk, hi, herr, ht, hp]

/-- With a tree and space for the record the items are handed over, and the operation is done. -/
theorem emitNow_hands (hp : u.treeBytes sess + recordBytes items.length 0 ≤ protFree x) {h : AList × State}
    (hh : u.handItems r.teams k 0 items = h) :
    let t : Tree := ⟨sess, 4, (opAttr r.route.image (imgOp r.route.image op) 0x15).getD 0, 0, items.length, [h.1], r.flags, items.length, 0, [], none, none⟩
    emitNow sess op s = { h.2 with ans := { h.2.ans with trees := Tab.put h.2.ans.trees k t } }.opDone sess op := by
  subst hh
  simp only [emitNow, hr, hq, hc, ne_eq, not_true_eq_false, ↓reduceIte, hs, Bool.false_eq_true, hk, hi, Option.isNone_some, herr, Bool.or_self, ht,
    not_lt.2 hp]
  rfl

end

end Sys2Proof.Machine

namespace Sys2Proof.Proofs

open Sys2Proof.Machine Sys2Proof.Safety

/-- Settles O38: NS_WRITE refused, suspended or staged, staged data entering the buffer, and EMIT waiting or handing its items over. -/
theorem nsWritesAreStagedAndItemsEmitted : Obligations.NsWritesAreStagedAndItemsEmitted := by
  refine ⟨?_, ?_, fun sess op s => ⟨?_, ?_, ?_⟩⟩
  · intro sess op s x0 x r0 r o ti sl n off len hn hr hf ht hsl w he
    refine ⟨fun hw => congrArg Host.Outcome.next (opNsWrite_of_refused hn rfl hr hf ht hsl he hw), fun hw q u hq hc hs => ⟨fun h => ?_, ?_⟩⟩
    · exact congrArg Host.Outcome.next (opNsWrite_suspends hn rfl hr hf ht hsl he hw hq hc hs h)
    · exact fun xi h hk hx hl => congrArg Host.Outcome.next (opNsWrite_stages hn rfl hr hf ht hsl he hw hq hc hs h hk hx hl)
  · exact fun sess k ns off d rest x r s hp hr hst hns n hn hfit hmax =>
      congrArg Host.Outcome.next (stagedWriteEnterBuffer_eq hp hr hst hns hn hfit hmax)
  · exact fun x0 r0 o x r hn hr hf => congrArg Host.Outcome.next (opEmit_eq_emitNow hn hr hf)
  · exact fun x r hr hw hl => congrArg Host.Outcome.next (emitResume_eq_emitNow hr hw hl)
  · intro x r q u items hr hq hc hs hk hi herr wait
    refine ⟨emitNow_of_no_tree hr hq hc hs hk hi herr, fun k ht => ⟨emitNow_of_no_space hr hq hc hs hk hi herr ht, fun hp =>
      ⟨_, rfl, rfl, rfl, rfl, emitNow_hands hr hq hc hs hk hi herr ht hp (u.handItems_eq r.teams k items)⟩⟩⟩

end Sys2Proof.Proofs
end

section
/-! PROOFS. ROUTE LOAD in pieces and from an extent, and RUN (R128, R130, R158, R216, R328, R413, R415, R416). -/

namespace Sys2Proof.Machine

open Sys2Proof.Safety

variable {s : State} {tag : Tag} {c : Ctrl} {sess handle : Nat} {x : Session}

/-- A session whose partial image of a handle is forgotten. -/
def Session.dropPartial (handle : Nat) (x : Session) : Session := { x with partials := x.partials.filter fun p => p.handle != handle }

/-- A complete image that fails the checks of R128 is refused with their reason, and its pieces are forgotten. -/
theorem State.takeImage_of_failing {image : Bytes} (hx : s.sess? sess = some x) (hc : imageCheck image ≠ 0) (source : Option (Nat × Nat × Nat)) :
    s.takeImage tag sess handle image source = (s.updSess sess (Session.dropPartial handle)).refuse tag (imageCheck image) := by
  rw [State.takeImage, hx]
  dsimp only
  split
  · next h0 => exact absurd h0 hc
  · rfl

/-- What an extent holds: its header's IMAGE_SIZE bounds the second read (R415). -/
theorem State.readImage_eq {n : Ns} {lba blocks : Nat} {hd : Bytes} {b : Option Bytes} {v w : State}
    (hv : readSpan (n.nsid - 1) (lba * n.lba) (min 128 (blocks * n.lba)) s = (some hd, v)) (hlen : min (imgSize hd) (blocks * n.lba) ≠ 0)
    (hw : readSpan (n.nsid - 1) (lba * n.lba) (min (imgSize hd) (blocks * n.lba)) v = (b, w)) : s.readImage n lba blocks = (b, w) := by
  rw [State.readImage, hv]
  dsimp only
  rw [if_neg hlen, hw]

theorem State.nsid_of_ns? {nsid : Nat} {n : Ns} (hn : s.ns? nsid = some n) : n.nsid = nsid := by
  simpa using List.find?_some hn

section
variable (h : AdmitsSess tag c sess x s)
include h

/-! ### ROUTE LOAD in pieces (R415) -/

theorem routeLoad_out_of_range {piece : Bytes} (hr : 32 ≤ handle ∨ 8388608 < piece.length) (first : Bool) (offset : Nat) :
    routeLoad tag sess handle first offset piece s = s.fail tag .invalidField := by
  rw [routeLoad, command_sessCommand_of_admits h]
  exact if_pos (by simpa using hr)

section
variable (hh : handle < 32) {piece : Bytes} (hl : piece.length ≤ 8388608)
include hh hl

/-- A first piece that holds a header: out of sequence, without room, complete, or kept. -/
theorem routeLoad_first (h128 : 128 ≤ piece.length) (offset : Nat) : routeLoad tag sess handle true offset piece s =
    let u := s.updSess sess (Session.dropPartial handle)
    if offset ≠ 0 then s.refuse tag 0x0D
    else if protFree (x.dropPartial handle) < imgSize piece then u.refuse tag 0x0B
    else if imgSize piece < piece.length then u.refuse tag 0x0D
    else if piece.length = imgSize piece then u.takeImage tag sess handle piece none
    else (u.updSess sess fun x => { x with partials := x.partials ++ [⟨handle, imgSize piece, piece⟩] }).succeed tag piece.length 0 [] := by
  rw [routeLoad, command_sessCommand_of_admits h, if_neg (by simp; omega), if_pos rfl, if_neg (not_lt.2 h128)]
  rfl

/-- A later piece: out of sequence, the last one, or one more. -/
theorem routeLoad_later {p : Partial} (hp : (x.partials.find? fun p => p.handle == handle) = some p) (offset : Nat) :
    routeLoad tag sess handle false offset piece s =
      if offset ≠ p.bytes.length ∨ p.size < offset + piece.length then s.refuse tag 0x0D
      else if offset + piece.length = p.size then s.takeImage tag sess handle (p.bytes ++ piece) none
      else (s.updSess sess fun x => { x with
        partials := updateIf (fun p => p.handle == handle) (fun p => { p with bytes := p.bytes ++ piece }) x.partials }).succeed tag (offset + piece.length) 0 [] := by
  rw [routeLoad, command_sessCommand_of_admits h, if_neg (by simp; omega), if_neg Bool.false_ne_true, hp]
  simp only [Bool.or_eq_true, decide_eq_true_eq]

end

/-! ### ROUTE LOAD from an extent (R216, R328, R415) -/

section
variable (hh : handle < 32) {nsid : Nat} {n : Ns} (hn : s.ns? nsid = some n)
include hh hn

theorem routeLoadExtent_of_unreadable (hq : readQuota x nsid = false ∨ n.lock.readLock = true) (lba blocks : Nat) :
    routeLoadExtent tag sess handle nsid lba blocks s = s.refuse tag 0x43 := by
  rw [routeLoadExtent, command_sessCommand_of_admits h, if_neg (not_le.2 hh), hn]
  exact if_pos (by simpa using hq)

theorem routeLoadExtent_of_readable (hq : readQuota x nsid = true) (hl : n.lock.readLock = false) {lba blocks : Nat} (hr : (lba + blocks) * n.lba ≤ n.size)
    {b : Bytes} {w : State} (hb : (s.updSess sess (Session.dropPartial handle)).readImage n lba blocks = (some b, w)) :
    routeLoadExtent tag sess handle nsid lba blocks s = w.takeImage tag sess handle b (some (nsid, lba, blocks)) := by
  unfold Session.dropPartial at hb
  rw [routeLoadExtent, command_sessCommand_of_admits h, if_neg (not_le.2 hh), hn]
  dsimp only
  rw [if_neg (by simp [hq, hl]), if_neg (not_lt.2 hr), hb]

end

/-! ### RUN (R158, R416) -/

theorem run_of_short_block {block : Bytes} (hb : block.length < 32 + 32 * runSlotCount block) :
    run tag sess handle block s = s.fail tag .dataSglLength := by
  rw [run, command_sessCommand_of_admits h]
  exact if_pos (by simp [hb])

variable {block : Bytes} (hb : 32 + 32 * runSlotCount block ≤ block.length)
include hb

theorem run_of_no_image (hr : (x.routes.find? fun r => r.handle == handle) = none) : run tag sess handle block s = s.refuse tag 0x64 := by
  rw [run, command_sessCommand_of_admits h, if_neg (by simp; omega), hr]

theorem run_of_image {route : Route} (hr : (x.routes.find? fun r => r.handle == handle) = some route) : run tag sess handle block s =
    (s.updSess sess fun x => { x with queued := x.queued ++ [(tag, block.take (32 + 32 * runSlotCount block), route)] }).nextRun sess := by
  rw [run, command_sessCommand_of_admits h, if_neg (by simp; omega), hr]

end

end Sys2Proof.Machine

namespace Sys2Proof.Proofs

open Sys2Proof.Machine Sys2Proof.Safety

/-- Settles O39: each command by the equation of its case. -/
theorem routesLoadAndRunsQueue : Obligations.RoutesLoadAndRunsQueue := by
  intro tag c sess handle x s h
  refine ⟨fun offset piece first hr => congrArg Host.Outcome.next (routeLoad_out_of_range h hr first offset), fun hh offset piece hl => ?_,
    fun image source hx hc => State.takeImage_of_failing hx hc source, fun hh nsid lba blocks n hn => ⟨?_, ?_⟩,
    fun block => ⟨fun hb => congrArg Host.Outcome.next (run_of_short_block h hb), fun hb hr => congrArg Host.Outcome.next (run_of_no_image h hb hr),
      fun hb route hr => congrArg Host.Outcome.next (run_of_image h hb hr)⟩⟩
  · intro keep u
    refine ⟨fun h128 ho => ?_, fun h128 hp => ?_, fun h128 hp => ?_, fun p hp => ⟨fun ho hw => ?_, fun ho hlt => ?_, fun ho => ?_⟩⟩
    · exact congrArg Host.Outcome.next ((routeLoad_first h hh hl h128 offset).trans (if_pos ho))
    · have hfirst := (routeLoad_first h hh hl h128 0).trans (if_neg (not_not.2 rfl))
      refine ⟨fun hw => ?_, fun hlt => ?_⟩
      · exact congrArg Host.Outcome.next (hfirst.trans ((if_neg (not_lt.2 hp)).trans ((if_neg (not_lt.2 hw.le)).trans (if_pos hw))))
      · exact congrArg Host.Outcome.next (hfirst.trans ((if_neg (not_lt.2 hp)).trans ((if_neg (not_lt.2 hlt.le)).trans (if_neg hlt.ne))))
    · exact congrArg Host.Outcome.next ((routeLoad_first h hh hl h128 0).trans ((if_neg (not_not.2 rfl)).trans (if_pos hp)))
    · exact congrArg Host.Outcome.next ((routeLoad_later h hh hl hp offset).trans ((if_neg (by omega)).trans (if_pos hw)))
    · exact congrArg Host.Outcome.next ((routeLoad_later h hh hl hp offset).trans ((if_neg (by omega)).trans (if_neg hlt.ne)))
    · exact congrArg Host.Outcome.next ((routeLoad_later h hh hl hp offset).trans (if_pos ho))
  · exact fun hq => congrArg Host.Outcome.next (routeLoadExtent_of_unreadable h hh hn hq lba blocks)
  · intro hq hl hr u hd v b w hv hlen hw
    rw [← State.nsid_of_ns? hn] at hv hw
    exact congrArg Host.Outcome.next (routeLoadExtent_of_readable h hh hn hq hl hr (State.readImage_eq hv hlen hw))

end Sys2Proof.Proofs
end

section
/-! PROOFS. The binder, passes, the end of a run and resumption (R159 to R181, R230, R296, R416). -/

namespace Sys2Proof.Machine

variable {s : State} {id sess : Nat} {b : Bind} {x y : Session} {r : Run} {t : Timetable}

/-! ### BIND and its wait (R163, R174, R176) -/

/-- A bind that the binder may not take up yet: one before it waits, and it waits too or that one has room (R174). -/
def State.keptBack (s : State) (id : Nat) (b : Bind) : Bool :=
  (s.ses.binds.takeWhile fun c => c.id != id).any fun c => c.waiting.isSome &&
    (b.waiting.isSome || match s.sess? c.sess with | some y => !s.short c y | none => false)

theorem State.keptBack_eq_false (h : ∀ c ∈ s.ses.binds.takeWhile (fun c => c.id != id), c.waiting.isSome = true →
    b.waiting = none ∧ ∀ z, s.sess? c.sess = some z → s.short c z = true) : s.keptBack id b = false := by
  refine List.any_eq_false.2 fun c hc => ?_
  cases hw : c.waiting.isSome with
  | false => simp
  | true =>
    obtain ⟨hnew, hshort⟩ := h c hc hw
    rw [hnew]
    split
    · next z hz => simp [hshort z hz]
    · simp

/-- The bind of a number changed. -/
def State.updBind (s : State) (id : Nat) (f : Bind → Bind) : State := { s with ses := { s.ses with binds := updateIf (fun c => c.id == id) f s.ses.binds } }

/-- A bind that begins to wait in a stage, or waits on. -/
def Bind.wait (stage : Nat) (c : Bind) : Bind := { c with since := none, waiting := some (c.waiting.getD stage) }

/-- A bind that the binder takes up in a stage, with what it has waited until then. -/
def Bind.begin (stage : Nat) (c : Bind) : Bind :=
  { c with since := some stage, waiting := none, waited := c.waited + match c.waiting with | some a => stage - a | none => 0 }

/-- The binder refuses a bind with too many predicates, lets it wait, or takes it up. -/
theorem bind_eq (hb : s.bind? id = some (b, x)) (hr : s.binderRuns = true) (hs : b.since = none) (hk : s.keptBack id b = false) (hl : s.fwc.limp = none)
    {w : State} (hw : (if b.what == BindFor.route then s.rereadImage x else s) = w) (hy : w.sess? x.num = some y) : bind id s =
      if 15 < (State.bindPredicates y b.what).length then w.refuseBind b y 0x29
      else if w.short b y then w.updBind id (Bind.wait w.stg.stage)
      else w.updBind id (Bind.begin w.stg.stage) := by
  have htakes : ¬(!s.binderRuns || b.since.isSome || s.keptBack id b) = true := by simp [hr, hs, hk]
  rw [bind, hb]
  dsimp only
  rw [if_neg (by simp [hl])]
  refine (if_neg htakes).trans ?_
  rw [hw, hy]
  rfl

theorem bind_of_limp (hp : s.powered = true) (hb : s.bind? id = some (b, x)) (hl : s.fwc.limp.isSome = true) : bind id s = s.refuseBind b x 0x27 := by
  simp [bind, hb, hp, hl]

theorem bindWaitExpiry_eq {w : Nat} (hp : s.powered = true) (hb : s.bind? id = some (b, x)) (hw : b.waiting = some w) :
    bindWaitExpiry id s = if w + 1048576 ≤ s.stg.stage + b.waited then s.refuseBind b x 0x28 else s := by
  simp [bindWaitExpiry, hb, hw, hp]

/-! ### BIND_COMPLETE of a route (R165, R173 to R179) -/

/-- Stages that the binder has worked on a bind that it took up at a stage. -/
def State.bindSpent (s : State) (b : Bind) (since : Nat) : Nat := b.worked + (s.stg.stage - since)

/-- The plan with which a bind completes. -/
def planOf : BindEnd → Option TtPlan
  | .fits p => some p
  | .refuse _ => none

/-- A session whose run takes its timetable, which the cache keeps (R165, R179). -/
def Session.bindRun (t : Timetable) (y : Session) : Session :=
  match y.run with
  | some r => { y with run := some (r.bound t), cache := cachePut ⟨r.handle, r.route.loads, imgHeaderCrc r.route.image, r.block.drop 32, t⟩ y.cache }
  | none => y

section
variable {since : Nat} (hp : s.powered = true) (hb : s.bind? id = some (b, x)) (hs : b.since = some since) (hw : b.what = .route) (hx : x.run = some r)
include hp hb hs hw hx

/-- Past the bound of R178 a bind neither completes nor is refused. -/
theorem bindComplete_past_bound (h : bindBound (imgOpCount r.route.image) (4 * (s.bindLayout b x).length) < s.bindSpent b since) (e : BindEnd) :
    bindComplete id e s = s := by
  unfold State.bindSpent at h
  simp [bindComplete, hb, hs, hw, hx, hp, h]

variable (hstamp : s.stg.exhausted = false) (h : s.bindSpent b since ≤ bindBound (imgOpCount r.route.image) (4 * (s.bindLayout b x).length))
include hstamp h

/-- The reason that the module finds refuses the bind (R176). -/
theorem bindComplete_refuses (e : BindEnd) {k : Nat} (hk : s.bindReason b x (planOf e) = k + 1) : bindComplete id e s = s.refuseBind b x (k + 1) := by
  unfold State.bindSpent at h
  cases e with
  | fits p =>
    have hfits : s.bindReason b x (some p) = k + 1 := hk
    simp [bindComplete, hb, hs, hw, hx, hp, hstamp, not_lt.2 h, hfits]
  | refuse j =>
    have hnone : s.bindReason b x none = k + 1 := hk
    simp [bindComplete, hb, hs, hw, hx, hp, hstamp, not_lt.2 h, hnone]

variable {p : TtPlan} (hk : s.bindReason b x (some p) = 0)
include hk

/-- A unit with nothing left lets the bind wait again (R174). -/
theorem bindComplete_waits (hshort : s.short b x = true) : bindComplete id (.fits p) s =
    s.updBind id fun c => { c with since := none, waiting := some s.stg.stage, worked := s.bindSpent b since } := by
  unfold State.bindSpent at h
  simp [bindComplete, hb, hs, hw, hx, hp, hstamp, not_lt.2 h, hk, hshort]
  rfl

/-- A plan that serves the route and fits takes its filter slots and gives the run its timetable (R165, R179, R284). -/
theorem bindComplete_binds (hshort : s.short b x = false) {slots : Table (Bytes × Nat)}
    (hslots : takeSlots (State.bindPredicates x .route) s.ses.slots = some slots) (hok : s.planOk b x slots (s.newTt b x p) = true)
    (hbound : s.bindSpent b since ≤
      bindBound (imgOpCount r.route.image) ((p.entries.filter fun e => e.kind == .dieRead).map fun e => max 1 e.rep).sum) :
    bindComplete id (.fits p) s =
      let t := s.newTt b x p
      (({ s with ses := { s.ses with slots := slots } }.countBind b (b.again || r.rebind) t).dropBind id).updSess x.num
        (Session.bindRun (placeTt t t.base t.first t.ahead (s.holds x))) := by
  unfold State.bindSpent at h hbound
  simp [bindComplete, hb, hs, hw, hx, hp, hstamp, not_lt.2 h, hk, hshort, hslots, hok, not_lt.2 hbound]
  rfl

end

/-! ### PASS_START (R165, R180, R182) -/

section
variable (hr : s.run? sess = some (x, r)) (hn : s.runsNext x r = true) (hp : r.begun < r.passes) (hd : r.nextStart = s.stg.stage + 1)
  (ho : x.st ≠ .orphaned) (hl : s.limpServes = false) (ht : r.tt = some t)
include hr hn hp hd ho hl ht

/-- The pass begins at the boundary; operation 0 is next where no pass is in progress. -/
theorem passStart_begins (hb : r.rebind = false) (hg : t.topoGen = s.ses.topoGen) (hs : s.layoutStands t = true) : passStart sess s =
    s.updRun sess fun r =>
      let q := { r with tt := some { t with started := t.started + 1, ahead := t.ahead - 1 }, begun := r.begun + 1, nextStart := r.nextStart + t.plan.passStride }
      if r.nextOp.isNone then q.passReset else q := by
  simp [passStart, hr, ht, hn, not_le.2 hp, hd, ho, hl, hb, hg, hs]

variable (hg : t.topoGen ≠ s.ses.topoGen)
include hg

theorem passStart_binds_again (ho' : r.nextOp = none) : passStart sess s =
    ((s.freeSlots (scanPredicates r.route.image)).updRun sess fun r => { r with tt := none, rebind := true }).addBind sess .route := by
  simp [passStart, hr, ht, hn, not_le.2 hp, hd, ho, hl, hg, ho']

/-- A pass that goes on ends before its run is bound again. -/
theorem passStart_marks (ho' : r.nextOp ≠ none) : passStart sess s = s.updRun sess fun r => { r with rebind := true } := by
  simp [passStart, hr, ht, hn, not_le.2 hp, hd, ho, hl, hg, ho', Option.isSome_iff_ne_none]

end

/-! ### RUN_COMPLETE (R160, R296, R416) -/

@[simp] theorem State.hold_stg (s : State) (n : Nat) (k : Held) : (s.hold n k).stg = s.stg := by
  unfold State.hold
  dsimp only
  split <;> rfl

theorem runComplete_eq (hp : s.powered = true) (hr : s.run? sess = some (x, r)) (hf : r.fault = 0) (ho : r.nextOp = none) (hs : r.staging = [])
    (hd : r.passes ≤ r.done) : runComplete sess s =
    let h := s.hold sess ⟨1, s.stamp, 0, r.flags % 8, statusRecord s.stamp r⟩
    ((if s.stg.loaded then h.nextCycle else h).succeed r.tag r.done 0 []).dropRun sess := by
  simp [runComplete, State.endRun, hr, hp, hf, ho, hs, hd]

/-! ### TIMETABLE_RESUME (R230, R504) -/

theorem State.sess?_updSess (hx : s.sess? sess = some x) {f : Session → Session} (hf : ∀ z, (f z).num = z.num) :
    (s.updSess sess f).sess? sess = some (f x) := by
  have hnum : ((fun z : Session => z.num == sess) ∘ fun z => if z.num == sess then f z else z) = fun z => z.num == sess := by
    funext z
    by_cases hz : z.num = sess <;> simp [hz, hf]
  have hfind : s.ses.list.find? (fun z => z.num == sess) = some x := hx
  rw [State.sess?, State.updSess, updateIf, List.find?_map, hnum, hfind]
  exact congrArg some (if_pos (List.find?_some hfind))

theorem State.foldl_notePeaks_ses (g : Timetable → Timetable) (ts : List Timetable) (s : State) :
    (ts.foldl (fun s t => s.notePeaks (g t)) s).ses = s.ses :=
  List.foldlRecOn (motive := fun u : State => u.ses = s.ses) ts _ rfl fun _ hu _ _ => hu

theorem State.sess?_congr {u v : State} (h : u.ses = v.ses) (n : Nat) : u.sess? n = v.sess? n := by
  rw [State.sess?, h, State.sess?]

/-- A scan whose timetable resumes at a stage where it may. -/
def Scan.resume (tRead n : Nat) (c : Scan) : Scan :=
  match c.tt with
  | some v => if resumes n v then { c with tt := some (resumeTt tRead n v) } else c
  | none => c

theorem timetableResume_sess? {n stop : Nat} (hc : s.coreClock = true) (hx : s.sess? sess = some x) (hh : s.holdsNext x = true) (hr : x.run = some r)
    (ht : r.tt = some t) (hs : t.suspended = some stop) (hst : r.stalled = false) (hn : s.stg.stage + 1 = n) (hm : (n - stop) % 64 = 0) :
    (timetableResume sess s).sess? sess = some { x with
      run := some { r with tt := some (resumeTt s.fla.tRead n t), nextStart := r.nextStart + (n - stop), stalled := false }
      scans := x.scans.map (Scan.resume s.fla.tRead n)
      buildTts := x.buildTts.map fun k => if resumes n k.2 then (k.1, resumeTt s.fla.tRead n k.2) else k } := by
  have hres : resumes n t = true := by simp [resumes, hs, hm]
  subst hn
  rw [timetableResume, hx]
  dsimp only
  rw [if_neg (by simp [hc, hh])]
  refine (State.sess?_congr (State.foldl_notePeaks_ses _ _ _) sess).trans ((State.sess?_updSess hx ?_).trans (congrArg some ?_))
  · exact fun z => rfl
  · simp [hr, ht, hres, hst, hs]
    exact fun c _ => rfl

end Sys2Proof.Machine

namespace Sys2Proof.Proofs

open Sys2Proof.Machine Sys2Proof.Safety

/-- Settles O40: what the binder does with a bind, and what a bound run does, each by the lemma of its case. -/
theorem runsBindPassAndComplete : Obligations.RunsBindPassAndComplete := by
  refine ⟨?_, ?_, ?_, ?_, ?_, ?_, ?_⟩
  · intro id b x y s hb hr hs ha hl w hy ps upd
    have heq := bind_eq hb hr hs (State.keptBack_eq_false ha) hl rfl hy
    exact ⟨fun h => congrArg Host.Outcome.next (heq.trans (if_pos h)),
      fun h hshort => congrArg Host.Outcome.next (heq.trans ((if_neg (not_lt.2 h)).trans (if_pos hshort))),
      fun h hshort => congrArg Host.Outcome.next (heq.trans ((if_neg (not_lt.2 h)).trans (if_neg (Bool.eq_false_iff.1 hshort))))⟩
  · exact fun id b x s hp hb hl => congrArg Host.Outcome.next (bind_of_limp hp hb hl)
  · exact fun id w b x s hp hb hw => congrArg Host.Outcome.next (bindWaitExpiry_eq hp hb hw)
  · intro id since b x r s hp hb hs hw hx spent
    refine ⟨fun h e => congrArg Host.Outcome.next (bindComplete_past_bound hp hb hs hw hx h e), fun hstamp h => ⟨?_, ?_, ?_, ?_⟩⟩
    · exact fun k hk j => congrArg Host.Outcome.next (bindComplete_refuses hp hb hs hw hx hstamp h (.refuse j) hk)
    · exact fun p k hk => congrArg Host.Outcome.next (bindComplete_refuses hp hb hs hw hx hstamp h (.fits p) hk)
    · exact fun p hk hshort => congrArg Host.Outcome.next (bindComplete_waits hp hb hs hw hx hstamp h hk hshort)
    · exact fun p slots hk hshort hslots hok hbound =>
        ⟨rfl, congrArg Host.Outcome.next (bindComplete_binds hp hb hs hw hx hstamp h hk hshort hslots hok hbound)⟩
  · intro sess x r t s hr hn hp hd ho hl ht
    exact ⟨fun hb hg hs => congrArg Host.Outcome.next (passStart_begins hr hn hp hd ho hl ht hb hg hs),
      fun hg hnext => congrArg Host.Outcome.next (passStart_binds_again hr hn hp hd ho hl ht hg hnext),
      fun hg hnext => congrArg Host.Outcome.next (passStart_marks hr hn hp hd ho hl ht hg hnext)⟩
  · exact fun sess x r s hp hr hf ho hs hd => congrArg Host.Outcome.next (runComplete_eq hp hr hf ho hs hd)
  · intro sess stop x r t s hc hx hh hr ht hs hst hle hm n
    refine ⟨_, rfl, (timetableResume_sess? hc hx hh hr ht hs hst rfl hm).trans ?_⟩
    rw [resumeTt, hs]
    rfl

end Sys2Proof.Proofs
end

section
/-! PROOFS. Queries: checked and queued, admitted, answered by peers, and their records (R163, R253, R254, R259, R269 to R271, R298, R299). -/

namespace Sys2Proof.Machine

open Sys2Proof.Safety

variable {s : State}

/-! ### QUERY (R163, R253) -/

theorem block_not_short {data : Bytes} {d : VecDesc} (hl : 64 ≤ data.length) (hq : qLength d data ≤ data.length) :
    ¬(decide (data.length < 64) || decide (data.length < qLength d data)) = true := by
  simp [hl, hq]

section
variable {tag : Tag} {c : Ctrl} {sess : Nat} {x : Session} {data : Bytes} {d : VecDesc} (h : AdmitsSess tag c sess x s) (hl : 64 ≤ data.length)
  (hd : ((s.ns? (qNsid data)).elim {} fun n => n.vec) = d) (hq : qLength d data ≤ data.length)
include h hl hd hq

theorem query_of_reason {r : Nat} (hr : s.queryReason x data = some r) : query tag sess data s = s.refuse tag r := by
  rw [query, command_sessCommand_of_admits h, hd]
  dsimp only
  rw [if_neg (block_not_short hl hq), hr]

/-- A block that passes its checks waits as the newest query; a search timetable is asked for where none is bound or on its way. -/
theorem query_of_no_reason (hr : s.queryReason x data = none) : query tag sess data s =
    let q : Query := ⟨s.ses.nextId, tag, sess, data.take (qLength d data), none, 0, [], 0, [], [], false⟩
    let u := { s with ses := { s.ses with nextId := s.ses.nextId + 1 } }.updSess sess fun x => { x with queries := x.queries ++ [q] }
    if x.search = none ∧ (∀ b ∈ s.ses.binds, ¬(b.sess = sess ∧ b.what = .search)) then u.addBind sess .search else u := by
  rw [query, command_sessCommand_of_admits h, hd]
  dsimp only
  rw [if_neg (block_not_short hl hq), hr]
  refine if_congr ?_ rfl rfl
  simp [State.updSess]

end

/-! ### QUERY_ADMIT (R254, R269) -/

/-- What a query that may be admitted does: a plain one is placed, a shard query is forwarded where it fits and placed 16 stages later. -/
def State.admitOldest (s : State) (x : Session) (q : Query) : State :=
  if qShard q.block then
    match q.admitted with
    | none => (match peerSet? x (qNsid q.block) with | some p => if s.fitsNow x q then s.forwardQuery x q p else s | none => s)
    | some b => if b + 16 ≤ s.stg.stage then s.admitLocal x q else s
  else s.admitLocal x q

/-- The oldest waiting query of a session that holds its teams is admitted. -/
theorem queryAdmit_of_oldest {id : Nat} {x : Session} {q : Query} (hq : s.query? id = some (x, q)) (hc : s.coreClock = true) (hm : s.boot.mode = .ready)
    (hl : s.limpServes = false) (hh : s.holds x = true) (ho : x.st = .opened) (hw : q.walks = []) (hs : x.search.isSome = true)
    (hf : qForwarded q.block = false) (hb : ∀ p ∈ x.queries.takeWhile fun p => p.id != id, p.walks ≠ []) :
    queryAdmit id s = s.admitOldest x q := by
  have hnone : ((x.queries.takeWhile fun p => p.id != id).any fun p => p.walks.isEmpty && (q.admitted.isNone || p.admitted.isSome)) = false :=
    List.any_eq_false.2 fun p hp => by simp [hb p hp]
  have hsearch : x.search.isNone = false := by simp [← Option.not_isSome, hs]
  rw [queryAdmit, hq]
  dsimp only
  rw [if_neg (by simp [hnone, hsearch, hc, hm, hl, hh, ho, hw]), if_neg (by simp [hf])]
  rfl

section
variable {x : Session} {q : Query}

theorem State.admitOldest_of_plain (h : qShard q.block = false) : s.admitOldest x q = s.admitLocal x q :=
  if_neg (Bool.eq_false_iff.1 h)

theorem State.admitOldest_of_new_shard (h : qShard q.block = true) (ha : q.admitted = none) {p : PeerSet} (hp : peerSet? x (qNsid q.block) = some p) :
    s.admitOldest x q = if s.fitsNow x q then s.forwardQuery x q p else s := by
  rw [State.admitOldest, if_pos h, ha, hp]

theorem State.admitOldest_of_forwarded_shard (h : qShard q.block = true) {b : Nat} (ha : q.admitted = some b) :
    s.admitOldest x q = if b + 16 ≤ s.stg.stage then s.admitLocal x q else s := by
  rw [State.admitOldest, if_pos h, ha]

/-- A query whose vectors find coaches is pinned to the current generation, and a walk starts for each of them. -/
theorem State.admitLocal_of_placed {n : Ns} {g : Gen} {p : Nat} {cs : List Nat} (hn : s.ns? (qNsid q.block) = some n) (hg : currentGen n = some g)
    (hp : x.part = some p) (hl : g.codeLoaded = true) (hw : n.switching = none)
    (hcs : s.placeVectors (s.partCoaches p) (queryArea n.vec q.block) n.nsid g.num n.vec (qVectors q.block) [] = some cs) :
    s.admitLocal x q = cs.zipIdx.foldl (State.startWalk q.id n g)
      (s.updQuery x.num q.id fun q => { q with admitted := some (q.admitted.getD s.stg.stage), gen := g.num }) := by
  rw [State.admitLocal, hn]
  dsimp only
  rw [hg, hp]
  dsimp only
  rw [if_neg (by simp [hl, hw]), hcs]

end

/-! ### PEER_ANSWER_FETCH and PEER_WAIT_EXPIRY (R269 to R271) -/

section
variable {id member b : Nat} {x : Session} {q : Query} (hq : s.query? id = some (x, q))
include hq

theorem peerAnswerFetch_of_nothing : peerAnswerFetch id member none s = s := by
  unfold peerAnswerFetch
  rw [hq]

variable (ha : q.admitted = some b)
include ha

/-- An awaited member's whole answer is fetched before the boundary b + PEER_WAIT, and counts for nothing from then on. -/
theorem peerAnswerFetch_of_answer {l : List PeerList} {p : PeerSet} {m : Peer} (hu : s.portUp = true) (hw : q.waitingFor.contains member = true)
    (hl : l.length = qVectors q.block) (hp : (x.peerSets.find? fun p => p.no == q.set) = some p)
    (hm : (p.peers.find? fun m => m.member == member) = some m) : peerAnswerFetch id member (some l) s =
      if b + x.peerWait ≤ s.stg.stage then s
      else (s.send (.peerFetch m.session member)).updQuery x.num id fun q =>
        { q with waitingFor := q.waitingFor.erase member, lists := q.lists ++ [(member, l)] } := by
  unfold peerAnswerFetch
  rw [hq]
  dsimp only
  rw [hp, Option.bind_some, hm]
  exact if_congr (by simp [hu, List.contains_iff_mem.1 hw, hl, ha]) rfl rfl

/-- At the end of the wait each missing member is counted; it ends a STRICT query and is left out of another. -/
theorem peerWaitExpiry_eq (hp : s.powered = true) (hs : qShard q.block = true) (hw : q.waitingFor ≠ []) : peerWaitExpiry id s =
    let u := s.health fun h => { h with missPeer := h.missPeer + q.waitingFor.length }
    if s.stg.stage + 1 < b + x.peerWait then s
    else if x.strict = true then u.missQuery (x, q)
    else u.updQuery x.num id fun q => { q with waitingFor := [], leftOut := true } := by
  rw [peerWaitExpiry, hq]
  dsimp only
  rw [ha]
  exact if_congr (by simp [hp, hs, hw]) rfl rfl

end

/-! ### ANSWER_RECORD_COMPLETE of an EMIT's tree (R298, R299) -/

theorem State.cycleStep_pos (s : State) : 0 < s.cycleStep := by
  unfold State.cycleStep
  split <;> decide

/-- A record's core cycle is not past, lies within the stage, and is later than that of a record of this stage (R299). -/
theorem State.recordCycle_bounds {c : Nat} (hs : s.stg.stage ≠ stageMax) (hc : s.recordCycle = some c) :
    s.stg.cycle ≤ c ∧ c ≤ 12299 ∧ (stampStage s.ans.last = s.stg.stage → stampCycle s.ans.last < c) := by
  have hpos := s.cycleStep_pos
  rw [State.recordCycle, if_neg hs] at hc
  obtain ⟨hle, hsome⟩ := Option.ite_none_right_eq_some.1 hc
  obtain rfl := Option.some.inj hsome
  refine ⟨?_, hle, fun h => ?_⟩
  · split
    · exact Nat.le_max_left ..
    · exact le_rfl
  · rw [if_pos h]
    omega

/-- The record of a tree in a core cycle, and the state once that cycle has come. -/
theorem State.assemble_of_cycle {t : Tree} (hb : t.built = none) {c : Nat} (hc : s.recordCycle = some c) : s.assemble t =
    let v : State := { s with stg := { s.stg with cycle := c } }
    some (treeRecord v.stamp t, ({ v with ans := { v.ans with last := v.stamp } } : State).nextCycle) := by
  rw [State.assemble, hb]
  dsimp only
  rw [hc]

theorem State.assemble_of_no_cycle {t : Tree} (hb : t.built = none) (hc : s.recordCycle = none) : s.assemble t = none := by
  rw [State.assemble, hb]
  dsimp only
  rw [hc]

section
variable {k : Nat} {t : Tree} {x : Session} (hp : s.powered = true) (ht : (s.ans.trees.find? fun e => e.1 == k) = some (k, t))
  (hl : ∀ l ∈ t.lists, l.ended = true) (hx : s.sess? t.sess = some x)
include hp ht hl hx

theorem answerRecordComplete_waits (ha : s.assemble t = none) : answerRecordComplete k s = s := by
  rw [answerRecordComplete, ht]
  dsimp only
  rw [if_neg (by simpa [hp] using hl), hx, ha]

/-- A record that no query owns is held where the protected part has room; else the tree waits with it. -/
theorem answerRecordComplete_of_no_owner (ho : t.owner = none) {r : Bytes} {u : State} (ha : s.assemble t = some (r, u)) :
    answerRecordComplete k s = if u.recordRoom x t r.length then (u.dropTree k).hold x.num (heldAnswer (field r 0 8) t r)
      else { u with ans := { u.ans with trees := Tab.put u.ans.trees k { t with built := some r } } } := by
  rw [answerRecordComplete, ht]
  dsimp only
  rw [if_neg (by simpa [hp] using hl), hx, ha]
  dsimp only
  rw [ho]

end

end Sys2Proof.Machine

namespace Sys2Proof.Proofs

open Sys2Proof.Machine Sys2Proof.Safety

/-- Settles O45: QUERY by its checks, admission by the query's kind, peers and records each by the lemma of its case. -/
theorem queriesAreAdmittedAndAnswered : Obligations.QueriesAreAdmittedAndAnswered := by
  refine ⟨?_, ?_, ?_, ?_, fun c s => State.recordCycle_bounds⟩
  · intro tag c sess x data s h hl d hlen
    exact ⟨fun r hr => congrArg Host.Outcome.next (query_of_reason h hl rfl hlen hr),
      fun hr => congrArg Host.Outcome.next (query_of_no_reason h hl rfl hlen hr)⟩
  · intro id x q s hq hc hm hl hh ho hw hs hf hb
    have hadmit := queryAdmit_of_oldest hq hc hm hl hh ho hw hs hf hb
    refine ⟨fun hplain n g p cs hn hg hp hcode hswitch hcs => ?_, fun hshard => ⟨fun ha p hp => ?_, fun b ha => ?_⟩⟩
    · exact congrArg Host.Outcome.next (hadmit.trans ((State.admitOldest_of_plain hplain).trans (State.admitLocal_of_placed hn hg hp hcode hswitch hcs)))
    · exact congrArg Host.Outcome.next (hadmit.trans (State.admitOldest_of_new_shard hshard ha hp))
    · exact congrArg Host.Outcome.next (hadmit.trans (State.admitOldest_of_forwarded_shard hshard ha))
  · intro id member l x q s hq
    refine ⟨fun b p m hu hw hl ha hp hm => ?_, ?_, fun b hp hs hw ha => ?_⟩
    · exact congrArg Host.Outcome.next (peerAnswerFetch_of_answer hq ha hu hw hl hp hm)
    · exact congrArg Host.Outcome.next (peerAnswerFetch_of_nothing hq)
    · exact congrArg Host.Outcome.next (peerWaitExpiry_eq hq ha hp hs hw)
  · intro k t x s hp ht hl hx ho hb
    refine ⟨fun hc => ?_, fun c hc => ?_⟩
    · exact congrArg Host.Outcome.next (answerRecordComplete_waits hp ht hl hx (State.assemble_of_no_cycle hb hc))
    · exact congrArg Host.Outcome.next (answerRecordComplete_of_no_owner hp ht hl hx ho (State.assemble_of_cycle hb hc))

end Sys2Proof.Proofs
end

section
/-! PROOFS. Sessions that open, are reclaimed and zeroed, and their quotas (R198, R199, R214 to R217, R220, R224, R238). -/

namespace Sys2Proof.Machine

open Sys2Proof.Safety

variable {s : State}

/-! ### Ranges that read zero (R217) -/

theorem State.zeroSlots_get (s : State) (pkg first n a : Nat) : Tab.get 0 (s.zeroSlots pkg first n).drm.data a =
    if pkg * 2 ^ 36 + first * granule ≤ a ∧ a < pkg * 2 ^ 36 + first * granule + n * granule then 0 else Tab.get 0 s.drm.data a :=
  Tab.get_clear ..

/-- A byte that reads zero still does once further ranges are zeroed. -/
theorem State.zeroRanges_keeps_zero (ranges : List (Nat × Nat × Nat)) {a : Nat} (h : Tab.get 0 s.drm.data a = 0) :
    Tab.get 0 (s.zeroRanges ranges).drm.data a = 0 := by
  refine List.foldlRecOn (motive := fun u : State => Tab.get 0 u.drm.data a = 0) ranges _ h fun u hu r _ => ?_
  rw [State.zeroSlots_get, hu, ite_self]

/-- Every byte of ranges that have been zeroed reads zero. -/
theorem State.zeroRanges_get_of_mem {ranges : List (Nat × Nat × Nat)} {r : Nat × Nat × Nat} (hr : r ∈ ranges) {a : Nat}
    (hlo : r.1 * 2 ^ 36 + r.2.1 * granule ≤ a) (hhi : a < r.1 * 2 ^ 36 + r.2.1 * granule + r.2.2 * granule) :
    Tab.get 0 (s.zeroRanges ranges).drm.data a = 0 := by
  induction ranges generalizing s with
  | nil => cases hr
  | cons r' rest ih =>
    rcases List.mem_cons.1 hr with rfl | hrest
    · exact State.zeroRanges_keeps_zero (s := s.zeroSlots r.1 r.2.1 r.2.2) rest ((State.zeroSlots_get ..).trans (if_pos ⟨hlo, hhi⟩))
    · exact ih (s := s.zeroSlots r'.1 r'.2.1 r'.2.2) hrest

@[simp] theorem State.sessEvent_ses (s : State) (n code : Nat) : (s.sessEvent n code).ses = s.ses := State.event_ses ..
@[simp] theorem State.sessEvent_drm (s : State) (n code : Nat) : (s.sessEvent n code).drm = s.drm := State.event_drm ..

/-! ### SESSION OPEN (R214, R215, R217) -/

theorem findUp_eq_none {p : Nat → Bool} {n i : Nat} (h : ∀ k, i ≤ k → k < i + n → p k = false) : findUp p n i = none := by
  induction n generalizing i with
  | zero => rfl
  | succ n ih =>
    rw [findUp, h i le_rfl (by omega)]
    exact ih fun k hi hk => h k (by omega) (by omega)

/-- The number that a search finds meets the test, and no number before it does. -/
theorem findUp_eq_some {p : Nat → Bool} {n i k : Nat} (hi : i ≤ k) (hk : k < i + n) (hp : p k = true) (h : ∀ j, i ≤ j → j < k → p j = false) :
    findUp p n i = some k := by
  induction n generalizing i with
  | zero => omega
  | succ n ih =>
    rw [findUp]
    obtain rfl | hlt := hi.eq_or_lt
    · exact if_pos hp
    · rw [h i le_rfl hlt]
      exact ih hlt (by omega) fun j hj => h j (by omega)

/-- A session opened in a partition: its key drawn, its granules placed and zeroed, its opening logged (R215, R217, R220). -/
def State.openSession (u : State) (n : Nat) (c : Ctrl) (q : Quota) (part : Option Nat) (tag : Tag) : State :=
  let ranges := (u.placeSession q.granules).getD []
  let v := u.drawKey.2.zeroRanges ranges
  ({ v with ses := { v.ses with list := v.ses.list ++ [newSession n (u.drawKey.1 % 2 ^ 64) c v.ses q part ranges tag] } } : State).sessEvent n 1

theorem State.openSession_mem (u : State) (n : Nat) (c : Ctrl) (q : Quota) (part : Option Nat) (tag : Tag) :
    newSession n (u.drawKey.1 % 2 ^ 64) c (u.drawKey.2.zeroRanges ((u.placeSession q.granules).getD [])).ses q part
      ((u.placeSession q.granules).getD []) tag ∈ (u.openSession n c q part tag).ses.list := by
  rw [State.openSession, State.sessEvent_ses]
  exact List.mem_append_right _ (List.mem_singleton_self _)

theorem State.openSession_get {u : State} {n : Nat} {c : Ctrl} {q : Quota} {part : Option Nat} {tag : Tag} {r : Nat × Nat × Nat}
    (hr : r ∈ (u.placeSession q.granules).getD []) {a : Nat} (hlo : r.1 * 2 ^ 36 + r.2.1 * granule ≤ a)
    (hhi : a < r.1 * 2 ^ 36 + r.2.1 * granule + r.2.2 * granule) : Tab.get 0 (u.openSession n c q part tag).drm.data a = 0 := by
  rw [State.openSession, State.sessEvent_drm]
  exact State.zeroRanges_get_of_mem hr hlo hhi

section
variable {tag : Tag} {c : Ctrl} (h : Admits tag c s)
include h

/-- An admitted SESSION OPEN meets the check of its major version first. -/
theorem State.openGate_of_admits (major : Nat) (f : Ctrl → State → State) :
    s.openGate tag major f = if major ≠ 1 then s.refuse tag 0x02 else f c s := by
  rw [State.openGate, Proofs.command_of_admits h]
  obtain ⟨-, -, -, -, hlimp, -⟩ := h
  obtain ⟨hl, hf⟩ := Bool.or_eq_false_iff.1 hlimp
  rw [hl, hf, if_neg Bool.false_ne_true, if_neg Bool.false_ne_true]

theorem sessionOpen_of_other_major {major : Nat} (hm : major ≠ 1) (data : Bytes) : sessionOpen tag major data s = s.refuse tag 0x02 :=
  (State.openGate_of_admits h ..).trans (if_pos hm)

theorem sessionOpen_of_no_number (data : Bytes) (hn : ∀ k, 1 ≤ k → k ≤ 64 → (s.sess? k).isSome = true) :
    sessionOpen tag 1 data s = s.refuse tag 0x61 := by
  have hfind : findUp (fun k => (s.sess? k).isNone) 64 1 = none :=
    findUp_eq_none fun k h1 hk => Option.isNone_eq_false_iff.2 (hn k h1 (by omega))
  rw [sessionOpen, State.openGate_of_admits h, if_neg (not_not.2 rfl), hfind]

section
variable {n : Nat} {data : Bytes} (h1 : 1 ≤ n) (h64 : n ≤ 64) (hfree : s.sess? n = none)
  (hbelow : ∀ k, 1 ≤ k → k < n → (s.sess? k).isSome = true) (hshort : quotaShort data = false)
include h1 h64 hfree hbelow hshort

/-- With a number free, a SESSION OPEN is judged by its descriptor and placed, and opens under the lowest free number. -/
theorem sessionOpen_of_number : sessionOpen tag 1 data s =
    match s.quotaReason none data with
    | some r => s.refuse tag r
    | none =>
      match (if (parseQuota data).teams = 0 then some (none, s) else (s.placePart (parseQuota data).teams).map fun p => (some p.1, p.2)) with
      | none => s.refuse tag 0x31
      | some (part, u) => u.openSession n c (parseQuota data) part tag := by
  have hfind : findUp (fun k => (s.sess? k).isNone) 64 1 = some n :=
    findUp_eq_some h1 (by omega) (Option.isNone_iff_eq_none.2 hfree) fun k hk hkn => Option.isNone_eq_false_iff.2 (hbelow k hk hkn)
  rw [sessionOpen, State.openGate_of_admits h, if_neg (not_not.2 rfl), hfind]
  dsimp only
  rw [hshort, if_neg Bool.false_ne_true]
  rfl

theorem sessionOpen_of_reason {r : Nat} (hr : s.quotaReason none data = some r) : sessionOpen tag 1 data s = s.refuse tag r := by
  rw [sessionOpen_of_number h h1 h64 hfree hbelow hshort, hr]

theorem sessionOpen_of_placed (hr : s.quotaReason none data = none) {part : Option Nat} {u : State}
    (hp : (if (parseQuota data).teams = 0 then some (none, s) else (s.placePart (parseQuota data).teams).map fun p => (some p.1, p.2)) = some (part, u)) :
    sessionOpen tag 1 data s = u.openSession n c (parseQuota data) part tag := by
  rw [sessionOpen_of_number h h1 h64 hfree hbelow hshort, hr]
  dsimp only
  rw [hp]

end

/-! ### The reclaim form (R216, R220) -/

/-- The right key and host take an ORPHANED session to OPEN again; anything else is refused. -/
theorem sessionOpenReclaim_eq {sess : Nat} {x : Session} (hx : s.sess? sess = some x) (key : Nat) : sessionOpenReclaim tag 1 sess key s =
    if x.st = .orphaned ∧ x.key = key ∧ x.hostId = c.hostId
    then ((s.updSess sess fun x => { x with st := .opened, ctrl := c.id, windowStart := none }).sessEvent sess 1).succeed tag (sessionDw0 x) 0 []
    else s.refuse tag 0x62 := by
  rw [sessionOpenReclaim, State.openGate_of_admits h, if_neg (not_not.2 rfl), hx]
  exact if_congr (by simp [and_assoc]) rfl rfl

end

/-! ### GRANULE_ZEROING_COMPLETE (R217) -/

theorem granuleZeroingComplete_eq {sess : Nat} {x : Session} (hp : s.powered = true) (hx : s.sess? sess = some x) :
    granuleZeroingComplete sess s = (s.updSess sess fun x => { x with zeroing := [] }).endZeroing x := by
  rw [granuleZeroingComplete, hx]
  exact if_pos hp

/-! ### QUOTA SET (R199, R224) -/

theorem teamsWait_iff {x : Session} : teamsWait x = true ↔ x.run.isSome = true ∨ x.queries.any (fun q => q.admitted.isSome) = true :=
  Bool.or_eq_true_iff

/-- A change of TEAMS waits behind a run, an admitted query or an older one that waits. -/
theorem changeWaits_iff {x : Session} : (teamsWait x || !x.quotaWait.isEmpty) = true ↔
    x.run.isSome = true ∨ x.queries.any (fun q => q.admitted.isSome) = true ∨ x.quotaWait ≠ [] := by
  rw [Bool.or_eq_true_iff, teamsWait_iff, or_assoc]
  simp

section
variable {tag : Tag} {c : Ctrl} {sess : Nat} {x : Session} {data : Bytes} (h : AdmitsSess tag c sess x s) (hshort : quotaShort data = false)
include h hshort

theorem quotaSet_of_reason {r : Nat} (hr : s.quotaReason (some x) data = some r) : quotaSet tag sess data s = s.refuse tag r := by
  rw [quotaSet, command_sessCommand_of_admits h, hshort, if_neg Bool.false_ne_true, hr]

/-- A descriptor that passes waits where it changes TEAMS and something stands in the way; else it is taken at once. -/
theorem quotaSet_of_no_reason (hr : s.quotaReason (some x) data = none) : quotaSet tag sess data s =
    if (parseQuota data).teams ≠ x.quota.teams ∧ (teamsWait x || !x.quotaWait.isEmpty) = true
    then s.updSess sess fun x => { x with quotaWait := x.quotaWait ++ [(tag, data)] }
    else s.takeQuota x tag (parseQuota data) := by
  rw [quotaSet, command_sessCommand_of_admits h, hshort, if_neg Bool.false_ne_true, hr]

end

/-- The oldest QUOTA SET that waits is judged again and taken once no run and no admitted query stands. -/
theorem quotaSetTeamsReplace_eq {sess : Nat} {x : Session} {tag : Tag} {data : Bytes} {rest : List (Tag × Bytes)} (hp : s.powered = true)
    (hx : s.sess? sess = some x) (hst : x.st ≠ .closing) (hw : x.quotaWait = (tag, data) :: rest) : quotaSetTeamsReplace sess s =
    let y := { x with quotaWait := rest }
    let u := s.updSess sess fun x => { x with quotaWait := rest }
    if x.run.isSome = true ∨ x.queries.any (fun q => q.admitted.isSome) = true then s
    else match u.quotaReason (some y) data with
      | some k => u.refuse tag k
      | none => u.takeQuota y tag (parseQuota data) := by
  rw [quotaSetTeamsReplace, hx]
  dsimp only
  rw [hw]
  refine if_congr ?_ rfl rfl
  rw [← teamsWait_iff]
  simp [hp, hst]

end Sys2Proof.Machine

namespace Sys2Proof.Proofs

open Sys2Proof.Machine Sys2Proof.Safety

/-- Settles O42: each command by the equation of its case; the session that a SESSION OPEN makes is the newest of the list, and its ranges
have been zeroed. -/
theorem sessionsOpenAndTakeQuotas : Obligations.SessionsOpenAndTakeQuotas := by
  refine ⟨fun tag c major data s h => ⟨?_, ?_, ?_⟩, ?_, ?_, ?_, ?_⟩
  · exact fun hm => congrArg Host.Outcome.next (sessionOpen_of_other_major h hm data)
  · exact fun hn => congrArg Host.Outcome.next (sessionOpen_of_no_number h data hn)
  · intro n h1 h64 hfree hbelow hshort q
    refine ⟨fun r hr => ?_, fun hr part u hp => ?_⟩
    · exact congrArg Host.Outcome.next (sessionOpen_of_reason h h1 h64 hfree hbelow hshort hr)
    · exact ⟨_, _, congrArg Host.Outcome.next (sessionOpen_of_placed h h1 h64 hfree hbelow hshort hr hp), State.openSession_mem ..,
        rfl, rfl, rfl, rfl, rfl, rfl, rfl, rfl, fun r hr a hlo hhi => State.openSession_get hr hlo hhi⟩
  · exact fun tag c sess key x s h hx => congrArg Host.Outcome.next (sessionOpenReclaim_eq h hx key)
  · exact fun sess x s hp hx => congrArg Host.Outcome.next (granuleZeroingComplete_eq hp hx)
  · intro tag c sess x data s h hshort q
    refine ⟨fun r hr => congrArg Host.Outcome.next (quotaSet_of_reason h hshort hr), fun hr => ?_⟩
    have htakes := quotaSet_of_no_reason h hshort hr
    refine ⟨fun hno => ?_, fun hteams hwaits => ?_⟩
    · refine congrArg Host.Outcome.next (htakes.trans (if_neg fun ⟨hteams, hwaits⟩ => ?_))
      exact hno.elim hteams fun hfree => hfree (changeWaits_iff.1 hwaits)
    · exact congrArg Host.Outcome.next (htakes.trans (if_pos ⟨hteams, changeWaits_iff.2 hwaits⟩))
  · exact fun tag sess data rest x s hp hx hst hw => congrArg Host.Outcome.next (quotaSetTeamsReplace_eq hp hx hst hw)

end Sys2Proof.Proofs
end

section
/-! PROOFS. Sessions that are closed and freed, and the reclaim window (R216 to R220, R224, R237). -/

namespace Sys2Proof.Machine

open Sys2Proof.Safety

variable {s : State}

/-! ### Entering CLOSING (R218, R224) -/

theorem State.num_of_sess? {n : Nat} {x : Session} (hx : s.sess? n = some x) : x.num = n := by
  simpa using List.find?_some hx

theorem State.sess?_of_openSess {c : Ctrl} {n : Nat} {x : Session} (h : s.openSess c n = some x) : s.sess? n = some x := by
  unfold State.openSess at h
  split at h
  next y hy => rw [hy, (Option.ite_none_right_eq_some.1 h).2]
  next => cases h

/-- The QUOTA SETs that wait complete, and the session's list of them is empty; no other session changes. -/
theorem State.abortQuotaWait_ses (s : State) (x : Session) :
    (s.abortQuotaWait x).ses = (s.updSess x.num fun x => { x with quotaWait := [] }).ses := by
  have hses : (x.quotaWait.foldl (fun s w => s.completeWith w.1 .aborted 1 0 []) s).ses = s.ses :=
    List.foldlRecOn (motive := fun u : State => u.ses = s.ses) _ _ rfl fun u hu w _ => by rw [State.completeWith_ses, hu]
  rw [State.abortQuotaWait, State.updSess, State.updSess, hses]

theorem State.enterClosing_sess? {n : Nat} {x : Session} (hx : s.sess? n = some x) (tag : Tag) (mode : Nat) :
    (s.enterClosing x tag mode).sess? n = some { x with st := .closing, closing := some (tag, mode), quotaWait := [] } := by
  obtain rfl := State.num_of_sess? hx
  have hwait : (s.abortQuotaWait x).sess? x.num = some { x with quotaWait := [] } :=
    (State.sess?_congr (s.abortQuotaWait_ses x) x.num).trans (State.sess?_updSess hx fun _ => rfl)
  exact State.sess?_updSess hwait fun _ => rfl

/-! ### SESSION_FREE (R219, R220) -/

/-- A session that is being freed, up to the answer of its SESSION CLOSE: its waiting commands complete, its trees go, it leaves its
partition, and its number and its binds are struck from the lists. -/
def State.releaseSession (s : State) (n : Nat) (x : Session) : State :=
  let u := ((x.peerSets.foldl State.closePeers s).endZeroing x).abortQuotaWait x
  let v := ({ u with ans := { u.ans with trees := u.ans.trees.filter fun e => e.2.sess != n } } : State).leavePart n
  ({ v with ses := { v.ses with
    list := v.ses.list.filter fun y => y.num != n
    binds := v.ses.binds.filter fun b => b.sess != n } } : State).sessEvent n 0

theorem freeSession_of_closing {n : Nat} {x : Session} (hx : s.sess? n = some x) {tag : Tag} {mode : Nat} (hc : x.closing = some (tag, mode)) :
    freeSession n s = (s.releaseSession n x).succeed tag 0 0 [] := by
  rw [freeSession, hx]
  dsimp only
  rw [hc]
  rfl

theorem freeSession_of_not_closing {n : Nat} {x : Session} (hx : s.sess? n = some x) (hc : x.closing = none) :
    freeSession n s = s.releaseSession n x := by
  rw [freeSession, hx]
  dsimp only
  rw [hc]
  rfl

theorem freeSession_ses {n : Nat} {x : Session} (hx : s.sess? n = some x) : (freeSession n s).ses = (s.releaseSession n x).ses := by
  cases hc : x.closing with
  | none => rw [freeSession_of_not_closing hx hc]
  | some w => rw [freeSession_of_closing hx hc, State.succeed_ses]

theorem State.releaseSession_no_number (s : State) (n : Nat) (x : Session) : ∀ y ∈ (s.releaseSession n x).ses.list, y.num ≠ n := by
  intro y hy
  rw [State.releaseSession, State.sessEvent_ses] at hy
  simpa using (List.mem_filter.1 hy).2

theorem State.releaseSession_no_bind (s : State) (n : Nat) (x : Session) : ∀ b ∈ (s.releaseSession n x).ses.binds, b.sess ≠ n := by
  intro b hb
  rw [State.releaseSession, State.sessEvent_ses] at hb
  simpa using (List.mem_filter.1 hb).2

/-- A success of a controller that lives joins the batch. -/
theorem State.succeed_mem_done {tag : Tag} (dw0 dw1 : Nat) (data : Bytes) (h : ((s.succeed tag dw0 dw1 data).ctrl? tag.ctrl).isSome = true) :
    ∃ e ∈ (s.succeed tag dw0 dw1 data).que.done, e.tag = tag ∧ e.sct = 0 ∧ e.sc = 0 := by
  rw [State.ctrl?, State.succeed, State.completeWith_ctrls] at h
  obtain ⟨c, hc⟩ := Option.isSome_iff_exists.1 h
  have hdone := State.completeWith_done (s := s) hc .ok dw0 dw1 data
  exact ⟨_, by rw [State.succeed, hdone]; exact List.mem_append_right _ (List.mem_singleton_self _), rfl, rfl, rfl⟩

section
variable {sess : Nat} {x : Session} (hp : s.powered = true) (hx : s.sess? sess = some x)
include hp hx

theorem sessionFree_eq (hc : x.st = .closing) : sessionFree sess s = if drained x = true then freeSession sess s else s := by
  rw [sessionFree, hx]
  exact if_congr (by simp [hp, hc]) rfl rfl

/-! ### RECLAIM_WINDOW_EXPIRY (R237) -/

theorem reclaimWindowExpiry_eq (ho : x.st = .orphaned) {a : Nat} (hw : x.windowStart = some a) : reclaimWindowExpiry sess s =
    if x.window * 1000000000 ≤ (s.stg.stage - a) * 8200 then freeSession sess (s.abortWork sess 1) else s := by
  rw [reclaimWindowExpiry, hx]
  dsimp only
  rw [hw]
  exact if_congr (by simp [hp, ho]) rfl rfl

end

end Sys2Proof.Machine

namespace Sys2Proof.Proofs

open Sys2Proof.Machine Sys2Proof.Safety

/-- Settles O43: a session that closes keeps its number until nothing of it is left; what frees it strikes its number and its binds, and answers
its SESSION CLOSE last. -/
theorem sessionsCloseAndAreFreed : Obligations.SessionsCloseAndAreFreed := by
  refine ⟨fun tag c sess x s h => ⟨?_, ?_, fun mode => ?_⟩, fun sess x s hp hx hc => ⟨fun hd => ?_, fun hd => ?_⟩, ?_⟩
  · exact congrArg Host.Outcome.next (command_sessCommand_of_admits h ..)
  · exact congrArg Host.Outcome.next (command_sessCommand_of_admits h ..)
  · exact State.enterClosing_sess? (State.sess?_of_openSess h.2) tag mode
  · exact congrArg Host.Outcome.next ((sessionFree_eq hp hx hc).trans (if_neg (Bool.eq_false_iff.1 hd)))
  · have hses := freeSession_ses hx
    refine ⟨_, congrArg Host.Outcome.next ((sessionFree_eq hp hx hc).trans (if_pos hd)), ?_, ?_, fun tag mode hclose hlives => ?_⟩
    · rw [hses]
      exact s.releaseSession_no_number sess x
    · rw [hses]
      exact s.releaseSession_no_bind sess x
    · rw [freeSession_of_closing hx hclose] at hlives ⊢
      exact State.succeed_mem_done 0 0 [] hlives
  · exact fun sess a x s hp hx ho hw => congrArg Host.Outcome.next (reclaimWindowExpiry_eq hp hx ho hw)

end Sys2Proof.Proofs
end

section
/-! PROOFS. Time slices and partition switches (R225 to R234). -/

namespace Sys2Proof.Machine

open Sys2Proof.Safety

variable {s : State} {part : Nat} {p : Partition}

/-! ### Partitions by number -/

theorem State.num_of_part? (hp : s.part? part = some p) : p.num = part := by
  simpa using List.find?_some hp

theorem State.part?_updPart (hp : s.part? part = some p) {f : Partition → Partition} (hf : ∀ q, (f q).num = q.num) :
    (s.updPart part f).part? part = some (f p) := by
  have hnum : ((fun q : Partition => q.num == part) ∘ fun q => if q.num == part then f q else q) = fun q => q.num == part := by
    funext q
    by_cases hq : q.num = part <;> simp [hq, hf]
  have hfind : s.ses.parts.find? (fun q => q.num == part) = some p := hp
  rw [State.part?, State.updPart, updateIf, List.find?_map, hnum, hfind]
  exact congrArg some (if_pos (List.find?_some hfind))

/-! ### The switch is to begin at the next boundary (R226, R228, R229, R234) -/

/-- A partition whose switch to a session begins at B′. -/
def Partition.moveTo (b next : Nat) (p : Partition) : Partition := { p with switch := some (.moving b next 0) }

/-- A switch of a partition moves it to a session from the next boundary on, and leaves its holder with a debt. -/
def State.Begins (s : State) (part : Nat) (p : Partition) (next debt : Nat) (t : State) : Prop :=
  t.part? part = some (p.moveTo (s.stg.stage + 1) next) ∧
    ∀ h x, p.holder = some h → s.sess? h = some x → ∃ y, t.sess? h = some y ∧ y.debt = debt ∧ y.run = x.run

theorem State.beginSwitch_begins (hp : s.part? part = some p) {next : Nat} (hn : s.nextHolder p = some next) (debt : Nat) :
    s.Begins part p next debt (s.beginSwitch p debt) := by
  obtain rfl := State.num_of_part? hp
  rw [State.beginSwitch, hn]
  refine ⟨?_, fun h x hh hx => ?_⟩
  · cases p.holder with
    | none => exact State.part?_updPart (f := Partition.moveTo (s.stg.stage + 1) next) hp fun _ => rfl
    | some h =>
      exact State.part?_updPart (s := s.updSess h fun x => { x with debt := debt }) (f := Partition.moveTo (s.stg.stage + 1) next) hp fun _ => rfl
  · rw [hh]
    exact ⟨_, State.sess?_updSess (f := fun x => { x with debt := debt }) hx fun _ => rfl, rfl, rfl⟩

section
variable (hc : s.coreClock = true) (hp : s.part? part = some p)
include hc hp

theorem sliceEnd_eq (hs : p.switch = none) (hh : p.holder.isSome = true) : sliceEnd part s =
    if p.slice ≤ p.run + 1 ∧ (s.nextHolder p).isSome = true
    then s.updPart part fun p => { p with switch := some (.deferred (s.stg.stage + 1)) } else s := by
  rw [sliceEnd, hp]
  exact if_congr (by simp [hc, hs, hh]) rfl rfl

theorem partitionSwitch_of_no_work (hs : p.switch = none) (hw : s.holderWorks p = false) {next : Nat} (hn : s.nextHolder p = some next) :
    partitionSwitch part s = s.beginSwitch p 0 := by
  rw [partitionSwitch, hp]
  dsimp only
  rw [hs, hc, hw, hn]
  rfl

section
variable {b : Nat} (hs : p.switch = some (.deferred b))
include hs

/-- A deferred switch begins once no program of the outgoing session is in flight. -/
theorem partitionSwitch_of_deferred : partitionSwitch part s = if s.programsRun p b then s else s.beginSwitch p (s.stg.stage + 1 - b) := by
  rw [partitionSwitch, hp]
  dsimp only
  rw [hs, hc]
  rfl

/-- A deferred switch begins at B + 32 whatever still runs. -/
theorem switchDeferLimit_of_deferred : switchDeferLimit part s = if b + 32 ≤ s.stg.stage + 1 then s.beginSwitch p 32 else s := by
  rw [switchDeferLimit, hp]
  dsimp only
  rw [hs]
  exact if_congr (by simp [hc]) rfl rfl

end

/-! ### SWITCH_RESTORE_COMPLETE (R231, R232) -/

theorem switchRestoreComplete_of_moving {b next g : Nat} (hs : p.switch = some (.moving b next g)) : switchRestoreComplete part s =
    if s.switchFirst p b next ≤ s.stg.stage + 1 then s.restoreIn p next else s := by
  rw [switchRestoreComplete, hp]
  dsimp only
  rw [hs]
  exact if_congr (by simp [hc]) rfl rfl

end

theorem State.restoreIn_eq {next : Nat} {x : Session} (hx : s.sess? next = some x) : s.restoreIn p next =
    let u := s.restoreRecords x p.teams
    { u with coa := u.coa.takeControl p.teams x.save }.updPart p.num fun p => { p with switch := some (.restored next) } := by
  rw [State.restoreIn, hx]

/-! ### The boundary B′ (R229, R230) -/

theorem suspendTt_of_running {t : Timetable} (h : t.suspended = none) (b : Nat) : suspendTt b t = { t with suspended := some b } := by
  rw [suspendTt, h, Option.getD_none]

/-- What the switch that begins in this stage suspends of its holder: the timetables of its run, its TOP scans and its builds. -/
def Session.suspend (b : Nat) (x : Session) : Session :=
  { x with
    run := x.run.map fun r => { r with tt := r.tt.map (suspendTt b) }
    scans := x.scans.map fun c => if field c.block 12 1 = 2 then { c with tt := c.tt.map (suspendTt b) } else c
    buildTts := x.buildTts.map fun k => (k.1, suspendTt b k.2) }

theorem State.startSwitch_sess? {next g h : Nat} {x : Session} (hs : p.switch = some (.moving s.stg.stage next g)) (hh : p.holder = some h)
    (hx : s.sess? h = some x) : (s.startSwitch p).sess? h = some (x.suspend s.stg.stage) := by
  rw [State.startSwitch, hs]
  dsimp only
  rw [if_neg (not_not.2 rfl), hh]
  exact State.sess?_updSess (f := Session.suspend s.stg.stage) hx fun _ => rfl

theorem Session.suspend_run {x : Session} {r : Run} {t : Timetable} (hr : x.run = some r) (ht : r.tt = some t) (hs : t.suspended = none) (b : Nat) :
    (x.suspend b).run = some { r with tt := some { t with suspended := some b } } := by
  rw [Session.suspend, hr, Option.map_some, ht, Option.map_some, suspendTt_of_running hs]

end Sys2Proof.Machine

namespace Sys2Proof.Proofs

open Sys2Proof.Machine Sys2Proof.Safety

/-- Settles O44: each command by the equation of the partition's step, and the switch it begins by what `beginSwitch` leaves of partition and
holder. -/
theorem partitionsSwitchBetweenSessions : Obligations.PartitionsSwitchBetweenSessions := by
  intro part p s hc hp
  refine ⟨fun hs hh => ?_, fun next hn => ⟨fun hs hw => ?_, fun b hs => ⟨fun hr => ?_, fun hr => ?_, fun hb => ?_, fun hb => ?_⟩⟩, ?_, ?_⟩
  · exact congrArg Host.Outcome.next (sliceEnd_eq hc hp hs hh)
  · exact ⟨_, congrArg Host.Outcome.next (partitionSwitch_of_no_work hc hp hs hw hn), State.beginSwitch_begins hp hn 0⟩
  · have hbegins := (partitionSwitch_of_deferred hc hp hs).trans (if_neg (Bool.eq_false_iff.1 hr))
    exact ⟨_, congrArg Host.Outcome.next hbegins, State.beginSwitch_begins hp hn _⟩
  · exact congrArg Host.Outcome.next ((partitionSwitch_of_deferred hc hp hs).trans (if_pos hr))
  · have hbegins := (switchDeferLimit_of_deferred hc hp hs).trans (if_pos hb)
    exact ⟨_, congrArg Host.Outcome.next hbegins, State.beginSwitch_begins hp hn 32⟩
  · exact congrArg Host.Outcome.next ((switchDeferLimit_of_deferred hc hp hs).trans (if_neg (not_le.2 hb)))
  · intro next g h x hs hh hx
    refine ⟨_, State.startSwitch_sess? hs hh hx, fun r tt hr ht hrun => ⟨_, Session.suspend_run hr ht hrun _, rfl⟩⟩
  · intro b next g x hs hx
    have hcomplete := switchRestoreComplete_of_moving hc hp hs
    refine ⟨fun hlt => congrArg Host.Outcome.next (hcomplete.trans (if_neg (not_le.2 hlt))), fun hle => ?_⟩
    obtain rfl := State.num_of_part? hp
    exact congrArg Host.Outcome.next ((hcomplete.trans (if_pos hle)).trans (State.restoreIn_eq hx))

end Sys2Proof.Proofs
end

section
/-! PROOFS. Controllers: Connect, properties, shutdown, Keep Alive and their end (R235, R392 to R397, R399). -/

namespace Sys2Proof.Machine

open Sys2Proof.Safety

variable {s : State}

/-! ### Connect (R392 to R394) -/

theorem connect_eq {conn : Nat} (hp : s.portServes = true) (hc : conn ∈ s.port.conns ∨ ∃ q ∈ s.port.qps, q.1 = conn) (tag : Tag) (a : ConnectArgs) :
    connect tag conn a s = if a.qid = 0 then connectAdmin tag conn a s else connectQueue tag a s := by
  have hknown : (s.port.conns.contains conn || s.port.qps.any fun q => q.1 == conn) = true := by simpa using hc
  rw [connect, hp, hknown]
  rfl

/-- What Connect of queue 0 asks for: a new identifier, and a KATO and a depth within their limits. -/
def AdminArgsOk (a : ConnectArgs) : Prop := a.ctrlId = 0xFFFF ∧ 1000 ≤ a.kato ∧ a.kato ≤ 120000 ∧ 2 ≤ a.qsize ∧ a.qsize ≤ 32

theorem adminArgsOk_iff {a : ConnectArgs} :
    (a.ctrlId ≠ 0xFFFF || a.kato < 1000 || 120000 < a.kato || a.qsize < 2 || 32 < a.qsize) = false ↔ AdminArgsOk a := by
  simp only [Bool.or_eq_false_iff, decide_eq_false_iff_not, not_not, not_lt, and_assoc, AdminArgsOk]

section
variable {a : ConnectArgs} (tag : Tag) (conn : Nat)

theorem connectAdmin_of_bad (h : ¬AdminArgsOk a) : connectAdmin tag conn a s = s.reply_ tag .connectInvalid 0 := by
  rw [connectAdmin, if_pos (by_contra fun hok => h (adminArgsOk_iff.1 (Bool.eq_false_iff.2 hok)))]

theorem connectAdmin_of_full (h : AdminArgsOk a) (hn : s.freeCtrlId a.discovery = none) : connectAdmin tag conn a s = s.reply_ tag .connectBusy 0 := by
  rw [connectAdmin, if_neg (Bool.eq_false_iff.1 (adminArgsOk_iff.2 h)), hn]

/-- The lowest free identifier is that of the new controller. -/
theorem connectAdmin_of_free (h : AdminArgsOk a) (hd : a.discovery = false) {id : Nat} (h1 : 1 ≤ id) (h256 : id ≤ 256) (hfree : s.ctrl? id = none)
    (hbelow : ∀ k, 1 ≤ k → k < id → (s.ctrl? k).isSome = true) :
    connectAdmin tag conn a s = { s with que := { s.que with ctrls := s.que.ctrls ++ [newCtrl id conn a] } }.reply_ tag .ok id := by
  have hid : s.freeCtrlId false = some id := by
    rw [State.freeCtrlId, if_neg Bool.false_ne_true]
    exact findUp_eq_some h1 (by omega) (Option.isNone_iff_eq_none.2 hfree) fun k hk hkn => Option.isNone_eq_false_iff.2 (hbelow k hk hkn)
  rw [connectAdmin, if_neg (Bool.eq_false_iff.1 (adminArgsOk_iff.2 h)), hd, hid]

end

/-- An I/O queue that a controller may have: of its own host, within the queues granted and the limits of depth and number. -/
def State.QueueFits (s : State) (k : Ctrl) (a : ConnectArgs) : Prop :=
  k.enabled = true ∧ k.discovery = false ∧ k.hostId = a.hostId ∧ k.hostNqn = a.hostNqn ∧ a.qid ≤ k.granted ∧ 2 ≤ a.qsize ∧ a.qsize ≤ 1024 ∧
    (s.que.ctrls.map fun c => c.queues.length).sum < 1024 ∧ ∀ q ∈ k.queues, q.1 ≠ a.qid

theorem State.queueFits_iff {k : Ctrl} {a : ConnectArgs} :
    (!k.enabled || k.discovery || k.hostId != a.hostId || k.hostNqn != a.hostNqn || k.granted < a.qid || a.qsize < 2 || 1024 < a.qsize ||
      1024 ≤ (s.que.ctrls.map fun c => c.queues.length).sum || (k.queues.any fun q => q.1 == a.qid)) = false ↔ s.QueueFits k a := by
  have hnew : (k.queues.any fun q => q.1 == a.qid) = false ↔ ∀ q ∈ k.queues, q.1 ≠ a.qid := by
    simp only [List.any_eq_false, beq_iff_eq, ne_eq]
  simp only [Bool.or_eq_false_iff, hnew, Bool.not_eq_false', bne_eq_false_iff_eq, decide_eq_false_iff_not, not_lt, not_le, and_assoc, State.QueueFits]

section
variable {a : ConnectArgs} (tag : Tag)

theorem connectQueue_of_diagnostic (hm : s.boot.mode = .diagnostic) : connectQueue tag a s = s.reply_ tag .connectBusy 0 :=
  if_pos (by rw [hm]; rfl)

variable (hm : s.boot.mode = .ready) {k : Ctrl} (hk : s.ctrl? a.ctrlId = some k)
include hm hk

theorem connectQueue_of_fits (h : s.QueueFits k a) : connectQueue tag a s =
    (s.updCtrl k.id fun k => { k with queues := k.queues ++ [(a.qid, a.qsize)] }).reply_ tag .ok k.id := by
  rw [connectQueue, if_neg (by rw [hm]; exact Bool.false_ne_true), hk]
  exact if_neg (Bool.eq_false_iff.1 (State.queueFits_iff.2 h))

theorem connectQueue_of_unfit (h : ¬s.QueueFits k a) : connectQueue tag a s = s.reply_ tag .connectInvalid 0 := by
  rw [connectQueue, if_neg (by rw [hm]; exact Bool.false_ne_true), hk]
  exact if_pos (by_contra fun hfits => h (State.queueFits_iff.1 (Bool.eq_false_iff.2 hfits)))

end

/-! ### Commands served in every state of R399 -/

section
variable {tag : Tag} {c : Ctrl} (hp : s.portServes = true) (hc : s.ctrl? tag.ctrl = some c)
include hp hc

/-- A command that every state of R399 serves reaches its meaning where its controller is enabled, or need not be. -/
theorem command_of_always_served {w : Serve} (hw : w.diag = true ∧ w.limp = true ∧ w.pend = true) (he : c.enabled = true ∨ w.fabrics = true)
    (f : Ctrl → State → State) : s.command tag w f = f c s := by
  obtain ⟨hdiag, hlimp, hpend⟩ := hw
  obtain he | he := he <;> simp [State.command, hp, hc, hdiag, hlimp, hpend, he]

theorem command_fabrics (f : Ctrl → State → State) : s.command tag fabricsServe f = f c s :=
  command_of_always_served hp hc ⟨rfl, rfl, rfl⟩ (.inr rfl) f

theorem propertyGet_eq (offset : Nat) : propertyGet tag offset s =
    let n := Config.freeNat s.freeCtr
    let u : State := { s with freeCtr := s.freeCtr + 1 }
    if offset = 0 then u.succeed tag (1023 + 65536 + n % 256 * 2 ^ 24) 32 []
    else if offset = 8 then u.succeed tag n 0 []
    else if offset = 0x14 then u.succeed tag (n / 2 * 2 + (if c.enabled then 1 else 0)) 0 []
    else if offset = 0x1C then u.succeed tag ((if c.enabled then 1 else 0) + c.shst * 4) 0 []
    else u.fail tag .invalidField :=
  command_fabrics hp hc _

/-- A shutdown notification is answered; in the diagnostic state shutdown is complete at once, else it waits for what is dirty (R396, R468). -/
theorem ccShutdownNotification_eq (abrupt : Bool) : ccShutdownNotification tag abrupt s =
    if s.boot.mode = .diagnostic then (s.succeed tag 0 0 []).updCtrl c.id fun c => { c with shst := 2 }
    else
      let u := (s.succeed tag 0 0 []).updCtrl c.id fun c => { c with shst := 1 }
      ({ u with xlt := { u.xlt with shutdowns := u.xlt.shutdowns ++ [(c.id, u.xlt.bufSeq)] } } : State).finishShutdown :=
  (command_fabrics hp hc _).trans (if_congr (by rw [State.succeed_boot, beq_iff_eq]) rfl rfl)

end

/-! ### The queues once a controller has ended (R395) -/

theorem State.id_of_ctrl? {id : Nat} {c : Ctrl} (hc : s.ctrl? id = some c) : c.id = id := by
  simpa using List.find?_some hc

/-- A controller has ended: the others are left, and no completion waits for it. -/
def State.Ended (s : State) (id : Nat) (others : List Ctrl) : Prop :=
  s.que.ctrls = others ∧ (∀ k ∈ others, k.id ≠ id) ∧ ∀ d ∈ s.que.done, d.tag.ctrl ≠ id

section
variable {id : Nat} {others : List Ctrl}

theorem State.Ended.ctrl? (h : s.Ended id others) : s.ctrl? id = none := by
  obtain ⟨hctrls, hothers, -⟩ := h
  rw [State.ctrl?, hctrls]
  exact List.find?_eq_none.2 fun k hk => by simpa using hothers k hk

theorem State.Ended.of_que {u : State} (h : s.Ended id others) (hq : u.que = s.que) : u.Ended id others := by
  rw [State.Ended, hq]
  exact h

/-- A completion to a controller that has ended is dropped. -/
theorem State.Ended.completeWith (h : s.Ended id others) (tag : Tag) (st : Status) (dw0 dw1 : Nat) (data : Bytes) :
    (s.completeWith tag st dw0 dw1 data).Ended id others := by
  have hnone := h.ctrl?
  obtain ⟨hctrls, hothers, hdone⟩ := h
  refine ⟨(State.completeWith_ctrls ..).trans hctrls, hothers, ?_⟩
  cases hc : s.ctrl? tag.ctrl with
  | none =>
    rw [State.completeWith, hc, if_neg (by decide)]
    exact hdone
  | some c =>
    rw [State.completeWith_done hc]
    intro d hd
    obtain hd | hd := List.mem_append.1 hd
    · exact hdone d hd
    · rw [List.mem_singleton.1 hd]
      rintro rfl
      rw [hc] at hnone
      cases hnone

/-- A SCAN that ends touches the queues by its completion alone. -/
theorem State.Ended.abortScan (h : s.Ended id others) (reason : Nat) (p : Session × Scan) : (s.abortScan reason p).Ended id others := by
  rw [State.abortScan, State.endScan]
  refine State.Ended.of_que (State.Ended.completeWith ?_ ..) (State.updSess_que ..)
  refine h.of_que ?_
  split <;> rfl

theorem State.Ended.orphan (h : s.Ended id others) (x : Session) : (s.orphan x).Ended id others := by
  unfold State.orphan
  split
  · exact h
  · have hscans : ((x.scans.filter fun c => !c.bound).foldl (fun s c => s.abortScan 1 (x, c)) s).Ended id others :=
      List.foldlRecOn (motive := fun u : State => u.Ended id others) _ _ h fun u hu c _ => hu.abortScan 1 (x, c)
    refine hscans.of_que ((State.event_que ..).trans ?_)
    rw [State.updSess_que]
    split <;> rfl

theorem State.Ended.orphanFrom (h : s.Ended id others) (x : Session) : (s.orphanFrom x).Ended id others :=
  (h.of_que (State.updSess_que ..)).orphan x

end

/-! ### The sessions of a controller that ends (R235) -/

/-- Of a session its number, its controller and its state: of these the end of a controller may change the state alone. -/
def Session.standing (x : Session) : Nat × Nat × SessState := (x.num, x.ctrl, x.st)

@[simp] theorem Session.standing_num (x : Session) : x.standing.1 = x.num := rfl
@[simp] theorem Session.standing_ctrl (x : Session) : x.standing.2.1 = x.ctrl := rfl
@[simp] theorem Session.standing_st (x : Session) : x.standing.2.2 = x.st := rfl

/-- The standings of all sessions, in their order. -/
def State.standings (s : State) : List (Nat × Nat × SessState) := s.ses.list.map Session.standing

/-- A session whose number is in a list is ORPHANED. -/
def orphanIn (ns : List Nat) (f : Nat × Nat × SessState) : Nat × Nat × SessState := if f.1 ∈ ns then (f.1, f.2.1, .orphaned) else f

theorem orphanIn_num (ns : List Nat) (f : Nat × Nat × SessState) : (orphanIn ns f).1 = f.1 := by
  unfold orphanIn
  split <;> rfl

theorem orphanIn_nil : orphanIn [] = id :=
  funext fun _ => if_neg (List.not_mem_nil)

theorem orphanIn_comp (n : Nat) (ns : List Nat) : orphanIn ns ∘ orphanIn [n] = orphanIn (n :: ns) := by
  funext ⟨k, c, st⟩
  by_cases hn : k = n <;> by_cases hns : k ∈ ns <;> simp [orphanIn, hn, hns]

theorem State.standings_congr {u : State} (h : u.ses.list = s.ses.list) : u.standings = s.standings := by
  rw [State.standings, h, State.standings]

theorem State.updSess_standings {f : Session → Session} (hf : ∀ x, (f x).standing = x.standing) (n : Nat) :
    (s.updSess n f).standings = s.standings := by
  rw [State.standings, State.updSess, updateIf, List.map_map, State.standings]
  refine List.map_congr_left fun x _ => ?_
  rw [Function.comp_apply]
  split
  · exact hf x
  · rfl

/-- A session that is given the state ORPHANED. -/
theorem State.updSess_standings_orphaned {f : Session → Session} (hf : ∀ x, (f x).standing = (x.num, x.ctrl, .orphaned)) (n : Nat) :
    (s.updSess n f).standings = s.standings.map (orphanIn [n]) := by
  rw [State.standings, State.updSess, updateIf, List.map_map, State.standings, List.map_map]
  refine List.map_congr_left fun x _ => ?_
  by_cases hx : x.num = n
  · simp [hx, hf, orphanIn]
  · simp [hx, orphanIn]

theorem State.abortScan_standings (s : State) (reason : Nat) (p : Session × Scan) : (s.abortScan reason p).standings = s.standings := by
  rw [State.abortScan, State.endScan]
  refine (State.updSess_standings (fun _ => by rfl) _).trans (State.standings_congr ?_)
  rw [State.completeWith_ses]
  split <;> rfl

theorem State.orphan_standings {x : Session} (hx : x.st = .opened) : (s.orphan x).standings = s.standings.map (orphanIn [x.num]) := by
  have hscans : ((x.scans.filter fun c => !c.bound).foldl (fun s c => s.abortScan 1 (x, c)) s).standings = s.standings :=
    List.foldlRecOn (motive := fun u : State => u.standings = s.standings) _ _ rfl fun u hu c _ => (u.abortScan_standings 1 (x, c)).trans hu
  rw [State.orphan, if_neg (by rw [hx]; decide)]
  refine (State.standings_congr (congrArg Ses.list (State.sessEvent_ses ..))).trans
    ((State.updSess_standings_orphaned (fun _ => by rfl) _).trans (congrArg _ ?_))
  refine (State.standings_congr ?_).trans hscans
  split <;> rfl

theorem State.orphanFrom_standings {x : Session} (hx : x.st = .opened) : (s.orphanFrom x).standings = s.standings.map (orphanIn [x.num]) :=
  (State.orphan_standings hx).trans (congrArg _ (State.updSess_standings (fun _ => by rfl) _))

theorem State.foldl_orphanFrom_standings {l : List Session} (hl : ∀ x ∈ l, x.st = .opened) :
    (l.foldl State.orphanFrom s).standings = s.standings.map (orphanIn (l.map Session.num)) := by
  induction l generalizing s with
  | nil => rw [List.map_nil, orphanIn_nil, List.map_id, List.foldl_nil]
  | cons x l ih =>
    obtain ⟨hx, hl⟩ := List.forall_mem_cons.1 hl
    rw [List.foldl_cons, ih hl, State.orphanFrom_standings hx, List.map_map, orphanIn_comp, List.map_cons]

/-- A session found by its number, by its standing. -/
theorem State.sess?_standing (s : State) (n : Nat) : (s.sess? n).map Session.standing = s.standings.find? fun f => f.1 == n := by
  rw [State.standings, List.find?_map]
  rfl

/-- The numbers of a controller's OPEN sessions. -/
def openedBy (id : Nat) (l : List Session) : List Nat := (l.filter fun x => x.ctrl == id && x.st == .opened).map Session.num

theorem mem_openedBy {id n : Nat} {l : List Session} : n ∈ openedBy id l ↔ ∃ x ∈ l, x.num = n ∧ x.ctrl = id ∧ x.st = .opened := by
  simp [openedBy, and_assoc, and_comm]

theorem openedBy_untag (id c : Nat) (l : List Session) : openedBy id (l.map (untagSession c)) = openedBy id l := by
  rw [openedBy, List.filter_map, List.map_map]
  rfl

theorem standing_untag (c : Nat) (l : List Session) : (l.map (untagSession c)).map Session.standing = l.map Session.standing := by
  rw [List.map_map]
  rfl

section
variable {id : Nat} {c : Ctrl} (hc : s.ctrl? id = some c)
include hc

theorem State.endCtrl_ended : (s.endCtrl id).Ended id (s.que.ctrls.filter fun k => k.id != id) := by
  unfold State.endCtrl
  rw [hc]
  refine List.foldlRecOn (motive := fun u : State => u.Ended id _) _ _ ⟨rfl, fun k hk => ?_, fun d hd => ?_⟩ fun u hu x _ => hu.orphanFrom x
  · simpa using (List.mem_filter.1 hk).2
  · simpa using (List.mem_filter.1 hd).2

/-- The end of a controller orphans its OPEN sessions. -/
theorem State.endCtrl_standings : (s.endCtrl id).standings = s.standings.map (orphanIn (openedBy id s.ses.list)) := by
  unfold State.endCtrl
  rw [hc]
  refine (State.foldl_orphanFrom_standings fun x hx => ?_).trans ?_
  · have hboth := (List.mem_filter.1 hx).2
    exact beq_iff_eq.1 (Bool.and_eq_true_iff.1 hboth).2
  · exact congrArg₂ (fun ns fs => List.map (orphanIn ns) fs) (openedBy_untag id id s.ses.list) (standing_untag id s.ses.list)

/-- No session of a controller that has ended is OPEN. -/
theorem State.endCtrl_not_opened : ∀ x ∈ (s.endCtrl id).ses.list, x.ctrl = id → x.st ≠ .opened := by
  intro x hx hctrl hst
  have hmem : x.standing ∈ (s.endCtrl id).standings := List.mem_map_of_mem hx
  rw [State.endCtrl_standings hc] at hmem
  obtain ⟨f, hf, hfx⟩ := List.mem_map.1 hmem
  obtain ⟨z, hz, rfl⟩ := List.mem_map.1 hf
  by_cases hin : z.num ∈ openedBy id s.ses.list
  · rw [orphanIn, if_pos (by exact hin)] at hfx
    have horphaned : SessState.orphaned = x.st := congrArg (fun f => f.2.2) hfx
    rw [hst] at horphaned
    cases horphaned
  · rw [orphanIn, if_neg (by exact hin)] at hfx
    have hzctrl : z.ctrl = x.ctrl := congrArg (fun f => f.2.1) hfx
    have hzst : z.st = x.st := congrArg (fun f => f.2.2) hfx
    exact hin (mem_openedBy.2 ⟨z, hz, rfl, hzctrl.trans hctrl, hzst.trans hst⟩)

/-- A number that no OPEN session of the controller has keeps its session's state. -/
theorem State.endCtrl_keeps_others {n : Nat} {x : Session} (hx : s.sess? n = some x)
    (hn : ∀ z ∈ s.ses.list, z.num = n → z.ctrl ≠ id ∨ z.st ≠ .opened) : ∃ y, (s.endCtrl id).sess? n = some y ∧ y.st = x.st := by
  have hnot : n ∉ openedBy id s.ses.list := fun hin => by
    obtain ⟨z, hz, hnum, hctrl, hst⟩ := mem_openedBy.1 hin
    exact (hn z hz hnum).elim (· hctrl) (· hst)
  have hnum : (fun f : Nat × Nat × SessState => f.1 == n) ∘ orphanIn (openedBy id s.ses.list) = fun f => f.1 == n := by
    funext f
    rw [Function.comp_apply, orphanIn_num]
  have hstays : orphanIn (openedBy id s.ses.list) x.standing = x.standing := by
    rw [orphanIn, if_neg]
    rwa [← State.num_of_sess? hx] at hnot
  have hfound : ((s.endCtrl id).sess? n).map Session.standing = some x.standing := by
    rw [State.sess?_standing, State.endCtrl_standings hc, List.find?_map, hnum, ← State.sess?_standing, hx, Option.map_some, Option.map_some, hstays]
  obtain ⟨y, hy, hyx⟩ := Option.map_eq_some_iff.1 hfound
  exact ⟨y, hy, congrArg (fun f => f.2.2) hyx⟩

end

end Sys2Proof.Machine

namespace Sys2Proof.Proofs

open Sys2Proof.Machine Sys2Proof.Safety

/-- Settles O55: Connect and the served commands by their equations; a controller's end by what it leaves of the queues, and of the standings of
all sessions, which its orphaning maps one by one. -/
theorem controllersBeginServeAndEnd : Obligations.ControllersBeginServeAndEnd := by
  refine ⟨fun tag conn a s hp hconn => ⟨fun hq => ?_, fun hq => ?_⟩, fun id c s hpow hc => ?_, fun tag c s hp hc =>
    ⟨?_, fun he => ?_, fun offset => ?_, fun abrupt => ⟨fun hm => ?_, fun hm => ?_⟩⟩⟩
  · intro good
    have hadmin : connect tag conn a s = connectAdmin tag conn a s := (connect_eq hp hconn tag a).trans (if_pos hq)
    refine ⟨fun hg => ?_, fun hg hn => ?_, fun hg hd id h1 h256 hfree hbelow => ?_⟩
    · exact congrArg Host.Outcome.next (hadmin.trans (connectAdmin_of_bad tag conn hg))
    · exact congrArg Host.Outcome.next (hadmin.trans (connectAdmin_of_full tag conn hg hn))
    · exact ⟨_, newCtrl id conn a, congrArg Host.Outcome.next (hadmin.trans (connectAdmin_of_free tag conn hg hd h1 h256 hfree hbelow)),
        rfl, rfl, rfl, rfl, rfl, rfl, rfl, hd, rfl⟩
  · have hqueue : connect tag conn a s = connectQueue tag a s := (connect_eq hp hconn tag a).trans (if_neg hq)
    refine ⟨fun hm => ?_, fun hm k hk => ⟨fun hf => ?_, fun hf => ?_⟩⟩
    · exact congrArg Host.Outcome.next (hqueue.trans (connectQueue_of_diagnostic tag hm))
    · exact congrArg Host.Outcome.next (hqueue.trans (connectQueue_of_fits tag hm hk hf))
    · exact congrArg Host.Outcome.next (hqueue.trans (connectQueue_of_unfit tag hm hk hf))
  · have hended := State.endCtrl_ended hc
    have hnone := hended.ctrl?
    obtain ⟨hctrls, -, hdone⟩ := hended
    refine ⟨s.endCtrl id, congrArg Host.Outcome.next (if_pos hpow), congrArg Host.Outcome.next (if_pos hpow), hnone, fun k hk => ?_,
      fun k hk hne => ?_, State.endCtrl_not_opened hc, fun n x => State.endCtrl_keeps_others hc, hdone, fun tag htag hp => ?_⟩
    · rw [hctrls] at hk
      exact (List.mem_filter.1 hk).1
    · rw [hctrls]
      exact List.mem_filter.2 ⟨hk, by simpa using hne⟩
    · subst htag
      have hend : s.endCtrl c.id = s.endCtrl tag.ctrl := congrArg s.endCtrl (State.id_of_ctrl? hc)
      have hcommand : (s.command tag fabricsServe fun c s => (s.endCtrl c.id).reply_ tag .ok 0) = (s.endCtrl tag.ctrl).reply_ tag .ok 0 :=
        (command_fabrics hp hc _).trans (congrArg (State.reply_ · tag .ok 0) hend)
      exact ⟨congrArg Host.Outcome.next hcommand, congrArg Host.Outcome.next hcommand⟩
  · exact congrArg Host.Outcome.next (command_fabrics hp hc _)
  · exact congrArg Host.Outcome.next (command_of_always_served hp hc ⟨rfl, rfl, rfl⟩ (.inl he) _)
  · exact ⟨_, congrArg Host.Outcome.next (propertyGet_eq hp hc offset)⟩
  · exact congrArg Host.Outcome.next ((ccShutdownNotification_eq hp hc abrupt).trans (if_pos hm))
  · have hserved := (ccShutdownNotification_eq hp hc abrupt).trans (if_neg (by rw [hm]; decide))
    exact ⟨_, _, rfl, rfl, congrArg Host.Outcome.next hserved⟩

end Sys2Proof.Proofs
end

section
/-! PROOFS. Scans and their answers, held records and FETCH, peer sets and what the initiator sends to peers (R268, R270, R273, R287, R288, R291,
R300, R394). -/

namespace Sys2Proof.Machine

open Sys2Proof.Safety

variable {s : State}

/-! ### SCAN and SCAN_COMPLETE (R287, R288, R291) -/

/-- A whole scan block is judged by its checks; one that passes them joins the session's scans, and a bind of it is asked for. -/
theorem scan_eq {tag : Tag} {c : Ctrl} {sess : Nat} {x : Session} {data : Bytes} (h : AdmitsSess tag c sess x s) (hl : 64 ≤ data.length)
    (hd : scLength data ≤ data.length) : scan tag sess data s =
    match s.scanReason x data with
    | some r => s.refuse tag r
    | none =>
      let k : Scan := { id := s.ses.nextId, tag := tag, sess := sess, nsid := field data 8 4, block := data.take (scLength data), bound := false
                        tt := none, missed := [], unread := [], slot := 0, ended := false, upTo := s.xlt.bufSeq }
      ({ s with ses := { s.ses with nextId := s.ses.nextId + 1 } }.updSess sess fun x => { x with scans := x.scans ++ [k] }).addBind sess
        (.scan s.ses.nextId) := by
  rw [scan, command_sessCommand_of_admits h]
  exact if_neg (by simp [hl, hd])

/-- The answer of a scan is assembled once, at the end of its plan with no word missed; before, nothing happens. -/
theorem scanComplete_of_free_tree {id k : Nat} {x : Session} {c : Scan} {t : Timetable} {n : Ns} (hp : s.powered = true)
    (hs : s.scan? id = some (x, c)) (ht : c.tt = some t) (hk : s.freeTree = some k) (hr : t.suspended = none) (hn : s.ns? c.nsid = some n)
    (hb : n.created ≤ t.bound) : scanComplete id s =
      if c.ended = false ∧ c.missed = [] ∧ t.start + t.plan.passStages ≤ s.stg.stage
      then (s.updScan x.num id fun c => { c with ended := true }).scanAnswer x c n k else s := by
  have hstands : (s.updScan x.num id fun c => { c with ended := true }).ns? c.nsid = some n := hn
  rw [scanComplete, hs]
  dsimp only
  rw [ht, hk]
  dsimp only
  rw [hstands, ← ite_not]
  dsimp only
  rw [if_pos hb]
  refine if_congr ?_ rfl rfl
  simp [hp, hr, and_assoc]

/-! ### FETCH and the records that it frees (R300) -/

/-- The records that a FETCH asks for: one class after a stamp, class 0 by identifier where asked, in ascending stamp order. -/
def Session.asked (x : Session) (cls : Nat) (byId : Bool) (queryId after : Nat) : List Held :=
  byStamp (x.held.filter fun h => h.cls == cls && decide (after < h.stamp) && (!(byId && cls == 0) || h.queryId == queryId))

/-- Records that were delivered are noted to be freed, unless they are to be kept. -/
def State.noteFetched (s : State) (keep : Bool) (tag : Tag) (sess : Nat) (out : List Held) : State :=
  if keep = true then s else { s with que := { s.que with freeing := s.que.freeing ++ out.map fun h => (tag, sess, h) } }

section
variable {tag : Tag} {c : Ctrl} {sess cls : Nat} {x : Session} (h : AdmitsSess tag c sess x s) (hc : cls < 3)
  {byId : Bool} {queryId after len : Nat}
include h hc

theorem fetch_of_none_fits {r : Held} {rest : List Held} (keep : Bool) (hsel : x.asked cls byId queryId after = r :: rest)
    (hout : takeFit len (x.asked cls byId queryId after) = []) :
    fetch tag sess cls byId keep queryId after len s = s.completeWith tag .dataSglLength r.bytes.length 0 [] := by
  rw [fetch, command_sessCommand_of_admits h, if_neg (by omega), ← Session.asked]
  dsimp only
  rw [hout, hsel]

theorem fetch_of_fits (keep : Bool) (hout : x.asked cls byId queryId after = [] ∨ takeFit len (x.asked cls byId queryId after) ≠ []) :
    fetch tag sess cls byId keep queryId after len s =
      let out := takeFit len (x.asked cls byId queryId after)
      let b := out.flatMap fun h => h.bytes
      (s.noteFetched keep tag sess out).succeed tag out.length b.length b := by
  rw [fetch, command_sessCommand_of_admits h, if_neg (by omega)]
  dsimp only
  split
  next r rest hsel hnone => exact absurd hout (not_or.2 ⟨hsel.trans_ne (List.cons_ne_nil _ _), not_not.2 hnone⟩)
  next => rfl

end

/-- At a boundary a session keeps just the held records that no FETCH of the posted batch has noted. -/
theorem State.postBatch_held {sess : Nat} {x : Session} (hx : s.sess? sess = some x) : ∃ y, s.postBatch.sess? sess = some y ∧
    ∀ h, h ∈ y.held ↔ h ∈ x.held ∧ ¬∃ tag, (tag, x.num, h) ∈ s.que.freeing ∧ ∃ c ∈ s.que.done, c.tag = tag := by
  have hfind : s.ses.list.find? (fun z => z.num == sess) = some x := hx
  refine ⟨_, (List.find?_map ..).trans (congrArg (Option.map _) hfind), fun h => ?_⟩
  simp

/-! ### What the port sends to peers (R268, R394) -/

/-- Messages leave the port, in order. -/
def State.sendAll (s : State) (ms : List TxMsg) : State := { s with port := { s.port with tx := s.port.tx ++ ms } }

theorem State.sendAll_nil (s : State) : s.sendAll [] = s := by
  simp [State.sendAll]

theorem State.send_eq_sendAll (s : State) (m : TxMsg) : s.send m = s.sendAll [m] := rfl

theorem State.sendAll_sendAll (s : State) (ms ns : List TxMsg) : (s.sendAll ms).sendAll ns = s.sendAll (ms ++ ns) := by
  simp [State.sendAll]

/-- A walk over a list whose steps do nothing but send sends the messages of all steps. -/
theorem State.foldl_sendAll {α : Type} {step : State → α → State} {ms : α → List TxMsg} (hstep : ∀ s a, step s a = s.sendAll (ms a)) (l : List α)
    (s : State) : l.foldl step s = s.sendAll (l.flatMap ms) := by
  induction l generalizing s with
  | nil => exact s.sendAll_nil.symm
  | cons a l ih => rw [List.foldl_cons, ih, hstep, State.sendAll_sendAll, List.flatMap_cons]

/-- One message to each peer that is up. -/
def toPeersUp (f : Peer → TxMsg) (l : List Peer) : List TxMsg := (l.filter fun m => !m.down).map f

theorem State.foldl_toPeersUp (f : Peer → TxMsg) (l : List Peer) (s : State) :
    l.foldl (fun s m => if m.down then s else s.send (f m)) s = s.sendAll (toPeersUp f l) := by
  induction l generalizing s with
  | nil => exact s.sendAll_nil.symm
  | cons m l ih =>
    rw [List.foldl_cons, ih]
    cases hm : m.down <;> simp [toPeersUp, hm, State.send_eq_sendAll, State.sendAll_sendAll]

theorem State.closePeers_eq (s : State) (p : PeerSet) : s.closePeers p = s.sendAll (toPeersUp (fun m => .peerClose m.session m.member) p.peers) :=
  State.foldl_toPeersUp ..

theorem peerKeepAliveSend_eq (hu : s.portUp = true) : peerKeepAliveSend s =
    s.sendAll (s.ses.list.flatMap fun x => x.peerSets.flatMap fun p => toPeersUp (fun m => .peerKeepAlive m.session m.member) p.peers) := by
  rw [peerKeepAliveSend, if_neg (by simp [hu])]
  exact State.foldl_sendAll (fun s x => State.foldl_sendAll (fun s p => State.foldl_toPeersUp _ p.peers s) x.peerSets s) s.ses.list s

/-- What a peer is sent when it joins a set: a connection, and the opening of its shard session where its descriptor came back. -/
def joinMsgs (p : PeerSet) (m : Peer × PeerReply) : List TxMsg :=
  .peerConnect m.1.member m.1.family m.1.port m.1.nsid m.1.address m.1.subnqn ::
    if (peerDesc m.2).isSome then [.peerOpen m.1.member (shardQuota p m.1)] else []

theorem State.reachPeer_eq (p : PeerSet) (s : State) (m : Peer × PeerReply) : s.reachPeer p m = s.sendAll (joinMsgs p m) := by
  cases hd : (peerDesc m.2).isSome <;> simp [State.reachPeer, joinMsgs, hd, State.send_eq_sendAll, State.sendAll_sendAll]

/-! ### PEER SET (R267, R268, R273) -/

/-- The peers that a PEER SET names, with what connecting to each found. -/
def namedPeers (b : Bytes) (replies : List PeerReply) : List (Peer × PeerReply) :=
  (List.range (field b 2 2)).map fun j => let r := replies.getD j .down; (peerOf (slice b (64 + 288 * j) 288) r, r)

/-- The set that a PEER SET gives. -/
def State.namedSet (s : State) (b : Bytes) (replies : List PeerReply) : PeerSet :=
  { no := s.ses.nextId, nsid := field b 4 4, self := field b 1 1, peers := (namedPeers b replies).map fun p => p.1, teams := field b 8 1
    seats := field b 9 1, granules := field b 12 4 }

/-- The sets that a PEER SET replaces: those of its namespace under which no query stands. -/
def Session.replacedSets (x : Session) (nsid : Nat) : List PeerSet :=
  x.peerSets.filter fun p => p.nsid == nsid && !(x.queries.any fun q => q.set == p.no)

/-- The peers of the new set have been reached, those of the sets it replaces closed, and the set stands last among the session's. -/
def State.joinSet (s : State) (x : Session) (b : Bytes) (replies : List PeerReply) : State :=
  let old := x.replacedSets (field b 4 4)
  let u := s.sendAll ((namedPeers b replies).flatMap (joinMsgs (s.namedSet b replies)) ++
    old.flatMap fun p => toPeersUp (fun m => .peerClose m.session m.member) p.peers)
  { u with ses := { u.ses with nextId := u.ses.nextId + 1 } }.updSess x.num fun x => { x with
    peerSets := (x.peerSets.filter fun p => !old.contains p) ++ [s.namedSet b replies] }

/-- Some reply brings a descriptor that differs from the namespace's. -/
def someDiffers (m : Ns) (replies : List PeerReply) : Bool := replies.any fun r => (peerDesc r).any (peerDiffers m)

theorem someDiffers_iff {m : Ns} {replies : List PeerReply} :
    someDiffers m replies = true ↔ ∃ r ∈ replies, ∃ d, peerDesc r = some d ∧ peerDiffers m d = true := by
  simp [someDiffers, Option.any_eq_true]

/-- A whole PEER SET is judged by its CRC, its fields and the peers' descriptors, in that order; else its set joins the session's, and the members
down are counted. -/
theorem peerSet_eq {tag : Tag} {c : Ctrl} {b : Bytes} {x : Session} (h : AdmitsSess tag c (field b 0 1) x s) (hl : 64 ≤ b.length)
    (hd : 64 + 288 * field b 2 2 ≤ b.length) (replies : List PeerReply) : peerSet tag b replies s =
      if field b 60 4 ≠ crc32c (b.take 60 ++ slice b 64 (288 * field b 2 2)) then s.refuse tag 0x4C
      else if peerFieldsOk s b (field b 2 2) = false then s.refuse tag 0x4D
      else if ((s.ns? (field b 4 4)).any fun m => someDiffers m (replies.take (field b 2 2))) = true then s.refuse tag 0x4E
      else (s.joinSet x b replies).succeed tag ((s.namedSet b replies).peers.filter fun p => p.down).length 0 [] := by
  obtain ⟨hadmits, hopen⟩ := h
  rw [peerSet, Proofs.command_of_admits hadmits, if_neg (not_lt.2 hl), State.sessCommand_of_takes hopen]
  dsimp only
  rw [if_neg (not_lt.2 hd), State.foldl_sendAll (State.reachPeer_eq _), State.foldl_sendAll State.closePeers_eq, State.sendAll_sendAll]
  refine if_congr Iff.rfl rfl (if_congr (by rw [Bool.not_eq_true']) rfl (if_congr ?_ rfl rfl))
  cases s.ns? (field b 4 4) with
  | none => simp
  | some m =>
    rw [Option.any_some, someDiffers_iff, List.any_eq_true]
    refine exists_congr fun r => and_congr_right fun _ => ?_
    cases peerDesc r <;> simp

/-! What a set that joins holds and what its peers were sent. -/

theorem State.joinSet_sess? {c : Ctrl} {sess : Nat} {x : Session} (hopen : s.openSess c sess = some x) (b : Bytes) (replies : List PeerReply) :
    ∃ y, (s.joinSet x b replies).sess? x.num = some y ∧ y.peerSets.getLast? = some (s.namedSet b replies) := by
  have hx := State.sess?_of_openSess hopen
  obtain rfl := State.num_of_sess? hx
  exact ⟨_, State.sess?_updSess (by exact hx) fun _ => rfl, List.getLast?_concat⟩

theorem State.joinSet_sends (x : Session) {b : Bytes} {replies : List PeerReply} {p : Peer × PeerReply} (hp : p ∈ namedPeers b replies) {m : TxMsg}
    (hm : m ∈ joinMsgs (s.namedSet b replies) p) : m ∈ (s.joinSet x b replies).port.tx :=
  List.mem_append_right _ (List.mem_append_left _ (List.mem_flatMap.2 ⟨p, hp, hm⟩))

theorem namedPeers_length (b : Bytes) (replies : List PeerReply) : (namedPeers b replies).length = field b 2 2 := by
  rw [namedPeers, List.length_map, List.length_range]

theorem namedPeers_getElem? {b : Bytes} {replies : List PeerReply} {j : Nat} {r : PeerReply} (hj : j < field b 2 2) (hr : replies[j]? = some r) :
    (namedPeers b replies)[j]? = some (peerOf (slice b (64 + 288 * j) 288) r, r) := by
  simp [namedPeers, hj, hr]

theorem peerOf_down_eq_false_iff (e : Bytes) (r : PeerReply) : (peerOf e r).down = false ↔ ∃ k d, r = .opened k d := by
  cases r <;> simp [peerOf]

theorem connects_mem_joinMsgs (p : PeerSet) (m : Peer × PeerReply) :
    .peerConnect m.1.member m.1.family m.1.port m.1.nsid m.1.address m.1.subnqn ∈ joinMsgs p m := List.mem_cons_self

theorem opens_mem_joinMsgs (p : PeerSet) {m : Peer × PeerReply} (hr : m.2 ≠ .down) : .peerOpen m.1.member (shardQuota p m.1) ∈ joinMsgs p m := by
  obtain ⟨m, r⟩ := m
  cases r with
  | down => exact absurd rfl hr
  | refused d => exact List.mem_cons_of_mem _ (List.mem_singleton_self _)
  | opened k d => exact List.mem_cons_of_mem _ (List.mem_singleton_self _)

/-- A lost connection marks a member down in the sets of its session for its namespace (R270). -/
theorem peerConnectionLoss_eq (hp : s.powered = true) (sess nsid member : Nat) : peerConnectionLoss sess nsid member s =
    s.updSess sess fun x => { x with peerSets := x.peerSets.map fun p => if p.nsid = nsid then
      { p with peers := p.peers.map fun m => if m.member = member then { m with down := true } else m } else p } := by
  rw [peerConnectionLoss, if_neg (by simp [hp])]
  simp only [updateIf_key]

end Sys2Proof.Machine

namespace Sys2Proof.Proofs

open Sys2Proof.Machine Sys2Proof.Safety

/-- Settles O46: SCAN and its answer, FETCH, PEER SET and what is sent to peers each by the lemma of its case. -/
theorem scansRunAndRecordsAreFetched : Obligations.ScansRunAndRecordsAreFetched := by
  refine ⟨fun tag c sess x s h => ⟨fun data hl hd => ⟨fun r hr => ?_, fun hr => ?_⟩, fun cls queryId after len byId keep hc => ⟨fun hsel hout => ?_,
    fun hout => ?_⟩⟩, fun sess x s hx => ?_, fun id k x c t n s hp hs ht hk hr hn hb => ?_, ?_, fun sess nsid member s hp => ?_, fun s hu => ?_⟩
  · exact congrArg Host.Outcome.next ((scan_eq h hl hd).trans (by rw [hr]))
  · exact congrArg Host.Outcome.next ((scan_eq h hl hd).trans (by rw [hr]))
  · obtain ⟨r, rest, hsel⟩ := List.exists_cons_of_ne_nil hsel
    exact ⟨_, congrArg Host.Outcome.next (fetch_of_none_fits h hc keep hsel hout)⟩
  · exact congrArg Host.Outcome.next (fetch_of_fits h hc keep hout)
  · obtain ⟨y, hy, hheld⟩ := State.postBatch_held hx
    exact ⟨y, hy, rfl, hheld⟩
  · exact congrArg Host.Outcome.next (scanComplete_of_free_tree hp hs ht hk hr hn hb)
  · intro tag c b replies x s h hl n hd crc
    have hset := peerSet_eq h hl hd replies
    refine ⟨fun hcrc => congrArg Host.Outcome.next (hset.trans (if_pos hcrc)), fun hcrc hf => ?_, fun hcrc hf m hm => ?_⟩
    · exact congrArg Host.Outcome.next (hset.trans ((if_neg (not_not.2 hcrc)).trans (if_pos hf)))
    rw [if_neg (not_not.2 hcrc), if_neg fun hbad => Bool.false_ne_true (hbad.symm.trans hf), hm, Option.any_some] at hset
    refine ⟨fun hdiff => congrArg Host.Outcome.next (hset.trans (if_pos (someDiffers_iff.2 hdiff))), fun halike => ?_⟩
    have halike : ¬someDiffers m (replies.take n) = true := fun hdiff => by
      obtain ⟨r, hr, d, hdesc, hd⟩ := someDiffers_iff.1 hdiff
      exact Bool.false_ne_true ((halike r hr d hdesc).symm.trans hd)
    obtain ⟨-, hopen⟩ := h
    refine ⟨s.joinSet x b replies, s.namedSet b replies, rfl, rfl, rfl, rfl, rfl,
      (List.length_map ..).trans (namedPeers_length b replies), fun j r hj hr => ?_,
      congrArg Host.Outcome.next (hset.trans (if_neg halike)), State.joinSet_sess? hopen b replies⟩
    intro e
    have hpair := namedPeers_getElem? hj hr
    have hsends := @State.joinSet_sends s x b replies _ (List.mem_of_getElem? hpair)
    exact ⟨peerOf e r, (List.getElem?_map ..).trans (congrArg _ hpair), rfl, rfl, rfl, rfl, rfl, rfl, peerOf_down_eq_false_iff e r,
      fun k d hopened => by rw [hopened]; rfl, hsends (connects_mem_joinMsgs ..), fun hne => hsends (opens_mem_joinMsgs _ hne)⟩
  · exact congrArg Host.Outcome.next (peerConnectionLoss_eq hp sess nsid member)
  · exact congrArg Host.Outcome.next (peerKeepAliveSend_eq hu)

end Sys2Proof.Proofs
end

section
/-! PROOFS. Page addresses and map entries: every field reads back what was put in, whatever CHECK holds (R303, R333). -/

namespace Sys2Proof.Machine

/-! ### A physical page address (R303) -/

section
variable {die block page : Nat}

theorem ppa_lt (hd : die < 1024) (hb : block < 4096) (hp : page < 512) : ppa die block page < 2 ^ 31 := by
  rw [ppa]
  omega

theorem bits_ppa_die (hd : die < 1024) (hb : block < 4096) (hp : page < 512) : bits (ppa die block page) 30 21 = die := by
  rw [bits, ppa]
  omega

theorem bits_ppa_block (hb : block < 4096) (hp : page < 512) : bits (ppa die block page) 20 9 = block := by
  rw [bits, ppa]
  omega

theorem bits_ppa_page (hp : page < 512) : bits (ppa die block page) 8 0 = page := by
  rw [bits, ppa]
  omega

end

/-! ### CHECK of a map entry and the fields beside it (R333) -/

theorem crc6Bit_lt (c : Nat) (b : Bool) : crc6Bit c b < 64 := by
  have hshift : c * 2 % 64 < 2 ^ 6 := Nat.mod_lt _ (by decide)
  unfold crc6Bit
  dsimp only
  split
  · exact Nat.xor_lt_two_pow hshift (by decide)
  · exact hshift

/-- CHECK takes six bits. -/
theorem entryCheck_lt (e : Nat) : entryCheck e < 64 :=
  List.foldlRecOn (motive := fun c => c < 64) _ _ (by decide) fun c _ _ _ => crc6Bit_lt c _

/-- An entry's number: stamp, CHECK, plane and page address side by side. -/
theorem mkEntry_toNat (stamp plane p : Nat) :
    ∃ k < 64, (mkEntry stamp plane p).toNat = stamp % 2 ^ 24 * 2 ^ 40 + k * 2 ^ 34 + plane % 4 * 2 ^ 32 + p % 2 ^ 32 := by
  refine ⟨_, entryCheck_lt (stamp % 2 ^ 24 * 2 ^ 40 + plane % 4 * 2 ^ 32 + p % 2 ^ 32), ?_⟩
  have hk := entryCheck_lt (stamp % 2 ^ 24 * 2 ^ 40 + plane % 4 * 2 ^ 32 + p % 2 ^ 32)
  rw [mkEntry, BitVec.toNat_ofNat]
  omega

theorem entPpa_mkEntry (stamp plane : Nat) {p : Nat} (hp : p < 2 ^ 32) : entPpa (mkEntry stamp plane p) = p := by
  obtain ⟨k, -, he⟩ := mkEntry_toNat stamp plane p
  rw [entPpa, he]
  omega

theorem entPlane_mkEntry (stamp p : Nat) {plane : Nat} (hq : plane < 4) : entPlane (mkEntry stamp plane p) = plane := by
  obtain ⟨k, -, he⟩ := mkEntry_toNat stamp plane p
  rw [entPlane, he, bits]
  omega

/-! Die, block and page of an entry are those of its page address. -/

theorem entDie_eq (e : BitVec 64) : entDie e = bits (entPpa e) 30 21 := by
  rw [entDie, entPpa, bits, bits]
  omega

theorem entBlock_eq (e : BitVec 64) : entBlock e = bits (entPpa e) 20 9 := by
  rw [entBlock, entPpa, bits, bits]
  omega

theorem entPage_eq (e : BitVec 64) : entPage e = bits (entPpa e) 8 0 := by
  rw [entPage, entPpa, bits, bits]
  omega

end Sys2Proof.Machine

namespace Sys2Proof.Proofs

open Sys2Proof.Machine Sys2Proof.Safety

/-- Settles O51: the fields of the page address, then those of an entry through the page address that it gives back. -/
theorem pageAddressesHoldDieBlockAndPage : Obligations.PageAddressesHoldDieBlockAndPage := by
  intro die block page hd hb hp
  have hlt := ppa_lt hd hb hp
  have hdie := bits_ppa_die hd hb hp
  have hblock := bits_ppa_block (die := die) hb hp
  have hpage := bits_ppa_page (die := die) (block := block) hp
  refine ⟨⟨by omega, ?_, hdie, hblock, hpage⟩, fun stamp plane slot hq => ?_⟩
  · rw [BitVec.getLsbD_ofNat, Nat.testBit_lt_two_pow hlt, Bool.and_false]
  · intro e
    have hppa : entPpa e = ppa die block page := entPpa_mkEntry stamp plane (by omega)
    have hplane : entPlane e = plane := entPlane_mkEntry stamp _ hq
    have hd' : entDie e = die := by rw [entDie_eq, hppa, hdie]
    have hb' : entBlock e = block := by rw [entBlock_eq, hppa, hblock]
    have hp' : entPage e = page := by rw [entPage_eq, hppa, hpage]
    exact ⟨hppa, hplane, hd', hb', hp', by rw [entAddr, hd', hplane, hb', hp']⟩

end Sys2Proof.Proofs
end

section
/-! PROOFS. A program of host units whose failed plane carries none of them (R317, R320, R342). -/

namespace Sys2Proof.Machine

variable {s : State}

/-! ### What ends with a program (R320, R324, R365) -/

/-- A plane that fails touches neither the upkeep's state nor power. -/
theorem State.failPlane_frame (p : PageSet) (s : State) (q : Nat) : (s.failPlane p q).xlt = s.xlt ∧ (s.failPlane p q).pwr = s.pwr := by
  unfold State.failPlane State.retire
  split
  · exact ⟨rfl, rfl⟩
  · exact ⟨State.event_xlt .., State.event_pwr ..⟩

/-- A program that is over leaves its set's place among those in flight. -/
theorem State.settle_frame (s : State) (p : PageSet) (failed : List Nat) :
    (s.settle p failed).xlt = { s.xlt with sets := s.xlt.sets.filter fun x => x.id != p.id } ∧ (s.settle p failed).pwr = s.pwr :=
  List.foldlRecOn (motive := fun u : State => u.xlt = { s.xlt with sets := s.xlt.sets.filter fun x => x.id != p.id } ∧ u.pwr = s.pwr) _ _
    ⟨rfl, rfl⟩ fun u ⟨hxlt, hpwr⟩ q _ => ⟨(u.failPlane_frame p q).1.trans hxlt, (u.failPlane_frame p q).2.trans hpwr⟩

/-- One failed plane of a host set is enough: every version goes back to be placed, and no entry is made (R320). -/
theorem State.endProgram_of_failed {p : PageSet} (hs : p.stream ≤ 7) {failed : List Nat} (hf : ∃ q ∈ failed, q ∈ p.planes) :
    (s.endProgram p failed).xlt = { s.xlt with sets := s.xlt.sets.filter fun x => x.id != p.id, buf := mergeBack p.id s.xlt.buf } ∧
      (s.endProgram p failed).pwr = s.pwr := by
  obtain ⟨q, hq, hplane⟩ := hf
  have hne : ¬(failed.filter p.planes.contains).isEmpty = true := by
    rw [List.isEmpty_iff]
    exact List.ne_nil_of_mem (List.mem_filter.2 ⟨hq, by simpa using hplane⟩)
  obtain ⟨hxlt, hpwr⟩ := s.settle_frame p (failed.filter p.planes.contains)
  rw [State.endProgram]
  dsimp only
  rw [if_neg hne, if_pos hs]
  exact ⟨by dsimp only; rw [hxlt], hpwr⟩

theorem State.markCheck_of_none (h : s.xlt.markDue = none) : s.markCheck = s := by
  rw [State.markCheck, h]

theorem State.finishShutdown_of_nil (h : s.xlt.shutdowns = []) : s.finishShutdown = s := by
  rw [State.finishShutdown, h]

theorem flushMore_of_no_flush (h : s.pwr.seq ≠ .flush) : flushMore s = s := by
  rw [flushMore, if_neg (by simp [h])]

/-- A host program on its last stage ends as its set does, and what waits for programs goes on. -/
theorem dieProgramComplete_of_set {die id : Nat} {o : DieOp} {p : PageSet} (hr : s.arrayRuns = true) (ho : s.opOn die = some o)
    (hw : o.work = .program id) (he : o.ends ≤ s.stg.stage + 1) (hp : (s.xlt.sets.find? fun p => p.id == id) = some p) (hu : p.units ≠ [])
    (failed : List Nat) : dieProgramComplete die failed s = flushMore ((s.endOp o).endProgram p failed).markCheck.finishShutdown := by
  obtain ⟨d, w, starts, ends, ended⟩ := o
  subst hw
  have hp' : ((s.endOp ⟨d, .program id, starts, ends, ended⟩).xlt.sets.find? fun p => p.id == id) = some p := hp
  have hlast : ¬(!s.arrayRuns || decide (s.stg.stage + 1 < ends)) = true := by simpa [hr] using he
  simp only [dieProgramComplete, ho, if_neg hlast, hp', List.isEmpty_iff, if_neg hu]

/-- A host program with a failed plane of its set leaves the map as it was, where no mark is due, no shutdown runs and no flush. -/
theorem dieProgramComplete_map_of_failed {die id : Nat} {o : DieOp} {p : PageSet} (hr : s.arrayRuns = true) (ho : s.opOn die = some o)
    (hw : o.work = .program id) (he : o.ends ≤ s.stg.stage + 1) (hp : (s.xlt.sets.find? fun p => p.id == id) = some p) (hu : p.units ≠ [])
    (hs : p.stream ≤ 7) (hm : s.xlt.markDue = none) (hd : s.xlt.shutdowns = []) (hseq : s.pwr.seq ≠ .flush) {failed : List Nat}
    (hf : ∃ q ∈ failed, q ∈ p.planes) : (dieProgramComplete die failed s).xlt.map = s.xlt.map := by
  obtain ⟨hxlt, hpwr⟩ := State.endProgram_of_failed (s := s.endOp o) hs hf
  rw [dieProgramComplete_of_set hr ho hw he hp hu, State.markCheck_of_none (by rw [hxlt]; exact hm),
    State.finishShutdown_of_nil (by rw [hxlt]; exact hd), flushMore_of_no_flush (by rw [hpwr]; exact hseq), hxlt]
  rfl

/-! ### A set of two planes that carries one unit -/

/-- A host set over planes 0 and 1 of a die with one unit, in plane 0: what was ready when it was placed filled one plane (R317). -/
def oneUnitSet : PageSet :=
  { id := 0, die := 0, block := 0, page := 0, stream := 0, units := [(0, 0, 0)], planes := [0, 1], stamp := 1, sess := none }

/-- The version that the set carries. -/
def carriedUnit : BufUnit := { ns := 0, unit := 0, slots := [some [], none, none, none], seq := 0, last := 0, inSet := some 0, by_ := none }

/-- A running array whose one program, of that set, comes to its last stage. -/
def oneUnitState : State :=
  { State.reset with
    pwr := { State.reset.pwr with standby := true, rails := true }
    fla := { State.reset.fla with ops := [⟨0, .program 0, 0, 1, false⟩] }
    xlt := { State.reset.xlt with sets := [oneUnitSet], setId := 1, buf := [carriedUnit] } }

/-- Plane 1 fails: the unit in plane 0 is not mapped. -/
theorem dieProgramComplete_oneUnitState : (dieProgramComplete 0 [1] oneUnitState).entry 0 0 = unmapped := by
  have hmap : (dieProgramComplete 0 [1] oneUnitState).xlt.map = oneUnitState.xlt.map :=
    dieProgramComplete_map_of_failed (o := ⟨0, .program 0, 0, 1, false⟩) (p := oneUnitSet) rfl rfl rfl le_rfl rfl (List.cons_ne_nil _ _)
      (Nat.zero_le 7) rfl rfl (by decide) ⟨1, by decide, by decide⟩
  rw [State.entry, hmap]
  rfl

end Sys2Proof.Machine

namespace Sys2Proof.Proofs

open Sys2Proof.Machine Sys2Proof.Safety

/-- Refutes O34: a set may have a plane that carries no unit. Where that plane alone fails, no unit's plane is among the failed ones, so the
statement has the unit mapped; but the set has not passed on all its planes, and the model places it again as a whole (R320). -/
theorem not_sensesProgramsAndErasesEnd : ¬ Obligations.SensesProgramsAndErasesEnd := by
  intro h
  obtain ⟨-, -, hprogram, -⟩ := h 0 oneUnitState rfl
  obtain ⟨t, ht, -, -, hmaps, -⟩ := hprogram ⟨0, .program 0, 0, 1, false⟩ 0 [1] oneUnitSet rfl rfl le_rfl rfl (Nat.zero_le 7) (by decide) rfl rfl
    (by decide) (List.cons_ne_nil _ _) (by decide) (by decide)
  obtain rfl : dieProgramComplete 0 [1] oneUnitState = t := Host.Outcome.next.inj ht
  obtain ⟨hentry, -⟩ := hmaps (by decide) (0, 0, 0) (by decide) ⟨carriedUnit, by decide, rfl, rfl, rfl⟩
  rw [dieProgramComplete_oneUnitState] at hentry
  have hppa : unmappedPpa = ppa 0 0 0 :=
    calc unmappedPpa = entPpa unmapped := (entPpa_mkEntry 0 0 (by decide)).symm
      _ = entPpa (mkEntry 1 0 (ppa 0 0 0)) := congrArg entPpa hentry
      _ = ppa 0 0 0 := entPpa_mkEntry 1 0 (by decide)
  exact absurd hppa (by decide)

end Sys2Proof.Proofs
end

section
/-! PROOFS. What answers and events leave alone, and what work that ends leaves of the namespaces (R28, R266, R273, R343, R350, R404, R405, R422). -/

namespace Sys2Proof.Machine

variable {s t u : State}

/-- A view that no step over a list moves stands after the list. -/
theorem foldl_view {α β : Type} {view : State → α} {f : State → β → State} (hf : ∀ s x, view (f s x) = view s) (l : List β) (s : State) :
    view (l.foldl f s) = view s :=
  List.foldlRecOn (motive := fun u => view u = view s) _ _ rfl fun u hu x _ => (hf u x).trans hu

/-! ### Answers and asynchronous events: the queues alone move (R28, R422) -/

/-- Nothing but the queues has moved: completions joined the batch, and the controllers are those of before by their numbers. -/
def Posts (s t : State) : Prop :=
  t = { s with que := t.que } ∧ (∃ l, t.que.done = s.que.done ++ l) ∧ t.que.ctrls.map Ctrl.id = s.que.ctrls.map Ctrl.id

theorem Posts.refl (s : State) : Posts s s := ⟨rfl, ⟨[], (List.append_nil _).symm⟩, rfl⟩

theorem Posts.trans (h : Posts s t) (h' : Posts t u) : Posts s u := by
  obtain ⟨ht, ⟨l, hl⟩, hc⟩ := h
  obtain ⟨hu, ⟨m, hm⟩, hc'⟩ := h'
  refine ⟨hu.trans ?_, ⟨l ++ m, by rw [hm, hl, List.append_assoc]⟩, hc'.trans hc⟩
  rw [ht]

theorem Posts.foldl {β : Type} {f : State → β → State} (hf : ∀ s x, Posts s (f s x)) (l : List β) (s : State) : Posts s (l.foldl f s) :=
  List.foldlRecOn (motive := Posts s) _ _ (Posts.refl s) fun u hu x _ => hu.trans (hf u x)

theorem Posts.ns (h : Posts s t) : t.ns = s.ns := by rw [h.1]
theorem Posts.xlt (h : Posts s t) : t.xlt = s.xlt := by rw [h.1]
theorem Posts.fwc (h : Posts s t) : t.fwc = s.fwc := by rw [h.1]

/-- A controller is found after it where one of its number was found before. -/
theorem Posts.ctrl? (h : Posts s t) (k : Nat) : (t.ctrl? k).isSome = (s.ctrl? k).isSome := by
  have hany : ∀ v : State, (v.ctrl? k).isSome = (v.que.ctrls.map Ctrl.id).any (· == k) := fun v => by
    rw [Bool.eq_iff_iff, State.ctrl?, List.find?_isSome]
    simp
  rw [hany, hany, h.2.2]

theorem State.completeWith_posts (s : State) (tag : Tag) (st : Status) (dw0 dw1 : Nat) (data : Bytes) : Posts s (s.completeWith tag st dw0 dw1 data) := by
  unfold State.completeWith
  split
  · exact ⟨rfl, ⟨_, rfl⟩, rfl⟩
  · exact Posts.refl s

theorem State.succeed_posts (s : State) (tag : Tag) (dw0 dw1 : Nat) (data : Bytes) : Posts s (s.succeed tag dw0 dw1 data) := s.completeWith_posts ..
theorem State.fail_posts (s : State) (tag : Tag) (st : Status) : Posts s (s.fail tag st) := s.completeWith_posts ..
theorem State.refuse_posts (s : State) (tag : Tag) (reason : Nat) : Posts s (s.refuse tag reason) := s.completeWith_posts ..

/-- Controllers changed one by one, each under its number. -/
theorem posts_of_ctrls (s : State) {f : Ctrl → Ctrl} (hf : ∀ c, (f c).id = c.id) : Posts s { s with que := { s.que with ctrls := s.que.ctrls.map f } } :=
  ⟨rfl, ⟨[], (List.append_nil _).symm⟩, by rw [List.map_map]; exact List.map_congr_left fun c _ => hf c⟩

theorem State.updCtrl_posts (s : State) (id : Nat) {f : Ctrl → Ctrl} (hf : ∀ c, (f c).id = c.id) : Posts s (s.updCtrl id f) :=
  posts_of_ctrls s fun c => by split <;> simp [hf]

theorem postOne_posts (type info lid : Nat) (s : State) (c : Ctrl) : Posts s (postOne type info lid s c) := by
  unfold postOne
  split
  · split
    · exact s.updCtrl_posts c.id fun _ => rfl
    · refine Posts.trans ?_ (State.succeed_posts ..)
      exact s.updCtrl_posts c.id fun _ => rfl
  · exact Posts.refl s

theorem State.asyncEvent_posts (s : State) (type info lid : Nat) : Posts s (s.asyncEvent type info lid) := Posts.foldl (postOne_posts type info lid) _ s

theorem State.notice_posts (s : State) (nsid : Nat) : Posts s (s.notice nsid) := by
  refine Posts.trans ?_ (State.asyncEvent_posts ..)
  exact posts_of_ctrls s fun _ => rfl

theorem posts_of_warned (s : State) (w : Nat) : Posts s { s with que := { s.que with warned := w } } := ⟨rfl, ⟨[], (List.append_nil _).symm⟩, rfl⟩

theorem State.warn_posts (s : State) : Posts s s.warn := by
  rw [State.warn_eq]
  refine Posts.trans (Posts.foldl (fun u i => ?_) _ s) (posts_of_warned ..)
  split
  · exact State.asyncEvent_posts ..
  · exact Posts.refl u

/-- Commands that wait for landing and need wait no longer complete. -/
theorem State.landCheck_posts (s : State) : ∃ w, Posts { s with xlt := { s.xlt with landWaits := w } } s.landCheck :=
  ⟨_, Posts.foldl (fun _ _ => State.succeed_posts ..) _ _⟩

/-! ### Beside the queues the translation moves, no map entry of it (R343, R350) -/

/-- Nothing but the queues and the translation has moved, and the map stands. -/
def Quiet (s t : State) : Prop := t = { s with que := t.que, xlt := t.xlt } ∧ t.xlt.map = s.xlt.map

theorem Posts.quiet (h : Posts s t) : Quiet s t := ⟨congrArg (fun v : State => { v with xlt := t.xlt }) h.1, by rw [h.xlt]⟩

theorem Quiet.trans (h : Quiet s t) (h' : Quiet t u) : Quiet s u := by
  obtain ⟨ht, hm⟩ := h
  obtain ⟨hu, hm'⟩ := h'
  refine ⟨hu.trans ?_, hm'.trans hm⟩
  rw [ht]

theorem Quiet.ns (h : Quiet s t) : t.ns = s.ns := by rw [h.1]
theorem Quiet.ses (h : Quiet s t) : t.ses = s.ses := by rw [h.1]
theorem Quiet.stg (h : Quiet s t) : t.stg = s.stg := by rw [h.1]
theorem Quiet.entry (h : Quiet s t) (ns unit : Nat) : t.entry ns unit = s.entry ns unit := by rw [State.entry, h.2, State.entry]

theorem State.landCheck_quiet (s : State) : Quiet s s.landCheck := by
  obtain ⟨w, hw⟩ := s.landCheck_posts
  exact Quiet.trans ⟨rfl, rfl⟩ hw.quiet

theorem State.checkFull_quiet (s : State) : Quiet s s.checkFull := by
  unfold State.checkFull
  split
  · exact Quiet.trans ⟨rfl, rfl⟩ (State.warn_posts _).quiet
  · exact (Posts.refl s).quiet

theorem State.clearFull_quiet (s : State) : Quiet s s.clearFull := by
  unfold State.clearFull
  split
  · exact Quiet.trans ⟨rfl, rfl⟩ (State.warn_posts _).quiet
  · exact (Posts.refl s).quiet

theorem State.releaseFull_quiet (s : State) : Quiet s s.releaseFull :=
  s.checkFull_quiet.trans (Quiet.trans ⟨rfl, rfl⟩ (State.clearFull_quiet _))

theorem State.endPlain_quiet (s : State) (ns : Nat) (st : Status) : Quiet s (s.endPlain ns st) :=
  Quiet.trans ⟨rfl, rfl⟩ (Posts.foldl (fun u t => u.fail_posts t st) _ _).quiet

/-- Of the map a namespace's contents leave its other entries. -/
theorem State.dropContents_quiet (s : State) (ns : Nat) :
    Quiet { s with xlt := { s.xlt with map := Tab.clear s.xlt.map (mapKey ns 0) (mapKey (ns + 1) 0) } } (s.dropContents ns) :=
  Quiet.trans ⟨rfl, rfl⟩ (State.landCheck_quiet _)

/-- Every unit of a namespace whose contents have gone is UNMAPPED. -/
theorem State.dropContents_entry (s : State) (ns : Nat) {unit : Nat} (hu : unit < 2 ^ 40) : (s.dropContents ns).entry ns unit = unmapped := by
  rw [(s.dropContents_quiet ns).entry, State.entry, Tab.get_clear, if_pos]
  rw [mapKey, mapKey, mapKey]
  omega

/-! ### Work that ends leaves the namespaces but for their generations (R266, R273, R405) -/

/-- A namespace without its generations. -/
def Ns.bare (n : Ns) : Ns := { n with gens := [] }

/-- The namespaces without their generations, and the stage. -/
def State.nsView (s : State) : NsTab × Nat := ({ s.ns with list := s.ns.list.map Ns.bare }, s.stg.stage)

theorem State.nsView_congr (hn : t.ns = s.ns) (hs : t.stg.stage = s.stg.stage) : t.nsView = s.nsView := by
  rw [State.nsView, State.nsView, hn, hs]

theorem State.list_of_nsView (h : t.nsView = s.nsView) : t.ns.list.map Ns.bare = s.ns.list.map Ns.bare := congrArg (fun v : NsTab × Nat => v.1.list) h

theorem Quiet.nsView (h : Quiet s t) : t.nsView = s.nsView := State.nsView_congr h.ns (congrArg Stg.stage h.stg)

theorem Posts.nsView (h : Posts s t) : t.nsView = s.nsView := h.quiet.nsView

theorem State.event_nsView (s : State) (code cls source : Nat) (obj : Obj) (detail : Bytes) : (s.event code cls source obj detail).nsView = s.nsView := by
  refine State.nsView_congr (State.event_ns ..) ?_
  unfold State.event
  dsimp only
  split
  · show (s.eventAt s.stamp code cls source obj detail).stg.stage = _
    rw [State.eventAt_stg]
  · rw [State.eventAt_stg]

theorem State.withDrm_nsView (s : State) (d : Drm) : ({ s with drm := d } : State).nsView = s.nsView := rfl
theorem State.nextCycle_nsView (s : State) : s.nextCycle.nsView = s.nsView := rfl
theorem State.updSess_nsView (s : State) (n : Nat) (f : Session → Session) : (s.updSess n f).nsView = s.nsView := rfl
theorem State.setCheck_nsView (s : State) (line w : Nat) (p : Byte × Byte) : (s.setCheck line w p).nsView = s.nsView := rfl
theorem State.putWord_nsView (s : State) (line w : Nat) (d : Bytes) : (s.putWord line w d).nsView = s.nsView := rfl

theorem State.poisonLine_nsView (s : State) (line : Nat) : (s.poisonLine line).nsView = s.nsView :=
  foldl_view (fun u w => u.setCheck_nsView line w _) _ s

theorem State.fixWord_nsView (s : State) (line w j : Nat) (e : Byte) : (s.fixWord line w j e).nsView = s.nsView := by
  unfold State.fixWord
  split
  · rfl
  · split <;> rfl

/-- A bus error is logged; what else a read of a line does lies in the DRAM. -/
theorem readLine_nsView (req line : Nat) (ws : List Nat) (s : State) : (readLine req line ws s).2.nsView = s.nsView := by
  have hfix : ∀ (u : State) (c : Nat × LineClass), (match c.2 with | .corrected j e => u.fixWord line c.1 j e | _ => u).nsView = u.nsView := fun u c => by
    split
    · exact u.fixWord_nsView ..
    · rfl
  have hfold := fun (l : List (Nat × LineClass)) (u : State) => foldl_view hfix l u
  unfold readLine
  dsimp only
  split
  · exact s.withDrm_nsView _
  · split
    · exact (State.event_nsView ..).trans ((State.poisonLine_nsView ..).trans ((hfold _ _).trans (s.withDrm_nsView _)))
    · split
      · exact (State.withDrm_nsView ..).trans ((hfold _ _).trans (s.withDrm_nsView _))
      · exact (hfold _ _).trans (s.withDrm_nsView _)

theorem readParts_nsView (req : Nat) (sel : Nat → List Nat) (ls : List Nat) (s : State) : (readParts req sel ls s).2.nsView = s.nsView := by
  induction ls generalizing s with
  | nil => rfl
  | cons l ls ih =>
    have hline := readLine_nsView req l (sel l) s
    rw [readParts]
    split
    · exact ih s
    · split
      · next hr => rw [hr] at hline; exact (ih _).trans hline
      · next hr => rw [hr] at hline; exact hline

theorem writePiece_nsView (addr : Nat) (bs : Bytes) (s : State) (line : Nat) : (writePiece addr bs s line).nsView = s.nsView := by
  unfold writePiece
  dsimp only
  split
  · rfl
  · exact foldl_view (fun u w => by split <;> rfl) _ s
  · exact foldl_view (fun u w => u.putWord_nsView line w _) _ _

theorem dramWrite_nsView (req addr : Nat) (bs : Bytes) (s : State) : (dramWrite req addr bs s).2.nsView = s.nsView := by
  have hpre : (if s.writePath (pkgOf addr) = 0 then readParts req (fun l => partly l addr bs.length) (spanLines addr bs.length) s else (true, s)).2.nsView =
      s.nsView := by
    split
    · exact readParts_nsView ..
    · rfl
  unfold dramWrite
  dsimp only
  split
  · next hr => rw [hr] at hpre; exact (foldl_view (writePiece_nsView addr bs) _ _).trans hpre
  · next hr => rw [hr] at hpre; exact hpre

theorem State.clearSaved_nsView (s : State) (x : Session) (place ctx : Nat) : (s.clearSaved x place ctx).nsView = s.nsView := by
  rw [State.clearSaved]
  dsimp only
  rw [State.updSess_nsView]
  refine foldl_view (fun u i => ?_) _ s
  split
  · exact dramWrite_nsView ..
  · rfl

theorem State.clearCtx_nsView (s : State) (sess coach ctx : Nat) : (s.clearCtx sess coach ctx).nsView = s.nsView := by
  unfold State.clearCtx
  split
  · rfl
  · split
    · rfl
    · exact (apply_ite State.nsView ..).trans (ite_eq_iff'.2 ⟨fun _ => rfl, fun _ => s.clearSaved_nsView ..⟩)

theorem State.closePeers_nsView (s : State) (p : PeerSet) : (s.closePeers p).nsView = s.nsView :=
  foldl_view (fun u q => by split <;> rfl) p.peers s

theorem State.dropQuery_nsView (s : State) (sess id : Nat) : (s.dropQuery sess id).nsView = s.nsView := by
  unfold State.dropQuery
  split
  · rfl
  · next q _ =>
    have hwalks := foldl_view (view := State.nsView) (f := fun s w => if w.record.isNone && !w.answered then s.clearCtx sess w.coach w.ctx else s)
      (fun u w => by split; exacts [u.clearCtx_nsView .., rfl]) q.walks s
    dsimp only
    split
    · exact hwalks
    · exact (foldl_view State.closePeers_nsView _ _).trans hwalks

theorem State.endQueries_nsView (s : State) (nsid reason : Nat) (p : Query → Bool) : (s.endQueries nsid reason p).nsView = s.nsView :=
  foldl_view (fun u _ => foldl_view (fun _ _ => (State.dropQuery_nsView ..).trans (State.completeWith_posts ..).nsView) _ u) s.ses.list s

/-- A freed generation is all that its namespace loses. -/
theorem State.freeGen_nsView (s : State) (nsid num : Nat) : (s.freeGen nsid num).nsView = s.nsView := by
  refine Prod.ext (congrArg (fun l => { s.ns with list := l }) ?_) rfl
  refine (List.map_map ..).trans (List.map_congr_left fun n _ => ?_)
  dsimp only [Function.comp]
  split <;> rfl

theorem State.endBuild_nsView (s : State) (nsid gen result items skipped : Nat) : (s.endBuild nsid gen result items skipped).nsView = s.nsView := by
  have hfree : (if result = 0 then s else s.freeGen nsid gen).nsView = s.nsView := by
    split
    · rfl
    · exact s.freeGen_nsView nsid gen
  have hhold : ∀ (u : State) (n : Nat) (k : Held), (u.hold n k).nsView = u.nsView := fun u n k => by
    unfold State.hold
    dsimp only
    split <;> rfl
  unfold State.endBuild
  dsimp only
  generalize (if result = 0 then s else s.freeGen nsid gen) = u at hfree ⊢
  split
  · exact hfree
  · split
    · refine (State.nextCycle_nsView _).trans ((hhold _ _ _).trans ?_)
      exact hfree
    · refine (hhold _ _ _).trans ?_
      exact hfree

theorem State.endBuilds_nsView (s : State) (nsid result : Nat) : (s.endBuilds nsid result).nsView = s.nsView :=
  foldl_view (fun u _ => u.endBuild_nsView ..) _ s

theorem State.forgetNs_nsView (s : State) (nsid : Nat) : (s.forgetNs nsid).nsView = s.nsView :=
  foldl_view (fun u _ => foldl_view State.closePeers_nsView _ u) s.ses.list s

theorem State.ns?_congr (h : t.ns = s.ns) (k : Nat) : t.ns? k = s.ns? k := by
  rw [State.ns?, h, State.ns?]

/-- A namespace is found after it, and is what it was but for its generations. -/
theorem State.ns?_of_nsView (h : t.nsView = s.nsView) {k : Nat} {n : Ns} (hn : s.ns? k = some n) : ∃ m, t.ns? k = some m ∧ m.bare = n.bare := by
  have hbare : ∀ v : State, (v.ns.list.map Ns.bare).find? (fun m => m.nsid == k) = (v.ns? k).map Ns.bare := fun v => List.find?_map
  have hmap : (t.ns? k).map Ns.bare = some n.bare := by rw [← hbare, State.list_of_nsView h, hbare, hn, Option.map_some]
  exact Option.map_eq_some_iff.1 hmap

end Sys2Proof.Machine
end

section
/-! PROOFS. Namespaces created, deleted and formatted, one by one and all at once (R326, R402 to R406, R422, R497, R499). -/

namespace Sys2Proof.Machine

open Sys2Proof.Safety

variable {s : State}

/-! ### Where a namespace is found -/

theorem State.ns?_updNs (s : State) {nsid : Nat} {f : Ns → Ns} (hf : ∀ n, (f n).nsid = n.nsid) (k : Nat) :
    (s.updNs nsid f).ns? k = (s.ns? k).map fun n => if n.nsid = nsid then f n else n := by
  have hnsid : ((fun n : Ns => n.nsid == k) ∘ fun n => if n.nsid = nsid then f n else n) = fun n => n.nsid == k := by
    funext n
    by_cases hn : n.nsid = nsid <;> simp [hn, hf]
  rw [State.ns?, State.updNs, updateIf_key, List.find?_map, hnsid]
  rfl

theorem State.ns?_updNs_same {nsid : Nat} {n : Ns} (hn : s.ns? nsid = some n) {f : Ns → Ns} (hf : ∀ n, (f n).nsid = n.nsid) :
    (s.updNs nsid f).ns? nsid = some (f n) := by
  rw [State.ns?_updNs s hf, hn, Option.map_some, if_pos (State.nsid_of_ns? hn)]

theorem State.ns?_updNs_other {nsid k : Nat} (hk : k ≠ nsid) {f : Ns → Ns} (hf : ∀ n, (f n).nsid = n.nsid) : (s.updNs nsid f).ns? k = s.ns? k := by
  rw [State.ns?_updNs s hf]
  cases hn : s.ns? k with
  | none => rfl
  | some n => rw [Option.map_some, if_neg (by rw [State.nsid_of_ns? hn]; exact hk)]

/-- In the list a namespace of a free number is found under its number, every other as before. -/
theorem find?_insertNs {n : Ns} {l : List Ns} (hn : (l.find? fun m => m.nsid == n.nsid) = none) (k : Nat) :
    (insertNs n l).find? (fun m => m.nsid == k) = if k = n.nsid then some n else l.find? fun m => m.nsid == k := by
  have hfront : ∀ l : List Ns, (n :: l).find? (fun m => m.nsid == k) = if k = n.nsid then some n else l.find? fun m => m.nsid == k := fun l => by
    rw [List.find?_cons]
    by_cases hk : k = n.nsid
    · rw [if_pos hk, beq_iff_eq.2 hk.symm]
    · rw [if_neg hk, beq_eq_false_iff_ne.2 (Ne.symm hk)]
  induction l with
  | nil => exact hfront []
  | cons m l ih =>
    have hm : m.nsid ≠ n.nsid := by simpa using List.find?_eq_none.1 hn m List.mem_cons_self
    have hl := List.find?_eq_none.2 fun x hx => List.find?_eq_none.1 hn x (List.mem_cons_of_mem m hx)
    rw [insertNs]
    split
    · exact hfront _
    · rw [List.find?_cons, ih hl, List.find?_cons]
      by_cases hmk : m.nsid = k
      · simp only [beq_iff_eq.2 hmk, if_neg fun hk => hm (hmk.trans hk)]
      · simp only [beq_eq_false_iff_ne.2 hmk]

/-! ### Creation (R402, R403, R422, R497) -/

/-- A namespace with a number and a fresh key joins the table. -/
def State.addNs (s : State) (n : Ns) : State :=
  let u := s.nextCycle.newKey.2
  { u with ns := { u.ns with list := insertNs n u.ns.list } }

section
variable {tag : Tag} {c : Ctrl} (h : Admits tag c s)
include h

theorem namespaceCreate_of_bad {flbas nsze ncap : Nat} {header : Bytes} (hd : describe flbas nsze ncap header = none) :
    namespaceCreate tag flbas nsze ncap header s = s.fail tag .invalidField := by
  rw [namespaceCreate, Proofs.command_of_admits h, hd]

section
variable {flbas nsze ncap : Nat} {header : Bytes} {n : Ns} (hd : describe flbas nsze ncap header = some n)
include hd

theorem namespaceCreate_of_no_number (hn : ∀ k, 1 ≤ k → k ≤ 256 → (s.ns? k).isSome = true) :
    namespaceCreate tag flbas nsze ncap header s = s.fail tag .nsIdUnavailable := by
  have hfull : firstBelow (fun k => (s.ns? (k + 1)).isNone) 256 = none :=
    findUp_eq_none fun k _ hk => by rw [Option.isNone_eq_false_iff]; exact hn (k + 1) (by omega) (by omega)
  rw [namespaceCreate, Proofs.command_of_admits h, hd]
  dsimp only
  rw [hfull]

/-- With a free number capacity and stamp are asked, and the lowest free number is taken. -/
theorem namespaceCreate_of_number {k : Nat} (h1 : 1 ≤ k) (h256 : k ≤ 256) (hfree : s.ns? k = none) (hlow : ∀ j, 1 ≤ j → j < k → (s.ns? j).isSome = true) :
    namespaceCreate tag flbas nsze ncap header s =
      if 61184 < nsCharge n + (s.ns.list.map fun m => m.charge).sum then s.fail tag .nsInsufficient
      else if s.stg.exhausted = true then s.fail tag .stampExhausted
      else ((s.addNs { n with nsid := k, charge := nsCharge n, key := s.ns.keyNo, created := s.stamp }).notice k).succeed tag k 0 [] := by
  obtain ⟨k, rfl⟩ := Nat.exists_eq_add_of_le' h1
  have hfirst : firstBelow (fun k => (s.ns? (k + 1)).isNone) 256 = some k :=
    findUp_eq_some k.zero_le (by omega) (by rw [hfree]; rfl) fun j _ hj => by
      rw [Option.isNone_eq_false_iff]
      exact hlow (j + 1) (by omega) (by omega)
  rw [namespaceCreate, Proofs.command_of_admits h, hd]
  dsimp only
  rw [hfirst]
  rfl

end

/-- What a creation that passes leaves (R403): the namespace under its number, the others, and its completion behind what the notice posts. -/
theorem State.addNs_created {n : Ns} (hfree : s.ns? n.nsid = none) :
    let t := ((s.addNs n).notice n.nsid).succeed tag n.nsid 0 []
    t.ns? n.nsid = some n ∧ t.ns.keyNo = s.ns.keyNo + 1 ∧ (∀ j, j ≠ n.nsid → t.ns? j = s.ns? j) ∧
      ∃ l, t.que.done = s.que.done ++ l ++ [⟨tag, 0, 0, false, BitVec.ofNat 32 n.nsid, 0, []⟩] := by
  intro t
  have hnotice : Posts (s.addNs n) ((s.addNs n).notice n.nsid) := State.notice_posts ..
  have hns : t.ns = (s.addNs n).ns := (hnotice.trans (State.succeed_posts ..)).ns
  have hfind : ∀ j, t.ns? j = if j = n.nsid then some n else s.ns? j := fun j => by
    rw [State.ns?, hns]
    exact find?_insertNs hfree j
  have hctrl : (((s.addNs n).notice n.nsid).ctrl? tag.ctrl).isSome = true := by
    rw [hnotice.ctrl?]
    exact Option.isSome_iff_exists.2 ⟨c, Admits.ctrl h⟩
  obtain ⟨d, hd⟩ := Option.isSome_iff_exists.1 hctrl
  obtain ⟨l, hl⟩ := hnotice.2.1
  refine ⟨by rw [hfind, if_pos rfl], by rw [hns]; rfl, fun j hj => by rw [hfind, if_neg hj], l, ?_⟩
  exact (State.completeWith_done hd ..).trans (by rw [hl]; rfl)

/-! ### Deletion (R404, R499) -/

section
variable {nsid : Nat} (ha : nsid ≠ allNs)
include ha

/-- One namespace is scheduled to be deleted, unless none of its number is left to be. -/
theorem namespaceDelete_eq : namespaceDelete tag nsid s =
    if ∃ n ∈ s.ns.list, n.nsid = nsid ∧ n.deleting = none then
      { s with ns := { s.ns with list := s.ns.list.map fun n => if n.nsid = nsid ∧ n.deleting = none then { n with deleting := some tag } else n } }
    else s.fail tag .invalidNs := by
  have hmine : (fun n : Ns => (nsid == allNs || n.nsid == nsid) && n.deleting.isNone) = fun n => decide (n.nsid = nsid ∧ n.deleting = none) := by
    funext n
    simp [ha, Bool.decide_and, Bool.beq_eq_decide_eq, ← Option.isNone_iff_eq_none]
  rw [namespaceDelete, Proofs.command_of_admits h]
  dsimp only
  rw [hmine, if_neg (by simp [ha])]
  by_cases hex : ∃ n ∈ s.ns.list, n.nsid = nsid ∧ n.deleting = none
  · rw [if_neg (by simpa using hex), if_pos hex]
    simp [updateIf]
  · rw [if_pos (by simpa using hex), if_neg hex]

end

end

/-- What a deletion ends before its namespace goes: queries, builds and plain commands, and what names it. -/
def State.endWork (s : State) (n : Ns) : State :=
  (((s.endQueries n.nsid 2 fun _ => true).endBuilds n.nsid 2).endPlain (n.nsid - 1) .invalidNs).forgetNs n.nsid

/-- The command answered that waits for a switch of the namespace. -/
def State.answerSwitch (s : State) (n : Ns) (reason : Nat) : State :=
  match n.switching with
  | some t => s.refuse t reason
  | none => s

/-- The command answered that waits for a format of the namespace alone. -/
def State.answerFormat (s : State) (n : Ns) : State :=
  match n.formatting with
  | some (t, _) => if s.ns.list.any fun m => m.nsid != n.nsid && (m.formatting.map fun f : Tag × Nat => f.1) == some t then s else s.fail t .invalidNs
  | none => s

/-- A namespace out of the table. -/
def State.removeNs (s : State) (nsid : Nat) : State := { s with ns := { s.ns with list := s.ns.list.filter fun m => m.nsid != nsid } }

theorem State.removeNs_list (s : State) (nsid : Nat) : (s.removeNs nsid).ns.list = s.ns.list.filter fun m => m.nsid != nsid := rfl

theorem State.removeNs_ns?_self (s : State) (nsid : Nat) : (s.removeNs nsid).ns? nsid = none := by
  rw [State.ns?, State.removeNs_list]
  exact List.find?_eq_none.2 fun m hm => by simpa using (List.mem_filter.1 hm).2

theorem State.deleteNs_eq (s : State) (n : Ns) :
    s.deleteNs n = ((((((s.endWork n).answerSwitch n 0x40).answerFormat n).removeNs n.nsid).dropContents (n.nsid - 1)).notice n.nsid).releaseFull := rfl

theorem State.answerSwitch_quiet (s : State) (n : Ns) (reason : Nat) : Quiet s (s.answerSwitch n reason) := by
  unfold State.answerSwitch
  split
  · exact (State.refuse_posts ..).quiet
  · exact (Posts.refl s).quiet

theorem State.answerFormat_quiet (s : State) (n : Ns) : Quiet s (s.answerFormat n) := by
  unfold State.answerFormat
  split
  · split
    · exact (Posts.refl s).quiet
    · exact (State.fail_posts ..).quiet
  · exact (Posts.refl s).quiet

theorem State.endWork_nsView (s : State) (n : Ns) : (s.endWork n).nsView = s.nsView :=
  (State.forgetNs_nsView ..).trans ((State.endPlain_quiet ..).nsView.trans ((State.endBuilds_nsView ..).trans (State.endQueries_nsView ..)))

/-- No grant names a namespace that is forgotten. -/
theorem State.forgetNs_grants (s : State) (nsid : Nat) : ∀ x ∈ (s.forgetNs nsid).ses.list, ∀ g ∈ x.quota.grants, g.1 ≠ nsid := by
  intro x hx g hg
  obtain ⟨y, -, rfl⟩ := List.mem_map.1 hx
  simpa using (List.mem_filter.1 hg).2

/-- What follows once the namespace is out of the table moves neither the table nor the sessions. -/
theorem State.deleteNs_quiet (s : State) (n : Ns) : Quiet (((((s.endWork n).answerSwitch n 0x40).answerFormat n).removeNs n.nsid).dropContents (n.nsid - 1)) (s.deleteNs n) := by
  rw [State.deleteNs_eq]
  exact (State.notice_posts ..).quiet.trans (State.releaseFull_quiet _)

theorem State.deleteNs_ns (s : State) (n : Ns) : (s.deleteNs n).ns = ((s.endWork n).removeNs n.nsid).ns := by
  rw [(s.deleteNs_quiet n).ns, (State.dropContents_quiet ..).ns, State.removeNs, ((State.answerSwitch_quiet ..).trans (State.answerFormat_quiet ..)).ns,
    State.removeNs]

theorem State.deleteNs_ses (s : State) (n : Ns) : (s.deleteNs n).ses = (s.endWork n).ses := by
  rw [(s.deleteNs_quiet n).ses, (State.dropContents_quiet ..).ses]
  exact ((State.answerSwitch_quiet ..).trans (State.answerFormat_quiet ..)).ses

theorem State.deleteNs_entry (s : State) (n : Ns) {unit : Nat} (hu : unit < 2 ^ 40) : (s.deleteNs n).entry (n.nsid - 1) unit = unmapped := by
  rw [(s.deleteNs_quiet n).entry, State.dropContents_entry _ _ hu]

theorem State.deleteNs_ns?_self (s : State) (n : Ns) : (s.deleteNs n).ns? n.nsid = none := by
  rw [State.ns?_congr (s.deleteNs_ns n), State.removeNs_ns?_self]

/-- The numbers that stand after a deletion are the others that stood before it. -/
theorem State.deleteNs_numbers (s : State) (n : Ns) : (s.deleteNs n).ns.list.map Ns.nsid = (s.ns.list.map Ns.nsid).filter fun k => k != n.nsid := by
  have hbare := State.list_of_nsView (s.endWork_nsView n)
  have hnum : ∀ l : List Ns, l.map Ns.nsid = (l.map Ns.bare).map Ns.nsid := fun l => by
    rw [List.map_map]
    rfl
  rw [State.deleteNs_ns, State.removeNs_list, hnum s.ns.list, ← hbare, ← hnum, List.filter_map]
  rfl

theorem namespaceDeleteEffect_eq {nsid : Nat} {n : Ns} {tag : Tag} (hp : s.powered = true) (hn : s.ns? nsid = some n) (hd : n.deleting = some tag) :
    namespaceDeleteEffect nsid s = { s.deleteNs n with ns := { (s.deleteNs n).ns with erasing := (s.deleteNs n).ns.erasing ++ [(nsid, some tag)] } } := by
  simp only [namespaceDeleteEffect, hn, hd, hp, Bool.not_true, Bool.false_eq_true, if_false]

/-- The old key table of a deleted namespace is erased, and the deletion completes with the last of them (R499). -/
theorem namespaceDeleteComplete_eq {nsid : Nat} {tag : Tag} (hp : s.powered = true)
    (he : (s.ns.erasing.find? fun e => e.1 == nsid) = some (nsid, some tag)) :
    let left := s.ns.erasing.filter fun e => e.1 != nsid
    namespaceDeleteComplete nsid s = if (∃ e ∈ left, e.2 = some tag) ∨ ∃ n ∈ s.ns.list, n.deleting = some tag then { s with ns := { s.ns with erasing := left } }
      else State.succeed { s with ns := { s.ns with erasing := left } } tag 0 0 [] := by
  simp only [namespaceDeleteComplete, he, hp, Bool.not_true, Bool.false_eq_true, if_false]
  refine if_congr ?_ rfl rfl
  simp only [Bool.or_eq_true, List.any_eq_true, beq_iff_eq]

end Sys2Proof.Machine
end

section
/-! PROOFS. Formats of one namespace, and of the whole module with its erases (R405, R406, R422, R497). -/

namespace Sys2Proof.Machine

open Sys2Proof.Safety

variable {s : State}

/-! ### Format NVM (R405) -/

section
variable {tag : Tag} {c : Ctrl} (h : Admits tag c s)
include h

theorem formatNvm_of_bad {lbaf ses pi pil : Nat} (hb : pi ≠ 0 ∨ pil ≠ 0 ∨ 1 < lbaf ∨ 2 < ses) (nsid : Nat) :
    formatNvm tag nsid lbaf ses pi pil s = s.fail tag .invalidField := by
  rw [formatNvm, Proofs.command_of_admits h]
  exact if_pos (by simpa [or_assoc] using hb)

theorem formatNvmFull_eq : formatNvmFull tag s = s.fullFormat tag := Proofs.command_of_admits h _ _

/-- On one namespace the format is scheduled, unless one is already. -/
theorem formatNvm_one {nsid lbaf ses : Nat} (hl : lbaf ≤ 1) (hs : ses ≤ 2) (ha : nsid ≠ allNs) {n : Ns} (hn : s.ns? nsid = some n) :
    formatNvm tag nsid lbaf ses 0 0 s = if ∃ m ∈ s.ns.list, m.nsid = nsid ∧ m.formatting.isSome = true then s.fail tag .formatInProgress
      else s.updNs nsid fun n => { n with formatting := some (tag, lbaf) } := by
  have hmine : (fun m : Ns => nsid == allNs || m.nsid == nsid) = fun m => m.nsid == nsid := by
    funext m
    simp [ha]
  have hany : (s.ns.list.any fun m => m.nsid == nsid) = true :=
    List.any_eq_true.2 ⟨n, List.mem_of_find?_eq_some hn, by simpa using State.nsid_of_ns? hn⟩
  rw [formatNvm, Proofs.command_of_admits h]
  dsimp only
  rw [if_neg (by simp; omega), if_neg (by simp [ha]), if_neg (by simp [ha])]
  simp only [congrFun hmine, hany, Bool.not_true, Bool.false_eq_true, if_false]
  refine if_congr ?_ rfl rfl
  simp

end

/-- The full format through Format NVM is the full format, whatever answers the command. -/
theorem formatNvm_all_eq (tag : Tag) {lbaf : Nat} (hl : lbaf ≤ 1) (s : State) : formatNvm tag allNs lbaf 1 0 0 s = formatNvmFull tag s := by
  rw [formatNvm, formatNvmFull]
  refine congrArg (s.command tag { pend := true }) (funext fun _ => funext fun s => ?_)
  dsimp only
  rw [if_neg (by simp; omega), if_pos (by simp)]

/-! ### A format at its boundary (R405, R497) -/

/-- What a format ends: admitted queries, builds, plain commands, a switch that waits. -/
def State.endForFormat (s : State) (n : Ns) (nsid : Nat) : State :=
  (((s.endQueries nsid 3 fun q => q.admitted.isSome).endBuilds nsid 4).endPlain (nsid - 1) .formatInProgress).answerSwitch n 0x4B

/-- A namespace as its format leaves it: block size, key and creation stamp anew, no generation. -/
def Ns.formatted (lbaf key created : Nat) (n : Ns) : Ns :=
  let n := { n with lba := if lbaf = 0 then 4096 else 16384, key := key, created := created, gens := [], formatting := none, switching := none }
  { n with size := nsSize n }

/-- The contents gone and a key drawn, the namespace formatted. -/
def State.formatNs (s : State) (nsid lbaf : Nat) : State :=
  let u := (s.dropContents (nsid - 1)).newKey
  u.2.updNs nsid (Ns.formatted lbaf u.1 u.2.boundaryStamp)

theorem formatEffect_eq {nsid lbaf : Nat} {n : Ns} {tag : Tag} (hp : s.powered = true) (hn : s.ns? nsid = some n) (hf : n.formatting = some (tag, lbaf)) :
    formatEffect nsid s =
      let u := (((s.endForFormat n nsid).formatNs nsid lbaf).notice nsid).releaseFull
      if u.ns.list.any fun m => (m.formatting.map fun f : Tag × Nat => f.1) == some tag then u else u.succeed tag 0 0 [] := by
  simp only [formatEffect, hn, hf, hp, Bool.not_true, Bool.false_eq_true, if_false]
  rfl

theorem State.endForFormat_nsView (s : State) (n : Ns) (nsid : Nat) : (s.endForFormat n nsid).nsView = s.nsView :=
  (State.answerSwitch_quiet ..).nsView.trans ((State.endPlain_quiet ..).nsView.trans ((State.endBuilds_nsView ..).trans (State.endQueries_nsView ..)))

/-- What follows the format of a namespace moves neither the table nor the map. -/
theorem formatEffect_quiet {nsid lbaf : Nat} {n : Ns} {tag : Tag} (hp : s.powered = true) (hn : s.ns? nsid = some n) (hf : n.formatting = some (tag, lbaf)) :
    Quiet ((s.endForFormat n nsid).formatNs nsid lbaf) (formatEffect nsid s) := by
  rw [formatEffect_eq hp hn hf]
  dsimp only
  refine ((State.notice_posts _ nsid).quiet.trans (State.releaseFull_quiet _)).trans ?_
  split
  · exact (Posts.refl _).quiet
  · exact (State.succeed_posts ..).quiet

theorem State.formatNs_keyNo (s : State) (nsid lbaf : Nat) : (s.formatNs nsid lbaf).ns.keyNo = s.ns.keyNo + 1 := by
  show (s.dropContents (nsid - 1)).ns.keyNo + 1 = _
  rw [(State.dropContents_quiet ..).ns]

theorem State.formatNs_ns? {nsid : Nat} {n : Ns} (hn : s.ns? nsid = some n) (lbaf : Nat) :
    (s.formatNs nsid lbaf).ns? nsid = some (n.formatted lbaf s.ns.keyNo s.boundaryStamp) := by
  have hq := s.dropContents_quiet (nsid - 1)
  have hfound : (s.dropContents (nsid - 1)).newKey.2.ns? nsid = some n := (State.ns?_congr hq.ns nsid).trans hn
  refine (State.ns?_updNs_same hfound (f := Ns.formatted lbaf _ _) fun _ => rfl).trans ?_
  show some (n.formatted lbaf (s.dropContents (nsid - 1)).ns.keyNo (s.dropContents (nsid - 1)).boundaryStamp) = _
  rw [hq.ns, State.boundaryStamp, hq.stg]
  rfl

theorem State.formatNs_entry (s : State) (nsid lbaf : Nat) {unit : Nat} (hu : unit < 2 ^ 40) : (s.formatNs nsid lbaf).entry (nsid - 1) unit = unmapped :=
  s.dropContents_entry (nsid - 1) hu

/-! ### The full format (R406) -/

/-- Once every namespace of a list that names them all is deleted, none is left. -/
theorem foldl_deleteNs_list (l : List Ns) (s : State) (hl : ∀ m ∈ s.ns.list, m.nsid ∈ l.map Ns.nsid) : (l.foldl State.deleteNs s).ns.list = [] := by
  induction l generalizing s with
  | nil => exact List.eq_nil_iff_forall_not_mem.2 fun m hm => List.not_mem_nil (hl m hm)
  | cons n l ih =>
    refine ih (s.deleteNs n) fun m hm => ?_
    have hnum : m.nsid ∈ (s.deleteNs n).ns.list.map Ns.nsid := List.mem_map_of_mem hm
    rw [State.deleteNs_numbers, List.mem_filter] at hnum
    obtain ⟨hmem, hne⟩ := hnum
    obtain ⟨x, hx, hxm⟩ := List.mem_map.1 hmem
    have hcons := hl x hx
    rw [hxm, List.map_cons, List.mem_cons] at hcons
    exact hcons.resolve_left (by simpa using hne)

theorem State.fullFormat_of_held (tag : Tag) (h : s.ses.list ≠ [] ∨ ∃ n ∈ s.ns.list, n.lockNow.readLock = true ∨ n.lockNow.writeLock = true) :
    s.fullFormat tag = s.fail tag .operationDenied := by
  refine if_pos ?_
  simpa [Ns.lockNow] using h

/-- The full format begins on a module without sessions and locks. -/
theorem State.fullFormat_of_free (tag : Tag) (hs : s.ses.list = []) (hl : ∀ n ∈ s.ns.list, n.lockNow.readLock = false ∧ n.lockNow.writeLock = false) :
    (s.fullFormat tag).ns.list = [] ∧ (s.fullFormat tag).ns.formatPending = true ∧ (s.fullFormat tag).ns.formatAll = some tag ∧
      (s.fullFormat tag).fla.formatNext = [] := by
  have hfree : ¬(!s.ses.list.isEmpty || s.ns.list.any fun n => let l := n.lockNext.getD n.lock; l.readLock || l.writeLock) = true := by
    simpa [hs, Ns.lockNow] using hl
  have hnone := foldl_deleteNs_list s.ns.list s fun m hm => List.mem_map_of_mem hm
  rw [State.fullFormat, if_neg hfree]
  exact ⟨hnone, rfl, rfl, rfl⟩

/-! Erases from boundary to boundary. -/

/-- After the last erase: superblocks, full state and log as new, and no format goes on. -/
def State.formatDone (s : State) : State :=
  { s with
    xlt := { s.xlt with sbs := [], full := false, fullFreed := false }
    fla := { s.fla with formatNext := [], eraseCut := s.fla.eraseCut.filter fun pb => !s.dieIn (pbDie pb) }
    fwc := { s.fwc with events := [], total := 0 }
    ns := { s.ns with formatAll := none } }

section
variable {tag : Tag} (hf : s.ns.formatAll = some tag) (hc : s.flashClock = true)
include hf hc

theorem State.formatTick_of_left (hd : ∃ d ∈ s.fla.dies, s.dieIn d = true ∧ Tab.get 0 s.fla.formatNext d < 4096) :
    s.formatTick = (s.fla.dies.filter s.dieIn).foldl State.formatDie s := by
  have hany : ((s.fla.dies.filter s.dieIn).any fun d => decide (Tab.get 0 s.fla.formatNext d < 4096)) = true := by
    simpa [and_assoc] using hd
  simp only [State.formatTick, hf, hc, hany, Bool.not_true, Bool.false_eq_true, if_false, if_true]

theorem State.formatTick_of_last (hd : ∀ d ∈ s.fla.dies, s.dieIn d = true → 4096 ≤ Tab.get 0 s.fla.formatNext d ∧ ∀ o ∈ s.fla.ops, o.die ≠ d) :
    s.formatTick = ((s.formatDone.event 0x0014 0 0 noObj []).succeed tag 0 0 []).landCheck.warn := by
  have hnext : ((s.fla.dies.filter s.dieIn).any fun d => decide (Tab.get 0 s.fla.formatNext d < 4096)) = false := by
    simp only [List.any_eq_false, List.mem_filter, decide_eq_true_eq, not_lt]
    exact fun d hm => (hd d hm.1 hm.2).1
  have hidle : ((s.fla.dies.filter s.dieIn).any fun d => s.fla.ops.any fun o => o.die == d) = false := by
    simp only [List.any_eq_false, List.mem_filter, List.any_eq_true, beq_iff_eq, not_exists, not_and]
    exact fun d hm => (hd d hm.1 hm.2).2
  simp only [State.formatTick, hf, hc, hnext, hidle, Bool.not_true, Bool.false_eq_true, if_false]
  rfl

end

/-- The log of a module that has a stamp begins with the event that follows its clearing. -/
theorem State.event_head (hl : s.stg.loaded = true) (he : s.fwc.events = []) (code cls source : Nat) (obj : Obj) (detail : Bytes) :
    ∃ e, (s.event code cls source obj detail).fwc.events.head? = some e ∧ e.code = code := by
  rw [State.event, if_pos hl, State.nextCycle_fwc, State.eventAt, if_pos hl, he]
  exact ⟨_, rfl, rfl⟩

/-- What the end of a full format leaves, and its completion in the batch. -/
theorem State.formatDone_outcome {tag : Tag} (hl : s.stg.loaded = true) (hc : (s.ctrl? tag.ctrl).isSome = true) :
    let t := ((s.formatDone.event 0x0014 0 0 noObj []).succeed tag 0 0 []).landCheck.warn
    t.ns.formatAll = none ∧ t.xlt.full = false ∧ (∃ e, t.fwc.events.head? = some e ∧ e.code = 0x0014) ∧ ∃ d ∈ t.que.done, d.tag = tag ∧ d.sct = 0 ∧ d.sc = 0 := by
  intro t
  have hsucc := (s.formatDone.event 0x0014 0 0 noObj []).succeed_posts tag 0 0 []
  obtain ⟨w, hland⟩ := ((s.formatDone.event 0x0014 0 0 noObj []).succeed tag 0 0 []).landCheck_posts
  have ht : Posts _ t := hland.trans (State.warn_posts _)
  have hns : t.ns = s.formatDone.ns := ht.ns.trans (hsucc.ns.trans (State.event_ns ..))
  have hfull : t.xlt.full = s.formatDone.xlt.full := by
    rw [ht.xlt, hsucc.xlt, State.event_xlt]
  have hfwc : t.fwc = (s.formatDone.event 0x0014 0 0 noObj []).fwc := ht.fwc.trans hsucc.fwc
  obtain ⟨c, hctrl⟩ := Option.isSome_iff_exists.1 hc
  have hev : (s.formatDone.event 0x0014 0 0 noObj []).ctrl? tag.ctrl = some c := by
    rw [State.ctrl?, State.event_que]
    exact hctrl
  obtain ⟨l, hdone⟩ := ht.2.1
  refine ⟨by rw [hns]; rfl, by rw [hfull]; rfl, by rw [hfwc]; exact State.event_head (s := s.formatDone) hl rfl .., ?_⟩
  refine ⟨⟨tag, 0, 0, false, 0, 0, []⟩, ?_, rfl, rfl, rfl⟩
  rw [hdone]
  refine List.mem_append_left _ ?_
  show _ ∈ ((s.formatDone.event 0x0014 0 0 noObj []).completeWith tag .ok 0 0 []).que.done
  rw [State.completeWith_done hev]
  exact List.mem_append_right _ (List.mem_singleton_self _)

/-! One die's next erase (R406). -/

theorem State.formatDie_of_busy {die : Nat}
    (hb : 4096 ≤ Tab.get 0 s.fla.formatNext die ∨ (∃ o ∈ s.fla.ops, o.die = die) ∨ 4 ≤ s.erasingOn (chanOf die)) : s.formatDie die = s := by
  refine if_pos ?_
  simpa [or_assoc] using hb

theorem State.formatDie_of_idle {die : Nat} (hb : Tab.get 0 s.fla.formatNext die < 4096) (ho : ∀ o ∈ s.fla.ops, o.die ≠ die)
    (he : s.erasingOn (chanOf die) < 4) (hp : s.planesIn die (Tab.get 0 s.fla.formatNext die) ≠ []) :
    s.formatDie die = ({ s with fla := { s.fla with formatNext := Tab.set 0 s.fla.formatNext die (Tab.get 0 s.fla.formatNext die + 1) } } : State).issueErase die
      (Tab.get 0 s.fla.formatNext die) := by
  have hidle : ¬(decide (4096 ≤ Tab.get 0 s.fla.formatNext die) || (s.fla.ops.any fun o => o.die == die) || decide (4 ≤ s.erasingOn (chanOf die))) = true := by
    simp only [Bool.or_eq_true, decide_eq_true_eq, List.any_eq_true, beq_iff_eq, not_or, not_le, not_exists, not_and]
    exact ⟨⟨hb, ho⟩, he⟩
  refine (if_neg hidle).trans (if_neg ?_)
  rwa [List.isEmpty_iff]

end Sys2Proof.Machine
end

section
/-! PROOFS. Password locks: their records written to flash, and SET_PASSWORD, LOCK, UNLOCK and the lock's state (R326 to R328, R488). -/

namespace Sys2Proof.Machine

open Sys2Proof.Safety

variable {s u : State}

/-! ### A page set of firmware's own leaves namespaces and queues alone (R317, R326, R330, R359) -/

/-- What a host sees change of namespaces and completions. -/
def State.hostView (s : State) : NsTab × Que := (s.ns, s.que)

theorem State.hostView_congr {t : State} (hn : t.ns = s.ns) (hq : t.que = s.que) : t.hostView = s.hostView := by
  rw [State.hostView, State.hostView, hn, hq]

theorem State.withXlt_hostView (s : State) (x : Xlt) : ({ s with xlt := x } : State).hostView = s.hostView := rfl
theorem State.withFla_hostView (s : State) (f : Fla) : ({ s with fla := f } : State).hostView = s.hostView := rfl
theorem State.withFlash_hostView (s : State) (f : Fla) (x : Xlt) : ({ s with fla := f, xlt := x } : State).hostView = s.hostView := rfl
theorem State.freeSeats_hostView (s : State) (chan n : Nat) : (s.freeSeats chan n).hostView = s.hostView := rfl
theorem State.queueOp_hostView (s : State) (die n : Nat) (w : DieWork) : (s.queueOp die w n).hostView = s.hostView := State.hostView_congr rfl rfl
theorem State.setSb_hostView (s : State) (i : Nat) (x : Sb) : (s.setSb i x).hostView = s.hostView := rfl

theorem State.secondProgram_hostView (s : State) (die block page : Nat) : (s.secondProgram die block page).hostView = s.hostView :=
  State.hostView_congr (State.event_ns ..) (State.event_que ..)

theorem State.closeSb_hostView (s : State) (i : Nat) : (s.closeSb i).hostView = s.hostView := State.hostView_congr rfl rfl

theorem State.putPages_hostView (s : State) (die block page : Nat) (pages : List PlaneWords) (stamp stream : Nat) (pending : Bool) :
    (s.putPages die block page pages stamp stream pending).hostView = s.hostView := by
  refine foldl_view (fun u p => ?_) pages s
  refine (foldl_view (fun v w => ?_) _ _).trans (u.withFla_hostView _)
  exact v.withFlash_hostView _ _

theorem State.queueSet_hostView (s : State) (sb row chan stream : Nat) (pages : List PlaneWords) :
    (s.queueSet sb row chan stream pages).hostView = s.hostView :=
  (State.queueOp_hostView ..).trans ((State.withXlt_hostView ..).trans ((State.putPages_hostView ..).trans (State.freeSeats_hostView ..)))

theorem State.putParityOn_hostView (s : State) (sb row stream chan : Nat) (pages : List PlaneWords) :
    (s.putParityOn sb row stream chan pages).hostView = s.hostView := by
  unfold State.putParityOn
  dsimp only
  split
  · rfl
  · split
    · exact State.secondProgram_hostView ..
    · exact (State.withXlt_hostView ..).trans ((State.queueSet_hostView ..).trans (State.withXlt_hostView ..))

theorem State.putParity_hostView (s : State) (sb row stream : Nat) : (s.putParity sb row stream).hostView = s.hostView :=
  (State.withXlt_hostView ..).trans (foldl_view (fun u _ => u.putParityOn_hostView ..) _ s)

theorem State.allocSb_hostView {stream : Nat} {p : Nat × State} (h : s.allocSb stream = some p) : p.2.hostView = s.hostView := by
  unfold State.allocSb at h
  split at h
  · cases h
  · cases h
    exact (State.withXlt_hostView ..).trans (State.setSb_hostView ..)

theorem State.nextPlace_hostView (stream : Nat) (queued : Bool) (mayAlloc : State → Bool) (ok : Nat → Bool) (fuel : Nat) (s : State) :
    (State.nextPlace stream queued mayAlloc ok fuel s).2.hostView = s.hostView := by
  have hparity : ∀ (c : Prop) [Decidable c] (i row : Nat) (v : State), (if c then v.putParity i row stream else v).hostView = v.hostView := fun c _ i row v => by
    split
    · exact State.putParity_hostView ..
    · rfl
  induction fuel generalizing s with
  | zero => rfl
  | succ fuel ih =>
    rw [State.nextPlace]
    split
    · split
      · rfl
      · split
        · rfl
        · next ha => exact (ih _).trans (State.allocSb_hostView ha)
    · dsimp only
      split
      · exact (ih _).trans ((State.closeSb_hostView ..).trans (hparity ..))
      · split
        · exact (State.setSb_hostView ..).trans (hparity ..)
        · exact (State.setSb_hostView ..).trans (hparity ..)

theorem State.firmwareSet_hostView (s : State) (stream : Nat) (may : State → Bool) (ok : Nat → Bool) (words : List CWord) :
    (s.firmwareSet stream may ok words).2.hostView = s.hostView := by
  have hplace := State.nextPlace_hostView stream true may ok 4 s
  unfold State.firmwareSet
  split
  · next hp => rw [hp] at hplace; exact (State.queueSet_hostView ..).trans hplace
  · next hp => rw [hp] at hplace; exact hplace

theorem State.writeTwice_hostView (s : State) (stream : Nat) (words : List CWord) : (s.writeTwice stream words).2.hostView = s.hostView :=
  (State.firmwareSet_hostView ..).trans (State.firmwareSet_hostView ..)

/-! ### What a lock command leaves (R326 to R328) -/

/-- A namespace whose lock record has been written once more. -/
def Ns.recordedAt (places : List CwAddr) (n : Ns) : Ns := { n with lockAt := newest 4 (n.lockAt ++ places) }

theorem State.ns?_setLock_same {nsid : Nat} {n : Ns} (hn : u.ns? nsid = some n) (l : Lock) : (u.setLock nsid l).ns? nsid = some { n with lockNext := some l } :=
  State.ns?_updNs_same hn fun _ => rfl

theorem State.ns?_setLock_other {nsid k : Nat} (hk : k ≠ nsid) (l : Lock) : (u.setLock nsid l).ns? k = u.ns? k := State.ns?_updNs_other hk fun _ => rfl

/-- A lock is to be a namespace's from the next boundary on, its present lock and the other namespaces stand, and a completion of a status has
joined the batch. -/
def State.LockTaken (s : State) (tag : Tag) (n : Ns) (st : Status) (l : Lock) (t : State) : Prop :=
  ∃ m, t.ns? n.nsid = some m ∧ m.lockNow = l ∧ m.lock = n.lock ∧ (∃ d, t.que.done = s.que.done ++ [d] ∧ d.tag = tag ∧ d.sct = st.sct ∧ d.sc = st.sc) ∧
    ∀ k, k ≠ n.nsid → t.ns? k = s.ns? k

section
variable {tag : Tag} {c : Ctrl} (h : Admits tag c s)
include h

/-- A lock is taken with the completion of its command. -/
theorem lockTaken_of_completed {n m : Ns} (hm : u.ns? n.nsid = some m) (hlock : m.lock = n.lock) (hq : u.que = s.que) (ho : ∀ k, k ≠ n.nsid → u.ns? k = s.ns? k)
    (st : Status) (dw0 dw1 : Nat) (data : Bytes) : s.LockTaken tag n st m.lockNow (u.completeWith tag st dw0 dw1 data) := by
  have hctrl : u.ctrl? tag.ctrl = some c := by
    rw [State.ctrl?, hq]
    exact Admits.ctrl h
  have hfind : ∀ k, (u.completeWith tag st dw0 dw1 data).ns? k = u.ns? k := State.ns?_congr (State.completeWith_ns ..)
  refine ⟨m, (hfind _).trans hm, rfl, hlock, ⟨⟨tag, st.sct, st.sc, st.dnr, BitVec.ofNat 32 dw0, BitVec.ofNat 32 dw1, data⟩, ?_, rfl, rfl, rfl⟩, fun k hk =>
    (hfind k).trans (ho k hk)⟩
  rw [State.completeWith_done hctrl, hq]

section
variable {n : Ns} (hn : s.ns? n.nsid = some n)
include hn

theorem recordLock_taken (l : Lock) : s.LockTaken tag n .ok l ((s.recordLock n.nsid l).succeed tag 0 0 []) := by
  have hv := s.writeTwice_hostView 12 [{ data := trim (lockRecord n.nsid l), ns := 255, unit := n.nsid, kind := 7 }]
  unfold State.recordLock
  generalize s.writeTwice 12 [{ data := trim (lockRecord n.nsid l), ns := 255, unit := n.nsid, kind := 7 }] = w at hv ⊢
  obtain ⟨places, u⟩ := w
  have hns : u.ns = s.ns := congrArg Prod.fst hv
  have hque : u.que = s.que := congrArg Prod.snd hv
  have hplaced : (u.updNs n.nsid (Ns.recordedAt places)).ns? n.nsid = some (n.recordedAt places) :=
    State.ns?_updNs_same ((State.ns?_congr hns _).trans hn) fun _ => rfl
  show s.LockTaken tag n .ok l (((u.updNs n.nsid (Ns.recordedAt places)).setLock n.nsid l).completeWith tag .ok 0 0 [])
  refine lockTaken_of_completed h (State.ns?_setLock_same hplaced l) rfl hque (fun k hk => ?_) ..
  rw [State.ns?_setLock_other hk, State.ns?_updNs_other (f := Ns.recordedAt places) hk fun _ => rfl, State.ns?_congr hns]

/-- A failure is counted, and the eighth in a row logged besides. -/
theorem lockFailure_taken (l : Lock) : s.LockTaken tag n .accessDenied { l with failures := l.failures + 1 } (s.lockFailure tag n.nsid l) := by
  have hset := State.ns?_setLock_same hn { l with failures := l.failures + 1 }
  have hother := fun k (hk : k ≠ n.nsid) => State.ns?_setLock_other (u := s) hk { l with failures := l.failures + 1 }
  rw [State.lockFailure]
  split
  · exact lockTaken_of_completed h ((State.ns?_congr (State.event_ns ..) _).trans hset) rfl (State.event_que ..)
      (fun k hk => (State.ns?_congr (State.event_ns ..) k).trans (hother k hk)) ..
  · exact lockTaken_of_completed h hset rfl rfl hother ..

end

/-! The commands past their common checks, check by check. -/

theorem lockCommand_of_bad {op : Nat} {b : Bytes} (hb : lockFieldsOk op b = false) (f : Nat → Lock → State → State) :
    s.lockCommand tag op b f = s.fail tag .invalidField := by
  rw [State.lockCommand, Proofs.command_of_admits h]
  exact if_pos (by rw [hb]; rfl)

section
variable {b : Bytes} {n : Ns} (hn : s.ns? (field b 0 4) = some n)
include hn

theorem lockCommand_of_ok {op : Nat} (hb : lockFieldsOk op b = true) (f : Nat → Lock → State → State) :
    s.lockCommand tag op b f = if 8 ≤ n.lockNow.failures then s.fail tag .operationDenied else f n.nsid n.lockNow s := by
  rw [State.lockCommand, Proofs.command_of_admits h, hb, hn]
  rfl

theorem securityReceiveLockState_eq (alloc : Nat) : securityReceiveLockState tag n.nsid alloc s =
    s.succeed tag 0 0 ((toLe 1 (lockByte n.lockNow) ++ toLe 1 (8 - n.lockNow.failures) ++ zeros 6).take alloc) := by
  rw [securityReceiveLockState, Proofs.command_of_admits h, State.nsid_of_ns? hn, hn]

section
variable (hf : n.lockNow.failures < 8)
include hf

theorem securitySetPassword_eq (hb : lockFieldsOk 1 b = true) : securitySetPassword tag b s =
    if n.lockNow.passwordSet = false ∧ field b 5 1 ≠ 0 then s.fail tag .invalidField
    else if n.lockNow.passwordSet = true ∧ oldMatches n.lockNow b = false then s.lockFailure tag n.nsid n.lockNow
    else if field b 6 1 = 0 then (s.recordLock n.nsid {}).succeed tag 0 0 []
    else (s.drawKey.2.recordLock n.nsid { n.lockNow with
      passwordSet := true, salt := toLe 32 s.drawKey.1, verifier := sha3_512 (toLe 32 s.drawKey.1 ++ slice b 72 (field b 6 1)), failures := 0 }).succeed tag 0 0 [] := by
  rw [securitySetPassword, lockCommand_of_ok h hn hb, if_neg (by omega)]
  exact if_congr (by simp) rfl (if_congr (by simp) rfl rfl)

theorem securityLock_eq (hb : lockFieldsOk 2 b = true) : securityLock tag b s =
    if n.lockNow.passwordSet = false then s.fail tag .invalidField
    else if oldMatches n.lockNow b = false then s.lockFailure tag n.nsid n.lockNow
    else (s.recordLock n.nsid { n.lockNow with
      readLock := n.lockNow.readLock || bit (field b 4 1) 0, writeLock := n.lockNow.writeLock || bit (field b 4 1) 1
      atPowerOn := n.lockNow.atPowerOn || bit (field b 4 1) 2, failures := 0 }).succeed tag 0 0 [] := by
  rw [securityLock, lockCommand_of_ok h hn hb, if_neg (by omega)]
  exact if_congr (by simp) rfl (if_congr (by simp) rfl rfl)

theorem securityUnlock_eq (hb : lockFieldsOk 3 b = true) : securityUnlock tag b s =
    if oldMatches n.lockNow b = false then s.lockFailure tag n.nsid n.lockNow
    else (s.recordLock n.nsid { n.lockNow with readLock := false, writeLock := false, failures := 0 }).succeed tag 0 0 [] := by
  rw [securityUnlock, lockCommand_of_ok h hn hb, if_neg (by omega)]
  exact if_congr (by simp) rfl rfl

end

end

end

/-- A lock that a password opens has one. -/
theorem passwordSet_of_oldMatches {l : Lock} {b : Bytes} (hm : oldMatches l b = true) : l.passwordSet = true := (Bool.and_eq_true_iff.1 hm).1

end Sys2Proof.Machine
end

section
/-! PROOFS. Session keys and SPDM (R417, R490, R491). -/

namespace Sys2Proof.Machine

open Sys2Proof.Safety

variable {s u : State}

/-! ### What an SPDM request leaves -/

/-- A controller's connection has come to a step, a response has left the port, and the Security Send has completed. -/
def State.Tells (s : State) (tag : Tag) (ctrl at_ : Nat) (r : Bytes) (t : State) : Prop :=
  t.spdmAt ctrl = at_ ∧ t.port.tx = s.port.tx ++ [.spdm tag r] ∧ t.que.done = s.que.done ++ [⟨tag, 0, 0, false, 0, 0, []⟩]

theorem State.spdmAt_setSpdm (s : State) (c k : Nat) : (s.setSpdm c k).spdmAt c = k := by
  have hnone : (s.sec.spdm.filter fun p => p.1 != c).find? (fun p => p.1 == c) = none :=
    List.find?_eq_none.2 fun p hp => by simpa using (List.mem_filter.1 hp).2
  rw [State.spdmAt, State.setSpdm]
  dsimp only
  rw [List.find?_append, hnone]
  simp

/-! A draw of the security core moves nothing that is measured or signed with. -/

theorem State.drawKey_standing (s : State) : s.drawKey.2.standing = s.standing := by
  rw [State.standing, State.records, readRecords_of_cfg (u := s.drawKey.2) (s := s) rfl]
  rfl

theorem State.drawKey_headerDigest (s : State) : s.drawKey.2.headerDigest = s.headerDigest := rfl

theorem State.drawKey_aliasSeed (s : State) : s.drawKey.2.aliasSeed = s.aliasSeed := by
  rw [State.aliasSeed, State.drawKey_headerDigest]
  rfl

theorem State.drawKey_measurement (s : State) (k : Nat) : s.drawKey.2.measurement k = s.measurement k := by
  unfold State.measurement
  rw [State.drawKey_headerDigest, State.drawKey_standing]
  rfl

theorem State.measurement_eq_none {k : Nat} (hk : 7 < k) : s.measurement k = none := by
  unfold State.measurement
  split
  iterate 7 omega
  rfl

section
variable {tag : Tag} {c : Ctrl} (h : Admits tag c s)
include h

theorem spdmReply_tells (hq : u.que = s.que) (hp : u.port = s.port) (r : Bytes) : s.Tells tag c.id (u.spdmAt c.id) r (u.spdmReply tag r) := by
  have hctrl : (u.send (.spdm tag r)).ctrl? tag.ctrl = some c := by
    rw [State.ctrl?, State.send_que, hq]
    exact Admits.ctrl h
  refine ⟨?_, ?_, ?_⟩
  · rw [State.spdmReply, State.spdmAt, State.succeed_sec]
    rfl
  · rw [State.spdmReply, State.succeed_port, State.send, hp]
  · exact (State.completeWith_done hctrl ..).trans (by rw [State.send_que, hq]; rfl)

theorem spdmCommand_early {need : Nat} (hn : s.spdmAt c.id < need) (f : Ctrl → State → State) :
    s.Tells tag c.id (s.spdmAt c.id) (spdmMsg 0x7F 4 0 []) (s.spdmCommand tag need f) := by
  rw [State.spdmCommand, Proofs.command_of_admits h, if_pos hn]
  exact spdmReply_tells h rfl rfl _

theorem spdmCommand_of_le {need : Nat} (hn : need ≤ s.spdmAt c.id) (f : Ctrl → State → State) : s.spdmCommand tag need f = f c s := by
  rw [State.spdmCommand, Proofs.command_of_admits h, if_neg (by omega)]

/-- A response that moves the connection to a step. -/
theorem setSpdm_reply_tells (hq : u.que = s.que) (hp : u.port = s.port) (k : Nat) (r : Bytes) : s.Tells tag c.id k r ((u.setSpdm c.id k).spdmReply tag r) := by
  have ht := spdmReply_tells (u := u.setSpdm c.id k) h hq hp r
  rwa [State.spdmAt_setSpdm] at ht

theorem spdmGetVersion_tells : s.Tells tag c.id 1 ([0x10, 0x04, 0, 0, 0, 1] ++ toLe 2 0x1400) (spdmGetVersion tag s) := by
  rw [spdmGetVersion, spdmCommand_of_le h (Nat.zero_le _)]
  exact setSpdm_reply_tells h rfl rfl ..

theorem spdmGetCapabilities_tells (hn : 1 ≤ s.spdmAt c.id) : s.Tells tag c.id 2 (spdmMsg 0x61 0 0 (zeros 4 ++ toLe 4 22)) (spdmGetCapabilities tag s) := by
  rw [spdmGetCapabilities, spdmCommand_of_le h hn]
  exact setSpdm_reply_tells h rfl rfl ..

theorem spdmNegotiateAlgorithms_tells (hn : 2 ≤ s.spdmAt c.id) : ∃ r, s.Tells tag c.id 3 (spdmMsg 0x63 0 0 r) (spdmNegotiateAlgorithms tag s) := by
  rw [spdmNegotiateAlgorithms, spdmCommand_of_le h hn]
  exact ⟨_, setSpdm_reply_tells (u := (s.drawBytes 32).2) h rfl rfl ..⟩

section
variable (hn : 3 ≤ s.spdmAt c.id)
include hn

theorem spdmGetDigests_tells : s.Tells tag c.id (s.spdmAt c.id) (if s.sec.chain = [] then spdmMsg 0x01 0 1 (sha3_512 (Config.certChain s.sec.aliasNo))
    else spdmMsg 0x01 0 3 (sha3_512 (Config.certChain s.sec.aliasNo) ++ sha3_512 s.sec.chain)) (spdmGetDigests tag s) := by
  have hchains : [0, 1].filterMap (fun k => s.spdmChain k) =
      if s.sec.chain = [] then [Config.certChain s.sec.aliasNo] else [Config.certChain s.sec.aliasNo, s.sec.chain] := by
    by_cases hc : s.sec.chain = [] <;> simp [State.spdmChain, hc]
  rw [spdmGetDigests, spdmCommand_of_le h hn]
  dsimp only
  rw [hchains]
  have ht := spdmReply_tells (u := s) h rfl rfl
  split
  · simpa using ht (spdmMsg 0x01 0 1 (sha3_512 (Config.certChain s.sec.aliasNo)))
  · simpa using ht (spdmMsg 0x01 0 3 (sha3_512 (Config.certChain s.sec.aliasNo) ++ sha3_512 s.sec.chain))

theorem spdmGetCertificate_tells {slot : Nat} {b : Bytes} (hb : s.spdmChain slot = some b) {offset : Nat} (ho : offset ≤ b.length) (len : Nat) :
    s.Tells tag c.id (s.spdmAt c.id) (spdmMsg 0x02 slot 0 (toLe 2 (slice b offset len).length ++
      toLe 2 (b.length - offset - (slice b offset len).length) ++ slice b offset len)) (spdmGetCertificate tag slot offset len s) := by
  rw [spdmGetCertificate, spdmCommand_of_le h hn]
  dsimp only
  rw [hb]
  dsimp only
  rw [if_neg (by omega)]
  exact spdmReply_tells h rfl rfl _

theorem spdmGetCertificate_of_none {slot : Nat} (hb : s.spdmChain slot = none) (offset len : Nat) :
    s.Tells tag c.id (s.spdmAt c.id) (spdmMsg 0x7F 1 0 []) (spdmGetCertificate tag slot offset len s) := by
  rw [spdmGetCertificate, spdmCommand_of_le h hn]
  dsimp only
  rw [hb]
  exact spdmReply_tells h rfl rfl _

theorem spdmChallenge_of_none {slot : Nat} (hb : s.spdmChain slot = none) (nonce : Bytes) :
    s.Tells tag c.id (s.spdmAt c.id) (spdmMsg 0x7F 1 0 []) (spdmChallenge tag slot nonce s) := by
  rw [spdmChallenge, spdmCommand_of_le h hn]
  dsimp only
  rw [hb]
  exact spdmReply_tells h rfl rfl _

/-- A challenge is answered over a nonce that the security core draws, and signed. -/
theorem spdmChallenge_tells {slot : Nat} {b : Bytes} (hb : s.spdmChain slot = some b) (nonce : Bytes) :
    let body := spdmMsg 0x03 slot (2 ^ slot) (sha3_512 b ++ toLe 32 s.drawKey.1 ++
      sha3_512 ([1, 2, 3, 4, 5, 6, 7].flatMap fun k => (s.measurement k).getD []) ++ zeros 2)
    s.Tells tag c.id (s.spdmAt c.id) (body ++ Config.sign (leNat s.aliasSeed) (fit 32 nonce ++ body)) (spdmChallenge tag slot nonce s) := by
  rw [spdmChallenge, spdmCommand_of_le h hn]
  dsimp only
  rw [hb]
  simp only [State.drawKey_measurement, State.drawKey_aliasSeed]
  exact spdmReply_tells (u := s.drawKey.2) h rfl rfl _

theorem spdmGetMeasurements_tells {k : Nat} (h1 : 1 ≤ k) (h7 : k ≤ 7) {m : Bytes} (hm : s.measurement k = some m) (nonce : Bytes) :
    let body := spdmMsg 0x60 0 0 (toLe 1 1 ++ toLe 3 (1 + m.length) ++ (toLe 1 k ++ m) ++ toLe 32 s.drawKey.1 ++ zeros 2)
    s.Tells tag c.id (s.spdmAt c.id) (body ++ Config.sign (leNat s.aliasSeed) (fit 32 nonce ++ body)) (spdmGetMeasurements tag k nonce s) := by
  have h0 : k ≠ 0 := by omega
  have h255 : k ≠ 255 := by omega
  have hrecs : ([k].flatMap fun k => toLe 1 k ++ (s.measurement k).getD []) = toLe 1 k ++ m := by
    rw [List.flatMap_singleton, hm, Option.getD_some]
  have hlen : (toLe 1 k ++ m).length = 1 + m.length := by rw [List.length_append, length_toLe]
  rw [spdmGetMeasurements, spdmCommand_of_le h hn]
  dsimp only
  simp only [if_neg h0, if_neg h255, State.drawKey_measurement, State.drawKey_aliasSeed]
  rw [if_neg (by simp [hm]), hrecs, hlen]
  exact spdmReply_tells (u := s.drawKey.2) h rfl rfl _

theorem spdmGetMeasurements_of_none {k : Nat} (h7 : 7 < k) (h255 : k ≠ 255) (nonce : Bytes) :
    s.Tells tag c.id (s.spdmAt c.id) (spdmMsg 0x7F 1 0 []) (spdmGetMeasurements tag k nonce s) := by
  rw [spdmGetMeasurements, spdmCommand_of_le h hn]
  dsimp only
  have h0 : k ≠ 0 := by omega
  rw [if_neg h0, if_neg h255, if_pos (by simp [State.measurement_eq_none h7])]
  exact spdmReply_tells h rfl rfl _

end

/-! ### Session keys (R417) -/

theorem securityReceiveSessionKey_eq {sess : Nat} {x : Session} (hx : s.sess? sess = some x) (alloc : Nat) :
    securityReceiveSessionKey tag sess alloc s = if alloc < 16 then s.fail tag .invalidField
      else if x.ctrl = c.id ∧ x.st ≠ .orphaned then s.succeed tag 0 0 (toLe 1 x.num ++ zeros 7 ++ toLe 8 x.key) else s.fail tag .accessDenied := by
  rw [securityReceiveSessionKey, Proofs.command_of_admits h, hx]
  exact if_congr Iff.rfl rfl (if_congr (by simp) rfl rfl)

end

end Sys2Proof.Machine
end

section
/-! PROOFS. Namespaces are made, locked and destroyed, and the module attests itself (R326 to R328, R402 to R406, R417, R490, R491, R499). -/

namespace Sys2Proof.Proofs

open Sys2Proof.Machine Sys2Proof.Safety

variable {tag : Tag} {s t : State}

/-- A format at its boundary leaves the namespace formatted, its lock, kind and charge as they were, and none of its units mapped (R405). -/
theorem formatEffect_outcome {nsid lbaf : Nat} {n : Ns} (hp : s.powered = true) (hn : s.ns? nsid = some n) (hf : n.formatting = some (tag, lbaf)) :
    ∃ m : Ns, m.bare = n.bare ∧ (formatEffect nsid s).ns? nsid = some (m.formatted lbaf s.ns.keyNo s.boundaryStamp) ∧
      (formatEffect nsid s).ns.keyNo = s.ns.keyNo + 1 ∧ ∀ u, u < 2 ^ 40 → (formatEffect nsid s).entry (nsid - 1) u = unmapped := by
  have hview := s.endForFormat_nsView n nsid
  have hkey : (s.endForFormat n nsid).ns.keyNo = s.ns.keyNo := congrArg (fun v : NsTab × Nat => v.1.keyNo) hview
  have hstage : (s.endForFormat n nsid).stg.stage = s.stg.stage := congrArg Prod.snd hview
  have hstamp : (s.endForFormat n nsid).boundaryStamp = s.boundaryStamp := by rw [State.boundaryStamp, hstage, State.boundaryStamp]
  have hq := formatEffect_quiet hp hn hf
  obtain ⟨m, hm, hbare⟩ := State.ns?_of_nsView hview hn
  refine ⟨m, hbare, ?_, ?_, fun u hu => ?_⟩
  · rw [State.ns?_congr hq.ns, State.formatNs_ns? hm, hkey, hstamp]
  · rw [hq.ns, State.formatNs_keyNo, hkey]
  · rw [hq.entry, State.formatNs_entry _ _ _ hu]

/-- A lock taken is what the commands of locks answer. -/
theorem exec_of_lockTaken {i : Instr} {n : Ns} {st : Status} {l : Lock} {p : Lock → Prop} (hi : exec i s = .next t) (ht : s.LockTaken tag n st l t) (hp : p l) :
    ∃ (t : State) (m : Ns), exec i s = .next t ∧ t.ns? n.nsid = some m ∧ p m.lockNow ∧ m.lock = n.lock ∧
      (∃ d, t.que.done = s.que.done ++ [d] ∧ d.tag = tag ∧ d.sct = st.sct ∧ d.sc = st.sc) ∧ ∀ k, k ≠ n.nsid → t.ns? k = s.ns? k := by
  obtain ⟨m, hm, rfl, hlock, hdone, hother⟩ := ht
  exact ⟨t, m, hi, hm, hp, hlock, hdone, hother⟩

/-- Settles O57, clause by clause from the equations of the commands and from what each leaves. -/
theorem namespacesAreMadeLockedAndDestroyed : Obligations.NamespacesAreMadeLockedAndDestroyed := by
  unfold Obligations.NamespacesAreMadeLockedAndDestroyed
  refine ⟨?create, ?delete, ?effects, ?complete, ?format, ?tick, ?die, ?locks, ?sessionKey, ?spdm⟩
  case create =>
    intro tag c flbas nsze ncap header s h make
    refine ⟨fun hd => congrArg Host.Outcome.next (namespaceCreate_of_bad h hd), fun n hd =>
      ⟨fun hall => congrArg Host.Outcome.next (namespaceCreate_of_no_number h hd hall), fun k h1 h256 hfree hlow => ?_⟩⟩
    have heq := namespaceCreate_of_number h hd h1 h256 hfree hlow
    refine ⟨fun hcap => ?_, fun hcap hex => ?_, fun hcap hex => ⟨_, rfl, ?_⟩⟩
    · exact congrArg Host.Outcome.next (heq.trans (if_pos hcap))
    · exact congrArg Host.Outcome.next (heq.trans ((if_neg (Nat.not_lt.2 hcap)).trans (if_pos hex)))
    · rw [heq, if_neg (Nat.not_lt.2 hcap), if_neg (by simp [hex])]
      exact State.addNs_created (n := { n with nsid := k, charge := nsCharge n, key := s.ns.keyNo, created := s.stamp }) h hfree
  case delete =>
    intro tag c nsid s h ha
    have heq := namespaceDelete_eq h ha
    refine ⟨fun hall => ?_, fun hex => ⟨_, congrArg Host.Outcome.next (heq.trans (if_pos hex)), rfl, rfl⟩⟩
    refine congrArg Host.Outcome.next (heq.trans (if_neg ?_))
    rintro ⟨n, hn, hid, hnone⟩
    simpa [hnone] using hall n hn hid
  case effects =>
    intro nsid n s hp hn
    have hid : n.nsid = nsid := State.nsid_of_ns? hn
    refine ⟨fun tag hd => ⟨_, congrArg Host.Outcome.next (namespaceDeleteEffect_eq hp hn hd), ?_, fun u hu => ?_, ?_, ?_⟩, fun tag lbaf hf => ?_⟩
    · exact hid ▸ s.deleteNs_ns?_self n
    · exact hid ▸ s.deleteNs_entry n hu
    · intro x hx
      have hx' : x ∈ (s.endWork n).ses.list := by rw [← s.deleteNs_ses n]; exact hx
      exact hid ▸ State.forgetNs_grants _ _ x hx'
    · exact List.mem_append_right _ (List.mem_singleton_self _)
    · obtain ⟨m, hbare, hm, hkey, hunits⟩ := formatEffect_outcome hp hn hf
      have hlock : m.bare.lock = n.bare.lock := congrArg Ns.lock hbare
      have hkind : m.bare.kind = n.bare.kind := congrArg Ns.kind hbare
      have hcharge : m.bare.charge = n.bare.charge := congrArg Ns.charge hbare
      exact ⟨_, _, rfl, hm, rfl, hkey, rfl, rfl, rfl, rfl, hlock, hkind, hcharge, hunits⟩
  case complete => exact fun nsid tag s hp he => congrArg Host.Outcome.next (namespaceDeleteComplete_eq hp he)
  case format =>
    intro tag c nsid lbaf ses pi pil s h
    refine ⟨fun hb => congrArg Host.Outcome.next (formatNvm_of_bad h hb nsid), fun hl => congrArg Host.Outcome.next (formatNvm_all_eq tag hl s),
      fun hl hs ha n hn => ?_, fun hheld => ?_, fun hses hlocks _ => ⟨_, rfl, ?_⟩⟩
    · have heq := formatNvm_one h hl hs ha hn (tag := tag)
      refine ⟨fun hall => ⟨_, congrArg Host.Outcome.next (heq.trans (if_neg ?_)), rfl, ?_, fun k hk => ?_⟩, fun hsome =>
        congrArg Host.Outcome.next (heq.trans (if_pos ⟨n, List.mem_of_find?_eq_some hn, State.nsid_of_ns? hn, hsome⟩))⟩
      · rintro ⟨m, hm, hid, hsome⟩
        simp [hall m hm hid] at hsome
      · exact State.ns?_updNs_same hn fun _ => rfl
      · exact State.ns?_updNs_other hk fun _ => rfl
    · exact congrArg Host.Outcome.next ((formatNvmFull_eq h).trans (State.fullFormat_of_held tag hheld))
    · rw [formatNvmFull_eq h]
      exact State.fullFormat_of_free tag hses hlocks
  case tick =>
    intro tag s hf hc
    refine ⟨State.formatTick_of_left hf hc, fun hl hctrl hd => ?_⟩
    rw [State.formatTick_of_last hf hc hd]
    exact State.formatDone_outcome hl hctrl
  case die => exact fun die s => ⟨State.formatDie_of_busy, State.formatDie_of_idle⟩
  case locks =>
    intro tag c b n s h hn l locked missed
    have hself : s.ns? n.nsid = some n := by rw [State.nsid_of_ns? hn, hn]
    have hdenied : ∀ {op}, lockFieldsOk op b = true → 8 ≤ l.failures → ∀ f, s.lockCommand tag op b f = s.fail tag .operationDenied :=
      fun hb h8 f => (lockCommand_of_ok h hn hb f).trans (if_pos h8)
    have hmissed := lockFailure_taken h hself l
    have htaken : ∀ {i st k t p}, exec i s = .next t → s.LockTaken tag n st k t → p k → locked i st p := exec_of_lockTaken
    clear_value locked
    refine ⟨fun hb => congrArg Host.Outcome.next (lockCommand_of_bad h hb _), fun hb => congrArg Host.Outcome.next (lockCommand_of_bad h hb _),
      fun hb => congrArg Host.Outcome.next (lockCommand_of_bad h hb _), fun h8 => ⟨fun hb => congrArg Host.Outcome.next (hdenied hb h8 _),
      fun hb => congrArg Host.Outcome.next (hdenied hb h8 _), fun hb => congrArg Host.Outcome.next (hdenied hb h8 _)⟩, fun hf => ?_,
      fun alloc => congrArg Host.Outcome.next (securityReceiveLockState_eq h hn alloc)⟩
    have hset := securitySetPassword_eq h hn hf
    have hlock := securityLock_eq h hn hf
    have hunlock := securityUnlock_eq h hn hf
    refine ⟨fun hb hp hm => ?_, fun hb hp hm => ?_, fun hb hm => ?_, fun hb hp => ?_, fun hb hp h5 => ?_, fun hb hopen => ?_, fun hb hm => ?_, fun hb hm => ?_⟩
    · exact htaken (congrArg Host.Outcome.next ((hset hb).trans ((if_neg fun hno => ne_false_of_eq_true hp hno.1).trans (if_pos ⟨hp, hm⟩)))) hmissed rfl
    · exact htaken (congrArg Host.Outcome.next ((hlock hb).trans ((if_neg (ne_false_of_eq_true hp)).trans (if_pos hm)))) hmissed rfl
    · exact htaken (congrArg Host.Outcome.next ((hunlock hb).trans (if_pos hm))) hmissed rfl
    · exact congrArg Host.Outcome.next ((hlock hb).trans (if_pos hp))
    · exact congrArg Host.Outcome.next ((hset hb).trans (if_pos ⟨hp, h5⟩))
    · have hfree : ¬(l.passwordSet = false ∧ field b 5 1 ≠ 0) := fun hno =>
        hopen.elim (fun ho => hno.2 ho.2) fun hm => ne_false_of_eq_true (passwordSet_of_oldMatches hm) hno.1
      have hmatch : ¬(l.passwordSet = true ∧ oldMatches l b = false) := fun hno =>
        hopen.elim (fun ho => ne_false_of_eq_true hno.1 ho.1) fun hm => ne_false_of_eq_true hm hno.2
      have heq := (hset hb).trans ((if_neg hfree).trans (if_neg hmatch))
      refine ⟨fun h6 => ?_, fun h6 => ?_⟩
      · exact htaken (congrArg Host.Outcome.next (heq.trans (if_pos h6))) (recordLock_taken h hself {}) rfl
      · exact htaken (congrArg Host.Outcome.next (heq.trans (if_neg h6))) (recordLock_taken (s := s.drawKey.2) h hself _)
          ⟨rfl, length_toLe .., rfl, rfl, rfl, rfl, rfl⟩
    · have hp := passwordSet_of_oldMatches hm
      exact htaken (congrArg Host.Outcome.next ((hlock hb).trans ((if_neg (ne_false_of_eq_true hp)).trans (if_neg (ne_false_of_eq_true hm)))))
        (recordLock_taken h hself _) rfl
    · exact htaken (congrArg Host.Outcome.next ((hunlock hb).trans (if_neg (ne_false_of_eq_true hm)))) (recordLock_taken h hself _) rfl
  case sessionKey => exact fun tag c sess alloc x s h hx => congrArg Host.Outcome.next (securityReceiveSessionKey_eq h hx alloc)
  case spdm =>
    intro tag c s h tells now early
    refine ⟨⟨_, rfl, spdmGetVersion_tells h⟩, fun h0 => ⟨_, rfl, spdmCommand_early h (by omega) _⟩, fun h2 => ⟨_, rfl, spdmCommand_early h h2 _⟩,
      fun h3 => ⟨⟨_, rfl, spdmCommand_early h h3 _⟩, fun slot a n nonce => ⟨⟨_, rfl, spdmCommand_early h h3 _⟩, ⟨_, rfl, spdmCommand_early h h3 _⟩,
        ⟨_, rfl, spdmCommand_early h h3 _⟩⟩⟩,
      fun h1 => ⟨_, rfl, spdmGetCapabilities_tells h h1⟩, fun h2 => ?_, fun h3 => ⟨⟨_, rfl, spdmGetDigests_tells h h3⟩,
        fun slot b hb offset len ho => ⟨_, rfl, spdmGetCertificate_tells h h3 hb ho len⟩,
        fun slot hb => ⟨fun a n => ⟨_, rfl, spdmGetCertificate_of_none h h3 hb a n⟩, fun nonce => ⟨_, rfl, spdmChallenge_of_none h h3 hb nonce⟩⟩,
        fun slot b nonce hb => ⟨_, _, rfl, spdmChallenge_tells h h3 hb nonce⟩,
        fun k m nonce h1 h7 hm => ⟨_, _, rfl, spdmGetMeasurements_tells h h3 h1 h7 hm nonce⟩,
        fun k nonce h7 h255 => ⟨_, rfl, spdmGetMeasurements_of_none h h3 h7 h255 nonce⟩⟩⟩
    obtain ⟨r, hr⟩ := spdmNegotiateAlgorithms_tells h h2
    exact ⟨r, _, rfl, hr⟩

end Sys2Proof.Proofs
end

section
/-! PROOFS. No command restores a blown fuse, and none but a transfer on the configuration bus writes the configuration memory (R445, R455, R462). -/

namespace Sys2Proof.Machine

open Sys2Proof.Safety

variable {c : Instr} {s t : State}

/-- No blown fuse is restored and the configuration memory stands. -/
def FusesAndConfigStand (s t : State) : Prop := (∀ k ∈ s.sec.fuses, k ∈ t.sec.fuses) ∧ t.boot.cfg = s.boot.cfg

theorem FusesAndConfigStand.refl (s : State) : FusesAndConfigStand s s := ⟨fun _ hk => hk, rfl⟩

theorem FusesAndConfigStand.of_eq (hf : t.sec.fuses = s.sec.fuses) (hc : t.boot.cfg = s.boot.cfg) : FusesAndConfigStand s t :=
  ⟨fun _ hk => hf ▸ hk, hc⟩

/-- An anchor that agrees in fuses and configuration memory, whatever of its counter and batch. -/
theorem Keep.fusesAndConfigStand {p : List Instr} {n : Nat × Bool × Bool} {b : List Completion} {l : List Part} {base : State}
    (h : Keep ⟨(p, n, b, s.sec.fuses, s.boot.cfg), l, base⟩ t) : FusesAndConfigStand s t := by
  obtain ⟨ha, _⟩ := h
  simp only [State.anchor, Prod.mk.injEq] at ha
  obtain ⟨_, _, _, hfuses, hcfg⟩ := ha
  exact .of_eq hfuses hcfg

theorem Blows.fusesAndConfigStand {l : List Part} (h : Blows l s t) : FusesAndConfigStand s t := by
  obtain ⟨_, _, _, hcfg, hfuses, _⟩ := h
  exact ⟨hfuses, hcfg⟩

theorem Darkens.fusesAndConfigStand (h : Darkens s t) : FusesAndConfigStand s t := by
  obtain ⟨_, hfuses, hcfg, _⟩ := h
  exact .of_eq hfuses hcfg

theorem stageBoundary_fusesAndConfig (smp : Samples) (h : Sound s) : FusesAndConfigStand s (stageBoundary smp s) := by
  cases hp : s.pwr.standby && s.pwr.rails with
  | false => rw [stageBoundary_dark smp hp]; exact .refl s
  | true =>
    obtain ⟨_, hk, _⟩ := stageBoundary_moves smp h hp (l := allParts) (by decide)
    exact hk.fusesAndConfigStand

theorem yokeForwardJump_fusesAndConfig (smp : Samples) (h : Sound s) : FusesAndConfigStand s (yokeForwardJump smp s) := by
  obtain he | ⟨_, _, _, _, _, hfuses, hcfg, _⟩ := yokeForwardJump_moves smp h (l := allParts) (by decide)
  · rw [he]; exact .refl s
  · exact .of_eq hfuses hcfg

theorem stampStart_fusesAndConfig (h : Sound s) : FusesAndConfigStand s (stampStart s) := by
  obtain he | ⟨_, _, _, hk⟩ := stampStart_moves h (l := allParts) (by decide)
  · rw [he]; exact .refl s
  · exact hk.fusesAndConfigStand

/-- A transfer on the configuration bus is one; every other command leaves the configuration memory, and none restores a fuse. -/
theorem exec_fusesAndConfig (h : Sound s) (he : exec c s = .next t) :
    FusesAndConfigStand s t ∨ ∃ write addr len data, c = .configBusTransfer write addr len data := by
  obtain hc | ⟨u, hu, hk⟩ := exec_keeps h c
  · cases hc with
    | stageBoundary smp => exact .inl (next_inj he rfl ▸ stageBoundary_fusesAndConfig smp h)
    | yokeForwardJump smp => exact .inl (next_inj he rfl ▸ yokeForwardJump_fusesAndConfig smp h)
    | stampStart => exact .inl (next_inj he rfl ▸ stampStart_fusesAndConfig h)
    | bringUpStart => exact .inl (next_inj he rfl ▸ (bringUpStart_darkens h).fusesAndConfigStand)
    | powerOff => exact .inl (next_inj he rfl ▸ (powerOff_darkens h).fusesAndConfigStand)
    | holdRelease => exact .inl (next_inj he rfl ▸ (holdRelease_darkens h).fusesAndConfigStand)
    | fuseRead fuses =>
      exact .inl (next_inj he rfl ▸ (fuseRead_blows fuses h (of_decide_eq_true (p := _ ⊆ allParts) rfl)).fusesAndConfigStand)
    | ownerChainCheck authOk =>
      exact .inl (next_inj he rfl ▸ (ownerChainCheck_blows authOk h (of_decide_eq_true (p := _ ⊆ allParts) rfl)).fusesAndConfigStand)
    | ready => exact .inl (next_inj he rfl ▸ (ready_blows h (of_decide_eq_true (p := _ ⊆ allParts) rfl)).fusesAndConfigStand)
    | configBusTransfer write addr len data => exact .inr ⟨write, addr, len, data, rfl⟩
  · exact .inl (next_inj he hu ▸ Keep.fusesAndConfigStand hk)

/-- A transfer leaves every byte outside those written. -/
theorem configBusTransfer_outside (write : Bool) {addr a : Nat} (len : Nat) {data : Bytes} (h : Sound s)
    (ha : a < addr ∨ addr + data.length ≤ a) :
    Tab.get 0xFF (configBusTransfer write addr len data s).boot.cfg a = Tab.get 0xFF s.boot.cfg a := by
  obtain ⟨_, _, _, _, _, hcfg, _⟩ := h
  unfold configBusTransfer
  split
  · rfl
  · dsimp only
    split
    · rw [Tab.get_putBytes _ _ _ _ _ hcfg, if_neg]
      have := List.length_take_le' (min len (0x4000000 - addr)) data
      omega
    · rfl

end Sys2Proof.Machine

namespace Sys2Proof.Proofs

open Sys2Proof.Machine Sys2Proof.Safety

/-- Settles O7: fuses stand or are blown with every command, and a transfer on the configuration bus does not reach them. -/
theorem blownFusesStayBlown : Obligations.BlownFusesStayBlown := by
  intro c s t h he k hk
  obtain ⟨hfuses, _⟩ | ⟨write, addr, len, data, rfl⟩ := exec_fusesAndConfig h he
  · exact hfuses k hk
  · obtain ⟨_, hsec, _⟩ := configBusTransfer_moves write addr len data h
    obtain rfl := next_inj he rfl
    rwa [hsec]

/-- Settles O8: the transfer writes its own range, and every other command leaves the configuration memory whole. -/
theorem onlyTheConfigurationBusWritesConfigurationMemory : Obligations.OnlyTheConfigurationBusWritesConfigurationMemory := by
  intro c s t h he
  split
  · next write addr len data =>
    obtain rfl := next_inj he rfl
    exact fun a ha => configBusTransfer_outside write len h ha
  · next hne =>
    obtain ⟨_, hcfg⟩ | ⟨write, addr, len, data, rfl⟩ := exec_fusesAndConfig h he
    · exact fun a => by rw [hcfg]
    · exact absurd rfl (hne write addr len data)

end Sys2Proof.Proofs
end

section
/-! PROOFS. The symbol code of the DRAM: a word as written, one wrong symbol, poison (R372, R373, R377). -/

namespace Sys2Proof.Machine

open Sys2Proof.Safety

/-! ### The field (R372) -/

theorem gfStep_xor (a b : Byte) : gfStep (a ^^^ b) = gfStep a ^^^ gfStep b := by
  unfold gfStep
  rw [BitVec.getLsbD_xor, BitVec.shiftLeft_xor_distrib]
  cases a.getLsbD 7 <;> cases b.getLsbD 7 <;> simp <;> grind

theorem gfMul_two (a : Byte) : gfMul a 0x02 = gfStep a := by simp [gfMul, gfMulAux]

theorem gfMul_three (a : Byte) : gfMul a 0x03 = a ^^^ gfStep a := by simp [gfMul, gfMulAux]

/-- A product with a power of α is as many steps: the low powers are bits, the others hold by the field polynomial. -/
theorem gfMul_alpha : ∀ j < 18, ∀ e : Byte, gfMul e (alpha j) = gfStep^[j] e := by decide +kernel

theorem gfStep_injective : Function.Injective gfStep := by
  have hker : ∀ a : Byte, gfStep a = 0 → a = 0 := by decide +kernel
  intro a b hab
  have h := hker (a ^^^ b) (by rw [gfStep_xor, hab]; exact BitVec.xor_self)
  exact BitVec.xor_eq_zero_iff.mp h

/-- No power of α below the length of a code word is 1. -/
theorem gfStep_iterate_ne : ∀ m < 17, ∀ e : Byte, gfStep^[m + 1] e = e → e = 0 := by decide +kernel

theorem gfStep_iterate_distinct {e : Byte} (he : e ≠ 0) {k j : Nat} (hk : k < j) (hj : j < 18) : gfStep^[k] e ≠ gfStep^[j] e := by
  intro h
  obtain ⟨m, rfl⟩ := Nat.exists_eq_add_of_lt hk
  rw [show k + m + 1 = k + (m + 1) by omega, Function.iterate_add_apply] at h
  exact he (gfStep_iterate_ne m (by omega) e (gfStep_injective.iterate k h).symm)

/-! ### Syndromes (R372, R373) -/

/-- One symbol taken into the syndromes. -/
def syndStep (y : Byte × Byte) (x : Byte) : Byte × Byte := (y.1 ^^^ x, gfStep y.2 ^^^ x)

theorem syndromes_eq (d : Bytes) (p0 p1 : Byte) : syndromes d p0 p1 = syndStep (syndStep (d.foldl syndStep (0, 0)) p0) p1 := by
  simp only [syndromes, gfMul_two, List.foldl_append, List.foldl_cons, List.foldl_nil]
  rfl

/-- The remainder that the encoder holds and the syndromes of the same data agree at both roots of the generator. -/
def AgreesAtRoots (r y : Byte × Byte) : Prop := y.1 = r.1 ^^^ r.2 ∧ gfStep (gfStep y.2) = gfStep r.1 ^^^ r.2

theorem AgreesAtRoots.step {r y : Byte × Byte} (h : AgreesAtRoots r y) (x : Byte) : AgreesAtRoots (rsStep r x) (syndStep y x) := by
  obtain ⟨h0, h1⟩ := h
  simp only [AgreesAtRoots, rsStep, syndStep, gfMul_two, gfMul_three, gfStep_xor, h0, h1]
  constructor <;> grind

theorem AgreesAtRoots.foldl {r y : Byte × Byte} (h : AgreesAtRoots r y) (d : Bytes) : AgreesAtRoots (d.foldl rsStep r) (d.foldl syndStep y) := by
  induction d generalizing r y with
  | nil => exact h
  | cons x d ih => exact ih (h.step x)

theorem rsEncode_agrees (d : Bytes) : AgreesAtRoots (rsEncode d) (d.foldl syndStep (0, 0)) :=
  AgreesAtRoots.foldl ⟨by decide, by decide⟩ d

theorem syndromes_rsEncode (d : Bytes) : syndromes d (rsEncode d).1 (rsEncode d).2 = (0, 0) := by
  obtain ⟨h0, h1⟩ := rsEncode_agrees d
  simp only [syndromes_eq, syndStep, gfStep_xor, h0, h1, Prod.mk.injEq]
  constructor <;> grind

/-- The syndromes of a code word whose check bytes have each an error (R373, R377). -/
theorem syndromes_xor (d : Bytes) (p0 p1 e0 e1 : Byte) :
    syndromes d (p0 ^^^ e0) (p1 ^^^ e1) = ((syndromes d p0 p1).1 ^^^ (e0 ^^^ e1), (syndromes d p0 p1).2 ^^^ (gfStep e0 ^^^ e1)) := by
  simp only [syndromes_eq, syndStep, gfStep_xor, Prod.mk.injEq]
  constructor <;> grind

theorem syndStep_xor (y : Byte × Byte) (a b x : Byte) :
    syndStep (y.1 ^^^ a, y.2 ^^^ b) x = ((syndStep y x).1 ^^^ a, (syndStep y x).2 ^^^ gfStep b) := by
  simp only [syndStep, gfStep_xor, Prod.mk.injEq]
  constructor <;> grind

/-- A difference before some symbols stands in S0 and has stepped once for each of them in S1. -/
theorem foldl_syndStep_xor (l : Bytes) (y : Byte × Byte) (a b : Byte) :
    l.foldl syndStep (y.1 ^^^ a, y.2 ^^^ b) = ((l.foldl syndStep y).1 ^^^ a, (l.foldl syndStep y).2 ^^^ gfStep^[l.length] b) := by
  induction l generalizing y b with
  | nil => rfl
  | cons x l ih =>
    rw [List.foldl_cons, syndStep_xor, ih, List.foldl_cons, List.length_cons, Function.iterate_succ_apply]

theorem foldl_syndStep_set {l : Bytes} {i : Nat} (hi : i < l.length) (y : Byte × Byte) (e : Byte) :
    (l.set i (l.getD i 0 ^^^ e)).foldl syndStep y =
      ((l.foldl syndStep y).1 ^^^ e, (l.foldl syndStep y).2 ^^^ gfStep^[l.length - 1 - i] e) := by
  induction l generalizing y i with
  | nil => exact absurd hi (Nat.not_lt_zero _)
  | cons x l ih =>
    cases i with
    | zero =>
      have hs : syndStep y (x ^^^ e) = ((syndStep y x).1 ^^^ e, (syndStep y x).2 ^^^ e) := by
        simp only [syndStep, Prod.mk.injEq]
        constructor <;> grind
      simp [hs, foldl_syndStep_xor]
    | succ i =>
      have hi' : i < l.length := by simpa using hi
      simpa [show l.length - (i + 1) = l.length - 1 - i by omega] using ih hi' (syndStep y x)

/-- An error in a data symbol of a code word as written: S0 is the error, S1 the error at the symbol's position. -/
theorem syndromes_set {d : Bytes} (hd : d.length = 16) {i : Nat} (hi : i < 16) (e : Byte) :
    syndromes (d.set i (d.getD i 0 ^^^ e)) (rsEncode d).1 (rsEncode d).2 = (e, gfStep^[17 - i] e) := by
  have h := syndromes_rsEncode d
  rw [syndromes_eq] at h
  rw [syndromes_eq, foldl_syndStep_set (by omega), syndStep_xor, syndStep_xor, h, ← Function.iterate_succ_apply' gfStep,
    ← Function.iterate_succ_apply' gfStep, show (d.length - 1 - i).succ.succ = 17 - i by omega]
  simp

/-! ### Classes (R373) -/

theorem classOf_corrected {e : Byte} (he : e ≠ 0) {j : Nat} (hj : j < 18) (all : Bool) : classOf e (gfStep^[j] e) all = .corrected j e := by
  have hfind : firstBelow (fun i => gfMul e (alpha i) = gfStep^[j] e) 18 = some j := by
    refine findUp_eq_some (Nat.zero_le j) (by omega) (by simp [gfMul_alpha j hj]) fun k _ hk => ?_
    simpa [gfMul_alpha k (by omega)] using gfStep_iterate_distinct he hk hj
  have he' : ¬ e = 0#8 := he
  simp [classOf, he', hfind]

end Sys2Proof.Machine

namespace Sys2Proof.Proofs

open Sys2Proof.Machine Sys2Proof.Safety

/-- Settles O32: the encoder's remainder makes both syndromes zero, and an error of one symbol shows as itself and as its multiple by α to the
position. -/
theorem theDramCodeCorrectsOneSymbol : Obligations.TheDramCodeCorrectsOneSymbol := by
  intro d hd p
  have hclean : syndromes d p.1 p.2 = (0, 0) := syndromes_rsEncode d
  refine ⟨hclean, ?_, fun e he all => ⟨?_, ?_, fun i hi => ?_⟩⟩
  · rw [syndromes_xor, hclean]; decide
  · have h : syndromes d p.1 (p.2 ^^^ e) = (e, gfStep^[0] e) := by
      simpa [hclean, show gfStep 0#8 = 0#8 by decide] using syndromes_xor d p.1 p.2 0 e
    simp only [h]
    exact classOf_corrected he (by omega) all
  · have h : syndromes d (p.1 ^^^ e) p.2 = (e, gfStep^[1] e) := by
      simpa [hclean] using syndromes_xor d p.1 p.2 e 0
    simp only [h]
    exact classOf_corrected he (by omega) all
  · simp only [p, syndromes_set hd hi]
    exact classOf_corrected he (by omega) all

end Sys2Proof.Proofs
end

section
/-! PROOFS. The DRAM's scrubber and its keyed test mode (R373, R376 to R378, R381). -/

namespace Sys2Proof.Machine

open Sys2Proof.Safety

/-! ### What a line reads after its bytes have been written (R377) -/

section

variable {s : State} {line : Nat}

@[simp] theorem State.cwData_setCheck (v w : Nat) (p : Byte × Byte) : (s.setCheck line w p).cwData line v = s.cwData line v := rfl

theorem State.cwData_of_data {t : State} (h : t.drm.data = s.drm.data) (w : Nat) : t.cwData line w = s.cwData line w := by
  rw [State.cwData, h, State.cwData]

theorem State.get_setCheck (h : Tab.wf 0 s.drm.check = true) (w : Nat) (p : Byte × Byte) (a : Nat) :
    Tab.get 0 (s.setCheck line w p).drm.check a =
      if a = line * 8 + 2 * w + 1 then p.2 else if a = line * 8 + 2 * w then p.1 else Tab.get 0 s.drm.check a := by
  rw [State.setCheck, Tab.get_set _ _ _ _ _ (Tab.wf_set _ _ _ _ h), Tab.get_set _ _ _ _ _ h]

theorem State.wf_setCheck (h : Tab.wf 0 s.drm.check = true) (w : Nat) (p : Byte × Byte) : Tab.wf 0 (s.setCheck line w p).drm.check = true :=
  Tab.wf_set _ _ _ _ (Tab.wf_set _ _ _ _ h)

theorem State.cwCheck_setCheck (h : Tab.wf 0 s.drm.check = true) (v w : Nat) (p : Byte × Byte) :
    (s.setCheck line w p).cwCheck line v = if v = w then p else s.cwCheck line v := by
  simp only [State.cwCheck, State.get_setCheck h]
  by_cases hv : v = w
  · subst hv; simp
  · rw [if_neg (by omega), if_neg (by omega), if_neg (by omega), if_neg (by omega), if_neg hv]

theorem State.countEcc_eq (pkg corr pois unc : Nat) : ∃ ecc, s.countEcc pkg corr pois unc = { s with drm := { s.drm with ecc := ecc } } := ⟨_, rfl⟩

/-- Counting errors leaves data, check bytes, the scrubber's pointers and firmware's counters. -/
theorem State.countEcc_memory (pkg corr pois unc : Nat) : (s.countEcc pkg corr pois unc).drm.data = s.drm.data ∧
    (s.countEcc pkg corr pois unc).drm.check = s.drm.check ∧ (s.countEcc pkg corr pois unc).drm.scrub = s.drm.scrub ∧
    (s.countEcc pkg corr pois unc).fwc = s.fwc := by
  obtain ⟨ecc, h⟩ := s.countEcc_eq pkg corr pois unc
  rw [h]
  exact ⟨rfl, rfl, rfl, rfl⟩

/-- A word's check bytes as poison has them. -/
def State.poisonOf (s : State) (line w : Nat) : Byte × Byte :=
  ((rsEncode (s.cwData line w)).1 ^^^ 0xFF, (rsEncode (s.cwData line w)).2 ^^^ 0xFF)

theorem State.poisonLine_eq : s.poisonLine line = (List.range 4).foldl (fun t w => t.setCheck line w (t.poisonOf line w)) s := rfl

theorem poisonWords_frame (l : List Nat) (t : State) : (l.foldl (fun t w => t.setCheck line w (t.poisonOf line w)) t).drm.data = t.drm.data ∧
    (l.foldl (fun t w => t.setCheck line w (t.poisonOf line w)) t).drm.scrub = t.drm.scrub := by
  induction l generalizing t with
  | nil => exact ⟨rfl, rfl⟩
  | cons w l ih => exact ih (t.setCheck line w (t.poisonOf line w))

theorem poisonWords_cwCheck {l : List Nat} {t : State} (h : Tab.wf 0 t.drm.check = true) (hl : l.Nodup) (v : Nat) :
    (l.foldl (fun t w => t.setCheck line w (t.poisonOf line w)) t).cwCheck line v = if v ∈ l then t.poisonOf line v else t.cwCheck line v := by
  induction l generalizing t with
  | nil => simp
  | cons w l ih =>
    obtain ⟨hw, hl⟩ := List.nodup_cons.mp hl
    rw [List.foldl_cons, ih (State.wf_setCheck h w _) hl, State.cwCheck_setCheck h]
    by_cases hv : v = w
    · subst hv; simp [hw]
    · simp [hv, State.poisonOf]

@[simp] theorem State.poisonLine_data : (s.poisonLine line).drm.data = s.drm.data := (poisonWords_frame _ s).1

@[simp] theorem State.poisonLine_scrub : (s.poisonLine line).drm.scrub = s.drm.scrub := (poisonWords_frame _ s).2

theorem State.cwCheck_poisonLine (h : Tab.wf 0 s.drm.check = true) {v : Nat} (hv : v < 4) : (s.poisonLine line).cwCheck line v = s.poisonOf line v := by
  rw [State.poisonLine_eq, poisonWords_cwCheck h List.nodup_range, if_pos (List.mem_range.mpr hv)]

/-- The one symbol that is put right, in its data byte or its check byte (R373). -/
theorem State.get_data_fixWord (h : Tab.wf 0 s.drm.data = true) (w j : Nat) (e : Byte) (a : Nat) :
    Tab.get 0 (s.fixWord line w j e).drm.data a =
      if 2 ≤ j ∧ a = line * 64 + 16 * w + (17 - j) then Tab.get 0 s.drm.data a ^^^ e else Tab.get 0 s.drm.data a := by
  match j with
  | 0 => rfl
  | 1 => rfl
  | j + 2 =>
    simp only [State.fixWord, State.setData, Tab.putBytes]
    rw [if_neg (by omega), if_neg (by omega), Tab.get_set _ _ _ _ _ h]
    grind

theorem State.get_check_fixWord (h : Tab.wf 0 s.drm.check = true) (w j : Nat) (e : Byte) (a : Nat) :
    Tab.get 0 (s.fixWord line w j e).drm.check a =
      if j < 2 ∧ a = line * 8 + 2 * w + (1 - j) then Tab.get 0 s.drm.check a ^^^ e else Tab.get 0 s.drm.check a := by
  match j with
  | 0 => rw [State.fixWord, if_pos rfl, State.get_setCheck h]; grind [State.cwCheck]
  | 1 => rw [State.fixWord, if_neg (by omega), if_pos rfl, State.get_setCheck h]; grind [State.cwCheck]
  | j + 2 => simp [State.fixWord, State.setData]

theorem State.fixWord_scrub (w j : Nat) (e : Byte) : (s.fixWord line w j e).drm.scrub = s.drm.scrub := by
  unfold State.fixWord
  split
  · rfl
  · split <;> rfl

end

theorem State.event_cwCheck (s : State) (code cls source : Nat) (obj : Obj) (detail : Bytes) (line w : Nat) :
    (s.event code cls source obj detail).cwCheck line w = s.cwCheck line w := by
  rw [State.cwCheck, State.event_drm, State.cwCheck]

/-! ### A line read whole (R373, R376 to R378) -/

section

variable {s : State} {line : Nat} (hraw : s.rawRead (pkgOf (line * 64)) = false)
include hraw

/-- A line of clean code words: nothing but the count of errors, none, is written. -/
theorem readLine_of_clean (req : Nat) (hc : ∀ w, w < 4 → s.lineClass line w = .clean) :
    (readLine req line [0, 1, 2, 3] s).2 = s.countEcc (pkgOf (line * 64)) 0 0 0 := by
  simp [readLine, hraw, hc]

/-- One word with a single wrong symbol among clean ones: the symbol is put right. -/
theorem readLine_of_corrected (req : Nat) {w j : Nat} {e : Byte} (hw : w < 4) (hj : s.lineClass line w = .corrected j e)
    (hc : ∀ v, v < 4 → v ≠ w → s.lineClass line v = .clean) :
    (readLine req line [0, 1, 2, 3] s).2 = (s.countEcc (pkgOf (line * 64)) 1 0 0).fixWord line w j e := by
  match w with
  | 0 => simp [readLine, hraw, hj, hc]
  | 1 => simp [readLine, hraw, hj, hc]
  | 2 => simp [readLine, hraw, hj, hc]
  | 3 => simp [readLine, hraw, hj, hc]

/-- One word that cannot be corrected among clean ones: the line is poisoned and the event logged. -/
theorem readLine_of_uncorrectable (req : Nat) {w : Nat} (hw : w < 4) (hu : s.lineClass line w = .uncorrectable)
    (hc : ∀ v, v < 4 → v ≠ w → s.lineClass line v = .clean) :
    (readLine req line [0, 1, 2, 3] s).2 = ((s.countEcc (pkgOf (line * 64)) 0 0 1).poisonLine line).event 0x0009 0 0xFF ⟨4, pkgOf (line * 64)⟩
      ([BitVec.ofNat 8 (pkgOf (line * 64))] ++ toLe 4 (line % 2 ^ 30) ++ toLe 2 req) := by
  match w with
  | 0 => simp [readLine, hraw, hu, hc]
  | 1 => simp [readLine, hraw, hu, hc]
  | 2 => simp [readLine, hraw, hu, hc]
  | 3 => simp [readLine, hraw, hu, hc]

end

/-- The line that the scrubber reads lies in its package. -/
theorem pkgOf_line {pkg n : Nat} (hn : n < 2 ^ 30) : pkgOf ((pkg * 2 ^ 30 + n) * 64) = pkg := by
  unfold pkgOf
  omega

/-- A raw read latches syndromes and nothing else (R381). -/
theorem readLine_raw {s : State} {line : Nat} (hraw : s.rawRead (pkgOf (line * 64)) = true) (req : Nat) (ws : List Nat) :
    ∃ synd, readLine req line ws s = (true, { s with drm := { s.drm with synd := synd } }) := by
  unfold readLine
  rw [if_pos hraw]
  exact ⟨_, rfl⟩

/-- A line that is read leaves the scrubber's pointers. -/
theorem readLine_scrub (req line : Nat) (ws : List Nat) (s : State) : (readLine req line ws s).2.drm.scrub = s.drm.scrub := by
  by_cases hraw : s.rawRead (pkgOf (line * 64)) = true
  · obtain ⟨synd, h⟩ := readLine_raw hraw req ws
    rw [h]
  · unfold readLine
    rw [if_neg hraw]
    extract_lets cls unc corr fixed poisoned
    have hfix : fixed.drm.scrub = s.drm.scrub :=
      (foldl_view (view := fun t => t.drm.scrub) (fun t c => by
        split
        · exact State.fixWord_scrub ..
        · rfl) cls _).trans (State.countEcc_memory ..).2.2.1
    clear_value fixed unc
    split
    · simp only [poisoned, State.event_drm, State.poisonLine_scrub, hfix]
    · split
      · exact (State.countEcc_memory ..).2.2.1.trans hfix
      · exact hfix

/-- The scrubber's pointers replaced. -/
def State.withScrub (s : State) (pointers : Table Nat) : State := { s with drm := { s.drm with scrub := pointers } }

/-- The scrubber on a running package: the line is read whole and the pointer moves on. -/
theorem dramScrub_reads {pkg line : Nat} {s : State} (hclk : s.dramClock = true) (hpkg : s.drm.present.contains pkg = true)
    (hfill : s.boot.ph.filled = true) (hline : pkg * 2 ^ 30 + Tab.get 0 s.drm.scrub pkg = line) :
    dramScrub pkg s = (readLine (256 + pkg) line [0, 1, 2, 3] s).2.withScrub
      (Tab.set 0 s.drm.scrub pkg ((Tab.get 0 s.drm.scrub pkg + 1) % 2 ^ 30)) := by
  rw [dramScrub, if_pos (by simp only [hclk, hpkg, hfill, Bool.and_self])]
  dsimp only
  rw [hline, readLine_scrub]
  rfl

section

variable (s : State) (pointers : Table Nat)

theorem State.withScrub_scrub : (s.withScrub pointers).drm.scrub = pointers := rfl
theorem State.withScrub_data : (s.withScrub pointers).drm.data = s.drm.data := rfl
theorem State.withScrub_check : (s.withScrub pointers).drm.check = s.drm.check := rfl
theorem State.withScrub_fwc : (s.withScrub pointers).fwc = s.fwc := rfl
theorem State.withScrub_cwCheck (line w : Nat) : (s.withScrub pointers).cwCheck line w = s.cwCheck line w := rfl

end

end Sys2Proof.Machine

namespace Sys2Proof.Proofs

open Sys2Proof.Machine Sys2Proof.Safety

/-- Settles O33: a write is taken where the mode is open and the key right, with the other field as it stands. -/
theorem theDramTestModeIsKeyed : Obligations.TheDramTestModeIsKeyed := by
  intro pkg key path on s put
  have hopen (raw : Bool) (p : Nat) (ho : s.testOpen = true) (hk : key = 0x5C) :
      writeDrmTest pkg key raw p s = put raw (if p = 3 then s.writePath pkg else p % 4) := by
    simp [writeDrmTest, ho, hk, put]
  have hshut (raw : Bool) (p : Nat) (h : s.testOpen = false ∨ key ≠ 0x5C) : writeDrmTest pkg key raw p s = s := by
    unfold writeDrmTest
    rw [if_neg (by rcases h with h | h <;> simp [h])]
  refine ⟨fun ho hk => ⟨congrArg Host.Outcome.next ?_, fun hp => congrArg Host.Outcome.next ?_, fun hp => congrArg Host.Outcome.next ?_⟩,
    fun h => ⟨congrArg Host.Outcome.next (hshut _ _ h), congrArg Host.Outcome.next (hshut _ _ h)⟩⟩
  · rw [drmTestRawRead, hopen _ _ ho hk]
    simp [State.writePath]
  · rw [drmTestWritePath, hopen _ _ ho hk, if_neg (by omega), Nat.mod_eq_of_lt (by omega)]
    rfl
  · rw [drmTestWritePath, hopen _ _ ho hk, if_pos hp]
    rfl

/-- Settles O31: the line is read whole, and a read puts right, poisons or leaves it by its classes. -/
theorem dramLinesAreScrubbed : Obligations.DramLinesAreScrubbed := by
  intro pkg s hs hclk hpkg hfill hraw h12 hn line
  have hp : pkgOf (line * 64) = pkg := pkgOf_line hn
  have hscrub := dramScrub_reads hclk hpkg hfill (rfl : _ = line)
  clear_value line
  rw [← hp] at hraw
  obtain ⟨_, _, _, hdata, hcheck, _⟩ := hs
  refine ⟨_, congrArg Host.Outcome.next hscrub, State.withScrub_scrub .., ?_, ?_, ?_⟩
  · intro hc
    rw [readLine_of_clean hraw _ hc, State.withScrub_data, State.withScrub_check, State.withScrub_fwc]
    obtain ⟨hd, hk, _, hfwc⟩ := s.countEcc_memory (pkgOf (line * 64)) 0 0 0
    exact ⟨hd, hk, hfwc⟩
  · intro w j e hw hj hc
    rw [readLine_of_corrected hraw _ hw hj hc, State.withScrub_data, State.withScrub_check]
    obtain ⟨hd, hk, _⟩ := s.countEcc_memory (pkgOf (line * 64)) 1 0 0
    exact ⟨fun a => by rw [State.get_data_fixWord (by rwa [hd]), hd], fun a => by rw [State.get_check_fixWord (by rwa [hk]), hk]⟩
  · intro w hw hu hc
    obtain ⟨hd, hk, _⟩ := s.countEcc_memory (pkgOf (line * 64)) 0 0 1
    simp only [readLine_of_uncorrectable hraw _ hw hu hc, State.withScrub_data, State.withScrub_cwCheck, State.event_drm, State.event_cwCheck,
      State.poisonLine_data]
    refine ⟨hd, fun v hv => ?_⟩
    rw [State.cwCheck_poisonLine (by rwa [hk]) hv, State.poisonOf, State.cwData_of_data hd]

end Sys2Proof.Proofs
end

section
/-! PROOFS. The owner digest in use, and the digest an image's key is held against (R454, R492, R493). -/

namespace Sys2Proof.Machine

open Sys2Proof.Safety

/-! ### The owner digest in use (R492, R493) -/

/-- The longest start of the numbers that meets a test, where the test holds up to a number and fails there. -/
theorem takeWhile_range {p : Nat → Bool} {n m : Nat} (hm : m ≤ n) (hp : ∀ j < m, p j = true) (hn : m < n → p m = false) :
    (List.range n).takeWhile p = List.range m := by
  obtain ⟨d, rfl⟩ := Nat.exists_eq_add_of_le hm
  rw [List.range_add, List.takeWhile_append_of_pos fun j hj => hp j (List.mem_range.mp hj)]
  cases d with
  | zero => simp
  | succ d => simp [List.range_succ_eq_map, hn (by omega)]

/-- With the slots up to one in use, the owners are theirs and the digest in use is the last one's. -/
theorem readFuses_owners {s : State} {k : Nat} (hk : k < 5) (hused : ∀ j, j < 5 → (s.fuseField (408 + 512 * j) 512 ≠ 0 ↔ j ≤ k)) :
    s.readFuses.sec.owners = (List.range (k + 1)).map fun j => toLe 64 (s.fuseField (408 + 512 * j) 512) := by
  have hslots : (List.range 5).takeWhile ((fun d => d != 0) ∘ fun j => s.fuseField (408 + 512 * j) 512) = List.range (k + 1) := by
    refine takeWhile_range hk (fun j hj => ?_) fun h5 => ?_
    · simpa using (hused j (by omega)).mpr (by omega)
    · have h0 := (hused (k + 1) h5).not.mpr (by omega)
      simpa using h0
  simp only [State.readFuses, List.takeWhile_map, hslots, List.map_map]
  rfl

theorem fuseRead_reads (fuses : List Nat) {s : State} (hp : s.powered = true) (hm : s.boot.mode = .bringUp) (hf : s.boot.ph.fuses = false) :
    ∃ u : State, (fuseRead fuses s).sec = u.readFuses.sec ∧ u.sec.fuses = (fuseRead fuses s).sec.fuses := by
  unfold fuseRead
  rw [if_neg (by simp [hp, hm, hf])]
  exact ⟨_, rfl, rfl⟩

/-! ### The image (R454) -/

/-- An image is good exactly where it passes its checks. -/
theorem firmwareImageVerify_imageOk (sig : Bool) {s : State} (ht : s.testing = true) (hf : s.boot.ph.filled = true) (hi : s.boot.ph.image = false)
    (ho : s.sec.imageOk = false) : (firmwareImageVerify sig s).sec.imageOk = s.imageChecks s.imageHeader sig := by
  unfold firmwareImageVerify
  rw [if_neg (by simp [ht, hf, hi])]
  dsimp only
  cases hok : s.imageChecks s.imageHeader sig with
  | true => rfl
  | false =>
    rw [if_neg Bool.false_ne_true]
    split
    · exact ho
    · exact ho

/-- With the other checks passed, the digest of the signer decides. -/
theorem imageChecks_iff {s : State} {h : Bytes} (hmagic : field h 0 4 = 0x5746424E) (hversion : field h 4 4 = 1) (hlo : 4096 ≤ field h 8 4)
    (hhi : field h 8 4 ≤ 33546240) (hdigest : slice h 32 64 = sha3_512 (s.cfgBytes 8192 (field h 8 4))) (hsec : s.sec.secFused ≤ field h 12 4) :
    s.imageChecks h true = true ↔ s.signerDigest (field h 24 1) = some (sha3_512 (slice h 96 2592)) := by
  simp [State.imageChecks, within, hmagic, hversion, hlo, hhi, hdigest, hsec]

theorem signerDigest_owner {s : State} {d : Bytes} : s.signerDigest 1 = some d ↔ s.sec.owners ≠ [] ∧ d = s.ownerDigest := by
  show s.sec.owners.getLast? = some d ↔ _
  unfold State.ownerDigest
  cases ho : s.sec.owners.getLast? with
  | none => simp [List.getLast?_eq_none_iff.mp ho]
  | some e =>
    have hne : s.sec.owners ≠ [] := fun h => by simp [h] at ho
    simp [hne, eq_comm]

end Sys2Proof.Machine

namespace Sys2Proof.Proofs

open Sys2Proof.Machine Sys2Proof.Safety

/-- Settles O53: the last of the slots in use is the digest's, and of an image's checks the signer's digest is the one left open. -/
theorem imagesVerifyAgainstTheirSigner : Obligations.ImagesVerifyAgainstTheirSigner := by
  refine ⟨fun fuses s hp hm hf => ⟨_, rfl, fun k hk hused => ?_⟩, ?_⟩
  · obtain ⟨u, hsec, hfuses⟩ := fuseRead_reads fuses hp hm hf
    have hfield : ∀ lo n, (fuseRead fuses s).fuseField lo n = u.fuseField lo n := fun lo n => by rw [State.fuseField, State.fuseField, hfuses]
    simp only [hfield, State.ownerDigest, hsec] at hused ⊢
    rw [readFuses_owners hk hused]
    simp [List.getLast?_map, List.range_succ]
  · intro s ht hf hi ho h n hmagic hversion hlo hhi hdigest hsec
    refine ⟨_, rfl, ?_⟩
    have hok := firmwareImageVerify_imageOk true ht hf hi ho
    have hiff := imageChecks_iff hmagic hversion hlo hhi hdigest hsec
    refine ⟨fun h1 => ?_, fun h0 => ?_⟩
    · rw [hok, hiff, h1, signerDigest_owner]
    · rw [hok, hiff, h0]
      exact Option.some_inj.trans eq_comm

end Sys2Proof.Proofs
end

section
/-! PROOFS. The runs of a session: one in progress, the others behind it in order of arrival (R158, R163, R179, R416). -/

namespace Sys2Proof.Machine

open Sys2Proof.Safety

variable {s : State} {sess : Nat} {x : Session}

/-! ### The run that starts (R163, R179) -/

/-- A session runs a command's run: as it was begun, bound or not, its queue the one given. -/
def Session.Runs (y : Session) (queued : List (Tag × Bytes × Route)) (r : Run) : Prop :=
  y.queued = queued ∧ ∃ q, y.run = some q ∧ q.tag = r.tag ∧ q.block = r.block ∧ q.handle = r.handle ∧ q.done = r.done

/-- Whether it is bound from the cache or waits for the binder, the run is the session's run and nothing is completed. -/
theorem State.startRun_runs (hx : s.sess? sess = some x) (r : Run) :
    (s.startRun sess r).que = s.que ∧ ∃ y, (s.startRun sess r).sess? sess = some y ∧ y.Runs x.queued r := by
  have hu : (s.updSess sess fun x => { x with run := some r }).sess? sess = some { x with run := some r } := State.sess?_updSess hx fun _ => rfl
  have hque : (s.updSess sess fun x => { x with run := some r }).que = s.que := rfl
  unfold State.startRun
  generalize (s.updSess sess fun x => { x with run := some r }) = u at hu hque
  dsimp only
  rw [hu]
  dsimp only
  have hbind : ∀ again, (u.addBind sess .route again).que = s.que ∧ ∃ y, (u.addBind sess .route again).sess? sess = some y ∧ y.Runs x.queued r :=
    fun again => ⟨hque, _, hu, rfl, r, rfl, rfl, rfl, rfl, rfl⟩
  split
  · exact hbind _
  · split
    · exact hbind _
    · next slots _ =>
      split
      · have hslots : ({ u with ses := { u.ses with slots := slots } } : State).sess? sess = some { x with run := some r } := hu
        exact ⟨hque, _, (State.sess?_congr rfl sess).trans (State.sess?_updSess hslots fun _ => rfl), rfl, _, rfl, rfl, rfl, rfl, rfl⟩
      · exact hbind _

/-! ### The next run (R416) -/

theorem State.nextRun_of_run (hx : s.sess? sess = some x) (hr : x.run.isSome = true) : s.nextRun sess = s := by
  obtain ⟨r, hr⟩ := Option.isSome_iff_exists.mp hr
  simp [State.nextRun, hx, hr]

theorem State.nextRun_of_none_waiting (hx : s.sess? sess = some x) (hq : x.queued = []) : s.nextRun sess = s := by
  simp [State.nextRun, hx, hq]

/-- With no run in progress the RUN that arrived first starts, and the others wait on. -/
theorem State.nextRun_runs (hx : s.sess? sess = some x) (hr : x.run = none) {tag : Tag} {block : Bytes} {route : Route}
    {rest : List (Tag × Bytes × Route)} (hq : x.queued = (tag, block, route) :: rest) :
    (s.nextRun sess).que = s.que ∧ ∃ y, (s.nextRun sess).sess? sess = some y ∧ y.Runs rest (newRun tag block route) := by
  have hhandle : ∀ live : Option Route, live = x.routes.find? (fun y => y.handle == route.handle && y.loads == route.loads) →
      (live.getD route).handle = route.handle := by
    intro live hlive
    cases live with
    | none => rfl
    | some z =>
      have hz := List.find?_some hlive.symm
      simp only [Bool.and_eq_true, beq_iff_eq] at hz
      exact hz.1
  have hu : (s.updSess sess fun x => { x with queued := rest }).sess? sess = some { x with queued := rest } := State.sess?_updSess hx fun _ => rfl
  rw [State.nextRun, hx]
  simp only [hr, hq]
  obtain ⟨hque, y, hy, hqueued, q, hq, htag, hblock, hqh, hdone⟩ := State.startRun_runs hu
    (newRun tag block ((x.routes.find? fun y => y.handle == route.handle && y.loads == route.loads).getD route))
  exact ⟨hque, y, hy, hqueued, q, hq, htag, hblock, hqh.trans (hhandle _ rfl), hdone⟩

/-! ### The end of a run (R160, R416) -/

/-- A run that is dropped is the session's run no longer, and the next starts. -/
theorem State.dropRun_next {r : Run} (hx : s.sess? sess = some x) (hr : x.run = some r) :
    ∃ (u : State) (z : Session), s.dropRun sess = u.nextRun sess ∧ u.sess? sess = some z ∧ z.run = none ∧ z.queued = x.queued := by
  have hfreed : (if r.tt.isSome = true then s.freeSlots (scanPredicates r.route.image) else s).sess? sess = some x := by
    split <;> exact hx
  have hrun : s.run? sess = some (x, r) := by rw [State.run?, hx]; dsimp only; rw [hr]
  rw [State.dropRun, hrun]
  exact ⟨_, _, rfl, State.sess?_updSess hfreed fun _ => rfl, rfl, rfl⟩

theorem State.hold_sess? (hx : s.sess? sess = some x) (k : Held) : ∃ held, (s.hold sess k).sess? sess = some { x with held := held } := by
  refine ⟨x.held ++ [k], ?_⟩
  have hu := State.sess?_updSess hx (f := fun x => { x with held := x.held ++ [k] }) fun _ => rfl
  unfold State.hold
  dsimp only
  split <;> exact hu

/-- A run whose passes are done is dropped from a session that is otherwise as it was. -/
theorem runComplete_drops {r : Run} (hp : s.powered = true) (hx : s.sess? sess = some x) (hr : x.run = some r) (hf : r.fault = 0) (ho : r.nextOp = none)
    (hs : r.staging = []) (hd : r.passes ≤ r.done) :
    ∃ (u : State) (z : Session), runComplete sess s = u.nextRun sess ∧ u.sess? sess = some z ∧ z.run = none ∧ z.queued = x.queued := by
  have hrun : s.run? sess = some (x, r) := by rw [State.run?, hx]; dsimp only; rw [hr]
  obtain ⟨held, hheld⟩ := State.hold_sess? hx ⟨1, s.stamp, 0, r.flags % 8, statusRecord s.stamp r⟩
  rw [runComplete_eq hp hrun hf ho hs hd]
  dsimp only
  generalize s.hold sess _ = u at hheld
  have hended : ((if s.stg.loaded = true then u.nextCycle else u).succeed r.tag r.done 0 []).sess? sess = some { x with held := held } := by
    refine (State.sess?_congr ?_ sess).trans hheld
    rw [State.succeed, State.completeWith_ses]
    split <;> rfl
  exact State.dropRun_next (x := { x with held := held }) hended hr

end Sys2Proof.Machine

namespace Sys2Proof.Proofs

open Sys2Proof.Machine Sys2Proof.Safety

/-- Settles O52: a RUN joins the queue, and the queue's first starts where none is in progress. -/
theorem aSessionRunsOneRunAtATime : Obligations.ASessionRunsOneRunAtATime := by
  refine ⟨fun tag c sess handle x block s h hb => ⟨fun hr => congrArg Host.Outcome.next (run_of_no_image h hb hr), fun route hroute => ?_⟩,
    fun sess x r s hp hx hr hf ho hs hd => ?_⟩
  · have hqueued := State.sess?_updSess (State.sess?_of_openSess h.2)
      (f := fun x => { x with queued := x.queued ++ [(tag, block.take (32 + 32 * runSlotCount block), route)] }) fun _ => rfl
    have hrun := run_of_image h hb hroute
    refine ⟨fun hr => ?_, fun hr hq => ?_⟩
    · rw [State.nextRun_of_run hqueued hr] at hrun
      exact ⟨_, congrArg Host.Outcome.next hrun, rfl, rfl, hqueued⟩
    · obtain ⟨hque, y, hy, hempty, q, hq, htag, hblock, _, hdone⟩ := State.nextRun_runs hqueued hr (congrArg (· ++ _) hq)
      exact ⟨_, y, q, congrArg Host.Outcome.next hrun, congrArg Que.done hque, hy, hempty, hq, htag, hblock, hdone⟩
  · obtain ⟨u, z, hnext, hz, hnone, hqueued⟩ := runComplete_drops hp hx hr hf ho hs hd
    refine ⟨fun tag block route rest hq => ?_, fun hq => ?_⟩
    · obtain ⟨_, y, hy, hrest, q, hq, htag, hblock, hhandle, hdone⟩ := State.nextRun_runs hz hnone (hqueued.trans hq)
      exact ⟨_, y, q, congrArg Host.Outcome.next hnext, hy, hrest, hq, htag, hblock, hhandle, hdone⟩
    · rw [State.nextRun_of_none_waiting hz (hqueued.trans hq)] at hnext
      exact ⟨_, z, congrArg Host.Outcome.next hnext, hz, hqueued.trans hq, hnone⟩

end Sys2Proof.Proofs
end

section
/-! PROOFS. The port: link training, the protocols it answers, its connections and queue pairs (R384, R385, R387 to R390, R447, R452). -/

namespace Sys2Proof.Machine

open Sys2Proof.Safety

variable {s : State}

/-! ### The link (R384, R385, R388, R447) -/

/-- A width's lanes may lie from a lane on. -/
def lanePlace (w b : Nat) : Bool := decide (1 ≤ w) && decide (w ≤ 3) && decide (b + 2 ^ w ≤ 8) && decide (b % 2 ^ w = 0)

/-- All lanes of a width from a lane on are among those given. -/
def lanesIn (l : List Nat) (w b : Nat) : Bool := (List.range (2 ^ w)).all fun k => l.contains (b + k)

/-- The first choice of a width is its lowest place whose lanes all lock. -/
theorem widthLanes_eq (w : Nat) (l : List Nat) : widthLanes w l = (List.range 8).find? fun b => decide (lanePlace w b = true ∧ lanesIn l w b = true) := by
  rw [← List.find?_filter]
  match w with
  | 0 => rfl
  | 1 => rfl
  | 2 => rfl
  | 3 =>
    rw [show (List.range 8).filter (lanePlace 3) = [0] by decide, List.find?_singleton]
    rfl
  | w + 4 =>
    rw [List.filter_eq_nil_iff.mpr (by simp [lanePlace])]
    rfl

/-- The lanes that lock and are not out. -/
def State.lanesUp (s : State) (locked : List Nat) : List Nat := (List.range 8).filter fun k => locked.contains k && !s.port.lanesOut.contains k

theorem State.mem_lanesUp {locked : List Nat} {k : Nat} : k ∈ s.lanesUp locked ↔ k < 8 ∧ k ∈ locked ∧ k ∉ s.port.lanesOut := by
  simp [State.lanesUp]

theorem lanePlace_iff {w b : Nat} : lanePlace w b = true ↔ 1 ≤ w ∧ w ≤ 3 ∧ b + 2 ^ w ≤ 8 ∧ b % 2 ^ w = 0 := by
  simp [lanePlace, and_assoc]

theorem State.lanesIn_iff {locked : List Nat} {w b : Nat} (hb : lanePlace w b = true) :
    lanesIn (s.lanesUp locked) w b = true ↔ ∀ k, b ≤ k → k < b + 2 ^ w → k ∈ locked ∧ k ∉ s.port.lanesOut := by
  obtain ⟨_, _, h8, _⟩ := lanePlace_iff.mp hb
  simp only [lanesIn, List.all_eq_true, List.mem_range, List.contains_iff_mem, State.mem_lanesUp]
  refine ⟨fun h k hbk hk => ?_, fun h k hk => ⟨by omega, h (b + k) (by omega) (by omega)⟩⟩
  have hd := (h (k - b) (by omega)).2
  rwa [Nat.add_sub_cancel' hbk] at hd

/-- The lanes that have locked are noted. -/
def State.noteLanes (s : State) (locked : List Nat) : State := { s with port := { s.port with trained := s.lanesUp locked } }

theorem linkTrain_of_lanes {locked : List Nat} {b : Nat} (ht : s.training = true) (hw : widthLanes s.port.trying (s.lanesUp locked) = some b) :
    linkTrain locked s = (let u := (s.noteLanes locked).setWidth s.port.trying b; { u with port := { u.port with passDone := true } }) := by
  unfold linkTrain
  rw [if_neg (by simp [ht])]
  dsimp only
  rw [← State.lanesUp, hw]
  rfl

theorem linkTrain_of_no_lanes {locked : List Nat} (ht : s.training = true) (hw : widthLanes s.port.trying (s.lanesUp locked) = none) :
    linkTrain locked s = s.noteLanes locked := by
  unfold linkTrain
  rw [if_neg (by simp [ht])]
  dsimp only
  rw [← State.lanesUp, hw]
  rfl

theorem State.width_of_training (ht : s.training = true) : s.port.width = 0 := by
  simp only [State.training, Bool.and_eq_true, beq_iff_eq] at ht
  exact ht.2

theorem linkWidthTimeout_tries (ht : s.training = true) :
    (linkWidthTimeout s).port.width = 0 ∧ (linkWidthTimeout s).port.trying = if s.port.trying ≤ 1 then 3 else s.port.trying - 1 := by
  have hw := State.width_of_training ht
  unfold linkWidthTimeout
  rw [if_neg (by simp [ht])]
  split <;> exact ⟨hw, rfl⟩

theorem linkLoss_of_up (hup : s.portUp = true) : linkLoss s = s.linkDown := if_pos hup

theorem State.portServes_of_no_width (hw : s.port.width = 0) : s.portServes = false := by simp [State.portServes, hw]

theorem State.training_of_not_plugged (h : s.port.plugged = false) : s.training = false := by simp [State.training, h]

theorem State.training_of_not_powered (h : s.port.plugPowered = false) : s.training = false := by simp [State.training, h]

theorem pluggableRemove_port (s : State) : (pluggableRemove s).port.plugged = false ∧ (pluggableRemove s).port.width = 0 := by
  unfold pluggableRemove
  dsimp only
  split
  · next hw => exact ⟨rfl, hw⟩
  · exact ⟨rfl, rfl⟩

theorem pluggableInsert_of_empty (watts : Nat) (hp : s.port.plugged = false) :
    pluggableInsert watts s = { s with port := { s.port with plugged := true, plugPowered := decide (watts ≤ 15), trying := 3 } } :=
  if_neg (by simp [hp])

/-! ### What a connection's end leaves (R389, R390, R395) -/

@[simp] theorem State.endScan_port (s : State) (st : Status) (dw0 : Nat) (p : Session × Scan) : (s.endScan st dw0 p).port = s.port := by
  unfold State.endScan
  simp only [State.updSess_port, State.completeWith_port]
  split <;> rfl

theorem State.orphan_port (s : State) (x : Session) : (s.orphan x).port = s.port := by
  unfold State.orphan
  split
  · rfl
  · have hscans := foldl_view (view := State.port) (fun u c => State.endScan_port u .aborted 1 (x, c)) (x.scans.filter fun c => !c.bound) s
    rw [State.sessEvent, State.event_port, State.updSess_port]
    split <;> exact hscans

theorem State.endCtrl_port (s : State) (id : Nat) : (s.endCtrl id).port = s.port := by
  unfold State.endCtrl
  split
  · rfl
  · exact foldl_view (view := State.port) (fun u x => (State.orphan_port _ x).trans (State.updSess_port ..)) _ _

theorem State.endCtrl_ctrls (s : State) (id : Nat) : (s.endCtrl id).que.ctrls = s.que.ctrls.filter fun k => k.id != id := by
  cases hc : s.ctrl? id with
  | none =>
    rw [State.endCtrl, hc]
    exact (List.filter_eq_self.mpr fun k hk => by simpa using List.find?_eq_none.mp hc k hk).symm
  | some c => exact (State.endCtrl_ended hc).1

theorem State.foldl_endCtrl_ctrls (ids : List Nat) (s : State) : ∀ k ∈ (ids.foldl State.endCtrl s).que.ctrls, k ∈ s.que.ctrls ∧ k.id ∉ ids := by
  induction ids generalizing s with
  | nil => exact fun k hk => ⟨hk, List.not_mem_nil⟩
  | cons id ids ih =>
    intro k hk
    obtain ⟨hmem, hids⟩ := ih (s.endCtrl id) k hk
    rw [State.endCtrl_ctrls, List.mem_filter] at hmem
    exact ⟨hmem.1, by simpa [hids] using hmem.2⟩

theorem State.endConn_port (s : State) (conn : Nat) :
    (s.endConn conn).port = { s.port with conns := s.port.conns.erase conn, qps := s.port.qps.filter fun q => q.1 != conn } :=
  foldl_view (view := State.port) State.endCtrl_port _ _

/-- No controller is left whose admin queue ran over the connection. -/
theorem State.endConn_ctrls (s : State) (conn : Nat) : ∀ k ∈ (s.endConn conn).que.ctrls, k.conn ≠ conn := by
  intro k hk hconn
  obtain ⟨hmem, hids⟩ := State.foldl_endCtrl_ctrls _ _ k hk
  exact hids (List.mem_map_of_mem (List.mem_filter.mpr ⟨hmem, by simpa using hconn⟩))

/-! ### Frames, connections and queue pairs (R387, R389, R390, R452) -/

theorem State.ownV4_iff {a : Nat} : s.ownV4 a = true ↔ a = s.port.ipv4 ∧ a ≠ 0 := by simp [State.ownV4]

theorem State.ownV6_iff {a : Nat} : s.ownV6 a = true ↔ a = linkLocal s.port.mac ∨ (a = s.port.ipv6 ∧ a ≠ 0) := by simp [State.ownV6]

theorem State.powered_of_portUp (hup : s.portUp = true) : s.powered = true := (Bool.and_eq_true_iff.mp hup).1

section

variable (hup : s.portUp = true)
include hup

theorem arpRequest_eq (a b : Nat) : arpRequest a b s = if a = s.port.ipv4 ∧ a ≠ 0 then s.send (.arpReply a b) else s := by
  simp only [arpRequest, hup, Bool.true_and, State.ownV4_iff]

theorem neighbourDiscovery_eq (a b : Nat) :
    neighbourDiscovery a b s = if a = linkLocal s.port.mac ∨ (a = s.port.ipv6 ∧ a ≠ 0) then s.send (.ndReply a b) else s := by
  simp only [neighbourDiscovery, hup, Bool.true_and, State.ownV6_iff]

theorem icmpEcho_eq (v6 : Bool) (a b : Nat) (p : Bytes) :
    icmpEcho v6 a b p s = if (if v6 then s.ownV6 a else s.ownV4 a) then s.send (.echoReply v6 b p) else s := by
  simp only [icmpEcho, hup, Bool.true_and]

theorem icreq_eq {conn : Nat} (hconn : conn ∉ s.port.conns) (port : Nat) (h d : Bool) : icreq conn port h d s =
    if s.serving = false ∨ (port ≠ 4420 ∧ port ≠ 8009) then s.send (.tcpReset conn)
    else if h = false ∨ d = true then s.send (.termReq conn 6)
    else { s with port := { s.port with conns := s.port.conns ++ [conn] } }.send (.icResp conn) := by
  rw [icreq, if_neg (by simp [hup, hconn])]
  simp [fesUnsupported]

omit hup in
theorem tcpPduReceive_of_good (conn n : Nat) : tcpPduReceive conn true n s = s := if_pos (by simp)

theorem tcpPduReceive_of_bad {conn : Nat} (hconn : conn ∈ s.port.conns) (n : Nat) :
    tcpPduReceive conn false n s = (s.send (.termReq conn 3)).endConn conn := if_neg (by simp [hup, hconn])

theorem rdmaConnectRequest_eq {qp : Nat} (hqp : ∀ q ∈ s.port.qps, q.1 ≠ qp) (port : Nat) : rdmaConnectRequest qp port s =
    if s.serving = false ∨ port ≠ 4420 then s.send (.rdmaReject qp)
    else { s with port := { s.port with qps := s.port.qps ++ [(qp, 256, 0)] } }.send (.rdmaAccept qp) := by
  rw [rdmaConnectRequest, if_neg (by simp only [hup, Bool.not_true, Bool.false_or, List.any_eq_true, beq_iff_eq]; exact fun ⟨q, hq, he⟩ => hqp q hq he)]
  simp

theorem pfcPauseFrame_eq (p : Nat) (on : Bool) : pfcPauseFrame p on s = if p = s.port.pfcPriority
    then { s with port := { s.port with paused := if on then insertNat p s.port.paused else s.port.paused.erase p } } else s := by
  simp [pfcPauseFrame, hup]

section

variable {qp rate n : Nat} (hq : (s.port.qps.find? fun q => q.1 == qp) = some (qp, rate, n))
include hq

omit hup in
theorem any_qp_of_find? : (s.port.qps.any fun q => q.1 == qp) = true :=
  List.any_eq_true.mpr ⟨_, List.mem_of_find?_eq_some hq, by simp⟩

theorem ecnMarkedPacket_eq : ecnMarkedPacket qp s = s.send (.cnp qp) := if_pos (by simp [hup, any_qp_of_find? hq])

omit hup hq in
/-- A queue pair whose number stands is found changed. -/
theorem find?_updateIf_qp {qps : List (Nat × Nat × Nat)} {q : Nat × Nat × Nat} (hq : (qps.find? fun q => q.1 == qp) = some q)
    {f : Nat × Nat × Nat → Nat × Nat × Nat} (hf : ∀ q, q.1 = qp → (f q).1 = qp) :
    ((updateIf (fun q => q.1 == qp) f qps).find? fun q => q.1 == qp) = some (f q) := by
  have hsame : ((fun z : Nat × Nat × Nat => z.1 == qp) ∘ fun z => if z.1 == qp then f z else z) = fun z => z.1 == qp := by
    funext z
    by_cases hz : z.1 = qp <;> simp [hz, hf]
  rw [updateIf, List.find?_map, hsame, hq]
  exact congrArg some (if_pos (List.find?_some hq))

omit hup hq in
theorem lowered_rate (rate m : Nat) : (if rate ≤ 1 then rate else 1 + m % (rate - 1)) ≤ rate ∧
    (1 < rate → 1 ≤ (if rate ≤ 1 then rate else 1 + m % (rate - 1)) ∧ (if rate ≤ 1 then rate else 1 + m % (rate - 1)) < rate) := by
  split
  · omega
  · have hmod := Nat.mod_lt m (show 0 < rate - 1 by omega)
    omega

/-- A congestion notification lowers the rate of its queue pair by a free amount, to 1 at the least (R390). -/
theorem cnpReceived_lowers :
    ∃ r, ((cnpReceived qp s).port.qps.find? fun q => q.1 == qp) = some (qp, r, n) ∧ r ≤ rate ∧ (1 < rate → 1 ≤ r ∧ r < rate) := by
  have hdrawn := find?_updateIf_qp hq (f := fun q => (q.1, if q.2.1 ≤ 1 then q.2.1 else 1 + Config.freeNat s.freeCtr % (q.2.1 - 1), q.2.2))
    fun _ h => h
  rw [cnpReceived, if_neg (by simp [hup, any_qp_of_find? hq])]
  exact ⟨_, hdrawn, lowered_rate rate _⟩

theorem rdmaAckTimeout_resends (hn : n < 7) : rdmaAckTimeout qp s =
    ({ s with port := { s.port with qps := updateIf (fun q => q.1 == qp) (fun _ => (qp, rate, n + 1)) s.port.qps } } : State).send (.rdmaResend qp) := by
  simp [rdmaAckTimeout, hq, State.powered_of_portUp hup, hn]

theorem rdmaAckTimeout_ends (hn : 7 ≤ n) : rdmaAckTimeout qp s = s.endConn qp := by
  simp [rdmaAckTimeout, hq, State.powered_of_portUp hup, hn]

end

end

end Sys2Proof.Machine

namespace Sys2Proof.Proofs

open Sys2Proof.Machine Sys2Proof.Safety

/-- Settles O54: each command by the equation of its case. -/
theorem thePortTrainsAndAnswers : Obligations.ThePortTrainsAndAnswers := by
  refine ⟨?_, fun s hup => ?_, fun s => ?_, fun watts s hp => ?_, fun s hup => ?_⟩
  · intro locked s ht lanes place
    have hgood : ∀ b, (lanePlace s.port.trying b = true ∧ lanesIn (s.lanesUp locked) s.port.trying b = true) ↔ place b ∧ lanes b := fun b =>
      ⟨fun ⟨hb, hl⟩ => ⟨lanePlace_iff.mp hb, (State.lanesIn_iff hb).mp hl⟩,
        fun ⟨hb, hl⟩ => ⟨lanePlace_iff.mpr hb, (State.lanesIn_iff (lanePlace_iff.mpr hb)).mpr hl⟩⟩
    refine ⟨fun b hb hl hmin => ?_, fun hnone => ?_, ⟨_, rfl, linkWidthTimeout_tries ht⟩⟩
    · have hw : widthLanes s.port.trying (s.lanesUp locked) = some b := by
        rw [widthLanes_eq, List.find?_range_eq_some]
        simp only [hgood, decide_eq_true_eq, List.mem_range, Bool.not_eq_true', decide_eq_false_iff_not, not_and]
        have hpos := Nat.two_pow_pos s.port.trying
        exact ⟨⟨hb, hl⟩, by have := hb.2.2.1; omega, hmin⟩
      exact ⟨_, congrArg Host.Outcome.next (linkTrain_of_lanes ht hw), rfl, rfl, rfl, rfl, rfl, fun k => State.mem_lanesUp⟩
    · have hw : widthLanes s.port.trying (s.lanesUp locked) = none := by
        rw [widthLanes_eq, List.find?_range_eq_none]
        simp only [hgood, Bool.not_eq_true', decide_eq_false_iff_not, not_and]
        exact fun b _ => hnone b
      exact ⟨_, congrArg Host.Outcome.next (linkTrain_of_no_lanes ht hw), State.width_of_training ht, rfl⟩
  · exact ⟨_, congrArg Host.Outcome.next (linkLoss_of_up hup), rfl, rfl, rfl, rfl, State.portServes_of_no_width rfl⟩
  · obtain ⟨hplugged, hw⟩ := pluggableRemove_port s
    exact ⟨_, rfl, hplugged, hw, State.training_of_not_plugged hplugged⟩
  · exact ⟨_, congrArg Host.Outcome.next (pluggableInsert_of_empty watts hp), rfl, decide_eq_true_iff, rfl,
      fun h15 => State.training_of_not_powered (decide_eq_false (by omega))⟩
  · refine ⟨fun a b => congrArg Host.Outcome.next (arpRequest_eq hup a b), fun a b => congrArg Host.Outcome.next (neighbourDiscovery_eq hup a b),
      fun v6 a b p => congrArg Host.Outcome.next (icmpEcho_eq hup v6 a b p), fun n => congrArg Host.Outcome.next (if_pos hup),
      fun conn port h d hconn => congrArg Host.Outcome.next (icreq_eq hup hconn port h d), fun conn ok n hconn => ?_,
      fun qp port hqp => congrArg Host.Outcome.next (rdmaConnectRequest_eq hup hqp port), fun qp rate n hq => ⟨?_, fun hn => ?_, fun hn => ?_, ?_⟩,
      fun p on => congrArg Host.Outcome.next (pfcPauseFrame_eq hup p on)⟩
    · cases ok with
      | true => exact ⟨_, congrArg Host.Outcome.next (tcpPduReceive_of_good conn n), fun _ => rfl, nofun⟩
      | false =>
        refine ⟨_, congrArg Host.Outcome.next (tcpPduReceive_of_bad hup hconn n), nofun, fun _ => ⟨?_, ?_, State.endConn_ctrls _ _⟩⟩
        · rw [State.endConn_port]; rfl
        · rw [State.endConn_port]; rfl
    · obtain ⟨r, hr⟩ := cnpReceived_lowers hup hq
      exact ⟨_, r, rfl, hr⟩
    · exact ⟨_, congrArg Host.Outcome.next (rdmaAckTimeout_resends hup hq hn), find?_updateIf_qp hq fun _ _ => rfl, rfl⟩
    · refine ⟨_, congrArg Host.Outcome.next (rdmaAckTimeout_ends hup hq hn), ?_, State.endConn_ctrls _ _⟩
      rw [State.endConn_port]
      intro q hmem
      simpa using (List.mem_filter.mp hmem).2
    · exact congrArg Host.Outcome.next (ecnMarkedPacket_eq hup hq)

end Sys2Proof.Proofs
end

section
/-! PROOFS. Upkeep of the media: copies and their verify, erases, the verify walks, patrol and journal marks (R352 to R365). -/

namespace Sys2Proof.Machine

open Sys2Proof.Safety

variable {s : State}

theorem State.flashClock_of_upkeep (h : s.upkeep = true) : s.flashClock = true := by
  simp only [State.upkeep, Bool.and_eq_true] at h
  exact h.1.1

/-! ### Copies (R352 to R354) -/

theorem gcCopy_eq (h : s.upkeep = true) (ns unit : Nat) : gcCopy ns unit s =
    if entMapped (s.entry ns unit) = true ∧ s.victim = some (entSb (s.entry ns unit)) ∧ s.freeBytes < reserveBytes + 128 * superBytes
    then (s.queueCopy (if isStolrak (s.sb (entSb (s.entry ns unit))).stream then 9 else 8) ns unit).checkFull else s := by
  simp only [gcCopy, h, Bool.true_and, Bool.and_eq_true, beq_iff_eq, decide_eq_true_eq, and_assoc]

/-- A copy has ended: it is dropped. -/
def State.dropCopy (s : State) (ns unit : Nat) : State :=
  { s with xlt := { s.xlt with copies := s.xlt.copies.filter fun x => !(x.ns == ns && x.unit == unit) } }

section

variable {ns unit : Nat} {k : Copy} {t : BitVec 64} (hf : s.flashClock = true)
  (hk : (s.xlt.copies.find? fun k => k.ns == ns && k.unit == unit) = some k) (ht : k.target = some t) (hr : s.reading (.verify ns unit) = false)
include hf hk ht hr

theorem gcVerify_of_good (hns : (s.word (entAddr t 0)).ns = ns) (hu : (s.word (entAddr t 0)).unit = unit)
    (hd : (s.word (entAddr t 0)).undefined = false) : gcVerify ns unit true s =
      (if s.entry ns unit = k.srcEntry then
        ((s.dropCopy ns unit).setSb (entSb k.srcEntry) { s.sb (entSb k.srcEntry) with
          copyStamp := max (s.sb (entSb k.srcEntry)).copyStamp (s.word (entAddr t 0)).stamp }).setEntry ns unit t
      else s.dropCopy ns unit).verifyDone (entSb k.srcEntry) := by
  rw [gcVerify, hk]
  dsimp only
  rw [ht]
  dsimp only
  rw [if_neg (by simp [hf, hr]), if_pos (by simp [hns, hu, hd])]
  rfl

theorem gcVerify_of_bad : gcVerify ns unit false s = ({ s with
      fla := { s.fla with suspect := if s.fla.retired.contains (entPb t) then s.fla.suspect else insertNat (entPb t) s.fla.suspect }
      xlt := { s.xlt with copies := updateIf (fun x => x.ns == ns && x.unit == unit) (fun x => { x with target := none }) s.xlt.copies } } : State).abandon
        (entSb t) := by
  rw [gcVerify, hk]
  dsimp only
  rw [ht]
  dsimp only
  rw [if_neg (by simp [hf, hr]), if_neg (by simp)]

end

/-! ### Erases of superblocks (R329, R352, R355) -/

theorem State.event_stage (s : State) (code cls source : Nat) (obj : Obj) (detail : Bytes) :
    (s.event code cls source obj detail).stg.stage = s.stg.stage := by
  unfold State.event
  dsimp only
  split
  · show (s.eventAt s.stamp code cls source obj detail).stg.stage = s.stg.stage
    rw [State.eventAt_stg]
  · rw [State.eventAt_stg]

/-- What an erase's issue goes by: the operations of the dies, t_erase and the stage. -/
def State.opsView (s : State) : List DieOp × Nat × Nat := (s.fla.ops, s.fla.tErase, s.stg.stage)

theorem State.retire_opsView (s : State) (pb cause : Nat) : (s.retire pb cause).opsView = s.opsView := by
  unfold State.retire
  split
  · rfl
  · rw [State.opsView, State.event_fla, State.event_stage]
    rfl

theorem State.raiseGens_opsView (s : State) (die block : Nat) (ps : List Nat) : (s.raiseGens die block ps).opsView = s.opsView :=
  foldl_view (view := State.opsView) (fun u q => by
    dsimp only
    split
    · exact State.retire_opsView ..
    · rfl) ps s

/-- An erase issued is the newest of the operations, for t_erase from the present stage on. -/
theorem State.issueErase_opsView (s : State) (die block : Nat) :
    (s.issueErase die block).opsView = (s.fla.ops ++ [⟨die, .erase block (s.planesIn die block), s.stg.stage, s.stg.stage + s.fla.tErase, false⟩],
      s.fla.tErase, s.stg.stage) := by
  have h := s.raiseGens_opsView die block (s.planesIn die block)
  simp only [State.opsView, Prod.mk.injEq] at h
  obtain ⟨hops, hterase, hstage⟩ := h
  simp only [State.issueErase, State.beginOp, State.opsView, hops, hterase, hstage]

/-- Erases issued on dies one after another: one operation on each, in their order. -/
theorem issueErases_ops (block : Nat) (ds : List Nat) (s : State) :
    (ds.foldl (fun s d => s.issueErase d block) s).fla.ops.map (fun o => (o.die, o.ends)) =
      s.fla.ops.map (fun o => (o.die, o.ends)) ++ ds.map fun d => (d, s.stg.stage + s.fla.tErase) := by
  induction ds generalizing s with
  | nil => simp
  | cons d ds ih =>
    have h := s.issueErase_opsView d block
    simp only [State.opsView, Prod.mk.injEq] at h
    obtain ⟨hops, hterase, hstage⟩ := h
    simp [ih, hops, hterase, hstage]

/-- What lets a superblock be erased (R352, R355). -/
def State.Erasable (s : State) (i : Nat) : Prop :=
  (s.sb i).st = .closed ∧ s.sbValid i = 0 ∧ (∀ k ∈ s.xlt.copies, entSb k.srcEntry ≠ i) ∧
    ((s.sb i).copyStamp = 0 ∨ ∃ m ∈ s.xlt.marks, (s.sb i).copyStamp ≤ m.stamp) ∧ s.passNames i = false ∧ i ∉ s.xlt.toVerify ∧
    ∀ d ∈ s.sbDies i, (∀ o ∈ s.fla.ops, o.die ≠ d) ∧ s.dieReserved d s.stg.stage s.fla.tErase = false

theorem superblockErase_erases {i : Nat} (hu : s.upkeep = true) (hi : i < 65536) (h : s.Erasable i) : superblockErase i s =
    (((s.sbDies i).foldl (fun s d => s.issueErase d (sbBlock i)) s).setSb i { s.sb i with st := .erasing }).dropAcc i := by
  obtain ⟨hst, hvalid, hcopies, hcovered, hnames, hverify, hdies⟩ := h
  refine if_pos ?_
  simp only [hu, hi, hst, hvalid, hnames, Bool.and_eq_true, decide_eq_true_eq, beq_self_eq_true, Bool.not_eq_true', Bool.or_eq_true, List.any_eq_true,
    List.any_eq_false, Bool.not_false, List.contains_eq_mem, decide_eq_false_iff_not, and_true, true_and, beq_iff_eq]
  refine ⟨⟨⟨hcopies, hcovered⟩, hverify⟩, fun d hd => ?_⟩
  obtain ⟨hops, hres⟩ := hdies d hd
  simpa [hres] using hops

theorem superblockErase_stays {i : Nat} (h : (s.sb i).st ≠ .closed ∨ s.sbValid i ≠ 0 ∨ i ∈ s.xlt.toVerify ∨ s.passNames i = true) :
    superblockErase i s = s := by
  refine if_neg ?_
  rcases h with h | h | h | h <;> simp [h]

/-! ### Walks (R357, R361, R362) -/

/-- A walk that begins again on each die of a superblock. -/
def State.restartWalks (s : State) (i : Nat) : State :=
  { s with xlt := { s.xlt with walks := (s.sbDies i).foldl (fun t d => Tab.set 0 t (sbWalk d (sbBlock i)) 0) s.xlt.walks } }

/-- With nothing to rewrite and nothing lost, a superblock whose page sets have all been sensed leaves the list of those to verify. -/
theorem superblockCloseVerify_leaves {i : Nat} (hf : s.flashClock = true) (hi : i ∈ s.xlt.toVerify) (hs : ∀ p ∈ s.xlt.sets, sbOf p.die p.block ≠ i)
    (hw : s.sbWalked i = true) : superblockCloseVerify i [] [] s =
      (let u := s.restartWalks i
       ({ u with xlt := { u.xlt with toVerify := u.xlt.toVerify.erase i } } : State).verifyDone i) := by
  refine if_pos ?_
  simpa [hf, hi, hw] using hs

theorem walkOn_senses {key die block : Nat} {planes : List Nat} (hp : planes ≠ []) (hl : Tab.get 0 s.xlt.walks key < s.walkLast die block planes)
    (ho : ∀ o ∈ s.fla.ops, o.die ≠ die) : s.walkOn key die block planes =
      ({ s with xlt := { s.xlt with walks := Tab.set 0 s.xlt.walks key (Tab.get 0 s.xlt.walks key + 1) } } : State).queueSense die block
        (Tab.get 0 s.xlt.walks key) planes := by
  refine if_neg ?_
  simpa [hp, hl] using ho

theorem State.countSenses_reads (s : State) (pb n : Nat) :
    (s.countSenses pb n).fla.reads = Tab.set 0 s.fla.reads pb (Tab.get 0 s.fla.reads pb + n) := by
  rw [State.countSenses_fla]

/-- A block past 200,000 reads heads the patrol queue (R362). -/
theorem State.countSenses_patrol (s : State) {pb n : Nat} (h : 200000 < Tab.get 0 s.fla.reads pb + n) :
    (s.countSenses pb n).xlt.patrolQueue = pb :: s.xlt.patrolQueue.filter fun x => x != pb := by
  rw [State.countSenses, if_pos h]
  rfl

theorem State.countSenses_below (s : State) {pb n : Nat} (h : Tab.get 0 s.fla.reads pb + n ≤ 200000) : (s.countSenses pb n).xlt = s.xlt := by
  rw [State.countSenses, if_neg (Nat.not_lt.mpr h)]

/-! ### Patrol (R361, R363) -/

/-- Patrol goes on from a block that it has judged. -/
def State.patrolled (s : State) (pb : Nat) : State :=
  { s with xlt := { s.xlt with
    walks := Tab.set 0 s.xlt.walks (pbWalk pb) 0
    patrolQueue := s.xlt.patrolQueue.filter fun x => x != pb
    patrolCursor := if s.xlt.patrolQueue.isEmpty then patrolOrder pb + 1 else s.xlt.patrolCursor } }

theorem patrolVerify_of_other {pb : Nat} (h : s.patrolNext ≠ some pb) (v : Verify) (l : List (Nat × Nat)) : patrolVerify pb v l s = s :=
  if_pos (by simp [h])

section

variable {pb : Nat} (hu : s.upkeep = true) (hn : s.patrolNext = some pb) (hw : s.walked (pbWalk pb) (pbDie pb) (pbBlock pb) [pbPlane pb] = true)
include hu hn hw

theorem patrolVerify_waits_not : ¬(!s.upkeep || s.patrolNext != some pb || !s.walked (pbWalk pb) (pbDie pb) (pbBlock pb) [pbPlane pb]) = true := by
  simp [hu, hn, hw]

theorem patrolVerify_passes (l : List (Nat × Nat)) : patrolVerify pb .pass l s =
    { s.patrolled pb with fla := { (s.patrolled pb).fla with reads := Tab.set 0 (s.patrolled pb).fla.reads pb 0 } } :=
  if_neg (patrolVerify_waits_not hu hn hw)

theorem patrolVerify_refreshes (l : List (Nat × Nat)) : patrolVerify pb .refresh l s =
    ((s.patrolled pb).health fun h => { h with verifyRefresh := h.verifyRefresh + 1 }).rewriteBlock pb :=
  if_neg (patrolVerify_waits_not hu hn hw)

theorem patrolVerify_weak (l : List (Nat × Nat)) : patrolVerify pb .weak l s =
    (let v := (State.loseListed ((s.patrolled pb).health fun h => { h with verifyWeak := h.verifyWeak + 1 }) (fun e => entPb e == pb) l).rewriteBlock pb
     if v.fla.suspect.contains pb then v.retire pb 3 else { v with fla := { v.fla with suspect := insertNat pb v.fla.suspect } }) :=
  if_neg (patrolVerify_waits_not hu hn hw)

end

/-! ### Journal marks (R364, R365) -/

theorem journalMark_eq (hp : s.powered = true) (hl : s.stg.loaded = true) (hd : s.boot.mode ≠ .diagnostic) (hc : s.clk.failed = false)
    (hf : s.ns.formatPending = false) (clean : Bool) : journalMark clean s = s.wantMark clean :=
  if_pos (by simp [hp, hl, hd, hc, hf])

theorem markCheck_waits {m : Mark} (hm : s.xlt.markDue = some m) (h : ∃ p ∈ s.xlt.sets, p.stream = 11) : s.markCheck = s := by
  rw [State.markCheck, hm]
  exact if_pos (by simpa using h)

/-- CLEAN only with no program in flight and nothing dirty (R365). -/
theorem markCheck_writes {m : Mark} (hm : s.xlt.markDue = some m) (h : ∀ p ∈ s.xlt.sets, p.stream ≠ 11) :
    s.markCheck = ({ s with xlt := { s.xlt with markDue := none } } : State).putMark
      { m with clean := m.clean && s.xlt.sets.isEmpty && s.xlt.buf.isEmpty && !s.xlt.cached.any fun e => e.2 } := by
  rw [State.markCheck, hm]
  exact if_neg (by simpa using h)

end Sys2Proof.Machine

namespace Sys2Proof.Proofs

open Sys2Proof.Machine Sys2Proof.Safety

/-- Settles O50: each command by the equation of its case, the walks and the mark by what each answers. -/
theorem upkeepMovesVerifiesAndErases : Obligations.UpkeepMovesVerifiesAndErases := by
  refine ⟨fun ns unit s hu => congrArg Host.Outcome.next (gcCopy_eq hu ns unit), ?_, ?_, ?_,
    fun pb n s => ⟨s.countSenses_reads pb n, s.countSenses_patrol, s.countSenses_below⟩, fun key die block planes s hp hl ho => walkOn_senses hp hl ho,
    fun clean s hp hl hd hc hf => congrArg Host.Outcome.next (journalMark_eq hp hl hd hc hf clean), fun m s hm => ⟨markCheck_waits hm, fun h => ?_⟩⟩
  case refine_1 =>
    intro ns unit k t s hf hk ht hr w rest u src
    refine ⟨fun hns hu hd => ?_, congrArg Host.Outcome.next (gcVerify_of_bad hf hk ht hr)⟩
    have hgood := gcVerify_of_good hf hk ht hr hns hu hd
    exact ⟨fun he => congrArg Host.Outcome.next (hgood.trans (by rw [if_pos he]; rfl)), fun he => congrArg Host.Outcome.next (hgood.trans (by rw [if_neg he]; rfl))⟩
  case refine_2 =>
    intro i s hu hi x
    refine ⟨fun hst hvalid hcopies hcovered hnames hverify hdies => ?_, fun h => congrArg Host.Outcome.next (superblockErase_stays h),
      fun hv hs hw => congrArg Host.Outcome.next (superblockCloseVerify_leaves (State.flashClock_of_upkeep hu) hv hs hw)⟩
    have herase := superblockErase_erases hu hi ⟨hst, hvalid, hcopies, hcovered, hnames, hverify, hdies⟩
    exact ⟨_, congrArg Host.Outcome.next herase, issueErases_ops (sbBlock i) (s.sbDies i) s⟩
  case refine_3 =>
    intro pb s hu
    refine ⟨fun hn v l => congrArg Host.Outcome.next (patrolVerify_of_other hn v l), fun hn hw => ?_⟩
    intro u
    exact ⟨fun l => congrArg Host.Outcome.next (patrolVerify_passes hu hn hw l), fun l => congrArg Host.Outcome.next (patrolVerify_refreshes hu hn hw l),
      fun l => ⟨_, rfl, congrArg Host.Outcome.next (patrolVerify_weak hu hn hw l)⟩⟩
  case refine_4 =>
    refine ⟨_, markCheck_writes hm h, ?_⟩
    simp [and_assoc]

end Sys2Proof.Proofs
end


section
/-! PROOFS. What page sets, the event log and answers leave of the units in service, of the firmware's restarts and of the commands that wait
(R317, R326, R330, R338, R364, R422, R486). -/

namespace Sys2Proof.Machine

variable {s t : State}

/-! ### The view (R91, R457, R473 to R476) -/

/-- What decides which units serve, with the topology generation, the power unit and the bring-up. -/
structure UnitView where
  role : Table (BitVec 32)
  present : List Nat
  channels : List Nat
  dies : List Nat
  retired : List Nat
  linksOut : List Nat
  topoGen : Nat
  failed : Bool
  pwr : Pwr
  boot : Boot

/-- Limp mode, restarts and retests. -/
structure FirmView where
  limp : Option Nat
  restarting : List Nat
  restarts : List (Nat × Nat)
  retest : List Obj

/-- Reads and writes of hosts that wait in the translation. -/
structure WaitView where
  caps : List WaitWrite
  leaves : List LeafWait
  plain : List Plain
  lands : List WaitLand

def State.units (s : State) : UnitView :=
  ⟨s.coa.role, s.drm.present, s.fla.channels, s.fla.dies, s.fla.retired, s.fab.linksOut, s.ses.topoGen, s.clk.failed, s.pwr, s.boot⟩
def State.firm (s : State) : FirmView := ⟨s.fwc.limp, s.fwc.restarting, s.fwc.restarts, s.fwc.retest⟩
def State.waits (s : State) : WaitView := ⟨s.xlt.capWaits, s.xlt.leafWaits, s.xlt.plain, s.xlt.landWaits⟩
def State.service (s : State) : UnitView × FirmView × WaitView := (s.units, s.firm, s.waits)

theorem units_of_service (h : t.service = s.service) : t.units = s.units := congrArg Prod.fst h
theorem firm_of_service (h : t.service = s.service) : t.firm = s.firm := congrArg (fun v => v.2.1) h
theorem waits_of_service (h : t.service = s.service) : t.waits = s.waits := congrArg (fun v => v.2.2) h
theorem pwr_of_service (h : t.service = s.service) : t.pwr = s.pwr := congrArg (fun v => v.1.pwr) h

/-! ### Answers and the event log (R28, R422, R486) -/

theorem Posts.service (h : Posts s t) : t.service = s.service := by rw [h.1]; rfl

theorem State.withHealth_service (s : State) (f : Health → Health) : (s.health f).service = s.service := rfl
theorem State.nextCycle_service (s : State) : s.nextCycle.service = s.service := rfl

/-- The translation changed elsewhere than in its waiting lists. -/
theorem State.withXlt_service {x : Xlt} (hc : x.capWaits = s.xlt.capWaits) (hl : x.leafWaits = s.xlt.leafWaits) (hp : x.plain = s.xlt.plain)
    (hw : x.landWaits = s.xlt.landWaits) : ({ s with xlt := x } : State).service = s.service := by
  simp [State.service, State.units, State.firm, State.waits, hc, hl, hp, hw]

theorem State.eventAt_service (s : State) (stamp code cls source : Nat) (o : Obj) (detail : Bytes) :
    (s.eventAt stamp code cls source o detail).service = s.service := by
  unfold State.eventAt
  split <;> rfl

theorem State.event_service (s : State) (code cls source : Nat) (o : Obj) (detail : Bytes) :
    (s.event code cls source o detail).service = s.service := by
  unfold State.event
  dsimp only
  split
  · exact (State.nextCycle_service _).trans (State.eventAt_service ..)
  · exact State.eventAt_service ..

/-! ### Page sets and what firmware writes of its own (R317, R338, R356, R364) -/

theorem State.secondProgram_service (s : State) (die block page : Nat) : (s.secondProgram die block page).service = s.service :=
  (State.event_service ..).trans (s.withHealth_service _)

theorem State.queueOp_service (s : State) (die n : Nat) (w : DieWork) : (s.queueOp die w n).service = s.service := rfl
theorem State.setSb_service (s : State) (i : Nat) (x : Sb) : (s.setSb i x).service = s.service := rfl
theorem State.closeSb_service (s : State) (i : Nat) : (s.closeSb i).service = s.service := rfl
theorem State.freeSeats_service (s : State) (chan n : Nat) : (s.freeSeats chan n).service = s.service := rfl
theorem State.stampTo_service (s : State) (stamp : Nat) : (s.stampTo stamp).service = s.service := rfl

theorem State.putPages_service (s : State) (die block page : Nat) (pages : List PlaneWords) (stamp stream : Nat) (pending : Bool) :
    (s.putPages die block page pages stamp stream pending).service = s.service := by
  refine foldl_view (view := State.service) (fun u p => ?_) pages s
  refine (foldl_view (view := State.service) (fun v w => ?_) _ _).trans ?_
  · rfl
  · rfl

theorem State.queueSet_service (s : State) (sb row chan stream : Nat) (pages : List PlaneWords) :
    (s.queueSet sb row chan stream pages).service = s.service :=
  (State.putPages_service ..).trans (s.freeSeats_service chan _)

theorem State.putParityOn_service (s : State) (sb row stream chan : Nat) (pages : List PlaneWords) :
    (s.putParityOn sb row stream chan pages).service = s.service := by
  unfold State.putParityOn
  dsimp only
  split
  · rfl
  · split
    · exact State.secondProgram_service ..
    · exact State.queueSet_service ..

theorem State.putParity_service (s : State) (sb row stream : Nat) : (s.putParity sb row stream).service = s.service :=
  foldl_view (view := State.service) (fun u _ => u.putParityOn_service ..) _ s

theorem State.allocSb_service {stream : Nat} {p : Nat × State} (h : s.allocSb stream = some p) : p.2.service = s.service := by
  unfold State.allocSb at h
  split at h <;> cases h
  rfl

theorem State.nextPlace_service (stream : Nat) (queued : Bool) (mayAlloc : State → Bool) (ok : Nat → Bool) (fuel : Nat) (s : State) :
    (State.nextPlace stream queued mayAlloc ok fuel s).2.service = s.service := by
  have hparity : ∀ (c : Prop) [Decidable c] (i row : Nat) (v : State), (if c then v.putParity i row stream else v).service = v.service := fun c _ i row v => by
    split
    · exact v.putParity_service i row stream
    · rfl
  induction fuel generalizing s with
  | zero => rfl
  | succ fuel ih =>
    rw [State.nextPlace]
    split
    · split
      · rfl
      · split
        · rfl
        · next ha => exact (ih _).trans (State.allocSb_service ha)
    · dsimp only
      split
      · exact (ih _).trans ((State.closeSb_service ..).trans (hparity ..))
      · split <;> exact (State.setSb_service ..).trans (hparity ..)

theorem State.firmwareSet_service (s : State) (stream : Nat) (may : State → Bool) (ok : Nat → Bool) (words : List CWord) :
    (s.firmwareSet stream may ok words).2.service = s.service := by
  have hplace := State.nextPlace_service stream true may ok 4 s
  unfold State.firmwareSet
  split
  · next hp => rw [hp] at hplace; exact (State.queueSet_service ..).trans hplace
  · next hp => rw [hp] at hplace; exact hplace

theorem State.firmwareWrite_service (stream : Nat) (may : State → Bool) (n : Nat) (words : List CWord) (s : State) :
    (State.firmwareWrite stream may n words s).2.service = s.service := by
  induction n generalizing words s with
  | zero => rfl
  | succ n ih =>
    rw [State.firmwareWrite]
    split
    · rfl
    · dsimp only
      split
      · exact State.firmwareSet_service ..
      · exact (ih ..).trans (State.firmwareSet_service ..)

theorem State.writeTwice_service (s : State) (stream : Nat) (words : List CWord) : (s.writeTwice stream words).2.service = s.service :=
  (State.firmwareSet_service ..).trans (State.firmwareSet_service ..)

theorem State.putMark_service (s : State) (m : Mark) : (s.putMark m).service = s.service := by
  unfold State.putMark
  dsimp only
  refine (foldl_view (view := State.service) (fun u _ => (u.succeed_posts ..).service) _ _).trans ?_
  refine (State.withXlt_service (by rfl) (by rfl) (by rfl) (by rfl)).trans ?_
  exact (State.firmwareSet_service ..).trans (State.writeTwice_service ..)

theorem State.writeLeafList_service (s : State) (ks : List Nat) : (s.writeLeafList ks).service = s.service :=
  (State.withXlt_service rfl rfl rfl rfl).trans (State.firmwareWrite_service ..)

theorem State.markCheck_service (s : State) : s.markCheck.service = s.service := by
  unfold State.markCheck
  split
  · rfl
  · split
    · rfl
    · exact State.putMark_service ..

theorem State.wantMark_service (s : State) (clean : Bool) : (s.wantMark clean).service = s.service :=
  (State.markCheck_service _).trans (s.writeLeafList_service _)

/-! ### Senses, and blocks written elsewhere (R16, R249, R320) -/

theorem State.countSenses_service (s : State) (pb n : Nat) : (s.countSenses pb n).service = s.service := by
  unfold State.countSenses
  dsimp only
  split <;> rfl

theorem State.queueSense_service (s : State) (die block page : Nat) (planes : List Nat) : (s.queueSense die block page planes).service = s.service :=
  (foldl_view (view := State.service) (fun u _ => u.countSenses_service ..) planes _).trans (s.queueOp_service ..)

theorem State.plainSense_service (s : State) (a : CwAddr) (n : Nat) : (s.plainSense a n).service = s.service :=
  (State.freeSeats_service ..).trans (s.queueSense_service ..)

theorem State.movePage_service (die block sb : Nat) (s : State) (page : Nat) : (State.movePage die block sb s page).service = s.service :=
  (State.queueSet_service ..).trans ((State.freeSeats_service ..).trans (State.queueSense_service ..))

theorem State.moveGenBlock_service (s : State) (pb : Nat) : (s.moveGenBlock pb).service = s.service := by
  unfold State.moveGenBlock
  dsimp only
  split
  · rfl
  · split
    · rfl
    · next ha =>
      exact (State.queueOp_service ..).trans
        ((foldl_view (view := State.service) (fun u p => State.movePage_service _ _ _ u p) _ _).trans ((State.closeSb_service ..).trans (State.allocSb_service ha)))

theorem State.placeAgain_service (s : State) (p : PageSet) (failed : List Nat) (words : List CWord) : (s.placeAgain p failed words).service = s.service := by
  unfold State.placeAgain
  dsimp only
  split
  · exact State.moveGenBlock_service ..
  · split
    · exact foldl_view (view := State.service) (fun u _ => u.putParityOn_service ..) _ s
    · refine (foldl_view (view := State.service) (fun u x => ?_) _ _).trans (State.firmwareWrite_service ..)
      rfl

end Sys2Proof.Machine
end


section
/-! PROOFS. The start of the power-loss sequence (R433, R434, R436). -/

namespace Sys2Proof.Machine

variable {s t : State}

/-- The sequence's start, where none is under way: what its event leaves, then what is dropped and stopped. -/
theorem State.startSequence_eq (hr : s.pwr.rails = true) (hq : s.pwr.seq = .none) (trigger : Nat) :
    ∃ (u : State) (plain : List Plain), u = s.event 0x0012 0 0x81 noObj ([BitVec.ofNat 8 trigger] ++ toLe 8 (s.xlt.buf.length * 16384)) ∧ s.startSequence trigger = { u with
      pwr := { s.pwr with seq := .quiesce, trigger := trigger, lossStage := s.stg.stage, resting := false }
      clk := { s.clk with relockTries := if s.clk.pllLocked then none else some 1 }
      xlt := { s.xlt with
        capWaits := [], landWaits := [], leafWaits := [], shutdowns := [], markDue := none, markTags := [], copies := [], plain := plain }
      fla := { s.fla with seatDebt := [], recov := [] }
      que := { s.que with done := [] }
      ses := { s.ses with list := s.ses.list.map fun x => { x with queued := [], run := x.run.map fun r => if r.fault = 0 then { r with fault := 5 } else r } } } := by
  unfold State.startSequence
  rw [if_neg (by simp [hr, hq])]
  dsimp only
  rw [State.event_pwr, State.event_clk, State.event_xlt, State.event_fla, State.event_que, State.event_ses, State.event_stage]
  exact ⟨_, _, rfl, rfl⟩

theorem State.startSequence_of_off (h : s.pwr.rails = false ∨ s.pwr.seq ≠ .none) (trigger : Nat) : s.startSequence trigger = s :=
  if_pos (by simpa using h)

theorem State.startSequence_pwr (hr : s.pwr.rails = true) (hq : s.pwr.seq = .none) (trigger : Nat) :
    (s.startSequence trigger).pwr = { s.pwr with seq := .quiesce, trigger := trigger, lossStage := s.stg.stage, resting := false } := by
  obtain ⟨u, plain, -, h⟩ := s.startSequence_eq hr hq trigger
  rw [h]

theorem State.event_off (s : State) (code cls source : Nat) (o : Obj) (detail : Bytes) : (s.event code cls source o detail).fwc.off = s.fwc.off := by
  unfold State.event State.eventAt
  dsimp only
  split <;> rfl

theorem State.startSequence_off (s : State) (trigger : Nat) : (s.startSequence trigger).fwc.off = s.fwc.off := by
  by_cases h : s.pwr.rails = false ∨ s.pwr.seq ≠ .none
  · rw [State.startSequence_of_off h]
  · obtain ⟨hr, hq⟩ := not_or.mp h
    obtain ⟨u, plain, hu, heq⟩ := s.startSequence_eq (by simpa using hr) (not_not.mp hq) trigger
    rw [heq, hu]
    exact State.event_off ..

end Sys2Proof.Machine
end


section
/-! PROOFS. Units that leave service, and limp mode: what of the module's units, firmware and waiting commands they change (R182, R457, R476,
R478, R482, R485). -/

namespace Sys2Proof.Machine

variable {s t : State}

/-! ### The units' view decides what serves (R91, R457) -/

theorem coachIn_of_role (h : t.coa.role = s.coa.role) : t.coachIn = s.coachIn := by
  funext c
  rw [State.coachIn, State.coachIn, State.coachOut, State.coachOut, State.coaRole, State.coaRole, h]

theorem teamServes_of_role (h : t.coa.role = s.coa.role) : t.teamServes = s.teamServes := by
  funext k
  rw [State.teamServes, State.teamServes, coachIn_of_role h]

theorem coachIn_of_units (h : t.units = s.units) : t.coachIn = s.coachIn := coachIn_of_role (congrArg UnitView.role h)
theorem teamServes_of_units (h : t.units = s.units) : t.teamServes = s.teamServes := teamServes_of_role (congrArg UnitView.role h)

theorem dieIn_of_units (h : t.units = s.units) : t.dieIn = s.dieIn := by
  have hdies : t.fla.dies = s.fla.dies := congrArg UnitView.dies h
  have hchannels : t.fla.channels = s.fla.channels := congrArg UnitView.channels h
  funext d
  rw [State.dieIn, State.dieIn, hdies, hchannels]

theorem inService_of_units (h : t.units = s.units) (o : Obj) : t.inService o = s.inService o := by
  have hchannels : t.fla.channels = s.fla.channels := congrArg UnitView.channels h
  have hpresent : t.drm.present = s.drm.present := congrArg UnitView.present h
  have hlinks : t.fab.linksOut = s.fab.linksOut := congrArg UnitView.linksOut h
  have hretired : t.fla.retired = s.fla.retired := congrArg UnitView.retired h
  rw [State.inService, State.inService, coachIn_of_units h, dieIn_of_units h, hchannels, hpresent, hlinks, hretired]

theorem belowMinimum_of_units (h : t.units = s.units) : t.belowMinimum = s.belowMinimum := by
  have hchannels : t.fla.channels = s.fla.channels := congrArg UnitView.channels h
  have hdies : t.fla.dies = s.fla.dies := congrArg UnitView.dies h
  have hpresent : t.drm.present = s.drm.present := congrArg UnitView.present h
  have hlinks : t.fab.linksOut = s.fab.linksOut := congrArg UnitView.linksOut h
  have hboot : t.boot = s.boot := congrArg UnitView.boot h
  rw [State.belowMinimum, State.belowMinimum, State.classCounts, State.classCounts, coachIn_of_units h, teamServes_of_units h, dieIn_of_units h, hchannels,
    hdies, hpresent, hlinks, hboot]

theorem powered_of_units (h : t.units = s.units) : t.powered = s.powered := by
  have hpwr : t.pwr = s.pwr := congrArg UnitView.pwr h
  rw [State.powered, State.powered, hpwr]

theorem limp_of_firm (h : t.firm = s.firm) : t.fwc.limp = s.fwc.limp := congrArg FirmView.limp h

/-! ### Runs that meet an error, events and warnings (R162, R182, R422) -/

theorem State.faultHere_service (s : State) (sess code : Nat) : (s.faultHere sess code).service = s.service := rfl

theorem State.faultRuns_service (s : State) (code : Nat) (uses : Timetable → Bool) : (s.faultRuns code uses).service = s.service := by
  refine foldl_view (view := State.service) (fun u x => ?_) _ s
  exact u.faultHere_service x.num code

theorem State.warn_service (s : State) : s.warn.service = s.service := s.warn_posts.service

theorem State.fatalEvent_service (s : State) (o : Obj) (detail : List Nat) : (s.fatalEvent o detail).service = s.service :=
  (State.asyncEvent_posts ..).service.trans (State.event_service ..)

/-- Of the views a topology change moves the generation alone. -/
theorem State.topoChange_service (s : State) (o : Obj) (entered : Bool) :
    (s.topoChange o entered).service = ({ s.units with topoGen := s.ses.topoGen + 1 }, s.firm, s.waits) := State.event_service ..

/-- What serves does not ask for the topology generation. -/
theorem State.topoChange_inService (s : State) (o k : Obj) (entered : Bool) : (s.topoChange o entered).inService k = s.inService k :=
  (inService_of_units (s := { s with ses := { s.ses with topoGen := s.ses.topoGen + 1 } }) (units_of_service (State.event_service ..)) k).trans rfl

theorem State.topoChange_firm (s : State) (o : Obj) (entered : Bool) : (s.topoChange o entered).firm = s.firm :=
  congrArg (fun v => v.2.1) (s.topoChange_service o entered)

theorem State.topoChange_topoGen (s : State) (o : Obj) (entered : Bool) : (s.topoChange o entered).ses.topoGen = s.ses.topoGen + 1 :=
  congrArg (fun v => v.1.topoGen) (s.topoChange_service o entered)

/-! ### Limp mode (R476, R478) -/

theorem State.withDrained_service (s : State) : ({ s with fwc := { s.fwc with drained := true } } : State).service = s.service := rfl

theorem State.limpTick_service (s : State) : s.limpTick.service = s.service := by
  unfold State.limpTick
  split
  · rfl
  · extract_lets idle u ses v
    have hv : v.service = s.service := foldl_view (view := State.service) (fun w x => by rfl) idle s
    split
    · exact (State.withDrained_service _).trans ((State.wantMark_service v false).trans hv)
    · exact hv

theorem State.enterLimp_of_limp (hl : s.fwc.limp.isSome = true) (cause : Nat) : s.enterLimp cause = s := if_pos hl

/-- Limp mode entered: its cause stands, restarts and retests under way are over; units and waiting commands stand. -/
theorem State.enterLimp_service (hl : s.fwc.limp = none) (cause : Nat) :
    (s.enterLimp cause).service = (s.units, ⟨some cause, [], s.fwc.restarts, []⟩, s.waits) := by
  unfold State.enterLimp
  rw [if_neg (by simp [hl])]
  exact (State.warn_service _).trans ((State.limpTick_service _).trans (State.event_service ..))

theorem State.enterLimp_units (s : State) (cause : Nat) : (s.enterLimp cause).units = s.units := by
  rcases hl : s.fwc.limp with - | c
  · exact congrArg Prod.fst (s.enterLimp_service hl cause)
  · rw [s.enterLimp_of_limp (by simp [hl])]

theorem State.enterLimp_waits (s : State) (cause : Nat) : (s.enterLimp cause).waits = s.waits := by
  rcases hl : s.fwc.limp with - | c
  · exact congrArg (fun v => v.2.2) (s.enterLimp_service hl cause)
  · rw [s.enterLimp_of_limp (by simp [hl])]

theorem State.enterLimp_restarts (s : State) (cause : Nat) : (s.enterLimp cause).fwc.restarts = s.fwc.restarts := by
  rcases hl : s.fwc.limp with - | c
  · exact congrArg (fun v => v.2.1.restarts) (s.enterLimp_service hl cause)
  · rw [s.enterLimp_of_limp (by simp [hl])]

/-- The cause of limp mode is that of its first entry. -/
theorem State.limp_enterLimp (s : State) (cause : Nat) :
    (s.enterLimp cause).fwc.limp = if s.fwc.limp.isSome then s.fwc.limp else some cause := by
  rcases hl : s.fwc.limp with - | c
  · exact congrArg (fun v => v.2.1.limp) (s.enterLimp_service hl cause)
  · rw [s.enterLimp_of_limp (by simp [hl]), hl]
    rfl

/-- Limp mode follows a unit's loss below a minimum, or where a system region is lost with it. -/
theorem State.fatalUnit_units (s : State) (system : Bool) : (s.fatalUnit system).units = s.units := by
  unfold State.fatalUnit
  split
  · exact s.enterLimp_units 6
  · exact units_of_service s.warn_service

theorem State.fatalUnit_limp (hl : s.fwc.limp = none) : ((s.fatalUnit false).belowMinimum = true ↔ (s.fatalUnit false).fwc.limp = some 6) := by
  rw [belowMinimum_of_units (s.fatalUnit_units false), State.fatalUnit, Bool.or_false]
  split
  · next hb => simp [hb, State.limp_enterLimp, hl]
  · next hb => simp [hb, hl]

/-! ### Coaches (R91, R477) -/

/-- COA_ROLE with OUT set. -/
def State.roleOut (s : State) (c : Nat) : BitVec 32 := BitVec.ofNat 32 ((s.coaRole c).toNat % 32768 + 32768)

theorem State.roleOut_out (s : State) (c : Nat) : (s.roleOut c).getLsbD 15 = true := by
  have hbit : ((s.coaRole c).toNat % 32768 + 32768).testBit 15 = true := by
    rw [Nat.testBit_eq_decide_div_mod_eq]
    simp only [decide_eq_true_eq]
    omega
  simp [State.roleOut, BitVec.getLsbD_ofNat, hbit]

/-- A coach's COA_ROLE written. -/
def State.withRole (s : State) (c : Nat) (v : BitVec 32) : State := { s with coa := { s.coa with role := Tab.set 0 s.coa.role c v } }

theorem State.withRole_service (s : State) (c : Nat) (v : BitVec 32) :
    (s.withRole c v).service = ({ s.units with role := Tab.set 0 s.coa.role c v }, s.firm, s.waits) := rfl

theorem State.coachLeaves_eq (s : State) (c : Nat) :
    s.coachLeaves c = (s.withRole c (s.roleOut c)).faultRuns 1 fun t => t.plan.teams.contains (c / 16) := by
  unfold State.coachLeaves State.withRole State.roleOut
  dsimp only

/-- Of the views a coach that leaves moves its own COA_ROLE alone, where OUT is set. -/
theorem State.coachLeaves_service (s : State) (c : Nat) :
    ∃ v : BitVec 32, v.getLsbD 15 = true ∧ (s.coachLeaves c).service = ({ s.units with role := Tab.set 0 s.coa.role c v }, s.firm, s.waits) :=
  ⟨s.roleOut c, s.roleOut_out c, by rw [State.coachLeaves_eq, State.faultRuns_service, State.withRole_service]⟩

theorem ne_zero_of_bit {v : BitVec 32} (h : v.getLsbD 15 = true) : v ≠ 0 := fun hv => by
  rw [hv] at h
  simp at h

/-- A coach that leaves is out, and the others are as they were. -/
theorem State.coachIn_coachLeaves (s : State) (c k : Nat) : (s.coachLeaves c).coachIn k = (decide (k ≠ c) && s.coachIn k) := by
  obtain ⟨v, hout, hservice⟩ := s.coachLeaves_service c
  have hrole : (s.coachLeaves c).coa.role = Tab.set 0 s.coa.role c v := congrArg (fun w => w.1.role) hservice
  rw [State.coachIn, State.coachOut, State.coaRole, hrole, Tab.set, if_neg (ne_zero_of_bit hout), Tab.get_put]
  by_cases hk : k = c
  · simp [hk, hout]
  · simp [hk, State.coachIn, State.coachOut, State.coaRole]

/-- Coaches that leave one after the other. -/
theorem coachIn_foldl_coachLeaves (l : List Nat) (s : State) (k : Nat) :
    (l.foldl State.coachLeaves s).coachIn k = (!l.contains k && s.coachIn k) := by
  induction l generalizing s with
  | nil => simp
  | cons c l ih =>
    rw [List.foldl_cons, ih, s.coachIn_coachLeaves, List.contains_cons]
    by_cases hk : k = c
    · simp [hk]
    · simp [hk, beq_false_of_ne hk]

theorem State.coachLeaves_firm (s : State) (c : Nat) : (s.coachLeaves c).firm = s.firm := by
  obtain ⟨v, -, hservice⟩ := s.coachLeaves_service c
  exact congrArg (fun w => w.2.1) hservice

theorem State.coachLeaves_topoGen (s : State) (c : Nat) : (s.coachLeaves c).ses.topoGen = s.ses.topoGen := by
  obtain ⟨v, -, hservice⟩ := s.coachLeaves_service c
  exact congrArg (fun w => w.1.topoGen) hservice

/-- A team that loses its control core has no coach in service any more. -/
theorem State.teamServes_teamLeaves (s : State) (k : Nat) : (s.teamLeaves k).teamServes k = false := by
  unfold State.teamLeaves
  split
  · next h => simpa using h
  · rw [teamServes_of_role (congrArg (fun v => v.1.role) (State.topoChange_service ..)), State.teamServes, List.any_eq_false]
    intro c hc
    have hin := coachIn_foldl_coachLeaves (teamCoaches k) s c
    rw [List.contains_iff_mem.mpr hc] at hin
    exact (Bool.eq_false_iff.mp hin)

theorem State.teamLeaves_topoGen {k : Nat} (h : s.teamServes k = true) : (s.teamLeaves k).ses.topoGen = s.ses.topoGen + 1 := by
  rw [State.teamLeaves, if_neg (by simp [h])]
  rw [State.topoChange_topoGen, foldl_view (view := fun u => u.ses.topoGen) State.coachLeaves_topoGen (teamCoaches k) s]

/-! ### Dies (R320) -/

theorem State.dropSet_service (s : State) (p : PageSet) : (s.dropSet p).service = s.service := by
  unfold State.dropSet
  split
  · dsimp only
    split
    · rfl
    · exact State.placeAgain_service ..
  · rfl

/-- A die that goes leaves the others in service, and firmware's state as it was. -/
theorem State.dropDie_service (s : State) (die : Nat) :
    (s.dropDie die).units = { s.units with dies := s.fla.dies.filter fun d => d != die } ∧ (s.dropDie die).firm = s.firm := by
  have hsets := foldl_view (view := State.service) State.dropSet_service
  exact ⟨units_of_service (hsets _ _), (firm_of_service (hsets _ _)).trans rfl⟩

/-! ### A unit leaves service (R182, R482, R485) -/

theorem State.retire_retired (s : State) (pb cause : Nat) : pb ∈ (s.retire pb cause).fla.retired := by
  unfold State.retire
  split
  · next h => exact List.contains_iff_mem.mp h
  · rw [State.event_fla]
    exact (mem_insertNat ..).mpr (.inl rfl)

theorem State.retire_firm (s : State) (pb cause : Nat) : (s.retire pb cause).firm = s.firm := by
  unfold State.retire
  split
  · rfl
  · exact (firm_of_service (State.event_service ..)).trans rfl

theorem State.leaveService_firm (s : State) (o : Obj) : (s.leaveService o).firm = s.firm := by
  unfold State.leaveService
  split
  · rfl
  · split
    · exact (State.topoChange_firm ..).trans (s.coachLeaves_firm o.index)
    · exact (State.topoChange_firm ..).trans (s.dropDie_service o.index).2
    · exact (State.topoChange_firm ..).trans (foldl_view (view := State.firm) (fun u d => (u.dropDie_service d).2) _ s)
    · exact (State.topoChange_firm ..).trans ((firm_of_service (State.faultRuns_service ..)).trans rfl)
    · exact State.topoChange_firm ..
    · exact State.retire_firm ..

/-- A unit that has left service is out of it. -/
theorem State.leaveService_inService (s : State) (o : Obj) : (s.leaveService o).inService o = false := by
  unfold State.leaveService
  split
  · next h => simpa using h
  · next h =>
    obtain ⟨kind, index⟩ := o
    split
    · next hk =>
      obtain rfl : kind = 1 := hk
      rw [State.topoChange_inService]
      simp [State.inService, State.coachIn_coachLeaves]
    · next hk =>
      obtain rfl : kind = 2 := hk
      rw [State.topoChange_inService]
      have hdies : (s.dropDie index).fla.dies = s.fla.dies.filter fun d => d != index := congrArg UnitView.dies (s.dropDie_service index).1
      simp [State.inService, State.dieIn, hdies]
    · next hk =>
      obtain rfl : kind = 3 := hk
      rw [State.topoChange_inService]
      simp [State.inService]
    · next hk =>
      obtain rfl : kind = 4 := hk
      rw [State.topoChange_inService, inService_of_units (units_of_service (State.faultRuns_service ..))]
      simp [State.inService]
    · next hk =>
      obtain rfl : kind = 5 := hk
      rw [State.topoChange_inService]
      simp [State.inService, mem_insertNat]
    · next h1 h2 h3 h4 h5 =>
      have hret := s.drawNat.2.retire_retired index s.drawNat.1
      unfold State.inService
      split
      · next hk => exact absurd hk h1
      · next hk => exact absurd hk h2
      · next hk => exact absurd hk h3
      · next hk => exact absurd hk h4
      · next hk => exact absurd hk h5
      · simp [hret]
      · rfl

end Sys2Proof.Machine
end


section
/-! PROOFS. What a component's restart does to the work that the component held leaves limp mode, restarts and retests alone (R473, R474). -/

namespace Sys2Proof.Machine

variable {s t : State}

theorem Posts.firm (h : Posts s t) : t.firm = s.firm := firm_of_service h.service

/-! ### Contexts freed in the DRAM (R228, R231, R373, R378) -/

theorem State.withDrm_firm (s : State) (d : Drm) : ({ s with drm := d } : State).firm = s.firm := rfl
theorem State.setData_firm (s : State) (addr : Nat) (bs : Bytes) : (s.setData addr bs).firm = s.firm := rfl
theorem State.setCheck_firm (s : State) (line w : Nat) (p : Byte × Byte) : (s.setCheck line w p).firm = s.firm := rfl

theorem State.poisonLine_firm (s : State) (line : Nat) : (s.poisonLine line).firm = s.firm :=
  foldl_view (view := State.firm) (fun u w => u.setCheck_firm line w _) _ s

theorem State.fixWord_firm (s : State) (line w j : Nat) (e : Byte) : (s.fixWord line w j e).firm = s.firm := by
  unfold State.fixWord
  split
  · exact s.setCheck_firm ..
  · split
    · exact s.setCheck_firm ..
    · exact s.setData_firm ..

/-- Code words corrected one by one. -/
theorem foldl_fixWord_firm (line : Nat) (l : List (Nat × LineClass)) (s : State) :
    (l.foldl (fun s c => match c.2 with | .corrected j e => s.fixWord line c.1 j e | _ => s) s).firm = s.firm := by
  refine foldl_view (view := State.firm) (fun u c => ?_) l s
  split
  · exact u.fixWord_firm ..
  · rfl

theorem readLine_firm (req line : Nat) (ws : List Nat) (s : State) : (readLine req line ws s).2.firm = s.firm := by
  unfold readLine
  dsimp only
  split
  · exact s.withDrm_firm _
  · split
    · exact (firm_of_service (State.event_service ..)).trans ((State.poisonLine_firm ..).trans ((foldl_fixWord_firm ..).trans (s.withDrm_firm _)))
    · split
      · exact (State.withDrm_firm ..).trans ((foldl_fixWord_firm ..).trans (s.withDrm_firm _))
      · exact (foldl_fixWord_firm ..).trans (s.withDrm_firm _)

theorem readParts_firm (req : Nat) (sel : Nat → List Nat) (ls : List Nat) (s : State) : (readParts req sel ls s).2.firm = s.firm := by
  induction ls generalizing s with
  | nil => rfl
  | cons l ls ih =>
    have hline := readLine_firm req l (sel l) s
    rw [readParts]
    split
    · exact ih s
    · split
      · next hr => rw [hr] at hline; exact (ih _).trans hline
      · next hr => rw [hr] at hline; exact hline

theorem writePiece_firm (addr : Nat) (bs : Bytes) (s : State) (line : Nat) : (writePiece addr bs s line).firm = s.firm := by
  unfold writePiece
  dsimp only
  split
  · exact s.setData_firm ..
  · refine foldl_view (view := State.firm) (fun u w => ?_) _ s
    split
    · exact u.setCheck_firm ..
    · rfl
  · refine (foldl_view (view := State.firm) (fun u w => ?_) _ _).trans (s.setData_firm ..)
    exact (State.setCheck_firm ..).trans (u.setData_firm ..)

theorem dramWrite_firm (req addr : Nat) (bs : Bytes) (s : State) : (dramWrite req addr bs s).2.firm = s.firm := by
  have hpre : (if s.writePath (pkgOf addr) = 0 then readParts req (fun l => partly l addr bs.length) (spanLines addr bs.length) s else (true, s)).2.firm =
      s.firm := by
    split
    · exact readParts_firm ..
    · rfl
  unfold dramWrite
  dsimp only
  split
  · next hr => rw [hr] at hpre; exact (foldl_view (view := State.firm) (writePiece_firm addr bs) _ _).trans hpre
  · next hr => rw [hr] at hpre; exact hpre

theorem State.clearSaved_firm (s : State) (x : Session) (place ctx : Nat) : (s.clearSaved x place ctx).firm = s.firm := by
  refine foldl_view (view := State.firm) (fun u i => ?_) _ s
  split
  · exact dramWrite_firm ..
  · rfl

theorem State.clearCtx_firm (s : State) (sess coach ctx : Nat) : (s.clearCtx sess coach ctx).firm = s.firm := by
  unfold State.clearCtx
  split
  · rfl
  · split
    · rfl
    · refine (apply_ite State.firm ..).trans (ite_eq_iff'.2 ⟨fun _ => ?_, fun _ => ?_⟩)
      · rfl
      · exact s.clearSaved_firm ..

/-! ### Queries, scans, runs and binds that end (R176, R218, R273, R284) -/

theorem State.closePeers_firm (s : State) (p : PeerSet) : (s.closePeers p).firm = s.firm := by
  refine foldl_view (view := State.firm) (fun u q => ?_) _ s
  split <;> rfl

theorem State.dropQuery_firm (s : State) (sess id : Nat) : (s.dropQuery sess id).firm = s.firm := by
  unfold State.dropQuery
  split
  · rfl
  · next q _ =>
    have hwalks := foldl_view (view := State.firm) (f := fun s w => if w.record.isNone && !w.answered then s.clearCtx sess w.coach w.ctx else s)
      (fun u w => by split; exacts [u.clearCtx_firm .., rfl]) q.walks s
    dsimp only
    split
    · exact hwalks
    · exact (foldl_view (view := State.firm) State.closePeers_firm _ _).trans hwalks

theorem State.endScan_firm (s : State) (st : Status) (dw0 : Nat) (p : Session × Scan) : (State.endScan st dw0 s p).firm = s.firm := by
  unfold State.endScan
  dsimp only
  split <;> exact (State.completeWith_posts ..).firm

theorem State.hold_firm (s : State) (sess : Nat) (h : Held) : (s.hold sess h).firm = s.firm := by
  unfold State.hold
  dsimp only
  split <;> rfl

theorem State.startRun_firm (s : State) (sess : Nat) (r : Run) : (s.startRun sess r).firm = s.firm := by
  unfold State.startRun
  dsimp only
  split
  · rfl
  · split
    · rfl
    · split
      · rfl
      · split <;> rfl

theorem State.nextRun_firm (s : State) (sess : Nat) : (s.nextRun sess).firm = s.firm := by
  unfold State.nextRun
  split
  · rfl
  · split
    · exact State.startRun_firm ..
    · rfl

theorem State.dropRun_firm (s : State) (sess : Nat) : (s.dropRun sess).firm = s.firm := by
  unfold State.dropRun
  split
  · rfl
  · dsimp only
    refine (State.nextRun_firm ..).trans ?_
    split <;> rfl

theorem State.endBind_firm (s : State) (b : Bind) (x : Session) (st : Status) (dw0 : Nat) : (s.endBind b x st dw0).firm = s.firm := by
  have hposts : ∀ (tag : Tag) (u : State), (u.completeWith tag st dw0 0 []).firm = u.firm := fun tag u => (State.completeWith_posts ..).firm
  unfold State.endBind
  split
  · split
    · dsimp only
      refine (State.dropRun_firm ..).trans ((hposts ..).trans ?_)
      split
      · rfl
      · exact s.hold_firm ..
    · rfl
  · exact foldl_view (view := State.firm) (fun u q => hposts _ u) _ s
  · rfl
  · exact foldl_view (view := State.firm) (fun u c => hposts _ u) _ s

end Sys2Proof.Machine
end


section
/-! PROOFS. Restarts of firmware components, and errors in their queue (R473 to R477, R482 to R485). -/

namespace Sys2Proof.Machine

variable {s t : State}

/-! ### What a restart does to the work of its component (R474) -/

theorem State.abandon_firm (s : State) (i : Nat) : (s.abandon i).firm = s.firm := by
  unfold State.abandon
  split
  · exact firm_of_service (s.closeSb_service i)
  · rfl

theorem State.interruptSession_firm (s : State) (x : Session) : (s.interruptSession x).firm = s.firm := by
  have hfail : ∀ (u : State) (t : Tag), (u.fail t .interrupted).firm = u.firm := fun u t => (u.fail_posts ..).firm
  unfold State.interruptSession
  dsimp only
  refine (foldl_view (view := State.firm) (fun u c => u.endScan_firm ..) x.scans _).trans ?_
  refine (foldl_view (view := State.firm) (fun u q => (State.dropQuery_firm ..).trans (hfail u _)) x.queries _).trans ?_
  generalize hz : List.foldl _ _ x.quotaWait = u
  have hu : u.firm = s.firm := by
    rw [← hz]
    refine (foldl_view (view := State.firm) (fun u z => hfail u _) _ _).trans ((foldl_view (view := State.firm) (fun u z => hfail u _) _ _).trans ?_)
    have hqueued := foldl_view (view := State.firm) (f := fun s (q : Tag × Bytes × Route) => s.fail q.1 .interrupted) (fun u q => hfail u _) x.queued s
    split
    · exact (hfail ..).trans hqueued
    · exact hqueued
  split
  · exact (hfail ..).trans hu
  · exact hu

theorem State.restartEffect_firm (s : State) (comp : Nat) : (s.restartEffect comp).firm = s.firm := by
  unfold State.restartEffect
  split
  · exact foldl_view (view := State.firm) State.interruptSession_firm _ s
  · refine foldl_view (view := State.firm) (fun u b => ?_) _ s
    split
    · exact u.endBind_firm ..
    · rfl
  · exact (foldl_view (view := State.firm) (fun u t => (u.fail_posts t _).firm) _ _).trans (by rfl)
  · exact (foldl_view (view := State.firm) State.abandon_firm _ _).trans (by rfl)
  · refine foldl_view (view := State.firm) (fun u n => ?_) _ s
    split
    · exact (u.fail_posts ..).firm
    · rfl
  · rfl

/-- MAP's commands are answered; no read, leaf or write of a host is left to wait. -/
theorem State.restartEffect_waits (s : State) :
    (s.restartEffect 3).waits = ⟨[], [], s.xlt.plain.filter fun p => p.what.tag.isNone, s.xlt.landWaits.filter fun w => w.units.isNone⟩ := by
  rw [State.restartEffect]
  exact (foldl_view (view := State.waits) (fun u t => waits_of_service (u.fail_posts t _).service) _ _).trans (by rfl)

/-! ### The restart itself (R473, R476) -/

/-- Restarts of a component in the last 2²⁰ stages. -/
def State.recentRestarts (s : State) (comp : Nat) : Nat :=
  (s.fwc.restarts.filter fun r => decide (r.1 = comp) && decide (s.stg.stage < r.2 + 1048576)).length

/-- A restart recorded with its event's detail, and what it does to the component's work. -/
def State.restarted (s : State) (comp : Nat) (detail : Bytes) : State :=
  (({ s with fwc := { s.fwc with
      restarts := (s.fwc.restarts.filter fun r => decide (s.stg.stage < r.2 + 1048576)) ++ [(comp, s.stg.stage)]
      restarting := insertNat comp s.fwc.restarting } } : State).event 0x000F 2 comp ⟨9, comp⟩ detail).restartEffect comp

theorem State.restart_eq (s : State) (comp cause : Nat) :
    ∃ detail, s.restart comp cause = if 3 ≤ s.recentRestarts comp then (s.restarted comp detail).enterLimp 1 else s.restarted comp detail := by
  have hcount : ((s.fwc.restarts.filter fun r => decide (s.stg.stage < r.2 + 1048576)).filter fun r => r.1 == comp).length = s.recentRestarts comp := by
    rw [List.filter_filter]
    rfl
  refine ⟨[BitVec.ofNat 8 cause, BitVec.ofNat 8 (s.recentRestarts comp + 1)], ?_⟩
  unfold State.restart
  dsimp only
  rw [hcount]
  refine if_congr ?_ rfl rfl
  omega

theorem State.restarted_firm (s : State) (comp : Nat) (detail : Bytes) :
    (s.restarted comp detail).firm = ⟨s.fwc.limp, insertNat comp s.fwc.restarting,
      (s.fwc.restarts.filter fun r => decide (s.stg.stage < r.2 + 1048576)) ++ [(comp, s.stg.stage)], s.fwc.retest⟩ :=
  (State.restartEffect_firm ..).trans ((firm_of_service (State.event_service ..)).trans rfl)

theorem State.restarted_waits (s : State) (detail : Bytes) :
    (s.restarted 3 detail).waits = ⟨[], [], s.xlt.plain.filter fun p => p.what.tag.isNone, s.xlt.landWaits.filter fun w => w.units.isNone⟩ := by
  rw [State.restarted, State.restartEffect_waits, State.event_xlt]

/-- The fourth restart within 2²⁰ stages brings limp mode; any other leaves it as it was, the component under restart. -/
theorem State.restart_limp (s : State) (comp cause : Nat) (hl : s.fwc.limp = none) :
    (s.restart comp cause).fwc.limp = if 3 ≤ s.recentRestarts comp then some 1 else none := by
  obtain ⟨detail, heq⟩ := s.restart_eq comp cause
  have hlimp : (s.restarted comp detail).fwc.limp = none := (congrArg FirmView.limp (s.restarted_firm comp detail)).trans hl
  rw [heq]
  split
  · rw [State.limp_enterLimp, hlimp]
    rfl
  · exact hlimp

theorem State.restart_restarting {comp cause : Nat} (hr : ¬ 3 ≤ s.recentRestarts comp) : comp ∈ (s.restart comp cause).fwc.restarting ∧
    ∀ c ∈ s.fwc.restarting, c ∈ (s.restart comp cause).fwc.restarting := by
  obtain ⟨detail, heq⟩ := s.restart_eq comp cause
  have hrestarting : (s.restarted comp detail).fwc.restarting = insertNat comp s.fwc.restarting := congrArg FirmView.restarting (s.restarted_firm comp detail)
  rw [heq, if_neg hr, hrestarting]
  exact ⟨(mem_insertNat ..).mpr (.inl rfl), fun c hc => (mem_insertNat ..).mpr (.inr hc)⟩

theorem State.restart_restarts (s : State) (comp cause : Nat) : (comp, s.stg.stage) ∈ (s.restart comp cause).fwc.restarts := by
  obtain ⟨detail, heq⟩ := s.restart_eq comp cause
  have hrestarts : (comp, s.stg.stage) ∈ (s.restarted comp detail).fwc.restarts := by
    rw [show (s.restarted comp detail).fwc.restarts = _ from congrArg FirmView.restarts (s.restarted_firm comp detail)]
    exact List.mem_append_right _ (List.mem_singleton_self _)
  rw [heq]
  split
  · rwa [State.enterLimp_restarts]
  · exact hrestarts

/-- MAP's restart leaves no host command waiting, limp mode or not. -/
theorem State.restart_waits (s : State) (cause : Nat) :
    (s.restart 3 cause).waits = ⟨[], [], s.xlt.plain.filter fun p => p.what.tag.isNone, s.xlt.landWaits.filter fun w => w.units.isNone⟩ := by
  obtain ⟨detail, heq⟩ := s.restart_eq 3 cause
  rw [heq]
  split
  · rw [State.enterLimp_waits, State.restarted_waits]
  · exact s.restarted_waits detail

/-- A restart of a component that holds no work touches no unit. -/
theorem State.restart_units {comp : Nat} (hc : ∀ u : State, u.restartEffect comp = u) (cause : Nat) : (s.restart comp cause).units = s.units := by
  obtain ⟨detail, heq⟩ := s.restart_eq comp cause
  have hunits : (s.restarted comp detail).units = s.units := by
    rw [State.restarted, hc]
    exact (units_of_service (State.event_service ..)).trans rfl
  rw [heq]
  split
  · rw [State.enterLimp_units, hunits]
  · exact hunits

/-! ### Watchdogs of the main cores (R477) -/

/-- A main core holds no component, one, or the last two. -/
theorem coreComponents_cases (core : Nat) :
    coreComponents core = [] ∨ (∃ c, coreComponents core = [c] ∧ c < 8) ∨ coreComponents core = [6, 7] := by
  unfold coreComponents
  split <;> simp

theorem mainRuns_iff : s.mainRuns = true ↔ s.powered = true ∧ s.boot.ph.firmware = true ∧ s.fwc.limp = none := by
  simp [State.mainRuns, and_assoc]

/-- Where limp mode has not followed, every component of the core is under restart. -/
theorem mainWatchdogExpiry_restarting (hm : s.mainRuns = true) (core : Nat) (hl : (mainWatchdogExpiry core s).fwc.limp = none) :
    ∀ c ∈ coreComponents core, c ∈ (mainWatchdogExpiry core s).fwc.restarting := by
  obtain ⟨hp, hb, hn⟩ := mainRuns_iff.mp hm
  have hone : ∀ (u : State) (c : Nat), u.fwc.limp = none → (u.restart c 5).fwc.limp = none → ¬ 3 ≤ u.recentRestarts c := fun u c hu h h3 => by
    rw [u.restart_limp c 5 hu, if_pos h3] at h
    cases h
  unfold mainWatchdogExpiry at hl ⊢
  obtain hc | ⟨c, hc, -⟩ | hc := coreComponents_cases core
  · simp [hc]
  · simp only [hc, List.foldl_cons, List.foldl_nil, hm, if_true] at hl ⊢
    simpa using (s.restart_restarting (hone s c hn hl)).1
  · simp only [hc, List.foldl_cons, List.foldl_nil, hm, if_true] at hl ⊢
    have hunits := s.restart_units (comp := 6) (fun _ => rfl) 5
    have hboot : (s.restart 6 5).boot = s.boot := congrArg UnitView.boot hunits
    have hsix : (s.restart 6 5).fwc.limp = none := by
      rcases h6 : (s.restart 6 5).fwc.limp with - | k
      · rfl
      · simp [State.mainRuns, h6] at hl
    have hruns : (s.restart 6 5).mainRuns = true := mainRuns_iff.mpr ⟨(powered_of_units hunits).trans hp, by rw [hboot, hb], hsix⟩
    rw [if_pos hruns] at hl ⊢
    obtain ⟨h7, hkeep⟩ := (s.restart 6 5).restart_restarting (cause := 5) (hone _ 7 hsix hl)
    obtain ⟨h6, -⟩ := s.restart_restarting (cause := 5) (hone s 6 hn hsix)
    simpa using ⟨hkeep 6 h6, h7⟩

end Sys2Proof.Machine
end


section
/-! PROOFS. Errors in their queue, the handler, and the actions of FATAL errors by their objects (R482 to R485). -/

namespace Sys2Proof.Machine

variable {s t : State}

/-! ### An error enters the queue (R482, R484) -/

/-- An error of an object none of whose errors is being handled: firmware's state after it. -/
theorem raiseError_fwc {o : Obj} (hfresh : ∀ e ∈ s.fwc.errq, e.obj = o → e.taken = true → e.raised = true) (cls : ErrClass) :
    (raiseError cls o s).fwc =
      if cls = .fatal then
        if 4 ≤ (s.fwc.errq.filter fun e => e.cls == .fatal).length then { s.fwc with direct := s.fwc.direct ++ [o] }
        else { s.fwc with errq := s.fwc.errq ++ [⟨cls, o, s.stamp, false, false⟩] }
      else if 60 ≤ (s.fwc.errq.filter fun e => e.cls != .fatal).length then
        { s.fwc with health := { s.fwc.health with overflow := s.fwc.health.overflow + 1 } }
      else { s.fwc with errq := s.fwc.errq ++ [⟨cls, o, s.stamp, false, false⟩] } := by
  have hagain : (s.fwc.errq.any fun e => e.obj == o && e.taken && !e.raised) = false := by
    rw [List.any_eq_false]
    intro e he h
    simp only [Bool.and_eq_true, beq_iff_eq, Bool.not_eq_true'] at h
    obtain ⟨⟨ho, ht⟩, hr⟩ := h
    rw [hfresh e he ho ht] at hr
    cases hr
  unfold raiseError
  simp only [hagain, Bool.false_eq_true, if_false]
  split <;> split <;> rfl

/-- An error of an object whose error is being handled raises that error too, by one class. -/
theorem raiseError_raises {e : Err} (he : e ∈ s.fwc.errq) (ht : e.taken = true) (hr : e.raised = false) (cls : ErrClass) :
    { e with cls := errUp e.cls, raised := true } ∈ (raiseError cls e.obj s).fwc.errq := by
  have hagain : (s.fwc.errq.any fun x => x.obj == e.obj && x.taken && !x.raised) = true :=
    List.any_eq_true.mpr ⟨e, he, by simp [ht, hr]⟩
  have hmem : { e with cls := errUp e.cls, raised := true } ∈
      updateIf (fun x => x.obj == e.obj && x.taken && !x.raised) (fun x => { x with cls := errUp x.cls, raised := true }) s.fwc.errq :=
    List.mem_map.mpr ⟨e, he, by simp [ht, hr]⟩
  unfold raiseError
  simp only [hagain, if_true]
  split <;> split
  · exact hmem
  · exact List.mem_append_left _ hmem
  · exact hmem
  · exact List.mem_append_left _ hmem

theorem raiseError_mailboxDrops (cls : ErrClass) (o : Obj) (s : State) : (raiseError cls o s).fwc.mailboxDrops = s.fwc.mailboxDrops := by
  unfold raiseError
  extract_lets q again c q' e u
  split <;> split <;> rfl

/-! ### The handler's next entry (R482) -/

/-- An entry that waits below FATAL before every other one is the next. -/
theorem nextErr_of_least {q : List Err} {e : Err} (he : e ∈ q) (hcls : e.cls ≠ .fatal) (ht : e.taken = false)
    (hleast : ∀ f ∈ q, f.cls ≠ .fatal → f.taken = false → f = e ∨ e.stamp < f.stamp) : nextErr q = some e := by
  have hstep : ∀ (l : List Err) (b : Option Err), l ⊆ q → (e ∈ l ∨ b = some e) → (∀ x, b = some x → x = e ∨ e.stamp < x.stamp) →
      l.foldl (fun (b : Option Err) e => if e.cls == .fatal || e.taken then b else match b with
        | some x => if e.stamp < x.stamp then some e else b
        | none => some e) b = some e := by
    intro l
    induction l with
    | nil => intro b _ h _; simpa using h
    | cons f l ih =>
      intro b hl hmem hb
      have hf : f ∈ q := hl List.mem_cons_self
      have hl' : l ⊆ q := fun x hx => hl (List.mem_cons_of_mem _ hx)
      rw [List.foldl_cons]
      by_cases hskip : f.cls = .fatal ∨ f.taken = true
      · have hne : f ≠ e := fun h => by
          rw [h] at hskip
          simp [hcls, ht] at hskip
        rw [if_pos (by simpa using hskip)]
        refine ih b hl' (hmem.imp_left fun h => ?_) hb
        exact (List.mem_cons.mp h).resolve_left (Ne.symm hne)
      · obtain ⟨hfc, hft⟩ := not_or.mp hskip
        have hfe := hleast f hf hfc (Bool.eq_false_iff.mpr hft)
        rw [if_neg (by simpa using hskip)]
        cases b with
        | none =>
          refine ih _ hl' ?_ (fun x hx => by cases hx; exact hfe)
          simpa [eq_comm, or_comm] using hmem
        | some x =>
          have hx := hb x rfl
          dsimp only
          split
          · next hlt =>
            refine ih _ hl' ?_ (fun y hy => by cases hy; exact hfe)
            rcases hmem with h | h
            · rcases List.mem_cons.mp h with h | h
              · exact .inr (by rw [h])
              · exact .inl h
            · cases h
              exact .inr (hfe.elim (fun h => by rw [h]) fun h => absurd h (by omega))
          · next hlt =>
            refine ih _ hl' ?_ hb
            rcases hmem with h | h
            · rcases List.mem_cons.mp h with h | h
              · exact .inr (hx.elim (fun h' => by rw [h']) fun h' => absurd h' (h ▸ hlt))
              · exact .inl h
            · exact .inr h
  exact hstep q none (fun _ h => h) (.inl he) (fun x hx => by cases hx)

/-- The handler takes it. -/
theorem errorHandle_takes (hm : s.mainRuns = true) (htaken : ∀ e ∈ s.fwc.errq, e.taken = true → e.cls = .fatal) {e : Err} (he : e ∈ s.fwc.errq)
    (hcls : e.cls ≠ .fatal) (ht : e.taken = false) (hleast : ∀ f ∈ s.fwc.errq, f.cls ≠ .fatal → f.taken = false → f = e ∨ e.stamp < f.stamp) :
    errorHandle true s = s ∧ errorHandle false s = s.takeErr e := by
  have hnone : (s.fwc.errq.find? fun e => e.taken && e.cls != .fatal) = none := by
    rw [List.find?_eq_none]
    intro f hf h
    simp only [Bool.and_eq_true, bne_iff_ne] at h
    exact h.2 (htaken f hf h.1)
  simp [errorHandle, hm, hnone, nextErr_of_least he hcls ht hleast]

/-- An entry marked as being handled. -/
def State.markErr (s : State) (e : Err) : State :=
  { s with fwc := { s.fwc with errq := s.fwc.errq.map fun x => if x = e then { x with taken := true } else x } }

theorem State.mem_markErr {e : Err} (he : e ∈ s.fwc.errq) : { e with taken := true } ∈ (s.markErr e).fwc.errq := List.mem_map.mpr ⟨e, he, if_pos rfl⟩

theorem State.takeErr_of_note {e : Err} (h : e.cls = .note) : s.takeErr e = { s with fwc := { s.fwc with errq := s.fwc.errq.erase e } } := if_pos h

theorem State.takeErr_of_recoverable {e : Err} (h : e.cls = .recoverable) : s.takeErr e = s.markErr e := by
  simp [State.takeErr, State.markErr, h]

theorem State.takeErr_of_severe {e : Err} (h : e.cls = .severe) :
    s.takeErr e = if e.obj.kind = 9 then (s.markErr e).restart e.obj.index 4
      else { s.markErr e with fwc := { (s.markErr e).fwc with retest := s.fwc.retest ++ [e.obj] } } := by
  simp [State.takeErr, State.markErr, h]

/-- What taking an entry leaves, by its class. -/
theorem State.takeErr_effect {e : Err} (he : e ∈ s.fwc.errq) (hl : s.fwc.limp = none) :
    (e.cls = .note → (s.takeErr e).fwc.errq = s.fwc.errq.erase e) ∧
    (e.cls = .recoverable → { e with taken := true } ∈ (s.takeErr e).fwc.errq ∧ (s.takeErr e).fwc.retest = s.fwc.retest) ∧
    (e.cls = .severe → e.obj.kind ≠ 9 → { e with taken := true } ∈ (s.takeErr e).fwc.errq ∧ (s.takeErr e).fwc.retest = s.fwc.retest ++ [e.obj]) ∧
    (e.cls = .severe → e.obj.kind = 9 → (s.takeErr e).fwc.limp = none → e.obj.index ∈ (s.takeErr e).fwc.restarting) := by
  refine ⟨fun h => ?_, fun h => ?_, fun h hk => ?_, fun h hk hn => ?_⟩
  · rw [State.takeErr_of_note h]
  · rw [State.takeErr_of_recoverable h]
    exact ⟨State.mem_markErr he, rfl⟩
  · rw [State.takeErr_of_severe h, if_neg hk]
    exact ⟨State.mem_markErr he, rfl⟩
  · rw [State.takeErr_of_severe h, if_pos hk] at hn ⊢
    refine (State.restart_restarting fun h3 => ?_).1
    rw [State.restart_limp _ _ _ (show (s.markErr e).fwc.limp = none from hl), if_pos h3] at hn
    cases hn

/-! ### FATAL errors act (R485) -/

/-- An entry struck from the queue. -/
def State.withoutErr (s : State) (e : Err) : State := { s with fwc := { s.fwc with errq := s.fwc.errq.erase e } }

theorem fatalAction_acts (hp : s.powered = true) (hd : s.fwc.direct = []) {e : Err} (he : firstFatal s.fwc.errq = some e)
    (hlt : stampStage e.stamp < s.stg.stage) : fatalAction s = (s.withoutErr e).actFatal e.obj := by
  simp [fatalAction, hp, hd, he, hlt, State.withoutErr]

theorem fatalAction_waits (hp : s.powered = true) (hd : s.fwc.direct = []) {e : Err} (he : firstFatal s.fwc.errq = some e)
    (hle : s.stg.stage ≤ stampStage e.stamp) : fatalAction s = s := by
  simp [fatalAction, hp, hd, he, Nat.not_lt.mpr hle]

theorem fatalAction_none (hp : s.powered = true) (hd : s.fwc.direct = []) (he : firstFatal s.fwc.errq = none) : fatalAction s = s := by
  simp [fatalAction, hp, hd, he]

theorem State.actFatal_limp (s : State) (index : Nat) : (s.actFatal ⟨0, index⟩).fwc.limp = if s.fwc.limp.isSome then s.fwc.limp else some 7 := by
  refine (State.limp_enterLimp _ 7).trans ?_
  rw [limp_of_firm (firm_of_service (State.fatalEvent_service ..))]

/-- A core or component whose FATAL error has no other action: limp mode. -/
theorem State.actFatal_limp_isSome (s : State) {o : Obj} (hk : o.kind = 7 ∨ o.kind = 9) : (s.actFatal o).fwc.limp.isSome = true := by
  obtain ⟨kind, index⟩ := o
  have hsome : ∀ (u : State) (c : Nat), (u.enterLimp c).fwc.limp.isSome = true := fun u c => by
    rw [State.limp_enterLimp]
    split
    · assumption
    · rfl
  obtain rfl | rfl := hk
  · exact hsome _ _
  · exact hsome _ _

/-- The scheduler core or the power core: the module turns itself off. -/
theorem State.actFatal_off (hp : s.powered = true) {index : Nat} (hi : index < 2) :
    (s.actFatal ⟨8, index⟩).pwr.heldOff = true ∧ (s.actFatal ⟨8, index⟩).fwc.off = true ∧ (s.actFatal ⟨8, index⟩).pwr.seq = .quiesce ∧
      (s.actFatal ⟨8, index⟩).pwr.trigger = 7 := by
  have hpwr : (s.fatalEvent ⟨8, index⟩ [3]).pwr = s.pwr := pwr_of_service (State.fatalEvent_service ..)
  have hact : s.actFatal ⟨8, index⟩ = ({ s.fatalEvent ⟨8, index⟩ [3] with
      pwr := { (s.fatalEvent ⟨8, index⟩ [3]).pwr with heldOff := true }, fwc := { (s.fatalEvent ⟨8, index⟩ [3]).fwc with off := true } } : State).startSequence 7 :=
    if_pos hi
  generalize s.fatalEvent ⟨8, index⟩ [3] = u at hpwr hact
  simp only [State.powered, Bool.and_eq_true, beq_iff_eq] at hp
  obtain ⟨⟨-, hrails⟩, hseq⟩ := hp
  rw [hact, State.startSequence_off, State.startSequence_pwr (by rw [hpwr]; exact hrails) (by rw [hpwr]; exact hseq)]
  exact ⟨rfl, rfl, rfl, rfl⟩

/-- A team's control core: its coaches are out. -/
theorem State.actFatal_team (s : State) {index : Nat} (hi : 2 ≤ index) : (s.actFatal ⟨8, index⟩).teamServes (index - 2) = false := by
  have hact : s.actFatal ⟨8, index⟩ = ((s.teamLeaves (index - 2)).fatalEvent ⟨8, index⟩ [4]).fatalUnit false := if_neg (Nat.not_lt.mpr hi)
  rw [hact, teamServes_of_units (State.fatalUnit_units ..), teamServes_of_units (units_of_service (State.fatalEvent_service ..)), State.teamServes_teamLeaves]

theorem State.fatalEvent_ses (s : State) (o : Obj) (detail : List Nat) : (s.fatalEvent o detail).ses = s.ses :=
  (State.asyncEvent_posts ..).quiet.ses.trans (State.event_ses ..)

theorem State.fatalEvent_ns (s : State) (o : Obj) (detail : List Nat) : (s.fatalEvent o detail).ns = s.ns :=
  (State.asyncEvent_posts ..).ns.trans (State.event_ns ..)

/-- A namespace turns read-only. -/
theorem State.actFatal_readOnly (s : State) (index : Nat) : ∀ n, (s.actFatal ⟨10, index⟩).ns? (index + 1) = some n → n.readOnly = true := by
  intro n hn
  have hns : (s.actFatal ⟨10, index⟩).ns? (index + 1) = (s.updNs (index + 1) fun n => { n with readOnly := true }).ns? (index + 1) :=
    congrArg (fun v : NsTab => v.list.find? fun x : Ns => x.nsid == index + 1) (State.fatalEvent_ns ..)
  rw [hns, State.ns?_updNs s (f := fun n => { n with readOnly := true }) fun _ => rfl] at hn
  obtain ⟨m, hm, rfl⟩ := Option.map_eq_some_iff.mp hn
  rw [if_pos (State.nsid_of_ns? hm)]

theorem sess?_freeSession (s : State) (n : Nat) : (freeSession n s).sess? n = none := by
  rcases hx : s.sess? n with - | x
  · rw [freeSession, hx]
    exact hx
  · rw [State.sess?_congr (freeSession_ses hx), State.sess?, List.find?_eq_none]
    intro y hy
    simpa using s.releaseSession_no_number n x y hy

/-- A session is freed. -/
theorem State.actFatal_session (s : State) (index : Nat) : (s.actFatal ⟨11, index⟩).sess? index = none := by
  have hfreed : (match s.drawNat.2.sess? index with
      | some _ => freeSession index (s.drawNat.2.abortWork index 1)
      | none => s.drawNat.2).sess? index = none := by
    split
    · exact sess?_freeSession ..
    · assumption
  exact (State.sess?_congr (State.fatalEvent_ses ..) index).trans hfreed

/-- A unit leaves service, and limp mode follows where that needs it. -/
theorem State.actFatal_unit (s : State) {o : Obj} (h1 : 1 ≤ o.kind) (h6 : o.kind ≤ 6) :
    ∃ system, s.actFatal o = ((s.leaveService o).fatalEvent o [4]).fatalUnit system ∧ (o.kind ≠ 4 → system = false) := by
  refine ⟨o.kind == 4 && s.drm.present.contains o.index && s.systemSlots o.index != 0, ?_, fun h4 => by simp [h4]⟩
  unfold State.actFatal
  split
  case h_8 => rfl
  all_goals omega

/-- It is out of service, and limp mode stands where a count lies below its minimum. -/
theorem State.actFatal_leaves (s : State) {o : Obj} (h1 : 1 ≤ o.kind) (h6 : o.kind ≤ 6) :
    (s.actFatal o).inService o = false ∧
      (o.kind ≠ 4 → s.fwc.limp = none → ((s.actFatal o).belowMinimum = true ↔ (s.actFatal o).fwc.limp = some 6)) := by
  obtain ⟨system, hact, hsystem⟩ := s.actFatal_unit h1 h6
  have hevent := State.fatalEvent_service (s.leaveService o) o [4]
  refine ⟨?_, fun h4 hl => ?_⟩
  · rw [hact, inService_of_units (State.fatalUnit_units ..), inService_of_units (units_of_service hevent), State.leaveService_inService]
  · rw [hact, hsystem h4]
    refine State.fatalUnit_limp ?_
    rw [limp_of_firm (firm_of_service hevent), limp_of_firm (s.leaveService_firm o), hl]

/-! ### Retests (R483) -/

theorem State.endHandling_units (s : State) (o : Obj) : (s.endHandling o).units = s.units := rfl
theorem State.endHandling_retest (s : State) (o : Obj) : (s.endHandling o).fwc.retest = s.fwc.retest := rfl
theorem State.leaveService_retest (s : State) (o : Obj) : (s.leaveService o).fwc.retest = s.fwc.retest := congrArg FirmView.retest (s.leaveService_firm o)

/-- A unit that fails its retest is out of service, and no longer waits for it. -/
theorem unitRetest_fails (hm : s.mainRuns = true) {o : Obj} {rest : List Obj} (hq : s.fwc.retest = o :: rest) :
    (unitRetest false s).fwc.retest = rest ∧ (unitRetest false s).inService o = false := by
  have heq : unitRetest false s = ((({ s with fwc := { s.fwc with retest := rest } } : State).leaveService o).warn).endHandling o := by
    simp [unitRetest, hq, hm]
  rw [heq, State.endHandling_retest, State.warn_fwc, State.leaveService_retest]
  refine ⟨rfl, ?_⟩
  rw [inService_of_units (State.endHandling_units ..), inService_of_units (units_of_service (State.warn_service _)), State.leaveService_inService]

end Sys2Proof.Machine

namespace Sys2Proof.Proofs

open Sys2Proof.Machine

/-- Settles O60: the queue, the handler, FATAL actions by object, retests, restarts, watchdogs and mailboxes, one after the other. -/
theorem errorsAreQueuedHandledAndActedOn : Obligations.ErrorsAreQueuedHandledAndActedOn := by
  unfold Obligations.ErrorsAreQueuedHandledAndActedOn
  refine ⟨fun cls o s hp => ⟨fun hfresh => ?_, fun e he ho ht hr => ?_⟩, fun s hm htaken e he hcls ht hleast => ?_, fun s hm e hfind hcls => ?_, fun s hp hd => ?_,
    fun o rest s hm hq => ?_, fun comp cause s hm hc => ?_, fun core s hm => ?_, fun sender receiver msg s hm => ?_⟩
  · have hraise : ∀ c, exec (.errorRaise c o) s = .next (raiseError c o s) := fun c => congrArg Host.Outcome.next (if_pos hp)
    have hfwc := raiseError_fwc hfresh
    intro many
    refine ⟨fun hc hn => ⟨_, hraise cls, ?_⟩, fun hc hn => ⟨_, hraise cls, ?_⟩, fun hc hn => ⟨_, hraise cls, ?_⟩, fun hc hn => ⟨_, hraise cls, ?_⟩⟩
    · rw [hfwc, if_neg hc, if_neg (by simpa [many] using hn)]
    · rw [hfwc, if_neg hc, if_pos (by simpa [many] using hn)]
      exact ⟨rfl, rfl⟩
    · rw [hfwc, if_pos hc, if_neg (by simpa [many] using hn)]
    · rw [hfwc, if_pos hc, if_pos (by simpa [many] using hn)]
  · subst ho
    exact ⟨_, congrArg Host.Outcome.next (if_pos hp), raiseError_raises he ht hr cls⟩
  · obtain ⟨hended, htakes⟩ := errorHandle_takes hm htaken he hcls ht hleast
    obtain ⟨-, -, hn⟩ := mainRuns_iff.mp hm
    obtain ⟨hnote, hrec, hsev, hcomp⟩ := State.takeErr_effect he hn
    exact ⟨congrArg Host.Outcome.next hended, _, congrArg Host.Outcome.next htakes, hnote, hrec, hsev, fun h hk _ => hcomp h hk⟩
  · constructor
    · exact congrArg Host.Outcome.next (by simp [errorHandle, hm, hfind, hcls])
    · exact congrArg Host.Outcome.next (by simp [errorHandle, hm, hfind, hcls])
  · refine ⟨fun h => congrArg Host.Outcome.next (fatalAction_none hp hd h), fun e he => ⟨fun hle => congrArg Host.Outcome.next (fatalAction_waits hp hd he hle), fun hlt => ?_⟩⟩
    have hact := fatalAction_acts hp hd he hlt
    intro acts
    have hacts : ∀ p : State → Prop, p ((s.withoutErr e).actFatal e.obj) → acts p := fun p h => ⟨_, congrArg Host.Outcome.next hact, h⟩
    clear_value acts
    generalize e.obj = o at hacts ⊢
    obtain ⟨kind, index⟩ := o
    refine ⟨?_, fun hk => ?_, ?_, ?_, ?_, ?_, fun h1 h6 => ?_⟩
    · rintro rfl
      exact hacts _ (State.actFatal_limp ..)
    · exact hacts _ (State.actFatal_limp_isSome _ hk)
    · rintro rfl hi
      exact hacts _ (State.actFatal_off (s := s.withoutErr e) hp hi)
    · rintro rfl hi -
      exact hacts _ (State.actFatal_team _ hi)
    · rintro rfl
      exact hacts _ fun n => State.actFatal_readOnly _ index n
    · rintro rfl -
      exact hacts _ (State.actFatal_session ..)
    · obtain ⟨hout, hlimp⟩ := (s.withoutErr e).actFatal_leaves (o := ⟨kind, index⟩) h1 h6
      refine hacts _ ⟨hout, fun hk hs => hlimp ?_ ?_⟩
      · rintro rfl
        simp at hk
      · exact Option.not_isSome_iff_eq_none.mp (Bool.eq_false_iff.mp (Bool.or_eq_false_iff.mp hs).1)
  · refine ⟨congrArg Host.Outcome.next ?_, _, rfl, unitRetest_fails hm hq⟩
    simp [unitRetest, hq, hm]
  · obtain ⟨-, -, hn⟩ := mainRuns_iff.mp hm
    have hrestart : componentRestart comp cause s = s.restart comp cause := by simp [componentRestart, hm, hc]
    have hlimp := s.restart_limp comp cause hn
    intro recent
    refine ⟨⟨_, congrArg Host.Outcome.next hrestart, s.restart_restarts comp cause, fun h => hlimp.trans (if_pos h),
      fun h => ⟨hlimp.trans (if_neg (Nat.not_le.mpr h)), (State.restart_restarting (Nat.not_le.mpr h)).1⟩, ?_⟩, fun hin => ⟨?_, _, rfl, ?_⟩, fun hout ok => ?_⟩
    · rintro rfl
      have hwaits := s.restart_waits cause
      refine ⟨congrArg WaitView.caps hwaits, congrArg WaitView.leaves hwaits, fun p hp => ?_, fun w hw => ?_⟩
      · rw [show (s.restart 3 cause).xlt.plain = _ from congrArg WaitView.plain hwaits] at hp
        simpa using (List.mem_filter.mp hp).2
      · rw [show (s.restart 3 cause).xlt.landWaits = _ from congrArg WaitView.lands hwaits] at hw
        simpa using (List.mem_filter.mp hw).2
    · exact congrArg Host.Outcome.next (by simp [componentRestartComplete, hm, hin])
    · have heq : componentRestartComplete comp false s =
          (({ s with fwc := { s.fwc with restarting := s.fwc.restarting.erase comp } } : State).endHandling ⟨9, comp⟩).enterLimp 2 := by
        simp [componentRestartComplete, hm, hin]
      rw [heq, State.limp_enterLimp, if_neg]
      simp [State.endHandling, hn]
    · exact congrArg Host.Outcome.next (by simp [componentRestartComplete, hout])
  · obtain ⟨hp, -, -⟩ := mainRuns_iff.mp hm
    refine ⟨⟨_, rfl, mainWatchdogExpiry_restarting hm core⟩, fun c hc => ?_, fun h => ?_, fun h => ?_, fun h2 h18 => ⟨_, rfl, ?_⟩⟩
    · have h8 : c < 8 := by
        obtain h | ⟨d, h, hd⟩ | h := coreComponents_cases core
        · simp [h] at hc
        · rw [h] at hc
          cases hc
          exact hd
        · simp [h] at hc
      exact congrArg Host.Outcome.next (by simp [mainWatchdogExpiry, componentRestart, hc, hm, h8])
    · exact congrArg Host.Outcome.next (by simp [fallbackWatchdogExpiry, h])
    · have heq : fallbackWatchdogExpiry core s = raiseError .fatal ⟨8, core⟩ s := by
        simp [fallbackWatchdogExpiry, hp, h, Nat.not_le.mpr (show core < 18 by omega)]
      refine ⟨congrArg Host.Outcome.next (heq.trans (if_pos hp).symm), _, congrArg Host.Outcome.next heq, fun hother => ?_⟩
      have hfwc := raiseError_fwc (o := ⟨8, core⟩) (fun e he ho => absurd ho (hother e he)) .fatal
      rw [hfwc, if_pos rfl]
      split
      · exact .inr (List.mem_append_right _ (List.mem_singleton_self _))
      · exact .inl (List.mem_append_right _ (List.mem_singleton_self _))
    · have heq : fallbackWatchdogExpiry core s = s.teamLeaves (core - 2) := by
        simp [fallbackWatchdogExpiry, hp, Nat.not_le.mpr h18, Nat.not_lt.mpr h2]
      rw [heq]
      exact ⟨s.teamServes_teamLeaves _, fun h => State.teamLeaves_topoGen h⟩
  · obtain ⟨hp, -, -⟩ := mainRuns_iff.mp hm
    intro whole
    refine ⟨fun h => congrArg Host.Outcome.next ?_, fun h => ?_⟩
    · obtain ⟨hlen, hcrc⟩ := h
      simp [mailboxMessage, hlen, hcrc]
    · have heq : mailboxMessage sender receiver msg s =
          raiseError .recoverable ⟨9, sender⟩ { s with fwc := { s.fwc with mailboxDrops := s.fwc.mailboxDrops + 1 } } := by
        refine if_neg ?_
        simpa [whole, hm] using h
      refine ⟨⟨_, congrArg Host.Outcome.next heq, raiseError_mailboxDrops ..⟩, congrArg Host.Outcome.next (heq.trans ?_)⟩
      exact (if_pos hp).symm

end Sys2Proof.Proofs
end


section
/-! PROOFS. The bank and its cap, and the flush sequencer (R324, R341, R427 to R432). -/

namespace Sys2Proof.Machine

variable {s t : State}

/-! ### Landing leaves the power unit alone (R317, R335, R338, R341) -/

theorem State.touchLeaf_service (s : State) (k : Nat) (changed : Bool) : (s.touchLeaf k changed).service = s.service := by
  unfold State.touchLeaf
  dsimp only
  split
  · split
    · refine (State.withXlt_service rfl rfl rfl rfl).trans ?_
      split
      · exact (State.writeLeafList_service ..).trans (State.withXlt_service rfl rfl rfl rfl)
      · exact State.withXlt_service rfl rfl rfl rfl
    · exact State.withXlt_service rfl rfl rfl rfl
  · exact State.withXlt_service rfl rfl rfl rfl

/-- A leaf sensed first where its copy in flash is needed. -/
theorem plainSense_if_service (c : Prop) [Decidable c] (s : State) (a : CwAddr) (n : Nat) : (if c then s else s.plainSense a n).service = s.service := by
  split
  · rfl
  · exact State.plainSense_service ..

theorem State.setEntry_service (s : State) (ns unit : Nat) (e : BitVec 64) : (s.setEntry ns unit e).service = s.service := by
  unfold State.setEntry
  exact (State.touchLeaf_service ..).trans ((State.withXlt_service rfl rfl rfl rfl).trans (plainSense_if_service ..))

theorem State.mapFault_service (s : State) (ns unit : Nat) : (s.mapFault ns unit).service = s.service :=
  (State.event_service ..).trans ((State.withHealth_service ..).trans (State.setEntry_service ..))

theorem State.mendLeaf_service (s : State) (ns leaf : Nat) : (s.mendLeaf ns leaf).service = s.service := by
  refine foldl_view (view := State.service) (fun u i => ?_) _ s
  split
  · rfl
  · exact State.withXlt_service rfl rfl rfl rfl

theorem State.mended_service (s : State) (ns unit : Nat) : (s.mended ns unit).service = s.service := by
  unfold State.mended
  split
  · rfl
  · exact (State.touchLeaf_service ..).trans ((State.mendLeaf_service ..).trans (plainSense_if_service ..))

theorem State.fillUnit_service (s : State) (b : BufUnit) : (s.fillUnit b).service = s.service := by
  unfold State.fillUnit
  extract_lets at_ bad
  split
  · rfl
  · refine (State.event_service ..).trans ?_
    split
    · exact State.mapFault_service ..
    · rfl

theorem State.beginOp_service (s : State) (die n : Nat) (w : DieWork) : (s.beginOp die w n).service = s.service := rfl

theorem State.issueSet_service (s : State) (sb row chan stream : Nat) (pages : List PlaneWords) (units : List (Nat × Nat × Nat)) (sess : Option Nat) :
    (s.issueSet sb row chan stream pages units sess).2.service = s.service := by
  have hmark : (if s.xlt.cleanMark then s.pushMark false else s).service = s.service := by
    split
    · exact State.putMark_service ..
    · rfl
  have hseats : ∀ u : State, (if sess.isSome then u else u.freeSeats chan (4 * pages.length)).service = u.service := fun u => by
    split
    · rfl
    · exact u.freeSeats_service ..
  unfold State.issueSet
  dsimp only
  generalize (if s.xlt.cleanMark then s.pushMark false else s) = v at hmark ⊢
  split
  · exact (v.secondProgram_service ..).trans hmark
  · refine Eq.trans ?_ hmark
    exact (State.beginOp_service ..).trans ((State.withXlt_service rfl rfl rfl rfl).trans ((State.stampTo_service ..).trans ((State.putPages_service ..).trans (hseats v))))

theorem State.placeSet_service (stream : Nat) (may : State → Bool) (ok : Nat → Bool) (sel : BufUnit → Bool) (sess : Option Nat) (s : State) :
    (State.placeSet stream may ok sel sess s).2.service = s.service := by
  have hplace := State.nextPlace_service stream false may ok 4 s
  unfold State.placeSet
  split
  · rfl
  · split
    · next hp => rw [hp] at hplace; exact hplace
    · next v hp =>
      rw [hp] at hplace
      extract_lets ps us w
      have hw : w.service = s.service := by
        refine (foldl_view (view := State.service) (fun u p => ?_) us v).trans hplace
        exact u.fillUnit_service p.2
      have hissue := w.issueSet_service
      split
      · next hi => exact ((congrArg (fun x => x.2.service) hi).symm.trans (hissue ..)).trans hw
      · next hi => exact (State.withXlt_service rfl rfl rfl rfl).trans (((congrArg (fun x => x.2.service) hi).symm.trans (hissue ..)).trans hw)

theorem placeStream_service (stream : Nat) (may : State → Bool) (fuel : Nat) (s : State) : (placeStream stream may fuel s).service = s.service := by
  induction fuel generalizing s with
  | zero => rfl
  | succ fuel ih =>
    have hset := State.placeSet_service stream may (fun _ => true) (fun b => !s.awaitsProgram b) none s
    rw [placeStream]
    split
    · next hp => rw [hp] at hset; exact (ih _).trans hset
    · next hp => rw [hp] at hset; exact hset

/-! ### The flush sequencer (R324) -/

theorem State.startPlain_pwr (s : State) (what : PlainFor) (ws : List CwAddr) (readOut : Bool) : (s.startPlain what ws readOut).pwr = s.pwr :=
  foldl_view (view := State.pwr) (fun u _ => pwr_of_service (u.queueSense_service ..)) _ s

theorem State.startFills_pwr (s : State) : s.startFills.pwr = s.pwr := by
  refine foldl_view (view := State.pwr) (fun u b => ?_) _ s
  exact (State.startPlain_pwr ..).trans (pwr_of_service (u.mended_service ..))

theorem flushSets_pwr (fuel : Nat) (blocked : List Nat) (s : State) : (flushSets fuel blocked s).pwr = s.pwr := by
  induction fuel generalizing blocked s with
  | zero => rfl
  | succ fuel ih =>
    rw [flushSets]
    split
    · rfl
    · split
      · rfl
      · exact (ih ..).trans (pwr_of_service (placeStream_service ..))

/-- The last programs of the flush leave of the power unit that they have been issued. -/
theorem State.spill_pwr (s : State) : s.spill.pwr = { s.pwr with spilled := true } := by
  have hpwr := (State.firmwareSet_service (State.firmwareWrite 13 (fun _ => true) s.spillWords.length s.spillWords s).2 12 (fun _ => true) (fun _ => true)
    (logWords (State.firmwareWrite 13 (fun _ => true) s.spillWords.length s.spillWords s).2.fwc.events)).trans (State.firmwareWrite_service ..)
  rw [State.spill, ← pwr_of_service hpwr]

theorem flushMore_seq (s : State) : (flushMore s).pwr.seq = s.pwr.seq := by
  unfold flushMore
  split
  · extract_lets xlt u v
    have hu : u.pwr = s.pwr := State.startFills_pwr _
    have hv : v.pwr = s.pwr := (flushSets_pwr _ _ u).trans hu
    split
    · rw [State.spill_pwr, hv]
    · rw [hv]
  · rfl

/-! ### The dirty cap and the bank (R427 to R432) -/

theorem energyOver_pos (c v : Nat) (low : Bool) : 0 < (energyOver c v low).2 := by
  unfold energyOver
  dsimp only
  split
  · exact Nat.one_pos
  · split
    · exact Nat.one_pos
    · exact Nat.succ_pos 6

theorem dirtyCap_bounds (c v n : Nat) (low : Bool) : dirtyCap c v n low = 0 ∨ (16 ≤ dirtyCap c v n low ∧ dirtyCap c v n low ≤ 256) := by
  have hd := energyOver_pos c v low
  unfold dirtyCap
  dsimp only
  generalize (energyOver c v low).2 = d at hd ⊢
  generalize (energyOver c v low).1 * n * 11 = b
  split
  · exact .inl rfl
  · next hb =>
    have h16 : 16 ≤ b / (144 * d * 67108864) := (Nat.le_div_iff_mul_le (by omega)).mpr (by omega)
    exact .inr ⟨by omega, by omega⟩

theorem State.protect_pwr (s : State) : s.protect.pwr = { s.pwr with prot := true } := by
  refine (foldl_view (view := State.pwr) (fun u w => ?_) _ _).trans ?_
  · exact pwr_of_service (u.fail_posts w.tag .writeProtected).service
  · rfl

theorem State.protect_capWaits (s : State) : s.protect.xlt.capWaits = [] := by
  refine (foldl_view (view := fun u => u.xlt.capWaits) (fun u w => ?_) _ _).trans ?_
  · exact congrArg Xlt.capWaits (u.fail_posts w.tag .writeProtected).xlt
  · rfl

/-- The cap of the present stage. -/
def State.capNow (s : State) : Nat := if s.pwr.bank == .fault then 0 else dirtyCap s.pwr.cMeas s.pwr.vbank s.fla.channels.length s.capLow

theorem State.capNow_of_fault (h : s.pwr.bank = .fault) : s.capNow = 0 := if_pos (by rw [h]; rfl)

/-- During a measurement the cap is that at V_chg less 1.0 V, and of a bank that is ready that at V_chg (R429). -/
theorem State.capNow_of_measuring (h : s.pwr.bank = .measuring) : s.capNow = dirtyCap s.pwr.cMeas s.pwr.vbank s.fla.channels.length true := by
  have hlow : s.capLow = true := by rw [State.capLow, h]; rfl
  rw [State.capNow, hlow, if_neg (by rw [h]; decide)]

theorem State.capNow_of_ready (h : s.pwr.bank = .ready) : s.capNow = dirtyCap s.pwr.cMeas s.pwr.vbank s.fla.channels.length false := by
  have hlow : s.capLow = false := by rw [State.capLow, h]; rfl
  rw [State.capNow, hlow, if_neg (by rw [h]; decide)]

/-- The cap is set; at 0 PROTECTED stands, from 16 units on it is clear, and writes that waited have been answered where it rises. -/
theorem State.capTick_pwr (s : State) :
    ∃ prot, s.capTick.pwr = { s.pwr with cap := s.capNow, prot := prot } ∧ (s.capNow = 0 → prot = true) ∧ (16 ≤ s.capNow → prot = false) ∧
      s.capTick.xlt.capWaits.length ≤ s.xlt.capWaits.length := by
  have heq : s.capTick = if s.capNow = 0 then (if s.pwr.prot then { s with pwr := { s.pwr with cap := s.capNow } } else
      ({ s with pwr := { s.pwr with cap := s.capNow } } : State).protect)
    else if 16 ≤ s.capNow then { s with pwr := { s.pwr with cap := s.capNow, prot := false } }
    else { s with pwr := { s.pwr with cap := s.capNow } } := rfl
  rw [heq]
  split
  · next h0 =>
    split
    · next hp => exact ⟨true, by rw [← hp], fun _ => rfl, fun h => absurd h (by omega), le_rfl⟩
    · exact ⟨true, State.protect_pwr _, fun _ => rfl, fun h => absurd h (by omega), by rw [State.protect_capWaits]; exact Nat.zero_le _⟩
  · next h0 =>
    split
    · exact ⟨false, rfl, fun h => absurd h h0, fun _ => rfl, le_rfl⟩
    · next h16 => exact ⟨s.pwr.prot, rfl, fun h => absurd h h0, fun h => absurd h h16, le_rfl⟩

/-- The same after the warnings. -/
theorem State.capTick_warn_pwr (s : State) :
    ∃ prot, s.capTick.warn.pwr = { s.pwr with cap := s.capNow, prot := prot } ∧ (s.capNow = 0 → prot = true) ∧ (16 ≤ s.capNow → prot = false) ∧
      s.capTick.warn.xlt.capWaits.length ≤ s.xlt.capWaits.length := by
  rw [pwr_of_service s.capTick.warn_posts.service, s.capTick.warn_posts.xlt]
  exact s.capTick_pwr

end Sys2Proof.Machine
end


section
/-! PROOFS. The power-loss sequence from its triggers to the rails' fall, HOLD and the configuration bus (R324, R325, R433 to R445). -/

namespace Sys2Proof.Machine

variable {s t : State}

/-- The bank in a state of its own. -/
def State.withBank (s : State) (b : Bank) : State := { s with pwr := { s.pwr with bank := b } }

/-! ### Quiesce (R433, R434, R436) -/

/-- What the sequence's start leaves, by its trigger. -/
def State.Stopped (s : State) (trigger : Nat) (t : State) : Prop :=
  t.pwr.seq = .quiesce ∧ t.pwr.trigger = trigger ∧ t.pwr.lossStage = s.stg.stage ∧
    t.que.done = [] ∧ t.xlt.capWaits = [] ∧ t.xlt.landWaits = [] ∧ t.xlt.leafWaits = [] ∧ t.xlt.buf = s.xlt.buf ∧ t.fla = { s.fla with seatDebt := [], recov := [] } ∧
    (∀ x ∈ t.ses.list, x.queued = [] ∧ ∀ r, x.run = some r → r.fault ≠ 0) ∧ t.powered = false ∧
    ∃ e ∈ t.fwc.events, e.code = 0x0012 ∧ e.detail.getD 0 0 = BitVec.ofNat 8 trigger

/-- With the stamp start behind it, a module's log holds an event that it records. -/
theorem State.event_mem (hl : s.stg.loaded = true) (code cls source : Nat) (o : Obj) (detail : Bytes) :
    ⟨s.stamp, s.fwc.total + 1, code, cls, source, o, fit 36 detail⟩ ∈ (s.event code cls source o detail).fwc.events := by
  have hevents : (s.event code cls source o detail).fwc.events =
      newest 64 (s.fwc.events ++ [⟨s.stamp, s.fwc.total + 1, code, cls, source, o, fit 36 detail⟩]) := by
    simp [State.event, State.eventAt, hl, State.nextCycle]
  rw [hevents]
  exact List.mem_of_getLast? (newest_getLast 63 ..)

/-- The sequence's start stops every run and drops what waits. -/
theorem State.startSequence_stopped (hr : s.pwr.rails = true) (hq : s.pwr.seq = .none) (hl : s.stg.loaded = true) (trigger : Nat) :
    s.Stopped trigger (s.startSequence trigger) := by
  obtain ⟨u, plain, hu, heq⟩ := s.startSequence_eq hr hq trigger
  have hmem := State.event_mem hl 0x0012 0 0x81 noObj ([BitVec.ofNat 8 trigger] ++ toLe 8 (s.xlt.buf.length * 16384))
  rw [← hu] at hmem
  rw [heq]
  refine ⟨rfl, rfl, rfl, rfl, rfl, rfl, rfl, rfl, rfl, fun x hx => ?_, by simp [State.powered], _, hmem, rfl, rfl⟩
  obtain ⟨y, -, rfl⟩ := List.mem_map.mp hx
  refine ⟨rfl, fun r hrun => ?_⟩
  obtain ⟨r', -, rfl⟩ := Option.map_eq_some_iff.mp hrun
  split
  · exact Nat.succ_ne_zero 4
  · assumption

/-- SEATED opens: the same state stops, but for the pin. -/
theorem seatedOpen_stopped (hr : s.pwr.rails = true) (hq : s.pwr.seq = .none) (hl : s.stg.loaded = true) : s.Stopped 6 (seatedOpen s) :=
  State.startSequence_stopped (s := { s with pwr := { s.pwr with seated := false } }) hr hq hl 6

theorem holdAssert_stopped (hh : s.pwr.hold = false) (hr : s.pwr.rails = true) (hq : s.pwr.seq = .none) (hl : s.stg.loaded = true) :
    s.Stopped 4 (holdAssert s) := by
  have heq : holdAssert s = ({ s with pwr := { s.pwr with hold := true, standby := true } } : State).startSequence 4 := by
    simp [holdAssert, hh, hr]
  rw [heq]
  exact State.startSequence_stopped (s := { s with pwr := { s.pwr with hold := true, standby := true } }) hr hq hl 4

theorem State.event_loaded (s : State) (code cls source : Nat) (o : Obj) (detail : Bytes) : (s.event code cls source o detail).stg.loaded = s.stg.loaded := by
  unfold State.event State.eventAt
  dsimp only
  split <;> rfl

/-- A state that differs in the log and the power unit alone stops as well. -/
theorem State.Stopped.of_eq {u : State} {trigger : Nat} (h : u.Stopped trigger t) (hstage : u.stg.stage = s.stg.stage) (hxlt : u.xlt = s.xlt) (hfla : u.fla = s.fla) :
    s.Stopped trigger t := by
  unfold State.Stopped at h ⊢
  rwa [hstage, hxlt, hfla] at h

/-- Held off by its temperature until the input is removed or HOLD is released. -/
def State.shutHot (s : State) : State := { s with pwr := { s.pwr with thermalOff := true, heldOff := true } }

section
variable (hp : s.powered = true) (hhot : 16 ≤ s.pwr.hotRun)
include hp hhot

/-- A thermal shutdown, logged, holds the module off and starts the sequence. -/
theorem thermalShutdown_eq :
    ∃ u : State, u = s.event 0x0013 0 0x81 noObj [BitVec.ofNat 8 (hottest s.pwr.temps)] ∧ thermalShutdown s = u.shutHot.startSequence 5 := by
  refine ⟨_, rfl, ?_⟩
  simp [thermalShutdown, State.shutHot, hp, hhot]

theorem thermalShutdown_stopped (hl : s.stg.loaded = true) :
    s.Stopped 5 (thermalShutdown s) ∧ (thermalShutdown s).pwr.heldOff = true ∧ (thermalShutdown s).pwr.standby = s.pwr.standby ∧
      (thermalShutdown s).pwr.rails = true := by
  obtain ⟨u, hu, heq⟩ := thermalShutdown_eq hp hhot
  simp only [State.powered, Bool.and_eq_true, beq_iff_eq] at hp
  obtain ⟨⟨-, hrails⟩, hseq⟩ := hp
  have hpwr : u.pwr = s.pwr := by rw [hu, State.event_pwr]
  have hrails' : u.shutHot.pwr.rails = true := (congrArg Pwr.rails hpwr).trans hrails
  have hseq' : u.shutHot.pwr.seq = .none := (congrArg Pwr.seq hpwr).trans hseq
  have hstandby : u.shutHot.pwr.standby = s.pwr.standby := (congrArg Pwr.standby hpwr).trans rfl
  have hloaded : u.shutHot.stg.loaded = true := by rw [State.shutHot, hu, State.event_loaded, hl]
  have hstop := State.startSequence_stopped hrails' hseq' hloaded 5
  have hheld := State.startSequence_pwr hrails' hseq' 5
  rw [heq, hheld]
  refine ⟨hstop.of_eq ?_ ?_ ?_, rfl, hstandby, hrails'⟩
  · rw [State.shutHot, hu, State.event_stage]
  · rw [State.shutHot, hu, State.event_xlt]
  · rw [State.shutHot, hu, State.event_fla]

end

/-- A module with its rails up is not brought up again. -/
theorem bringUpStart_of_rails (hr : s.pwr.rails = true) : bringUpStart s = s := by simp [bringUpStart, hr]

theorem bringUpStart_of_held (h : s.pwr.hold = true ∨ s.pwr.heldOff = true) : bringUpStart s = s := by
  rcases h with h | h <;> simp [bringUpStart, h]

/-! ### The flush and its end (R324, R325, R358, R437) -/

theorem flushSequenceStart_of_busy (h : s.pwr.seq ≠ .quiesce ∨ (∃ o ∈ s.fla.ops, o.ended = false ∧ o.starts ≤ s.stg.stage) ∨ s.stg.stage ≤ s.pwr.lossStage) :
    flushSequenceStart s = s := by
  refine if_neg fun hgo => ?_
  simp only [Bool.and_eq_true, beq_iff_eq, decide_eq_true_eq, Bool.not_eq_true', List.any_eq_false] at hgo
  obtain ⟨⟨⟨-, hq⟩, hops⟩, hlate⟩ := hgo
  rcases h with h | ⟨o, ho, hend, hst⟩ | h
  · exact h hq
  · exact hops o ho (by simp [hend, hst])
  · omega

theorem flushSequenceStart_seq (hr : s.pwr.rails = true) (hq : s.pwr.seq = .quiesce) (hops : ∀ o ∈ s.fla.ops, o.ended = true ∨ s.stg.stage < o.starts)
    (hlate : s.pwr.lossStage < s.stg.stage) : (flushSequenceStart s).pwr.seq = .flush := by
  have hnone : (s.fla.ops.any fun o => !o.ended && decide (o.starts ≤ s.stg.stage)) = false := by
    rw [List.any_eq_false]
    intro o ho h
    simp only [Bool.and_eq_true, Bool.not_eq_true', decide_eq_true_eq] at h
    exact (hops o ho).elim (fun he => by rw [he] at h; cases h.1) fun hs => absurd h.2 (Nat.not_le.mpr hs)
  unfold flushSequenceStart
  rw [if_pos (by simp [hr, hq, hnone, hlate])]
  exact flushMore_seq _

/-- An operation under way is not dropped. -/
theorem State.mem_unqueue {o : DieOp} (ho : o ∈ s.fla.ops) (hst : o.starts ≤ s.stg.stage) (keep : DieOp → Bool) : o ∈ (s.unqueue keep).fla.ops := by
  refine List.mem_filter.mpr ⟨ho, ?_⟩
  simp [Nat.not_lt.mpr hst]

theorem State.loseUnwritten_fla (s : State) : s.loseUnwritten.fla = s.fla := rfl
theorem State.loseUnwritten_acc (s : State) : s.loseUnwritten.xlt.acc = [] := rfl

/-- What had been flushed before the cut. -/
def State.atCut (s : State) : State :=
  if (s.unqueue fun _ => false).pwr.spilled && (s.unqueue fun _ => false).xlt.sets.isEmpty then s.unqueue fun _ => false else (s.unqueue fun _ => false).loseUnwritten

theorem State.atCut_fla (s : State) : s.atCut.fla = (s.unqueue fun _ => false).fla := by
  unfold State.atCut
  split
  · rfl
  · exact State.loseUnwritten_fla _

/-- Plane blocks whose erase is cut. -/
def State.cutErases (s : State) : List Nat :=
  s.atCut.fla.ops.flatMap fun o => match o.work with
    | .erase b ps => if o.ended then [] else ps.map fun q => pbKey o.die q b
    | _ => []

theorem State.interrupt_eraseCut (s : State) : s.interrupt.fla.eraseCut = s.cutErases.foldl (fun l pb => insertNat pb l) s.atCut.fla.eraseCut := rfl

theorem State.mem_interrupt_eraseCut {o : DieOp} (ho : o ∈ s.fla.ops) (hst : o.starts ≤ s.stg.stage) (hend : o.ended = false) {b : Nat} {ps : List Nat}
    (hw : o.work = .erase b ps) {q : Nat} (hq : q ∈ ps) : pbKey o.die q b ∈ s.interrupt.fla.eraseCut := by
  rw [State.interrupt_eraseCut, mem_insertAll]
  refine .inl (List.mem_flatMap.mpr ⟨o, ?_, ?_⟩)
  · rw [State.atCut_fla]
    exact State.mem_unqueue ho hst _
  · rw [hw]
    simpa [hend] using ⟨q, hq, rfl⟩

theorem State.interrupt_acc (hs : s.pwr.spilled = false) : s.interrupt.xlt.acc = [] := by
  have hcut : s.atCut = (s.unqueue fun _ => false).loseUnwritten := if_neg (by simp [State.unqueue, hs])
  calc s.interrupt.xlt.acc = s.atCut.xlt.acc := rfl
    _ = [] := by rw [hcut, State.loseUnwritten_acc]

theorem State.interrupt_bleeding (s : State) : ({ s with pwr := { s.pwr with bleeding := true } } : State).interrupt.pwr.bleeding = true := by
  show (State.atCut { s with pwr := { s.pwr with bleeding := true } }).pwr.bleeding = true
  unfold State.atCut
  split <;> rfl

/-! ### The configuration bus (R445) -/

theorem Tab.getD_getBytes (d : Byte) (t : Table Byte) (i n k : Nat) (hk : k < n) : (Tab.getBytes d t i n).getD k 0 = Tab.get d t (i + k) := by
  induction n generalizing i k with
  | zero => omega
  | succ n ih =>
    cases k with
    | zero => rfl
    | succ k =>
      rw [Tab.getBytes, List.getD_cons_succ, ih (i + 1) k (by omega)]
      congr 1
      omega

section
variable {addr len : Nat} {data : Bytes} (hj : s.pwr.busJoined = true) (hh : s.pwr.hold = true) (hs : s.pwr.standby = true) (hfits : addr + len ≤ 0x4000000)
include hj hh hs hfits

theorem configBusTransfer_write (hlen : data.length = len) :
    configBusTransfer true addr len data s = { s with boot := { s.boot with cfg := Tab.putBytes 0xFF s.boot.cfg addr data } } := by
  have hn : min len (0x4000000 - addr) = data.length := by omega
  simp only [configBusTransfer, hj, hh, hs, hn, List.take_length, Bool.and_self, Bool.not_true, Bool.false_eq_true, if_false, if_true]

theorem configBusTransfer_read :
    configBusTransfer false addr len data s = { s with boot := { s.boot with cfgOut := Tab.getBytes 0xFF s.boot.cfg addr len } } := by
  have hn : min len (0x4000000 - addr) = len := by omega
  simp only [configBusTransfer, hj, hh, hs, hn, Bool.and_self, Bool.not_true, Bool.false_eq_true, if_false]

end

theorem configBusTransfer_of_off (h : s.pwr.busJoined = false ∨ s.pwr.hold = false) (write : Bool) (addr len : Nat) (data : Bytes) :
    configBusTransfer write addr len data s = s := by
  refine if_pos ?_
  rcases h with h | h <;> simp [h]

end Sys2Proof.Machine

namespace Sys2Proof.Proofs

open Sys2Proof.Machine

variable {s : State}

/-- The bank's measurements and charges, a powered module's (R429). -/
theorem bank_measures_and_charges (c : Nat) (s : State) (hp : s.powered = true) :
    (s.pwr.bank = .ready → (s.pwr.measured = false ∨ s.pwr.measStage + 8589934592 ≤ s.stg.stage) → vchg s.pwr.cMeas ≤ s.pwr.vbank + 10 →
      s.xlt.buf.length * 16384 ≤ dirtyCap s.pwr.cMeas s.pwr.vbank s.fla.channels.length true * 67108864 → ∃ t : State, exec .bankMeasure s = .next t ∧
        t.pwr.bank = .measuring ∧ t.pwr.cap = dirtyCap s.pwr.cMeas s.pwr.vbank s.fla.channels.length true) ∧
    (s.pwr.bank ≠ .ready ∨ (s.pwr.measured = true ∧ s.stg.stage < s.pwr.measStage + 8589934592) ∨ s.pwr.vbank + 10 < vchg s.pwr.cMeas →
      exec .bankMeasure s = .next s) ∧
    (s.pwr.bank = .measuring ∨ s.pwr.faultMeas = true → c < 1024 → ∃ t : State, exec (.bankMeasureComplete c) s = .next t ∧ t.pwr.cMeas = c ∧ t.pwr.measured = true ∧
      t.pwr.measStage = s.stg.stage ∧ (78 ≤ c → t.pwr.bank = .charging) ∧ (c < 78 → t.pwr.bank = .fault ∧ t.pwr.cap = 0 ∧ t.pwr.prot = true)) ∧
    (s.pwr.bank = .charging → ∃ t : State, exec .bankChargeTimeout s = .next t ∧ t.pwr.bank = .fault ∧ t.pwr.cap = 0 ∧ t.pwr.prot = true ∧ t.xlt.capWaits.length ≤ s.xlt.capWaits.length) ∧
    (s.pwr.bank = .charging → ∃ t : State, exec .bankChargeComplete s = .next t ∧ t.pwr.bank = .ready ∧
      t.pwr.cap = dirtyCap s.pwr.cMeas s.pwr.vbank s.fla.channels.length false ∧ (16 ≤ t.pwr.cap → t.pwr.prot = false)) ∧
    (s.pwr.bank = .fault → ∃ t : State, exec .bankChargeComplete s = .next t ∧ t.pwr.faultMeas = true ∧ t.pwr.bank = .fault) := by
  refine ⟨fun hb hdue hv hbuf => ?_, fun h => ?_, fun hb hc => ?_, fun hb => ?_, fun hb => ?_, fun hb => ?_⟩
  · have heq : bankMeasure s = (s.withBank .measuring).capTick.warn := if_pos (by simp [hp, hb, hv, hbuf, hdue])
    obtain ⟨prot, hpwr, -⟩ := (s.withBank .measuring).capTick_warn_pwr
    refine ⟨_, congrArg Host.Outcome.next heq, ?_⟩
    rw [hpwr]
    exact ⟨rfl, State.capNow_of_measuring (s := s.withBank .measuring) rfl⟩
  · refine congrArg Host.Outcome.next (if_neg fun hgo => ?_)
    simp only [Bool.and_eq_true, beq_iff_eq, Bool.or_eq_true, Bool.not_eq_true', decide_eq_true_eq] at hgo
    obtain ⟨⟨⟨⟨-, hb⟩, hdue⟩, hv⟩, -⟩ := hgo
    rcases h with h | ⟨hm, hlt⟩ | h
    · exact h hb
    · rw [hm] at hdue
      simp at hdue
      omega
    · omega
  · have hgo : ¬ (!s.powered || !(s.pwr.bank == .measuring || s.pwr.faultMeas)) = true := by
      rcases hb with hb | hb <;> simp [hp, hb]
    obtain ⟨u, hupwr, heq⟩ : ∃ u : State, u.pwr = { s.pwr with
        cMeas := c % 1024, measured := true, measStage := s.stg.stage, faultMeas := false, bank := if c < 78 then .fault else .charging } ∧
        bankMeasureComplete c s = u.capTick.warn := by
      refine ⟨_, ?_, if_neg hgo⟩
      exact State.event_pwr ..
    refine ⟨_, congrArg Host.Outcome.next heq, ?_⟩
    obtain ⟨prot, hpwr, hzero, -⟩ := u.capTick_warn_pwr
    rw [hpwr, hupwr]
    refine ⟨Nat.mod_eq_of_lt hc, rfl, rfl, fun h => if_neg (Nat.not_lt.mpr h), fun h => ?_⟩
    have hcap : u.capNow = 0 := State.capNow_of_fault (by rw [hupwr]; exact if_pos h)
    exact ⟨if_pos h, hcap, hzero hcap⟩
  · have heq : bankChargeTimeout s = (s.withBank .fault).capTick.warn := if_pos (by simp [hp, hb])
    obtain ⟨prot, hpwr, hzero, -, hwaits⟩ := (s.withBank .fault).capTick_warn_pwr
    have hcap : (s.withBank .fault).capNow = 0 := State.capNow_of_fault rfl
    refine ⟨_, congrArg Host.Outcome.next heq, ?_⟩
    rw [hpwr]
    exact ⟨rfl, hcap, hzero hcap, hwaits⟩
  · have heq : bankChargeComplete s = (s.withBank .ready).capTick.warn := by
      simp [bankChargeComplete, State.withBank, hp, hb]
    obtain ⟨prot, hpwr, -, hclear, -⟩ := (s.withBank .ready).capTick_warn_pwr
    refine ⟨_, congrArg Host.Outcome.next heq, ?_⟩
    rw [hpwr]
    exact ⟨rfl, State.capNow_of_ready (s := s.withBank .ready) rfl, hclear⟩
  · have heq : bankChargeComplete s = { s with pwr := { s.pwr with faultMeas := true } } := by
      simp [bankChargeComplete, hp, hb]
    exact ⟨_, congrArg Host.Outcome.next heq, rfl, hb⟩

/-- Every trigger starts the sequence, and what belongs to a sequence has no part in a module in which none is under way (R433, R434). -/
theorem triggers_start_the_sequence (hr : s.pwr.rails = true) (hq : s.pwr.seq = .none) (hl : s.stg.loaded = true) :
    let stops := fun (i : Instr) (trigger : Nat) => ∃ t : State, exec i s = .next t ∧ s.Stopped trigger t
    stops .powerLoss 1 ∧ stops (.railFault false) 2 ∧ stops .overvoltage 3 ∧ (s.pwr.hold = false → stops .holdAssert 4) ∧ stops .seatedOpen 6 ∧
    (s.pwr.standby = true → 16 ≤ s.pwr.hotRun → stops .thermalShutdown 5 ∧ ∃ t : State, exec .thermalShutdown s = .next t ∧ t.pwr.heldOff = true ∧ t.faultPin = true ∧
      exec .bringUpStart t = .next t) ∧
    (s.pwr.hotRun < 16 → exec .thermalShutdown s = .next s) ∧
    ((s.pwr.standby = true → s.port.width ≠ 0 → ∃ t : State, exec (.railFault true) s = .next t ∧ t.port.width = 0 ∧ t.pwr = s.pwr)) ∧
    exec .flushSequenceStart s = .next s ∧ exec .holdupEnergyExhausted s = .next s ∧ exec .powerOff s = .next s ∧ exec .bringUpStart s = .next s ∧
    exec .standbyRailOff s = .next s := by
  intro stops
  have hpowered : s.pwr.standby = true → s.powered = true := fun h => by simp [State.powered, h, hr, hq]
  have hstart : ∀ trigger, s.Stopped trigger (s.startSequence trigger) := State.startSequence_stopped hr hq hl
  refine ⟨⟨_, rfl, hstart 1⟩, ⟨_, rfl, hstart 2⟩, ⟨_, rfl, hstart 3⟩, fun hh => ⟨_, rfl, holdAssert_stopped hh hr hq hl⟩, ⟨_, rfl, seatedOpen_stopped hr hq hl⟩,
    fun hs hhot => ?_, fun hcool => ?_, fun hs hw => ?_, ?_, ?_, ?_, ?_, ?_⟩
  · obtain ⟨hstop, hheld, hstandby, hrails⟩ := thermalShutdown_stopped (hpowered hs) hhot hl
    refine ⟨⟨_, rfl, hstop⟩, _, rfl, hheld, ?_, congrArg Host.Outcome.next (bringUpStart_of_rails hrails)⟩
    simp [State.faultPin, hheld, hstandby, hs]
  · exact congrArg Host.Outcome.next (by simp [thermalShutdown, Nat.not_le.mpr hcool])
  · have heq : railFault true s = s.linkDown := by simp [railFault, hpowered hs, hw]
    exact ⟨_, congrArg Host.Outcome.next heq, rfl, rfl⟩
  · exact congrArg Host.Outcome.next (flushSequenceStart_of_busy (.inl (by simp [hq])))
  · exact congrArg Host.Outcome.next (by simp [holdupEnergyExhausted, hq])
  · exact congrArg Host.Outcome.next (by simp [powerOff, hq])
  · exact congrArg Host.Outcome.next (bringUpStart_of_rails hr)
  · exact congrArg Host.Outcome.next (if_pos hr)

/-- A sequence under way goes on to its flush, its cut and the fall of the rails (R324, R325, R433, R437). -/
theorem sequence_flushes_and_ends (hr : s.pwr.rails = true) (hq : s.pwr.seq ≠ .none) :
    exec .powerLoss s = .next s ∧ exec (.railFault false) s = .next s ∧ exec .overvoltage s = .next s ∧
    (s.pwr.seq = .quiesce → (∀ o ∈ s.fla.ops, o.ended = true ∨ s.stg.stage < o.starts) → s.pwr.lossStage < s.stg.stage → ∃ t : State, exec .flushSequenceStart s = .next t ∧ t.pwr.seq = .flush) ∧
    ((∃ o ∈ s.fla.ops, o.ended = false ∧ o.starts ≤ s.stg.stage) ∨ s.stg.stage ≤ s.pwr.lossStage → exec .flushSequenceStart s = .next s) ∧
    (s.fromInput = true → exec .holdupEnergyExhausted s = .next s) ∧
    (s.fromInput = false → ∃ t : State, exec .holdupEnergyExhausted s = .next t ∧ t.pwr.energyGone = true ∧ t.fla.ops = [] ∧ t.xlt.sets = [] ∧
      (s.pwr.spilled = false → t.xlt.acc = []) ∧
      (∀ o ∈ s.fla.ops, o.starts ≤ s.stg.stage → o.ended = false → ∀ b ps, o.work = .erase b ps → ∀ q ∈ ps, pbKey o.die q b ∈ t.fla.eraseCut) ∧ t.flushOver = true) ∧
    (s.pwr.seated = false → ∃ t : State, exec .bankBleedSwitch s = .next t ∧ t.pwr.bleeding = true ∧ t.pwr.energyGone = true ∧ t.fla.ops = []) ∧
    (s.flushOver = false → exec .powerOff s = .next s) ∧
    (s.flushOver = true → ∃ t : State, exec .powerOff s = .next t ∧ t.pwr.rails = false ∧ t.pwr.seq = .off ∧ t.boot.mode = .off ∧ t.stg.loaded = false ∧
      t.coa = {} ∧ t.fab = {} ∧ t.drm = {} ∧ t.que = {} ∧ t.ses = {} ∧ t.ans = {} ∧ t.xlt.buf = [] ∧
      t.sec.fuses = s.sec.fuses ∧ t.boot.cfg = s.boot.cfg ∧ t.fla.gen = s.fla.gen ∧
      t.ns.list = s.ns.list.map nsOff ∧ (∀ n, (nsOff n).key = n.key ∧ (nsOff n).size = n.size ∧ (nsOff n).created = n.created) ∧
      t.fla.words = s.fla.words ∧ t.xlt.acc = s.xlt.acc) := by
  have hnone : ∀ trigger, s.startSequence trigger = s := State.startSequence_of_off (.inr hq)
  refine ⟨congrArg Host.Outcome.next (hnone 1), congrArg Host.Outcome.next (hnone 2), congrArg Host.Outcome.next (hnone 3), fun hqq hops hlate => ⟨_, rfl, flushSequenceStart_seq hr hqq hops hlate⟩,
    fun h => congrArg Host.Outcome.next (flushSequenceStart_of_busy (.inr h)), fun h => ?_, fun h => ?_, fun h => ?_, fun h => ?_, fun h => ?_⟩
  · exact congrArg Host.Outcome.next (by simp [holdupEnergyExhausted, h])
  · have heq : holdupEnergyExhausted s = s.interrupt := if_pos (by simp [hr, hq, h])
    refine ⟨_, congrArg Host.Outcome.next heq, rfl, rfl, rfl, State.interrupt_acc, ?_, rfl⟩
    exact fun o ho hst hend b ps hw q hin => State.mem_interrupt_eraseCut ho hst hend hw hin
  · have heq : bankBleedSwitch s = ({ s with pwr := { s.pwr with bleeding := true } } : State).interrupt := by
      simp [bankBleedSwitch, h, hr, hq]
    exact ⟨_, congrArg Host.Outcome.next heq, State.interrupt_bleeding _, rfl, rfl⟩
  · exact congrArg Host.Outcome.next (by simp [powerOff, h])
  · have heq : powerOff s = s.powerDown := by simp [powerOff, hr, hq, h]
    exact ⟨_, congrArg Host.Outcome.next heq, rfl, rfl, rfl, rfl, rfl, rfl, rfl, rfl, rfl, rfl, rfl, rfl, rfl, rfl, rfl, fun n => ⟨rfl, rfl, rfl⟩, rfl, rfl⟩

/-- Bring-up starts from an off module that nothing holds; HOLD joins and isolates the bus (R423, R435, R441, R450). -/
theorem hold_and_input_start_the_module (s : State) :
    (s.boot.mode = .off → s.pwr.rails = false → s.pwr.hold = false → s.pwr.heldOff = false → ∃ t : State, exec .bringUpStart s = .next t ∧
      t.powered = true ∧ t.boot.mode = .bringUp ∧ t.fla.words = s.fla.words ∧ t.sec.fuses = s.sec.fuses ∧ t.boot.ph = {} ∧ t.port.conns = []) ∧
    (s.pwr.hold = true ∨ s.pwr.heldOff = true → exec .bringUpStart s = .next s) ∧
    (s.pwr.hold = true → s.pwr.rails = false → ∃ t : State, exec .holdRelease s = .next t ∧ t.powered = true ∧ t.boot.mode = .bringUp ∧ t.pwr.busJoined = false ∧
      t.pwr.heldOff = false ∧ t.boot.cfg = s.boot.cfg) ∧
    (s.pwr.hold = true → s.pwr.rails = true → ∃ t : State, exec .holdRelease s = .next t ∧ t.pwr.seq = s.pwr.seq ∧ t.pwr.heldOff = false ∧ t.boot = s.boot) ∧
    (s.pwr.rails = false → s.pwr.hold = false → ∃ t : State, exec .holdAssert s = .next t ∧ t.pwr.busJoined = true ∧ t.pwr.hold = true) ∧
    (s.pwr.rails = false → ∃ t : State, exec .standbyRailOff s = .next t ∧ t.pwr.standby = false ∧ t.pwr.heldOff = false ∧ t.faultPin = false) ∧
    (s.pwr.rails = false → s.pwr.seated = false → ∃ t : State, exec .bankBleedSwitch s = .next t ∧ t.pwr.bleeding = true ∧ t.fla = s.fla) := by
  refine ⟨fun hm hr hh hheld => ?_, fun h => congrArg Host.Outcome.next (bringUpStart_of_held h), fun hh hr => ?_, fun hh hr => ?_, fun hr hh => ?_, fun hr => ?_, fun hr hs => ?_⟩
  · have heq : bringUpStart s = s.softStart := if_pos (by simp [hm, hr, hh, hheld])
    exact ⟨_, congrArg Host.Outcome.next heq, rfl, rfl, rfl, rfl, rfl, rfl⟩
  · have heq : holdRelease s = ({ s with pwr := { s.pwr with hold := false, busJoined := false, heldOff := false } } : State).softStart := by
      simp [holdRelease, hh, hr]
    exact ⟨_, congrArg Host.Outcome.next heq, rfl, rfl, rfl, rfl, rfl⟩
  · have heq : holdRelease s = { s with pwr := { s.pwr with hold := false, busJoined := false, heldOff := false } } := by
      simp [holdRelease, hh, hr]
    exact ⟨_, congrArg Host.Outcome.next heq, rfl, rfl, rfl⟩
  · have heq : holdAssert s = { s with pwr := { s.pwr with hold := true, standby := true, busJoined := true, bleeding := true, vbank := 0 } } := by
      simp [holdAssert, hh, hr]
    exact ⟨_, congrArg Host.Outcome.next heq, rfl, rfl⟩
  · have heq : standbyRailOff s = { s with
        pwr := { s.pwr with standby := false, heldOff := false, thermalOff := false, busJoined := false }, fwc := { s.fwc with off := false } } :=
      if_neg (by simp [hr])
    exact ⟨_, congrArg Host.Outcome.next heq, rfl, rfl, rfl⟩
  · have heq : bankBleedSwitch s = { s with pwr := { s.pwr with bleeding := true } } := by
      simp [bankBleedSwitch, hr, hs]
    exact ⟨_, congrArg Host.Outcome.next heq, rfl, rfl⟩

/-- The serial bus moves the bytes of its transfer, and none while the module is not held on it (R445). -/
theorem bus_moves_its_bytes (addr len : Nat) (data : Bytes) (s : State) :
    (s.pwr.busJoined = true → s.pwr.hold = true → s.pwr.standby = true → addr + len ≤ 0x4000000 → data.length = len → 
      (∃ t : State, exec (.configBusTransfer true addr len data) s = .next t ∧ t.boot.cfgOut = s.boot.cfgOut ∧ 
        (Tab.wf 0xFF s.boot.cfg = true → ∀ a, Tab.get 0xFF t.boot.cfg a = if addr ≤ a ∧ a < addr + len then data.getD (a - addr) 0 else Tab.get 0xFF s.boot.cfg a)) ∧
      ∃ t : State, exec (.configBusTransfer false addr len data) s = .next t ∧ t.boot.cfg = s.boot.cfg ∧ t.boot.cfgOut.length = len ∧
        ∀ k, k < len → t.boot.cfgOut.getD k 0 = Tab.get 0xFF s.boot.cfg (addr + k)) ∧
    (s.pwr.busJoined = false ∨ s.pwr.hold = false → ∀ write, exec (.configBusTransfer write addr len data) s = .next s) := by
  refine ⟨fun hj hh hs hfits hlen => ⟨⟨_, congrArg Host.Outcome.next (configBusTransfer_write hj hh hs hfits hlen), rfl, fun hwf a => ?_⟩,
    _, congrArg Host.Outcome.next (configBusTransfer_read hj hh hs hfits), rfl, Tab.length_getBytes .., fun k hk => Tab.getD_getBytes _ _ _ _ _ hk⟩,
    fun h write => congrArg Host.Outcome.next (configBusTransfer_of_off h write ..)⟩
  rw [Tab.get_putBytes _ _ _ _ _ hwf, hlen]

/-- Settles O59: the bank, the triggers, the sequence under way, HOLD and the configuration bus, one after the other. -/
theorem powerLossStopsFlushesAndRestarts : Obligations.PowerLossStopsFlushesAndRestarts :=
  ⟨dirtyCap_bounds, bank_measures_and_charges, fun _ => triggers_start_the_sequence, fun _ => sequence_flushes_and_ends, hold_and_input_start_the_module,
    bus_moves_its_bytes⟩

end Sys2Proof.Proofs
end
